-- ==== Sys2Proof/Word.lean ====
section
/-! DEFINITION. Word.lean: the word types of the model and their plainest arithmetic. -/

namespace Sys2Proof

/-- A register of the window (R520). -/
abbrev Word := BitVec 32
/-- The smallest addressable unit of every memory. -/
abbrev Byte := BitVec 8

/-- Bits `lo` to `lo + len - 1` of a number. -/
def bits (n lo len : Nat) : Nat := (n >>> lo) % 2 ^ len

/-- `n` with bits `lo` to `lo + len - 1` replaced by the low `len` bits of `v`. -/
def putBits (n lo len v : Nat) : Nat :=
  n - (bits n lo len) * 2 ^ lo + (v % 2 ^ len) * 2 ^ lo

/-- The two's-complement reading of the low `w` bits of `n`. -/
def sext (w n : Nat) : Int :=
  let m := n % 2 ^ w
  if m < 2 ^ (w - 1) then (m : Int) else (m : Int) - (2 ^ w : Nat)

/-- An integer as a `w`-bit two's-complement number. -/
def toTwos (w : Nat) (i : Int) : Nat := (i % ((2 ^ w : Nat) : Int)).toNat

/-- An integer held to the range `lo` to `hi`. -/
def clampInt (i lo hi : Int) : Int := if i < lo then lo else if hi < i then hi else i

/-- A number held to the range `lo` to `hi`. -/
def clampNat (n lo hi : Nat) : Nat := if n < lo then lo else if hi < n then hi else n

/-- Division rounded up; 0 when the divisor is 0. -/
def ceilDiv (a b : Nat) : Nat := if b = 0 then 0 else (a + b - 1) / b

end Sys2Proof
end

