-- ==== Sys2Proof/Syntax.lean ====
section
/-! DEFINITION. Syntax.lean: the commands of the block (Instr, one constructor per row of spec/opcode_table.json) and the
data they carry. What the world outside the digital device decides (ADC codes, verify reads, temperatures, packets on a
wire, symbols a memory die returns) comes in as an operand (notes/assumptions/2.md). -/

namespace Sys2Proof

/-- The access paths of Table 15-3; `host` carries its port. -/
inductive Path where
  | controller | manager | host (q : Fin 4) | i3cRestricted | i3cFull | jtagMailbox | jtagDebug
  deriving DecidableEq, Repr

/-- The Rosder header of Table 9-3 with its payload (R337), fields as numbers. -/
structure Packet where
  ver : Nat
  type : Nat
  /-- FLAGS, byte 1. -/
  flags : Nat
  job : Nat
  gen : Nat
  /-- Byte 5. -/
  tc : Nat
  src : Nat
  dst : Nat
  wq : Nat
  psn : Nat
  /-- Bytes 16 to 17. -/
  crew : Nat
  len : Nat
  lseq : Nat
  lack : Nat
  /-- Byte 24, as an unsigned byte. -/
  xmax : Nat
  nakCode : Nat
  sent : Nat
  /-- Bytes 28 to 31. -/
  rsvd : Nat
  payload : List Byte
  deriving DecidableEq, Repr

/-- What a port receives (R332, R333, R357). -/
inductive Frame where
  /-- An intact frame that carries a Rosder packet. -/
  | good (pkt : Packet)
  /-- An intact frame of another protocol. -/
  | other
  /-- A bad FCS or an uncorrectable codeword: symbol errors by lane in the failed codewords, and how many codewords failed. -/
  | bad (lseq : Nat) (errs : List Nat) (words : Nat)
  /-- A frame that fails its MACsec check. -/
  | icv
  deriving DecidableEq, Repr

/-- The sender of a RoCEv2 packet of a host (R341, R352). -/
structure RocePeer where
  host : Fin 4
  /-- The device's work queue, and the host's queue pair. -/
  wq : Nat
  qp : Nat
  /-- Since the packet before it, firmware has bound the queue to this host port and queue pair, with a path MTU of 1,024, 2,048 or
  4,096 bytes (R341; notes/assumptions/127.md). -/
  bound : Option (Fin 3)
  deriving DecidableEq, Repr

/-- What a RoCEv2 packet of a host carries beside its request (R341, R352, R354). -/
structure Roce extends RocePeer where
  /-- Marked congestion-experienced. -/
  marked : Bool
  deriving DecidableEq, Repr

/-- The channels an urgent request may name (R179). -/
inductive HkUrgent where
  | hotSpot | lid | vcore
  deriving DecidableEq, Repr

/-- The converter sums a calibration unit ends with (R155, R158). -/
inductive CalSums where
  /-- cz of every column, and of the side converter. -/
  | off (cz : List Int) (side : Int)
  /-- cp and cn of every column, and of the side converter. -/
  | gain (cp cn : List Int) (sideP sideN : Int)
  /-- The 24 codes of each of the 16 reference columns. -/
  | drift (codes : List (List Int))
  deriving DecidableEq, Repr

/-- What a unit has found by the end of its hold (R120, R168). -/
inductive UnitResult where
  /-- The positions that fail the first and the second verify read, with their measured levels. -/
  | verify (failed1 failed2 : List (Nat × Int))
  | sums (sums : CalSums)
  deriving DecidableEq, Repr

/-- What an entry of a session program's list names, with the core at whose local address the descriptor lies: the spec gives an entry
one address and does not say how core and kind are told from it (notes/assumptions/53.md). -/
inductive SessUnit where
  | forward (core : Fin 1024) (addr : Nat)
  | job (core : Fin 1024) (addr : Nat)
  deriving DecidableEq, Repr

/-- How the session engine goes on with a request (R283): the new tokens it takes into a group that starts, and what the list entry
names that it comes to. -/
structure SessWork where
  group : Nat
  unit : SessUnit
  deriving DecidableEq, Repr

/-- ELEMWISE operations (Table 5-7). -/
inductive ElemOp where
  | add | mul | fma | max | scale
  deriving DecidableEq, Repr

/-- A tensor of a vector kernel: its elements dense from a kernel address in a format of Table 5-2, the scale bytes of its
32-element segments, where the format has them, one after another from a second address (R181; log 11). -/
structure Tensor where
  addr : Nat
  fmt : Fin 11
  scale : Nat
  deriving DecidableEq, Repr

/-- Parameters of ELEMWISE: what its parameter block says, of which the spec gives no layout (log 11). -/
structure ElemPar where
  op : ElemOp
  a : Tensor
  b : Tensor
  c : Tensor
  dst : Tensor
  n : Nat
  deriving DecidableEq, Repr

/-- Parameters of ROWNORM (Table 5-7; notes/assumptions/11.md). -/
structure RowPar where
  src : Tensor
  gain : Tensor
  eps : Word
  dst : Tensor
  rrms : Tensor
  rows : Nat
  width : Nat
  deriving DecidableEq, Repr

/-- Parameters of SOFTMAX (Table 5-7; notes/assumptions/11.md): the arrays whose tiles make up its rows, in the order it takes
them; `mask` is the mask tensor, added to the scores. -/
structure SoftPar where
  order : List (Fin 8)
  scale : Word
  mask : Tensor
  dst : Tensor
  rmax : Tensor
  rsum : Tensor
  deriving DecidableEq, Repr

/-- What an on-chip request carries of the domain that issued it: its unit code and its generation (R461). -/
structure Issuer where
  unit : Nat
  gen : Nat
  deriving DecidableEq, Repr

/-- An on-chip request of stack memory: who issued it, and the address of its first byte. -/
structure StackReq where
  issuer : Issuer
  addr : Nat
  deriving DecidableEq, Repr

/-- The symbols in error that the read of a partial write meets, and those that its second read meets (R311, R300). -/
structure MergeErrs where
  first : List Nat
  second : List Nat
  deriving DecidableEq, Repr

/-- What training has settled with the partner: the modes it permits, and the lanes that a mode of fewer lanes takes (R327, R328). -/
structure LinkTerms where
  modes : Nat
  lanes : Fin 16
  deriving DecidableEq, Repr

/-- A tile of a core. -/
structure TileAt where
  core : Fin 1024
  tile : Fin 16
  deriving DecidableEq, Repr

/-- A tensor block arriving at its destination memory (R313 to R316). -/
structure Block where
  issuer : Issuer
  /-- Destination: `none` names a stack address, `some e` the local memory of Eight e (an address of the model's store). -/
  eight : Option (Fin 128)
  dest : Nat
  source : Nat
  data : List Byte
  check : Nat
  poisonMap : Nat
  deriving DecidableEq, Repr

/-- The monitored units of Table 12-8. -/
inductive HangUnit where
  | ctx (core : Fin 1024) (ctx : Fin 17)
  | reduction
  | core (core : Fin 1024)
  | link (port : Fin 40)
  | memc (stack : Fin 12)
  | switch (eight : Fin 128)
  deriving DecidableEq, Repr

/-- One command of the block: one constructor per row of spec/opcode_table.json, in the table's order. -/
inductive Instr where
  /-- RESET_L_RISE (R492). -/
  | resetLRise (straps : Fin 4)
  /-- RESET_L_FALL (R558). -/
  | resetLFall (lowNs : Nat)
  /-- PWR_GOOD_FALL (R491). -/
  | pwrGoodFall
  /-- REFCLK_LOSS (R554). -/
  | refclkLoss
  /-- DISCOVERY_DONE (R497). -/
  | discoveryDone (sig1 sig2 : Bool) (mode : Fin 6)
  /-- CONFIG_READ_DONE (R503). -/
  | configReadDone (image : List Byte) (elapsedUs : Nat)
  /-- CONFIG_APPLY (R502). -/
  | configApply
  /-- DEVICE_READY (R494). -/
  | deviceReady
  /-- FUSE_BURN (R510). -/
  | fuseBurn
  /-- BEAT_EDGE (R32). -/
  | beatEdge (afterNs : Nat)
  /-- FLYWHEEL (R24). -/
  | flywheel
  /-- LOCK_RUN_END (R22). -/
  | lockRunEnd
  /-- LOSS_OF_LOCK (R26). -/
  | lossOfLock
  /-- BEAT_MARKER (R25). -/
  | beatMarker (port : Fin 40) (payload : List Byte)
  /-- SLOT_OVERRUN (R46). -/
  | slotOverrun (core : Fin 1024) (slot : Nat)
  /-- SLOT_COMPLETE (R45). -/
  | slotComplete (core : Fin 1024) (slot : Nat)
  /-- COX_RUN_SET (R47). -/
  | coxRunSet (path : Path) (core : Fin 1024)
  /-- COX_RUN_CLEAR (R47). -/
  | coxRunClear (path : Path) (core : Fin 1024)
  /-- LOCAL_CATCH_WRITE (R48). -/
  | localCatchWrite (path : Path) (value : Word)
  /-- LANE_PREP (R264). -/
  | lanePrep
  /-- READY_SEND (R49). -/
  | readySend
  /-- READY_RECEIVE (R50). -/
  | readyReceive (port : Fin 40) (pkt : Packet)
  /-- STRAGGLER_TIMEOUT (R54). -/
  | stragglerTimeout (crew : Fin 1024)
  /-- FWD_PRODUCT_ISSUE (R99). -/
  | fwdProductIssue (core : Fin 1024) (tile : Fin 16)
  /-- FWD_PRODUCT_DONE (R77). -/
  | fwdProductDone (core : Fin 1024) (tile : Fin 16) (codes : List (List Int)) (csum : List Int)
  /-- SESSION_PRODUCT_START (R103). -/
  | sessionProductStart (core : Fin 1024) (tile : Fin 16)
  /-- TILE_SESSION_REQUEST (R104). -/
  | tileSessionRequest (core : Fin 1024) (tile : Fin 16) (session : Fin 1024)
  /-- RBUDGET_WRITE (R89). -/
  | rbudgetWrite (path : Path) (core : Fin 1024) (tile : Fin 16) (value : Word)
  /-- ROW_WRITE_UNIT_START (R131). -/
  | rowWriteUnitStart (core : Fin 1024) (tile : Fin 16)
  /-- ROW_WRITE_UNIT_DONE (R120). -/
  | rowWriteUnitDone (core : Fin 1024) (tile : Fin 16) (failed1 : List (Nat × Int)) (failed2 : List (Nat × Int))
  /-- WRITE_END_EXPIRE (R135). -/
  | writeEndExpire (group : Nat)
  /-- UNDO_UNIT_START (R136). -/
  | undoUnitStart (core : Fin 1024) (tile : Fin 16)
  /-- UNDO_UNIT_DONE (R136). -/
  | undoUnitDone (core : Fin 1024) (tile : Fin 16) (failed1 : List (Nat × Int)) (failed2 : List (Nat × Int))
  /-- FOLD_COMPLETE (R140). -/
  | foldComplete (core : Fin 1024)
  /-- REFRESH_UNIT_START (R124). -/
  | refreshUnitStart (core : Fin 1024) (tile : Fin 16)
  /-- REFRESH_UNIT_DONE (R124). -/
  | refreshUnitDone (core : Fin 1024) (tile : Fin 16) (failed1 : List (Nat × Int)) (failed2 : List (Nat × Int))
  /-- DECK_RETIRE_DUE (R146). -/
  | deckRetireDue (core : Fin 1024) (tile : Fin 16)
  /-- LEVEL_SURVEY_DONE (R127). -/
  | levelSurveyDone (core : Fin 1024) (tile : Fin 16) (deck : Fin 8) (levels : List (List Int))
  /-- COPY_UNIT_START (R147). -/
  | copyUnitStart (core : Fin 1024) (tile : Fin 16)
  /-- COPY_UNIT_DONE (R147). -/
  | copyUnitDone (core : Fin 1024) (tile : Fin 16) (failed1 : List (Nat × Int)) (failed2 : List (Nat × Int))
  /-- RESTORE_TRANSFER_START (R418). -/
  | restoreTransferStart (core : Fin 1024) (tile : Fin 16)
  /-- DECK_CLEAR_UNIT_START (R516). -/
  | deckClearUnitStart (core : Fin 1024) (tile : Fin 16)
  /-- CAL_UNIT_START (R166). -/
  | calUnitStart (core : Fin 1024) (tile : Fin 16)
  /-- CAL_UNIT_DONE (R169). -/
  | calUnitDone (core : Fin 1024) (tile : Fin 16) (sums : CalSums)
  /-- TEMP_SAMPLE (R159). -/
  | tempSample (core : Fin 1024) (tile : Fin 16) (temp : Int)
  /-- DRIFT_DUE_EXPIRE (R161). -/
  | driftDueExpire (core : Fin 1024) (tile : Fin 16) (deck : Fin 8)
  /-- DRIFT_AGED (R163). -/
  | driftAged (core : Fin 1024) (tile : Fin 16) (deck : Fin 8)
  /-- HK_START (R176). -/
  | hkStart (path : Path) (value : Word)
  /-- HK_SCAN (R176). -/
  | hkScan (path : Path) (value : Word)
  /-- HK_SCAN_PACE (R176). -/
  | hkScanPace
  /-- HK_SELFCAL (R178). -/
  | hkSelfcal (path : Path) (value : Word)
  /-- HK_SELFCAL_DONE (R178). -/
  | hkSelfcalDone (off : Int) (gain : Nat)
  /-- HK_CONVERSION_DONE (R177). -/
  | hkConversionDone (raw : Nat)
  /-- HK_URGENT_REQUEST (R179). -/
  | hkUrgentRequest (chan : HkUrgent) (die : Fin 20)
  /-- HK_URGENT_DONE (R179). -/
  | hkUrgentDone (raw : Nat)
  /-- HK_DATA_READ (R177). -/
  | hkDataRead (path : Path)
  /-- MMA (R193). -/
  | mma (core : Fin 1024) (ctx : Fin 17) (parityError : Bool)
  /-- MMA_DONE (R193). -/
  | mmaDone (core : Fin 1024) (ctx : Fin 17)
  /-- CHECK_PASS_DONE (R435). -/
  | checkPassDone (core : Fin 1024) (ctx : Fin 17) (agree1 agree2 : Bool)
  /-- ACC_CLR (R195). -/
  | accClr (core : Fin 1024) (ctx : Fin 17)
  /-- ACC_ADD (R183). -/
  | accAdd (core : Fin 1024) (ctx : Fin 17) (parityError : Bool)
  /-- ACC_OUT (R208). -/
  | accOut (core : Fin 1024) (ctx : Fin 17) (parityError : Bool)
  /-- TO_VEC_QUEUE_RESUME (R205). -/
  | toVecQueueResume (core : Fin 1024) (ctx : Fin 17)
  /-- LOAD (R190). -/
  | load (core : Fin 1024) (ctx : Fin 17)
  /-- STORE (R211). -/
  | store (core : Fin 1024) (ctx : Fin 17)
  /-- DEFERRED_STORE_RESUME (R214). -/
  | deferredStoreResume (core : Fin 1024) (ctx : Fin 17)
  /-- SIGNAL (R202). -/
  | signal (core : Fin 1024) (ctx : Fin 17)
  /-- WAIT (R202). -/
  | wait (core : Fin 1024) (ctx : Fin 17)
  /-- END (R202). -/
  | endJob (core : Fin 1024) (ctx : Fin 17)
  /-- CONTEXT_FLUSH_DONE (R200). -/
  | contextFlushDone (core : Fin 1024) (ctx : Fin 17)
  /-- ELEMWISE (R206). -/
  | elemwise (core : Fin 1024) (par : ElemPar)
  /-- ROWNORM (R206). -/
  | rownorm (core : Fin 1024) (par : RowPar)
  /-- ROWNORM_BWD (R271). -/
  | rownormBwd (core : Fin 1024)
  /-- SOFTMAX (R206). -/
  | softmax (core : Fin 1024) (par : SoftPar)
  /-- SOFTMAX_BWD (R271). -/
  | softmaxBwd (core : Fin 1024)
  /-- NARROW (R246). -/
  | narrow (core : Fin 1024)
  /-- OPT2M (R207). -/
  | opt2m (core : Fin 1024)
  /-- FEED_TAIL_WRITE (R255). -/
  | feedTailWrite (path : Path) (value : Word)
  /-- STASH_TABLE_WRITE (R277). -/
  | stashTableWrite (path : Path) (addr : Nat) (value : Word)
  /-- SREQ_TAIL_WRITE (R280). -/
  | sreqTailWrite (path : Path) (value : Word)
  /-- SESSION_OPEN (R281). -/
  | sessionOpen
  /-- SESSION_APPEND (R281). -/
  | sessionAppend (session : Fin 1024) (work : SessWork)
  /-- SESSION_GENERATE (R281). -/
  | sessionGenerate (session : Fin 1024) (work : SessWork)
  /-- SESSION_SCORE (R281). -/
  | sessionScore (session : Fin 1024) (work : SessWork)
  /-- SESSION_CLOSE (R281). -/
  | sessionClose
  /-- SESSION_COMPLETE (R290). -/
  | sessionComplete (session : Fin 1024)
  /-- SCPL_HEAD_WRITE (R292). -/
  | scplHeadWrite (path : Path) (value : Word)
  /-- HBM_READ (R297). -/
  | hbmRead (req : StackReq) (bad : List Nat) (pbad : List Nat)
  /-- HBM_RETRY_DONE (R300). -/
  | hbmRetryDone (addr : Nat) (bad : List Nat) (pbad : List Nat)
  /-- REGION_RETIRE (R306). -/
  | regionRetire (stack : Fin 12) (region : Nat)
  /-- HBM_WRITE (R311). -/
  | hbmWrite (req : StackReq) (data : List Byte) (poison : Bool) (errs : MergeErrs)
  /-- TBLK_ARRIVAL (R315). -/
  | tblkArrival (block : Block)
  /-- TBLK_REARRIVAL (R316). -/
  | tblkRearrival (block : Block)
  /-- ACC_CONTRIBUTION (R318). -/
  | accContribution (port : Fin 40) (pkt : Packet)
  /-- ZERO_GO (R325). -/
  | zeroGo (path : Path) (stack : Fin 12)
  /-- ZEROISE_DONE (R326). -/
  | zeroiseDone (stack : Fin 12)
  /-- LINK_UP (R330). -/
  | linkUp (port : Fin 40) (terms : LinkTerms)
  /-- HELLO_TIMER (R330). -/
  | helloTimer (port : Fin 40)
  /-- LINK_CLASSIFY (R330). -/
  | linkClassify (port : Fin 40)
  /-- HELLO (R330). -/
  | hello (port : Fin 40) (node : Nat) (block : Nat)
  /-- FRAME_RECEIVE (R332). -/
  | frameReceive (port : Fin 40) (frame : Frame)
  /-- REPLAY (R332). -/
  | replay (port : Fin 40) (lseq : Nat)
  /-- LINK_ACK (R331). -/
  | linkAck (port : Fin 40) (lseq : Nat)
  /-- LINK_ACK_TIMER (R331). -/
  | linkAckTimer (port : Fin 40)
  /-- PAUSE_FRAME (R340). -/
  | pauseFrame (port : Fin 40) (prio : Fin 8) (ns : Nat)
  /-- DATA (R564). -/
  | data (port : Fin 40) (pkt : Packet)
  /-- READ_REQ (R338). -/
  | readReq (port : Fin 40) (pkt : Packet)
  /-- READ_RESP (R338). -/
  | readResp (port : Fin 40) (pkt : Packet)
  /-- ACK (R342). -/
  | ack (port : Fin 40) (pkt : Packet)
  /-- NAK (R342). -/
  | nak (port : Fin 40) (pkt : Packet)
  /-- ACK_TIMER (R342). -/
  | ackTimer (node queue : Nat)
  /-- RNR_DELAY_EXPIRE (R342). -/
  | rnrDelayExpire (node queue : Nat)
  /-- RTX_TIMEOUT (R343). -/
  | rtxTimeout (node queue : Nat)
  /-- JOB_CMD_OPEN (R348). -/
  | jobCmdOpen (path : Path) (job : Nat) (gen : Nat)
  /-- JOB_CMD_FREE (R349). -/
  | jobCmdFree (path : Path) (job : Nat) (gen : Nat)
  /-- JOB_FREE_BEAT (R349). -/
  | jobFreeBeat (job : Nat)
  /-- QUARANTINE_END (R349). -/
  | quarantineEnd (job : Nat)
  /-- ROCE_WRITE (R353). -/
  | roceWrite (peer : RocePeer) (marked : Bool) (rkey : Nat) (addr : Nat) (data : List Byte)
  /-- ROCE_READ (R353). -/
  | roceRead (peer : RocePeer) (marked : Bool) (rkey : Nat) (addr : Nat) (len : Nat)
  /-- ROCE_INVALID_REQUEST (R352). -/
  | roceInvalidRequest (peer : RocePeer) (marked : Bool)
  /-- RETRAIN (R335). -/
  | retrain (path : Path) (port : Fin 40)
  /-- BYP_OPEN_NOW (R358). -/
  | bypOpenNow (path : Path) (port : Fin 40)
  /-- BYP_CLOSE (R358). -/
  | bypClose (path : Path) (port : Fin 40)
  /-- BYP_LISTEN_LOCK (R358). -/
  | bypListenLock (pairB : Bool)
  /-- BYP_OPEN (R358). -/
  | bypOpen (port : Fin 40) (pkt : Packet)
  /-- BYP_OPEN_BEAT (R358). -/
  | bypOpenBeat (pairB : Bool)
  /-- RING_PACKET (R378). -/
  | ringPacket (port : Fin 40) (pkt : Packet)
  /-- ADDER_STAGE_OPEN (R377). -/
  | adderStageOpen (core : Fin 1024) (slot : Nat) (level : Fin 2)
  /-- BUCKET_DONE (R374). -/
  | bucketDone (core : Fin 1024) (slot : Nat)
  /-- SCALE_REPORT (R383). -/
  | scaleReport (port : Fin 40) (pkt : Packet)
  /-- SCALE_UPDATE (R384). -/
  | scaleUpdate (port : Fin 40) (pkt : Packet)
  /-- REDO (R388). -/
  | redo (port : Fin 40) (pkt : Packet)
  /-- CLAIM_TIMER (R395). -/
  | claimTimer
  /-- CLAIM (R395). -/
  | claim (port : Fin 40) (pkt : Packet)
  /-- JOIN_TIMER (R396). -/
  | joinTimer
  /-- JOIN (R396). -/
  | join (port : Fin 40) (pkt : Packet)
  /-- ASSIGN (R396). -/
  | assign (port : Fin 40) (pkt : Packet)
  /-- PROG_ARM (R403). -/
  | progArm (port : Fin 40) (pkt : Packet)
  /-- CKPT_INTERVAL_EXPIRE (R405). -/
  | ckptIntervalExpire
  /-- CKPT_ORDER (R405). -/
  | ckptOrder (port : Fin 40) (pkt : Packet)
  /-- STATE_RECORD_WRITTEN (R410). -/
  | stateRecordWritten
  /-- CKPT_WRITTEN (R411). -/
  | ckptWritten
  /-- CKPT_DONE (R411). -/
  | ckptDone (port : Fin 40) (pkt : Packet)
  /-- CKPT_COMMIT (R411). -/
  | ckptCommit (port : Fin 40) (pkt : Packet)
  /-- ROLL_CALL (R420). -/
  | rollCall (port : Fin 40) (pkt : Packet)
  /-- ROLL_ANSWER (R420). -/
  | rollAnswer (port : Fin 40) (pkt : Packet)
  /-- ROLLCALL_TIMEOUT (R420). -/
  | rollcallTimeout (crew : Fin 1024)
  /-- RESTORE (R412). -/
  | restore (port : Fin 40) (pkt : Packet)
  /-- RESTORE_COMPLETE (R413). -/
  | restoreComplete (status : Fin 3)
  /-- RESTORE_DONE (R417). -/
  | restoreDone (port : Fin 40) (pkt : Packet)
  /-- RESTORE_FINISH (R417). -/
  | restoreFinish (port : Fin 40) (pkt : Packet)
  /-- RESTORE_FINISH_BEAT (R417). -/
  | restoreFinishBeat
  /-- REPORT (R562). -/
  | report (port : Fin 40) (pkt : Packet)
  /-- JOB_OPEN (R348). -/
  | jobOpen (port : Fin 40) (pkt : Packet)
  /-- JOB_FREE (R349). -/
  | jobFree (port : Fin 40) (pkt : Packet)
  /-- TAKEOVER_TIMER (R423). -/
  | takeoverTimer
  /-- TAKEOVER (R424). -/
  | takeover (port : Fin 40) (pkt : Packet)
  /-- TAKEOVER_ACK (R424). -/
  | takeoverAck (port : Fin 40) (pkt : Packet)
  /-- TAKEOVER_DECIDE (R424). -/
  | takeoverDecide
  /-- DEPOSED (R425). -/
  | deposed (port : Fin 40) (pkt : Packet)
  /-- RESTORE_NOW (R422). -/
  | restoreNow (path : Path)
  /-- REG_REQ (R529). -/
  | regReq (port : Fin 40) (pkt : Packet)
  /-- REG_RESP (R528). -/
  | regResp (port : Fin 40) (pkt : Packet)
  /-- HANG_MONITOR_FIRE (R444). -/
  | hangMonitorFire (unit : HangUnit)
  /-- ABORT (R457). -/
  | abort (port : Fin 40) (pkt : Packet)
  /-- CREW_ABORT (R457). -/
  | crewAbort (crew : Fin 1024)
  /-- SAMPLE_WRITTEN (R452). -/
  | sampleWritten
  /-- ENGINE_RESET_DONE (R445). -/
  | engineResetDone (unit : Nat)
  /-- PARTITION_RESET_DONE (R447). -/
  | partitionResetDone (die : Fin 16)
  /-- RESET_BOUND_EXPIRE (R444). -/
  | resetBoundExpire (unit : Nat)
  /-- SAMPLE_WAIT_EXPIRE (R453). -/
  | sampleWaitExpire
  /-- CHIP_RESET (R448). -/
  | chipReset (cause : Fin 4) (cls unit : Nat)
  /-- CHIP_LIMIT_EXPIRE (R444). -/
  | chipLimitExpire
  /-- PCYC_IBI_TIMER (R449). -/
  | pcycIbiTimer
  /-- PCYC_ACK (R449). -/
  | pcycAck (path : Path)
  /-- SAMPLE_RELEASE (R453). -/
  | sampleRelease (path : Path)
  /-- FIELD_TEST_GO (R439). -/
  | fieldTestGo (path : Path)
  /-- FIELD_TEST (R439). -/
  | fieldTest (port : Fin 40) (pkt : Packet)
  /-- FIELD_TEST_DONE (R441). -/
  | fieldTestDone (results : List (Nat × Nat × Nat × Nat))
  /-- FIELD_RESULT (R441). -/
  | fieldResult (port : Fin 40) (pkt : Packet)
  /-- PKG_CURRENT_SAMPLE (R465). -/
  | pkgCurrentSample (deciAmps : Nat)
  /-- PD_REPORT_TICK (R472). -/
  | pdReportTick (iavg ipeak vmin : List Nat) (pkgAvg pkgPeak : Nat)
  /-- PHASE_FAULT (R473). -/
  | phaseFault (p : Fin 72) (phase : Fin 10)
  /-- SENSOR_EXCLUDE (R469). -/
  | sensorExclude (p : Fin 72) (sensor : Fin 12)
  /-- RAIL_DROOP (R470). -/
  | railDroop (p : Fin 72)
  /-- RAIL_UNDERVOLT (R471). -/
  | railUndervolt (p : Fin 72)
  /-- PD_CMD_ON (R479). -/
  | pdCmdOn (path : Path) (p : Fin 72)
  /-- PD_CMD_OFF (R479). -/
  | pdCmdOff (path : Path) (p : Fin 72)
  /-- ADMIT_GATE_EVAL (R482). -/
  | admitGateEval (p : Fin 72) (neighbours : List Nat)
  /-- ADMIT_TIMEOUT (R482). -/
  | admitTimeout (p : Fin 72)
  /-- RAMP_DONE (R483). -/
  | rampDone (p : Fin 72)
  /-- RAMP_TIMEOUT (R483). -/
  | rampTimeout (p : Fin 72)
  /-- DRAIN_COMPLETE (R480). -/
  | drainComplete (p : Fin 72)
  /-- DRAIN_TIMEOUT (R479). -/
  | drainTimeout (p : Fin 72)
  /-- DISCHARGE_DONE (R481). -/
  | dischargeDone (p : Fin 72)
  /-- THERM_SAMPLE (R485). -/
  | thermSample (die : Fin 20) (code : Nat)
  /-- THERMTRIP_COMPARATOR (R486). -/
  | thermtripComparator (die : Fin 20)
  /-- ATTEST (R512). -/
  | attest (path : Path)
  /-- DBG_CHALLENGE (R513). -/
  | dbgChallenge (path : Path) (nonce : List Byte)
  /-- DBG_RESPONSE (R515). -/
  | dbgResponse (path : Path)
  /-- DBG_CLOSE (R513). -/
  | dbgClose (path : Path)
  /-- OWNER_PROGRAM (R509). -/
  | ownerProgram (path : Path)
  /-- OWNER_CHANGE (R509). -/
  | ownerChange (path : Path)
  /-- TENANT (R516). -/
  | tenant (path : Path)
  /-- CAK_LOAD (R518). -/
  | cakLoad (path : Path)
  /-- SEC_CMD_COMPLETE (R513). -/
  | secCmdComplete
  /-- CLEARING_DONE (R516). -/
  | clearingDone
  /-- MEM_WIN_READ (R540). -/
  | memWinRead (path : Path)
  /-- BEAT_COUNT_READ (R533). -/
  | beatCountRead (path : Path) (runBeats : Bool)
  /-- I3C_POINTER_WRITE (R542). -/
  | i3cPointerWrite (ptr : Word)
  /-- I3C_PRIVATE_WRITE (R542). -/
  | i3cPrivateWrite (ptr value : Word)
  /-- I3C_PRIVATE_READ (R542). -/
  | i3cPrivateRead (words : Nat)
  /-- I3C_DYNAMIC_ADDRESS (R556). -/
  | i3cDynamicAddress (setdasa : Bool) (addr : Fin 128)
  /-- I3C_HOT_JOIN (R556). -/
  | i3cHotJoin
  /-- REGISTER_WRITE (R530). -/
  | registerWrite (path : Path) (size : Nat) (addr : Nat) (value : Word)
  /-- POWER_REMOVED (R559). -/
  | powerRemoved
  /-- REFCLK_RETURN (R554). -/
  | refclkReturn
  /-- PARTNER_RETRAIN (R334). -/
  | partnerRetrain (port : Fin 40) (reduced : Bool)
  /-- DROOP_RECOVERY (R471). -/
  | droopRecovery (p : Fin 72)
  /-- SERVICE_GAP (R142). -/
  | serviceGap (place : TileAt) (result : UnitResult)
  /-- STACK_INITIALISED (R493). -/
  | stackInitialised (stack : Fin 12)
  deriving DecidableEq, Repr

end Sys2Proof
end

