-- ==== Sys2Proof/Config.lean ====
section
/-! DEFINITION. Config.lean: what the spec leaves to an implementation or to a standard outside it. Every constant here
is a FREE VALUE: it has no body, so nothing can be proved about its value (notes/assumptions/5.md to 10.md and 33.md). -/

namespace Sys2Proof.Config

/-- FREE VALUE (log 5). First local address of an Eight's SRAM in a descriptor's 32-bit local address. The spec names
scratchpad addresses by their bits [20:6] (Table 1-18) and gives no encoding for Eight SRAM. -/
opaque eightBase : Nat

/-- FREE VALUE (log 5). How far above 2^40 a kernel's 64-bit address names local memory (Tables 5-8, 6-7, 7-8): the spec
lets it lie in HBM or in local memory and does not say how the two are told apart. -/
opaque kernelLocal : Nat

/-- FREE VALUE (log 6). SHAKE256 with a 512-bit output (R503 check 5, R512), a standard the spec names and does not give. -/
opaque shake256 : List Byte → List Byte

/-- FREE VALUE (log 6). ML-DSA-65 verification of FIPS 204: context string, public key, message, signature (R503, R515). -/
opaque mlDsaVerify : List Byte → List Byte → List Byte → List Byte → Bool

/-- FREE VALUE (log 6). ML-DSA-65 signing with the device's identity key (R511, R512): context string, message. -/
opaque mlDsaSign : List Byte → List Byte → List Byte

/-- FREE VALUE (log 7). The Odantup 7 exp2 algorithm of R204, given only as within 1 ulp. -/
opaque exp2Alg : Word → Word
/-- FREE VALUE (log 7). The Odantup 7 log2 algorithm of R204. -/
opaque log2Alg : Word → Word
/-- FREE VALUE (log 7). The Odantup 7 reciprocal square root of R204. -/
opaque rsqrtAlg : Word → Word

/-- FREE VALUE (log 8). Bytes 4 to 15 of the device identity, fixed at manufacture (Table 15-9). -/
opaque identByte : Nat → Byte

/-- FREE VALUE (log 8). The identity public key of R511, fixed at manufacture. -/
opaque idPubByte : Nat → Byte

/-- FREE VALUE (log 9). A fresh value each time it is read: applied to the model's own counter `Work.free`. -/
opaque fresh : Nat → Nat

/-- FREE VALUE (log 10). Factory factors of the housekeeping converter from ROM (R178): HK_CAL as a word. -/
opaque hkFactory : Word

/-- FREE VALUE (log 28). What a session program's forward leaves for one new token, of which the spec gives no rule but that a digital
one depends on nothing else (R248, R288): from the program's list, the step committed, and the tokens before it with what each left. -/
opaque sessSeed : List Byte → Nat → List (Word × Nat) → Nat

/-- FREE VALUE (log 28). The token identifier that a forward and the generator's 32 draws give (R281, R289). -/
opaque sessToken : Nat → List Nat → Word

/-- FREE VALUE (log 28). The FP32 natural-log probability that a forward gives a token (R281). -/
opaque sessScore : Nat → Word → Word

/-- FREE VALUE (log 28). The bytes of a token's cache position. -/
opaque sessByte : Nat → Nat → Byte

/-- FREE VALUE (log 33). Stroke length L of a crew's program in a variant, as the manager knows it: R50 and R54 use it, and no
rule says where the manager, which runs no program, takes it from. -/
opaque crewLength : Nat → Nat → Nat

/-- FREE VALUE (log 33). The catch of a crew's first stroke, which the PROG_ARMs that the manager's firmware sent have named. -/
opaque firstCatch : Nat → Nat

/-- FREE VALUE (log 33). Whether the stroke of a crew that began at a catch is its step's last: STROKES comes with the host's step
records, which no rule gives to the manager (R252, R405). -/
opaque lastOfStep : Nat → Nat → Bool

/-- FREE VALUE (log 33). STRETCH_LIMIT of a crew's program in a variant, as the manager knows it. -/
opaque crewLimit : Nat → Nat → Nat

end Sys2Proof.Config
end

