-- ==== Sys2Proof/Machine/Regs.lean ====
section
/-! DEFINITION. Machine/Regs.lean: the register map (R520 to R523, R530, R531): where every register of the window stands,
which of its bits a write reaches, and its reset value, from the block tables and field maps of every chapter. -/

namespace Sys2Proof.Machine

/-- Base of power domain p (Table 15-1). -/
def pwrBase (p : Nat) : Nat := 0x200000 + 0x400 * p
/-- Base of memory controller m (Table 15-1). -/
def memcBase (m : Nat) : Nat := 0x1000000 + 0x10000 * m
/-- Base of link block k (Table 15-1). -/
def linkBase (k : Nat) : Nat := 0x2000000 + 0x4000 * k
/-- Base of Eight e (Table 15-1). -/
def eightRegBase (e : Nat) : Nat := 0x4000000 + 0x10000 * e
/-- Base of core c (Table 15-1). -/
def coreBase (c : Nat) : Nat := 0x10000000 + 0x40000 * c
/-- Base of tile t of core c (R523). -/
def tileBase (c t : Nat) : Nat := coreBase c + 0x20000 + 0x1000 * t

/-- The blocks whose registers repeat (Table 15-1); `glob` is every block that stands once. -/
inductive Blk where
  | glob | pwr | memc | link | eight | core | tile
  deriving DecidableEq, Repr

/-- One row of a block table: offset in its block, count and stride of an indexed register, the bits a write reaches by
access type (R530), and the reset value (R531). -/
structure RegRow where
  off : Nat
  count : Nat
  stride : Nat
  rw : Nat
  w1c : Nat
  rwl : Nat
  reset : Nat
  deriving DecidableEq, Repr

/-- BEAT_CTL (Table 1-10). -/
def BEAT_CTL : Nat := 0x100000
/-- BEAT_PERIOD (Table 1-10). -/
def BEAT_PERIOD : Nat := 0x100004
/-- BEAT_STATUS (Table 1-10). -/
def BEAT_STATUS : Nat := 0x100008
/-- BEAT_COUNT_LO (Table 1-10). -/
def BEAT_COUNT_LO : Nat := 0x100010
/-- BEAT_COUNT_HI (Table 1-10). -/
def BEAT_COUNT_HI : Nat := 0x100014
/-- BEAT_ERR_CNT (Table 1-10). -/
def BEAT_ERR_CNT : Nat := 0x100018
/-- STRETCH_CNT (Table 1-10). -/
def STRETCH_CNT : Nat := 0x100020
/-- STRETCH_BEATS (Table 1-10). -/
def STRETCH_BEATS : Nat := 0x100024
/-- LAST_STRETCH (Table 1-10). -/
def LAST_STRETCH : Nat := 0x100028
/-- LOCAL_CATCH (Table 1-10). -/
def LOCAL_CATCH : Nat := 0x10002c
/-- COX_CTL (Table 1-16). -/
def COX_CTL (c : Nat) : Nat := coreBase c + 0x1000
/-- COX_PROG (Table 1-16). -/
def COX_PROG (c : Nat) : Nat := coreBase c + 0x1004
/-- COX_STATUS (Table 1-16). -/
def COX_STATUS (c : Nat) : Nat := coreBase c + 0x1008
/-- COX_ERR (Table 1-16). -/
def COX_ERR (c : Nat) : Nat := coreBase c + 0x100c
/-- COX_OVERRUN_CNT (Table 1-16). -/
def COX_OVERRUN_CNT (c : Nat) : Nat := coreBase c + 0x1010
/-- COX_SLIP_BEATS (Table 1-16). -/
def COX_SLIP_BEATS (c : Nat) : Nat := coreBase c + 0x1014
/-- TILE_CTL (Table 2-8). -/
def TILE_CTL (c t : Nat) : Nat := tileBase c t + 0x0
/-- TILE_STATUS (Table 2-8). -/
def TILE_STATUS (c t : Nat) : Nat := tileBase c t + 0x4
/-- RBUDGET (Table 2-8). -/
def RBUDGET (c t : Nat) : Nat := tileBase c t + 0x8
/-- TILE_CHK (Table 2-8). -/
def TILE_CHK (c t : Nat) : Nat := tileBase c t + 0xc
/-- DECK_MAP (Table 2-8). -/
def DECK_MAP (c t : Nat) : Nat := tileBase c t + 0x10
/-- DECK_STATE (Table 2-8). -/
def DECK_STATE (c t : Nat) : Nat := tileBase c t + 0x14
/-- ISSUE_CNT (Table 2-8). -/
def ISSUE_CNT (c t : Nat) : Nat := tileBase c t + 0x20
/-- ZSKIP_CNT (Table 2-8). -/
def ZSKIP_CNT (c t : Nat) : Nat := tileBase c t + 0x24
/-- SPLIT2_CNT (Table 2-8). -/
def SPLIT2_CNT (c t : Nat) : Nat := tileBase c t + 0x28
/-- SPLIT4_CNT (Table 2-8). -/
def SPLIT4_CNT (c t : Nat) : Nat := tileBase c t + 0x2c
/-- ADC_SAT_CNT (Table 2-8). -/
def ADC_SAT_CNT (c t : Nat) : Nat := tileBase c t + 0x30
/-- PCLAMP_CNT (Table 2-8). -/
def PCLAMP_CNT (c t : Nat) : Nat := tileBase c t + 0x34
/-- CS_CHECK_CNT (Table 2-8). -/
def CS_CHECK_CNT (c t : Nat) : Nat := tileBase c t + 0x38
/-- CS_MISS_CNT (Table 2-8). -/
def CS_MISS_CNT (c t : Nat) : Nat := tileBase c t + 0x3c
/-- SESS_CNT (Table 2-8). -/
def SESS_CNT (c t : Nat) : Nat := tileBase c t + 0x40
/-- DECK_CFG[k] (Table 2-8). -/
def DECK_CFG (c t i : Nat) : Nat := tileBase c t + 0x100 + 4 * i
/-- OSCALE[i] (Table 2-8). -/
def OSCALE (c t i : Nat) : Nat := tileBase c t + 0x800 + 4 * i
/-- FWD_STATUS (Table 2-17). -/
def FWD_STATUS (c : Nat) : Nat := coreBase c + 0x1800
/-- FWD_ERR (Table 2-17). -/
def FWD_ERR (c : Nat) : Nat := coreBase c + 0x1804
/-- FWD_VEC_CNT (Table 2-17). -/
def FWD_VEC_CNT (c : Nat) : Nat := coreBase c + 0x1808
/-- PGM_STATUS (Table 3-13). -/
def PGM_STATUS (c t : Nat) : Nat := tileBase c t + 0x200
/-- PGM_LIMIT (Table 3-13). -/
def PGM_LIMIT (c t : Nat) : Nat := tileBase c t + 0x204
/-- WEAR_LIM_RESET (Table 3-13). -/
def WEAR_LIM_RESET (c t : Nat) : Nat := tileBase c t + 0x208
/-- WEAR_LIM_SET (Table 3-13). -/
def WEAR_LIM_SET (c t : Nat) : Nat := tileBase c t + 0x20c
/-- ROWUNIT_CNT (Table 3-13). -/
def ROWUNIT_CNT (c t : Nat) : Nat := tileBase c t + 0x210
/-- VFY_RETRY_CNT (Table 3-13). -/
def VFY_RETRY_CNT (c t : Nat) : Nat := tileBase c t + 0x214
/-- VFY_FAIL_CNT (Table 3-13). -/
def VFY_FAIL_CNT (c t : Nat) : Nat := tileBase c t + 0x218
/-- LVL_RAIL_CNT (Table 3-13). -/
def LVL_RAIL_CNT (c t : Nat) : Nat := tileBase c t + 0x21c
/-- HOLD_WAIT_CNT (Table 3-13). -/
def HOLD_WAIT_CNT (c t : Nat) : Nat := tileBase c t + 0x220
/-- ROLLBACK_CNT (Table 3-13). -/
def ROLLBACK_CNT (c t : Nat) : Nat := tileBase c t + 0x224
/-- UNDO_FAIL_CNT (Table 3-13). -/
def UNDO_FAIL_CNT (c t : Nat) : Nat := tileBase c t + 0x228
/-- CSUM_SKIP_CNT (Table 3-13). -/
def CSUM_SKIP_CNT (c t : Nat) : Nat := tileBase c t + 0x22c
/-- RETIRE_STATUS (Table 3-13). -/
def RETIRE_STATUS (c t : Nat) : Nat := tileBase c t + 0x230
/-- DECK_WEAR_RESET[p] (Table 3-13). -/
def DECK_WEAR_RESET (c t i : Nat) : Nat := tileBase c t + 0x240 + 8 * i
/-- DECK_WEAR_SET[p] (Table 3-13). -/
def DECK_WEAR_SET (c t i : Nat) : Nat := tileBase c t + 0x244 + 8 * i
/-- DECK_VFAIL[p] (Table 3-13). -/
def DECK_VFAIL (c t i : Nat) : Nat := tileBase c t + 0x280 + 4 * i
/-- CMT_CTL (Table 3-17). -/
def CMT_CTL (c : Nat) : Nat := coreBase c + 0x1c00
/-- CMT_STATUS (Table 3-17). -/
def CMT_STATUS (c : Nat) : Nat := coreBase c + 0x1c04
/-- CMT_ERR (Table 3-17). -/
def CMT_ERR (c : Nat) : Nat := coreBase c + 0x1c08
/-- STAGE_BASE_LO (Table 3-17). -/
def STAGE_BASE_LO (c : Nat) : Nat := coreBase c + 0x1c10
/-- STAGE_BASE_HI (Table 3-17). -/
def STAGE_BASE_HI (c : Nat) : Nat := coreBase c + 0x1c14
/-- WEAR_BASE_LO (Table 3-17). -/
def WEAR_BASE_LO (c : Nat) : Nat := coreBase c + 0x1c18
/-- WEAR_BASE_HI (Table 3-17). -/
def WEAR_BASE_HI (c : Nat) : Nat := coreBase c + 0x1c1c
/-- CMT_COMMIT_CNT (Table 3-17). -/
def CMT_COMMIT_CNT (c : Nat) : Nat := coreBase c + 0x1c20
/-- CMT_ROLLBACK_CNT (Table 3-17). -/
def CMT_ROLLBACK_CNT (c : Nat) : Nat := coreBase c + 0x1c24
/-- FOLD_WAIT_CNT (Table 3-17). -/
def FOLD_WAIT_CNT (c : Nat) : Nat := coreBase c + 0x1c28
/-- CAL_CTL (Table 4-5). -/
def CAL_CTL (c t : Nat) : Nat := tileBase c t + 0x400
/-- CAL_STATUS (Table 4-5). -/
def CAL_STATUS (c t : Nat) : Nat := tileBase c t + 0x404
/-- CAL_LIM_OFF (Table 4-5). -/
def CAL_LIM_OFF (c t : Nat) : Nat := tileBase c t + 0x408
/-- CAL_LIM_GAIN (Table 4-5). -/
def CAL_LIM_GAIN (c t : Nat) : Nat := tileBase c t + 0x40c
/-- CAL_LIM_DRIFT (Table 4-5). -/
def CAL_LIM_DRIFT (c t : Nat) : Nat := tileBase c t + 0x410
/-- CAL_LIM_STEP (Table 4-5). -/
def CAL_LIM_STEP (c t : Nat) : Nat := tileBase c t + 0x414
/-- TILE_TEMP (Table 4-5). -/
def TILE_TEMP (c t : Nat) : Nat := tileBase c t + 0x418
/-- CAL_TEMP_REF (Table 4-5). -/
def CAL_TEMP_REF (c t : Nat) : Nat := tileBase c t + 0x41c
/-- CAL_DUE (Table 4-5). -/
def CAL_DUE (c t : Nat) : Nat := tileBase c t + 0x420
/-- CAL_RUN_CNT (Table 4-5). -/
def CAL_RUN_CNT (c t : Nat) : Nat := tileBase c t + 0x424
/-- CAL_RETRY_CNT (Table 4-5). -/
def CAL_RETRY_CNT (c t : Nat) : Nat := tileBase c t + 0x428
/-- CAL_FAIL_CNT (Table 4-5). -/
def CAL_FAIL_CNT (c t : Nat) : Nat := tileBase c t + 0x42c
/-- CAL_DEFER_CNT (Table 4-5). -/
def CAL_DEFER_CNT (c t : Nat) : Nat := tileBase c t + 0x430
/-- AGED_ISSUE_CNT (Table 4-5). -/
def AGED_ISSUE_CNT (c t : Nat) : Nat := tileBase c t + 0x434
/-- DRIFT_BEAT[p] (Table 4-5). -/
def DRIFT_BEAT (c t i : Nat) : Nat := tileBase c t + 0x440 + 4 * i
/-- DRIFT_GAIN[p] (Table 4-5). -/
def DRIFT_GAIN (c t i : Nat) : Nat := tileBase c t + 0x460 + 4 * i
/-- SIDE_COEF (Table 4-5). -/
def SIDE_COEF (c t : Nat) : Nat := tileBase c t + 0x480
/-- COEF_ADDR (Table 4-5). -/
def COEF_ADDR (c t : Nat) : Nat := tileBase c t + 0x500
/-- COEF_DATA (Table 4-5). -/
def COEF_DATA (c t : Nat) : Nat := tileBase c t + 0x504
/-- HK_CTL (Table 4-12). -/
def HK_CTL : Nat := 0x300000
/-- HK_STATUS (Table 4-12). -/
def HK_STATUS : Nat := 0x300004
/-- HK_DATA (Table 4-12). -/
def HK_DATA : Nat := 0x300008
/-- HK_SCAN (Table 4-12). -/
def HK_SCAN : Nat := 0x30000c
/-- HK_CAL (Table 4-12). -/
def HK_CAL : Nat := 0x300010
/-- HK_URGENT (Table 4-12). -/
def HK_URGENT : Nat := 0x300014
/-- HK_OVR_CNT (Table 4-12). -/
def HK_OVR_CNT : Nat := 0x300018
/-- HK_ABORT_CNT (Table 4-12). -/
def HK_ABORT_CNT : Nat := 0x30001c
/-- HK_CONV_CNT (Table 4-12). -/
def HK_CONV_CNT : Nat := 0x300020
/-- MAC_STATUS (Table 5-13). -/
def MAC_STATUS (c i : Nat) : Nat := coreBase c + 0x4000 + 256 * i
/-- CTX_ERR0 (Table 5-13). -/
def CTX_ERR0 (c i : Nat) : Nat := coreBase c + 0x4004 + 256 * i
/-- CTX_ERR1 (Table 5-13). -/
def CTX_ERR1 (c i : Nat) : Nat := coreBase c + 0x4008 + 256 * i
/-- MAC_BUSY_CNT (Table 5-13). -/
def MAC_BUSY_CNT (c i : Nat) : Nat := coreBase c + 0x4010 + 256 * i
/-- MAC_GATED_CNT (Table 5-13). -/
def MAC_GATED_CNT (c i : Nat) : Nat := coreBase c + 0x4014 + 256 * i
/-- ACC_INF_CNT (Table 5-13). -/
def ACC_INF_CNT (c i : Nat) : Nat := coreBase c + 0x4018 + 256 * i
/-- NAN_CNT (Table 5-13). -/
def NAN_CNT (c i : Nat) : Nat := coreBase c + 0x401c + 256 * i
/-- ESC_READ_CNT (Table 5-13). -/
def ESC_READ_CNT (c i : Nat) : Nat := coreBase c + 0x4020 + 256 * i
/-- CTX_RESET_CNT (Table 5-13). -/
def CTX_RESET_CNT (c i : Nat) : Nat := coreBase c + 0x4024 + 256 * i
/-- DJ_STATUS (Table 5-13). -/
def DJ_STATUS (c : Nat) : Nat := coreBase c + 0x4800
/-- DJ_ERR (Table 5-13). -/
def DJ_ERR (c : Nat) : Nat := coreBase c + 0x4804
/-- DLOG_BASE_LO (Table 5-13). -/
def DLOG_BASE_LO (c : Nat) : Nat := coreBase c + 0x4808
/-- DLOG_BASE_HI (Table 5-13). -/
def DLOG_BASE_HI (c : Nat) : Nat := coreBase c + 0x480c
/-- DLOG_SIZE (Table 5-13). -/
def DLOG_SIZE (c : Nat) : Nat := coreBase c + 0x4810
/-- DLOG_USED (Table 5-13). -/
def DLOG_USED (c : Nat) : Nat := coreBase c + 0x4814
/-- DLOG_WAIT_CNT (Table 5-13). -/
def DLOG_WAIT_CNT (c : Nat) : Nat := coreBase c + 0x4818
/-- DLOG_ABORT_CNT (Table 5-13). -/
def DLOG_ABORT_CNT (c : Nat) : Nat := coreBase c + 0x481c
/-- VEC_STATUS (Table 5-13). -/
def VEC_STATUS (c : Nat) : Nat := coreBase c + 0x4900
/-- VEC_ERR (Table 5-13). -/
def VEC_ERR (c : Nat) : Nat := coreBase c + 0x4904
/-- VEC_NONFINITE_CNT (Table 5-13). -/
def VEC_NONFINITE_CNT (c : Nat) : Nat := coreBase c + 0x4908
/-- VEC_RESET_CNT (Table 5-13). -/
def VEC_RESET_CNT (c : Nat) : Nat := coreBase c + 0x490c
/-- EST_BASE (Table 6-9). -/
def EST_BASE (c : Nat) : Nat := coreBase c + 0x4a00
/-- EST_COUNT (Table 6-9). -/
def EST_COUNT (c : Nat) : Nat := coreBase c + 0x4a04
/-- GEN_SEQ (Table 6-9). -/
def GEN_SEQ (c : Nat) : Nat := coreBase c + 0x4a08
/-- GEN_STATUS (Table 6-9). -/
def GEN_STATUS (c : Nat) : Nat := coreBase c + 0x4a0c
/-- SAT_BLK_CNT (Table 6-9). -/
def SAT_BLK_CNT (c : Nat) : Nat := coreBase c + 0x4a10
/-- ESC_CNT (Table 6-9). -/
def ESC_CNT (c : Nat) : Nat := coreBase c + 0x4a14
/-- ESC_OVF_CNT (Table 6-9). -/
def ESC_OVF_CNT (c : Nat) : Nat := coreBase c + 0x4a18
/-- NONFIN_BLK_CNT (Table 6-9). -/
def NONFIN_BLK_CNT (c : Nat) : Nat := coreBase c + 0x4a1c
/-- REDERIVE_CNT (Table 6-9). -/
def REDERIVE_CNT (c : Nat) : Nat := coreBase c + 0x4a20
/-- STEP_CTL (Table 7-14). -/
def STEP_CTL : Nat := 0x8000
/-- STEP_CFG (Table 7-14). -/
def STEP_CFG : Nat := 0x8004
/-- STEP_STATUS (Table 7-14). -/
def STEP_STATUS : Nat := 0x8008
/-- STEP_ERR (Table 7-14). -/
def STEP_ERR : Nat := 0x800c
/-- STEP_CUR (Table 7-14). -/
def STEP_CUR : Nat := 0x8010
/-- STEP_COMMITTED (Table 7-14). -/
def STEP_COMMITTED : Nat := 0x8014
/-- FEED_BASE_LO (Table 7-14). -/
def FEED_BASE_LO : Nat := 0x8018
/-- FEED_BASE_HI (Table 7-14). -/
def FEED_BASE_HI : Nat := 0x801c
/-- FEED_SIZE (Table 7-14). -/
def FEED_SIZE : Nat := 0x8020
/-- FEED_TAIL (Table 7-14). -/
def FEED_TAIL : Nat := 0x8024
/-- FEED_HEAD (Table 7-14). -/
def FEED_HEAD : Nat := 0x8028
/-- LANE_BUF_LO (Table 7-14). -/
def LANE_BUF_LO : Nat := 0x8030
/-- LANE_BUF_HI (Table 7-14). -/
def LANE_BUF_HI : Nat := 0x8034
/-- LANE_STRIDE (Table 7-14). -/
def LANE_STRIDE : Nat := 0x8038
/-- POOL_BASE_LO (Table 7-14). -/
def POOL_BASE_LO : Nat := 0x8040
/-- POOL_BASE_HI (Table 7-14). -/
def POOL_BASE_HI : Nat := 0x8044
/-- POOL_PAGES (Table 7-14). -/
def POOL_PAGES : Nat := 0x8048
/-- POOL_FREE (Table 7-14). -/
def POOL_FREE : Nat := 0x804c
/-- ENTRY_BASE_LO (Table 7-14). -/
def ENTRY_BASE_LO : Nat := 0x8050
/-- ENTRY_BASE_HI (Table 7-14). -/
def ENTRY_BASE_HI : Nat := 0x8054
/-- ENTRY_COUNT (Table 7-14). -/
def ENTRY_COUNT : Nat := 0x8058
/-- RCMP_BASE_LO (Table 7-14). -/
def RCMP_BASE_LO : Nat := 0x8060
/-- RCMP_BASE_HI (Table 7-14). -/
def RCMP_BASE_HI : Nat := 0x8064
/-- RCMP_PAGES (Table 7-14). -/
def RCMP_PAGES : Nat := 0x8068
/-- STASH_STATUS (Table 7-14). -/
def STASH_STATUS : Nat := 0x8070
/-- STASH_ALLOC_CNT (Table 7-14). -/
def STASH_ALLOC_CNT : Nat := 0x8080
/-- STASH_MISS_CNT (Table 7-14). -/
def STASH_MISS_CNT : Nat := 0x8084
/-- RCMP_RUN_CNT (Table 7-14). -/
def RCMP_RUN_CNT : Nat := 0x8088
/-- UNMAPPED_CNT (Table 7-14). -/
def UNMAPPED_CNT : Nat := 0x808c
/-- STARVE_BEATS (Table 7-14). -/
def STARVE_BEATS : Nat := 0x8090
/-- HEAT_CNT (Table 7-14). -/
def HEAT_CNT : Nat := 0x8094
/-- EMPTY_HEAT_CNT (Table 7-14). -/
def EMPTY_HEAT_CNT : Nat := 0x8098
/-- SPLIT_SEQ_CNT (Table 7-14). -/
def SPLIT_SEQ_CNT : Nat := 0x809c
/-- SESS_CTL (Table 7-18). -/
def SESS_CTL : Nat := 0x9000
/-- SESS_STATUS (Table 7-18). -/
def SESS_STATUS : Nat := 0x9004
/-- SREQ_BASE_LO (Table 7-18). -/
def SREQ_BASE_LO : Nat := 0x9008
/-- SREQ_BASE_HI (Table 7-18). -/
def SREQ_BASE_HI : Nat := 0x900c
/-- SREQ_SIZE (Table 7-18). -/
def SREQ_SIZE : Nat := 0x9010
/-- SREQ_TAIL (Table 7-18). -/
def SREQ_TAIL : Nat := 0x9014
/-- SREQ_HEAD (Table 7-18). -/
def SREQ_HEAD : Nat := 0x9018
/-- SCPL_BASE_LO (Table 7-18). -/
def SCPL_BASE_LO : Nat := 0x9020
/-- SCPL_BASE_HI (Table 7-18). -/
def SCPL_BASE_HI : Nat := 0x9024
/-- SCPL_SIZE (Table 7-18). -/
def SCPL_SIZE : Nat := 0x9028
/-- SCPL_HEAD (Table 7-18). -/
def SCPL_HEAD : Nat := 0x902c
/-- SCPL_TAIL (Table 7-18). -/
def SCPL_TAIL : Nat := 0x9030
/-- SCACHE_BASE_LO (Table 7-18). -/
def SCACHE_BASE_LO : Nat := 0x9038
/-- SCACHE_BASE_HI (Table 7-18). -/
def SCACHE_BASE_HI : Nat := 0x903c
/-- SCACHE_PAGES (Table 7-18). -/
def SCACHE_PAGES : Nat := 0x9040
/-- SCACHE_FREE (Table 7-18). -/
def SCACHE_FREE : Nat := 0x9044
/-- SPROG_BASE_LO (Table 7-18). -/
def SPROG_BASE_LO : Nat := 0x9048
/-- SPROG_BASE_HI (Table 7-18). -/
def SPROG_BASE_HI : Nat := 0x904c
/-- SREQ_CNT (Table 7-18). -/
def SREQ_CNT : Nat := 0x9050
/-- SPOISON_CNT (Table 7-18). -/
def SPOISON_CNT : Nat := 0x9054
/-- SCACHE_FULL_CNT (Table 7-18). -/
def SCACHE_FULL_CNT : Nat := 0x9058
/-- SCPL_WAIT_CNT (Table 7-18). -/
def SCPL_WAIT_CNT : Nat := 0x905c
/-- SZERO_CNT (Table 7-18). -/
def SZERO_CNT : Nat := 0x9060
/-- COND_BASE (Table 7-20). -/
def COND_BASE (c : Nat) : Nat := coreBase c + 0x4b00
/-- COND_COUNT (Table 7-20). -/
def COND_COUNT (c : Nat) : Nat := coreBase c + 0x4b04
/-- COND_ERR (Table 7-20). -/
def COND_ERR (c : Nat) : Nat := coreBase c + 0x4b08
/-- COND_SKIP_CNT (Table 7-20). -/
def COND_SKIP_CNT (c : Nat) : Nat := coreBase c + 0x4b0c
/-- MC_CTL (Table 8-7). -/
def MC_CTL (m : Nat) : Nat := memcBase m + 0x0
/-- MC_STATUS (Table 8-7). -/
def MC_STATUS (m : Nat) : Nat := memcBase m + 0x4
/-- MC_ERR (Table 8-7). -/
def MC_ERR (m : Nat) : Nat := memcBase m + 0x8
/-- CE_LIM (Table 8-7). -/
def CE_LIM (m : Nat) : Nat := memcBase m + 0xc
/-- ZERO_BASE (Table 8-7). -/
def ZERO_BASE (m : Nat) : Nat := memcBase m + 0x10
/-- ZERO_LEN (Table 8-7). -/
def ZERO_LEN (m : Nat) : Nat := memcBase m + 0x14
/-- REG_SEL (Table 8-7). -/
def REG_SEL (m : Nat) : Nat := memcBase m + 0x18
/-- REG_COUNT (Table 8-7). -/
def REG_COUNT (m : Nat) : Nat := memcBase m + 0x1c
/-- RL_SEL (Table 8-7). -/
def RL_SEL (m : Nat) : Nat := memcBase m + 0x20
/-- RL_DATA (Table 8-7). -/
def RL_DATA (m : Nat) : Nat := memcBase m + 0x24
/-- REMAP_SEL (Table 8-7). -/
def REMAP_SEL (m : Nat) : Nat := memcBase m + 0x28
/-- REMAP_DATA (Table 8-7). -/
def REMAP_DATA (m : Nat) : Nat := memcBase m + 0x2c
/-- CE_CNT (Table 8-7). -/
def CE_CNT (m : Nat) : Nat := memcBase m + 0x40
/-- UE_TRANS_CNT (Table 8-7). -/
def UE_TRANS_CNT (m : Nat) : Nat := memcBase m + 0x44
/-- UE_CNT (Table 8-7). -/
def UE_CNT (m : Nat) : Nat := memcBase m + 0x48
/-- POISON_RD_CNT (Table 8-7). -/
def POISON_RD_CNT (m : Nat) : Nat := memcBase m + 0x4c
/-- RMW_POISON_CNT (Table 8-7). -/
def RMW_POISON_CNT (m : Nat) : Nat := memcBase m + 0x50
/-- POISON_HOST_CNT (Table 8-7). -/
def POISON_HOST_CNT (m : Nat) : Nat := memcBase m + 0x54
/-- TBLK_RETRY_CNT (Table 8-7). -/
def TBLK_RETRY_CNT (m : Nat) : Nat := memcBase m + 0x58
/-- TBLK_FAIL_CNT (Table 8-7). -/
def TBLK_FAIL_CNT (m : Nat) : Nat := memcBase m + 0x5c
/-- RACC_CNT (Table 8-7). -/
def RACC_CNT (m : Nat) : Nat := memcBase m + 0x60
/-- RACC_HOLD_CNT (Table 8-7). -/
def RACC_HOLD_CNT (m : Nat) : Nat := memcBase m + 0x64
/-- RACC_REFUSE_CNT (Table 8-7). -/
def RACC_REFUSE_CNT (m : Nat) : Nat := memcBase m + 0x68
/-- RACC_BAD_CNT (Table 8-7). -/
def RACC_BAD_CNT (m : Nat) : Nat := memcBase m + 0x6c
/-- RACC_DONE_CNT (Table 8-7). -/
def RACC_DONE_CNT (m : Nat) : Nat := memcBase m + 0x70
/-- ZERO_CNT (Table 8-7). -/
def ZERO_CNT (m : Nat) : Nat := memcBase m + 0x74
/-- EIGHT_TBLK_RETRY_CNT (Table 8-11). -/
def EIGHT_TBLK_RETRY_CNT (e : Nat) : Nat := eightRegBase e + 0x100
/-- EIGHT_TBLK_FAIL_CNT (Table 8-11). -/
def EIGHT_TBLK_FAIL_CNT (e : Nat) : Nat := eightRegBase e + 0x104
/-- LINK_CTL (Table 9-13). -/
def LINK_CTL (k : Nat) : Nat := linkBase k + 0x0
/-- LINK_CFG (Table 9-13). -/
def LINK_CFG (k : Nat) : Nat := linkBase k + 0x4
/-- LINK_STATUS (Table 9-13). -/
def LINK_STATUS (k : Nat) : Nat := linkBase k + 0x8
/-- LINK_ERR (Table 9-13). -/
def LINK_ERR (k : Nat) : Nat := linkBase k + 0xc
/-- LANE_STATUS (Table 9-13). -/
def LANE_STATUS (k : Nat) : Nat := linkBase k + 0x10
/-- BYP_OPEN_BEAT (Table 9-13). -/
def BYP_OPEN_BEAT (k : Nat) : Nat := linkBase k + 0x14
/-- TX_FRAME_CNT (Table 9-13). -/
def TX_FRAME_CNT (k : Nat) : Nat := linkBase k + 0x40
/-- RX_FRAME_CNT (Table 9-13). -/
def RX_FRAME_CNT (k : Nat) : Nat := linkBase k + 0x44
/-- FCS_ERR_CNT (Table 9-13). -/
def FCS_ERR_CNT (k : Nat) : Nat := linkBase k + 0x48
/-- FEC_UNCORR_CNT (Table 9-13). -/
def FEC_UNCORR_CNT (k : Nat) : Nat := linkBase k + 0x4c
/-- LRETRY_CNT (Table 9-13). -/
def LRETRY_CNT (k : Nat) : Nat := linkBase k + 0x50
/-- LRETRY_FAIL_CNT (Table 9-13). -/
def LRETRY_FAIL_CNT (k : Nat) : Nat := linkBase k + 0x54
/-- RETRAIN_CNT (Table 9-13). -/
def RETRAIN_CNT (k : Nat) : Nat := linkBase k + 0x58
/-- REPLAY_WAIT_CNT (Table 9-13). -/
def REPLAY_WAIT_CNT (k : Nat) : Nat := linkBase k + 0x5c
/-- ICV_FAIL_CNT (Table 9-13). -/
def ICV_FAIL_CNT (k : Nat) : Nat := linkBase k + 0x60
/-- PAUSE_RX_CNT (Table 9-13). -/
def PAUSE_RX_CNT (k : Nat) : Nat := linkBase k + 0x64
/-- ROSDER_CFG (Table 9-18). -/
def ROSDER_CFG : Nat := 0xa000
/-- NODE (Table 9-18). -/
def NODE : Nat := 0xa004
/-- RTX_CFG (Table 9-18). -/
def RTX_CFG : Nat := 0xa008
/-- WQ_CFG (Table 9-18). -/
def WQ_CFG : Nat := 0xa00c
/-- JOB_CMD (Table 9-18). -/
def JOB_CMD : Nat := 0xa010
/-- JOB_SEL (Table 9-18). -/
def JOB_SEL : Nat := 0xa014
/-- JOB_DATA (Table 9-18). -/
def JOB_DATA : Nat := 0xa018
/-- TRANSPORT_ERR (Table 9-18). -/
def TRANSPORT_ERR : Nat := 0xa01c
/-- ACTIVE_JOBS (Table 9-18). -/
def ACTIVE_JOBS : Nat := 0xa020
/-- STALE_DROP_CNT (Table 9-18). -/
def STALE_DROP_CNT : Nat := 0xa040
/-- LATE_DROP_CNT (Table 9-18). -/
def LATE_DROP_CNT : Nat := 0xa044
/-- HDR_DROP_CNT (Table 9-18). -/
def HDR_DROP_CNT : Nat := 0xa048
/-- WQ_DROP_CNT (Table 9-18). -/
def WQ_DROP_CNT : Nat := 0xa04c
/-- RTX_CNT (Table 9-18). -/
def RTX_CNT : Nat := 0xa050
/-- RTX_FAIL_CNT (Table 9-18). -/
def RTX_FAIL_CNT : Nat := 0xa054
/-- NAK_RX_CNT (Table 9-18). -/
def NAK_RX_CNT : Nat := 0xa058
/-- SCALE_CFG (Table 10-7). -/
def SCALE_CFG : Nat := 0xb000
/-- RED_STATUS (Table 10-7). -/
def RED_STATUS : Nat := 0xb004
/-- RED_ERR (Table 10-7). -/
def RED_ERR : Nat := 0xb008
/-- SCALE_BASE_LO (Table 10-7). -/
def SCALE_BASE_LO : Nat := 0xb010
/-- SCALE_BASE_HI (Table 10-7). -/
def SCALE_BASE_HI : Nat := 0xb014
/-- SCALE_COUNT (Table 10-7). -/
def SCALE_COUNT : Nat := 0xb018
/-- SEGEST_BASE_LO (Table 10-7). -/
def SEGEST_BASE_LO : Nat := 0xb020
/-- SEGEST_BASE_HI (Table 10-7). -/
def SEGEST_BASE_HI : Nat := 0xb024
/-- BKT_LAST (Table 10-7). -/
def BKT_LAST : Nat := 0xb028
/-- BKT_DONE_CNT (Table 10-7). -/
def BKT_DONE_CNT : Nat := 0xb040
/-- REDO_BLK_CNT (Table 10-7). -/
def REDO_BLK_CNT : Nat := 0xb044
/-- REDO_SAT_CNT (Table 10-7). -/
def REDO_SAT_CNT : Nat := 0xb048
/-- RESULT_RAISE_CNT (Table 10-7). -/
def RESULT_RAISE_CNT : Nat := 0xb04c
/-- SCALE_CHG_CNT (Table 10-7). -/
def SCALE_CHG_CNT : Nat := 0xb050
/-- SCALE_APPLY_CNT (Table 10-7). -/
def SCALE_APPLY_CNT : Nat := 0xb054
/-- RED_PROGRESS (Table 10-7). -/
def RED_PROGRESS : Nat := 0xb058
/-- ADD_STATUS (Table 10-11). -/
def ADD_STATUS (k : Nat) : Nat := linkBase k + 0x1000
/-- ADD_PKT_CNT (Table 10-11). -/
def ADD_PKT_CNT (k : Nat) : Nat := linkBase k + 0x1004
/-- ADD_SAT_CNT (Table 10-11). -/
def ADD_SAT_CNT (k : Nat) : Nat := linkBase k + 0x1008
/-- ADD_HOLD_CNT (Table 10-11). -/
def ADD_HOLD_CNT (k : Nat) : Nat := linkBase k + 0x100c
/-- ADD_WAIT_CNT (Table 10-11). -/
def ADD_WAIT_CNT (k : Nat) : Nat := linkBase k + 0x1010
/-- ADD_POISON_CNT (Table 10-11). -/
def ADD_POISON_CNT (k : Nat) : Nat := linkBase k + 0x1014
/-- MGR_CTL (Table 11-10). -/
def MGR_CTL : Nat := 0x500000
/-- MGR_STATUS (Table 11-10). -/
def MGR_STATUS : Nat := 0x500004
/-- DOMAIN (Table 11-10). -/
def DOMAIN : Nat := 0x500008
/-- JOB0_GEN (Table 11-10). -/
def JOB0_GEN : Nat := 0x50000c
/-- CREW_BASE_LO (Table 11-10). -/
def CREW_BASE_LO : Nat := 0x500010
/-- CREW_BASE_HI (Table 11-10). -/
def CREW_BASE_HI : Nat := 0x500014
/-- CREW_COUNT (Table 11-10). -/
def CREW_COUNT : Nat := 0x500018
/-- CKPT_AREA_LO (Table 11-10). -/
def CKPT_AREA_LO : Nat := 0x500020
/-- CKPT_AREA_HI (Table 11-10). -/
def CKPT_AREA_HI : Nat := 0x500024
/-- CKPT_SLOT_SIZE (Table 11-10). -/
def CKPT_SLOT_SIZE : Nat := 0x500028
/-- CKPT_LAST (Table 11-10). -/
def CKPT_LAST : Nat := 0x50002c
/-- CKPT_COST (Table 11-10). -/
def CKPT_COST : Nat := 0x500030
/-- CKPT_LIMITS (Table 11-10). -/
def CKPT_LIMITS : Nat := 0x500034
/-- MTBF_PRIOR (Table 11-10). -/
def MTBF_PRIOR : Nat := 0x500038
/-- CKPT_INTERVAL (Table 11-10). -/
def CKPT_INTERVAL : Nat := 0x50003c
/-- NODE_TABLE_LO (Table 11-10). -/
def NODE_TABLE_LO : Nat := 0x500040
/-- NODE_TABLE_HI (Table 11-10). -/
def NODE_TABLE_HI : Nat := 0x500044
/-- NODE_TABLE_COUNT (Table 11-10). -/
def NODE_TABLE_COUNT : Nat := 0x500048
/-- PLAN_BASE_LO (Table 11-10). -/
def PLAN_BASE_LO : Nat := 0x500050
/-- PLAN_BASE_HI (Table 11-10). -/
def PLAN_BASE_HI : Nat := 0x500054
/-- PLAN_COUNT (Table 11-10). -/
def PLAN_COUNT : Nat := 0x500058
/-- RUN_BEATS_LO (Table 11-10). -/
def RUN_BEATS_LO : Nat := 0x500060
/-- RUN_BEATS_HI (Table 11-10). -/
def RUN_BEATS_HI : Nat := 0x500064
/-- CKPT_CNT (Table 11-10). -/
def CKPT_CNT : Nat := 0x500080
/-- CKPT_FAIL_CNT (Table 11-10). -/
def CKPT_FAIL_CNT : Nat := 0x500084
/-- RESTORE_CNT (Table 11-10). -/
def RESTORE_CNT : Nat := 0x500088
/-- RESTORE_FAIL_CNT (Table 11-10). -/
def RESTORE_FAIL_CNT : Nat := 0x50008c
/-- FAIL_CNT (Table 11-10). -/
def FAIL_CNT : Nat := 0x500090
/-- SPARE_CNT (Table 11-10). -/
def SPARE_CNT : Nat := 0x500094
/-- SPREAD_CNT (Table 11-10). -/
def SPREAD_CNT : Nat := 0x500098
/-- TAKEOVER_CNT (Table 11-10). -/
def TAKEOVER_CNT : Nat := 0x50009c
/-- FAULT_CTL (Table 12-14). -/
def FAULT_CTL : Nat := 0xc000
/-- FAULT_STATUS (Table 12-14). -/
def FAULT_STATUS : Nat := 0xc004
/-- HANG_WIN0 (Table 12-14). -/
def HANG_WIN0 : Nat := 0xc008
/-- HANG_WIN1 (Table 12-14). -/
def HANG_WIN1 : Nat := 0xc00c
/-- ESC_CFG (Table 12-14). -/
def ESC_CFG : Nat := 0xc010
/-- REPL_CFG (Table 12-14). -/
def REPL_CFG : Nat := 0xc014
/-- REPL_STATUS (Table 12-14). -/
def REPL_STATUS : Nat := 0xc018
/-- RESET_CAUSE (Table 12-14). -/
def RESET_CAUSE : Nat := 0xc01c
/-- SAMPLE_BASE_LO (Table 12-14). -/
def SAMPLE_BASE_LO : Nat := 0xc020
/-- SAMPLE_BASE_HI (Table 12-14). -/
def SAMPLE_BASE_HI : Nat := 0xc024
/-- SAMPLE_STATUS (Table 12-14). -/
def SAMPLE_STATUS : Nat := 0xc028
/-- FLOG_SEL (Table 12-14). -/
def FLOG_SEL : Nat := 0xc02c
/-- FLOG_DATA[w] (Table 12-14). -/
def FLOG_DATA (i : Nat) : Nat := 0xc030 + 4 * i
/-- RGEN_SEL (Table 12-14). -/
def RGEN_SEL : Nat := 0xc050
/-- RGEN_DATA (Table 12-14). -/
def RGEN_DATA : Nat := 0xc054
/-- FT_CTL (Table 12-14). -/
def FT_CTL : Nat := 0xc058
/-- FT_STATUS (Table 12-14). -/
def FT_STATUS : Nat := 0xc05c
/-- FT_SEL (Table 12-14). -/
def FT_SEL : Nat := 0xc060
/-- FT_RESULT (Table 12-14). -/
def FT_RESULT : Nat := 0xc064
/-- TRANSIENT_CNT (Table 12-14). -/
def TRANSIENT_CNT : Nat := 0xc080
/-- LASTING_CNT (Table 12-14). -/
def LASTING_CNT : Nat := 0xc084
/-- CHK_CNT (Table 12-14). -/
def CHK_CNT : Nat := 0xc088
/-- CHK_RETRY_CNT (Table 12-14). -/
def CHK_RETRY_CNT : Nat := 0xc08c
/-- CHK_FAIL_CNT (Table 12-14). -/
def CHK_FAIL_CNT : Nat := 0xc090
/-- CHK_SKIP_CNT (Table 12-14). -/
def CHK_SKIP_CNT : Nat := 0xc094
/-- CS_TRANS_CNT (Table 12-14). -/
def CS_TRANS_CNT : Nat := 0xc098
/-- CS_LASTING_CNT (Table 12-14). -/
def CS_LASTING_CNT : Nat := 0xc09c
/-- HANG_CNT[l] (Table 12-14). -/
def HANG_CNT (i : Nat) : Nat := 0xc0a0 + 4 * i
/-- ABORT_TX_CNT (Table 12-14). -/
def ABORT_TX_CNT : Nat := 0xc0b4
/-- ABORT_RX_CNT (Table 12-14). -/
def ABORT_RX_CNT : Nat := 0xc0b8
/-- ABORT_LATE_CNT (Table 12-14). -/
def ABORT_LATE_CNT : Nat := 0xc0bc
/-- BEACON_DROP_CNT (Table 12-14). -/
def BEACON_DROP_CNT : Nat := 0xc0c0
/-- RGEN_DROP_CNT (Table 12-14). -/
def RGEN_DROP_CNT : Nat := 0xc0c4
/-- SAMPLE_LOST_CNT (Table 12-14). -/
def SAMPLE_LOST_CNT : Nat := 0xc0c8
/-- FLOG_OVF_CNT (Table 12-14). -/
def FLOG_OVF_CNT : Nat := 0xc0cc
/-- CHIP_RST_CNT (Table 12-14). -/
def CHIP_RST_CNT : Nat := 0xc0d0
/-- PD_CTL (Table 13-8). -/
def PD_CTL (p : Nat) : Nat := pwrBase p + 0x0
/-- PD_CFG (Table 13-8). -/
def PD_CFG (p : Nat) : Nat := pwrBase p + 0x4
/-- PD_STATUS (Table 13-8). -/
def PD_STATUS (p : Nat) : Nat := pwrBase p + 0x8
/-- PD_ERR (Table 13-8). -/
def PD_ERR (p : Nat) : Nat := pwrBase p + 0xc
/-- PD_IAVG (Table 13-8). -/
def PD_IAVG (p : Nat) : Nat := pwrBase p + 0x10
/-- PD_VMIN (Table 13-8). -/
def PD_VMIN (p : Nat) : Nat := pwrBase p + 0x14
/-- PD_PHASE (Table 13-8). -/
def PD_PHASE (p : Nat) : Nat := pwrBase p + 0x18
/-- PD_SENSOR_EXCL (Table 13-8). -/
def PD_SENSOR_EXCL (p : Nat) : Nat := pwrBase p + 0x1c
/-- ADMIT_CNT (Table 13-8). -/
def ADMIT_CNT (p : Nat) : Nat := pwrBase p + 0x20
/-- ADMIT_US (Table 13-8). -/
def ADMIT_US (p : Nat) : Nat := pwrBase p + 0x24
/-- PEND_CNT (Table 13-8). -/
def PEND_CNT (p : Nat) : Nat := pwrBase p + 0x28
/-- SPURT_CNT (Table 13-8). -/
def SPURT_CNT (p : Nat) : Nat := pwrBase p + 0x2c
/-- DROOP_CNT (Table 13-8). -/
def DROOP_CNT (p : Nat) : Nat := pwrBase p + 0x30
/-- RAMP_CNT (Table 13-8). -/
def RAMP_CNT (p : Nat) : Nat := pwrBase p + 0x34
/-- PWR_CFG (Table 13-12). -/
def PWR_CFG : Nat := 0xd000
/-- PKG_IAVG (Table 13-12). -/
def PKG_IAVG : Nat := 0xd004
/-- THERM_CFG (Table 13-12). -/
def THERM_CFG : Nat := 0xd008
/-- THERM_STATUS (Table 13-12). -/
def THERM_STATUS : Nat := 0xd00c
/-- HOT_MAX (Table 13-12). -/
def HOT_MAX : Nat := 0xd010
/-- PKG_STATUS (Table 13-12). -/
def PKG_STATUS : Nat := 0xd014
/-- PKG_LIMIT_CNT (Table 13-12). -/
def PKG_LIMIT_CNT : Nat := 0xd020
/-- THROTTLE_CNT (Table 13-12). -/
def THROTTLE_CNT : Nat := 0xd024
/-- TRIP_UNCONF_CNT (Table 13-12). -/
def TRIP_UNCONF_CNT : Nat := 0xd028
/-- PHASE_FAIL_CNT (Table 13-12). -/
def PHASE_FAIL_CNT : Nat := 0xd02c
/-- CFG_STATUS (Table 14-14). -/
def CFG_STATUS : Nat := 0x400000
/-- CFG_LEN (Table 14-14). -/
def CFG_LEN : Nat := 0x400004
/-- CFG_SECVER (Table 14-14). -/
def CFG_SECVER : Nat := 0x400008
/-- CFG_LOAD_US (Table 14-14). -/
def CFG_LOAD_US : Nat := 0x40000c
/-- IMG_MEAS[w] (Table 14-14). -/
def IMG_MEAS (i : Nat) : Nat := 0x400010 + 4 * i
/-- PATCH_MEAS[w] (Table 14-14). -/
def PATCH_MEAS (i : Nat) : Nat := 0x400050 + 4 * i
/-- OWNER_DIGEST[w] (Table 14-14). -/
def OWNER_DIGEST (i : Nat) : Nat := 0x400090 + 4 * i
/-- OWNER_STATUS (Table 14-14). -/
def OWNER_STATUS : Nat := 0x4000d0
/-- SEC_CMD (Table 14-14). -/
def SEC_CMD : Nat := 0x400100
/-- SEC_STATUS (Table 14-14). -/
def SEC_STATUS : Nat := 0x400104
/-- TENANT (Table 14-14). -/
def TENANT : Nat := 0x400108
/-- SEC_MBOX (Table 14-14). -/
def SEC_MBOX (i : Nat) : Nat := 0x401000 + 4 * i
/-- ID_PUB (Table 14-14). -/
def ID_PUB (i : Nat) : Nat := 0x404000 + 4 * i
/-- ID_NAME0 (Table 15-6). -/
def ID_NAME0 : Nat := 0x0
/-- ID_NAME1 (Table 15-6). -/
def ID_NAME1 : Nat := 0x4
/-- ID_NAME2 (Table 15-6). -/
def ID_NAME2 : Nat := 0x8
/-- ID_STEP (Table 15-6). -/
def ID_STEP : Nat := 0xc
/-- ID_ROM (Table 15-6). -/
def ID_ROM : Nat := 0x10
/-- ID_JTAG (Table 15-6). -/
def ID_JTAG : Nat := 0x14
/-- ID_IDENT[w] (Table 15-6). -/
def ID_IDENT (i : Nat) : Nat := 0x20 + 4 * i
/-- GLB_STATUS (Table 15-6). -/
def GLB_STATUS : Nat := 0x30
/-- START_US (Table 15-6). -/
def START_US : Nat := 0x34
/-- REG_ERR (Table 15-6). -/
def REG_ERR : Nat := 0x40
/-- REG_DENY_CNT (Table 15-6). -/
def REG_DENY_CNT : Nat := 0x44
/-- REG_LAST_ADDR (Table 15-6). -/
def REG_LAST_ADDR : Nat := 0x48
/-- REG_LAST_PATH (Table 15-6). -/
def REG_LAST_PATH : Nat := 0x4c
/-- GLB_SCRATCH (Table 15-6). -/
def GLB_SCRATCH : Nat := 0x50
/-- MEM_WIN_ADDR_LO (Table 15-6). -/
def MEM_WIN_ADDR_LO : Nat := 0x60
/-- MEM_WIN_ADDR_HI (Table 15-6). -/
def MEM_WIN_ADDR_HI : Nat := 0x64
/-- MEM_WIN_DATA (Table 15-6). -/
def MEM_WIN_DATA : Nat := 0x68
/-- MEM_WIN_STATUS (Table 15-6). -/
def MEM_WIN_STATUS : Nat := 0x6c

/-- Registers of Table 1-10. -/
def rows_1_10 : List RegRow := [
  ⟨0x100000, 1, 0, 0x0, 0x0, 0xffff3f03, 0x103f0001⟩,
  ⟨0x100004, 1, 0, 0x0, 0x0, 0xff1fff, 0x403e8⟩,
  ⟨0x100008, 1, 0, 0x0, 0xbe, 0x0, 0x0⟩,
  ⟨0x100010, 1, 0, 0x0, 0x0, 0x0, 0x0⟩,
  ⟨0x100014, 1, 0, 0x0, 0x0, 0x0, 0x0⟩,
  ⟨0x100018, 1, 0, 0x0, 0x0, 0x0, 0x0⟩,
  ⟨0x100020, 1, 0, 0x0, 0x0, 0x0, 0x0⟩,
  ⟨0x100024, 1, 0, 0x0, 0x0, 0x0, 0x0⟩,
  ⟨0x100028, 1, 0, 0x0, 0x0, 0x0, 0x0⟩,
  ⟨0x10002c, 1, 0, 0xffffffff, 0x0, 0x0, 0x0⟩]
/-- Registers of Table 1-16. -/
def rows_1_16 : List RegRow := [
  ⟨0x1000, 1, 0, 0x1, 0x0, 0x0, 0x0⟩,
  ⟨0x1004, 1, 0, 0x1fffc0, 0x0, 0x0, 0x0⟩,
  ⟨0x1008, 1, 0, 0x0, 0x0, 0x0, 0x0⟩,
  ⟨0x100c, 1, 0, 0x0, 0x3, 0x0, 0x0⟩,
  ⟨0x1010, 1, 0, 0x0, 0x0, 0x0, 0x0⟩,
  ⟨0x1014, 1, 0, 0x0, 0x0, 0x0, 0x0⟩]
/-- Registers of Table 2-8. -/
def rows_2_8 : List RegRow := [
  ⟨0x0, 1, 0, 0x1, 0x0, 0x0, 0x1⟩,
  ⟨0x4, 1, 0, 0x0, 0xfc0, 0x0, 0x0⟩,
  ⟨0x8, 1, 0, 0x1ffff, 0x0, 0x0, 0xc000⟩,
  ⟨0xc, 1, 0, 0xffffff, 0x0, 0x0, 0x300400⟩,
  ⟨0x10, 1, 0, 0x0, 0x0, 0x0, 0xfac688⟩,
  ⟨0x14, 1, 0, 0x0, 0x0, 0x0, 0x4000⟩,
  ⟨0x20, 1, 0, 0x0, 0x0, 0x0, 0x0⟩,
  ⟨0x24, 1, 0, 0x0, 0x0, 0x0, 0x0⟩,
  ⟨0x28, 1, 0, 0x0, 0x0, 0x0, 0x0⟩,
  ⟨0x2c, 1, 0, 0x0, 0x0, 0x0, 0x0⟩,
  ⟨0x30, 1, 0, 0x0, 0x0, 0x0, 0x0⟩,
  ⟨0x34, 1, 0, 0x0, 0x0, 0x0, 0x0⟩,
  ⟨0x38, 1, 0, 0x0, 0x0, 0x0, 0x0⟩,
  ⟨0x3c, 1, 0, 0x0, 0x0, 0x0, 0x0⟩,
  ⟨0x40, 1, 0, 0x0, 0x0, 0x0, 0x0⟩,
  ⟨0x100, 8, 4, 0xf3, 0x0, 0x0, 0x61⟩,
  ⟨0x800, 256, 4, 0xffff, 0x0, 0x0, 0x0⟩]
/-- Registers of Table 2-17. -/
def rows_2_17 : List RegRow := [
  ⟨0x1800, 1, 0, 0x0, 0x0, 0x0, 0x0⟩,
  ⟨0x1804, 1, 0, 0x0, 0x1, 0x0, 0x0⟩,
  ⟨0x1808, 1, 0, 0x0, 0x0, 0x0, 0x0⟩]
/-- Registers of Table 3-13. -/
def rows_3_13 : List RegRow := [
  ⟨0x200, 1, 0, 0x0, 0xf8, 0x0, 0x0⟩,
  ⟨0x204, 1, 0, 0xffff, 0x0, 0x0, 0x1000⟩,
  ⟨0x208, 1, 0, 0xffffffff, 0x0, 0x0, 0x895440⟩,
  ⟨0x20c, 1, 0, 0xffffffff, 0x0, 0x0, 0x55d4a80⟩,
  ⟨0x210, 1, 0, 0x0, 0x0, 0x0, 0x0⟩,
  ⟨0x214, 1, 0, 0x0, 0x0, 0x0, 0x0⟩,
  ⟨0x218, 1, 0, 0x0, 0x0, 0x0, 0x0⟩,
  ⟨0x21c, 1, 0, 0x0, 0x0, 0x0, 0x0⟩,
  ⟨0x220, 1, 0, 0x0, 0x0, 0x0, 0x0⟩,
  ⟨0x224, 1, 0, 0x0, 0x0, 0x0, 0x0⟩,
  ⟨0x228, 1, 0, 0x0, 0x0, 0x0, 0x0⟩,
  ⟨0x22c, 1, 0, 0x0, 0x0, 0x0, 0x0⟩,
  ⟨0x230, 1, 0, 0x0, 0x0, 0x0, 0x0⟩,
  ⟨0x240, 8, 8, 0x0, 0x0, 0x0, 0x0⟩,
  ⟨0x244, 8, 8, 0x0, 0x0, 0x0, 0x0⟩,
  ⟨0x280, 8, 4, 0x0, 0x0, 0x0, 0x0⟩]
/-- Registers of Table 3-17. -/
def rows_3_17 : List RegRow := [
  ⟨0x1c00, 1, 0, 0x1fffc0, 0x0, 0x0, 0x0⟩,
  ⟨0x1c04, 1, 0, 0x0, 0x0, 0x0, 0x0⟩,
  ⟨0x1c08, 1, 0, 0x0, 0x7, 0x0, 0x0⟩,
  ⟨0x1c10, 1, 0, 0xfffff000, 0x0, 0x0, 0x0⟩,
  ⟨0x1c14, 1, 0, 0xff, 0x0, 0x0, 0x0⟩,
  ⟨0x1c18, 1, 0, 0xfffff000, 0x0, 0x0, 0x0⟩,
  ⟨0x1c1c, 1, 0, 0xff, 0x0, 0x0, 0x0⟩,
  ⟨0x1c20, 1, 0, 0x0, 0x0, 0x0, 0x0⟩,
  ⟨0x1c24, 1, 0, 0x0, 0x0, 0x0, 0x0⟩,
  ⟨0x1c28, 1, 0, 0x0, 0x0, 0x0, 0x0⟩]
/-- Registers of Table 4-5. -/
def rows_4_5 : List RegRow := [
  ⟨0x400, 1, 0, 0xffff00ff, 0x0, 0x0, 0xf0000034⟩,
  ⟨0x404, 1, 0, 0x0, 0x8, 0x0, 0x0⟩,
  ⟨0x408, 1, 0, 0x1ff, 0x0, 0x0, 0x60⟩,
  ⟨0x40c, 1, 0, 0xffffffff, 0x0, 0x0, 0x90007000⟩,
  ⟨0x410, 1, 0, 0xffffffff, 0x0, 0x0, 0xc0006800⟩,
  ⟨0x414, 1, 0, 0xffffffff, 0x0, 0x0, 0x8001000⟩,
  ⟨0x418, 1, 0, 0x0, 0x0, 0x0, 0x0⟩,
  ⟨0x41c, 1, 0, 0x0, 0x0, 0x0, 0x0⟩,
  ⟨0x420, 1, 0, 0x0, 0x0, 0x0, 0xff7f01⟩,
  ⟨0x424, 1, 0, 0x0, 0x0, 0x0, 0x0⟩,
  ⟨0x428, 1, 0, 0x0, 0x0, 0x0, 0x0⟩,
  ⟨0x42c, 1, 0, 0x0, 0x0, 0x0, 0x0⟩,
  ⟨0x430, 1, 0, 0x0, 0x0, 0x0, 0x0⟩,
  ⟨0x434, 1, 0, 0x0, 0x0, 0x0, 0x0⟩,
  ⟨0x440, 8, 4, 0x0, 0x0, 0x0, 0x0⟩,
  ⟨0x460, 8, 4, 0x0, 0x0, 0x0, 0x8000⟩,
  ⟨0x480, 1, 0, 0x0, 0x0, 0x0, 0x80000000⟩,
  ⟨0x500, 1, 0, 0x3ff, 0x0, 0x0, 0x0⟩,
  ⟨0x504, 1, 0, 0x0, 0x0, 0x0, 0x0⟩]
/-- Registers of Table 4-12. -/
def rows_4_12 : List RegRow := [
  ⟨0x300000, 1, 0, 0xff1f2f, 0x0, 0x0, 0x0⟩,
  ⟨0x300004, 1, 0, 0x0, 0x30, 0x0, 0x0⟩,
  ⟨0x300008, 1, 0, 0x0, 0x0, 0x0, 0x0⟩,
  ⟨0x30000c, 1, 0, 0xffff, 0x0, 0x0, 0x0⟩,
  ⟨0x300010, 1, 0, 0x0, 0x0, 0x0, 0x0⟩,
  ⟨0x300014, 1, 0, 0x0, 0x0, 0x0, 0x0⟩,
  ⟨0x300018, 1, 0, 0x0, 0x0, 0x0, 0x0⟩,
  ⟨0x30001c, 1, 0, 0x0, 0x0, 0x0, 0x0⟩,
  ⟨0x300020, 1, 0, 0x0, 0x0, 0x0, 0x0⟩]
/-- Registers of Table 5-13. -/
def rows_5_13 : List RegRow := [
  ⟨0x4000, 8, 256, 0x0, 0x0, 0x0, 0x0⟩,
  ⟨0x4004, 8, 256, 0x0, 0x3f, 0x0, 0x0⟩,
  ⟨0x4008, 8, 256, 0x0, 0x3f, 0x0, 0x0⟩,
  ⟨0x4010, 8, 256, 0x0, 0x0, 0x0, 0x0⟩,
  ⟨0x4014, 8, 256, 0x0, 0x0, 0x0, 0x0⟩,
  ⟨0x4018, 8, 256, 0x0, 0x0, 0x0, 0x0⟩,
  ⟨0x401c, 8, 256, 0x0, 0x0, 0x0, 0x0⟩,
  ⟨0x4020, 8, 256, 0x0, 0x0, 0x0, 0x0⟩,
  ⟨0x4024, 8, 256, 0x0, 0x0, 0x0, 0x0⟩,
  ⟨0x4800, 1, 0, 0x0, 0x0, 0x0, 0x0⟩,
  ⟨0x4804, 1, 0, 0x0, 0x3, 0x0, 0x0⟩,
  ⟨0x4808, 1, 0, 0xfffff000, 0x0, 0x0, 0x0⟩,
  ⟨0x480c, 1, 0, 0xff, 0x0, 0x0, 0x0⟩,
  ⟨0x4810, 1, 0, 0xfffff, 0x0, 0x0, 0x0⟩,
  ⟨0x4814, 1, 0, 0x0, 0x0, 0x0, 0x0⟩,
  ⟨0x4818, 1, 0, 0x0, 0x0, 0x0, 0x0⟩,
  ⟨0x481c, 1, 0, 0x0, 0x0, 0x0, 0x0⟩,
  ⟨0x4900, 1, 0, 0x0, 0x0, 0x0, 0x0⟩,
  ⟨0x4904, 1, 0, 0x0, 0x3f, 0x0, 0x0⟩,
  ⟨0x4908, 1, 0, 0x0, 0x0, 0x0, 0x0⟩,
  ⟨0x490c, 1, 0, 0x0, 0x0, 0x0, 0x0⟩]
/-- Registers of Table 6-9. -/
def rows_6_9 : List RegRow := [
  ⟨0x4a00, 1, 0, 0x1fffc0, 0x0, 0x0, 0x0⟩,
  ⟨0x4a04, 1, 0, 0x3fff, 0x0, 0x0, 0x0⟩,
  ⟨0x4a08, 1, 0, 0xffffffff, 0x0, 0x0, 0x0⟩,
  ⟨0x4a0c, 1, 0, 0x0, 0x3, 0x0, 0x0⟩,
  ⟨0x4a10, 1, 0, 0x0, 0x0, 0x0, 0x0⟩,
  ⟨0x4a14, 1, 0, 0x0, 0x0, 0x0, 0x0⟩,
  ⟨0x4a18, 1, 0, 0x0, 0x0, 0x0, 0x0⟩,
  ⟨0x4a1c, 1, 0, 0x0, 0x0, 0x0, 0x0⟩,
  ⟨0x4a20, 1, 0, 0x0, 0x0, 0x0, 0x0⟩]
/-- Registers of Table 7-14. -/
def rows_7_14 : List RegRow := [
  ⟨0x8000, 1, 0, 0x1, 0x0, 0x0, 0x0⟩,
  ⟨0x8004, 1, 0, 0xffff001f, 0x0, 0x0, 0x1⟩,
  ⟨0x8008, 1, 0, 0x0, 0x20000, 0x0, 0x0⟩,
  ⟨0x800c, 1, 0, 0x0, 0x3, 0x0, 0x0⟩,
  ⟨0x8010, 1, 0, 0x0, 0x0, 0x0, 0x0⟩,
  ⟨0x8014, 1, 0, 0x0, 0x0, 0x0, 0x0⟩,
  ⟨0x8018, 1, 0, 0xfffff000, 0x0, 0x0, 0x0⟩,
  ⟨0x801c, 1, 0, 0xff, 0x0, 0x0, 0x0⟩,
  ⟨0x8020, 1, 0, 0xffff, 0x0, 0x0, 0x0⟩,
  ⟨0x8024, 1, 0, 0xffff, 0x0, 0x0, 0x0⟩,
  ⟨0x8028, 1, 0, 0x0, 0x0, 0x0, 0x0⟩,
  ⟨0x8030, 1, 0, 0xfffff000, 0x0, 0x0, 0x0⟩,
  ⟨0x8034, 1, 0, 0xff, 0x0, 0x0, 0x0⟩,
  ⟨0x8038, 1, 0, 0xfffff000, 0x0, 0x0, 0x0⟩,
  ⟨0x8040, 1, 0, 0xffff0000, 0x0, 0x0, 0x0⟩,
  ⟨0x8044, 1, 0, 0xff, 0x0, 0x0, 0x0⟩,
  ⟨0x8048, 1, 0, 0x7fffff, 0x0, 0x0, 0x0⟩,
  ⟨0x804c, 1, 0, 0x0, 0x0, 0x0, 0x0⟩,
  ⟨0x8050, 1, 0, 0xfffff000, 0x0, 0x0, 0x0⟩,
  ⟨0x8054, 1, 0, 0xff, 0x0, 0x0, 0x0⟩,
  ⟨0x8058, 1, 0, 0x1ffff, 0x0, 0x0, 0x0⟩,
  ⟨0x8060, 1, 0, 0xffff0000, 0x0, 0x0, 0x0⟩,
  ⟨0x8064, 1, 0, 0xff, 0x0, 0x0, 0x0⟩,
  ⟨0x8068, 1, 0, 0x7fffff, 0x0, 0x0, 0x0⟩,
  ⟨0x8070, 1, 0, 0x0, 0x3, 0x0, 0x0⟩,
  ⟨0x8080, 1, 0, 0x0, 0x0, 0x0, 0x0⟩,
  ⟨0x8084, 1, 0, 0x0, 0x0, 0x0, 0x0⟩,
  ⟨0x8088, 1, 0, 0x0, 0x0, 0x0, 0x0⟩,
  ⟨0x808c, 1, 0, 0x0, 0x0, 0x0, 0x0⟩,
  ⟨0x8090, 1, 0, 0x0, 0x0, 0x0, 0x0⟩,
  ⟨0x8094, 1, 0, 0x0, 0x0, 0x0, 0x0⟩,
  ⟨0x8098, 1, 0, 0x0, 0x0, 0x0, 0x0⟩,
  ⟨0x809c, 1, 0, 0x0, 0x0, 0x0, 0x0⟩]
/-- Registers of Table 7-18. -/
def rows_7_18 : List RegRow := [
  ⟨0x9000, 1, 0, 0xf, 0x0, 0x0, 0x2⟩,
  ⟨0x9004, 1, 0, 0x0, 0x0, 0x0, 0x0⟩,
  ⟨0x9008, 1, 0, 0xfffff000, 0x0, 0x0, 0x0⟩,
  ⟨0x900c, 1, 0, 0xff, 0x0, 0x0, 0x0⟩,
  ⟨0x9010, 1, 0, 0xffff, 0x0, 0x0, 0x0⟩,
  ⟨0x9014, 1, 0, 0xffff, 0x0, 0x0, 0x0⟩,
  ⟨0x9018, 1, 0, 0x0, 0x0, 0x0, 0x0⟩,
  ⟨0x9020, 1, 0, 0xfffff000, 0x0, 0x0, 0x0⟩,
  ⟨0x9024, 1, 0, 0xff, 0x0, 0x0, 0x0⟩,
  ⟨0x9028, 1, 0, 0xffff, 0x0, 0x0, 0x0⟩,
  ⟨0x902c, 1, 0, 0xffff, 0x0, 0x0, 0x0⟩,
  ⟨0x9030, 1, 0, 0x0, 0x0, 0x0, 0x0⟩,
  ⟨0x9038, 1, 0, 0xffff0000, 0x0, 0x0, 0x0⟩,
  ⟨0x903c, 1, 0, 0xff, 0x0, 0x0, 0x0⟩,
  ⟨0x9040, 1, 0, 0x7fffff, 0x0, 0x0, 0x0⟩,
  ⟨0x9044, 1, 0, 0x0, 0x0, 0x0, 0x0⟩,
  ⟨0x9048, 1, 0, 0xfffff000, 0x0, 0x0, 0x0⟩,
  ⟨0x904c, 1, 0, 0xff, 0x0, 0x0, 0x0⟩,
  ⟨0x9050, 1, 0, 0x0, 0x0, 0x0, 0x0⟩,
  ⟨0x9054, 1, 0, 0x0, 0x0, 0x0, 0x0⟩,
  ⟨0x9058, 1, 0, 0x0, 0x0, 0x0, 0x0⟩,
  ⟨0x905c, 1, 0, 0x0, 0x0, 0x0, 0x0⟩,
  ⟨0x9060, 1, 0, 0x0, 0x0, 0x0, 0x0⟩]
/-- Registers of Table 7-20. -/
def rows_7_20 : List RegRow := [
  ⟨0x4b00, 1, 0, 0x1fffc0, 0x0, 0x0, 0x0⟩,
  ⟨0x4b04, 1, 0, 0x1fff, 0x0, 0x0, 0x0⟩,
  ⟨0x4b08, 1, 0, 0x0, 0x1, 0x0, 0x0⟩,
  ⟨0x4b0c, 1, 0, 0x0, 0x0, 0x0, 0x0⟩]
/-- Registers of Table 8-7. -/
def rows_8_7 : List RegRow := [
  ⟨0x0, 1, 0, 0x0, 0x0, 0x0, 0x0⟩,
  ⟨0x4, 1, 0, 0x0, 0x0, 0x0, 0x7d⟩,
  ⟨0x8, 1, 0, 0x0, 0xf, 0x0, 0x0⟩,
  ⟨0xc, 1, 0, 0xffff, 0x0, 0x0, 0x400⟩,
  ⟨0x10, 1, 0, 0x7fff, 0x0, 0x0, 0x0⟩,
  ⟨0x14, 1, 0, 0xffff, 0x0, 0x0, 0x0⟩,
  ⟨0x18, 1, 0, 0x7fff, 0x0, 0x0, 0x0⟩,
  ⟨0x1c, 1, 0, 0x0, 0x0, 0x0, 0x0⟩,
  ⟨0x20, 1, 0, 0x3f, 0x0, 0x0, 0x0⟩,
  ⟨0x24, 1, 0, 0x0, 0x0, 0x0, 0x0⟩,
  ⟨0x28, 1, 0, 0x1f, 0x0, 0x0, 0x0⟩,
  ⟨0x2c, 1, 0, 0x0, 0x0, 0x0, 0x0⟩,
  ⟨0x40, 1, 0, 0x0, 0x0, 0x0, 0x0⟩,
  ⟨0x44, 1, 0, 0x0, 0x0, 0x0, 0x0⟩,
  ⟨0x48, 1, 0, 0x0, 0x0, 0x0, 0x0⟩,
  ⟨0x4c, 1, 0, 0x0, 0x0, 0x0, 0x0⟩,
  ⟨0x50, 1, 0, 0x0, 0x0, 0x0, 0x0⟩,
  ⟨0x54, 1, 0, 0x0, 0x0, 0x0, 0x0⟩,
  ⟨0x58, 1, 0, 0x0, 0x0, 0x0, 0x0⟩,
  ⟨0x5c, 1, 0, 0x0, 0x0, 0x0, 0x0⟩,
  ⟨0x60, 1, 0, 0x0, 0x0, 0x0, 0x0⟩,
  ⟨0x64, 1, 0, 0x0, 0x0, 0x0, 0x0⟩,
  ⟨0x68, 1, 0, 0x0, 0x0, 0x0, 0x0⟩,
  ⟨0x6c, 1, 0, 0x0, 0x0, 0x0, 0x0⟩,
  ⟨0x70, 1, 0, 0x0, 0x0, 0x0, 0x0⟩,
  ⟨0x74, 1, 0, 0x0, 0x0, 0x0, 0x0⟩]
/-- Registers of Table 8-11. -/
def rows_8_11 : List RegRow := [
  ⟨0x100, 1, 0, 0x0, 0x0, 0x0, 0x0⟩,
  ⟨0x104, 1, 0, 0x0, 0x0, 0x0, 0x0⟩]
/-- Registers of Table 9-13. -/
def rows_9_13 : List RegRow := [
  ⟨0x0, 1, 0, 0x0, 0x0, 0x0, 0x0⟩,
  ⟨0x4, 1, 0, 0x0, 0x0, 0xfffffff, 0x0⟩,
  ⟨0x8, 1, 0, 0x0, 0x0, 0x0, 0xffff0000⟩,
  ⟨0xc, 1, 0, 0x0, 0xf, 0x0, 0x0⟩,
  ⟨0x10, 1, 0, 0x0, 0x0, 0x0, 0x0⟩,
  ⟨0x14, 1, 0, 0x0, 0x0, 0x0, 0x0⟩,
  ⟨0x40, 1, 0, 0x0, 0x0, 0x0, 0x0⟩,
  ⟨0x44, 1, 0, 0x0, 0x0, 0x0, 0x0⟩,
  ⟨0x48, 1, 0, 0x0, 0x0, 0x0, 0x0⟩,
  ⟨0x4c, 1, 0, 0x0, 0x0, 0x0, 0x0⟩,
  ⟨0x50, 1, 0, 0x0, 0x0, 0x0, 0x0⟩,
  ⟨0x54, 1, 0, 0x0, 0x0, 0x0, 0x0⟩,
  ⟨0x58, 1, 0, 0x0, 0x0, 0x0, 0x0⟩,
  ⟨0x5c, 1, 0, 0x0, 0x0, 0x0, 0x0⟩,
  ⟨0x60, 1, 0, 0x0, 0x0, 0x0, 0x0⟩,
  ⟨0x64, 1, 0, 0x0, 0x0, 0x0, 0x0⟩]
/-- Registers of Table 9-18. -/
def rows_9_18 : List RegRow := [
  ⟨0xa000, 1, 0, 0x0, 0x0, 0x3fffffff, 0x10000000⟩,
  ⟨0xa004, 1, 0, 0x0, 0x0, 0x0, 0xfffe⟩,
  ⟨0xa008, 1, 0, 0xff3fff, 0x0, 0x0, 0x21010⟩,
  ⟨0xa00c, 1, 0, 0x0, 0x0, 0x1ffff, 0xc000⟩,
  ⟨0xa010, 1, 0, 0xffffff, 0x0, 0x0, 0x0⟩,
  ⟨0xa014, 1, 0, 0xffff, 0x0, 0x0, 0x0⟩,
  ⟨0xa018, 1, 0, 0x0, 0x0, 0x0, 0x0⟩,
  ⟨0xa01c, 1, 0, 0x0, 0xf, 0x0, 0x0⟩,
  ⟨0xa020, 1, 0, 0x0, 0x0, 0x0, 0x1⟩,
  ⟨0xa040, 1, 0, 0x0, 0x0, 0x0, 0x0⟩,
  ⟨0xa044, 1, 0, 0x0, 0x0, 0x0, 0x0⟩,
  ⟨0xa048, 1, 0, 0x0, 0x0, 0x0, 0x0⟩,
  ⟨0xa04c, 1, 0, 0x0, 0x0, 0x0, 0x0⟩,
  ⟨0xa050, 1, 0, 0x0, 0x0, 0x0, 0x0⟩,
  ⟨0xa054, 1, 0, 0x0, 0x0, 0x0, 0x0⟩,
  ⟨0xa058, 1, 0, 0x0, 0x0, 0x0, 0x0⟩]
/-- Registers of Table 10-7. -/
def rows_10_7 : List RegRow := [
  ⟨0xb000, 1, 0, 0xffff00ff, 0x0, 0x0, 0x4000010⟩,
  ⟨0xb004, 1, 0, 0x0, 0x0, 0x0, 0x0⟩,
  ⟨0xb008, 1, 0, 0x0, 0x7, 0x0, 0x0⟩,
  ⟨0xb010, 1, 0, 0xfffff000, 0x0, 0x0, 0x0⟩,
  ⟨0xb014, 1, 0, 0xff, 0x0, 0x0, 0x0⟩,
  ⟨0xb018, 1, 0, 0xfffffff, 0x0, 0x0, 0x0⟩,
  ⟨0xb020, 1, 0, 0xfffff000, 0x0, 0x0, 0x0⟩,
  ⟨0xb024, 1, 0, 0xff, 0x0, 0x0, 0x0⟩,
  ⟨0xb028, 1, 0, 0x0, 0x0, 0x0, 0x0⟩,
  ⟨0xb040, 1, 0, 0x0, 0x0, 0x0, 0x0⟩,
  ⟨0xb044, 1, 0, 0x0, 0x0, 0x0, 0x0⟩,
  ⟨0xb048, 1, 0, 0x0, 0x0, 0x0, 0x0⟩,
  ⟨0xb04c, 1, 0, 0x0, 0x0, 0x0, 0x0⟩,
  ⟨0xb050, 1, 0, 0x0, 0x0, 0x0, 0x0⟩,
  ⟨0xb054, 1, 0, 0x0, 0x0, 0x0, 0x0⟩,
  ⟨0xb058, 1, 0, 0x0, 0x0, 0x0, 0x0⟩]
/-- Registers of Table 10-11. -/
def rows_10_11 : List RegRow := [
  ⟨0x1000, 1, 0, 0x0, 0x0, 0x0, 0x0⟩,
  ⟨0x1004, 1, 0, 0x0, 0x0, 0x0, 0x0⟩,
  ⟨0x1008, 1, 0, 0x0, 0x0, 0x0, 0x0⟩,
  ⟨0x100c, 1, 0, 0x0, 0x0, 0x0, 0x0⟩,
  ⟨0x1010, 1, 0, 0x0, 0x0, 0x0, 0x0⟩,
  ⟨0x1014, 1, 0, 0x0, 0x0, 0x0, 0x0⟩]
/-- Registers of Table 11-10. -/
def rows_11_10 : List RegRow := [
  ⟨0x500000, 1, 0, 0xffffff3f, 0x0, 0x0, 0x7d04008⟩,
  ⟨0x500004, 1, 0, 0x0, 0x30, 0x0, 0x0⟩,
  ⟨0x500008, 1, 0, 0x0, 0x0, 0xffff, 0xffff⟩,
  ⟨0x50000c, 1, 0, 0x0, 0x0, 0x0, 0x0⟩,
  ⟨0x500010, 1, 0, 0xfffff000, 0x0, 0x0, 0x0⟩,
  ⟨0x500014, 1, 0, 0xff, 0x0, 0x0, 0x0⟩,
  ⟨0x500018, 1, 0, 0x7ff, 0x0, 0x0, 0x0⟩,
  ⟨0x500020, 1, 0, 0xfffff000, 0x0, 0x0, 0x0⟩,
  ⟨0x500024, 1, 0, 0xff, 0x0, 0x0, 0x0⟩,
  ⟨0x500028, 1, 0, 0xffffff, 0x0, 0x0, 0x0⟩,
  ⟨0x50002c, 1, 0, 0x0, 0x0, 0x0, 0x0⟩,
  ⟨0x500030, 1, 0, 0xffffffff, 0x0, 0x0, 0x0⟩,
  ⟨0x500034, 1, 0, 0xffffffff, 0x0, 0x0, 0xffff0010⟩,
  ⟨0x500038, 1, 0, 0xffffffff, 0x0, 0x0, 0x50776⟩,
  ⟨0x50003c, 1, 0, 0x0, 0x0, 0x0, 0x0⟩,
  ⟨0x500040, 1, 0, 0xfffff000, 0x0, 0x0, 0x0⟩,
  ⟨0x500044, 1, 0, 0xff, 0x0, 0x0, 0x0⟩,
  ⟨0x500048, 1, 0, 0x1fff, 0x0, 0x0, 0x0⟩,
  ⟨0x500050, 1, 0, 0xfffff000, 0x0, 0x0, 0x0⟩,
  ⟨0x500054, 1, 0, 0xff, 0x0, 0x0, 0x0⟩,
  ⟨0x500058, 1, 0, 0xffff, 0x0, 0x0, 0x0⟩,
  ⟨0x500060, 1, 0, 0x0, 0x0, 0x0, 0x0⟩,
  ⟨0x500064, 1, 0, 0x0, 0x0, 0x0, 0x0⟩,
  ⟨0x500080, 1, 0, 0x0, 0x0, 0x0, 0x0⟩,
  ⟨0x500084, 1, 0, 0x0, 0x0, 0x0, 0x0⟩,
  ⟨0x500088, 1, 0, 0x0, 0x0, 0x0, 0x0⟩,
  ⟨0x50008c, 1, 0, 0x0, 0x0, 0x0, 0x0⟩,
  ⟨0x500090, 1, 0, 0x0, 0x0, 0x0, 0x0⟩,
  ⟨0x500094, 1, 0, 0x0, 0x0, 0x0, 0x0⟩,
  ⟨0x500098, 1, 0, 0x0, 0x0, 0x0, 0x0⟩,
  ⟨0x50009c, 1, 0, 0x0, 0x0, 0x0, 0x0⟩]
/-- Registers of Table 12-14. -/
def rows_12_14 : List RegRow := [
  ⟨0xc000, 1, 0, 0x3f03, 0x0, 0x0, 0x800⟩,
  ⟨0xc004, 1, 0, 0x0, 0x43, 0x0, 0x0⟩,
  ⟨0xc008, 1, 0, 0xffffffff, 0x0, 0x0, 0x800080⟩,
  ⟨0xc00c, 1, 0, 0xffffffff, 0x0, 0x0, 0x3d090800⟩,
  ⟨0xc010, 1, 0, 0xffff07, 0x0, 0x0, 0xa6405⟩,
  ⟨0xc014, 1, 0, 0x7fff3fff, 0x0, 0x0, 0x100666⟩,
  ⟨0xc018, 1, 0, 0x0, 0x0, 0x0, 0x40000000⟩,
  ⟨0xc01c, 1, 0, 0x0, 0x0, 0x0, 0x0⟩,
  ⟨0xc020, 1, 0, 0xfffff000, 0x0, 0x0, 0x0⟩,
  ⟨0xc024, 1, 0, 0xff, 0x0, 0x0, 0x0⟩,
  ⟨0xc028, 1, 0, 0x0, 0x1, 0x0, 0x0⟩,
  ⟨0xc02c, 1, 0, 0xff, 0x0, 0x0, 0x0⟩,
  ⟨0xc030, 8, 4, 0x0, 0x0, 0x0, 0x0⟩,
  ⟨0xc050, 1, 0, 0x7ff, 0x0, 0x0, 0x0⟩,
  ⟨0xc054, 1, 0, 0x0, 0x0, 0x0, 0x0⟩,
  ⟨0xc058, 1, 0, 0x0, 0x0, 0x0, 0x0⟩,
  ⟨0xc05c, 1, 0, 0x0, 0x2, 0x0, 0xc⟩,
  ⟨0xc060, 1, 0, 0x3ff, 0x0, 0x0, 0x0⟩,
  ⟨0xc064, 1, 0, 0x0, 0x0, 0x0, 0x0⟩,
  ⟨0xc080, 1, 0, 0x0, 0x0, 0x0, 0x0⟩,
  ⟨0xc084, 1, 0, 0x0, 0x0, 0x0, 0x0⟩,
  ⟨0xc088, 1, 0, 0x0, 0x0, 0x0, 0x0⟩,
  ⟨0xc08c, 1, 0, 0x0, 0x0, 0x0, 0x0⟩,
  ⟨0xc090, 1, 0, 0x0, 0x0, 0x0, 0x0⟩,
  ⟨0xc094, 1, 0, 0x0, 0x0, 0x0, 0x0⟩,
  ⟨0xc098, 1, 0, 0x0, 0x0, 0x0, 0x0⟩,
  ⟨0xc09c, 1, 0, 0x0, 0x0, 0x0, 0x0⟩,
  ⟨0xc0a0, 5, 4, 0x0, 0x0, 0x0, 0x0⟩,
  ⟨0xc0b4, 1, 0, 0x0, 0x0, 0x0, 0x0⟩,
  ⟨0xc0b8, 1, 0, 0x0, 0x0, 0x0, 0x0⟩,
  ⟨0xc0bc, 1, 0, 0x0, 0x0, 0x0, 0x0⟩,
  ⟨0xc0c0, 1, 0, 0x0, 0x0, 0x0, 0x0⟩,
  ⟨0xc0c4, 1, 0, 0x0, 0x0, 0x0, 0x0⟩,
  ⟨0xc0c8, 1, 0, 0x0, 0x0, 0x0, 0x0⟩,
  ⟨0xc0cc, 1, 0, 0x0, 0x0, 0x0, 0x0⟩,
  ⟨0xc0d0, 1, 0, 0x0, 0x0, 0x0, 0x0⟩]
/-- Registers of Table 13-8. -/
def rows_13_8 : List RegRow := [
  ⟨0x0, 1, 0, 0x0, 0x0, 0x0, 0x0⟩,
  ⟨0x4, 1, 0, 0x0, 0x0, 0x7f7f, 0x4b00⟩,
  ⟨0x8, 1, 0, 0x0, 0x0, 0x0, 0x888803⟩,
  ⟨0xc, 1, 0, 0x0, 0x3d, 0x0, 0x0⟩,
  ⟨0x10, 1, 0, 0x0, 0x0, 0x0, 0x0⟩,
  ⟨0x14, 1, 0, 0x0, 0x0, 0x0, 0x0⟩,
  ⟨0x18, 1, 0, 0x0, 0x0, 0x0, 0x0⟩,
  ⟨0x1c, 1, 0, 0x0, 0x0, 0x0, 0x0⟩,
  ⟨0x20, 1, 0, 0x0, 0x0, 0x0, 0x0⟩,
  ⟨0x24, 1, 0, 0x0, 0x0, 0x0, 0x0⟩,
  ⟨0x28, 1, 0, 0x0, 0x0, 0x0, 0x0⟩,
  ⟨0x2c, 1, 0, 0x0, 0x0, 0x0, 0x0⟩,
  ⟨0x30, 1, 0, 0x0, 0x0, 0x0, 0x0⟩,
  ⟨0x34, 1, 0, 0x0, 0x0, 0x0, 0x0⟩]
/-- Registers of Table 13-12. -/
def rows_13_12 : List RegRow := [
  ⟨0xd000, 1, 0, 0xff, 0x0, 0x0, 0x40⟩,
  ⟨0xd004, 1, 0, 0x0, 0x0, 0x0, 0x0⟩,
  ⟨0xd008, 1, 0, 0xff, 0x0, 0x0, 0x64⟩,
  ⟨0xd00c, 1, 0, 0x0, 0x100000, 0x0, 0x0⟩,
  ⟨0xd010, 1, 0, 0x0, 0x0, 0x0, 0x0⟩,
  ⟨0xd014, 1, 0, 0x0, 0x0, 0x0, 0x8⟩,
  ⟨0xd020, 1, 0, 0x0, 0x0, 0x0, 0x0⟩,
  ⟨0xd024, 1, 0, 0x0, 0x0, 0x0, 0x0⟩,
  ⟨0xd028, 1, 0, 0x0, 0x0, 0x0, 0x0⟩,
  ⟨0xd02c, 1, 0, 0x0, 0x0, 0x0, 0x0⟩]
/-- Registers of Table 14-14. -/
def rows_14_14 : List RegRow := [
  ⟨0x400000, 1, 0, 0x0, 0x0, 0x0, 0x0⟩,
  ⟨0x400004, 1, 0, 0x0, 0x0, 0x0, 0x0⟩,
  ⟨0x400008, 1, 0, 0x0, 0x0, 0x0, 0x0⟩,
  ⟨0x40000c, 1, 0, 0x0, 0x0, 0x0, 0x0⟩,
  ⟨0x400010, 16, 4, 0x0, 0x0, 0x0, 0x0⟩,
  ⟨0x400050, 16, 4, 0x0, 0x0, 0x0, 0x0⟩,
  ⟨0x400090, 16, 4, 0x0, 0x0, 0x0, 0x0⟩,
  ⟨0x4000d0, 1, 0, 0x0, 0x0, 0x0, 0x0⟩,
  ⟨0x400100, 1, 0, 0x0, 0x0, 0x0, 0x0⟩,
  ⟨0x400104, 1, 0, 0x0, 0x6, 0x0, 0x0⟩,
  ⟨0x400108, 1, 0, 0x0, 0x0, 0x0, 0x0⟩,
  ⟨0x401000, 2048, 4, 0xffffffff, 0x0, 0x0, 0x0⟩,
  ⟨0x404000, 488, 4, 0x0, 0x0, 0x0, 0x0⟩]
/-- Registers of Table 15-6. -/
def rows_15_6 : List RegRow := [
  ⟨0x0, 1, 0, 0x0, 0x0, 0x0, 0x2d37444f⟩,
  ⟨0x4, 1, 0, 0x0, 0x0, 0x0, 0x32314b4c⟩,
  ⟨0x8, 1, 0, 0x0, 0x0, 0x0, 0x38⟩,
  ⟨0xc, 1, 0, 0x0, 0x0, 0x0, 0x141⟩,
  ⟨0x10, 1, 0, 0x0, 0x0, 0x0, 0x10000⟩,
  ⟨0x14, 1, 0, 0x0, 0x0, 0x0, 0x1712836f⟩,
  ⟨0x20, 4, 4, 0x0, 0x0, 0x0, 0x0⟩,
  ⟨0x30, 1, 0, 0x0, 0x0, 0x0, 0x10000⟩,
  ⟨0x34, 1, 0, 0x0, 0x0, 0x0, 0x0⟩,
  ⟨0x40, 1, 0, 0x0, 0x1f, 0x0, 0x0⟩,
  ⟨0x44, 1, 0, 0x0, 0x0, 0x0, 0x0⟩,
  ⟨0x48, 1, 0, 0x0, 0x0, 0x0, 0x0⟩,
  ⟨0x4c, 1, 0, 0x0, 0x0, 0x0, 0x0⟩,
  ⟨0x50, 1, 0, 0xffffffff, 0x0, 0x0, 0x0⟩,
  ⟨0x60, 1, 0, 0xfffffffc, 0x0, 0x0, 0x0⟩,
  ⟨0x64, 1, 0, 0xff, 0x0, 0x0, 0x0⟩,
  ⟨0x68, 1, 0, 0x0, 0x0, 0x0, 0x0⟩,
  ⟨0x6c, 1, 0, 0x0, 0x3, 0x0, 0x0⟩]

/-- The rows of a block. -/
def blkRows : Blk → List RegRow
  | .glob => rows_1_10 ++ rows_4_12 ++ rows_7_14 ++ rows_7_18 ++ rows_9_18 ++ rows_10_7 ++ rows_11_10 ++ rows_12_14 ++ rows_13_12 ++ rows_14_14 ++ rows_15_6
  | .pwr => rows_13_8
  | .memc => rows_8_7
  | .link => rows_9_13 ++ rows_10_11
  | .eight => rows_8_11
  | .core => rows_1_16 ++ rows_2_17 ++ rows_3_17 ++ rows_5_13 ++ rows_6_9 ++ rows_7_20
  | .tile => rows_2_8 ++ rows_3_13 ++ rows_4_5

/-- Which block a byte address lies in, its index and the offset inside it (R522, R523); none where no block maps it. -/
def locate (a : Nat) : Option (Blk × Nat × Nat) :=
  if a < 0x600000 then
    if 0x200000 ≤ a ∧ a < 0x200000 + 0x400 * 72 then some (.pwr, (a - 0x200000) / 0x400, (a - 0x200000) % 0x400)
    else some (.glob, 0, a)
  else if 0x1000000 ≤ a ∧ a < 0x10C0000 then some (.memc, (a - 0x1000000) / 0x10000, (a - 0x1000000) % 0x10000)
  else if 0x2000000 ≤ a ∧ a < 0x20A0000 then some (.link, (a - 0x2000000) / 0x4000, (a - 0x2000000) % 0x4000)
  else if 0x4000000 ≤ a ∧ a < 0x4800000 then some (.eight, (a - 0x4000000) / 0x10000, (a - 0x4000000) % 0x10000)
  else if 0x10000000 ≤ a ∧ a < 0x20000000 then
    let c := (a - 0x10000000) / 0x40000
    let o := (a - 0x10000000) % 0x40000
    if o < 0x20000 then some (.core, c, o)
    else if o < 0x30000 then some (.tile, c * 16 + (o - 0x20000) / 0x1000, (o - 0x20000) % 0x1000)
    else none
  else none

/-- Whether a row holds the register at an offset. -/
def RegRow.covers (r : RegRow) (o : Nat) : Bool :=
  r.off ≤ o && (if r.stride = 0 then o == r.off
    else (o - r.off) % r.stride == 0 && (o - r.off) / r.stride < r.count)

/-- The row of the register at a byte address, if the window has one there. -/
def regRow (a : Nat) : Option RegRow :=
  match locate a with
  | some (b, _, o) => (blkRows b).find? (fun r => r.covers o)
  | none => none

/-- Reset of PD_CFG by domain: VSET of Table 14-8 with the CAP row's reset. -/
def pdCfgReset (p : Nat) : Nat :=
  (if p < 64 then (if p % 4 = 0 ∨ p % 4 = 3 then 60 else 50) else if p % 2 = 0 then 60 else 50) + 0x4B00

/-- Phases a domain's rated current needs (Table 13-1), N. -/
def phasesN (p : Nat) : Nat :=
  if p < 64 then (match p % 4 with | 0 => 2 | 1 => 8 | 2 => 2 | _ => 3) else if p % 2 = 0 then 4 else 2

/-- The reset value of the register at a byte address (R531): the field maps' Reset columns; the factory defaults of
Table 14-8 where the column says Image; 0 where nothing is mapped (R521). -/
def regReset (a : Nat) : Nat :=
  match locate a with
  | some (.pwr, p, o) =>
    if o = 4 then pdCfgReset p
    else if o = 8 then 0x888803 + (phasesN p + 2) * 2 ^ 24
    else match rows_13_8.find? (fun r => r.covers o) with | some r => r.reset | none => 0
  | some (.link, k, o) =>
    if o = 4 then (if k < 36 then (if k = 32 ∨ k = 34 then 0x0FF + 2 ^ 14 else 0x0FF) else 0x3FE)
    else match (blkRows .link).find? (fun r => r.covers o) with | some r => r.reset | none => 0
  | some (b, _, o) => match (blkRows b).find? (fun r => r.covers o) with | some r => r.reset | none => 0
  | none => 0

end Sys2Proof.Machine
end

