-- ==== Sys2Proof/Machine/State.lean ====
section
/-! DEFINITION. Machine/State.lean: what the block holds, as plain data. `State` has three parts: `board` (pins, straps, key
storage and what only the removal of power clears), `work` (everything a reset of the chip clears, and the cells, which
nothing clears) and `pending` (the commands that wait). Indices follow R11: core c, tile key 16c + t, deck key
8(16c + t) + p, stack m, port k, power domain p. -/

namespace Sys2Proof.Machine

/-- A finite map kept as a list of (key, value) pairs; what an unlisted key reads as is said at each use. -/
abbrev Sp (α : Type) := List (Nat × α)

/-- How a command stops (Host.Core): no meaning of this model does. -/
inductive Fault where
  /-- Never raised by this model: every command of the table answers a next state. Safe: no claim rests on it. -/
  | none
  deriving DecidableEq, Repr

/-- Refusals. -/
inductive Refusal where
  /-- Raised only by an arm of Machine/Dispatch.lean whose command has no meaning yet. Safe: nothing is claimed of it. -/
  | notModelled (mnemonic : String)
  deriving DecidableEq, Repr

/-! ### Faults and resets (chapter 12) -/

/-- A fault record (Table 12-2). -/
structure FaultRec where
  beat : Nat := 0
  cls : Nat := 0
  level : Nat := 0
  unit : Nat := 0
  code : Nat := 0
  job : Nat := 0
  gen : Nat := 0
  flags : Nat := 0
  crew : Nat := 0
  detail : Nat := 0
  addr : Nat := 0
  /-- The record has been read through FLOG_DATA (the model's own mark, for FLOG_OVF_CNT). -/
  seen : Bool := false
  deriving DecidableEq, Repr

/-- An abort beacon that this device sends once per beat until `abort` (R455): one it decided or one it relays. -/
structure Beacon where
  crew : Nat
  cause : Nat
  relay : Bool
  origin : Nat
  job : Nat
  gen : Nat
  /-- A as epoch × 2^40 + beat. -/
  abort : Nat
  deriving DecidableEq, Repr

/-- A unit whose reset R445 to R447 runs or is about to (R452, R444). -/
structure UnitReset where
  /-- Unit code of Table 12-6. -/
  unit : Nat
  /-- 2 engine, 3 partition, 4 chip. -/
  level : Nat
  /-- The record of the event that called for it. -/
  trigger : FaultRec
  /-- The sample is being written; false once the reset itself runs. -/
  sampling : Bool
  /-- A chip-level reset waits for collection (R453), since this time. -/
  waiting : Bool := false
  /-- Start of the present phase, ns. -/
  start : Nat
  /-- The sample of this reset is held. -/
  sampled : Bool := false
  /-- Stroke crews with work on the unit as its reset began, whose abort has not come since (Table 12-4). -/
  crews : List Nat := []
  deriving DecidableEq, Repr

/-- A unit reset or fired before, for REPEAT_WIN (Table 12-9): unit key, level, beat. -/
structure LastReset where
  unit : Nat
  level : Nat
  beat : Nat
  deriving DecidableEq, Repr

/-- The fault block's state beside its registers. -/
structure FaultSt where
  /-- The fault log, newest first, at most 256 records (R429). -/
  log : List FaultRec := []
  /-- Records that wait for a node before they are reported (R431). -/
  unsent : List FaultRec := []
  /-- Reset-domain generations by unit code (R460); an unlisted one is 0. -/
  gens : Sp Nat := []
  resets : List UnitReset := []
  last : List LastReset := []
  /-- Beacons being sent (R455). -/
  beacons : List Beacon := []
  /-- Earliest A received or decided per crew (R457), as a full beat time. -/
  aborts : Sp Nat := []
  /-- Crews whose abort this device decided: it takes no finish of them (R458). -/
  decided : List Nat := []
  /-- Cause of the abort noted for a crew (Table 12-11). -/
  causes : Sp Nat := []
  /-- Abort beat at which a crew was last aborted; beacons of it that still come are repeats. -/
  abortDone : Sp Nat := []
  /-- Cores that count as not ready until the abort beat of their crew, with that crew (R445). -/
  notReady : List (Nat × Nat) := []
  /-- In-field test: start time, test number, whether the start-up calls for it (R442). -/
  ftStart : Option Nat := none
  ftNumber : Nat := 0
  ftAtStart : Bool := false
  /-- Per core results of the last test: MAC, vector, tiles; an unlisted core passed (or, before a test, did not run). -/
  ftResults : Sp (Nat × Nat × Nat) := []
  ftRan : Bool := false
  /-- PCYC_ACK written: the in-band interrupt stops (R449). -/
  pcycAcked : Bool := false
  /-- Time of the last in-band interrupt. -/
  lastIbi : Nat := 0
  /-- Beat of the last progress of each monitored unit (Table 12-8), by the key of Machine/Hang.lean. -/
  progress : Sp Nat := []
  /-- Start of a chip-level reset that has not reached beat lock yet (Table 12-9, level 4), ns. -/
  chipFrom : Option Nat := none
  /-- Beat and epoch at which the last chip-level reset reached lock. -/
  chipLock : Option Nat := none
  /-- Reduction stages that were open when the reduction monitor fired, and the abort beat (Table 12-9). -/
  redHung : Option (List Nat × Nat) := none
  deriving DecidableEq, Repr

/-! ### Power and temperature (chapter 13) -/

/-- A power domain's run-time state beside PWR[p]. -/
structure Domain where
  /-- Beat edges since the request that waits at the gate (R482). -/
  waitBeats : Nat := 0
  /-- Time at which ADMIT_WAIT was entered, ns. -/
  waitFrom : Nat := 0
  /-- Time at which RAMP, DRAIN or DISCHARGE was entered, ns. -/
  since : Nat := 0
  /-- Beats spent in DRAIN. -/
  drainBeats : Nat := 0
  /-- The slots (core, slot) that complete when the domain reaches ON or OFF (R477). -/
  slots : List (Nat × Nat) := []
  /-- Last completed 1 µs averages of the neighbours, in 0.01 A (R482); none completed yet where empty. -/
  win : List Nat := []
  /-- Came from OFF (R484). -/
  fromOff : Bool := false
  /-- The clock runs at half rate after a droop (R471). -/
  halfRate : Bool := false
  deriving DecidableEq, Repr

/-- Thermal state of one die. -/
structure Therm where
  /-- Samples of 10 µs at or above THROTTLE_C since the last fall of CAP_THERM; none while below. -/
  hot : Option Nat := none
  /-- Samples below THROTTLE_C − 3 since the last rise. -/
  cool : Nat := 0
  /-- CAP_THERM of the die's capped domains. -/
  cap : Nat := 8
  /-- Last firing of the 115 °C comparator, ns. -/
  fired : Option Nat := none
  deriving DecidableEq, Repr

/-- Power state of the package. -/
structure PowerSt where
  dom : Sp Domain := []
  therm : Sp Therm := []
  /-- Consecutive µs above 1,400 A (R465). -/
  overUs : Nat := 0
  /-- CAP_PKG was lowered in the present overload; µs since the last lowering. -/
  lowered : Option Nat := none
  /-- µs below 1,300 A since the last rise. -/
  underUs : Nat := 0
  deriving DecidableEq, Repr

/-! ### Housekeeping converter (chapter 4) -/

/-- The converter's work (Table 4-10). -/
structure HkSt where
  /-- Channel in conversion, and the die whose hot spot channel 13 reads (Table 4-13). -/
  chan : Nat := 0
  die : Nat := 0
  /-- Work aborted by an urgent request: 0 self-calibration, 2 conversion of `chan`. -/
  aborted : Option Nat := none
  /-- Urgent requests that wait: channel and die. -/
  urgent : List (Nat × Nat) := []
  /-- The urgent conversion that runs. -/
  cur : Option (Nat × Nat) := none
  /-- Start of the running conversion or step, ns. -/
  start : Nat := 0
  /-- Time from which the next scan conversion may start. -/
  paceFrom : Nat := 0
  /-- Next scan channel. -/
  next : Nat := 0
  /-- A self-calibration was asked for while the converter converted (R178). -/
  selfcal : Bool := false
  /-- Time into a self-calibration, in whole steps, at which an urgent request aborted it (R179). -/
  steps : Nat := 0
  /-- The self-calibration already retried once (R178). -/
  retried : Bool := false
  deriving DecidableEq, Repr

/-! ### Beats, coxes and strokes (chapters 1 and 7) -/

/-- Beat logic (R22 to R26). -/
structure BeatSt where
  /-- Edges in the present run. -/
  run : Nat := 0
  /-- Time of the last edge, ns. -/
  lastEdge : Option Nat := none
  /-- Provisional beat count (R22). -/
  prov : Option Nat := none
  /-- Consecutive flywheeled beats. -/
  fly : Nat := 0
  /-- The last marker lay outside the window of R25. -/
  mismatch : Bool := false
  /-- Lock is to be lost (R26). -/
  lossDue : Bool := false
  /-- Port on which the first marker arrived, where MARKER_PORT is defaulted (R16). -/
  port : Option Nat := none
  /-- BEAT and EPOCH of the last marker, and beats since (R23, R423). -/
  lastMarker : Option Nat := none
  sinceMarker : Nat := 0
  /-- Announced finishes by crew, 40-bit beats (R30, R50). -/
  fin : Sp Nat := []
  deriving DecidableEq, Repr

/-- A slot of a stroke program (Table 1-5). -/
structure Slot where
  offset : Nat
  len : Nat
  action : Nat
  dep : Nat
  units : Nat
  desc : Nat
  deriving DecidableEq, Repr

/-- A condition entry (Table 7-5). -/
structure Cond where
  slot : Nat
  cond : Nat
  release : Bool
  copy : Bool
  entry : Nat
  deriving DecidableEq, Repr

/-- A stroke program that passed its checks (Tables 1-4, 1-5, 7-5). -/
structure Prog where
  id : Nat
  /-- Stroke length L. -/
  len : Nat
  driveEnd : Nat
  crew : Nat
  finishLead : Nat
  variant : Nat
  stretchLimit : Nat
  slots : List Slot
  conds : List Cond
  deriving DecidableEq, Repr

/-- The run of one slot in the present stroke. -/
structure SlotRun where
  /-- 1 running, 2 overrun, 3 complete (Table 12-10); an unlisted slot has not launched. -/
  state : Nat
  /-- It overran before it launched (R46). -/
  late : Bool := false
  /-- Its conditions have been evaluated and hold; it has not launched while `state` is 0 (R268). -/
  passed : Bool := false
  /-- A reservation whose descriptor was refused: it does not complete (R285). -/
  stuck : Bool := false
  deriving DecidableEq, Repr

/-- The cox of one core beside CORE[c].COX_*. -/
structure Cox where
  prog : Option Prog := none
  /-- Full beat time of its last catch; of an ARMED cox without a manager, of the catch that LOCAL_CATCH names, none while that is
  not ahead (R48). -/
  catchAt : Option Nat := none
  /-- A replacement program, armed for a catch (R38). -/
  next : Option (Prog × Nat) := none
  runs : Sp SlotRun := []
  deriving DecidableEq, Repr

/-- The device's stroke. -/
structure StrokeSt where
  /-- Full beat time of the present stroke's catch. -/
  catchAt : Nat := 0
  /-- First beat edge at which nothing held READY any more (R49). -/
  readyFrom : Option Nat := none
  /-- Beat at which the device became ready (R49, R56), full beat time. -/
  readyAt : Option Nat := none
  /-- The lane buffers of the next stroke are prepared (R264). -/
  prepared : Bool := false
  /-- Slip and overrun counts of the stroke (R49). -/
  slip : Nat := 0
  overrun : Nat := 0
  /-- Stretch of the last stroke, for the next READY (R53). -/
  stretch : Nat := 0
  /-- A catch was taken and the stroke is not finished or aborted. -/
  active : Bool := false
  /-- Commit groups decided for rollback in the stroke (R135). -/
  rolled : List Nat := []
  deriving DecidableEq, Repr

/-- A piece of a sequence in a heat (R259): sequence index, token address, start in the sequence, length. -/
structure Piece where
  seq : Nat
  addr : Nat
  off : Nat
  len : Nat
  deriving DecidableEq, Repr

/-- The step engine (chapter 7). -/
structure StepSt where
  /-- STEP of the previous step, none on the first after RUN. -/
  prev : Option Nat := none
  /-- The step taken and its strokes; none when the next stroke starts a step. -/
  step : Nat := 0
  strokes : Nat := 0
  /-- Index of the stroke being prepared or run. -/
  stroke : Nat := 0
  inStep : Bool := false
  tokenScale : Word := 0
  /-- Heats per lane. -/
  heats : List (List (List Piece)) := []
  /-- The device waits for a step record (R257). -/
  starving : Bool := false
  /-- Refused until RUN is set anew (R256). -/
  refused : Bool := false
  /-- The entry table failed R277: no cox arms. -/
  entryBad : Bool := false
  /-- Pool pages of each STORED entry (R273); STATE and PAGES stand in the entry itself, in HBM. -/
  stash : Sp (List Nat) := []
  deriving DecidableEq, Repr

/-! ### Tiles (chapters 2 to 4) -/

/-- What a product is for: an entry and vector of the forward slot that claims the tile, or of a session's forward layer group;
nothing any more where its slot was aborted (R457). -/
inductive ProductFor where
  | train (entry vec : Nat)
  | session (n entry vec : Nat)
  | nobody
  deriving DecidableEq, Repr

/-- Coefficients of a tile and of a physical deck that correct a product, and whether they were valid (R77, R96, R152). -/
structure Coefs where
  off : Sp Int := []
  gain : Sp Nat := []
  sideOff : Int := 0
  sideGain : Nat := 0
  drift : Nat := 0
  valid : Bool := false
  deriving DecidableEq, Repr

/-- A product in the row array or in conversion. -/
structure Product where
  for_ : ProductFor
  ldeck : Nat
  phys : Nat
  /-- Start of the drive, ns. -/
  start : Nat
  /-- Passes, and which of them drive a row; no pass of a record that is all zero or poisoned (R86, R101). -/
  passes : Nat
  driven : List Bool
  /-- What the column integrators hold of each pass, ideally: Σ x_i n_ij with the levels at the drive (R74, R105). -/
  cols : List (List Int)
  /-- Σ|x| over the rows of each pass (R95). -/
  sums : List Nat
  /-- DECK_CFG, TILE_CHK and the deck's 32 OSCALE in force at the issue (R107). -/
  cfg : Nat
  chk : Nat
  scales : List Nat
  /-- The coefficients at its start (R152). -/
  coefs : Coefs := {}
  /-- S = Σ|x|. -/
  sum : Nat
  xexp : Int
  checked : Bool
  /-- The check follows up a miss (R437). -/
  follow : Bool
  poisoned : Bool
  deriving DecidableEq, Repr

/-- What a 10 µs unit on a tile does (R120, R124, R136, R147, R154, R418, R516). -/
inductive UnitKind where
  /-- A row write unit of the part of a journal entry. -/
  | row (jrnl : Nat)
  /-- An undo unit of the part of a journal entry: index of the staged row. -/
  | undo (jrnl : Nat)
  | refresh | copy | restore | clear
  | colOff | colGain | drift
  deriving DecidableEq, Repr

/-- The unit that runs on a tile. -/
structure TileUnit where
  kind : UnitKind
  start : Nat
  ldeck : Nat := 0
  phys : Nat := 0
  row : Nat := 0
  /-- Levels of the row before the unit and the planned levels: 1,024 weight columns, CSUM, then 16 references. -/
  old : List Int := []
  target : List Int := []
  /-- The calibration unit is a retry (R170). -/
  retry : Bool := false
  /-- Once the hold is over (R120, R154): the positions that failed the first and the second verify read, none for calibration. -/
  found : Option (List (Nat × Int) × List (Nat × Int)) := none
  /-- Beat at the start (Table 4-5). -/
  beat : Nat := 0
  deriving DecidableEq, Repr

/-- Calibration run of a tile, in a slot or outside slots (R166, R170, R173). -/
structure CalRun where
  active : Bool := false
  /-- The cox slot the run belongs to; none outside slots. -/
  slot : Option Nat := none
  /-- Full beat time by which every unit ends; none outside slots (R173). -/
  deadline : Option Nat := none
  runDue : Bool := false
  forceCol : Bool := false
  /-- Decks that FORCE_DRIFT names. -/
  mask : Nat := 0
  /-- Units that run before anything else, in order: kind, deck, retry. -/
  todo : List (UnitKind × Nat × Bool) := []
  /-- The column calibration of the run has had its turn, and the decks whose DRIFT unit has. -/
  colDone : Bool := false
  driftDone : List Nat := []
  /-- A run outside slots has not read the tile's sensor yet (R159). -/
  needTemp : Bool := false
  deriving DecidableEq, Repr

/-- A column calibration whose two units have not both passed yet. -/
structure ColPend where
  off : Option (List Int × Int) := none
  gain : Option (List Nat × Nat) := none
  /-- TILE_TEMP at the start of the COL_OFF unit. -/
  temp : Nat := 0
  deriving DecidableEq, Repr

/-- A session product that the session engine asks of a tile (R104, R284): an entry and vector of the forward layer group that the
session runs, and whether it met a hold while queued (R143). -/
structure SessProduct where
  session : Nat
  core : Nat
  tile : Nat
  entry : Nat
  vec : Nat
  waited : Bool := false
  deriving DecidableEq, Repr

/-- Where the state of Table 3-1 of a logical deck lies, as the last weight transfer of it named it (notes/assumptions/25.md). -/
structure DeckMap where
  master : Nat
  level : Nat
  resid : Nat
  pexp : Int
  /-- The layer record. -/
  layer : Nat
  deriving DecidableEq, Repr

/-- One tile beside its registers. -/
structure Tile where
  /-- Products not yet converted, oldest first. -/
  flight : List Product := []
  /-- Session queue (R104). -/
  queue : List SessProduct := []
  /-- Time from which the row array is free. -/
  freeFrom : Nat := 0
  /-- Starts of products and units in the last 2,048 ns (R475), newest first. -/
  starts : List Nat := []
  unit : Option TileUnit := none
  /-- Stale rows: logical deck and row (R123). -/
  stale : List (Nat × Nat) := []
  /-- Wholly stale decks: next row to refresh (R124). -/
  staleAll : Sp Nat := []
  /-- Logical decks whose next product is checked after a miss (R437). -/
  follow : List Nat := []
  /-- Rows copied and clean of the retirement in progress (R147). -/
  clean : List Nat := []
  /-- Target rows with failed positions: row and staging record (R147). -/
  copyFailed : List (Nat × Nat) := []
  /-- The target is marked retired at the next finish (Table 3-11). -/
  dropTarget : Bool := false
  /-- The survey of the retirement's target has run. -/
  surveyed : Bool := false
  /-- Physical decks that a level survey is called for, the one that runs first, and the start of that survey, ns (R127). -/
  surveys : List Nat := []
  surveyFrom : Nat := 0
  /-- Positions that failed a refresh, with their measured levels, by logical deck and row: the next finish records them (R110,
  R122). -/
  missed : List (Nat × Nat × List (Nat × Int)) := []
  /-- The calibration run (R166, R173). -/
  cal : CalRun := {}
  pend : ColPend := {}
  /-- Retries held over to the next calibration slot (R170): kind and deck. -/
  heldRetry : List (UnitKind × Nat) := []
  /-- End of the last unit: no unit starts before it, and in its service gap a session product ends by it (R142). -/
  unitEnd : Nat := 0
  /-- A full recalibration outside slots is called for (R484), and that of array wake has run (R173). -/
  outCal : Bool := false
  woken : Bool := false
  /-- Table 3-1 of each logical deck. -/
  maps : Sp DeckMap := []
  /-- Column offsets and gains that differ from the reset values (R151). -/
  off : Sp Int := []
  gain : Sp Nat := []
  colMeasured : Bool := false
  /-- Full beat time of the last reading of the sensor (R159). -/
  tempAt : Option Nat := none
  /-- Physical decks whose drift gain is measured. -/
  driftMeasured : List Nat := []
  /-- Rows of the deck-clearing of R516 and of restore transfers done: units run. -/
  cleared : Nat := 0
  /-- Units of a restore transfer still to run: logical deck and row (R418). -/
  restoreRows : List (Nat × Nat) := []
  deriving DecidableEq, Repr

/-- An entry of a forward layer group descriptor (Table 2-5). -/
structure FwdEntry where
  tile : Nat
  deck : Nat
  last : Bool
  rowSeg : Nat
  outBlk : Nat
  deriving DecidableEq, Repr

/-- A running forward layer group: of a slot, by the key 4,096 core + slot, or of a session. -/
structure FwdRun where
  slot : Nat
  vecCount : Nat
  inBase : Nat
  inExp : Nat
  outBase : Nat
  biasBase : Option Nat
  rowSegs : Nat
  outBlks : Nat
  pexp : Int
  entries : List FwdEntry
  /-- Launch time, ns. -/
  launch : Nat
  /-- Next vector to issue by entry index; unlisted 0. -/
  nextVec : Sp Nat := []
  /-- Partials of an entry and vector, key 128 v + entry: none when poisoned. -/
  got : Sp (Option (List Word)) := []
  /-- Time at which the row-array part of an entry's last issued vector ends. -/
  rowEnd : Sp Nat := []
  /-- Outputs still to write, and outputs written by vector. -/
  left : Nat
  vecDone : Sp Nat := []
  deriving DecidableEq, Repr

/-- A staged row (Table 3-8). -/
structure Staged where
  /-- Index in the core's staging area. -/
  idx : Nat
  tile : Nat
  ldeck : Nat
  phys : Nat
  row : Nat
  deriving DecidableEq, Repr

/-- An entry of a weight transfer descriptor (Table 3-6). -/
structure XferEntry where
  tile : Nat
  deck : Nat
  rowFirst : Nat
  rowCount : Nat
  master : Nat
  level : Nat
  resid : Nat
  deriving DecidableEq, Repr

/-- A part of an open commit group on one core (R128, Table 3-9), by its journal entry. -/
structure Part where
  group : Nat
  slot : Nat
  parts : Nat
  /-- Full beat time of WRITE_END. -/
  writeEnd : Nat
  band : Nat
  pexp : Int
  thresh : Nat
  layerRec : Nat
  step : Nat
  /-- Table 3-9 state. -/
  state : Nat
  entries : List XferEntry
  /-- Rows still to write: tile, entry index, row. -/
  todo : List (Nat × Nat × Nat)
  staged : List Staged := []
  /-- Staged rows still to undo, last staged first. -/
  undo : List Staged := []
  /-- Positions whose undo failed: staged index, positions with measured levels. -/
  undoFailed : Sp (List (Nat × Int)) := []
  /-- Launch time, ns. -/
  launch : Nat
  /-- Beat of the rollback decision (R136). -/
  decided : Nat := 0
  /-- The part folds: the commit point has come, or a rolled-back part's finish, or its rollback is an abort's (Table 3-9). -/
  foldDue : Bool := false
  deriving DecidableEq, Repr

/-- Commit and program state of a core. -/
structure Commit where
  parts : Sp Part := []
  /-- Staging records in use. -/
  staging : List Nat := []
  /-- Tiles that hold a program supply, and whether for a slot. -/
  supplies : List (Nat × Bool) := []
  deriving DecidableEq, Repr

/-! ### Digital units (chapters 5 and 6) -/

/-- An MMA that has left its cells: index, cycles, whether an operand was not finite, whether its check pass is due, and when its
result reaches the accumulator (R193, R434). -/
structure Flight where
  idx : Nat
  cycles : Nat
  nonfin : Bool
  due : Bool
  lands : Nat
  deriving DecidableEq, Repr

/-- A context (Table 5-6) beside its status registers. Key 17c + x: x = 2a + h, 16 the vector unit. -/
structure Ctx where
  /-- Slot of the job, none for a session stream. -/
  slot : Option Nat := none
  session : Option Nat := none
  tag : Nat := 0
  split : Bool := false
  opdBase : Nat := 0
  pc : Nat := 0
  /-- Semaphore and count of a WAIT that holds it. -/
  waits : Option (Nat × Nat) := none
  /-- Accumulator indices named since the job launched (R200). -/
  named : List Nat := []
  /-- MMAs issued, for the checking share (R434). -/
  mmas : Nat := 0
  /-- MMAs whose results have not reached the accumulator, oldest first (R193). -/
  inFlight : List Flight := []
  /-- A check pass that runs: the accumulator index, and the cycles it takes. -/
  checking : Option (Nat × Nat) := none
  /-- An ACC_OUT that waits for the vector queue (R205), or a STORE that waits for the log (R214). -/
  stalled : Bool := false
  /-- Time from which the context's cells are free. -/
  freeFrom : Nat := 0
  deriving DecidableEq, Repr

/-- A digital job: its contexts and semaphores. Key: slot index, or 4096 + session. -/
structure Job where
  ctxs : List Nat
  sems : Sp Nat := []
  deriving DecidableEq, Repr

/-- A deferred record (R211): what one STORE, ACC_OUT or kernel output writes, by destination. -/
structure Deferred where
  slot : Nat
  ctx : Nat
  seq : Nat
  parts : List (Nat × List Byte)
  poison : Bool
  deriving DecidableEq, Repr

/-- A tile in the vector unit's input queue (R205). -/
structure VecTile where
  shape : Nat
  split : Bool
  half : Nat
  poison : Bool
  words : List Word
  deriving DecidableEq, Repr

/-- Digital state of a core. -/
structure Digital where
  jobs : Sp Job := []
  log : List Deferred := []
  /-- Records committed at a finish and not yet applied. -/
  logSeq : Nat := 0
  /-- Tiles in the vector unit's input queues with their arrays, in arrival order (R205). -/
  queue : List (Nat × VecTile) := []
  /-- A kernel that takes tiles: tiles taken, and the per-row sums of the present band (R271) or the scores taken (SOFTMAX). -/
  kern : Option (Nat × List Word) := none
  /-- Cycles with an active cell and gated multiply-accumulates by array, beneath the units of MAC_BUSY_CNT and
  MAC_GATED_CNT. -/
  busy : Sp Nat := []
  gated : Sp Nat := []
  /-- Entries named in this stroke: the contexts that named each, by job and context, and whether one of them ordered stochastic
  rounding or met an escape budget (R233). -/
  owners : Sp (List Nat × Bool) := []
  deriving DecidableEq, Repr

/-! ### Sessions (chapter 7) -/

/-- A session request in progress or waiting (Table 7-10). -/
structure SessReq where
  op : Nat
  cls : Nat
  digital : Bool
  session : Nat
  tag : Nat
  count : Nat
  stop : Nat
  inAddr : Nat
  outAddr : Nat
  prog : Nat
  bad : Bool
  deriving DecidableEq, Repr

/-- The progress of a request. -/
structure SessRun where
  req : SessReq
  done : Nat := 0
  /-- STEP_COMMITTED as the first product started, none before it, and as the last one ended (R287). -/
  first : Option Nat := none
  lastStep : Nat := 0
  status : Option Nat := none
  recovery : Bool := false
  /-- New tokens of the group that runs; none between groups (R283). -/
  group : Option (List Word) := none
  /-- Next entry of the session program's list for the group. -/
  pos : Nat := 0
  /-- An input or output of the group is poisoned (R290). -/
  bad : Bool := false
  deriving DecidableEq, Repr

/-- An open session. -/
structure Session where
  prog : Nat
  cap : Nat
  pages : List Nat
  len : Nat := 0
  /-- The tokens in its cache, oldest first, each with what its forward left (Config.sessSeed). -/
  hist : List (Word × Nat) := []
  poisoned : Bool := false
  run : Option SessRun := none
  deriving DecidableEq, Repr

/-- The session engine. -/
structure SessSt where
  open_ : Sp Session := []
  /-- Requests taken from the ring and not started, in ring order. -/
  waiting : List SessReq := []
  /-- Completions that wait for room, oldest first (R292): 32 bytes each. -/
  held : List (List Byte) := []
  /-- Cache pages in use. -/
  used : List Nat := []
  /-- Products that the engine holds for the tiles' queues, oldest first (R104). -/
  offers : List SessProduct := []
  /-- The forward layer group that a session runs, with its core (R284). -/
  fwd : Sp (Nat × FwdRun) := []
  deriving DecidableEq, Repr

/-! ### Memory stacks (chapter 8) -/

/-- An accumulate contribution (Table 8-5) with its job, its check and its poison map. -/
structure Contribution where
  dest : Nat
  seq : Nat
  count : Nat
  fmt : Nat
  xexp : Int
  notify : Nat
  rsvd : Nat
  job : Nat
  gen : Nat
  data : List Byte
  /-- The contribution failed its check on both arrivals (R321). -/
  lost : Bool
  poisonMap : Nat
  ovf : Bool
  xmax : Nat
  deriving DecidableEq, Repr

/-- An accumulate tracker (R318). -/
structure Tracker where
  dest : Nat
  count : Nat
  next : Nat
  job : Nat
  gen : Nat
  deriving DecidableEq, Repr

/-- A read whose first attempt was uncorrectable: line address, bad symbols plain and with the pattern removed, and
whether it started in ERASURE mode (R299, R302). -/
structure Retry where
  issuer : Issuer
  line : Nat
  bad : List Nat
  pbad : List Nat
  deriving DecidableEq, Repr

/-- A memory controller beside MEMC[m]. -/
structure Memc where
  /-- Corrected reads by region (R305). -/
  counts : Sp Nat := []
  /-- Retirement list, oldest first (R306). -/
  retired : List Nat := []
  /-- Regions mapped to spares 0, 1, … (R308). -/
  remap : List Nat := []
  retries : List Retry := []
  trackers : List Tracker := []
  held : List Contribution := []
  /-- A zeroisation: first region, regions, whole stack. -/
  zero : Option (Nat × Nat × Bool) := none
  /-- The stack has been initialised and zeroised since reset (R493). -/
  ready : Bool := false
  deriving DecidableEq, Repr

/-- An access that waits for the end of a zeroisation (R326), as it came. -/
inductive Parked where
  /-- A read of a line, or its retry: bad symbols as stored, and with the pattern removed. -/
  | read (addr : Nat) (bad pbad : List Nat)
  | retry (addr : Nat) (bad pbad : List Nat)
  | write (addr : Nat) (data : List Byte) (poison : Bool) (bad retry : List Nat)
  /-- The first or the second arrival of a tensor block. -/
  | block (block : Block) (again : Bool)
  /-- A DATA, ACC, READ_REQ or READ_RESP packet. -/
  | packet (pkt : Packet)
  /-- A host's access: window operation, stack address, data written or bytes read. -/
  | hostWrite (hdr : Roce) (addr : Nat) (data : List Byte)
  | hostRead (hdr : Roce) (addr len : Nat)
  deriving DecidableEq, Repr

/-! ### Ports and transport (chapter 9) -/

/-- UDP over IP around a Rosder packet (R336). -/
structure IpEncap where
  /-- 4 or 6. -/
  ver : Nat
  dscp : Nat
  /-- ECN field: 2 is ECT(0). -/
  ecn : Nat
  /-- Don't Fragment (IPv4), and the TTL or hop limit. -/
  df : Bool
  ttl : Nat
  srcPort : Nat
  dstPort : Nat
  deriving DecidableEq, Repr

/-- What a frame adds to its Rosder packet, as far as the spec gives it (R332, R336, R337). -/
structure Encap where
  etherType : Nat
  /-- PCP and VLAN identifier of the 802.1Q tag. -/
  vlan : Option (Nat × Nat)
  ip : Option IpEncap
  /-- MACsec packet number. -/
  pn : Option Nat
  /-- The 32-byte header on the wire. -/
  header : List Byte
  deriving DecidableEq, Repr

/-- What leaves the device: the outbox of the model (notes/assumptions/12.md). -/
inductive Out where
  /-- A packet on a port. -/
  | packet (port : Nat) (pkt : Packet) (encap : Encap)
  /-- A packet that finds no port up: it waits and times out (R399). -/
  | stuck (pkt : Packet)
  /-- The deputy's table of positions taken over: position and node, to a node (R411; no rule gives its message, log 45). -/
  | positionTable (dst : Nat) (table : List (Nat × Nat))
  /-- A RoCEv2 answer: acknowledgement, data, or a NAK by its reason. -/
  | roceAck (host : Nat)
  | roceData (host : Nat) (data : List Byte)
  | roceNak (host : Nat) (reason : String)
  /-- The congestion notification that a marked RoCEv2 packet calls for (R354). -/
  | roceCnp (host : Nat)
  /-- A line delivered by a memory controller to the domain that asked for it, with its poison mark. -/
  | line (issuer : Issuer) (addr : Nat) (data : List Byte) (poison : Bool)
  /-- A second arrival of a tensor block is asked of its source. -/
  | askBlock (source : Nat)
  /-- A register or window word read on a path. -/
  | word (path : Nat) (value : Word)
  /-- A command to the configuration flash, with the read mode of Table 14-2 in which it goes (R496 to R498). -/
  | flash (op : Nat) (mode : Nat)
  /-- The in-band interrupt of R449, and Hot-Join. -/
  | ibi
  | hotJoin
  /-- What the device tells of itself on ENTDAA: provisional ID, BCR and DCR (R556). -/
  | entdaa (pid : Nat) (bcr : Nat) (dcr : Nat)
  /-- A pause frame on traffic class 2 (R375). -/
  | pause (port : Nat)
  /-- The end-of-data of an I3C private read: nothing is held for the path (R542). -/
  | i3cEnd
  /-- A ring pair reports to the manager that it is ready for its open beat (R358). -/
  | ringReady (pairB : Bool)
  deriving DecidableEq, Repr

/-- A port beside LINK[k]. -/
structure Link where
  /-- Link-up time, and whether the class of R330 is settled. -/
  upAt : Nat := 0
  classed : Bool := false
  /-- Node of a HELLO received since link-up. -/
  helloFrom : Option Nat := none
  lastHello : Nat := 0
  /-- Next LSEQ to send and next expected from the partner. -/
  txSeq : Nat := 0
  rxSeq : Nat := 0
  /-- Frames kept for replay, oldest first. -/
  replay : List (Nat × Packet) := []
  /-- LSEQ of a discarded frame and its symbol errors by lane, until it arrives intact (R332, R334). -/
  lost : Option (Nat × List Nat) := none
  /-- Time of the last failure charged to each lane (R333). -/
  laneFail : Sp Nat := []
  lastTx : Nat := 0
  /-- Packets that wait for the port (it trains, is paused, or its replay buffer is full). -/
  queue : List Packet := []
  /-- Training: start and whether it is a fast retrain. -/
  train : Option (Nat × Bool) := none
  /-- A training has started since reset (RETRAIN_CNT counts those after it). -/
  everUp : Bool := false
  /-- The partner drove the port into a reduced mode. -/
  partnerReduced : Bool := false
  /-- The lanes left after lane faults, as a mask (R334). -/
  lanes : Nat := 15
  /-- Next MACsec packet number (R332, R355). -/
  pn : Nat := 1
  /-- RoCEv2 answers that wait in class 4 of a host port (R340), each with its frames. -/
  answers : List (Out × Nat) := []
  /-- Ring pair (west port only): receivers locked or without signal, open beat. -/
  listenLocked : Bool := false
  openAt : Option Nat := none
  /-- Paused priorities and the time at which each pause ends (R340). -/
  paused : Sp Nat := []
  /-- RING packets held for a stage that is not open (R375). -/
  held : List Packet := []
  /-- Adder contexts in use: bucket key and level (R377). -/
  ctxs : List (Nat × Nat) := []
  /-- Place in the 4 : 2 : 1 turn of traffic classes 2, 3 and 4 (R340). -/
  turn : Nat := 0
  deriving DecidableEq, Repr

/-- A reliable flow at its sender (R342, R343). Key: 65,536 × node + queue. -/
structure TxFlow where
  job : Nat
  gen : Nat
  next : Nat := 0
  /-- Unacknowledged packets with the beat of their first transmission, oldest first. -/
  unacked : List (Nat × Packet) := []
  timeouts : Nat := 0
  /-- Time of the last progress or resend. -/
  since : Nat := 0
  abandoned : Bool := false
  /-- Resend after REFUSED at this time, from this PSN. -/
  rnr : Option (Nat × Nat) := none
  /-- Packets that wait for the window of 256. -/
  waiting : List Packet := []
  deriving DecidableEq, Repr

/-- A reliable flow at its receiver. Key: 65,536 × sending node + queue. -/
structure RxFlow where
  job : Nat
  next : Nat := 0
  /-- A NAK SEQ was sent for the present gap. -/
  gap : Bool := false
  /-- The next packet's block failed its check once (R315). -/
  retry : Bool := false
  /-- Its second arrival matched, and the controller refused it (R319). -/
  rematch : Bool := false
  /-- Packets accepted and not acknowledged, and the time of the oldest. -/
  unacked : Nat := 0
  since : Nat := 0
  deriving DecidableEq, Repr

/-- A job table entry (R347): 0 FREE, 1 ACTIVE, 2 QUARANTINE. -/
structure JobEnt where
  gen : Nat := 0
  state : Nat := 2
  anyGen : Bool := true
  /-- End of the quarantine, full beat time; none until beat lock. -/
  until_ : Option Nat := none
  /-- Beat at which the job is freed (R349). -/
  freeAt : Option Nat := none
  deriving DecidableEq, Repr

/-- A member of a crew (Table 11-3). -/
structure Member where
  node : Nat
  logical : Nat
  ports : Nat
  deriving DecidableEq, Repr

/-- A crew as the device's copy holds it (R398, R400). -/
structure Crew where
  num : Nat
  stroke : Bool
  pos : Nat
  job : Nat
  wqBase : Nat
  keeper : Nat
  keepAddr : Nat
  members : List Member
  deriving DecidableEq, Repr

/-! ### Reduction (chapter 10) -/

/-- A stage of a bucket (Table 10-2). -/
structure Stage where
  ring : Bool
  n : Nat
  pos : Nat
  rx : Nat
  tx : Nat
  nodes : List Nat
  /-- The stage is open: its adder context is held. -/
  isOpen : Bool := false
  /-- The opening has waited for a context. -/
  waited : Bool := false
  deriving DecidableEq, Repr

/-- A bucket in progress, by the key 4,096 core + slot. -/
structure Bucket where
  num : Nat
  job : Nat
  gen : Nat
  segs : Nat
  firstSeg : Nat
  src : Nat
  dst : Nat
  work0 : Nat
  work1 : Nat
  resx : Nat
  cnt : Nat
  stages : List Stage
  /-- Final sums complete at this owner: level + 2 × segment. -/
  summed : List Nat := []
  /-- Segments of DST written. -/
  written : List Nat := []
  /-- Segments noticed for a redo, with X′ (R388). -/
  redo : Sp Int := []
  /-- The redo pass runs or has run (R389). -/
  redoRun : Bool := false
  /-- XMAX noted per segment of an owned sum (R387), and of the first pass of a segment that is redone (R382). -/
  ovf : Sp Nat := []
  first : Sp Nat := []
  /-- The level-0 gather of this member's shard has started (R372). -/
  gathered : Bool := false
  /-- Scale-table indices whose estimate entry holds an observation of this bucket (R382). -/
  obs : List Nat := []
  done : Bool := false
  deriving DecidableEq, Repr

/-- The reduction engine. -/
structure RedSt where
  buckets : Sp Bucket := []
  /-- Updates that wait for their catch: catch beat time, entries (R383). -/
  updates : List (Nat × List (Nat × Int)) := []
  /-- Buckets launched in the present strokes (Table 10-3, check 2): core and number. -/
  launched : List (Nat × Nat) := []
  scaleLate : Bool := false
  /-- Contributions of this device to its own controllers: those to apply next, and those a controller refused (R319). -/
  mine : List Contribution := []
  refused : List Contribution := []
  deriving DecidableEq, Repr

/-! ### Manager, deputy and worker roles (chapter 11) -/

/-- A checkpoint attempt at the manager: K, its ordering finish, members done (R405, R411). -/
structure Attempt where
  k : Nat
  fin : Nat
  done : List Nat := []
  deriving DecidableEq, Repr

/-- A roll call at the manager: its number, its start, members that answered (R420). -/
structure Roll where
  call : Nat
  start : Nat
  answered : List Nat := []
  deriving DecidableEq, Repr

/-- A restore at the manager (R412 to R417): K, variant, substitutions, members done, attempts made, and the restore finish. -/
structure Restoring where
  k : Nat
  variant : Nat
  subs : List (Nat × Nat)
  done : List Nat := []
  tries : Nat := 1
  finish : Option Nat := none
  deriving DecidableEq, Repr

/-- A stroke crew as its manager runs it. -/
structure MCrew where
  /-- A stroke of the crew runs or is armed. -/
  on : Bool := false
  /-- A READY of the crew has come, its stroke was aborted, or a restore finished: the catch of its first stroke is past. -/
  began : Bool := false
  /-- Catch of the stroke that runs (full beat time), from the READY messages and arms. -/
  catchAt : Nat := 0
  /-- Members whose READY for that catch has come. -/
  ready : List Nat := []
  /-- The decided finish (full beat time), and whether a marker has carried it (R30, R31). -/
  fin : Option Nat := none
  said : Bool := false
  /-- Variant in force, and the stretch last reported (R53). -/
  variant : Nat := 0
  stretch : Nat := 0
  ckpt : Option Attempt := none
  /-- Beat of the last commit (R405). -/
  lastCommit : Nat := 0
  /-- A checkpoint is due at the next step-end finish (R405). -/
  ckptDue : Bool := false
  /-- Cause of the abort the crew is in. -/
  cause : Nat := 0
  roll : Option Roll := none
  failed : List Nat := []
  restore : Option Restoring := none
  lost : Bool := false
  /-- Scale reports merged for the next update: (segment, exponent), and the full beat time of the earliest catch it may name. -/
  scales : List (Nat × Int) := []
  scaleDue : Nat := 0
  deriving DecidableEq, Repr

/-- Manager traffic and roles. -/
structure MgrSt where
  /-- Node of the acting manager and deputy from the last CLAIM or TAKEOVER. -/
  mgrNode : Option Nat := none
  depNode : Option Nat := none
  claimSeen : Bool := false
  lastClaim : Option Nat := none
  lastJoin : Option Nat := none
  msgId : Nat := 0
  /-- Nodes that joined, by node number: the KIND of their node table entry. -/
  joined : Sp Nat := []
  /-- Logical positions taken over: position to node. -/
  positions : Sp Nat := []
  crews : Sp MCrew := []
  /-- RUN_BEATS counts from here. -/
  claimedAt : Nat := 0
  callNo : Nat := 0
  /-- A deputy's takeover: start, acceptances, refusals. -/
  takeover : Option (Nat × List Nat × List Nat) := none
  /-- Beat of the last TAKEOVER sent (R563). -/
  takeoverAt : Option Nat := none
  /-- Generation of job 0 last replicated from the manager. -/
  repGen : Option Nat := none
  /-- Worker: ordered checkpoint (K, full finish beat); the one whose ordering finish has been taken; its state record is
  still to be written (R405, R410). -/
  ckptOrder : Option (Nat × Nat) := none
  ckptNow : Option (Nat × Nat) := none
  recordDue : Bool := false
  /-- Manager: crews with a decided finish that no marker has carried, in the order decided (R31). -/
  announce : List Nat := []
  /-- Manager: jobs to open anew after a fence: beat, crew, job, generation (R421). -/
  reopen : List (Nat × Nat × Nat × Nat) := []
  /-- Manager: substitutions in force: failed node, substitute (R422). -/
  subs : List (Nat × Nat) := []
  /-- Manager: nodes that JOINed or reported a chip reset while holding a position (Table 11-8). -/
  fallen : List Nat := []
  /-- Worker: a roll call that waits for the undo (crew, call). -/
  rollDue : Option (Nat × Nat) := none
  /-- Worker: RESTORE received (K, variant, substitutions), and the restore finish named. -/
  restore : Option (Nat × Nat × List (Nat × Nat)) := none
  /-- The record of the checkpoint has been taken back, and residuals recomputed (R413, steps 5 and 6). -/
  restoreTaken : Bool := false
  /-- A block of the device's own was poisoned, or its rebuilt narrow copy differs from the checkpoint's (R416). -/
  restoreBad : Bool := false
  restoreDone : Bool := false
  restoreFinish : Option Nat := none
  /-- Programs armed by PROG_ARM, by 256 * core + variant (R403, R417). -/
  armed : Sp Prog := []
  /-- Catches taken: STROKE_NO of the state record (R410). -/
  strokeNo : Nat := 0
  /-- A lasting fault is pending: the device answers roll calls as failed (R476). -/
  lastingPending : Bool := false
  /-- Last REG_REQ performed by an unassigned or diagnosable node, and its answer (R563). -/
  lastReq : Option (Nat × List Byte) := none
  markerLate : Bool := false
  diagnosable : Bool := false
  /-- The domain of the first CLAIM taken where the configuration names none (Table 14-8). -/
  domain : Option Nat := none
  /-- Manager: the latest physical records of each device (R149, R307): deck records by 2^20 node + tile, stack records by
  2^20 node + 2^16 + stack. -/
  reports : Sp (List Byte) := []
  /-- A device that has reset: the physical records that have come back to it, with 0 as the node (R414). -/
  physical : Sp (List Byte) := []
  /-- Manager: the last REG_RESP of each node (R528). -/
  responses : Sp (List Byte) := []
  deriving DecidableEq, Repr

/-! ### Start-up and security (chapter 14) -/

/-- The start-up sequence (Table 14-1). -/
structure StartSt where
  rise : Nat := 0
  /-- Domains of the class that ramps, and the class, 0 port logic to 5 analogue periphery (R490). -/
  ramping : List Nat := []
  cls : Nat := 0
  ramped : Bool := false
  discovered : Bool := false
  /-- The loader drives CFG_SCK, CFG_CS_L, CFG_IO[7:0] and CFG_DQS; otherwise they are high-impedance (R496). -/
  cfgBus : Bool := false
  /-- Start of step 3, ns. -/
  loadFrom : Nat := 0
  reread : Bool := false
  /-- The image accepted and not applied. -/
  image : Option (List Byte) := none
  /-- Step 4 is done. -/
  applied : Bool := false
  /-- Array wake runs: tiles call for their calibration at once (R173). -/
  waking : Bool := false
  burn : Option Nat := none
  /-- The configured spare count (R2), the default until an image says otherwise. -/
  spares : Nat := 1
  /-- Owner key storage as the configuration load took it (R509). -/
  ownerSlot : Option Nat := none
  ownerDigest : List Byte := []
  /-- A chip-level reset holds for REFCLK (R554). -/
  domainDark : Bool := false
  ready : Bool := false
  deriving DecidableEq, Repr

/-- What the clearing of R516 is for. -/
inductive Clearing where
  | debug (perm : Nat)
  | tenant (value : Nat)
  deriving DecidableEq, Repr

/-- The security engine (R513 to R518). -/
structure SecSt where
  /-- Command under way with its outcome: the operation, an error code or 0, and its mailbox output, or, for an owner slot,
  the new digest. -/
  cmd : Option (Nat × Nat × List Byte) := none
  /-- Challenge outstanding: record and time. -/
  challenge : Option (List Byte × Nat) := none
  clearing : Option Clearing := none
  /-- CKN and CAK by link block (R518). -/
  caks : Sp (List Byte × List Byte) := []
  deriving DecidableEq, Repr

/-! ### Register paths (chapter 15) -/

/-- One path's own registers (R533, R538). -/
structure PathSt where
  latch : Sp Word := []
  winLo : Word := 0
  winHi : Word := 0
  winStatus : Word := 0
  deriving DecidableEq, Repr

/-- A REG_REQ whose accesses are not all done (R529): its sender, crew field, REQ_ID and COUNT, the entries left as address word
and data, and the answer so far. -/
structure RegJob where
  src : Nat
  crew : Nat
  id : Nat
  count : Nat
  left : List (Nat × Nat)
  done : List Byte := []
  deriving DecidableEq, Repr

/-- An access of a path that waits (R534): a write or a read of a register, for an RDMA request of a host where one is named, a
word of an I3C private read, or a request of the manager. -/
inductive Waiting where
  | write (path : Path) (addr value : Nat) (rdma : Option Roce)
  | read (path : Path) (addr : Nat) (rdma : Option Roce)
  | i3cWord (addr : Nat)
  | request (job : RegJob)
  deriving DecidableEq, Repr

/-- Register access state. -/
structure AccSt where
  paths : Sp PathSt := []
  /-- I3C pointer with INC in bit 31, and the word held for the path (R542). -/
  pointer : Word := 0
  heldWord : Option Word := none
  /-- Dynamic address, none without one (R556). -/
  i3cAddr : Option Nat := none
  /-- Accesses that wait, oldest first: those of one path complete in this order (R529, R534, R540). -/
  waits : List Waiting := []
  deriving DecidableEq, Repr

/-! ### The state -/

/-- What a reset of the chip clears, and the cells. -/
structure Work where
  /-- Registers that differ from their reset values, by byte address (R531). -/
  regs : Sp Word := []
  /-- Values in force of registers whose write takes effect later (R107, R433 and others). -/
  force : Sp Word := []
  /-- Bytes of HBM, scratchpads and Eight SRAM that are not 0, by the model's own address (R295, notes/assumptions/13.md). -/
  mem : List Host.Cell := []
  /-- Poisoned units of memory: 256-byte lines of HBM and 64-byte units of local memory, rising. -/
  poison : List Nat := []
  /-- Accumulator elements that are not +0, and poisoned half-tiles (R194, R196). -/
  acc : Sp Word := []
  accPoison : List Nat := []
  /-- Levels of rows of cells written since manufacture: 1,041 positions (R59, R61). Nothing resets them. -/
  cells : Sp (List Int) := []
  /-- Nanoseconds since the model's own origin. -/
  now : Nat := 0
  /-- The model's own counter of free values drawn. -/
  free : Nat := 0
  out : List Out := []
  fault : FaultSt := {}
  power : PowerSt := {}
  hk : HkSt := {}
  beat : BeatSt := {}
  coxes : Sp Cox := []
  stroke : StrokeSt := {}
  step : StepSt := {}
  tiles : Sp Tile := []
  fwd : Sp FwdRun := []
  commits : Sp Commit := []
  /-- Rows of level maps and residuals whose fold is not complete: core, address, bytes (R140). -/
  unfolded : List (Nat × Nat × Nat) := []
  ctxs : Sp Ctx := []
  digital : Sp Digital := []
  sess : SessSt := {}
  memcs : Sp Memc := []
  /-- Accesses that wait for the end of a zeroisation, in the order they came (R326). -/
  parked : List (Issuer × Parked) := []
  /-- Tensor blocks asked for once more: destination and source (R315). -/
  asked : List (Nat × Nat) := []
  links : Sp Link := []
  txFlows : Sp TxFlow := []
  rxFlows : Sp RxFlow := []
  /-- RoCEv2 queue pairs by work queue, as firmware bound them: host port, the host's queue pair, path MTU (R341). -/
  qps : Sp (Nat × Nat × Nat) := []
  jobs : Sp JobEnt := []
  /-- Beat lock was reached since reset at this beat time (R351). -/
  lockAt : Option Nat := none
  crews : List Crew := []
  /-- Jobs freed since the last binding: their queues are released (R349). -/
  released : List Nat := []
  red : RedSt := {}
  mgr : MgrSt := {}
  start : StartSt := {}
  sec : SecSt := {}
  access : AccSt := {}
  /-- Host windows of the image: Table 9-8. -/
  windows : List (Nat × Nat × Nat × Nat × Nat) := []
  deriving DecidableEq, Repr

/-- Pins, straps, key storage, and what stays until power is removed. -/
structure Board where
  /-- VIO is present. -/
  powered : Bool
  pwrGood : Bool
  resetL : Bool
  refclk : Bool
  /-- ROLE[1:0] as sampled at the last rising edge of RESET_L (R5). -/
  role : Fin 4
  /-- THERMTRIP_L and PCYC_REQ_L are driven low (R487, R449). -/
  thermtrip : Bool
  pcyc : Bool
  /-- Digests in the owner slots programmed, slot 0 first; every slot below the last is revoked (R509). -/
  owners : List (List Byte)
  /-- Fused minimum security version (R510). -/
  secMin : Nat
  deriving DecidableEq, Repr

/-- The block's state. -/
structure State where
  board : Board
  work : Work
  /-- The commands that wait, first in, first out. -/
  pending : List Instr
  deriving DecidableEq, Repr

/-- The work state right after a reset of the chip: every register at its reset value, nothing in memory. The first
start-up class, port logic, ramps (R490). -/
def Work.reset : Work := { start := { ramping := [65, 67, 69, 71] } }

/-- The machine right after the reset of power-up: power good, RESET_L risen with ROLE left open, which reads 00, a worker
(R550); no owner key programmed (notes/assumptions/3.md). -/
def State.reset : State :=
  { board := { powered := true, pwrGood := true, resetL := true, refclk := true, role := 0, thermtrip := false,
               pcyc := false, owners := [], secMin := 0 },
    work := Work.reset, pending := [] }

end Sys2Proof.Machine
end

