-- ==== Sys2Proof/Machine/Ops.lean ====
section
/-! DEFINITION. Machine/Ops.lean: the named operations over maps, registers, memory, poison marks and bytes, and how a
command reaches the state. -/

namespace Sys2Proof.Machine

/-! ### Sparse maps -/

namespace Sp
variable {α : Type}

/-- The value listed for a key. -/
def find (l : Sp α) (k : Nat) : Option α := (l.find? (fun p => p.1 == k)).map (·.2)

/-- The map without a key. -/
def erase (l : Sp α) (k : Nat) : Sp α := l.filter (fun p => p.1 != k)

/-- Insertion that keeps rising keys rising. -/
def ins (k : Nat) (v : α) : Sp α → Sp α
  | [] => [(k, v)]
  | p :: ps => if k < p.1 then (k, v) :: p :: ps else p :: ins k v ps

/-- The map with one key bound anew. -/
def put (l : Sp α) (k : Nat) (v : α) : Sp α := ins k v (erase l k)

/-- The value of a key, a default where it is not listed. -/
def get (l : Sp α) (d : α) (k : Nat) : α := (find l k).getD d

end Sp

/-- A rising list of numbers with one more. -/
def insNat (k : Nat) : List Nat → List Nat
  | [] => [k]
  | x :: xs => if k < x then k :: x :: xs else if k = x then x :: xs else x :: insNat k xs

/-! ### Registers (R520 to R531) -/

/-- The register at a byte address. -/
def Work.reg (w : Work) (a : Nat) : Word := (Sp.find w.regs a).getD (BitVec.ofNat 32 (regReset a))

/-- The register as a number. -/
def Work.rd (w : Work) (a : Nat) : Nat := (w.reg a).toNat

/-- The register bound anew. -/
def Work.wr (w : Work) (a n : Nat) : Work := { w with regs := Sp.put w.regs a (BitVec.ofNat 32 n) }

/-- A field of a register. -/
def Work.fld (w : Work) (a lo len : Nat) : Nat := bits (w.rd a) lo len

/-- One bit of a register. -/
def Work.flag (w : Work) (a b : Nat) : Bool := (w.rd a).testBit b

/-- A register with one field replaced. -/
def Work.setFld (w : Work) (a lo len v : Nat) : Work := w.wr a (putBits (w.rd a) lo len v)

/-- A register with one bit set. -/
def Work.setBit (w : Work) (a b : Nat) : Work := w.setFld a b 1 1

/-- A register with one bit cleared. -/
def Work.clrBit (w : Work) (a b : Nat) : Work := w.setFld a b 1 0

/-- A bit set or cleared. -/
def Work.bitTo (w : Work) (a b : Nat) (v : Bool) : Work := w.setFld a b 1 (if v then 1 else 0)

/-- A 32-bit counter that holds at its largest value (R57, R108). -/
def Work.incBy (w : Work) (a n : Nat) : Work := w.wr a (min (w.rd a + n) 0xFFFFFFFF)

/-- A 32-bit counter advanced by one. -/
def Work.inc (w : Work) (a : Nat) : Work := w.incBy a 1

/-- A counter in a field that holds at its largest value (R57). -/
def Work.incFld (w : Work) (a lo len n : Nat) : Work := w.setFld a lo len (min (w.fld a lo len + n) (2 ^ len - 1))

/-- The value in force of a register whose write takes effect later: the one held, else the register. -/
def Work.live (w : Work) (a : Nat) : Nat :=
  match Sp.find w.force a with
  | some v => v.toNat
  | none => w.rd a

/-- A write of a register that takes effect later: the value in force stays, the register takes the new one (R530). -/
def Work.wrLater (w : Work) (a n : Nat) : Work :=
  ({ w with force := match Sp.find w.force a with | some _ => w.force | none => Sp.put w.force a (w.reg a) }).wr a n

/-- A 40-bit base held in a LO and HI pair (Table 3-21). -/
def Work.base (w : Work) (lo hi : Nat) : Nat := w.rd lo + 2 ^ 32 * w.fld hi 0 8

/-- `n`, or `d` where it is 0. -/
def orDefault (n d : Nat) : Nat := if n = 0 then d else n

/-- Division rounded half to even. -/
def roundHalfEven (n : Int) (d : Nat) : Int :=
  let q := n / (d : Int)
  let r := n % (d : Int)
  if 2 * r < d then q else if 2 * r > d then q + 1 else if q % 2 = 0 then q else q + 1

/-! ### Bytes -/

/-- The number that bytes spell, lowest first. -/
def leNat : List Byte → Nat
  | [] => 0
  | b :: bs => b.toNat + 256 * leNat bs

/-- `n` bytes of a number, lowest first. -/
def toLE : Nat → Nat → List Byte
  | 0, _ => []
  | n + 1, v => BitVec.ofNat 8 v :: toLE n (v / 256)

/-- The number that bytes spell in network order. -/
def beNat (bs : List Byte) : Nat := leNat bs.reverse

/-- `n` bytes of a number in network order. -/
def toBE (n v : Nat) : List Byte := (toLE n v).reverse

/-- `n` bytes of a list from an offset; missing bytes are 0. -/
def sub (l : List Byte) (off n : Nat) : List Byte := (List.range n).map (fun i => l.getD (off + i) 0)

/-- A little-endian field of a byte list. -/
def leAt (l : List Byte) (off n : Nat) : Nat := leNat (sub l off n)

/-- A network-order field of a byte list. -/
def beAt (l : List Byte) (off n : Nat) : Nat := beNat (sub l off n)

/-- A number of zero bytes. -/
def zeros (n : Nat) : List Byte := List.replicate n 0

/-- The four bytes of each word, lowest first. -/
def wordsLE (ws : List Word) : List Byte := ws.flatMap (fun v => toLE 4 v.toNat)

/-- Every byte is zero. -/
def allZero (l : List Byte) : Bool := l.all (· == 0)

/-- One step of CRC-32C over eight bits (the polynomial 0x1EDC6F41, reflected 0x82F63B78). -/
def crcByte (c : Nat) (b : Byte) : Nat :=
  let f := fun (x : Nat) => if x % 2 = 1 then (x >>> 1) ^^^ 0x82F63B78 else x >>> 1
  f (f (f (f (f (f (f (f (c ^^^ b.toNat))))))))

/-- CRC-32C of bytes. -/
def crc32c (l : List Byte) : Nat := (l.foldl crcByte 0xFFFFFFFF) ^^^ 0xFFFFFFFF

/-! ### Memory (R295, R312; the model's layout is notes/assumptions/13.md) -/

/-- First address of core c's scratchpad in the model's memory. -/
def spadBase (c : Nat) : Nat := 2 ^ 40 + c * 2 ^ 21

/-- First address of Eight e's SRAM in the model's memory. -/
def sramBase (e : Nat) : Nat := 2 ^ 41 + e * 2 ^ 23

/-- First address of the stash aperture (R272); stack addresses lie below it. -/
def apertureBase : Nat := 0xC000000000

/-- The model's address of a local address of core c: scratchpad, then the SRAM of its Eight at Config.eightBase. -/
def localAddr (c a : Nat) : Option Nat :=
  if a < 2 ^ 21 then some (spadBase c + a)
  else if Config.eightBase ≤ a ∧ a < Config.eightBase + 2 ^ 23 then some (sramBase (c / 8) + (a - Config.eightBase))
  else none

/-- Whether `n` bytes from a local address lie wholly in scratchpad or in Eight SRAM. -/
def localOk (a n : Nat) : Bool :=
  a + n ≤ 2 ^ 21 || (2 ^ 21 ≤ a && Config.eightBase ≤ a && a + n ≤ Config.eightBase + 2 ^ 23)

/-- The byte at an address of a memory list; an unlisted one is 0. -/
def cellAt (m : List Host.Cell) (a : Nat) : Byte := ((m.find? (fun p => p.1 == a)).map (·.2)).getD 0

/-- The byte at an address. -/
def Work.byte (w : Work) (a : Nat) : Byte := cellAt w.mem a

/-- Bytes from an address. -/
def Work.bytes (w : Work) (a n : Nat) : List Byte := (List.range n).map (fun i => w.byte (a + i))

/-- Cells of bytes from an address, those equal to 0 left out. -/
def cellsOf : Nat → List Byte → List Host.Cell
  | _, [] => []
  | a, b :: bs => if b = 0 then cellsOf (a + 1) bs else (a, b) :: cellsOf (a + 1) bs

/-- A memory list with bytes stored from an address. -/
def storeCells (m : List Host.Cell) (a : Nat) (bs : List Byte) : List Host.Cell :=
  m.filter (fun p => p.1 < a) ++ cellsOf a bs ++ m.filter (fun p => a + bs.length ≤ p.1)

/-- Bytes stored from an address. -/
def Work.store (w : Work) (a : Nat) (bs : List Byte) : Work := { w with mem := storeCells w.mem a bs }

/-- A little-endian number stored in memory. -/
def Work.num (w : Work) (a n : Nat) : Nat := leNat (w.bytes a n)

/-- A little-endian number stored. -/
def Work.storeNum (w : Work) (a n v : Nat) : Work := w.store a (toLE n v)

/-- A word of memory. -/
def Work.word (w : Work) (a : Nat) : Word := BitVec.ofNat 32 (w.num a 4)

/-- Words from an address. -/
def Work.wordsAt (w : Work) (a n : Nat) : List Word := (List.range n).map (fun i => w.word (a + 4 * i))

/-- The canonical form of memory: rising addresses, no byte equal to what an unlisted address reads as. -/
def Memory.wf : List Host.Cell → Bool
  | [] => true
  | [c] => c.2 != 0
  | c :: d :: r => c.2 != 0 && c.1 < d.1 && Memory.wf (d :: r)

/-- The poison unit of an address: a 256-byte line of HBM, a 64-byte unit of local memory (R312). -/
def poisonUnit (a : Nat) : Nat := if a < 2 ^ 40 then a / 256 else a / 64 + 2 ^ 40

/-- The poison units that `n` bytes from an address touch. -/
def poisonUnits (a n : Nat) : List Nat :=
  if n = 0 then [] else
    (List.range (poisonUnit (a + n - 1) - poisonUnit a + 1)).map (fun i => poisonUnit a + i)

/-- Whether a byte range touches a poisoned unit. -/
def Work.poisoned (w : Work) (a n : Nat) : Bool := (poisonUnits a n).any (fun u => w.poison.contains u)

/-- The units of a byte range marked poisoned. -/
def Work.mark (w : Work) (a n : Nat) : Work :=
  { w with poison := (poisonUnits a n).foldl (fun l u => insNat u l) w.poison }

/-- The units that the range covers whole, cleared (R311, R312). -/
def Work.unmark (w : Work) (a n : Nat) : Work :=
  let sz := if a < 2 ^ 40 then 256 else 64
  let first := (a + sz - 1) / sz
  let last := (a + n) / sz
  { w with poison := w.poison.filter (fun u =>
      let v := if a < 2 ^ 40 then u else u - 2 ^ 40
      !(decide (first ≤ v ∧ v < last) && (decide (u < 2 ^ 40) == decide (a < 2 ^ 40)))) }

/-- Bytes stored with or without a poison mark: clean data clears the mark of the units it covers whole (R311, R312). -/
def Work.put (w : Work) (a : Nat) (bs : List Byte) (poison : Bool) : Work :=
  let w := w.store a bs
  if poison then w.mark a bs.length else w.unmark a bs.length

/-- Bytes and marks of an address range moved to another, units of 64 bytes carrying their marks. -/
def Work.copy (w : Work) (src dst n : Nat) : Work :=
  (List.range ((n + 255) / 256)).foldl
    (fun v i => v.put (dst + 256 * i) (w.bytes (src + 256 * i) (min 256 (n - 256 * i)))
      (w.poisoned (src + 256 * i) (min 256 (n - 256 * i)))) w

/-- Memory of a range set to zero and its marks cleared. -/
def Work.zeroRange (w : Work) (a n : Nat) : Work :=
  let lo := poisonUnit a
  let hi := poisonUnit (a + n)
  { w with
    mem := w.mem.filter (fun p => p.1 < a || a + n ≤ p.1)
    poison := w.poison.filter (fun u => u < lo || hi ≤ u) }

/-- A stack address's stack and local address (R296). -/
def stackOf (a : Nat) : Nat × Nat := ((a / 4096) % 12, (a / 4096) / 12 * 4096 + a % 4096)

/-- Whether `n` bytes from an address lie within the stacks (R295). -/
def inStacks (a n : Nat) : Bool := a + n ≤ apertureBase

/-- Whether `n` bytes from an address lie within HBM, the aperture included (R295). -/
def inHbm (a n : Nat) : Bool := a + n ≤ 2 ^ 40

/-! ### Time -/

/-- The beat period in force, in ns (R18); one written in test mode comes into force at the next beat edge (R21). -/
def Work.period (w : Work) : Nat := bits (w.live BEAT_PERIOD) 0 13

/-- The 40-bit beat counter. -/
def Work.beatCnt (w : Work) : Nat := w.rd BEAT_COUNT_LO + 2 ^ 32 * w.fld BEAT_COUNT_HI 0 8

/-- The 24-bit epoch. -/
def Work.epoch (w : Work) : Nat := w.fld BEAT_COUNT_HI 8 24

/-- The full beat time of R33. -/
def Work.beatFull (w : Work) : Nat := w.epoch * 2 ^ 40 + w.beatCnt

/-- Whether a beat is earlier than another (R34). -/
def beatBefore (a b : Nat) : Bool :=
  let d := (b + 2 ^ 40 - a % 2 ^ 40) % 2 ^ 40
  decide (0 < d ∧ d < 2 ^ 39)

/-- Beats from one beat to another, 0 where the other is not ahead (R34). -/
def beatsAhead (now t : Nat) : Nat :=
  let d := (t + 2 ^ 40 - now % 2 ^ 40) % 2 ^ 40
  if d < 2 ^ 39 then d else 0

/-- A full beat time later by some beats (R32, R33). -/
def beatAdd (t n : Nat) : Nat := (t + n) % 2 ^ 64

/-- A monitored unit made progress, or its monitor is armed anew (Table 12-8): keyed by its unit code, contexts from 2,000 on (17 of
each core). -/
def Work.progress (w : Work) (key : Nat) : Work :=
  { w with fault := { w.fault with progress := Sp.put w.fault.progress key w.beatFull } }

/-- Nanoseconds from now to the edge of a full beat time that is not past. -/
def Work.nsTo (w : Work) (t : Nat) : Nat :=
  beatsAhead w.beatFull t * w.period + w.beat.lastEdge.getD w.now - w.now

/-- Time has come to `t`: an event that time brings happens no earlier (log 1). -/
def Work.till (w : Work) (t : Nat) : Work := { w with now := max w.now t }

/-- Beat lock is held (R22). -/
def Work.locked (w : Work) : Bool := w.flag BEAT_STATUS 0

/-! ### Parts of the state by index -/

/-- The tile of core c and number t. -/
def Work.tile (w : Work) (c t : Nat) : Tile := Sp.get w.tiles {} (16 * c + t)
/-- A tile bound anew. -/
def Work.setTile (w : Work) (c t : Nat) (v : Tile) : Work := { w with tiles := Sp.put w.tiles (16 * c + t) v }
/-- The cox of core c. -/
def Work.cox (w : Work) (c : Nat) : Cox := Sp.get w.coxes {} c
/-- A cox bound anew. -/
def Work.setCox (w : Work) (c : Nat) (v : Cox) : Work := { w with coxes := Sp.put w.coxes c v }
/-- Commit state of core c. -/
def Work.commit (w : Work) (c : Nat) : Commit := Sp.get w.commits {} c
/-- Commit state bound anew. -/
def Work.setCommit (w : Work) (c : Nat) (v : Commit) : Work := { w with commits := Sp.put w.commits c v }
/-- Digital state of core c. -/
def Work.dig (w : Work) (c : Nat) : Digital := Sp.get w.digital {} c
/-- Digital state bound anew. -/
def Work.setDig (w : Work) (c : Nat) (v : Digital) : Work := { w with digital := Sp.put w.digital c v }
/-- Context x of core c. -/
def Work.ctx (w : Work) (c x : Nat) : Ctx := Sp.get w.ctxs {} (17 * c + x)
/-- A context bound anew. -/
def Work.setCtx (w : Work) (c x : Nat) (v : Ctx) : Work := { w with ctxs := Sp.put w.ctxs (17 * c + x) v }
/-- Memory controller m. -/
def Work.memc (w : Work) (m : Nat) : Memc := Sp.get w.memcs {} m
/-- A memory controller bound anew. -/
def Work.setMemc (w : Work) (m : Nat) (v : Memc) : Work := { w with memcs := Sp.put w.memcs m v }
/-- Port k. -/
def Work.link (w : Work) (k : Nat) : Link := Sp.get w.links {} k
/-- A port bound anew. -/
def Work.setLink (w : Work) (k : Nat) (v : Link) : Work := { w with links := Sp.put w.links k v }
/-- Power domain p. -/
def Work.domain (w : Work) (p : Nat) : Domain := Sp.get w.power.dom {} p
/-- A power domain bound anew. -/
def Work.setDomain (w : Work) (p : Nat) (v : Domain) : Work :=
  { w with power := { w.power with dom := Sp.put w.power.dom p v } }
/-- A crew at its manager. -/
def Work.mcrew (w : Work) (n : Nat) : MCrew := Sp.get w.mgr.crews {} n
/-- A crew at its manager bound anew. -/
def Work.setMcrew (w : Work) (n : Nat) (v : MCrew) : Work :=
  { w with mgr := { w.mgr with crews := Sp.put w.mgr.crews n v } }

/-- The state of a cox (Table 1-8). -/
def Work.coxState (w : Work) (c : Nat) : Nat := w.fld (COX_STATUS c) 0 3

/-- Every cox of the device is IDLE. -/
def Work.allIdle (w : Work) : Bool := w.coxes.all (fun p => w.coxState p.1 == 0)

/-- Something sent out. -/
def Work.emit (w : Work) (o : Out) : Work := { w with out := w.out ++ [o] }

/-- A fresh free value and the state that has used it up (notes/assumptions/9.md). -/
def Work.draw (w : Work) : Nat × Work := (Config.fresh w.free, { w with free := w.free + 1 })

/-- Bytes of no stated value, a fresh free value each time. -/
def Work.drawBytes (w : Work) (n : Nat) : List Byte × Work := (toLE n w.draw.1, w.draw.2)

/-! ### How a command reaches the state -/

/-- The device runs: powered, out of reset, clocked, and not held by a trip or a power-cycle request (R449, R487, R491,
R554). -/
def Board.alive (b : Board) : Bool := b.powered && b.pwrGood && b.resetL && b.refclk && !b.thermtrip && !b.pcyc

/-- The register window answers: as `alive`, and also in the hold of a power-cycle request (R449, R557). -/
def Board.answers (b : Board) : Bool := b.powered && b.pwrGood && b.resetL && !b.thermtrip

/-- What a meaning answers. -/
abbrev Ans := Host.Outcome State Fault Refusal

/-- A command that acts on the running device and leaves the board and the queue as they are. A device that is not running
does nothing. -/
def State.run (f : Board → Work → Work) (s : State) : Ans :=
  .next (if s.board.alive then { s with work := f s.board s.work } else s)

/-- A command on a register path, which also answers while the device is held. -/
def State.access (f : Board → Work → Work) (s : State) : Ans :=
  .next (if s.board.answers then { s with work := f s.board s.work } else s)

/-- A command of the running device that may also change the board. -/
def State.runAll (f : Board → Work → Board × Work) (s : State) : Ans :=
  .next (if s.board.alive then { s with board := (f s.board s.work).1, work := (f s.board s.work).2 } else s)

/-- A command of pins and power, which acts in every condition of the device. -/
def State.pins (f : Board → Work → Board × Work) (s : State) : Ans :=
  .next { s with board := (f s.board s.work).1, work := (f s.board s.work).2 }

/-- `f` where the condition holds, the state as it is otherwise. -/
def Work.when (w : Work) (c : Bool) (f : Work → Work) : Work := if c then f w else w

end Sys2Proof.Machine
end

