-- ==== Sys2Proof/Machine/Flags.lean ====
section
/-! DEFINITION. Machine/Flags.lean: what status and control registers say together: the levels of the output pins, the checking
share, and what the role and the domain let the device do. The block has no arithmetic flags of its own. -/

namespace Sys2Proof.Machine

/-- FAULT_L is driven low (R430). -/
def Work.faultL (w : Work) : Bool := w.flag FAULT_STATUS 0 || w.flag SAMPLE_STATUS 0 || w.flag FAULT_STATUS 2

/-- REPLACE_L is driven low (R463). -/
def Work.replaceL (w : Work) : Bool := w.fld REPL_STATUS 0 6 != 0

/-- The checking share in force as the n of 1/n, 0 for off (R433). -/
def Work.chkShare (w : Work) : Nat := match w.live FAULT_CTL % 4 with | 1 => 64 | 2 => 16 | 3 => 4 | _ => 0

end Sys2Proof.Machine
end

