-- ==== Sys2Proof/Machine/Net.lean ====
section
/-! DEFINITION. Machine/Net.lean: ports and the Rosder transport as the other parts use them: building packets, routes,
sending on a port, reliable flows, and what a receiver checks of a packet (R336 to R350, R399, R401, R563 to R566). -/

namespace Sys2Proof.Machine

/-! ### Packets -/

/-- Traffic class of a packet type (Table 9-5). -/
def tcOf (type : Nat) : Nat :=
  match type with
  | 4 | 7 | 8 => 0
  | 2 | 3 | 5 | 6 => 1
  | 1 | 9 => 2
  | _ => 3

/-- Priority code point of a traffic class (Table 9-5). -/
def pcpOf (tc : Nat) : Nat := match tc with | 0 => 7 | 1 => 6 | 2 => 3 | 3 => 2 | _ => 1

/-- The types that travel in a reliable flow (Table 9-4). -/
def reliableType (type : Nat) : Bool := [0, 1, 5, 6, 10, 11].contains type

/-- Node of this device (R337). -/
def Work.node (w : Work) : Nat := w.fld NODE 0 16

/-- The job table entry of a job; at reset job 0 is ACTIVE and every other job in QUARANTINE, both with ANY_GEN set (R351). -/
def Work.jobEnt (w : Work) (j : Nat) : JobEnt :=
  (Sp.find w.jobs j).getD (if j = 0 then { state := 1 } else {})

/-- The generation recorded for a job. -/
def Work.jobGen (w : Work) (j : Nat) : Nat := (w.jobEnt j).gen

/-- MSG_LIFE (Table 9-19). -/
def Work.msgLife (w : Work) : Nat := max 64 (w.fld ROSDER_CFG 16 14)

/-- The DSCP of a traffic class (Table 9-5). -/
def dscpOf (tc : Nat) : Nat := match tc with | 0 => 48 | 1 => 46 | 2 => 26 | 3 => 18 | _ => 10

/-- A packet of this device (Table 9-3), the last of its message: LAST is set but on packets that carry no message, ACK, NAK and LINK
(DEDUCED, log 128). PSN, LSEQ, LACK and SENT are filled in as it is sent. -/
def Work.mkPkt (w : Work) (type dst job crew wq flags : Nat) (payload : List Byte) : Packet :=
  { ver := 1, type := type, flags := putBits flags 4 1 (if [2, 3, 8].contains type then 0 else 1), job := job, gen := w.jobGen job, tc := tcOf type, src := w.node, dst := dst,
    wq := wq, psn := 0, crew := crew, len := payload.length, lseq := 0, lack := 0, xmax := 0, nakCode := 0, sent := 0,
    rsvd := 0, payload := payload }

/-! ### Ports -/

/-- The west port of a ring pair, or the port itself. -/
def westOf (k : Nat) : Nat := if k = 33 then 32 else if k = 35 then 34 else k

/-- The port carries frames: up and not training (R335), with its key where it uses MACsec (R518). -/
def Work.portUp (w : Work) (k : Nat) : Bool :=
  w.flag (LINK_STATUS k) 0 && !w.flag (LINK_STATUS k) 9 && (!w.flag (LINK_CFG k) 12 || (Sp.find w.sec.caks k).isSome)

/-- The 32-byte header of a packet, in network order (Table 9-3). -/
def headerBytes (p : Packet) : List Byte :=
  toBE 1 (16 * p.ver + p.type) ++ toBE 1 p.flags ++ toBE 2 p.job ++ toBE 1 p.gen ++ toBE 1 p.tc ++ toBE 2 p.src ++ toBE 2 p.dst ++
    toBE 2 p.wq ++ toBE 4 p.psn ++ toBE 2 p.crew ++ toBE 2 p.len ++ toBE 2 p.lseq ++ toBE 2 p.lack ++ toBE 1 p.xmax ++
    toBE 1 p.nakCode ++ toBE 2 p.sent ++ toBE 4 p.rsvd

/-- The encapsulation of a packet on a port (R336): ENCAP 3 is taken as 0. -/
def Work.encapOf (w : Work) (k : Nat) (p : Packet) : Encap :=
  let ip := fun (ver : Nat) => some { ver := ver, dscp := dscpOf p.tc, ecn := 2, df := ver == 4, ttl := 64,
                                      srcPort := 0xC000 + (p.job ^^^ p.wq) % 0x4000, dstPort := w.fld ROSDER_CFG 0 16 }
  let e := w.fld (LINK_CFG k) 10 2
  { etherType := match e with | 1 => 0x0800 | 2 => 0x86DD | _ => 0x88B5,
    vlan := if w.flag (LINK_CFG k) 15 then some (pcpOf p.tc, w.fld (LINK_CFG k) 16 12) else none,
    ip := match e with | 1 => ip 4 | 2 => ip 6 | _ => none,
    pn := if w.flag (LINK_CFG k) 12 then some (w.link k).pn else none,
    header := headerBytes p }

/-- The packet number after one (R355): without XPN a new association starts before 2³¹. -/
def nextPn (xpn : Bool) (n : Nat) : Nat := if !xpn && 2 ^ 31 ≤ n + 1 then 1 else n + 1

/-- The port serves traffic: ring ports only once their bypass is OPEN, or with RING_EN clear (R399). -/
def Work.portServes (w : Work) (k : Nat) : Bool :=
  w.portUp k && (k < 32 || 36 ≤ k || !w.flag (LINK_CFG (westOf k)) 14 || w.fld (LINK_STATUS (westOf k)) 10 2 == 3)

/-- The partner is a Lakoide (R330). -/
def Work.direct (w : Work) (k : Nat) : Bool := w.flag (LINK_STATUS k) 5

/-- The port takes frames in: on a DIRECT port none while a discarded frame is awaited (R332). -/
def Work.hears (w : Work) (k : Nat) : Bool := w.portUp k && !(w.direct k && (w.link k).lost.isSome)

/-- Bytes of a frame that carries a packet: Ethernet header and FCS, the encapsulation of R336, tag and MACsec (R329). -/
def Work.frameBytes (w : Work) (k : Nat) (p : Packet) : Nat :=
  18 + 32 + p.payload.length + (match w.fld (LINK_CFG k) 10 2 with | 1 => 28 | 2 => 48 | _ => 0)
    + (if w.flag (LINK_CFG k) 15 then 4 else 0) + (if w.flag (LINK_CFG k) 12 then 32 else 0)

/-- The replay buffer of 512 KiB has room for a packet (R331). -/
def Work.replayRoom (w : Work) (k : Nat) (p : Packet) : Bool :=
  ((w.link k).replay.map (fun r => w.frameBytes k r.2)).sum + w.frameBytes k p ≤ 524288

/-- The priority of a packet is paused now; LINK frames are in no class (R340). -/
def Work.pausedFor (w : Work) (k : Nat) (p : Packet) : Bool :=
  p.type != 8 && (match Sp.find (w.link k).paused (pcpOf p.tc) with | some t => w.now < t | none => false)

/-- The port can send the packet now. -/
def Work.sendable (w : Work) (k : Nat) (p : Packet) : Bool :=
  w.portUp k && !w.pausedFor k p && (!w.direct k || w.replayRoom k p)

/-- SENT and NOBEAT as a transmission leaves its sender (Table 9-3). -/
def Work.stamp (w : Work) (p : Packet) : Packet :=
  { p with sent := if w.locked then w.beatCnt % 65536 else 0, flags := putBits p.flags 3 1 (if w.locked then 0 else 1) }

/-- A transmission: stamped, in its encapsulation, and under MACsec with a packet number of its own (R332, R336, R345). -/
def Work.putFrame (w : Work) (k : Nat) (p : Packet) : Work :=
  let p := w.stamp p
  let l := w.link k
  let e := w.encapOf k p
  ((w.setLink k { l with lastTx := w.now, pn := if e.pn.isSome then nextPn (w.flag (LINK_CFG k) 13) l.pn else l.pn }).inc
    (TX_FRAME_CNT k)).emit (.packet k p e)

/-- Frames kept for replay are sent again, with the LACK of now (R331, R332). -/
def Work.sendKept (w : Work) (k : Nat) (rs : List (Nat × Packet)) : Work :=
  rs.foldl (fun (v : Work) r => v.putFrame k { r.2 with lack := (v.link k).rxSeq }) w

/-- A frame leaves the port: on a DIRECT port with its link sequence, kept for replay (R331). -/
def Work.sendNow (w : Work) (k : Nat) (p : Packet) : Work :=
  let l := w.link k
  let p := if w.direct k then { p with lseq := l.txSeq, lack := l.rxSeq } else { p with lseq := 0, lack := 0 }
  let l := if w.direct k then { l with txSeq := (l.txSeq + 1) % 65536, replay := l.replay ++ [(l.txSeq, p)] } else l
  ((w.setLink k l).putFrame k p).progress (1040 + k)

/-- The class whose turn it is among classes 2, 3 and 4 in the ratio 4 : 2 : 1 (R340). -/
def turnClass (t : Nat) : Nat := if t % 7 < 4 then 2 else if t % 7 < 6 then 3 else 4

/-- The first waiting packet of a class that can be sent; LINK frames are class 8 here. -/
def Work.firstOf (w : Work) (k cls : Nat) : Option Packet :=
  match (w.link k).queue.find? (fun p => if cls = 8 then p.type == 8 else p.type != 8 && p.tc == cls) with
  | some p => if w.sendable k p then some p else none
  | none => none

/-- The waiting packet that goes next: LINK frames, classes 0 and 1, then the class whose turn it is (R340). -/
def Work.nextOut (w : Work) (k : Nat) : Option Packet :=
  [8, 0, 1, turnClass (w.link k).turn, 2, 3, 4].findSome? (fun c => w.firstOf k c)

/-- Sends what waits at a port and can go; at most `n` packets. -/
def pumpN : Nat → Nat → Work → Work
  | 0, _, w => w
  | n + 1, k, w =>
    match w.nextOut k with
    | none => w
    | some p =>
      let l := w.link k
      let turn := if p.type != 8 && 2 ≤ p.tc then l.turn + 1 else l.turn
      pumpN n k ((w.setLink k { l with queue := l.queue.erase p, turn := turn }).sendNow k p)

/-- RoCEv2 answers that wait at a host port go, in order, while traffic class 4 is not paused (R340). -/
def Work.pumpHost (w : Work) (k : Nat) : Work :=
  let l := w.link k
  let held := match Sp.find l.paused (pcpOf 4) with | some t => decide (w.now < t) | none => false
  if !w.portUp k || held then w
  else l.answers.foldl (fun (v : Work) a => (v.incBy (TX_FRAME_CNT k) a.2).emit a.1) (w.setLink k { l with answers := [] })

/-- A RoCEv2 answer of some frames takes its turn at a host port. -/
def Work.answerHost (w : Work) (host : Nat) (o : Out) (frames : Nat) : Work :=
  let k := 36 + host
  (w.setLink k { w.link k with answers := (w.link k).answers ++ [(o, frames)] }).pumpHost k

/-- Sends what waits at a port and can go. -/
def Work.pump (w : Work) (k : Nat) : Work := (pumpN (w.link k).queue.length k w).pumpHost k

/-- A packet is given to a port: it goes by its class, or waits (R331, R335, R340). -/
def Work.xmit (w : Work) (k : Nat) (p : Packet) : Work :=
  let wait := w.portUp k && w.direct k && !w.replayRoom k p
  let w := w.when wait (·.inc (REPLAY_WAIT_CNT k))
  let l := w.link k
  let w := w.when l.queue.isEmpty (·.progress (1040 + k))
  (w.setLink k { l with queue := l.queue ++ [p] }).pump k

/-- A LINK frame of a subtype with the rest of its payload (R330); it names the partner, any node. -/
def Work.sendLink (w : Work) (k subtype : Nat) (rest : List Byte) : Work :=
  w.xmit k (w.mkPkt 8 0xFFFF 0 0 0 0 (BitVec.ofNat 8 subtype :: 0 :: rest))

/-! ### Routes (R399) -/

/-- The fabric ports of a mask, in rising order. -/
def portsOf (mask : Nat) : List Nat := (List.range 36).filter (fun k => mask.testBit k)

/-- MARKER_PORT stands at the factory default: a value of 36 to 63, or the defaults of an image refused (R16, Table 14-8). -/
def Work.portDefault (w : Work) : Bool := 36 ≤ w.fld BEAT_CTL 8 6 || w.flag CFG_STATUS 1

/-- The port that carries markers: MARKER_PORT, or the default of R16: L0 for a manager, for a worker the first port on which a
marker arrived (L0 before any has). -/
def Work.markerPort (w : Work) : Nat :=
  if !w.portDefault then w.fld BEAT_CTL 8 6 else if w.fld MGR_STATUS 0 2 = 2 then 0 else w.beat.port.getD 0

/-- A crew entry of the table in HBM with its member list (Tables 11-2 and 11-3); none where it is not VALID. -/
def Work.readCrew (w : Work) (n : Nat) : Option Crew :=
  let e := w.base CREW_BASE_LO CREW_BASE_HI + 32 * n
  let f := w.num e 1
  if !f.testBit 0 then none
  else
    let at_ := w.num (e + 16) 8
    some { num := n, stroke := f.testBit 1, pos := w.num (e + 4) 2, job := w.num (e + 6) 2, wqBase := w.num (e + 8) 2,
           keeper := w.num (e + 10) 2, keepAddr := w.num (e + 24) 8,
           members := (List.range (min 4096 (w.num (e + 2) 2))).map (fun i =>
             { node := w.num (at_ + 16 * i) 2, logical := w.num (at_ + 16 * i + 2) 2, ports := w.num (at_ + 16 * i + 8) 8 }) }

/-- The crew table in HBM (R398). -/
def Work.readCrews (w : Work) : List Crew := (List.range (min 1024 (w.fld CREW_COUNT 0 11))).filterMap w.readCrew

/-- Nodes of a crew replaced by their substitutes (R413, R422). -/
def Crew.substitute (subs : List (Nat × Nat)) (c : Crew) : Crew :=
  { c with members := c.members.map (fun m =>
      match subs.find? (fun s => s.1 == m.node) with | some s => { m with node := s.2 } | none => m) }

/-- The crews that the device goes by: its copy (R400); an acting manager or deputy, which takes none at a catch, goes by its
table with the substitutions in force (DESIGN CHOICE, log 34). -/
def Work.crewTab (w : Work) : List Crew :=
  if w.crews.isEmpty && [1, 2].contains (w.fld MGR_STATUS 0 2) then w.readCrews.map (Crew.substitute w.mgr.subs) else w.crews

/-- The member entry for a node: in the named crew, else in any crew of the copy. -/
def Work.memberFor (w : Work) (crew dst : Nat) : Option Member :=
  let cs := w.crewTab
  match (cs.find? (fun c => c.num == crew)).bind (fun c => c.members.find? (fun m => m.node == dst)) with
  | some m => some m
  | none => cs.findSome? (fun c => c.members.find? (fun m => m.node == dst))

/-- The port on which a packet to a node leaves; none where no port that leads there is up. A node that no crew lists is
reached through the marker port (DESIGN CHOICE, log 15). -/
def Work.route (w : Work) (p : Packet) : Option Nat :=
  match w.memberFor p.crew p.dst with
  | some m =>
    let up := (portsOf m.ports).filter w.portServes
    if up.isEmpty then none else up[(p.job ^^^ p.wq) % up.length]?
  | none => if w.portServes w.markerPort then some w.markerPort else none

/-- A packet leaves by its route, or finds no port up. -/
def Work.sendRouted (w : Work) (p : Packet) : Work :=
  match w.route p with
  | some k => w.xmit k p
  | none => w.emit (.stuck p)

/-! ### Reliable flows (R342, R343, R563) -/

/-- The key of a flow: node and queue. -/
def flowKey (node queue : Nat) : Nat := 65536 * node + queue

/-- Packets outside flow tracking: job-0 CONTROL to or from an unassigned, diagnosable or every node (R563). -/
def untracked (p : Packet) : Bool :=
  p.type == 6 && p.job == 0 && (p.dst == 0xFFFF || [0xFFFD, 0xFFFE].contains p.dst || [0xFFFD, 0xFFFE].contains p.src)

/-- The first transmission of a packet in its flow: it takes the flow's PSN and is kept until acknowledged. -/
def Work.first (w : Work) (key : Nat) (f : TxFlow) (p : Packet) : Work :=
  let p := { p with psn := f.next }
  let f := { f with next := (f.next + 1) % 2 ^ 32, unacked := f.unacked ++ [(w.beatFull, p)],
                    since := if f.unacked.isEmpty then w.now else f.since }
  ({ w with txFlows := Sp.put w.txFlows key f }).sendRouted p

/-- A packet given to its flow: sent within the window of 256, else it waits; an abandoned flow sends nothing. -/
def Work.sendFlow (w : Work) (p : Packet) : Work :=
  let key := flowKey p.dst p.wq
  let f := Sp.get w.txFlows { job := p.job, gen := p.gen } key
  if f.abandoned then w
  else if f.unacked.length < 256 && f.waiting.isEmpty then w.first key f p
  else { w with txFlows := Sp.put w.txFlows key { f with waiting := f.waiting ++ [p] } }

/-- A packet sent: reliable ones in their flow, others as they are. -/
def Work.send (w : Work) (p : Packet) : Work :=
  if reliableType p.type && !untracked p then w.sendFlow p else w.sendRouted p

/-- Sends the waiting packets of a flow that fit its window; at most `n`. -/
def drainFlow : Nat → Nat → Work → Work
  | 0, _, w => w
  | n + 1, key, w =>
    match Sp.find w.txFlows key with
    | none => w
    | some f =>
      match f.waiting with
      | [] => w
      | p :: ps =>
        if f.unacked.length < 256 && !f.abandoned then drainFlow n key (w.first key { f with waiting := ps } p) else w

/-! ### CONTROL and READY messages (R401, R402) -/

/-- The header and body of a CONTROL packet (Table 11-4), one part. -/
def ctrlPayload (op crew msgId : Nat) (body : List Byte) : List Byte :=
  toBE 2 op ++ toBE 2 crew ++ toBE 4 msgId ++ toBE 2 body.length ++ [0, 1] ++ zeros 4 ++ body

/-- A CONTROL message to a node, on queue 1 under job 0; none to this device itself. -/
def Work.control (w : Work) (dst op crew : Nat) (body : List Byte) : Work :=
  if dst = w.node then w
  else
    let p := w.mkPkt 6 dst 0 crew (if dst = 0xFFFF ∨ dst = 0xFFFD ∨ dst = 0xFFFE then 0 else 1) 0 (ctrlPayload op crew w.mgr.msgId body)
    ({ w with mgr := { w.mgr with msgId := (w.mgr.msgId + 1) % 2 ^ 32 } }).send
      { p with wq := if untracked p then 0 else 1 }

/-- A CONTROL message to each of several nodes. -/
def Work.controlAll (w : Work) (dsts : List Nat) (op crew : Nat) (body : List Byte) : Work :=
  dsts.foldl (fun v d => v.control d op crew body) w

/-- The nodes that messages to the manager go to: the acting manager and the deputy of the last CLAIM (R401). -/
def Work.mgrNodes (w : Work) : List Nat :=
  (w.mgr.mgrNode.toList ++ w.mgr.depNode.toList).filter (fun n => n != 0 && n != 0xFFFF)

/-- A CONTROL message to the manager, with its copy to the deputy. -/
def Work.toManager (w : Work) (op crew : Nat) (body : List Byte) : Work := w.controlAll w.mgrNodes.dedup op crew body

/-- A parsed CONTROL packet. -/
structure Ctrl where
  op : Nat
  crew : Nat
  msgId : Nat
  part : Nat
  parts : Nat
  body : List Byte
  deriving DecidableEq, Repr

/-- The CONTROL message of a packet, if its header is as Table 11-4 lays down. -/
def ctrlOf (p : Packet) : Option Ctrl :=
  let l := p.payload
  if p.type = 6 ∧ p.job = 0 ∧ 16 ≤ l.length ∧ beAt l 2 2 < 1024 ∧ beAt l 8 2 + 16 = l.length ∧ beAt l 12 4 = 0 ∧ beAt l 11 1 ≠ 0 then
    some { op := beAt l 0 2, crew := beAt l 2 2, msgId := beAt l 4 4, part := beAt l 10 1, parts := beAt l 11 1,
           body := l.drop 16 }
  else none

/-! ### What a receiver checks -/

/-- The header is one the receiver keeps (R339). -/
def Work.headerOk (w : Work) (p : Packet) : Bool :=
  p.ver == 1 && p.type < 12 && p.flags < 32 && p.tc < 8 && p.crew < 1024 && p.rsvd == 0 && p.len == p.payload.length
    && (p.dst == w.node || p.dst == 0xFFFF)
    && (!p.flags.testBit 3 || p.type == 8 || (p.type == 6 && p.job == 0))

/-- The packet is too old (R345); a receiver without beat lock has no beat to age it by (DEDUCED, log 31). -/
def Work.stale (w : Work) (p : Packet) : Bool :=
  w.locked && !p.flags.testBit 3 && w.msgLife < (w.beatCnt % 65536 + 65536 - p.sent % 65536) % 65536

/-- This device acts as manager (Table 11-12). -/
def Work.acting (w : Work) : Bool := w.fld MGR_STATUS 0 2 == 2

/-- The job entry admits the packet (R350). LINK frames belong to no job; an acting manager hears a CLAIM or DEPOSED of
any generation, as R425 needs (DEDUCED, log 16). -/
def Work.jobOk (w : Work) (p : Packet) : Bool :=
  let e := w.jobEnt p.job
  p.type == 8 || (e.state == 1 && (e.anyGen || e.gen == p.gen)) ||
    (w.acting && match ctrlOf p with | some c => c.op == 1 || c.op == 22 | none => false)

/-- HOST_BASE (Table 9-18). -/
def Work.hostBase (w : Work) : Nat := max 2 (w.fld WQ_CFG 0 17)

/-- The crew and member that a work queue is bound to (R341, R400). -/
def Work.binding (w : Work) (q : Nat) : Option (Crew × Member) :=
  (w.crewTab.find? (fun c => c.wqBase ≤ q && q < c.wqBase + c.members.length && !w.released.contains c.job)).bind
    (fun c => (c.members[q - c.wqBase]?).map (fun m => (c, m)))

/-- The queue takes the packet (R341, R566). -/
def Work.queueOk (w : Work) (p : Packet) : Bool :=
  if [2, 3, 8].contains p.type || untracked p then true
  else if reliableType p.type then
    if p.job = 0 then p.wq == 1
    else 2 ≤ p.wq && p.wq < w.hostBase &&
      (match w.binding p.wq with | some (c, m) => m.node == p.src && c.job == p.job | none => false)
  else p.wq == 0

/-- A packet that the receiver keeps. -/
def Work.accepts (w : Work) (p : Packet) : Bool := w.headerOk p && !w.stale p && w.jobOk p && w.queueOk p

/-- An ACK or NAK of a packet's flow (Table 9-3). -/
def Work.answer (w : Work) (p : Packet) (type psn code : Nat) : Work :=
  w.sendRouted { w.mkPkt type p.src p.job p.crew p.wq 0 [] with psn := psn, nakCode := code }

/-- The state of a flow at its receiver. -/
def Work.rxFlow (w : Work) (p : Packet) : RxFlow := Sp.get w.rxFlows { job := p.job } (flowKey p.src p.wq)

/-- A flow at its receiver bound anew. -/
def Work.setRx (w : Work) (p : Packet) (f : RxFlow) : Work := { w with rxFlows := Sp.put w.rxFlows (flowKey p.src p.wq) f }

/-- One more packet to acknowledge: an ACK goes after 16 packets or at once on ACK_REQ (R342). -/
def Work.ackDue (w : Work) (p : Packet) : Work :=
  let f := w.rxFlow p
  let n := f.unacked + 1
  if 16 ≤ n || p.flags.testBit 0 then
    (w.setRx p { f with unacked := 0 }).answer p 2 ((f.next + 2 ^ 32 - 1) % 2 ^ 32) 0
  else w.setRx p { f with unacked := n, since := if f.unacked = 0 then w.now else f.since }

/-- A packet that its receiver keeps is taken in PSN order in its flow (R342). The effect answers a NAK code where the packet is not
taken; INVALID counts as delivered. A packet that came before is discarded and acknowledged again (DEDUCED, log 17). -/
def Work.inOrder (w : Work) (p : Packet) (f : Work → Work × Nat) : Work :=
  if untracked p || !reliableType p.type then (f w).1
  else
    let r := w.rxFlow p
    if p.psn = r.next then
      let (v, code) := f w
      if code = 0 then
        (v.setRx p { v.rxFlow p with next := (r.next + 1) % 2 ^ 32, gap := false, retry := false, rematch := false }).ackDue p
      else if code = 4 then
        (v.setRx p { v.rxFlow p with next := (r.next + 1) % 2 ^ 32, gap := false, retry := false, rematch := false }).answer p 3 p.psn 4
      else v.answer p 3 p.psn code
    else if (p.psn + 2 ^ 32 - r.next) % 2 ^ 32 < 2 ^ 31 then
      if r.gap then w else (w.setRx p { r with gap := true }).answer p 3 r.next 1
    else w.ackDue p

/-- A packet reaches its receiver: kept under R339 to R350, then taken in order. -/
def Work.receive (w : Work) (p : Packet) (f : Work → Work × Nat) : Work := if w.accepts p then w.inOrder p f else w

/-- A CONTROL message of one operation reaches its receiver. -/
def Work.onCtrl (w : Work) (p : Packet) (op : Nat) (f : Work → Ctrl → Work) : Work :=
  match ctrlOf p with
  | some c => if c.op = op then w.receive p (fun v => (f v c, 0)) else w
  | none => w

/-- The message comes from the acting manager (R395). -/
def Work.fromManager (w : Work) (p : Packet) : Bool := w.mgr.mgrNode == some p.src

/-! ### Jobs (R347 to R349) -/

/-- A job entry bound anew. -/
def Work.setJob (w : Work) (j : Nat) (e : JobEnt) : Work := { w with jobs := Sp.put w.jobs j e }

/-- A packet, context or tracker of the job is left on the device (R348). -/
def Work.jobBusy (w : Work) (j : Nat) : Bool :=
  w.txFlows.any (fun f => f.2.job == j && (!f.2.unacked.isEmpty || !f.2.waiting.isEmpty)) ||
  w.links.any (fun l => l.2.queue.any (·.job == j) || l.2.held.any (·.job == j) ||
    l.2.ctxs.any (fun c => match Sp.find w.red.buckets c.1 with | some b => b.job == j | none => false)) ||
  w.memcs.any (fun m => m.2.trackers.any (·.job == j) || m.2.held.any (·.job == j))

/-- Every flow of the flows that a test picks starts again at PSN 0 (R565). -/
def Work.restartFlows (w : Work) (tx : Nat × TxFlow → Bool) (rx : Nat × RxFlow → Bool) : Work :=
  { w with txFlows := w.txFlows.filter (fun f => !tx f), rxFlows := w.rxFlows.filter (fun f => !rx f) }

/-- A job opens at a generation (R348): refused in its wrong state or generation, full at 256 active jobs. -/
def Work.openJob (w : Work) (j gen : Nat) : Work :=
  let e := w.jobEnt j
  if j = 0 then w.setBit TRANSPORT_ERR 0
  else if !((e.state == 0 || (e.state == 2 && !w.jobBusy j)) && (e.anyGen || gen == (e.gen + 1) % 256)) then
    w.setBit TRANSPORT_ERR 0
  else if 256 ≤ w.fld ACTIVE_JOBS 0 9 then w.setBit TRANSPORT_ERR 1
  else
    ((w.setJob j { gen := gen, state := 1, anyGen := false }).setFld ACTIVE_JOBS 0 9 (w.fld ACTIVE_JOBS 0 9 + 1)).restartFlows
      (fun f => f.2.job == j) (fun f => f.2.job == j)

/-- A job is freed: its packets are discarded, its queues released, its entry quarantined (R349). -/
def Work.freeJob (w : Work) (j : Nat) : Work :=
  if j = 0 then w.setBit TRANSPORT_ERR 0
  else if (w.jobEnt j).state ≠ 1 then w
  else
    let w := w.restartFlows (fun f => f.2.job == j) (fun f => f.2.job == j)
    let w := { w with
      links := w.links.map (fun (l : Nat × Link) => (l.1, { l.2 with queue := l.2.queue.filter (·.job != j), held := l.2.held.filter (·.job != j) }))
      released := if w.released.contains j then w.released else j :: w.released }
    (w.setJob j { w.jobEnt j with state := 2, anyGen := false, until_ := some (beatAdd w.beatFull (2 * w.msgLife)), freeAt := none }).setFld
      ACTIVE_JOBS 0 9 (w.fld ACTIVE_JOBS 0 9 - 1)

end Sys2Proof.Machine
end

