-- ==== Sys2Proof/Machine/Fault.lean ====
section
/-! DEFINITION. Machine/Fault.lean: the fault log, reports, abort beacons, generations and replacement causes as every other
part uses them (R427 to R432, R454, R455, R460 to R463). -/

namespace Sys2Proof.Machine

/-- A record's bytes by a byte order (Table 12-2). -/
def FaultRec.bytes (r : FaultRec) (enc : Nat → Nat → List Byte) : List Byte :=
  enc 8 r.beat ++ enc 1 r.cls ++ enc 1 r.level ++ enc 2 r.unit ++ enc 2 r.code ++ enc 2 r.job ++ enc 1 r.gen ++
    enc 1 r.flags ++ enc 2 r.crew ++ enc 4 r.detail ++ enc 8 r.addr

/-- A retry succeeded: the operation's counter and TRANSIENT_CNT advance (R427). -/
def Work.transient (w : Work) (counter : Nat) : Work := (w.inc counter).inc TRANSIENT_CNT

/-- The REPORT kind of a class (R431); none for classes that are not reported. -/
def reportKind (cls : Nat) : Option Nat :=
  if [1, 2, 3, 4, 5, 6, 8].contains cls then some 6 else if cls = 9 then some 5 else if cls = 10 then some 4 else none

/-- A REPORT to the manager (R562). -/
def Work.report (w : Work) (kind crew : Nat) (body : List Byte) : Work :=
  w.toManager 13 crew ([BitVec.ofNat 8 kind, 0, 0, 0] ++ body)

/-- A record's REPORT, kept until the device has a node (R431). -/
def Work.reportRec (w : Work) (r : FaultRec) : Work :=
  match reportKind r.cls with
  | none => w
  | some k =>
    if w.node = 0xFFFE then { w with fault := { w.fault with unsent := w.fault.unsent ++ [r] } }
    else w.report k r.crew (r.bytes toBE)

/-- A record enters the fault log (R429): the newest first, the oldest of 256 overwritten; LOG_NEW is set. -/
def Work.logOnly (w : Work) (r : FaultRec) : Work :=
  let full := 256 ≤ w.fault.log.length
  let unread := full && (match w.fault.log.getLast? with | some o => !o.seen | none => false)
  let w := { w with fault := { w.fault with log := (r :: w.fault.log).take 256 } }
  ((w.setBit FAULT_STATUS 0).when full (·.setBit FAULT_STATUS 1)).when unread (·.inc FLOG_OVF_CNT)

/-- A record dated now, logged and reported (R429, R431). -/
def Work.logRec (w : Work) (r : FaultRec) : Work :=
  let r := { r with beat := w.beatFull }
  (w.logOnly r).reportRec r

/-! ### Crews concerned -/

/-- The stroke crews whose program runs: the crew of every cox that is not IDLE (R432). -/
def Work.runningCrews (w : Work) : List Nat :=
  (w.coxes.filterMap (fun p => if w.coxState p.1 = 0 then none else p.2.prog.map (·.crew))).dedup

/-- The crew of the program a core runs. -/
def Work.coreCrew (w : Work) (c : Nat) : Option Nat :=
  if w.coxState c = 0 then none else ((w.cox c).prog).map (·.crew)

/-- The crews whose entries name a job. -/
def Work.jobCrews (w : Work) (j : Nat) : List Nat := (w.crewTab.filter (fun c => c.job == j)).map (·.num)

/-- The crews that a fault's beacon goes for (R432): those that name its job with the stroke crew concerned; every running
stroke crew where it names no job, or one that no crew names. -/
def Work.crewsFor (w : Work) (job : Nat) (stroke : Option Nat) : List Nat :=
  if job = 0 || (w.jobCrews job).isEmpty then w.runningCrews else (w.jobCrews job ++ stroke.toList).dedup

/-- The crew with a number. -/
def Work.crew? (w : Work) (n : Nat) : Option Crew := w.crewTab.find? (fun c => c.num == n)

/-! ### Abort beacons (R454 to R455) -/

/-- The ABORT payload of a beacon (Table 12-11). -/
def Beacon.payload (b : Beacon) : List Byte :=
  toBE 2 b.crew ++ toBE 1 b.cause ++ [if b.relay then 1 else 0] ++ toBE 2 b.origin ++ toBE 2 b.job ++ toBE 1 b.gen ++ zeros 7 ++
    toBE 8 b.abort ++ zeros 8

/-- The nodes a beacon goes to: the crew's members, the acting manager and the deputy; a relay goes to the members. -/
def Work.beaconNodes (w : Work) (b : Beacon) : List Nat :=
  let ms := match w.crew? b.crew with | some c => c.members.map (·.node) | none => []
  ((ms ++ if b.relay then [] else w.mgrNodes).dedup).filter (fun n => n != w.node && n != 0xFFFF)

/-- A beacon sent once to each of its nodes. -/
def Work.sendBeacon (w : Work) (b : Beacon) : Work :=
  (w.beaconNodes b).foldl (fun v n => v.sendRouted (v.mkPkt 7 n 0 b.crew 0 0 b.payload)) w

/-- ABORT_LEAD (Table 12-15). -/
def Work.abortLead (w : Work) : Nat := max 2 (w.fld FAULT_CTL 8 6)

/-- The earliest abort beat of a crew with one more (R457). -/
def Work.noteAbort (w : Work) (crew a : Nat) : Work :=
  let old := Sp.find w.fault.aborts crew
  let a := match old with | some b => if beatBefore b a then b else a | none => a
  { w with fault := { w.fault with aborts := Sp.put w.fault.aborts crew a } }

/-- This device decides a crew's abort: A is its beat plus ABORT_LEAD; the beacons begin (R455, R458). A device without beat
lock originates none. -/
def Work.decideAbort (w : Work) (crew cause : Nat) : Work :=
  if !w.locked || w.fault.beacons.any (fun b => b.crew == crew && !b.relay) then w
  else
    let a := beatAdd w.beatFull w.abortLead
    let job := match w.crew? crew with | some c => c.job | none => 0
    let b : Beacon := { crew := crew, cause := cause, relay := false, origin := w.node, job := job, gen := w.jobGen job, abort := a }
    let w := { w with fault := { w.fault with
      beacons := w.fault.beacons ++ [b], decided := (crew :: w.fault.decided).dedup,
      causes := if (Sp.find w.fault.causes crew).isSome then w.fault.causes else Sp.put w.fault.causes crew cause } }
    ((w.noteAbort crew a).inc ABORT_TX_CNT).sendBeacon b

/-- A lasting fault: its beacons go for the crews, and its record is logged and reported (R429, R432). -/
def Work.lasting (w : Work) (r : FaultRec) (cause : Option Nat) (crews : List Nat) : Work :=
  let sent := cause.isSome && !crews.isEmpty && w.locked
  let w' := match cause with | some c => crews.foldl (fun (v : Work) n => v.decideAbort n c) w | none => w
  let r := { r with flags := if sent then putBits r.flags 1 1 1 else r.flags,
                    crew := if r.crew ≠ 0 then r.crew else crews.headD 0, gen := w.jobGen r.job }
  (w'.inc LASTING_CNT).logRec r

/-- A program fault (class PROGRAM of Table 12-4): core and slot concerned, with the failed check as its code. -/
def Work.programFault (w : Work) (core code slot : Nat) : Work :=
  w.lasting { cls := 1, unit := core, code := code, detail := slot } (some 5) (w.crewsFor 0 (w.coreCrew core))

/-- A lasting path fault (class PATH): the job and the memory address concerned. -/
def Work.pathFault (w : Work) (unit job addr : Nat) : Work :=
  w.lasting { cls := 5, unit := unit, job := job, addr := addr } (some 10) (w.crewsFor job none)

/-- An abort that only a manager can see, or that a message calls for: beacon and record, which no class of Table 12-3 names
(DESIGN CHOICE, log 18: CLASS 0 with the cause as CODE). -/
def Work.orderAbort (w : Work) (crew cause : Nat) : Work :=
  if !w.locked || w.fault.beacons.any (fun b => b.crew == crew && !b.relay) then w
  else (w.decideAbort crew cause).logRec { code := cause, crew := crew, flags := 2, unit := 1220 }

/-! ### Replacement causes (R462, R463) -/

/-- A replacement cause arises: set until reset, logged as class REPLACE and reported when it is new. -/
def Work.replace (w : Work) (n unit : Nat) : Work :=
  if w.flag REPL_STATUS n then w
  else
    let w := w.setBit REPL_STATUS n
    (w.inc LASTING_CNT).logRec { cls := 9, unit := unit, code := n, detail := w.rd REPL_STATUS }

/-! ### Reset-domain generations (R460) -/

/-- The domains that a reset domain contains, itself included (Table 12-6). -/
def domainsOf (unit : Nat) : List Nat :=
  if unit = 1220 then List.range 1092 ++ [1220]
  else if 1024 ≤ unit ∧ unit < 1040 then unit :: (List.range 64).map (fun i => 64 * (unit - 1024) + i)
  else [unit]

/-- A domain's generation and those it contains step by one. -/
def Work.stepGens (w : Work) (unit : Nat) : Work :=
  { w with fault := { w.fault with
      gens := (domainsOf unit).foldl (fun g u => Sp.put g u ((Sp.get g 0 u + 1) % 256)) w.fault.gens } }

end Sys2Proof.Machine
end

