-- ==== Sys2Proof/Machine/Stash.lean ====
section
/-! DEFINITION. Machine/Stash.lean: the stash: its entry table, the aperture, allocation and release (R272 to R277), and
memory as LOAD, STORE, ACC_OUT, NARROW and the kernels reach it. -/

namespace Sys2Proof.Machine

/-- LANE_CAP and LANES (Table 7-15). -/
def Work.laneCap (w : Work) : Nat := w.fld STEP_CFG 16 16 + 1
def Work.lanes (w : Work) : Nat := clampNat (w.fld STEP_CFG 0 5) 1 16

/-- Address of a lane's buffer (R263). -/
def Work.laneBuf (w : Work) (q : Nat) : Nat := w.base LANE_BUF_LO LANE_BUF_HI + q * (w.rd LANE_STRIDE / 4096 * 4096)

/-- Address of a stash entry (Table 7-9). -/
def Work.entryAt (w : Work) (i : Nat) : Nat := w.base ENTRY_BASE_LO ENTRY_BASE_HI + 32 * i
/-- ENTRY_COUNT. -/
def Work.entryCount (w : Work) : Nat := w.fld ENTRY_COUNT 0 17
/-- An entry's aperture address. -/
def Work.entryAperture (w : Work) (i : Nat) : Nat := w.num (w.entryAt i) 8
/-- An entry's bytes per token. -/
def Work.entryBpt (w : Work) (i : Nat) : Nat := w.num (w.entryAt i + 8) 4
/-- An entry's lane. -/
def Work.entryLane (w : Work) (i : Nat) : Nat := w.num (w.entryAt i + 12) 1
/-- An entry's position in its lane. -/
def Work.entryOrder (w : Work) (i : Nat) : Nat := w.num (w.entryAt i + 14) 2
/-- An entry's first page in the recompute area. -/
def Work.entryRcmp (w : Work) (i : Nat) : Nat := w.num (w.entryAt i + 16) 4
/-- An entry's state: 0 FREE, 1 STORED, 2 MISSING. -/
def Work.entryState (w : Work) (i : Nat) : Nat := w.num (w.entryAt i + 20) 1
/-- An entry's allocated pages. -/
def Work.entryPages (w : Work) (i : Nat) : Nat := w.num (w.entryAt i + 24) 4
/-- Pages of an entry's range. -/
def Work.entryMax (w : Work) (i : Nat) : Nat := ceilDiv (w.laneCap * w.entryBpt i) 65536

/-- The checks of the entry table (R277). -/
def Work.entriesOk (w : Work) : Bool :=
  let n := w.entryCount
  let is := List.range n
  n ≤ 65536 &&
  is.all (fun i =>
    apertureBase ≤ w.entryAperture i && w.entryAperture i + 65536 * w.entryMax i ≤ 2 ^ 40 &&
    w.entryRcmp i + w.entryMax i ≤ w.fld RCMP_PAGES 0 23 &&
    w.num (w.entryAt i + 13) 1 == 0 && allZero (w.bytes (w.entryAt i + 21) 3) && allZero (w.bytes (w.entryAt i + 28) 4)) &&
  is.all (fun i => (List.range i).all (fun j =>
    w.entryAperture i + 65536 * w.entryMax i ≤ w.entryAperture j || w.entryAperture j + 65536 * w.entryMax j ≤ w.entryAperture i))

/-- The check as it is made when the first cox arms and on a write to the table's registers (R277). -/
def Work.checkEntries (w : Work) : Work :=
  if w.entriesOk then { w with step := { w.step with entryBad := false } }
  else ({ w with step := { w.step with entryBad := true } }.setBit STEP_ERR 1).setFld STEP_ERR 4 4 8

/-- What an aperture address stands for (R274). -/
inductive Aper where
  | at_ (addr : Nat)
  | zeros
  | unmapped
  deriving DecidableEq, Repr

/-- The entry whose range holds an aperture address. -/
def Work.entryOf (w : Work) (a : Nat) : Option Nat :=
  (List.range w.entryCount).find? (fun i => w.entryAperture i ≤ a && a < w.entryAperture i + 65536 * w.entryMax i)

/-- The translation of an aperture address (R272, R274). -/
def Work.resolve (w : Work) (a : Nat) : Aper :=
  match w.entryOf a with
  | none => .unmapped
  | some i =>
    let page := (a - w.entryAperture i) / 65536
    let off := (a - w.entryAperture i) % 65536
    if w.entryState i = 1 then
      if page < w.entryPages i then
        match (Sp.get w.step.stash [] i)[page]? with
        | some pg => .at_ (w.base POOL_BASE_LO POOL_BASE_HI / 65536 * 65536 + 65536 * pg + off)
        | none => .zeros
      else .zeros
    else if w.entryState i = 2 then .at_ (w.base RCMP_BASE_LO RCMP_BASE_HI / 65536 * 65536 + 65536 * (w.entryRcmp i + page) + off)
    else .unmapped

/-- An unmapped aperture access is counted and flagged (R274). -/
def Work.unmapped (w : Work) : Work := (w.inc UNMAPPED_CNT).setBit STASH_STATUS 1

/-- The 256-byte lines that a range touches: first address and length of each part. -/
def linesOf (a n : Nat) : List (Nat × Nat) :=
  if n = 0 then [] else
    (List.range ((a + n - 1) / 256 - a / 256 + 1)).map (fun i =>
      let lo := max a ((a / 256 + i) * 256)
      let hi := min (a + n) ((a / 256 + i + 1) * 256)
      (lo, hi - lo))

/-- A read of rows whose fold is not complete waits for it, once for each core's rows (R140). -/
def Work.foldWait (w : Work) (a n : Nat) : Work :=
  let hit := fun (u : Nat × Nat × Nat) => decide (u.2.1 < a + n ∧ a < u.2.1 + u.2.2)
  let cs := ((w.unfolded.filter hit).map (·.1)).dedup
  cs.foldl (fun (v : Work) c => v.inc (FOLD_WAIT_CNT c)) w

/-- The controller serves accesses: no zeroisation runs (R326). -/
def Work.serves (w : Work) (m : Nat) : Bool := !w.flag (MC_STATUS m) 0

/-- Every controller that a range of HBM leads to serves it, through the aperture where the range lies there (R326). -/
def Work.rangeServes (w : Work) (a n : Nat) : Bool :=
  (List.range 12).all w.serves ||
    (if inStacks a n then
      (List.range (min 12 ((a + n + 4095) / 4096 - a / 4096))).all (fun i => w.serves ((a / 4096 + i) % 12))
    else (linesOf a n).all (fun p => match w.resolve p.1 with | .at_ b => w.serves (stackOf b).1 | _ => true))

/-- The stored-poisoned lines that a read of the stacks takes in are counted (R310). -/
def Work.poisonReads (w : Work) (a n : Nat) : Work :=
  (w.poison.filter (fun l => decide (n ≠ 0 ∧ 256 * l < a + n ∧ a < 256 * l + 256))).foldl
    (fun (v : Work) l => v.inc (POISON_RD_CNT (stackOf (256 * l)).1)) w

/-- A read of the stacks as their controllers see it: it waits for a fold, and poisoned lines are counted (R140, R310). -/
def Work.readsStack (w : Work) (a n : Nat) : Work := (w.foldWait a n).poisonReads a n

/-- Bytes of a range of HBM as a unit reads it, with their poison, through the aperture where it lies there. -/
def Work.hbmGet (w : Work) (a n : Nat) : List Byte × Bool × Work :=
  if inStacks a n then (w.bytes a n, w.poisoned a n, w.readsStack a n)
  else
    let r := (linesOf a n).foldl (fun (acc : List Byte × Bool × Bool × Work) p =>
      match acc.2.2.2.resolve p.1 with
      | .at_ b => (acc.1 ++ acc.2.2.2.bytes b p.2, acc.2.1 || acc.2.2.2.poisoned b p.2, acc.2.2.1, acc.2.2.2.readsStack b p.2)
      | .zeros => (acc.1 ++ zeros p.2, acc.2.1, acc.2.2.1, acc.2.2.2)
      | .unmapped => let d := acc.2.2.2.drawBytes p.2; (acc.1 ++ d.1, true, true, d.2)) ([], false, false, w)
    (r.1, r.2.1, r.2.2.2.when r.2.2.1 Work.unmapped)

/-- Bytes written to the stacks as their controllers take them (R310, R311): a part of a line is merged with the line read; a
merge with a poisoned line leaves it poisoned, and both are counted. -/
def Work.putStack (w : Work) (a : Nat) (bs : List Byte) (poison : Bool) : Work :=
  let parts := (linesOf a bs.length).filter (fun p => p.2 != 256 && w.poison.contains (p.1 / 256))
  (parts.foldl (fun (v : Work) p => (v.inc (POISON_RD_CNT (stackOf p.1).1)).inc (RMW_POISON_CNT (stackOf p.1).1)) w).put a bs poison

/-- A little-endian number that a unit of the device writes to the stacks. -/
def Work.putNum (w : Work) (a n v : Nat) : Work := w.putStack a (toLE n v) false

/-- Bytes stored to a range of HBM as a unit writes it, through the aperture where it lies there. -/
def Work.hbmPut (w : Work) (a : Nat) (bs : List Byte) (poison : Bool) : Work :=
  if inStacks a bs.length then w.putStack a bs poison
  else
    let r := (linesOf a bs.length).foldl (fun (acc : Bool × Work) p =>
      match acc.2.resolve p.1 with
      | .at_ b => (acc.1, acc.2.putStack b (sub bs (p.1 - a) p.2) poison)
      | .zeros => acc
      | .unmapped => (true, acc.2)) (false, w)
    r.2.when r.1 Work.unmapped

/-- An entry's STATE and PAGES written by the device. -/
def Work.setEntry (w : Work) (i state pages : Nat) : Work :=
  (w.putNum (w.entryAt i + 20) 1 state).putNum (w.entryAt i + 24) 4 pages

/-- An entry returns to FREE and gives its pages back (R276). -/
def Work.freeEntry (w : Work) (i : Nat) : Work :=
  let w := w.setFld POOL_FREE 0 23 (min (w.fld POOL_FREE 0 23 + w.entryPages i) (w.fld POOL_PAGES 0 23))
  { w.setEntry i 0 0 with step := { w.step with stash := Sp.erase w.step.stash i } }

/-- Every entry returns to FREE (R275). -/
def Work.resetStash (w : Work) : Work :=
  let w := (List.range w.entryCount).foldl (fun (v : Work) i => v.setEntry i 0 0) w
  ({ w with step := { w.step with stash := [] } }).setFld POOL_FREE 0 23 (w.fld POOL_PAGES 0 23)

/-- The lowest pool pages that are free. -/
def Work.freePages (w : Work) (n : Nat) : List Nat :=
  let used := w.step.stash.flatMap (·.2)
  ((List.range (used.length + n)).filter (fun p => !used.contains p)).take n

/-- The allocation of an ALLOCATE slot's entry (R273): whether the condition holds. -/
def Work.allocate (w : Work) (i : Nat) : Bool × Work :=
  if w.entryState i ≠ 0 then (false, w)
  else
    let tokens := w.num (w.laneBuf (w.entryLane i)) 4
    let p := ceilDiv (tokens * w.entryBpt i) 65536
    if p ≤ w.fld POOL_FREE 0 23 then
      let pages := w.freePages p
      let w := { w with step := { w.step with stash := Sp.put w.step.stash i pages } }
      (true, ((w.setEntry i 1 p).setFld POOL_FREE 0 23 (w.fld POOL_FREE 0 23 - p)).inc STASH_ALLOC_CNT)
    else
      let miss := (List.range w.entryCount).filter (fun j =>
        j == i || (w.entryState j == 0 && w.entryLane j == w.entryLane i && w.entryOrder i < w.entryOrder j))
      let w := miss.foldl (fun (v : Work) j => v.setEntry j 2 0) w
      (false, (w.incBy STASH_MISS_CNT miss.length).setBit STASH_STATUS 0)

end Sys2Proof.Machine
end

