-- ==== Sys2Proof/Machine/Operands.lean ====
section
/-! DEFINITION. Machine/Operands.lean: what a core reads from its memories: the stroke program with its condition table
(Tables 1-4, 1-5, 7-5) and its checks (Tables 1-7, 7-7), and local reads and writes of descriptors. -/

namespace Sys2Proof.Machine

/-- The device runs without a manager: no CLAIM accepted since reset, or test mode (R48). -/
def Work.noManager (w : Work) : Bool := !w.mgr.claimSeen || w.flag SEC_STATUS 15

/-- A program's stroke crew is the one of a number: without a manager the device is one crew, whatever a header names (R48). -/
def Work.crewIs (w : Work) (p : Prog) (crew : Nat) : Bool := w.noManager || p.crew == crew

/-- The beat of LOCAL_CATCH as a full beat time where it is ahead, compared modulo 2³² (R48). -/
def Work.localTarget (w : Work) : Option Nat :=
  let d := (w.rd LOCAL_CATCH + 2 ^ 32 - w.beatFull % 2 ^ 32) % 2 ^ 32
  if 0 < d && d < 2 ^ 31 then some (beatAdd w.beatFull d) else none

/-! ### Local addresses -/

/-- `n` bytes at a local address of a core; none outside scratchpad and Eight SRAM. -/
def Work.localGet (w : Work) (c a n : Nat) : Option (List Byte × Bool) :=
  if localOk a n then (localAddr c a).map (fun b => (w.bytes b n, w.poisoned b n)) else none

/-- Bytes stored at a local address of a core with or without a poison mark (R312). -/
def Work.localPut (w : Work) (c a : Nat) (bs : List Byte) (poison : Bool) : Work :=
  match localAddr c a with
  | some b => if localOk a bs.length then w.put b bs poison else w
  | none => w

/-- A descriptor of `n` bytes, aligned to `align`; none where it is misaligned or lies outside local memory. -/
def Work.descriptor (w : Work) (c a n align : Nat) : Option (List Byte) :=
  if a % align = 0 then (w.localGet c a n).map (·.1) else none

/-! ### The stroke program -/

/-- A slot entry's fields (Table 1-5). -/
def slotOf (b : List Byte) : Slot :=
  { offset := leAt b 0 2, len := leAt b 2 2, action := leAt b 4 1 % 16, dep := leAt b 6 2 % 4096, units := leAt b 8 2,
    desc := leAt b 12 4 }

/-- No reserved action code or non-zero reserved field of a slot entry (check 7). -/
def slotFieldsOk (b : List Byte) : Bool :=
  let a := leAt b 4 1
  let u := leAt b 8 2
  a < 8 && leAt b 5 1 == 0 && leAt b 6 2 < 4096 && leAt b 10 2 == 0 &&
    (if a = 1 then u < 256 else if a = 2 ∨ a = 5 then u == 0 else true)

/-- Whether an action runs only in the drive window, only in the recovery window, or anywhere (Table 1-6). -/
def driveOnly (action : Nat) : Bool := action == 0 || action == 7
def recoveryOnly (action : Nat) : Bool := action == 3 || action == 4 || action == 6

/-- A slot's place in the stroke (check 4): Y the ready offset. A slot of LEN 0, which Table 1-5 excludes and no check of Table 1-7
names, fails here: it occupies no beats (DESIGN CHOICE, log 107). -/
def Slot.placed (s : Slot) (driveEnd y : Nat) : Bool :=
  1 ≤ s.len && s.offset + s.len ≤ y &&
    (if driveOnly s.action then 1 ≤ s.offset && s.offset + s.len ≤ driveEnd + 1
     else if recoveryOnly s.action then driveEnd + 1 ≤ s.offset
     else 1 ≤ s.offset)

/-- Offsets do not decrease, and DEP names an earlier slot (check 5). -/
def slotsOrdered (ss : List Slot) : Bool :=
  (ss.zip (ss.drop 1)).all (fun p => p.1.offset ≤ p.2.offset) &&
    (ss.zipIdx).all (fun p => p.1.dep == 0xFFF || p.1.dep < p.2)

/-- The crew size that check 8 establishes: 1 without a manager; none where the crew entry does not serve. -/
def Work.crewSize (w : Work) (crew : Nat) : Option Nat :=
  if w.noManager then some 1
  else
    let e := w.base CREW_BASE_LO CREW_BASE_HI + 32 * crew
    if crew < w.fld CREW_COUNT 0 11 ∧ w.num e 1 % 4 = 3 then some (w.num (e + 2) 2) else none

/-- A condition entry's fields (Table 7-5). -/
def condOf (b : List Byte) : Cond :=
  { slot := leAt b 0 2 % 4096, cond := leAt b 2 1 % 16, release := (leAt b 2 1).testBit 4, copy := (leAt b 2 1).testBit 5,
    entry := leAt b 4 2 }

/-- The condition table of a core with the first check of Table 7-7 that fails. -/
def Work.condTable (w : Work) (c : Nat) (slots : List Slot) : Nat × List Cond :=
  let n := w.fld (COND_COUNT c) 0 13
  let a := w.rd (COND_BASE c)
  if 4096 < n || 2 ^ 21 < a + 8 * n then (5, [])
  else
    let raw := (List.range n).map (fun i => w.bytes (spadBase c + a + 8 * i) 8)
    let cs := raw.map condOf
    let bad1 := cs.any (fun e => slots.length ≤ e.slot) || (cs.zip (cs.drop 1)).any (fun p => p.2.slot < p.1.slot)
    let bad2 := raw.any (fun b => 7 < leAt b 2 1 % 16 || leAt b 0 2 ≥ 4096 || leAt b 2 1 ≥ 64 || leAt b 3 1 ≠ 0 || leAt b 6 2 ≠ 0)
    let bad3 := cs.any (fun e => (5 ≤ e.cond || e.release) && w.entryCount ≤ e.entry)
    let bad4 := cs.any (fun e =>
      (e.cond == 5 && (1 < (cs.filter (fun f => f.slot == e.slot && f.cond == 5)).length ||
        (match slots[e.slot]? with | some s => s.action != 1 | none => true))) || (e.copy && e.cond != 1))
    (if bad1 then 1 else if bad2 then 2 else if bad3 then 3 else if bad4 then 4 else 0, cs)

/-- What the check of a program answers: the program, the failed check of Table 1-7, or that of Table 7-7. -/
inductive Checked where
  | ok (p : Prog)
  | bad (cause : Nat)
  | badCond (cause : Nat)
  deriving DecidableEq, Repr

/-- The program at an address of a core's scratchpad, checked in the order 6, 1, 7, 8, 2, 3, 4, 5 (R43), then its condition
table (R268). -/
def Work.loadProg (w : Work) (c base : Nat) : Checked :=
  let at_ := spadBase c + base
  let h := w.bytes at_ 32
  let n := leAt h 14 2
  if base + 32 > 2 ^ 21 || 4096 < n || 2 ^ 21 < base + 32 + 16 * n then .bad 6
  else
    let raw := (List.range n).map (fun i => w.bytes (at_ + 32 + 16 * i) 16)
    let slots := raw.map slotOf
    let l := leAt h 4 2 + 1
    let driveEnd := leAt h 6 2
    let crew := leAt h 8 2 % 1024
    let lead := leAt h 10 1
    let limit := leAt h 12 2
    if crc32c (sub h 0 28 ++ raw.flatten) ≠ leAt h 28 4 then .bad 1
    else if 1024 ≤ leAt h 8 2 || !allZero (sub h 16 12) || !raw.all slotFieldsOk then .bad 7
    else match w.crewSize crew with
    | none => .bad 8
    | some size =>
      if (if 1 < size then lead < 2 || 64 < lead || l < lead + 2 else 64 < lead || l < lead + 1) then .bad 2
      else if (if l = 1 then driveEnd ≠ 0 else l - 2 < driveEnd) then .bad 3
      else if !slots.all (fun s => s.placed driveEnd (l - 1 - lead)) then .bad 4
      else if !slotsOrdered slots then .bad 5
      else
        let t := w.condTable c slots
        if t.1 ≠ 0 then .badCond t.1
        else .ok { id := leAt h 0 4, len := l, driveEnd := driveEnd, crew := crew, finishLead := lead,
                   variant := leAt h 11 1, stretchLimit := if limit = 0 then 65535 else limit, slots := slots, conds := t.2 }

/-- The ready offset Y (R40). -/
def Prog.ready (p : Prog) : Nat := p.len - 1 - p.finishLead

/-- The conditions of a slot. -/
def Prog.condsOf (p : Prog) (s : Nat) : List Cond := p.conds.filter (fun e => e.slot == s)

end Sys2Proof.Machine
end

