-- ==== Sys2Proof/Machine/Cox.lean ====
section
/-! DEFINITION. Machine/Cox.lean: a cox's slots: which units a slot claims, when units are free, how a slot completes, and
the cox's state (R44 to R47, R267, R276, R478). -/

namespace Sys2Proof.Machine

/-- Run state of a slot: 0 not launched, 1 running, 2 overrun, 3 complete (Table 12-10). -/
def Cox.state (x : Cox) (s : Nat) : Nat := match Sp.find x.runs s with | some r => r.state | none => 0

/-- The slot runs: launched and not complete. -/
def Cox.running (x : Cox) (s : Nat) : Bool :=
  match Sp.find x.runs s with | some r => (r.state == 1) || (r.state == 2 && !r.late) | none => false

/-- The slot runs and was not refused at its launch. -/
def Cox.ending (x : Cox) (s : Nat) : Bool :=
  x.running s && (match Sp.find x.runs s with | some r => !r.stuck | none => true)

/-- Every slot of the program is complete. -/
def Cox.allDone (x : Cox) : Bool :=
  match x.prog with | some p => (List.range p.slots.length).all (fun s => x.state s == 3) | none => true

/-- The offset of a cox (Table 1-19). -/
def Work.coxOffset (w : Work) (c : Nat) : Nat := w.fld (COX_STATUS c) 4 17

/-- A cox takes a state (Table 1-8). -/
def Work.setCoxState (w : Work) (c n : Nat) : Work := w.setFld (COX_STATUS c) 0 3 n

/-- The slot at an index of the program of a core. -/
def Work.slotAt (w : Work) (c s : Nat) : Option Slot := (w.cox c).prog.bind (fun p => p.slots[s]?)

/-- State of a power domain (Table 13-4). -/
def Work.pdState (w : Work) (p : Nat) : Nat := w.fld (PD_STATUS p) 0 3

/-- The tiles of a core's die have their power (R478). -/
def Work.tilesOn (w : Work) (c : Nat) : Bool := w.pdState (4 * (c / 64)) == 3 && w.pdState (4 * (c / 64) + 3) == 3

/-- The arrays and the vector unit of a core's die have their power (R478). -/
def Work.macsOn (w : Work) (c : Nat) : Bool := w.pdState (4 * (c / 64) + 1) == 3

/-- Tiles that a slot claims (Table 1-5). -/
def Slot.tiles (s : Slot) : Nat := if s.action = 0 ∨ s.action = 3 ∨ s.action = 4 ∨ s.action = 7 then s.units else 0

/-- Tiles of a calibration slot whose claim has not ended (R167). -/
def Work.calTiles (w : Work) (c s mask : Nat) : Nat :=
  ((List.range 16).filter (fun t => mask.testBit t && (w.tile c t).cal.active && (w.tile c t).cal.slot == some s)).foldl
    (fun m t => m + 2 ^ t) 0

/-- The tiles that running slots of a core claim. A digital job claims halves of arrays, not arrays (R198). -/
def Work.claims (w : Work) (c : Nat) : Nat :=
  match (w.cox c).prog with
  | none => 0
  | some p => (p.slots.zipIdx).foldl (fun a q =>
      if (w.cox c).running q.2 then a ||| (if q.1.action = 4 then w.calTiles c q.2 q.1.tiles else q.1.tiles) else a) 0

/-- The action of the running slot that claims a tile. -/
def Work.claimedBy (w : Work) (c t : Nat) : Option Nat :=
  match (w.cox c).prog with
  | none => none
  | some p => (p.slots.zipIdx).findSome? (fun q =>
      if (w.cox c).running q.2 && (if q.1.action = 4 then w.calTiles c q.2 q.1.tiles else q.1.tiles).testBit t then some q.1.action else none)

/-- A training slot claims a tile; a session reservation (action 7) is none (Table 2-10). -/
def Work.trainClaim (w : Work) (c t : Nat) : Bool := match w.claimedBy c t with | some a => a != 7 | none => false

/-- The device's stroke is in its recovery window on a core (R40). -/
def Work.inRecovery (w : Work) (c : Nat) : Bool :=
  match (w.cox c).prog with
  | some p => [2, 3, 4].contains (w.coxState c) && p.driveEnd + 1 ≤ w.coxOffset c && w.coxOffset c ≤ p.len - 2
  | none => false

/-- Time of the beat edge of a full beat time that is not past, ns. -/
def Work.edgeNs (w : Work) (t : Nat) : Nat := w.beat.lastEdge.getD w.now + beatsAhead w.beatFull t * w.period

/-- Offsets of the slots of a program that claim a tile, reservations apart, with their indices. -/
def Prog.claimants (p : Prog) (t : Nat) : List (Nat × Nat) :=
  ((p.slots.zipIdx).filter (fun q => q.1.action != 7 && q.1.tiles.testBit t)).map (fun q => (q.1.offset, q.2))

/-- Beats from now to the earliest next catch of a core, none where it has none to come: an ARMED cox's catch, the edge after a
FINISH, else the beat after the nominal finish, or the next but one where that has passed. -/
def Work.nextCatch (w : Work) (c : Nat) (p : Prog) : Option Nat :=
  let x := w.cox c
  match w.coxState c with
  | 1 => (if w.noManager then x.catchAt else x.next.map (·.2)).map (beatsAhead w.beatFull)
  | 5 => some 1
  | 2 | 3 | 4 => let cur := w.coxOffset c; some ((if cur + 1 < p.len then p.len - 1 - cur else 1) + 1)
  | _ => none

/-- Time of the earliest beat edge at which a slot among some of a program's may launch next (R103, R198): a slot of this stroke that
has not launched, one that overran unlaunched among them (R46), or one of the next stroke, of the program that runs or of the one that
may replace it (R38); none for a cox that is IDLE or ABORTED. -/
def Work.nextLaunchOf (w : Work) (c : Nat) (cl : Prog → List (Nat × Nat)) : Option Nat :=
  let x := w.cox c
  match x.prog with
  | none => none
  | some p =>
    let cur := w.coxOffset c
    let waits := fun (s : Nat) => x.state s == 0 || (x.state s == 2 && !x.running s)
    let here := if [2, 3].contains (w.coxState c) then
      ((cl p).filter (fun q => waits q.2)).map (fun q => max q.1 (cur + 1) - cur) else []
    let swap := match x.next with | some (q, _) => cl q | none => []
    let later := match w.nextCatch c p with
      | some n => (cl p ++ swap).map (fun q => n + q.1)
      | none => []
    (here ++ later).min?.map (fun n => w.beat.lastEdge.getD w.now + n * w.period)

/-- As `nextLaunchOf`, of the slots that claim a tile, reservations apart (R103). -/
def Work.nextLaunch (w : Work) (c t : Nat) : Option Nat := w.nextLaunchOf c (fun p => p.claimants t)

/-- What the session engine notes of a session's request in progress. -/
def Work.noteRun (w : Work) (n : Nat) (f : SessRun → SessRun) : Work :=
  match Sp.find w.sess.open_ n with
  | some s => { w with sess := { w.sess with open_ := Sp.put w.sess.open_ n { s with run := s.run.map f } } }
  | none => w

/-- The units of a slot are powered, and its tiles unclaimed (R44, R478). -/
def Work.unitsFree (w : Work) (c : Nat) (s : Slot) : Bool :=
  (s.tiles &&& w.claims c) == 0 && (s.tiles == 0 || w.tilesOn c) && (s.action != 1 || w.macsOn c)

/-- An overrun cox whose last outstanding slot completes reports ready (Table 1-8). -/
def Work.coxReady (w : Work) (c : Nat) : Work :=
  if w.coxState c = 3 && (w.cox c).allDone then w.setCoxState c 4 else w

/-- The entries that a slot releases return to FREE (R267, R276). -/
def Work.releaseEntries (w : Work) (c s : Nat) : Work :=
  match (w.cox c).prog with
  | none => w
  | some p => ((p.condsOf s).filter (·.release)).foldl (fun (v : Work) e => v.freeEntry e.entry) w

/-- A slot completes (R45, R267): it gives its units back and its released entries; the core has made progress. -/
def Work.completeSlot (w : Work) (c s : Nat) : Work :=
  if (w.cox c).state s = 3 then w
  else
    let w := w.setCox c { w.cox c with runs := Sp.put (w.cox c).runs s { state := 3 } }
    ((w.releaseEntries c s).progress c).coxReady c

end Sys2Proof.Machine
end

