-- ==== Sys2Proof/Machine/Num.lean ====
section
/-! DEFINITION. Machine/Num.lean: number formats and arithmetic (R182 to R187, R204, R215 to R228, R241, R242): exact dyadic
values, decoding of every format of Table 5-2 and of AS8, one rounding to FP32, and narrowing. -/

namespace Sys2Proof.Machine

/-- A value of a format: NaN, an infinity, or ±m × 2^e exactly. -/
inductive FV where
  | nan
  | inf (neg : Bool)
  | fin (neg : Bool) (m : Nat) (e : Int)
  deriving DecidableEq, Repr

/-- floor(m × 2^k). -/
def scaleFloor (m : Nat) (k : Int) : Nat := if 0 ≤ k then m * 2 ^ k.toNat else m / 2 ^ (-k).toNat

/-- m × 2^k rounded to nearest, ties to even. -/
def scaleRne (m : Nat) (k : Int) : Nat :=
  if 0 ≤ k then m * 2 ^ k.toNat
  else
    let d := 2 ^ (-k).toNat
    let q := m / d
    let r := m % d
    if 2 * r < d then q else if 2 * r > d then q + 1 else if q % 2 = 0 then q else q + 1

/-! ### Formats -/

/-- The layout of a format's magnitudes: width, mantissa bits, exponent of its smallest step, largest finite code. -/
structure Fmt where
  w : Nat
  mbits : Nat
  qmin : Int
  maxCode : Nat
  deriving DecidableEq, Repr

/-- The formats of Table 5-2 by code (Tables 6-1 to 6-3). -/
def fmtOf (code : Nat) : Fmt :=
  match code with
  | 0 => ⟨32, 23, -149, 0x7F7FFFFF⟩
  | 1 => ⟨16, 7, -133, 0x7F7F⟩
  | 2 => ⟨16, 10, -24, 0x7BFF⟩
  | 3 => ⟨8, 3, -9, 0x7E⟩
  | 4 => ⟨8, 2, -16, 0x7B⟩
  | 5 => ⟨6, 3, -3, 0x1F⟩
  | 6 => ⟨6, 2, -4, 0x1F⟩
  | 7 => ⟨4, 1, -1, 0x7⟩
  | 8 => ⟨8, 7, -6, 0x7F⟩
  | 9 => ⟨3, 1, -1, 0x3⟩
  | _ => ⟨2, 1, 0, 0x1⟩

/-- A format of Table 5-2 that carries a scale byte (R218). -/
def scaled (code : Nat) : Bool := 3 ≤ code && code ≤ 10

/-- The escape-capable formats (R227). -/
def escapeFmt (code : Nat) : Bool := code == 7 || code == 9 || code == 10

/-- Bytes of a 32-element segment (Table 5-2). -/
def segBytes (code : Nat) : Nat := 4 * (fmtOf code).w

/-- Cycles per k-block of a format (Table 5-1). -/
def kblkCycles (code : Nat) : Nat :=
  match code with
  | 0 => 512 | 1 | 2 => 128 | 7 => 32 | 9 | 10 => 16 | _ => 64

/-- The value of a magnitude code. -/
def Fmt.value (f : Fmt) (neg : Bool) (code : Nat) : FV :=
  if code < 2 ^ f.mbits then .fin neg code f.qmin
  else .fin neg (code % 2 ^ f.mbits + 2 ^ f.mbits) (f.qmin + (code / 2 ^ f.mbits : Nat) - 1)

/-- The value of an element before scaling (R218 to R222): infinities and NaNs where the format has them, two's complement
for MXINT8. -/
def decodeElem (code n : Nat) : FV :=
  let f := fmtOf code
  let n := n % 2 ^ f.w
  if code = 8 then (if n < 128 then .fin false n (-6) else .fin true (256 - n) (-6))
  else
    let neg := n.testBit (f.w - 1)
    let mag := n % 2 ^ (f.w - 1)
    if mag ≤ f.maxCode then f.value neg mag
    else if code = 3 then .nan
    else if code ≤ 4 then (if mag = f.maxCode + 1 then .inf neg else .nan)
    else f.value neg mag

/-- A value times 2^x. -/
def FV.scale (v : FV) (x : Int) : FV := match v with | .fin s m e => .fin s m (e + x) | v => v

/-- An element of a scaled segment: its value times the segment's scale, NaN where the scale is 0xFF (R216). -/
def decodeScaled (code n scaleByte : Nat) : FV :=
  if scaleByte = 255 then .nan else (decodeElem code n).scale ((scaleByte : Int) - 127)

/-- Element i of a packed segment (R217). -/
def packedElem (code : Nat) (bs : List Byte) (i : Nat) : Nat := bits (leNat bs) ((fmtOf code).w * i) (fmtOf code).w

/-- Elements packed into a segment (R217). -/
def packElems (code : Nat) (es : List Nat) : List Byte :=
  toLE (segBytes code) (es.foldr (fun e acc => e % 2 ^ (fmtOf code).w + 2 ^ (fmtOf code).w * acc) 0)

/-! ### Values -/

/-- The value is neither infinite nor NaN. -/
def FV.finite (v : FV) : Bool := match v with | .fin _ _ _ => true | _ => false
/-- The value is a zero. -/
def FV.isZero (v : FV) : Bool := match v with | .fin _ 0 _ => true | _ => false
/-- The value is NaN. -/
def FV.isNan (v : FV) : Bool := match v with | .nan => true | _ => false
/-- The value is infinite. -/
def FV.isInf (v : FV) : Bool := match v with | .inf _ => true | _ => false
/-- Its sign is negative. -/
def FV.neg? (v : FV) : Bool := match v with | .fin s _ _ => s | .inf s => s | .nan => false
/-- Its magnitude. -/
def FV.mag (v : FV) : FV := match v with | .fin _ m e => .fin false m e | .inf _ => .inf false | .nan => .nan
/-- Its negation. -/
def FV.negate (v : FV) : FV := match v with | .fin s m e => .fin (!s) m e | .inf s => .inf (!s) | .nan => .nan

/-- The product, exact (R182); infinity times zero is NaN (R186). -/
def FV.mul (a b : FV) : FV :=
  match a, b with
  | .nan, _ | _, .nan => .nan
  | .inf s, .inf t => .inf (s != t)
  | .inf s, .fin t m _ => if m = 0 then .nan else .inf (s != t)
  | .fin s m _, .inf t => if m = 0 then .nan else .inf (s != t)
  | .fin s m e, .fin t n f => .fin (s != t) (m * n) (e + f)

/-- The signed integer of ±m × 2^e in steps of 2^q, q at most e. -/
def stepsOf (s : Bool) (m : Nat) (e q : Int) : Int :=
  let n : Int := (m * 2 ^ (e - q).toNat : Nat)
  if s then -n else n

/-- The sum, exact; the sum of opposite equals is +0, of two negative zeros −0. -/
def FV.add (a b : FV) : FV :=
  match a, b with
  | .nan, _ | _, .nan => .nan
  | .inf s, .inf t => if s = t then .inf s else .nan
  | .inf s, _ => .inf s
  | _, .inf t => .inf t
  | .fin s m e, .fin t n f =>
    let q := min e f
    let r := stepsOf s m e q + stepsOf t n f q
    if r = 0 then .fin (s && t) 0 q else .fin (decide (r < 0)) r.natAbs q

/-- Whether the first is less than the second; false with a NaN. -/
def FV.lt (a b : FV) : Bool :=
  match a, b with
  | .nan, _ | _, .nan => false
  | .inf s, .inf t => s && !t
  | .inf s, _ => s
  | _, .inf t => !t
  | .fin s m e, .fin t n f => decide (stepsOf s m e (min e f) < stepsOf t n f (min e f))

/-- The place of the leading bit of a non-zero finite magnitude: floor(log₂ |v|). -/
def FV.log2 (v : FV) : Int := match v with | .fin _ m e => (Nat.log2 m : Nat) + e | _ => 0

/-! ### FP32 -/

/-- The quiet NaN the device writes (R186). -/
def nanW : Word := 0x7FC00000

/-- The value of an FP32 word. -/
def f32 (w : Word) : FV := decodeElem 0 w.toNat

/-- A sign bit in FP32. -/
def signW (s : Bool) : Nat := if s then 0x80000000 else 0

/-- A value rounded once to FP32, to nearest with ties to even (R182, R204). -/
def FV.toF32 (v : FV) : Word :=
  match v with
  | .nan => nanW
  | .inf s => BitVec.ofNat 32 (signW s + 0x7F800000)
  | .fin s 0 _ => BitVec.ofNat 32 (signW s)
  | .fin s m e =>
    let q := max ((Nat.log2 m : Int) + e - 23) (-149)
    let code := scaleRne m (e - q) + (q + 149).toNat * 2 ^ 23
    BitVec.ofNat 32 (signW s + if 0x7F800000 ≤ code then 0x7F800000 else code)

/-- An FP32 sum. -/
def fadd (a b : Word) : Word := ((f32 a).add (f32 b)).toF32
/-- An FP32 difference. -/
def fsub (a b : Word) : Word := ((f32 a).add (f32 b).negate).toF32
/-- An FP32 product. -/
def fmul (a b : Word) : Word := ((f32 a).mul (f32 b)).toF32
/-- An FP32 fused multiply-add, a × b + c. -/
def ffma (a b c : Word) : Word := (((f32 a).mul (f32 b)).add (f32 c)).toF32
/-- The larger of two FP32 numbers; a NaN of either spreads (R187). -/
def fmax (a b : Word) : Word :=
  if (f32 a).isNan || (f32 b).isNan then nanW else if (f32 a).lt (f32 b) then b else a
/-- An FP32 word canonical under R186: a NaN becomes the one the device writes. -/
def fcanon (a : Word) : Word := (f32 a).toF32

/-- Division correctly rounded (R204): the quotient to 64 bits with its remainder as a last bit. -/
def FV.div (a b : FV) : FV :=
  match a, b with
  | .nan, _ | _, .nan => .nan
  | .inf s, .inf _ => let _ := s; .nan
  | .inf s, .fin t _ _ => .inf (s != t)
  | .fin s _ _, .inf t => .fin (s != t) 0 0
  | .fin s m e, .fin t n f =>
    if n = 0 then (if m = 0 then .nan else .inf (s != t))
    else
      let k := 64 + Nat.log2 n
      let q := m * 2 ^ k / n
      .fin (s != t) (2 * q + if m * 2 ^ k % n = 0 then 0 else 1) (e - f - k - 1)

/-- FP32 division. -/
def fdiv (a b : Word) : Word := ((f32 a).div (f32 b)).toF32

/-- Square root correctly rounded (R204): the root to 64 bits with its remainder as a last bit. -/
def FV.sqrt (a : FV) : FV :=
  match a with
  | .nan => .nan
  | .inf s => if s then .nan else .inf false
  | .fin s 0 e => .fin s 0 e
  | .fin true _ _ => .nan
  | .fin false m e =>
    let k : Nat := 128 + (if (e % 2 = 0) then 0 else 1)
    let n := m * 2 ^ k
    let r := Nat.sqrt n
    .fin false (2 * r + if r * r = n then 0 else 1) ((e - k) / 2 - 1)

/-- FP32 square root. -/
def fsqrt (a : Word) : Word := (f32 a).sqrt.toF32

/-! ### The algorithms within 1 ulp (R204): the free value held to the FP32 numbers within 1 ulp of the exact one -/

/-- The FP32 magnitude nearest to r among those within 1 ulp of an exact value; only where the value is an FP32 number itself are
both its neighbours within 1 ulp. Beyond the FP32 range the value is infinite (R186). -/
def nearUlp (v : FV) (r : Word) : Word :=
  match v with
  | .fin s m e =>
    let u := FV.fin false m e
    let n := u.toF32.toNat
    let lo := if u.lt (f32 (BitVec.ofNat 32 n)) || !(f32 (BitVec.ofNat 32 n)).lt u then n - 1 else n
    let hi := if u.lt (f32 (BitVec.ofNat 32 n)) then n else n + 1
    if 128 ≤ u.log2 ∧ 0 < m then BitVec.ofNat 32 (signW s + 0x7F800000)
    else BitVec.ofNat 32 (signW s + max lo (min hi (r.toNat % 2 ^ 31)))
  | v => v.toF32

/-- 2 to the power 2⁻ⁱ in steps of 2⁻⁹⁶, rounded down. -/
def rootOf2 : Nat → Nat
  | 0 => 2 ^ 97
  | i + 1 => Nat.sqrt (rootOf2 i * 2 ^ 96)

/-- 2 to the power of a finite value, correct to more bits than decide between neighbouring FP32 numbers. -/
def FV.exp2 (v : FV) : FV :=
  match v with
  | .fin s m e =>
    if m = 0 then .fin false 1 0
    else if 9 ≤ v.log2 then .fin false 1 (if s then -1000 else 1000)
    else
      let n : Int := if s then -(m : Int) else m
      let x : Int := if 0 ≤ e + 80 then n * 2 ^ (e + 80).toNat else n / 2 ^ (-(e + 80)).toNat
      let f := (x % 2 ^ 80).toNat
      let r := (List.range 80).foldl (fun r i => if f.testBit (79 - i) then r * rootOf2 (i + 1) / 2 ^ 96 else r) (2 ^ 96)
      let whole : Bool := f == 0 && (0 ≤ e + 80 || m % 2 ^ (-(e + 80)).toNat == 0)
      .fin false (2 * r + if whole then 0 else 1) (x / 2 ^ 80 - 97)
  | v => v

/-- One step of the binary logarithm: the square of y in 1 to 2, halved where it reaches 2, gives the next bit. -/
def logStep (a : Nat × Nat) : Nat × Nat :=
  let q := a.1 * a.1 / 2 ^ 256
  if 2 ^ 257 ≤ q then (q / 2, 2 * a.2 + 1) else (q, 2 * a.2)

/-- The binary logarithm of a positive value, in steps of 2⁻⁹⁶ with a last bit that says it is not exact. -/
def FV.logTwo (v : FV) : FV :=
  match v with
  | .fin _ m _ =>
    let y := m * 2 ^ 256 / 2 ^ Nat.log2 m
    let b := ((List.range 96).foldl (fun a _ => logStep a) (y, 0)).2
    let l : Int := 2 * (v.log2 * 2 ^ 96 + b) + if y = 2 ^ 256 then 0 else 1
    .fin (decide (l < 0)) l.natAbs (-97)
  | v => v

/-- The reciprocal square root of a positive value, to more bits than FP32 holds, with a last bit that says it is not exact. -/
def FV.rsqrt (v : FV) : FV :=
  match v with
  | .fin _ m e =>
    let m := if e % 2 = 0 then m else 2 * m
    let e := if e % 2 = 0 then e else e - 1
    let r := Nat.sqrt (2 ^ 512 / m)
    .fin false (2 * r + if r * r * m = 2 ^ 512 then 0 else 1) (-257 - e / 2)
  | v => v

/-- exp2 (R204): within 1 ulp of the exact value; infinities and NaN spread (R187). -/
def fexp2 (x : Word) : Word :=
  match f32 x with
  | .nan => nanW
  | .inf s => if s then 0 else 0x7F800000
  | v => nearUlp v.exp2 (Config.exp2Alg x)

/-- log2 (R204). Of zero and of a negative number the spec states no result: a free value (log 7). -/
def flog2 (x : Word) : Word :=
  match f32 x with
  | .nan => nanW
  | .inf false => 0x7F800000
  | .inf true => Config.log2Alg x
  | .fin s m e => if s || m = 0 then Config.log2Alg x else nearUlp (FV.fin s m e).logTwo (Config.log2Alg x)

/-- Reciprocal square root (R204). Of zero and of a negative number the spec states no result: a free value (log 7). -/
def frsqrt (x : Word) : Word :=
  match f32 x with
  | .nan => nanW
  | .inf false => 0
  | .inf true => Config.rsqrtAlg x
  | .fin s m e => if s || m = 0 then Config.rsqrtAlg x else nearUlp (FV.fin s m e).rsqrt (Config.rsqrtAlg x)

/-- Whether an FP32 word is finite. -/
def ffinite (a : Word) : Bool := (f32 a).finite

/-! ### Narrowing (R224 to R226, R236, R241) -/

/-- The magnitude code of a finite value rounded to nearest, ties to even; it goes on above the largest code (R224, R225). -/
def Fmt.rne (f : Fmt) (v : FV) : Nat :=
  match v with
  | .fin _ 0 _ => 0
  | .fin _ m e =>
    let q := max ((Nat.log2 m : Int) + e - f.mbits) f.qmin
    scaleRne m (e - q) + (q - f.qmin).toNat * 2 ^ f.mbits
  | _ => 0

/-- The largest finite magnitude of a format. -/
def Fmt.fmax (f : Fmt) : FV := f.value false f.maxCode

/-- Stochastic rounding of a finite magnitude by a 16-bit draw (R241). -/
def Fmt.sr (f : Fmt) (v : FV) (draw : Nat) : Nat :=
  match v with
  | .fin _ 0 _ => 0
  | .fin s m e =>
    if !((FV.fin s m e).mag.lt f.fmax) then f.maxCode
    else
      let q := max ((Nat.log2 m : Int) + e - f.mbits) f.qmin
      let lo := scaleFloor m (e - q)
      let t := scaleFloor m (e - q + 16) - lo * 2 ^ 16
      (if draw < t then lo + 1 else lo) + (q - f.qmin).toNat * 2 ^ f.mbits
  | _ => 0

/-- A magnitude code with its sign as the format writes it (R218, R221). -/
def signCode (code : Nat) (neg : Bool) (mag : Nat) : Nat :=
  let f := fmtOf code
  if code = 8 then (if neg then (256 - mag) % 256 else mag)
  else if (code = 9 ∨ code = 10) ∧ mag = 0 then 0
  else if neg then mag + 2 ^ (f.w - 1) else mag

/-- A value written in an unscaled format with whether it saturates (R225); `draw` orders stochastic rounding. -/
def narrowPlain (code : Nat) (v : FV) (draw : Option Nat) : Nat × Bool :=
  let f := fmtOf code
  match v with
  | .nan => (if code = 0 then 0x7FC00000 else if code = 1 then 0x7FC0 else 0x7E00, false)
  | .inf s => (signCode code s (f.maxCode + 1), false)
  | .fin s m e =>
    match draw with
    | none =>
      let c := f.rne (.fin s m e)
      if f.maxCode < c then (signCode code s f.maxCode, true) else (signCode code s c, false)
    | some r => (signCode code s (f.sr (.fin s m e) r), f.fmax.lt (.fin false m e))

/-- The magnitudes of a block: the largest. -/
def amaxOf (vs : List FV) : FV := vs.foldl (fun a v => if a.lt v.mag then v.mag else a) (.fin false 0 0)

/-- ceil(log₂ |v|) of a non-zero finite value. -/
def FV.clog2 (v : FV) : Int :=
  match v with
  | .fin _ m e => (Nat.log2 m : Int) + e + if 2 ^ Nat.log2 m = m then 0 else 1
  | _ => 0

/-- The smallest x with amax ≤ F_max × 2^x (R226). -/
def ownExponent (f : Fmt) (amax : FV) : Int :=
  let x := amax.log2 - f.fmax.log2
  if (f.fmax.scale x).lt amax then x + 1 else x

/-- e_max of a format (R218). -/
def Fmt.emax (f : Fmt) : Int := f.fmax.log2

/-- A narrowed block: scale exponent (none for the NaN scale), element codes, the observed exponent of a block that makes
one, and whether it saturates (R226). -/
structure Narrowed where
  scale : Option Int
  codes : List Nat
  obs : Option Int
  sat : Bool
  deriving DecidableEq, Repr

/-- A block narrowed to a scaled format under a ceiling E + H, none while the estimate is not valid (R226); `draw l` is the
draw of element l. -/
def narrowBlock (code : Nat) (vs : List FV) (ceil : Option Int) (draw : Option (Nat → Nat)) : Narrowed :=
  let f := fmtOf code
  if !vs.all FV.finite then { scale := none, codes := vs.map (fun _ => 0), obs := none, sat := false }
  else
    let amax := amaxOf vs
    if amax.isZero then { scale := some (-126), codes := vs.map (fun _ => 0), obs := none, sat := false }
    else
      let xb := ownExponent f amax
      let x := match ceil with | some c => min xb (c - f.emax) | none => xb
      let x := clampInt x (-126) 127
      let qs := (vs.zipIdx).map (fun p =>
        let v := p.1.scale (-x)
        let c := match draw with | some d => f.sr v (d p.2) | none => min (f.rne v) f.maxCode
        signCode code p.1.neg? (min c f.maxCode))
      { scale := some x, codes := qs, obs := some amax.clog2, sat := vs.any (fun v => f.fmax.lt (v.mag.scale (-x))) }

/-- The scale byte of a narrowed block (R215, R227). -/
def Narrowed.byte (n : Narrowed) : Byte := match n.scale with | some x => BitVec.ofNat 8 (x + 127).toNat | none => 0xFF

/-- The escape condition's loss test (R237): FP32 sums of squares in ascending order, of the nearest rounding. -/
def lossy (code : Nat) (vs : List FV) (ceil : Option Int) (share : Nat) : Bool :=
  let n := narrowBlock code vs ceil none
  let x := n.scale.getD 0
  let sums := (vs.zip n.codes).foldl (fun (a : Word × Word) p =>
    let v := p.1.toF32
    let d := (p.1.add ((decodeElem code p.2).scale x).negate).toF32
    (fadd a.1 (fmul v v), fadd a.2 (fmul d d))) ((0 : Word), (0 : Word))
  let left := fmul sums.2 (FV.fin false 256 0).toF32
  let right := fmul (FV.fin false share 0).toF32 sums.1
  (f32 right).lt (f32 left)

/-- A value written in AS8 at the agreed exponent, and the smallest exponent that holds it where it saturates (R236). -/
def narrowAs8 (v : FV) (x : Int) : Nat × Option Int :=
  match v with
  | .fin s m e =>
    let v := FV.fin false m (e - x)
    if (fmtOf 3).fmax.lt v then (signCode 3 s 0x7E, some (ownExponent (fmtOf 3) (.fin false m e)))
    else (signCode 3 s (min ((fmtOf 3).rne v) 0x7E), none)
  | _ => (0x7F, none)

/-! ### The generator (R242) -/

/-- One of the six rounds of the generator. -/
def drawRound (s : Nat × Nat × Nat) : Nat × Nat × Nat :=
  let p := s.1 * 0xD2B74407
  ((((p >>> 32) ^^^ s.2.1 ^^^ s.2.2) % 2 ^ 32), p % 2 ^ 32, (s.2.2 + 0x9E3779B9) % 2 ^ 32)

/-- The 16-bit draw of a key, sequence number and index (R242). -/
def drawOf (key seq idx : Nat) : Nat :=
  (drawRound (drawRound (drawRound (drawRound (drawRound (drawRound (idx, seq, key))))))).1 >>> 16

end Sys2Proof.Machine
end

