-- ==== Sys2Proof/Machine/Digital.lean ====
section
/-! DEFINITION. Machine/Digital.lean: what the digital units of a core share: contexts and their faults, accumulator tiles,
the deferred log, the estimator table, operand segments and narrowed blocks (R190 to R214, R226 to R243). -/

namespace Sys2Proof.Machine

/-! ### Contexts (R197 to R202). x = 2a + h for half h of array a, 16 for the vector unit. -/

/-- State of a context (Table 5-6). -/
def Work.ctxState (w : Work) (c x : Nat) : Nat :=
  if x = 16 then w.fld (VEC_STATUS c) 0 3 else w.fld (MAC_STATUS c (x / 2)) (1 + 3 * (x % 2)) 3

/-- Contexts in RUN, WAIT, RESET or DRAIN are counted in DJ_STATUS (Table 5-13). -/
def Work.countCtxs (w : Work) (c : Nat) : Work :=
  w.setFld (DJ_STATUS c) 0 5 (((List.range 17).filter (fun x => 1 ≤ w.ctxState c x && w.ctxState c x ≤ 4)).length)

/-- A context takes a state. -/
def Work.setCtxState (w : Work) (c x st : Nat) : Work :=
  (if x = 16 then w.setFld (VEC_STATUS c) 0 3 st else w.setFld (MAC_STATUS c (x / 2)) (1 + 3 * (x % 2)) 3 st).countCtxs c

/-- The error register of a context (Table 5-15). -/
def ctxErr (c x : Nat) : Nat := if x = 16 then VEC_ERR c else if x % 2 = 0 then CTX_ERR0 c (x / 2) else CTX_ERR1 c (x / 2)

/-- The halves of its array that a context claims. -/
def Ctx.halves (k : Ctx) (x : Nat) : List Nat := if k.split then [x % 2] else [0, 1]

/-- The key of a context's job: its slot, or 4096 + its session. -/
def Ctx.job (k : Ctx) : Option Nat := match k.session with | some n => some (4096 + n) | none => k.slot

/-- M and N of a shape for a context (Table 5-3). -/
def shapeMN (shape : Nat) (split : Bool) : Nat × Nat :=
  match shape with
  | 0 => (32, if split then 16 else 32)
  | 1 => (8, if split then 64 else 128)
  | _ => (128, 8)

/-- The key of a half-tile: core, array, bank, index. -/
def halfKey (c a h idx : Nat) : Nat := ((8 * c + a) * 2 + h) * 64 + idx

/-- The key of element (i, j) of a tile (R188, R194). -/
def accKey (c x : Nat) (split : Bool) (shape idx p : Nat) : Nat :=
  let n := (shapeMN shape split).2
  if split then 512 * halfKey c (x / 2) (x % 2) idx + p
  else 512 * halfKey c (x / 2) (p % n / (n / 2)) idx + p / n * (n / 2) + p % n % (n / 2)

/-- Elements of a tile in order. -/
def tileSize (shape : Nat) (split : Bool) : Nat := (shapeMN shape split).1 * (shapeMN shape split).2

/-- An accumulator element bound; +0 is what an unlisted one holds. -/
def putAcc (l : Sp Word) (k : Nat) (v : Word) : Sp Word := if v = 0 then Sp.erase l k else Sp.put l k v

/-- The elements of a tile. -/
def Work.tileGet (w : Work) (c x : Nat) (split : Bool) (shape idx : Nat) : List Word :=
  (List.range (tileSize shape split)).map (fun p => Sp.get w.acc 0 (accKey c x split shape idx p))

/-- A tile written. -/
def Work.tilePut (w : Work) (c x : Nat) (split : Bool) (shape idx : Nat) (vs : List Word) : Work :=
  { w with acc := (vs.zipIdx).foldl (fun l q => putAcc l (accKey c x split shape idx q.2) q.1) w.acc }

/-- A half-tile of the context's tile is poisoned (R196). -/
def Work.tilePoisoned (w : Work) (c x idx : Nat) : Bool :=
  ((w.ctx c x).halves x).any (fun h => w.accPoison.contains (halfKey c (x / 2) h idx))

/-- Poison marks of the half-tiles of a context's tiles set or removed. -/
def Work.tilePoison (w : Work) (c x : Nat) (idxs : List Nat) (v : Bool) : Work :=
  let ks := idxs.flatMap (fun i => ((w.ctx c x).halves x).map (fun h => halfKey c (x / 2) h i))
  { w with accPoison := if v then ks.foldl (fun l k => insNat k l) w.accPoison else w.accPoison.filter (fun k => !ks.contains k) }

/-- Half-tiles cleared to +0 with their marks removed (R195, R196). -/
def Work.tileClear (w : Work) (c x : Nat) (idxs : List Nat) : Work :=
  let ks := idxs.flatMap (fun i => ((w.ctx c x).halves x).map (fun h => halfKey c (x / 2) h i))
  { w with acc := w.acc.filter (fun p => !ks.contains (p.1 / 512))
           accPoison := w.accPoison.filter (fun k => !ks.contains k) }

/-- An instruction of a context names accumulator indices (R200). -/
def Work.nameIdx (w : Work) (c x : Nat) (idxs : List Nat) : Work :=
  w.setCtx c x { w.ctx c x with named := ((w.ctx c x).named ++ idxs).dedup }

/-- A context fault (R200): named half-tiles poisoned, the error and the count set, the context in RESET; the outputs of a session's
stream take poison (R290). -/
def Work.ctxFault (w : Work) (c x bit cause : Nat) : Work :=
  let k := w.ctx c x
  let w := w.when (x ≠ 16) (fun v => v.tilePoison c x k.named true)
  let e := ctxErr c x
  let w := ((w.setBit e bit).when (bit = 4) (fun v => v.setFld e 8 4 cause)).setFld e 12 16 k.tag
  let w := if x = 16 then w.inc (VEC_RESET_CNT c) else w.incFld (CTX_RESET_CNT c (x / 2)) (16 * (x % 2)) 16 1
  let w := (w.setCtx c x { k with inFlight := [], checking := none, stalled := false, waits := none }).setCtxState c x 3
  match k.session with
  | some n => w.noteRun n (fun u => { u with bad := true })
  | none => w

/-- The context retires the instruction at its program counter (Table 12-8). -/
def Work.retireInstr (w : Work) (c x : Nat) : Work :=
  ((w.setCtx c x { w.ctx c x with pc := (w.ctx c x).pc + 32, stalled := false }).progress (2000 + 17 * c + x)).progress c

/-! ### Fetching and checking instructions (R208, R210) -/

/-- The 32 bytes at a context's program counter; none outside local memory. -/
def Work.fetchInstr (w : Work) (c x : Nat) : Option (List Byte) := (w.localGet c (w.ctx c x).pc 32).map (·.1)

/-- Bytes of an instruction from `off` to its end, or `n` of them, are zero. -/
def zeroAt (b : List Byte) (off n : Nat) : Bool := allZero (sub b off n)

/-- The instruction is defined, permitted in its stream, and its reserved fields are zero (Table 5-11, check 1). -/
def instrOk1 (x : Nat) (b : List Byte) : Bool :=
  let f := fun i => leAt b i 1
  match f 0 with
  | 1 => x ≠ 16 && f 1 < 8 && f 4 < 64 && f 5 == 0 && zeroAt b 16 16
  | 2 => x ≠ 16 && zeroAt b 1 3 && f 4 < 64 && zeroAt b 6 26
  | 3 => x ≠ 16 && f 1 < 4 && zeroAt b 2 2 && f 4 < 64 && zeroAt b 5 3 && zeroAt b 12 20
  | 4 => x ≠ 16 && f 1 < 128 && f 2 < 16 && f 3 == 0 && f 4 < 64 && zeroAt b 5 3 && zeroAt b 22 10
  | 5 => zeroAt b 1 7 && zeroAt b 24 8
  | 6 => (f 1 == 0 || f 1 == 8) && zeroAt b 2 6 && zeroAt b 24 8
  | 7 => zeroAt b 1 3 && f 4 < 16 && zeroAt b 5 27
  | 8 => zeroAt b 1 3 && f 4 < 16 && f 5 == 0 && zeroAt b 8 24
  | 15 => zeroAt b 1 31
  | 16 => x == 16 && zeroAt b 1 3 && 1 ≤ f 4 && f 4 < 8 && zeroAt b 5 3 && zeroAt b 12 20
  | _ => false

/-- What a context's next instruction is. -/
inductive Fetched where
  /-- Nothing issues: the context does not run, waits, or is stalled. -/
  | idle
  /-- An instruction that fails check 1, or none where the program counter leaves local memory. -/
  | bad (b : List Byte)
  | instr (b : List Byte)
  deriving DecidableEq, Repr

/-- The next instruction of a context in RUN or DRAIN. -/
def Work.nextInstr (w : Work) (c x : Nat) : Fetched :=
  let k := w.ctx c x
  if !(w.ctxState c x = 1 || w.ctxState c x = 4) || k.waits.isSome || k.stalled then .idle
  else match w.fetchInstr c x with
    | some b => if instrOk1 x b then .instr b else .bad b
    | none => .bad []

/-- The context runs in drain (Table 5-5). -/
def Work.draining (w : Work) (c x : Nat) : Bool := w.ctxState c x = 4

/-- A failed check: in drain the instruction has no effect, else its context faults (R210). -/
def Work.badInstr (w : Work) (c x cause : Nat) : Work :=
  if w.draining c x then w.retireInstr c x else w.ctxFault c x 4 cause

/-- The accumulator indices that an instruction names (Table 5-10). -/
def instrIdxs (b : List Byte) : List Nat :=
  let i := leAt b 4 1 % 64
  match leAt b 0 1 with
  | 1 | 3 | 4 => [i]
  | 2 => (List.range (min (leAt b 5 1) (64 - i))).map (i + ·)
  | _ => []

/-- An instruction command of one opcode reaches its context: a bad instruction, whose indices are named like those of any other
(R200), faults the context whichever command comes; another opcode's command finds nothing to do. -/
def Work.issue (w : Work) (c x op : Nat) (f : List Byte → Work) : Work :=
  match w.nextInstr c x with
  | .idle => w
  | .bad b => (w.when (!w.draining c x && x != 16) (fun v => v.nameIdx c x (instrIdxs b))).badInstr c x 1
  | .instr b => if leAt b 0 1 = op then f b else w

/-- As `issue`, for a vector kernel. -/
def Work.issueVk (w : Work) (c kernel : Nat) (f : List Byte → Work) : Work :=
  w.issue c 16 16 (fun b => if leAt b 4 1 = kernel then f b else w)

/-! ### Kernel addresses (notes/assumptions/13.md) -/

/-- Where a 64-bit kernel address leads: HBM, or local memory of the core. -/
inductive Place where
  | hbm (a : Nat)
  | loc (a : Nat)
  deriving DecidableEq, Repr

/-- A kernel's range of `n` bytes: below 2^40 HBM, above it local memory through Config.kernelLocal; none where it leaves
its memory. -/
def kernelAt (c a n : Nat) : Option Place :=
  if a + n ≤ 2 ^ 40 then some (.hbm a)
  else if 2 ^ 40 + Config.kernelLocal ≤ a then
    let l := a - 2 ^ 40 - Config.kernelLocal
    if localOk l n && (localAddr c l).isSome then some (.loc l) else none
  else none

/-- Bytes of a range as a kernel reads it, with poison; none where it leaves its memory. -/
def Work.kget (w : Work) (c a n : Nat) : Option (List Byte × Bool × Work) :=
  match kernelAt c a n with
  | some (.hbm b) => some (w.hbmGet b n)
  | some (.loc l) => (w.localGet c l n).map (fun r => (r.1, r.2, w))
  | none => none

/-- Several ranges read in order: their bytes, whether any is poisoned, the state (which counts unmapped accesses). -/
def kgets (c : Nat) : List (Nat × Nat) → Work → Option (List (List Byte) × Bool × Work)
  | [], w => some ([], false, w)
  | r :: rs, w =>
    match w.kget c r.1 r.2 with
    | none => none
    | some (b, p, v) => (kgets c rs v).map (fun t => (b :: t.1, p || t.2.1, t.2.2))

/-- Every stack that some ranges of a kernel lead to serves them (R326). -/
def Work.kserves (w : Work) (c : Nat) (rs : List (Nat × Nat)) : Bool :=
  rs.all (fun r => match kernelAt c r.1 r.2 with | some (.hbm a) => w.rangeServes a r.2 | _ => true)

/-- An address that a field of a kernel's parameters gives is aligned to 32 bytes in local memory, to 4,096 in HBM (Table 5-11,
check 5). -/
def kaligned (a : Nat) : Bool := if a < 2 ^ 40 then a % 4096 = 0 else (a - 2 ^ 40 - Config.kernelLocal) % 32 = 0

/-! ### The deferred log (R211 to R214) -/

/-- A write of an instruction: the model's address, its bytes, and whether it carries poison. -/
abbrev Put := Nat × List Byte × Bool

/-- Bytes that one deferred output takes in the log: a 64-byte header and the data padded to 64 (R211). -/
def recBytes (ps : List Put) : Nat := 64 + ceilDiv ((ps.map (fun p => p.2.1.length)).sum) 64 * 64

/-- Bytes that deferred outputs take, one record each. -/
def logBytes (os : List (List Put)) : Nat := (os.map recBytes).sum

/-- Bytes of a record in the log. -/
def Deferred.size (r : Deferred) : Nat := 64 + ceilDiv ((r.parts.map (·.2.length)).sum) 64 * 64

/-- Bytes of the log in use. -/
def Digital.logUsed (d : Digital) : Nat := (d.log.map Deferred.size).sum

/-- DLOG_USED follows the log. -/
def Work.logUsed (w : Work) (c : Nat) : Work := w.setFld (DLOG_USED c) 0 20 (ceilDiv (w.dig c).logUsed 4096)

/-- A write to the model's memory: HBM through the aperture, or local memory. -/
def Work.putAt (w : Work) (p : Put) : Work := if p.1 < 2 ^ 40 then w.hbmPut p.1 p.2.1 p.2.2 else w.put p.1 p.2.1 p.2.2

/-- One record appended to a core's deferred log, and written behind the records before it at DLOG_BASE: a header, whose content
the spec does not give, and the data, padded with bytes of no stated value (R211; log 126). -/
def Work.appendRec (w : Work) (c x : Nat) (ps : List Put) : Work :=
  let d := w.dig c
  let bad := ps.any (fun p => p.2.2)
  let data := ps.flatMap (fun p => p.2.1)
  let r : Deferred := { slot := (w.ctx c x).job.getD 0, ctx := x, seq := d.logSeq, parts := ps.map (fun p => (p.1, p.2.1)), poison := bad }
  let h := w.drawBytes 64
  let t := h.2.drawBytes (r.size - 64 - data.length)
  let w := t.2.hbmPut (w.base (DLOG_BASE_LO c) (DLOG_BASE_HI c) + d.logUsed) (h.1 ++ data ++ t.1) bad
  w.setDig c { w.dig c with log := d.log ++ [r], logSeq := d.logSeq + 1 }

/-- Records appended to a core's deferred log, one for each output. -/
def Work.logPuts (w : Work) (c x : Nat) (os : List (List Put)) : Work :=
  (os.foldl (fun (v : Work) o => v.appendRec c x o) w).logUsed c

/-- Every stack that some writes lead to serves them (R326). -/
def Work.putsServe (w : Work) (ps : List Put) : Bool :=
  ps.all (fun p => decide (2 ^ 40 ≤ p.1) || w.rangeServes p.1 p.2.1.length)

/-- The outputs of an instruction, each a list of writes, happen, or go to the deferred log; then the instruction's remaining
effect. A record that cannot fit the log at all faults the context; where records not yet applied leave no room, the context
waits (R214), as it does while a stack that it writes zeroises (R326). In drain a record that cannot fit is kept without its data, so that its job's records are discarded (DEDUCED,
log 23). -/
def Work.puts (w : Work) (c x : Nat) (defer : Bool) (os : List (List Put)) (done : Work → Work) : Work :=
  if !defer then (if w.putsServe os.flatten then done (os.flatten.foldl (fun (v : Work) p => v.putAt p) w) else w)
  else
    let cap := 4096 * w.fld (DLOG_SIZE c) 0 20
    if os.any (fun o => cap < recBytes o) then
      if w.draining c x then
        let d := w.dig c
        let r : Deferred := { slot := (w.ctx c x).job.getD 0, ctx := x, seq := d.logSeq, parts := [], poison := true }
        done (w.setDig c { d with log := d.log ++ [r], logSeq := d.logSeq + 1 })
      else w.ctxFault c x 2 0
    else if cap < (w.dig c).logUsed + logBytes os then
      (w.setCtx c x { w.ctx c x with stalled := true }).when (!(w.ctx c x).stalled) (·.inc (DLOG_WAIT_CNT c))
    else if !w.rangeServes (w.base (DLOG_BASE_LO c) (DLOG_BASE_HI c) + (w.dig c).logUsed) (logBytes os) then w
    else done (w.logPuts c x os)

/-! ### The estimator table (R230 to R234) -/

/-- EST_COUNT in force (Table 6-11). -/
def Work.estCount (w : Work) (c : Nat) : Nat := min (w.fld (EST_COUNT c) 0 14) 8192

/-- The model's address of an estimator entry. -/
def Work.estAt (w : Work) (c i : Nat) : Nat := spadBase c + w.rd (EST_BASE c) + 32 * i

/-- The fields of an entry that a narrowing uses (Table 6-6). -/
structure Est where
  e : Int
  h : Nat
  valid : Bool
  obs : Int
  obsValid : Bool
  sat : Bool
  keyCore : Nat
  keyDev : Nat
  budget : Nat
  used : Nat
  share : Nat
  draw : Nat
  written : Nat
  side : Nat
  deriving DecidableEq, Repr

/-- An entry read. -/
def Work.loadEst (w : Work) (a : Nat) : Est :=
  let b := w.bytes a 32
  { e := sext 8 (leAt b 0 1), h := leAt b 1 1 % 8, valid := (leAt b 1 1).testBit 3, obs := sext 8 (leAt b 4 1),
    obsValid := (leAt b 5 1).testBit 0, sat := (leAt b 5 1).testBit 1, keyCore := leAt b 6 2 % 1024, keyDev := leAt b 8 2,
    budget := leAt b 10 2, used := leAt b 12 2, share := leAt b 14 1, draw := leAt b 16 4, written := leAt b 20 4,
    side := leAt b 24 8 }

/-- The fields that a narrowing changes, written back. -/
def Work.saveEst (w : Work) (a : Nat) (s : Est) : Work :=
  (((w.storeNum (a + 4) 1 (toTwos 8 s.obs)).storeNum (a + 5) 1
    ((if s.obsValid then 1 else 0) + (if s.sat then 2 else 0))).storeNum (a + 12) 2 s.used).store (a + 16)
      (toLE 4 s.draw ++ toLE 4 s.written)

/-- The ceiling E + H of a valid entry (R226). -/
def Est.ceil (s : Est) : Option Int := if s.valid then some (s.e + s.h) else none

/-- An observation (R231). -/
def Est.observe (s : Est) (o : Option Int) : Est :=
  match o with
  | none => s
  | some x =>
    let x := clampInt x (-128) 127
    { s with obs := if s.obsValid then max s.obs x else x, obsValid := true }

/-- The draw of an element of the entry's next block (R243). -/
def Est.drawAt (s : Est) (seq l : Nat) : Nat :=
  drawOf ((s.keyDev * 2 ^ 16 + s.keyCore * 2 ^ 5 + l) % 2 ^ 32) seq s.draw

/-- What narrowing blocks leaves: the entry, the writes in the narrowing's own addresses, and the counts. -/
structure NarrowRun where
  est : Est
  puts : List (Nat × List Byte) := []
  sat : Nat := 0
  esc : Nat := 0
  ovf : Nat := 0
  nonfin : Nat := 0
  deriving DecidableEq, Repr

/-- One block narrowed to a scaled format at its place, escaping where it must (R226, R231, R237 to R239). -/
def NarrowRun.block (r : NarrowRun) (code : Nat) (sr : Bool) (seq seg scl : Nat) (vs : List FV) : NarrowRun :=
  let e := r.est
  let draw : Option (Nat → Nat) := if sr then some (e.drawAt seq) else none
  let n := narrowBlock code vs e.ceil draw
  let live := n.scale.isSome && !(amaxOf vs).isZero
  let want := escapeFmt code && live && e.share ≠ 0 && e.budget ≠ 0 && lossy code vs e.ceil e.share
  let side := e.side + 64 * e.used
  let off : Int := (side : Int) - seg
  let fits := e.used < e.budget && decide (-(2 ^ 31 : Int) ≤ off ∧ off < 2 ^ 31)
  let m := narrowBlock 3 vs e.ceil draw
  let esc := want && fits
  let sat := n.sat || (esc && m.sat)
  let prim := if esc then toLE 4 (toTwos 32 off) ++ zeros (segBytes code - 4) else packElems code n.codes
  let e := (e.observe n.obs).observe (if esc then m.obs else none)
  { est := { e with sat := e.sat || sat, used := e.used + (if esc then 1 else 0), written := (e.written + 1) % 2 ^ 32,
                    draw := (e.draw + 1) % 2 ^ 32 }
    puts := r.puts ++ (if esc then [(side, packElems 3 m.codes ++ [m.byte] ++ zeros 31)] else []) ++
      [(seg, prim), (scl, [if esc then 0 else n.byte])]
    sat := r.sat + (if sat then 1 else 0)
    esc := r.esc + (if esc then 1 else 0)
    ovf := r.ovf + (if want && !fits then 1 else 0)
    nonfin := r.nonfin + (if n.scale.isNone then 1 else 0) }

/-- A group of 32 narrowed to FP32, BF16 or FP16 at its place (R225, R231, R243); only stochastic rounding keeps an entry. -/
def NarrowRun.plain (r : NarrowRun) (code : Nat) (sr : Bool) (seq seg : Nat) (vs : List FV) : NarrowRun :=
  let e := r.est
  let ps := (vs.zipIdx).map (fun p => narrowPlain code p.1 (if sr then some (e.drawAt seq p.2) else none))
  let sat := ps.any (·.2)
  { r with
    est := if sr then { e with sat := e.sat || sat, draw := (e.draw + 1) % 2 ^ 32, written := (e.written + 1) % 2 ^ 32 } else e
    puts := r.puts ++ [(seg, ps.flatMap (fun p => toLE ((fmtOf code).w / 8) p.1))]
    sat := r.sat + if sat then 1 else 0 }

/-- The counters of Table 6-9 advance by a narrowing, and the entry is written back. -/
def Work.narrowed (w : Work) (c : Nat) (entry : Option Nat) (r : NarrowRun) : Work :=
  let w := (((w.incBy (SAT_BLK_CNT c) r.sat).incBy (ESC_CNT c) r.esc).incBy (ESC_OVF_CNT c) r.ovf).incBy (NONFIN_BLK_CNT c) r.nonfin
  match entry with
  | some i => w.saveEst (w.estAt c i) r.est
  | none => w

/-- Whether a narrowing names its entry: a scaled format, or stochastic rounding. -/
def namesEntry (code : Nat) (sr : Bool) : Bool := scaled code || (sr && code ≠ 0)

/-- A context as the naming rule tells contexts apart: its job's slot, or its session, with its place in the core. -/
def Work.ctxId (w : Work) (c x : Nat) : Nat :=
  17 * (w.ctx c x).job.getD 0 + x

/-- The naming of an entry by a context (R233, R234): the cause of the fault it meets, 0 for none, and the state. Once one context
of a stroke orders stochastic rounding with an entry or meets its escape budget, no other may name it. -/
def Work.nameEntry (w : Work) (c x entry : Nat) (sr : Bool) : Nat × Work :=
  if w.estCount c ≤ entry || 2 ^ 21 < w.rd (EST_BASE c) + 32 * (entry + 1) then (5, w)
  else
    let o := (Sp.find (w.dig c).owners entry).getD ([], false)
    let only := o.2 || sr || (w.loadEst (w.estAt c entry)).budget ≠ 0
    let y := w.ctxId c x
    if only && o.1.any (· != y) then (1, w.setBit (GEN_STATUS c) 1)
    else (0, w.setDig c { w.dig c with owners := Sp.put (w.dig c).owners entry (insNat y o.1, only) })

/-- An entry of zeros, for a narrowing that names none. -/
def Est.none : Est := ⟨0, 0, false, 0, false, false, 0, 0, 0, 0, 0, 0, 0, 0⟩

/-! ### Operand segments (R190 to R192, R216, R240) -/

/-- A segment's 32 values, poison, and whether it was an escape. -/
structure Seg where
  vals : List FV
  poison : Bool
  esc : Bool
  deriving DecidableEq, Repr

/-- A segment read through a reader of bytes; none where a range leaves its memory or an escape pointer is bad (R240). -/
def readSeg (get : Nat → Nat → Option (List Byte × Bool)) (code seg : Nat) (scl : Option Nat) : Option Seg :=
  match get seg (segBytes code) with
  | none => none
  | some (b, p) =>
    if !scaled code then
      some { vals := (List.range 32).map (fun i => decodeElem code (packedElem code b i)), poison := p, esc := false }
    else match scl.bind (get · 1) with
      | none => none
      | some (s, q) =>
        let sb := leNat s
        if escapeFmt code && sb = 0 then
          let side := (seg : Int) + sext 32 (leAt b 0 4)
          if side < 0 || side % 64 ≠ 0 then none
          else match get side.toNat 33 with
            | none => none
            | some (d, r) =>
              some { vals := (List.range 32).map (fun i => decodeScaled 3 (leAt d i 1) (leAt d 32 1)),
                     poison := p || q || r, esc := true }
        else some { vals := (List.range 32).map (fun i => decodeScaled code (packedElem code b i) sb), poison := p || q, esc := false }

/-- An operand descriptor (Table 5-4). -/
structure Opd where
  fmt : Nat
  block : Bool
  axis : Bool
  pitch : Nat
  kstride : Nat
  soff : Int
  spitch : Nat
  skstride : Nat
  deriving DecidableEq, Repr

/-- An operand descriptor's fields. -/
def opdOf (b : List Byte) : Opd :=
  let f := leAt b 0 1
  { fmt := f % 16, block := f.testBit 4, axis := f.testBit 5, pitch := leAt b 4 4, kstride := leAt b 8 4,
    soff := sext 32 (leAt b 12 4), spitch := leAt b 16 4, skstride := leAt b 20 4 }

/-- A defined format and zero reserved fields; BLOCK layout only on a side of 32 or more (Table 5-11, check 4). -/
def opdOk (b : List Byte) (side : Nat) : Bool :=
  leAt b 0 1 % 16 < 11 && leAt b 0 1 < 64 && allZero (sub b 1 3) && allZero (sub b 24 8) &&
    (!(leAt b 0 1).testBit 4 || 32 ≤ side)

/-- The segment that stored row r of block (u, kb) or segment (i, kb) occupies, and its scale; no scale where SOFF leads below
address 0. -/
def Opd.place (o : Opd) (base i kb : Nat) : Nat × Option Nat :=
  if o.block then
    let blk := base + i / 32 * o.pitch + kb * o.kstride
    (blk + i % 32 * segBytes o.fmt, some (blk + 32 * segBytes o.fmt + i % 32))
  else
    let a := (base : Int) + o.soff + (i * o.spitch + kb * o.skstride : Nat)
    (base + i * o.pitch + kb * o.kstride, if a < 0 then none else some a.toNat)

/-- Every segment of an operand's k-block, by stored row. -/
def Opd.segs (o : Opd) (get : Nat → Nat → Option (List Byte × Bool)) (base side kb : Nat) : Option (List Seg) :=
  (List.range side).mapM (fun i => readSeg get o.fmt (o.place base i kb).1 (o.place base i kb).2)

/-- The values of an operand's k-block by side index and x: AXIS 1 reads a block down its stored columns (R190). -/
def Opd.vals (o : Opd) (ss : List Seg) : List (List FV) :=
  if o.block && o.axis then
    (List.range ss.length).map (fun i => (List.range 32).map (fun x =>
      (((ss[i / 32 * 32 + x]?).map (·.vals)).getD []).getD (i % 32) (.fin false 0 0)))
  else ss.map (·.vals)

/-! ### Jobs (R202, R209) -/

/-- A context returns to IDLE and gives up its claim. -/
def Work.freeCtx (w : Work) (c x : Nat) : Work :=
  let w := (w.setCtx c x {}).setCtxState c x 0
  if x = 16 then w
  else
    let a := x / 2
    let w := w.clrBit (MAC_STATUS c a) (7 + x % 2)
    w.when (w.ctxState c (2 * a) = 0 && w.ctxState c (2 * a + 1) = 0) (fun v => v.clrBit (MAC_STATUS c a) 0)

/-- A context ends its stream; when every context of its job has, the job is complete, and with a slot's job its slot (R202). -/
def Work.ctxEnd (w : Work) (c x : Nat) : Work :=
  let w := (w.retireInstr c x).setCtxState c x 5
  match (w.ctx c x).job with
  | none => w
  | some s =>
    match Sp.find (w.dig c).jobs s with
    | none => w
    | some j =>
      if j.ctxs.all (fun y => w.ctxState c y = 5) then
        let w := j.ctxs.foldl (fun (v : Work) y => v.freeCtx c y) w
        (w.setDig c { w.dig c with jobs := Sp.erase (w.dig c).jobs s }).when (s < 4096) (fun v => v.completeSlot c s)
      else w

/-- The contexts of a core that run a slot's job stop at once, and their jobs' deferred records are discarded (Table 5-6, R213).
Session streams depend on no slot and go on (R293). -/
def Work.stopCtxs (w : Work) (c : Nat) : Work :=
  let mine := fun (x : Nat) => (w.ctx c x).session.isNone
  let v := (List.range 17).foldl (fun (v : Work) x =>
    if v.ctxState c x = 0 || !mine x then v
    else ((v.setBit (ctxErr c x) 5).setFld (ctxErr c x) 12 16 (v.ctx c x).tag).freeCtx c x) w
  let d := v.dig c
  let jobs := ((d.log.filter (·.slot < 4096)).map (·.slot)).dedup
  (((v.setDig c { d with jobs := d.jobs.filter (fun p => decide (4096 ≤ p.1)), log := d.log.filter (fun r => decide (4096 ≤ r.slot))
                         queue := d.queue.filter (fun q => !mine (2 * q.1 + if q.2.split then q.2.half else 0))
                         kern := if mine 16 then none else d.kern, owners := [] }).incBy (DLOG_ABORT_CNT c) jobs.length).logUsed c)

/-- Contexts that a header claims: two for a split array, one for an unsplit one, and the vector unit (Table 5-9). -/
def headerCtxs (h : List Byte) : List (Nat × Nat) :=
  ((List.range 16).map (fun x => (x, leAt h (8 + 8 * (x / 2) + 4 * (x % 2)) 4))).filter (fun p => p.2 != 0) ++
    (if (leAt h 3 1).testBit 0 then [(16, leAt h 4 4)] else [])

/-- The first header check that fails (R209); 0 where none does. -/
def Work.headerCheck (w : Work) (c units : Nat) (h : List Byte) : Nat :=
  let split := leAt h 2 1
  let cs := headerCtxs h
  if 2 ≤ leAt h 3 1 || !allZero (sub h 76 4) then 1
  else if cs.any (fun p => p.1 < 16 && !units.testBit (p.1 / 2)) then 2
  else if cs.any (fun p => p.1 < 16 && p.1 % 2 = 1 && !split.testBit (p.1 / 2)) ||
      ((leAt h 3 1).testBit 0 && w.ctxState c 16 ≠ 0) then 3
  else if (cs.map (·.2) ++ [leAt h 72 4]).any (fun a => a % 32 ≠ 0 || !localOk a 32 || (localAddr c a).isNone) then 4
  else 0

/-- The halves that a job's descriptor claims are free (R198). The vector unit is no half: a job that claims it while another job
does fails its header check (R209). -/
def Work.halvesFree (w : Work) (c : Nat) (h : List Byte) : Bool :=
  let split := leAt h 2 1
  (headerCtxs h).all (fun p =>
    if p.1 = 16 then true
    else if split.testBit (p.1 / 2) then
      w.ctxState c p.1 = 0 && (w.ctxState c (2 * (p.1 / 2)) = 0 || w.flag (MAC_STATUS c (p.1 / 2)) 0)
    else w.ctxState c (2 * (p.1 / 2)) = 0 && w.ctxState c (2 * (p.1 / 2) + 1) = 0)

/-- A job of a slot or of a session claims its contexts, which run their streams (R202); MAC_STATUS shows the halves that a session
has (Table 5-14). -/
def Work.startJob (w : Work) (c : Nat) (slot session : Option Nat) (h : List Byte) : Work :=
  let split := leAt h 2 1
  let cs := headerCtxs h
  let w := cs.foldl (fun (v : Work) p =>
    let sp := p.1 < 16 && split.testBit (p.1 / 2)
    let v := v.setCtx c p.1 { slot := slot, session := session, tag := leAt h 0 2, split := sp, opdBase := leAt h 72 4, pc := p.2 }
    let v := if p.1 < 16 then v.bitTo (MAC_STATUS c (p.1 / 2)) 0 sp else v
    let v := if p.1 < 16 && session.isSome then v.setBit (MAC_STATUS c (p.1 / 2)) (7 + p.1 % 2) else v
    (v.setCtxState c p.1 1).progress (2000 + 17 * c + p.1)) w
  let key := match session with | some n => 4096 + n | none => slot.getD 0
  w.setDig c { w.dig c with jobs := Sp.put (w.dig c).jobs key { ctxs := cs.map (·.1) } }

/-- The launch of a digital job slot (R202, R208, R209). -/
def Work.launchJob (w : Work) (c s : Nat) (sl : Slot) : Work :=
  let bad := fun (v : Work) (cause : Nat) => ((v.setBit (DJ_ERR c) 0).setFld (DJ_ERR c) 8 4 cause).programFault c cause s
  match w.descriptor c sl.desc 80 64 with
  | none => bad w 4
  | some h =>
    let e := w.headerCheck c (sl.units % 256) h
    if e ≠ 0 then bad w e
    else
      let w := w.startJob c (some s) none h
      w.when (headerCtxs h).isEmpty (fun v => (v.setDig c { v.dig c with jobs := Sp.erase (v.dig c).jobs s }).completeSlot c s)

/-- The deferred records of a core at a finish (R212, R213): by slot, then context, then stream order; a job with a
poisoned record loses all of its records. Answers the poisoned slots beside the state. -/
def Work.applyLog (w : Work) (c : Nat) : List Nat × Work :=
  let d := w.dig c
  let bad := ((d.log.filter (·.poison)).map (·.slot)).dedup
  let good := (d.log.filter (fun r => !bad.contains r.slot)).mergeSort
    (fun a b => a.slot < b.slot || (a.slot == b.slot && (a.ctx < b.ctx || (a.ctx == b.ctx && a.seq ≤ b.seq))))
  let w := (good.flatMap (·.parts)).foldl (fun (v : Work) p => v.putAt (p.1, p.2, false)) w
  let w := (w.setDig c { d with log := [], logSeq := 0, owners := [] }).logUsed c
  (bad, (w.incBy (DLOG_ABORT_CNT c) bad.length).when (!bad.isEmpty) (·.setBit (DJ_ERR c) 1))

/-- An estimate and its decay run after an observation, which makes it valid (R232). -/
def estNext (valid : Bool) (e o : Int) (decay run : Nat) : Int × Nat :=
  if !valid then (o, 0)
  else if e < o then (o, 0)
  else if o < e then (if decay ≤ run + 1 then (max (e - 1) (-128), 0) else (e, run + 1))
  else (e, 0)

/-- The estimator entries of a core at a finish (R232). -/
def Work.updateEsts (w : Work) (c : Nat) : Work :=
  (List.range (w.estCount c)).foldl (fun (v : Work) i =>
    let a := v.estAt c i
    if 2 ^ 21 < v.rd (EST_BASE c) + 32 * (i + 1) then v
    else
      let b := v.bytes a 32
      let e := sext 8 (leAt b 0 1)
      let o := sext 8 (leAt b 4 1)
      let decay := max 1 (leAt b 2 1)
      let run := leAt b 3 1
      let v :=
        if !(leAt b 5 1).testBit 0 then v
        else
          let r := estNext ((leAt b 1 1).testBit 3) e o decay run
          let v := (v.storeNum a 1 (toTwos 8 r.1)).storeNum (a + 3) 1 r.2
          let v := v.storeNum (a + 1) 1 (putBits (leAt b 1 1) 3 1 1)
          v.storeNum (a + 5) 1 0
      v.store (a + 16) (zeros 8)) w

/-- An aborted stroke's observations are discarded, and DRAW and WRITTEN return to 0 (R232). -/
def Work.dropEsts (w : Work) (c : Nat) : Work :=
  (List.range (w.estCount c)).foldl (fun (v : Work) i =>
    if 2 ^ 21 < v.rd (EST_BASE c) + 32 * (i + 1) then v
    else (v.storeNum (v.estAt c i + 5) 1 0).store (v.estAt c i + 16) (zeros 8)) w

end Sys2Proof.Machine
end

