-- ==== Sys2Proof/Machine/Tile.lean ====
section
/-! DEFINITION. Machine/Tile.lean: what products, units and calibration of a tile share: the deck map, starts under a cap, holds
and gaps, coefficients, levels of cells, wear and stale rows (R59 to R70, R84, R96, R102, R119 to R126, R142, R145, R475). -/

namespace Sys2Proof.Machine

/-! ### Decks (R68, R69) -/

/-- Physical deck of a logical deck. -/
def Work.phys (w : Work) (c t k : Nat) : Nat := w.fld (DECK_MAP c t) (3 * k) 3

/-- State of a physical deck: 0 in service, 1 spare, 2 retired (Table 2-14). -/
def Work.deckState (w : Work) (c t p : Nat) : Nat := w.fld (DECK_STATE c t) (2 * p) 2

/-- The configured spare count, 2 at most (R2, R3). -/
def Work.spareCount (w : Work) : Nat := min 2 w.start.spares

/-- A logical deck is in use (R69): 0 to 7 − s. -/
def Work.deckUsed (w : Work) (k : Nat) : Bool := k + w.spareCount < 8

/-- The logical deck that a physical deck serves, if any. -/
def Work.logical (w : Work) (c t p : Nat) : Option Nat :=
  (List.range 8).find? (fun k => w.deckUsed k && w.phys c t k == p && w.deckState c t p == 0)

/-- e of R63 of a logical deck: 11 to 15 are taken as 10. -/
def Work.csdiv (w : Work) (c t k : Nat) : Nat := min 10 (bits (w.live (DECK_CFG c t k)) 4 4)

/-- OSCALE of a column group in force. -/
def Work.oscale (w : Work) (c t k g : Nat) : Nat := w.live (OSCALE c t (32 * k + g)) % 65536

/-! ### Starts, holds and gaps (R84, R102, R142, R475) -/

/-- A write or calibration holds the tile (R102). -/
def Work.held (w : Work) (c t : Nat) : Bool := w.flag (TILE_STATUS c t) 2

/-- The cap of a tile's starts: the lesser of its die's tiles and analogue periphery domains (R475). -/
def Work.tileCap (w : Work) (c : Nat) : Nat :=
  min (w.fld (PD_STATUS (4 * (c / 64))) 8 4) (w.fld (PD_STATUS (4 * (c / 64) + 3)) 8 4)

/-- The earliest time from `from_` at which the cap allows a start: fewer than c starts lie in the 2,048 ns before it. -/
def Work.capTime (w : Work) (c t from_ : Nat) : Option Nat :=
  let cap := w.tileCap c
  if cap = 0 then none
  else match (w.tile c t).starts[cap - 1]? with
    | some s => some (max from_ (s + 2048))
    | none => some from_

/-- A start at a time is remembered for the cap. -/
def Work.started (w : Work) (c t at_ : Nat) : Work :=
  let v := w.tile c t
  w.setTile c t { v with starts := (at_ :: v.starts).take 8 }

/-- The time that a change of the selected deck takes (R67). -/
def Work.deckChange (w : Work) (c t p : Nat) : Nat := if w.fld (TILE_STATUS c t) 3 3 = p then 0 else 40

/-- Time at which a training drive on a physical deck may start: the row array free, 40 ns more for a change of deck (R67, R84). The
forward engine knows its next entry, so the change starts as soon as the row array is free. -/
def Work.driveTime (w : Work) (c t p : Nat) : Nat := max w.now ((w.tile c t).freeFrom + w.deckChange c t p)

/-- Time at which a session drive on a physical deck may start: a change of deck starts only now, when the product is at the head of
the queue and the row array is free (R67). -/
def Work.sessDriveTime (w : Work) (c t p : Nat) : Nat := max w.now (w.tile c t).freeFrom + w.deckChange c t p

/-- A physical deck is selected (R66). -/
def Work.selectDeck (w : Work) (c t p : Nat) : Work := w.setFld (TILE_STATUS c t) 3 3 p

/-- BUSY follows the products in the tile (Table 2-10). -/
def Work.busyBit (w : Work) (c t : Nat) : Work := w.bitTo (TILE_STATUS c t) 0 (!(w.tile c t).flight.isEmpty)

/-! ### Coefficients (R77, R96, R150) -/

/-- Offset of a column in quarter steps, 0 at reset. -/
def Tile.offOf (v : Tile) (j : Nat) : Int := Sp.get v.off 0 j

/-- Gain of a column, 32,768 at reset. -/
def Tile.gainOf (v : Tile) (j : Nat) : Nat := Sp.get v.gain 32768 j

/-- SIDE_OFF and SIDE_GAIN. -/
def Work.sideOff (w : Work) (c t : Nat) : Int := sext 10 (w.fld (SIDE_COEF c t) 0 10)
def Work.sideGain (w : Work) (c t : Nat) : Nat := w.fld (SIDE_COEF c t) 16 16

/-- Drift gain of a physical deck. -/
def Work.drift (w : Work) (c t p : Nat) : Nat := w.fld (DRIFT_GAIN c t p) 0 16

/-- The recalibration threshold in 1/16 °C (R160). -/
def Work.tempThresh (w : Work) (c t : Nat) : Nat := 16 * orDefault (w.live (CAL_CTL c t) % 16) 1

/-- |TILE_TEMP − CAL_TEMP_REF| has reached the threshold (R160). -/
def Work.tempMoved (w : Work) (c t : Nat) : Bool :=
  w.tempThresh c t ≤ (sext 12 (w.rd (TILE_TEMP c t)) - sext 12 (w.rd (CAL_TEMP_REF c t))).natAbs

/-- A physical deck's coefficients are valid (R96). -/
def Work.coefValid (w : Work) (c t p : Nat) : Bool :=
  let v := w.tile c t
  v.colMeasured && v.driftMeasured.contains p && !w.flag (CAL_DUE c t) (16 + p) && !w.tempMoved c t &&
    !w.flag (CAL_STATUS c t) 1 && w.fld (CAL_STATUS c t) 8 8 == 0

/-- The coefficients that a product on a physical deck starts with (R152). -/
def Work.coefsOf (w : Work) (c t p : Nat) : Coefs :=
  let v := w.tile c t
  { off := v.off, gain := v.gain, sideOff := w.sideOff c t, sideGain := w.sideGain c t, drift := w.drift c t p,
    valid := w.coefValid c t p }

/-- Offset and gain of a column that a product is corrected with. -/
def Coefs.offOf (v : Coefs) (j : Nat) : Int := Sp.get v.off 0 j
def Coefs.gainOf (v : Coefs) (j : Nat) : Nat := Sp.get v.gain 32768 j

/-! ### Levels and cells (R59 to R63) -/

/-- Level of reference column REFk (R62). -/
def refLevel (k : Nat) : Int := if k < 8 then 2 * (k : Int) + 1 else -(2 * (k : Int) - 15)

/-- The levels of the 16 reference columns (R62). -/
def refLevels : List Int := (List.range 16).map refLevel

/-- A row as manufactured: weights and checksum at level 0 (notes/assumptions/14.md), the references at theirs (R62). -/
def blankRow : List Int := List.replicate 1025 0 ++ refLevels

/-- A level held to the range of a position (R59). -/
def heldLevel (l : Int) : Int := clampInt l (-15) 15

/-- The key of a row of cells. -/
def cellKey (c t p row : Nat) : Nat := ((16 * c + t) * 8 + p) * 1024 + row

/-- Levels of a row's 1,041 positions; rows never written are as manufactured. -/
def Work.cellRow (w : Work) (c t p row : Nat) : List Int := Sp.get w.cells blankRow (cellKey c t p row)

/-- A row's levels bound anew, each within the range of a position (R59). -/
def Work.setCells (w : Work) (c t p row : Nat) (ls : List Int) : Work :=
  { w with cells := Sp.put w.cells (cellKey c t p row) (ls.map heldLevel) }

/-- The CSUM level of a row of weight levels (R63). -/
def csumLevel (e : Nat) (ls : List Int) : Int := clampInt (roundHalfEven (ls.take 1024).sum (2 ^ e)) (-15) 15

/-- The pulses of a change of level (Table 3-2): whether a RESET is needed, and the partial-SET slots. -/
def pulses (l t : Int) : Bool × Nat :=
  if l = t then (false, 0)
  else if l = 0 then (false, t.natAbs)
  else if 0 < l * t && l.natAbs < t.natAbs then (false, t.natAbs - l.natAbs)
  else (true, t.natAbs)

/-- The wear of one phase over pairs of level and target: whether a RESET is delivered, and the highest slot used (R145). -/
def phaseWear (ps : List (Int × Int)) : Nat × Nat :=
  ps.foldl (fun a p => let q := pulses p.1 p.2; (if q.1 then 1 else a.1, max a.2 q.2)) (0, 0)

/-- A signed level as a byte. -/
def levelByte (l : Int) : Byte := BitVec.ofNat 8 (toTwos 8 l)

/-- A byte as a signed level. -/
def byteLevel (b : Byte) : Int := sext 8 b.toNat

/-! ### Wear (R145) -/

/-- The wear entry of a physical row of a core. -/
def Work.wearAt (w : Work) (c t p row : Nat) : Nat := w.base (WEAR_BASE_LO c) (WEAR_BASE_HI c) + ((t * 8 + p) * 1024 + row) * 16

/-- A unit's wear is added to its row, and the deck's largest entries follow. -/
def Work.addWear (w : Work) (c t p row resets sets : Nat) (csum : Int) : Work :=
  let a := w.wearAt c t p row
  let r := min (w.num a 4 + resets) 0xFFFFFFFF
  let q := min (w.num (a + 4) 4 + sets) 0xFFFFFFFF
  let w := ((w.storeNum a 4 r).storeNum (a + 4) 4 q).store (a + 8) [levelByte csum]
  (w.wr (DECK_WEAR_RESET c t p) (max (w.rd (DECK_WEAR_RESET c t p)) r)).wr (DECK_WEAR_SET c t p)
    (max (w.rd (DECK_WEAR_SET c t p)) q)

/-! ### Stale rows (R123, R124) -/

/-- PGM_STATUS shows the stale list (Table 3-14). -/
def Work.showStale (w : Work) (c t : Nat) : Work :=
  let v := w.tile c t
  ((w.bitTo (PGM_STATUS c t) 2 (!v.stale.isEmpty || !v.staleAll.isEmpty)).setFld (PGM_STATUS c t) 16 5 v.stale.length).setFld
    (PGM_STATUS c t) 8 8 (v.staleAll.foldl (fun m p => m ||| 2 ^ p.1) 0)

/-- A row becomes stale; a list of 16 that would overflow makes its whole deck stale (R124). -/
def Work.addStale (w : Work) (c t k row : Nat) : Work :=
  let v := w.tile c t
  if v.stale.contains (k, row) then w
  else if v.stale.length < 16 then (w.setTile c t { v with stale := v.stale ++ [(k, row)] }).showStale c t
  else ((w.setTile c t { v with staleAll := Sp.put v.staleAll k 0 }).setBit (PGM_STATUS c t) 3).showStale c t

/-- A logical deck has a stale row, so its products are not checked (R123). -/
def Tile.staleDeck (v : Tile) (k : Nat) : Bool := v.stale.any (·.1 == k) || v.staleAll.any (·.1 == k)

/-! ### Units (R120, R126, R142, R154) -/

/-- Earliest start of a unit: the row array free, the last unit ended, the cap observed; none while a unit runs or the cap
is 0. -/
def Work.unitTime (w : Work) (c t from_ : Nat) : Option Nat :=
  let v := w.tile c t
  if v.unit.isSome then none else w.capTime c t (max (max w.now from_) (max v.freeFrom v.unitEnd))

/-- A unit starts: it holds the tile (R142, R154), and every session product in the queue waits for it (R143). -/
def Work.unitGo (w : Work) (c t at_ : Nat) (u : TileUnit) (cal : Bool) : Work :=
  let w := (w.till at_).started c t at_
  let v := w.tile c t
  let w := w.setTile c t { v with unit := some { u with start := at_, beat := w.beatCnt }, unitEnd := at_ + 10000,
                                  freeFrom := at_ + 8000, queue := v.queue.map (fun q => { q with waited := true }) }
  let w := w.setBit (TILE_STATUS c t) 2
  let w := if cal then w.setBit (CAL_STATUS c t) 0 else w.setBit (PGM_STATUS c t) 0
  match u.kind with
  | .colOff | .colGain => w
  | _ => w.selectDeck c t u.phys

/-- The hold of a unit ends (R142, R154). -/
def Work.releaseHold (w : Work) (c t : Nat) : Work :=
  ((w.clrBit (TILE_STATUS c t) 2).clrBit (PGM_STATUS c t) 0).clrBit (CAL_STATUS c t) 0

/-- After an abort, a tile with rows left to undo keeps its write hold (R138). -/
def Work.undoHeld (w : Work) (c t : Nat) : Bool :=
  (w.commit c).parts.any (fun q => q.2.state == 3 && q.2.foldDue && q.2.undo.any (fun r => r.tile == t))

/-- Between the units of an undo, the hold is that of R138; session products in the queue wait for it (R143). -/
def Work.showUndoHold (w : Work) (c t : Nat) : Work :=
  let v := w.tile c t
  if v.unit.isSome then w
  else if w.undoHeld c t then
    (w.setTile c t { v with queue := v.queue.map (fun q => { q with waited := true }) }).setBit (TILE_STATUS c t) 2
  else w.clrBit (TILE_STATUS c t) 2

/-- A unit ends: the tile is free of it. -/
def Work.unitOver (w : Work) (c t : Nat) : Work :=
  ((w.setTile c t { w.tile c t with unit := none }).releaseHold c t).showUndoHold c t

/-! ### When drift falls due (R161) -/

/-- A physical deck may fall due: in service, or a retirement target in DRIFT state (R161). -/
def Work.driftable (w : Work) (c t p : Nat) : Bool :=
  w.deckState c t p == 0 || (w.fld (RETIRE_STATUS c t) 8 2 == 2 && w.fld (RETIRE_STATUS c t) 4 3 == p)

/-- Every deck that may fall due does (R161). -/
def Work.driftAllDue (w : Work) (c t : Nat) : Work :=
  (List.range 8).foldl (fun (v : Work) p => v.when (v.driftable c t p) (·.setBit (CAL_DUE c t) (8 + p))) w

/-! ### Supplies (R126) -/

/-- CMT_STATUS.SUPPLIES follows the supplies in use. -/
def Work.showSupplies (w : Work) (c : Nat) : Work := w.setFld (CMT_STATUS c) 16 2 (w.commit c).supplies.length

/-- A supply is free or the tile has one. -/
def Work.supplyFor (w : Work) (c t : Nat) : Bool :=
  (w.commit c).supplies.any (·.1 == t) || (w.commit c).supplies.length < 3

/-- A tile takes a supply. -/
def Work.takeSupply (w : Work) (c t : Nat) (slot : Bool) : Work :=
  if (w.commit c).supplies.any (·.1 == t) then w
  else (w.setCommit c { w.commit c with supplies := (w.commit c).supplies ++ [(t, slot)] }).showSupplies c

/-- A tile gives its supply up. -/
def Work.dropSupply (w : Work) (c t : Nat) : Work :=
  (w.setCommit c { w.commit c with supplies := (w.commit c).supplies.filter (·.1 != t) }).showSupplies c

/-- The end of the recovery time in which autonomous units of a tile may run: the beat edge of the ready offset Y (R125);
none outside free recovery time. -/
def Work.freeRecovery (w : Work) (c t : Nat) : Option Nat :=
  match (w.cox c).prog with
  | none => none
  | some p =>
    let q := w.coxOffset c
    if [2, 3, 4].contains (w.coxState c) && p.driveEnd + 1 ≤ q && q ≤ p.len - 2 && (w.claimedBy c t).isNone && !w.held c t then
      some (w.edgeNs (beatAdd w.stroke.catchAt p.ready))
    else none

end Sys2Proof.Machine
end

