-- ==== Sys2Proof/Machine/Commit.lean ====
section
/-! DEFINITION. Machine/Commit.lean: commit groups: the transfer rule, the descriptor of a weight transfer and its launch,
the journal, staging records, the decision of a group, rollback and fold (R109 to R118, R128 to R141). -/

namespace Sys2Proof.Machine

/-! ### The transfer rule (R109, R110, R112, R115) -/

/-- The level scale OSCALE × 2^(PEXP − 14) (Table 3-1). -/
def levelScale (oscale : Nat) (pexp : Int) : FV := .fin false oscale (pexp - 14)

/-- fl32(w − L × s) (R110). -/
def residual (master : Word) (l : Int) (s : FV) : Word :=
  ((f32 master).add ((FV.fin (decide (l < 0)) l.natAbs 0).mul s).negate).toF32

/-- floor(m × 2^d / o). -/
def scaledDiv (m : Nat) (d : Int) (o : Nat) : Nat := if 0 ≤ d then m * 2 ^ d.toNat / o else m / (o * 2 ^ (-d).toNat)

/-- The target level of a position and whether it was clamped (R115); thresh in sixteenths. -/
def target (r : Word) (l : Int) (oscale : Nat) (pexp : Int) (thresh : Nat) : Int × Bool :=
  match f32 r with
  | .fin s m e =>
    let d := e - (pexp - 14)
    if oscale = 0 || scaledDiv (16 * m) d oscale < thresh then (l, false)
    else
      let k : Int := scaledDiv m d oscale
      let x := if s then l - k else l + k
      (clampInt x (-15) 15, x < -15 || 15 < x)
  | _ => (l, false)

/-- Levels as bytes of a level map row. -/
def levelsOf (b : List Byte) : List Int := b.map byteLevel

/-- A row's recorded levels, targets, clamps, and whether a byte it reads is poisoned (R115, R132, R134). -/
structure RowPlan where
  old : List Int
  target : List Int
  rails : Nat
  poison : Bool
  deriving DecidableEq, Repr

/-- The plan of a row of a transfer entry. -/
def Work.rowPlan (w : Work) (c : Nat) (e : XferEntry) (row : Nat) (pexp : Int) (thresh : Nat) : RowPlan × Work :=
  let l := w.hbmGet (e.level + 1024 * row) 1024
  let r := l.2.2.hbmGet (e.resid + 4096 * row) 4096
  let m := r.2.2.hbmGet (e.master + 4096 * row) 4096
  let old := levelsOf l.1
  let ts := (old.zipIdx).map (fun p =>
    target (BitVec.ofNat 32 (leAt r.1 (4 * p.2) 4)) p.1 (w.oscale c e.tile e.deck (p.2 / 32)) pexp thresh)
  ({ old := old, target := ts.map (·.1), rails := (ts.filter (·.2)).length, poison := l.2.1 || r.2.1 || m.2.1 }, m.2.2)

/-! ### The journal (R141) -/

/-- Parts of a core's journal. -/
def Work.parts (w : Work) (c : Nat) : Sp Part := (w.commit c).parts

/-- The model's address of a journal entry. -/
def Work.jrnlAt (w : Work) (c j : Nat) : Nat := spadBase c + bits (w.rd (CMT_CTL c)) 6 15 * 64 + 32 * j

/-- HBM address of a staging record. -/
def Work.stageAt (w : Work) (c i : Nat) : Nat := w.base (STAGE_BASE_LO c) (STAGE_BASE_HI c) + 2112 * i

/-- A journal entry written from its part (Table 3-10). STAGE of an entry that holds no staging record yet is 0 (DESIGN CHOICE,
log 115). -/
def Work.writeJrnl (w : Work) (c j : Nat) (p : Part) : Work :=
  w.store (w.jrnlAt c j)
    (toLE 2 p.group ++ toLE 1 p.state ++ toLE 1 p.band ++ toLE 4 p.step ++ toLE 2 p.staged.length ++ zeros 2 ++
      toLE 8 w.stroke.catchAt ++ zeros 4 ++ toLE 8 (match p.staged with | r :: _ => w.stageAt c r.idx | [] => 0))

/-- CMT_STATUS.OPEN follows the journal. -/
def Work.showOpen (w : Work) (c : Nat) : Work := w.setFld (CMT_STATUS c) 0 7 (w.parts c).length

/-- A part bound anew, with its journal entry. -/
def Work.setPart (w : Work) (c j : Nat) (p : Part) : Work :=
  ((w.setCommit c { w.commit c with parts := Sp.put (w.parts c) j p }).writeJrnl c j p).showOpen c

/-- A part's journal entry returns to FREE and its staging records are freed (R133, Table 3-9). -/
def Work.freePart (w : Work) (c j : Nat) (p : Part) : Work :=
  let idxs := p.staged.map (·.idx)
  ((w.setCommit c { w.commit c with parts := Sp.erase (w.parts c) j,
                                    staging := (w.commit c).staging.filter (fun i => !idxs.contains i) }).storeNum
    (w.jrnlAt c j + 2) 1 0).showOpen c

/-- Every part of the device: core, journal entry, part. -/
def Work.allParts (w : Work) : List (Nat × Nat × Part) :=
  w.commits.flatMap (fun q => q.2.parts.map (fun p => (q.1, p.1, p.2)))

/-- The tile that runs a unit of a part. -/
def Work.partUnit (w : Work) (c j : Nat) : Bool :=
  (List.range 16).any (fun t => match (w.tile c t).unit with
    | some u => u.kind == .row j || u.kind == .undo j
    | none => false)

/-- Free staging records, those that running units will fill apart (R131). -/
def Work.stageFree (w : Work) (c : Nat) : Bool :=
  let running := (List.range 16).filter (fun t => match (w.tile c t).unit with
    | some u => (match u.kind with | .row _ => true | .copy => true | _ => false)
    | none => false)
  (w.commit c).staging.length + running.length < 4096

/-- The lowest free staging record. -/
def Work.stageNext (w : Work) (c : Nat) : Nat :=
  (((List.range 4096).find? (fun i => !(w.commit c).staging.contains i))).getD 0

/-- A staging record written and taken (Table 3-8). -/
def Work.stage (w : Work) (c idx t k ph row flags : Nat) (old new : List Int) : Work :=
  let b := toLE 4 (t + 16 * k + 256 * ph + 65536 * row) ++ toLE 1 flags ++ zeros 11 ++ (old.take 1024).map levelByte ++
    (new.take 1024).map levelByte ++ zeros 48
  (w.setCommit c { w.commit c with staging := insNat idx (w.commit c).staging }).hbmPut (w.stageAt c idx) b false

/-- OLD and NEW of a staging record. -/
def Work.staged (w : Work) (c idx : Nat) : List Int × List Int :=
  (levelsOf (w.bytes (w.stageAt c idx + 16) 1024), levelsOf (w.bytes (w.stageAt c idx + 1040) 1024))

/-- Positions of levels with new ones in their place. -/
def overlay (ms : List (Nat × Int)) (ls : List Int) : List Int :=
  (ls.zipIdx).map (fun p => ((ms.find? (fun f => f.1 == p.2)).map (·.2)).getD p.1)

/-- The positions at which levels differ from others, with the others' levels. -/
def changed (old new : List Int) : List (Nat × Int) :=
  ((old.zip new).zipIdx).filterMap (fun q => if q.1.1 = q.1.2 then none else some (q.2, q.1.2))

/-- The staged row of a part not folded yet that stands for a row of a logical deck: its journal entry, its part and its staging
record (R133). -/
def Work.stagedRow (w : Work) (c t k row : Nat) : Option (Nat × Part × Staged) :=
  (w.parts c).findSome? (fun q =>
    if q.2.state = 5 || q.2.state = 0 then none
    else ((q.2.staged.filter (fun r => r.tile == t && r.ldeck == k && r.row == row)).getLast?).map (fun r => (q.1, q.2, r)))

/-- The staged row of a part has been undone. -/
def Part.undid (p : Part) (r : Staged) : Bool := (p.state == 3 || p.state == 4) && !p.undo.contains r

/-- The levels of a staged row as last verified: NEW, or OLD once it is undone, but for positions that failed the undo (R110,
R133, R136). -/
def Work.stagedLevels (w : Work) (c : Nat) (p : Part) (r : Staged) : List Int :=
  let on := w.staged c r.idx
  if p.undid r then overlay ((Sp.find p.undoFailed r.idx).getD []) on.1 else on.2

/-! ### The fold (R139, R140, R147) -/

/-- The transfer entry that a deck's map stands for. -/
def DeckMap.entry (m : DeckMap) (t k : Nat) : XferEntry :=
  { tile := t, deck := k, rowFirst := 0, rowCount := 1024, master := m.master, level := m.level, resid := m.resid }

/-- Rows copied for a retirement whose source row a fold changed are unclean again; a finished copy resumes (Table 3-11). -/
def Work.uncleanRow (w : Work) (c t ph row : Nat) : Work :=
  let st := w.fld (RETIRE_STATUS c t) 8 2
  if st = 0 || w.fld (RETIRE_STATUS c t) 0 3 ≠ ph || !(w.tile c t).clean.contains row then w
  else
    let v := w.tile c t
    let clean := v.clean.filter (· != row)
    ((w.setTile c t { v with clean := clean }).setFld (RETIRE_STATUS c t) 16 11 clean.length).setFld (RETIRE_STATUS c t) 8 2 1

/-- Positions of a row take new recorded levels: the level map, and the residual of each from the master as it stands. Until
the fold is complete, a read of the row waits (R140). -/
def Work.foldRow (w : Work) (c : Nat) (e : XferEntry) (pexp : Int) (row : Nat) (new : List (Nat × Int)) : Work :=
  let la := e.level + 1024 * row
  let ra := e.resid + 4096 * row
  let w := new.foldl (fun (v : Work) p =>
    let s := levelScale (v.oscale c e.tile e.deck (p.1 / 32)) pexp
    (v.store (la + p.1) [levelByte p.2]).storeNum (ra + 4 * p.1) 4
      (residual (v.word (e.master + 4096 * row + 4 * p.1)) p.2 s).toNat) w
  { w with unfolded := w.unfolded ++ [(c, la, 1024), (c, ra, 4096)] }

/-- The entry of a part that covers a staged row. -/
def Part.entryOf (p : Part) (r : Staged) : Option XferEntry :=
  p.entries.find? (fun e => e.tile == r.tile && e.deck == r.ldeck && e.rowFirst ≤ r.row && r.row < e.rowFirst + e.rowCount)

/-- The fold of a committed part: every position of a staged row whose level changed (R139). -/
def Work.foldCommitted (w : Work) (c : Nat) (p : Part) : Work :=
  p.staged.foldl (fun (v : Work) r =>
    match p.entryOf r with
    | none => v
    | some e =>
      let on := v.staged c r.idx
      (v.foldRow c e p.pexp r.row (changed on.1 on.2)).uncleanRow c r.tile r.phys r.row) w

/-- The fold of a rolled-back part: only the positions whose undo failed (R136). -/
def Work.foldUndone (w : Work) (c : Nat) (p : Part) : Work :=
  p.staged.foldl (fun (v : Work) r =>
    match p.entryOf r, Sp.find p.undoFailed r.idx with
    | some e, some ms => (v.foldRow c e p.pexp r.row ms).uncleanRow c r.tile r.phys r.row
    | _, _ => v) w

/-- Positions that failed a refresh since the last finish take their measured levels (R110, R122; log 122). -/
def Work.foldMissed (w : Work) : Work :=
  w.tiles.foldl (fun (v : Work) q =>
    let c := q.1 / 16
    let t := q.1 % 16
    let v := q.2.missed.foldl (fun (u : Work) m =>
      match Sp.find q.2.maps m.1 with
      | some d => (u.foldRow c (d.entry t m.1) d.pexp m.2.1 m.2.2).uncleanRow c t (u.phys c t m.1) m.2.1
      | none => u) v
    if q.2.missed.isEmpty then v else v.setTile c t { v.tile c t with missed := [] }) w

/-- A part's fold begins (Table 3-9). -/
def Work.foldGo (w : Work) (c j : Nat) (p : Part) : Work :=
  (if p.state = 5 then w.foldCommitted c p else w.foldUndone c p).setPart c j { p with foldDue := true }

/-- The commit point of a finish (R139, Table 3-9): written groups are COMMITTED and fold; rolled-back parts fold their undo
failures. -/
def Work.commitPoint (w : Work) : Work :=
  w.allParts.foldl (fun (v : Work) q =>
    let p := q.2.2
    if p.state = 2 then v.foldGo q.1 q.2.1 { p with state := 5 }
    else if p.state = 4 && !p.foldDue then v.foldGo q.1 q.2.1 p
    else v) w.foldMissed

/-- The folds of a core are complete (R140): the band's step, the counters, and the entries return to FREE. -/
def Work.foldsDone (w : Work) (c : Nat) : Work :=
  let w := (w.parts c).foldl (fun (v : Work) q =>
    let p := q.2
    if !p.foldDue then v
    else if p.state = 5 then
      ((v.storeNum (p.layerRec + 8 + 4 * p.band) 4 p.step).inc (CMT_COMMIT_CNT c)).freePart c q.1 p
    else if p.state = 4 then
      let ts := (p.entries.map (·.tile)).dedup
      ((ts.foldl (fun (u : Work) t => u.inc (ROLLBACK_CNT c t)) v).inc (CMT_ROLLBACK_CNT c)).freePart c q.1 p
    else v) w
  { w with unfolded := w.unfolded.filter (fun u => u.1 != c) }

/-! ### The decision of a group (R134 to R138) -/

/-- A slot of a cox that still runs completes. -/
def Work.finishSlot (w : Work) (c s : Nat) : Work := if (w.cox c).running s then w.completeSlot c s else w

/-- A part has written every row it is to write. -/
def Work.partDone (w : Work) (c j : Nat) (p : Part) : Bool := p.todo.isEmpty && !w.partUnit c j

/-- A group whose every part reports done is WRITTEN, and its slots complete (R135). -/
def Work.tryWritten (w : Work) (g : Nat) : Work :=
  let ps := w.allParts.filter (fun q => q.2.2.group == g && q.2.2.state == 1)
  let n := match ps.head? with | some q => q.2.2.parts | none => 0
  if n = 0 || ps.length ≠ n || !ps.all (fun q => w.partDone q.1 q.2.1 q.2.2) then w
  else ps.foldl (fun (v : Work) q => (v.setPart q.1 q.2.1 { q.2.2 with state := 2 }).finishSlot q.1 q.2.2.slot) w

/-- A part in rollback has undone its rows. -/
def Work.undone (w : Work) (c j : Nat) (p : Part) : Bool := p.state == 3 && p.undo.isEmpty && !w.partUnit c j

/-- Parts in rollback that have undone their rows complete their slots; a group whose every part has is ROLLED_BACK, and
folds at once after an abort (R135, Table 3-9). -/
def Work.settle (w : Work) (g : Nat) : Work :=
  let ps := w.allParts.filter (fun q => q.2.2.group == g && q.2.2.state == 3)
  let w := ps.foldl (fun (v : Work) q => if v.undone q.1 q.2.1 q.2.2 then v.finishSlot q.1 q.2.2.slot else v) w
  if !ps.all (fun q => w.undone q.1 q.2.1 q.2.2) then w
  else ps.foldl (fun (v : Work) q =>
    let p := { q.2.2 with state := 4 }
    if p.foldDue then v.foldGo q.1 q.2.1 p else v.setPart q.1 q.2.1 p) w

/-- A group rolls back (R135, R136): each part ends its current unit, then undoes its rows, last staged first; by an abort its
fold follows at once. A part that launches after the decision rolls back too (R135). -/
def Work.rollbackGroup (w : Work) (g : Nat) (abort : Bool) : Work :=
  let w := { w with stroke := { w.stroke with rolled := insNat g w.stroke.rolled } }
  let w := w.allParts.foldl (fun (v : Work) q =>
    let p := q.2.2
    if p.group == g && (p.state = 1 || p.state = 2) then
      v.setPart q.1 q.2.1 { p with state := 3, todo := [], undo := p.staged.reverse, decided := w.beatFull, foldDue := abort }
    else v) w
  w.settle g

/-- An abort rolls back every group not yet committed of a set of cores, and folds what was rolled back before (Table 3-9). -/
def Work.abortCommits (w : Work) (cores : List Nat) : Work :=
  let w := w.allParts.foldl (fun (v : Work) q =>
    let p := q.2.2
    if !cores.contains q.1 then v
    else if p.state = 4 && !p.foldDue then v.foldGo q.1 q.2.1 p
    else if p.state = 3 then v.setPart q.1 q.2.1 { p with foldDue := true }
    else v) w
  let gs := ((w.allParts.filter (fun q => cores.contains q.1 && (q.2.2.state == 1 || q.2.2.state == 2))).map (·.2.2.group)).dedup
  let w := gs.foldl (fun (v : Work) g => v.rollbackGroup g true) w
  cores.foldl (fun (v : Work) c => (List.range 16).foldl (fun (u : Work) t => u.showUndoHold c t) v) w

/-- No undo is left on the device (R138, R420). -/
def Work.undoLeft (w : Work) : Bool := w.allParts.any (fun q => q.2.2.state == 3)

/-! ### The launch of a weight transfer slot (R129 to R132) -/

/-- A transfer entry's fields (Table 3-6). -/
def xferOf (b : List Byte) : XferEntry :=
  { tile := leAt b 0 1 % 16, deck := leAt b 0 1 / 16 % 8, rowFirst := leAt b 2 2, rowCount := leAt b 4 2, master := leAt b 8 8,
    level := leAt b 16 8, resid := leAt b 24 8 }

/-- The first check of Table 3-7 that fails after the descriptor's own place, a free journal entry apart; 0 where none does. -/
def Work.xferCheck (w : Work) (sl : Slot) (h : List Byte) (es : List (List Byte)) : Nat :=
  let xs := es.map xferOf
  let ok := fun (a n : Nat) => a % 4096 == 0 && inHbm a n
  if leAt h 2 1 = 0 || 128 < leAt h 2 1 || leAt h 3 1 = 0 then 1
  else if xs.any (fun e => !sl.units.testBit e.tile) then 2
  else if xs.any (fun e => !w.deckUsed e.deck) then 3
  else if xs.any (fun e => 1023 < e.rowFirst || e.rowCount = 0 || 1024 < e.rowFirst + e.rowCount) || 63 < leAt h 16 1 then 4
  else if leAt h 7 1 < 16 || 64 < leAt h 7 1 || leAt h 4 2 ≤ sl.offset || sl.offset + sl.len < leAt h 4 2 then 5
  else if !allZero (sub h 17 7) || es.any (fun b => 128 ≤ leAt b 0 1 || leAt b 1 1 ≠ 0 || leAt b 6 2 ≠ 0) then 6
  else if xs.any (fun e => !ok e.master (4096 * (e.rowFirst + e.rowCount)) || !ok e.level (1024 * (e.rowFirst + e.rowCount)) ||
      !ok e.resid (4096 * (e.rowFirst + e.rowCount))) then 7
  else 0

/-- The rows of a part that are to be written, a poisoned one among them, with the clamps counted on each tile (R115, R117,
R134). -/
def Work.planRows (w : Work) (c : Nat) (es : List XferEntry) (pexp : Int) (thresh : Nat) : List (Nat × Nat × Nat) × Work :=
  (es.zipIdx).foldl (fun (a : List (Nat × Nat × Nat) × Work) q =>
    (List.range q.1.rowCount).foldl (fun (a : List (Nat × Nat × Nat) × Work) i =>
      let row := q.1.rowFirst + i
      let r := a.2.rowPlan c q.1 row pexp thresh
      let v := r.2
      let v := if r.1.rails = 0 then v else (v.incBy (LVL_RAIL_CNT c q.1.tile) r.1.rails).setBit (PGM_STATUS c q.1.tile) 7
      (if r.1.poison || r.1.old ≠ r.1.target then a.1 ++ [(q.1.tile, q.2, row)] else a.1, v)) a) ([], w)

/-- Header and entries of a transfer descriptor, where its own place is good (R130). -/
def Work.transferAt (w : Work) (c desc : Nat) : Option (List Byte × List (List Byte)) :=
  match w.descriptor c desc 24 8 with
  | none => none
  | some h => (w.descriptor c desc (24 + 32 * leAt h 2 1) 8).map (fun d =>
      (h, (List.range (leAt h 2 1)).map (fun i => sub d (24 + 32 * i) 32)))

/-- The tiles remember where the state of Table 3-1 of a transfer's decks lies (log 25). -/
def Work.noteMaps (w : Work) (c : Nat) (h : List Byte) (es : List XferEntry) : Work :=
  es.foldl (fun (v : Work) e =>
    let m : DeckMap := { master := e.master, level := e.level, resid := e.resid, pexp := sext 8 (leAt h 6 1), layer := leAt h 8 8 }
    v.setTile c e.tile { v.tile c e.tile with maps := Sp.put (v.tile c e.tile).maps e.deck m }) w

/-- The maps of every deck that a program's weight transfers name (log 25). -/
def Work.noteProgram (w : Work) (c : Nat) (p : Prog) : Work :=
  (p.slots.filter (·.action == 3)).foldl (fun (v : Work) sl =>
    match v.transferAt c sl.desc with
    | some (h, raw) => if v.xferCheck sl h raw = 0 then v.noteMaps c h (raw.map xferOf) else v
    | none => v) w

/-- The launch of a weight transfer slot (R129, R130, R132). A part whose group is decided, or whose WRITE_END has passed, rolls back
(R135). -/
def Work.launchTransfer (w : Work) (c s : Nat) (sl : Slot) : Work :=
  let bad := fun (v : Work) (cause : Nat) (g : Option Nat) =>
    let v := (v.setBit (CMT_ERR c) 0).setFld (CMT_ERR c) 8 4 cause
    let v := match g with | some n => v.rollbackGroup n false | none => v
    v.programFault c cause s
  match w.transferAt c sl.desc with
  | none => bad w 7 none
  | some (h, raw) =>
    let g := leAt h 0 2
    let e := w.xferCheck sl h raw
    if e ≠ 0 then bad w e (some g)
    else match (List.range 64).find? (fun j => (Sp.find (w.parts c) j).isNone) with
    | none => bad (w.setBit (CMT_ERR c) 1) 8 (some g)
    | some j =>
      let es := raw.map xferOf
      let pexp := sext 8 (leAt h 6 1)
      let ms := w.hbmGet (leAt h 8 8) 4
      let r := ms.2.2.planRows c es pexp (leAt h 7 1)
      let w := r.2.noteMaps c h es
      let p : Part :=
        { group := g, slot := s, parts := leAt h 3 1, writeEnd := beatAdd w.stroke.catchAt (leAt h 4 2), band := leAt h 16 1,
          pexp := pexp, thresh := leAt h 7 1, layerRec := leAt h 8 8, step := leNat ms.1, state := 1, entries := es, todo := r.1,
          launch := w.now }
      let w := w.setPart c j p
      if w.stroke.rolled.contains g || !beatBefore w.beatFull p.writeEnd then w.rollbackGroup g false else w.tryWritten g

/-! ### Journals taken back at a restore (R140, R413) -/

/-- A COMMITTED journal entry that was not folded is completed from its staging records: levels, the band's step and the counter
(R140). The records of an entry follow its first one, and the layer record is that of their deck (log 120). -/
def Work.completeEntry (w : Work) (c j : Nat) : Work :=
  let a := w.jrnlAt c j
  if w.num (a + 2) 1 ≠ 5 then w
  else
    let rs := (List.range (w.num (a + 8) 2)).map (fun i => w.num (a + 24) 8 + 2112 * i)
    let w' := rs.foldl (fun (v : Work) r =>
      let tile := v.num r 4 % 16
      let k := v.num r 4 / 16 % 8
      match Sp.find (v.tile c tile).maps k with
      | none => v
      | some m => (v.store (m.level + 1024 * (v.num r 4 / 65536 % 1024)) (v.bytes (r + 1040) 1024)).storeNum
          (m.layer + 8 + 4 * w.num (a + 3) 1) 4 (w.num (a + 4) 4)) w
    (w'.storeNum (a + 2) 1 0).inc (CMT_COMMIT_CNT c)

/-- Every COMMITTED entry of a core's journal is completed. -/
def Work.completeJournal (w : Work) (c : Nat) : Work := (List.range 64).foldl (fun (v : Work) j => v.completeEntry c j) w

/-! ### The commands -/

/-- WRITE_END_EXPIRE: the beat edge of WRITE_END has passed with a part not done (R135). -/
def execWriteEndExpire (group : Nat) (s : State) : Ans :=
  s.run (fun _ w =>
    let ps := w.allParts.filter (fun q => q.2.2.group == group && q.2.2.state == 1)
    if ps.any (fun q => !beatBefore w.beatFull q.2.2.writeEnd) then w.rollbackGroup group false else w)

/-- FOLD_COMPLETE (R139, R140, Table 3-9). -/
def execFoldComplete (core : Fin 1024) (s : State) : Ans := s.run (fun _ w => w.foldsDone core.val)

end Sys2Proof.Machine
end

