-- ==== Sys2Proof/Machine/Program.lean ====
section
/-! DEFINITION. Machine/Program.lean: the program-and-verify unit of a tile: row write, undo, refresh, copy, restore and
clearing units, level surveys and retirement (R119 to R127, R131 to R136, R142 to R149, R418, R516). -/

namespace Sys2Proof.Machine

/-! ### Who waits for a supply (R125, R126) -/

/-- The beat edge after a rollback decision has come (R136). -/
def Work.undoTime (w : Work) (p : Part) : Bool := p.decided != w.beatFull

/-- The next row that a slot's part writes on a tile, or undoes: journal entry and part. -/
def Work.slotWork (w : Work) (c t : Nat) : Option (Nat × Part) :=
  (w.parts c).find? (fun q =>
    (q.2.state == 1 && q.2.todo.any (fun r => r.1 == t)) || (q.2.state == 3 && q.2.undo.any (fun r => r.tile == t)))

/-- The tile's slot work may start now as far as time goes: a row write unit must end by WRITE_END (R131), an undo unit waits
for the beat edge after the decision (R136). -/
def Work.slotReady (w : Work) (c t : Nat) : Bool :=
  match w.slotWork c t with
  | some (_, p) => if p.state = 1 then w.now + 10000 ≤ w.edgeNs p.writeEnd && w.stageFree c else w.undoTime p
  | none => false

/-- A tile of a slot waits for a supply. -/
def Work.slotWaits (w : Work) (c t : Nat) : Bool :=
  w.slotReady c t && (w.tile c t).unit.isNone && !(w.commit c).supplies.any (·.1 == t)

/-- A tile of a slot has its supply, or takes the next free one in ascending tile order (R126). -/
def Work.slotSupply (w : Work) (c t : Nat) : Bool :=
  (w.commit c).supplies.any (·.1 == t) ||
    ((w.commit c).supplies.length < 3 && (List.range t).all (fun u => !w.slotWaits c u))

/-- A tile keeps its supply until it has run every row of its part (R126). -/
def Work.supplyDone (w : Work) (c t : Nat) : Work := if (w.slotWork c t).isSome then w else w.dropSupply c t

/-- Rows of wholly stale decks left, in ascending deck and row order (R124). -/
def Tile.staleRows (v : Tile) : Nat := (v.staleAll.map (fun p => 1024 - p.2)).sum

/-- A retirement copy is under way: its target has been surveyed (Table 3-11). -/
def Work.copying (w : Work) (c t : Nat) : Bool := w.fld (RETIRE_STATUS c t) 8 2 == 1 && (w.tile c t).surveyed

/-- Row units of the clearing of R516 on a tile: every row of every logical deck in use. -/
def Work.clearRows (w : Work) : Nat := (8 - w.spareCount) * 1024

/-- Units outside slots that a tile has left to run now: clearing, restore transfers, or, in free recovery time with room for
one, refreshes and copies (R124, R125, R418, R516). None runs within a calibration run (R154, R166). -/
def Work.outsideLeft (w : Work) (c t : Nat) : Nat :=
  let v := w.tile c t
  if v.unit.isSome || w.held c t || v.cal.active then 0
  else if w.sec.clearing.isSome then w.clearRows - v.cleared
  else if !v.restoreRows.isEmpty then v.restoreRows.length
  else match w.freeRecovery c t with
    | some d =>
      if w.now + 10000 ≤ d then
        v.stale.length + v.staleRows + (if w.copying c t && w.stageFree c then 1024 - v.clean.length else 0)
      else 0
    | none => 0

/-- A unit outside slots gets a supply: one is free, no tile of a slot waits, and the tile has the most such units left, the
lower tile first among equals (R126). -/
def Work.outsideSupply (w : Work) (c t : Nat) : Bool :=
  let n := w.outsideLeft c t
  0 < n && (w.commit c).supplies.length < 3 && (List.range 16).all (fun u => !w.slotWaits c u) &&
    (List.range 16).all (fun u => u == t || w.outsideLeft c u < n || (w.outsideLeft c u == n && t < u))

/-! ### What a unit does at its end (R120 to R123, R145) -/

/-- The measured level of a failed position, its planned one otherwise. -/
def measured (failed : List (Nat × Int)) (target : List Int) : List Int := overlay failed target

/-- Positions that a unit covers: weights and CSUM, and the references for a copy (R120). -/
def TileUnit.covers (u : TileUnit) (j : Nat) : Bool := j < if u.kind = .copy then 1041 else 1025

/-- Failed positions of a unit that lie in what it covers. -/
def TileUnit.failures (u : TileUnit) (l : List (Nat × Int)) : List (Nat × Int) := l.filter (fun f => u.covers f.1)

/-- What a unit's verify reads found: noted at the service gap, else as its end brings it (log 123). -/
def TileUnit.result (u : TileUnit) (failed1 failed2 : List (Nat × Int)) : List (Nat × Int) × List (Nat × Int) :=
  u.found.getD (u.failures failed1, u.failures failed2)

/-- The end of a unit on a tile (R120 to R123, R145): the levels its row holds, counters, wear, the wear table's CSUM level.
Positions that fail the second read keep their measured level. -/
def Work.unitEnds (w : Work) (c t : Nat) (u : TileUnit) (failed1 failed2 : List (Nat × Int)) : Work :=
  let f1 := u.failures failed1
  let f2 := u.failures failed2
  let new := measured f2 u.target
  let w := (((w.till (u.start + 10000)).setCells c t u.phys u.row new).inc (ROWUNIT_CNT c t)).progress c
  let pass := (f1.filter (fun f => !f2.any (fun g => g.1 == f.1))).length
  let w := (w.incBy (VFY_RETRY_CNT c t) pass).incBy TRANSIENT_CNT pass
  let w := w.when (!f2.isEmpty) (fun v =>
    ((v.incBy (VFY_FAIL_CNT c t) f2.length).incBy (DECK_VFAIL c t u.phys) f2.length).setBit (PGM_STATUS c t) 6)
  let p1 := phaseWear (u.old.zip u.target)
  let p2 := phaseWear (f1.map (fun f => (f.2, u.target.getD f.1 0)))
  (w.addWear c t u.phys u.row (p1.1 + p2.1) (p1.2 + p2.2) (new.getD 1024 0)).unitOver c t

/-- A unit over a row of a logical deck fails its second read somewhere: the row is stale (R123). -/
def Work.staleIf (w : Work) (c t : Nat) (u : TileUnit) (failed2 : List (Nat × Int)) : Work :=
  if (u.failures failed2).isEmpty then w else w.addStale c t u.ldeck u.row

/-- The CSUM level that the wear table records for a row. -/
def Work.csumAt (w : Work) (c t p row : Nat) : Int := byteLevel (w.byte (w.wearAt c t p row + 8))

/-- A row unit's levels before and after: weights with their checksum column, references as they stand (R63, R117). -/
def Work.rowUnit (w : Work) (c t k row : Nat) (kind : UnitKind) (old new : List Int) : TileUnit :=
  let p := w.phys c t k
  { kind := kind, start := 0, ldeck := k, phys := p, row := row, old := old ++ [w.csumAt c t p row] ++ refLevels,
    target := new ++ [csumLevel (w.csdiv c t k) new] ++ refLevels }

/-! ### Row write and undo units of slots (R131 to R136) -/

/-- A tile starts its next row of a part (R131, R132), or meets poison (R134). -/
def Work.startRow (w : Work) (c t : Nat) : Work :=
  match w.slotWork c t with
  | none => w
  | some (j, p) =>
    match p.todo.find? (fun r => r.1 == t), w.unitTime c t (p.launch + 2000) with
    | some r, some at_ =>
      if p.state ≠ 1 || w.edgeNs p.writeEnd < at_ + 10000 || !w.stageFree c || w.held c t || !w.slotSupply c t then w
      else match p.entries[r.2.1]? with
      | none => w
      | some e =>
        let q := w.rowPlan c e r.2.2 p.pexp p.thresh
        if q.1.poison then (q.2.setBit (CMT_ERR c) 2).rollbackGroup p.group false
        else
          let w := q.2.setPart c j { p with todo := p.todo.erase r }
          (w.takeSupply c t true).unitGo c t at_ (w.rowUnit c t e.deck r.2.2 (.row j) q.1.old q.1.target) false
    | _, _ => w

/-- A tile starts its next undo unit (R136): from NEW back to OLD, the last staged row of the tile first. -/
def Work.startUndo (w : Work) (c t : Nat) : Work :=
  match w.slotWork c t with
  | none => w
  | some (j, p) =>
    match p.undo.find? (fun r => r.tile == t), w.unitTime c t 0 with
    | some r, some at_ =>
      if p.state ≠ 3 || !w.undoTime p || !w.slotSupply c t then w
      else
        let on := w.staged c r.idx
        let u := w.rowUnit c t r.ldeck r.row (.undo j) on.2 on.1
        (w.takeSupply c t true).unitGo c t at_ { u with phys := r.phys } false
    | _, _ => w

/-- A row write unit of a part ends: its staging record, then the group's decision (R120, R133, R135). -/
def Work.rowDone (w : Work) (c t j : Nat) (u : TileUnit) (failed1 failed2 : List (Nat × Int)) : Work :=
  let w := (w.unitEnds c t u failed1 failed2).staleIf c t u failed2
  match Sp.find (w.parts c) j with
  | none => w.supplyDone c t
  | some p =>
    let f2 := u.failures failed2
    let idx := w.stageNext c
    let flags := (if f2.any (fun f => f.1 < 1024) then 1 else 0) + (if f2.any (fun f => f.1 == 1024) then 2 else 0)
    let w := w.stage c idx t u.ldeck u.phys u.row flags u.old (measured f2 u.target)
    let r : Staged := { idx := idx, tile := t, ldeck := u.ldeck, phys := u.phys, row := u.row }
    let p := { p with staged := p.staged ++ [r], undo := if p.state = 3 then r :: p.undo else p.undo }
    ((((w.setPart c j p).supplyDone c t).tryWritten p.group)).settle p.group

/-- An undo unit ends (R136). A checksum pair that fails counts in UNDO_FAIL_CNT and sets PGM_STATUS.UNDO_FAIL as a position does
(DESIGN CHOICE, log 114). -/
def Work.undoDone (w : Work) (c t j : Nat) (u : TileUnit) (failed1 failed2 : List (Nat × Int)) : Work :=
  let w := (w.unitEnds c t u failed1 failed2).staleIf c t u failed2
  let f2 := (u.failures failed2).filter (fun f => f.1 < 1024)
  let w := if (u.failures failed2).isEmpty then w
    else (w.incBy (UNDO_FAIL_CNT c t) (u.failures failed2).length).setBit (PGM_STATUS c t) 5
  match Sp.find (w.parts c) j with
  | none => w.supplyDone c t
  | some p =>
    match p.undo.find? (fun r => r.tile == t) with
    | none => w.supplyDone c t
    | some r =>
      let p := { p with undo := p.undo.erase r, undoFailed := if f2.isEmpty then p.undoFailed else Sp.put p.undoFailed r.idx f2 }
      (((w.setPart c j p).supplyDone c t).settle p.group).showUndoHold c t

/-! ### Refresh (R124) -/

/-- The next row to refresh: listed rows first, then wholly stale decks in ascending deck and row order. -/
def Tile.nextStale (v : Tile) : Option (Nat × Nat) :=
  match v.stale with
  | r :: _ => some r
  | [] => (v.staleAll.head?).map (fun p => (p.1, p.2))

/-- Recorded levels of a row of a logical deck: its staging record while it is not folded (R133), else its level map where the last
transfer named one, with what a refresh has found since, else its cells (notes/assumptions/25.md). -/
def Work.recorded (w : Work) (c t k row : Nat) : List Int :=
  match w.stagedRow c t k row, Sp.find (w.tile c t).maps k with
  | some (_, p, r), _ => w.stagedLevels c p r
  | none, some m => ((w.tile c t).missed.filter (fun q => q.1 == k && q.2.1 == row)).foldl (fun ls q => overlay q.2.2 ls)
      (levelsOf ((w.hbmGet (m.level + 1024 * row) 1024).1))
  | none, none => (w.cellRow c t (w.phys c t k) row).take 1024

/-- Weight positions that fail a refresh take their measured levels (R110, R122): in the staging record of a row not folded yet,
as failed in the undo of one that was undone, else at the next finish. -/
def Work.refreshMissed (w : Work) (c t : Nat) (u : TileUnit) (failed : List (Nat × Int)) : Work :=
  let ms := failed.filter (fun f => f.1 < 1024)
  if ms.isEmpty then w
  else match w.stagedRow c t u.ldeck u.row with
  | some (j, p, r) =>
    let before := ((Sp.find p.undoFailed r.idx).getD []).filter (fun f => !ms.any (fun g => g.1 == f.1))
    if p.undid r then w.setPart c j { p with undoFailed := Sp.put p.undoFailed r.idx (ms ++ before) }
    else
      let w := w.hbmPut (w.stageAt c r.idx + 4) [w.byte (w.stageAt c r.idx + 4) ||| 1] false
      ms.foldl (fun (v : Work) f => v.hbmPut (v.stageAt c r.idx + 1040 + f.1) [levelByte f.2] false) w
  | none => w.setTile c t { w.tile c t with missed := (w.tile c t).missed ++ [(u.ldeck, u.row, ms)] }

/-- A refresh unit starts (R124, R125). -/
def Work.startRefresh (w : Work) (c t : Nat) : Work :=
  match (w.tile c t).nextStale, w.freeRecovery c t, w.unitTime c t 0 with
  | some (k, row), some d, some at_ =>
    if d < at_ + 10000 || w.sec.clearing.isSome || !(w.tile c t).restoreRows.isEmpty || !w.outsideSupply c t then w
    else
      let ls := w.recorded c t k row
      (w.takeSupply c t false).unitGo c t at_ (w.rowUnit c t k row .refresh ls ls) false
  | _, _, _ => w

/-- A refresh unit ends: its row leaves the stale list, or the deck's next row comes; a row that fails again is entered again
(R123, R124). -/
def Work.refreshDone (w : Work) (c t : Nat) (u : TileUnit) (failed1 failed2 : List (Nat × Int)) : Work :=
  let w := w.unitEnds c t u failed1 failed2
  let v := w.tile c t
  let v := if v.stale.contains (u.ldeck, u.row) then { v with stale := v.stale.erase (u.ldeck, u.row) }
    else { v with staleAll := if 1023 ≤ u.row then Sp.erase v.staleAll u.ldeck else Sp.put v.staleAll u.ldeck (u.row + 1) }
  ((((w.setTile c t v).showStale c t).staleIf c t u failed2).refreshMissed c t u (u.failures failed2)).dropSupply c t

/-! ### Retirement (R146 to R149) -/

/-- VFY_LIMIT in force, 0 taken as 1 (Table 3-15). -/
def Work.vfyLimit (w : Work) (c t : Nat) : Nat := orDefault (w.live (PGM_LIMIT c t) % 65536) 1

/-- A physical deck is due for retirement (R146). -/
def Work.deckDue (w : Work) (c t p : Nat) : Bool :=
  w.deckState c t p == 0 &&
    (w.live (WEAR_LIM_RESET c t) < w.rd (DECK_WEAR_RESET c t p) || w.live (WEAR_LIM_SET c t) < w.rd (DECK_WEAR_SET c t p) ||
      w.vfyLimit c t < w.rd (DECK_VFAIL c t p))

/-- RETIRE_STATUS takes a state. -/
def Work.retireState (w : Work) (c t n : Nat) : Work := w.setFld (RETIRE_STATUS c t) 8 2 n

/-- A level survey of a physical deck is called for; the first of a tile's surveys starts at once (R127). -/
def Work.callSurvey (w : Work) (c t p : Nat) : Work :=
  let v := w.tile c t
  (w.setTile c t { v with surveys := v.surveys.filter (· != p) ++ [p],
                          surveyFrom := if v.surveys.isEmpty then w.now else v.surveyFrom }).setBit (PGM_STATUS c t) 1

/-- A retirement begins with a survey of its target, the lowest spare; with no spare the deck stays in service (R147, R148). -/
def Work.retireDue (w : Work) (c t : Nat) : Work :=
  let v := w.tile c t
  match (List.range 8).find? (fun k => w.deckUsed k && w.deckDue c t (w.phys c t k)) with
  | none => w
  | some k =>
    if w.fld (RETIRE_STATUS c t) 8 2 ≠ 0 || v.dropTarget then w
    else match (List.range 8).find? (fun p => w.deckState c t p == 1) with
    | none => (w.setBit (PGM_STATUS c t) 4).replace 0 c
    | some p =>
      let w := w.setTile c t { v with clean := [], copyFailed := [], surveyed := false }
      (w.wr (RETIRE_STATUS c t) (w.phys c t k + 16 * p + 256)).callSurvey c t p

/-- The staging records that a retirement keeps are freed (R133). -/
def Work.freeCopies (w : Work) (c t : Nat) : Work :=
  let idxs := (w.tile c t).copyFailed.map (·.2)
  (w.setCommit c { w.commit c with staging := (w.commit c).staging.filter (fun i => !idxs.contains i) }).setTile c t
    { w.tile c t with copyFailed := [] }

/-- The logical deck being retired. -/
def Work.retiring (w : Work) (c t : Nat) : Option Nat := w.logical c t (w.fld (RETIRE_STATUS c t) 0 3)

/-- A retirement copy unit starts (R125, R147): refreshes go before copies. -/
def Work.startCopy (w : Work) (c t : Nat) : Work :=
  match w.retiring c t, (List.range 1024).find? (fun r => !(w.tile c t).clean.contains r), w.freeRecovery c t, w.unitTime c t 0 with
  | some k, some row, some d, some at_ =>
    if !w.copying c t || (w.tile c t).nextStale.isSome || d < at_ + 10000 || !w.stageFree c || w.sec.clearing.isSome ||
        !(w.tile c t).restoreRows.isEmpty || !w.outsideSupply c t then w
    else
      let p := w.fld (RETIRE_STATUS c t) 4 3
      let ls := w.recorded c t k row
      let u : TileUnit := { kind := .copy, start := 0, ldeck := k, phys := p, row := row, old := w.cellRow c t p row,
                            target := ls ++ [csumLevel (w.csdiv c t k) ls] ++ refLevels }
      (w.takeSupply c t false).unitGo c t at_ u false
  | _, _, _, _ => w

/-- The staging record that an earlier copy of a target row left is given up (Table 3-11). -/
def Work.dropCopy (w : Work) (c t row : Nat) : Work :=
  let v := w.tile c t
  let idxs := (v.copyFailed.filter (fun r => r.1 == row)).map (·.2)
  (w.setCommit c { w.commit c with staging := (w.commit c).staging.filter (fun i => !idxs.contains i) }).setTile c t
    { v with copyFailed := v.copyFailed.filter (fun r => r.1 != row) }

/-- A copy unit ends (Table 3-11): the row is clean; a failed position keeps a staging record; too many failures give the
target up; with every row clean the target's drift is to be measured. FLAGS of the record are 0 where only reference positions
failed (DESIGN CHOICE, log 116). -/
def Work.copyDone (w : Work) (c t : Nat) (u : TileUnit) (failed1 failed2 : List (Nat × Int)) : Work :=
  let w := (w.unitEnds c t u failed1 failed2).dropSupply c t
  if w.fld (RETIRE_STATUS c t) 8 2 ≠ 1 || w.fld (RETIRE_STATUS c t) 4 3 ≠ u.phys then w
  else if w.vfyLimit c t < w.rd (DECK_VFAIL c t u.phys) then
    let w := w.freeCopies c t
    (w.setTile c t { w.tile c t with dropTarget := true, clean := [] }).wr (RETIRE_STATUS c t) (16 * u.phys)
  else
    let f2 := u.failures failed2
    let w := w.dropCopy c t u.row
    let w :=
      if f2.isEmpty then w
      else
        let idx := w.stageNext c
        let flags := (if f2.any (fun f => f.1 < 1024) then 1 else 0) + (if f2.any (fun f => f.1 == 1024) then 2 else 0)
        let w := w.stage c idx t u.ldeck u.phys u.row flags u.old (measured f2 u.target)
        w.setTile c t { w.tile c t with copyFailed := (w.tile c t).copyFailed ++ [(u.row, idx)] }
    let clean := insNat u.row (w.tile c t).clean
    let w := (w.setTile c t { w.tile c t with clean := clean }).setFld (RETIRE_STATUS c t) 16 11 clean.length
    if clean.length < 1024 then w
    else
      let w := (w.retireState c t 2).setBit (CAL_DUE c t) (8 + u.phys)
      w.when (!(w.tile c t).driftMeasured.contains u.phys) (·.setBit (CAL_DUE c t) (16 + u.phys))

/-- Spare decks of the package fall by one (Table 12-12, cause 0). -/
def Work.spareFalls (w : Work) (c : Nat) : Work :=
  let n := w.fld REPL_STATUS 16 15 - 1
  (w.setFld REPL_STATUS 16 15 n).when (n < w.fld REPL_CFG 0 14) (·.replace 0 c)

/-- The commit of a tile's retirement at a finish (Table 3-11): a retirement in SWITCH state maps the logical deck to the
target and folds the target's failed rows; a target given up is retired. Answers whether a map or a state changed. -/
def Work.retireFinish (w : Work) (c t : Nat) : Bool × Work :=
  let v := w.tile c t
  let src := w.fld (RETIRE_STATUS c t) 0 3
  let dst := w.fld (RETIRE_STATUS c t) 4 3
  if v.dropTarget then
    (true, ((w.setTile c t { v with dropTarget := false }).setFld (DECK_STATE c t) (2 * dst) 2 2).spareFalls c)
  else match w.fld (RETIRE_STATUS c t) 8 2, w.retiring c t with
  | 3, some k =>
    let w := match Sp.find v.maps k with
      | none => w
      | some m =>
        v.copyFailed.foldl (fun (u : Work) r =>
          u.foldRow c (m.entry t k) m.pexp r.1 (changed (u.recorded c t k r.1) (u.staged c r.2).2)) w
    let w := v.copyFailed.foldl (fun (u : Work) r => u.addStale c t k r.1) w
    let w := w.freeCopies c t
    let w := w.setTile c t { w.tile c t with clean := [], surveyed := false }
    let w := ((w.setFld (DECK_MAP c t) (3 * k) 3 dst).setFld (DECK_STATE c t) (2 * src) 2 2).setFld (DECK_STATE c t) (2 * dst) 2 0
    let w := ((w.clrBit (CAL_DUE c t) (8 + src)).clrBit (CAL_DUE c t) (16 + src)).wr (DECK_VFAIL c t dst) 0
    (true, (w.wr (RETIRE_STATUS c t) 0).spareFalls c)
  | _, _ => (false, w)

/-- The device's deck records (R149): DECK_MAP, DECK_STATE, DECK_WEAR_RESET and DECK_WEAR_SET of every tile that differs from
its reset values, each after its tile's number (notes/assumptions/26.md). -/
def Work.deckRecords (w : Work) : List (List Byte) :=
  w.tiles.filterMap (fun q =>
    let c := q.1 / 16
    let t := q.1 % 16
    let regs := [DECK_MAP c t, DECK_STATE c t] ++ (List.range 8).flatMap (fun p => [DECK_WEAR_RESET c t p, DECK_WEAR_SET c t p])
    if regs.all (fun a => w.rd a == regReset a) then none
    else some (toBE 2 q.1 ++ regs.flatMap (fun a => toBE 4 (w.rd a))))

/-- The deck records go to the manager, 55 tiles in a REPORT, as many as a CONTROL packet holds (R149, R401, R562). -/
def Work.reportDecks (w : Work) : Work :=
  let rs := w.deckRecords
  (List.range (max 1 (ceilDiv rs.length 55))).foldl
    (fun (v : Work) i => v.report 1 0 ((rs.drop (55 * i)).take 55).flatten) w

/-- The rows of a deck in the wear table start from the deck's largest entries (R149). -/
def Work.seedWear (w : Work) (c t p : Nat) : Work :=
  (List.range 1024).foldl (fun (v : Work) row =>
    (v.storeNum (v.wearAt c t p row) 4 (v.rd (DECK_WEAR_RESET c t p))).storeNum (v.wearAt c t p row + 4) 4
      (v.rd (DECK_WEAR_SET c t p))) w

/-- The deck record of a tile applied as a committed retirement (R149): map, states, and the wear that every row starts from. -/
def Work.applyDeck (w : Work) (l : List Byte) : Work :=
  let c := beAt l 0 2 / 16
  let t := beAt l 0 2 % 16
  let w := (w.wr (DECK_MAP c t) (beAt l 2 4)).wr (DECK_STATE c t) (beAt l 6 4)
  (List.range 8).foldl (fun (v : Work) p =>
    ((v.wr (DECK_WEAR_RESET c t p) (beAt l (10 + 8 * p) 4)).wr (DECK_WEAR_SET c t p) (beAt l (14 + 8 * p) 4)).seedWear c t p) w

/-! ### Restore transfers and clearing (R418, R516) -/

/-- The first row of a restore that is to be written, with the rows that have no candidate dropped (R117, R418). -/
def Work.nextRestore (w : Work) (c t : Nat) : List (Nat × Nat) → Option (Nat × Nat × RowPlan) × List (Nat × Nat) × Work
  | [] => (none, [], w)
  | (k, row) :: rest =>
    match Sp.find (w.tile c t).maps k with
    | none => w.nextRestore c t rest
    | some m =>
      let q := w.rowPlan c (m.entry t k) row m.pexp 16
      let v := if q.1.rails = 0 then q.2 else (q.2.incBy (LVL_RAIL_CNT c t) q.1.rails).setBit (PGM_STATUS c t) 7
      if q.1.poison || q.1.old = q.1.target then v.nextRestore c t rest else (some (k, row, q.1), rest, v)

/-- Drift units follow on a tile whose restore transfers are through: it calls for a run outside slots (R157, R418). -/
def Work.restored (w : Work) (c t : Nat) : Work :=
  if (w.tile c t).restoreRows.isEmpty then (w.setTile c t { w.tile c t with outCal := true }).driftAllDue c t else w

/-- A restore transfer's unit starts on a tile (R126, R418). -/
def Work.startRestore (w : Work) (c t : Nat) : Work :=
  match w.unitTime c t 0 with
  | none => w
  | some at_ =>
    if !w.mgr.restoreTaken || (w.tile c t).restoreRows.isEmpty || w.sec.clearing.isSome || w.held c t || !w.outsideSupply c t then w
    else
      let r := w.nextRestore c t (w.tile c t).restoreRows
      let w := r.2.2.setTile c t { r.2.2.tile c t with restoreRows := r.2.1 }
      match r.1 with
      | none => w.restored c t
      | some (k, row, p) => (w.takeSupply c t false).unitGo c t at_ (w.rowUnit c t k row .restore p.old p.target) false

/-- A restore transfer's unit ends: the row takes its recorded levels, and its residuals follow (R122, R418). -/
def Work.restoreUnitDone (w : Work) (c t : Nat) (u : TileUnit) (failed1 failed2 : List (Nat × Int)) : Work :=
  let w := ((w.unitEnds c t u failed1 failed2).staleIf c t u failed2).dropSupply c t
  match Sp.find (w.tile c t).maps u.ldeck with
  | none => w
  | some m =>
    let new := (measured (u.failures failed2) u.target).take 1024
    let w := w.foldRow c (m.entry t u.ldeck) m.pexp u.row (changed u.old new)
    { w with unfolded := w.unfolded.filter (fun f =>
        !(f.1 == c && (f.2.1 == m.level + 1024 * u.row || f.2.1 == m.resid + 4096 * u.row))) }.restored c t

/-- A clearing unit starts on a tile: the next row of its logical decks to level 0 (R126, R516). -/
def Work.startClear (w : Work) (c t : Nat) : Work :=
  match w.unitTime c t 0 with
  | none => w
  | some at_ =>
    let n := (w.tile c t).cleared
    if w.sec.clearing.isNone || w.clearRows ≤ n || w.held c t || !w.outsideSupply c t then w
    else
      let k := n / 1024
      let row := n % 1024
      let old := w.cellRow c t (w.phys c t k) row
      let u : TileUnit := { kind := .clear, start := 0, ldeck := k, phys := w.phys c t k, row := row, old := old,
                            target := List.replicate 1025 0 ++ old.drop 1025 }
      (w.takeSupply c t false).unitGo c t at_ u false

/-- A clearing unit ends; a tile whose every row is at level 0 is done (R516). -/
def Work.clearDone (w : Work) (c t : Nat) (u : TileUnit) (failed1 failed2 : List (Nat × Int)) : Work :=
  let w := ((w.unitEnds c t u failed1 failed2).staleIf c t u failed2).dropSupply c t
  w.setTile c t { w.tile c t with cleared := (w.tile c t).cleared + 1 }

/-- The level survey that runs on a tile ends, 1 µs for each of its deck's rows after its start (R127): the measured levels go to the
level map of the logical deck it serves and the CSUM levels to the wear table; the tile's next survey starts. -/
def Work.surveyDone (w : Work) (c t p : Nat) (levels : List (List Int)) : Work :=
  if (w.tile c t).surveys.head? ≠ some p then w else
  let w := w.till ((w.tile c t).surveyFrom + 1024000)
  let w := w.setTile c t { w.tile c t with surveys := (w.tile c t).surveys.tail, surveyFrom := w.now }
  let map := (w.logical c t p).bind (fun k => Sp.find (w.tile c t).maps k)
  let w := (levels.zipIdx).foldl (fun (v : Work) r =>
    let v := (v.setCells c t p r.2 r.1).store (v.wearAt c t p r.2 + 8) [levelByte (r.1.getD 1024 0)]
    match map with
    | some m => v.hbmPut (m.level + 1024 * r.2) ((r.1.take 1024).map levelByte) false
    | none => v) w
  let w := w.bitTo (PGM_STATUS c t) 1 (!(w.tile c t).surveys.isEmpty)
  if w.fld (RETIRE_STATUS c t) 8 2 = 1 && w.fld (RETIRE_STATUS c t) 4 3 = p then
    w.setTile c t { w.tile c t with surveyed := true }
  else w

/-! ### The commands -/

/-- ROW_WRITE_UNIT_START (R117, R119, R131, R132, R134). -/
def execRowWriteUnitStart (core : Fin 1024) (tile : Fin 16) (s : State) : Ans := s.run (fun _ w => w.startRow core.val tile.val)

/-- The end of a unit on a tile, where one of the kinds that `f` takes runs there. -/
def Work.onUnit (w : Work) (c t : Nat) (f : TileUnit → Option Work) : Work :=
  match (w.tile c t).unit with
  | some u => (f u).getD w
  | none => w

/-- ROW_WRITE_UNIT_DONE: a row write unit ends, of a transfer, of a restore, or of a clearing (R120 to R123, R133, R145). The
operands are the positions that fail the first and the second verify read with their measured levels. -/
def execRowWriteUnitDone (core : Fin 1024) (tile : Fin 16) (failed1 failed2 : List (Nat × Int)) (s : State) : Ans :=
  s.run (fun _ w => w.onUnit core.val tile.val (fun u =>
    let f := u.result failed1 failed2
    match u.kind with
    | .row j => some (w.rowDone core.val tile.val j u f.1 f.2)
    | .restore => some (w.restoreUnitDone core.val tile.val u f.1 f.2)
    | .clear => some (w.clearDone core.val tile.val u f.1 f.2)
    | _ => none))

/-- UNDO_UNIT_START (R136). -/
def execUndoUnitStart (core : Fin 1024) (tile : Fin 16) (s : State) : Ans := s.run (fun _ w => w.startUndo core.val tile.val)

/-- UNDO_UNIT_DONE (R135, R136). -/
def execUndoUnitDone (core : Fin 1024) (tile : Fin 16) (failed1 failed2 : List (Nat × Int)) (s : State) : Ans :=
  s.run (fun _ w => w.onUnit core.val tile.val (fun u =>
    let f := u.result failed1 failed2
    match u.kind with
    | .undo j => some (w.undoDone core.val tile.val j u f.1 f.2)
    | _ => none))

/-- REFRESH_UNIT_START (R124, R125). -/
def execRefreshUnitStart (core : Fin 1024) (tile : Fin 16) (s : State) : Ans := s.run (fun _ w => w.startRefresh core.val tile.val)

/-- REFRESH_UNIT_DONE (R124). -/
def execRefreshUnitDone (core : Fin 1024) (tile : Fin 16) (failed1 failed2 : List (Nat × Int)) (s : State) : Ans :=
  s.run (fun _ w => w.onUnit core.val tile.val (fun u =>
    let f := u.result failed1 failed2
    match u.kind with
    | .refresh => some (w.refreshDone core.val tile.val u f.1 f.2)
    | _ => none))

/-- DECK_RETIRE_DUE (R146 to R148). -/
def execDeckRetireDue (core : Fin 1024) (tile : Fin 16) (s : State) : Ans := s.run (fun _ w => w.retireDue core.val tile.val)

/-- LEVEL_SURVEY_DONE: the measured levels of each row of a physical deck (R127, R147). -/
def execLevelSurveyDone (core : Fin 1024) (tile : Fin 16) (deck : Fin 8) (levels : List (List Int)) (s : State) : Ans :=
  s.run (fun _ w => w.surveyDone core.val tile.val deck.val levels)

/-- COPY_UNIT_START (R147). -/
def execCopyUnitStart (core : Fin 1024) (tile : Fin 16) (s : State) : Ans := s.run (fun _ w => w.startCopy core.val tile.val)

/-- COPY_UNIT_DONE (R147). -/
def execCopyUnitDone (core : Fin 1024) (tile : Fin 16) (failed1 failed2 : List (Nat × Int)) (s : State) : Ans :=
  s.run (fun _ w => w.onUnit core.val tile.val (fun u =>
    let f := u.result failed1 failed2
    match u.kind with
    | .copy => some (w.copyDone core.val tile.val u f.1 f.2)
    | _ => none))

/-- DECK_CLEAR_UNIT_START (R516). -/
def execDeckClearUnitStart (core : Fin 1024) (tile : Fin 16) (s : State) : Ans := s.run (fun _ w => w.startClear core.val tile.val)

/-- The hold of a programming unit ends at 8,000 ns (R120, R142): its row holds its new levels, and session products see them
(R105). -/
def Work.pgmGap (w : Work) (c t : Nat) (u : TileUnit) (failed1 failed2 : List (Nat × Int)) : Work :=
  let f := u.result failed1 failed2
  let w := (w.till (u.start + 8000)).setCells c t u.phys u.row (measured f.2 u.target)
  (w.setTile c t { w.tile c t with unit := some { u with found := some f } }).releaseHold c t

end Sys2Proof.Machine
end

