-- ==== Sys2Proof/Machine/Cal.lean ====
section
/-! DEFINITION. Machine/Cal.lean: calibration units, calibration slots, plausibility and retry, temperature and drift age
(R150 to R173, R484). -/

namespace Sys2Proof.Machine

/-! ### When calibration is due (R159 to R163) -/

/-- Age of a deck's drift gain in beats (R34, R161). -/
def Work.driftAge (w : Work) (c t p : Nat) : Nat := (w.beatCnt % 2 ^ 32 + 2 ^ 32 - w.rd (DRIFT_BEAT c t p)) % 2 ^ 32

/-! ### What a tile runs next (R166, R170) -/

/-- The DRIFT units left in a run, in order: aged decks first, then the oldest, then ascending (R166); the retirement target in
DRIFT state last. -/
def Work.driftNext (w : Work) (c t : Nat) : Option Nat :=
  let r := (w.tile c t).cal
  let want := fun (p : Nat) => !r.driftDone.contains p && w.flag (CAL_DUE c t) (8 + p) && (r.mask.testBit p || r.runDue)
  let aged := fun (p : Nat) => w.flag (CAL_DUE c t) (16 + p)
  let age := fun (p : Nat) => if (w.tile c t).driftMeasured.contains p then w.driftAge c t p else 2 ^ 32
  let ds := (List.range 8).filter (fun p => w.deckState c t p == 0 && want p)
  let before := fun (p q : Nat) =>
    if aged p != aged q then aged p else if age p ≠ age q then decide (age q < age p) else decide (p < q)
  match ds.find? (fun p => ds.all (fun q => q == p || before p q)) with
  | some p => some p
  | none =>
    let d := w.fld (RETIRE_STATUS c t) 4 3
    if w.fld (RETIRE_STATUS c t) 8 2 = 2 && want d then some d else none

/-- The next unit of a run: its kind, deck, whether it is a retry, and the time it needs (R154, R166). -/
def Work.calNext (w : Work) (c t : Nat) : Option (UnitKind × Nat × Bool × Nat) :=
  let r := (w.tile c t).cal
  match r.todo with
  | u :: _ => some (u.1, u.2.1, u.2.2, 10000)
  | [] =>
    if !r.colDone && (r.forceCol || (r.runDue && w.flag (CAL_DUE c t) 0)) then some (.colOff, 0, false, 20000)
    else (w.driftNext c t).map (fun p => (.drift, p, false, 10000))

/-- A unit that needs some time fits the run: started as early as the tile and its cap allow, it ends by the edge of OFFSET + LEN
(R166, R475). -/
def Work.calFits (w : Work) (c t need : Nat) : Bool :=
  match (w.tile c t).cal.deadline, w.unitTime c t 0 with
  | some d, some at_ => at_ + need ≤ w.edgeNs d
  | some _, none => false
  | none, _ => true

/-- CAL_STATUS.RETRY_HELD follows the retries held over. -/
def Work.showHeld (w : Work) (c t : Nat) : Work := w.bitTo (CAL_STATUS c t) 4 (!(w.tile c t).heldRetry.isEmpty)

/-- A tile's run ends; what is left of it is counted, and its retries are held over (R166, R170). -/
def Work.calEnd (w : Work) (c t : Nat) (left : Bool) : Work :=
  let v := w.tile c t
  let hold := if v.cal.slot.isSome then (v.cal.todo.filter (·.2.2)).map (fun u => (u.1, u.2.1)) else []
  ((w.setTile c t { v with cal := {}, heldRetry := v.heldRetry ++ hold }).when left (·.inc (CAL_DEFER_CNT c t))).showHeld c t

/-- A calibration slot completes when every tile's claim has ended (R167). -/
def Work.calSlotDone (w : Work) (c s mask : Nat) : Work := if w.calTiles c s mask = 0 then w.completeSlot c s else w

/-- A run on a tile that has no unit left that fits ends (R166, R167). -/
def Work.calCheck (w : Work) (c t : Nat) : Work :=
  let v := w.tile c t
  if !v.cal.active || v.unit.isSome || (v.cal.slot.isSome && w.now < v.unitEnd) then w
  else
    let go : Bool × Bool := match w.calNext c t with | some u => (w.calFits c t u.2.2.2, true) | none => (false, false)
    if go.1 then w
    else
      let w := w.calEnd c t go.2
      match v.cal.slot with
      | some s => match w.slotAt c s with | some sl => w.calSlotDone c s sl.units | none => w
      | none => w

/-- Every run of a core that has no unit left that fits ends; called at a beat edge. -/
def Work.calSweep (w : Work) (c : Nat) : Work := (List.range 16).foldl (fun (v : Work) t => v.calCheck c t) w

/-- The launch of a calibration slot (R164 to R166): FORCE_DRIFT makes decks due that may fall due. -/
def Work.launchCal (w : Work) (c s : Nat) (sl : Slot) : Work :=
  let ts := (List.range 16).filter (fun t => sl.units.testBit t)
  let bad := (ts.foldl (fun (v : Work) t => v.setBit (CAL_STATUS c t) 3) w).programFault c 0 s
  match w.descriptor c sl.desc 8 8 with
  | none => bad
  | some d =>
    let f := leAt d 0 1
    if f = 0 || 8 ≤ f || !allZero (sub d 2 6) then bad
    else
      let w := ts.foldl (fun (v : Work) t =>
        let u := v.tile c t
        let mask := if f.testBit 2 then leAt d 1 1 else 0
        let v := (List.range 8).foldl (fun (x : Work) p => x.when (mask.testBit p && x.driftable c t p) (·.setBit (CAL_DUE c t) (8 + p))) v
        let run : CalRun := { active := true, slot := some s, deadline := some (beatAdd v.stroke.catchAt (sl.offset + sl.len)),
                              runDue := f.testBit 0, forceCol := f.testBit 1, mask := mask,
                              todo := u.heldRetry.map (fun h => (h.1, h.2, true)) }
        (v.setTile c t { u with cal := run, heldRetry := [] }).showHeld c t) w
      (ts.foldl (fun (v : Work) t => v.calCheck c t) w).calSlotDone c s sl.units

/-! ### Units (R154 to R158) -/

/-- A run outside slots begins on a tile that calls for one: at array wake, or after its die came on (R173, R484). -/
def Work.outsideCal (w : Work) (c t : Nat) : Work :=
  let v := w.tile c t
  if v.cal.active then w
  else if w.start.waking && !v.woken then w.setTile c t { v with woken := true, cal := { active := true, runDue := true, needTemp := true } }
  else if v.outCal && w.allIdle then w.setTile c t { v with outCal := false, cal := { active := true, runDue := true, needTemp := true } }
  else w

/-- A calibration unit starts (R154, R159, R166): a COL_OFF unit notes the temperature and is followed at once by COL_GAIN; a run
outside slots reads the sensor before its first unit. -/
def Work.startCal (w : Work) (c t : Nat) : Work :=
  let w := (w.outsideCal c t).calCheck c t
  let v := w.tile c t
  match w.calNext c t, w.unitTime c t 0 with
  | some (kind, p, retry, need), some at_ =>
    if !v.cal.active || v.cal.needTemp || w.held c t || !w.calFits c t need then w
    else
      let r := v.cal
      let r := match r.todo with | _ :: rest => { r with todo := rest } | [] => r
      let r := match kind with
        | .colOff => if retry then r else { r with colDone := true, todo := [(.colGain, 0, false)] }
        | .drift => if retry then r else { r with driftDone := p :: r.driftDone }
        | _ => r
      let temp := w.rd (TILE_TEMP c t)
      let pend := match kind with
        | .colOff => if retry then { v.pend with temp := temp } else { temp := temp }
        | _ => v.pend
      ((w.setTile c t { v with cal := r, pend := pend }).inc (CAL_RUN_CNT c t)).unitGo c t at_
        { kind := kind, start := 0, phys := p, retry := retry } true
  | _, _ => w

/-- Offsets of columns from the sums of 48 codes (R155). -/
def colOffOf (cz : Int) : Int := roundHalfEven (4 * cz) 48

/-- A gain from the sums of 24 codes at each charge; none where the denominator is not positive (R155). -/
def colGainOf (cp cn : Int) : Option Nat :=
  let d := 4 * (cp - cn)
  if d ≤ 0 then none else some (roundHalfEven 402653184 d.toNat).toNat

/-- The reference sums of a DRIFT unit, in units of 2^−10 level-input units (R158). -/
def Work.refSums (w : Work) (c t : Nat) (codes : List (List Int)) : List Int :=
  (List.range 16).map (fun k =>
    ((((codes[k]?).getD []).take 24).map (fun x => (4 * x - w.sideOff c t) * w.sideGain c t)).sum)

/-- The drift gain of reference sums; none where they are all 0 (R158). -/
def driftOf (ms : List Int) : Option Nat :=
  let s := (ms.map Int.natAbs).sum
  if s = 0 then none else some (roundHalfEven (2 ^ 25 * 3145728) s).toNat

/-- A drift gain is plausible against its limits, its last value and its references (Table 4-3). -/
def Work.driftPlausible (w : Work) (c t p d : Nat) (ms : List Int) : Bool :=
  let lim := w.live (CAL_LIM_DRIFT c t)
  let step := w.live (CAL_LIM_STEP c t)
  bits lim 0 16 ≤ d && d ≤ bits lim 16 16 &&
    (!(w.tile c t).driftMeasured.contains p || ((d : Int) - w.drift c t p).natAbs ≤ bits step 0 16) &&
    (ms.zipIdx).all (fun q => (refLevel q.2).natAbs < 5 ||
      (2 ^ 25 * (24576 * refLevel q.2) - d * q.1).natAbs ≤ bits step 16 16 * q.1.natAbs)

/-! ### Applying a result (R152, R160, R161, R170 to R172) -/

/-- Both results of a column calibration have passed: they are applied, and every deck's drift falls due. -/
def Work.applyCol (w : Work) (c t : Nat) : Work :=
  let v := w.tile c t
  match v.pend.off, v.pend.gain with
  | some (off, so), some (gain, sg) =>
    let offs : Sp Int := (off.zipIdx).filterMap (fun q => if q.1 = 0 then none else some (q.2, q.1))
    let gains : Sp Nat := (gain.zipIdx).filterMap (fun q => if q.1 = 32768 then none else some (q.2, q.1))
    let w := w.setTile c t { v with off := offs, gain := gains, colMeasured := true, pend := {} }
    let w := (w.wr (SIDE_COEF c t) (toTwos 10 so + 65536 * sg)).wr (CAL_TEMP_REF c t) v.pend.temp
    let w := (w.clrBit (CAL_STATUS c t) 1).bitTo (CAL_DUE c t) 0 (w.tempMoved c t)
    w.driftAllDue c t
  | _, _ => w

/-- FAIL_RUN returns to 0 with a passing unit (R172). -/
def Work.calPassed (w : Work) (c t : Nat) (retry : Bool) : Work :=
  ((w.setFld (CAL_STATUS c t) 16 4 0).clrBit (CAL_STATUS c t) 2).when retry (fun v => (v.inc (CAL_RETRY_CNT c t)).inc TRANSIENT_CNT)

/-- Tiles with CAL_STATUS.REPEAT set. -/
def Work.repeatTiles (w : Work) : Nat := (w.tiles.filter (fun q => w.flag (CAL_STATUS (q.1 / 16) (q.1 % 16)) 2)).length

/-- A unit has failed lastingly (R171, R172, Table 12-12). -/
def Work.calFailed (w : Work) (c t : Nat) (u : TileUnit) : Work :=
  let w := w.inc (CAL_FAIL_CNT c t)
  let w := match u.kind with
    | .drift => (w.setBit (CAL_STATUS c t) (8 + u.phys)).setBit (CAL_DUE c t) (8 + u.phys)
    | _ => (w.setBit (CAL_STATUS c t) 1).setBit (CAL_DUE c t) 0
  let n := min 15 (w.fld (CAL_STATUS c t) 16 4 + 1)
  let w := w.setFld (CAL_STATUS c t) 16 4 n
  if orDefault (bits (w.live (CAL_CTL c t)) 4 4) 1 ≤ n then
    let w := w.setBit (CAL_STATUS c t) 2
    w.when (orDefault (w.fld REPL_CFG 16 15) 1 ≤ w.repeatTiles) (·.replace 4 c)
  else w

/-- A unit's result: its plausibility decides whether it is applied, retried, or has failed (R169 to R171). `apply` is none
for an implausible result. -/
def Work.calResult (w : Work) (c t : Nat) (u : TileUnit) (apply : Option (Work → Work)) : Work :=
  match apply with
  | some f => f (w.calPassed c t u.retry)
  | none =>
    if u.retry then w.calFailed c t u
    else
      let v := w.tile c t
      if v.cal.active then w.setTile c t { v with cal := { v.cal with todo := v.cal.todo ++ [(u.kind, u.phys, true)] } }
      else (w.setTile c t { v with heldRetry := v.heldRetry ++ [(u.kind, u.phys)] }).showHeld c t

/-- A COL_OFF unit's result. -/
def Work.offResult (w : Work) (c t : Nat) (u : TileUnit) (cz : List Int) (side : Int) : Work :=
  let lim := w.live (CAL_LIM_OFF c t) % 512
  let off := (List.range 1024).map (fun j => colOffOf (cz.getD j 0))
  let so := colOffOf side
  let ok := off.all (fun x => x.natAbs ≤ lim) && so.natAbs ≤ lim
  w.calResult c t u (if ok then some (fun v =>
    (v.setTile c t { v.tile c t with pend := { (v.tile c t).pend with off := some (off, so) } }).applyCol c t) else none)

/-- A COL_GAIN unit's result. -/
def Work.gainResult (w : Work) (c t : Nat) (u : TileUnit) (cp cn : List Int) (sp sn : Int) : Work :=
  let lim := w.live (CAL_LIM_GAIN c t)
  let gains := (List.range 1025).map (fun j => if j = 1024 then colGainOf sp sn else colGainOf (cp.getD j 0) (cn.getD j 0))
  let ok := gains.all (fun g => match g with | some x => bits lim 0 16 ≤ x && x ≤ bits lim 16 16 | none => false)
  let gs := gains.map (fun g => g.getD 0)
  w.calResult c t u (if ok then some (fun v =>
    (v.setTile c t { v.tile c t with pend := { (v.tile c t).pend with gain := some (gs.take 1024, gs.getD 1024 0) } }).applyCol c t)
    else none)

/-- A passing DRIFT unit (R158, R161, Table 3-11). -/
def Work.applyDrift (w : Work) (c t : Nat) (u : TileUnit) (d : Nat) : Work :=
  let p := u.phys
  let w := (w.wr (DRIFT_GAIN c t p) d).wr (DRIFT_BEAT c t p) (u.beat % 2 ^ 32)
  let w := ((w.clrBit (CAL_DUE c t) (8 + p)).clrBit (CAL_DUE c t) (16 + p)).clrBit (CAL_STATUS c t) (8 + p)
  let w := w.setTile c t { w.tile c t with driftMeasured := insNat p (w.tile c t).driftMeasured }
  w.when (w.fld (RETIRE_STATUS c t) 8 2 = 2 && w.fld (RETIRE_STATUS c t) 4 3 = p) (·.retireState c t 3)

/-- A DRIFT unit's result. -/
def Work.driftResult (w : Work) (c t : Nat) (u : TileUnit) (codes : List (List Int)) : Work :=
  let ms := w.refSums c t codes
  w.calResult c t u (match driftOf ms with
    | some d => if w.driftPlausible c t u.phys d ms then some (fun v => v.applyDrift c t u d) else none
    | none => none)

/-- A calibration unit's result at the end of its hold (R152, R168). -/
def Work.calSums (w : Work) (c t : Nat) (u : TileUnit) (sums : CalSums) : Option Work :=
  match u.kind, sums with
  | .colOff, .off cz side => some (w.offResult c t u cz side)
  | .colGain, .gain cp cn sp sn => some (w.gainResult c t u cp cn sp sn)
  | .drift, .drift codes => some (w.driftResult c t u codes)
  | _, _ => none

/-- A calibration unit's hold ends at 8,000 ns: passing coefficients are written (R152, R154). -/
def Work.calGap (w : Work) (c t : Nat) (u : TileUnit) (sums : CalSums) : Option Work :=
  if u.found.isSome then none
  else ((w.till (u.start + 8000)).calSums c t u sums).map (fun v =>
    (v.setTile c t { v.tile c t with unit := some { u with found := some ([], []) } }).releaseHold c t)

/-- A calibration unit ends at 10,000 ns, its result applied at its service gap or now (log 123); its run goes on or ends (R166,
R167). -/
def Work.calDone (w : Work) (c t : Nat) (sums : CalSums) : Work :=
  match (w.tile c t).unit with
  | none => w
  | some u =>
    match (if u.found.isSome then some w else w.calGap c t u sums) with
    | some v => ((v.till (u.start + 10000)).unitOver c t).calCheck c t
    | none => w

/-- Array wake is over on a tile: its run has ended (R173). -/
def Work.tileAwake (w : Work) (c t : Nat) : Bool := (w.tile c t).woken && !(w.tile c t).cal.active && (w.tile c t).unit.isNone

/-! ### The commands -/

/-- CAL_UNIT_START (R154, R166). -/
def execCalUnitStart (core : Fin 1024) (tile : Fin 16) (s : State) : Ans := s.run (fun _ w => w.startCal core.val tile.val)

/-- CAL_UNIT_DONE: the converter sums of the unit (R155, R158, R169 to R172). -/
def execCalUnitDone (core : Fin 1024) (tile : Fin 16) (sums : CalSums) (s : State) : Ans :=
  s.run (fun _ w => w.calDone core.val tile.val sums)

/-- The tile reads its sensor now (R159): at the start of a run outside slots, at its core's catch, and 256 beats after the last
reading. -/
def Work.tempDue (w : Work) (c t : Nat) : Bool :=
  (w.tile c t).cal.needTemp ||
    (w.locked && match (w.tile c t).tempAt with
      | none => true
      | some a => ((w.cox c).catchAt == some w.beatFull && a != w.beatFull) || 256 ≤ beatsAhead a w.beatFull)

/-- TEMP_SAMPLE: a tile reads its sensor, in 1/16 °C (R159, R160). -/
def execTempSample (core : Fin 1024) (tile : Fin 16) (temp : Int) (s : State) : Ans :=
  s.run (fun _ w =>
    let c := core.val
    let t := tile.val
    if !w.tempDue c t then w
    else
      let v := w.tile c t
      let w := (w.setTile c t { v with tempAt := some w.beatFull, cal := { v.cal with needTemp := false } }).wr (TILE_TEMP c t)
        (toTwos 12 temp)
      w.when (w.tempMoved c t) (·.setBit (CAL_DUE c t) 0))

/-- DRIFT_DUE_EXPIRE: the age of a deck's drift gain has reached DRIFT_DUE (R161). -/
def execDriftDueExpire (core : Fin 1024) (tile : Fin 16) (deck : Fin 8) (s : State) : Ans :=
  s.run (fun _ w =>
    let c := core.val
    let t := tile.val
    let lim := max 1024 (bits (w.live (CAL_CTL c t)) 16 16)
    w.when (w.driftable c t deck.val && lim ≤ w.driftAge c t deck.val) (·.setBit (CAL_DUE c t) (8 + deck.val)))

/-- DRIFT_AGED: the age of a deck's drift gain has reached 65,536 beats (R161, R163). -/
def execDriftAged (core : Fin 1024) (tile : Fin 16) (deck : Fin 8) (s : State) : Ans :=
  s.run (fun _ w =>
    w.when (w.driftable core.val tile.val deck.val && 65536 ≤ w.driftAge core.val tile.val deck.val)
      (·.setBit (CAL_DUE core.val tile.val) (16 + deck.val)))

/-- SERVICE_GAP: at 8,000 ns of a unit its hold ends, with what the unit found (R105, R120, R142, R152, R154; log 123). -/
def execServiceGap (place : TileAt) (result : UnitResult) (s : State) : Ans :=
  s.run (fun _ w => w.onUnit place.core.val place.tile.val (fun u => match u.kind, result with
    | .colOff, .sums x | .colGain, .sums x | .drift, .sums x => w.calGap place.core.val place.tile.val u x
    | .colOff, _ | .colGain, _ | .drift, _ | _, .sums _ => none
    | _, .verify a b => some (w.pgmGap place.core.val place.tile.val u a b)))

end Sys2Proof.Machine
end

