-- ==== Sys2Proof/Machine/Bus.lean ====
section
/-! DEFINITION. Machine/Bus.lean: the register arbiter: which path may reach which register, the error record, dark blocks,
the configuration lock, and the plain write of a register's bits (R520 to R530, R536). -/

namespace Sys2Proof.Machine

/-- The path code of Table 15-3. -/
def pathCode : Path → Nat
  | .controller => 0 | .manager => 1 | .host _ => 2 | .i3cRestricted => 3 | .i3cFull => 4 | .jtagMailbox => 5 | .jtagDebug => 6

/-- The host port of a path, zero for others (Table 15-12). -/
def pathHost : Path → Nat
  | .host q => q.val
  | _ => 0

/-- PERM in force (Table 14-19). -/
def Work.perm (w : Work) : Nat := w.fld SEC_STATUS 12 3

/-- I3C accesses are path 4 once PERM bit 2 is granted, and path 3 before (Table 15-3). -/
def Work.busPath (w : Work) (p : Path) : Path :=
  match p with
  | .i3cRestricted | .i3cFull => if w.perm.testBit 2 then .i3cFull else .i3cRestricted
  | p => p

/-- An address of the security mailbox. -/
def isMbox (a : Nat) : Bool := SEC_MBOX 0 ≤ a && a < SEC_MBOX 0 + 0x2000

/-- Read permissions of the restricted I3C set (Table 15-4). -/
def restrictedRead (busy : Bool) (a : Nat) : Bool :=
  a < 0x400 || (0x100000 ≤ a && a < 0x400000) || (0xD000 ≤ a && a < 0xE000) ||
  ((0x400000 ≤ a && a < 0x500000) && !(busy && isMbox a)) || (0xC000 ≤ a && a < 0xD000) ||
  (0x1000000 ≤ a && a < 0x10C0000) || (0x2000000 ≤ a && a < 0x20A0000 && a % 0x4000 ≤ 0x64)

/-- Write permissions of the restricted I3C set (Table 15-4). -/
def restrictedWrite (a : Nat) : Bool :=
  [GLB_SCRATCH, REG_ERR, MEM_WIN_ADDR_LO, MEM_WIN_ADDR_HI, HK_CTL, SEC_CMD, FAULT_STATUS, FT_CTL, SAMPLE_STATUS].contains a || isMbox a

/-- The security commands a path's SEC_CMD write may start (R526). -/
def secAllowed (p : Path) (op : Nat) : Bool :=
  match pathCode p with
  | 0 => op == 1 || op == 7 || op == 8
  | 1 | 2 => op == 1
  | _ => true

/-- A read of an address is within a path's permissions (R525, R527). -/
def Work.mayRead (w : Work) (p : Path) (a : Nat) : Bool :=
  match pathCode p with
  | 3 => restrictedRead (w.flag SEC_STATUS 0) a
  | 5 => isMbox a || a == SEC_CMD
  | 6 => w.perm.testBit 0
  | _ => true

/-- A write of an address is within a path's permissions. -/
def Work.mayWrite (w : Work) (p : Path) (a : Nat) (v : Nat) : Bool :=
  (if a = SEC_CMD then secAllowed p (v % 16) else true) &&
  (match pathCode p with
   | 3 => restrictedWrite a
   | 5 => isMbox a || a == SEC_CMD
   | 6 => w.perm.testBit 0
   | _ => true)

/-- An access that sets a bit of REG_ERR is recorded (Table 15-12). -/
def Work.regError (w : Work) (p : Path) (a : Nat) (write : Bool) (bit : Nat) : Work :=
  ((w.setBit REG_ERR bit).wr REG_LAST_ADDR (a % 2 ^ 30 + if write then 2 ^ 30 else 0)).wr REG_LAST_PATH
    (pathCode p + 16 * pathHost p)

/-- A denied access (R527). -/
def Work.deny (w : Work) (p : Path) (a : Nat) (write : Bool) : Work := (w.regError p a write 0).inc REG_DENY_CNT

/-- The power domain that holds a block's registers (Table 15-1). -/
def holdingDomain (a : Nat) : Option Nat :=
  match locate a with
  | some (.memc, m, _) => some (65 + 2 * (m / 3))
  | some (.link, k, _) => some (65 + 2 * (if k < 36 then k / 9 else k - 36))
  | some (.eight, e, _) => some (4 * (e / 8) + 2)
  | some (.core, c, _) => some (4 * (c / 64) + 2)
  | some (.tile, t, _) => some (4 * (t / 1024) + 2)
  | some _ => some 65
  | none => none

/-- The block that holds an address is dark (R536). -/
def Work.darkAt (w : Work) (a : Nat) : Bool :=
  match holdingDomain a with
  | some p => w.fld (PD_STATUS p) 0 3 == 6
  | none => false

/-- The units whose reset an access to an address waits for: the core, link engine or memory controller, and the cores' die. -/
def resetUnits (a : Nat) : List Nat :=
  match locate a with
  | some (.memc, m, _) => [1080 + m]
  | some (.link, k, _) => [1040 + k]
  | some (.eight, e, _) => [1024 + e / 8]
  | some (.core, c, _) => [c, 1024 + c / 64]
  | some (.tile, t, _) => [t / 16, 1024 + t / 1024]
  | _ => []

/-- The unit that holds an address is under reset (R534). -/
def Work.underReset (w : Work) (a : Nat) : Bool :=
  w.fault.resets.any (fun r => r.level != 4 && !r.sampling && (resetUnits a).contains r.unit)

/-- The code of the path of an access that waits. -/
def Work.waitCode (w : Work) : Waiting → Nat
  | .write p _ _ _ | .read p _ _ => pathCode (w.busPath p)
  | .i3cWord _ => pathCode (w.busPath .i3cRestricted)
  | .request _ => pathCode .manager

/-- An access of a path waits (R534): behind an earlier one of its path, or for the reset of the unit that holds its address. -/
def Work.holdsUp (w : Work) (p : Path) (a : Nat) : Bool :=
  w.access.waits.any (fun q => w.waitCode q == pathCode (w.busPath p)) || w.underReset a

/-- An access is kept waiting. -/
def Work.await (w : Work) (q : Waiting) : Work := { w with access := { w.access with waits := w.access.waits ++ [q] } }

/-- RWL fields are locked for a path (R530). -/
def Work.rwlLocked (w : Work) (p : Path) : Bool :=
  if w.flag SEC_STATUS 15 then !([0, 4, 6].contains (pathCode p)) else w.flag CFG_STATUS 9

/-- The register at an address has RWL fields. -/
def hasRwl (a : Nat) : Bool := match regRow a with | some r => r.rwl != 0 | none => false

/-- Bits of a mask taken from `v`, the others from `old`. -/
def mergeBits (old v mask : Nat) : Nat := (old &&& (mask ^^^ 0xFFFFFFFF)) ||| (v &&& mask)

/-- The plain write of a register (R530): RW bits take the value, W1C bits written 1 clear, RWL bits take it while unlocked. -/
def Work.plainWrite (w : Work) (a v : Nat) (locked : Bool) : Work :=
  match regRow a with
  | none => w
  | some r =>
    let old := w.rd a
    let x := mergeBits old v (r.rw ||| if locked then 0 else r.rwl)
    w.wr a (x &&& ((v &&& r.w1c) ^^^ 0xFFFFFFFF))

/-- A write reaches a register: the outcome's status is that of Table 15-5 (0 done, 1 denied, 2 unaligned, 3 locked, 4 dark),
and the effect happens where it is done. -/
def Work.busWrite (w : Work) (p : Path) (a v : Nat) (effect : Work → Work) : Work × Nat :=
  let p := w.busPath p
  if a % 4 ≠ 0 then (w.regError p a true 1, 2)
  else if !w.mayWrite p a v then (w.deny p a true, 1)
  else if w.darkAt a then (w.regError p a true 3, 4)
  else if hasRwl a && w.rwlLocked p then ((effect w).regError p a true 2, 3)
  else (effect w, 0)

/-- A write by a path, done now or once what holds it up is over (R534), as the state that results. -/
def Work.onBus (w : Work) (p : Path) (a v : Nat) (effect : Work → Work) : Work :=
  if w.holdsUp p a then w.await (.write p a v none) else (w.busWrite p a v effect).1

/-- A register whose write takes effect at once, written over a path (R530). -/
def Work.wrPlain (w : Work) (p : Path) (a v : Nat) : Work := w.plainWrite a v (w.rwlLocked (w.busPath p))

/-- A read reaches a register: the value read and the status of Table 15-5; a refused read returns zero. The effect of the
read happens where it is done. -/
def Work.busRead (w : Work) (p : Path) (a : Nat) (read : Work → Nat × Work) : Nat × Work × Nat :=
  let p := w.busPath p
  if a % 4 ≠ 0 then (0, w.regError p a false 1, 2)
  else if !w.mayRead p a then (0, w.deny p a false, 1)
  else if w.darkAt a then (0, w.regError p a false 3, 4)
  else ((read w).1, (read w).2, 0)

/-- A read by a path, its word sent out on the path, now or once what holds it up is over. -/
def Work.readOut (w : Work) (p : Path) (a : Nat) (read : Work → Nat × Work) : Work :=
  if w.holdsUp p a then w.await (.read p a none)
  else
    let r := w.busRead p a read
    r.2.1.emit (.word (pathCode (w.busPath p)) (BitVec.ofNat 32 r.1))

end Sys2Proof.Machine
end

