-- ==== Sys2Proof/Machine/Forward.lean ====
section
/-! DEFINITION. Machine/Forward.lean: the forward product: descriptor, issue, correction, chains, checks, and session products
on shared tiles (R71 to R107, R437, R438). -/

namespace Sys2Proof.Machine

/-! ### Descriptor (Tables 2-4 to 2-6) -/

/-- An entry of 32 bits (Table 2-5). -/
def fwdEntryOf (n : Nat) : FwdEntry :=
  { tile := bits n 0 4, deck := bits n 4 3, last := n.testBit 7, rowSeg := bits n 8 7, outBlk := bits n 16 7 }

/-- Number of the chain an entry belongs to: the chains that ended before it. -/
def chainNo (es : List FwdEntry) (i : Nat) : Nat := ((es.take i).filter (·.last)).length

/-- Indices of the entries of the chain of an entry, in order. -/
def chainOf (es : List FwdEntry) (i : Nat) : List Nat :=
  (List.range es.length).filter (fun j => chainNo es j == chainNo es i)

/-- Chains are consecutive, ended by LAST, each with one output block that no other has (check 5). -/
def chainsOk (es : List FwdEntry) : Bool :=
  (match es.getLast? with | some e => e.last | none => false) &&
    (es.zip (es.drop 1)).all (fun p => p.1.last || p.1.outBlk == p.2.outBlk) &&
    ((es.filter (·.last)).map (·.outBlk)).Nodup

/-- `n` bytes from a local address lie in scratchpad or in Eight SRAM, at an alignment. -/
def localFits (c a n align : Nat) : Bool := a % align == 0 && localOk a n && (localAddr c a).isSome

/-- The first check of Table 2-6 that fails after the descriptor's own place; 0 where none does. -/
def Work.fwdCheck (w : Work) (c tiles : Nat) (h : List Byte) (ws : List Nat) : Nat :=
  let es := ws.map fwdEntryOf
  let f := fun o n => leAt h o n
  if f 0 2 = 0 || 128 < f 2 1 || f 2 1 = 0 || 128 < f 20 1 || f 20 1 = 0 || 128 < f 21 1 || f 21 1 = 0 then 1
  else if es.any (fun e => !tiles.testBit e.tile) then 2
  else if es.any (fun e => !w.deckUsed e.deck) then 3
  else if es.any (fun e => f 20 1 ≤ e.rowSeg || f 21 1 ≤ e.outBlk) then 4
  else if !chainsOk es then 5
  else if 2 ≤ f 3 1 || f 23 1 ≠ 0 || ws.any (fun n => n.testBit 15 || bits n 23 9 ≠ 0) then 6
  else if !localFits c (f 4 4) (f 0 2 * f 20 1 * 1024) 64 || !localFits c (f 8 4) (f 0 2 * f 20 1) 1 ||
      !localFits c (f 12 4) (f 0 2 * f 21 1 * 2048) 64 ||
      (f 3 1 = 1 && !localFits c (f 16 4) (f 21 1 * 4096) 64) then 7
  else 0

/-- Key of a forward run. -/
def fwdKey (c s : Nat) : Nat := 4096 * c + s

/-- Forward runs of a core. -/
def Work.fwdOf (w : Work) (c : Nat) : Sp FwdRun := w.fwd.filter (fun p => p.1 / 4096 == c)

/-- FWD_STATUS.ACTIVE follows the runs. -/
def Work.fwdActive (w : Work) (c : Nat) : Work := w.bitTo (FWD_STATUS c) 0 (!(w.fwdOf c).isEmpty)

/-- A forward layer group as its descriptor at a local address of a core gives it for a tile mask, or the first check of Table 2-6 that
fails. -/
def Work.fwdGroup (w : Work) (c s desc tiles : Nat) : Except Nat FwdRun :=
  match w.descriptor c desc 24 8 with
  | none => .error 7
  | some h =>
    match w.descriptor c desc (24 + 4 * leAt h 2 1) 8 with
    | none => .error 7
    | some d =>
      let ws := (List.range (leAt h 2 1)).map (fun i => leAt d (24 + 4 * i) 4)
      let e := w.fwdCheck c tiles h ws
      if e ≠ 0 then .error e
      else
        let es := ws.map fwdEntryOf
        .ok { slot := s, vecCount := leAt h 0 2, inBase := leAt h 4 4, inExp := leAt h 8 4, outBase := leAt h 12 4,
              biasBase := if leAt h 3 1 = 1 then some (leAt h 16 4) else none, rowSegs := leAt h 20 1, outBlks := leAt h 21 1,
              pexp := sext 8 (leAt h 22 1), entries := es, launch := w.now,
              left := leAt h 0 2 * (es.filter (·.last)).length }

/-- The launch of a forward layer group slot (R97 to R100). -/
def Work.launchForward (w : Work) (c s : Nat) (sl : Slot) : Work :=
  match w.fwdGroup c s sl.desc sl.units with
  | .error cause => ((w.setBit (FWD_ERR c) 0).setFld (FWD_ERR c) 8 3 cause).programFault c cause s
  | .ok r => (({ w with fwd := Sp.put w.fwd (fwdKey c s) r }).setFld (FWD_STATUS c) 16 16 0).setBit (FWD_STATUS c) 0

/-! ### Issue (R71 to R74, R84 to R92, R99, R101, R106) -/

/-- |x| of an input as it is driven: −128 counts as 127 (R72, R88). -/
def absIn (b : Byte) : Nat := min 127 (byteLevel b).natAbs

/-- Σ|x| of each pass's rows. -/
def passSums (rec : List Byte) (p : Nat) : List Nat :=
  (List.range p).map (fun q => (((rec.drop (q * (1024 / p))).take (1024 / p)).map absIn).sum)

/-- The passes of a record under a budget (R88). -/
def passesOf (rec : List Byte) (b : Nat) : Nat :=
  let s := (rec.map absIn).sum
  if s = 0 then 0 else if s ≤ b then 1 else if (passSums rec 2).all (· ≤ b) then 2 else 4

/-- RBUDGET in force (R89, R107). -/
def Work.rowBudget (w : Work) (c t : Nat) : Nat := clampNat (w.live (RBUDGET c t) % 2 ^ 17) 32512 130048

/-- Whether a driven product is checked, and whether as the follow-up of a miss (R92, R123, R437), with the skip counted. -/
def Work.checkOf (w : Work) (c t k : Nat) : Bool × Bool × Work :=
  let v := w.tile c t
  let n := w.chkShare
  let want := n ≠ 0 && w.rd (ISSUE_CNT c t) % n = 0
  let follow := v.follow.contains k
  if v.staleDeck k then (false, false, w.when want (·.inc (CSUM_SKIP_CNT c t)))
  else if follow then (true, true, w.setTile c t { v with follow := v.follow.filter (· != k) })
  else (want, false, w)

/-- An input as it is driven: −128 as −127 (R72). -/
def driveIn (b : Byte) : Int := max (-127) (byteLevel b)

/-- Σ x_i n_ij of `n` rows from one, by weight column, with the levels the cells hold now; a row whose input is zero is not driven
(R73, R74, R105). -/
def Work.integrate (w : Work) (c t p : Nat) (rec : List Byte) (from_ n : Nat) : List Int :=
  (List.range n).foldl (fun acc i =>
    let x := driveIn (rec.getD (from_ + i) 0)
    if x = 0 then acc else List.zipWith (fun a l => a + x * l) acc (w.cellRow c t p (from_ + i))) (List.replicate 1024 0)

/-- What the column integrators hold of each pass, ideally (R74, R90). -/
def Work.passCols (w : Work) (c t p : Nat) (rec : List Byte) (n : Nat) : List (List Int) :=
  (List.range n).map (fun q => w.integrate c t p rec (q * (1024 / n)) (1024 / n))

/-- A product of a record starts at a time: it occupies the row array for its passes, 256 ns at the least (R84, R87, R91), and
is counted (R86, R90, R106, R163). One that is zero-skipped goes through conversion's time undriven, so that a product's timing
never depends on its inputs' values (R87). A poisoned one is not driven either (R101): the spec gives it no time of its own, and it
takes one interval and counts in ISSUE_CNT like any product (DESIGN CHOICE, log 112). -/
def Work.drive (w : Work) (c t k at_ : Nat) (rec : List Byte) (p : Product) : Work :=
  let ph := w.phys c t k
  let n := if p.poisoned then 0 else passesOf rec (w.rowBudget c t)
  let w := ((w.till at_).started c t at_).selectDeck c t ph
  let ck : Bool × Bool × Work := if n ≠ 0 then w.checkOf c t k else (false, false, w)
  let w := ck.2.2
  let w := w.when (w.flag (CAL_DUE c t) (16 + ph)) (·.inc (AGED_ISSUE_CNT c t))
  let w := (w.inc (ISSUE_CNT c t)).when (n = 0 && !p.poisoned) (·.inc (ZSKIP_CNT c t))
  let w := (w.when (n = 2) (·.inc (SPLIT2_CNT c t))).when (n = 4) (·.inc (SPLIT4_CNT c t))
  let w := w.when (n ≠ 0 && rec.any (· == 128)) (·.setBit (TILE_STATUS c t) 9)
  let w := w.when p.poisoned (·.setBit (TILE_STATUS c t) 11)
  let v := w.tile c t
  let q : Product := { p with ldeck := k, phys := ph, start := at_, passes := n, driven := (passSums rec n).map (· ≠ 0),
                              cols := w.passCols c t ph rec n, cfg := w.live (DECK_CFG c t k), chk := w.live (TILE_CHK c t), sums := passSums rec n,
                              scales := (List.range 32).map (w.oscale c t k),
                              coefs := w.coefsOf c t ph,
                              sum := (rec.map absIn).sum, checked := ck.1, follow := ck.2.1 }
  (w.setTile c t { v with freeFrom := at_ + 256 * max 1 n, flight := v.flight ++ [q] }).busyBit c t

/-- A product of a record about to be driven. -/
def newProduct (for_ : ProductFor) (xexp : Int) (poisoned : Bool) : Product :=
  { for_ := for_, ldeck := 0, phys := 0, start := 0, passes := 0, driven := [], cols := [], sums := [], cfg := 0, chk := 0, scales := [], sum := 0,
    xexp := xexp, checked := false, follow := false, poisoned := poisoned }

/-- The next vector of an entry. -/
def FwdRun.next (r : FwdRun) (i : Nat) : Nat := Sp.get r.nextVec 0 i

/-- The entry that a tile serves next: the least vector, then entry order (R99). -/
def FwdRun.pick (r : FwdRun) (t : Nat) : Option Nat :=
  let mine := ((r.entries.zipIdx).filter (fun p => p.1.tile == t)).map (·.2)
  let todo := mine.filter (fun i => r.next i < r.vecCount)
  match (todo.map r.next).min? with
  | some v => todo.find? (fun i => r.next i == v)
  | none => none

/-- The tile has issued a product of the run. -/
def FwdRun.begun (r : FwdRun) (t : Nat) : Bool := (r.entries.zipIdx).any (fun p => p.1.tile == t && r.next p.2 != 0)

/-- The end of the row-array part of vector v over a chain; none until every entry has issued it (R99). -/
def FwdRun.chainEnd (r : FwdRun) (i v : Nat) : Option Nat :=
  let es := chainOf r.entries i
  if es.all (fun j => v < r.next j) then some ((es.map (fun j => Sp.get r.rowEnd 0 (2 * j + v % 2))).foldl max 0) else none

/-! ### Chains and outputs (R81, R82, R101) -/

/-- A partial as FP32 (R81): the exponent sum is that of the descriptor, the record, and the deck's range. -/
def partialF32 (part e : Int) : Word := (FV.fin (decide (part < 0)) part.natAbs e).toF32

/-- The BF16 block of a chain: FP32 sums in entry order from +0, the bias, then BF16 (R82); whether a group of 32 saturated. -/
def chainBlock (parts : List (List Word)) (bias : Option (List Word)) : List Byte × Nat :=
  let sums := (List.range 1024).map (fun j =>
    let s := parts.foldl (fun a p => fadd a (p.getD j 0)) (0 : Word)
    match bias with | some b => fadd s (b.getD j 0) | none => s)
  let ps := sums.map (fun v => narrowPlain 1 (f32 v) none)
  (ps.flatMap (fun p => toLE 2 p.1),
    ((List.range 32).filter (fun g => ((ps.drop (32 * g)).take 32).any (·.2))).length)

/-- What a run is after an output, and what the output was: whether the run ends, whether a vector is whole, and whether the block is
poisoned. -/
structure ChainOut where
  run : FwdRun
  wrote : Bool := false
  full : Bool := false
  bad : Bool := false

/-- Vector v of the chain of entry i of a run on a core: once every partial is there, its block is written, poisoned where a partial
or the bias is (R82, R101). -/
def Work.chainPut (w : Work) (c : Nat) (r : FwdRun) (i v : Nat) : ChainOut × Work :=
  let es := chainOf r.entries i
  let got := es.map (fun j => Sp.find r.got (128 * v + j))
  if !got.all (·.isSome) then ({ run := r }, w)
  else
    let parts := got.filterMap (fun g => g.join)
    let blk := ((r.entries[i]?).map (·.outBlk)).getD 0
    let bias := r.biasBase.bind (fun b => w.localGet c (b + 4096 * blk) 4096)
    let bad := parts.length < es.length || (match bias with | some b => b.2 | none => false)
    let bw := bias.map (fun b => (List.range 1024).map (fun j => BitVec.ofNat 32 (leAt b.1 (4 * j) 4)))
    let out := chainBlock parts bw
    let w := if bad then (let d := w.drawBytes 2048; d.2.localPut c (r.outBase + (v * r.outBlks + blk) * 2048) d.1 true)
      else (w.localPut c (r.outBase + (v * r.outBlks + blk) * 2048) out.1 false).incBy (SAT_BLK_CNT c) out.2
    let n := Sp.get r.vecDone 0 v + 1
    let full := n = (r.entries.filter (·.last)).length
    let kept := r.got.filter (fun g => !es.any (fun j => g.1 == 128 * v + j))
    ({ run := { r with got := kept, left := r.left - 1, vecDone := if full then Sp.erase r.vecDone v else Sp.put r.vecDone v n },
       wrote := true, full := full, bad := bad }, w)

/-- Vector v of the chain of entry i of a slot: a slot whose last block is written completes (R99). -/
def Work.chainDone (w : Work) (c s i v : Nat) : Work :=
  match Sp.find w.fwd (fwdKey c s) with
  | none => w
  | some r =>
    let o := w.chainPut c r i v
    let w := o.2.when o.1.full (·.inc (FWD_VEC_CNT c))
    if o.1.wrote && o.1.run.left = 0 then (({ w with fwd := Sp.erase w.fwd (fwdKey c s) }).fwdActive c).completeSlot c s
    else { w with fwd := Sp.put w.fwd (fwdKey c s) o.1.run }

/-- The partials of entry i for vector v reach the forward engine. -/
def Work.deposit (w : Work) (c s i v : Nat) (part : Option (List Word)) : Work :=
  match Sp.find w.fwd (fwdKey c s) with
  | none => w
  | some r => ({ w with fwd := Sp.put w.fwd (fwdKey c s) { r with got := Sp.put r.got (128 * v + i) part } }).chainDone c s i v

/-- The partials of entry i for vector v of a session's forward layer group: a poisoned output poisons the request (R290), and the
group is done with its last block. -/
def Work.depositSession (w : Work) (n i v : Nat) (part : Option (List Word)) : Work :=
  match Sp.find w.sess.fwd n with
  | none => w
  | some (c, r) =>
    let o := w.chainPut c { r with got := Sp.put r.got (128 * v + i) part } i v
    let done := o.1.wrote && o.1.run.left = 0
    let w := { o.2 with sess := { o.2.sess with
      fwd := if done then Sp.erase o.2.sess.fwd n else Sp.put o.2.sess.fwd n (c, o.1.run) } }
    w.noteRun n (fun u => { u with bad := u.bad || o.1.bad, lastStep := w.rd STEP_COMMITTED })

/-- The partials of a product go to the chain it is for. -/
def Work.partials (w : Work) (c t : Nat) (p : Product) (part : Option (List Word)) : Work :=
  match p.for_ with
  | .train i v =>
    match (w.fwdOf c).find? (fun q => q.2.entries.any (fun e => e.tile == t)) with
    | some q => w.deposit c q.2.slot i v part
    | none => w
  | .session n i v => w.depositSession n i v part
  | .nobody => w

/-- The forward engine issues the next vector of a tile that a slot claims (R99, R102): after what its chain waits for, 64 ns
after the launch for its first (R84), within the cap (R475). -/
def Work.issueTrain (w : Work) (c t : Nat) : Work :=
  match (w.fwdOf c).findSome? (fun q => (q.2.pick t).map (fun i => (q.2, i))) with
  | none => w
  | some (r, i) =>
    match r.entries[i]? with
    | none => w
    | some e =>
      let v := r.next i
      let wait := if v = 0 then some 0 else r.chainEnd i (v - 1)
      let ph := w.phys c t e.deck
      let ready := if r.begun t then w.driveTime c t ph else max w.now (max (w.tile c t).freeFrom (r.launch + 64))
      match wait.bind (fun x => w.capTime c t (max x ready)) with
      | none => w
      | some at_ =>
        if w.held c t then w
        else
          let off := v * r.rowSegs + e.rowSeg
          match w.localGet c (r.inBase + 1024 * off) 1024, w.localGet c (r.inExp + off) 1 with
          | some rec, some x =>
            let bad := rec.2 || x.2
            let m := if bad then 1 else max 1 (passesOf rec.1 (w.rowBudget c t))
            let w := (w.drive c t e.deck at_ rec.1 (newProduct (.train i v) (sext 8 (leNat x.1)) bad)).setFld (FWD_STATUS c) 16 16 v
            let r := { r with nextVec := Sp.put r.nextVec i (v + 1), rowEnd := Sp.put r.rowEnd (2 * i + v % 2) (at_ + 256 * m) }
            { w with fwd := Sp.put w.fwd (fwdKey c r.slot) r }
          | _, _ => w

/-! ### Conversion and correction (R75 to R81, R93) -/

/-- v1 of a column: the sum over driven passes of 4c − off (R77). -/
def Product.v1 (p : Product) (codes : List (List Int)) (j : Nat) (off : Int) : Int :=
  ((List.range p.passes).map (fun q =>
    if p.driven.getD q false then 4 * ((codes[q]?).getD []).getD j 0 - off else 0)).sum

/-- A product's code of a driven pass lies at an end of the range (R76). -/
def Product.saturates (p : Product) (codes : List (List Int)) (csum : List Int) : Bool :=
  (List.range p.passes).any (fun q => p.driven.getD q false &&
    (((codes[q]?).getD []).any (fun x => x == 127 || x == -128) || (p.checked && (csum.getD q 0 == 127 || csum.getD q 0 == -128))))

/-- RANGE and e of the deck as the product was issued (R107, Table 2-15). -/
def Product.range (p : Product) : Nat := p.cfg % 4
def Product.csdiv (p : Product) : Nat := min 10 (bits p.cfg 4 4)

/-- A code held within the array noise bound of a pass (R95): the ideal column value, S of the pass, RANGE, offset, gain and drift.
With v = (4c − off) 2^(3+2r) divided by gain × drift, the bound is |v − ideal| ≤ 2 · 2^(5+2r) + 15 S / 4,096; the code that the bound
puts beyond the converter's range is its end (R76). -/
def heldCode (ideal : Int) (s r : Nat) (off gain drift c : Int) : Int :=
  let gd := gain * drift
  if gd = 0 then c
  else
    let unit : Int := 4096 * 2 ^ (33 + 2 * r)
    let b := (8192 * 2 ^ (5 + 2 * r) + 15 * (s : Int)) * gd
    let lo := -((b - 4096 * ideal * gd) / unit)
    let hi := (4096 * ideal * gd + b) / unit
    clampInt (clampInt c (-((-(lo + off)) / 4)) ((hi + off) / 4)) (-128) 127

/-- The code of a column of a pass within the noise bound. -/
def Product.boundCode (p : Product) (codes : List (List Int)) (q j : Nat) : Int :=
  heldCode ((p.cols.getD q []).getD j 0) (p.sums.getD q 0) p.range (p.coefs.offOf j) (p.coefs.gainOf j) p.coefs.drift
    (((codes[q]?).getD []).getD j 0)

/-- The codes of a product as the analogue array can give them (R76, R95): while the deck's coefficients are valid every code lies within
the noise bound of its column; of a product that saturates, for which the bound is not promised, only the saturated columns are held. -/
def Product.heldCodes (p : Product) (codes : List (List Int)) : List (List Int) :=
  if !p.coefs.valid then codes
  else
    let held := (List.range p.passes).map (fun q =>
      if p.driven.getD q false then (List.range 1024).map (p.boundCode codes q) else (codes[q]?).getD [])
    let ends := fun (x : Int) => x == 127 || x == -128
    if (List.range p.passes).any (fun q => p.driven.getD q false && (held.getD q []).any ends) then
      (List.range p.passes).map (fun q =>
        (List.range 1024).map (fun j => if ends ((held.getD q []).getD j 0) then (held.getD q []).getD j 0 else ((codes[q]?).getD []).getD j 0))
    else held

/-- The partial of a column before its clamp, rounded half to even (R77). -/
def Product.rawPart (p : Product) (codes : List (List Int)) (j : Nat) : Int :=
  roundHalfEven (p.v1 codes j (p.coefs.offOf j) * p.coefs.gainOf j * p.coefs.drift * p.scales.getD (j / 32) 0) (2 ^ 44)

/-- D of R93 in units of 2^−30 quarter steps. -/
def Product.csumDiff (p : Product) (codes : List (List Int)) (csum : List Int) : Int :=
  let cols := ((List.range 1024).map (fun j => p.v1 codes j (p.coefs.offOf j) * p.coefs.gainOf j)).sum
  let side := p.v1 (csum.map (fun x => [x])) 0 p.coefs.sideOff * p.coefs.sideGain
  (cols - 2 ^ p.csdiv * side) * p.coefs.drift

/-- T of R93 in quarter steps. -/
def Product.csumLimit (p : Product) : Nat :=
  bits p.chk 0 16 + bits p.chk 16 8 * p.sum * 2 ^ p.csdiv / 2 ^ (9 + 2 * p.range)

/-- The product is a training slot's. -/
def Product.isTrain (p : Product) : Bool := match p.for_ with | .train _ _ => true | _ => false

/-- A lasting checksum miss (R437, Table 12-4): column calibration and the deck's drift due; training work aborts. -/
def Work.tileCheckFault (w : Work) (c t : Nat) (p : Product) : Work :=
  let w := (((w.inc CS_LASTING_CNT).setBit (CAL_DUE c t) 0).setBit (CAL_DUE c t) (8 + p.phys))
  if p.isTrain then
    w.lasting { cls := 4, unit := c, code := t } (some 7) (w.crewsFor 0 (w.coreCrew c))
  else w.lasting { cls := 4, unit := c, code := t, flags := 8 } none []

/-- The compare of a checked product (R93, R437, R438). -/
def Work.compareCsum (w : Work) (c t : Nat) (p : Product) (codes : List (List Int)) (csum : List Int) : Work :=
  if !p.checked then w
  else
    let w := w.inc (CS_CHECK_CNT c t)
    let miss := p.csumLimit * 2 ^ 30 < (p.csumDiff codes csum).natAbs
    if !miss then w.when p.follow (·.transient CS_TRANS_CNT)
    else
      let w := (w.inc (CS_MISS_CNT c t)).setBit (TILE_STATUS c t) 6
      if !p.coefs.valid then w
      else if p.follow then w.tileCheckFault c t p
      else w.setTile c t { w.tile c t with follow := ((w.tile c t).follow ++ [p.ldeck]).dedup }

/-- The FP32 partials of a product's codes, counted where they clamp (R77, R79, R81). -/
def Product.correct (p : Product) (codes : List (List Int)) (pexp : Int) : List Word :=
  (List.range 1024).map (fun j => partialF32 (clampInt (p.rawPart codes j) (-32768) 32767) (pexp + p.xexp + 3 + 2 * (p.range : Int)))

/-- PEXP of the run that a product is for. -/
def Work.pexpOf (w : Work) (c t : Nat) (p : Product) : Int :=
  match p.for_ with
  | .train _ _ => match (w.fwdOf c).find? (fun q => q.2.entries.any (fun e => e.tile == t)) with | some q => q.2.pexp | none => 0
  | .session n _ _ => match Sp.find w.sess.fwd n with | some (_, r) => r.pexp | none => 0
  | .nobody => 0

/-- The codes of a driven product are taken: saturation and clamp counted, the checksum compared, the partials delivered. -/
def Work.convert (w : Work) (c t : Nat) (p : Product) (codes : List (List Int)) (csum : List Int) : Work :=
  let w := w.when (p.saturates codes csum) (fun v => (v.inc (ADC_SAT_CNT c t)).setBit (TILE_STATUS c t) 7)
  let clamps := (List.range 1024).any (fun j => p.rawPart codes j < -32768 || 32767 < p.rawPart codes j)
  let w := w.when clamps (fun v => (v.inc (PCLAMP_CNT c t)).setBit (TILE_STATUS c t) 8)
  (w.compareCsum c t p codes csum).partials c t p (some (p.correct codes (w.pexpOf c t p)))

/-- A product's time in the tile ends: a driven one is converted and corrected (R77), a zero-skipped one gives exact zeros (R86), a
poisoned one poison (R101). -/
def Work.productDone (w : Work) (c t : Nat) (codes : List (List Int)) (csum : List Int) : Work :=
  match (w.tile c t).flight with
  | [] => w
  | p :: rest =>
    let w := (w.till (p.start + 256 * (p.passes - 1) + 416)).setTile c t { w.tile c t with flight := rest }
    let w := (w.busyBit c t).progress c
    if p.poisoned then w.partials c t p none
    else if p.passes = 0 then w.partials c t p (some (List.replicate 1024 0))
    else w.convert c t p (p.heldCodes codes) csum

/-! ### Sessions on shared tiles (R102 to R106, R142, R143, R285) -/

/-- The class of a session's request under way. -/
def Work.sessionClass (w : Work) (n : Nat) : Nat :=
  match Sp.find w.sess.open_ n with
  | some s => match s.run with | some r => r.req.cls | none => 0
  | none => 0

/-- The classes that the slot which claims a tile lets on it: none for a forward slot, CLASS_MASK for a reservation (R285). -/
def Work.tileServes (w : Work) (c t cls : Nat) : Bool :=
  match (w.cox c).prog with
  | none => true
  | some p => (p.slots.zipIdx).all (fun q =>
      !((w.cox c).running q.2 && q.1.tiles.testBit t) ||
        (if q.1.action = 0 then false
         else if q.1.action = 7 then
           match w.localGet c q.1.desc 1 with | some d => (leNat d.1).testBit cls | none => false
         else true))

/-- A tile refuses session requests: SESS_EN clear, a full queue of 32, or REPEAT set under the cause CAL_REPEAT (R104, Tables 2-9 and
12-12). -/
def Work.refusesSession (w : Work) (c t : Nat) : Bool :=
  !w.flag (TILE_CTL c t) 0 || 32 ≤ (w.tile c t).queue.length || (w.flag REPL_STATUS 4 && w.flag (CAL_STATUS c t) 2)

/-- The session engine asks a tile to take the oldest product it holds for it from a session (R104, R284): the product enters the queue,
or is refused and stays with the engine, which asks again. Which session's product it offers next, the spec leaves to the engine: an
operand (notes/assumptions/28.md). -/
def Work.queueSession (w : Work) (c t n : Nat) : Work :=
  let mine := fun (q : SessProduct) => q.core == c && q.tile == t && q.session == n
  match w.sess.offers.find? mine with
  | none => w
  | some q =>
    if w.refusesSession c t then w
    else
      let v := w.tile c t
      ({ w with sess := { w.sess with offers := w.sess.offers.eraseP mine } }).setTile c t
        { v with queue := v.queue ++ [{ q with waited := w.held c t }] }

/-- A product of a session's request starts: the first one fixes STEP_FIRST, one in a recovery window marks the request (R287). -/
def Work.noteStart (w : Work) (c n : Nat) : Work :=
  w.noteRun n (fun u => { u with first := some (u.first.getD (w.rd STEP_COMMITTED)), recovery := u.recovery || w.inRecovery c })

/-- The record that a queued session product drives: logical deck, bytes, exponent, poison; none where its session has gone. -/
def Work.sessRecord (w : Work) (q : SessProduct) : Option (Nat × List Byte × Int × Bool) :=
  match Sp.find w.sess.fwd q.session with
  | none => none
  | some (c, r) =>
    match r.entries[q.entry]? with
    | none => none
    | some e =>
      let off := q.vec * r.rowSegs + e.rowSeg
      match w.localGet c (r.inBase + 1024 * off) 1024, w.localGet c (r.inExp + off) 1 with
      | some rec, some x => some (e.deck, rec.1, sext 8 (leNat x.1), rec.2 || x.2)
      | _, _ => none

/-- The head of a tile's session queue starts where its row-array part ends before the next training launch that claims the
tile, and by the end of a unit's service gap (R102, R103, R142); a poisoned record is not driven (R101). -/
def Work.startSession (w : Work) (c t : Nat) : Work :=
  let v := w.tile c t
  match v.queue with
  | [] => w
  | q :: rest =>
    match w.sessRecord q with
    | none => w.setTile c t { v with queue := rest }
    | some (k, rec, x, bad) =>
      let ph := w.phys c t k
      let n := if bad then 0 else passesOf rec (w.rowBudget c t)
      if w.held c t || !w.tileServes c t (w.sessionClass q.session) || w.fault.ftStart.isSome then w
      else match w.capTime c t (w.sessDriveTime c t ph) with
      | none => w
      | some at_ =>
        let fin := at_ + 256 * max 1 n
        let free : Bool := match w.nextLaunch c t with | some e => fin < e | none => true
        let gap : Bool := v.unitEnd ≤ at_ || fin ≤ v.unitEnd
        if !free || !gap then w
        else
          let w := (w.when q.waited (·.inc (HOLD_WAIT_CNT c t))).setTile c t { v with queue := rest }
          ((w.drive c t k at_ rec (newProduct (.session q.session q.entry q.vec) x bad)).inc (SESS_CNT c t)).noteStart c q.session

/-- A write of RBUDGET (R89, R107): below the limit it sets BUDGET_LOW and is taken as the limit. -/
def Work.writeBudget (w : Work) (c t v : Nat) : Work :=
  let b := v % 2 ^ 17
  (w.wrLater (RBUDGET c t) (clampNat b 32512 130048)).when (b < 32512) (·.setBit (TILE_STATUS c t) 10)

/-! ### The commands -/

/-- FWD_PRODUCT_ISSUE (R84, R86, R88, R99, R101). -/
def execFwdProductIssue (core : Fin 1024) (tile : Fin 16) (s : State) : Ans :=
  s.run (fun _ w => w.issueTrain core.val tile.val)

/-- FWD_PRODUCT_DONE (R75 to R82, R93, R437): the codes of each pass, and the checksum column's code of each pass. -/
def execFwdProductDone (core : Fin 1024) (tile : Fin 16) (codes : List (List Int)) (csum : List Int) (s : State) : Ans :=
  s.run (fun _ w => w.productDone core.val tile.val codes csum)

/-- SESSION_PRODUCT_START (R102 to R106). -/
def execSessionProductStart (core : Fin 1024) (tile : Fin 16) (s : State) : Ans :=
  s.run (fun _ w => w.startSession core.val tile.val)

/-- TILE_SESSION_REQUEST (R104, R284). -/
def execTileSessionRequest (core : Fin 1024) (tile : Fin 16) (session : Fin 1024) (s : State) : Ans :=
  s.run (fun _ w => w.queueSession core.val tile.val session.val)

/-- RBUDGET_WRITE (R89). -/
def execRbudgetWrite (path : Path) (core : Fin 1024) (tile : Fin 16) (value : Word) (s : State) : Ans :=
  s.run (fun _ w => w.onBus path (RBUDGET core.val tile.val) value.toNat
    (fun v => v.writeBudget core.val tile.val value.toNat))

end Sys2Proof.Machine
end

