-- ==== Sys2Proof/Machine/Memc.lean ====
section
/-! DEFINITION. Machine/Memc.lean: the memory controllers: codewords, reads and their retry, die marking, region retirement,
writes, tensor blocks, remote accumulate, zeroisation (R295 to R326). -/

namespace Sys2Proof.Machine

/-! ### The code (R297, R298, R309) -/

/-- A field element times α in GF(2^16) with x^16 + x^12 + x^3 + x + 1. -/
def gfShift (a : Nat) : Nat := if a.testBit 15 then (2 * a) % 65536 ^^^ 0x100B else 2 * a

/-- The product of two field elements; `n` bits of the second are left. -/
def gfMulN : Nat → Nat → Nat → Nat
  | 0, _, _ => 0
  | n + 1, a, b => (if b % 2 = 1 then a else 0) ^^^ gfMulN n (gfShift a) (b / 2)

/-- The product of two field elements. -/
def gfMul (a b : Nat) : Nat := gfMulN 16 a b

/-- A power of α. -/
def gfAlpha : Nat → Nat
  | 0 => 1
  | n + 1 => gfShift (gfAlpha n)

/-- A polynomial times (x − a), coefficients lowest first. -/
def polyTimes (p : List Nat) (a : Nat) : List Nat :=
  ((p.map (gfMul a)) ++ [0]).zipWith (· ^^^ ·) (0 :: p)

/-- The generator g(x) (R298). -/
def rsGen : List Nat := (List.range 16).foldl (fun p i => polyTimes p (gfAlpha i)) [1]

/-- One step of the division: the highest data symbol enters the remainder of 16 symbols, lowest first. -/
def rsStep (rem : List Nat) (d : Nat) : List Nat :=
  let f := d ^^^ rem.getD 15 0
  (List.range 16).map (fun i => (if i = 0 then 0 else rem.getD (i - 1) 0) ^^^ gfMul f (rsGen.getD i 0))

/-- The check symbols of data symbols given lowest first (R298). -/
def rsCheck (ds : List Nat) : List Nat := ds.reverse.foldl rsStep (List.replicate 16 0)

/-- The data symbols of a line (R297). -/
def lineSymbols (line : List Byte) : List Nat := (List.range 128).map (fun s => leAt line (2 * s) 2)

/-- The poison pattern of the check symbols (R309). -/
def poisonPattern : Nat := 0x5AA5

/-- The stored codeword of a line: 16 check symbols, with the poison pattern where it is poisoned, then the data (R297, R309). -/
def codewordOf (line : List Byte) (poison : Bool) : List Nat :=
  (rsCheck (lineSymbols line)).map (fun x => if poison then x ^^^ poisonPattern else x) ++ lineSymbols line

/-- The die that stores a codeword position (Table 8-1). -/
def dieOf (p : Nat) : Nat := if p < 8 then 16 else if p < 16 then 17 else (p - 16) / 8

/-! ### Decoding (Table 8-2) -/

/-- The stack is in ERASURE mode, and its marked die. -/
def Work.erasure (w : Work) (m : Nat) : Bool := w.flag (MC_STATUS m) 1
def Work.failedDie (w : Work) (m : Nat) : Nat := w.fld (MC_STATUS m) 2 5

/-- Bad symbols outside a die. -/
def further (bad : List Nat) (z : Nat) : Nat := (bad.filter (fun p => dieOf p != z)).length

/-- A line with some bad symbols decodes in the stack's mode. -/
def Work.decodes (w : Work) (m : Nat) (bad : List Nat) : Bool :=
  if w.erasure m then further bad (w.failedDie m) ≤ 4 else bad.length ≤ 8

/-- The line's decoding corrects symbols that count: in ERASURE mode only those beyond the marked die (R305). -/
def Work.corrects (w : Work) (m : Nat) (bad : List Nat) : Bool :=
  if w.erasure m then further bad (w.failedDie m) ≠ 0 else !bad.isEmpty

/-- The bad symbols that decide a line's decoding: with the pattern removed where it is stored poisoned (R310). -/
def Work.badOf (w : Work) (line : Nat) (bad pbad : List Nat) : List Nat := if w.poison.contains line then pbad else bad

/-- Stack and region of a line of the address map. -/
def lineRegion (line : Nat) : Nat × Nat := ((stackOf (256 * line)).1, (stackOf (256 * line)).2 / 2 ^ 21)

/-- A corrected read is counted, and its region's count with it (R305). -/
def Work.countCe (w : Work) (line : Nat) : Work :=
  let r := lineRegion line
  let k := w.memc r.1
  (w.setMemc r.1 { k with counts := Sp.put k.counts r.2 (min 65535 (Sp.get k.counts 0 r.2 + 1)) }).inc (CE_CNT r.1)

/-- The current generation of a reset domain (R460). -/
def Work.unitGen (w : Work) (unit : Nat) : Nat := Sp.get w.fault.gens 0 unit % 256

/-- A request or response bears the current generation of its domain (R461). -/
def Work.current (w : Work) (i : Issuer) : Bool := w.unitGen i.unit == i.gen

/-- What a request that a unit issues now carries. -/
def Work.issuer (w : Work) (unit : Nat) : Issuer := { unit := unit, gen := w.unitGen unit }

/-- A response reaches the edge of the domain that asked: one that bears another generation is dropped there (R461). -/
def Work.respond (w : Work) (i : Issuer) (addr : Nat) (bs : List Byte) (poison : Bool) : Work :=
  if w.current i then w.emit (.line i addr bs poison) else w.inc RGEN_DROP_CNT

/-- A line that decoded is delivered, with the poison mark that it is stored with (R310). -/
def Work.deliver (w : Work) (i : Issuer) (line : Nat) : Work :=
  let m := (lineRegion line).1
  let p := w.poison.contains line
  ((w.when p (·.inc (POISON_RD_CNT m))).progress (1080 + m)).respond i (256 * line) (w.bytes (256 * line) 256) p

/-- A line that stayed uncorrectable is delivered poisoned (R300, R301). -/
def Work.deliverBad (w : Work) (i : Issuer) (line : Nat) : Work :=
  (w.progress (1080 + (lineRegion line).1)).respond i (256 * line) (w.bytes (256 * line) 256) true

/-- A stack's record for the manager (R562): its marked die and its retirement list. -/
def Work.stackRecord (w : Work) (m : Nat) : List Byte :=
  let l := (w.memc m).retired
  toBE 1 m ++ zeros 3 ++ toBE 1 (if w.erasure m then w.failedDie m else 31) ++ toBE 1 l.length ++ zeros 2 ++
    l.flatMap (toBE 2) ++ zeros (128 - 2 * l.length)

/-- A die is marked failed (R304). -/
def Work.markDie (w : Work) (m z : Nat) : Work :=
  let w := ((w.setBit (MC_STATUS m) 1).setFld (MC_STATUS m) 2 5 z).setBit (MC_ERR m) 0
  (w.replace 1 (1080 + m)).report 3 0 (w.stackRecord m)

/-- The dies whose erasure lets a read decode (R300). -/
def trialDies (bad : List Nat) : List Nat := (List.range 18).filter (fun z => further bad z ≤ 4)

/-- A line decoded at the first read: a corrected one is counted (R305). -/
def Work.decoded (w : Work) (line : Nat) (bad : List Nat) : Work := w.when (w.corrects (lineRegion line).1 bad) (·.countCe line)

/-- What an uncorrectable first read comes to with its retry, given the bad symbols of both: whether the line decodes, and what is
counted and marked (R299 to R301). -/
def Work.retried (w : Work) (line : Nat) (bad retry : List Nat) : Bool × Work :=
  let m := (lineRegion line).1
  let lost := (false, (w.inc (UE_CNT m)).setBit (MC_ERR m) 1)
  if w.decodes m retry then (true, (w.transient (UE_TRANS_CNT m)).decoded line retry)
  else if w.erasure m then lost
  else match trialDies bad, trialDies retry with
    | [z], [y] => if z = y then (true, (w.markDie m z).countCe line) else lost
    | _, _ => lost

/-- A request waits for the end of a zeroisation (R326). -/
def Work.park (w : Work) (i : Issuer) (p : Parked) : Work := { w with parked := w.parked ++ [(i, p)] }

/-- A first read of a line of the address map (R299, R305, R310): bad symbols as stored, and with the pattern removed. -/
def Work.readLine (w : Work) (i : Issuer) (line : Nat) (bad pbad : List Nat) : Work :=
  let m := (lineRegion line).1
  if !w.serves m then w.park i (.read (256 * line) bad pbad)
  else
    let b := w.badOf line bad pbad
    let w := w.foldWait (256 * line) 256
    if w.decodes m b then (w.decoded line b).deliver i line
    else (w.progress (1080 + m)).setMemc m { w.memc m with retries := (w.memc m).retries ++ [{ issuer := i, line := line, bad := bad, pbad := pbad }] }

/-- The retry of a read (R299 to R302). -/
def Work.retryLine (w : Work) (line : Nat) (bad pbad : List Nat) : Work :=
  let m := (lineRegion line).1
  match (w.memc m).retries.find? (fun r => r.line == line) with
  | none => w
  | some r =>
    if !w.serves m then w.park r.issuer (.retry (256 * line) bad pbad)
    else
      let w := w.setMemc m { w.memc m with retries := (w.memc m).retries.erase r }
      let t := w.retried line (w.badOf line r.bad r.pbad) (w.badOf line bad pbad)
      if t.1 then t.2.deliver r.issuer line else t.2.deliverBad r.issuer line

/-- An address leads to a line of the stacks, through the aperture where it lies there (R272, R295). -/
def Work.onLine (w : Work) (i : Issuer) (a : Nat) (f : Work → Nat → Work) : Work :=
  if a < apertureBase then f w (a / 256)
  else match w.resolve a with
    | .at_ b => f w (b / 256)
    | .zeros => w.emit (.line i (a / 256 * 256) (zeros 256) false)
    | .unmapped => let d := w.unmapped.drawBytes 256; d.2.emit (.line i (a / 256 * 256) d.1 true)

/-! ### Writes (R311) -/

/-- A write of part or all of one line; a part reads the line first, and once more where that fails, whose bad symbols are given. -/
def Work.writeLine (w : Work) (a : Nat) (bs : List Byte) (poison : Bool) (bad retry : List Nat) : Work :=
  let line := a / 256
  let m := (lineRegion line).1
  if bs.length = 256 then w.put a bs poison
  else
    let t := if w.decodes m bad then (true, w.decoded line bad) else w.retried line bad retry
    if t.1 then t.2.putStack a bs poison
    else
      let v := t.2.inc (RMW_POISON_CNT m)
      (v.store a bs).mark a bs.length

/-- Writes line by line; the bad symbols of line i of the write are those numbered from 144 i. -/
def Work.writeHbm (w : Work) (a : Nat) (bs : List Byte) (poison : Bool) (bad retry : List Nat) : Work :=
  ((linesOf a bs.length).zipIdx).foldl (fun (v : Work) q =>
    let part := sub bs (q.1.1 - a) q.1.2
    let mine := fun (l : List Nat) => (l.filter (fun p => p / 144 == q.2)).map (· % 144)
    if q.1.1 < apertureBase then v.writeLine q.1.1 part poison (mine bad) (mine retry)
    else match v.resolve q.1.1 with
      | .at_ b => v.writeLine b part poison (mine bad) (mine retry)
      | .zeros => v
      | .unmapped => v.unmapped) w

/-! ### Tensor blocks (R313 to R316) -/

/-- The block's CHECK matches its payload and poison map (Table 8-4). -/
def blockChecks (b : Block) : Bool := crc32c (b.data ++ toBE 2 b.poisonMap) == b.check

/-- A block written at its destination, each 256 bytes with its own mark. -/
def Work.putBlock (w : Work) (b : Block) (poisonAll : Bool) : Work :=
  (List.range (ceilDiv b.data.length 256)).foldl (fun (v : Work) i =>
    let part := (b.data.drop (256 * i)).take 256
    let p := poisonAll || b.poisonMap.testBit i
    match b.eight with
    | none => v.hbmPut (b.dest + 256 * i) part p
    | some _ => v.put (b.dest + 256 * i) part p) w

/-- The controller of a block's destination serves it (R326). -/
def Work.blockServed (w : Work) (b : Block) : Bool := b.eight.isSome || w.rangeServes b.dest b.data.length

/-- The first arrival of a block (R314, R315). -/
def Work.blockArrives (w : Work) (b : Block) : Work :=
  if !w.current b.issuer then w
  else if !w.blockServed b then w.park b.issuer (.block b false)
  else if blockChecks b then w.putBlock b false
  else ({ w with asked := w.asked ++ [(b.dest, b.source)] }).emit (.askBlock b.source)

/-- The counters of a block's receiver. -/
def blockRetryCnt (b : Block) : Nat :=
  match b.eight with | some e => EIGHT_TBLK_RETRY_CNT e.val | none => TBLK_RETRY_CNT (stackOf b.dest).1
def blockFailCnt (b : Block) : Nat :=
  match b.eight with | some e => EIGHT_TBLK_FAIL_CNT e.val | none => TBLK_FAIL_CNT (stackOf b.dest).1

/-- The second arrival of a block (R315, R316). -/
def Work.blockAgain (w : Work) (b : Block) : Work :=
  if !w.asked.contains (b.dest, b.source) || !w.current b.issuer then w
  else if !w.blockServed b then w.park b.issuer (.block b true)
  else
    let w := { w with asked := w.asked.erase (b.dest, b.source) }
    if blockChecks b then (w.putBlock b false).transient (blockRetryCnt b)
    else
      let w := (w.putBlock b true).inc (blockFailCnt b)
      let w := match b.eight with | none => w.setBit (MC_ERR (stackOf b.dest).1) 2 | some _ => w
      let unit := match b.eight with | some e => 1092 + e.val | none => 1080 + (stackOf b.dest).1
      w.lasting { cls := 5, unit := unit, addr := b.dest, detail := b.source % 2 ^ 32 } (some 10) (w.crewsFor 0 none)

/-! ### Remote accumulate (R317 to R323) -/

/-- Payload bytes of a contribution's format; none for a format that is not defined. -/
def accBytes (fmt : Nat) : Option Nat := match fmt with | 0 => some 4096 | 1 => some 2048 | 2 => some 1024 | _ => none

/-- A contribution's 1,024 values as FP32 (R223, R318). -/
def contribValues (k : Contribution) : List Word :=
  (List.range 1024).map (fun i =>
    match k.fmt with
    | 0 => (f32 (BitVec.ofNat 32 (leAt k.data (4 * i) 4))).toF32
    | 1 => (decodeElem 1 (leAt k.data (2 * i) 2)).toF32
    | _ => ((decodeElem 3 (leAt k.data i 1)).scale k.xexp).toF32)

/-- The contribution carries poison, or failed its check lastingly (R321). -/
def contribBad (k : Contribution) : Bool := k.lost || k.poisonMap ≠ 0

/-- Destination lines that a contribution's poisoned lines cover. -/
def contribLines (k : Contribution) : List Nat :=
  let per := match k.fmt with | 0 => 1 | 1 => 2 | _ => 4
  (List.range 16).filter (fun i => k.lost || k.poisonMap.testBit (i / per))

/-- A contribution applied in its turn (R318, R321, R322). -/
def Work.applyContrib (w : Work) (k : Contribution) : Work :=
  let m := (stackOf k.dest).1
  let vs := if contribBad k then List.replicate 1024 0 else contribValues k
  let new := if k.seq = 0 then vs else (w.wordsAt k.dest 1024).zipWith fadd vs
  let w := (w.when (k.seq ≠ 0) (·.poisonReads k.dest 4096)).store k.dest (wordsLE new)
  let w := w.when (k.seq = 0) (fun v => v.unmark k.dest 4096)
  let w := if contribBad k then (contribLines k).foldl (fun (v : Work) i => v.mark (k.dest + 256 * i) 256) w else w
  let w := w.inc (RACC_CNT m)
  if k.seq + 1 = k.count then
    (w.when (k.notify ≠ 0) (fun v => v.putNum k.notify 4 ((v.num k.notify 4 + 1) % 2 ^ 32))).inc (RACC_DONE_CNT m)
  else w

/-- A tracker is of a contribution's block and job. -/
def Tracker.covers (t : Tracker) (k : Contribution) : Bool := t.dest == k.dest && t.job == k.job && t.gen == k.gen

/-- The contribution and tracker are of one job's block. -/
def sameContrib (a b : Contribution) : Bool := a.dest == b.dest && a.job == b.job && a.gen == b.gen

/-- MC_STATUS.TRACKERS follows the trackers. -/
def Work.showTrackers (w : Work) (m : Nat) : Work := w.setFld (MC_STATUS m) 16 13 (w.memc m).trackers.length

/-- A tracker advances past a contribution, or is freed with the last (R322). -/
def Work.advance (w : Work) (m : Nat) (k : Contribution) : Work :=
  let c := w.memc m
  let ts := if k.seq + 1 = k.count then c.trackers.filter (fun t => !t.covers k)
    else c.trackers.map (fun t => if t.covers k then { t with next := k.seq + 1 } else t)
  (w.setMemc m { c with trackers := ts }).showTrackers m

/-- Held contributions whose turn has come are applied in order; at most `n`. -/
def drainHeld : Nat → Nat → Contribution → Work → Work
  | 0, _, _, w => w
  | n + 1, m, k, w =>
    match (w.memc m).trackers.find? (fun t => t.covers k) with
    | none => w
    | some t =>
      match (w.memc m).held.find? (fun h => sameContrib h k && h.seq == t.next) with
      | none => w
      | some h =>
        let w := w.setMemc m { w.memc m with held := (w.memc m).held.erase h }
        drainHeld n m k ((w.applyContrib h).advance m h)

/-- A contribution is malformed (R320). -/
def malformedContrib (k : Contribution) : Bool :=
  k.count ≤ k.seq || accBytes k.fmt != some k.data.length || k.rsvd != 0 || (k.fmt != 2 && k.xexp != 0) ||
    k.dest % 4096 != 0 || apertureBase < k.dest + 4096

/-- A contribution dropped (R320). -/
def Work.dropContrib (w : Work) (m : Nat) : Work := (w.inc (RACC_BAD_CNT m)).setBit (MC_ERR m) 3

/-- What became of a contribution: dropped, refused, held or applied, or applied with the last of its block. -/
inductive Taken where
  | dropped | refused | held | complete
  deriving DecidableEq, Repr

/-- A contribution arrives at its controller (R318 to R321). -/
def Work.contribute (w : Work) (k : Contribution) : Taken × Work :=
  let m := (stackOf k.dest).1
  let c := w.memc m
  let t := c.trackers.find? (fun t => t.covers k)
  let next := match t with | some t => t.next | none => 0
  let odd : Bool := match t with | some t => t.count != k.count | none => false
  if malformedContrib k || odd || k.seq < next || c.held.any (fun h => sameContrib h k && h.seq == k.seq) then (.dropped, w.dropContrib m)
  else if t.isNone && 4096 ≤ c.trackers.length then (.refused, w.inc (RACC_REFUSE_CNT m))
  else if k.seq ≠ next && 8388608 < (c.held.map (fun h => h.data.length + 40)).sum + k.data.length + 40 then
    (.refused, w.inc (RACC_REFUSE_CNT m))
  else
    let fresh : Tracker := { dest := k.dest, count := k.count, next := 0, job := k.job, gen := k.gen }
    let c := if t.isNone then { c with trackers := c.trackers ++ [fresh] } else c
    if k.seq = next then
      let w := drainHeld c.held.length m k (((w.setMemc m c).applyContrib k).advance m k)
      (if (w.memc m).trackers.any (fun t => t.covers k) then .held else .complete, w)
    else (.held, ((w.setMemc m { c with held := c.held ++ [k] }).showTrackers m).inc (RACC_HOLD_CNT m))

/-- Trackers and held contributions of a job's generation are discarded (R323). -/
def Work.abortContribs (w : Work) (job gen : Nat) : Work :=
  (List.range 12).foldl (fun (v : Work) m =>
    let c := v.memc m
    (v.setMemc m { c with trackers := c.trackers.filter (fun t => !(t.job == job && t.gen == gen)),
                          held := c.held.filter (fun h => !(h.job == job && h.gen == gen)) }).showTrackers m) w

/-! ### Zeroisation (R325, R326) -/

/-- A zeroisation starts. -/
def Work.zeroStart (w : Work) (m first n : Nat) (whole : Bool) : Work :=
  (w.setMemc m { w.memc m with zero := some (first, n, whole) }).setBit (MC_STATUS m) 0

/-- Every byte and mark of a stack's regions becomes zero. -/
def Work.zeroRegions (w : Work) (m first n : Nat) : Work :=
  let hit := fun (a : Nat) => decide (a < apertureBase) && (stackOf a).1 == m &&
    (let r := (stackOf a).2 / 2 ^ 21; decide (first ≤ r ∧ r < first + n))
  { w with mem := w.mem.filter (fun p => !hit p.1), poison := w.poison.filter (fun u => !(u < 2 ^ 32 && hit (256 * u))) }

/-- ZERO_LEN, 0 taken as 1, cut at region 32,767 (R325). -/
def Work.zeroLen (w : Work) (m : Nat) : Nat :=
  min (orDefault (w.fld (ZERO_LEN m) 0 16) 1) (32768 - w.fld (ZERO_BASE m) 0 15)

/-- A write of MC_CTL: ZERO_GO starts a range zeroisation, and reads 0 (Table 8-8). -/
def Work.writeMcCtl (w : Work) (m v : Nat) : Work :=
  if v.testBit 0 && w.serves m then w.zeroStart m (w.fld (ZERO_BASE m) 0 15) (w.zeroLen m) false else w

/-- Window address of a path (Table 15-13). -/
def PathSt.winAt (p : PathSt) : Nat := p.winLo.toNat + 2 ^ 32 * (p.winHi.toNat % 256)

/-- The word at a path's window, and the window after it: the address advances, and a poisoned line is noted (R540). The read is one
of the stacks (R310). -/
def Work.winTake (w : Work) (p : PathSt) : Word × PathSt :=
  let a := p.winAt
  let n := (a + 4) % 2 ^ 40
  (w.word a, { p with
    winLo := BitVec.ofNat 32 (n % 2 ^ 32), winHi := BitVec.ofNat 32 (n / 2 ^ 32),
    winStatus := if w.poisoned a 4 then p.winStatus ||| 1 else p.winStatus })

/-- A zeroisation ends (R325, R326): a whole stack's counts its spare regions too, and the stack is ready (R493). -/
def Work.zeroDone (w : Work) (m : Nat) : Work :=
  match (w.memc m).zero with
  | none => w
  | some (first, n, whole) =>
    let w := w.zeroRegions m first n
    let w := w.setMemc m { w.memc m with zero := none, ready := (w.memc m).ready || whole }
    (w.incBy (ZERO_CNT m) (n + if whole then 32 else 0)).clrBit (MC_STATUS m) 0

/-! ### The commands -/

/-- HBM_READ (R295 to R310): a line is read; a request of an older generation is discarded (R461). -/
def execHbmRead (req : StackReq) (bad pbad : List Nat) (s : State) : Ans :=
  s.run (fun _ w =>
    if w.current req.issuer then w.onLine req.issuer req.addr (fun v l => v.readLine req.issuer l bad pbad) else w)

/-- HBM_RETRY_DONE (R299 to R304). -/
def execHbmRetryDone (addr : Nat) (bad pbad : List Nat) (s : State) : Ans :=
  s.run (fun _ w => w.onLine (w.issuer 1220) addr (fun v l => v.retryLine l bad pbad))

/-- REGION_RETIRE: a region whose count has reached CE_LIM enters the list (R306, R307). -/
def execRegionRetire (stack : Fin 12) (region : Nat) (s : State) : Ans :=
  s.run (fun _ w =>
    let m := stack.val
    let k := w.memc m
    let lim := orDefault (w.fld (CE_LIM m) 0 16) 1
    if Sp.get k.counts 0 region < lim || k.retired.contains region || 32768 ≤ region then w
    else if 64 ≤ k.retired.length then w.setBit (MC_STATUS m) 7
    else
      let w := w.setMemc m { k with retired := k.retired ++ [region] }
      w.report 2 0 (w.stackRecord m))

/-- A write of the stacks, which waits while one of them zeroises (R311, R326). -/
def Work.hbmWrite (w : Work) (i : Issuer) (addr : Nat) (data : List Byte) (poison : Bool) (bad retry : List Nat) : Work :=
  if w.rangeServes addr data.length then w.writeHbm addr data poison bad retry else w.park i (.write addr data poison bad retry)

/-- HBM_WRITE (R311); a request of an older generation is discarded (R461). -/
def execHbmWrite (req : StackReq) (data : List Byte) (poison : Bool) (errs : MergeErrs) (s : State) : Ans :=
  s.run (fun _ w =>
    if w.current req.issuer then w.hbmWrite req.issuer req.addr data poison errs.first errs.second else w)

/-- TBLK_ARRIVAL (R314, R315). -/
def execTblkArrival (block : Block) (s : State) : Ans := s.run (fun _ w => w.blockArrives block)

/-- TBLK_REARRIVAL (R315, R316). -/
def execTblkRearrival (block : Block) (s : State) : Ans := s.run (fun _ w => w.blockAgain block)

/-- ZERO_GO: a write of 1 to MC_CTL.ZERO_GO (R325). -/
def execZeroGo (path : Path) (stack : Fin 12) (s : State) : Ans :=
  s.run (fun _ w => w.onBus path (MC_CTL stack.val) 1 (fun v => v.writeMcCtl stack.val 1))

end Sys2Proof.Machine
end

