-- ==== Sys2Proof/Machine/Rosder.lean ====
section
/-! DEFINITION. Machine/Rosder.lean: the Rosder transport's commands: DATA and reads, acknowledgements and resends, jobs (R338,
R342, R343, R347 to R351, R564). -/

namespace Sys2Proof.Machine

/-! ### Blocks between devices (R313 to R316, R338, R564) -/

/-- The trailer of R313 on the wire (Table 8-4). -/
def trailerOf (data : List Byte) (map : Nat) : List Byte := toBE 4 (crc32c (data ++ toBE 2 map)) ++ toBE 2 map ++ zeros 2

/-- The poison map of a block of memory: one bit for each 256 bytes. -/
def Work.mapOf (w : Work) (a n : Nat) : Nat :=
  ((List.range (ceilDiv n 256)).filter (fun i => w.poisoned (a + 256 * i) 256)).foldl (fun m i => m + 2 ^ i) 0

/-- The payload of a DATA or READ_RESP packet keeps to Table 9-6 (R564). -/
def dataOk (p : Packet) : Bool :=
  let l := p.payload
  l.length == 4120 && beAt l 0 8 % 4096 == 0 && decide (beAt l 0 8 < apertureBase) && allZero (sub l 8 8) && allZero (sub l 4118 2)

/-- The payload of a READ_REQ packet keeps to Table 9-6 (R564). -/
def readOk (p : Packet) : Bool :=
  let l := p.payload
  l.length == 24 && beAt l 0 8 % 4096 == 0 && decide (beAt l 0 8 < apertureBase) &&
    1 ≤ beAt l 8 4 && beAt l 8 4 ≤ 256 && allZero (sub l 14 2) &&
    beAt l 16 8 % 4096 == 0 && decide (beAt l 16 8 < apertureBase)

/-- The block of a packet. -/
def blockOf (p : Packet) : Block :=
  { issuer := { unit := 1220, gen := 0 }, eight := none, dest := beAt p.payload 0 8, source := p.src, data := sub p.payload 16 4096,
    check := beAt p.payload 4112 4, poisonMap := beAt p.payload 4116 2 }

/-- The stack addresses that a packet's controllers are asked for: first and bytes. -/
def packetRange (p : Packet) : Nat × Nat :=
  match p.type with
  | 0 | 1 | 11 => (beAt p.payload 0 8, 4096)
  | 10 => (beAt p.payload 0 8, 4096 * min 256 (beAt p.payload 8 4))
  | _ => (0, 0)

/-- A packet that the controllers serve: its stacks do not zeroise, and no earlier packet of its flow waits for one that does
(R326). -/
def Work.packetServed (w : Work) (p : Packet) : Bool :=
  w.rangeServes (packetRange p).1 (packetRange p).2 &&
    !w.parked.any (fun q => match q.2 with | .packet r => r.src == p.src && r.wq == p.wq | _ => false)

/-- A packet of port k for the memory controllers reaches them, or waits for the end of a zeroisation (R326). -/
def Work.receiveMem (w : Work) (k : Nat) (p : Packet) (f : Work → Work × Nat) : Work :=
  if !w.accepts p then w else if w.packetServed p then w.inOrder p f else w.park (w.issuer (1040 + k)) (.packet p)

/-- A block that came in a flow (R315, R316): a first mismatch is asked for again with NAK CHECK, a second one is written
poisoned and is a lasting path fault. The answer is the NAK code, 0 for an accepted packet. -/
def Work.takeBlock (w : Work) (p : Packet) : Work × Nat :=
  let b := blockOf p
  let m := (stackOf b.dest).1
  let again := (w.rxFlow p).retry
  if blockChecks b then ((w.putBlock b false).when again (·.transient (TBLK_RETRY_CNT m)), 0)
  else if !again then (w.setRx p { w.rxFlow p with retry := true }, 2)
  else
    let w := ((w.putBlock b true).inc (TBLK_FAIL_CNT m)).setBit (MC_ERR m) 2
    (w.lasting { cls := 5, unit := 1080 + m, job := p.job, addr := b.dest, detail := p.src } (some 10) (w.crewsFor p.job none), 0)

/-- A DATA or READ_RESP packet in its turn. -/
def Work.takeData (w : Work) (p : Packet) : Work × Nat := if dataOk p then w.takeBlock p else (w, 4)

/-- The DATA or READ_RESP payload that carries a block of memory to a destination. -/
def Work.blockPayload (w : Work) (src dest : Nat) : List Byte :=
  let d := w.bytes src 4096
  toBE 8 dest ++ zeros 8 ++ d ++ trailerOf d (w.mapOf src 4096)

/-- A block of memory is read and sent to a node; it is the last of its message or not (R310, R337). -/
def Work.sendMem (w : Work) (type node job crew wq : Nat) (last : Bool) (src dest : Nat) : Work :=
  let p := w.mkPkt type node job crew wq 0 (w.blockPayload src dest)
  (w.readsStack src 4096).send (if last then p else { p with flags := 0 })

/-- A READ_REQ in its turn: its blocks are sent in order on the requester's queue (R338). -/
def Work.takeReadReq (w : Work) (p : Packet) : Work × Nat :=
  if !readOk p then (w, 4)
  else
    let l := p.payload
    ((List.range (beAt l 8 4)).foldl (fun (v : Work) i =>
      v.sendMem 11 p.src p.job p.crew (beAt l 12 2) (i + 1 == beAt l 8 4) (beAt l 0 8 + 4096 * i) (beAt l 16 8 + 4096 * i)) w, 0)

/-! ### Acknowledgements and resends (R342, R343) -/

/-- A PSN is at or before another (modulo 2^32). -/
def psnUpTo (a b : Nat) : Bool := decide ((b + 2 ^ 32 - a % 2 ^ 32) % 2 ^ 32 < 2 ^ 31)

/-- A flow's packets up to a PSN are delivered: progress ends its run of timeouts, and packets that waited for the window go. -/
def Work.delivered (w : Work) (key psn : Nat) : Work :=
  match Sp.find w.txFlows key with
  | none => w
  | some f =>
    let left := f.unacked.filter (fun u => !psnUpTo u.2.psn psn)
    if left.length = f.unacked.length then w
    else
      let f := { f with unacked := left, timeouts := 0, since := w.now }
      drainFlow f.waiting.length key { w with txFlows := Sp.put w.txFlows key f }

/-- Packets of a flow that still wait at a port. -/
def ofFlow (key : Nat) (p : Packet) : Bool := reliableType p.type && !untracked p && flowKey p.dst p.wq == key

/-- A flow is abandoned (R343): it sends nothing more. -/
def Work.abandon (w : Work) (key : Nat) (f : TxFlow) : Work :=
  let w := { w with txFlows := Sp.put w.txFlows key { f with abandoned := true, unacked := [], waiting := [], rnr := none },
                    links := w.links.map (fun (l : Nat × Link) => (l.1, { l.2 with queue := l.2.queue.filter (fun p => !ofFlow key p) })) }
  let w := (w.inc RTX_FAIL_CNT).setBit TRANSPORT_ERR 2
  w.lasting { cls := 5, unit := 1220, job := f.job, detail := key / 65536 } (some 10) (w.crewsFor f.job none)

/-- The packets of a flow from a PSN, and whether one of them is older than MSG_LIFE beats (R343). -/
def Work.resendable (w : Work) (psn : Nat) (f : TxFlow) : List (Nat × Packet) × Bool :=
  let ps := f.unacked.filter (fun u => psnUpTo psn u.2.psn)
  (ps, ps.any (fun u => w.msgLife < beatsAhead u.1 w.beatFull))

/-- A flow's packets from a PSN are sent again with RETX set; a packet older than MSG_LIFE beats abandons the flow. -/
def Work.resend (w : Work) (key psn : Nat) (f : TxFlow) : Work :=
  let ps := (w.resendable psn f).1
  if (w.resendable psn f).2 then w.abandon key f
  else
    let w := { w with txFlows := Sp.put w.txFlows key { f with since := w.now, rnr := none } }
    ps.foldl (fun (v : Work) u => v.sendRouted { u.2 with flags := putBits u.2.flags 1 1 1 }) w

/-- RTX_CFG (Table 9-20): RTO and RNR_DELAY in ns, RTX_MAX. -/
def Work.rtoNs (w : Work) : Nat := 1000 * clampNat (w.fld RTX_CFG 0 10) 1 1000
def Work.rtxMax (w : Work) : Nat := orDefault (w.fld RTX_CFG 10 4) 1
def Work.rnrNs (w : Work) : Nat := 1000 * orDefault (w.fld RTX_CFG 16 8) 1

/-- A NAK reaches the sender of its flow (Table 9-7). -/
def Work.nakked (w : Work) (p : Packet) : Work :=
  let key := flowKey p.src p.wq
  match Sp.find w.txFlows key with
  | none => w
  | some f =>
    if f.abandoned then w
    else match p.nakCode with
    | 1 | 2 => w.resend key p.psn f
    | 3 => { w with txFlows := Sp.put w.txFlows key { f with rnr := some (w.now + w.rnrNs, p.psn) } }
    | 4 => ((w.delivered key p.psn).inc NAK_RX_CNT).setBit TRANSPORT_ERR 3
    | _ => w

/-- A receiver's 1 µs since its oldest unacknowledged packet has passed: the highest PSN in order is acknowledged. -/
def Work.ackTimer (w : Work) (node queue : Nat) : Work :=
  let key := flowKey node queue
  match Sp.find w.rxFlows key with
  | none => w
  | some f =>
    if f.unacked = 0 then w
    else
      let w := { w.till (f.since + 1000) with rxFlows := Sp.put w.rxFlows key { f with unacked := 0 } }
      w.sendRouted { w.mkPkt 2 node f.job 0 queue 0 [] with psn := (f.next + 2 ^ 32 - 1) % 2 ^ 32 }

/-- RNR_DELAY has passed: the flow resends from the PSN named. -/
def Work.rnrOver (w : Work) (key : Nat) : Work :=
  match Sp.find w.txFlows key with
  | none => w
  | some f => match f.rnr with
    | none => w
    | some (t, psn) => (w.till t).resend key psn f

/-- RTO has passed without progress: the flow resends from its oldest packet, or is abandoned (R343). -/
def Work.rtxTimeout (w : Work) (key : Nat) : Work :=
  match Sp.find w.txFlows key with
  | none => w
  | some f => match f.unacked with
    | [] => w
    | u :: _ =>
      if f.abandoned then w
      else
        let w := w.till (f.since + w.rtoNs)
        if f.timeouts < w.rtxMax then
          (w.when (!(w.resendable u.2.psn f).2) (·.inc RTX_CNT)).resend key u.2.psn { f with timeouts := f.timeouts + 1 }
        else w.abandon key f

/-! ### Jobs (R347 to R351) -/

/-- A write of JOB_CMD (Table 9-18): OP reads 0 once done. -/
def Work.writeJobCmd (w : Work) (v : Nat) : Work :=
  let w := w.wr JOB_CMD (v % 2 ^ 24)
  match bits v 24 2 with
  | 1 => w.openJob (bits v 0 16) (bits v 16 8)
  | 2 => w.freeJob (bits v 0 16)
  | _ => w

/-- The end of an entry's quarantine, a full beat time; none before beat lock (R349, R351). -/
def Work.quarEnd (w : Work) (j : Nat) : Option Nat :=
  match (w.jobEnt j).until_ with
  | some u => some u
  | none => w.lockAt.map (fun l => beatAdd l (2 * w.msgLife))

/-- The quarantine of an entry ends: it is FREE (R349). -/
def Work.quarOver (w : Work) (j : Nat) : Work :=
  match w.quarEnd j with
  | some u => if (w.jobEnt j).state = 2 && !beatBefore w.beatFull u then w.setJob j { w.jobEnt j with state := 0, until_ := none } else w
  | none => w

/-- The beat at which a job is freed has come (R349). -/
def Work.freeBeat (w : Work) (j : Nat) : Work :=
  match (w.jobEnt j).freeAt with
  | some b => if beatBefore w.beatFull b then w else w.freeJob j
  | none => w

/-! ### The commands -/

/-- The packet comes in on a fabric port that takes its frame in, and is of a type (R329, R332). -/
def Work.arrives (w : Work) (k : Nat) (p : Packet) (type : Nat) : Bool :=
  w.hears k && k < 36 && p.type == type && decide (w.frameBytes k p ≤ 9216)

/-- DATA (R338, R342, R403, R564). -/
def execData (port : Fin 40) (pkt : Packet) (s : State) : Ans :=
  s.run (fun _ w => if w.arrives port.val pkt 0 then w.receiveMem port.val pkt (·.takeData pkt) else w)

/-- READ_REQ (R338, R564). -/
def execReadReq (port : Fin 40) (pkt : Packet) (s : State) : Ans :=
  s.run (fun _ w => if w.arrives port.val pkt 10 then w.receiveMem port.val pkt (·.takeReadReq pkt) else w)

/-- READ_RESP (R338, R564). -/
def execReadResp (port : Fin 40) (pkt : Packet) (s : State) : Ans :=
  s.run (fun _ w => if w.arrives port.val pkt 11 then w.receiveMem port.val pkt (·.takeData pkt) else w)

/-- ACK (R342). -/
def execAck (port : Fin 40) (pkt : Packet) (s : State) : Ans :=
  s.run (fun _ w => if w.arrives port.val pkt 2 && w.accepts pkt then w.delivered (flowKey pkt.src pkt.wq) pkt.psn else w)

/-- NAK (R342, Table 9-7). -/
def execNak (port : Fin 40) (pkt : Packet) (s : State) : Ans :=
  s.run (fun _ w => if w.arrives port.val pkt 3 && w.accepts pkt then w.nakked pkt else w)

/-- ACK_TIMER (R342). -/
def execAckTimer (node queue : Nat) (s : State) : Ans := s.run (fun _ w => w.ackTimer node queue)

/-- RNR_DELAY_EXPIRE (R342, Table 9-7). -/
def execRnrDelayExpire (node queue : Nat) (s : State) : Ans := s.run (fun _ w => w.rnrOver (flowKey node queue))

/-- RTX_TIMEOUT (R343). -/
def execRtxTimeout (node queue : Nat) (s : State) : Ans := s.run (fun _ w => w.rtxTimeout (flowKey node queue))

/-- JOB_CMD_OPEN: a write of JOB_CMD with OP 1 (R347, R348). -/
def execJobCmdOpen (path : Path) (job gen : Nat) (s : State) : Ans :=
  let v := job % 65536 + 65536 * (gen % 256) + 2 ^ 24
  s.run (fun _ w => w.onBus path JOB_CMD v (·.writeJobCmd v))

/-- JOB_CMD_FREE: a write of JOB_CMD with OP 2 (R349). -/
def execJobCmdFree (path : Path) (job gen : Nat) (s : State) : Ans :=
  let v := job % 65536 + 65536 * (gen % 256) + 2 ^ 25
  s.run (fun _ w => w.onBus path JOB_CMD v (·.writeJobCmd v))

/-- JOB_FREE_BEAT (R349). -/
def execJobFreeBeat (job : Nat) (s : State) : Ans := s.run (fun _ w => w.freeBeat job)

/-- QUARANTINE_END (R349, R351). -/
def execQuarantineEnd (job : Nat) (s : State) : Ans := s.run (fun _ w => w.quarOver job)

end Sys2Proof.Machine
end

