-- ==== Sys2Proof/Machine/Reduce.lean ====
section
/-! DEFINITION. Machine/Reduce.lean: gradient reduction: buckets, their shards and stages, remote accumulate and the ring
adders, agreed exponents and the redo pass (R363 to R393). -/

namespace Sys2Proof.Machine

/-! ### Buckets, shards, blocks (R366, R367, R379) -/

/-- First segment of shard i of S segments over n members, from the first of the S (R366). -/
def shardAt (i s n : Nat) : Nat := i * s / n

/-- A level's stage. -/
def Bucket.stage (b : Bucket) (lvl : Nat) : Stage :=
  (b.stages[lvl]?).getD { ring := false, n := 1, pos := 0, rx := 0, tx := 0, nodes := [] }

/-- The bucket has two levels. -/
def Bucket.two (b : Bucket) : Bool := b.stages.length == 2

/-- First segment and count of a stage's input (R366). -/
def Bucket.input (b : Bucket) (lvl : Nat) : Nat × Nat :=
  let s := b.stage 0
  if lvl = 0 then (0, b.segs)
  else (shardAt s.pos b.segs s.n, shardAt (s.pos + 1) b.segs s.n - shardAt s.pos b.segs s.n)

/-- First segment and count of member i's shard at a level. -/
def Bucket.shard (b : Bucket) (lvl i : Nat) : Nat × Nat :=
  let inp := b.input lvl
  let n := (b.stage lvl).n
  (inp.1 + shardAt i inp.2 n, shardAt (i + 1) inp.2 n - shardAt i inp.2 n)

/-- This device's own shard at a level. -/
def Bucket.own (b : Bucket) (lvl : Nat) : Nat × Nat := b.shard lvl (b.stage lvl).pos

/-- The segments of a range. -/
def segsOf (r : Nat × Nat) : List Nat := (List.range r.2).map (r.1 + ·)

/-- A range of segments in packets of at most `per` (R379). -/
def packetsOf (r : Nat × Nat) (per : Nat) : List (List Nat) :=
  (List.range (ceilDiv r.2 per)).map (fun i => segsOf (r.1 + per * i, min per (r.2 - per * i)))

/-- Address of a segment of a stage's input: SRC, or WORK0 from the first segment of the level-0 shard. -/
def Bucket.inputAt (b : Bucket) (lvl s : Nat) : Nat :=
  if lvl = 0 then b.src + 4096 * s else b.work0 + 4096 * (s - (b.own 0).1)

/-- Address of a segment's final sum (R368). -/
def Bucket.sumAt (b : Bucket) (lvl s : Nat) : Nat :=
  (if lvl = 0 then b.work0 else b.work1) + 4096 * (s - (b.own lvl).1)

/-- Address of a segment's result. -/
def Bucket.resultAt (b : Bucket) (s : Nat) : Nat := b.dst + 4096 * s

/-- The format of a level's contributions: BF16 at level 0, AS8 at level 1 (R363). -/
def levelFmt (lvl : Nat) : Nat := if lvl = 0 then 1 else 2

/-- The format of the result that the gathers carry: BF16 with one level, AS8 with two (R369). -/
def Bucket.resultFmt (b : Bucket) : Nat := if b.two then 2 else 1

/-- Segments to a RING packet by format (R379). -/
def perPacket (fmt : Nat) : Nat := if fmt = 1 then 2 else 4

/-- The bucket at a key. -/
def Work.bucket (w : Work) (key : Nat) : Option Bucket := Sp.find w.red.buckets key

/-- A bucket bound anew. -/
def Work.setBucket (w : Work) (key : Nat) (b : Bucket) : Work := { w with red := { w.red with buckets := Sp.put w.red.buckets key b } }

/-- A change of the bucket at a key. -/
def Work.onBucket (w : Work) (key : Nat) (f : Bucket → Bucket) : Work :=
  match w.bucket key with | some b => w.setBucket key (f b) | none => w

/-! ### Exponents (R380, R381) -/

/-- A scale-table entry: the agreed exponent X (R380). -/
def Work.scaleX (w : Work) (i : Nat) : Int := sext 8 (w.num (w.base SCALE_BASE_LO SCALE_BASE_HI + i) 1)

/-- Address of a segment estimate entry (Table 10-5). -/
def Work.segEst (w : Work) (i : Nat) : Nat := w.base SEGEST_BASE_LO SEGEST_BASE_HI + 4 * i

/-- The exponent at which a segment's contributions are narrowed at level 1: X, or X′ in the redo pass. -/
def Work.levelX (w : Work) (b : Bucket) (s : Nat) : Int :=
  match Sp.find b.redo s with
  | some x => if b.redoRun then x else w.scaleX (b.firstSeg + s)
  | none => w.scaleX (b.firstSeg + s)

/-! ### Narrowing and widening (R368, R386, R392) -/

/-- A segment narrowed: its bytes, the extra exponent over X of an AS8 saturation, and the groups of 32 that saturate in
BF16. -/
def narrowSeg (fmt : Nat) (x : Int) (vs : List Word) : List Byte × Nat × Nat :=
  if fmt = 1 then
    let qs := vs.map (fun v => narrowPlain 1 (f32 v) none)
    (qs.flatMap (fun q => toLE 2 q.1), 0,
      ((List.range (ceilDiv qs.length 32)).filter (fun g => ((qs.drop (32 * g)).take 32).any (·.2))).length)
  else
    let qs := vs.map (fun v => narrowAs8 (f32 v) x)
    (qs.map (fun q => BitVec.ofNat 8 q.1), (qs.map (fun q => match q.2 with | some e => (e - x).toNat | none => 0)).foldl max 0, 0)

/-- Element i of a segment's bytes widened (R223, R318). -/
def widenAt (fmt : Nat) (x : Int) (d : List Byte) (i : Nat) : Word :=
  if fmt = 1 then (decodeElem 1 (leAt d (2 * i) 2)).toF32 else ((decodeElem 3 (leAt d i 1)).scale x).toF32

/-- A segment's bytes widened. -/
def widenSeg (fmt : Nat) (x : Int) (d : List Byte) : List Word := (List.range 1024).map (widenAt fmt x d)

/-- Bytes of a segment by format. -/
def segLen (fmt : Nat) : Nat := if fmt = 1 then 2048 else 1024

/-- Poisoned 256-byte lines of 64 sums for each bit of a payload's map: 2 in BF16, 4 in AS8. -/
def linesPer (fmt : Nat) : Nat := if fmt = 1 then 2 else 4

/-- A segment's line mask as the map of its narrowed payload. -/
def mapDown (fmt mask : Nat) : Nat :=
  ((List.range (16 / linesPer fmt)).filter (fun i => bits mask (linesPer fmt * i) (linesPer fmt) != 0)).foldl (fun m i => m + 2 ^ i) 0

/-- A payload's map as a segment's line mask. -/
def mapUp (fmt map : Nat) : Nat :=
  ((List.range 16).filter (fun l => map.testBit (l / linesPer fmt))).foldl (fun m l => m + 2 ^ l) 0

/-- A segment of FP32 as an adder or a sender takes it: a contribution that carries poison is +0 (R321, R379). -/
def Work.contribSeg (w : Work) (a : Nat) : List Word × Nat :=
  let mask := w.mapOf a 4096
  (if mask = 0 then w.wordsAt a 1024 else List.replicate 1024 0, mask)

/-- A segment of FP32 stored with its poisoned lines. -/
def Work.putSeg (w : Work) (a : Nat) (vs : List Word) (mask : Nat) : Work :=
  (List.range 16).foldl (fun (v : Work) l => if mask.testBit l then v.mark (a + 256 * l) 256 else v)
    ((w.store a (wordsLE vs)).unmark a 4096)

/-- BF16 saturation is counted where the bucket's slot runs (R225, R392). -/
def Work.countSat (w : Work) (key n : Nat) : Work := w.incBy (SAT_BLK_CNT (key / 4096)) n

/-! ### Progress -/

/-- Segments summed or written by a stage (Table 10-7). -/
def Work.redProgress (w : Work) (n : Nat) : Work := (w.incBy RED_PROGRESS n).progress 1999

/-- The counts at CNT as the ring engine advances them: 0 sums completed, 4 segments written (Table 10-1). -/
def Work.countCnt (w : Work) (b : Bucket) (off n : Nat) : Work := w.putNum (b.cnt + off) 4 ((w.num (b.cnt + off) 4 + n) % 2 ^ 32)

/-- RED_STATUS follows the stages, the redo passes and the updates (Table 10-9). -/
def Work.showRed (w : Work) : Work :=
  let opened := (w.red.buckets.map (fun p => (p.2.stages.filter (·.isOpen)).length)).sum
  let redo := w.red.buckets.any (fun p => p.2.redoRun && !p.2.gathered)
  ((w.setFld RED_STATUS 0 7 opened).bitTo RED_STATUS 7 redo).bitTo RED_STATUS 8 (!w.red.updates.isEmpty)

/-- ADD_STATUS of a link block follows its contexts and its hold buffer (Table 10-12). -/
def Work.showAdder (w : Work) (k : Nat) : Work :=
  let l := w.link k
  let held := (l.held.map (fun p => w.frameBytes k p)).sum
  let pausing := w.flag (ADD_STATUS k) 20
  let w := (w.setFld (ADD_STATUS k) 0 7 l.ctxs.length).setFld (ADD_STATUS k) 8 12 (ceilDiv held 1024)
  if !pausing && 1572864 < held then (w.setBit (ADD_STATUS k) 20).emit (.pause k)
  else if pausing && held < 1048576 then w.clrBit (ADD_STATUS k) 20 else w

/-! ### Sending contributions and results -/

/-- The queue at a member that is bound to this device for a bucket's job: WQ_BASE and this device's position (R341, R398). -/
def Work.jobQueue (w : Work) (j : Nat) : Nat × Nat :=
  match w.crews.find? (fun c => c.job == j) with | some c => (c.wqBase + c.pos, c.num) | none => (0, 0)

/-- A contribution on the wire (Table 8-5, R317), in network order. -/
def accPayload (k : Contribution) : List Byte :=
  toBE 8 k.dest ++ toBE 2 k.seq ++ toBE 2 k.count ++ toBE 1 k.fmt ++ toBE 1 (toTwos 8 k.xexp) ++ zeros 2 ++ toBE 8 k.notify ++ zeros 8 ++
    k.data ++ trailerOf k.data k.poisonMap

/-- A contribution sent to a member: to this device's own controllers at its turn, to another as an ACC packet (R317, R387). -/
def Work.sendAcc (w : Work) (node : Nat) (k : Contribution) : Work :=
  if node = w.node then { w with red := { w.red with mine := w.red.mine ++ [k] } }
  else
    let q := w.jobQueue k.job
    let p := w.mkPkt 1 node k.job q.2 q.1 (if k.ovf then 4 else 0) (accPayload k)
    w.send { p with gen := k.gen, xmax := k.xmax }

/-- A segment contributed or delivered by remote accumulate. -/
def Work.accSeg (w : Work) (key : Nat) (b : Bucket) (node dest seq count fmt : Nat) (x : Int) (vs : List Word) (mask notify : Nat) : Work :=
  let q := narrowSeg fmt x vs
  let w := w.countSat key q.2.2
  w.sendAcc node { dest := dest, seq := seq, count := count, fmt := fmt, xexp := if fmt = 2 then x else 0, notify := notify, rsvd := 0,
                   job := b.job, gen := b.gen, data := q.1, lost := false, poisonMap := mapDown fmt mask,
                   ovf := q.2.1 ≠ 0, xmax := min 127 q.2.1 }

/-- A RING packet (Table 10-4). -/
structure Ring where
  bucket : Nat
  level : Nat
  gather : Bool
  notice : Bool
  redo : Bool
  seg : Nat
  nseg : Nat
  shard : Nat
  hops : Nat
  xexp : List Int
  data : List Byte
  map : Nat
  job : Nat
  gen : Nat
  ovf : Bool
  xmax : Nat
  /-- The trailer of R313 matches. -/
  intact : Bool
  deriving DecidableEq, Repr

/-- The payload of a RING packet. -/
def Ring.payload (r : Ring) : List Byte :=
  let phase := r.level + (if r.gather then 2 else 0) + (if r.notice then 4 else 0) + (if r.redo then 8 else 0)
  toBE 2 r.bucket ++ toBE 1 phase ++ toBE 1 r.nseg ++ toBE 4 r.seg ++ toBE 2 r.shard ++ toBE 2 r.hops ++
    (List.range 4).map (fun i => BitVec.ofNat 8 (toTwos 8 (r.xexp.getD i 0))) ++ zeros 16 ++ r.data ++ trailerOf r.data r.map

/-- A packet read as a RING packet; none where its payload is no such thing (Table 10-4). -/
def ringOf (p : Packet) : Option Ring :=
  let l := p.payload
  let phase := beAt l 2 1
  let n := l.length - 40
  let data := sub l 32 n
  if p.type ≠ 9 || l.length < 40 || 16 ≤ phase || beAt l 3 1 = 0 || 4 < beAt l 3 1 || !allZero (sub l 16 16) || !allZero (sub l (38 + n) 2) then none
  else some { bucket := beAt l 0 2, level := phase % 2, gather := phase.testBit 1, notice := phase.testBit 2, redo := phase.testBit 3,
              seg := beAt l 4 4, nseg := beAt l 3 1, shard := beAt l 8 2, hops := beAt l 10 2,
              xexp := (List.range 4).map (fun i => sext 8 (beAt l (12 + i) 1)), data := data, map := beAt l (36 + n) 2,
              job := p.job, gen := p.gen, ovf := p.flags.testBit 2, xmax := p.xmax,
              intact := crc32c (data ++ toBE 2 (beAt l (36 + n) 2)) == beAt l (32 + n) 4 }

/-- A RING packet leaves on the link that faces the successor; it relies on link-level retry alone (R344, R379). -/
def Work.sendRing (w : Work) (b : Bucket) (r : Ring) : Work :=
  let k := (b.stage r.level).tx
  let p := w.mkPkt 9 (w.fld (LINK_STATUS k) 16 16) b.job 0 0 (if r.ovf then 4 else 0) r.payload
  w.xmit k { p with gen := b.gen, xmax := r.xmax, crew := (w.jobQueue b.job).2 }

/-- Segments narrowed into one packet: their bytes, extra exponent, BF16 saturations and map. -/
def narrowPacket (fmt : Nat) (segs : List (Int × List Word × Nat)) : List Byte × Nat × Nat × Nat :=
  let qs := segs.map (fun s => narrowSeg fmt s.1 s.2.1)
  (qs.flatMap (·.1), (qs.map (·.2.1)).foldl max 0, (qs.map (·.2.2)).sum,
    ((segs.zipIdx).map (fun s => mapDown fmt s.1.2.2 * 2 ^ (16 / linesPer fmt * s.2))).sum)

/-- A packet of segments of a shard, with the exponents of Table 10-4. -/
def Work.ringPacket (w : Work) (key : Nat) (b : Bucket) (lvl shard : Nat) (gather redo : Bool) (fmt : Nat) (ss : List Nat)
    (vals : List (Int × List Word × Nat)) (hops xmax : Nat) : Work :=
  let q := narrowPacket fmt vals
  let w := w.countSat key q.2.2.1
  let w := w.when (q.2.1 ≠ 0 && !gather) (·.inc (ADD_SAT_CNT (b.stage lvl).rx))
  let xm := if gather then 0 else max xmax (min 127 q.2.1)
  w.sendRing b { bucket := b.num, level := lvl, gather := gather, notice := false, redo := redo, seg := ss.headD 0, nseg := ss.length,
                 shard := shard, hops := hops, xexp := if fmt = 2 then vals.map (·.1) else [], data := q.1, map := q.2.2.2,
                 job := b.job, gen := b.gen, ovf := xm ≠ 0, xmax := xm, intact := true }

/-! ### Opening a stage (R372, R377) -/

/-- The poisoned lines of a stage's input segments that are read are counted (R310). -/
def Bucket.readsSegs (b : Bucket) (lvl : Nat) (ss : List Nat) (w : Work) : Work :=
  ss.foldl (fun (v : Work) q => v.poisonReads (b.inputAt lvl q) 4096) w

/-- What a member sends as it opens a stage, or starts its redo pass, over some segments of each shard: every shard's segments by
RACC; under RING the shard whose first contributor it is (R367). -/
def Work.startPass (w : Work) (key : Nat) (b : Bucket) (lvl : Nat) (pick : Nat → Bool) : Work :=
  let s := b.stage lvl
  let fmt := levelFmt lvl
  let x := fun (v : Work) (g : Nat) => if lvl = 1 then v.levelX b g else 0
  if s.ring then
    let i := (s.pos + s.n - 1) % s.n
    ((packetsOf (b.shard lvl i) (perPacket fmt)).filter (fun g => g.any pick)).foldl (fun (v : Work) g =>
      (b.readsSegs lvl g v).ringPacket key b lvl i false b.redoRun fmt g (g.map (fun q => (x v q, v.contribSeg (b.inputAt lvl q)))) 0 0) w
  else
    (List.range s.n).foldl (fun (v : Work) i =>
      ((segsOf (b.shard lvl i)).filter pick).foldl (fun (u : Work) q =>
        let r := u.contribSeg (b.inputAt lvl q)
        (u.poisonReads (b.inputAt lvl q) 4096).accSeg key b (s.nodes.getD i 0)
          ((if lvl = 0 then b.work0 else b.work1) + 4096 * (q - (b.shard lvl i).1))
          ((s.pos + s.n - i - 1 + s.n) % s.n) s.n fmt (x u q) r.1 r.2 b.cnt) v) w

/-- The stage of a level changed. -/
def Bucket.setStage (b : Bucket) (lvl : Nat) (s : Stage) : Bucket := { b with stages := b.stages.set lvl s }

/-- A stage's adder context, where it needs one, is given back, and the stage closed. -/
def Work.closeStage (w : Work) (key lvl : Nat) : Work :=
  match w.bucket key with
  | none => w
  | some b =>
    let s := b.stage lvl
    if !s.isOpen then w else
    let w := w.setBucket key (b.setStage lvl { s with isOpen := false })
    ((w.setLink s.rx { w.link s.rx with ctxs := (w.link s.rx).ctxs.filter (· != (key, lvl)) }).showAdder s.rx).showRed

/-- A stage of more than one member opens: a ring stage once one of its adder's 64 contexts is free (R377). Whether it is open
now, and the state. -/
def Work.tryOpen (w : Work) (key lvl : Nat) : Bool × Work :=
  match w.bucket key with
  | none => (false, w)
  | some b =>
    let s := b.stage lvl
    if s.isOpen then (false, w)
    else if s.ring && 64 ≤ (w.link s.rx).ctxs.length then
      (false, (w.when (!s.waited) (·.inc (ADD_WAIT_CNT s.rx))).setBucket key (b.setStage lvl { s with waited := true }))
    else
      let w := w.setBucket key (b.setStage lvl { s with isOpen := true, waited := false })
      let w := if s.ring then (w.setLink s.rx { w.link s.rx with ctxs := (w.link s.rx).ctxs ++ [(key, lvl)] }).showAdder s.rx else w
      (true, (w.showRed).progress 1999)

/-! ### Sums, results, redo (R369, R372, R382, R387 to R391) -/

/-- The smallest exponent at which a segment's final sums all hold in AS8; none for an all-zero segment (R391). -/
def holdsAt (vs : List Word) : Option Int :=
  let fs := (vs.map f32).filter FV.finite
  let a := amaxOf fs
  if a.isZero then none else some (ownExponent (fmtOf 3) a)

/-- The observation of a final sum (R382): none for an all-zero or non-finite segment. -/
def sumObs (vs : List Word) : Option Int :=
  let fs := vs.map f32
  let a := amaxOf fs
  if !fs.all FV.finite || a.isZero then none else some (clampInt a.clog2 (-128) 127)

/-- An observation of a segment noted in its estimate entry (R382). -/
def Work.observeSeg (w : Work) (key : Nat) (b : Bucket) (s : Nat) (vs : List Word) : Work :=
  match sumObs vs with
  | none => w
  | some o =>
    let i := b.firstSeg + s
    let a := w.segEst i
    let ctl := w.num (a + 1) 1
    let o := match Sp.find b.first s with | some xm => max o (w.scaleX i + (xm : Int) + 8 - (ctl % 8 : Nat)) | none => o
    let o := clampInt (if ctl.testBit 4 then max o (sext 8 (w.num (a + 3) 1)) else o) (-128) 127
    let w := (w.putNum (a + 3) 1 (toTwos 8 o)).putNum (a + 1) 1 (putBits ctl 4 1 1)
    w.onBucket key (fun b => { b with obs := (i :: b.obs).dedup })

/-- The result exponent of a segment of the last level's owner (R391). -/
def resultX (base : Int) (vs : List Word) : Int :=
  min (match holdsAt vs with | some n => max base n | none => base) 118

/-- Result segments reach DST on this device: RESX with AS8, the counts, and the written segments (R369). -/
def Work.writeResult (w : Work) (key : Nat) (b : Bucket) (s : Nat) (x : Int) (vs : List Word) (mask : Nat) : Work :=
  let w := w.putSeg (b.resultAt s) vs mask
  let w := if b.two then w.putNum (b.resx + s) 1 (toTwos 8 x) else w
  ((w.countCnt b 4 1).redProgress 1).onBucket key (fun b => { b with written := insNat s b.written })

/-- The redo pass starts once the level-1 gather has delivered every block of the member's level-0 shard (R389). -/
def Work.tryRedo (w : Work) (key : Nat) : Work :=
  match w.bucket key with
  | none => w
  | some b =>
    if b.redoRun || b.redo.isEmpty || !(segsOf (b.own 0)).all (fun s => b.written.contains s || (Sp.find b.redo s).isSome) then w
    else
      let b := { b with redoRun := true }
      let s := b.stage 1
      let blocks := if s.ring then
          ((List.range s.n).map (fun i => ((packetsOf (b.shard 1 i) 4).filter (fun g => g.any (fun q => (Sp.find b.redo q).isSome))).length)).sum
        else b.redo.length
      let w := (w.setBucket key b).incBy REDO_BLK_CNT blocks
      (w.startPass key b 1 (fun q => (Sp.find b.redo q).isSome)).showRed

/-- The level-0 gather of this member's shard starts once every segment of it stands in DST; it re-narrows from DST with RESX,
which is exact (R369, R372). -/
def Work.tryGather (w : Work) (key : Nat) : Work :=
  match w.bucket key with
  | none => w
  | some b =>
    if !b.two || b.gathered || !(segsOf (b.own 0)).all (fun s => b.written.contains s) then w
    else
      let w := (w.setBucket key { b with gathered := true }).closeStage key 1
      let s := b.stage 0
      let item := fun (v : Work) (q : Nat) => (sext 8 (v.num (b.resx + q) 1), v.contribSeg (b.resultAt q))
      if s.n = 1 then w
      else if s.ring then
        (packetsOf (b.own 0) 4).foldl (fun (v : Work) g => v.ringPacket key b 0 s.pos true false 2 g (g.map (item v)) 0 0) w
      else
        (segsOf (b.own 0)).foldl (fun (v : Work) q =>
          let r := item v q
          ((s.nodes.zipIdx).filter (fun n => n.2 != s.pos)).foldl (fun (u : Work) n =>
            u.accSeg key b n.1 (b.resultAt q) 0 1 2 r.1 r.2.1 r.2.2 (b.cnt + 4)) v) w

/-- The owner of the last level sends a block's results to every member of its stage, itself included (R369). -/
def Work.sendResults (w : Work) (key : Nat) (b : Bucket) (lvl : Nat) (ss : List Nat) (rs : List (Int × List Word × Nat)) : Work :=
  let s := b.stage lvl
  let fmt := b.resultFmt
  let own := fun (w : Work) => (ss.zip rs).foldl (fun (v : Work) p =>
    let q := narrowSeg fmt p.2.1 p.2.2.1
    (v.countSat key q.2.2).writeResult key b p.1 p.2.1 (widenSeg fmt p.2.1 q.1) (mapUp fmt (mapDown fmt p.2.2.2))) w
  if s.n = 1 then own w
  else if s.ring then (own w).ringPacket key b lvl s.pos true b.redoRun fmt ss rs 0 0
  else (ss.zip rs).foldl (fun (v : Work) p =>
    s.nodes.foldl (fun (u : Work) node => u.accSeg key b node (b.resultAt p.1) 0 1 fmt p.2.1 p.2.2.1 p.2.2.2 (b.cnt + 4)) v) w

/-- The owner sends a redo notice in place of a block's result (R388). -/
def Work.sendNotice (w : Work) (key : Nat) (b : Bucket) (ss : List Nat) (xs : List Int) (xm : Nat) : Work :=
  let s := b.stage 1
  let w := w.onBucket key (fun b => { b with
    redo := (ss.zip xs).foldl (fun l p => Sp.put l p.1 p.2) b.redo, first := ss.foldl (fun l q => Sp.put l q xm) b.first,
    ovf := ss.foldl (fun l q => Sp.erase l q) b.ovf })
  let w := if s.n = 1 then w
    else if s.ring then
      w.sendRing b { bucket := b.num, level := 1, gather := true, notice := true, redo := false, seg := ss.headD 0, nseg := ss.length,
                     shard := s.pos, hops := 0, xexp := xs, data := [], map := 0, job := b.job, gen := b.gen, ovf := false, xmax := 0,
                     intact := true }
    else (ss.zip xs).foldl (fun (v : Work) p =>
      v.controlAll (s.nodes.filter (· != v.node)) 16 (v.jobQueue b.job).2
        (toBE 2 b.num ++ [1] ++ toBE 1 (toTwos 8 p.2) ++ toBE 4 p.1 ++ zeros 8)) w
  w.tryRedo key

/-- Final sums of a block are complete at this owner (R368, R369, R387 to R391). -/
def Work.blockSummed (w : Work) (key lvl : Nat) (ss : List Nat) : Work :=
  match w.bucket key with
  | none => w
  | some b =>
    let b := { b with summed := ss.foldl (fun l q => insNat (lvl + 2 * q) l) b.summed }
    let w := (w.setBucket key b).redProgress ss.length
    let sum := fun (v : Work) (q : Nat) => (v.wordsAt (b.sumAt lvl q) 1024, v.mapOf (b.sumAt lvl q) 4096)
    if !b.two then (w.sendResults key b 0 ss (ss.map (fun q => ((0 : Int), sum w q))))
    else if lvl = 0 then w
    else
      let xm := (ss.map (fun q => (Sp.find b.ovf q).getD 0)).foldl max 0
      let again := ss.any (fun q => (Sp.find b.redo q).isSome)
      if xm ≠ 0 && !again then w.sendNotice key b ss (ss.map (fun q => min (w.scaleX (b.firstSeg + q) + (xm : Int)) 118)) xm
      else
        let w := w.when (xm ≠ 0) (fun v => (v.inc REDO_SAT_CNT).setBit RED_ERR 2)
        let w := w.onBucket key (fun b => { b with ovf := ss.foldl (fun l q => Sp.erase l q) b.ovf })
        let base := fun (q : Nat) => w.levelX b q
        let rs := ss.map (fun q => (resultX (base q) (sum w q).1, sum w q))
        let w := w.incBy RESULT_RAISE_CNT ((ss.zip rs).filter (fun p => base p.1 < p.2.1)).length
        let w := (ss.zip rs).foldl (fun (v : Work) p => v.observeSeg key b p.1 p.2.2.1) w
        match w.bucket key with | some b => w.sendResults key b 1 ss rs | none => w

/-- A stage of one member adds nothing and passes its input on as its sum (R372). -/
def Work.passThrough (w : Work) (key lvl : Nat) : Work :=
  match w.bucket key with
  | none => w
  | some b =>
    (segsOf (b.own lvl)).foldl (fun (v : Work) q =>
      let a := b.inputAt lvl q
      ((v.putSeg (b.sumAt lvl q) (v.wordsAt a 1024) (v.mapOf a 4096)).countCnt b 0 1).blockSummed key lvl [q]) w

/-- A level starts: its stage opens where it can, and sends (R372). -/
def Work.startLevel (w : Work) (key lvl : Nat) : Work :=
  let o := w.tryOpen key lvl
  if !o.1 then o.2
  else match o.2.bucket key with
  | none => o.2
  | some b => if (b.stage lvl).n = 1 then o.2.passThrough key lvl else o.2.startPass key b lvl (fun _ => true)

/-- Level 1 starts once every sum of the level-0 shard is complete, and gathers follow what stands in DST (R372). -/
def Work.advanceBucket (w : Work) (key : Nat) : Work :=
  match w.bucket key with
  | none => w
  | some b =>
    let ready := b.two && !(b.stage 1).isOpen && !b.gathered && !(b.stage 1).waited &&
      (segsOf (b.own 0)).all (fun s => b.summed.contains (2 * s))
    let w := if ready then w.startLevel key 1 else w
    (w.tryRedo key).tryGather key

/-! ### Remote accumulate (R317 to R323, R387) -/

/-- A block of a bucket that a controller has completed: its sum at level 0 or 1, or its result in DST; a result's exponent is kept
at RESX (R369, R391). -/
def Work.blockDone (w : Work) (k : Contribution) : Work :=
  match w.red.buckets.find? (fun p =>
      p.2.job == k.job && p.2.gen == k.gen &&
      (let b := p.2
       let within := fun (base n : Nat) => decide (base ≤ k.dest ∧ k.dest < base + 4096 * n)
       within b.work0 (b.own 0).2 || (b.two && within b.work1 (b.own 1).2) || within b.dst b.segs)) with
  | none => w
  | some (key, b) =>
    let w :=
      if b.work0 ≤ k.dest && k.dest < b.work0 + 4096 * (b.own 0).2 then w.blockSummed key 0 [(b.own 0).1 + (k.dest - b.work0) / 4096]
      else if b.two && b.work1 ≤ k.dest && k.dest < b.work1 + 4096 * (b.own 1).2 then
        w.blockSummed key 1 [(b.own 1).1 + (k.dest - b.work1) / 4096]
      else
        let s := (k.dest - b.dst) / 4096
        let w := if b.two then w.putNum (b.resx + s) 1 (toTwos 8 k.xexp) else w
        (w.redProgress 1).onBucket key (fun b => { b with written := insNat s b.written })
    w.advanceBucket key

/-- OVF and XMAX of a contribution to an open level-1 stage's WORK1 area are noted against its segment (R387). -/
def Work.noteOvf (w : Work) (k : Contribution) : Work :=
  if !k.ovf then w
  else match w.red.buckets.find? (fun p => p.2.job == k.job && p.2.gen == k.gen && p.2.two && (p.2.stage 1).isOpen &&
      decide (p.2.work1 ≤ k.dest ∧ k.dest < p.2.work1 + 4096 * (p.2.own 1).2)) with
  | none => w
  | some (key, b) =>
    let s := (b.own 1).1 + (k.dest - b.work1) / 4096
    w.setBucket key { b with ovf := Sp.put b.ovf s (max k.xmax ((Sp.find b.ovf s).getD 0)) }

/-- A contribution reaches its controller and what follows from it. -/
def Work.takeContrib (w : Work) (k : Contribution) : Taken × Work :=
  let r := w.contribute k
  let v := match r.1 with | .dropped | .refused => r.2 | _ => r.2.noteOvf k
  (r.1, if r.1 = .complete then v.blockDone k else v)

/-- This device's own contributions are applied in turn; one that is refused, or whose stack zeroises, is kept for later (R319, R326).
At most `n`. -/
def drainMine : Nat → Work → Work
  | 0, w => w
  | n + 1, w =>
    match w.red.mine with
    | [] => w
    | k :: ks =>
      let w := { w with red := { w.red with mine := ks } }
      let r := if w.rangeServes k.dest 4096 then w.takeContrib k else (.refused, w)
      let v := r.2
      drainMine n (if r.1 = .refused then { v with red := { v.red with refused := v.red.refused ++ [k] } } else v)

/-- Own contributions that wait are applied, refused ones tried again. -/
def Work.settleRed (w : Work) : Work :=
  let w := { w with red := { w.red with mine := w.red.mine ++ w.red.refused, refused := [] } }
  drainMine (w.red.mine.length + (w.red.buckets.map (fun p => 8 * p.2.segs)).sum) w

/-- The contribution that an ACC packet carries; none where it is too short to hold one. -/
def contribOf (p : Packet) (lost : Bool) : Option Contribution :=
  let l := p.payload
  let n := l.length - 40
  if l.length < 40 then none
  else some { dest := beAt l 0 8, seq := beAt l 8 2, count := beAt l 10 2, fmt := beAt l 12 1, xexp := sext 8 (beAt l 13 1),
              notify := beAt l 16 8, rsvd := beAt l 14 2 + beAt l 24 8 + beAt l (38 + n) 2, job := p.job, gen := p.gen, data := sub l 32 n, lost := lost,
              poisonMap := if lost then 0xFFFF else beAt l (36 + n) 2, ovf := p.flags.testBit 2, xmax := p.xmax % 128 }

/-- An ACC packet in its turn (R315, R316, R319, R320): the answer is its NAK code, 0 for an accepted packet. A block whose second
arrival matched, or failed again, counts once its controller has taken it. -/
def Work.takeAcc (w : Work) (p : Packet) : Work × Nat :=
  match contribOf p false with
  | none => (w, 4)
  | some k =>
    if malformedContrib k then ((w.takeContrib k).2, 4)
    else
      let m := (stackOf k.dest).1
      let n := p.payload.length - 40
      let good := crc32c (k.data ++ toBE 2 k.poisonMap) == beAt p.payload (32 + n) 4
      let fl := w.rxFlow p
      if !good && !fl.retry then (w.setRx p { fl with retry := true }, 2)
      else
        let r := w.takeContrib (if good then k else { k with lost := true, poisonMap := 0xFFFF })
        match r.1 with
        | .refused => (r.2.setRx p { r.2.rxFlow p with retry := !good, rematch := fl.rematch || (good && fl.retry) }, 3)
        | .dropped => (r.2, 4)
        | _ =>
          (if good then r.2.when (fl.retry || fl.rematch) (·.transient (TBLK_RETRY_CNT m))
            else ((r.2.inc (TBLK_FAIL_CNT m)).setBit (MC_ERR m) 2).lasting
              { cls := 5, unit := 1080 + m, job := p.job, addr := k.dest, detail := p.src } (some 10) (r.2.crewsFor p.job none), 0)

/-- A packet that waited for a stack is taken now (R326): its job may have ended since. -/
def Work.takeParked (w : Work) (i : Issuer) (p : Packet) : Work :=
  if !w.jobOk p || !w.queueOk p then w
  else if !w.packetServed p then w.park i (.packet p)
  else w.inOrder p (fun v => match p.type with | 1 => v.takeAcc p | 10 => v.takeReadReq p | _ => v.takeData p)

/-! ### The ring (R375, R378, R379) -/

/-- A bucket stage that a RING packet belongs to, once it is open. A packet of a redo pass waits for this member's own. -/
def Work.ringStage (w : Work) (k : Nat) (r : Ring) : Option (Nat × Bucket) :=
  w.red.buckets.find? (fun p => p.2.num == r.bucket && p.2.job == r.job && p.2.gen == r.gen && (p.2.stage r.level).ring &&
    (p.2.stage r.level).isOpen && (p.2.stage r.level).rx == k && (!r.redo || p.2.redoRun))

/-- Segment j of a packet: its bytes and its map. -/
def Ring.part (r : Ring) (fmt j : Nat) : List Byte × Nat :=
  (sub r.data (segLen fmt * j) (segLen fmt), bits r.map (16 / linesPer fmt * j) (16 / linesPer fmt))

/-- The values that segment j carries and its line mask: +0 where it carries poison. -/
def Ring.values (r : Ring) (fmt j : Nat) : List Word × Nat :=
  let p := r.part fmt j
  let mask := mapUp fmt p.2
  (if mask = 0 then widenSeg fmt (r.xexp.getD j 0) p.1 else List.replicate 1024 0, mask)

/-- The adder handles a packet of the reduce phase (R378, R386): on to the successor, or into the owner's sums. -/
def Work.ringReduce (w : Work) (k key : Nat) (b : Bucket) (r : Ring) : Work :=
  let s := b.stage r.level
  let fmt := levelFmt r.level
  let ss := segsOf (r.seg, r.nseg)
  let w := b.readsSegs r.level ss (w.inc (ADD_PKT_CNT k))
  let w := w.when (r.map ≠ 0) (·.inc (ADD_POISON_CNT k))
  let sums := (ss.zipIdx).map (fun q =>
    let a := r.values fmt q.2
    let o := w.contribSeg (b.inputAt r.level q.1)
    (r.xexp.getD q.2 0, a.1.zipWith fadd o.1, a.2 ||| o.2))
  if s.pos = r.shard then
    let w := (ss.zip sums).foldl (fun (v : Work) p => (v.putSeg (b.sumAt r.level p.1) p.2.2.1 p.2.2.2).countCnt b 0 1) w
    let w := if r.ovf then w.onBucket key (fun b => { b with ovf := ss.foldl (fun l q => Sp.put l q r.xmax) b.ovf }) else w
    (w.blockSummed key r.level ss).advanceBucket key
  else w.ringPacket key b r.level r.shard false r.redo fmt ss sums (r.hops + 1) (if r.ovf then r.xmax else 0)

/-- The adder handles a packet of the gather phase: into DST and RESX, and on unless the successor is the shard's owner (R378,
R388). -/
def Work.ringGather (w : Work) (k key : Nat) (b : Bucket) (r : Ring) : Work :=
  let s := b.stage r.level
  let ss := segsOf (r.seg, r.nseg)
  let fmt := b.resultFmt
  let w :=
    if r.notice then w.onBucket key (fun b => { b with redo := (ss.zipIdx).foldl (fun l q => Sp.put l q.1 (r.xexp.getD q.2 0)) b.redo })
    else
      let w := w.inc (ADD_PKT_CNT k)
      let w := w.when (r.map ≠ 0) (·.inc (ADD_POISON_CNT k))
      (ss.zipIdx).foldl (fun (v : Work) q =>
        let d := r.part fmt q.2
        v.writeResult key b q.1 (r.xexp.getD q.2 0) (widenSeg fmt (r.xexp.getD q.2 0) d.1) (mapUp fmt d.2)) w
  let w := if (s.pos + 1) % s.n = r.shard then w else w.sendRing b r
  w.advanceBucket key

/-- The lengths of a packet's data are those of its phase (Table 10-4). -/
def Ring.fits (r : Ring) (b : Bucket) : Bool :=
  let fmt := if r.gather then b.resultFmt else levelFmt r.level
  decide (r.level < b.stages.length) && decide (r.shard < (b.stage r.level).n) &&
    (if r.notice then r.data.isEmpty && r.gather && r.level == 1 else r.data.length == r.nseg * segLen fmt) &&
    r.nseg ≤ perPacket fmt && (let sh := b.shard r.level r.shard; decide (sh.1 ≤ r.seg ∧ r.seg + r.nseg ≤ sh.1 + sh.2))

/-- A RING packet at a link adder (R375, R378): held until its stage is open. A packet whose trailer does not match has no second
arrival (R344): it goes on poisoned, as a lasting path fault (DEDUCED, log 32). -/
def Work.ringIn (w : Work) (k : Nat) (p : Packet) : Work :=
  match ringOf p with
  | none => w
  | some r =>
    match w.ringStage k r with
    | none =>
      ((w.setLink k { w.link k with held := (w.link k).held ++ [p] }).inc (ADD_HOLD_CNT k)).showAdder k
    | some (key, b) =>
      if !r.fits b then w
      else
        let w := if r.intact then w else w.lasting { cls := 5, unit := 1040 + k, job := r.job } (some 10) (w.crewsFor r.job none)
        let r := if r.intact then r else { r with map := 0xFFFF, intact := true }
        if r.gather then w.ringGather k key b r else w.ringReduce k key b r

/-- The first packet held at a link whose stage is open. -/
def Work.heldReady (w : Work) (k : Nat) : Option Packet :=
  (w.link k).held.find? (fun p => match ringOf p with | some r => (w.ringStage k r).isSome | none => true)

/-- Packets held for stages that have opened are taken up in order; at most `n`. -/
def drainRing : Nat → Nat → Work → Work
  | 0, _, w => w
  | n + 1, k, w =>
    match w.heldReady k with
    | none => w
    | some p => drainRing n k (((w.setLink k { w.link k with held := (w.link k).held.erase p }).showAdder k).ringIn k p)

/-- What the opening of stages lets through: held packets at every link, and this device's own contributions. -/
def Work.redGo (w : Work) : Work :=
  ((List.range 36).foldl (fun (v : Work) k => drainRing (v.link k).held.length k v) w.settleRed).settleRed

/-! ### Launch, end, abort (R371, R374, R376, R393) -/

/-- The first failed check of a bucket's descriptor (Table 10-3), 0 for none. -/
def Work.bucketCheck (w : Work) (h : List Byte) (es : List (List Byte)) : Nat :=
  let n := leAt h 4 1
  let segs := leAt h 8 4
  let n0 := match es[0]? with | some e => leAt e 2 2 | none => 0
  let n1 := match es[1]? with | some e => leAt e 2 2 | none => 0
  let ring := fun (e : List Byte) => (leAt e 0 1).testBit 0
  let addrs := [leAt h 16 8, leAt h 24 8, leAt h 32 8, leAt h 40 8, leAt h 56 8]
  if (n ≠ 1 ∧ n ≠ 2) || segs = 0 || 16777216 < segs || segs < n0 || (n = 2 && segs / max 1 n0 < n1) then 1
  else if w.red.launched.any (fun q => q.2 == leAt h 0 2) then 2
  else if es.any (fun e => if ring e then 35 < leAt e 6 1 || 35 < leAt e 7 1 || leAt e 6 1 = leAt e 7 1
      else leAt e 8 8 % 2 ≠ 0 || !inHbm (leAt e 8 8) (2 * leAt e 2 2)) then 3
  else if es.any (fun e => leAt e 2 2 = 0 || 4096 < leAt e 2 2 || leAt e 2 2 ≤ leAt e 4 2) then 4
  else if addrs.any (fun a => a % 4096 ≠ 0 || apertureBase ≤ a) || leAt h 48 8 % 64 ≠ 0 || apertureBase ≤ leAt h 48 8 then 5
  else if !allZero (sub h 5 3) || es.any (fun e => 1 < leAt e 0 1 || leAt e 1 1 ≠ 0 || (ring e && leAt e 8 8 ≠ 0)) ||
      (n = 1 && (leAt h 12 4 ≠ 0 || leAt h 40 8 ≠ 0 || leAt h 48 8 ≠ 0)) then 6
  else if (w.jobEnt (leAt h 2 2)).state ≠ 1 then 7
  else if n = 2 && w.fld SCALE_COUNT 0 28 < leAt h 12 4 + segs then 8
  else 0

/-- A stage entry's fields (Table 10-2). -/
def Work.stageOf (w : Work) (e : List Byte) : Stage :=
  let n := leAt e 2 2
  let ring := (leAt e 0 1).testBit 0
  { ring := ring, n := n, pos := leAt e 4 2, rx := leAt e 6 1, tx := leAt e 7 1,
    nodes := if ring then [] else (List.range n).map (fun i => w.num (leAt e 8 8 + 2 * i) 2) }

/-- The launch of a reduction bucket slot (R370, R371): a refused descriptor is a program fault. -/
def Work.launchBucket (w : Work) (c s : Nat) (sl : Slot) : Work :=
  let refuse := fun (cause : Nat) => (((w.setBit RED_ERR 0).setFld RED_ERR 8 4 cause).programFault c cause s)
  match w.descriptor c sl.desc 64 64 with
  | none => refuse 5
  | some h =>
    let n := leAt h 4 1
    let n := if n = 1 ∨ n = 2 then n else 0
    match w.localGet c sl.desc (64 + 16 * n) with
    | none => refuse 5
    | some d =>
      let es := (List.range n).map (fun i => sub d.1 (64 + 16 * i) 16)
      let cause := w.bucketCheck h es
      if cause ≠ 0 then refuse cause
      else
        let job := leAt h 2 2
        let b : Bucket :=
          { num := leAt h 0 2, job := job, gen := w.jobGen job, segs := leAt h 8 4, firstSeg := leAt h 12 4,
            src := leAt h 16 8, dst := leAt h 24 8, work0 := leAt h 32 8, work1 := leAt h 40 8, resx := leAt h 48 8,
            cnt := leAt h 56 8, stages := es.map w.stageOf }
        let key := 4096 * c + s
        let w := { w.setBucket key b with red := { (w.setBucket key b).red with launched := w.red.launched ++ [(c, b.num)] } }
        ((w.startLevel key 0).advanceBucket key).redGo

/-- A bucket's slot completes once every segment of DST is written (R374). -/
def Work.bucketOver (w : Work) (key : Nat) : Work :=
  match w.bucket key with
  | none => w
  | some b =>
    if b.done || !(List.range b.segs).all (fun s => b.written.contains s) then w
    else
      let w := ((w.closeStage key 0).closeStage key 1).onBucket key (fun b => { b with done := true })
      w.completeSlot (key / 4096) (key % 4096)

/-- Held packets of a job's generation are discarded at every link (R376). -/
def Work.dropHeld (w : Work) (job gen : Nat) : Work :=
  w.links.foldl (fun (v : Work) l =>
    (v.setLink l.1 { v.link l.1 with held := (v.link l.1).held.filter (fun p => !(p.job == job && p.gen == gen)) }).showAdder l.1) w

/-- A bucket is given up: its stages close and its observations are discarded (R232, R376). -/
def Work.dropBucket (w : Work) (key : Nat) (b : Bucket) : Work :=
  let w := (w.closeStage key 0).closeStage key 1
  let w := b.obs.foldl (fun (v : Work) i => v.putNum (v.segEst i + 1) 1 (putBits (v.num (v.segEst i + 1) 1) 4 1 0)) w
  { w with red := { w.red with buckets := Sp.erase w.red.buckets key } }

/-- Every context, held packet and bucket of a job's generation is discarded (R376, R323). -/
def Work.abortBuckets (w : Work) (job gen : Nat) : Work :=
  let w := (w.red.buckets.filter (fun p => p.2.job == job && p.2.gen == gen)).foldl (fun (v : Work) p => v.dropBucket p.1 p.2) w
  let keep := fun (k : Contribution) => !(k.job == job && k.gen == gen)
  let w := { w with red := { w.red with mine := w.red.mine.filter keep, refused := w.red.refused.filter keep } }
  ((w.dropHeld job gen).abortContribs job gen).showRed

/-- Buckets of the slots of some cores are given up; their numbers may launch again. -/
def Work.abortCoreBuckets (w : Work) (cores : List Nat) : Work :=
  let w := { w with red := { w.red with launched := w.red.launched.filter (fun q => !cores.contains q.1) } }
  ((w.red.buckets.filter (fun p => cores.contains (p.1 / 4096))).foldl (fun (v : Work) p => v.dropBucket p.1 p.2) w).showRed

/-- One bucket taken up at a finish: the estimate updates of its owned segments, with the scale reports they call for (R382, R393). -/
def Work.takeUp (w : Work) (b : Bucket) : List (Nat × Int) × Work :=
  let decay := orDefault (w.fld SCALE_CFG 0 8) 1
  let r := (segsOf (b.own 1)).foldl (fun (acc : List (Nat × Int) × Work) s =>
    let v := acc.2
    let i := b.firstSeg + s
    let a := v.segEst i
    let ctl := v.num (a + 1) 1
    if !b.two || !ctl.testBit 4 then acc
    else
      let e := estNext (ctl.testBit 3) (sext 8 (v.num a 1)) (sext 8 (v.num (a + 3) 1)) decay (v.num (a + 2) 1)
      let v := v.store a (toLE 1 (toTwos 8 e.1) ++ toLE 1 (putBits (putBits ctl 4 1 0) 3 1 1) ++ toLE 1 e.2)
      let x := clampInt (e.1 + (ctl % 8 : Nat) - 8) (-117) 118
      (if x = v.scaleX i then acc.1 else acc.1 ++ [(i, x)], v)) ([], w)
  (r.1, (r.2.inc BKT_DONE_CNT).wr BKT_LAST b.num)

/-- A list in parts of at most n. -/
def partsOf {α : Type} (l : List α) (n : Nat) : List (List α) :=
  (List.range (ceilDiv l.length n)).map (fun i => (l.drop (n * i)).take n)

/-- A SCALE_REPORT or SCALE_UPDATE body (Table 10-6). -/
def scaleBody (crew beat : Nat) (es : List (Nat × Int)) : List Byte :=
  toBE 2 crew ++ toBE 2 es.length ++ toBE 8 beat ++ zeros 4 ++ es.flatMap (fun e => toBE 4 e.1 ++ toBE 1 (toTwos 8 e.2) ++ zeros 3)

/-- The entries of such a body; none where it breaks Table 10-6. -/
def scaleEntries (b : List Byte) : Option (List (Nat × Int)) :=
  let n := beAt b 2 2
  if b.length ≠ 16 + 8 * n || n = 0 || 500 < n then none
  else some ((List.range n).map (fun k => (beAt b (16 + 8 * k) 4, sext 8 (beAt b (20 + 8 * k) 1))))

/-- The finish F of a stroke of a crew takes up its completed buckets in ascending BUCKET and reports new exponents (R383, R393). -/
def Work.finishBuckets (w : Work) (crew f : Nat) : Work :=
  let mine := fun (c : Nat) => match (w.cox c).prog with | some g => w.crewIs g crew | none => true
  let bs := (w.red.buckets.filter (fun p => p.2.done && mine (p.1 / 4096))).mergeSort (fun a b => a.2.num ≤ b.2.num)
  let r := bs.foldl (fun (acc : List (Nat × Int) × Work) p => let t := acc.2.takeUp p.2; (acc.1 ++ t.1, t.2)) ([], w)
  let v := r.2
  let left := v.red.buckets.filter (fun p => !(p.2.done && mine (p.1 / 4096)))
  let w := { v with red := { v.red with buckets := left, launched := v.red.launched.filter (fun q => !mine q.1) } }
  (partsOf r.1 500).foldl (fun (v : Work) es => v.toManager 14 crew (scaleBody crew f es)) (w.incBy SCALE_CHG_CNT r.1.length)

/-- Updates that are due at a catch are written into the scale table (R41, R383). -/
def Work.applyScales (w : Work) (catch_ : Nat) : Work :=
  let due := w.red.updates.filter (fun u => !beatBefore catch_ u.1)
  let w := due.foldl (fun (v : Work) u =>
    (u.2.foldl (fun (x : Work) e => x.putNum (x.base SCALE_BASE_LO SCALE_BASE_HI + e.1) 1 (toTwos 8 e.2)) v).incBy SCALE_APPLY_CNT u.2.length) w
  ({ w with red := { w.red with updates := w.red.updates.filter (fun u => beatBefore catch_ u.1) } }).showRed

/-- A SCALE_UPDATE reaches a member (R383, R384). -/
def Work.takeScales (w : Work) (body : List Byte) : Work :=
  match scaleEntries body with
  | none => w
  | some es =>
    let c := beAt body 4 8
    if !beatBefore w.beatFull c then { w.setBit RED_ERR 1 with red := { w.red with scaleLate := true } }
    else ({ w with red := { w.red with updates := w.red.updates ++ [(c, es)] } }).showRed

/-- A SCALE_REPORT reaches the manager, which merges it into the crew's next update (R383). -/
def Work.mergeScales (w : Work) (body : List Byte) : Work :=
  match scaleEntries body with
  | none => w
  | some es =>
    let n := beAt body 0 2
    let m := w.mcrew n
    let lead := max 64 (w.fld SCALE_CFG 16 16)
    w.setMcrew n { m with scales := m.scales.filter (fun e => !es.any (fun f => f.1 == e.1)) ++ es, scaleDue := beatAdd (beAt body 4 8) lead }

/-- A REDO body reaches a member of a level-1 stage run by RACC (R388). -/
def Work.takeRedo (w : Work) (p : Packet) (body : List Byte) : Work :=
  match w.red.buckets.find? (fun q => q.2.num == beAt body 0 2 && q.2.two && (q.2.stage 1).isOpen && !(q.2.stage 1).ring && (q.2.stage 1).nodes.contains p.src) with
  | none => w
  | some (key, b) =>
    let s := beAt body 4 4
    if body.length ≠ 16 || beAt body 2 1 ≠ 1 || !allZero (sub body 8 8) || !(segsOf (b.own 0)).contains s then w
    else (((w.setBucket key { b with redo := Sp.put b.redo s (sext 8 (beAt body 3 1)) }).tryRedo key).advanceBucket key).redGo

/-! ### The commands -/

/-- ACC_CONTRIBUTION (R315 to R323, R387): an ACC packet brings a contribution. -/
def execAccContribution (port : Fin 40) (pkt : Packet) (s : State) : Ans :=
  s.run (fun _ w => if w.arrives port.val pkt 1 then (w.receiveMem port.val pkt (·.takeAcc pkt)).redGo else w)

/-- RING_PACKET (R375, R378, R379, R386, R388). -/
def execRingPacket (port : Fin 40) (pkt : Packet) (s : State) : Ans :=
  s.run (fun _ w => if w.arrives port.val pkt 9 && w.accepts pkt then (w.ringIn port.val pkt).redGo else w)

/-- ADDER_STAGE_OPEN (R377): a stage that waits for a context takes one, and what was held for it is taken up. -/
def execAdderStageOpen (core : Fin 1024) (slot : Nat) (level : Fin 2) (s : State) : Ans :=
  s.run (fun _ w =>
    let key := 4096 * core.val + slot
    match w.bucket key with
    | some b => if (b.stage level.val).waited then ((w.startLevel key level.val).advanceBucket key).redGo else w
    | none => w)

/-- BUCKET_DONE (R374). -/
def execBucketDone (core : Fin 1024) (slot : Nat) (s : State) : Ans :=
  s.run (fun _ w => if slot < 4096 then w.bucketOver (4096 * core.val + slot) else w)

/-- SCALE_REPORT (R383): the acting manager merges it. -/
def execScaleReport (port : Fin 40) (pkt : Packet) (s : State) : Ans :=
  s.run (fun _ w => if w.arrives port.val pkt 6 then w.onCtrl pkt 14 (fun v c => if v.acting then v.mergeScales c.body else v) else w)

/-- SCALE_UPDATE (R383, R384). -/
def execScaleUpdate (port : Fin 40) (pkt : Packet) (s : State) : Ans :=
  s.run (fun _ w => if w.arrives port.val pkt 6 then w.onCtrl pkt 15 (fun v c => if v.fromManager pkt then v.takeScales c.body else v) else w)

/-- REDO (R388). -/
def execRedo (port : Fin 40) (pkt : Packet) (s : State) : Ans :=
  s.run (fun _ w => if w.arrives port.val pkt 6 then w.onCtrl pkt 16 (fun v c => v.takeRedo pkt c.body) else w)

end Sys2Proof.Machine
end

