-- ==== Sys2Proof/Machine/Train.lean ====
section
/-! DEFINITION. Machine/Train.lean: the step engine: the feed ring, step records, heats and lane buffers (R252 to R264), and
the registers of the stash (R277). -/

namespace Sys2Proof.Machine

/-! ### Heats (R259) -/

/-- A sequence of a micro-batch: token address and length. -/
abbrev Seq := Nat × Nat

/-- The cut of a lane: heats ended, the heat being filled, and its tokens. -/
structure Cut where
  ended : List (List Piece) := []
  cur : List Piece := []
  used : Nat := 0
  deriving DecidableEq, Repr

/-- A new heat begins. -/
def Cut.next (k : Cut) : Cut := { ended := k.ended ++ [k.cur], cur := [], used := 0 }

/-- A sequence's tokens from `off` on placed heat by heat (R259); at most `n` whole heats. -/
def cutFrom (cap i : Nat) (s : Seq) : Nat → Nat → Cut → Cut
  | 0, off, k => { k with cur := k.cur ++ [Piece.mk i s.1 off (s.2 - off)], used := k.used + (s.2 - off) }
  | n + 1, off, k =>
    if cap - k.used < s.2 - off then
      let take := cap - k.used
      cutFrom cap i s n (off + take) { k with cur := k.cur ++ [Piece.mk i s.1 off take] }.next
    else { k with cur := k.cur ++ [Piece.mk i s.1 off (s.2 - off)], used := k.used + (s.2 - off) }

/-- The heats of a lane (R259). -/
def cutHeats (cap : Nat) (seqs : List Seq) : List (List Piece) :=
  let k := (seqs.zipIdx).foldl (fun (k : Cut) q =>
    let k := if 0 < k.used && cap - k.used < q.1.2 then k.next else k
    cutFrom cap q.2 q.1 (q.1.2 / max 1 cap + 1) 0 k) {}
  k.ended ++ [k.cur]

/-- Sequences of a lane cut into pieces (R261). -/
def splitSeqs (heats : List (List Piece)) : Nat :=
  let is := heats.flatten.map (·.seq)
  (is.dedup.filter (fun i => 1 < is.count i)).length

/-! ### The step record (R255, R256) -/

/-- The feed ring's size, 0 taken as 1. -/
def Work.feedSize (w : Work) : Nat := orDefault (w.fld FEED_SIZE 0 16) 1

/-- A record waits in the feed ring and the engine may take it. -/
def Work.feedReady (w : Work) : Bool :=
  w.flag STEP_CTL 0 && w.fld FEED_HEAD 0 16 != w.fld FEED_TAIL 0 16 % w.feedSize

/-- A table of `n` bytes is 16-byte aligned and within HBM. -/
def tableOk (a n : Nat) : Bool := a % 16 == 0 && inHbm a n

/-- The sequences of a micro-batch record. -/
def Work.seqsOf (w : Work) (mb : List Byte) : List Seq :=
  let t := leAt mb 8 8
  (List.range (leAt mb 0 2)).map (fun i => let e := (w.hbmGet (t + 16 * i) 16).1; (leAt e 0 8, leAt e 8 4))

/-- The micro-batch records that a step record names. -/
def Work.mbsOf (w : Work) (r : List Byte) : List (List Byte) :=
  (List.range (leAt r 5 1)).map (fun q => (w.hbmGet (leAt r 16 8 + 16 * q) 16).1)

/-- The first check of Table 7-3 that a step record fails; 0 where none does. -/
def Work.stepCheck (w : Work) (r : List Byte) : Nat :=
  let mbs := w.mbsOf r
  let n := (mbs.map (fun m => leAt m 0 2)).sum
  let lanes := mbs.map w.seqsOf
  if crc32c (sub r 0 60 ++ mbs.flatten) ≠ leAt r 60 4 then 1
  else if (match w.step.prev with | some p => leAt r 0 4 != (p + 1) % 2 ^ 32 | none => false) then 2
  else if leAt r 5 1 ≠ w.lanes || leAt r 4 1 = 0 then 3
  else if 512 < n || lanes.any (fun l => l.any (fun s => s.2 == 0)) ||
      (mbs.zip lanes).any (fun p => leAt p.1 4 4 != (p.2.map (·.2)).sum) then 4
  else if !(leAt r 6 1).testBit 0 && lanes.any (fun l => l.any (fun s => w.laneCap < s.2)) then 5
  else if lanes.any (fun l => leAt r 4 1 < (cutHeats w.laneCap l).length) then 6
  else if 2 ≤ leAt r 6 1 || leAt r 7 1 ≠ 0 || !allZero (sub r 12 4) || !allZero (sub r 24 36) ||
      !tableOk (leAt r 16 8) (16 * leAt r 5 1) ||
      mbs.any (fun m => leAt m 2 2 ≠ 0 || !tableOk (leAt m 8 8) (16 * leAt m 0 2) ||
        (List.range (leAt m 0 2)).any (fun i => !allZero (sub (w.hbmGet (leAt m 8 8 + 16 * i) 16).1 12 4))) then 7
  else 0

/-! ### Lane buffers (R260 to R263) -/

/-- The heat of a lane in the stroke being prepared. -/
def Work.heatOf (w : Work) (q : Nat) : List Piece := ((w.step.heats[q]?).getD []).getD w.step.stroke []

/-- A piece's tokens copied to a lane buffer, with their poison. -/
def Work.putTokens (w : Work) (a : Nat) (p : Piece) : Work :=
  let g := w.hbmGet (p.addr + 4 * p.off) (4 * p.len)
  g.2.2.hbmPut a g.1 g.2.1

/-- A lane's buffer written (Table 7-4). -/
def Work.putLane (w : Work) (q : Nat) : Work :=
  let a := w.laneBuf q
  let ps := w.heatOf q
  let n := (ps.map (·.len)).sum
  let st := w.step
  let flags := (if st.stroke = 0 then 1 else 0) + (if st.stroke + 1 = st.strokes then 2 else 0) + (if ps.isEmpty then 4 else 0)
  let head := toLE 4 n ++ toLE 2 ps.length ++ toLE 1 st.stroke ++ toLE 1 flags ++ toLE 4 st.step ++
    toLE 4 st.tokenScale.toNat ++ zeros 48
  let r := ps.foldl (fun (acc : List Byte × Nat × Work) p =>
    (acc.1 ++ toLE 4 acc.2.1 ++ toLE 4 p.len ++ toLE 4 p.off ++ toLE 2 p.seq ++ zeros 2, acc.2.1 + p.len,
      acc.2.2.putTokens (a + 8256 + 4 * acc.2.1) p)) (([] : List Byte), 0, w)
  let cap := w.laneCap
  let pads := (List.range (cap - n)).flatMap (fun _ => toLE 4 0xFFFFFFFF)
  let weights := (List.range n).flatMap (fun _ => toLE 4 st.tokenScale.toNat)
  let w := ((r.2.2.hbmPut a (head ++ r.1) false).hbmPut (a + 8256 + 4 * n) pads false).hbmPut (a + 8256 + 4 * cap)
    (weights ++ zeros (4 * (cap - n))) false
  w.inc (if ps.isEmpty then EMPTY_HEAT_CNT else HEAT_CNT)

/-- Every lane's buffer of the stroke being prepared. -/
def Work.putLanes (w : Work) : Work :=
  let w := (List.range w.lanes).foldl (fun (v : Work) q => v.putLane q) w
  { w with stroke := { w.stroke with prepared := true } }

/-! ### Preparation (R255 to R257, R264) -/

/-- The engine takes the record at FEED_HEAD and checks it (R255, R256); a refused one starts no stroke until RUN is set anew. -/
def Work.takeRecord (w : Work) : Work :=
  let g := w.hbmGet (w.base FEED_BASE_LO FEED_BASE_HI + 64 * w.fld FEED_HEAD 0 16) 64
  let r := g.1
  let w := g.2.2
  let e := w.stepCheck r
  let w := w.setFld FEED_HEAD 0 16 ((w.fld FEED_HEAD 0 16 + 1) % w.feedSize)
  if e ≠ 0 then
    let w := (w.setBit STEP_ERR 0).setFld STEP_ERR 4 4 e
    let w := { w with step := { w.step with refused := true, starving := false } }
    w.lasting { cls := 1, unit := 1220, code := e } (some 5) (w.crewsFor 0 none)
  else
    let heats := ((w.mbsOf r).map w.seqsOf).map (cutHeats w.laneCap)
    let w := { w with step := { w.step with
      prev := some (leAt r 0 4), step := leAt r 0 4, strokes := leAt r 4 1, stroke := 0, inStep := true
      tokenScale := BitVec.ofNat 32 (leAt r 8 4), heats := heats, starving := false } }
    (w.incBy SPLIT_SEQ_CNT ((heats.map splitSeqs).sum)).putLanes

/-- The step in flight has strokes left. -/
def Work.midStep (w : Work) : Bool := w.step.inStep && w.step.stroke + 1 < w.step.strokes

/-- The lane buffers of the next stroke are prepared: of the step's next stroke, or of a new step's first, for which the engine may
have to wait (R252, R257, R264). FEED_EN lets it take step records; a step once taken runs to its end (Table 7-14). -/
def Work.prepare (w : Work) : Work :=
  if w.step.refused || w.stroke.prepared then w
  else if w.midStep then { w with step := { w.step with stroke := w.step.stroke + 1 } }.putLanes
  else if !w.flag STEP_CTL 0 then w
  else if w.feedReady then w.takeRecord
  else { w with step := { w.step with starving := true } }.setBit STEP_STATUS 17

/-- Every cox with work of its own is in a state: READY_WAIT, or ARMED for the first stroke after RUN (R264). -/
def Work.prepDue (w : Work) : Bool :=
  let ss := (w.coxes.map (fun p => w.coxState p.1)).filter (· != 0)
  !ss.isEmpty && (ss.all (· == 4) || ss.all (· == 1))

/-- Nothing holds READY on the step engine's side: the next stroke is prepared, or the engine takes no records (R264; log 27). -/
def Work.prepDone (w : Work) : Bool := w.stroke.prepared || (!w.flag STEP_CTL 0 && !w.midStep)

/-- The stroke that begins takes the prepared heats (R252, Table 7-16). -/
def Work.stepCatch (w : Work) : Work :=
  let w := { w with step := { w.step with starving := false } }
  if w.stroke.prepared then
    let st := w.step
    let w := w.wr STEP_STATUS (putBits (putBits (putBits (w.rd STEP_STATUS) 0 8 st.stroke) 8 8 st.strokes) 16 1
      (if st.stroke + 1 = st.strokes then 1 else 0))
    { w.wr STEP_CUR st.step with stroke := { w.stroke with prepared := false } }
  else (w.setFld STEP_STATUS 0 16 0).clrBit STEP_STATUS 16

/-- The stroke is the step's first; one outside any step counts as a step of its own (log 27). -/
def Work.firstStroke (w : Work) : Bool := w.fld STEP_STATUS 8 8 == 0 || w.fld STEP_STATUS 0 8 == 0

/-- The stroke is the step's last. -/
def Work.lastStroke (w : Work) : Bool := w.fld STEP_STATUS 8 8 == 0 || w.flag STEP_STATUS 16

/-- A finish of a step's last stroke commits the step (Table 7-14). -/
def Work.stepFinish (w : Work) : Work :=
  w.when (w.fld STEP_STATUS 8 8 != 0 && w.flag STEP_STATUS 16) (fun v => v.wr STEP_COMMITTED (v.rd STEP_CUR))

/-- An abort restarts the step from its beginning (R254). -/
def Work.stepAbort (w : Work) : Work :=
  { w with step := { w.step with inStep := false, starving := false, heats := [] },
           stroke := { w.stroke with prepared := false } }

/-- RUN is set on the first cox: the next step record is the first (R256). -/
def Work.stepRun (w : Work) : Work :=
  { w with step := { w.step with prev := none, inStep := false, refused := false, starving := false },
           stroke := { w.stroke with prepared := false } }

/-! ### The commands -/

/-- LANE_PREP (R255 to R264). -/
def execLanePrep (s : State) : Ans := s.run (fun _ w => if w.prepDue then w.prepare else w)

/-- A write of FEED_TAIL: a wait for a record ends, while the stroke is still to be prepared (R255, R257, R264). -/
def Work.writeFeedTail (w : Work) (p : Path) (v : Nat) : Work :=
  let w := w.wrPlain p FEED_TAIL v
  if w.step.starving && w.feedReady && w.prepDue then w.prepare else w

/-- FEED_TAIL_WRITE (R255, R257). -/
def execFeedTailWrite (path : Path) (value : Word) (s : State) : Ans :=
  s.run (fun _ w => w.onBus path FEED_TAIL value.toNat (fun v => v.writeFeedTail path value.toNat))

/-- The registers whose write makes the engine check the entry table (R277). -/
def stashTableRegs : List Nat := [ENTRY_BASE_LO, ENTRY_BASE_HI, ENTRY_COUNT, POOL_PAGES, RCMP_PAGES]

/-- A write of one of them, accepted only while every cox is IDLE; POOL_FREE follows POOL_PAGES (log 20). -/
def Work.writeStashTable (w : Work) (p : Path) (a v : Nat) : Work :=
  if !w.allIdle then w
  else
    let w := w.wrPlain p a v
    (w.when (a = POOL_PAGES) (fun u => u.setFld POOL_FREE 0 23 (u.fld POOL_PAGES 0 23))).checkEntries

/-- STASH_TABLE_WRITE (R277). -/
def execStashTableWrite (path : Path) (addr : Nat) (value : Word) (s : State) : Ans :=
  s.run (fun _ w =>
    if stashTableRegs.contains addr then w.onBus path addr value.toNat (fun v => v.writeStashTable path addr value.toNat) else w)

end Sys2Proof.Machine
end

