-- ==== Sys2Proof/Machine/Abort.lean ====
section
/-! DEFINITION. Machine/Abort.lean: the abort of a crew: what its cores drop, what the manager does after it, and the beacons
that bring it (R47, R411, R420, R454 to R459). -/

namespace Sys2Proof.Machine

/-! ### What a core drops (R47, R137, R203, R213, R232) -/

/-- A core gives up the forward layer groups of its slots; products in its row arrays run to their end for nothing. -/
def Work.dropForward (w : Work) (c : Nat) : Work :=
  let w := (List.range 16).foldl (fun (v : Work) t =>
    let x := v.tile c t
    v.setTile c t { x with flight := x.flight.map (fun p =>
      match p.for_ with | .train _ _ => { p with for_ := .nobody } | _ => p) }) w
  { w with fwd := w.fwd.filter (fun q => q.1 / 4096 != c) }.fwdActive c

/-- A core's calibration slots start no further unit; their retries are held over (R170). -/
def Work.dropCal (w : Work) (c : Nat) : Work :=
  (List.range 16).foldl (fun (v : Work) t => v.when ((v.tile c t).cal.slot.isSome) (fun u => u.calEnd c t false)) w

/-- A cox cancels its running slots and is ABORTED; it keeps its program until RUN is cleared (Table 1-8). -/
def Work.abortCox (w : Work) (c : Nat) : Work :=
  let w := (((w.stopCtxs c).dropForward c).dropCal c).dropEsts c
  ((w.setCox c { w.cox c with runs := [], next := none, catchAt := none }).setBit (COX_ERR c) 1).setCoxState c 6

/-- Slots of some cores no longer wait for a power domain. -/
def Work.dropDomainSlots (w : Work) (cores : List Nat) : Work :=
  { w with power := { w.power with
      dom := w.power.dom.map (fun d => (d.1, { d.2 with slots := d.2.slots.filter (fun q => !cores.contains q.1) })) } }

/-- Some coxes that are neither IDLE nor ABORTED abort: transfers roll back, buckets are given up, the step starts anew and the
stash is emptied (Table 1-8, R137, R254, R275). -/
def Work.abortCores (w : Work) (cores : List Nat) : Work :=
  let cs := cores.filter (fun c => w.coxState c != 0 && w.coxState c != 6)
  if cs.isEmpty then w
  else
    let w := cs.foldl (fun (v : Work) c => v.abortCox c) w
    let w := (((w.abortCommits cs).abortCoreBuckets cs).dropDomainSlots cs).stepAbort.resetStash
    { w with stroke := { w.stroke with active := false, readyFrom := none, readyAt := none, slip := 0, overrun := 0, stretch := 0 } }

/-- Cores whose cox holds a program of a crew. -/
def Work.crewCores (w : Work) (crew : Nat) : List Nat :=
  w.coxes.filterMap (fun p => match p.2.prog with | some g => if w.crewIs g crew then some p.1 else none | none => none)

/-! ### The manager after an abort (R411, R420) -/

/-- Nodes of a crew's members, this device apart. -/
def Work.crewNodes (w : Work) (crew : Nat) : List Nat :=
  match w.crew? crew with | some c => (c.members.map (·.node)).filter (· != w.node) | none => []

/-- A checkpoint attempt that has not committed fails (R411). -/
def Work.failAttempt (w : Work) (crew : Nat) : Work :=
  let m := w.mcrew crew
  if m.ckpt.isNone then w else (w.setMcrew crew { m with ckpt := none, ckptDue := true }).inc CKPT_FAIL_CNT

/-- The acting manager ends the crew's stroke and sends ROLL_CALL to its members, and to the spares, whose answer R422 asks for
(R420; DEDUCED, log 48). -/
def Work.managerAbort (w : Work) (crew : Nat) : Work :=
  if !w.acting then w
  else
    let w := w.failAttempt crew
    let call := (w.mgr.callNo + 1) % 2 ^ 32
    let m := w.mcrew crew
    let m := { m with on := false, began := true, ready := [], fin := none, said := false, restore := none, failed := [], scales := [],
                      cause := Sp.get w.fault.causes 0 crew, roll := some { call := call, start := w.beatFull } }
    let w := { w with mgr := { w.mgr with callNo := call, announce := w.mgr.announce.filter (· != crew) } }
    let spares := (w.mgr.joined.filter (·.2 == 1)).map (·.1)
    (w.setMcrew crew m).controlAll (w.crewNodes crew ++ spares).dedup 8 crew (toBE 4 call)

/-! ### The abort of a crew (R457) -/

/-- What the fault block keeps of a crew's abort ends with it. -/
def Work.clearAbort (w : Work) (crew : Nat) : Work :=
  let f := w.fault
  { w with fault := { f with
      aborts := Sp.erase f.aborts crew
      causes := Sp.erase f.causes crew
      decided := f.decided.filter (· != crew)
      beacons := f.beacons.filter (·.crew != crew)
      notReady := f.notReady.filter (·.2 != crew)
      resets := f.resets.map (fun r => { r with crews := r.crews.filter (· != crew) })
      abortDone := match Sp.find f.aborts crew with | some a => Sp.put f.abortDone crew a | none => f.abortDone } }

/-- Cores that a reset took from a crew's stroke drop what their estimator entries gathered in it, with the abort (R232, R445). -/
def Work.dropResetEsts (w : Work) (crew : Nat) : Work :=
  (w.fault.notReady.filter (·.2 == crew)).foldl (fun (v : Work) q => v.dropEsts q.1) w

/-- This device aborts a crew at once: its cores, and every context, tracker and held packet of the crew's job and generation
(R457); an ordered checkpoint is forgotten. -/
def Work.abortCrew (w : Work) (crew : Nat) : Work :=
  let w := (w.abortCores (w.crewCores crew)).dropResetEsts crew
  let w := match w.crew? crew with | some c => w.abortBuckets c.job (w.jobGen c.job) | none => w
  let w := { w with beat := { w.beat with fin := Sp.erase w.beat.fin crew },
                    mgr := { w.mgr with ckptOrder := none, ckptNow := none, recordDue := false } }
  ((w.inc ABORT_RX_CNT).managerAbort crew).clearAbort crew

/-! ### Beacons (R454 to R459) -/

/-- The fields of an ABORT payload; none where it breaks Table 12-11. -/
def beaconOf (l : List Byte) : Option Beacon :=
  if l.length ≠ 32 ∨ 1024 ≤ beAt l 0 2 ∨ 2 ≤ beAt l 3 1 then none
  else if !allZero (sub l 9 7) || !allZero (sub l 24 8) then none
  else some { crew := beAt l 0 2, cause := beAt l 2 1, relay := beAt l 3 1 == 1, origin := beAt l 4 2, job := beAt l 6 2,
              gen := beAt l 8 1, abort := beAt l 16 8 }

/-- The crew is between RESTORE and the restore finish here (R459). -/
def Work.restoringCrew (w : Work) (crew : Nat) : Bool := w.flag MGR_STATUS 3 || (w.mcrew crew).restore.isSome

/-- The acting manager relays a beacon with its A, once per beat until A (R455). -/
def Work.relayBeacon (w : Work) (b : Beacon) : Work :=
  if !w.acting || b.relay || w.fault.beacons.any (fun x => x.crew == b.crew && x.relay && x.abort == b.abort) then w
  else
    let r := { b with relay := true }
    ({ w with fault := { w.fault with beacons := w.fault.beacons ++ [r] } }).sendBeacon r

/-- A repeat of an abort already taken (DEDUCED, log 35). -/
def Work.abortRepeat (w : Work) (b : Beacon) : Bool :=
  match Sp.find w.fault.abortDone b.crew with | some a => !beatBefore a b.abort | none => false

/-- A beacon reaches the device (R457, R459). -/
def Work.takeBeacon (w : Work) (b : Beacon) : Work :=
  let ok : Bool := match w.crew? b.crew with | some c => c.job == b.job && w.jobGen c.job == b.gen | none => false
  if !ok || w.restoringCrew b.crew then w.inc BEACON_DROP_CNT
  else if w.abortRepeat b then w
  else
    let w := w.noteAbort b.crew b.abort
    let w := { w with fault := { w.fault with causes := if (Sp.find w.fault.causes b.crew).isSome then w.fault.causes
                                                        else Sp.put w.fault.causes b.crew b.cause } }
    let w := w.relayBeacon b
    if beatBefore w.beatFull b.abort then w
    else ((w.setBit FAULT_STATUS 6).inc ABORT_LATE_CNT).abortCrew b.crew

/-! ### The commands -/

/-- ABORT (R457, R459). -/
def execAbort (port : Fin 40) (pkt : Packet) (s : State) : Ans :=
  s.run (fun _ w =>
    if !w.arrives port.val pkt 7 then w
    else match beaconOf pkt.payload with
    | some b => w.receive pkt (fun v => (v.takeBeacon b, 0))
    | none => w)

/-- CREW_ABORT: the crew's abort beat has come (R457). -/
def execCrewAbort (crew : Fin 1024) (s : State) : Ans :=
  s.run (fun _ w => match Sp.find w.fault.aborts crew.val with
    | some a => if !w.locked || !beatBefore w.beatFull a then w.abortCrew crew.val else w
    | none => w)

end Sys2Proof.Machine
end

