-- ==== Sys2Proof/Machine/Link.lean ====
section
/-! DEFINITION. Machine/Link.lean: ports: modes and training, partners, link retry, lane faults, frames received, pauses, ring
pairs and their bypass (R327 to R335, R339, R340, R357, R358 to R362). -/

namespace Sys2Proof.Machine

/-! ### Modes (Table 9-1) -/

/-- Speed in Gb/s, lanes and lane rate in Gb/s of a mode; zeros for a reserved one. -/
def modeRow (m : Nat) : Nat × Nat × Nat :=
  match m with
  | 0 => (800, 4, 200) | 1 => (400, 4, 100) | 2 => (200, 4, 50) | 3 => (100, 2, 50) | 4 => (100, 1, 100)
  | 5 => (400, 2, 200) | 6 => (200, 2, 100) | 7 => (200, 1, 200) | 8 => (50, 1, 50) | 9 => (25, 1, 25)
  | _ => (0, 0, 0)

/-- The mode is allowed on a port of a class: fabric blocks 0 to 35, host blocks 36 to 39; mode 8 on a fabric port only at
reduced width. -/
def modeAllowed (k m : Nat) (reduced : Bool) : Bool :=
  if k < 36 then m < 8 || (m == 8 && reduced) else 1 ≤ m && m ≤ 9

/-- Mode `a` goes before mode `b`: the faster, and of two as fast the one with the higher lane rate (R328). -/
def modeBefore (a b : Nat) : Bool :=
  let x := modeRow a
  let y := modeRow b
  decide (y.1 < x.1) || (x.1 == y.1 && decide (y.2.2 < x.2.2))

/-- The best of some modes. -/
def bestMode (ms : List Nat) : Option Nat :=
  ms.foldl (fun b m => match b with | none => some m | some x => if modeBefore m x then some m else b) none

/-- Lanes in a mask of four. -/
def lanesIn (mask : Nat) : Nat := ((List.range 4).filter (fun l => mask.testBit l)).length

/-- The lanes of a reduced mode: a pair without a faulty lane, lanes 0 and 1 first, else the lowest healthy lane (R334). -/
def reducedLanes (fault : Nat) : Option Nat :=
  if !fault.testBit 0 && !fault.testBit 1 then some 3
  else if !fault.testBit 2 && !fault.testBit 3 then some 12
  else ((List.range 4).find? (fun l => !fault.testBit l)).map (2 ^ ·)

/-- Modes permitted on a port; a port with none is disabled (R328). -/
def Work.modes (w : Work) (k : Nat) : Nat := w.fld (LINK_CFG k) 0 10

/-! ### Ring pairs (R358) -/

/-- The port belongs to a ring pair. -/
def ringPort (k : Nat) : Bool := 32 ≤ k && k < 36
/-- RING_EN of the port's pair. -/
def Work.ringEn (w : Work) (k : Nat) : Bool := ringPort k && w.flag (LINK_CFG (westOf k)) 14
/-- Bypass state of the port's pair (Table 9-9). -/
def Work.bypState (w : Work) (k : Nat) : Nat := w.fld (LINK_STATUS (westOf k)) 10 2
/-- The pair of a west port takes a bypass state. -/
def Work.setByp (w : Work) (west n : Nat) : Work := w.setFld (LINK_STATUS west) 10 2 n

/-! ### Training (R328, R334, R335) -/

/-- A port starts training; a disabled port, a bypassed one and one with no healthy lane do not. Its class holds until then (R330,
R334). -/
def Work.startTrain (w : Work) (k : Nat) (fast partner : Bool) : Work :=
  if w.modes k = 0 || (ringPort k && w.bypState k ≠ 3) || (reducedLanes (w.fld (LANE_STATUS k) 0 4)).isNone then w
  else
    let l := w.link k
    let w := w.when l.everUp (·.inc (RETRAIN_CNT k))
    let w := (((w.clrBit (LINK_STATUS k) 0).setBit (LINK_STATUS k) 9).bitTo (LINK_STATUS k) 6 partner).clrBit (LINK_STATUS k) 7
    (w.setFld (LANE_STATUS k) 4 4 0).setLink k { l with
      train := some (w.now, fast), everUp := true, classed := false, helloFrom := none, lost := none, partnerReduced := partner }

/-- A port goes down and sends nothing. -/
def Work.portDown (w : Work) (k : Nat) : Work :=
  ((w.clrBit (LINK_STATUS k) 0).clrBit (LINK_STATUS k) 9).setLink k { w.link k with train := none }

/-- A lane is declared faulty (R334). -/
def Work.laneFault (w : Work) (k lane : Nat) : Work :=
  let w := ((w.setBit (LANE_STATUS k) lane).setBit (LINK_ERR k) 0).replace 2 (1040 + k)
  match reducedLanes (w.fld (LANE_STATUS k) 0 4) with
  | some m => (w.setLink k { w.link k with lanes := m }).startTrain k true false
  | none => (w.portDown k).setBit (LINK_STATUS k) 8

/-- The modes a training may end in, against those the partner advertises: permitted and allowed ones, and for a reduced width those of
the same lane rate on the lanes left (R328, R334). -/
def Work.trainModes (w : Work) (k partner : Nat) : List Nat :=
  let l := w.link k
  let old := modeRow (w.fld (LINK_STATUS k) 1 4)
  (List.range 10).filter (fun m =>
    let r := modeRow m
    partner.testBit m && (w.modes k).testBit m &&
    (if l.lanes ≠ 15 then modeAllowed k m true && r.2.2 == old.2.2 && r.2.1 == lanesIn l.lanes
     else if l.partnerReduced then modeAllowed k m true && r.2.2 == old.2.2 && decide (r.2.1 < old.2.1)
     else modeAllowed k m false))

/-- The lanes are some that a mode may use (R327): all four, lanes 0–1 or 2–3, or a single one. -/
def lanesFit (m lanes : Nat) : Bool :=
  match (modeRow m).2.1 with
  | 4 => lanes == 15
  | 2 => lanes == 3 || lanes == 12
  | _ => [1, 2, 4, 8].contains lanes

/-- The physical lanes that a mode uses on a port: those left to a reduced one, else those that the exchange with the partner settled,
the lowest where it settled none that fit the mode (R327, R334). -/
def usedLanes (lanes m settled : Nat) : Nat :=
  if lanes ≠ 15 then lanes
  else if lanesFit m settled then settled
  else match (modeRow m).2.1 with | 4 => 15 | 2 => 3 | _ => 1

/-- A training ends (R328, R330, R334, R335): the port is up in the best common mode, or stays down. -/
def Work.linkUp (w : Work) (k partner settled : Nat) : Work :=
  let l := w.link k
  if l.train.isNone then w
  else match bestMode (w.trainModes k partner) with
  | none =>
    let w := w.portDown k
    if l.lanes ≠ 15 then w.setBit (LINK_STATUS k) 8 else w.setBit (LINK_STATUS k) 7
  | some m =>
    let w := (((w.clrBit (LINK_STATUS k) 9).clrBit (LINK_STATUS k) 8).setFld (LINK_STATUS k) 1 4 m).setBit (LINK_STATUS k) 0
    let w := w.setFld (LANE_STATUS k) 4 4 (usedLanes l.lanes m settled)
    let w := (w.setLink k { l with train := none, upAt := w.now, lastHello := w.now, lastTx := w.now, classed := 36 ≤ k }).progress (1040 + k)
    (w.sendKept k (if w.direct k then l.replay else [])).pump k

/-! ### Partners (R330) -/

/-- When the next HELLO is due: every 1 µs in the first 100 µs, every 1 ms after that. -/
def Work.helloAt (w : Work) (k : Nat) : Nat :=
  let l := w.link k
  l.lastHello + if l.lastHello < l.upAt + 100000 then 1000 else 1000000

/-- A HELLO leaves a fabric port. -/
def Work.sendHello (w : Work) (k : Nat) : Work :=
  if w.portUp k && k < 36 then
    let w := w.till (w.helloAt k)
    (w.setLink k { w.link k with lastHello := w.now }).sendLink k 1 (toBE 2 w.node ++ toBE 1 k)
  else w

/-- 100 µs after link-up the class is settled: DIRECT where a HELLO came, else SWITCHED, which keeps nothing for replay. -/
def Work.classify (w : Work) (k : Nat) : Work :=
  let l := w.link k
  if !w.portUp k || l.classed then w
  else
    let w := w.till (l.upAt + 100000)
    if l.helloFrom.isSome then w.setLink k { l with classed := true }
    else ((w.clrBit (LINK_STATUS k) 5).setFld (LINK_STATUS k) 16 16 0xFFFF).setLink k { l with classed := true, replay := [], lost := none }

/-- A HELLO of a Lakoide (R330): one that comes to a port outside its window of 100 µs without an earlier one is ignored. -/
def Work.hello (w : Work) (k node : Nat) : Work :=
  let l := w.link k
  if !w.hears k || 36 ≤ k || ((l.classed || l.upAt + 100000 < w.now) && !w.direct k) then w
  else ((w.setBit (LINK_STATUS k) 5).setFld (LINK_STATUS k) 16 16 node).setLink k { l with helloFrom := some node }

/-! ### Link retry (R331, R332) -/

/-- A link sequence is at or after another (modulo 2^16). -/
def seqFrom (a b : Nat) : Bool := decide ((a + 65536 - b % 65536) % 65536 < 32768)

/-- The partner's LACK frees the replay buffer up to it, and what waited for room goes. -/
def Work.linkAcked (w : Work) (k lack : Nat) : Work :=
  let l := w.link k
  (w.setLink k { l with replay := l.replay.filter (fun r => seqFrom r.1 lack) }).pump k

/-- The frames kept from a sequence on are sent again. -/
def Work.replayFrom (w : Work) (k lseq : Nat) : Work :=
  if !w.portUp k || !w.direct k then w
  else
    (w.sendKept k ((w.link k).replay.filter (fun r => seqFrom r.1 lseq))).progress (1040 + k)

/-- The lane that a failure is charged to: the one with the most symbol errors, the lower of two (R334). -/
def chargedLane (errs : List Nat) : Nat :=
  (List.range 4).foldl (fun b l => if errs.getD b 0 < errs.getD l 0 then l else b) 0

/-- A second failure: the lane charged with it is faulty (R332 to R334). -/
def Work.secondFail (w : Work) (k lane : Nat) : Work := ((w.inc (LRETRY_FAIL_CNT k)).setBit (LINK_ERR k) 1).laneFault k lane

/-- A bad frame (R332 to R334), with the symbol errors of its failed codewords by lane; on a DIRECT port those of both failures of a
frame count together. -/
def Work.badFrame (w : Work) (k lseq : Nat) (errs : List Nat) (words : Nat) : Work :=
  let w := (w.inc (FCS_ERR_CNT k)).incBy (FEC_UNCORR_CNT k) words
  let l := w.link k
  if w.direct k then
    match l.lost with
    | none => (w.setLink k { l with lost := some (lseq, errs) }).sendLink k 3 (toBE 2 lseq)
    | some (x, es) => if x = lseq then w.secondFail k (chargedLane ((List.range 4).map (fun i => es.getD i 0 + errs.getD i 0))) else w
  else
    let lane := chargedLane errs
    match Sp.find l.laneFail lane with
    | some t => if w.now ≤ t + 1000000 then w.secondFail k lane else w.setLink k { l with laneFail := Sp.put l.laneFail lane w.now }
    | none => w.setLink k { l with laneFail := Sp.put l.laneFail lane w.now }

/-- A Rosder packet passed on by a port is counted where its receiver drops it (R339, R341, R345, R350). -/
def Work.countDrop (w : Work) (p : Packet) : Work :=
  if !w.headerOk p then w.inc HDR_DROP_CNT
  else if w.stale p then w.inc STALE_DROP_CNT
  else if !w.jobOk p then w.inc LATE_DROP_CNT
  else if !w.queueOk p then w.inc WQ_DROP_CNT
  else w

/-- The largest frame that the device receives (R329). -/
def maxFrame : Nat := 9216

/-- An intact frame with a Rosder packet: on a DIRECT port its LACK and link sequence are taken, and while a discarded frame is
awaited every other one is discarded (R331, R332). -/
def Work.goodFrame (w : Work) (k : Nat) (p : Packet) : Work :=
  let w := w.inc (RX_FRAME_CNT k)
  if 36 ≤ k then w
  else if !w.direct k then w.countDrop p
  else
    let l := w.link k
    match l.lost with
    | some (x, _) =>
      if p.lseq = x then
        ((w.setLink k { l with lost := none, rxSeq := (x + 1) % 65536 }).transient (LRETRY_CNT k)).linkAcked k p.lack |>.countDrop p
      else w
    | none =>
      if seqFrom p.lseq l.rxSeq then
        ((w.setLink k { l with rxSeq := (p.lseq + 1) % 65536 }).linkAcked k p.lack).countDrop p
      else w.linkAcked k p.lack

/-- A frame arrives (R332, R333, R339, R357). -/
def Work.frame (w : Work) (k : Nat) (f : Frame) : Work :=
  if !w.portUp k then w
  else match f with
    | .good p => if w.frameBytes k p ≤ maxFrame then w.goodFrame k p else w
    | .other => w.inc (RX_FRAME_CNT k)
    | .bad lseq errs words => w.badFrame k lseq errs words
    | .icv => (w.inc (ICV_FAIL_CNT k)).setBit (LINK_ERR k) 2

/-! ### Bypass (Table 9-9) -/

/-- The switches of a pair open, and both ring ports fast-retrain. -/
def Work.openPair (w : Work) (west : Nat) : Work :=
  let w := (w.setByp west 3).setLink west { w.link west with openAt := none, listenLocked := false }
  (w.startTrain west true false).startTrain (west + 1) true false

/-- Both ring ports stop and the switches of a pair close. -/
def Work.closePair (w : Work) (west : Nat) : Work :=
  let w := ((w.portDown west).portDown (west + 1)).setByp west 0
  w.setLink west { w.link west with openAt := none, listenLocked := false }

/-- A write of LINK_CTL (Table 9-14): every bit acts and reads 0; the bypass bits have effect in blocks 32 and 34. -/
def Work.writeLinkCtl (w : Work) (k v : Nat) : Work :=
  let w := w.when (v.testBit 0) (·.startTrain k false false)
  let w := w.when (v.testBit 1 && (k = 32 || k = 34) && w.bypState k = 1) (·.openPair k)
  w.when (v.testBit 2 && (k = 32 || k = 34) && w.bypState k = 3) (·.closePair k)

/-- The west port of a pair. -/
def westPort (pairB : Bool) : Nat := if pairB then 34 else 32

/-- The pins BYP_STAT_A and BYP_STAT_B: high while the switches of the pair are open, low otherwise and on a device without power
(R361). -/
def Board.bypStat (b : Board) (w : Work) (pairB : Bool) : Bool := b.powered && w.bypState (westPort pairB) == 3

/-- A write of LINK_CFG, which only test mode leaves unlocked: a port left with no permitted mode is disabled (R328). -/
def Work.writeLinkCfg (w : Work) (p : Path) (k v : Nat) : Work :=
  (w.wrPlain p (LINK_CFG k) v).when (!w.rwlLocked (w.busPath p)) (fun u => u.when (u.modes k = 0) (·.portDown k))

/-! ### The commands -/

/-- LINK_UP (R327, R328, R330, R334, R335): one mask holds the modes that the partner advertises, the other the lanes that the
exchange settled. -/
def execLinkUp (port : Fin 40) (terms : LinkTerms) (s : State) : Ans :=
  s.run (fun _ w => w.linkUp port.val terms.modes terms.lanes.val)

/-- HELLO_TIMER (R330). -/
def execHelloTimer (port : Fin 40) (s : State) : Ans := s.run (fun _ w => w.sendHello port.val)

/-- LINK_CLASSIFY (R330). -/
def execLinkClassify (port : Fin 40) (s : State) : Ans := s.run (fun _ w => w.classify port.val)

/-- HELLO (R330). Its frame is counted by FRAME_RECEIVE. -/
def execHello (port : Fin 40) (node block : Nat) (s : State) : Ans :=
  s.run (fun _ w => if block < 40 then w.hello port.val node else w)

/-- FRAME_RECEIVE (R332, R333, R339, R341, R345, R350, R357). -/
def execFrameReceive (port : Fin 40) (frame : Frame) (s : State) : Ans := s.run (fun _ w => w.frame port.val frame)

/-- REPLAY (R332). -/
def execReplay (port : Fin 40) (lseq : Nat) (s : State) : Ans :=
  s.run (fun _ w => if w.hears port.val then w.replayFrom port.val lseq else w)

/-- LINK_ACK (R331): the LACK of the frame. -/
def execLinkAck (port : Fin 40) (lseq : Nat) (s : State) : Ans :=
  s.run (fun _ w => if w.direct port.val && w.hears port.val then w.linkAcked port.val lseq else w)

/-- LINK_ACK_TIMER (R331). -/
def execLinkAckTimer (port : Fin 40) (s : State) : Ans :=
  s.run (fun _ w =>
    if w.portUp port.val && w.direct port.val then (w.till ((w.link port.val).lastTx + 1000)).sendLink port.val 2 [] else w)

/-- PAUSE_FRAME (R340): a priority stops for a time; a time of 0 lets it go on. -/
def execPauseFrame (port : Fin 40) (prio : Fin 8) (ns : Nat) (s : State) : Ans :=
  s.run (fun _ w =>
    if !w.portUp port.val then w
    else
      let l := w.link port.val
      let w := w.inc (PAUSE_RX_CNT port.val)
      (w.setLink port.val { l with paused := Sp.put l.paused prio.val (w.now + ns) }).pump port.val)

/-- RETRAIN: a write of 1 to LINK_CTL.RETRAIN (R335). -/
def execRetrain (path : Path) (port : Fin 40) (s : State) : Ans :=
  s.run (fun _ w => w.onBus path (LINK_CTL port.val) 1 (fun v => v.writeLinkCtl port.val 1))

/-- BYP_OPEN_NOW: a write of 1 to LINK_CTL.BYP_OPEN_NOW (R358). -/
def execBypOpenNow (path : Path) (port : Fin 40) (s : State) : Ans :=
  s.run (fun _ w => w.onBus path (LINK_CTL port.val) 2 (fun v => v.writeLinkCtl port.val 2))

/-- BYP_CLOSE: a write of 1 to LINK_CTL.BYP_CLOSE (R358). -/
def execBypClose (path : Path) (port : Fin 40) (s : State) : Ans :=
  s.run (fun _ w => w.onBus path (LINK_CTL port.val) 4 (fun v => v.writeLinkCtl port.val 4))

/-- BYP_LISTEN_LOCK (R358): the report has no packet form in the spec (notes/assumptions/12.md). -/
def execBypListenLock (pairB : Bool) (s : State) : Ans :=
  s.run (fun _ w =>
    let k := westPort pairB
    if w.bypState k = 1 && !(w.link k).listenLocked then
      (w.setLink k { w.link k with listenLocked := true }).emit (.ringReady pairB)
    else w)

/-- BYP_OPEN (R358): the named beat is recorded and a pair that listens is armed. -/
def execBypOpen (port : Fin 40) (pkt : Packet) (s : State) : Ans :=
  s.run (fun _ w => if !w.hears port.val then w else w.onCtrl pkt 19 (fun v c =>
    let k := beAt c.body 0 1
    if c.body.length ≠ 12 || !v.fromManager pkt || !ringPort k || v.bypState k ≠ 1 then v
    else
      let west := westOf k
      let b := beAt c.body 4 8
      ((v.wr (BYP_OPEN_BEAT west) (b % 2 ^ 32)).setLink west { v.link west with openAt := some b }).setByp west 2))

/-- BYP_OPEN_BEAT (R358): the edge of the named beat has come. -/
def execBypOpenBeat (pairB : Bool) (s : State) : Ans :=
  s.run (fun _ w =>
    let k := westPort pairB
    match (w.link k).openAt with
    | some b => if w.bypState k = 2 && !beatBefore w.beatFull b then w.openPair k else w
    | none => w)

/-- PARTNER_RETRAIN (R334): the port trains again with its partner, and is REDUCED where the partner reduced. -/
def execPartnerRetrain (port : Fin 40) (reduced : Bool) (s : State) : Ans :=
  s.run (fun _ w => if w.flag (LINK_STATUS port.val) 0 then w.startTrain port.val true reduced else w)

end Sys2Proof.Machine
end

