-- ==== Sys2Proof/Machine/Power.lean ====
section
/-! DEFINITION. Machine/Power.lean: the housekeeping converter (R174 to R179), power domains, admission, phase loss, caps,
thermal limits and the thermal trip (R464 to R487). -/

namespace Sys2Proof.Machine

/-! ### Housekeeping converter -/

/-- Its state (Table 4-10): 0 SELFCAL, 1 IDLE, 2 CONVERT, 3 URGENT. -/
def Work.hkState (w : Work) : Nat := w.fld HK_STATUS 0 2

/-- HS_SEL, 20 to 31 taken as 0 (Table 4-13). -/
def Work.hsSel (w : Work) : Nat := if w.fld HK_CTL 8 5 < 20 then w.fld HK_CTL 8 5 else 0

/-- The corrected code of a raw conversion (R175). -/
def Work.hkCorrect (w : Work) (raw : Nat) : Nat :=
  (clampInt (roundHalfEven (((raw : Int) - sext 12 (w.fld HK_CAL 0 12)) * (w.fld HK_CAL 16 16 : Nat)) (2 ^ 15)) 0 4095).toNat

/-- A conversion of a channel starts (R176). -/
def Work.hkConvert (w : Work) (chan die : Nat) : Work :=
  ({ w with hk := { w.hk with chan := chan, die := die, start := w.now } }).setFld HK_STATUS 0 2 2

/-- A self-calibration starts (R178). -/
def Work.hkSelfcalGo (w : Work) : Work :=
  ({ w with hk := { w.hk with start := w.now, retried := false } }).setFld HK_STATUS 0 2 0

/-- A self-calibration is asked for (R178): it runs once the converter is idle; one that runs already serves (DEDUCED, log 124). -/
def Work.hkSelfcalAsk (w : Work) : Work :=
  match w.hkState with
  | 1 => w.hkSelfcalGo
  | 2 | 3 => if w.hk.aborted = some 0 then w else { w with hk := { w.hk with selfcal := true } }
  | _ => w

/-- The converter is idle: a self-calibration that waits starts (R178). -/
def Work.hkIdle (w : Work) : Work :=
  if w.hkState = 1 && w.hk.selfcal then { w with hk := { w.hk with selfcal := false } }.hkSelfcalGo else w

/-- A write of HK_CTL (Table 4-13): START and SELFCAL act and read 0; START is ignored while the converter is busy. -/
def Work.hkCtl (w : Work) (p : Path) (v : Nat) : Work :=
  let w := w.wrPlain p HK_CTL v
  let w := if v.testBit 6 then w.hkSelfcalAsk else w
  if v.testBit 4 then
    if w.hkState = 1 then w.hkConvert (w.fld HK_CTL 0 4) w.hsSel
    else w.setBit HK_STATUS 5
  else w

/-- The next channel of a scan, in ascending order, repeating (R176); a scan that is set anew goes on after the last channel scanned
(DESIGN CHOICE, log 117). -/
def Work.scanNext (w : Work) : Option Nat :=
  let m := w.fld HK_SCAN 0 16
  ((List.range 32).map (fun i => w.hk.next + i)).findSome? (fun c => if m.testBit (c % 16) then some (c % 16) else none)

/-- A scan conversion starts: SCAN set, the converter idle, the pace elapsed. -/
def Work.scanGo (w : Work) : Work :=
  if w.hkState = 1 && w.flag HK_CTL 5 then
    match w.scanNext with
    | some c => let w := w.till w.hk.paceFrom
                ({ w with hk := { w.hk with next := (c + 1) % 16 } }).hkConvert c w.hsSel
    | none => w
  else w

/-- The place of a pending urgent request: channel 13, 14, then 9 (R179). -/
def urgentRank (c : Nat) : Nat := if c = 13 then 0 else if c = 14 then 1 else 2

/-- The urgent request served next. -/
def nextUrgent (l : List (Nat × Nat)) : Option (Nat × Nat) :=
  match l.find? (fun u => u.1 == 13) with
  | some u => some u
  | none => match l.find? (fun u => u.1 == 14) with
    | some u => some u
    | none => l.head?

/-- An urgent request (R179): it aborts ordinary work, and waits behind another urgent conversion. Whole steps of 1,000 ns of an aborted
self-calibration stand (log 124). -/
def Work.urgent (w : Work) (chan die : Nat) : Work :=
  match w.hk.cur with
  | some _ => { w with hk := { w.hk with urgent := w.hk.urgent ++ [(chan, die)] } }
  | none =>
    let st := w.hkState
    let hk := { w.hk with
      cur := some (chan, die)
      aborted := if st = 1 then none else some st
      steps := if st = 0 then (w.now - w.hk.start) / 1000 * 1000 else 0
      start := w.now }
    let w := { w with hk := hk }
    (w.when (st ≠ 1) (·.inc HK_ABORT_CNT)).setFld HK_STATUS 0 2 3

/-! ### Domains, caps and phases -/

/-- Rated current of a domain in 0.1 A (Table 13-1). -/
def rated (p : Nat) : Nat :=
  if p < 64 then (match p % 4 with | 0 => 250 | 1 => 1000 | 2 => 250 | _ => 375) else if p % 2 = 0 then 500 else 250

/-- CAP_PHASE with k phases lost (R474). -/
def capPhase (p k : Nat) : Nat := min 8 (8 * ((phasesN p + 2 - k) * 100) / rated p)

/-- CAP_PKG applies to a domain (R465). -/
def pkgCapped (p : Nat) : Bool := p < 64 && (p % 4 == 0 || p % 4 == 1)

/-- CAP_THERM applies to a domain (R485). -/
def thermCapped (p : Nat) : Bool := 64 ≤ p || p % 4 != 2

/-- A domain may be switched during operation (R477). -/
def switchable (p : Nat) : Bool := p < 64 && p % 4 != 2

/-- The effective cap of a domain (R475). -/
def Work.recap (w : Work) (p : Nat) : Work :=
  let c := if w.pdState p = 3 then min (w.fld (PD_STATUS p) 12 4) (min (w.fld (PD_STATUS p) 16 4) (w.fld (PD_STATUS p) 20 4)) else 0
  w.setFld (PD_STATUS p) 8 4 c

/-- A domain takes a state (Table 13-4), and its cap with it. -/
def Work.pdGo (w : Work) (p st : Nat) : Work := (w.setFld (PD_STATUS p) 0 3 st).recap p

/-- CAP_PKG of the package and of the domains it applies to (R465). -/
def Work.setCapPkg (w : Work) (c : Nat) : Work :=
  (List.range 64).foldl (fun (v : Work) p => if pkgCapped p then (v.setFld (PD_STATUS p) 20 4 c).recap p else v)
    (w.setFld PKG_STATUS 0 4 c)

/-- Domains of a die, 0 to 15 array dies and 16 to 19 port dies (R12). -/
def dieDomains (die : Nat) : List Nat := if die < 16 then [4 * die, 4 * die + 1, 4 * die + 2, 4 * die + 3] else [64 + 2 * (die - 16), 65 + 2 * (die - 16)]

/-- The die of a domain. -/
def domainDie (p : Nat) : Nat := if p < 64 then p / 4 else 16 + (p - 64) / 2

/-- CAP_THERM of a die's domains (R485). -/
def Work.setCapTherm (w : Work) (die c : Nat) : Work :=
  (dieDomains die).foldl (fun (v : Work) p => if thermCapped p then (v.setFld (PD_STATUS p) 16 4 c).recap p else v) w

/-- The stroke crews with work on a die; a port die's is that of the whole device (R476). -/
def Work.dieCrews (w : Work) (die : Nat) : List Nat :=
  if die < 16 then ((List.range 64).filterMap (fun i => w.coreCrew (64 * die + i))).dedup else w.runningCrews

/-- A domain goes dark (R476). -/
def Work.goDark (w : Work) (p : Nat) : Work :=
  if w.pdState p = 6 then w
  else
    let w := (w.setBit (PD_ERR p) 1).pdGo p 6
    let w := (w.clrBit (PD_STATUS p) 3).clrBit (PD_STATUS p) 4
    let crews := w.dieCrews (domainDie p)
    let w := crews.foldl (fun (v : Work) n => v.decideAbort n 9) w
    let w := w.logRec { cls := 9, unit := if p < 64 then 1024 + p / 4 else 1220, code := p, detail := w.rd REPL_STATUS,
                        flags := if crews.isEmpty || !w.locked then 0 else 2, crew := crews.headD 0 }
    { w with mgr := { w.mgr with lastingPending := true, diagnosable := true } }

/-- A phase is lost (R473, R474): switched out until power is removed; three lost phases make the domain dark. -/
def Work.losePhase (w : Work) (p n : Nat) : Work :=
  if phasesN p + 2 ≤ n || w.flag (PD_PHASE p) n || w.pdState p = 6 then w
  else
    let w := (((w.setBit (PD_PHASE p) n).setBit (PD_ERR p) 0).inc PHASE_FAIL_CNT).setFld (PD_STATUS p) 24 4 (w.fld (PD_STATUS p) 24 4 - 1)
    let k := phasesN p + 2 - w.fld (PD_STATUS p) 24 4
    let w := w.replace 3 (if p < 64 then 1024 + p / 4 else 1220)
    if 3 ≤ k then w.goDark p else (w.setFld (PD_STATUS p) 12 4 (capPhase p k)).recap p

/-! ### Switching (R477 to R484) -/

/-- The neighbours of a compute domain: the other three of its die (R482). -/
def neighbours (p : Nat) : List Nat := (dieDomains (domainDie p)).filter (· != p)

/-- ADMIT_PCT, 75 outside 10 to 100 (Table 13-9). -/
def Work.admitPct (w : Work) (p : Nat) : Nat :=
  let a := w.fld (PD_CFG p) 8 7
  if 10 ≤ a ∧ a ≤ 100 then a else 75

/-- Every neighbour's last 1 µs average, in 0.01 A in the order of `neighbours`, is within its threshold (R482). -/
def Work.gateOpen (w : Work) (p : Nat) (avgs : List Nat) : Bool :=
  ((neighbours p).zip avgs).all (fun q => q.2 * 10 ≤ w.admitPct q.1 * rated q.1)

/-- A ramp starts (R483). -/
def Work.rampGo (w : Work) (p : Nat) : Work :=
  ((w.setDomain p { w.domain p with since := w.now }).inc (RAMP_CNT p)).pdGo p 2

/-- Entry to the admission gate: it evaluates at once, on what the last window showed; at a beat edge it also opens in a recovery
window of the lowest-numbered core of the domain's die (R482). -/
def Work.admitRamp (w : Work) (p : Nat) (edge : Bool) : Work :=
  if w.gateOpen p (w.domain p).win || (edge && w.inRecovery (64 * domainDie p)) then w.rampGo p
  else ((w.setDomain p { w.domain p with waitBeats := 0, waitFrom := w.now }).inc (ADMIT_CNT p)).pdGo p 1

/-- The gate opens for a request that waited (R482). -/
def Work.gateOpens (w : Work) (p : Nat) : Work :=
  (w.incBy (ADMIT_US p) (ceilDiv (w.now - (w.domain p).waitFrom) 1000)).rampGo p

/-- A request that waits at the gate finds it open at a beat edge of such a recovery window (R482). -/
def Work.gateEdge (w : Work) (p : Nat) : Work :=
  if w.pdState p = 1 && w.inRecovery (64 * domainDie p) then w.gateOpens p else w

/-- An on request, of a slot at a beat edge or of a register write (Table 13-4). -/
def Work.requestOn (w : Work) (p : Nat) (edge : Bool) : Work :=
  match w.pdState p with
  | 0 => (w.setDomain p { w.domain p with fromOff := true }).admitRamp p edge
  | 2 => w.clrBit (PD_STATUS p) 4
  | 4 | 5 => if w.flag (PD_STATUS p) 3 then w else (w.setBit (PD_STATUS p) 3).inc (PEND_CNT p)
  | _ => w

/-- Slots that wait for a domain complete as it reaches ON or OFF (R477). -/
def Work.pdSlots (w : Work) (p : Nat) : Work :=
  let ss := (w.domain p).slots
  ss.foldl (fun (v : Work) q => v.completeSlot q.1 q.2) (w.setDomain p { w.domain p with slots := [] })

/-- An off request (Table 13-4). -/
def Work.requestOff (w : Work) (p : Nat) : Work :=
  match w.pdState p with
  | 1 => (w.pdGo p 0).pdSlots p
  | 2 => w.setBit (PD_STATUS p) 4
  | 3 => (w.setDomain p { w.domain p with since := w.now, drainBeats := 0 }).pdGo p 4
  | 4 | 5 => w.clrBit (PD_STATUS p) 3
  | _ => w

/-- A register write of PD_CTL.CMD: a domain that is not switched refuses (R477). -/
def Work.pdCommand (w : Work) (p cmd : Nat) : Work :=
  if cmd ≠ 1 ∧ cmd ≠ 2 then w
  else if !switchable p then w.setBit (PD_ERR p) 3
  else if cmd = 1 then w.requestOn p false else w.requestOff p

/-- The launch of a power-domain change slot (action 6): a program fault where its descriptor or domain fails; complete at
once where the request is already met (R477). -/
def Work.pdSlot (w : Work) (c s : Nat) (sl : Slot) : Work :=
  let p := sl.units
  match w.descriptor c sl.desc 8 1 with
  | some d =>
    let op := leAt d 0 1
    if (op ≠ 1 ∧ op ≠ 2) || !allZero (sub d 1 7) || 72 ≤ p || !switchable p || w.pdState p = 6 then w.programFault c 0 s
    else if (op = 1 ∧ w.pdState p = 3) ∨ (op = 2 ∧ w.pdState p = 0) then w.completeSlot c s
    else
      let w := w.setDomain p { w.domain p with slots := (w.domain p).slots ++ [(c, s)] }
      if op = 1 then w.requestOn p true else w.requestOff p
  | none => w.programFault c 0 s

/-- Every unit of a domain is idle in DRAIN: no slot claim, product, unit or instruction (R480). -/
def Work.domainIdle (w : Work) (p : Nat) : Bool :=
  let d := domainDie p
  (List.range 64).all (fun i =>
    let c := 64 * d + i
    if p % 4 = 1 then (w.dig c).jobs.isEmpty && (List.range 17).all (fun x => (w.ctx c x).slot.isNone && (w.ctx c x).session.isNone)
    else w.claims c == 0 && (List.range 16).all (fun t => (w.tile c t).flight.isEmpty && (w.tile c t).unit.isNone))

/-- A tiles or analogue periphery domain that came from OFF makes every calibration of its die due (R484): columns, and drift
of every deck that R161 lets fall due. While every cox is IDLE the tiles run it at once. -/
def Work.dieCalDue (w : Work) (d : Nat) : Work :=
  let idle := w.allIdle
  (List.range 1024).foldl (fun (v : Work) i =>
    let c := 64 * d + i / 16
    let t := i % 16
    let decks := (List.range 8).foldl (fun m p => if v.fld (DECK_STATE c t) (2 * p) 2 = 0 then m + 2 ^ p else m) 0
    let v := (v.setBit (CAL_DUE c t) 0).setFld (CAL_DUE c t) 8 8 (v.fld (CAL_DUE c t) 8 8 ||| decks)
    v.when idle (fun u => u.setTile c t { u.tile c t with outCal := true })) w

/-- A domain reaches ON (R479, R484). -/
def Work.pdOn (w : Work) (p : Nat) : Work :=
  let cal := (w.domain p).fromOff && p < 64 && (p % 4 == 0 || p % 4 == 3)
  let w := (w.setDomain p { w.domain p with fromOff := false }).pdGo p 3
  (w.when cal (fun v => v.dieCalDue (p / 4))).pdSlots p

/-! ### Thermal limits (R485 to R487) -/

/-- THROTTLE_C, 100 outside 80 to 100. -/
def Work.throttleC (w : Work) : Nat := let t := w.fld THERM_CFG 0 8; if 80 ≤ t ∧ t ≤ 100 then t else 100

/-- The bit of THERM_STATUS for a die. -/
def Work.thermBit (w : Work) (die c : Nat) : Work := w.bitTo THERM_STATUS die (c < 8)

/-- The transmitters of every port turn off. -/
def Work.txOff (w : Work) : Work := (List.range 40).foldl (fun (v : Work) k => (v.clrBit (LINK_STATUS k) 0).clrBit (LINK_STATUS k) 9) w

/-- A thermal trip (R487): THERMTRIP_L low, every regulator and transmitter off, the bypass closed; nothing of the device's
state survives but the cells. -/
def thermalTrip (b : Board) (w : Work) : Board × Work :=
  ({ b with thermtrip := true }, { cells := w.cells, now := w.now, free := w.free, out := w.out })

/-! ### The commands -/

/-- HK_START: a write of HK_CTL with START set (R176). -/
def execHkStart (path : Path) (value : Word) (s : State) : Ans :=
  s.run (fun _ w => w.onBus path HK_CTL value.toNat (fun v => if value.toNat.testBit 4 then v.hkCtl path value.toNat else v))

/-- HK_SCAN: a write of HK_CTL with SCAN set; an idle converter starts its scan (R176). -/
def execHkScan (path : Path) (value : Word) (s : State) : Ans :=
  s.run (fun _ w => w.onBus path HK_CTL value.toNat
    (fun v => if value.toNat.testBit 5 then (v.hkCtl path value.toNat).scanGo else v))

/-- HK_SCAN_PACE: the pace has elapsed; the next scan channel is sampled (R176). -/
def execHkScanPace (s : State) : Ans := s.run (fun _ w => w.scanGo)

/-- HK_SELFCAL: a write of HK_CTL with SELFCAL set (R178). -/
def execHkSelfcal (path : Path) (value : Word) (s : State) : Ans :=
  s.run (fun _ w => w.onBus path HK_CTL value.toNat (fun v => if value.toNat.testBit 6 then v.hkCtl path value.toNat else v))

/-- Factors of a self-calibration are plausible (R178). -/
def hkPlausible (off : Int) (gain : Nat) : Bool := off.natAbs ≤ 32 && 31457 ≤ gain && gain ≤ 34078

/-- HK_SELFCAL_DONE: plausible factors are stored; an implausible run is made once more, then the factory factors stay
(R178). -/
def execHkSelfcalDone (off : Int) (gain : Nat) (s : State) : Ans :=
  s.run (fun _ w =>
    if w.hkState ≠ 0 then w
    else
      let w := w.till (w.hk.start + 1800000)
      if hkPlausible off gain then
        let w := w.when w.hk.retried (·.inc TRANSIENT_CNT)
        (w.wr HK_CAL (toTwos 12 off + 2 ^ 16 * gain)).setFld HK_STATUS 0 4 5
      else if !w.hk.retried then { w with hk := { w.hk with retried := true, start := w.now } }
      else
        (w.wr HK_CAL (Config.hkFactory.toNat &&& 0xFFFF0FFF)).setFld HK_STATUS 0 4 13)

/-- HK_CONVERSION_DONE: the corrected result goes to HK_DATA; an unread one is replaced and counted (R175, R177). -/
def execHkConversionDone (raw : Nat) (s : State) : Ans :=
  s.run (fun _ w =>
    if w.hkState ≠ 2 then w
    else
      let w := w.till (w.hk.start + 1000)
      let lost := w.flag HK_DATA 16
      let w := w.when lost (fun v => (v.setBit HK_STATUS 4).inc HK_OVR_CNT)
      let w := w.wr HK_DATA (w.hkCorrect raw + 2 ^ 12 * w.hk.chan + 2 ^ 16 + if lost then 2 ^ 17 else 0)
      let w := { w with hk := { w.hk with paceFrom := w.now + 1000 * w.fld HK_CTL 16 8 } }
      ((w.inc HK_CONV_CNT).setFld HK_STATUS 0 2 1).hkIdle)

/-- HK_URGENT_REQUEST (R179): channel 13 with its die, 14, or 9. -/
def execHkUrgentRequest (chan : HkUrgent) (die : Fin 20) (s : State) : Ans :=
  s.run (fun _ w => match chan with
    | .hotSpot => w.urgent 13 die.val
    | .lid => w.urgent 14 0
    | .vcore => w.urgent 9 0)

/-- The converter takes up its next work after an urgent conversion (Table 4-10). -/
def Work.urgentNext (w : Work) : Work :=
  match nextUrgent w.hk.urgent with
  | some u => { w with hk := { w.hk with cur := some u, urgent := w.hk.urgent.erase u, start := w.now } }
  | none =>
    let st := w.hk.aborted.getD 1
    (({ w with hk := { w.hk with cur := none, aborted := none, steps := 0, start := w.now - w.hk.steps } }).setFld HK_STATUS 0 2 st).hkIdle

/-- HK_URGENT_DONE: the result is latched in HK_URGENT and delivered; a reading of 115 °C or more of a hot spot confirms a
trip, a lower one counts as unconfirmed (R179, R486, R487). -/
def execHkUrgentDone (raw : Nat) (s : State) : Ans :=
  s.runAll (fun b w => match w.hk.cur with
    | none => (b, w)
    | some (chan, die) =>
      let w := w.till (w.hk.start + 1000)
      let c := w.hkCorrect raw
      let w := (w.wr HK_URGENT (c + 2 ^ 12 * chan + 2 ^ 16 * die)).inc HK_CONV_CNT
      if chan = 13 ∧ 2864 ≤ c then thermalTrip b w
      else
        let w := w.when (chan = 13) (fun v => (v.inc TRIP_UNCONF_CNT).setBit THERM_STATUS 20)
        (b, w.urgentNext))

/-- HK_DATA_READ: the held result is returned and VALID clears (R177). -/
def execHkDataRead (path : Path) (s : State) : Ans :=
  s.access (fun _ w => w.readOut path HK_DATA (fun v => (v.rd HK_DATA, v.clrBit HK_DATA 16)))

/-- PKG_CURRENT_SAMPLE: the 1 µs estimate of the VCORE current lowers or raises CAP_PKG (R465). -/
def execPkgCurrentSample (deciAmps : Nat) (s : State) : Ans :=
  s.run (fun _ w =>
    let p := w.power
    let cap := w.fld PKG_STATUS 0 4
    let hot := if 14000 < deciAmps then p.overUs + 1 else 0
    let cool := if deciAmps < 13000 then p.underUs + 1 else 0
    let lower : Bool := 4 < cap && match p.lowered with
      | none => 17600 < deciAmps || 800 ≤ hot
      | some n => 14000 < deciAmps && 9 ≤ n
    let rise := 100 ≤ cool && cap < 8
    let low := match p.lowered with
      | none => if 17600 < deciAmps || 800 ≤ hot then some 0 else none
      | some n => if 14000 < deciAmps then some (if 9 ≤ n then 0 else n + 1) else none
    let w := { w with power := { p with overUs := hot, lowered := low, underUs := if 100 ≤ cool then 0 else cool } }
    if lower then (w.setCapPkg (cap - 1)).when (cap = 8) (fun v => (v.inc PKG_LIMIT_CNT).urgent 9 0)
    else if rise then w.setCapPkg (cap + 1) else w)

/-- PD_REPORT_TICK: averages, peaks and lowest voltages of the last 1 ms (R472). -/
def execPdReportTick (iavg ipeak vmin : List Nat) (pkgAvg pkgPeak : Nat) (s : State) : Ans :=
  s.run (fun _ w =>
    let w := (List.range 72).foldl (fun (v : Work) p =>
      (v.wr (PD_IAVG p) (iavg.getD p 0 % 65536 + 65536 * (ipeak.getD p 0 % 65536))).wr (PD_VMIN p) (vmin.getD p 0 % 1024)) w
    w.wr PKG_IAVG (pkgAvg % 65536 + 65536 * (pkgPeak % 65536)))

/-- PHASE_FAULT (R473 to R476). -/
def execPhaseFault (p : Fin 72) (phase : Fin 10) (s : State) : Ans := s.run (fun _ w => w.losePhase p.val phase.val)

/-- SENSOR_EXCLUDE: at most 4 sensors of a domain are excluded (R469). -/
def execSensorExclude (p : Fin 72) (sensor : Fin 12) (s : State) : Ans :=
  s.run (fun _ w =>
    let n := ((List.range 12).filter (fun i => w.flag (PD_SENSOR_EXCL p.val) i)).length
    if 4 ≤ n || w.flag (PD_SENSOR_EXCL p.val) sensor.val then w
    else (w.setBit (PD_SENSOR_EXCL p.val) sensor.val).setBit (PD_ERR p.val) 4)

/-- RAIL_DROOP: the Spurt discharges (R470). -/
def execRailDroop (p : Fin 72) (s : State) : Ans := s.run (fun _ w => w.inc (SPURT_CNT p.val))

/-- RAIL_UNDERVOLT: the domain's clock runs at half rate (R471). -/
def execRailUndervolt (p : Fin 72) (s : State) : Ans :=
  s.run (fun _ w => (w.setDomain p.val { w.domain p.val with halfRate := true }).inc (DROOP_CNT p.val))

/-- DROOP_RECOVERY: the clock returns to full rate (R471). -/
def execDroopRecovery (p : Fin 72) (s : State) : Ans :=
  s.run (fun _ w => w.setDomain p.val { w.domain p.val with halfRate := false })

/-- PD_CMD_ON: a write of 1 to PD_CTL.CMD (R477, R479, R481, R482). -/
def execPdCmdOn (path : Path) (p : Fin 72) (s : State) : Ans :=
  s.run (fun _ w => w.onBus path (PD_CTL p.val) 1 (fun v => v.pdCommand p.val 1))

/-- PD_CMD_OFF: a write of 2 to PD_CTL.CMD (R477, R479). -/
def execPdCmdOff (path : Path) (p : Fin 72) (s : State) : Ans :=
  s.run (fun _ w => w.onBus path (PD_CTL p.val) 2 (fun v => v.pdCommand p.val 2))

/-- ADMIT_GATE_EVAL: a 1 µs window ends with the neighbours' averages in 0.01 A; a waiting ramp starts when every one is
within its threshold (R482). -/
def execAdmitGateEval (p : Fin 72) (avgs : List Nat) (s : State) : Ans :=
  s.run (fun _ w =>
    let w := w.setDomain p.val { w.domain p.val with win := avgs }
    if w.pdState p.val = 1 && w.gateOpen p.val avgs then w.gateOpens p.val else w)

/-- ADMIT_TIMEOUT: the 64th beat edge after the request, with the die's lowest core IDLE (R482). -/
def execAdmitTimeout (p : Fin 72) (s : State) : Ans :=
  s.run (fun _ w =>
    if w.pdState p.val = 1 && w.coxState (64 * domainDie p.val) = 0 && 64 ≤ (w.domain p.val).waitBeats then w.gateOpens p.val else w)

/-- DRAIN_COMPLETE: every unit of a draining domain is idle (R480). -/
def execDrainComplete (p : Fin 72) (s : State) : Ans :=
  s.run (fun _ w =>
    if w.pdState p.val = 4 && w.domainIdle p.val then (w.setDomain p.val { w.domain p.val with since := w.now }).pdGo p.val 5 else w)

/-- DRAIN_TIMEOUT: the shut-down is abandoned after DRAIN_LIMIT beats (Table 13-4). -/
def execDrainTimeout (p : Fin 72) (s : State) : Ans :=
  s.run (fun _ w =>
    if w.pdState p.val = 4 && orDefault (w.fld PWR_CFG 0 8) 1 ≤ (w.domain p.val).drainBeats then
      (((w.clrBit (PD_STATUS p.val) 3).setBit (PD_ERR p.val) 2).pdGo p.val 3).pdSlots p.val
    else w)

/-- DISCHARGE_DONE: the domain is OFF, or takes up its pending on request (R481). -/
def execDischargeDone (p : Fin 72) (s : State) : Ans :=
  s.run (fun _ w =>
    if w.pdState p.val ≠ 5 then w
    else if w.flag (PD_STATUS p.val) 3 then ((w.setDomain p.val { w.domain p.val with fromOff := true }).clrBit (PD_STATUS p.val) 3).admitRamp p.val false
    else (w.pdGo p.val 0).pdSlots p.val)

/-- THERM_SAMPLE: a hot-spot reading every 10 µs lowers or raises the die's CAP_THERM (R485); HOT_MAX follows. -/
def execThermSample (die : Fin 20) (code : Nat) (s : State) : Ans :=
  s.run (fun _ w =>
    let t := Sp.get w.power.therm {} die.val
    let hot := (w.throttleC + 64) * 16 ≤ code
    let cold := code < (w.throttleC - 3 + 64) * 16
    let w := w.when (w.fld HOT_MAX 0 12 < code) (fun v => v.wr HOT_MAX (code % 4096 + 2 ^ 16 * die.val))
    let fall : Bool := hot && match t.hot with | none => true | some n => 9 ≤ n
    let rise := cold && 99 ≤ t.cool && t.cap < 8
    let cap := if fall then max 2 (t.cap - 1) else if rise then t.cap + 1 else t.cap
    let t' : Therm := { t with
      hot := if hot then some (if fall then 0 else (t.hot.getD 0) + 1) else none
      cool := if cold then (if 99 ≤ t.cool then 0 else t.cool + 1) else 0
      cap := cap }
    let w := { w with power := { w.power with therm := Sp.put w.power.therm die.val t' } }
    ((w.when (fall && cap < t.cap) (·.inc THROTTLE_CNT)).setCapTherm die.val cap).thermBit die.val cap)

/-- THERMTRIP_COMPARATOR: a firing raises the urgent request for channel 13 of the die; a second one within 1 ms trips
(R486). -/
def execThermtripComparator (die : Fin 20) (s : State) : Ans :=
  s.runAll (fun b w =>
    let t := Sp.get w.power.therm {} die.val
    let second : Bool := match t.fired with | some f => w.now ≤ f + 1000000 | none => false
    if second then thermalTrip b w
    else
      let w := { w with power := { w.power with therm := Sp.put w.power.therm die.val { t with fired := some w.now } } }
      (b, w.urgent 13 die.val))

end Sys2Proof.Machine
end

