-- ==== Sys2Proof/Machine/Launch.lean ====
section
/-! DEFINITION. Machine/Launch.lean: what a cox does between catch and ready: programs taken and refused, slots launched,
skipped, held and overrun (R43 to R48, R265 to R268, R285, R408, R409, R477). -/

namespace Sys2Proof.Machine

/-! ### Programs (R43, R47, R48, R268, R277) -/

/-- The program address of a core (Table 1-18). -/
def Work.progBase (w : Work) (c : Nat) : Nat := w.rd (COX_PROG c)

/-- A refused program leaves its mark (R43, R268). -/
def Work.progRefused (w : Work) (c : Nat) : Checked → Work
  | .ok _ => w
  | .bad n => (w.setBit (COX_ERR c) 0).setFld (COX_ERR c) 8 4 n
  | .badCond n => (w.setBit (COND_ERR c) 0).setFld (COND_ERR c) 8 4 n

/-- The device may run stroke programs: not strapped 11, not as the acting manager, not between RESTORE and the restore finish, not
after a failed in-field test, not as a diagnosable device (R7, R8, R396, R412, R442). -/
def Work.mayStroke (w : Work) (b : Board) : Bool :=
  b.role != 3 && (!w.acting || w.noManager) && !w.flag MGR_STATUS 3 && !w.flag REPL_STATUS 5 && w.fld MGR_STATUS 0 2 != 3

/-- The first cox with RUN set: the entry table is checked and the next step record is the first (R256, R277). -/
def Work.firstArm (w : Work) : Work := if w.allIdle then w.checkEntries.stepRun else w

/-- The catch that LOCAL_CATCH names for a cox that arms: none where a manager names it, or while it is not ahead (R48). -/
def Work.localAim (w : Work) : Option Nat := if w.noManager then w.localTarget else none

/-- Every ARMED cox takes its catch from LOCAL_CATCH anew (R48). -/
def Work.aimLocal (w : Work) : Work :=
  { w with coxes := w.coxes.map (fun (q : Nat × Cox) =>
      (q.1, if w.coxState q.1 = 1 && w.noManager then { q.2 with catchAt := w.localTarget } else q.2)) }

/-- An IDLE cox whose RUN is set takes its program, or refuses it (Table 1-8). -/
def Work.armCox (w : Work) (b : Board) (c : Nat) : Work :=
  if w.coxState c ≠ 0 || !w.mayStroke b then w
  else
    let w := w.firstArm
    if w.step.entryBad then w
    else match w.loadProg c (w.progBase c) with
    | .ok p => (w.setCox c { w.cox c with prog := some p, runs := [], catchAt := w.localAim }).setCoxState c 1
    | bad => w.progRefused c bad

/-- A cox lets its program go and is IDLE. -/
def Work.releaseCox (w : Work) (c : Nat) : Work := (w.setCox c {}).setCoxState c 0

/-- A write of COX_CTL (Table 1-17). -/
def Work.writeCoxCtl (w : Work) (b : Board) (p : Path) (c v : Nat) : Work :=
  let w := w.wrPlain p (COX_CTL c) v
  if v.testBit 0 then w.armCox b c
  else if w.coxState c = 1 || w.coxState c = 6 then w.releaseCox c
  else w

/-! ### Conditions (R265 to R267) -/

/-- A condition other than ALLOCATE holds (Table 7-6). -/
def Work.condHolds (w : Work) (e : Cond) : Bool :=
  match e.cond with
  | 1 => w.firstStroke
  | 2 => !w.firstStroke
  | 3 => w.lastStroke
  | 4 => !w.lastStroke
  | 6 => w.entryState e.entry == 1
  | 7 => w.entryState e.entry == 2
  | _ => true

/-- A slot's conditions, ALLOCATE last and only where the others hold (R266). -/
def Work.evalConds (w : Work) (es : List Cond) : Bool × Work :=
  if !(es.filter (·.cond != 5)).all w.condHolds then (false, w)
  else match es.find? (·.cond == 5) with
  | some e => w.allocate e.entry
  | none => (true, w)

/-! ### Checkpoint segments and reservations (R285, R406 to R409) -/

/-- Bytes of a checkpoint slot. -/
def Work.ckptSlotSize (w : Work) : Nat := 4096 * w.fld CKPT_SLOT_SIZE 0 24

/-- Address of the device's own checkpoint slot for K (R406). -/
def Work.ownSlot (w : Work) (k : Nat) : Nat := w.base CKPT_AREA_LO CKPT_AREA_HI + k % 2 * w.ckptSlotSize

/-- The keeper's node of a crew. -/
def Crew.keeperNode (c : Crew) : Option Nat := (c.members[c.keeper]?).map (·.node)

/-- A 4 KiB block of memory sent to a member's stack address as DATA on the queue that this device has there: the crew's
WQ_BASE, the same on every member, plus this device's position (log 36). -/
def Work.sendBlock (w : Work) (crew : Crew) (node src dest : Nat) : Work :=
  if node = w.node then w
  else w.sendMem 0 node crew.job crew.num (crew.wqBase + crew.pos) true src dest

/-- A copy of bytes within the device and to its keeper (R406, R409). -/
def Work.keep (w : Work) (crew : Crew) (k src len off : Nat) : Work :=
  let w := w.copy src (w.ownSlot k + off) len
  match crew.keeperNode with
  | none => w
  | some n =>
    (List.range (ceilDiv len 4096)).foldl (fun (v : Work) i =>
      v.sendBlock crew n (src + 4096 * i) (crew.keepAddr + k % 2 * v.ckptSlotSize + off + 4096 * i)) w

/-- The extents of a segment descriptor; none where it breaks R408 or names no crew. -/
def Work.segment (w : Work) (c desc : Nat) : Option (Crew × List (Nat × Nat × Nat)) :=
  match w.descriptor c desc 16 64 with
  | none => none
  | some h =>
    let n := leAt h 0 2
    match w.descriptor c desc (16 + 24 * n) 64, w.crew? (leAt h 2 2) with
    | some d, some crew =>
      let es := (List.range n).map (fun i => (leAt d (16 + 24 * i) 8, leAt d (24 + 24 * i) 8, leAt d (32 + 24 * i) 8))
      if n = 0 || 4096 < n || !allZero (sub h 4 12) ||
          es.any (fun e => !inStacks e.1 e.2.1 || e.2.1 % 4096 != 0 || e.2.2 % 4096 != 0 || decide (e.2.2 < 2 ^ 24) ||
            decide (w.ckptSlotSize < e.2.2 + e.2.1)) then none
      else some (crew, es)
    | _, _ => none

/-- The launch of a checkpoint segment slot: it does nothing where its stroke follows no ordering finish (R408, R409). -/
def Work.launchSegment (w : Work) (c s : Nat) (sl : Slot) : Work :=
  match w.mgr.ckptNow with
  | none => w.completeSlot c s
  | some (k, f) =>
    if w.stroke.catchAt ≠ beatAdd f 1 then w.completeSlot c s
    else match w.segment c sl.desc with
    | none => w.programFault c 0 s
    | some (crew, es) => es.foldl (fun (v : Work) e => v.keep crew k e.1 e.2.1 e.2.2) w

/-- A slot's run bound anew. -/
def Work.setSlotRun (w : Work) (c s : Nat) (r : SlotRun) : Work :=
  w.setCox c { w.cox c with runs := Sp.put (w.cox c).runs s r }

/-- The launch of a session reservation slot (R285): one with a refused descriptor does not complete. -/
def Work.launchReservation (w : Work) (c s : Nat) (sl : Slot) : Work :=
  let bad := fun (v : Work) => (v.setSlotRun c s { (Sp.find (v.cox c).runs s).getD { state := 1 } with stuck := true }).programFault c 0 s
  match w.descriptor c sl.desc 8 1 with
  | some d => if leAt d 0 1 = 0 || 16 ≤ leAt d 0 1 || !allZero (sub d 1 7) then bad w else w
  | none => bad w

/-! ### Launch, skip, hold (R44 to R46, R266) -/

/-- The work of a slot begins. -/
def Work.launchSlot (w : Work) (c s : Nat) (sl : Slot) : Work :=
  match sl.action with
  | 0 => w.launchForward c s sl
  | 1 => w.launchJob c s sl
  | 2 => w.launchBucket c s sl
  | 3 => w.launchTransfer c s sl
  | 4 => w.launchCal c s sl
  | 5 => w.launchSegment c s sl
  | 6 => w.pdSlot c s sl
  | _ => w.launchReservation c s sl

/-- A due slot is held: a beat of slip (R45, R49). -/
def Work.slipSlot (w : Work) (c : Nat) : Work :=
  { w.inc (COX_SLIP_BEATS c) with stroke := { w.stroke with slip := w.stroke.slip + 1 } }

/-- The halves that a digital job slot's header claims are free (R198); a header that cannot be read does not hold it. -/
def Work.jobUnitsFree (w : Work) (c : Nat) (sl : Slot) : Bool :=
  sl.action != 1 || match w.descriptor c sl.desc 80 64 with | some h => w.halvesFree c h | none => true

/-- A slot may change a section of a state record that is still to be written: it waits (R410; which slots, log 37). -/
def Work.recordHolds (w : Work) (sl : Slot) : Bool := w.mgr.recordDue && [1, 2, 3].contains sl.action

/-- A due slot whose DEP slot has completed: conditions once, then its units (R44, R45, R266). -/
def Work.trySlot (w : Work) (c s : Nat) (sl : Slot) (r : SlotRun) (p : Prog) : Work :=
  let q : Bool × Work := if r.passed then (true, w) else w.evalConds (p.condsOf s)
  let w := q.2
  if !q.1 then (w.inc (COND_SKIP_CNT c)).completeSlot c s
  else if w.recordHolds sl || !w.unitsFree c sl || !w.jobUnitsFree c sl then
    (w.setSlotRun c s { r with passed := true }).slipSlot c
  else
    let w := w.setSlotRun c s { state := if r.late then 2 else 1, passed := true }
    let w := w.when ((p.condsOf s).any (·.cond == 7)) (·.inc RCMP_RUN_CNT)
    w.launchSlot c s sl

/-- One slot of a core's program at a beat edge: one that is due and has not launched tries to; a reservation ends with its time. -/
def Work.slotEdge (w : Work) (c off : Nat) (p : Prog) (s : Nat) (sl : Slot) : Work :=
  let r := (Sp.find (w.cox c).runs s).getD { state := 0 }
  if r.state = 0 || r.late then
    if off < sl.offset then w
    else if sl.dep ≠ 0xFFF && (w.cox c).state sl.dep ≠ 3 then w.slipSlot c
    else w.trySlot c s sl r p
  else if sl.action = 7 && r.state ≠ 3 && !r.stuck && sl.offset + sl.len ≤ off then w.completeSlot c s
  else w

/-- Reservations whose time ends give their tiles back before slots launch (R285). -/
def Work.endReservations (w : Work) (c off : Nat) (p : Prog) : Work :=
  (p.slots.zipIdx).foldl (fun (v : Work) q =>
    if q.1.action = 7 && (v.cox c).ending q.2 && q.1.offset + q.1.len ≤ off then v.completeSlot c q.2 else v) w

/-- A RUNNING cox at its ready offset (Table 1-8). -/
def Work.readyCheck (w : Work) (c : Nat) (p : Prog) : Work :=
  if w.coxState c = 2 && p.ready ≤ w.coxOffset c then w.setCoxState c (if (w.cox c).allDone then 4 else 3) else w

/-- A beat edge of a RUNNING or OVERRUN cox: the offset advances, due slots launch in slot order (R44). -/
def Work.runEdge (w : Work) (c : Nat) : Work :=
  match (w.cox c).prog with
  | none => w
  | some p =>
    let off := w.coxOffset c + 1
    let w := (w.setFld (COX_STATUS c) 4 17 off).endReservations c off p
    ((p.slots.zipIdx).foldl (fun (v : Work) q => v.slotEdge c off p q.2 q.1) w).readyCheck c p

/-! ### The commands -/

/-- SLOT_COMPLETE: the work of a checkpoint segment slot is done (R45, R409). Slots of every other action complete with the event
that ends their work. -/
def execSlotComplete (core : Fin 1024) (slot : Nat) (s : State) : Ans :=
  s.run (fun _ w => match w.slotAt core.val slot with
    | some sl => if sl.action = 5 && (w.cox core.val).running slot then w.completeSlot core.val slot else w
    | none => w)

/-- SLOT_OVERRUN: the beat edge at OFFSET + LEN has come with the slot not complete (R46); it counts once. -/
def execSlotOverrun (core : Fin 1024) (slot : Nat) (s : State) : Ans :=
  s.run (fun _ w =>
    let c := core.val
    match w.slotAt c slot with
    | some sl =>
      let r := (Sp.find (w.cox c).runs slot).getD { state := 0 }
      if !([2, 3].contains (w.coxState c)) || 2 ≤ r.state || w.coxOffset c < sl.offset + sl.len then w
      else
        let w := (w.setSlotRun c slot { r with state := 2, late := r.state == 0 }).inc (COX_OVERRUN_CNT c)
        { w with stroke := { w.stroke with overrun := w.stroke.overrun + 1 } }
    | none => w)

/-- COX_RUN_SET (R43, R47, R48): a write of 1 to COX_CTL. -/
def execCoxRunSet (path : Path) (core : Fin 1024) (s : State) : Ans :=
  s.run (fun b w => w.onBus path (COX_CTL core.val) 1 (fun v => v.writeCoxCtl b path core.val 1))

/-- COX_RUN_CLEAR (R47): a write of 0 to COX_CTL. -/
def execCoxRunClear (path : Path) (core : Fin 1024) (s : State) : Ans :=
  s.run (fun b w => w.onBus path (COX_CTL core.val) 0 (fun v => v.writeCoxCtl b path core.val 0))

/-- A write of LOCAL_CATCH: every ARMED cox takes the catch it names (R48). -/
def Work.writeLocalCatch (w : Work) (p : Path) (v : Nat) : Work := (w.wrPlain p LOCAL_CATCH v).aimLocal

/-- LOCAL_CATCH_WRITE (R48). -/
def execLocalCatchWrite (path : Path) (value : Word) (s : State) : Ans :=
  s.run (fun _ w => w.onBus path LOCAL_CATCH value.toNat (fun v => v.writeLocalCatch path value.toNat))

end Sys2Proof.Machine
end

