-- ==== Sys2Proof/Machine/Mac.lean ====
section
/-! DEFINITION. Machine/Mac.lean: the instructions of array contexts, and those that every stream may hold (R180 to R202, R205,
R208 to R214, R434, R435). -/

namespace Sys2Proof.Machine

/-! ### Multiply-accumulate (R182 to R186) -/

/-- What a multiply-accumulate did to its element: nothing (gated), an ordinary sum, a new infinity, or a new NaN. -/
inductive MacKind where
  | gated | plain | inf | nan
  deriving DecidableEq, Repr

/-- How an element changed (R186). -/
def turnKind (a b : Word) : MacKind :=
  if (f32 b).isNan && !(f32 a).isNan then .nan else if (f32 b).isInf && (f32 a).finite then .inf else .plain

/-- One multiply-accumulate (R182, R184): a zero product of finite factors changes nothing. -/
def macStep (a : Word) (x y : FV) : Word × MacKind :=
  if (x.isZero || y.isZero) && x.finite && y.finite then (a, .gated)
  else
    let r := ((x.mul y).add (f32 a)).toF32
    (r, turnKind a r)

/-- Counts that a run of multiply-accumulates leaves. -/
structure MacCounts where
  gated : Nat := 0
  infs : Nat := 0
  nans : Nat := 0
  deriving DecidableEq, Repr

/-- Counts with one more event. -/
def MacCounts.add (m : MacCounts) (k : MacKind) : MacCounts :=
  match k with
  | .gated => { m with gated := m.gated + 1 }
  | .inf => { m with infs := m.infs + 1 }
  | .nan => { m with nans := m.nans + 1 }
  | .plain => m

/-- An element takes 32 products in ascending order (R183). -/
def macRow (a : Word × MacCounts) (xs ys : List FV) : Word × MacCounts :=
  (xs.zip ys).foldl (fun s p => let r := macStep s.1 p.1 p.2; (r.1, s.2.add r.2)) a

/-- A tile takes one k-block: element (i, j) at i × N + j. -/
def macBlock (n : Nat) (as_ bs : List (List FV)) (t : List Word) (m : MacCounts) : List Word × MacCounts :=
  (t.zipIdx).foldl (fun s q =>
    let r := macRow (q.1, s.2) (as_.getD (q.2 / n) []) (bs.getD (q.2 % n) [])
    (s.1 ++ [r.1], r.2)) ([], m)

/-- What reading and multiplying an MMA's k-blocks gives. -/
structure MmaRun where
  tile : List Word
  counts : MacCounts := {}
  cycles : Nat := 0
  escapes : Nat := 0
  poison : Bool := false
  nonfin : Bool := false
  deriving DecidableEq, Repr

/-- The k-blocks of an MMA in ascending order (R183, R192); none where an address leaves its memory. -/
def Work.mmaRun (w : Work) (c : Nat) (oa ob : Opd) (aa ab m n kblk : Nat) (t : List Word) : Option MmaRun :=
  (List.range kblk).foldlM (fun (r : MmaRun) kb =>
    match oa.segs (w.localGet c) aa m kb, ob.segs (w.localGet c) ab n kb with
    | some sa, some sb =>
      let ea := sa.any (·.esc)
      let eb := sb.any (·.esc)
      let va := oa.vals sa
      let vb := ob.vals sb
      let x := macBlock n va vb r.tile r.counts
      some { tile := x.1, counts := x.2,
             cycles := r.cycles + max (if ea then 64 else kblkCycles oa.fmt) (if eb then 64 else kblkCycles ob.fmt)
             escapes := r.escapes + (if ea || eb then 1 else 0)
             poison := r.poison || sa.any (·.poison) || sb.any (·.poison)
             nonfin := r.nonfin || va.any (·.any (!·.finite)) || vb.any (·.any (!·.finite)) }
    | _, _ => none) { tile := t }

/-- Bytes of an operand that an MMA reads (R193). -/
def opdBytes (o : Opd) (side kblk : Nat) : Nat := side * kblk * (segBytes o.fmt + if scaled o.fmt then 1 else 0)

/-- Cycles that an MMA occupies its cells (R193). -/
def mmaCycles (cycles : Nat) (split : Bool) (oa ob : Opd) (aa ab m n kblk : Nat) : Nat :=
  let bytes := fun (sp : Bool) => (if (aa < 2 ^ 21) = sp then opdBytes oa m kblk else 0) + (if (ab < 2 ^ 21) = sp then opdBytes ob n kblk else 0)
  max cycles (max (ceilDiv (bytes true) (if split then 64 else 128)) (ceilDiv (bytes false) (if split then 8 else 16)))

/-- Elements that turned infinite or NaN, gated multiply-accumulates and busy cycles are counted (Table 5-13). -/
def Work.macCount (w : Work) (c x : Nat) (m : MacCounts) (cycles : Nat) : Work :=
  let a := x / 2
  let d := w.dig c
  let g := Sp.get d.gated 0 a + m.gated
  let b := Sp.get d.busy 0 a + cycles
  let w := w.setDig c { d with gated := Sp.put d.gated a g, busy := Sp.put d.busy a b }
  (((w.wr (MAC_GATED_CNT c a) (min (g / 2 ^ 20) 0xFFFFFFFF)).wr (MAC_BUSY_CNT c a) (min (b / 1024) 0xFFFFFFFF)).incBy
    (ACC_INF_CNT c a) m.infs).incBy (NAN_CNT c a) m.nans

/-- Time that cycles of an array take: 2 a nanosecond, of which its die's MAC and vector domain under a cap of c eighths delivers c
of every 8 (R4, R475). -/
def Work.macNs (w : Work) (c cycles : Nat) : Nat := ceilDiv (8 * cycles) (2 * max 1 (w.fld (PD_STATUS (4 * (c / 64) + 1)) 8 4))

/-- A digital product of a session's request starts or ends: the steps that its completion carries (R287, R288). -/
def Work.noteProduct (w : Work) (session : Option Nat) (starts : Bool) : Work :=
  match session with
  | some n =>
    let s := w.rd STEP_COMMITTED
    w.noteRun n (fun u => if starts then { u with first := some (u.first.getD s) } else { u with lastStep := s })
  | none => w

/-- The oldest MMA in flight reaches the accumulator; its check pass starts where it is due (R193, R434, R435). -/
def Work.land (w : Work) (c x : Nat) : Work :=
  let k := w.ctx c x
  match k.inFlight with
  | [] => w
  | f :: fs =>
    let w := w.till f.lands
    let k := { k with inFlight := fs
                      checking := if f.due && !f.nonfin then some (f.idx, f.cycles) else k.checking
                      freeFrom := if f.due then k.freeFrom + w.macNs c f.cycles else k.freeFrom }
    ((w.setCtx c x k).when (f.due && f.nonfin) (·.inc CHK_SKIP_CNT)).noteProduct k.session false

/-- MMAs in flight land in order until none of them is one that an instruction waits for. -/
def Work.landFor (w : Work) (c x : Nat) (p : Flight → Bool) : Work :=
  ((w.ctx c x).inFlight).foldl (fun (v : Work) _ => if (v.ctx c x).inFlight.any p then v.land c x else v) w

/-- Whether an instruction waits for an MMA in flight (R193): one that reads or names its tile; an MMA also for the check pass that
follows an earlier one; END for every result. -/
def waitsFor (b : List Byte) (f : Flight) : Bool :=
  leAt b 0 1 = 15 || (instrIdxs b).contains f.idx || (leAt b 0 1 = 1 && f.due)

/-- An array instruction issues once the MMAs in flight that it waits for have landed. -/
def Work.issueMac (w : Work) (c x op : Nat) (f : Work → List Byte → Work) : Work :=
  w.issue c x op (fun b => f (w.landFor c x (waitsFor b)) b)

/-- MMA (R182 to R193, R196, R199): a drained one has no effect; one that meets a check pass waits. -/
def Work.mma (w : Work) (c x : Nat) (parity : Bool) (b : List Byte) : Work :=
  let k := w.ctx c x
  let shape := leAt b 1 1 % 4
  let init := (leAt b 1 1).testBit 2
  let idx := leAt b 4 1
  let kblk := leAt b 6 2
  let aa := leAt b 8 4
  let ab := leAt b 12 4
  let mn := shapeMN shape k.split
  if k.checking.isSome then w
  else if w.draining c x then w.retireInstr c x
  else
    let w := w.nameIdx c x [idx]
    if 3 ≤ shape || (shape = 2 && k.split) then w.badInstr c x 2
    else if kblk = 0 || 4096 < kblk then w.badInstr c x 3
    else match w.localGet c (k.opdBase + 32 * leAt b 2 1) 32, w.localGet c (k.opdBase + 32 * leAt b 3 1) 32 with
      | some (da, pa), some (db, pb) =>
        if !(opdOk da mn.1 && opdOk db mn.2) then w.badInstr c x 4
        else
          let oa := opdOf da
          let ob := opdOf db
          let old := if init then List.replicate (tileSize shape k.split) 0 else w.tileGet c x k.split shape idx
          if aa % 32 ≠ 0 || ab % 32 ≠ 0 then w.badInstr c x 5
          else match w.mmaRun c oa ob aa ab mn.1 mn.2 kblk old with
            | none => w.badInstr c x 5
            | some r =>
              if pa || pb || r.poison then w.ctxFault c x 0 0
              else if parity && !init then w.ctxFault c x 1 0
              else
                let cycles := mmaCycles r.cycles k.split oa ob aa ab mn.1 mn.2 kblk
                let w := if init then w.tilePoison c x [idx] false else w
                let w := (((w.tilePut c x k.split shape idx r.tile).macCount c x r.counts cycles).incBy (ESC_READ_CNT c (x / 2)) r.escapes)
                let w := w.till (w.ctx c x).freeFrom
                let k := w.ctx c x
                let n := w.chkShare
                let ends := w.now + w.macNs c cycles
                let g : Flight := { idx := idx, cycles := cycles, nonfin := r.nonfin, due := n ≠ 0 && (k.mmas + 1) % (n - 1) = 0,
                                    lands := ends + w.macNs c 12 }
                let w := w.setCtx c x { k with inFlight := k.inFlight ++ [g], mmas := k.mmas + 1, freeFrom := ends }
                (w.noteProduct k.session true).retireInstr c x
      | _, _ => w.badInstr c x 5

/-- ACC_CLR (R195, R196). -/
def Work.accClr (w : Work) (c x : Nat) (b : List Byte) : Work :=
  if w.draining c x then w.retireInstr c x
  else
    let n := leAt b 5 1
    let w := w.nameIdx c x (instrIdxs b)
    if n = 0 || 64 < leAt b 4 1 + n then w.badInstr c x 3
    else (w.tileClear c x (instrIdxs b)).retireInstr c x

/-- ACC_ADD (R183, R186, R196, R199): one rounded addition per element. -/
def Work.accAdd (w : Work) (c x : Nat) (parity : Bool) (b : List Byte) : Work :=
  let k := w.ctx c x
  let shape := leAt b 1 1
  let idx := leAt b 4 1
  let src := leAt b 8 4
  if w.draining c x then w.retireInstr c x
  else
    let w := w.nameIdx c x [idx]
    if 3 ≤ shape || (shape = 2 && k.split) then w.badInstr c x 2
    else match (if src % 32 = 0 then w.localGet c src (4 * tileSize shape k.split) else none) with
      | none => w.badInstr c x 5
      | some (d, p) =>
        if p then w.ctxFault c x 0 0
        else if parity then w.ctxFault c x 1 0
        else
          let old := w.tileGet c x k.split shape idx
          let new := (old.zipIdx).map (fun q => fadd q.1 (BitVec.ofNat 32 (leAt d (4 * q.2) 4)))
          let m := (old.zip new).foldl (fun (m : MacCounts) q => m.add (turnKind q.1 q.2)) {}
          ((w.tilePut c x k.split shape idx new).macCount c x m 0).retireInstr c x

/-! ### ACC_OUT (R187, R196, R205, R208, R224 to R243) -/

/-- Bytes of one row of N elements as ACC_OUT writes it: for a scaled format its segments, then their scales (DESIGN CHOICE,
log 22). -/
def outRowBytes (code n : Nat) : Nat :=
  if scaled code then ceilDiv n 32 * (segBytes code + 1) else n * (fmtOf code).w / 8

/-- The rows of a tile narrowed, each with the addresses its blocks take; `base i` is where row i stands. -/
def narrowTile (code : Nat) (sr : Bool) (seq n : Nat) (base : Nat → Nat) (vs : List FV) (e : Est) : NarrowRun :=
  let rows := vs.length / n
  if scaled code then
    (List.range (rows * ceilDiv n 32)).foldl (fun (r : NarrowRun) q =>
      let i := q / ceilDiv n 32
      let s := q % ceilDiv n 32
      let blk := (List.range 32).map (fun l => if 32 * s + l < n then vs.getD (n * i + 32 * s + l) (.fin false 0 0) else .fin false 0 0)
      r.block code sr seq (base i + s * segBytes code) (base i + ceilDiv n 32 * segBytes code + s) blk) { est := e }
  else
    let r := (List.range (vs.length / 32)).foldl (fun (r : NarrowRun) g => r.plain code sr seq 0 ((vs.drop (32 * g)).take 32)) { est := e }
    let bs := r.puts.flatMap (·.2)
    { r with puts := (List.range rows).map (fun i => (base i, sub bs (i * outRowBytes code n) (outRowBytes code n))) }

/-- Local addresses of writes turned into the model's; none where one leaves local memory. -/
def localPuts (c : Nat) (ps : List (Nat × List Byte)) : Option (List (Nat × List Byte)) :=
  ps.mapM (fun p => if localOk p.1 p.2.length then (localAddr c p.1).map (fun a => (a, p.2)) else none)

/-- Poisoned data of no stated value for rows of bytes. -/
def Work.poisonRows (w : Work) (rows : List (Nat × Nat)) : List Put × Work :=
  rows.foldl (fun (acc : List Put × Work) r => let d := acc.2.drawBytes r.2; (acc.1 ++ [(r.1, d.1, true)], d.2)) ([], w)

/-- The end of an ACC_OUT: CLEAR, and the instruction retires; in drain CLEAR has no effect. -/
def Work.accOutDone (w : Work) (c x idx : Nat) (clear : Bool) : Work :=
  (w.when (clear && !w.draining c x) (fun v => v.tileClear c x [idx])).retireInstr c x

/-- ACC_OUT to the vector unit's input queue, which holds 4 tiles of an array (R205). -/
def Work.toVec (w : Work) (c x shape idx : Nat) (clear : Bool) (words : List Word) (poison : Bool) : Work :=
  let k := w.ctx c x
  let d := w.dig c
  if 4 ≤ (d.queue.filter (fun q => q.1 == x / 2)).length then w.setCtx c x { k with stalled := true }
  else
    let t : VecTile := { shape := shape, split := k.split, half := x % 2, poison := poison, words := words }
    (w.setDig c { d with queue := d.queue ++ [(x / 2, t)] }).accOutDone c x idx clear

/-- ACC_OUT. A poisoned tile or bias writes its data with poison marks (R196); in drain the destination takes poison marks and data
of no stated value, with no observation and no escape (R229). -/
def Work.accOut (w : Work) (c x : Nat) (parity : Bool) (b : List Byte) : Work :=
  let k := w.ctx c x
  let f := leAt b 1 1
  let shape := f % 4
  let code := leAt b 2 1
  let idx := leAt b 4 1
  let dst := leAt b 8 4
  let pitch := leAt b 16 4
  let sr := f.testBit 6
  let m := (shapeMN shape k.split).1
  let n := (shapeMN shape k.split).2
  let w := w.when (!w.draining c x) (fun v => v.nameIdx c x [idx])
  if 3 ≤ shape || (shape = 2 && k.split) then w.badInstr c x 2
  else
    let bias := if f.testBit 5 then (if leAt b 12 4 % 32 = 0 then w.localGet c (leAt b 12 4) (4 * n) else none) else some ([], false)
    let rows := (List.range m).map (fun i => (dst + i * pitch, outRowBytes code n))
    let places := if f.testBit 4 then some [] else if dst % 32 = 0 then localPuts c (rows.map (fun r => (r.1, zeros r.2))) else none
    match bias, places with
    | some (bb, bp), some ps =>
      if 11 ≤ code then w.badInstr c x 6
      else
        let old := w.tileGet c x k.split shape idx
        let ws := if f.testBit 5 then (old.zipIdx).map (fun q => fadd q.1 (BitVec.ofNat 32 (leAt bb (4 * (q.2 % n)) 4))) else old
        let bad := w.tilePoisoned c x idx || bp
        if parity && !w.draining c x then w.ctxFault c x 1 0
        else if f.testBit 4 then w.toVec c x shape idx (f.testBit 2) ws (bad || w.draining c x)
        else if w.draining c x then
          let r := w.poisonRows (ps.map (fun p => (p.1, p.2.length)))
          r.2.puts c x (f.testBit 3) [r.1] (fun v => v.accOutDone c x idx (f.testBit 2))
        else
          let entry := leAt b 20 2
          let named := if namesEntry code sr then w.nameEntry c x entry sr else (0, w)
          if named.1 ≠ 0 then named.2.badInstr c x named.1
          else
            let w := named.2
            let e := if namesEntry code sr then w.loadEst (w.estAt c entry) else Est.none
            let r := narrowTile code sr (w.rd (GEN_SEQ c)) n (fun i => dst + i * pitch) (ws.map f32) e
            match localPuts c r.puts with
            | none => w.badInstr c x 5
            | some qs =>
              w.puts c x (f.testBit 3) [qs.map (fun q => (q.1, q.2, bad))]
                (fun v => (v.narrowed c (if namesEntry code sr then some entry else none) r).accOutDone c x idx (f.testBit 2))
    | _, _ => w.badInstr c x 5

/-! ### LOAD and STORE (R190, R211 to R214, R272, R312) -/

/-- A LEN is a multiple of 4,096, and both ranges lie in their memories, aligned (Table 5-11, check 5); the cause. Table 5-11 names
no cause for another LEN: 3, the check of an instruction's other counts (DESIGN CHOICE, log 118). -/
def moveCheck (c hbm loc len : Nat) : Nat :=
  if len % 4096 ≠ 0 then 3
  else if hbm % 4096 ≠ 0 || !inHbm hbm len || loc % 32 ≠ 0 || !localOk loc len || (localAddr c loc).isNone then 5 else 0

/-- The local bytes of a LOAD, line by line with their marks. -/
def Work.loadLines (w : Work) (hbm dst len : Nat) : Work :=
  (linesOf hbm len).foldl (fun (v : Work) p =>
    let r := v.hbmGet p.1 p.2
    r.2.2.put (dst + (p.1 - hbm)) r.1 r.2.1) w

/-- LOAD: none in drain (Table 5-5); it waits while a stack of its range zeroises (R326). -/
def Work.loadInstr (w : Work) (c x : Nat) (b : List Byte) : Work :=
  let hbm := leAt b 8 8
  let loc := leAt b 16 4
  let len := leAt b 20 4
  if w.draining c x then w.retireInstr c x
  else
    let e := moveCheck c hbm loc len
    if e ≠ 0 then w.badInstr c x e
    else if !w.rangeServes hbm len then w
    else match localAddr c loc with
      | some a => (w.loadLines hbm a len).retireInstr c x
      | none => w.badInstr c x 5

/-- The writes of a STORE by 256-byte line with the marks of the source; in drain every line is poisoned. -/
def Work.storeLines (w : Work) (a hbm len : Nat) (drain : Bool) : List Put :=
  (linesOf hbm len).map (fun p => (p.1, w.bytes (a + (p.1 - hbm)) p.2, drain || w.poisoned (a + (p.1 - hbm)) p.2))

/-- STORE: a deferred one is one record, poisoned where any of its lines is (R211). -/
def Work.storeInstr (w : Work) (c x : Nat) (b : List Byte) : Work :=
  let hbm := leAt b 8 8
  let loc := leAt b 16 4
  let len := leAt b 20 4
  let defer := (leAt b 1 1).testBit 3
  let e := moveCheck c hbm loc len
  if e ≠ 0 then w.badInstr c x e
  else match localAddr c loc with
    | some a =>
      let ps := w.storeLines a hbm len (w.draining c x)
      w.puts c x defer [ps] (fun v => v.retireInstr c x)
    | none => w.badInstr c x 5

/-! ### Semaphores (R202) -/

/-- The job of a context, with its key. -/
def Work.jobOf (w : Work) (c x : Nat) : Option (Nat × Job) :=
  (w.ctx c x).job.bind (fun s => (Sp.find (w.dig c).jobs s).map (fun j => (s, j)))

/-- The value of a semaphore of a context's job bound anew. -/
def Work.setSem (w : Work) (c x sem v : Nat) : Work :=
  match w.jobOf c x with
  | some (s, j) => w.setDig c { w.dig c with jobs := Sp.put (w.dig c).jobs s { j with sems := Sp.put j.sems sem v } }
  | none => w

/-- The value of a semaphore. -/
def Work.sem (w : Work) (c x sem : Nat) : Nat := match w.jobOf c x with | some (_, j) => Sp.get j.sems 0 sem | none => 0

/-- A WAIT that its semaphore satisfies takes its count and goes on. -/
def Work.passWait (w : Work) (c x sem n : Nat) : Work :=
  let w := (w.setSem c x sem (w.sem c x sem - n)).setCtx c x { w.ctx c x with waits := none }
  ((w.when (w.ctxState c x = 2) (fun v => v.setCtxState c x 1))).retireInstr c x

/-- WAIT. -/
def Work.waitInstr (w : Work) (c x : Nat) (b : List Byte) : Work :=
  let sem := leAt b 4 1
  let n := leAt b 6 2
  if n ≤ w.sem c x sem then w.passWait c x sem n
  else
    let w := w.setCtx c x { w.ctx c x with waits := some (sem, n) }
    w.when (w.ctxState c x = 1) (fun v => v.setCtxState c x 2)

/-- SIGNAL: the semaphore rises, and waiting contexts of the job that it satisfies go on, lowest first. -/
def Work.signalInstr (w : Work) (c x : Nat) (b : List Byte) : Work :=
  let sem := leAt b 4 1
  let w := (w.setSem c x sem (w.sem c x sem + 1)).retireInstr c x
  match w.jobOf c x with
  | none => w
  | some (_, j) => j.ctxs.foldl (fun (v : Work) y =>
      match (v.ctx c y).waits with
      | some (s, n) => if s = sem ∧ n ≤ v.sem c y s then v.passWait c y s n else v
      | none => v) w

/-- END: the context waits for its check pass, then is done. -/
def Work.endInstr (w : Work) (c x : Nat) : Work :=
  if (w.ctx c x).checking.isSome then w else w.ctxEnd c x

/-! ### The commands -/

/-- MMA (R193). -/
def execMma (core : Fin 1024) (ctx : Fin 17) (parityError : Bool) (s : State) : Ans :=
  s.run (fun _ w => w.issueMac core.val ctx.val 1 (fun v b => v.mma core.val ctx.val parityError b))

/-- MMA_DONE (R193). -/
def execMmaDone (core : Fin 1024) (ctx : Fin 17) (s : State) : Ans := s.run (fun _ w => w.land core.val ctx.val)

/-- CHECK_PASS_DONE: the check unit's comparisons; the second pass, which only a difference makes it run, takes as long again (R435). -/
def execCheckPassDone (core : Fin 1024) (ctx : Fin 17) (agree1 agree2 : Bool) (s : State) : Ans :=
  s.run (fun _ w =>
    let c := core.val
    let k := w.ctx c ctx.val
    match k.checking with
    | none => w
    | some (idx, cycles) =>
      let ends := k.freeFrom + if agree1 then 0 else w.macNs c cycles
      let w := (w.till ends).setCtx c ctx.val { k with checking := none, freeFrom := ends }
      if agree1 then w.inc CHK_CNT
      else if agree2 then w.transient CHK_RETRY_CNT
      else ((w.inc CHK_FAIL_CNT).tilePoison c ctx.val [idx] true).lasting
        { cls := 3, unit := c, detail := k.tag } (some 7) (w.crewsFor 0 (w.coreCrew c)))

/-- ACC_CLR (R195). -/
def execAccClr (core : Fin 1024) (ctx : Fin 17) (s : State) : Ans :=
  s.run (fun _ w => w.issueMac core.val ctx.val 2 (fun v b => v.accClr core.val ctx.val b))

/-- ACC_ADD (R183). -/
def execAccAdd (core : Fin 1024) (ctx : Fin 17) (parityError : Bool) (s : State) : Ans :=
  s.run (fun _ w => w.issueMac core.val ctx.val 3 (fun v b => v.accAdd core.val ctx.val parityError b))

/-- ACC_OUT (R208). -/
def execAccOut (core : Fin 1024) (ctx : Fin 17) (parityError : Bool) (s : State) : Ans :=
  s.run (fun _ w => w.issueMac core.val ctx.val 4 (fun v b => v.accOut core.val ctx.val parityError b))

/-- LOAD (R190). -/
def execLoad (core : Fin 1024) (ctx : Fin 17) (s : State) : Ans :=
  s.run (fun _ w => w.issue core.val ctx.val 5 (fun b => w.loadInstr core.val ctx.val b))

/-- STORE (R211). -/
def execStore (core : Fin 1024) (ctx : Fin 17) (s : State) : Ans :=
  s.run (fun _ w => w.issue core.val ctx.val 6 (fun b => w.storeInstr core.val ctx.val b))

/-- SIGNAL (R202). -/
def execSignal (core : Fin 1024) (ctx : Fin 17) (s : State) : Ans :=
  s.run (fun _ w => w.issue core.val ctx.val 7 (fun b => w.signalInstr core.val ctx.val b))

/-- WAIT (R202). -/
def execWait (core : Fin 1024) (ctx : Fin 17) (s : State) : Ans :=
  s.run (fun _ w => w.issue core.val ctx.val 8 (fun b => w.waitInstr core.val ctx.val b))

/-- END (R202). -/
def execEndJob (core : Fin 1024) (ctx : Fin 17) (s : State) : Ans :=
  s.run (fun _ w => w.issueMac core.val ctx.val 15 (fun v _ => v.endInstr core.val ctx.val))

/-- CONTEXT_FLUSH_DONE: 64 cycles after the fault, the context drains (R200, Table 5-6). -/
def execContextFlushDone (core : Fin 1024) (ctx : Fin 17) (s : State) : Ans :=
  s.run (fun _ w => if w.ctxState core.val ctx.val = 3 then (w.setCtxState core.val ctx.val 4) else w)

/-- TO_VEC_QUEUE_RESUME: a tile has left the full queue, and the ACC_OUT that waited for it goes on (R205). -/
def execToVecQueueResume (core : Fin 1024) (ctx : Fin 17) (s : State) : Ans :=
  s.run (fun _ w =>
    let k := w.ctx core.val ctx.val
    if !k.stalled then w
    else
      let v := w.setCtx core.val ctx.val { k with stalled := false }
      match v.nextInstr core.val ctx.val with
      | .instr b => if leAt b 0 1 = 4 ∧ (leAt b 1 1).testBit 4 then v.accOut core.val ctx.val false b else w
      | _ => w)

end Sys2Proof.Machine
end

