-- ==== Sys2Proof/Machine/Vector.lean ====
section
/-! DEFINITION. Machine/Vector.lean: the kernels of the vector unit (R203 to R207, R246, R247, R271) and the resumption of
deferred stores (R214). The spec gives no layout of the parameter block of ELEMWISE, ROWNORM and SOFTMAX: what it says comes as
operands (notes/assumptions/11.md). In drain a kernel reads no input and writes its outputs poisoned (notes/assumptions/24.md). -/

namespace Sys2Proof.Machine

/-- FP32 words of bytes. -/
def wordsOf (b : List Byte) : List Word := (List.range (b.length / 4)).map (fun i => BitVec.ofNat 32 (leAt b (4 * i) 4))

/-- A word of a list. -/
def wAt (l : List Word) (i : Nat) : Word := l.getD i 0

/-- Kernel outputs that are infinite or NaN are counted (Table 5-13). -/
def Work.countNonfin (w : Work) (c : Nat) (ws : List Word) : Work :=
  w.incBy (VEC_NONFINITE_CNT c) ((ws.filter (fun v => !ffinite v)).length)

/-- A kernel's writes by kernel addresses, as the model's; none where one leaves its memory. -/
def kputs (c : Nat) (ps : List (Nat × List Byte)) : Option (List (Nat × List Byte)) :=
  ps.mapM (fun p => match kernelAt c p.1 p.2.length with
    | some (.hbm a) => some (a, p.2)
    | some (.loc l) => (localAddr c l).map (fun a => (a, p.2))
    | none => none)

/-- Poisoned data of no stated value for every write of a kernel's outputs. -/
def Work.poisonOuts (w : Work) (os : List (List (Nat × List Byte))) : List (List Put) × Work :=
  os.foldl (fun (acc : List (List Put) × Work) o =>
    let r := acc.2.poisonRows (o.map (fun q => (q.1, q.2.length)))
    (acc.1 ++ [r.1], r.2)) ([], w)

/-- A kernel's outputs, each a list of writes, written, poisoned with data of no stated value in drain, and the kernel retires. -/
def Work.kernelOut (w : Work) (c : Nat) (defer : Bool) (os : List (List (Nat × List Byte))) (done : Work → Work) : Work :=
  match os.mapM (kputs c) with
  | none => w.badInstr c 16 5
  | some qs =>
    if w.draining c 16 then
      let r := w.poisonOuts qs
      r.2.puts c 16 defer r.1 (fun v => v.retireInstr c 16)
    else w.puts c 16 defer (qs.map (·.map (fun q => (q.1, q.2, false)))) (fun v => (done v).retireInstr c 16)

/-- A kernel's inputs taken in: a range outside its memory faults with cause 5, a poisoned one with POISON_OP (R199); in
drain nothing is read. It waits while a stack that it reads zeroises (R326). -/
def Work.kernelIn (w : Work) (c : Nat) (rs : List (Nat × Nat)) (f : List (List Byte) → Work → Work) : Work :=
  if w.draining c 16 then f [] w
  else if !w.kserves c rs then w
  else match kgets c rs w with
    | none => w.badInstr c 16 5
    | some (bs, p, v) => if p then v.ctxFault c 16 0 0 else f bs v

/-- A parameter block of a kernel at PARAM; misaligned or outside local memory it fails check 5. -/
def Work.kernelPar (w : Work) (c : Nat) (b : List Byte) (n align : Nat) (f : List Byte → Work) : Work :=
  let a := leAt b 8 4
  match (if a % align = 0 then w.localGet c a n else none) with
  | none => w.badInstr c 16 5
  | some (p, poison) => if poison && !w.draining c 16 then w.ctxFault c 16 0 0 else f p

/-- A kernel starts: each address of its parameters is aligned (Table 5-11, check 5). -/
def Work.kernelAligned (w : Work) (c : Nat) (as_ : List Nat) (f : Work) : Work := if as_.all kaligned then f else w.badInstr c 16 5

/-- Groups of 32 consecutive outputs that hold a value written as F_max (R225). -/
def satGroups (code : Nat) (ws : List Word) : Nat :=
  ((List.range (ceilDiv ws.length 32)).filter (fun g =>
    ((ws.drop (32 * g)).take 32).any (fun v => (narrowPlain code (f32 v) none).2))).length

/-! ### Tensors (R181, R223, Table 6-5) -/

/-- Bytes of n elements of a tensor without scales. -/
def tensorBytes (t : Tensor) (n : Nat) : Nat := n * (fmtOf t.fmt.val).w / 8

/-- The ranges that n elements of a tensor lie in: the elements, and with a scaled format a scale for each segment. -/
def tensorRanges (t : Tensor) (n : Nat) : List (Nat × Nat) :=
  if scaled t.fmt.val then [(t.addr, ceilDiv n 32 * segBytes t.fmt.val), (t.scale, ceilDiv n 32)] else [(t.addr, tensorBytes t n)]

/-- A segment read by kernel addresses, with the state that counts unmapped accesses. -/
def Work.kseg (w : Work) (c code seg : Nat) (scl : Option Nat) : Option (Seg × Work) :=
  let get := fun (a n : Nat) => (w.kget c a n).map (fun r => (r.1, r.2.1))
  match readSeg get code seg scl, w.kget c seg (segBytes code) with
  | some s, some r => some (s, r.2.2)
  | _, _ => none

/-- The first n elements of a tensor widened to FP32 (R223), with poison; none where an address leaves its memory. -/
def Work.ktensor (w : Work) (c : Nat) (t : Tensor) (n : Nat) : Option (List Word × Bool × Work) :=
  if scaled t.fmt.val then
    ((List.range (ceilDiv n 32)).foldlM (fun (acc : List Word × Bool × Work) s =>
      (acc.2.2.kseg c t.fmt.val (t.addr + s * segBytes t.fmt.val) (some (t.scale + s))).map (fun g =>
        (acc.1 ++ g.1.vals.map FV.toF32, acc.2.1 || g.1.poison, g.2))) ([], false, w)).map (fun r => (r.1.take n, r.2))
  else (w.kget c t.addr (tensorBytes t n)).map (fun r =>
    ((List.range n).map (fun i => (decodeElem t.fmt.val (packedElem t.fmt.val r.1 i)).toF32), r.2))

/-- Several tensors read in order: their elements, whether any is poisoned, the state. -/
def ktensors (c : Nat) : List (Tensor × Nat) → Work → Option (List (List Word) × Bool × Work)
  | [], w => some ([], false, w)
  | t :: ts, w =>
    match w.ktensor c t.1 t.2 with
    | none => none
    | some (x, p, v) => (ktensors c ts v).map (fun r => (x :: r.1, p || r.2.1, r.2.2))

/-- A kernel's input tensors taken in, as `kernelIn` takes ranges (R199). -/
def Work.tensorsIn (w : Work) (c : Nat) (ts : List (Tensor × Nat)) (f : List (List Word) → Work → Work) : Work :=
  if w.draining c 16 then f [] w
  else if !w.kserves c (ts.flatMap (fun t => tensorRanges t.1 t.2)) then w
  else match ktensors c ts w with
    | none => w.badInstr c 16 5
    | some (xs, p, v) => if p then v.ctxFault c 16 0 0 else f xs v

/-- Elements narrowed to a tensor's format to nearest, with no estimator entry (R224 to R226). -/
def tensorNarrow (t : Tensor) (ws : List Word) : NarrowRun :=
  let code := t.fmt.val
  if code = 0 then { est := Est.none, puts := [(t.addr, wordsLE ws)] }
  else (List.range (ceilDiv ws.length 32)).foldl (fun (r : NarrowRun) s =>
    let vs := ((ws.drop (32 * s)).take 32).map f32
    if scaled code then
      r.block code false 0 (t.addr + s * segBytes code) (t.scale + s) (vs ++ List.replicate (32 - vs.length) (.fin false 0 0))
    else r.plain code false 0 (t.addr + s * segBytes code) vs) { est := Est.none }

/-- A kernel's output tensors written, with the counts of Table 6-9 and of outputs that are infinite or NaN. -/
def Work.tensorsOut (w : Work) (c : Nat) (os : List (Tensor × List Word)) : Work :=
  let rs := os.map (fun o => tensorNarrow o.1 o.2)
  w.kernelOut c false (rs.map (·.puts)) (fun v =>
    (rs.foldl (fun (u : Work) r => u.narrowed c none r) v).countNonfin c (os.flatMap (·.2)))

/-- The addresses of tensors that the alignment check covers. -/
def tensorAddrs (ts : List Tensor) : List Nat := ts.flatMap (fun t => t.addr :: if scaled t.fmt.val then [t.scale] else [])

/-! ### ELEMWISE, ROWNORM, SOFTMAX (Table 5-7, R204) -/

/-- One element of ELEMWISE; SCALE multiplies by the first element of its second tensor. -/
def elemOp (op : ElemOp) (a b c s : Word) : Word :=
  match op with
  | .add => fadd a b
  | .mul => fmul a b
  | .fma => ffma a b c
  | .max => fmax a b
  | .scale => fmul a s

/-- The input tensors of ELEMWISE with their lengths. -/
def elemIns (p : ElemPar) : List (Tensor × Nat) :=
  match p.op with
  | .fma => [(p.a, p.n), (p.b, p.n), (p.c, p.n)]
  | .scale => [(p.a, p.n), (p.b, 1)]
  | _ => [(p.a, p.n), (p.b, p.n)]

/-- ELEMWISE. -/
def Work.elemwise (w : Work) (c : Nat) (p : ElemPar) (b : List Byte) : Work :=
  w.kernelPar c b 32 32 (fun _ => w.kernelAligned c (tensorAddrs (p.dst :: (elemIns p).map (·.1)))
    (w.tensorsIn c (elemIns p) (fun ts v =>
      let a := ts.getD 0 []
      let b := ts.getD 1 []
      let d := ts.getD 2 []
      v.tensorsOut c [(p.dst, (List.range p.n).map (fun i => elemOp p.op (wAt a i) (wAt b i) (wAt d i) (wAt b 0)))])))

/-- FP32 of a natural number. -/
def fnat (n : Nat) : Word := (FV.fin false n 0).toF32

/-- 1/rms of a row: the mean of squares summed in one lane, plus ε, by the reciprocal square root algorithm (R204). -/
def rowRrms (xs : List Word) (eps : Word) : Word :=
  frsqrt (fadd (fdiv (xs.foldl (fun s x => ffma x x s) 0) (fnat xs.length)) eps)

/-- ROWNORM: y = g × x × r, r = 1/rms, for each row (Table 5-7). -/
def Work.rownorm (w : Work) (c : Nat) (p : RowPar) (b : List Byte) : Work :=
  w.kernelPar c b 32 32 (fun _ => w.kernelAligned c (tensorAddrs [p.src, p.gain, p.dst, p.rrms])
    (w.tensorsIn c [(p.src, p.rows * p.width), (p.gain, p.width)] (fun ts v =>
      let x := ts.getD 0 []
      let g := ts.getD 1 []
      let rows := (List.range p.rows).map (fun i => (List.range p.width).map (fun j => wAt x (p.width * i + j)))
      let rs := rows.map (fun r => rowRrms r p.eps)
      let out := (rows.zip rs).flatMap (fun q => (q.1.zipIdx).map (fun e => fmul (fmul (wAt g e.2) e.1) q.2))
      v.tensorsOut c [(p.dst, out), (p.rrms, rs)])))

/-- The oldest tile of an array in the vector unit's input queue (R205). -/
def Work.firstTile (w : Work) (c a : Nat) : Option VecTile := ((w.dig c).queue.find? (fun q => q.1 == a)).map (·.2)

/-- The oldest tile of an array leaves the queue. -/
def Work.dropTile (w : Work) (c a : Nat) : Work :=
  let d := w.dig c
  match d.queue.find? (fun q => q.1 == a) with
  | some q => w.setDig c { d with queue := d.queue.erase q }
  | none => w

/-- log₂ e, by which exp2 gives the exponential. -/
def log2e : Word := 0x3FB8AA3B

/-- One row of SOFTMAX: probabilities, maximum and sum (R204). -/
def softRow (scale : Word) (s mask : List Word) : List Word × Word × Word :=
  let t := (s.zipIdx).map (fun q => fadd (fmul scale q.1) (wAt mask q.2))
  let m := t.foldl fmax 0xFF800000
  let e := t.map (fun v => fexp2 (fmul (fsub v m) log2e))
  let sum := e.foldl fadd 0
  (e.map (fun v => fdiv v sum), m, sum)

/-- The rows of SOFTMAX: row i of each tile taken, one after another (R206, Table 5-12). -/
def softRows (m n tiles : Nat) (ws : List Word) : List (List Word) :=
  (List.range m).map (fun i => (List.range tiles).flatMap (fun q => (List.range n).map (fun j => wAt ws (m * n * q + n * i + j))))

/-- SOFTMAX of the score tiles taken: every row's probabilities, maximum and sum. -/
def Work.softmaxOut (w : Work) (c : Nat) (p : SoftPar) (m n : Nat) (ws : List Word) : Work :=
  let len := n * p.order.length
  w.tensorsIn c [(p.mask, m * len)] (fun ts v =>
    let mask := ts.getD 0 []
    let rows := ((softRows m n p.order.length ws).zipIdx).map (fun q =>
      softRow p.scale q.1 ((List.range len).map (fun j => wAt mask (len * q.2 + j))))
    (v.setDig c { v.dig c with kern := none }).tensorsOut c
      [(p.dst, rows.flatMap (·.1)), (p.rmax, rows.map (·.2.1)), (p.rsum, rows.map (·.2.2))])

/-- SOFTMAX takes its next score tile, from the array that its parameters name next; with the last one it writes its outputs
(Table 5-7). A kernel that finds no tile waits; a tile of another size than the first faults the context with cause 4 (log 11). -/
def Work.softmax (w : Work) (c : Nat) (p : SoftPar) (b : List Byte) : Work :=
  w.kernelPar c b 32 32 (fun _ => w.kernelAligned c (tensorAddrs [p.mask, p.dst, p.rmax, p.rsum])
    (let k := ((w.dig c).kern).getD (0, [])
     match (p.order[k.1]?).bind (fun a => (w.firstTile c a.val).map (fun t => (a, t))) with
     | none => w
     | some (a, t) =>
       let mn := shapeMN t.shape t.split
       if t.poison && !w.draining c 16 then w.ctxFault c 16 0 0
       else if k.2.length ≠ k.1 * mn.1 * mn.2 && !w.draining c 16 then w.badInstr c 16 4
       else
         let w := w.dropTile c a.val
         let ws := k.2 ++ t.words
         if k.1 + 1 < p.order.length then w.setDig c { w.dig c with kern := some (k.1 + 1, ws) }
         else w.softmaxOut c p mn.1 mn.2 ws))

/-! ### ROWNORM_BWD and SOFTMAX_BWD (R271) -/

/-- The 32 rows of a column block of saved rows, as FP32, with poison; none where an address leaves its memory. -/
def Work.bandBlock (w : Work) (c : Nat) (o : Opd) (base band cb : Nat) : Option (List (List Word) × Bool × Work) :=
  (List.range 32).foldlM (fun (acc : List (List Word) × Bool × Work) i =>
    let p := o.place base (32 * band + i) cb
    match acc.2.2.kseg c o.fmt p.1 p.2 with
    | some (s, v) => some (acc.1 ++ [s.vals.map FV.toF32], acc.2.1 || s.poison, v)
    | none => none) ([], false, w)

/-- The fields that both backward kernels share (Table 7-8). -/
structure BwdPar where
  rows : Nat
  width : Nat
  flags : Nat
  fmt : Nat
  opd : Nat
  scratch : Nat
  x : Nat
  aux : Nat
  gain : Nat
  dgain : Nat
  dst : Nat
  res : Nat
  deriving DecidableEq, Repr

/-- The fields of a backward parameter block; `aux` is RRMS, or TAU in its low half. -/
def bwdOf (p : List Byte) : BwdPar :=
  { rows := leAt p 0 4, width := leAt p 4 2, flags := leAt p 6 1, fmt := leAt p 7 1, opd := leAt p 8 4, scratch := leAt p 12 4,
    x := leAt p 16 8, aux := leAt p 24 8, gain := leAt p 32 8, dgain := leAt p 40 8, dst := leAt p 48 8, res := leAt p 56 8 }

/-- The rules of Table 7-8. -/
def BwdPar.ok (p : BwdPar) (c : Nat) (norm : Bool) : Bool :=
  0 < p.rows && p.rows % 32 == 0 && 1 ≤ p.width && p.width ≤ 4096 && p.flags < (if norm then 4 else 1) && p.fmt < 2 &&
    localOk p.scratch (4096 * p.width) && (localAddr c p.scratch).isSome &&
    (norm || (p.aux < 2 ^ 32 && p.gain == 0 && p.dgain == 0 && p.res == 0))

/-- The addresses of a backward kernel, which are aligned (Table 5-11, check 5). -/
def BwdPar.aligned (p : BwdPar) (norm : Bool) : Bool :=
  p.opd % 32 == 0 && p.scratch % 32 == 0 && kaligned p.x && kaligned p.dst &&
    (!norm || (kaligned p.aux && kaligned p.gain && kaligned p.dgain && (!p.flags.testBit 0 || kaligned p.res)))

/-- The operand descriptor of saved rows: SEGMENT layout. -/
def Work.bwdOpd (w : Work) (c : Nat) (p : BwdPar) : Option Opd :=
  match w.localGet c p.opd 32 with
  | some (d, _) => if opdOk d 32 && !(leAt d 0 1).testBit 4 then some (opdOf d) else none
  | none => none

/-- A backward kernel's output element in OUT_FMT. -/
def outElem (fmt : Nat) (v : Word) : List Byte := if fmt = 0 then toLE 4 v.toNat else toLE 2 (narrowPlain 1 (f32 v) none).1

/-- Groups of output elements that saturate in OUT_FMT BF16 (R225). -/
def BwdPar.sats (p : BwdPar) (ws : List Word) : Nat := if p.fmt = 0 then 0 else satGroups 1 ws

/-- Bytes of a row of output. -/
def BwdPar.rowBytes (p : BwdPar) : Nat := 32 * p.width * (if p.fmt = 0 then 4 else 2)

/-- The ranges of a band's output rows with zero bytes, as poisoned output takes them. -/
def BwdPar.bandRows (p : BwdPar) (band : Nat) : List (Nat × List Byte) :=
  (List.range 32).map (fun i => (p.dst + (32 * band + i) * p.rowBytes, zeros p.rowBytes))

/-- A tile is taken: the kernel's progress; the kernel retires after its last tile. -/
def Work.tileTaken (w : Work) (c : Nat) (p : BwdPar) (a q : Nat) (acc : List Word) : Work :=
  let w := w.dropTile c a
  if q + 1 = p.width * (p.rows / 32) then (w.setDig c { w.dig c with kern := none }).retireInstr c 16
  else w.setDig c { w.dig c with kern := some (q + 1, if (q + 1) % p.width = 0 then List.replicate 32 0 else acc) }

/-- The words of a FP32 row range by a kernel address; none where it leaves its memory. -/
def Work.kwords (w : Work) (c a n : Nat) : Option (List Word × Bool × Work) :=
  (w.kget c a (4 * n)).map (fun r => (wordsOf r.1, r.2.1, r.2.2))

/-- First pass of ROWNORM_BWD on a tile: t, the rows' sums a, and the gain gradient (R271). -/
def normTile (dy : List Word) (x : List (List Word)) (g r acc dg : List Word) : List Word × List Word × List Word :=
  let t := (List.range 1024).map (fun q => fmul (wAt g (q % 32)) (wAt dy q))
  let acc' := (List.range 32).map (fun i =>
    (List.range 32).foldl (fun a j => fadd a (fmul (wAt t (32 * i + j)) (wAt (x.getD i []) j))) (wAt acc i))
  let dg' := (List.range 32).map (fun j =>
    (List.range 32).foldl (fun d i => fadd d (fmul (fmul (wAt dy (32 * i + j)) (wAt (x.getD i []) j)) (wAt r i))) (wAt dg j))
  (t, acc', dg')

/-- Second pass of ROWNORM_BWD on one element. -/
def normOut (r t x c : Word) (res : Option Word) : Word :=
  let d := fsub (fmul r t) (fmul x c)
  match res with | some v => fadd d v | none => d

/-- The second pass of a band, block by block: the words of each block in order; none on a bad address, with poison. -/
def Work.bandPass (w : Work) (c : Nat) (o : Opd) (p : BwdPar) (band : Nat) (f : Nat → Nat → Word → Word → Option Word → Word)
    (res : Bool) : Option (List (Nat × List Byte) × List Word × Bool × Work) :=
  (List.range p.width).foldlM (fun (acc : List (Nat × List Byte) × List Word × Bool × Work) cb =>
    let w := acc.2.2.2
    match w.bandBlock c o p.x band cb, w.localGet c (p.scratch + 4096 * cb) 4096 with
    | some (xs, px, v), some (tb, pt) =>
      let t := wordsOf tb
      let rs : Option (List (List Byte) × Bool × Work) :=
        if res then kgets c ((List.range 32).map (fun i => (p.res + 4 * ((32 * band + i) * 32 * p.width + 32 * cb), 128))) v
        else some ([], false, v)
      match rs with
      | none => none
      | some (rb, pr, v) =>
        let ws := (List.range 32).map (fun i => (List.range 32).map (fun j =>
          f i j (wAt t (32 * i + j)) (wAt (xs.getD i []) j) (if res then some (BitVec.ofNat 32 (leAt (rb.getD i []) (4 * j) 4)) else none)))
        some (acc.1 ++ (ws.zipIdx).map (fun q =>
                (p.dst + (32 * band + q.2) * p.rowBytes + cb * 32 * (if p.fmt = 0 then 4 else 2), q.1.flatMap (outElem p.fmt))),
              acc.2.1 ++ ws.flatten, acc.2.2.1 || px || pt || pr, v)
    | _, _ => none) ([], [], false, w)

/-- The first tile in arrival order, with its array. -/
def Work.nextTile (w : Work) (c : Nat) : Option (Nat × VecTile) := (w.dig c).queue.head?

/-- The ranges that a backward kernel reads and writes with its tile q: with the last of a band all of the band's. -/
def BwdPar.touches (p : BwdPar) (o : Opd) (norm : Bool) (q : Nat) : List (Nat × Nat) :=
  let band := q / p.width
  let last := q % p.width + 1 == p.width
  let rows := (List.range 32).map (32 * band + ·)
  (if last then List.range p.width else [q % p.width]).flatMap (fun cb =>
    rows.flatMap (fun i => let s := o.place p.x i cb
      (s.1, segBytes o.fmt) :: (match s.2 with | some a => if scaled o.fmt then [(a, 1)] else [] | none => [])) ++
    (if norm then [(p.gain + 128 * cb, 128), (p.dgain + 128 * cb, 128)] else [])) ++
  (if norm then [(p.aux + 128 * band, 128)] else []) ++
  (if last then rows.flatMap (fun i => (p.dst + i * p.rowBytes, p.rowBytes) ::
    (if norm && p.flags.testBit 0 then [(p.res + 128 * i * p.width, 128 * p.width)] else [])) else [])

/-- A backward kernel takes its next tile, or waits while a stack that it touches zeroises (R326); the drained kernel writes poisoned rows at the end of each band. -/
def Work.bwdTile (w : Work) (c : Nat) (b : List Byte) (norm : Bool)
    (f : BwdPar → Opd → Nat → Nat → List Word → List Word → Work → Work) : Work :=
  w.kernelPar c b 64 32 (fun pb =>
    let p := bwdOf pb
    match w.bwdOpd c p, p.ok c norm with
    | some o, true =>
      if !p.aligned norm then w.badInstr c 16 5 else match w.nextTile c with
      | none => w
      | some (a, t) =>
        let k := ((w.dig c).kern).getD (0, List.replicate 32 0)
        if !w.kserves c (p.touches o norm k.1) then w
        else if w.draining c 16 then
          let v := if (k.1 + 1) % p.width = 0 then
              match kputs c (p.bandRows (k.1 / p.width)) with
              | some qs => let r := w.poisonRows (qs.map (fun q => (q.1, q.2.length)))
                           r.1.foldl (fun (u : Work) q => u.putAt q) r.2
              | none => w
            else w
          v.tileTaken c p a k.1 k.2
        else if t.poison then w.ctxFault c 16 0 0
        else if t.shape ≠ 0 || t.split then w.badInstr c 16 4
        else f p o a k.1 k.2 t.words w
    | _, _ => (w.setDig c { w.dig c with kern := none }).badInstr c 16 4)

/-- Writes by kernel addresses that take effect at once; none where one leaves its memory. -/
def Work.kwrite (w : Work) (c : Nat) (ps : List (Nat × List Byte)) : Option Work :=
  (kputs c ps).map (fun qs => qs.foldl (fun (v : Work) q => v.putAt (q.1, q.2, false)) w)

/-- ROWNORM_BWD on one tile, and on the band's last tile its second pass (R271). -/
def Work.rownormBwdTile (c : Nat) (p : BwdPar) (o : Opd) (a q : Nat) (acc dy : List Word) (w : Work) : Work :=
  let band := q / p.width
  let cb := q % p.width
  match w.bandBlock c o p.x band cb, kgets c [(p.aux + 128 * band, 128), (p.gain + 128 * cb, 128), (p.dgain + 128 * cb, 128)] w with
  | some (xs, px, _), some (bs, pb, v) =>
    if px || pb then v.ctxFault c 16 0 0
    else
      let r := wordsOf (bs.getD 0 [])
      let dg := if p.flags.testBit 1 && band = 0 then List.replicate 32 0 else wordsOf (bs.getD 2 [])
      let z := normTile dy xs (wordsOf (bs.getD 1 [])) r acc dg
      match (v.localPut c (p.scratch + 4096 * cb) (wordsLE z.1) false).kwrite c [(p.dgain + 128 * cb, wordsLE z.2.2)] with
      | none => v.badInstr c 16 5
      | some v =>
        if cb + 1 = p.width then
          let n := fnat (32 * p.width)
          let cs := (List.range 32).map (fun i => fdiv (fmul (fmul (fmul (wAt z.2.1 i) (wAt r i)) (wAt r i)) (wAt r i)) n)
          match v.bandPass c o p band (fun i _ t x res => normOut (wAt r i) t x (wAt cs i) res) (p.flags.testBit 0) with
          | none => v.badInstr c 16 5
          | some (ps, ws, poison, v) =>
            if poison then v.ctxFault c 16 0 0
            else match v.kwrite c ps with
              | none => v.badInstr c 16 5
              | some v => ((v.countNonfin c ws).incBy (SAT_BLK_CNT c) (p.sats ws)).tileTaken c p a q z.2.1
        else v.tileTaken c p a q z.2.1
  | _, _ => w.badInstr c 16 5

/-- SOFTMAX_BWD on one tile, and on the band's last tile its second pass (R271). -/
def Work.softmaxBwdTile (c : Nat) (p : BwdPar) (o : Opd) (a q : Nat) (acc dp : List Word) (w : Work) : Work :=
  let band := q / p.width
  let cb := q % p.width
  let tau := BitVec.ofNat 32 p.aux
  match w.bandBlock c o p.x band cb with
  | none => w.badInstr c 16 5
  | some (ps, poison, v) =>
    if poison then v.ctxFault c 16 0 0
    else
      let e := (List.range 32).map (fun i =>
        (List.range 32).foldl (fun s j => fadd s (fmul (wAt dp (32 * i + j)) (wAt (ps.getD i []) j))) (wAt acc i))
      let v := v.localPut c (p.scratch + 4096 * cb) (wordsLE dp) false
      if cb + 1 = p.width then
        match v.bandPass c o p band (fun i _ t x _ => fmul tau (fmul x (fsub t (wAt e i)))) false with
        | none => v.badInstr c 16 5
        | some (qs, ws, bad, v) =>
          if bad then v.ctxFault c 16 0 0
          else match v.kwrite c qs with
            | none => v.badInstr c 16 5
            | some v => ((v.countNonfin c ws).incBy (SAT_BLK_CNT c) (p.sats ws)).tileTaken c p a q e
      else v.tileTaken c p a q e

/-! ### NARROW (R246) -/

/-- The fields of a NARROW parameter block (Table 6-7). -/
structure NarrowPar where
  fmt : Nat
  sr : Bool
  bf16 : Bool
  block : Bool
  trans : Bool
  entry : Nat
  rows : Nat
  cols : Nat
  src : Nat
  pitch : Nat
  dst : Nat
  dpitch : Nat
  dkstride : Nat
  scl : Nat
  spitch : Nat
  deriving DecidableEq, Repr

/-- The fields of a block's bytes. -/
def narrowOf (p : List Byte) : NarrowPar :=
  let f := leAt p 0 1
  { fmt := f % 16, sr := f.testBit 4, bf16 := f.testBit 5, block := f.testBit 6, trans := f.testBit 7, entry := leAt p 2 2,
    rows := leAt p 4 2, cols := leAt p 6 2, src := leAt p 8 8, pitch := leAt p 16 8, dst := leAt p 24 8,
    dpitch := leAt p 32 8, dkstride := leAt p 40 8, scl := leAt p 48 8, spitch := leAt p 56 8 }

/-- The rules of Table 6-7. -/
def narrowOk (b : List Byte) (p : NarrowPar) : Bool :=
  1 ≤ p.fmt && p.fmt ≤ 10 && leAt b 1 1 == 0 && 1 ≤ p.rows && (!p.block || p.rows % 32 == 0) && 1 ≤ p.cols && p.cols ≤ 4096 &&
    (p.block || !p.trans) && (p.block || p.dkstride == 0)

/-- The source ranges of NARROW, one per row. -/
def NarrowPar.ins (p : NarrowPar) : List (Nat × Nat) :=
  (List.range p.rows).map (fun i => (p.src + i * p.pitch, 32 * p.cols * (if p.bf16 then 2 else 4)))

/-- A source element. -/
def NarrowPar.elem (p : NarrowPar) (rows : List (List Byte)) (i j : Nat) : FV :=
  if p.bf16 then decodeElem 1 (leAt (rows.getD i []) (2 * j) 2) else decodeElem 0 (leAt (rows.getD i []) (4 * j) 4)

/-- The blocks in order: where the elements come from, the segment's place and its scale's (R246). -/
def NarrowPar.blocks (p : NarrowPar) : List ((Nat → Nat × Nat) × Nat × Nat) :=
  let sb := segBytes p.fmt
  if p.block then
    let us := if p.trans then p.cols else p.rows / 32
    let ks := if p.trans then p.rows / 32 else p.cols
    (List.range (us * ks * 32)).map (fun q =>
      let u := q / 32 / ks
      let kb := q / 32 % ks
      let r := q % 32
      let blk := p.dst + u * p.dpitch + kb * p.dkstride
      ((fun x => if p.trans then (32 * kb + x, 32 * u + r) else (32 * u + r, 32 * kb + x)), blk + r * sb, blk + 32 * sb + r))
  else
    (List.range (p.rows * p.cols)).map (fun q =>
      let i := q / p.cols
      let s := q % p.cols
      ((fun x => (i, 32 * s + x)), p.dst + i * p.dpitch + s * sb, p.scl + i * p.spitch + s))

/-- Every block narrowed. -/
def NarrowPar.go (p : NarrowPar) (seq : Nat) (rows : List (List Byte)) (e : Est) : NarrowRun :=
  p.blocks.foldl (fun (r : NarrowRun) b =>
    let vs := (List.range 32).map (fun x => p.elem rows (b.1 x).1 (b.1 x).2)
    if scaled p.fmt then r.block p.fmt p.sr seq b.2.1 b.2.2 vs else r.plain p.fmt p.sr seq b.2.1 vs) { est := e }

/-- Source elements that are infinite or NaN, which the output keeps (R187). -/
def NarrowPar.nonfin (p : NarrowPar) (rows : List (List Byte)) : Nat :=
  (p.blocks.map (fun b => ((List.range 32).filter (fun x => !(p.elem rows (b.1 x).1 (b.1 x).2).finite)).length)).sum

/-- NARROW. -/
def Work.narrowKernel (w : Work) (c : Nat) (b : List Byte) : Work :=
  w.kernelPar c b 64 32 (fun pb =>
    let p := narrowOf pb
    let named := if namesEntry p.fmt p.sr && !w.draining c 16 then w.nameEntry c 16 p.entry p.sr else (0, w)
    if leAt b 8 4 % 64 ≠ 0 || !narrowOk pb p then w.badInstr c 16 4
    else if !([p.src, p.dst].all kaligned && (p.block || !scaled p.fmt || kaligned p.scl)) then w.badInstr c 16 5
    else if named.1 ≠ 0 then named.2.badInstr c 16 named.1
    else named.2.kernelIn c p.ins (fun rows v =>
      let e := if namesEntry p.fmt p.sr then v.loadEst (v.estAt c p.entry) else Est.none
      let r := p.go (v.rd (GEN_SEQ c)) rows e
      v.kernelOut c false [r.puts] (fun u =>
        (u.narrowed c (if namesEntry p.fmt p.sr then some p.entry else none) r).incBy (VEC_NONFINITE_CNT c) (p.nonfin rows))))

/-! ### OPT2M (R207) -/

/-- The scalars of Table 5-8: LR, B1, K1, B2, K2, C1, C2, EPS, WD. -/
structure OptPar where
  lr : Word
  b1 : Word
  k1 : Word
  b2 : Word
  k2 : Word
  c1 : Word
  c2 : Word
  eps : Word
  wd : Word
  deriving DecidableEq, Repr

/-- One weight's update: master, moments, residual (R207). -/
def optStep (o : OptPar) (g w m1 m2 s : Word) (level : Int) : Word × Word × Word × Word :=
  let m1 := fadd (fmul o.b1 m1) (fmul o.k1 g)
  let m2 := fadd (fmul o.b2 m2) (fmul o.k2 (fmul g g))
  let u := fdiv (fmul m1 o.c1) (fadd (fsqrt (fmul m2 o.c2)) o.eps)
  let u := fadd u (fmul o.wd w)
  let w := fsub w (fmul o.lr u)
  let l := FV.fin (decide (level < 0)) level.natAbs 0
  (w, m1, m2, ((f32 w).add (l.mul (f32 s)).negate).toF32)

/-- OPT2M. -/
def Work.opt2m (w : Work) (c : Nat) (b : List Byte) : Work :=
  w.kernelPar c b 128 32 (fun p =>
    let n := leAt p 0 4
    let rec_ := leAt p 104 8
    let at_ := fun (off : Nat) => leAt p off 8
    let f := fun (i : Nat) => BitVec.ofNat 32 (leAt p (64 + 4 * i) 4)
    let o : OptPar := ⟨f 0, f 1, f 2, f 3, f 4, f 5, f 6, f 7, f 8⟩
    if n = 0 || 1024 < n || 2 ≤ leAt p 4 4 || !allZero (sub p 112 16) then w.badInstr c 16 4
    else if (rec_ ≠ 0 && (rec_ % 64 ≠ 0 || !inHbm rec_ 64)) || !([8, 16, 24, 32, 40, 48, 56].all (fun i => kaligned (at_ i))) then
      w.badInstr c 16 5
    else
      let is := List.range n
      let rows := fun (off len : Nat) => is.map (fun i => (at_ off + len * i, len))
      w.kernelIn c (rows 40 4096 ++ rows 8 4096 ++ rows 16 4096 ++ rows 24 4096 ++ rows 48 1024 ++ [(at_ 56, 128)]) (fun bs v =>
        let row := fun (k i : Nat) => wordsOf (bs.getD (k * n + i) [])
        let scl := wordsOf (bs.getD (5 * n) [])
        let out := is.map (fun i =>
          let g := row 0 i
          let m := row 1 i
          let m1 := row 2 i
          let m2 := row 3 i
          let lv := bs.getD (4 * n + i) []
          (List.range 1024).map (fun j => optStep o (wAt g j) (wAt m j) (wAt m1 j) (wAt m2 j) (wAt scl (j / 32)) (sext 8 (leAt lv j 1))))
        let put := fun (off : Nat) (f : Word × Word × Word × Word → Word) =>
          (out.zipIdx).map (fun q => (at_ off + 4096 * q.2, wordsLE (q.1.map f)))
        v.kernelOut c ((leAt p 4 4).testBit 0)
          ([put 8 (·.1), put 16 (·.2.1), put 24 (·.2.2.1), put 32 (·.2.2.2)] ++ if rec_ = 0 then [] else [[(rec_, sub p 100 4)]])
          (fun u => u.countNonfin c (out.flatMap (fun r => r.flatMap (fun e => [e.1, e.2.1, e.2.2.1, e.2.2.2]))))))

/-! ### The commands -/

/-- ELEMWISE (R206). -/
def execElemwise (core : Fin 1024) (par : ElemPar) (s : State) : Ans :=
  s.run (fun _ w => w.issueVk core.val 1 (fun b => w.elemwise core.val par b))

/-- ROWNORM (R206). -/
def execRownorm (core : Fin 1024) (par : RowPar) (s : State) : Ans :=
  s.run (fun _ w => w.issueVk core.val 2 (fun b => w.rownorm core.val par b))

/-- ROWNORM_BWD takes its next tile (R271). -/
def execRownormBwd (core : Fin 1024) (s : State) : Ans :=
  s.run (fun _ w => w.issueVk core.val 3 (fun b => w.bwdTile core.val b true (Work.rownormBwdTile core.val)))

/-- SOFTMAX takes a score tile (R206). -/
def execSoftmax (core : Fin 1024) (par : SoftPar) (s : State) : Ans :=
  s.run (fun _ w => w.issueVk core.val 4 (fun b => w.softmax core.val par b))

/-- SOFTMAX_BWD takes its next tile (R271). -/
def execSoftmaxBwd (core : Fin 1024) (s : State) : Ans :=
  s.run (fun _ w => w.issueVk core.val 5 (fun b => w.bwdTile core.val b false (Work.softmaxBwdTile core.val)))

/-- NARROW (R246). -/
def execNarrow (core : Fin 1024) (s : State) : Ans :=
  s.run (fun _ w => w.issueVk core.val 6 (fun b => w.narrowKernel core.val b))

/-- OPT2M (R207). -/
def execOpt2m (core : Fin 1024) (s : State) : Ans :=
  s.run (fun _ w => w.issueVk core.val 7 (fun b => w.opt2m core.val b))

/-- DEFERRED_STORE_RESUME: a deferred store that waited for the log goes on (R214). -/
def execDeferredStoreResume (core : Fin 1024) (ctx : Fin 17) (s : State) : Ans :=
  s.run (fun _ w =>
    let c := core.val
    let x := ctx.val
    if !(w.ctx c x).stalled then w
    else
      let v := w.setCtx c x { w.ctx c x with stalled := false }
      match v.nextInstr c x with
      | .instr b =>
        let u :=
          if leAt b 0 1 = 6 then v.storeInstr c x b
          else if leAt b 0 1 = 4 ∧ !(leAt b 1 1).testBit 4 then v.accOut c x false b
          else if leAt b 0 1 = 16 ∧ leAt b 4 1 = 7 then v.opt2m c b
          else w
        if (u.ctx c x).stalled then w else u
      | _ => w)

end Sys2Proof.Machine
end

