-- ==== Sys2Proof/Machine/Stroke.lean ====
section
/-! DEFINITION. Machine/Stroke.lean: beat edges, markers, lock and its loss; the catch and the finish; READY (R13 to R34, R41,
R42, R47 to R57, R561). -/

namespace Sys2Proof.Machine

/-! ### The beat's source and numbers -/

/-- The beat source in force (R14, R15). -/
def Work.beatSrc (w : Work) : Nat :=
  match w.fld BEAT_CTL 0 2 with | 3 => 0 | 2 => if w.flag SEC_STATUS 15 then 2 else 0 | n => n

/-- The device numbers beats itself: internal source, or a manager (R14, R23, Table 1-1). -/
def Work.ownNumbers (w : Work) (b : Board) : Bool := w.beatSrc == 2 || b.role == 2 || w.acting

/-- The beat counter and epoch bound to a full beat time. -/
def Work.setBeat (w : Work) (t : Nat) : Work :=
  (w.wr BEAT_COUNT_LO (t % 2 ^ 32)).wr BEAT_COUNT_HI (t / 2 ^ 32 % 2 ^ 8 + 2 ^ 8 * (t / 2 ^ 40 % 2 ^ 24))

/-- EDGE_ERR and FLYWHEEL (Table 1-15). -/
def Work.edgeErr (w : Work) : Work := w.incFld BEAT_ERR_CNT 0 16 1
def Work.flewOne (w : Work) : Work := { w.incFld BEAT_ERR_CNT 16 16 1 with beat := { w.beat with fly := w.beat.fly + 1 } }

/-- START_STEP moves on (Table 15-10); 9 stays. -/
def Work.startStep (w : Work) (n : Nat) : Work := w.setFld GLB_STATUS 16 4 (max n (w.fld GLB_STATUS 16 4))

/-- Beat lock at a full beat time (R22, R23). -/
def Work.lockAtBeat (w : Work) (t : Nat) : Work :=
  let w := (((w.setBeat t).setBit BEAT_STATUS 0).startStep 8).aimLocal
  let f := w.fault
  { w with
    beat := { w.beat with fly := 0, mismatch := false, sinceMarker := 0 }
    lockAt := some (w.lockAt.getD t)
    fault := { f with chipFrom := none, chipLock := if f.chipFrom.isSome then some t else f.chipLock } }

/-- An edge lies within ±5 % of one period after the edge before it (R22, R24). -/
def Work.edgeGood (w : Work) (after : Nat) : Bool := 20 * (after - w.period) + 20 * (w.period - after) ≤ w.period

/-- One edge extends or begins the run before lock (R22). -/
def Work.runOn (w : Work) (after : Nat) : Work :=
  let b := w.beat
  { w with beat := { b with run := if b.lastEdge.isSome && w.edgeGood after then b.run + 1 else 1, lastEdge := some w.now,
                            sinceMarker := b.sinceMarker + 1 } }

/-- FLYWHEEL_MAX, 0 taken as 1 (Table 1-11). -/
def Work.flyMax (w : Work) : Nat := orDefault (w.fld BEAT_CTL 22 10) 1

/-! ### READY (R49, R55, R402) -/

/-- The READY body (Table 11-6). -/
def Work.readyBody (w : Work) (crew : Nat) : List Byte :=
  toBE 2 crew ++ toBE 1 ((if w.mgr.markerLate then 1 else 0) + (if w.red.scaleLate then 2 else 0)) ++ zeros 1 ++
    toBE 8 w.stroke.catchAt ++ toBE 4 w.stroke.slip ++ toBE 4 w.stroke.overrun ++ toBE 2 w.stroke.stretch ++ zeros 2 ++
    toBE 4 (w.rd STEP_CUR) ++ zeros 4

/-- READY for a crew to the manager and its deputy (R49, R401). -/
def Work.sendReady (w : Work) (crew : Nat) : Work :=
  let w := w.mgrNodes.dedup.foldl (fun (v : Work) n => if n = v.node then v else v.send (v.mkPkt 5 n 0 crew 1 0 (v.readyBody crew))) w
  { w with mgr := { w.mgr with markerLate := false }, red := { w.red with scaleLate := false } }

/-- Every cox is in READY_WAIT, or IDLE; one at least waits (R49). -/
def Work.allReady (w : Work) : Bool :=
  w.coxes.all (fun p => w.coxState p.1 == 4 || w.coxState p.1 == 0) && w.coxes.any (fun p => w.coxState p.1 == 4)

/-- Nothing of R49, R137, R257, R264 or R445 holds READY. -/
def Work.readyDue (w : Work) : Bool :=
  w.locked && w.stroke.active && w.stroke.readyAt.isNone && w.allReady && w.prepDone && !w.undoLeft && w.fault.notReady.isEmpty

/-- READY falls due at the first beat edge at which nothing holds it (R49). -/
def Work.readyEdge (w : Work) : Work :=
  { w with stroke := { w.stroke with readyFrom := if w.readyDue then some (w.stroke.readyFrom.getD w.beatFull) else none } }

/-! ### The finish (R42, R51, R53, R56) -/

/-- The abort of a crew comes at or before now, or was decided here: no finish (R457, R458). -/
def Work.abortWins (w : Work) (crew : Nat) : Bool :=
  w.fault.decided.contains crew || match Sp.find w.fault.aborts crew with | some a => !beatBefore w.beatFull a | none => false

/-- An abort wins over the finish of a program's stroke crew; without a manager the device is one crew (R48, R457, R458). -/
def Work.abortStops (w : Work) (p : Prog) : Bool :=
  if w.noManager then w.runningCrews.any w.abortWins else w.abortWins p.crew

/-- The nominal finish N of the device's stroke for a program (R40). -/
def Work.nominal (w : Work) (p : Prog) : Nat := beatAdd w.stroke.catchAt (p.len - 1)

/-- This edge is the finish of a crew (R51, R56). -/
def Work.finishDue (w : Work) (p : Prog) : Bool :=
  !w.abortStops p &&
    (if w.noManager then
       match w.stroke.readyAt with
       | some r => beatBefore r w.beatFull && !beatBefore w.beatFull (w.nominal p)
       | none => false
     else Sp.find w.beat.fin p.crew == some w.beatCnt)

/-- A core's deferred records and estimators at a finish; a poisoned commit is a lasting fault (R212, R213, R232). -/
def Work.coreFinish (w : Work) (c : Nat) : Work :=
  let r := w.applyLog c
  let w := r.1.foldl (fun (v : Work) s =>
    v.lasting { cls := 2, unit := c, detail := s } (some 6) (v.crewsFor 0 (v.coreCrew c))) r.2
  w.updateEsts c

/-- Registers whose write takes effect at a finish (R146): PGM_LIMIT and the wear limits. -/
def finishForced (a : Nat) : Bool :=
  match locate a with
  | some (.tile, _, o) => [PGM_LIMIT 0 0, WEAR_LIM_RESET 0 0, WEAR_LIM_SET 0 0].contains (tileBase 0 0 + o)
  | _ => false

/-- Held register writes take effect: those of a finish, or those of a catch (R107, R146, R433); the beat period's has an edge of its
own (R21). -/
def Work.force_ (w : Work) (finish : Bool) : Work :=
  { w with force := w.force.filter (fun p => p.1 == BEAT_PERIOD || finishForced p.1 != finish) }

/-- The stretch of a stroke (R53): one above 65,535, which only a device without a manager can reach, is held at 65,535 in LAST_STRETCH
and in READY, whose fields have 16 bits (DESIGN CHOICE, log 108). -/
def Work.stretchBy (w : Work) (n : Nat) : Work :=
  let w := { w with stroke := { w.stroke with stretch := min n 65535 } }
  if n = 0 then w else (((w.inc STRETCH_CNT).incBy STRETCH_BEATS n).wr LAST_STRETCH (min n 65535))

/-- The ordering finish of a checkpoint (R254, R307, R405, R410): region counts clear, physical records go to the manager, the state
record falls due. -/
def Work.ckptFinish (w : Work) : Work :=
  match w.mgr.ckptOrder with
  | none => w
  | some (k, f) =>
    if beatBefore w.beatFull f || !w.lastStroke then w
    else
      let memcs := w.memcs.map (fun (m : Nat × Memc) => (m.1, { m.2 with counts := [] }))
      let w := { w with mgr := { w.mgr with ckptOrder := none, ckptNow := some (k, w.beatFull), recordDue := true }, memcs := memcs }
      let w := w.reportDecks
      (List.range 12).foldl (fun (v : Work) m =>
        v.when (!(v.memc m).retired.isEmpty || v.erasure m) (fun u => u.report 2 0 (u.stackRecord m))) w

/-- Retirements commit at a finish; new deck records go to the manager (R147, R149). -/
def Work.retireAll (w : Work) : Work :=
  let r := w.tiles.foldl (fun (a : Bool × Work) t => let q := a.2.retireFinish (t.1 / 16) (t.1 % 16); (a.1 || q.1, q.2)) (false, w)
  r.2.when r.1 (·.reportDecks)

/-- The finish of the cores of a crew (R42, Table 1-8). -/
def Work.finishCrew (w : Work) (p : Prog) : Work :=
  let cores := (w.crewCores p.crew).filter (fun c => w.coxState c == 4)
  let n := beatsAhead (w.nominal p) w.beatFull
  let w := cores.foldl (fun (v : Work) c => v.coreFinish c) w
  let w := (((w.commitPoint.finishBuckets p.crew w.beatFull).stepFinish).ckptFinish).resetStash
  let w := ((w.force_ true).retireAll).stretchBy n
  let w := cores.foldl (fun (v : Work) c => (v.setFld (COX_STATUS c) 4 17 (v.coxOffset c + 1)).setCoxState c 5) w
  { w with stroke := { w.stroke with active := false, readyFrom := none, readyAt := none } }

/-- Programs of the crews whose cores wait for a finish, one for each crew; without a manager there is one crew (R48). Where programs of
a crew differ in length, that of the first waiting core gives N (DESIGN CHOICE, log 109). -/
def Work.waitingProgs (w : Work) : List Prog :=
  (w.coxes.filterMap (fun q => if w.coxState q.1 = 4 then q.2.prog else none)).foldl
    (fun ps p => if ps.any (fun q => w.crewIs q p.crew) then ps else ps ++ [p]) []

/-! ### The catch (R38, R41, R48, R399, R400, R566) -/

/-- The program that a core takes up at this edge in place of its own (R38). -/
def Work.swapFor (w : Work) (c : Nat) : Option Prog :=
  match (w.cox c).next with
  | some (p, t) => if t = w.beatFull && !w.noManager then some p else none
  | none => none

/-- The catch of an ARMED cox: the one that the manager names, or LOCAL_CATCH (R48, Table 1-8). -/
def Work.armDue (w : Work) (b : Board) (c : Nat) : Bool :=
  w.coxState c == 1 && !w.step.refused && w.mayStroke b &&
    (if w.noManager then (w.cox c).catchAt == some w.beatFull else (w.swapFor c).isSome)

/-- A crew table that an arming catch can bind: a port toward every other member, queues within 2 to HOST_BASE − 1 (R399, R566). -/
def Work.bindable (w : Work) (cs : List Crew) : Bool :=
  cs.all (fun c => (c.members.zipIdx).all (fun m => m.2 == c.pos || m.1.ports != 0) && 2 ≤ c.wqBase &&
    c.wqBase + c.members.length ≤ w.hostBase)

/-- The crew table is copied, its queues bound, and the flows on them start anew (R400, R565). -/
def Work.bindCrews (w : Work) (cs : List Crew) : Work :=
  { w with crews := cs, released := [] }.restartFlows (fun f => f.2.job != 0) (fun f => f.2.job != 0)

/-- A core takes its catch. -/
def Work.catchCore (w : Work) (c : Nat) (swap : Bool) : Work :=
  let x := w.cox c
  let p := if swap then (w.swapFor c).orElse (fun _ => x.prog) else x.prog
  let next := match x.next with | some (q, t) => if t = w.beatFull then none else some (q, t) | none => none
  let w := w.setCox c { prog := p, catchAt := some w.beatFull, next := next, runs := [] }
  let w := ((w.setFld (COX_STATUS c) 4 17 0).setCoxState c 2).wr (GEN_SEQ c) ((w.rd (GEN_SEQ c) + 1) % 2 ^ 32)
  match p with
  | some q => (w.progress c).readyCheck c q
  | none => w

/-- The crew of the first of some cores. -/
def Work.firstCrew (w : Work) (cs : List Nat) : Nat :=
  match cs.head? with
  | some c => match (w.cox c).prog with | some p => p.crew | none => 0
  | none => 0

/-- The catch of some cores; one that arms a program binds the crews, or is refused (R399, R566). -/
def Work.doCatch (w : Work) (cs : List Nat) : Work :=
  if cs.isEmpty then w
  else
    let arming := cs.any (fun c => w.coxState c == 1 || (w.swapFor c).isSome)
    let table := w.readCrews
    let refuse := arming && !w.bindable table
    let w := if refuse then w.lasting { cls := 1, unit := 1220, code := 3, crew := w.firstCrew cs } none []
             else w.when arming (·.bindCrews table)
    let go := if refuse then cs.filter (fun c => w.coxState c == 5) else cs
    let w := w.when refuse (fun v => cs.foldl (fun (u : Work) c => u.setCox c { u.cox c with next := none }) v)
    if go.isEmpty then w
    else
      let w := ((w.stepCatch).applyScales w.beatFull).force_ false
      let w := { w with stroke := { w.stroke with catchAt := w.beatFull, readyFrom := none, readyAt := none, slip := 0, overrun := 0,
                                                  active := true, rolled := [] },
                        mgr := { w.mgr with strokeNo := (w.mgr.strokeNo + 1) % 2 ^ 32 } }
      let w := go.foldl (fun (v : Work) c => v.catchCore c (!refuse)) w
      match go.head?.bind (fun c => (w.cox c).prog) with
      | some p => w.when arming (fun v => v.setFld MGR_STATUS 8 8 p.variant)
      | none => w

/-! ### One beat edge (R32, R44, R47) -/

/-- A cox's own step at an edge, by the state it came with: waiting ones count, running ones launch, stopped ones end. -/
def Work.coxEdge (w : Work) (c old : Nat) : Work :=
  match old with
  | 2 | 3 => w.runEdge c
  | 4 => if w.coxState c = 4 then w.setFld (COX_STATUS c) 4 17 (w.coxOffset c + 1) else w
  | 5 => if w.flag (COX_CTL c) 0 then w else w.releaseCox c
  | _ => w

/-- Calibration runs whose time has come end before slots launch (R166, R167). -/
def Work.calEdge (w : Work) : Work :=
  (((w.tiles.filter (fun t => t.2.cal.active)).map (fun t => t.1 / 16)).dedup).foldl (fun (v : Work) c => v.calSweep c) w

/-- Power domains, feed, groups and reduction at an edge (R135, R257, R480, R482). -/
def Work.unitsEdge (w : Work) : Work :=
  let w := { w with power := { w.power with dom := w.power.dom.map (fun (d : Nat × Domain) =>
      (d.1, if w.pdState d.1 = 1 then { d.2 with waitBeats := d.2.waitBeats + 1 }
            else if w.pdState d.1 = 4 then { d.2 with drainBeats := d.2.drainBeats + 1 } else d.2)) } }
  let w := (w.power.dom.map (·.1)).foldl (fun (v : Work) p => v.gateEdge p) w
  let w := w.when w.step.starving (fun v => (v.inc STARVE_BEATS).setBit STEP_STATUS 17)
  let gs := (w.allParts.map (fun q => q.2.2.group)).dedup
  (gs.foldl (fun (v : Work) g => v.tryWritten g) w).redGo

/-- Beacons go once per beat until their abort beat (R455). -/
def Work.beaconEdge (w : Work) : Work :=
  let live := w.fault.beacons.filter (fun b => beatBefore w.beatFull b.abort)
  live.foldl (fun (v : Work) b => v.sendBeacon b) { w with fault := { w.fault with beacons := live } }

/-- The answer to a roll call (R420, R476). -/
def Work.answerRoll (w : Work) (crew call : Nat) : Work :=
  w.toManager 9 crew (toBE 4 call ++ toBE 1 (if w.mgr.lastingPending then 3 else 1) ++ zeros 3)

/-- A roll call that waits is answered once the undo is complete (R420); a device in test mode answers none (R515). -/
def Work.rollEdge (w : Work) : Work :=
  match w.mgr.rollDue with
  | some (crew, call) => if w.undoLeft || w.flag SEC_STATUS 15 then w else { w with mgr := { w.mgr with rollDue := none } }.answerRoll crew call
  | none => w

/-! ### The manager at a beat edge (R28 to R31, R421) -/

/-- A crew's announced finish passes: its next stroke begins one beat later. -/
def Work.crewEdge (w : Work) (n : Nat) (m : MCrew) : Work :=
  match m.fin with
  | some f => if beatBefore w.beatFull f then w
              else w.setMcrew n { m with fin := none, said := false, ready := [], catchAt := beatAdd f 1 }
  | none => w

/-- Jobs whose quarantine after a fence has run open anew (R421). -/
def Work.reopenJobs (w : Work) : Work :=
  let due := w.mgr.reopen.filter (fun r => !beatBefore w.beatFull r.1)
  due.foldl (fun (v : Work) r => ((v.quarOver r.2.2.1).openJob r.2.2.1 r.2.2.2).controlAll (v.crewNodes r.2.1) 17 r.2.1
      (toBE 2 r.2.2.1 ++ toBE 1 r.2.2.2 ++ zeros 1))
    { w with mgr := { w.mgr with reopen := w.mgr.reopen.filter (fun r => beatBefore w.beatFull r.1) } }

/-- Finishes pending, those already announced first (R30, R31). -/
def Work.pendingFins (w : Work) : List (Nat × Nat) :=
  (w.mgr.crews.filterMap (fun m => if m.2.said then m.2.fin.map (fun f => (m.1, f)) else none)) ++
    w.mgr.announce.filterMap (fun n => (w.mcrew n).fin.map (fun f => (n, f)))

/-- The marker of this beat with up to 32 finishes; the finishes decided last that find no room are put off by a beat (R28 to
R31). -/
def Work.sendMarker (w : Work) : Work :=
  let ps := w.pendingFins
  let now := ps.take 32
  let later := (ps.drop 32).map (·.1)
  let body := toBE 5 w.beatCnt ++ toBE 3 w.epoch ++ toBE 2 w.period ++ zeros 1 ++ toBE 1 now.length ++ zeros 4 ++
    now.flatMap (fun p => toBE 2 p.1 ++ toBE 5 p.2 ++ zeros 1)
  let w := { w with mgr := { w.mgr with
    announce := w.mgr.announce.filter later.contains
    crews := w.mgr.crews.map (fun (m : Nat × MCrew) =>
      (m.1, if later.contains m.1 then { m.2 with fin := m.2.fin.map (fun f => beatAdd f 1) }
            else { m.2 with said := m.2.fin.isSome })) } }
  if w.portUp w.markerPort then w.xmit w.markerPort (w.mkPkt 4 0xFFFF 0 0 0 0 body) else w

/-- The device sends markers: the manager in both modes 00 and 01, not on the internal source, not deposed, not without an entry
of its own (R14, R28, R395, R425). -/
def Work.sendsMarkers (w : Work) (b : Board) : Bool :=
  w.locked && w.beatSrc != 2 && (b.role == 2 || w.acting) && !w.flag MGR_STATUS 6 && w.fld MGR_STATUS 0 2 != 3

/-- The manager's work at an edge. -/
def Work.managerEdge (w : Work) (b : Board) : Work :=
  let w := w.when w.acting (fun v => (v.mgr.crews.foldl (fun (u : Work) m => u.crewEdge m.1 m.2) v).reopenJobs)
  w.when (w.sendsMarkers b) (·.sendMarker)

/-- What the device does at a beat edge, once its counter has advanced. -/
def Work.edgeWork (w : Work) (b : Board) : Work :=
  let w := w.beaconEdge.rollEdge.calEdge
  let old := w.coxes.map (fun p => (p.1, w.coxState p.1))
  let w := ((w.waitingProgs).filter w.finishDue).foldl (fun (v : Work) p => v.finishCrew p) w
  let cs := (old.filter (fun p => w.armDue b p.1 || (p.2 == 5 && w.flag (COX_CTL p.1) 0 && !w.step.refused))).map (·.1)
  let w := old.foldl (fun (v : Work) p => if cs.contains p.1 then v else v.coxEdge p.1 p.2) w
  (((w.doCatch cs).unitsEdge).readyEdge).managerEdge b

/-- A beat period written in test mode comes into force at an edge (R21). -/
def Work.periodEdge (w : Work) : Work := { w with force := w.force.filter (fun p => p.1 != BEAT_PERIOD) }

/-- The beat counter advances by one, the epoch with its wrap (R32). -/
def Work.countBeat (w : Work) : Work :=
  { w.periodEdge.setBeat (beatAdd w.beatFull 1) with beat := { w.beat with sinceMarker := w.beat.sinceMarker + 1 } }

/-- The beat counter advances and the edge's work is done; not once lock is to be lost. -/
def Work.advanceBeat (w : Work) (b : Board) : Work :=
  let w := w.countBeat
  if w.flyMax < w.beat.fly then { w with beat := { w.beat with lossDue := true } } else w.edgeWork b

/-- An edge of a locked device ends a row of flywheeled beats; where markers number the beats, a beat with no marker since the last
edge counts as flywheeled all the same (R24, R26; DEDUCED, log 38). -/
def Work.markerMissed (w : Work) (b : Board) : Work :=
  if !w.ownNumbers b && w.beatSrc ≠ 1 && 1 ≤ w.beat.sinceMarker then w.flewOne
  else { w with beat := { w.beat with fly := 0 } }

/-- A good edge of a locked device (R32). -/
def Work.takeEdge (w : Work) (b : Board) : Work :=
  ({ w with beat := { w.beat with lastEdge := some w.now } }.markerMissed b).advanceBeat b

/-- An edge before lock; a manager, or the internal source, locks after 16 (R22, R23; log 39). -/
def Work.seekEdge (w : Work) (b : Board) (after : Nat) : Work :=
  let w := (w.runOn after).periodEdge
  let w := { w with beat := { w.beat with prov := w.beat.prov.map (fun n => (n + 1) % 2 ^ 40) } }
  if w.ownNumbers b && 16 ≤ w.beat.run then
    let start := if w.acting && b.role ≠ 2 then beatAdd (w.beat.lastMarker.getD 0) w.beat.sinceMarker else 0
    (w.lockAtBeat start).edgeWork b
  else w

/-- The device loses lock (R26): LOCK_LOST, a beat-loss report, every stroke aborted, and a new run. -/
def Work.loseLock (w : Work) : Work :=
  let w := (w.clrBit BEAT_STATUS 0).setBit BEAT_STATUS 1
  let w := w.lasting { cls := 10, unit := 1220 } none []
  let w := w.abortCores (w.coxes.map (·.1))
  { w with beat := { port := w.beat.port, lastMarker := w.beat.lastMarker, sinceMarker := w.beat.sinceMarker } }

/-! ### Markers (R16, R17, R20, R22, R25, R55, R561) -/

/-- A marker's fields (Table 1-2). -/
structure Marker where
  beat : Nat
  epoch : Nat
  period : Nat
  fins : List (Nat × Nat)
  deriving DecidableEq, Repr

/-- The marker of a payload; none where R561 discards it. -/
def markerOf (l : List Byte) : Option Marker :=
  let n := beAt l 11 1
  let es := List.range n
  if l.length < 16 ∨ 32 < n ∨ l.length < 16 + 8 * n then none
  else if 8192 ≤ beAt l 8 2 || !allZero (sub l 12 4) || es.any (fun i => 1024 ≤ beAt l (16 + 8 * i) 2 || beAt l (23 + 8 * i) 1 != 0) then none
  else some { beat := beAt l 0 5, epoch := beAt l 5 3, period := beAt l 8 2,
              fins := es.map (fun i => (beAt l (16 + 8 * i) 2, beAt l (18 + 8 * i) 5)) }

/-- The window of R25: the count, or one less. -/
def inWindow (beat count : Nat) : Bool := beat % 2 ^ 40 == count % 2 ^ 40 || (beat + 1) % 2 ^ 40 == count % 2 ^ 40

/-- A crew of a program that runs here. -/
def Work.strokesCrew (w : Work) (crew : Nat) : Bool :=
  w.coxes.any (fun p => !([0, 1, 6].contains (w.coxState p.1)) && (match p.2.prog with | some g => g.crew == crew | none => false))

/-- One announced finish (R30); one of a crew that runs here, first received at or after its beat, is late: it is reported at once
in a READY (R55; log 40). -/
def Work.takeFin (w : Work) (e : Nat × Nat) : Work :=
  if Sp.find w.beat.fin e.1 = some e.2 then w
  else
    let late := !beatBefore w.beatFull e.2 && w.strokesCrew e.1
    let w := { w with beat := { w.beat with fin := Sp.put w.beat.fin e.1 e.2 } }
    w.when late (fun v => { v.setBit BEAT_STATUS 3 with mgr := { v.mgr with markerLate := true } }.sendReady e.1)

/-- A marker is taken: its finishes, and its place in the numbering. -/
def Work.takeMarker (w : Work) (m : Marker) : Work :=
  let w := { w with beat := { w.beat with mismatch := false, sinceMarker := 0, lastMarker := some (m.epoch * 2 ^ 40 + m.beat) } }
  m.fins.foldl (fun (v : Work) e => v.takeFin e) w

/-- A marker outside the window: an edge error, and the second in a row loses lock (R25). -/
def Work.badMarker (w : Work) : Work :=
  let two := w.beat.mismatch
  { w.edgeErr with beat := { w.beat with mismatch := true, lossDue := w.beat.lossDue || two } }

/-- A marker numbers the beats in source mode 00. Where no provisional count is held yet, the first marker only loads it, even if the
run has 16 edges already: lock comes with a later marker (DESIGN CHOICE, log 110). At lock the epoch is that of the beat the
counter then holds, one on from the marker's where the edge since the marker's beat wrapped the counter (R32; DEDUCED, log 110). -/
def Work.markerNumbers (w : Work) (m : Marker) : Work :=
  if w.locked then if inWindow m.beat w.beatCnt then w.takeMarker m else w.badMarker
  else match w.beat.prov with
  | some c =>
    if !inWindow m.beat c then { w with beat := { w.beat with prov := some m.beat } }
    else if 16 ≤ w.beat.run then
      let t := beatAdd (m.epoch * 2 ^ 40 + m.beat) ((c + 2 ^ 40 - m.beat) % 2 ^ 40)
      (w.lockAtBeat t).takeMarker m
    else w
  | none => { w with beat := { w.beat with prov := some m.beat } }

/-- A marker is the edge in source mode 01 (Table 1-1, R22, R24, R25). One of a locked device that lies in the window of R25 but outside
the tolerance of R24 is discarded whole, as an edge: its finishes are not taken and a mismatch before it still counts as the
last marker (DESIGN CHOICE, log 111). -/
def Work.markerEdge (w : Work) (b : Board) (m : Marker) : Work :=
  let after := w.now - w.beat.lastEdge.getD w.now
  if w.locked then
    if !inWindow m.beat (w.beatCnt + 1) then w.badMarker
    else if !w.edgeGood after then w.edgeErr
    else
      (({ w with beat := { w.beat with lastEdge := some w.now, fly := 0 } }.countBeat).takeMarker m).edgeWork b
  else
    let w := (w.runOn after).periodEdge
    let next := w.beat.prov.map (fun n => (n + 1) % 2 ^ 40)
    let ok := match next with | some c => inWindow m.beat c | none => false
    if ok && 16 ≤ w.beat.run then ((w.lockAtBeat (m.epoch * 2 ^ 40 + m.beat)).takeMarker m).edgeWork b
    else { w with beat := { w.beat with prov := if ok then next else some m.beat } }

/-- A worker takes markers from a port: with the default, from the first on which one arrives (R16, Table 14-8). -/
def Work.markerFrom (w : Work) (k : Nat) : Bool :=
  k < 36 && (if w.portDefault then (match w.beat.port with | some q => k == q | none => true) else k == w.fld BEAT_CTL 8 6)

/-- The port of the first marker; it replaces the MARKER_PORT 0 of the factory defaults (Table 14-8). -/
def Work.notePort (w : Work) (k : Nat) : Work :=
  { w.when (w.flag CFG_STATUS 1) (·.setFld BEAT_CTL 8 6 k) with beat := { w.beat with port := some k } }

/-- A marker goes on, HOPS increased by one and held at 255 (R17). -/
def Work.forwardMarker (w : Work) (l : List Byte) : Work :=
  let f := w.fld BEAT_CTL 16 6
  if 36 ≤ f || !w.portUp f then w
  else w.xmit f { w.mkPkt 4 0xFFFF 0 0 0 0 (l.set 10 (BitVec.ofNat 8 (min 255 (beAt l 10 1 + 1)))) with src := w.mgr.mgrNode.getD w.node }

/-- A marker arrives at a port. -/
def Work.marker (w : Work) (b : Board) (k : Nat) (l : List Byte) : Work :=
  if w.ownNumbers b || w.beat.lossDue || !w.hears k || !w.markerFrom k then w
  else match markerOf l with
  | none => w.edgeErr
  | some m =>
    let w := (w.notePort k).forwardMarker l
    let w := w.when (m.period != w.period) (·.setBit BEAT_STATUS 2)
    if m.period ≠ w.period && !w.locked then w
    else if w.beatSrc = 1 then w.markerEdge b m
    else w.markerNumbers m

/-! ### The commands -/

/-- BEAT_EDGE: an edge `afterNs` after the edge before it (R22, R24, R32, R44). A worker of source mode 01 has no edges but
markers: there the command only brings the time of the marker that follows. -/
def execBeatEdge (afterNs : Nat) (s : State) : Ans :=
  s.run (fun b w =>
    if w.beat.lossDue then w
    else
      let w := w.till (w.beat.lastEdge.getD w.now + afterNs)
      if w.beatSrc = 1 && !w.ownNumbers b then w
      else if !w.locked then w.seekEdge b afterNs
      else if w.edgeGood afterNs then w.takeEdge b
      else w.edgeErr)

/-- FLYWHEEL: the local generator supplies an edge that failed, one period after the last (R24, R32). -/
def execFlywheel (s : State) : Ans :=
  s.run (fun b w =>
    if !w.locked || w.beat.lossDue then w
    else
      let t := w.beat.lastEdge.getD w.now + w.period
      let w := w.till t
      ({ w with beat := { w.beat with lastEdge := some t } }.flewOne).advanceBeat b)

/-- LOCK_RUN_END: 1.05 periods without an edge before lock end the run (R22). -/
def execLockRunEnd (s : State) : Ans :=
  s.run (fun _ w =>
    match w.beat.lastEdge with
    | some t => if w.locked then w
                else { w.till (t + w.period * 21 / 20) with beat := { w.beat with run := 0, lastEdge := none } }
    | none => w)

/-- LOSS_OF_LOCK (R26, Table 1-8). -/
def execLossOfLock (s : State) : Ans := s.run (fun _ w => if w.beat.lossDue && w.locked then w.loseLock else w)

/-- BEAT_MARKER (R16, R17, R20, R22, R25, R55, R561). -/
def execBeatMarker (port : Fin 40) (payload : List Byte) (s : State) : Ans := s.run (fun b w => w.marker b port.val payload)

/-- READY_SEND (R49, R56, R402): the device is ready since the edge at which READY fell due; with a manager its READY goes. -/
def execReadySend (s : State) : Ans :=
  s.run (fun _ w =>
    if !w.readyDue || w.stroke.readyFrom.isNone then w
    else
      let crews := (w.waitingProgs).map (·.crew)
      let w := { w with stroke := { w.stroke with readyAt := w.stroke.readyFrom } }
      if w.noManager then w else crews.foldl (fun (v : Work) n => v.sendReady n) w)

end Sys2Proof.Machine
end

