-- ==== Sys2Proof/Machine/Manager.lean ====
section
/-! DEFINITION. Machine/Manager.lean: the domain: claims, joins and nodes, program images, agreed finishes, reports, jobs and the
takeover by the deputy (R50, R54, R383, R394 to R405, R419, R423 to R425, R562, R563). -/

namespace Sys2Proof.Machine

/-! ### Identity and the node table (R396, Tables 11-1 and 15-9) -/

/-- The device identity: family and product, then what manufacture set (log 8). -/
def identBytes : List Byte := [0x0D, 0x07, 0x01, 0x28] ++ (List.range 12).map (fun i => Config.identByte (i + 4))

/-- A node table entry. -/
structure NodeEnt where
  ident : List Byte
  node : Nat
  kind : Nat
  position : Nat
  deriving DecidableEq, Repr

/-- The node table (Table 11-1). -/
def Work.nodeTable (w : Work) : List NodeEnt :=
  (List.range (w.fld NODE_TABLE_COUNT 0 13)).map (fun i =>
    let a := w.base NODE_TABLE_LO NODE_TABLE_HI + 32 * i
    { ident := w.bytes a 16, node := w.num (a + 16) 2, kind := w.num (a + 18) 1, position := w.num (a + 20) 2 })

/-- Every job-0 flow with some nodes starts again (R565). -/
def Work.restartZero (w : Work) (nodes : List Nat) : Work :=
  w.restartFlows (fun f => f.2.job == 0 && (nodes.isEmpty || nodes.contains (f.1 / 65536)))
    (fun f => f.2.job == 0 && (nodes.isEmpty || nodes.contains (f.1 / 65536)))

/-- The generation of job 0 is set: its entry, JOB0_GEN, and every job-0 flow (R347, R395, R565). -/
def Work.setGen0 (w : Work) (g : Nat) : Work :=
  ((w.setJob 0 { state := 1, gen := g, anyGen := false }).setFld JOB0_GEN 0 8 g).restartZero []

/-! ### Claims (R394, R395) -/

/-- The device may claim a domain: strapped manager, or acting; locked on a domain's source; not deposed, not without an entry. -/
def Work.mayClaim (w : Work) (b : Board) : Bool :=
  w.locked && w.beatSrc != 2 && (b.role == 2 || w.acting) && !w.flag MGR_STATUS 6 && w.fld MGR_STATUS 0 2 != 3

/-- A period of 1,024 beats since a beat has passed. -/
def Work.turn1024 (w : Work) (last : Option Nat) : Bool :=
  match last with | some t => !beatBefore w.beatFull (beatAdd t 1024) | none => true

/-- The deputy's node in the table, 0xFFFF for none. -/
def Work.deputyNode (w : Work) : Nat :=
  match w.nodeTable.find? (fun e => e.kind == 2) with | some e => e.node | none => 0xFFFF

/-- The square root rounded to the nearest integer. -/
def isqrtBits : Nat → Nat → Nat → Nat
  | 0, _, r => r
  | k + 1, n, r => isqrtBits k n (if (r + 2 ^ k) * (r + 2 ^ k) ≤ n then r + 2 ^ k else r)
def isqrt (n : Nat) : Nat := let r := isqrtBits 48 n 0; if r < n - r * r then r + 1 else r

/-- RUN_BEATS: beats since the domain was claimed (R404). -/
def Work.runBeats (w : Work) : Nat := if w.flag MGR_STATUS 2 then (w.beatFull + 2 ^ 64 - w.mgr.claimedAt) % 2 ^ 64 else 0

/-- The checkpoint interval is computed anew (R404; rounded to nearest, DEDUCED from the worked example, log 41). -/
def Work.newInterval (w : Work) (stretch : Nat) : Work :=
  let total := w.runBeats + w.rd MTBF_PRIOR * 65536
  let t := isqrt (2 * (w.rd CKPT_COST + stretch) * total / (w.rd FAIL_CNT + 1))
  w.wr CKPT_INTERVAL (clampNat t (w.fld CKPT_LIMITS 0 16 * 65536) (w.fld CKPT_LIMITS 16 16 * 65536))

/-- The first claim (R395): the node of the manager's own entry, the generation of job 0, and the interval; with no such entry
ACTING reads 3. -/
def Work.firstClaim (w : Work) : Work :=
  match w.nodeTable.find? (fun e => e.kind == 4 && e.ident == identBytes) with
  | none => w.setFld MGR_STATUS 0 2 3
  | some e =>
    let g := match w.mgr.repGen with | some r => (r + 1) % 256 | none => 1
    let w := (((w.setFld NODE 0 16 e.node).setFld MGR_STATUS 0 2 2).setBit MGR_STATUS 2).setGen0 g
    let dep := w.deputyNode
    { w with mgr := { w.mgr with mgrNode := some e.node, depNode := if dep = 0xFFFF then none else some dep, claimSeen := true,
                                 claimedAt := w.beatFull } }.newInterval 0

/-- CLAIM to every node (Table 11-5). -/
def Work.sendClaim (w : Work) : Work :=
  { w with mgr := { w.mgr with lastClaim := some w.beatFull } }.control 0xFFFF 1 0
    (toBE 2 (w.fld DOMAIN 0 16) ++ toBE 1 (w.jobGen 0) ++ zeros 1 ++ toBE 2 (w.mgr.depNode.getD 0xFFFF) ++ zeros 2)

/-- The manager stops: it is deposed until reset (R425). -/
def Work.depose (w : Work) : Work := (w.setBit MGR_STATUS 6).setFld MGR_STATUS 0 2 0

/-- A domain number is the device's: the configured one, or, where 0xFFFF is configured, that of the first CLAIM (Table 14-8). -/
def Work.inDomain (w : Work) (n : Nat) : Bool :=
  if w.fld DOMAIN 0 16 = 0xFFFF then (match w.mgr.domain with | some d => d == n | none => true) else w.fld DOMAIN 0 16 == n

/-- A CLAIM reaches the device (R347, R395, R425). Generations are never ordered (R36): the higher one that deposes a manager is
the one to which a takeover steps (log 16). -/
def Work.takeClaim (w : Work) (b : Board) (p : Packet) (l : List Byte) : Work :=
  let g := beAt l 2 1
  if l.length ≠ 8 || !w.inDomain (beAt l 0 2) || w.beatSrc = 2 then w
  else if w.acting then w.when (g == (w.jobGen 0 + 1) % 256) (·.depose)
  else if b.role = 2 then { w with mgr := { w.mgr with repGen := some g } }
  else
    let dep := if beAt l 4 2 = 0xFFFF then none else some (beAt l 4 2)
    let m := { w.mgr with mgrNode := some p.src, depNode := dep, claimSeen := true, domain := some (beAt l 0 2) }
    let w := { w with mgr := m }
    w.when ((w.jobEnt 0).anyGen) (·.setGen0 g)

/-! ### Joining (R396, R431, R442) -/

/-- JOIN to the manager, once per 1,024 beats while the device has no node (R396); after a failed in-field test, only once the
test of start-up has run (R442), and none in test mode (R515). -/
def Work.joinDue (w : Work) (b : Board) : Bool :=
  w.locked && w.node == 0xFFFE && w.mgr.mgrNode.isSome && b.role != 2 && w.turn1024 w.mgr.lastJoin && !w.fault.ftAtStart &&
    w.fault.ftStart.isNone && w.beatSrc != 2 && !w.flag SEC_STATUS 15

/-- The JOIN body: identity, straps, image defaulted (Table 11-5). -/
def Work.joinBody (w : Work) (b : Board) : List Byte :=
  identBytes ++ toBE 1 b.role.val ++ toBE 1 (if w.flag GLB_STATUS 6 then 1 else 0) ++ zeros 2

/-- A manager's crews to which a node belongs. -/
def Work.crewsOfNode (w : Work) (n : Nat) : List Nat :=
  (w.crewTab.filter (fun c => c.stroke && c.members.any (fun m => m.node == n))).map (·.num)

/-- A node that held a position has fallen out: its crews abort (Table 11-8; cause 9, log 42). -/
def Work.nodeFell (w : Work) (n : Nat) : Work :=
  if !w.acting || w.mgr.fallen.contains n then w
  else
    let w := { w with mgr := { w.mgr with fallen := n :: w.mgr.fallen } }
    (w.crewsOfNode n).foldl (fun (v : Work) k => v.orderAbort k 9) w

/-- A JOIN reaches the manager, or its copy the deputy (R396). -/
def Work.takeJoin (w : Work) (l : List Byte) : Work :=
  if l.length ≠ 20 || !(w.acting || w.fld MGR_STATUS 0 2 == 1) then w
  else
    let id := sub l 0 16
    let e := w.nodeTable.find? (fun x => x.ident == id)
    let diag := beAt l 16 1 = 3 || (beAt l 17 1) % 2 = 1
    let n := match e with | some x => if diag || x.kind = 3 then 0xFFFD else x.node | none => 0xFFFD
    let kind := match e with | some x => if n = 0xFFFD then 3 else x.kind | none => 3
    let again := w.mgr.joined.any (fun j => j.1 == n) && w.mgr.positions.any (fun q => q.2 == n)
    let pos := match e with | some x => x.position | none => 0
    let holds := kind = 0 && (Sp.find w.mgr.positions pos).isNone
    let w := if n = 0xFFFD then w else { w with mgr := { w.mgr with
      joined := Sp.put w.mgr.joined n kind
      positions := if holds then Sp.put w.mgr.positions pos n else w.mgr.positions } }
    let w := w.when again (·.nodeFell n)
    if !w.acting then w
    else
      let body := id ++ toBE 2 n ++ toBE 1 kind ++ zeros 1
      let w := (w.restartZero [n]).control 0xFFFE 3 0 body
      match w.mgr.depNode with
      | some d => if d = n then w else w.control d 3 0 body
      | none => w

/-- Reports kept for want of a node go, and the record of a chip-level reset (R431). -/
def Work.flushUnsent (w : Work) : Work :=
  let rs := w.fault.unsent
  let w := rs.foldl (fun (v : Work) r => v.reportRec r) { w with fault := { w.fault with unsent := [] } }
  let src := w.fld RESET_CAUSE 0 4
  if src ≠ 2 ∧ src ≠ 3 then w
  else
    let r : FaultRec := { beat := w.beatFull, cls := 7, level := 4, unit := w.fld RESET_CAUSE 12 11, code := w.fld RESET_CAUSE 4 8, detail := src }
    w.report 6 0 (r.bytes toBE)

/-- An ASSIGN reaches the device: its own sets node and part in the domain; at the deputy, a copy restarts the flows with that
node (R396, R442, R565). A device strapped 11 is diagnosable whatever it says (R7), and only one strapped 01 becomes deputy (R6). -/
def Work.takeAssign (w : Work) (b : Board) (l : List Byte) : Work :=
  let n := beAt l 16 2
  if l.length ≠ 20 then w
  else if sub l 0 16 ≠ identBytes then w.when (w.fld MGR_STATUS 0 2 = 1) (·.restartZero [n])
  else
    let diag := n = 0xFFFD || beAt l 18 1 = 3 || b.role = 3 || w.flag REPL_STATUS 5 || w.mgr.lastingPending
    let acting := if diag then 3 else if beAt l 18 1 = 2 && b.role = 1 then 1 else 0
    let fresh := w.node = 0xFFFE
    let w := ((w.setFld NODE 0 16 n).setFld MGR_STATUS 0 2 acting).restartZero w.mgrNodes
    let w := { w with mgr := { w.mgr with diagnosable := diag } }
    w.when fresh (·.flushUnsent)

/-! ### Program images (R38, R403) -/

/-- A load record of an image: first core, count, scratchpad offset, data. -/
structure LoadRec where
  core : Nat
  count : Nat
  off : Nat
  data : List Byte
  deriving DecidableEq, Repr

/-- The load records of an image; none where one breaks R403. -/
def loadRecs : Nat → List Byte → Option (List LoadRec)
  | _, [] => some []
  | 0, _ => none
  | n + 1, l =>
    let len := leAt l 8 4
    let r : LoadRec := { core := leAt l 0 2, count := leAt l 2 2, off := leAt l 4 4, data := sub l 16 len }
    let size := 16 + (len + 15) / 16 * 16
    if l.length < 16 || l.length < size || !allZero (sub l 12 4) || 1024 < r.core + r.count || 2 ^ 21 < r.off + len then none
    else (loadRecs n (l.drop size)).map (fun rs => r :: rs)

/-- A record copied into the scratchpads of its cores. -/
def Work.putRec (w : Work) (r : LoadRec) : Work :=
  (List.range r.count).foldl (fun (v : Work) i => v.put (spadBase (r.core + i) + r.off) r.data false) w

/-- A refused image: REPORT kind 6 for the crew, codes 1 the image, 2 no program allowed, 4 a program (R403; codes, log 18). -/
def Work.imageRefused (w : Work) (crew code : Nat) : Work := w.lasting { cls := 1, unit := 1220, code := code, crew := crew } none []

/-- A core takes a program of a variant for a named catch; an IDLE cox with RUN set arms (R38, Table 1-8). -/
def Work.armAt (w : Work) (b : Board) (c : Nat) (p : Prog) (t variant : Nat) : Work :=
  let w := { w with mgr := { w.mgr with armed := Sp.put w.mgr.armed (256 * c + variant) p } }
  let arm := w.coxState c = 0 && w.flag (COX_CTL c) 0 && w.mayStroke b
  let w := w.when arm (·.firstArm)
  let w := w.setCox c { w.cox c with next := some (p, t), prog := if arm then some p else (w.cox c).prog }
  w.when (arm && !w.step.entryBad) (·.setCoxState c 1)

/-- PROG_ARM reaches a member (R403). -/
def Work.takeArm (w : Work) (b : Board) (crew : Nat) (l : List Byte) : Work :=
  if l.length ≠ 32 || !allZero (sub l 25 7) then w
  else
    let g := w.hbmGet (beAt l 0 8) (beAt l 8 4)
    let w := g.2.2
    match loadRecs (g.1.length / 16) g.1 with
    | none => w.imageRefused crew 1
    | some rs =>
      if g.2.1 || crc32c g.1 ≠ beAt l 12 4 then w.imageRefused crew 1
      else if b.role = 3 || w.flag REPL_STATUS 5 || w.mgr.lastingPending || w.fld MGR_STATUS 0 2 = 3 then w.imageRefused crew 2
      else
        let w := rs.foldl (fun (v : Work) r => v.putRec r) w
        let cores := (rs.flatMap (fun r => (List.range r.count).map (· + r.core))).dedup
        let checks := cores.map (fun c => (c, w.loadProg c (w.progBase c)))
        let good := checks.all (fun q => match q.2 with | .ok _ => true | _ => false)
        if !good then (checks.foldl (fun (v : Work) q => v.progRefused q.1 q.2) w).imageRefused crew 4
        else checks.foldl (fun (v : Work) q => match q.2 with | .ok p => v.armAt b q.1 p (beAt l 16 8) (beAt l 24 1) | _ => v) w

/-! ### Agreed finishes (R50, R54, R383) -/

/-- N of a crew's stroke, as its manager reckons it (log 33). -/
def MCrew.nominal (m : MCrew) (n : Nat) : Nat :=
  beatAdd (if m.began then m.catchAt else Config.firstCatch n) (Config.crewLength n m.variant - 1)

/-- ANNOUNCE_LEAD, 0 taken as 1. -/
def Work.announceLead (w : Work) : Nat := orDefault (w.fld BEAT_PERIOD 16 8) 1

/-- The later of two beats (R34). -/
def beatMax (a b : Nat) : Nat := if beatBefore a b then b else a

/-- A checkpoint that is due is ordered for a finish that ends a step (R405, R407). -/
def Work.orderCkpt (w : Work) (n f : Nat) : Work :=
  let m := w.mcrew n
  if !m.ckptDue || m.ckpt.isSome || !Config.lastOfStep n m.catchAt then w
  else
    let k := (w.rd CKPT_LAST + 1) % 2 ^ 32
    (w.setMcrew n { m with ckptDue := false, ckpt := some { k := k, fin := f } }).controlAll (w.crewNodes n) 5 n (toBE 4 k ++ toBE 8 f)

/-- The merged scale reports of a crew go out once its next catch is late enough (R383). -/
def Work.sendScales (w : Work) (n catch_ : Nat) : Work :=
  let m := w.mcrew n
  if m.scales.isEmpty || beatBefore catch_ m.scaleDue then w
  else
    let go := m.scales.take 262144
    let w := w.setMcrew n { m with scales := m.scales.drop 262144 }
    (partsOf go 500).foldl (fun (v : Work) es => v.controlAll (v.crewNodes n) 15 n (scaleBody n catch_ es)) w

/-- The finish of a crew is decided once every member's READY is held (R50). -/
def Work.decideFinish (w : Work) (n : Nat) : Work :=
  let m := w.mcrew n
  if !w.acting || m.fin.isSome || !(w.crewNodes n).all m.ready.contains || w.abortWins n then w
  else
    let f := beatMax (m.nominal n) (beatAdd w.beatFull w.announceLead)
    let w := w.setMcrew n { m with fin := some f, said := false }
    let w := { w with mgr := { w.mgr with announce := w.mgr.announce ++ [n] } }
    (w.orderCkpt n f).sendScales n (beatAdd f 1)

/-- READY reaches the manager, or its copy the deputy (R50, R55, R384). -/
def Work.takeReady (w : Work) (p : Packet) : Work :=
  let l := p.payload
  let n := beAt l 0 2
  if l.length ≠ 32 || 1024 ≤ n || !(w.acting || w.fld MGR_STATUS 0 2 == 1) || !(w.crewNodes n).contains p.src then w
  else if w.acting && (beAt l 2 1).testBit 0 then w.orderAbort n 3
  else if w.acting && (beAt l 2 1).testBit 1 then w.orderAbort n 4
  else
    let m := w.mcrew n
    if m.roll.isSome || m.restore.isSome || m.lost then w
    else
      let c := beAt l 4 8
      let m := if m.catchAt = c && m.on then m else { m with on := true, began := true, catchAt := c, ready := [], fin := none, said := false }
      (w.setMcrew n { m with ready := (p.src :: m.ready).dedup, stretch := max m.stretch (beAt l 20 2) }).decideFinish n

/-! ### Reports (R419, R562) -/

/-- The physical records of a REPORT by their keys: deck records of 74 bytes by tile, or a stack record (R149, R307). -/
def physicalOf (kind : Nat) (r : List Byte) : List (Nat × List Byte) :=
  if kind = 1 then ((List.range (r.length / 74)).map (fun i => sub r (74 * i) 74)).map (fun d => (beAt d 0 2 % 16384, d))
  else if kind = 2 ∨ kind = 3 then [(2 ^ 16 + beAt r 0 1, r)] else []

/-- No catch has been taken since reset. -/
def Work.neverCaught (w : Work) : Bool := w.stroke.catchAt == 0

/-- Physical records that the manager sends back to a device that has reset; they wait for the restore finish (R414; log 121). -/
def Work.takePhysical (w : Work) (l : List Byte) : Work :=
  if !allZero (sub l 1 3) || !w.neverCaught then w
  else { w with mgr := { w.mgr with physical := (physicalOf (beAt l 0 1) (l.drop 4)).foldl (fun m q => Sp.put m q.1 q.2) w.mgr.physical } }

/-- A REPORT reaches the manager (Tables 11-8 and 12-4). -/
def Work.takeReport (w : Work) (p : Packet) (l : List Byte) : Work :=
  let kind := beAt l 0 1
  let r := l.drop 4
  if !allZero (sub l 1 3) then w
  else
    let w := { w with mgr := { w.mgr with
      reports := (physicalOf kind r).foldl (fun m q => Sp.put m (2 ^ 20 * p.src + q.1) q.2) w.mgr.reports } }
    if !w.acting then w
    else match kind with
    | 4 => (w.crewsOfNode p.src).foldl (fun (v : Work) n => v.orderAbort n 2) w
    | 6 =>
      match beAt r 8 1 with
      | 1 => (if beAt r 18 2 = 0 then w.crewsOfNode p.src else [beAt r 18 2]).foldl (fun (v : Work) n => v.orderAbort n 11) w
      | 7 => if beAt r 9 1 = 4 then w.nodeFell p.src else w
      | 8 => (w.crewsOfNode p.src).foldl (fun (v : Work) n => v.orderAbort n 7) w
      | _ => w
    | _ => w

/-! ### Takeover (R423 to R425) -/

/-- DEP_WAIT, 0 taken as 1. -/
def Work.depWait (w : Work) : Nat := orDefault (w.fld MGR_CTL 0 6) 1

/-- TAKEOVER to every node (R423): the generation plus one, and the beat of the first marker, eight beats on (log 43). -/
def Work.sendTakeover (w : Work) (start : Nat) : Work :=
  { w with mgr := { w.mgr with takeoverAt := some w.beatFull } }.control 0xFFFF 20 0 (toBE 1 ((w.jobGen 0 + 1) % 256) ++ zeros 3 ++ toBE 8 (beatAdd start 8))

/-- A TAKEOVER reaches a worker (R424): accepted where it has flywheeled half of DEP_WAIT. -/
def Work.takeTakeover (w : Work) (p : Packet) (l : List Byte) : Work :=
  if l.length ≠ 12 || w.mgr.depNode ≠ some p.src || w.acting then w
  else
    let g := beAt l 0 1
    let ok := w.depWait / 2 ≤ w.beat.fly
    let w := w.control p.src 21 0 (toBE 1 g ++ toBE 1 (if ok then 1 else 0) ++ zeros 2)
    if ok then { w.setGen0 g with mgr := { w.mgr with mgrNode := some p.src, depNode := none } } else w

/-- The deputy becomes manager (R8, R424, R425): a program that it ran is at an end, the generation steps, an open checkpoint attempt fails, pending finishes stand. -/
def Work.becomeManager (w : Work) : Work :=
  let old := w.mgr.mgrNode
  let g := (w.jobGen 0 + 1) % 256
  let w := w.abortCores (w.coxes.map (·.1))
  let w := (((w.setFld MGR_STATUS 0 2 2).setBit MGR_STATUS 2).inc TAKEOVER_CNT).setGen0 g
  let w := { w with mgr := { w.mgr with mgrNode := some w.node, depNode := none, takeover := none, lastClaim := none,
                                        claimedAt := w.beatFull } }
  let w := w.mgr.crews.foldl (fun (v : Work) q =>
    let v := v.failAttempt q.1
    let m := v.mcrew q.1
    match Sp.find v.beat.fin q.1 with
    | some f =>
      let ahead := beatsAhead v.beatFull f
      if 0 < ahead then v.setMcrew q.1 { m with fin := some (beatAdd v.beatFull ahead), said := true } else v.decideFinish q.1
    | none => v.decideFinish q.1) w
  match old with
  | some n => w.control n 22 0 (toBE 1 g ++ zeros 3)
  | none => w

/-- Positioned workers of the domain (R424). -/
def Work.positioned (w : Work) : Nat := (w.nodeTable.filter (fun e => e.kind == 0)).length

/-! ### The commands -/

/-- CLAIM_TIMER: from lock on, once per 1,024 beats, the manager claims its domain (R395). -/
def execClaimTimer (s : State) : Ans :=
  s.run (fun b w =>
    if !w.mayClaim b || !w.turn1024 w.mgr.lastClaim then w
    else
      let w := if w.acting then w else w.firstClaim
      if w.acting then w.sendClaim else w)

/-- CLAIM (R395, R425). -/
def execClaim (port : Fin 40) (pkt : Packet) (s : State) : Ans :=
  s.run (fun b w => if w.arrives port.val pkt 6 then w.onCtrl pkt 1 (fun v c => v.takeClaim b pkt c.body) else w)

/-- JOIN_TIMER (R396). -/
def execJoinTimer (s : State) : Ans :=
  s.run (fun b w =>
    if w.joinDue b then { w with mgr := { w.mgr with lastJoin := some w.beatFull } }.toManager 2 0 (w.joinBody b) else w)

/-- JOIN (R396). -/
def execJoin (port : Fin 40) (pkt : Packet) (s : State) : Ans :=
  s.run (fun _ w => if w.arrives port.val pkt 6 then w.onCtrl pkt 2 (fun v c => v.takeJoin c.body) else w)

/-- ASSIGN (R396, R565). -/
def execAssign (port : Fin 40) (pkt : Packet) (s : State) : Ans :=
  s.run (fun b w => if w.arrives port.val pkt 6 then
    w.onCtrl pkt 3 (fun v c => if v.fromManager pkt then v.takeAssign b c.body else v) else w)

/-- PROG_ARM (R403). -/
def execProgArm (port : Fin 40) (pkt : Packet) (s : State) : Ans :=
  s.run (fun b w => if w.arrives port.val pkt 6 then
    w.onCtrl pkt 4 (fun v c => if v.fromManager pkt then v.takeArm b c.crew c.body else v) else w)

/-- READY_RECEIVE (R50). -/
def execReadyReceive (port : Fin 40) (pkt : Packet) (s : State) : Ans :=
  s.run (fun _ w => if w.arrives port.val pkt 5 then w.receive pkt (fun v => (v.takeReady pkt, 0)) else w)

/-- STRAGGLER_TIMEOUT: N + STRETCH_LIMIT has come without READY from every member (R54). -/
def execStragglerTimeout (crew : Fin 1024) (s : State) : Ans :=
  s.run (fun _ w =>
    let n := crew.val
    let m := w.mcrew n
    if !w.acting || (!m.on && m.began) || m.fin.isSome || (w.crewNodes n).all m.ready.contains ||
        beatBefore w.beatFull (beatAdd (m.nominal n) (Config.crewLimit n m.variant)) then w
    else w.orderAbort n 1)

/-- REPORT (R419, R562), and the physical records that come back to a device that has reset (R414). -/
def execReport (port : Fin 40) (pkt : Packet) (s : State) : Ans :=
  s.run (fun _ w => if w.arrives port.val pkt 6 then
    w.onCtrl pkt 13 (fun v c => if v.acting || v.fld MGR_STATUS 0 2 = 1 then v.takeReport pkt c.body
      else if v.fromManager pkt then v.takePhysical c.body else v) else w)

/-- JOB_OPEN (R348). -/
def execJobOpen (port : Fin 40) (pkt : Packet) (s : State) : Ans :=
  s.run (fun _ w => if w.arrives port.val pkt 6 then
    w.onCtrl pkt 17 (fun v c => if v.fromManager pkt && c.body.length = 4 then v.openJob (beAt c.body 0 2) (beAt c.body 2 1) else v) else w)

/-- JOB_FREE: the job is freed at the beat that the manager names (R349). -/
def execJobFree (port : Fin 40) (pkt : Packet) (s : State) : Ans :=
  s.run (fun _ w => if w.arrives port.val pkt 6 then
    w.onCtrl pkt 18 (fun v c =>
      let j := beAt c.body 0 2
      if !v.fromManager pkt || c.body.length ≠ 12 then v
      else if j = 0 then v.setBit TRANSPORT_ERR 0
      else v.setJob j { v.jobEnt j with freeAt := some (beAt c.body 4 8) }) else w)

/-- TAKEOVER_TIMER: DEP_WAIT beats without a marker; TAKEOVER goes once per beat, for eight beats (R423, R563). -/
def execTakeoverTimer (s : State) : Ans :=
  s.run (fun _ w =>
    if w.fld MGR_STATUS 0 2 ≠ 1 || !w.locked || w.beat.sinceMarker < w.depWait then w
    else match w.mgr.takeover with
    | some (t, _, _) => if beatBefore w.beatFull (beatAdd t 8) && w.mgr.takeoverAt ≠ some w.beatFull then w.sendTakeover t else w
    | none => { w with mgr := { w.mgr with takeover := some (w.beatFull, [], []) } }.sendTakeover w.beatFull)

/-- TAKEOVER (R424). -/
def execTakeover (port : Fin 40) (pkt : Packet) (s : State) : Ans :=
  s.run (fun _ w => if w.arrives port.val pkt 6 then w.onCtrl pkt 20 (fun v c => v.takeTakeover pkt c.body) else w)

/-- TAKEOVER_ACK (R424). -/
def execTakeoverAck (port : Fin 40) (pkt : Packet) (s : State) : Ans :=
  s.run (fun _ w => if w.arrives port.val pkt 6 then
    w.onCtrl pkt 21 (fun v c =>
      match v.mgr.takeover with
      | some (t, yes, no) =>
        if c.body.length ≠ 4 || beAt c.body 0 1 ≠ (v.jobGen 0 + 1) % 256 then v
        else if (beAt c.body 1 1).testBit 0 then { v with mgr := { v.mgr with takeover := some (t, (pkt.src :: yes).dedup, no) } }
        else { v with mgr := { v.mgr with takeover := some (t, yes, (pkt.src :: no).dedup) } }
      | none => v) else w)

/-- TAKEOVER_DECIDE: more than half of the positioned workers have accepted, or the eight beats have passed (R424). -/
def execTakeoverDecide (s : State) : Ans :=
  s.run (fun _ w =>
    match w.mgr.takeover with
    | some (t, yes, _) =>
      if w.fld MGR_STATUS 0 2 ≠ 1 then w
      else if w.positioned < 2 * yes.length then w.becomeManager
      else if beatBefore w.beatFull (beatAdd t 8) then w
      else { w.setBit MGR_STATUS 5 with mgr := { w.mgr with takeover := none } }
    | none => w)

/-- DEPOSED (R425). -/
def execDeposed (port : Fin 40) (pkt : Packet) (s : State) : Ans :=
  s.run (fun b w => if w.arrives port.val pkt 6 then
    w.onCtrl pkt 22 (fun v c =>
      if v.acting then v.depose
      else if b.role = 2 then { v with mgr := { v.mgr with repGen := some (beAt c.body 0 1) } }
      else v) else w)

end Sys2Proof.Machine
end

