-- ==== Sys2Proof/Machine/Recovery.lean ====
section
/-! DEFINITION. Machine/Recovery.lean: checkpoints, roll calls, plans and restores (R405 to R422, Tables 11-5, 11-7 and 11-8). -/

namespace Sys2Proof.Machine

/-! ### The state record (R410, Table 11-7; its layout is notes/assumptions/44.md) -/

/-- A part of the record: an address of the device's own memory with the bytes that stood there. -/
def Work.chunk (w : Work) (a n : Nat) : List Byte := if n = 0 then [] else toLE 8 a ++ toLE 8 n ++ w.bytes a n

/-- Estimator tables, journals and staging records of every core that has them. -/
def Work.coreChunks (w : Work) : List Byte :=
  (List.range 1024).flatMap (fun c =>
    w.chunk (w.estAt c 0) (32 * w.estCount c) ++
    (if (w.parts c).isEmpty then [] else
      w.chunk (w.jrnlAt c 0) 2048 ++
        (w.parts c).flatMap (fun q => q.2.staged.flatMap (fun r => w.chunk (w.stageAt c r.idx) 2112))))

/-- Scale table, segment estimates, crew table and member lists. -/
def Work.tableChunks (w : Work) : List Byte :=
  let n := w.fld SCALE_COUNT 0 28
  let k := min 1024 (w.fld CREW_COUNT 0 11)
  let cb := w.base CREW_BASE_LO CREW_BASE_HI
  w.chunk (w.base SCALE_BASE_LO SCALE_BASE_HI) n ++ w.chunk (w.segEst 0) (4 * n) ++ w.chunk cb (32 * k) ++
    (List.range k).flatMap (fun i =>
      let e := cb + 32 * i
      if (w.num e 1).testBit 0 then w.chunk (w.num (e + 16) 8) (16 * min 4096 (w.num (e + 2) 2)) else [])

/-- Physical section: deck records, then a record for each stack. -/
def Work.physical (w : Work) : List Byte :=
  let d := w.deckRecords.flatten
  toLE 8 d.length ++ d ++ (List.range 12).flatMap w.stackRecord

/-- Logical node of the device's position in a crew. -/
def Crew.logicalNode (c : Crew) : Nat := match c.members[c.pos]? with | some m => m.logical | none => 0

/-- The record of checkpoint K ordered for finish F: a header of 64 bytes, generator positions, parts of memory, physical records.
A stroke that has begun since has advanced the stroke number and GEN_SEQ by one. -/
def Work.stateRecord (w : Work) (crew : Crew) (k f : Nat) : List Byte :=
  let late := if w.stroke.catchAt = beatAdd f 1 then 1 else 0
  let gens := (List.range 1024).flatMap (fun c =>
    toLE 4 ((w.rd (GEN_SEQ c) + 2 ^ 32 - (if w.coxState c = 0 then 0 else late)) % 2 ^ 32))
  let mem := w.coreChunks ++ w.tableChunks
  let body := gens ++ toLE 8 mem.length ++ mem ++ w.physical
  let head := fun (crc : Nat) => toLE 4 k ++ toLE 2 crew.logicalNode ++ zeros 2 ++ toLE 4 (w.rd STEP_COMMITTED) ++
    toLE 4 ((w.mgr.strokeNo + 2 ^ 32 - late) % 2 ^ 32) ++ toLE 8 f ++ toLE 4 crc ++ toLE 4 (64 + body.length) ++ zeros 32
  head (crc32c (head 0 ++ body)) ++ body

/-- The stroke crew that the device runs in, of its copy. -/
def Work.strokeCrew (w : Work) : Option Crew :=
  match w.runningCrews.head? with | some n => w.crew? n | none => w.crewTab.find? (·.stroke)

/-- The state record written into both slots (R406, R410). -/
def Work.writeRecord (w : Work) (k f : Nat) : Work :=
  match w.strokeCrew with
  | none => w
  | some crew =>
    let r := w.stateRecord crew k f
    let w := w.put (w.ownSlot k) r false
    match crew.keeperNode with
    | none => w
    | some n =>
      (List.range (ceilDiv r.length 4096)).foldl (fun (v : Work) i =>
        v.sendBlock crew n (v.ownSlot k + 4096 * i) (crew.keepAddr + k % 2 * v.ckptSlotSize + 4096 * i)) w

/-! ### Checkpoints at the member (R405, R410, R411) -/

/-- CKPT_DONE (Table 11-5). -/
def Work.ckptDone (w : Work) (crew k status : Nat) : Work := w.toManager 6 crew (toBE 4 k ++ toBE 1 status ++ zeros 3)

/-- CKPT_ORDER reaches a member; one at or after its finish is reported and ignored (R405). -/
def Work.takeOrder (w : Work) (crew : Nat) (l : List Byte) : Work :=
  if l.length ≠ 12 then w
  else if !beatBefore w.beatFull (beAt l 4 8) then w.ckptDone crew (beAt l 0 4) 1
  else { w with mgr := { w.mgr with ckptOrder := some (beAt l 0 4, beAt l 4 8) } }

/-- Every checkpoint segment slot of the stroke is complete. -/
def Work.segmentsDone (w : Work) : Bool :=
  w.coxes.all (fun q => match q.2.prog with
    | some p => (p.slots.zipIdx).all (fun s => s.1.action != 5 || q.2.state s.2 == 3)
    | none => true)

/-- No DATA packet of this device waits for its acknowledgement. -/
def Work.dataAcked (w : Work) : Bool :=
  w.txFlows.all (fun f => f.2.unacked.all (fun u => u.2.type != 0) && f.2.waiting.all (·.type != 0))

/-- Both copies of the checkpoint are written and acknowledged (R411). -/
def Work.bothWritten (w : Work) (f : Nat) : Bool :=
  !w.mgr.recordDue && w.stroke.catchAt == beatAdd f 1 && w.stroke.active && w.segmentsDone && w.dataAcked

/-! ### Checkpoints at the manager (R404, R405, R407, R411) -/

/-- 4 KiB blocks of a table that the deputy takes at the same addresses (log 45). -/
def Work.refreshTable (w : Work) (dep base len : Nat) : Work :=
  if len = 0 then w
  else (List.range ((base + len - 1) / 4096 - base / 4096 + 1)).foldl (fun (v : Work) i =>
    let a := 4096 * (base / 4096 + i)
    v.sendMem 0 dep 0 0 1 true a a) w

/-- The deputy's node, plan and position tables refreshed (R411). -/
def Work.refreshDeputy (w : Work) : Work :=
  match w.mgr.depNode with
  | none => w
  | some d =>
    ((w.refreshTable d (w.base NODE_TABLE_LO NODE_TABLE_HI) (32 * w.fld NODE_TABLE_COUNT 0 13)).refreshTable d
      (w.base PLAN_BASE_LO PLAN_BASE_HI) (8 * w.fld PLAN_COUNT 0 16)).emit (.positionTable d w.mgr.positions)

/-- The manager commits a checkpoint (R404, R411). -/
def Work.commitCkpt (w : Work) (n k : Nat) : Work :=
  let m := w.mcrew n
  let w := w.setMcrew n { m with ckpt := none, lastCommit := w.beatFull, stretch := 0 }
  let w := ((w.wr CKPT_LAST k).inc CKPT_CNT).newInterval m.stretch
  w.refreshDeputy.controlAll (w.crewNodes n) 7 n (toBE 4 k)

/-- CKPT_DONE reaches the manager (R411). -/
def Work.takeDone (w : Work) (src n : Nat) (l : List Byte) : Work :=
  let m := w.mcrew n
  match m.ckpt with
  | none => w
  | some a =>
    if l.length ≠ 8 || beAt l 0 4 ≠ a.k then w
    else if beAt l 4 1 ≠ 0 then w.failAttempt n
    else
      let done := (src :: a.done).dedup
      let w := w.setMcrew n { m with ckpt := some { a with done := done } }
      if (w.crewNodes n).all done.contains then w.commitCkpt n a.k else w

/-! ### The recovery plan (R419 to R422) -/

/-- The domain position that a node holds. -/
def Work.positionOf (w : Work) (node : Nat) : Option Nat :=
  match w.mgr.positions.find? (fun q => q.2 == node) with
  | some q => some q.1
  | none => (w.nodeTable.find? (fun e => e.node == node && e.kind == 0)).map (·.position)

/-- The plan's way for a failed position: its spare's node, or its variant (R422). -/
inductive Way where
  | spare (node : Nat)
  | spread (variant : Nat)
  deriving DecidableEq, Repr

/-- The plan's entries of a position: kind, variant, spare's node. -/
def Work.planOf (w : Work) (p : Nat) : List (Nat × Nat × Nat) :=
  (List.range (w.fld PLAN_COUNT 0 16)).filterMap (fun i =>
    let a := w.base PLAN_BASE_LO PLAN_BASE_HI + 8 * i
    if w.num a 2 = p then some (w.num (a + 2) 1, w.num (a + 3) 1, w.num (a + 4) 2) else none)

/-- A spare serves: it has joined, holds no position, and has answered the roll call. -/
def Work.spareServes (w : Work) (answered : List Nat) (node : Nat) : Bool :=
  (Sp.find w.mgr.joined node).isSome && w.mgr.positions.all (fun q => q.2 != node) && answered.contains node

/-- The way for a failed position: the first SPARE entry that serves, failing that the first SPREAD entry. -/
def Work.wayFor (w : Work) (answered : List Nat) (p : Nat) : Option Way :=
  match (w.planOf p).find? (fun e => e.1 == 1 && w.spareServes answered e.2.2) with
  | some e => some (.spare e.2.2)
  | none => ((w.planOf p).find? (fun e => e.1 == 2)).map (fun e => .spread e.2.1)

/-- What the plan makes of several failed nodes: variant, substitutions, and whether one has no way. -/
structure Plan where
  variant : Nat := 0
  subs : List (Nat × Nat) := []
  dropped : List Nat := []
  stuck : Bool := false
  deriving DecidableEq, Repr

/-- One failed node planned for; counters and positions follow. -/
def Work.planNode (w : Work) (answered : List Nat) (p : Plan) (node : Nat) : Plan × Work :=
  match w.positionOf node with
  | none => ({ p with stuck := true }, w)
  | some pos =>
    match w.wayFor answered pos with
    | some (.spare s) =>
      ({ p with subs := p.subs ++ [(node, s)] },
       { w.inc SPARE_CNT with mgr := { w.mgr with positions := Sp.put w.mgr.positions pos s } })
    | some (.spread v) =>
      ({ p with variant := v, dropped := p.dropped ++ [node] },
       { w.inc SPREAD_CNT with mgr := { w.mgr with positions := Sp.erase w.mgr.positions pos } })
    | none => ({ p with stuck := true }, w)

/-- The jobs of every crew of some failed nodes are freed 64 beats ahead, and reopen once their quarantine has run (R421). -/
def Work.fence (w : Work) (failed : List Nat) : Work :=
  let free := beatAdd w.beatFull 64
  let again := beatAdd free (2 * w.msgLife + 1)
  let cs := w.crewTab.filter (fun c => c.job != 0 && c.members.any (fun m => failed.contains m.node))
  cs.foldl (fun (v : Work) c =>
    let ns := (v.crewNodes c.num).filter (fun n => !failed.contains n)
    let v := v.controlAll ns 18 c.num (toBE 2 c.job ++ zeros 2 ++ toBE 8 free)
    let v := v.setJob c.job { v.jobEnt c.job with freeAt := some free }
    { v with mgr := { v.mgr with reopen := v.mgr.reopen ++ [(again, c.num, c.job, (v.jobGen c.job + 1) % 256)] } }) w

/-! ### Restore at the manager (R412, R416, R417, R420) -/

/-- The nodes of a restore: members and substitutes, the failed apart. -/
def Work.restoreNodes (w : Work) (n : Nat) (r : Restoring) (failed : List Nat) : List Nat :=
  (((w.crewNodes n).map (fun x => match r.subs.find? (fun s => s.1 == x) with | some s => s.2 | none => x)).filter
    (fun x => !failed.contains x)).dedup

/-- The physical records that the manager holds of a node go back to it, as REPORTs of their kinds (R414; log 121). -/
def Work.sendPhysical (w : Work) (node : Nat) : Work :=
  (w.mgr.reports.filter (fun q => q.1 / 2 ^ 20 == node)).foldl (fun (v : Work) q =>
    v.control node 13 0 ([if q.1 % 2 ^ 20 < 2 ^ 16 then 1 else 2, 0, 0, 0] ++ q.2)) w

/-- RESTORE to every member and substitute (R412), with the physical records of each (R414). -/
def Work.sendRestore (w : Work) (n : Nat) (r : Restoring) (failed : List Nat) : Work :=
  let ns := w.restoreNodes n r failed
  let w := (w.setBit MGR_STATUS 3).controlAll ns 10 n
    (toBE 4 r.k ++ toBE 1 r.variant ++ zeros 1 ++ toBE 2 r.subs.length ++ r.subs.flatMap (fun s => toBE 2 s.1 ++ toBE 2 s.2))
  ns.foldl (fun (v : Work) x => v.sendPhysical x) w

/-- The job of a crew is lost (R416, R422): its coxes stay IDLE. -/
def Work.jobLost (w : Work) (n : Nat) (counted : Bool) : Work :=
  let w := (w.setMcrew n { w.mcrew n with lost := true, restore := none, roll := none }).setBit MGR_STATUS 4
  (w.clrBit MGR_STATUS 3).when counted (·.inc RESTORE_FAIL_CNT)

/-- The roll call is over (R419 to R422): a program fault ends the job; otherwise the failed are planned for and fenced, and the
crew is restored to the last checkpoint. -/
def Work.afterRoll (w : Work) (n : Nat) (answered : List Nat) : Work :=
  let m := w.mcrew n
  let ms := w.crewNodes n
  let failed := (m.failed ++ ms.filter (fun x => !answered.contains x || w.mgr.fallen.contains x)).dedup
  let w := w.setMcrew n { m with roll := none, failed := failed }
  if failed.isEmpty && [5, 11].contains m.cause then w.jobLost n false
  else
    let w := (w.inc FAIL_CNT).newInterval m.stretch
    let q := failed.foldl (fun (a : Plan × Work) x => a.2.planNode answered a.1 x) ({}, w)
    let p := q.1
    let w := q.2
    if p.stuck then w.jobLost n true
    else
      let w := w.when (!failed.isEmpty) (·.fence failed)
      let r : Restoring := { k := w.rd CKPT_LAST, variant := if failed.isEmpty then m.variant else p.variant, subs := p.subs }
      let fallen := w.mgr.fallen.filter (fun x => !failed.contains x)
      let w := (w.setMcrew n { w.mcrew n with restore := some r }).sendRestore n r failed
      { w with mgr := { w.mgr with subs := w.mgr.subs ++ p.subs, fallen := fallen } }

/-- A ROLL_ANSWER reaches the manager (R420). -/
def Work.takeAnswer (w : Work) (src n : Nat) (l : List Byte) : Work :=
  let m := w.mcrew n
  match m.roll with
  | none => w
  | some r =>
    if l.length ≠ 8 || beAt l 0 4 ≠ r.call || !(beAt l 4 1).testBit 0 then w
    else
      let answered := (src :: r.answered).dedup
      let failed := if (beAt l 4 1).testBit 1 then (src :: m.failed).dedup else m.failed
      let w := w.setMcrew n { m with roll := some { r with answered := answered }, failed := failed }
      if (w.crewNodes n).all answered.contains then w.afterRoll n answered else w

/-- Every member holds the checkpoint: the restore finish R is named (R417). -/
def Work.nameFinish (w : Work) (n : Nat) (r : Restoring) : Work :=
  let at_ := beatAdd w.beatFull (max 16 (w.fld MGR_CTL 8 8))
  (w.setMcrew n { w.mcrew n with restore := some { r with finish := some at_ } }).controlAll
    (w.restoreNodes n r (w.mcrew n).failed) 12 n (toBE 4 r.k ++ toBE 8 at_)

/-- A RESTORE_DONE reaches the manager (R416, R417): one that fails repeats the restore once; one that comes after the finish was
named tells of a late RESTORE_FINISH, and the restore starts again (log 46). -/
def Work.takeRestored (w : Work) (src n : Nat) (l : List Byte) : Work :=
  let m := w.mcrew n
  match m.restore with
  | none => w
  | some r =>
    if l.length ≠ 8 || beAt l 0 4 ≠ r.k then w
    else if r.finish.isSome then w.when (beAt l 4 1 ≠ 0) (·.orderAbort n 13)
    else if beAt l 4 1 ≠ 0 then
      if r.tries = 1 then
        let r := { r with done := [], tries := 2 }
        (w.setMcrew n { m with restore := some r }).sendRestore n r m.failed
      else w.jobLost n true
    else
      let r := { r with done := (src :: r.done).dedup }
      let w := w.setMcrew n { m with restore := some r }
      if (w.restoreNodes n r m.failed).all r.done.contains then w.nameFinish n r else w

/-! ### Restore at the member (R412 to R418) -/

/-- The device substitutes a failed node. -/
def Work.isSubstitute (w : Work) (subs : List (Nat × Nat)) : Bool := subs.any (fun s => s.2 == w.node)

/-- Every deck with a level map on every tile. -/
def Work.mappedDecks (w : Work) : List (Nat × Nat × Nat) :=
  w.tiles.flatMap (fun q => q.2.maps.map (fun m => (q.1 / 16, q.1 % 16, m.1)))

/-- The maps of the decks that the programs held name (log 25). -/
def Work.noteCoxes (w : Work) : Work :=
  w.coxes.foldl (fun (v : Work) q =>
    let v := match q.2.prog with | some p => v.noteProgram q.1 p | none => v
    match q.2.next with | some (p, _) => v.noteProgram q.1 p | none => v) w

/-- Level surveys at a restore (R114, R127, R413): of every deck on a substitute, and where the level map was lost, because the device
has reset or the map is poisoned (log 119). -/
def Work.restoreSurveys (w : Work) (subs : List (Nat × Nat)) : Work :=
  w.mappedDecks.foldl (fun (v : Work) d =>
    let lost := match Sp.find (v.tile d.1 d.2.1).maps d.2.2 with | some m => v.poisoned m.level (1024 * 1024) | none => false
    v.when (w.isSubstitute subs || w.neverCaught || lost) (·.callSurvey d.1 d.2.1 (v.phys d.1 d.2.1 d.2.2))) w

/-- RESTORE reaches a member (R412): no slot runs and every cox is IDLE; the surveys it needs are called for (R413). -/
def Work.takeRestore (w : Work) (l : List Byte) : Work :=
  let n := beAt l 6 2
  if l.length ≠ 8 + 4 * n then w
  else
    let subs := (List.range n).map (fun i => (beAt l (8 + 4 * i) 2, beAt l (10 + 4 * i) 2))
    let w := w.abortCores (w.coxes.map (·.1))
    let w := w.coxes.foldl (fun (v : Work) q => v.setCoxState q.1 0) w
    let w := (((w.setBit MGR_STATUS 3)).noteCoxes).restoreSurveys subs
    { w with mgr := { w.mgr with restore := some (beAt l 0 4, beAt l 4 1, subs), restoreTaken := false, restoreBad := false, restoreDone := false,
                                 restoreFinish := none, ckptOrder := none, ckptNow := none, recordDue := false } }

/-- The record in the device's own slot for K, by its length field. -/
def Work.slotRecord (w : Work) (k : Nat) : List Byte :=
  let a := w.ownSlot k
  w.bytes a (min (w.num (a + 28) 4) (2 ^ 24))

/-- Whether the slot holds K, and its record is whole: 0, 1 a bad record, 2 no checkpoint K (R416). -/
def Work.recordStatus (w : Work) (k : Nat) : Nat :=
  let r := w.slotRecord k
  if r.length < 64 || leAt r 0 4 ≠ k then 2
  else if crc32c (sub r 0 24 ++ zeros 4 ++ r.drop 28) ≠ leAt r 24 4 then 1
  else 0

/-- Parts of memory taken back from a record; at most `n`. -/
def restoreChunks : Nat → List Byte → Work → Work
  | 0, _, w => w
  | n + 1, l, w =>
    if l.length < 16 then w
    else
      let len := leAt l 8 8
      restoreChunks n (l.drop (16 + len)) (w.put (leAt l 0 8) (sub l 16 len) false)

/-- Generator positions (R245, R415): GEN_SEQ from the stroke number, DRAW from WRITTEN; a saved value that differs is discarded. -/
def Work.restoreGens (w : Work) (r : List Byte) : Work :=
  let no := leAt r 12 4
  (List.range 1024).foldl (fun (v : Work) c =>
    let draws := (List.range (v.estCount c)).any (fun i => v.num (v.estAt c i + 16) 4 != v.num (v.estAt c i + 20) 4)
    let v := (List.range (v.estCount c)).foldl (fun (u : Work) i => u.storeNum (u.estAt c i + 16) 4 (u.num (u.estAt c i + 20) 4)) v
    let v := v.when (draws || leAt r (64 + 4 * c) 4 != no) (fun u => (u.setBit (GEN_STATUS c) 0).inc (REDERIVE_CNT c))
    if v.rd (GEN_SEQ c) = no then v else v.wr (GEN_SEQ c) no) w

/-- Residuals of a tile's decks from the restored master and the level map as it stands (R114). -/
def Work.tileResids (w : Work) (c t : Nat) : Work :=
  (w.tile c t).maps.foldl (fun (v : Work) k =>
    let m := k.2
    (List.range (1024 * 1024)).foldl (fun (u : Work) i =>
      let s := levelScale (u.oscale c t k.1 (i % 1024 / 32)) m.pexp
      u.storeNum (m.resid + 4 * i) 4 (residual (u.word (m.master + 4 * i)) (byteLevel (u.byte (m.level + i))) s).toNat) v) w

/-- Every row of every mapped deck in use is to be reached by restore transfers (R418). -/
def Work.callTransfers (w : Work) : Work :=
  { w with tiles := w.tiles.map (fun (t : Nat × Tile) =>
      (t.1, { t.2 with restoreRows := t.2.maps.flatMap (fun k => (List.range 1024).map (fun r => (k.1, r))) })) }

/-- The restored state of a whole record (R413, steps 5 and 6): folds of the device complete, then its parts of memory are taken back,
with the draws and the COMMITTED entries, and residuals are recomputed. -/
def Work.applyRecord (w : Work) (k : Nat) : Work :=
  let r := w.slotRecord k
  let n := leAt r 4160 8
  let w := (w.commits.map (·.1)).foldl (fun (v : Work) c => v.foldsDone c) w.foldMissed
  let w := (restoreChunks n (sub r 4168 n) w).restoreGens r
  let w := { w with mgr := { w.mgr with strokeNo := leAt r 12 4 } }
  let w := (w.coxes.map (·.1)).foldl (fun (v : Work) c => v.completeJournal c) w.noteCoxes
  w.tiles.foldl (fun (v : Work) t => v.tileResids (t.1 / 16) (t.1 % 16)) { w with unfolded := [] }

/-- The programs that the coxes hold for a variant: the one armed for it, else the one waiting for its catch, else the one in force
(R403, R417). -/
def Work.heldFor (w : Work) (variant : Nat) : List (Nat × Prog) :=
  w.coxes.filterMap (fun q =>
    ((Sp.find w.mgr.armed (256 * q.1 + variant)).orElse (fun _ => (q.2.next.map (·.1)).orElse (fun _ => q.2.prog))).map
      (fun p => (q.1, p)))

/-- The programs held for the variant of the restore under way. -/
def Work.heldProgs (w : Work) : List (Nat × Prog) :=
  w.heldFor (match w.mgr.restore with | some (_, v, _) => v | none => w.fld MGR_STATUS 8 8)

/-- Extents of the checkpoint segment slots of the programs held: address, length, offset (R408, R409). -/
def Work.ownExtents (w : Work) : List (Nat × Nat × Nat) :=
  w.heldProgs.flatMap (fun q => (q.2.slots.filter (·.action == 5)).flatMap (fun sl =>
    match w.segment q.1 sl.desc with | some r => r.2 | none => []))

/-- The extents that the device holds in its own slot for K come back to their places (R413, step 3; log 58). -/
def Work.restoreExtents (w : Work) (k : Nat) : Work :=
  w.ownExtents.foldl (fun (v : Work) e => v.copy (v.ownSlot k + e.2.2) e.1 e.2.1) w

/-- A block of those extents is poisoned: it fails the restore (R413, step 4). -/
def Work.extentsBad (w : Work) (k : Nat) : Bool := w.ownExtents.any (fun e => w.poisoned (w.ownSlot k + e.2.2) e.2.1)

/-- Instructions of a stream from an address on to its END. -/
def Work.streamFrom (w : Work) (c : Nat) : Nat → Nat → List (List Byte)
  | 0, _ => []
  | n + 1, a =>
    match w.localGet c a 32 with
    | some (b, _) => if leAt b 0 1 = 15 then [] else b :: w.streamFrom c n (a + 32)
    | none => []

/-- The NARROWs of the COPY slots of the programs held that make the narrow weight copy: MXFP4, BLOCK, TRANS, without SR (R247). -/
def Work.copyNarrows (w : Work) : List (Nat × NarrowPar) :=
  w.heldProgs.flatMap (fun q =>
    ((q.2.conds.filter (·.copy)).filterMap (fun e => q.2.slots[e.slot]?)).flatMap (fun sl =>
      match w.descriptor q.1 sl.desc 80 64 with
      | none => []
      | some h => if !(leAt h 3 1).testBit 0 then [] else
        (w.streamFrom q.1 65536 (leAt h 4 4)).filterMap (fun b =>
          if leAt b 0 1 ≠ 16 ∨ leAt b 4 1 ≠ 6 then none
          else (w.localGet q.1 (leAt b 8 4) 64).bind (fun pb =>
            let p := narrowOf pb.1
            if narrowOk pb.1 p && p.fmt == 7 && p.block && p.trans && !p.sr then some (q.1, p) else none))))

/-- One NARROW of the copy run again on the master and estimator entry as they stand, the entry left as it is: whether what it
writes agrees with the parts of the copy that the checkpoint held (R247, R413, step 7). -/
def Work.rebuild (w : Work) (c : Nat) (p : NarrowPar) : Bool × Work :=
  match kgets c p.ins w with
  | none => (true, w)
  | some (rows, _, w) =>
    match kputs c (p.go (w.rd (GEN_SEQ c)) rows (w.loadEst (w.estAt c p.entry))).puts with
    | none => (true, w)
    | some qs =>
      let held := fun (a n : Nat) => w.ownExtents.any (fun e => e.1 ≤ a && a + n ≤ e.1 + e.2.1)
      (qs.all (fun q => !held q.1 q.2.length || w.bytes q.1 q.2.length == q.2),
       qs.foldl (fun (v : Work) q => v.put q.1 q.2 false) w)

/-- The narrow weight copy is rebuilt from the restored master; whether it agrees with the checkpoint's (R413, step 7). -/
def Work.rebuildCopy (w : Work) : Bool × Work :=
  w.copyNarrows.foldl (fun (a : Bool × Work) q => let r := a.2.rebuild q.1 q.2; (a.1 && r.1, r.2)) (true, w)

/-- The undo and the surveys of a restore are over. -/
def Work.restoreReady (w : Work) : Bool := !w.undoLeft && w.tiles.all (fun t => t.2.surveys.isEmpty)

/-- The record is taken back once, when undo and surveys are over and it is whole (R413); a substitute, or a variant that moves layers,
then reaches its weights by restore transfers (R418, R422). -/
def Work.takeBack (w : Work) : Work :=
  match w.mgr.restore with
  | some (k, variant, subs) =>
    if w.mgr.restoreTaken || !w.restoreReady || w.recordStatus k ≠ 0 then w
    else
      let bad := w.extentsBad k
      let r := ((w.restoreExtents k).applyRecord k).rebuildCopy
      let w := r.2
      let w := { w with mgr := { w.mgr with restoreBad := bad || !r.1 } }
      ({ w with mgr := { w.mgr with restoreTaken := true } }).when
        (w.isSubstitute subs || variant ≠ w.fld MGR_STATUS 8 8) (·.callTransfers)
  | none => w

/-- A stack's record taken as the stack's own (R307, R414). -/
def Work.applyStackRecord (w : Work) (l : List Byte) : Work :=
  let m := beAt l 0 1 % 12
  let die := beAt l 4 1
  let w := w.setMemc m { w.memc m with retired := (List.range (min 64 (beAt l 5 1))).map (fun i => beAt l (8 + 2 * i) 2) }
  if die < 18 then (w.setBit (MC_STATUS m) 1).setFld (MC_STATUS m) 2 5 die else w

/-- The physical records that came back take effect at the restore finish (R149, R414, R417). -/
def Work.applyPhysical (w : Work) : Work :=
  let w' := w.mgr.physical.foldl (fun (v : Work) q => if q.1 < 2 ^ 16 then v.applyDeck q.2 else v.applyStackRecord q.2) w
  { w' with mgr := { w'.mgr with physical := [] } }

/-- RESTORE_DONE (Table 11-5). -/
def Work.restoreDone (w : Work) (k status : Nat) : Work :=
  let crew := match w.strokeCrew with | some c => c.num | none => 0
  w.toManager 11 crew (toBE 4 k ++ toBE 1 status ++ zeros 3)

/-- The restore finish at a member (R400, R417): crew tables with their substitutions, committed step, variant; a cox with RUN set
and a program arms for R + 1 (log 47). -/
def Work.memberRestored (w : Work) (b : Board) (k variant : Nat) (subs : List (Nat × Nat)) (r : Nat) : Work :=
  let rec_ := w.slotRecord k
  let w := w.applyPhysical
  let w := w.bindCrews (w.readCrews.map (Crew.substitute subs))
  let w := ((((w.wr STEP_COMMITTED (leAt rec_ 8 4)).setFld MGR_STATUS 8 8 variant).inc RESTORE_CNT).clrBit MGR_STATUS 3).stepRun
  let w := { w with mgr := { w.mgr with restore := none, restoreTaken := false, restoreBad := false, restoreDone := false, restoreFinish := none } }
  let due := (w.heldFor variant).filter (fun q => w.flag (COX_CTL q.1) 0 && w.mayStroke b)
  let w := w.when (!due.isEmpty) (·.checkEntries)
  let w := if w.step.entryBad then w
    else due.foldl (fun (v : Work) q => (v.setCox q.1 { prog := some q.2, next := some (q.2, beatAdd r 1) }).setCoxState q.1 1) w
  w.reportDecks

/-- The restore finish of a crew at its manager (R405, R417). -/
def Work.managerRestored (w : Work) (n : Nat) (m : MCrew) (r : Restoring) (at_ : Nat) : Work :=
  let w := w.setMcrew n { m with restore := none, failed := [], on := true, began := true, catchAt := beatAdd at_ 1, ready := [], fin := none,
                                 said := false, ckptDue := true, variant := r.variant }
  ((w.inc RESTORE_CNT).clrBit MGR_STATUS 3).setFld MGR_STATUS 8 8 r.variant

/-- A write of MGR_CTL (Table 11-11): RESTORE_NOW makes the manager abort every stroke crew and restore it (R422). -/
def Work.writeMgrCtl (w : Work) (p : Path) (v : Nat) : Work :=
  let w := (w.wrPlain p MGR_CTL v).clrBit MGR_CTL 6
  if v.testBit 6 && w.acting then
    ((w.crewTab.filter (·.stroke)).map (·.num)).foldl (fun (u : Work) n => u.orderAbort n 12) w
  else w

/-! ### The commands -/

/-- CKPT_INTERVAL_EXPIRE: the interval since a crew's last commit has passed (R405). -/
def execCkptIntervalExpire (s : State) : Ans :=
  s.run (fun _ w =>
    if !w.acting then w
    else w.mgr.crews.foldl (fun (v : Work) q =>
      let m := q.2
      if m.on && m.ckpt.isNone && !beatBefore v.beatFull (beatAdd m.lastCommit (v.rd CKPT_INTERVAL)) then
        v.setMcrew q.1 { m with ckptDue := true }
      else v) w)

/-- CKPT_ORDER (R405). -/
def execCkptOrder (port : Fin 40) (pkt : Packet) (s : State) : Ans :=
  s.run (fun _ w => if w.arrives port.val pkt 6 then
    w.onCtrl pkt 5 (fun v c => if v.fromManager pkt then v.takeOrder c.crew c.body else v) else w)

/-- STATE_RECORD_WRITTEN: folds are complete and the record stands in both slots (R410). -/
def execStateRecordWritten (s : State) : Ans :=
  s.run (fun _ w => match w.mgr.ckptNow with
    | some (k, f) =>
      if w.mgr.recordDue && w.allParts.all (fun q => !q.2.2.foldDue) then
        let w := w.writeRecord k f
        { w with mgr := { w.mgr with recordDue := false } }
      else w
    | none => w)

/-- CKPT_WRITTEN: both copies are written, every block acknowledged (R411). -/
def execCkptWritten (s : State) : Ans :=
  s.run (fun _ w => match w.mgr.ckptNow with
    | some (k, f) =>
      if w.bothWritten f then
        let w := { w with mgr := { w.mgr with ckptNow := none } }
        w.ckptDone (match w.strokeCrew with | some c => c.num | none => 0) k 0
      else w
    | none => w)

/-- CKPT_DONE (R411). -/
def execCkptDone (port : Fin 40) (pkt : Packet) (s : State) : Ans :=
  s.run (fun _ w => if w.arrives port.val pkt 6 then
    w.onCtrl pkt 6 (fun v c => if v.acting then v.takeDone pkt.src c.crew c.body else v) else w)

/-- CKPT_COMMIT (R411): the member's last committed checkpoint is K. -/
def execCkptCommit (port : Fin 40) (pkt : Packet) (s : State) : Ans :=
  s.run (fun _ w => if w.arrives port.val pkt 6 then
    w.onCtrl pkt 7 (fun v c => if v.fromManager pkt && c.body.length = 4 then (v.wr CKPT_LAST (beAt c.body 0 4)).inc CKPT_CNT else v) else w)

/-- ROLL_CALL (R420): a member answers once its undo is complete. -/
def execRollCall (port : Fin 40) (pkt : Packet) (s : State) : Ans :=
  s.run (fun _ w => if w.arrives port.val pkt 6 then
    w.onCtrl pkt 8 (fun v c =>
      if !v.fromManager pkt || c.body.length ≠ 4 then v
      else { v with mgr := { v.mgr with rollDue := some (c.crew, beAt c.body 0 4) } }.rollEdge) else w)

/-- ROLL_ANSWER (R420). -/
def execRollAnswer (port : Fin 40) (pkt : Packet) (s : State) : Ans :=
  s.run (fun _ w => if w.arrives port.val pkt 6 then
    w.onCtrl pkt 9 (fun v c => if v.acting then v.takeAnswer pkt.src c.crew c.body else v) else w)

/-- ROLLCALL_TIMEOUT: ROLLCALL_WAIT beats after the call (R420). -/
def execRollcallTimeout (crew : Fin 1024) (s : State) : Ans :=
  s.run (fun _ w => match (w.mcrew crew.val).roll with
    | some r =>
      if !w.acting || beatBefore w.beatFull (beatAdd r.start (max 64 (w.fld MGR_CTL 16 16))) then w
      else w.afterRoll crew.val r.answered
    | none => w)

/-- RESTORE (R412). -/
def execRestore (port : Fin 40) (pkt : Packet) (s : State) : Ans :=
  s.run (fun _ w => if w.arrives port.val pkt 6 then
    w.onCtrl pkt 10 (fun v c => if v.fromManager pkt then v.takeRestore c.body else v) else w)

/-- RESTORE_TRANSFER_START (R418): the first one finds the record taken back. -/
def execRestoreTransferStart (core : Fin 1024) (tile : Fin 16) (s : State) : Ans :=
  s.run (fun _ w => w.takeBack.startRestore core.val tile.val)

/-- RESTORE_COMPLETE (R413, R416): `status` is how the checks of the blocks from other devices came out; the device's own blocks,
the record in its slot and the rebuilt narrow copy are checked here. -/
def execRestoreComplete (status : Fin 3) (s : State) : Ans :=
  s.run (fun _ w => match w.mgr.restore with
    | some (k, _, _) =>
      let w := w.when (status.val = 0) (·.takeBack)
      if w.mgr.restoreDone || !w.restoreReady || w.tiles.any (fun t => !t.2.restoreRows.isEmpty) then w
      else
        let st := if !w.mgr.restoreTaken && w.recordStatus k ≠ 0 then w.recordStatus k
          else if w.mgr.restoreBad then 1 else status.val
        { w with mgr := { w.mgr with restoreDone := st == 0 } }.restoreDone k st
    | none => w)

/-- RESTORE_DONE (R416, R417). -/
def execRestoreDone (port : Fin 40) (pkt : Packet) (s : State) : Ans :=
  s.run (fun _ w => if w.arrives port.val pkt 6 then
    w.onCtrl pkt 11 (fun v c => if v.acting then v.takeRestored pkt.src c.crew c.body else v) else w)

/-- RESTORE_FINISH (R417): one that comes at or after its beat is reported. -/
def execRestoreFinish (port : Fin 40) (pkt : Packet) (s : State) : Ans :=
  s.run (fun _ w => if w.arrives port.val pkt 6 then
    w.onCtrl pkt 12 (fun v c =>
      match v.mgr.restore with
      | some (k, _, _) =>
        if !v.fromManager pkt || c.body.length ≠ 12 || beAt c.body 0 4 ≠ k || !v.mgr.restoreDone then v
        else if !beatBefore v.beatFull (beAt c.body 4 8) then v.restoreDone k 1
        else { v with mgr := { v.mgr with restoreFinish := some (beAt c.body 4 8) } }
      | none => v) else w)

/-- RESTORE_FINISH_BEAT: beat R at a member, and of the crews whose restore the manager finishes (R417). -/
def execRestoreFinishBeat (s : State) : Ans :=
  s.run (fun b w =>
    let w := match w.mgr.restore, w.mgr.restoreFinish with
      | some (k, v, subs), some r => if beatBefore w.beatFull r then w else w.memberRestored b k v subs r
      | _, _ => w
    if !w.acting then w
    else w.mgr.crews.foldl (fun (v : Work) q =>
      match q.2.restore with
      | some r => match r.finish with
        | some f => if beatBefore v.beatFull f then v else v.managerRestored q.1 q.2 r f
        | none => v
      | none => v) w)

/-- RESTORE_NOW: a write of MGR_CTL with RESTORE_NOW set, its other fields as they are (R422). -/
def execRestoreNow (path : Path) (s : State) : Ans :=
  s.run (fun _ w =>
    let v := putBits (w.rd MGR_CTL) 6 1 1
    w.onBus path MGR_CTL v (fun u => u.writeMgrCtl path v))

end Sys2Proof.Machine
end

