-- ==== Sys2Proof/Machine/Sess.lean ====
section
/-! DEFINITION. Machine/Sess.lean: generation and checking sessions: the request ring, the operations, the session programs with
their forward layer groups and digital streams, completions (R198, R280 to R293). -/

namespace Sys2Proof.Machine

/-! ### Rings and programs -/

/-- A request of 64 bytes (Table 7-10); `bad` where a field outside its operation's checks is not as laid down. -/
def reqOf (b : List Byte) : SessReq :=
  let op := leAt b 0 1
  let n := leAt b 8 4
  { op := op, cls := leAt b 1 1 % 4, digital := (leAt b 1 1).testBit 2, session := leAt b 2 2, tag := leAt b 4 4, count := n,
    stop := leAt b 12 4, inAddr := leAt b 16 8, outAddr := leAt b 24 8, prog := leAt b 32 1
    bad := op = 0 || 5 < op || 8 ≤ leAt b 1 1 || !allZero (sub b 33 31) || (op = 1 && 15 < leAt b 32 1) ||
      ((op = 2 || op = 4) && !inHbm (leAt b 16 8) (4 * n)) || ((op = 3 || op = 4) && !inHbm (leAt b 24 8) (4 * n)) ||
      (op = 1 && 1023 < leAt b 2 2 && leAt b 2 2 ≠ 0xFFFF) }

/-- SREQ_SIZE and SCPL_SIZE, 0 taken as 1. -/
def Work.reqSize (w : Work) : Nat := orDefault (w.fld SREQ_SIZE 0 16) 1
def Work.cplSize (w : Work) : Nat := orDefault (w.fld SCPL_SIZE 0 16) 1

/-- Requests taken from the ring in order while EN is set (R280); at most `n`. -/
def takeReqs : Nat → Work → Work
  | 0, w => w
  | n + 1, w =>
    let h := w.fld SREQ_HEAD 0 16
    if !w.flag SESS_CTL 0 || h = w.fld SREQ_TAIL 0 16 % w.reqSize then w
    else
      let g := w.hbmGet (w.base SREQ_BASE_LO SREQ_BASE_HI + 64 * h) 64
      let v := g.2.2.setFld SREQ_HEAD 0 16 ((h + 1) % w.reqSize)
      takeReqs n { v with sess := { v.sess with waiting := v.sess.waiting ++ [reqOf g.1] } }

/-- Entry p of the session program table (R283). -/
def Work.sessProg (w : Work) (p : Nat) : List Byte := (w.hbmGet (w.base SPROG_BASE_LO SPROG_BASE_HI + 32 * p) 32).1

/-- CACHE_BPT of a session program. -/
def Work.cacheBpt (w : Work) (p : Nat) : Nat := leAt (w.sessProg p) 12 4

/-- The reserved bytes of a session program's entry are zero, and its list lies in HBM (R283, Table 7-12). -/
def Work.sessProgOk (w : Work) (p : Nat) : Bool :=
  allZero (sub (w.sessProg p) 10 2) && allZero (sub (w.sessProg p) 16 16) && inHbm (leAt (w.sessProg p) 0 8) (8 * leAt (w.sessProg p) 8 2)

/-- The list of a session program: its entries of 8 bytes (R283). -/
def Work.sessList (w : Work) (p : Nat) : List Byte := (w.hbmGet (leAt (w.sessProg p) 0 8) (8 * leAt (w.sessProg p) 8 2)).1

/-- Address of a cache page. -/
def Work.cachePage (w : Work) (pg : Nat) : Nat := w.base SCACHE_BASE_LO SCACHE_BASE_HI / 65536 * 65536 + 65536 * pg

/-! ### Completions (R280, R287, R290, R292) -/

/-- The completion of a request (Table 7-11). -/
def Work.cplOf (w : Work) (r : SessReq) (session status done first last : Nat) (recovery : Bool) : List Byte :=
  toLE 4 r.tag ++ toLE 2 session ++ toLE 1 status ++ toLE 1 ((if recovery then 1 else 0) + if r.digital then 2 else 0) ++
    toLE 4 done ++ toLE 4 first ++ toLE 4 last ++ toLE 8 w.beatFull ++ zeros 4

/-- The completion ring is full. -/
def Work.cplFull (w : Work) : Bool := (w.fld SCPL_TAIL 0 16 + 1) % w.cplSize == w.fld SCPL_HEAD 0 16 % w.cplSize

/-- A completion written to the ring. -/
def Work.putCpl (w : Work) (b : List Byte) : Work :=
  (w.hbmPut (w.base SCPL_BASE_LO SCPL_BASE_HI + 32 * w.fld SCPL_TAIL 0 16) b false).setFld SCPL_TAIL 0 16
    ((w.fld SCPL_TAIL 0 16 + 1) % w.cplSize)

/-- A request completes: counted, and its completion written; one that finds the ring full, or another waiting, waits, and its wait is
counted (R290, R292). -/
def Work.complete (w : Work) (r : SessReq) (session status done first last : Nat) (recovery : Bool) : Work :=
  let b := w.cplOf r session status done first last recovery
  let w := w.inc SREQ_CNT
  let w := (w.when (status = 1) (·.inc SPOISON_CNT)).when (status = 2) (·.inc SCACHE_FULL_CNT)
  if w.cplFull || !w.sess.held.isEmpty then
    ({ w with sess := { w.sess with held := w.sess.held ++ [b] } }.inc SCPL_WAIT_CNT).setBit SESS_STATUS 11
  else w.putCpl b

/-- A request that runs nothing completes. One on a poisoned session still writes its outputs, with poison marks (R290). -/
def Work.refuseReq (w : Work) (r : SessReq) (status : Nat) : Work :=
  let s := w.rd STEP_COMMITTED
  let w := w.when (status = 1 && (r.op = 3 || r.op = 4)) (fun v => let d := v.drawBytes (4 * r.count); d.2.hbmPut r.outAddr d.1 true)
  w.complete r (if r.op = 1 then 0xFFFF else r.session) status 0 s s false

/-! ### Which request starts (R282, R288, R292) -/

/-- A session's request is in progress. -/
def Work.sessBusy (w : Work) (n : Nat) : Bool := match Sp.find w.sess.open_ n with | some s => s.run.isSome | none => false

/-- A COPY slot of the current stroke has not completed (R288). -/
def Work.copyOpen (w : Work) : Bool :=
  w.coxes.any (fun p => match p.2.prog with
    | some g => [2, 3].contains (w.coxState p.1) && w.firstStroke && g.conds.any (fun e => e.copy && p.2.state e.slot != 3)
    | none => false)

/-- A waiting request may start: the session it names has none in progress, and no earlier one of its class waits for the same
session; an OPEN of the lowest free number names none (R282). -/
def Work.startable (w : Work) (l : List SessReq) (i : Nat) : Bool :=
  match l[i]? with
  | none => false
  | some r => r.session == 0xFFFF || (!w.sessBusy r.session && (l.take i).all (fun q => q.cls != r.cls || q.session != r.session))

/-- The request that starts next: the first of the highest class (R282); none while a completion waits (R292). -/
def Work.nextReq (w : Work) : Option (Nat × SessReq) :=
  if !w.sess.held.isEmpty then none
  else
    let l := w.sess.waiting
    let is := (List.range l.length).filter (fun i => w.startable l i)
    match (is.filterMap (fun i => (l[i]?).map (·.cls))).min? with
    | none => none
    | some c => (is.find? (fun i => (l[i]?).map (·.cls) == some c)).bind (fun i => (l[i]?).map (fun r => (i, r)))

/-- A waiting request leaves the queue. -/
def Work.dropReq (w : Work) (i : Nat) : Work := { w with sess := { w.sess with waiting := w.sess.waiting.eraseIdx i } }

/-- The status with which a request completes as it would start, without any work; none for one that runs (Table 7-12). -/
def Work.atOnce (w : Work) (r : SessReq) : Option Nat :=
  if r.bad then some 4
  else if r.op = 1 then none
  else match Sp.find w.sess.open_ r.session with
    | none => some 3
    | some s => if s.poisoned && r.op ≠ 5 then some 1 else none

/-- Requests that complete without any work do, in their turn; at most `n`. -/
def sessSweep : Nat → Work → Work
  | 0, w => w
  | n + 1, w =>
    match w.nextReq with
    | none => w
    | some (i, r) =>
      match w.atOnce r with
      | some st => sessSweep n ((w.dropReq i).refuseReq r st)
      | none => w

/-- As `sessSweep`, for every request that waits. -/
def Work.sweep (w : Work) : Work := sessSweep w.sess.waiting.length w

/-- SESS_STATUS.OPEN and SCACHE_FREE follow the sessions. -/
def Work.showSess (w : Work) : Work :=
  (w.setFld SESS_STATUS 0 11 w.sess.open_.length).setFld SCACHE_FREE 0 23 (w.fld SCACHE_PAGES 0 23 - w.sess.used.length)

/-! ### The operations (R281) -/

/-- OPEN (R281, R290). -/
def Work.openSess (w : Work) (r : SessReq) : Work :=
  let o := w.sess.open_
  let num := if r.session = 0xFFFF then (List.range 1024).find? (fun n => (Sp.find o n).isNone) else some r.session
  match num with
  | none => w.refuseReq r 5
  | some n =>
    if !w.sessProgOk r.prog then w.refuseReq r 4
    else if (Sp.find o n).isSome then w.refuseReq r 3
    else
      let k := ceilDiv (r.count * w.cacheBpt r.prog) 65536
      let free := (List.range (w.fld SCACHE_PAGES 0 23)).filter (fun p => !w.sess.used.contains p)
      if free.length < k then w.refuseReq r 6
      else
        let s : Session := { prog := r.prog, cap := r.count, pages := free.take k }
        let c := w.rd STEP_COMMITTED
        ({ w with sess := { w.sess with open_ := Sp.put o n s, used := w.sess.used ++ free.take k } }.showSess).complete r n 0 0 c c false

/-- CLOSE: the session's pages are zeroed and return to the pool (R281, R291). -/
def Work.closeSess (w : Work) (r : SessReq) : Work :=
  match Sp.find w.sess.open_ r.session with
  | none => w.refuseReq r 3
  | some s =>
    let w := s.pages.foldl (fun (v : Work) p => v.zeroRange (v.cachePage p) 65536) w
    let w := { w with sess := { w.sess with open_ := Sp.erase w.sess.open_ r.session, used := w.sess.used.filter (fun p => !s.pages.contains p) } }
    let c := w.rd STEP_COMMITTED
    ((w.incBy SZERO_CNT s.pages.length).showSess).complete r r.session 0 0 c c false

/-! ### Running a session program (R283, R284, R288) -/

/-- What a session runs at present: a forward layer group, or a digital job on some core. -/
def Work.sessUnitRuns (w : Work) (n : Nat) : Bool :=
  (Sp.find w.sess.fwd n).isSome || w.digital.any (fun d => (Sp.find d.2.jobs (4096 + n)).isSome)

/-- Slots of a program whose jobs claim a half of a core's arrays, with their offsets. -/
def Work.jobClaimants (w : Work) (c x : Nat) (p : Prog) : List (Nat × Nat) :=
  ((p.slots.zipIdx).filter (fun q => q.1.action == 1 && (match w.descriptor c q.1.desc 80 64 with
    | some h => (headerCtxs h).any (fun k => k.1 < 16 && k.1 / 2 == x / 2 && (k.1 == x || !(leAt h 2 1).testBit (x / 2)))
    | none => false))).map (fun q => (q.1.offset, q.2))

/-- Cycles that an instruction of a session's stream takes for the start test: every scaled k-block is costed at MXFP8 (R193, R198). -/
def Work.streamCost (w : Work) (c : Nat) (split : Bool) (opdBase : Nat) (b : List Byte) : Nat :=
  if leAt b 0 1 = 2 then 2 * leAt b 5 1
  else if leAt b 0 1 = 1 then
    let mn := shapeMN (leAt b 1 1 % 4) split
    let n := leAt b 6 2
    match w.localGet c (opdBase + 32 * leAt b 2 1) 32, w.localGet c (opdBase + 32 * leAt b 3 1) 32 with
    | some (da, _), some (db, _) =>
      let cost := fun (o : Opd) => if scaled o.fmt then 64 else kblkCycles o.fmt
      mmaCycles (n * max (cost (opdOf da)) (cost (opdOf db))) split (opdOf da) (opdOf db) (leAt b 8 4) (leAt b 12 4) mn.1 mn.2 n
    | _, _ => 0
  else 0

/-- Cycles of a stream up to its END; at most `n` instructions. -/
def Work.streamCycles (w : Work) (c : Nat) (split : Bool) (opdBase : Nat) : Nat → Nat → Nat
  | 0, _ => 0
  | n + 1, pc =>
    match w.localGet c pc 32 with
    | some (b, _) => if leAt b 0 1 = 15 then 12 else w.streamCost c split opdBase b + w.streamCycles c split opdBase n (pc + 32)
    | none => 0

/-- Every stream of a session's job ends before the next training launch that claims its half (R198). -/
def Work.streamsFit (w : Work) (c : Nat) (h : List Byte) : Bool :=
  (headerCtxs h).all (fun p =>
    let split := (leAt h 2 1).testBit (p.1 / 2)
    let fin := w.now + w.macNs c (w.streamCycles c split (leAt h 72 4) 65536 p.2)
    let next := fun (x : Nat) => match w.nextLaunchOf c (w.jobClaimants c x) with | some e => decide (fin < e) | none => true
    p.1 = 16 || (if split then next p.1 else next (2 * (p.1 / 2)) && next (2 * (p.1 / 2) + 1)))

/-- A session bound anew. -/
def Work.setSess (w : Work) (n : Nat) (s : Session) : Work := { w with sess := { w.sess with open_ := Sp.put w.sess.open_ n s } }

/-- A session's run bound anew. -/
def Work.setRun (w : Work) (n : Nat) (s : Session) (u : SessRun) : Work := w.setSess n { s with run := some u }

/-- A forward layer group of a session starts (R284): all 16 tiles of its core serve it, and its products, vector by vector, go to the
tiles' queues. One that fails a check of Table 2-6, or that a digital request comes to, completes the request with BAD_REQUEST. -/
def Work.sessForward (w : Work) (n : Nat) (s : Session) (u : SessRun) (c addr : Nat) : Work :=
  match w.fwdGroup c 0 addr 0xFFFF with
  | .error _ => w.setRun n s { u with status := some 4 }
  | .ok r =>
    if u.req.digital then w.setRun n s { u with status := some 4 }
    else
      let offers := (List.range r.vecCount).flatMap (fun v => (r.entries.zipIdx).map (fun e =>
        ({ session := n, core := c, tile := e.1.tile, entry := e.2, vec := v } : SessProduct)))
      let w := w.setRun n s { u with pos := u.pos + 1 }
      { w with sess := { w.sess with offers := w.sess.offers ++ offers, fwd := Sp.put w.sess.fwd n (c, r) } }

/-- A digital job of a session starts once its halves are free, its streams fit, and no COPY slot is open for a digital request (R198,
R284, R288); one whose header fails a check completes the request with BAD_REQUEST. -/
def Work.sessJob (w : Work) (n : Nat) (s : Session) (u : SessRun) (c addr : Nat) : Work :=
  match w.descriptor c addr 80 64 with
  | none => w.setRun n s { u with status := some 4 }
  | some h =>
    if (leAt h 3 1).testBit 0 && w.ctxState c 16 ≠ 0 then w
    else if w.headerCheck c 255 h ≠ 0 then w.setRun n s { u with status := some 4 }
    else if (u.req.digital && w.copyOpen) || !w.halvesFree c h || !w.macsOn c || !w.streamsFit c h then w
    else
      let w := (w.startJob c none (some n) h).setRun n s { u with pos := u.pos + 1 }
      w.when (headerCtxs h).isEmpty (fun v => v.setDig c { v.dig c with jobs := Sp.erase (v.dig c).jobs (4096 + n) })

/-- The next entry of a session program's list (R283): one of the other mode is passed over. -/
def Work.sessEntry (w : Work) (n : Nat) (s : Session) (u : SessRun) (k : SessUnit) : Work :=
  let kind := leAt (w.sessList s.prog) (8 * u.pos) 1 % 4
  if kind = 3 then w.setRun n s { u with status := some 4 }
  else if (kind = 0 && u.req.digital) || (kind = 1 && !u.req.digital) then w.setRun n s { u with pos := u.pos + 1 }
  else match k with
    | .forward c a => w.sessForward n s u c.val a
    | .job c a => w.sessJob n s u c.val a

/-- The draws of a session's sampling at a cache length (R289). -/
def sessDraws (session len : Nat) : List Nat := (List.range 32).map (fun l => drawOf ((0xFFFF0000 + 32 * session + l) % 2 ^ 32) (len % 2 ^ 32) 0)

/-- What the forward of a session's next token leaves: of a digital request a function of the program, the step committed and what came
before in the session (R248, R288), of another a fresh value (log 28). -/
def Work.sessSeed (w : Work) (s : Session) (digital : Bool) (hist : List (Word × Nat)) : Nat × Work :=
  if digital then (Config.sessSeed (w.sessList s.prog) (w.rd STEP_COMMITTED) hist, w) else w.draw

/-- The tokens of a group in turn: the session's history with them, and the request's outputs. GENERATE's one token comes of the
draws (R281, R289). -/
def Work.sessTokens (w : Work) (n : Nat) (s : Session) (r : SessReq) (ts : List Word) : List (Word × Nat) × List Word × Work :=
  if r.op = 3 then
    let d := w.sessSeed s r.digital s.hist
    let t := Config.sessToken d.1 (sessDraws n s.len)
    (s.hist ++ [(t, d.1)], [t], d.2)
  else ts.foldl (fun (a : List (Word × Nat) × List Word × Work) t =>
    let d := a.2.2.sessSeed s r.digital a.1
    (a.1 ++ [(t, d.1)], a.2.1 ++ (if r.op = 4 then [Config.sessScore d.1 t] else []), d.2)) (s.hist, [], w)

/-- The cache positions of new tokens take what their forwards left, page by page, with or without poison. -/
def Work.growCache (w : Work) (s : Session) (seeds : List Nat) (poison : Bool) : Work :=
  let b := w.cacheBpt s.prog
  let lo := s.len * b
  let hi := (s.len + seeds.length) * b
  let data := seeds.flatMap (fun d => (List.range b).map (Config.sessByte d))
  (List.range (ceilDiv hi 65536 - lo / 65536)).foldl (fun (v : Work) i =>
    let pg := lo / 65536 + i
    let a := max lo (65536 * pg)
    let e := min hi (65536 * (pg + 1))
    match s.pages[pg]? with
    | some p => v.hbmPut (v.cachePage p + a % 65536) (sub data (a - lo) (e - a)) poison
    | none => v) w

/-- A group of new tokens starts (R281, R283): APPEND and SCORE take the next tokens at IN_ADDR, GENERATE makes one; a request that has
all its tokens is done, one that finds the cache at its capacity ends with CACHE_FULL. -/
def Work.startGroup (w : Work) (n : Nat) (s : Session) (u : SessRun) (want : Nat) : Work :=
  let r := u.req
  let left := r.count - u.done
  let room := s.cap - s.len
  if left = 0 then w.setRun n s { u with status := some 0 }
  else if room = 0 then w.setRun n s { u with status := some 2 }
  else if r.op = 3 then w.setRun n s { u with group := some [], pos := 0 }
  else
    let m := clampNat want 1 (min left room)
    let g := w.hbmGet (r.inAddr + 4 * u.done) (4 * m)
    g.2.2.setRun n s { u with group := some ((List.range m).map (fun i => BitVec.ofNat 32 (leAt g.1 (4 * i) 4))), pos := 0
                              bad := u.bad || g.2.1 }

/-- A group's forward is done (R281, R290): its tokens enter the cache and the request's outputs are written, with poison marks where
something the group took in or gave out is poisoned, which ends the request. -/
def Work.endGroup (w : Work) (n : Nat) (s : Session) (u : SessRun) (ts : List Word) : Work :=
  let r := u.req
  let g := w.sessTokens n s r ts
  let bad := u.bad || s.poisoned
  let m := g.1.length - s.hist.length
  let w := g.2.2.growCache s ((g.1.drop s.hist.length).map (·.2)) bad
  let w := w.when (r.op ≠ 2) (fun v => v.hbmPut (r.outAddr + 4 * u.done) (wordsLE g.2.1) bad)
  let stopped := r.op = 3 && r.stop ≠ 0xFFFFFFFF && g.2.1.any (fun x => x.toNat == r.stop)
  let st := if bad then some 1 else if u.done + m = r.count || stopped then some 0 else none
  w.setSess n { s with len := s.len + m, hist := g.1, poisoned := bad, run := some { u with done := u.done + m, group := none, status := st } }

/-- A session's request goes on by one step: a group starts, an entry of its program's list is taken up once the one before is done, or
the group ends (R283). -/
def Work.sessAdvance (w : Work) (n : Nat) (k : SessWork) : Work :=
  match Sp.find w.sess.open_ n with
  | none => w
  | some s =>
    match s.run with
    | none => w
    | some u =>
      if u.status.isSome then w
      else match u.group with
        | none => w.startGroup n s u k.group
        | some ts =>
          if w.sessUnitRuns n then w
          else if u.pos < leAt (w.sessProg s.prog) 8 2 then w.sessEntry n s u k.unit
          else w.endGroup n s u ts

/-- A session command of one operation: the session's request starts if it is its turn, and goes on by one step. -/
def Work.sessRun (w : Work) (n op : Nat) (k : SessWork) : Work :=
  let w := w.sweep
  match Sp.find w.sess.open_ n with
  | none => w
  | some s =>
    match s.run with
    | some u => if u.req.op = op then w.sessAdvance n k else w
    | none =>
      match w.nextReq with
      | some (i, r) => if r.op ≠ op || r.session ≠ n then w else ((w.dropReq i).setRun n s { req := r }).sessAdvance n k
      | none => w

/-- A session's request completes once its work is done (R290). A request that started no product carries the step at its completion
(R287). -/
def Work.sessEnds (w : Work) (n : Nat) : Work :=
  match Sp.find w.sess.open_ n with
  | none => w
  | some s =>
    match s.run with
    | none => w
    | some u =>
      match u.status with
      | none => w
      | some st =>
        let c := w.rd STEP_COMMITTED
        ((w.setSess n { s with run := none }).complete u.req n st u.done (u.first.getD c) (if u.first.isSome then u.lastStep else c)
          u.recovery).sweep

/-- What a session runs is given up: its forward layer group, the products that the engine holds for it, and its streams. -/
def Work.dropUnits (w : Work) (n : Nat) : Work :=
  let w := { w with sess := { w.sess with fwd := Sp.erase w.sess.fwd n, offers := w.sess.offers.filter (·.session != n) } }
  (w.digital.map (·.1)).foldl (fun (v : Work) c =>
    let v := (List.range 17).foldl (fun (u : Work) x => u.when ((u.ctx c x).session == some n) (·.freeCtx c x)) v
    v.setDig c { v.dig c with jobs := Sp.erase (v.dig c).jobs (4096 + n) }) w

/-- A session's request is to complete POISONED (Table 12-4), and the session stays so until CLOSE. -/
def Work.sessPoison (w : Work) (n : Nat) : Work :=
  let w := w.dropUnits n
  match Sp.find w.sess.open_ n with
  | none => w
  | some s => w.setSess n { s with poisoned := true, run := s.run.map (fun u => { u with status := some 1 }) }

/-- Every session ends without a completion (R293, R516); its pages return. -/
def Work.endSessions (w : Work) : Work := { w with sess := {} }.showSess

/-! ### The commands -/

/-- SREQ_TAIL_WRITE (R280, R282). -/
def execSreqTailWrite (path : Path) (value : Word) (s : State) : Ans :=
  s.run (fun _ w => w.onBus path SREQ_TAIL value.toNat (fun v => (takeReqs 65536 (v.wrPlain path SREQ_TAIL value.toNat)).sweep))

/-- SESSION_OPEN (R281). -/
def execSessionOpen (s : State) : Ans :=
  s.run (fun _ w =>
    let w := w.sweep
    match w.nextReq with
    | some (i, r) => if r.op = 1 then ((w.dropReq i).openSess r).sweep else w
    | none => w)

/-- SESSION_APPEND (R281). -/
def execSessionAppend (session : Fin 1024) (work : SessWork) (s : State) : Ans := s.run (fun _ w => w.sessRun session.val 2 work)

/-- SESSION_GENERATE (R281, R289). -/
def execSessionGenerate (session : Fin 1024) (work : SessWork) (s : State) : Ans := s.run (fun _ w => w.sessRun session.val 3 work)

/-- SESSION_SCORE (R281). -/
def execSessionScore (session : Fin 1024) (work : SessWork) (s : State) : Ans := s.run (fun _ w => w.sessRun session.val 4 work)

/-- SESSION_CLOSE (R281, R291). -/
def execSessionClose (s : State) : Ans :=
  s.run (fun _ w =>
    let w := w.sweep
    match w.nextReq with
    | some (i, r) => if r.op = 5 then ((w.dropReq i).closeSess r).sweep else w
    | none => w)

/-- SESSION_COMPLETE (R290, R292). -/
def execSessionComplete (session : Fin 1024) (s : State) : Ans := s.run (fun _ w => w.sessEnds session.val)

/-- Completions that wait are written while the ring has room, oldest first; at most `n`. -/
def putHeld : Nat → Work → Work
  | 0, w => w
  | n + 1, w =>
    match w.sess.held with
    | [] => w
    | b :: bs => if w.cplFull then w else putHeld n ({ w with sess := { w.sess with held := bs } }.putCpl b)

/-- SCPL_HEAD_WRITE: room in the completion ring lets waiting completions go (R292). -/
def Work.writeCplHead (w : Work) (p : Path) (v : Nat) : Work :=
  let w := w.wrPlain p SCPL_HEAD v
  let w := putHeld w.sess.held.length w
  if w.sess.held.isEmpty then (w.clrBit SESS_STATUS 11).sweep else w

/-- SCPL_HEAD_WRITE (R292). -/
def execScplHeadWrite (path : Path) (value : Word) (s : State) : Ans :=
  s.run (fun _ w => w.onBus path SCPL_HEAD value.toNat (fun v => v.writeCplHead path value.toNat))

end Sys2Proof.Machine
end

