-- ==== Sys2Proof/Machine/Hang.lean ====
section
/-! DEFINITION. Machine/Hang.lean: hang monitors, the escalation of Table 12-9, samples, engine, partition and chip-level resets,
the power-cycle request, and the in-field test (R439 to R453, R460, R461). -/

namespace Sys2Proof.Machine

/-! ### Windows (Table 12-14) -/

/-- A window of HANG_WIN0 or HANG_WIN1 in beats: units of 64, 0 taken as 1. -/
def Work.window (w : Work) (a lo : Nat) : Nat := 64 * orDefault (w.fld a lo 16) 1
/-- CTX_WIN. -/
def Work.ctxWin (w : Work) : Nat := w.window HANG_WIN0 0
/-- ENG_WIN. -/
def Work.engWin (w : Work) : Nat := w.window HANG_WIN0 16
/-- RED_WIN. -/
def Work.redWin (w : Work) : Nat := w.window HANG_WIN1 0
/-- REPEAT_WIN. -/
def Work.repeatWin (w : Work) : Nat := w.window HANG_WIN1 16

/-- The progress counter of a key has not moved for a window (R443). -/
def Work.stalled (w : Work) (key win : Nat) : Bool :=
  match Sp.find w.fault.progress key with | some t => win ≤ beatsAhead t w.beatFull | none => true

/-- A unit was reset at a level within REPEAT_WIN. -/
def Work.resetBefore (w : Work) (unit level : Nat) : Bool :=
  w.fault.last.any (fun r => r.unit == unit && r.level == level && beatsAhead r.beat w.beatFull ≤ w.repeatWin)

/-- A unit's reset at a level is noted for REPEAT_WIN. -/
def Work.noteReset (w : Work) (unit level : Nat) : Work :=
  let old := w.fault.last.filter (fun r => !(r.unit == unit && r.level == level))
  { w with fault := { w.fault with last := { unit := unit, level := level, beat := w.beatFull } :: old } }

/-- HANG_CNT of a level, 1 to 5, advances. -/
def Work.hangAt (w : Work) (level : Nat) : Work := w.inc (HANG_CNT (level - 1))

/-! ### Crews with work on a unit (Table 12-4) -/

/-- The crew that a core works for: that of a cox neither IDLE nor ABORTED. -/
def Work.workCrew (w : Work) (c : Nat) : Option Nat := if w.coxState c = 6 then none else w.coreCrew c

/-- Jobs whose traffic a port carries (R446). -/
def Work.linkJobs (w : Work) (k : Nat) : List Nat :=
  let l := w.link k
  (l.queue.map (·.job) ++ l.replay.map (·.2.job) ++ l.held.map (·.job) ++
    l.ctxs.filterMap (fun c => (w.bucket c.1).map (·.job))).dedup

/-- Jobs whose traffic a memory controller carries. -/
def Work.memcJobs (w : Work) (m : Nat) : List Nat := ((w.memc m).trackers.map (·.job) ++ (w.memc m).held.map (·.job)).dedup

/-- The stroke crews with work on a unit (Table 12-6). -/
def Work.unitCrews (w : Work) (unit : Nat) : List Nat :=
  if unit < 1024 then (w.workCrew unit).toList
  else if unit < 1040 then ((List.range 64).filterMap (fun i => w.workCrew (64 * (unit - 1024) + i))).dedup
  else if unit < 1080 then ((w.linkJobs (unit - 1040)).flatMap w.jobCrews).dedup
  else if unit < 1092 then ((w.memcJobs (unit - 1080)).flatMap w.jobCrews).dedup
  else ((List.range 1024).filterMap w.workCrew).dedup

/-! ### What a reset clears (R445 to R448) -/

/-- Sessions with work on a core: products that wait, are offered or are in flight, a layer group, or a stream (R451). -/
def Work.coreSessions (w : Work) (c : Nat) : List Nat :=
  ((List.range 16).flatMap (fun t =>
    let v := w.tile c t
    v.queue.map (·.session) ++ v.flight.filterMap (fun p => match p.for_ with | .session n _ _ => some n | _ => none)) ++
    (w.sess.offers.filter (·.core == c)).map (·.session) ++ (w.sess.fwd.filter (·.2.1 == c)).map (·.1) ++
    (List.range 17).filterMap (fun x => (w.ctx c x).session)).dedup

/-- An engine reset of core c (R195, R445, R451): a stroke that it ran is aborted. Scratchpad, coefficients and decks stay, and units on tiles run to their end. -/
def Work.resetCore (w : Work) (c : Nat) : Work :=
  let crew := w.workCrew c
  let w := (w.coreSessions c).foldl (fun (v : Work) n => v.sessPoison n) w
  let w := (List.range 17).foldl (fun (v : Work) x => if v.ctxState c x = 0 then v else v.freeCtx c x) w
  let w := (w.setDig c { w.dig c with jobs := [], log := [], queue := [], kern := none, owners := [] }).logUsed c
  let w := (((w.dropForward c).dropCal c).releaseCox c).dropDomainSlots [c]
  let w := { w with acc := w.acc.filter (fun p => p.1 / 524288 != c), accPoison := w.accPoison.filter (fun k => k / 1024 != c) }
  let w := (w.abortCommits [c]).abortCoreBuckets [c]
  { w with fault := { w.fault with
      notReady := match crew with | some n => w.fault.notReady ++ [(c, n)] | none => w.fault.notReady
      progress := w.fault.progress.filter (fun p => p.1 != c && !(decide (2000 + 17 * c ≤ p.1) && decide (p.1 < 2017 + 17 * c))) } }

/-- An engine reset of port k: replay buffer, adder contexts and held packets go, and it trains anew (R446). -/
def Work.resetLink (w : Work) (k : Nat) : Work :=
  let w := w.setLink k { w.link k with replay := [], ctxs := [], held := [], queue := [] }
  (w.showAdder k).startTrain k false false

/-- The address of the stacks that an access waits for. -/
def Parked.addr : Parked → Nat
  | .read a _ _ | .retry a _ _ | .write a _ _ _ _ | .hostWrite _ a _ | .hostRead _ a _ => a
  | .block b _ => b.dest
  | .packet p => (packetRange p).1

/-- A queued access of a controller that resets: a read is answered with a poison mark, a write is discarded (R446). -/
def Work.answerPoison (w : Work) (q : Issuer × Parked) : Work :=
  match q.2 with
  | .read a _ _ | .retry a _ _ => w.respond q.1 (a / 256 * 256) (w.bytes (a / 256 * 256) 256) true
  | .hostRead h a _ => (w.inc (POISON_HOST_CNT (stackOf a).1)).answerHost h.host.val (.roceNak h.host.val "remote operational error") 1
  | _ => w

/-- An engine reset of memory controller m: trackers and held contributions go; queued reads are answered poisoned, and queued
writes discarded (R446). -/
def Work.resetMemc (w : Work) (m : Nat) : Work :=
  let rs := (w.memc m).retries
  let mine := fun (q : Issuer × Parked) => (stackOf q.2.addr).1 == m
  let ps := w.parked.filter mine
  let w := (w.setMemc m { w.memc m with trackers := [], held := [], retries := [] }).showTrackers m
  let w := rs.foldl (fun (v : Work) r => v.respond r.issuer (256 * r.line) (v.bytes (256 * r.line) 256) true) w
  ps.foldl Work.answerPoison { w with parked := w.parked.filter (fun q => !mine q) }

/-- The new generation of a domain has reached every responder: what queues there from the older one is discarded. A read that its
controller has begun is answered; its domain drops the answer (R461; log 131). -/
def Work.dropOlder (w : Work) : Work := { w with parked := w.parked.filter (fun q => w.current q.1) }

/-- What the reset of a unit clears: core, link block, memory controller, or the 64 cores of a die (R447). -/
def Work.resetUnit (w : Work) (unit : Nat) : Work :=
  if unit < 1024 then w.resetCore unit
  else if unit < 1040 then (List.range 64).foldl (fun (v : Work) i => v.resetCore (64 * (unit - 1024) + i)) w
  else if unit < 1080 then w.resetLink (unit - 1040)
  else if unit < 1092 then w.resetMemc (unit - 1080)
  else w

/-- What no reset of the chip undoes: cells, lost phases and dark domains (R473, R476), and the model's own clock. -/
def Work.wiped (w : Work) : Work :=
  let dark := fun (p : Nat) => w.pdState p == 6
  let regs := (List.range 72).foldl (fun (v : Work) p =>
    if w.rd (PD_PHASE p) = 0 && !dark p then v
    else
      let k := phasesN p + 2 - w.fld (PD_STATUS p) 24 4
      let v := ((v.wr (PD_PHASE p) (w.rd (PD_PHASE p))).setFld (PD_STATUS p) 24 4 (w.fld (PD_STATUS p) 24 4)).setFld (PD_STATUS p) 12 4 (capPhase p k)
      if dark p then (v.setBit (PD_ERR p) 1).pdGo p 6 else v.recap p) { }
  let any := (List.range 72).any dark
  { regs with cells := w.cells, now := w.now, free := w.free, out := w.out,
              mgr := { lastingPending := any, diagnosable := any } }

/-- Every stack's zeroisation starts (R325). -/
def Work.zeroAll (w : Work) : Work := (List.range 12).foldl (fun (v : Work) m => v.zeroStart m 0 32768 true) w

/-- A chip-level reset (R448, R495): regulators, RESET_CAUSE, CHIP_RST_CNT and the I3C address stay; every generation steps;
self-calibration, zeroisation and the start-up sequence from configuration load begin. -/
def Work.chipReset (w : Work) (source cls unit : Nat) : Work :=
  let v := w.wiped
  let v := (v.wr RESET_CAUSE (source + 2 ^ 4 * (cls % 256) + 2 ^ 12 * (unit % 2048))).wr CHIP_RST_CNT (min (w.rd CHIP_RST_CNT + 1) 0xFFFFFFFF)
  let v := { v with
    access := { v.access with i3cAddr := w.access.i3cAddr }
    fault := { v.fault with gens := w.fault.gens, chipFrom := some w.now, ftAtStart := source == 3 }
    start := { v.start with rise := w.start.rise, ramped := true, loadFrom := w.now } }
  ((v.stepGens 1220).hkSelfcalGo.zeroAll).startStep 3

/-- Step 3 begins: the loader takes the flash bus, and discovery reads the SFDP tables at 25 MHz (R496, R497). -/
def Work.takeFlash (w : Work) : Work := { w with start := { w.start with cfgBus := true } }.emit (.flash 0x5A 0)

/-! ### Samples (R452, R453) -/

/-- Address of the sample area. -/
def Work.sampleBase (w : Work) : Nat := w.base SAMPLE_BASE_LO SAMPLE_BASE_HI / 4096 * 4096

/-- Slot states of a core, 2 bits per slot (Table 12-10). -/
def Work.slotStates (w : Work) (c : Nat) : List Byte :=
  (List.range 1024).map (fun i => BitVec.ofNat 8 (((List.range 4).map (fun j => (w.cox c).state (4 * i + j) * 4 ^ j)).sum))

/-- Offset of the scratchpad window of a core's record. -/
def Work.sampleWindow (w : Work) (c : Nat) : Nat :=
  let slots := match (w.cox c).prog with | some p => p.slots.zipIdx | none => []
  match slots.find? (fun q => [1, 2].contains ((w.cox c).state q.2)) with
  | some q => q.1.desc / 4096 * 4096
  | none => w.progBase c / 4096 * 4096

/-- The record of a core (Table 12-10): 8,192 bytes. -/
def Work.coreRecord (w : Work) (c : Nat) : List Byte :=
  let regs := (List.range 6).map (fun i => w.rd (COX_CTL c + 4 * i)) ++
    (List.range 4).flatMap (fun a => [w.rd (CTX_ERR0 c a), w.rd (CTX_ERR1 c a)])
  let at_ := w.sampleWindow c
  let win := match localAddr c at_ with | some a => w.bytes a 4096 | none => zeros 4096
  toLE 2 c ++ zeros 2 ++ toLE 4 at_ ++ zeros 56 ++ (regs.flatMap (toLE 4)) ++ zeros 8 ++ w.bytes (w.jrnlAt c 0) 2048 ++
    w.slotStates c ++ zeros 896 ++ win

/-- The record of a link engine or memory controller: 4,096 bytes. -/
def Work.engineRecord (w : Work) (unit : Nat) : List Byte :=
  let at_ := if unit < 1080 then linkBase (unit - 1040) else memcBase (unit - 1080)
  toLE 2 unit ++ zeros 62 ++ (List.range 1008).flatMap (fun i => toLE 4 (w.rd (at_ + 4 * i)))

/-- Cores and engines that the reset of a unit takes in. -/
def unitCores (unit : Nat) : List Nat :=
  if unit < 1024 then [unit] else if unit < 1040 then (List.range 64).map (64 * (unit - 1024) + ·)
  else if unit = 1220 then List.range 1024 else []
def unitEngines (unit : Nat) : List Nat :=
  if 1040 ≤ unit ∧ unit < 1092 then [unit] else if unit = 1220 then (List.range 52).map (1040 + ·) else []

/-- The sample of a reset is written and held (Table 12-10, R453). -/
def Work.writeSample (w : Work) (r : UnitReset) : Work :=
  let cs := unitCores r.unit
  let es := unitEngines r.unit
  let a := w.sampleBase
  let head := r.trigger.bytes toLE ++ toLE 4 cs.length ++ toLE 4 es.length ++ zeros 4056
  let v := w.put a head false
  let v := (cs.zipIdx).foldl (fun (u : Work) q => u.put (a + 4096 + 8192 * q.2) (w.coreRecord q.1) false) v
  let v := (es.zipIdx).foldl (fun (u : Work) q => u.put (a + 4096 + 8192 * cs.length + 4096 * q.2) (w.engineRecord q.1) false) v
  ((v.setBit SAMPLE_STATUS 0).setFld SAMPLE_STATUS 1 3 r.level).setFld SAMPLE_STATUS 4 11 r.unit

/-! ### Resets under way -/

/-- The list of resets with one changed. -/
def Work.putReset (w : Work) (r : UnitReset) : Work :=
  { w with fault := { w.fault with resets := w.fault.resets.map (fun x => if x.unit = r.unit ∧ x.level = r.level then r else x) } }

/-- A reset leaves the list. -/
def Work.dropReset (w : Work) (r : UnitReset) : Work :=
  { w with fault := { w.fault with resets := w.fault.resets.filter (fun x => !(x.unit == r.unit && x.level == r.level)) } }

/-- An engine or partition reset starts, its sample written or lost. -/
def Work.startReset (w : Work) (r : UnitReset) (sampled : Bool) : Work :=
  (w.putReset { r with sampling := false, start := w.now, sampled := sampled, crews := w.unitCrews r.unit }).resetUnit r.unit

/-- A reset is called for: its sample is written first, unless a sample is held (R452, R453). -/
def Work.callReset (w : Work) (level unit : Nat) (trigger : FaultRec) : Work :=
  if w.fault.resets.any (fun x => x.unit == unit && x.level == level) then w
  else
    let r : UnitReset := { unit := unit, level := level, trigger := trigger, sampling := true, start := w.now }
    let w := { w with fault := { w.fault with resets := w.fault.resets ++ [r] } }
    if level ≠ 4 && w.flag SAMPLE_STATUS 0 then (w.inc SAMPLE_LOST_CNT).startReset r false else w

/-- The chip-level reset that waited (R453): by an in-field test that failed, or by the class and unit of its trigger. -/
def Work.goChip (w : Work) (r : UnitReset) : Work :=
  (w.chipReset (if r.trigger.cls = 8 then 3 else 2) r.trigger.cls r.trigger.unit).takeFlash

/-! ### Escalation (R444, R449, R450, Table 12-9) -/

/-- A power cycle is asked for (R449): the device holds itself in chip-level reset, transmitters off, until power is removed. The
count and the record stand in the held state (DESIGN CHOICE, log 49). -/
def powerCycle (b : Board) (w : Work) (trigger : FaultRec) : Board × Work :=
  let r : FaultRec := { beat := w.beatFull, cls := 7, level := 5, unit := 1220, code := trigger.cls, flags := 1 }
  let v := (w.wiped.wr RESET_CAUSE (w.rd RESET_CAUSE)).wr CHIP_RST_CNT (w.rd CHIP_RST_CNT)
  let v := { v with
    access := { v.access with i3cAddr := w.access.i3cAddr }
    fault := { v.fault with gens := w.fault.gens, lastIbi := w.now }
    start := { v.start with rise := w.start.rise, ramped := true } }
  let v := ((v.stepGens 1220).hangAt 5).logOnly r
  ({ b with pcyc := true }, v.when w.access.i3cAddr.isSome (·.emit .ibi))

/-- MAX_LEVEL, 0 taken as 1, 6 and 7 as 5 (Table 12-17). -/
def Work.maxLevel (w : Work) : Nat := min 5 (orDefault (w.fld ESC_CFG 0 3) 1)

/-- The device holds at MAX_LEVEL (R450): flagged, logged, with the abort beacons of the held level. -/
def Work.holdLevel (w : Work) (unit : Nat) (trigger : FaultRec) : Work :=
  let n := w.maxLevel
  let w := (w.setBit FAULT_STATUS 2).setFld FAULT_STATUS 3 3 n
  let crews := if n < 4 then w.unitCrews unit else []
  let w := crews.foldl (fun (v : Work) k => v.decideAbort k (if n = 1 then 8 else 9)) w
  w.logRec { cls := 7, level := n, unit := unit, code := trigger.cls, crew := crews.headD 0,
             flags := if crews.isEmpty || !w.locked then 0 else 2 }

/-- The level above a unit's, and the unit it takes in: a core's die; the chip for others. -/
def aboveUnit (unit : Nat) : Nat × Nat := if unit < 1024 then (3, 1024 + unit / 64) else (4, 1220)

/-- A chip-level escalation within REPEAT_WIN of the last chip-level reset's lock. -/
def Work.chipAgain (w : Work) : Bool :=
  match w.fault.chipLock with | some t => beatsAhead t w.beatFull ≤ w.repeatWin | none => false

/-- Level and unit at which the device acts, each level's repetition taken into account. -/
def Work.actLevel (w : Work) (level unit : Nat) : Nat × Nat :=
  let a := if level = 2 && w.resetBefore unit 2 then aboveUnit unit else (level, unit)
  let a := if a.1 = 3 && w.resetBefore a.2 3 then (4, 1220) else a
  if a.1 = 4 && w.chipAgain then (5, 1220) else a

/-- An escalation at a level for a unit, or the hold of R450. -/
def escalate (b : Board) (w : Work) (level unit : Nat) (trigger : FaultRec) : Board × Work :=
  let a := w.actLevel level unit
  if w.maxLevel < a.1 then (b, w.holdLevel unit trigger)
  else if a.1 = 5 then powerCycle b w trigger
  else (b, w.callReset a.1 a.2 trigger)

/-! ### Monitors (R443, R444) -/

/-- A hung context is reset, or, in DRAIN or within REPEAT_WIN of its reset, its core (Table 12-9). -/
def hangCtx (b : Board) (w : Work) (c x : Nat) : Board × Work :=
  let key := 2000 + 17 * c + x
  if !(1 ≤ w.ctxState c x && w.ctxState c x ≤ 4) || !w.stalled key w.ctxWin then (b, w)
  else
    let k := w.ctx c x
    let r : FaultRec := { cls := 6, level := 1, unit := c, detail := k.tag, flags := if k.session.isSome then 8 else 0 }
    if w.ctxState c x = 4 || w.resetBefore key 1 then
      let r := { r with level := 2, beat := w.beatFull }
      escalate b (w.logRec r) 2 c r
    else
      let w := (((w.ctxFault c x 3 0).hangAt 1).noteReset key 1).progress key
      match k.session with
      | some n => (b, (w.sessPoison n).lasting { r with flags := 9 } none [])
      | none => (b, w.lasting { r with flags := 1 } (some 8) (w.crewsFor 0 (w.workCrew c)))

/-- Open reduction stages: bucket key and level. -/
def Work.openStages (w : Work) : List (Nat × Nat) :=
  w.red.buckets.flatMap (fun p => ((p.2.stages.zipIdx).filter (·.1.isOpen)).map (fun q => (p.1, q.2)))

/-- A number that names an open stage. -/
def stageNo (q : Nat × Nat) : Nat := 2 * q.1 + q.2

/-- The reduction monitor fires: the crews of the jobs of every open stage abort; nothing is reset (Table 12-9). -/
def Work.hangRed (w : Work) : Work :=
  let open_ := w.openStages
  if open_.isEmpty || !w.stalled 1999 w.redWin then w
  else
    let jobs := (open_.filterMap (fun q => (w.bucket q.1).map (·.job))).dedup
    let w := { w with fault := { w.fault with redHung := some (open_.map stageNo, beatAdd w.beatFull w.abortLead) } }
    ((w.hangAt 1).progress 1999).lasting { cls := 6, level := 1, unit := 1220, job := jobs.headD 0 } (some 8)
      ((jobs.flatMap w.jobCrews).dedup)

/-- A unit's monitor of engine or partition level fires. -/
def hangEngine (b : Board) (w : Work) (level unit : Nat) : Board × Work :=
  let r : FaultRec := { beat := w.beatFull, cls := 6, level := level, unit := unit }
  escalate b ((w.logRec r).progress unit) level (if 1092 ≤ unit then 1024 + (unit - 1092) / 8 else unit) r

/-- Work of a core's cox is outstanding: a slot that runs, or a part that undoes or folds (Table 12-8). -/
def Work.outstanding (w : Work) (c : Nat) : Bool :=
  [2, 3, 4].contains (w.coxState c) && ((w.cox c).runs.any (fun r => [1, 2].contains r.2.state) || !(w.parts c).isEmpty)

/-- A frame waits on a port that is neither paused for it nor training. -/
def Work.frameWaits (w : Work) (k : Nat) : Bool := w.portUp k && (w.link k).queue.any (fun p => !w.pausedFor k p)

/-- HANG_MONITOR_FIRE (R443, R444). Whether a request waits at a controller or a transfer at a switch comes with the command
(log 2). -/
def hangFire (b : Board) (w : Work) : HangUnit → Board × Work
  | .ctx c x => hangCtx b w c.val x.val
  | .reduction => (b, w.hangRed)
  | .core c => if w.outstanding c.val && w.stalled c.val w.engWin then hangEngine b w 2 c.val else (b, w)
  | .link k => if w.frameWaits k.val && w.stalled (1040 + k.val) w.engWin then hangEngine b w 2 (1040 + k.val) else (b, w)
  | .memc m => if w.serves m.val && w.stalled (1080 + m.val) w.engWin then hangEngine b w 2 (1080 + m.val) else (b, w)
  | .switch e => if w.stalled (1092 + e.val) w.engWin then hangEngine b w 3 (1092 + e.val) else (b, w)

/-! ### The ends of resets and waits -/

/-- The sample of the first reset that writes one is written; the reset starts, or a chip-level one waits for collection. -/
def Work.sampleDone (w : Work) : Work :=
  match w.fault.resets.find? (·.sampling) with
  | none => w
  | some r =>
    if r.level = 4 then
      let w := (w.writeSample r).putReset { r with sampling := false, waiting := true, start := w.now, sampled := true }
      if w.fld ESC_CFG 8 8 = 0 then w.goChip r else w
    else if w.flag SAMPLE_STATUS 0 then (w.inc SAMPLE_LOST_CNT).startReset r false
    else (w.writeSample r).startReset r true

/-- An engine or partition reset completes (R445 to R447, R461, Table 12-13): new generations, the count, the record and the
beacons for the crews that had work on the unit. -/
def Work.resetDone (w : Work) (level unit : Nat) : Work :=
  match w.fault.resets.find? (fun r => r.unit == unit && r.level == level && !r.sampling) with
  | none => w
  | some r =>
    let w := ((((w.dropReset r).stepGens unit).dropOlder).hangAt level).noteReset unit level
    let w := w.progress unit
    w.lasting { cls := 7, level := level, unit := unit, code := r.trigger.cls, flags := 1 + if r.sampled then 4 else 0 }
      (some 9) r.crews

/-- Bound of a reset in ns (Table 12-9). -/
def resetBound (unit : Nat) : Nat :=
  if unit < 1024 then 20000 else if unit < 1040 then 200000 else if unit < 1080 then 5000 else 10000

/-- Engines that hold a context or tracker of a stage's job. -/
def Work.jobEngines (w : Work) (job : Nat) : List Nat :=
  ((List.range 40).filter (fun k => (w.link k).ctxs.any (fun c => (w.bucket c.1).map (·.job) == some job))).map (1040 + ·) ++
    ((List.range 12).filter (fun m => (w.memc m).trackers.any (·.job == job))).map (1080 + ·)

/-- Stages of the reduction hang still open 64 beats after the abort beat (Table 12-9). -/
def redExpire (b : Board) (w : Work) : Board × Work :=
  match w.fault.redHung with
  | none => (b, w)
  | some (ns, a) =>
    if beatsAhead a w.beatFull < 64 then (b, w)
    else
      let left := w.openStages.filter (fun q => ns.contains (stageNo q))
      let jobs := (left.filterMap (fun q => (w.bucket q.1).map (·.job))).dedup
      let w := { w with fault := { w.fault with redHung := none } }
      (jobs.flatMap w.jobEngines).dedup.foldl (fun (a : Board × Work) u =>
        escalate a.1 a.2 2 u { beat := a.2.beatFull, cls := 6, level := 2, unit := u, job := jobs.headD 0 }) (b, w)

/-- A reset has not completed within its bound (Table 12-9); unit 1,220 names the wait of the reduction stages. -/
def boundExpire (b : Board) (w : Work) (unit : Nat) : Board × Work :=
  if unit = 1220 then redExpire b w
  else match w.fault.resets.find? (fun r => r.unit == unit && r.level != 4 && !r.sampling) with
  | none => (b, w)
  | some r =>
    let w := (w.till (r.start + resetBound unit)).dropReset r
    escalate b w (aboveUnit unit).1 (aboveUnit unit).2 r.trigger

/-- A chip-level reset that waits for collection. -/
def Work.waitingChip (w : Work) : Option UnitReset := w.fault.resets.find? (fun r => r.level == 4 && r.waiting)

/-- A write of SAMPLE_STATUS: HELD is released, and a chip-level reset that waited goes on (R453). -/
def Work.releaseSample (w : Work) (p : Path) (v : Nat) : Work :=
  let w := w.wrPlain p SAMPLE_STATUS v
  if !v.testBit 0 then w
  else match w.waitingChip with | some r => w.goChip r | none => w

/-! ### The in-field test (R439 to R442) -/

/-- A start of the test: refused unless every cox is IDLE, or while a test runs. -/
def Work.startTest (w : Work) (number : Nat) : Work :=
  if !w.allIdle || w.fault.ftStart.isSome then w.setBit FT_STATUS 1
  else ({ w with fault := { w.fault with ftStart := some w.now, ftNumber := number } }.setBit FT_STATUS 0).setBit FAULT_STATUS 7

/-- A write of FT_CTL: GO starts the test, PCYC_ACK stops the in-band interrupt; both read 0. -/
def Work.writeFtCtl (w : Work) (v : Nat) : Work :=
  let w := w.when (v.testBit 1) (fun u => { u with fault := { u.fault with pcycAcked := true } })
  w.when (v.testBit 0) (·.startTest 0)

/-- Worst outcome of a core's parts. -/
def worst (r : Nat × Nat × Nat) : Nat := max r.1 (max r.2.1 r.2.2)

/-- Array wake is over: every tile with its power has had its full recalibration (R173). -/
def Work.awake (w : Work) : Bool :=
  w.start.applied && (List.range 1024).all (fun c => !w.tilesOn c || (List.range 16).all (fun t => w.tileAwake c t))

/-- Start of the test that runs: the one asked for, or that of start-up, which begins once array wake is over (R442). -/
def Work.testStart (w : Work) : Option Nat :=
  match w.fault.ftStart with
  | some t => some t
  | none => if w.fault.ftAtStart && w.awake then some w.now else none

/-- The test ends with its results (R440 to R442). -/
def testDone (b : Board) (w : Work) (results : List (Nat × Nat × Nat × Nat)) : Board × Work :=
  match w.testStart with
  | none => (b, w)
  | some t =>
    let rs : Sp (Nat × Nat × Nat) := (results.filter (fun r => r.1 < 1024)).foldl
      (fun l r => Sp.put l r.1 (min r.2.1 2, min r.2.2.1 2, min r.2.2.2 2)) []
    let out := (rs.map (fun r => worst r.2)).foldl max 0
    let failed := (rs.filter (fun r => worst r.2 == 2)).map (·.1)
    let again := w.fault.ftAtStart
    let w := w.till (t + 6000000)
    let w := { w with acc := [], accPoison := [],
                      fault := { w.fault with ftStart := none, ftAtStart := false, ftRan := true, ftResults := rs } }
    let w := (((w.clrBit FT_STATUS 0).setFld FT_STATUS 2 2 out).setFld FT_STATUS 16 11 failed.length).clrBit FAULT_STATUS 7
    let unit := match rs.find? (fun r => worst r.2 == out) with | some r => r.1 | none => 1220
    let rec_ : FaultRec := { cls := 8, unit := unit, code := out, beat := w.beatFull }
    let w := w.when (out ≠ 0) (·.logRec rec_)
    let w := w.toManager 24 0 (toBE 4 w.fault.ftNumber ++ toBE 1 out ++ toBE 2 failed.length ++ zeros 1)
    if out ≠ 2 then (b, w)
    else if again then (b, { w.replace 5 unit with mgr := { w.mgr with diagnosable := true } })
    else escalate b w 4 1220 rec_

/-- The manager takes a FIELD_RESULT: a transient outcome is a silent numeric fault of the node's crews (Table 11-8). -/
def Work.takeResult (w : Work) (p : Packet) (l : List Byte) : Work :=
  if !w.acting || l.length ≠ 8 || beAt l 7 1 ≠ 0 || beAt l 4 1 ≠ 1 then w
  else (w.crewsOfNode p.src).foldl (fun (v : Work) k => v.orderAbort k 7) w

/-! ### The commands -/

/-- HANG_MONITOR_FIRE (R443, R444). -/
def execHangMonitorFire (unit : HangUnit) (s : State) : Ans := s.runAll (fun b w => hangFire b w unit)

/-- SAMPLE_WRITTEN (R452, R453). -/
def execSampleWritten (s : State) : Ans := s.run (fun _ w => w.sampleDone)

/-- SAMPLE_WAIT_EXPIRE (R453). -/
def execSampleWaitExpire (s : State) : Ans :=
  s.run (fun _ w => match w.waitingChip with
    | some r => (w.till (r.start + 10000000 * w.fld ESC_CFG 8 8)).goChip r
    | none => w)

/-- CHIP_RESET (R448): the chip-level reset of a source, 2 or 3 of Table 12-19, with the class and unit that called for it. -/
def execChipReset (cause : Fin 4) (cls unit : Nat) (s : State) : Ans :=
  s.run (fun _ w => if cause.val < 2 then w else (w.chipReset cause.val cls unit).takeFlash)

/-- CHIP_LIMIT_EXPIRE (Table 12-9, level 4): no lock within CHIP_LIMIT seconds. -/
def execChipLimitExpire (s : State) : Ans :=
  s.runAll (fun b w => match w.fault.chipFrom with
    | none => (b, w)
    | some t =>
      let w := w.till (t + 1000000000 * orDefault (w.fld ESC_CFG 16 8) 1)
      escalate b { w with fault := { w.fault with chipFrom := none } } 5 1220 { cls := w.fld RESET_CAUSE 4 8, unit := 1220, level := 5 })

/-- PCYC_IBI_TIMER (R449): every 100 ms until PCYC_ACK; a device without an I3C address raises none. -/
def execPcycIbiTimer (s : State) : Ans :=
  s.pins (fun b w =>
    if !b.pcyc || w.fault.pcycAcked || w.access.i3cAddr.isNone then (b, w)
    else
      let w := w.till (w.fault.lastIbi + 100000000)
      (b, { w with fault := { w.fault with lastIbi := w.now } }.emit .ibi))

/-- PCYC_ACK (R449, R559): a write of FT_CTL.PCYC_ACK. -/
def execPcycAck (path : Path) (s : State) : Ans := s.access (fun _ w => w.onBus path FT_CTL 2 (fun v => v.writeFtCtl 2))

/-- SAMPLE_RELEASE (R453): a write of SAMPLE_STATUS.HELD. -/
def execSampleRelease (path : Path) (s : State) : Ans :=
  s.run (fun _ w => w.onBus path SAMPLE_STATUS 1 (fun v => v.releaseSample path 1))

/-- FIELD_TEST_GO (R439): a write of FT_CTL.GO. -/
def execFieldTestGo (path : Path) (s : State) : Ans := s.run (fun _ w => w.onBus path FT_CTL 1 (fun v => v.writeFtCtl 1))

/-- FIELD_TEST (R439). -/
def execFieldTest (port : Fin 40) (pkt : Packet) (s : State) : Ans :=
  s.run (fun _ w => if w.arrives port.val pkt 6 then
    w.onCtrl pkt 23 (fun v c => if !v.fromManager pkt || c.body.length ≠ 4 then v else v.startTest (beAt c.body 0 4)) else w)

/-- FIELD_TEST_DONE (R440 to R442): the outcome of each core's parts, 0 pass, 1 transient, 2 fail; an unlisted core passed. -/
def execFieldTestDone (results : List (Nat × Nat × Nat × Nat)) (s : State) : Ans := s.runAll (fun b w => testDone b w results)

/-- FIELD_RESULT (R441). -/
def execFieldResult (port : Fin 40) (pkt : Packet) (s : State) : Ans :=
  s.run (fun _ w => if w.arrives port.val pkt 6 then w.onCtrl pkt 24 (fun v c => v.takeResult pkt c.body) else w)

end Sys2Proof.Machine
end

