-- ==== Sys2Proof/Machine/Start.lean ====
section
/-! DEFINITION. Machine/Start.lean: reset, power and clock, the start-up sequence, the configuration image, and the I3C address
(R5, R15, R16, R19, R69, R304, R308, R448, R467, R483, R490 to R510, R554, R556 to R559). -/

namespace Sys2Proof.Machine

/-! ### The Halbex image (R500, R501, Tables 14-3 to 14-6) -/

/-- LENGTH of an image. -/
def imgLen (m : List Byte) : Nat := leAt m 8 4

/-- The directory of an image: type, offset and length of each section. -/
def imgDir (m : List Byte) : List (Nat × Nat × Nat) :=
  (List.range (leAt m 6 2)).map (fun i => (leAt m (64 + 16 * i) 2, leAt m (68 + 16 * i) 4, leAt m (72 + 16 * i) 4))

/-- A section of an image, none where it has none of the type. -/
def imgSec (m : List Byte) (t : Nat) : Option (List Byte) :=
  ((imgDir m).find? (fun e => e.1 == t)).map (fun e => sub m e.2.1 e.2.2)

/-- No two of some sections overlap. -/
def disjoint : List (Nat × Nat × Nat) → Bool
  | [] => true
  | e :: es => es.all (fun f => e.2.1 + e.2.2 ≤ f.2.1 || f.2.1 + f.2.2 ≤ e.2.1) && disjoint es

/-- Header and directory are in range (check 2 of Table 14-7); the trailer's reserved bytes go with them (log 50). -/
def headerValid (m : List Byte) : Bool :=
  let n := leAt m 6 2
  let len := imgLen m
  let d := imgDir m
  leAt m 4 2 == 1 && 3 ≤ n && n ≤ 6 && len % 16 == 0 && 8192 ≤ len && len ≤ 33554432 && leAt m 12 1 < 64 && leAt m 13 1 < 2 &&
  allZero (sub m 14 2) && allZero (sub m 20 44) &&
  (List.range n).all (fun i => allZero (sub m (66 + 16 * i) 2) && allZero (sub m (76 + 16 * i) 4)) &&
  d.all (fun e => 1 ≤ e.1 && e.1 ≤ 6 && e.2.1 % 16 == 0 && 64 + 16 * n ≤ e.2.1 && e.2.1 + e.2.2 ≤ len - 5280) &&
  (d.map (·.1)).Nodup && [1, 2, 3].all (fun t => d.any (fun e => e.1 == t)) && disjoint d && allZero (sub m (len - 19) 15)

/-- Load records of the crew defaults: stack address and data; none where one breaks R501. -/
def imgLoads : Nat → List Byte → Option (List (Nat × List Byte))
  | _, [] => some []
  | 0, _ => none
  | n + 1, l =>
    let a := leAt l 0 8
    let len := leAt l 8 4
    let size := 16 + (len + 15) / 16 * 16
    if l.length < size || !allZero (sub l 12 4) || !inStacks a len then none
    else (imgLoads n (l.drop size)).map (fun rs => (a, sub l 16 len) :: rs)

/-- A section has its length and its reserved bytes zero (check 8 of Table 14-7). -/
def secValid (t : Nat) (s : List Byte) : Bool :=
  match t with
  | 1 => s.length == 128 && leAt s 1 1 < 4 && allZero (sub s 6 2) && allZero (sub s 80 48) && (sub s 8 72).all (fun b => b.toNat < 128)
  | 2 =>
    let h := leAt s 1280 4
    h ≤ 64 && s.length == 1296 + 32 * h && allZero (sub s 1284 12) &&
      (List.range 40).all (fun k => leAt s (32 * k) 4 < 2 ^ 28 && allZero (sub s (32 * k + 10) 2)) &&
      (List.range h).all (fun i => leAt s (1316 + 32 * i) 1 < 8 && leAt s (1317 + 32 * i) 1 < 16 && allZero (sub s (1318 + 32 * i) 10))
  | 3 => s.length == 32 && leAt s 0 1 < 4 && leAt s 1 1 < 64 && leAt s 2 1 < 64 && leAt s 3 1 == 0 && leAt s 6 2 < 1024 && allZero (sub s 14 2)
  | 4 => 64 ≤ s.length && (imgLoads (s.length / 16) (s.drop 64)).isSome
  | 5 => s.length == 1584 && (List.range 12).all (fun m =>
      let e := sub s (132 * m) 132
      (leAt e 0 1 < 18 || leAt e 0 1 == 31) && leAt e 1 1 ≤ 64 && allZero (sub e 2 2) && allZero (e.drop (4 + 2 * leAt e 1 1)))
  | _ => 16 ≤ s.length && leAt s 4 4 ≤ 2 ^ 20 && s.length == 16 + leAt s 4 4 && allZero (sub s 8 8)

/-- The owner public key of an image, and the message that its signature covers (Table 14-5). -/
def imgKey (m : List Byte) : List Byte := sub m (imgLen m - 5280) 1952
def imgMessage (m : List Byte) : List Byte := sub m 0 (imgLen m - 3328)

/-- The first of checks 1 to 3 that an image fails (Table 14-7); 0 where none does. -/
def imgReadCause (m : List Byte) : Nat :=
  if sub m 0 4 ≠ [0x48, 0x42, 0x58, 0x31] then 1
  else if !headerValid m then 2
  else if crc32c (sub m 0 (imgLen m - 4)) ≠ leAt m (imgLen m - 4) 4 then 3
  else 0

/-- The digest in the current owner slot (R509). -/
def Board.ownerNow (b : Board) : List Byte := b.owners.getLast?.getD (zeros 64)

/-- The first of checks 4 to 8 that an image fails; 0 where none does. -/
def imgTrustCause (b : Board) (m : List Byte) : Nat :=
  if b.owners.isEmpty then 4
  else if Config.shake256 (imgKey m) ≠ b.ownerNow then 5
  else if !Config.mlDsaVerify [] (imgKey m) (imgMessage m) (sub m (imgLen m - 3328) 3309) then 6
  else if leAt m 12 1 < b.secMin then 7
  else if !((imgDir m).all (fun e => secValid e.1 (sub m e.2.1 e.2.2))) then 8
  else 0

/-! ### Configuration load (R497, R503 to R505) -/

/-- A digest's words in registers. -/
def Work.putDigest (w : Work) (reg : Nat → Nat) (d : List Byte) : Work :=
  (List.range 16).foldl (fun (v : Work) i => v.wr (reg i) (leAt d (4 * i) 4)) w

/-- The key storage as a configuration load takes it (R509). -/
def Work.takeOwner (w : Work) (b : Board) : Work :=
  let w := { w with start := { w.start with
    ownerSlot := if b.owners.isEmpty then none else some (b.owners.length - 1), ownerDigest := b.ownerNow } }
  w.putDigest OWNER_DIGEST b.ownerNow

/-- An image is accepted. -/
def Work.acceptImage (w : Work) (b : Board) (m : List Byte) : Work :=
  let w := (((w.setBit CFG_STATUS 0).wr CFG_LEN (imgLen m)).setFld CFG_SECVER 0 6 (leAt m 12 1)).putDigest IMG_MEAS (Config.shake256 (imgMessage m))
  let w := match imgSec m 6 with | some p => w.putDigest PATCH_MEAS (Config.shake256 p) | none => w
  let burn := leAt m 13 1 = 1 && b.secMin < leAt m 12 1
  { w with start := { w.start with image := some (m.take (imgLen m)), burn := if burn then some (leAt m 12 1) else none } }

/-- The image is refused for good: factory defaults (R505). -/
def Work.defaulted (w : Work) (cause : Nat) : Work := ((w.setBit CFG_STATUS 1).setFld CFG_STATUS 2 4 cause).setBit GLB_STATUS 6

/-- Step 3 ends: the flash is reset in the mode in use, and the bus is released (R496). -/
def Work.freeFlash (w : Work) : Work :=
  let m := w.fld CFG_STATUS 10 3
  let w := (w.emit (.flash 0x66 m)).emit (.flash 0x99 m)
  { w with start := { w.start with cfgBus := false } }

/-- A read of the whole image begins where discovery has failed (R497); the commands of the other modes are those that the flash's own
tables name. -/
def Work.readFlash (w : Work) : Work := w.when (w.flag CFG_STATUS 7) (·.emit (.flash 0x13 0))

/-- A read of the image ends (R503 to R505). -/
def Work.imageRead (w : Work) (b : Board) (m : List Byte) (us : Nat) : Work :=
  if !w.start.discovered || w.start.applied || w.start.image.isSome || w.flag CFG_STATUS 1 then w
  else
    let c := imgReadCause m
    if c ≠ 0 && !w.start.reread then { w with start := { w.start with reread := true } }.readFlash
    else
      let w := ((w.till (w.start.loadFrom + 1000 * us)).wr CFG_LOAD_US (min us 0xFFFFFFFF)).startStep 4
      let w := w.freeFlash
      let w := w.takeOwner b
      if c ≠ 0 then w.defaulted c
      else
        let w := w.when w.start.reread (fun v => (v.setBit CFG_STATUS 6).inc TRANSIENT_CNT)
        let t := imgTrustCause b m
        if t ≠ 0 then w.defaulted t else w.acceptImage b m

/-! ### Settings (R502 to R506) -/

/-- VSET range of a domain (Table 13-1), in steps of 5 mV above 500 mV. -/
def vsetRange (p : Nat) : Nat × Nat :=
  if 64 ≤ p then (30, 70) else match p % 4 with | 0 => (40, 70) | 1 => (10, 70) | 2 => (20, 60) | _ => (50, 70)

/-- VSET of a domain, the nearer end where it is out of range (R467). -/
def Work.setVset (w : Work) (p v : Nat) : Work :=
  let r := vsetRange p
  (w.setFld (PD_CFG p) 0 7 (clampNat v r.1 r.2)).when (v < r.1 || r.2 < v) (·.setBit (PD_ERR p) 5)

/-- The spare count (R2, R3, R69): the top s physical decks of every tile are spares, and the others fall due for a DRIFT unit at
reset (R161). -/
def Work.setSpares (w : Work) (s : Nat) : Work :=
  let n := min s 2
  let w := (w.when (2 < s) (·.setBit CFG_STATUS 8)).setFld REPL_STATUS 16 15 (min (16384 * n) 32767)
  let w := { w with start := { w.start with spares := n } }
  if n = 1 then w
  else (List.range 16384).foldl (fun (v : Work) i => 
    (v.wr (DECK_STATE (i / 16) (i % 16)) (if n = 2 then 0x5000 else 0)).wr (CAL_DUE (i / 16) (i % 16))
      (if n = 2 then 0x3F3F01 else 0xFFFF01)) w

/-- Device settings (type 1). -/
def Work.applyDevice (w : Work) (s : List Byte) : Work :=
  let w := ((w.setFld FAULT_CTL 0 2 (leAt s 1 1)).setFld DOMAIN 0 16 (leAt s 2 2)).setFld ROSDER_CFG 0 16 (leAt s 4 2)
  ((List.range 72).foldl (fun (v : Work) p => v.setVset p (leAt s (8 + p) 1)) w).setSpares (leAt s 0 1)

/-- Port settings (type 2): link blocks and host windows. Addresses stay in the image. -/
def Work.applyPorts (w : Work) (s : List Byte) : Work :=
  let w := (List.range 40).foldl (fun (v : Work) k => v.wr (LINK_CFG k) (leAt s (32 * k) 4)) w
  { w with windows := (List.range (leAt s 1280 4)).map (fun i =>
      let a := 1296 + 32 * i
      (leAt s a 8, leAt s (a + 8) 8, leAt s (a + 16) 4, leAt s (a + 20) 1, leAt s (a + 21) 1)) }

/-- Beat settings (type 3, R15, R16, R19): the loader is not in test mode, so SRC 10 is replaced with 00 as 11 is. -/
def Work.applyBeat (w : Work) (s : List Byte) : Work :=
  let src := leAt s 0 1
  let per := leAt s 4 2
  let bad := per < 250 || 8000 < per
  let w := w.wr BEAT_CTL ((if src < 2 then src else 0) + 2 ^ 8 * (leAt s 1 1 % 64) + 2 ^ 16 * (leAt s 2 1 % 64) + 2 ^ 22 * (leAt s 6 2 % 1024))
  let w := w.setFld BEAT_PERIOD 0 13 (if bad then 1000 else per)
  ((w.when bad (·.setBit BEAT_STATUS 4)).when (2 ≤ src) (·.setBit BEAT_STATUS 5)).when (36 ≤ leAt s 1 1) (·.setBit BEAT_STATUS 7)

/-- Registers of the crew defaults, in the order of Table 14-6. -/
def crewRegs : List (Nat × Nat) :=
  [(0, CREW_BASE_LO), (4, CREW_BASE_HI), (8, CREW_COUNT), (16, NODE_TABLE_LO), (20, NODE_TABLE_HI), (24, NODE_TABLE_COUNT),
   (32, PLAN_BASE_LO), (36, PLAN_BASE_HI), (40, PLAN_COUNT), (48, CKPT_AREA_LO), (52, CKPT_AREA_HI), (56, CKPT_SLOT_SIZE)]

/-- Crew defaults (type 4): registers, then the load records into HBM (R493). -/
def Work.applyCrews (w : Work) (s : List Byte) : Work :=
  let w := crewRegs.foldl (fun (v : Work) r => v.plainWrite r.2 (leAt s r.1 4) false) w
  ((imgLoads (s.length / 16) (s.drop 64)).getD []).foldl (fun (v : Work) r => v.put r.1 r.2 false) w

/-- Retired regions and failed die of a stack (type 5, R304, R308): up to 32 regions go to spares, which start zeroed;
what the regions held is not copied. -/
def Work.applyStack (w : Work) (m : Nat) (e : List Byte) : Work :=
  let rs := (List.range (leAt e 1 1)).map (fun i => leAt e (4 + 2 * i) 2)
  let fit := rs.filter (· < 32768)
  let w := w.setMemc m { w.memc m with remap := fit.dedup.take 32 }
  let w := (fit.dedup.take 32).foldl (fun (v : Work) r => v.zeroRegions m r 1) w
  let w := w.when (decide (32 < fit.dedup.length) || fit.length != rs.length) (·.setBit (MC_STATUS m) 8)
  if leAt e 0 1 < 18 then ((w.setBit (MC_STATUS m) 1).setFld (MC_STATUS m) 2 5 (leAt e 0 1)).replace 1 (1080 + m) else w

/-- An image's settings take effect, in the order of R502. -/
def Work.applyImage (w : Work) (m : List Byte) : Work :=
  let on := fun (v : Work) (t : Nat) (f : Work → List Byte → Work) => match imgSec m t with | some s => f v s | none => v
  let w := on (on (on w 1 Work.applyDevice) 2 Work.applyPorts) 3 Work.applyBeat
  let w := on w 5 (fun v s => (List.range 12).foldl (fun (u : Work) k => u.applyStack k (sub s (132 * k) 132)) v)
  let w := on w 4 Work.applyCrews
  on w 6 (fun v _ => v.setBit CFG_STATUS 13)

/-- Ports start training, and ring pairs take their bypass state (R328, R358, R362). -/
def Work.wakePorts (w : Work) : Work :=
  let w := [32, 34].foldl (fun (v : Work) k => v.setByp k (if v.ringEn k then 1 else 3)) w
  (List.range 40).foldl (fun (v : Work) k => v.startTrain k false false) w

/-- Every stack is initialised and zeroised (R493). -/
def Work.stacksReady (w : Work) : Bool := (List.range 12).all (fun m => (w.memc m).ready)

/-- Step 4 ends: settings applied, locked; array wake and link training begin (R492, R502, R505). -/
def Work.applyConfig (w : Work) (b : Board) : Work :=
  if w.start.applied || !(w.start.image.isSome || w.flag CFG_STATUS 1) || !w.stacksReady then w
  else
    let w := match w.start.image with | some m => w.applyImage m | none => w
    let w := w.when (w.flag CFG_STATUS 1 && b.role = 2) (·.setFld MGR_STATUS 0 2 3)
    let w := ((w.setBit CFG_STATUS 9).setBit GLB_STATUS 5).startStep 5
    { w with start := { w.start with applied := true, waking := true } }.wakePorts

/-! ### Ready (R494, R510) -/

/-- Step 8 is done: a node is assigned, or the manager has sent its first CLAIM. -/
def Work.joinedUp (w : Work) (b : Board) : Bool := if b.role = 2 then w.flag MGR_STATUS 2 else w.node ≠ 0xFFFE

/-- Steps 5 to 8 and the zeroisation are complete. -/
def Work.readyNow (w : Work) (b : Board) : Bool :=
  !w.start.ready && w.awake && w.locked && w.joinedUp b && w.stacksReady && !w.fault.ftAtStart && w.fault.ftStart.isNone

/-- Step 9. -/
def Work.goReady (w : Work) : Work :=
  let w := ((w.setBit GLB_STATUS 0).startStep 9).wr START_US (min ((w.now - w.start.rise) / 1000) 0xFFFFFFFF)
  let w := { w with start := { w.start with ready := true, waking := false } }
  w.when w.start.burn.isSome (·.setBit CFG_SECVER 14)

/-! ### Ramps (R483, R490) -/

/-- The domains of a start-up class: port logic, port SerDes, SRAM, MAC and vector, tiles, analogue periphery. -/
def rampClass (n : Nat) : List Nat :=
  match n with
  | 0 => [65, 67, 69, 71]
  | 1 => [64, 66, 68, 70]
  | 2 => (List.range 16).map (4 * · + 2)
  | 3 => (List.range 16).map (4 * · + 1)
  | 4 => (List.range 16).map (4 * ·)
  | _ => (List.range 16).map (4 * · + 3)

/-- The next class of the start-up ramp with a domain that is not dark, or its end (R490). -/
def nextClass : Nat → Work → Work
  | 0, w => w
  | n + 1, w =>
    if 5 ≤ w.start.cls then
      ({ w with start := { w.start with ramping := [], ramped := true, loadFrom := w.now } }.startStep 2).hkSelfcalGo.takeFlash
    else
      let ps := (rampClass (w.start.cls + 1)).filter (fun p => w.pdState p != 6)
      let w := { w with start := { w.start with cls := w.start.cls + 1, ramping := ps } }
      if ps.isEmpty then nextClass n w else w

/-- A domain's start-up ramp has ended; the next class follows the last of a class. -/
def Work.rampOver (w : Work) (p : Nat) : Work :=
  let ps := w.start.ramping.filter (· != p)
  let w := { w with start := { w.start with ramping := ps } }
  if ps.isEmpty then nextClass 7 w else w

/-- A domain reaches regulation (Table 13-4). -/
def Work.rampUp (w : Work) (p : Nat) : Work :=
  if w.start.ramping.contains p && w.pdState p ≠ 6 then (w.inc (RAMP_CNT p)).rampOver p
  else if w.pdState p ≠ 2 then w
  else if w.flag (PD_STATUS p) 4 then
    ((w.setDomain p { w.domain p with since := w.now, drainBeats := 0, fromOff := false }).clrBit (PD_STATUS p) 4).pdGo p 4
  else w.pdOn p

/-- A ramp has not reached regulation within 20 µs: the domain goes dark (R476, R483). -/
def Work.rampFails (w : Work) (p : Nat) : Work :=
  if w.start.ramping.contains p then (w.goDark p).rampOver p
  else if w.pdState p = 2 then (w.till ((w.domain p).since + 20000)).goDark p
  else w

/-! ### Reset, power and clock (R5, R491, R554, R557 to R559) -/

/-- A rise of RESET_L: the straps are sampled and start-up begins (R5, R490, R492, R531). -/
def resetRise (b : Board) (w : Work) (straps : Fin 4) : Board × Work :=
  if b.resetL then (b, w)
  else
    let w := w.wr RESET_CAUSE (if b.pwrGood then 1 else 0)
    let w := { w with start := { ramping := (rampClass 0).filter (fun p => w.pdState p != 6), rise := w.now } }
    ({ b with powered := true, pwrGood := true, resetL := true, role := straps },
     if w.start.ramping.isEmpty then nextClass 7 w else w)

/-- A low pulse on RESET_L: shorter than 1 µs ignored, else a reset of everything (R558). -/
def resetFall (b : Board) (w : Work) (ns : Nat) : Board × Work :=
  if ns < 1000 || !b.resetL then (b, w) else ({ b with resetL := false }, w.wiped)

/-- The fused minimum after a burn cut short: between the old value and the target (R510). -/
def burnCut (b : Board) (w : Work) : Nat × Work :=
  match w.start.burn with
  | some v => if w.flag CFG_SECVER 14 && b.secMin < v then (b.secMin + w.draw.1 % (v - b.secMin + 1), w.draw.2) else (b.secMin, w)
  | none => (b.secMin, w)

/-- PWR_GOOD falls: with RESET_L high the device shuts down and records nothing (R491); with it low nothing more (R559). -/
def powerFall (b : Board) (w : Work) : Board × Work :=
  if !b.resetL then ({ b with pwrGood := false }, w)
  else
    let m := burnCut b w
    ({ b with pwrGood := false, secMin := m.1 }, m.2.wiped)

/-- VIO is removed: only cells and key storage stay, and the held pins are released (R487, R491, R559). -/
def powerRemoved (b : Board) (w : Work) : Board × Work :=
  let m := burnCut b w
  ({ b with powered := false, pwrGood := false, resetL := false, thermtrip := false, pcyc := false, secMin := m.1 },
   { cells := w.cells, now := w.now, free := m.2.free, out := w.out })

/-- REFCLK shows no edge for 2 µs: a chip-level reset that holds (R554). -/
def refLoss (b : Board) (w : Work) : Board × Work :=
  if !b.refclk then (b, w)
  else if !b.alive then ({ b with refclk := false }, w)
  else
    let w := w.chipReset 2 7 1220
    ({ b with refclk := false }, { w with start := { w.start with domainDark := true } })

/-- REFCLK has run for 100 µs: start-up goes on from step 3 (R495, R554). -/
def refReturn (b : Board) (w : Work) : Board × Work :=
  if b.refclk then (b, w)
  else
    let w := w.when w.start.domainDark (fun v =>
      { v with start := { v.start with domainDark := false, loadFrom := v.now },
               hk := { v.hk with start := v.now }, fault := { v.fault with chipFrom := some v.now } }.takeFlash)
    ({ b with refclk := true }, w)

/-! ### The commands -/

/-- RESET_L_RISE (R5, R490, R492): with PWR_GOOD high, as the power-up order of R489 has it. -/
def execResetLRise (straps : Fin 4) (s : State) : Ans := s.pins (fun b w => resetRise b w straps)

/-- RESET_L_FALL (R558): the pulse stays low for a number of ns. -/
def execResetLFall (lowNs : Nat) (s : State) : Ans := s.pins (fun b w => resetFall b w lowNs)

/-- PWR_GOOD_FALL (R491, R559). -/
def execPwrGoodFall (s : State) : Ans := s.pins powerFall

/-- REFCLK_LOSS (R554). -/
def execRefclkLoss (s : State) : Ans := s.pins refLoss

/-- REFCLK_RETURN (R554). -/
def execRefclkReturn (s : State) : Ans := s.pins refReturn

/-- POWER_REMOVED (R559). -/
def execPowerRemoved (s : State) : Ans := s.pins powerRemoved

/-- DISCOVERY_DONE (R497, R498): whether the first and the second read showed "SFDP", and the fastest mode declared. -/
def execDiscoveryDone (sig1 sig2 : Bool) (mode : Fin 6) (s : State) : Ans :=
  s.run (fun _ w =>
    if w.start.discovered || (!w.start.ramped && w.start.cls = 0) then w
    else
      let ok := sig1 || sig2
      let w := w.when (!sig1) (·.emit (.flash 0x5A 0))
      let w := (w.when (!ok) (·.setBit CFG_STATUS 7)).setFld CFG_STATUS 10 3 (if ok then mode.val else 0)
      ({ w with start := { w.start with discovered := true } }.startStep 3).readFlash)

/-- CONFIG_READ_DONE (R503 to R505): the bytes read, and the duration of step 3 so far in µs. -/
def execConfigReadDone (image : List Byte) (elapsedUs : Nat) (s : State) : Ans := s.run (fun b w => w.imageRead b image elapsedUs)

/-- CONFIG_APPLY (R502, R505). -/
def execConfigApply (s : State) : Ans := s.run (fun b w => w.applyConfig b)

/-- DEVICE_READY (R494). -/
def execDeviceReady (s : State) : Ans := s.run (fun b w => if w.readyNow b then w.goReady else w)

/-- FUSE_BURN (R510): the burn that step 9 began ends. -/
def execFuseBurn (s : State) : Ans :=
  s.runAll (fun b w => match w.start.burn with
    | some v =>
      if w.flag CFG_SECVER 14 then
        ({ b with secMin := max b.secMin v }, { w.clrBit CFG_SECVER 14 with start := { w.start with burn := none } })
      else (b, w)
    | none => (b, w))

/-- RAMP_DONE (R483, R490). -/
def execRampDone (p : Fin 72) (s : State) : Ans := s.run (fun _ w => w.rampUp p.val)

/-- RAMP_TIMEOUT (R476, R483). -/
def execRampTimeout (p : Fin 72) (s : State) : Ans := s.run (fun _ w => w.rampFails p.val)

/-- STACK_INITIALISED (R493): zeroisation of the whole stack follows. -/
def execStackInitialised (stack : Fin 12) (s : State) : Ans :=
  s.run (fun _ w =>
    if w.start.ramped && !(w.memc stack.val).ready && (w.memc stack.val).zero.isNone then w.zeroStart stack.val 0 32768 true else w)

/-- The provisional ID of the device: 0x5D11, bit 32, and the low 32 bits of its serial number (R556, Table 15-9). -/
def provisionalId : Nat := 0x5D11 * 2 ^ 33 + 2 ^ 32 + beAt identBytes 12 4

/-- I3C_DYNAMIC_ADDRESS (R556): by ENTDAA, in which the device tells its provisional ID, BCR and DCR, or by SETDASA to its static
address 0x4E, once step 1 has ended; a device that has one keeps it. -/
def execI3cDynamicAddress (setdasa : Bool) (addr : Fin 128) (s : State) : Ans :=
  s.access (fun _ w =>
    if w.start.ramped && w.access.i3cAddr.isNone then
      { w with access := { w.access with i3cAddr := some addr.val } }.when (!setdasa) (·.emit (.entdaa provisionalId 0x06 0x00))
    else w)

/-- I3C_HOT_JOIN (R556). -/
def execI3cHotJoin (s : State) : Ans :=
  s.access (fun _ w => if w.start.ramped && w.access.i3cAddr.isNone then w.emit .hotJoin else w)

end Sys2Proof.Machine
end

