-- ==== Sys2Proof/Machine/Security.lean ====
section
/-! DEFINITION. Machine/Security.lean: the security engine: its commands, the mailbox, debug permissions, the clearing before
them and before a new tenant, and MACsec keys (R509 to R518, R526). -/

namespace Sys2Proof.Machine

/-- A context string's bytes. -/
def ascii (s : String) : List Byte := s.toList.map (fun c => BitVec.ofNat 8 c.toNat)

/-! ### The mailbox -/

/-- Bytes of the mailbox from its start. -/
def Work.mbox (w : Work) (n : Nat) : List Byte := ((List.range ((n + 3) / 4)).flatMap (fun i => toLE 4 (w.rd (SEC_MBOX i)))).take n

/-- Bytes written to the mailbox from its start, in whole words. -/
def Work.mboxPut (w : Work) (l : List Byte) : Work :=
  (List.range ((l.length + 3) / 4)).foldl (fun (v : Work) i => v.wr (SEC_MBOX i) (leAt l (4 * i) 4)) w

/-! ### The engine (R513, Tables 14-10 and 14-11) -/

/-- A command fails with an error code. -/
def Work.secErr (w : Work) (code : Nat) : Work := (w.setBit SEC_STATUS 2).setFld SEC_STATUS 8 4 code

/-- A command completes. -/
def Work.secDone (w : Work) : Work := w.setBit SEC_STATUS 1

/-- A command is under way, with its outcome. -/
def Work.secRun (w : Work) (op code : Nat) (out : List Byte) : Work :=
  { w with sec := { w.sec with cmd := some (op, code, out) } }.setBit SEC_STATUS 0

/-- The owner slot that the last configuration load took, 0xFF for none. -/
def Work.ownerByte (w : Work) : Nat := w.start.ownerSlot.getD 0xFF

/-- The attestation report without its signature (Table 14-9). -/
def Work.report512 (w : Work) (b : Board) (nonce : List Byte) : List Byte :=
  let words := fun (reg : Nat → Nat) => (List.range 16).flatMap (fun i => toLE 4 (w.rd (reg i)))
  let dbg := w.fld SEC_STATUS 16 3 + if w.flag SEC_STATUS 15 then 8 else 0
  ascii "ATR1" ++ toLE 2 1 ++ zeros 2 ++ identBytes ++ toLE 4 (w.rd ID_ROM) ++ toLE 4 (w.rd CFG_STATUS) ++
    toLE 1 (w.fld CFG_SECVER 0 6) ++ toLE 1 b.secMin ++ toLE 1 w.ownerByte ++ toLE 1 dbg ++ toLE 4 (w.rd TENANT) ++
    toLE 8 (if w.locked then w.beatFull else 0) ++ zeros 16 ++ words OWNER_DIGEST ++ words IMG_MEAS ++ words PATCH_MEAS ++
    nonce ++ zeros 224

/-- The attestation report (R512): 3,824 bytes. -/
def Work.attestation (w : Work) (b : Board) (nonce : List Byte) : List Byte :=
  let r := w.report512 b nonce
  r ++ sub (Config.mlDsaSign (ascii "OD7-ATTEST") r) 0 3309 ++ zeros 3

/-- The challenge record (Table 14-10). -/
def Work.challengeRecord (w : Work) (nonce : List Byte) : List Byte :=
  sub nonce 0 32 ++ identBytes ++ w.mbox 1 ++ toLE 1 w.ownerByte ++ zeros 14

/-- The outstanding challenge is less than 60 s old. -/
def Work.challengeFresh (w : Work) : Bool :=
  match w.sec.challenge with | some c => w.now < c.2 + 60000000000 | none => false

/-- The response in the mailbox passes (R515). -/
def Work.responsePasses (w : Work) : Bool :=
  let m := w.mbox 5261
  match w.sec.challenge with
  | some c => Config.shake256 (sub m 0 1952) == w.start.ownerDigest &&
      Config.mlDsaVerify (ascii "OD7-DEBUG") (sub m 0 1952) c.1 (sub m 1952 3309)
  | none => false

/-- The signature of an owner change in the mailbox passes. -/
def Work.changePasses (w : Work) (b : Board) : Bool :=
  let m := w.mbox 5325
  let key := sub m 64 1952
  Config.shake256 key == b.ownerNow &&
    Config.mlDsaVerify (ascii "OD7-OWNER") key (identBytes ++ toLE 1 b.owners.length ++ zeros 15 ++ sub m 0 64) (sub m 2016 3309)

/-- Link blocks that a mailbox mask names. -/
def Work.cakPorts (w : Work) : List Nat := (List.range 40).filter (fun k => (leAt (w.mbox 5) 0 5).testBit k)

/-- The error code that a command's condition gives it, 0 where the condition holds (Tables 14-10 and 14-11). -/
def Work.secCheck (w : Work) (b : Board) (op : Nat) : Nat :=
  match op with
  | 1 | 4 => 0
  | 2 => if w.start.ownerSlot.isNone then 3 else if 4 ≤ w.fld SEC_STATUS 19 3 then 6 else 0
  | 3 => if !w.challengeFresh then 5 else if !w.allIdle then 3 else 0
  | 5 => if b.owners.isEmpty then 0 else 3
  | 6 => if b.owners.isEmpty || 4 ≤ b.owners.length then 3 else 0
  | 7 => if !w.allIdle || leAt (w.mbox 4) 0 4 = w.rd TENANT then 3 else 0
  | 8 =>
    let n := leAt (w.mbox 9) 8 1
    if w.cakPorts.all (fun k => w.flag (LINK_CFG k) 12) && 1 ≤ n && n ≤ 32 then 0 else 3
  | _ => 2

/-! ### The clearing (R516) -/

/-- The clearing begins: stacks zeroise, local memory, accumulators and deferred logs become zero, sessions end, and every
logical deck in use is to be cleared. -/
def Work.clearGo (w : Work) (k : Clearing) : Work :=
  let w := w.endSessions.zeroAll
  let w := { w with
    mem := w.mem.filter (fun p => p.1 < 2 ^ 40), poison := w.poison.filter (· < 2 ^ 32), acc := [], accPoison := []
    digital := w.digital.map (fun (d : Nat × Digital) => (d.1, { d.2 with log := [] }))
    tiles := w.tiles.map (fun (t : Nat × Tile) => (t.1, { t.2 with cleared := 0 }))
    sec := { w.sec with clearing := some k } }
  (w.digital.foldl (fun (v : Work) d => v.logUsed d.1) w).setBit SEC_STATUS 22

/-- The clearing is over: every stack is zero, and every tile with its power has its decks at level 0. -/
def Work.clearOver (w : Work) : Bool :=
  (List.range 12).all (fun m => (w.memc m).zero.isNone) &&
    (List.range 1024).all (fun c => !w.tilesOn c || (List.range 16).all (fun t => w.clearRows ≤ (w.tile c t).cleared))

/-- Permissions are granted (R515): test mode clears LOCKED. -/
def Work.grant (w : Work) (perm : Nat) : Work :=
  let w := (w.setFld SEC_STATUS 12 3 (w.perm ||| perm % 8)).setFld SEC_STATUS 16 3 (w.fld SEC_STATUS 16 3 ||| perm % 8)
  w.when (perm.testBit 1) (fun v => (((v.setBit SEC_STATUS 15).setBit GLB_STATUS 10).clrBit CFG_STATUS 9).clrBit GLB_STATUS 5)

/-- The clearing ends, and what it was for follows. -/
def Work.clearEnds (w : Work) : Work :=
  match w.sec.clearing with
  | none => w
  | some k =>
    if !w.clearOver then w
    else
      let w := { w with sec := { w.sec with clearing := none, cmd := none } }
      let w := (w.clrBit SEC_STATUS 22).clrBit SEC_STATUS 0
      match k with
      | .debug perm => (w.grant perm).secDone
      | .tenant v => (w.wr TENANT v).secDone

/-! ### Commands -/

/-- A command starts (R513). `nonce` is the random nonce of a challenge. -/
def Work.secStart (w : Work) (b : Board) (op : Nat) (nonce : List Byte) : Work :=
  if w.flag SEC_STATUS 0 then w.secErr 1
  else
    let e := w.secCheck b op
    if e ≠ 0 then w.secErr e
    else match op with
    | 1 => w.secRun 1 0 (w.attestation b (w.mbox 32))
    | 2 => w.secRun 2 0 (w.challengeRecord nonce)
    | 3 => w.secRun 3 (if w.responsePasses then 0 else 4) []
    | 4 => w.secRun 4 0 []
    | 5 => w.secRun 5 0 (w.mbox 64)
    | 6 => w.secRun 6 (if w.changePasses b then 0 else 4) (w.mbox 64)
    | 7 => (w.secRun 7 0 []).clearGo (.tenant (leAt (w.mbox 4) 0 4))
    | _ => w.secRun 8 0 []

/-- A failed response counts toward the lockout (R515). -/
def Work.secFailed (w : Work) (op : Nat) : Work := w.when (op = 3) (·.incFld SEC_STATUS 19 3 1)

/-- Effect of a command that ends without a clearing. -/
def secEffect (b : Board) (w : Work) (op : Nat) (out : List Byte) : Board × Work :=
  match op with
  | 1 => (b, w.mboxPut out)
  | 2 => (b, { w with sec := { w.sec with challenge := some (out, w.now) } }.mboxPut out)
  | 4 => (b, (w.clrBit SEC_STATUS 12).clrBit SEC_STATUS 14)
  | 5 => (if b.owners.isEmpty then { b with owners := [out] } else b, w)
  | 6 => ({ b with owners := b.owners ++ [out] }, w)
  | 8 =>
    let m := w.mbox 80
    let key := (sub m 16 (leAt m 8 1), sub m 48 32)
    let ports := w.cakPorts
    let w := { w with sec := { w.sec with caks := ports.foldl (fun l k => Sp.put l k key) w.sec.caks } }
    (b, w.mboxPut (zeros 8192))
  | _ => (b, w)

/-- The engine's command ends (R513 to R518); a passed response goes on to the clearing. -/
def secEnds (b : Board) (w : Work) : Board × Work :=
  match w.sec.cmd with
  | none => (b, w)
  | some (op, code, out) =>
    if w.sec.clearing.isSome then (b, w)
    else
      let perm := match w.sec.challenge with | some c => leAt c.1 48 1 % 8 | none => 0
      let w := w.when (op = 3) (fun v => { v with sec := { v.sec with challenge := none } })
      if op = 3 && code = 0 then (b, w.clearGo (.debug perm))
      else
        let w := { w with sec := { w.sec with cmd := none } }.clrBit SEC_STATUS 0
        if code ≠ 0 then (b, (w.secFailed op).secErr code)
        else
          let r := secEffect b w op out
          (r.1, r.2.secDone)

/-- A write of SEC_CMD by a path (R513, R526). -/
def State.secCommand (s : State) (path : Path) (op : Nat) (nonce : List Byte) : Ans :=
  s.run (fun b w => w.onBus path SEC_CMD op (fun v => v.secStart b op nonce))

/-- ATTEST (R512). -/
def execAttest (path : Path) (s : State) : Ans := s.secCommand path 1 []

/-- DBG_CHALLENGE (R513, R515): the engine's random nonce comes with the command (log 2). -/
def execDbgChallenge (path : Path) (nonce : List Byte) (s : State) : Ans := s.secCommand path 2 nonce

/-- DBG_RESPONSE (R515). -/
def execDbgResponse (path : Path) (s : State) : Ans := s.secCommand path 3 []

/-- DBG_CLOSE (Table 14-10). -/
def execDbgClose (path : Path) (s : State) : Ans := s.secCommand path 4 []

/-- OWNER_PROGRAM (R509). -/
def execOwnerProgram (path : Path) (s : State) : Ans := s.secCommand path 5 []

/-- OWNER_CHANGE (R509). -/
def execOwnerChange (path : Path) (s : State) : Ans := s.secCommand path 6 []

/-- TENANT (R516). -/
def execTenant (path : Path) (s : State) : Ans := s.secCommand path 7 []

/-- CAK_LOAD (R518). -/
def execCakLoad (path : Path) (s : State) : Ans := s.secCommand path 8 []

/-- SEC_CMD_COMPLETE (R513). -/
def execSecCmdComplete (s : State) : Ans := s.runAll secEnds

/-- CLEARING_DONE (R516). -/
def execClearingDone (s : State) : Ans := s.run (fun _ w => w.clearEnds)

end Sys2Proof.Machine
end

