-- ==== Sys2Proof/Machine/Access.lean ====
section
/-! DEFINITION. Machine/Access.lean: accesses to the register window and to memory from outside: the write and the read of every
register, requests of the manager, the memory window, I3C transfers, and RoCEv2 on the host ports (R352, R353, R520 to R542). -/

namespace Sys2Proof.Machine

/-! ### Writes (R530) -/

/-- A write that is taken only where a condition holds. -/
def Work.writeIf (w : Work) (c : Bool) (p : Path) (a v : Nat) : Work := w.when c (fun u => u.wrPlain p a v)

/-- A write whose value takes effect at a catch or a finish (R107, R146, R433). -/
def Work.writeLater (w : Work) (a v : Nat) : Work :=
  match regRow a with
  | some r => w.wrLater a (mergeBits (w.rd a) v r.rw)
  | none => w

/-- The registers marked manager answer (Table 11-10): the device acts as manager or deputy. -/
def Work.mgrShows (w : Work) : Bool := [1, 2].contains (w.fld MGR_STATUS 0 2)

/-- The registers marked manager. -/
def mgrRegs : List Nat :=
  [CKPT_COST, CKPT_LIMITS, MTBF_PRIOR, CKPT_INTERVAL, NODE_TABLE_LO, NODE_TABLE_HI, NODE_TABLE_COUNT, PLAN_BASE_LO, PLAN_BASE_HI,
   PLAN_COUNT, RUN_BEATS_LO, RUN_BEATS_HI, FAIL_CNT, SPARE_CNT, SPREAD_CNT]

/-- Base, size and count registers that take writes only while every cox is IDLE (Tables 7-14, 10-7, 11-10; LANE_STRIDE is read
as a size of the lane buffers, DEDUCED, log 51). -/
def idleRegs : List Nat :=
  [FEED_BASE_LO, FEED_BASE_HI, FEED_SIZE, LANE_BUF_LO, LANE_BUF_HI, LANE_STRIDE, POOL_BASE_LO, POOL_BASE_HI, RCMP_BASE_LO,
   RCMP_BASE_HI, SCALE_BASE_LO, SCALE_BASE_HI, SCALE_COUNT, SEGEST_BASE_LO, SEGEST_BASE_HI, CREW_BASE_LO, CREW_BASE_HI, CREW_COUNT,
   CKPT_AREA_LO, CKPT_AREA_HI, NODE_TABLE_LO, NODE_TABLE_HI, NODE_TABLE_COUNT, PLAN_BASE_LO, PLAN_BASE_HI, PLAN_COUNT]

/-- Base and size registers of the session engine (Table 7-18). -/
def sessRegs : List Nat :=
  [SREQ_BASE_LO, SREQ_BASE_HI, SREQ_SIZE, SCPL_BASE_LO, SCPL_BASE_HI, SCPL_SIZE, SCACHE_BASE_LO, SCACHE_BASE_HI, SCACHE_PAGES,
   SPROG_BASE_LO, SPROG_BASE_HI]

/-- A write of SESS_CTL: an engine that is enabled takes the requests that wait (R286). -/
def Work.writeSessCtl (w : Work) (p : Path) (v : Nat) : Work :=
  let w := w.wrPlain p SESS_CTL v
  if w.flag SESS_CTL 0 then (takeReqs 65536 w).sweep else w

/-- A path's own registers (R533, R538). -/
def Work.pathSt (w : Work) (p : Path) : PathSt := Sp.get w.access.paths {} (pathCode (w.busPath p))

/-- A path's own registers bound anew. -/
def Work.setPath (w : Work) (p : Path) (q : PathSt) : Work :=
  { w with access := { w.access with paths := Sp.put w.access.paths (pathCode (w.busPath p)) q } }

/-- A write of a path's memory-window registers (Tables 15-13 and 15-14). -/
def Work.writeWin (w : Work) (p : Path) (a v : Nat) : Work :=
  let q := w.pathSt p
  if a = MEM_WIN_ADDR_LO then w.setPath p { q with winLo := BitVec.ofNat 32 (v / 4 % 2 ^ 30 * 4) }
  else if a = MEM_WIN_ADDR_HI then w.setPath p { q with winHi := BitVec.ofNat 32 (v % 256) }
  else if a = MEM_WIN_STATUS then w.setPath p { q with winStatus := q.winStatus &&& ~~~(BitVec.ofNat 32 v) }
  else w

/-- A write of SEC_CMD (R513); the engine draws the nonce of a challenge. -/
def Work.writeSecCmd (w : Work) (b : Board) (v : Nat) : Work :=
  if v % 16 = 2 then (w.drawBytes 32).2.secStart b 2 (w.drawBytes 32).1 else w.secStart b (v % 16) []

/-- A write of PD_CFG, its set point held to the domain's range (R467). -/
def Work.writePdCfg (w : Work) (p : Path) (d v : Nat) : Work :=
  (w.wrPlain p (PD_CFG d) v).when (!w.rwlLocked (w.busPath p)) (fun u => u.setVset d (v % 128))

/-- The beat source changes to the internal one: its numbering starts at epoch 0, beat 0, so lock is sought anew and a stroke that
runs cannot go on (Table 1-1; log 39). -/
def Work.internalStarts (w : Work) : Work :=
  let w := (w.abortCores (w.coxes.map (·.1))).clrBit BEAT_STATUS 0
  { w.setBeat 0 with beat := {} }

/-- A write of BEAT_CTL, which only test mode leaves unlocked: SRC 11 is replaced with 00 (R10, R15), SRC 10 outside test mode too. -/
def Work.writeBeatCtl (w : Work) (p : Path) (v : Nat) : Work :=
  if w.rwlLocked (w.busPath p) then w.wrPlain p BEAT_CTL v
  else
    let old := w.beatSrc
    let w := w.wrPlain p BEAT_CTL v
    let src := w.fld BEAT_CTL 0 2
    let w := w.when (src == 3 || (src == 2 && !w.flag SEC_STATUS 15)) (fun u => (u.setFld BEAT_CTL 0 2 0).setBit BEAT_STATUS 5)
    w.when (w.beatSrc == 2 && old != 2) (·.internalStarts)

/-- A write of BEAT_PERIOD: a PERIOD_NS written in test mode takes effect from the next beat edge (R21). -/
def Work.writePeriod (w : Work) (p : Path) (v : Nat) : Work :=
  if w.rwlLocked (w.busPath p) then w.wrPlain p BEAT_PERIOD v else w.writeLater BEAT_PERIOD v

/-- A write of a register that stands once. -/
def Work.writeGlob (w : Work) (b : Board) (p : Path) (a v : Nat) : Work :=
  if a = HK_CTL then (w.hkCtl p v).scanGo
  else if a = BEAT_CTL then w.writeBeatCtl p v
  else if a = BEAT_PERIOD then w.writePeriod p v
  else if a = LOCAL_CATCH then w.writeLocalCatch p v
  else if a = SEC_CMD then w.writeSecCmd b v
  else if isMbox a then w.writeIf (!w.flag SEC_STATUS 0) p a v
  else if a = FT_CTL then w.writeFtCtl v
  else if a = SAMPLE_STATUS then w.releaseSample p v
  else if a = FAULT_CTL then w.writeLater a v
  else if a = MGR_CTL then w.writeMgrCtl p v
  else if a = JOB_CMD then w.writeJobCmd v
  else if a = FEED_TAIL then w.writeFeedTail p v
  else if stashTableRegs.contains a then w.writeStashTable p a v
  else if a = SESS_CTL then w.writeSessCtl p v
  else if a = SREQ_TAIL then (takeReqs 65536 (w.wrPlain p SREQ_TAIL v)).sweep
  else if a = SCPL_HEAD then w.writeCplHead p v
  else if sessRegs.contains a then (w.writeIf (!w.flag SESS_CTL 0 && w.sess.open_.isEmpty) p a v).showSess
  else if mgrRegs.contains a && !w.mgrShows then w
  else if idleRegs.contains a then w.writeIf w.allIdle p a v
  else if [MEM_WIN_ADDR_LO, MEM_WIN_ADDR_HI, MEM_WIN_STATUS].contains a then w.writeWin p a v
  else w.wrPlain p a v

/-- A write of a core's register: some only while its cox is IDLE, its journal FREE or its log applied. -/
def Work.writeCore (w : Work) (b : Board) (p : Path) (c a v : Nat) : Work :=
  let idle := w.coxState c = 0
  let noJob := (w.dig c).jobs.isEmpty
  if a = COX_CTL c then w.writeCoxCtl b p c v
  else if [COX_PROG c, COND_BASE c, COND_COUNT c].contains a then w.writeIf idle p a v
  else if [EST_BASE c, EST_COUNT c, GEN_SEQ c].contains a then w.writeIf (idle && noJob) p a v
  else if [DLOG_BASE_LO c, DLOG_BASE_HI c, DLOG_SIZE c].contains a then w.writeIf (noJob && (w.dig c).log.isEmpty) p a v
  else if [CMT_CTL c, STAGE_BASE_LO c, STAGE_BASE_HI c, WEAR_BASE_LO c, WEAR_BASE_HI c].contains a then
    w.writeIf (w.parts c).isEmpty p a v
  else w.wrPlain p a v

/-- A write of a tile's register at an offset: most take effect later. -/
def Work.writeTile (w : Work) (p : Path) (c t a o v : Nat) : Work :=
  if o = 8 then w.writeBudget c t v
  else if o = 0 || o = 0x500 then w.wrPlain p a v
  else
    match regRow a with
    | some r => if r.rw = 0 then w.wrPlain p a v else w.writeLater a v
    | none => w

/-- What a write of a register does on the running device. -/
def Work.writeRun (w : Work) (b : Board) (p : Path) (a v : Nat) : Work :=
  match locate a with
  | some (.pwr, d, o) => if o = 0 then w.pdCommand d (v % 4) else if o = 4 then w.writePdCfg p d v else w.wrPlain p a v
  | some (.memc, m, o) =>
    if o = 0 then w.writeMcCtl m v
    else if o = 0xC || o = 0x10 || o = 0x14 then w.writeIf (w.serves m) p a v
    else w.wrPlain p a v
  | some (.link, k, o) => if o = 0 then w.writeLinkCtl k v else if o = 4 then w.writeLinkCfg p k v else w.wrPlain p a v
  | some (.core, c, _) => w.writeCore b p c a v
  | some (.tile, ct, o) => w.writeTile p (ct / 16) (ct % 16) a o v
  | some (.glob, _, _) => w.writeGlob b p a v
  | some (.eight, _, _) => w.wrPlain p a v
  | none => w

/-- What a write of a register does: on a device held for a power cycle only the acknowledgement acts (R449), and the bits of
plain registers are written. -/
def Work.writeReg (w : Work) (b : Board) (p : Path) (a v : Nat) : Work :=
  if b.alive then w.writeRun b p a v
  else if a = FT_CTL then w.writeFtCtl (v &&& 2)
  else if [MEM_WIN_ADDR_LO, MEM_WIN_ADDR_HI, MEM_WIN_STATUS].contains a then w.writeWin p a v
  else w.wrPlain p a v

/-- A write over a path (R520 to R530): the outcome with the status of Table 15-5. -/
def Work.pathWrite (w : Work) (b : Board) (p : Path) (a v : Nat) : Work × Nat := w.busWrite p a v (fun u => u.writeReg b p a v)

/-! ### Reads -/

/-- START_STEP (Table 15-10): array wake follows the configuration lock, then the ports, then beat lock. -/
def Work.startStepNow (w : Work) : Nat :=
  let n := w.fld GLB_STATUS 16 4
  if n = 5 && w.awake then (if w.portUp w.markerPort then 7 else 6) else n

/-- GLB_STATUS (Table 15-10). -/
def Work.glbStatus (w : Work) (b : Board) : Nat :=
  let bit := fun (c : Bool) (n : Nat) => if c then 2 ^ n else 0
  let diag := w.mgr.diagnosable || b.role == 3 || w.fld MGR_STATUS 0 2 == 3
  w.fld GLB_STATUS 0 1 + 2 * b.role.val + bit (b.role == 3) 3 + bit diag 4 + 32 * w.fld GLB_STATUS 5 2 + bit w.replaceL 7 +
    bit w.faultL 8 + bit b.pcyc 9 + 1024 * w.fld GLB_STATUS 10 1 + 2 ^ 16 * w.startStepNow

/-- JOB_DATA (Table 9-18). -/
def Work.jobData (w : Work) : Nat :=
  let j := w.fld JOB_SEL 0 16
  let e := w.jobEnt j
  let left := if e.state = 2 then (match w.quarEnd j with | some u => beatsAhead w.beatFull u | none => 2 * w.msgLife) else 0
  e.gen % 256 + 256 * e.state + (if e.anyGen then 1024 else 0) + 65536 * min left 65535

/-- OWNER_STATUS (Table 14-17). -/
def ownerStatus (b : Board) : Nat :=
  let n := b.owners.length
  (n - 1) % 4 + (if n = 0 then 4 else 0) + 16 * (2 ^ (n - 1) - 1)

/-- FT_RESULT of the selected core (Table 12-14). -/
def Work.ftResult (w : Work) : Nat :=
  if !w.fault.ftRan then 0x3F
  else match Sp.find w.fault.ftResults (w.fld FT_SEL 0 10) with
  | some (a, v, t) => a % 4 + 4 * (v % 4) + 16 * (t % 4)
  | none => 0

/-- A word of the selected fault record (Table 12-14). -/
def Work.flogData (w : Work) (i : Nat) : Nat :=
  match w.fault.log[w.fld FLOG_SEL 0 8]? with
  | some r => leAt (r.bytes toLE) (4 * i) 4
  | none => 0

/-- The selected record has been read. -/
def Work.flogSeen (w : Work) : Work :=
  { w with fault := { w.fault with log := w.fault.log.modify (w.fld FLOG_SEL 0 8) (fun r => { r with seen := true }) } }

/-- A high word read through a path's latch, the present one where the path has latched none (R533; log 52). -/
def Work.latched (w : Work) (p : Path) (a now : Nat) : Nat :=
  match Sp.find (w.pathSt p).latch a with | some v => v.toNat | none => now

/-- A read of a low word latches the high one for the path (R533). -/
def Work.latchHi (w : Work) (p : Path) (a now : Nat) : Work :=
  let q := w.pathSt p
  w.setPath p { q with latch := Sp.put q.latch a (BitVec.ofNat 32 now) }

/-- The word at a path's window address is refused (R540): at or above the stash aperture, or on path 3 outside the sample area. -/
def Work.winRefused (w : Work) (p : Path) : Bool :=
  let a := (w.pathSt p).winAt
  apertureBase ≤ a || (pathCode (w.busPath p) == 3 && !(w.sampleBase ≤ a && a < w.sampleBase + 0x840000))

/-- A read of the window waits while its stack zeroises (R540). -/
def Work.winHeld (w : Work) (p : Path) : Bool := !w.winRefused p && !w.serves (stackOf (w.pathSt p).winAt).1

/-- A read of MEM_WIN_DATA (R539, R540). -/
def Work.readWin (w : Work) (p : Path) : Nat × Work :=
  if w.winRefused p then
    (0, (w.setPath p { w.pathSt p with winStatus := (w.pathSt p).winStatus ||| 2 }).regError (w.busPath p) MEM_WIN_DATA false 4)
  else
    let r := w.winTake (w.pathSt p)
    (r.1.toNat, (w.poisonReads (w.pathSt p).winAt 4).setPath p r.2)

/-- A read of a register that stands once: its word, and what the read does. -/
def Work.readGlob (w : Work) (b : Board) (p : Path) (a : Nat) : Nat × Work :=
  let hi := w.rd BEAT_COUNT_HI
  if mgrRegs.contains a && !w.mgrShows then (0, w)
  else if a = MEM_WIN_DATA then w.readWin p
  else if a = MEM_WIN_ADDR_LO then ((w.pathSt p).winLo.toNat, w)
  else if a = MEM_WIN_ADDR_HI then ((w.pathSt p).winHi.toNat, w)
  else if a = MEM_WIN_STATUS then ((w.pathSt p).winStatus.toNat, w)
  else if a = BEAT_COUNT_LO then (w.rd a, w.latchHi p BEAT_COUNT_HI hi)
  else if a = BEAT_COUNT_HI then (w.latched p a hi, w)
  else if a = RUN_BEATS_LO then (w.runBeats % 2 ^ 32, w.latchHi p RUN_BEATS_HI (w.runBeats / 2 ^ 32))
  else if a = RUN_BEATS_HI then (w.latched p a (w.runBeats / 2 ^ 32), w)
  else if a = BEAT_STATUS then (w.rd a + (if w.beatSrc = 2 then 64 else 0), w)
  else if a = GLB_STATUS then (w.glbStatus b, w)
  else if a = HK_DATA then (w.rd a, w.clrBit HK_DATA 16)
  else if a = JOB_DATA then (w.jobData, w)
  else if a = RGEN_DATA then (Sp.get w.fault.gens 0 (w.fld RGEN_SEL 0 11) % 256, w)
  else if a = FT_RESULT then (w.ftResult, w)
  else if FLOG_DATA 0 ≤ a && a < FLOG_DATA 8 then (w.flogData ((a - FLOG_DATA 0) / 4), w.flogSeen)
  else if a = OWNER_STATUS then (ownerStatus b, w)
  else if a = CFG_SECVER then (w.rd a + 256 * (b.secMin % 64), w)
  else if isMbox a then (if w.flag SEC_STATUS 0 then 0 else w.rd a, w)
  else if ID_PUB 0 ≤ a && a < ID_PUB 488 then
    (leNat ((List.range 4).map (fun i => Config.idPubByte (a - ID_PUB 0 + i))), w)
  else if ID_IDENT 0 ≤ a && a < ID_IDENT 4 then (leAt identBytes (a - ID_IDENT 0) 4, w)
  else (w.rd a, w)

/-- A read of a memory controller's register at an offset (Table 8-7). -/
def Work.readMemc (w : Work) (m a o : Nat) : Nat :=
  let k := w.memc m
  if o = 0x1C then Sp.get k.counts 0 (w.fld (REG_SEL m) 0 15) % 65536
  else if o = 0x24 then (match k.retired[w.fld (RL_SEL m) 0 6]? with | some r => r % 32768 + 2 ^ 31 | none => 0)
  else if o = 0x2C then (match k.remap[w.fld (REMAP_SEL m) 0 5]? with | some r => r % 32768 + 2 ^ 31 | none => 0)
  else w.rd a

/-- A read of a tile's register at an offset (Tables 2-8 and 4-5). -/
def Work.readTile (w : Work) (c t a o : Nat) : Nat :=
  if o = 4 then putBits (w.rd a) 1 1 (if w.trainClaim c t then 1 else 0)
  else if o = 0x504 then
    let j := w.fld (COEF_ADDR c t) 0 10
    toTwos 10 ((w.tile c t).offOf j) + 2 ^ 16 * ((w.tile c t).gainOf j % 65536)
  else w.rd a

/-- A read of a register: its word, and what the read does; an address that no register stands at reads zero (R521, R530). -/
def Work.readReg (w : Work) (b : Board) (p : Path) (a : Nat) : Nat × Work :=
  if (regRow a).isNone then (0, w)
  else match locate a with
  | some (.glob, _, _) => w.readGlob b p a
  | some (.memc, m, o) => (w.readMemc m a o, w)
  | some (.tile, ct, o) => (w.readTile (ct / 16) (ct % 16) a o, w)
  | some _ => (w.rd a, w)
  | none => (0, w)

/-- A read over a path: its word, the state, and the status of Table 15-5. -/
def Work.pathRead (w : Work) (b : Board) (p : Path) (a : Nat) : Nat × Work × Nat := w.busRead p a (fun u => u.readReg b p a)

/-- A read on a path is of a window word that its stack's zeroisation holds up (R540). -/
def Work.readWaits (w : Work) (p : Path) (a : Nat) : Bool := a == MEM_WIN_DATA && w.mayRead (w.busPath p) a && w.winHeld p

/-- A write over a path, done now or once what holds it up is over (R534). -/
def Work.goWrite (w : Work) (b : Board) (p : Path) (a v : Nat) : Work := w.onBus p a v (fun u => u.writeReg b p a v)

/-- A read over a path, its word sent out, at once or once what holds it up is over (R534, R540). -/
def Work.pathReadOut (w : Work) (b : Board) (p : Path) (a : Nat) : Work :=
  if w.readWaits p a then w.await (.read p a none) else w.readOut p a (fun u => u.readReg b p a)

/-! ### Requests of the manager (R528, R529) -/

/-- A request is answered (Table 15-5); a device without a node of its own keeps its answer for a repeat (R563). -/
def Work.regAnswer (w : Work) (j : RegJob) : Work :=
  let body := toBE 4 j.id ++ toBE 1 j.count ++ zeros 3 ++ j.done
  { w with mgr := { w.mgr with lastReq := some (j.id, body) } }.control j.src 26 j.crew body

/-- One entry of a request: the state, and the entry's answer. -/
def Work.regEntry (w : Work) (b : Board) (a d : Nat) : Work × List Byte :=
  if a.testBit 31 then
    let r := w.pathWrite b .manager (a % 2 ^ 30) d
    (r.1, zeros 4 ++ toBE 1 r.2 ++ zeros 3)
  else
    let r := w.pathRead b .manager (a % 2 ^ 30)
    (r.2.1, toBE 4 r.1 ++ toBE 1 r.2.2 ++ zeros 3)

/-- An access of the path waits for a unit's reset or a stack's zeroisation. -/
def Work.stands (w : Work) (p : Path) (a : Nat) (read : Bool) : Bool := w.underReset a || (read && w.readWaits p a)

/-- An access that waits has to wait on. -/
def Work.waitsOn (w : Work) : Waiting → Bool
  | .write p a _ _ => w.stands p a false
  | .read p a _ => w.stands p a true
  | .i3cWord a => w.stands .i3cRestricted a true
  | .request j => match j.left with | [] => false | (a, _) :: _ => w.stands .manager (a % 2 ^ 30) (!a.testBit 31)

/-- The first access that nothing holds up: no earlier one of its path waits, whose codes are given, and what it meets is free. -/
def Work.nextAccess (w : Work) : List Nat → List Waiting → Option Waiting
  | _, [] => none
  | held, q :: qs =>
    if held.contains (w.waitCode q) || w.waitsOn q then w.nextAccess (w.waitCode q :: held) qs else some q

/-- The answer to an access of a host that is not allowed. -/
def accessNak : String := "remote access error"

/-- The path MTU of a packet's queue pair. -/
def Work.roceMtu (w : Work) (h : Roce) : Nat := match Sp.find w.qps h.wq with | some (_, _, m) => m | none => 1024

/-- A NAK, an acknowledgement, and data in frames of the path MTU. -/
def Work.roceNak (w : Work) (h : Roce) (reason : String) : Work := w.answerHost h.host.val (.roceNak h.host.val reason) 1
def Work.roceAck (w : Work) (h : Roce) : Work := w.answerHost h.host.val (.roceAck h.host.val) 1
def Work.roceData (w : Work) (h : Roce) (d : List Byte) : Work :=
  w.answerHost h.host.val (.roceData h.host.val d) (max 1 (ceilDiv d.length (w.roceMtu h)))

/-- A register write of a host, and its answer (R353, R534). -/
def Work.hostRegWrite (w : Work) (b : Board) (h : Roce) (a v : Nat) : Work :=
  let r := w.pathWrite b (.host h.host) a v
  if r.2 = 1 then r.1.roceNak h accessNak else r.1.roceAck h

/-- A register read of a host, and its answer (R353). -/
def Work.hostRegRead (w : Work) (b : Board) (h : Roce) (a : Nat) : Work :=
  let r := w.pathRead b (.host h.host) a
  if r.2.2 = 1 then r.2.1.roceNak h accessNak else r.2.1.roceData h (toLE 4 r.1)

/-- An access that waited, out of the queue, is done; a request does its next entry, and is answered after its last. -/
def Work.doAccess (w : Work) (b : Board) : Waiting → Work
  | .write p a v none => (w.pathWrite b p a v).1
  | .write _ a v (some h) => w.hostRegWrite b h a v
  | .read p a none => let r := w.pathRead b p a; r.2.1.emit (.word (pathCode (w.busPath p)) (BitVec.ofNat 32 r.1))
  | .read _ a (some h) => w.hostRegRead b h a
  | .i3cWord a =>
    let r := w.pathRead b .i3cRestricted a
    { r.2.1 with access := { r.2.1.access with heldWord := some (BitVec.ofNat 32 r.1) } }
  | .request j =>
    match j.left with
    | [] => w.regAnswer j
    | (a, d) :: rest =>
      let r := w.regEntry b a d
      let k : RegJob := { j with left := rest, done := j.done ++ r.2 }
      if rest.isEmpty then r.1.regAnswer k
      else { r.1 with access := { r.1.access with waits := .request k :: r.1.access.waits } }

/-- Accesses that can go on do, at most `n` (R534). -/
def runAccess (b : Board) : Nat → Work → Work
  | 0, w => w
  | n + 1, w =>
    match w.nextAccess [] w.access.waits with
    | none => w
    | some q => runAccess b n ({ w with access := { w.access with waits := w.access.waits.erase q } }.doAccess b q)

/-- How many accesses wait, each entry of a request one. -/
def Work.accessCount (w : Work) : Nat := (w.access.waits.map (fun q => match q with | .request j => j.left.length + 1 | _ => 1)).sum

/-- Accesses that can go on do. -/
def Work.runAccess (w : Work) (b : Board) : Work := Sys2Proof.Machine.runAccess b w.accessCount w

/-- The body of a REG_REQ is as Table 15-5 lays down. -/
def regReqOk (l : List Byte) : Bool :=
  let n := beAt l 4 1
  1 ≤ n && n ≤ 64 && l.length == 24 + 8 * n && beAt l 5 1 < 2 && allZero (sub l 6 2) &&
    (List.range n).all (fun i => !(beAt l (24 + 8 * i) 4).testBit 30)

/-- The request is for this device: one without a node of its own acts only on its identity, sent to node 0xFFFF (R529). -/
def Work.regReqMine (w : Work) (p : Packet) (l : List Byte) : Bool :=
  let byIdent := (beAt l 5 1).testBit 0
  (!byIdent || sub l 8 16 == identBytes) && (!([0xFFFD, 0xFFFE].contains w.node) || (p.dst == 0xFFFF && byIdent))

/-- The request waits its turn and runs. -/
def Work.addReq (w : Work) (b : Board) (p : Packet) (crew id : Nat) (l : List Byte) : Work :=
  let n := beAt l 4 1
  let j : RegJob := { src := p.src, crew := crew, id := id, count := n,
                      left := (List.range n).map (fun i => (beAt l (24 + 8 * i) 4, beAt l (28 + 8 * i) 4)) }
  (w.await (.request j)).runAccess b

/-- A REG_REQ is taken (R529, R563). -/
def Work.takeRegReq (w : Work) (b : Board) (p : Packet) (crew : Nat) (l : List Byte) : Work :=
  let id := beAt l 0 4
  if !regReqOk l || !w.regReqMine p l then w
  else match w.mgr.lastReq with
  | some (k, body) =>
    if k = id && [0xFFFD, 0xFFFE].contains w.node then w.control p.src 26 crew body else w.addReq b p crew id l
  | none => w.addReq b p crew id l

/-- The body of a REG_RESP is as Table 15-5 lays down. -/
def regRespOk (l : List Byte) : Bool :=
  let n := beAt l 4 1
  1 ≤ n && n ≤ 64 && l.length == 8 + 8 * n && allZero (sub l 5 3)

/-! ### I3C private transfers (R542) -/

/-- The path of I3C transfers. -/
def i3cPath : Path := .i3cRestricted

/-- The address a pointer holds. -/
def ptrAddr (q : Word) : Nat := q.toNat % 2 ^ 30

/-- The pointer after a word. -/
def ptrNext (q : Word) : Word := if q.toNat.testBit 31 then BitVec.ofNat 32 ((ptrAddr q + 4) % 2 ^ 30 + 2 ^ 31) else q

/-- The pointer set; bit 30 is zero. -/
def Work.setPtr (w : Work) (q : Word) : Work := { w with access := { w.access with pointer := q &&& 0xBFFFFFFF } }

/-- Words of a private read: the held one first; a read that has to wait ends it with end-of-data. -/
def i3cWords (b : Board) : Nat → Work → Work
  | 0, w => w
  | n + 1, w =>
    let q := w.access.pointer
    match w.access.heldWord with
    | some v => i3cWords b n (({ w with access := { w.access with heldWord := none } }.setPtr (ptrNext q)).emit
        (.word (pathCode (w.busPath i3cPath)) v))
    | none =>
      if w.access.waits.any (fun x => match x with | .i3cWord _ => true | _ => false) then w.emit .i3cEnd
      else if w.holdsUp i3cPath (ptrAddr q) || w.readWaits i3cPath (ptrAddr q) then (w.await (.i3cWord (ptrAddr q))).emit .i3cEnd
      else i3cWords b n ((w.readOut i3cPath (ptrAddr q) (fun u => u.readReg b i3cPath (ptrAddr q))).setPtr (ptrNext q))

/-- A transfer reaches a device that has its dynamic address (R542, R556). -/
def State.i3c (f : Board → Work → Work) (s : State) : Ans := s.access (fun b w => if w.access.i3cAddr.isSome then f b w else w)

/-! ### RoCEv2 on the host ports (R352, R353) -/

/-- The host window that admits an access: wholly inside, key, port and operation (R353); `op` is the bit of PERM. -/
def Work.hostWindow (w : Work) (host op rkey addr len : Nat) : Option (Nat × Nat × Nat × Nat × Nat) :=
  w.windows.find? (fun (x : Nat × Nat × Nat × Nat × Nat) =>
    x.1 ≤ addr && addr + len ≤ x.1 + x.2.1 && x.2.2.1 == rkey && x.2.2.2.2.testBit host && x.2.2.2.1.testBit op)

/-- The queue pair of a packet is bound to its endpoint (R341). -/
def Work.roceBound (w : Work) (h : Roce) : Bool :=
  w.hostBase ≤ h.wq && h.wq < 65536 &&
    (match Sp.find w.qps h.wq with | some (p, q, _) => p == h.host.val && q == h.qp | none => false)

/-- Firmware binds a queue to a packet's endpoint, where it has since the packet before (R341; log 127). -/
def Work.bindRoce (w : Work) (h : Roce) : Work :=
  match h.bound with
  | some m => if w.hostBase ≤ h.wq && h.wq < 65536 then { w with qps := Sp.put w.qps h.wq (h.host.val, h.qp, 1024 * 2 ^ m.val) } else w
  | none => w

/-- The bytes of a stack range for a host, once its stacks serve (R326): refused where a line is poisoned (Table 8-3). -/
def Work.hostRead (w : Work) (h : Roce) (addr len : Nat) : Work :=
  if !w.rangeServes addr len then w.park (w.issuer (1076 + h.host.val)) (.hostRead h addr len)
  else
    let v := w.readsStack addr len
    match (linesOf addr len).find? (fun l => w.poisoned l.1 l.2) with
    | some l => (v.inc (POISON_HOST_CNT (stackOf l.1).1)).roceNak h "remote operational error"
    | none => v.roceData h (w.bytes addr len)

/-- A host's bytes written to the stacks, once they serve (R326). -/
def Work.hostWrite (w : Work) (h : Roce) (addr : Nat) (data : List Byte) : Work :=
  if !w.rangeServes addr data.length then w.park (w.issuer (1076 + h.host.val)) (.hostWrite h addr data)
  else (w.writeHbm addr data false [] []).roceAck h

/-- Reads of a queue pair that wait (R352): 16 at most. -/
def Work.readsOpen (w : Work) (h : Roce) : Nat :=
  (w.parked.filter (fun p => match p.2 with | .hostRead g _ _ => g.wq == h.wq | _ => false)).length

/-- A request longer than 2 GiB, or a 17th read that waits, is one that R352 does not support (DEDUCED, log 127). -/
def Work.roceTooMuch (w : Work) (h : Roce) (read : Bool) (len : Nat) : Bool := 2 ^ 31 < len || (read && 16 ≤ w.readsOpen h)

/-- A host's RDMA WRITE (R353). -/
def Work.roceWrite (w : Work) (b : Board) (h : Roce) (rkey addr : Nat) (data : List Byte) : Work :=
  if w.roceTooMuch h false data.length then w.roceNak h "invalid request"
  else match w.hostWindow h.host.val 1 rkey addr data.length with
  | none => w.roceNak h accessNak
  | some x =>
    if x.2.2.2.1.testBit 2 then
      if data.length ≠ 4 || addr % 4 ≠ 0 then w.roceNak h accessNak
      else if w.holdsUp (.host h.host) addr then w.await (.write (.host h.host) addr (leNat data) (some h))
      else w.hostRegWrite b h addr (leNat data)
    else if !inStacks addr data.length then w.roceNak h accessNak
    else w.hostWrite h addr data

/-- A host's RDMA READ (R353). -/
def Work.roceRead (w : Work) (b : Board) (h : Roce) (rkey addr len : Nat) : Work :=
  if w.roceTooMuch h true len then w.roceNak h "invalid request"
  else match w.hostWindow h.host.val 0 rkey addr len with
  | none => w.roceNak h accessNak
  | some x =>
    if x.2.2.2.1.testBit 2 then
      if len ≠ 4 || addr % 4 ≠ 0 then w.roceNak h accessNak
      else if w.holdsUp (.host h.host) addr || w.readWaits (.host h.host) addr then w.await (.read (.host h.host) addr (some h))
      else w.hostRegRead b h addr
    else if !inStacks addr len then w.roceNak h accessNak
    else w.hostRead h addr len

/-! ### Accesses that waited for a stack (R326) -/

/-- An access that waited is made, or waits on for another stack. -/
def Work.again (w : Work) (q : Issuer × Parked) : Work :=
  match q.2 with
  | .read a bad pbad => w.onLine q.1 a (fun v l => v.readLine q.1 l bad pbad)
  | .retry a bad pbad => w.onLine q.1 a (fun v l => v.retryLine l bad pbad)
  | .write a d p bad retry => w.hbmWrite q.1 a d p bad retry
  | .block k second => if second then w.blockAgain k else w.blockArrives k
  | .packet p => w.takeParked q.1 p
  | .hostWrite h a d => w.hostWrite h a d
  | .hostRead h a n => w.hostRead h a n

/-- What waited goes on, in the order it came, with this device's own contributions. -/
def Work.unpark (w : Work) : Work := (w.parked.foldl Work.again { w with parked := [] }).redGo

/-! ### The commands -/

/-- REGISTER_WRITE (R520 to R530). -/
def execRegisterWrite (path : Path) (size addr : Nat) (value : Word) (s : State) : Ans :=
  s.access (fun b w =>
    if 2 ^ 30 ≤ addr then w
    else if size ≠ 4 then w.regError (w.busPath path) addr true 1
    else w.goWrite b path addr value.toNat)

/-- REG_REQ (R528, R529). -/
def execRegReq (port : Fin 40) (pkt : Packet) (s : State) : Ans :=
  s.run (fun b w => if w.arrives port.val pkt 6 then
    w.onCtrl pkt 25 (fun v c =>
      if v.fromManager pkt && pkt.gen == v.jobGen 0 then v.takeRegReq b pkt c.crew c.body else v) else w)

/-- REG_RESP (R528). -/
def execRegResp (port : Fin 40) (pkt : Packet) (s : State) : Ans :=
  s.run (fun _ w => if w.arrives port.val pkt 6 then
    w.onCtrl pkt 26 (fun v c =>
      if v.acting && regRespOk c.body then
        { v with mgr := { v.mgr with responses := Sp.put v.mgr.responses pkt.src c.body } }
      else v) else w)

/-- MEM_WIN_READ (R538 to R540). -/
def execMemWinRead (path : Path) (s : State) : Ans := s.access (fun b w => w.pathReadOut b path MEM_WIN_DATA)

/-- BEAT_COUNT_READ (R57, R533). -/
def execBeatCountRead (path : Path) (runBeats : Bool) (s : State) : Ans :=
  s.access (fun b w => w.pathReadOut b path (if runBeats then RUN_BEATS_LO else BEAT_COUNT_LO))

/-- I3C_POINTER_WRITE (R542). -/
def execI3cPointerWrite (ptr : Word) (s : State) : Ans := s.i3c (fun _ w => w.setPtr ptr)

/-- I3C_PRIVATE_WRITE (R542). -/
def execI3cPrivateWrite (ptr value : Word) (s : State) : Ans :=
  s.i3c (fun b w => (w.setPtr ptr).goWrite b i3cPath (ptrAddr (w.setPtr ptr).access.pointer) value.toNat)

/-- I3C_PRIVATE_READ (R542): of 1 to 1,024 words. -/
def execI3cPrivateRead (words : Nat) (s : State) : Ans :=
  s.i3c (fun b w => if 1 ≤ words && words ≤ 1024 then i3cWords b words w else w)

/-- A RoCEv2 packet of a host takes effect where its port is up and its queue is bound to its endpoint (R341); one marked
congestion-experienced is answered first by a congestion notification (R354). -/
def Work.fromRoce (w : Work) (h : Roce) (f : Work → Work) : Work :=
  if !w.portUp (36 + h.host.val) then w
  else
    let w := w.bindRoce h
    if !w.roceBound h then w.inc WQ_DROP_CNT
    else f (w.when h.marked (fun v => v.answerHost h.host.val (.roceCnp h.host.val) 1))

/-- ROCE_WRITE (R353). -/
def execRoceWrite (peer : RocePeer) (marked : Bool) (rkey addr : Nat) (data : List Byte) (s : State) : Ans :=
  s.run (fun b w => w.fromRoce ⟨peer, marked⟩ (fun v => v.roceWrite b ⟨peer, marked⟩ rkey addr data))

/-- ROCE_READ (R353). -/
def execRoceRead (peer : RocePeer) (marked : Bool) (rkey addr len : Nat) (s : State) : Ans :=
  s.run (fun b w => w.fromRoce ⟨peer, marked⟩ (fun v => v.roceRead b ⟨peer, marked⟩ rkey addr len))

/-- ROCE_INVALID_REQUEST (R352). -/
def execRoceInvalidRequest (peer : RocePeer) (marked : Bool) (s : State) : Ans :=
  s.run (fun _ w => w.fromRoce ⟨peer, marked⟩ (fun v => v.roceNak ⟨peer, marked⟩ "invalid request"))

/-- ZEROISE_DONE (R325, R326, R493): accesses that waited for the stack go on. -/
def execZeroiseDone (stack : Fin 12) (s : State) : Ans := s.run (fun b w => ((w.zeroDone stack.val).unpark).runAccess b)

/-- ENGINE_RESET_DONE (R445, R446, R461, R534): accesses that waited for the unit go on. -/
def execEngineResetDone (unit : Nat) (s : State) : Ans := s.run (fun b w => (w.resetDone 2 unit).runAccess b)

/-- PARTITION_RESET_DONE (R447, R461, R534). -/
def execPartitionResetDone (die : Fin 16) (s : State) : Ans := s.run (fun b w => (w.resetDone 3 (1024 + die.val)).runAccess b)

/-- RESET_BOUND_EXPIRE (R444, R534, Table 12-9). -/
def execResetBoundExpire (unit : Nat) (s : State) : Ans :=
  s.runAll (fun b w => let r := boundExpire b w unit; if r.1.alive then (r.1, r.2.runAccess r.1) else r)

end Sys2Proof.Machine
end

