-- ==== Sys2Proof/Machine/Dispatch.lean ====
section
/-! DEFINITION. Machine/Dispatch.lean: which meaning each command has, one arm per constructor of Instr. -/

namespace Sys2Proof.Machine

/-- The command's effect on everything but the queue. -/
def exec (i : Instr) (s : State) : Host.Outcome State Fault Refusal :=
  match i with
  | .resetLRise straps => Sys2Proof.Machine.execResetLRise straps s
  | .resetLFall lowNs => Sys2Proof.Machine.execResetLFall lowNs s
  | .pwrGoodFall => Sys2Proof.Machine.execPwrGoodFall s
  | .refclkLoss => Sys2Proof.Machine.execRefclkLoss s
  | .discoveryDone sig1 sig2 mode => Sys2Proof.Machine.execDiscoveryDone sig1 sig2 mode s
  | .configReadDone image elapsedUs => Sys2Proof.Machine.execConfigReadDone image elapsedUs s
  | .configApply => Sys2Proof.Machine.execConfigApply s
  | .deviceReady => Sys2Proof.Machine.execDeviceReady s
  | .fuseBurn => Sys2Proof.Machine.execFuseBurn s
  | .beatEdge afterNs => Sys2Proof.Machine.execBeatEdge afterNs s
  | .flywheel => Sys2Proof.Machine.execFlywheel s
  | .lockRunEnd => Sys2Proof.Machine.execLockRunEnd s
  | .lossOfLock => Sys2Proof.Machine.execLossOfLock s
  | .beatMarker port payload => Sys2Proof.Machine.execBeatMarker port payload s
  | .slotOverrun core slot => Sys2Proof.Machine.execSlotOverrun core slot s
  | .slotComplete core slot => Sys2Proof.Machine.execSlotComplete core slot s
  | .coxRunSet path core => Sys2Proof.Machine.execCoxRunSet path core s
  | .coxRunClear path core => Sys2Proof.Machine.execCoxRunClear path core s
  | .localCatchWrite path value => Sys2Proof.Machine.execLocalCatchWrite path value s
  | .lanePrep => Sys2Proof.Machine.execLanePrep s
  | .readySend => Sys2Proof.Machine.execReadySend s
  | .readyReceive port pkt => Sys2Proof.Machine.execReadyReceive port pkt s
  | .stragglerTimeout crew => Sys2Proof.Machine.execStragglerTimeout crew s
  | .fwdProductIssue core tile => Sys2Proof.Machine.execFwdProductIssue core tile s
  | .fwdProductDone core tile codes csum => Sys2Proof.Machine.execFwdProductDone core tile codes csum s
  | .sessionProductStart core tile => Sys2Proof.Machine.execSessionProductStart core tile s
  | .tileSessionRequest core tile session => Sys2Proof.Machine.execTileSessionRequest core tile session s
  | .rbudgetWrite path core tile value => Sys2Proof.Machine.execRbudgetWrite path core tile value s
  | .rowWriteUnitStart core tile => Sys2Proof.Machine.execRowWriteUnitStart core tile s
  | .rowWriteUnitDone core tile failed1 failed2 => Sys2Proof.Machine.execRowWriteUnitDone core tile failed1 failed2 s
  | .writeEndExpire group => Sys2Proof.Machine.execWriteEndExpire group s
  | .undoUnitStart core tile => Sys2Proof.Machine.execUndoUnitStart core tile s
  | .undoUnitDone core tile failed1 failed2 => Sys2Proof.Machine.execUndoUnitDone core tile failed1 failed2 s
  | .foldComplete core => Sys2Proof.Machine.execFoldComplete core s
  | .refreshUnitStart core tile => Sys2Proof.Machine.execRefreshUnitStart core tile s
  | .refreshUnitDone core tile failed1 failed2 => Sys2Proof.Machine.execRefreshUnitDone core tile failed1 failed2 s
  | .deckRetireDue core tile => Sys2Proof.Machine.execDeckRetireDue core tile s
  | .levelSurveyDone core tile deck levels => Sys2Proof.Machine.execLevelSurveyDone core tile deck levels s
  | .copyUnitStart core tile => Sys2Proof.Machine.execCopyUnitStart core tile s
  | .copyUnitDone core tile failed1 failed2 => Sys2Proof.Machine.execCopyUnitDone core tile failed1 failed2 s
  | .restoreTransferStart core tile => Sys2Proof.Machine.execRestoreTransferStart core tile s
  | .deckClearUnitStart core tile => Sys2Proof.Machine.execDeckClearUnitStart core tile s
  | .calUnitStart core tile => Sys2Proof.Machine.execCalUnitStart core tile s
  | .calUnitDone core tile sums => Sys2Proof.Machine.execCalUnitDone core tile sums s
  | .tempSample core tile temp => Sys2Proof.Machine.execTempSample core tile temp s
  | .driftDueExpire core tile deck => Sys2Proof.Machine.execDriftDueExpire core tile deck s
  | .driftAged core tile deck => Sys2Proof.Machine.execDriftAged core tile deck s
  | .hkStart path value => Sys2Proof.Machine.execHkStart path value s
  | .hkScan path value => Sys2Proof.Machine.execHkScan path value s
  | .hkScanPace => Sys2Proof.Machine.execHkScanPace s
  | .hkSelfcal path value => Sys2Proof.Machine.execHkSelfcal path value s
  | .hkSelfcalDone off gain => Sys2Proof.Machine.execHkSelfcalDone off gain s
  | .hkConversionDone raw => Sys2Proof.Machine.execHkConversionDone raw s
  | .hkUrgentRequest chan die => Sys2Proof.Machine.execHkUrgentRequest chan die s
  | .hkUrgentDone raw => Sys2Proof.Machine.execHkUrgentDone raw s
  | .hkDataRead path => Sys2Proof.Machine.execHkDataRead path s
  | .mma core ctx parityError => Sys2Proof.Machine.execMma core ctx parityError s
  | .mmaDone core ctx => Sys2Proof.Machine.execMmaDone core ctx s
  | .checkPassDone core ctx agree1 agree2 => Sys2Proof.Machine.execCheckPassDone core ctx agree1 agree2 s
  | .accClr core ctx => Sys2Proof.Machine.execAccClr core ctx s
  | .accAdd core ctx parityError => Sys2Proof.Machine.execAccAdd core ctx parityError s
  | .accOut core ctx parityError => Sys2Proof.Machine.execAccOut core ctx parityError s
  | .toVecQueueResume core ctx => Sys2Proof.Machine.execToVecQueueResume core ctx s
  | .load core ctx => Sys2Proof.Machine.execLoad core ctx s
  | .store core ctx => Sys2Proof.Machine.execStore core ctx s
  | .deferredStoreResume core ctx => Sys2Proof.Machine.execDeferredStoreResume core ctx s
  | .signal core ctx => Sys2Proof.Machine.execSignal core ctx s
  | .wait core ctx => Sys2Proof.Machine.execWait core ctx s
  | .endJob core ctx => Sys2Proof.Machine.execEndJob core ctx s
  | .contextFlushDone core ctx => Sys2Proof.Machine.execContextFlushDone core ctx s
  | .elemwise core par => Sys2Proof.Machine.execElemwise core par s
  | .rownorm core par => Sys2Proof.Machine.execRownorm core par s
  | .rownormBwd core => Sys2Proof.Machine.execRownormBwd core s
  | .softmax core par => Sys2Proof.Machine.execSoftmax core par s
  | .softmaxBwd core => Sys2Proof.Machine.execSoftmaxBwd core s
  | .narrow core => Sys2Proof.Machine.execNarrow core s
  | .opt2m core => Sys2Proof.Machine.execOpt2m core s
  | .feedTailWrite path value => Sys2Proof.Machine.execFeedTailWrite path value s
  | .stashTableWrite path addr value => Sys2Proof.Machine.execStashTableWrite path addr value s
  | .sreqTailWrite path value => Sys2Proof.Machine.execSreqTailWrite path value s
  | .sessionOpen => Sys2Proof.Machine.execSessionOpen s
  | .sessionAppend session work => Sys2Proof.Machine.execSessionAppend session work s
  | .sessionGenerate session work => Sys2Proof.Machine.execSessionGenerate session work s
  | .sessionScore session work => Sys2Proof.Machine.execSessionScore session work s
  | .sessionClose => Sys2Proof.Machine.execSessionClose s
  | .sessionComplete session => Sys2Proof.Machine.execSessionComplete session s
  | .scplHeadWrite path value => Sys2Proof.Machine.execScplHeadWrite path value s
  | .hbmRead req bad pbad => Sys2Proof.Machine.execHbmRead req bad pbad s
  | .hbmRetryDone addr bad pbad => Sys2Proof.Machine.execHbmRetryDone addr bad pbad s
  | .regionRetire stack region => Sys2Proof.Machine.execRegionRetire stack region s
  | .hbmWrite req data poison errs => Sys2Proof.Machine.execHbmWrite req data poison errs s
  | .tblkArrival block => Sys2Proof.Machine.execTblkArrival block s
  | .tblkRearrival block => Sys2Proof.Machine.execTblkRearrival block s
  | .accContribution port pkt => Sys2Proof.Machine.execAccContribution port pkt s
  | .zeroGo path stack => Sys2Proof.Machine.execZeroGo path stack s
  | .zeroiseDone stack => Sys2Proof.Machine.execZeroiseDone stack s
  | .linkUp port terms => Sys2Proof.Machine.execLinkUp port terms s
  | .helloTimer port => Sys2Proof.Machine.execHelloTimer port s
  | .linkClassify port => Sys2Proof.Machine.execLinkClassify port s
  | .hello port node block => Sys2Proof.Machine.execHello port node block s
  | .frameReceive port frame => Sys2Proof.Machine.execFrameReceive port frame s
  | .replay port lseq => Sys2Proof.Machine.execReplay port lseq s
  | .linkAck port lseq => Sys2Proof.Machine.execLinkAck port lseq s
  | .linkAckTimer port => Sys2Proof.Machine.execLinkAckTimer port s
  | .pauseFrame port prio ns => Sys2Proof.Machine.execPauseFrame port prio ns s
  | .data port pkt => Sys2Proof.Machine.execData port pkt s
  | .readReq port pkt => Sys2Proof.Machine.execReadReq port pkt s
  | .readResp port pkt => Sys2Proof.Machine.execReadResp port pkt s
  | .ack port pkt => Sys2Proof.Machine.execAck port pkt s
  | .nak port pkt => Sys2Proof.Machine.execNak port pkt s
  | .ackTimer node queue => Sys2Proof.Machine.execAckTimer node queue s
  | .rnrDelayExpire node queue => Sys2Proof.Machine.execRnrDelayExpire node queue s
  | .rtxTimeout node queue => Sys2Proof.Machine.execRtxTimeout node queue s
  | .jobCmdOpen path job gen => Sys2Proof.Machine.execJobCmdOpen path job gen s
  | .jobCmdFree path job gen => Sys2Proof.Machine.execJobCmdFree path job gen s
  | .jobFreeBeat job => Sys2Proof.Machine.execJobFreeBeat job s
  | .quarantineEnd job => Sys2Proof.Machine.execQuarantineEnd job s
  | .roceWrite peer marked rkey addr data => Sys2Proof.Machine.execRoceWrite peer marked rkey addr data s
  | .roceRead peer marked rkey addr len => Sys2Proof.Machine.execRoceRead peer marked rkey addr len s
  | .roceInvalidRequest peer marked => Sys2Proof.Machine.execRoceInvalidRequest peer marked s
  | .retrain path port => Sys2Proof.Machine.execRetrain path port s
  | .bypOpenNow path port => Sys2Proof.Machine.execBypOpenNow path port s
  | .bypClose path port => Sys2Proof.Machine.execBypClose path port s
  | .bypListenLock pairB => Sys2Proof.Machine.execBypListenLock pairB s
  | .bypOpen port pkt => Sys2Proof.Machine.execBypOpen port pkt s
  | .bypOpenBeat pairB => Sys2Proof.Machine.execBypOpenBeat pairB s
  | .ringPacket port pkt => Sys2Proof.Machine.execRingPacket port pkt s
  | .adderStageOpen core slot level => Sys2Proof.Machine.execAdderStageOpen core slot level s
  | .bucketDone core slot => Sys2Proof.Machine.execBucketDone core slot s
  | .scaleReport port pkt => Sys2Proof.Machine.execScaleReport port pkt s
  | .scaleUpdate port pkt => Sys2Proof.Machine.execScaleUpdate port pkt s
  | .redo port pkt => Sys2Proof.Machine.execRedo port pkt s
  | .claimTimer => Sys2Proof.Machine.execClaimTimer s
  | .claim port pkt => Sys2Proof.Machine.execClaim port pkt s
  | .joinTimer => Sys2Proof.Machine.execJoinTimer s
  | .join port pkt => Sys2Proof.Machine.execJoin port pkt s
  | .assign port pkt => Sys2Proof.Machine.execAssign port pkt s
  | .progArm port pkt => Sys2Proof.Machine.execProgArm port pkt s
  | .ckptIntervalExpire => Sys2Proof.Machine.execCkptIntervalExpire s
  | .ckptOrder port pkt => Sys2Proof.Machine.execCkptOrder port pkt s
  | .stateRecordWritten => Sys2Proof.Machine.execStateRecordWritten s
  | .ckptWritten => Sys2Proof.Machine.execCkptWritten s
  | .ckptDone port pkt => Sys2Proof.Machine.execCkptDone port pkt s
  | .ckptCommit port pkt => Sys2Proof.Machine.execCkptCommit port pkt s
  | .rollCall port pkt => Sys2Proof.Machine.execRollCall port pkt s
  | .rollAnswer port pkt => Sys2Proof.Machine.execRollAnswer port pkt s
  | .rollcallTimeout crew => Sys2Proof.Machine.execRollcallTimeout crew s
  | .restore port pkt => Sys2Proof.Machine.execRestore port pkt s
  | .restoreComplete status => Sys2Proof.Machine.execRestoreComplete status s
  | .restoreDone port pkt => Sys2Proof.Machine.execRestoreDone port pkt s
  | .restoreFinish port pkt => Sys2Proof.Machine.execRestoreFinish port pkt s
  | .restoreFinishBeat => Sys2Proof.Machine.execRestoreFinishBeat s
  | .report port pkt => Sys2Proof.Machine.execReport port pkt s
  | .jobOpen port pkt => Sys2Proof.Machine.execJobOpen port pkt s
  | .jobFree port pkt => Sys2Proof.Machine.execJobFree port pkt s
  | .takeoverTimer => Sys2Proof.Machine.execTakeoverTimer s
  | .takeover port pkt => Sys2Proof.Machine.execTakeover port pkt s
  | .takeoverAck port pkt => Sys2Proof.Machine.execTakeoverAck port pkt s
  | .takeoverDecide => Sys2Proof.Machine.execTakeoverDecide s
  | .deposed port pkt => Sys2Proof.Machine.execDeposed port pkt s
  | .restoreNow path => Sys2Proof.Machine.execRestoreNow path s
  | .regReq port pkt => Sys2Proof.Machine.execRegReq port pkt s
  | .regResp port pkt => Sys2Proof.Machine.execRegResp port pkt s
  | .hangMonitorFire unit => Sys2Proof.Machine.execHangMonitorFire unit s
  | .abort port pkt => Sys2Proof.Machine.execAbort port pkt s
  | .crewAbort crew => Sys2Proof.Machine.execCrewAbort crew s
  | .sampleWritten => Sys2Proof.Machine.execSampleWritten s
  | .engineResetDone unit => Sys2Proof.Machine.execEngineResetDone unit s
  | .partitionResetDone die => Sys2Proof.Machine.execPartitionResetDone die s
  | .resetBoundExpire unit => Sys2Proof.Machine.execResetBoundExpire unit s
  | .sampleWaitExpire => Sys2Proof.Machine.execSampleWaitExpire s
  | .chipReset cause cls unit => Sys2Proof.Machine.execChipReset cause cls unit s
  | .chipLimitExpire => Sys2Proof.Machine.execChipLimitExpire s
  | .pcycIbiTimer => Sys2Proof.Machine.execPcycIbiTimer s
  | .pcycAck path => Sys2Proof.Machine.execPcycAck path s
  | .sampleRelease path => Sys2Proof.Machine.execSampleRelease path s
  | .fieldTestGo path => Sys2Proof.Machine.execFieldTestGo path s
  | .fieldTest port pkt => Sys2Proof.Machine.execFieldTest port pkt s
  | .fieldTestDone results => Sys2Proof.Machine.execFieldTestDone results s
  | .fieldResult port pkt => Sys2Proof.Machine.execFieldResult port pkt s
  | .pkgCurrentSample deciAmps => Sys2Proof.Machine.execPkgCurrentSample deciAmps s
  | .pdReportTick iavg ipeak vmin pkgAvg pkgPeak => Sys2Proof.Machine.execPdReportTick iavg ipeak vmin pkgAvg pkgPeak s
  | .phaseFault p phase => Sys2Proof.Machine.execPhaseFault p phase s
  | .sensorExclude p sensor => Sys2Proof.Machine.execSensorExclude p sensor s
  | .railDroop p => Sys2Proof.Machine.execRailDroop p s
  | .railUndervolt p => Sys2Proof.Machine.execRailUndervolt p s
  | .pdCmdOn path p => Sys2Proof.Machine.execPdCmdOn path p s
  | .pdCmdOff path p => Sys2Proof.Machine.execPdCmdOff path p s
  | .admitGateEval p neighbours => Sys2Proof.Machine.execAdmitGateEval p neighbours s
  | .admitTimeout p => Sys2Proof.Machine.execAdmitTimeout p s
  | .rampDone p => Sys2Proof.Machine.execRampDone p s
  | .rampTimeout p => Sys2Proof.Machine.execRampTimeout p s
  | .drainComplete p => Sys2Proof.Machine.execDrainComplete p s
  | .drainTimeout p => Sys2Proof.Machine.execDrainTimeout p s
  | .dischargeDone p => Sys2Proof.Machine.execDischargeDone p s
  | .thermSample die code => Sys2Proof.Machine.execThermSample die code s
  | .thermtripComparator die => Sys2Proof.Machine.execThermtripComparator die s
  | .attest path => Sys2Proof.Machine.execAttest path s
  | .dbgChallenge path nonce => Sys2Proof.Machine.execDbgChallenge path nonce s
  | .dbgResponse path => Sys2Proof.Machine.execDbgResponse path s
  | .dbgClose path => Sys2Proof.Machine.execDbgClose path s
  | .ownerProgram path => Sys2Proof.Machine.execOwnerProgram path s
  | .ownerChange path => Sys2Proof.Machine.execOwnerChange path s
  | .tenant path => Sys2Proof.Machine.execTenant path s
  | .cakLoad path => Sys2Proof.Machine.execCakLoad path s
  | .secCmdComplete => Sys2Proof.Machine.execSecCmdComplete s
  | .clearingDone => Sys2Proof.Machine.execClearingDone s
  | .memWinRead path => Sys2Proof.Machine.execMemWinRead path s
  | .beatCountRead path runBeats => Sys2Proof.Machine.execBeatCountRead path runBeats s
  | .i3cPointerWrite ptr => Sys2Proof.Machine.execI3cPointerWrite ptr s
  | .i3cPrivateWrite ptr value => Sys2Proof.Machine.execI3cPrivateWrite ptr value s
  | .i3cPrivateRead words => Sys2Proof.Machine.execI3cPrivateRead words s
  | .i3cDynamicAddress setdasa addr => Sys2Proof.Machine.execI3cDynamicAddress setdasa addr s
  | .i3cHotJoin => Sys2Proof.Machine.execI3cHotJoin s
  | .registerWrite path size addr value => Sys2Proof.Machine.execRegisterWrite path size addr value s
  | .powerRemoved => Sys2Proof.Machine.execPowerRemoved s
  | .refclkReturn => Sys2Proof.Machine.execRefclkReturn s
  | .partnerRetrain port reduced => Sys2Proof.Machine.execPartnerRetrain port reduced s
  | .droopRecovery p => Sys2Proof.Machine.execDroopRecovery p s
  | .serviceGap place result => Sys2Proof.Machine.execServiceGap place result s
  | .stackInitialised stack => Sys2Proof.Machine.execStackInitialised stack s

end Sys2Proof.Machine
end

