-- ==== Sys2Proof/Machine/Tick.lean ====
section
/-! DEFINITION. Machine/Tick.lean: the passing of time. -/

namespace Sys2Proof.Machine

/-- One nanosecond passes while no command waits (notes/assumptions/1.md). -/
def State.tick (s : State) : State := { s with work := { s.work with now := s.work.now + 1 } }

end Sys2Proof.Machine
end

