-- ==== Sys2Proof/Safety.lean ====
section
/-! DEFINITION. Safety.lean: what the statements call a safe state and a completed command. -/

namespace Sys2Proof.Machine

/-- The memory keeps its canonical form: rising addresses, no byte equal to what an unlisted address reads as. -/
abbrev State.MemOk (s : State) : Prop := Memory.wf s.work.mem = true

/-- The command, run at `s`, answers the next state that holds `w`: board and queue are those of `s`. -/
def Gives (c : Instr) (s : State) (w : Work) : Prop := exec c s = .next { s with work := w }

/-- The command, run at `s`, answers a next state with the board and queue of `s` whose working state satisfies `P`. -/
def Leads (c : Instr) (s : State) (P : Work → Prop) : Prop := ∃ w, Gives c s w ∧ P w

/-- Every register outside the list reads in `v` as in `w`. -/
def RegsKept (w v : Work) (except : List Nat) : Prop := ∀ a, a ∉ except → v.reg a = w.reg a

/-- The command, run at `s`, changes nothing but the board and working state named. -/
def GivesBoth (c : Instr) (s : State) (b : Board) (w : Work) : Prop := exec c s = .next { s with board := b, work := w }

/-- A command of a pin, of the supply or of an access path, which acts in other conditions of the device too (R449, R554 to
R559). Every other command acts on the running device alone. -/
def actsHeld : Instr → Bool
  | .resetLRise _ | .resetLFall _ | .pwrGoodFall | .refclkLoss | .refclkReturn | .powerRemoved | .pcycIbiTimer | .hkDataRead _
  | .pcycAck _ | .memWinRead _ | .beatCountRead .. | .i3cPointerWrite _ | .i3cPrivateWrite .. | .i3cPrivateRead _
  | .i3cDynamicAddress .. | .i3cHotJoin | .registerWrite .. => true
  | _ => false

/-- A write of register `a` with value `v` on a path is done: aligned, permitted, its block not dark, no field of it locked
(R520, R525, R530, R536), and nothing holds it up (R534). -/
abbrev Work.Writable (w : Work) (p : Path) (a v : Nat) : Prop :=
  a % 4 = 0 ∧ w.mayWrite (w.busPath p) a v = true ∧ w.darkAt a = false ∧ (hasRwl a && w.rwlLocked (w.busPath p)) = false ∧
  w.holdsUp p a = false

/-- Nothing but the beat moves at an edge: no cox, tile or commit state is listed, no beacon goes, no roll call, bucket, power
request or crew of a manager waits, the feed does not starve, and no READY is due. -/
abbrev Work.Quiet (w : Work) : Prop :=
  w.coxes = [] ∧ w.tiles = [] ∧ w.commits = [] ∧ w.fault.beacons = [] ∧ w.mgr.rollDue = none ∧ w.power.dom = [] ∧
  w.step.starving = false ∧ w.red = {} ∧ w.links = [] ∧ w.stroke.readyFrom = none

/-- A packet of a type reaches the running device on a port, is kept (R339 to R350), and is outside flow tracking or the next of
its flow (R342, R563). -/
abbrev State.Receives (s : State) (k : Fin 40) (p : Packet) (type : Nat) : Prop :=
  s.board.alive = true ∧ s.work.arrives k.val p type = true ∧ s.work.accepts p = true ∧
  (untracked p = true ∨ reliableType p.type = false ∨ p.psn = (s.work.rxFlow p).next)

/-- A CONTROL message of an operation so reaches the device. -/
abbrev State.Hears (s : State) (k : Fin 40) (p : Packet) (op : Nat) (c : Ctrl) : Prop :=
  s.Receives k p 6 ∧ ctrlOf p = some c ∧ c.op = op

/-- `v`, what a packet's effect leaves, with the packet taken in its flow: the next PSN expected, an acknowledgement due (R342). -/
def Work.settled (w v : Work) (p : Packet) : Work :=
  if untracked p || !reliableType p.type then v
  else (v.setRx p { v.rxFlow p with next := ((w.rxFlow p).next + 1) % 2 ^ 32, gap := false, retry := false, rematch := false }).ackDue p

/-- A unit that started at a time runs on a tile, which it holds until its service gap, 8,000 of its 10,000 ns on (R120, R142). -/
def Work.UnitRuns (w : Work) (c t at_ : Nat) (P : TileUnit → Prop) : Prop :=
  (∃ u, (w.tile c t).unit = some u ∧ u.start = at_ ∧ P u) ∧ (w.tile c t).unitEnd = at_ + 10000 ∧
  (w.tile c t).freeFrom = at_ + 8000 ∧ w.held c t = true ∧ w.now = max w.now at_

/-- A read of a register on a path is done: aligned, permitted, its block not dark (R520, R525, R536), nothing holding it up
(R534). -/
abbrev Work.Readable (w : Work) (p : Path) (a : Nat) : Prop :=
  a % 4 = 0 ∧ w.mayRead (w.busPath p) a = true ∧ w.darkAt a = false ∧ w.holdsUp p a = false

/-- A context in RUN, with no multiply-accumulate in flight, has this instruction of an opcode next (R202, R208). -/
abbrev Work.Fetches (w : Work) (c x op : Nat) (b : List Byte) : Prop :=
  w.ctxState c x = 1 ∧ (w.ctx c x).waits = none ∧ (w.ctx c x).stalled = false ∧ (w.ctx c x).inFlight = [] ∧
  w.fetchInstr c x = some b ∧ instrOk1 x b = true ∧ leAt b 0 1 = op

/-- A context has retired one instruction and goes on. -/
def Work.Retired (w v : Work) (c x : Nat) : Prop :=
  (v.ctx c x).pc = (w.ctx c x).pc + 32 ∧ (v.ctx c x).stalled = false ∧ v.ctxState c x = w.ctxState c x

end Sys2Proof.Machine
end

