-- ==== Sys2Proof/Certificates/Slice0/Obligations.lean ====
section
/-! DEFINITION. Certificates/Slice0/Obligations.lean: the statements for the provers. Each names the board's condition, the
command and what it does; `Gives` and `Leads` (Safety.lean) say that the command answers a next state with the same board and
queue. An equation with a named state says its frame too: what it does not name stays. -/

open Sys2Proof Sys2Proof.Machine

/-! ### Start-up, pins and supply -/

/-- R5, R490, R492, R531: a rise of RESET_L samples the straps, restarts the start-up sequence with the first class of domains
and names the cause; a low pulse of 1 µs or more resets everything but what R531 and R487 keep; a shorter one is ignored.
A fall of PWR_GOOD and the removal of power, with RESET_L low, do the board's part alone (R559). -/
def Obligations.ResetPinsTakeEffect : Prop :=
  (∀ (s : State) (straps : Fin 4), s.board.resetL = false →
    (∃ p ∈ rampClass 0, s.work.pdState p ≠ 6) →
    GivesBoth (.resetLRise straps) s
      { s.board with powered := true, pwrGood := true, resetL := true, role := straps }
      { s.work.wr RESET_CAUSE (if s.board.pwrGood then 1 else 0) with
        start := { ramping := (rampClass 0).filter (fun p => s.work.pdState p != 6), rise := s.work.now } }) ∧
  (∀ (s : State) (straps : Fin 4), s.board.resetL = true → GivesBoth (.resetLRise straps) s s.board s.work) ∧
  (∀ (s : State) (ns : Nat), ns < 1000 → GivesBoth (.resetLFall ns) s s.board s.work) ∧
  (∀ (s : State) (ns : Nat), 1000 ≤ ns → s.board.resetL = true → (∀ p < 72, s.work.rd (PD_PHASE p) = 0 ∧ s.work.pdState p ≠ 6) →
    GivesBoth (.resetLFall ns) s { s.board with resetL := false }
      { cells := s.work.cells, now := s.work.now, free := s.work.free, out := s.work.out }) ∧
  (∀ (s : State), s.board.resetL = false → GivesBoth .pwrGoodFall s { s.board with pwrGood := false } s.work) ∧
  (∀ (s : State), s.board.resetL = true → s.work.start.burn = none →
    (∀ p < 72, s.work.rd (PD_PHASE p) = 0 ∧ s.work.pdState p ≠ 6) →
    GivesBoth .pwrGoodFall s { s.board with pwrGood := false }
      { cells := s.work.cells, now := s.work.now, free := s.work.free, out := s.work.out }) ∧
  (∀ (s : State), s.work.start.burn = none →
    GivesBoth .powerRemoved s
      { s.board with powered := false, pwrGood := false, resetL := false, thermtrip := false, pcyc := false }
      { cells := s.work.cells, now := s.work.now, free := s.work.free, out := s.work.out })

/-- R554, R448: a loss of the reference clock is a chip-level reset with cause 2, class 7 and unit 1,220 that holds until the
clock returns; CHIP_RST_CNT advances, memory is cleared, every generation steps, and the I3C address stays. -/
def Obligations.ReferenceClockLossResetsAndReturnGoesOn : Prop :=
  (∀ s : State, s.board.alive = true → ∃ w, GivesBoth .refclkLoss s { s.board with refclk := false } w ∧
    w.rd RESET_CAUSE = 2 + 2 ^ 4 * 7 + 2 ^ 12 * 1220 ∧ w.rd CHIP_RST_CNT = min (s.work.rd CHIP_RST_CNT + 1) 0xFFFFFFFF ∧
    w.mem = [] ∧ w.start.domainDark = true ∧ w.access.i3cAddr = s.work.access.i3cAddr ∧
    (∀ u, u < 1092 ∨ u = 1220 → Sp.get w.fault.gens 0 u = (Sp.get s.work.fault.gens 0 u + 1) % 256) ∧
    (∀ m < 12, (w.memc m).zero = some (0, 32768, true)) ∧
    w.cells = s.work.cells ∧ w.out = s.work.out) ∧
  (∀ s : State, s.board.refclk = false → s.work.start.domainDark = true →
    GivesBoth .refclkReturn s { s.board with refclk := true }
      { s.work with
        start := { s.work.start with domainDark := false, loadFrom := s.work.now, cfgBus := true }
        hk := { s.work.hk with start := s.work.now }
        fault := { s.work.fault with chipFrom := some s.work.now }
        out := s.work.out ++ [.flash 0x5A 0] })

/-- R496 to R498, R503 to R505: discovery reads a second time where the first read shows no signature, and settles the mode and the
failure flag; a first failed read of the image is repeated; the end of step 3 resets the flash and releases its bus;
the read that decides accepts an image or takes factory defaults with the cause of Table 14-7.

R494, R510, R493: the device is READY once the steps before are done; the burn begins then and its end fuses the new
minimum; a stack initialised is zeroised whole; the I3C address is taken once, and Hot-Join asks for one (R556). -/
def Obligations.ImagesLoadAndStartUpEnds : Prop :=
  (
  (∀ (s : State) (a b : Bool) (m : Fin 6), s.board.alive = true → s.work.start.discovered = false → s.work.start.ramped = true →
    Gives (.discoveryDone a b m) s
      ({ ((s.work.when (!a) (·.emit (.flash 0x5A 0))).when (!(a || b)) (·.setBit CFG_STATUS 7)).setFld CFG_STATUS 10 3
            (if a || b then m.val else 0) with start := { s.work.start with discovered := true } }.startStep 3).readFlash) ∧
  (∀ (s : State) (img : List Byte) (us : Nat), s.board.alive = true → s.work.start.discovered = true →
    s.work.start.applied = false → s.work.start.image = none → s.work.flag CFG_STATUS 1 = false →
    imgReadCause img ≠ 0 → s.work.start.reread = false →
    Gives (.configReadDone img us) s ({ s.work with start := { s.work.start with reread := true } }.readFlash)) ∧
  (∀ (s : State) (img : List Byte) (us : Nat), s.board.alive = true → s.work.start.discovered = true →
    s.work.start.applied = false → s.work.start.image = none → s.work.flag CFG_STATUS 1 = false →
    (imgReadCause img = 0 ∨ s.work.start.reread = true) →
    Leads (.configReadDone img us) s (fun w =>
      let c := if imgReadCause img ≠ 0 then imgReadCause img else imgTrustCause s.board img
      let m := s.work.fld CFG_STATUS 10 3
      w.start.cfgBus = false ∧ w.out = s.work.out ++ [.flash 0x66 m, .flash 0x99 m] ∧
      w.rd CFG_LOAD_US = min us 0xFFFFFFFF ∧ w.mem = s.work.mem ∧ w.start.applied = false ∧
      w.flag CFG_STATUS 0 = (s.work.flag CFG_STATUS 0 || c == 0) ∧ w.flag CFG_STATUS 1 = (c != 0) ∧
      w.start.ownerDigest = s.board.ownerNow ∧
      (c ≠ 0 → w.fld CFG_STATUS 2 4 = c ∧ w.flag GLB_STATUS 6 = true ∧ w.start.image = none) ∧
      (c = 0 → w.rd CFG_LEN = imgLen img ∧ w.fld CFG_SECVER 0 6 = leAt img 12 1 % 64 ∧
        w.start.image = some (img.take (imgLen img))))) ∧
  (∀ s : State, s.board.alive = true → s.work.start.applied = false → (s.work.start.image.isSome || s.work.flag CFG_STATUS 1) = true →
    s.work.stacksReady = true →
    Leads .configApply s (fun w => w.flag CFG_STATUS 9 = true ∧ w.flag GLB_STATUS 5 = true ∧ 5 ≤ w.fld GLB_STATUS 16 4 ∧
      w.start.applied = true ∧ w.start.waking = true ∧
      (s.work.start.image = none → s.board.role = 2 → w.fld MGR_STATUS 0 2 = 3) ∧
      (s.work.start.image = none → w.mem = s.work.mem)))) ∧
  (
  (∀ s : State, s.board.alive = true → s.work.readyNow s.board = true →
    Leads .deviceReady s (fun w => w.flag GLB_STATUS 0 = true ∧ 9 ≤ w.fld GLB_STATUS 16 4 ∧
      w.rd START_US = min ((s.work.now - s.work.start.rise) / 1000) 0xFFFFFFFF ∧
      w.flag CFG_SECVER 14 = (s.work.flag CFG_SECVER 14 || s.work.start.burn.isSome) ∧
      RegsKept s.work w [GLB_STATUS, START_US, CFG_SECVER] ∧
      w = { s.work with regs := w.regs, start := { s.work.start with ready := true, waking := false } })) ∧
  (∀ (s : State) (v : Nat), s.board.alive = true → s.work.start.burn = some v → s.work.flag CFG_SECVER 14 = true →
    GivesBoth .fuseBurn s { s.board with secMin := max s.board.secMin v }
      { s.work.clrBit CFG_SECVER 14 with start := { s.work.start with burn := none } }) ∧
  (∀ (s : State) (m : Fin 12), s.board.alive = true → s.work.start.ramped = true → (s.work.memc m.val).ready = false →
    (s.work.memc m.val).zero = none →
    Gives (.stackInitialised m) s
      ((s.work.setMemc m.val { s.work.memc m.val with zero := some (0, 32768, true) }).setBit (MC_STATUS m.val) 0)) ∧
  (∀ (s : State) (x : Bool) (a : Fin 128), s.board.answers = true → s.work.start.ramped = true → s.work.access.i3cAddr = none →
    Gives (.i3cDynamicAddress x a) s { s.work with access := { s.work.access with i3cAddr := some a.val },
                                                   out := s.work.out ++ (if x then [] else [.entdaa provisionalId 6 0]) }) ∧
  (∀ (s : State) (x : Bool) (a : Fin 128), s.board.answers = true → s.work.access.i3cAddr.isSome = true →
    Gives (.i3cDynamicAddress x a) s s.work) ∧
  (∀ s : State, s.board.answers = true → s.work.start.ramped = true → s.work.access.i3cAddr = none →
    Gives .i3cHotJoin s (s.work.emit .hotJoin)))

/-! ### The beat -/

/-- R21, R24, R32: on a locked worker of source mode 00 with nothing else to do, a good edge advances the beat counter by one, with its
epoch, and so does a flywheeled edge, which counts as such, and a beat period written before comes into force (R21); an edge outside the ±5 % window of R22 counts as an edge error and
advances nothing. A flywheel beyond FLYWHEEL_MAX makes the loss of lock due.

R44: at a beat edge a RUNNING cox whose program has no slot and whose ready offset has not come moves on by one offset; at its
ready offset it is READY_WAIT (Table 1-8). -/
def Obligations.BeatEdgesAdvanceCountersAndCoxes : Prop :=
  (
  (∀ (s : State) (after : Nat), s.board.alive = true → s.work.beat.lossDue = false → s.work.beatSrc = 0 →
    s.work.ownNumbers s.board = false → s.work.locked = true → s.work.edgeGood after = true → s.work.beat.sinceMarker = 0 →
    s.work.Quiet →
    let t := max s.work.now (s.work.beat.lastEdge.getD s.work.now + after)
    Gives (.beatEdge after) s
      ({ s.work.setBeat (beatAdd s.work.beatFull 1) with
          now := t, force := s.work.force.filter (fun p => p.1 != BEAT_PERIOD)
          beat := { s.work.beat with lastEdge := some t, fly := 0, sinceMarker := 1 } })) ∧
  (∀ (s : State) (after : Nat), s.board.alive = true → s.work.beat.lossDue = false → s.work.beatSrc = 0 → s.work.locked = true →
    s.work.edgeGood after = false →
    Gives (.beatEdge after) s
      ((s.work.till (s.work.beat.lastEdge.getD s.work.now + after)).incFld BEAT_ERR_CNT 0 16 1)) ∧
  (∀ s : State, s.board.alive = true → s.work.beat.lossDue = false → s.work.locked = true → s.work.ownNumbers s.board = false →
    s.work.beat.fly + 1 ≤ s.work.flyMax → s.work.Quiet →
    let t := s.work.beat.lastEdge.getD s.work.now + s.work.period
    Leads .flywheel s (fun w => w.beatFull = beatAdd s.work.beatFull 1 ∧
      w.fld BEAT_ERR_CNT 16 16 = min (s.work.fld BEAT_ERR_CNT 16 16 + 1) 0xFFFF ∧
      RegsKept s.work w [BEAT_COUNT_LO, BEAT_COUNT_HI, BEAT_ERR_CNT] ∧
      w = { s.work with regs := w.regs, now := max s.work.now t, force := s.work.force.filter (fun p => p.1 != BEAT_PERIOD), beat := { s.work.beat with
              lastEdge := some t, fly := s.work.beat.fly + 1, sinceMarker := s.work.beat.sinceMarker + 1 } })) ∧
  (∀ s : State, s.board.alive = true → s.work.beat.lossDue = false → s.work.locked = true → s.work.ownNumbers s.board = false →
    s.work.flyMax < s.work.beat.fly + 1 →
    Leads .flywheel s (fun w => w.beat.lossDue = true ∧ w.beatFull = beatAdd s.work.beatFull 1 ∧ w.mem = s.work.mem ∧
      w.coxes = s.work.coxes))) ∧
  (
  ∀ (w : Work) (c : Nat) (p : Prog), c < 1024 → (w.cox c).prog = some p → p.slots = [] → w.coxState c = 2 →
    w.coxOffset c + 1 < 2 ^ 17 →
    (w.coxEdge c 2).coxOffset c = w.coxOffset c + 1 ∧
    (w.coxEdge c 2).coxState c = (if p.ready ≤ w.coxOffset c + 1 then 4 else 2) ∧
    RegsKept w (w.coxEdge c 2) [COX_STATUS c] ∧ w.coxEdge c 2 = { w with regs := (w.coxEdge c 2).regs })

/-- R22, R26: 1.05 periods without an edge end the run before lock; a loss of lock that is due clears LOCKED, sets LOCK_LOST,
counts and logs the event, and begins a new run.

R16, R20, R25, R30, R332, R561: a marker whose beat lies in the window of R25 is taken, with the finishes it announces; one outside the
window, and one that R561 discards, count as edge errors; the second of the former in a row makes the loss of lock due. Under the factory defaults the port of a marker becomes MARKER_PORT.
A port that awaits a discarded frame again takes none. -/
def Obligations.BeatLockAndMarkers : Prop :=
  (
  (∀ (s : State) (t : Nat), s.board.alive = true → s.work.locked = false → s.work.beat.lastEdge = some t →
    Gives .lockRunEnd s { s.work.till (t + s.work.period * 21 / 20) with beat := { s.work.beat with run := 0, lastEdge := none } }) ∧
  (∀ s : State, s.board.alive = true → s.work.locked = true → s.work.beat.lossDue = true → s.work.coxes = [] →
    Leads .lossOfLock s (fun w => w.locked = false ∧ w.flag BEAT_STATUS 1 = true ∧
      w.rd LASTING_CNT = min (s.work.rd LASTING_CNT + 1) 0xFFFFFFFF ∧
      (∃ r, w.fault.log.head? = some r ∧ r.cls = 10 ∧ r.unit = 1220 ∧ r.beat = s.work.beatFull) ∧
      w.beat = { port := s.work.beat.port, lastMarker := s.work.beat.lastMarker, sinceMarker := s.work.beat.sinceMarker } ∧
      w.mem = s.work.mem ∧ w.cells = s.work.cells ∧ w.tiles = s.work.tiles))) ∧
  (
  (∀ (s : State) (k : Fin 40) (l : List Byte) (m : Marker), s.board.alive = true → s.work.ownNumbers s.board = false →
    s.work.beat.lossDue = false → s.work.hears k.val = true → s.work.markerFrom k.val = true → markerOf l = some m →
    s.work.beatSrc = 0 → s.work.locked = true → m.period = s.work.period → 36 ≤ s.work.fld BEAT_CTL 16 6 →
    let u := s.work.when (s.work.flag CFG_STATUS 1) (·.setFld BEAT_CTL 8 6 k.val)
    (inWindow m.beat s.work.beatCnt = true → m.fins = [] →
      Gives (.beatMarker k l) s { u with beat := { s.work.beat with
        port := some k.val, mismatch := false, sinceMarker := 0, lastMarker := some (m.epoch * 2 ^ 40 + m.beat) } }) ∧
    (∀ crew f, inWindow m.beat s.work.beatCnt = true → m.fins = [(crew, f)] → beatBefore s.work.beatFull f = true →
      Sp.find s.work.beat.fin crew ≠ some f →
      Gives (.beatMarker k l) s { u with beat := { s.work.beat with
        port := some k.val, mismatch := false, sinceMarker := 0, lastMarker := some (m.epoch * 2 ^ 40 + m.beat),
        fin := Sp.put s.work.beat.fin crew f } }) ∧
    (inWindow m.beat s.work.beatCnt = false →
      Gives (.beatMarker k l) s { u.incFld BEAT_ERR_CNT 0 16 1 with beat := { s.work.beat with
        port := some k.val, mismatch := true, lossDue := s.work.beat.mismatch } })) ∧
  (∀ (s : State) (k : Fin 40) (l : List Byte), s.board.alive = true → s.work.ownNumbers s.board = false →
    s.work.beat.lossDue = false → s.work.hears k.val = true → s.work.markerFrom k.val = true → markerOf l = none →
    Gives (.beatMarker k l) s (s.work.incFld BEAT_ERR_CNT 0 16 1)) ∧
  (∀ (s : State) (k : Fin 40) (l : List Byte), s.board.alive = true → s.work.hears k.val = false →
    Gives (.beatMarker k l) s s.work))

/-! ### Coxes and slots -/

/-- R43, R47, R48, R256, R277: a permitted write of 1 to COX_CTL makes an IDLE cox take its program, or refuse it and mark why; a
write of 0 lets an ARMED or ABORTED cox be IDLE, and leaves a running one to its finish.

R48: LOCAL_CATCH takes the value written; without a manager every ARMED cox aims at it, and nothing else changes.

R45, R46: a slot still outstanding at OFFSET + LEN overruns, once, and counts; a checkpoint segment slot completes, the core
having made progress, and an overrun cox whose last slot completes is READY_WAIT. -/
def Obligations.ProgramsRunAndSlotsEnd : Prop :=
  (
  (∀ (s : State) (path : Path) (c : Fin 1024), s.board.alive = true → s.work.Writable path (COX_CTL c.val) 1 →
    let v := (s.work.wrPlain path (COX_CTL c.val) 1).firstArm
    (s.work.wrPlain path (COX_CTL c.val) 1).coxState c.val = 0 → (s.work.wrPlain path (COX_CTL c.val) 1).mayStroke s.board = true →
    v.step.entryBad = false →
    (∀ p, v.loadProg c.val (v.progBase c.val) = .ok p →
      Gives (.coxRunSet path c) s
        ((v.setCox c.val { v.cox c.val with prog := some p, runs := [], catchAt := v.localAim }).setFld (COX_STATUS c.val) 0 3 1)) ∧
    (∀ n, v.loadProg c.val (v.progBase c.val) = .bad n →
      Gives (.coxRunSet path c) s ((v.setBit (COX_ERR c.val) 0).setFld (COX_ERR c.val) 8 4 n)) ∧
    (∀ n, v.loadProg c.val (v.progBase c.val) = .badCond n →
      Gives (.coxRunSet path c) s ((v.setBit (COND_ERR c.val) 0).setFld (COND_ERR c.val) 8 4 n))) ∧
  (∀ (s : State) (path : Path) (c : Fin 1024), s.board.alive = true → s.work.Writable path (COX_CTL c.val) 0 →
    let v := s.work.wrPlain path (COX_CTL c.val) 0
    ((v.coxState c.val = 1 ∨ v.coxState c.val = 6) →
      Gives (.coxRunClear path c) s ((v.setCox c.val {}).setFld (COX_STATUS c.val) 0 3 0)) ∧
    (v.coxState c.val ≠ 1 → v.coxState c.val ≠ 6 → Gives (.coxRunClear path c) s v))) ∧
  (
  ∀ (s : State) (path : Path) (v : Word), s.board.alive = true → s.work.Writable path LOCAL_CATCH v.toNat →
    Leads (.localCatchWrite path v) s (fun w => w.rd LOCAL_CATCH = v.toNat ∧ RegsKept s.work w [LOCAL_CATCH] ∧
      w = { s.work with regs := w.regs, coxes := s.work.coxes.map (fun q =>
        (q.1, if s.work.coxState q.1 = 1 ∧ s.work.noManager = true then { q.2 with catchAt := w.localTarget } else q.2)) })) ∧
  (
  (∀ (s : State) (c : Fin 1024) (n : Nat) (sl : Slot), s.board.alive = true → s.work.slotAt c.val n = some sl →
    (s.work.coxState c.val = 2 ∨ s.work.coxState c.val = 3) →
    ((Sp.find (s.work.cox c.val).runs n).getD { state := 0 }).state < 2 → sl.offset + sl.len ≤ s.work.coxOffset c.val →
    let r := (Sp.find (s.work.cox c.val).runs n).getD { state := 0 }
    Gives (.slotOverrun c n) s
      { (s.work.setCox c.val { s.work.cox c.val with
            runs := Sp.put (s.work.cox c.val).runs n { r with state := 2, late := r.state == 0 } }).inc (COX_OVERRUN_CNT c.val) with
          stroke := { s.work.stroke with overrun := s.work.stroke.overrun + 1 } }) ∧
  (∀ (s : State) (c : Fin 1024) (n : Nat) (p : Prog) (sl : Slot), s.board.alive = true → (s.work.cox c.val).prog = some p →
    p.slots[n]? = some sl → sl.action = 5 → (s.work.cox c.val).running n = true → p.condsOf n = [] →
    let v := (s.work.setCox c.val { s.work.cox c.val with runs := Sp.put (s.work.cox c.val).runs n { state := 3 } }).progress c.val
    Gives (.slotComplete c n) s
      (if v.coxState c.val = 3 ∧ (v.cox c.val).allDone = true then v.setFld (COX_STATUS c.val) 0 3 4 else v)))

/-- R255 to R257, R264: with a stroke due, LANE_PREP prepares the step's next stroke, FEED_EN set or not; with FEED_EN set it takes a
record that passes its checks, or waits for one.

R260 to R263: the buffer of a lane with no tokens in this stroke is written with an empty header and padding, within the
buffer alone; EMPTY_HEAT_CNT advances.

R49, R50, R54, R56: READY falls due at the first beat edge at which nothing holds it; the device notes that beat, and says READY to the manager for each of its crews; the manager notes a
member's READY, and decides the finish with the last. -/
def Obligations.LanesArePreparedAndReadyIsSent : Prop :=
  (
  (∀ s : State, s.board.alive = true → s.work.prepDue = true → s.work.step.refused = false →
    s.work.stroke.prepared = false →
    (s.work.step.inStep = true → s.work.step.stroke + 1 < s.work.step.strokes →
      Gives .lanePrep s
        ({ s.work with step := { s.work.step with stroke := s.work.step.stroke + 1 } }.putLanes)) ∧
    (s.work.flag STEP_CTL 0 = true → s.work.step.inStep = false → s.work.feedReady = false →
      Gives .lanePrep s ({ s.work with step := { s.work.step with starving := true } }.setBit STEP_STATUS 17)) ∧
    (s.work.flag STEP_CTL 0 = true → s.work.step.inStep = false → s.work.feedReady = true →
      let a := s.work.base FEED_BASE_LO FEED_BASE_HI + 64 * s.work.fld FEED_HEAD 0 16
      let r := s.work.bytes a 64
      inStacks a 64 = true → s.work.unfolded = [] → s.work.stepCheck r = 0 →
      Leads .lanePrep s (fun w => w.stroke.prepared = true ∧ w.step.prev = some (leAt r 0 4) ∧ w.step.step = leAt r 0 4 ∧
        w.step.strokes = leAt r 4 1 ∧ w.step.stroke = 0 ∧ w.step.inStep = true ∧
        w.fld FEED_HEAD 0 16 = (s.work.fld FEED_HEAD 0 16 + 1) % s.work.feedSize % 2 ^ 16 ∧ w.coxes = s.work.coxes)))) ∧
  (
  ∀ (w : Work) (q : Nat), w.heatOf q = [] → inStacks (w.laneBuf q) (8256 + 8 * w.laneCap) = true → w.step.stroke < 256 →
    (w.putLane q).num (w.laneBuf q) 4 = 0 ∧
    (w.putLane q).num (w.laneBuf q + 4) 2 = 0 ∧
    (w.putLane q).num (w.laneBuf q + 6) 1 = w.step.stroke ∧
    (w.putLane q).num (w.laneBuf q + 7) 1 =
      (if w.step.stroke = 0 then 1 else 0) + (if w.step.stroke + 1 = w.step.strokes then 2 else 0) + 4 ∧
    (∀ i < w.laneCap, (w.putLane q).num (w.laneBuf q + 8256 + 4 * i) 4 = 0xFFFFFFFF) ∧
    (∀ a, a < w.laneBuf q ∨ w.laneBuf q + 8256 + 8 * w.laneCap ≤ a → (w.putLane q).byte a = w.byte a) ∧
    (w.putLane q).rd EMPTY_HEAT_CNT = min (w.rd EMPTY_HEAT_CNT + 1) 0xFFFFFFFF) ∧
  (
  (∀ w : Work, w.readyDue = true → w.stroke.readyFrom = none → w.readyEdge.stroke.readyFrom = some w.beatFull) ∧
  (∀ (s : State) (a : Nat), s.board.alive = true → s.work.readyDue = true → s.work.stroke.readyFrom = some a →
    let v : Work := { s.work with stroke := { s.work.stroke with readyAt := some a } }
    (s.work.noManager = true → Gives .readySend s v) ∧
    (∀ p, s.work.noManager = false → s.work.waitingProgs = [p] → Gives .readySend s (v.sendReady p.crew))) ∧
  (∀ (s : State) (k : Fin 40) (p : Packet), s.Receives k p 5 → p.payload.length = 32 → s.work.acting = true →
    let n := beAt p.payload 0 2
    n < 1024 → (s.work.crewNodes n).contains p.src = true → beAt p.payload 2 1 = 0 →
    (s.work.mcrew n).roll = none → (s.work.mcrew n).restore = none → (s.work.mcrew n).lost = false →
    (s.work.mcrew n).on = true → (s.work.mcrew n).catchAt = beAt p.payload 4 8 →
    (∃ m ∈ s.work.crewNodes n, m ∉ p.src :: (s.work.mcrew n).ready) →
    Gives (.readyReceive k p) s (s.work.settled
      (s.work.setMcrew n { s.work.mcrew n with
        ready := (p.src :: (s.work.mcrew n).ready).dedup
        stretch := max (s.work.mcrew n).stretch (beAt p.payload 20 2) }) p)) ∧
  (∀ (s : State) (n : Fin 1024), s.board.alive = true → s.work.acting = true →
    ((s.work.mcrew n.val).on = true ∨ (s.work.mcrew n.val).began = false) → (s.work.mcrew n.val).fin = none → (∃ m ∈ s.work.crewNodes n.val, m ∉ (s.work.mcrew n.val).ready) →
    beatBefore s.work.beatFull
      (beatAdd ((s.work.mcrew n.val).nominal n.val) (Config.crewLimit n.val (s.work.mcrew n.val).variant)) = false →
    s.work.locked = true → s.work.fault.beacons = [] →
    Gives (.stragglerTimeout n) s
      ((s.work.decideAbort n.val 1).logRec { code := 1, crew := n.val, flags := 2, unit := 1220 })))

/-! ### Forward products -/

/-- R84, R86, R88, R91, R99, R101: the forward engine issues a tile's next vector: the product starts when its chain, its row array
and the cap allow, occupies the array for its passes, 256 ns at the least, waits for conversion with what it was issued with, and is
counted; memory is untouched.

R76, R77, R81, R82, R86, R95: the end of a conversion leaves the row array's queue; the corrected partials of a chain of one entry,
exact zeros of a zero-skipped product, become the BF16 block of its vector, and an end-of-range code is counted. A code lies within
the noise bound of its ideal value, or at the end of the range, wherever some code meets the bound; a product with valid coefficients
and no code at an end is converted from such codes. -/
def Obligations.ForwardProductsRunToTheirOutputs : Prop :=
  (
  ∀ (s : State) (c : Fin 1024) (t : Fin 16) (r : FwdRun) (i : Nat) (e : FwdEntry) (inp xb : List Byte) (x at_ : Nat),
    s.board.alive = true →
    (s.work.fwdOf c.val).findSome? (fun q => (q.2.pick t.val).map (fun i => (q.2, i))) = some (r, i) →
    r.entries[i]? = some e →
    (if r.next i = 0 then some 0 else r.chainEnd i (r.next i - 1)) = some x →
    let ph := s.work.phys c.val t.val e.deck
    let ready := if r.begun t.val then s.work.driveTime c.val t.val ph
                 else max s.work.now (max (s.work.tile c.val t.val).freeFrom (r.launch + 64))
    s.work.capTime c.val t.val (max x ready) = some at_ → s.work.held c.val t.val = false →
    s.work.localGet c.val (r.inBase + 1024 * (r.next i * r.rowSegs + e.rowSeg)) 1024 = some (inp, false) →
    s.work.localGet c.val (r.inExp + (r.next i * r.rowSegs + e.rowSeg)) 1 = some (xb, false) →
    let n := passesOf inp (s.work.rowBudget c.val t.val)
    Leads (.fwdProductIssue c t) s (fun w =>
      (∃ q, (w.tile c.val t.val).flight = (s.work.tile c.val t.val).flight ++ [q] ∧ q.for_ = .train i (r.next i) ∧ q.ldeck = e.deck ∧
        q.phys = ph ∧ q.start = at_ ∧ q.passes = n ∧ q.sum = (inp.map absIn).sum ∧ q.xexp = sext 8 (leNat xb) ∧
        q.cfg = s.work.live (DECK_CFG c.val t.val e.deck) ∧ q.chk = s.work.live (TILE_CHK c.val t.val) ∧ q.poisoned = false) ∧
      (w.tile c.val t.val).freeFrom = at_ + 256 * max 1 n ∧
      w.rd (ISSUE_CNT c.val t.val) = min (s.work.rd (ISSUE_CNT c.val t.val) + 1) 0xFFFFFFFF ∧
      w.fld (TILE_STATUS c.val t.val) 3 3 = ph ∧ w.flag (TILE_STATUS c.val t.val) 0 = true ∧
      (∃ r', Sp.find w.fwd (fwdKey c.val r.slot) = some r' ∧ r'.next i = r.next i + 1) ∧
      w.now = max s.work.now at_ ∧ w.mem = s.work.mem ∧ w.cells = s.work.cells ∧ w.coxes = s.work.coxes)) ∧
  (
  (∀ (s : State) (c : Fin 1024) (t : Fin 16) (codes : List (List Int)) (csum : List Int) (p : Product) (rest : List Product)
      (i v : Nat) (q : FwdRun) (e : FwdEntry),
    s.board.alive = true → (s.work.tile c.val t.val).flight = p :: rest → p.for_ = .train i v → p.checked = false →
    p.poisoned = false →
    s.work.fwd = [(fwdKey c.val q.slot, q)] → q.slot < 4096 → q.entries = [e] → e.tile = t.val → e.last = true → i = 0 →
    q.biasBase = none → q.outBlks = 1 → e.outBlk = 0 → 2 ≤ q.left → q.outBase + v * 2048 + 2048 ≤ 2 ^ 21 →
    let x := q.pexp + p.xexp + 3 + 2 * (p.range : Int)
    let parts := if p.passes = 0 then List.replicate 1024 0
                 else (List.range 1024).map (fun j => partialF32 (clampInt (p.rawPart (p.heldCodes codes) j) (-32768) 32767) x)
    Leads (.fwdProductDone c t codes csum) s (fun w =>
      (w.tile c.val t.val).flight = rest ∧
      w.bytes (spadBase c.val + (q.outBase + v * 2048)) 2048 = (chainBlock [parts] none).1 ∧
      (∃ q', Sp.find w.fwd (fwdKey c.val q.slot) = some q' ∧ q'.left = q.left - 1) ∧
      (∀ a, a < spadBase c.val + (q.outBase + v * 2048) ∨ spadBase c.val + (q.outBase + v * 2048) + 2048 ≤ a →
        w.byte a = s.work.byte a) ∧
      w.cells = s.work.cells)) ∧
  (∀ (s : State) (c : Fin 1024) (t : Fin 16) (codes : List (List Int)) (csum : List Int) (p : Product) (rest : List Product),
    s.board.alive = true → (s.work.tile c.val t.val).flight = p :: rest → p.for_ = .nobody → p.checked = false →
    p.poisoned = false →
    let sat : Bool := p.passes ≠ 0 ∧ p.saturates (p.heldCodes codes) csum = true
    Leads (.fwdProductDone c t codes csum) s (fun w =>
      (w.tile c.val t.val).flight = rest ∧ w.mem = s.work.mem ∧ w.fwd = s.work.fwd ∧
      w.flag (TILE_STATUS c.val t.val) 7 = (s.work.flag (TILE_STATUS c.val t.val) 7 || sat) ∧
      w.rd (ADC_SAT_CNT c.val t.val) =
        (if sat then min (s.work.rd (ADC_SAT_CNT c.val t.val) + 1) 0xFFFFFFFF else s.work.rd (ADC_SAT_CNT c.val t.val)))) ∧
  (∀ (ideal off gain drift c c0 : Int) (s r : Nat),
    let gd := gain * drift
    let within := fun (k : Int) => (4096 * 2 ^ (33 + 2 * r) * (4 * k - off) - 4096 * ideal * gd).natAbs ≤
      (8192 * 2 ^ (5 + 2 * r) + 15 * s) * gd.natAbs
    0 < gd → within c0 →
    let k := heldCode ideal s r off gain drift c
    k ≤ 127 ∧ -128 ≤ k ∧ (k = -128 ∨ k = 127 ∨ within k)) ∧
  (∀ (p : Product) (codes : List (List Int)) (q j : Nat), p.coefs.valid = true → p.saturates (p.heldCodes codes) [] = false →
    q < p.passes → p.driven.getD q false = true → j < 1024 →
    ((p.heldCodes codes).getD q []).getD j 0 = p.boundCode codes q j))

/-- R89, R102 to R106, R142, R284: a tile asked for the oldest product that the session engine holds for it from a session takes it into its queue
while SESS_EN is set, fewer than 32 wait and no repeated calibration holds it, and leaves it with the engine else; a product starts
where it ends before the next training launch, and is counted; RBUDGET takes a value within its limits. -/
def Obligations.SessionProductsShareTheTiles : Prop :=
  (∀ (s : State) (c : Fin 1024) (t : Fin 16) (n : Fin 1024), s.board.alive = true →
    let v := s.work.tile c.val t.val
    let mine := fun (q : SessProduct) => q.core == c.val && q.tile == t.val && q.session == n.val
    let room : Prop := s.work.flag (TILE_CTL c.val t.val) 0 = true ∧ v.queue.length < 32 ∧
      ¬(s.work.flag REPL_STATUS 4 = true ∧ s.work.flag (CAL_STATUS c.val t.val) 2 = true)
    (∀ q, s.work.sess.offers.find? mine = some q → room →
      Gives (.tileSessionRequest c t n) s ({ s.work with sess := { s.work.sess with offers := s.work.sess.offers.eraseP mine } }.setTile
        c.val t.val { v with queue := v.queue ++ [{ q with waited := s.work.held c.val t.val }] })) ∧
    (¬room → Gives (.tileSessionRequest c t n) s s.work) ∧
    (s.work.sess.offers.find? mine = none → Gives (.tileSessionRequest c t n) s s.work)) ∧
  (∀ (s : State) (c : Fin 1024) (t : Fin 16) (q : SessProduct) (rest : List SessProduct) (at_ k : Nat) (rc : List Byte) (x : Int)
      (bad : Bool), s.board.alive = true →
    (s.work.tile c.val t.val).queue = q :: rest → s.work.sessRecord q = some (k, rc, x, bad) → s.work.held c.val t.val = false →
    s.work.tileServes c.val t.val (s.work.sessionClass q.session) = true → s.work.fault.ftStart = none →
    let ph := s.work.phys c.val t.val k
    let n := if bad then 0 else passesOf rc (s.work.rowBudget c.val t.val)
    s.work.capTime c.val t.val (s.work.sessDriveTime c.val t.val ph) = some at_ → s.work.nextLaunch c.val t.val = none →
    (s.work.tile c.val t.val).unitEnd ≤ at_ →
    Leads (.sessionProductStart c t) s (fun w =>
      (w.tile c.val t.val).queue = rest ∧ (w.tile c.val t.val).freeFrom = at_ + 256 * max 1 n ∧
      (∃ p, (w.tile c.val t.val).flight = (s.work.tile c.val t.val).flight ++ [p] ∧
        p.for_ = .session q.session q.entry q.vec ∧ p.start = at_ ∧ p.passes = n ∧ p.poisoned = bad ∧ p.phys = ph) ∧
      w.rd (SESS_CNT c.val t.val) = min (s.work.rd (SESS_CNT c.val t.val) + 1) 0xFFFFFFFF ∧
      w.rd (ISSUE_CNT c.val t.val) = min (s.work.rd (ISSUE_CNT c.val t.val) + 1) 0xFFFFFFFF ∧
      w.mem = s.work.mem ∧ w.fwd = s.work.fwd ∧ w.coxes = s.work.coxes ∧ w.cells = s.work.cells)) ∧
  (∀ (s : State) (path : Path) (c : Fin 1024) (t : Fin 16) (v : Word), s.board.alive = true →
    s.work.Writable path (RBUDGET c.val t.val) v.toNat →
    let b := v.toNat % 2 ^ 17
    Gives (.rbudgetWrite path c t v) s
      (if b < 32512 then (s.work.wrLater (RBUDGET c.val t.val) 32512).setBit (TILE_STATUS c.val t.val) 10
       else s.work.wrLater (RBUDGET c.val t.val) (min b 130048)))

/-! ### Programming of rows -/

/-- R117, R119, R131, R142: a row write unit of a slot's part starts on its tile: it drives the row to its targets, its checksum
column to the sum R63 gives, and holds the tile for 8,000 of its 10,000 ns.

R59, R120, R133, R138, R145: a row write unit with no failed position leaves its row at the planned levels, and its part with one more
staged row; an undo unit leaves it at the old ones, with one row less to undo, and after an abort the tile stays held while rows of
it are left (R138). A level is held to the range of a position (R59).

R59, R120 to R123, R138, R145: what the end of any unit leaves: positions that failed the second read hold the level measured,
every other position of the row its planned level, each within the range of a position, no other row changes; failures are counted and flagged. -/
def Obligations.RowUnitsStartAndEnd : Prop :=
  (
  ∀ (s : State) (c : Fin 1024) (t : Fin 16) (j : Nat) (p : Part) (r : Nat × Nat × Nat) (e : XferEntry) (at_ : Nat),
    s.board.alive = true → s.work.slotWork c.val t.val = some (j, p) → p.todo.find? (fun r => r.1 == t.val) = some r →
    s.work.unitTime c.val t.val (p.launch + 2000) = some at_ → p.state = 1 → at_ + 10000 ≤ s.work.edgeNs p.writeEnd →
    s.work.stageFree c.val = true → s.work.held c.val t.val = false → s.work.slotSupply c.val t.val = true →
    p.entries[r.2.1]? = some e →
    let q := s.work.rowPlan c.val e r.2.2 p.pexp p.thresh
    q.1.poison = false →
    Leads (.rowWriteUnitStart c t) s (fun w =>
      w.UnitRuns c.val t.val at_ (fun u => u.kind = .row j ∧ u.ldeck = e.deck ∧ u.row = r.2.2 ∧
        u.phys = s.work.phys c.val t.val e.deck ∧
        u.target = q.1.target ++ [csumLevel (s.work.csdiv c.val t.val e.deck) q.1.target] ++ refLevels) ∧
      w.flag (PGM_STATUS c.val t.val) 0 = true ∧ (w.commit c.val).supplies.any (·.1 == t.val) = true ∧
      (∃ p', Sp.find (w.parts c.val) j = some p' ∧ p'.todo = p.todo.erase r ∧ p'.staged = p.staged) ∧
      w.cells = s.work.cells)) ∧
  (
  (∀ (s : State) (c : Fin 1024) (t : Fin 16) (j : Nat) (u : TileUnit) (p : Part) (cm : Commit),
    s.board.alive = true → (s.work.tile c.val t.val).unit = some u → u.kind = .row j →
    u.found = none ∨ u.found = some ([], []) → s.work.commits = [(c.val, cm)] →
    cm.parts = [(j, p)] → p.state = 1 → p.todo ≠ [] →
    Leads (.rowWriteUnitDone c t [] []) s (fun w =>
      w.cellRow c.val t.val u.phys u.row = u.target.map heldLevel ∧
      w.rd (ROWUNIT_CNT c.val t.val) = min (s.work.rd (ROWUNIT_CNT c.val t.val) + 1) 0xFFFFFFFF ∧
      (w.tile c.val t.val).unit = none ∧ w.held c.val t.val = false ∧ w.now = max s.work.now (u.start + 10000) ∧
      (∃ p', Sp.find (w.parts c.val) j = some p' ∧ p'.state = 1 ∧ p'.todo = p.todo ∧
        p'.staged = p.staged ++ [Staged.mk (s.work.stageNext c.val) t.val u.ldeck u.phys u.row]))) ∧
  (∀ (s : State) (c : Fin 1024) (t : Fin 16) (j : Nat) (u : TileUnit) (p : Part) (cm : Commit) (r r2 : Staged) (rs : List Staged),
    s.board.alive = true → (s.work.tile c.val t.val).unit = some u → u.kind = .undo j →
    u.found = none ∨ u.found = some ([], []) → s.work.commits = [(c.val, cm)] →
    cm.parts = [(j, p)] → p.state = 3 → p.undo = r :: r2 :: rs → r.tile = t.val →
    Leads (.undoUnitDone c t [] []) s (fun w =>
      w.cellRow c.val t.val u.phys u.row = u.target.map heldLevel ∧ (w.tile c.val t.val).unit = none ∧
      w.held c.val t.val = (p.foldDue && (r2 :: rs).any (fun x => x.tile == t.val)) ∧
      (∃ p', Sp.find (w.parts c.val) j = some p' ∧ p'.state = 3 ∧ p'.undo = r2 :: rs ∧ p'.staged = p.staged)))) ∧
  (
  ∀ (w : Work) (c : Fin 1024) (t : Fin 16) (u : TileUnit) (f1 f2 : List (Nat × Int)),
    let v := w.unitEnds c.val t.val u f1 f2
    let f := u.failures f2
    (∀ j < u.target.length, (v.cellRow c.val t.val u.phys u.row).getD j 0 =
      heldLevel (match f.find? (fun g => g.1 == j) with | some g => g.2 | none => u.target.getD j 0)) ∧
    (∀ k, k ≠ cellKey c.val t.val u.phys u.row → Sp.find v.cells k = Sp.find w.cells k) ∧
    v.rd (VFY_FAIL_CNT c.val t.val) = min (w.rd (VFY_FAIL_CNT c.val t.val) + f.length) 0xFFFFFFFF ∧
    v.flag (PGM_STATUS c.val t.val) 6 = (w.flag (PGM_STATUS c.val t.val) 6 || !f.isEmpty) ∧
    (v.tile c.val t.val).unit = none ∧ v.held c.val t.val = w.undoHeld c.val t.val)

/-- R135, R136, R139, R140: a group whose WRITE_END has passed rolls back: its rows are to be undone, the last staged first, and the
undo units run from the new levels back to the old; a committed part's fold ends with its band's step and a free journal entry. -/
def Obligations.GroupsRollBackAndCommit : Prop :=
  (∀ (s : State) (c : Fin 1024) (j : Nat) (p : Part) (cm : Commit), s.board.alive = true → s.work.commits = [(c.val, cm)] →
    cm.parts = [(j, p)] → p.state = 1 → beatBefore s.work.beatFull p.writeEnd = false → p.staged ≠ [] →
    Leads (.writeEndExpire p.group) s (fun w =>
      (∃ p', Sp.find (w.parts c.val) j = some p' ∧ p'.state = 3 ∧ p'.todo = [] ∧ p'.undo = p.staged.reverse ∧
        p'.decided = s.work.beatFull ∧ p'.foldDue = false) ∧ w.cells = s.work.cells ∧ w.tiles = s.work.tiles)) ∧
  (∀ (s : State) (c : Fin 1024) (t : Fin 16) (j : Nat) (p : Part) (r : Staged) (at_ : Nat), s.board.alive = true →
    s.work.slotWork c.val t.val = some (j, p) → p.undo.find? (fun r => r.tile == t.val) = some r →
    s.work.unitTime c.val t.val 0 = some at_ → p.state = 3 → s.work.undoTime p = true → s.work.slotSupply c.val t.val = true →
    Leads (.undoUnitStart c t) s (fun w =>
      w.UnitRuns c.val t.val at_ (fun u => u.kind = .undo j ∧ u.ldeck = r.ldeck ∧ u.phys = r.phys ∧ u.row = r.row ∧
        u.target = (s.work.staged c.val r.idx).1 ++
          [csumLevel (s.work.csdiv c.val t.val r.ldeck) (s.work.staged c.val r.idx).1] ++ refLevels) ∧
      w.mem = s.work.mem ∧ w.cells = s.work.cells)) ∧
  (∀ (s : State) (c : Fin 1024) (j : Nat) (p : Part) (cm : Commit), s.board.alive = true → s.work.commits = [(c.val, cm)] →
    cm.parts = [(j, p)] → p.state = 5 → p.foldDue = true → p.layerRec + 8 + 4 * p.band + 4 ≤ 2 ^ 40 →
    Leads (.foldComplete c) s (fun w =>
      w.parts c.val = [] ∧ w.num (p.layerRec + 8 + 4 * p.band) 4 = p.step % 2 ^ 32 ∧
      w.rd (CMT_COMMIT_CNT c.val) = min (s.work.rd (CMT_COMMIT_CNT c.val) + 1) 0xFFFFFFFF ∧
      w.fld (CMT_STATUS c.val) 0 7 = 0 ∧ (∀ u ∈ w.unfolded, u.1 ≠ c.val) ∧ w.cells = s.work.cells))

/-- R124, R125, R126: in free recovery time a stale row is driven anew to its recorded levels, and leaves the list with no failure.

R127, R146 to R148: a deck past a wear limit, or with too many verify failures, begins its retirement to the lowest spare, or is
flagged where there is none; a survey, which runs 1 µs for each of the deck's 1,024 rows, sets the cells' record and the level map of
the deck it serves; the copy takes row after row.

R142, R154, R418, R516: a restore transfer's unit drives a row to its recorded targets, a clearing unit to level 0, and a unit lets
its tile go at its service gap, its row at the levels it has reached (R105, R120). -/
def Obligations.StaleRowsDecksAndClearing : Prop :=
  (
  (∀ (s : State) (c : Fin 1024) (t : Fin 16) (k row d at_ : Nat), s.board.alive = true →
    (s.work.tile c.val t.val).nextStale = some (k, row) → s.work.freeRecovery c.val t.val = some d →
    s.work.unitTime c.val t.val 0 = some at_ → at_ + 10000 ≤ d → s.work.sec.clearing = none →
    (s.work.tile c.val t.val).restoreRows = [] → s.work.outsideSupply c.val t.val = true →
    Leads (.refreshUnitStart c t) s (fun w =>
      w.UnitRuns c.val t.val at_ (fun u => u.kind = .refresh ∧ u.ldeck = k ∧ u.row = row ∧
        u.target = s.work.recorded c.val t.val k row ++
          [csumLevel (s.work.csdiv c.val t.val k) (s.work.recorded c.val t.val k row)] ++ refLevels) ∧
      (w.tile c.val t.val).stale = (s.work.tile c.val t.val).stale ∧ w.mem = s.work.mem ∧ w.cells = s.work.cells)) ∧
  (∀ (s : State) (c : Fin 1024) (t : Fin 16) (u : TileUnit) (rest : List (Nat × Nat)), s.board.alive = true →
    (s.work.tile c.val t.val).unit = some u → u.kind = .refresh →
    u.found = none ∨ u.found = some ([], []) → (s.work.tile c.val t.val).stale = (u.ldeck, u.row) :: rest →
    Leads (.refreshUnitDone c t [] []) s (fun w =>
      (w.tile c.val t.val).stale = rest ∧ (w.tile c.val t.val).unit = none ∧
      w.cellRow c.val t.val u.phys u.row = u.target.map heldLevel ∧ w.fld (PGM_STATUS c.val t.val) 16 5 = rest.length % 32 ∧
      (w.commit c.val).supplies.all (·.1 != t.val) = true))) ∧
  (
  (∀ (s : State) (c : Fin 1024) (t : Fin 16) (k p : Nat), s.board.alive = true →
    (List.range 8).find? (fun k => s.work.deckUsed k && s.work.deckDue c.val t.val (s.work.phys c.val t.val k)) = some k →
    s.work.fld (RETIRE_STATUS c.val t.val) 8 2 = 0 → (s.work.tile c.val t.val).dropTarget = false →
    (List.range 8).find? (fun p => s.work.deckState c.val t.val p == 1) = some p →
    Leads (.deckRetireDue c t) s (fun w =>
      let v := s.work.tile c.val t.val
      w.tile c.val t.val = { v with clean := [], copyFailed := [], surveyed := false, surveys := v.surveys.filter (· != p) ++ [p],
                                    surveyFrom := if v.surveys.isEmpty then s.work.now else v.surveyFrom } ∧
      w.rd (RETIRE_STATUS c.val t.val) = s.work.phys c.val t.val k + 16 * p + 256 ∧ w.flag (PGM_STATUS c.val t.val) 1 = true ∧
      RegsKept s.work w [RETIRE_STATUS c.val t.val, PGM_STATUS c.val t.val] ∧ w.mem = s.work.mem ∧ w.cells = s.work.cells)) ∧
  (∀ (s : State) (c : Fin 1024) (t : Fin 16) (d : Fin 8) (ls : List (List Int)), s.board.alive = true → ls.length ≤ 1024 →
    (s.work.tile c.val t.val).surveys.head? = some d.val →
    Leads (.levelSurveyDone c t d ls) s (fun w =>
      (∀ r < ls.length, w.cellRow c.val t.val d.val r = (ls.getD r []).map heldLevel) ∧
      (w.tile c.val t.val).surveys = (s.work.tile c.val t.val).surveys.tail ∧
      w.flag (PGM_STATUS c.val t.val) 1 = !((s.work.tile c.val t.val).surveys.tail).isEmpty ∧
      w.now = max s.work.now ((s.work.tile c.val t.val).surveyFrom + 1024000) ∧
      (∀ m, (s.work.logical c.val t.val d.val).bind (fun k => Sp.find (s.work.tile c.val t.val).maps k) = some m → ∀ l, ls = [l] →
        1024 ≤ l.length → inStacks m.level 1024 = true → w.bytes m.level 1024 = (l.take 1024).map levelByte) ∧
      (s.work.fld (RETIRE_STATUS c.val t.val) 8 2 = 1 → s.work.fld (RETIRE_STATUS c.val t.val) 4 3 = d.val →
        (w.tile c.val t.val).surveyed = true))) ∧
  (∀ (s : State) (c : Fin 1024) (t : Fin 16) (d : Fin 8) (ls : List (List Int)), s.board.alive = true →
    (s.work.tile c.val t.val).surveys.head? ≠ some d.val → Gives (.levelSurveyDone c t d ls) s s.work) ∧
  (∀ (s : State) (c : Fin 1024) (t : Fin 16) (k row d at_ : Nat), s.board.alive = true →
    s.work.retiring c.val t.val = some k →
    (List.range 1024).find? (fun r => !(s.work.tile c.val t.val).clean.contains r) = some row →
    s.work.freeRecovery c.val t.val = some d → s.work.unitTime c.val t.val 0 = some at_ → s.work.copying c.val t.val = true →
    (s.work.tile c.val t.val).nextStale = none → at_ + 10000 ≤ d → s.work.stageFree c.val = true → s.work.sec.clearing = none →
    (s.work.tile c.val t.val).restoreRows = [] → s.work.outsideSupply c.val t.val = true →
    Leads (.copyUnitStart c t) s (fun w =>
      w.UnitRuns c.val t.val at_ (fun u => u.kind = .copy ∧ u.ldeck = k ∧ u.row = row ∧
        u.phys = s.work.fld (RETIRE_STATUS c.val t.val) 4 3 ∧
        u.target = s.work.recorded c.val t.val k row ++
          [csumLevel (s.work.csdiv c.val t.val k) (s.work.recorded c.val t.val k row)] ++ refLevels) ∧
      w.mem = s.work.mem ∧ w.cells = s.work.cells)) ∧
  (∀ (s : State) (c : Fin 1024) (t : Fin 16) (u : TileUnit), s.board.alive = true →
    (s.work.tile c.val t.val).unit = some u → u.kind = .copy →
    u.found = none ∨ u.found = some ([], []) → u.phys < 8 → s.work.fld (RETIRE_STATUS c.val t.val) 8 2 = 1 →
    s.work.fld (RETIRE_STATUS c.val t.val) 4 3 = u.phys →
    s.work.rd (DECK_VFAIL c.val t.val u.phys) ≤ s.work.vfyLimit c.val t.val →
    (insNat u.row (s.work.tile c.val t.val).clean).length < 1024 →
    Leads (.copyUnitDone c t [] []) s (fun w =>
      (w.tile c.val t.val).clean = insNat u.row (s.work.tile c.val t.val).clean ∧
      w.fld (RETIRE_STATUS c.val t.val) 16 11 = (insNat u.row (s.work.tile c.val t.val).clean).length ∧
      w.cellRow c.val t.val u.phys u.row = u.target.map heldLevel ∧ (w.tile c.val t.val).unit = none))) ∧
  (
  (∀ (s : State) (c : Fin 1024) (t : Fin 16) (k row at_ : Nat) (rest : List (Nat × Nat)) (m : DeckMap),
    s.board.alive = true → s.work.unitTime c.val t.val 0 = some at_ →
    (s.work.tile c.val t.val).restoreRows = (k, row) :: rest → s.work.sec.clearing = none → s.work.held c.val t.val = false →
    s.work.outsideSupply c.val t.val = true → s.work.mgr.restoreTaken = true →
    Sp.find (s.work.tile c.val t.val).maps k = some m →
    let q := s.work.rowPlan c.val (m.entry t.val k) row m.pexp 16
    q.1.poison = false → q.1.old ≠ q.1.target →
    Leads (.restoreTransferStart c t) s (fun w =>
      w.UnitRuns c.val t.val at_ (fun u => u.kind = .restore ∧ u.ldeck = k ∧ u.row = row ∧
        u.target = q.1.target ++ [csumLevel (s.work.csdiv c.val t.val k) q.1.target] ++ refLevels) ∧
      (w.tile c.val t.val).restoreRows = rest ∧ w.cells = s.work.cells)) ∧
  (∀ (s : State) (c : Fin 1024) (t : Fin 16) (at_ : Nat), s.board.alive = true → s.work.unitTime c.val t.val 0 = some at_ →
    s.work.sec.clearing.isSome = true → (s.work.tile c.val t.val).cleared < s.work.clearRows → s.work.held c.val t.val = false →
    s.work.outsideSupply c.val t.val = true →
    let n := (s.work.tile c.val t.val).cleared
    Leads (.deckClearUnitStart c t) s (fun w =>
      w.UnitRuns c.val t.val at_ (fun u => u.kind = .clear ∧ u.ldeck = n / 1024 ∧ u.row = n % 1024 ∧
        u.target.take 1025 = List.replicate 1025 0) ∧
      w.mem = s.work.mem ∧ w.cells = s.work.cells)) ∧
  (∀ (s : State) (c : Fin 1024) (t : Fin 16) (u : TileUnit) (a b : List (Nat × Int)), s.board.alive = true →
    (s.work.tile c.val t.val).unit = some u → u.kind ≠ .colOff ∧ u.kind ≠ .colGain ∧ u.kind ≠ .drift →
    let f := u.result a b
    Leads (.serviceGap ⟨c, t⟩ (.verify a b)) s (fun w =>
      w.cellRow c.val t.val u.phys u.row = (measured f.2 u.target).map heldLevel ∧
      (∀ k, k ≠ cellKey c.val t.val u.phys u.row → Sp.find w.cells k = Sp.find s.work.cells k) ∧
      w.held c.val t.val = false ∧ w.flag (PGM_STATUS c.val t.val) 0 = false ∧
      (w.tile c.val t.val).unit = some { u with found := some f } ∧ w.now = max s.work.now (u.start + 8000) ∧ w.mem = s.work.mem)))

/-! ### Calibration -/

/-- R154, R166: the next unit of a tile's calibration run starts where it fits the run, holds the tile and is counted; a COL_OFF unit
is followed by COL_GAIN, a DRIFT unit that is no retry has had its turn.

R155, R158, R161, R169, R170: a plausible drift result is applied and its deck is no longer due; an implausible one outside a run
is held over for one retry; a plausible COL_OFF result waits for its COL_GAIN. A result known at the service gap is applied there, the
hold over and the unit still running, and the unit's end adds none (log 123: when the operand is given is the model's choice).

R159 to R163: a temperature read that is due is noted and makes column calibration due once it has moved by the threshold; a deck whose
drift gain is as old as DRIFT_DUE is due, as old as 65,536 beats aged. -/
def Obligations.CalibrationFallsDueRunsAndIsJudged : Prop :=
  (
  ∀ (s : State) (c : Fin 1024) (t : Fin 16) (kind : UnitKind) (p : Nat) (retry : Bool) (need at_ : Nat), s.board.alive = true →
    (s.work.tile c.val t.val).cal.active = true → (s.work.tile c.val t.val).cal.needTemp = false → s.work.calNext c.val t.val = some (kind, p, retry, need) →
    s.work.calFits c.val t.val need = true → s.work.unitTime c.val t.val 0 = some at_ → s.work.held c.val t.val = false →
    Leads (.calUnitStart c t) s (fun w =>
      w.UnitRuns c.val t.val at_ (fun u => u.kind = kind ∧ u.phys = p ∧ u.retry = retry ∧ u.beat = s.work.beatCnt) ∧
      w.flag (CAL_STATUS c.val t.val) 0 = true ∧
      w.rd (CAL_RUN_CNT c.val t.val) = min (s.work.rd (CAL_RUN_CNT c.val t.val) + 1) 0xFFFFFFFF ∧
      (kind = .drift → retry = false → p ∈ (w.tile c.val t.val).cal.driftDone) ∧
      (kind = .colOff → retry = false → (w.tile c.val t.val).cal.todo = [(.colGain, 0, false)] ∧
        (w.tile c.val t.val).pend.temp = s.work.rd (TILE_TEMP c.val t.val)) ∧
      w.mem = s.work.mem ∧ w.cells = s.work.cells)) ∧
  (
  ∀ (s : State) (c : Fin 1024) (t : Fin 16) (u : TileUnit), s.board.alive = true → (s.work.tile c.val t.val).unit = some u →
    (s.work.tile c.val t.val).cal.active = false → u.found = none →
    (∀ (codes : List (List Int)) (d : Nat), u.kind = .drift → u.phys < 8 → driftOf (s.work.refSums c.val t.val codes) = some d →
      s.work.driftPlausible c.val t.val u.phys d (s.work.refSums c.val t.val codes) = true →
      Leads (.calUnitDone c t (.drift codes)) s (fun w =>
        w.rd (DRIFT_GAIN c.val t.val u.phys) = d ∧ w.rd (DRIFT_BEAT c.val t.val u.phys) = u.beat % 2 ^ 32 ∧
        w.flag (CAL_DUE c.val t.val) (8 + u.phys) = false ∧ w.flag (CAL_DUE c.val t.val) (16 + u.phys) = false ∧
        u.phys ∈ (w.tile c.val t.val).driftMeasured ∧ (w.tile c.val t.val).unit = none ∧ w.held c.val t.val = s.work.undoHeld c.val t.val ∧
        w.mem = s.work.mem) ∧
      Leads (.serviceGap ⟨c, t⟩ (.sums (.drift codes))) s (fun w =>
        w.rd (DRIFT_GAIN c.val t.val u.phys) = d ∧ w.held c.val t.val = false ∧
        (w.tile c.val t.val).unit = some { u with found := some ([], []) } ∧ w.now = max s.work.now (u.start + 8000))) ∧
    (∀ codes : List (List Int), u.kind = .drift → u.retry = false → driftOf (s.work.refSums c.val t.val codes) = none →
      Leads (.calUnitDone c t (.drift codes)) s (fun w =>
        (w.tile c.val t.val).heldRetry = (s.work.tile c.val t.val).heldRetry ++ [(.drift, u.phys)] ∧
        w.flag (CAL_STATUS c.val t.val) 4 = true ∧ (w.tile c.val t.val).unit = none ∧
        w.rd (DRIFT_GAIN c.val t.val 0) = s.work.rd (DRIFT_GAIN c.val t.val 0))) ∧
    (∀ (cz : List Int) (side : Int), u.kind = .colOff →
      (∀ j < 1024, (colOffOf (cz.getD j 0)).natAbs ≤ s.work.live (CAL_LIM_OFF c.val t.val) % 512) →
      (colOffOf side).natAbs ≤ s.work.live (CAL_LIM_OFF c.val t.val) % 512 → (s.work.tile c.val t.val).pend.gain = none →
      Leads (.calUnitDone c t (.off cz side)) s (fun w =>
        (w.tile c.val t.val).pend.off = some ((List.range 1024).map (fun j => colOffOf (cz.getD j 0)), colOffOf side) ∧
        (w.tile c.val t.val).off = (s.work.tile c.val t.val).off ∧ (w.tile c.val t.val).unit = none))) ∧
  (
  (∀ (s : State) (c : Fin 1024) (t : Fin 16) (x : Int), s.board.alive = true →
    let u := s.work.tile c.val t.val
    let v := (s.work.setTile c.val t.val { u with tempAt := some s.work.beatFull, cal := { u.cal with needTemp := false } }).wr
      (TILE_TEMP c.val t.val) (toTwos 12 x)
    Gives (.tempSample c t x) s (if !s.work.tempDue c.val t.val then s.work
      else if v.tempMoved c.val t.val then v.setBit (CAL_DUE c.val t.val) 0 else v)) ∧
  (∀ (s : State) (c : Fin 1024) (t : Fin 16) (d : Fin 8), s.board.alive = true → s.work.driftable c.val t.val d.val = true →
    (max 1024 (bits (s.work.live (CAL_CTL c.val t.val)) 16 16) ≤ s.work.driftAge c.val t.val d.val →
      Gives (.driftDueExpire c t d) s (s.work.setBit (CAL_DUE c.val t.val) (8 + d.val))) ∧
    (65536 ≤ s.work.driftAge c.val t.val d.val →
      Gives (.driftAged c t d) s (s.work.setBit (CAL_DUE c.val t.val) (16 + d.val)))))

/-! ### Housekeeping converter -/

/-- R176, R178: a permitted write of HK_CTL starts a conversion, a scan or a self-calibration of an idle converter; a START while it
is busy is refused and flagged, a self-calibration asked for then waits (log 124, the model's reading); the scan goes on with its
pace.

R175, R177, R178: a conversion's corrected result goes to HK_DATA, one that replaces an unread result is counted; a read returns
it and clears VALID; plausible self-calibration factors are stored, an implausible run is made once more, then the factory
factors stay.

R179, R486, R487: an urgent request takes the converter at once, aborting and counting ordinary work, or waits behind another; its
result is latched; a hot-spot reading of 115 °C or more trips the device, a lower one counts as unconfirmed. -/
def Obligations.TheHousekeepingConverterWorks : Prop :=
  (
  (∀ (s : State) (path : Path) (x : Word), s.board.alive = true → s.work.Writable path HK_CTL x.toNat →
    let v := s.work.wrPlain path HK_CTL x.toNat
    (x.toNat.testBit 4 = true → x.toNat.testBit 6 = false → v.hkState = 1 →
      Gives (.hkStart path x) s
        ({ v with hk := { v.hk with chan := v.fld HK_CTL 0 4, die := v.hsSel, start := v.now } }.setFld HK_STATUS 0 2 2)) ∧
    (x.toNat.testBit 4 = true → x.toNat.testBit 6 = false → v.hkState ≠ 1 → Gives (.hkStart path x) s (v.setBit HK_STATUS 5)) ∧
    (x.toNat.testBit 6 = true → x.toNat.testBit 4 = false → v.hkState = 1 →
      Gives (.hkSelfcal path x) s ({ v with hk := { v.hk with start := v.now, retried := false } }.setFld HK_STATUS 0 2 0)) ∧
    (x.toNat.testBit 6 = true → x.toNat.testBit 4 = false → v.hkState = 2 → v.hk.aborted = none →
      Gives (.hkSelfcal path x) s { v with hk := { v.hk with selfcal := true } }) ∧
    (∀ c, x.toNat.testBit 5 = true → x.toNat.testBit 4 = false → x.toNat.testBit 6 = false → v.hkState = 1 →
      v.flag HK_CTL 5 = true → v.scanNext = some c →
      Gives (.hkScan path x) s
        ({ v.till v.hk.paceFrom with
            hk := { v.hk with next := (c + 1) % 16, chan := c, die := v.hsSel, start := max v.now v.hk.paceFrom } }.setFld
          HK_STATUS 0 2 2))) ∧
  (∀ (s : State) (c : Nat), s.board.alive = true → s.work.hkState = 1 → s.work.flag HK_CTL 5 = true →
    s.work.scanNext = some c →
    Gives .hkScanPace s
      ({ s.work.till s.work.hk.paceFrom with
          hk := { s.work.hk with next := (c + 1) % 16, chan := c, die := s.work.hsSel,
                                 start := max s.work.now s.work.hk.paceFrom } }.setFld HK_STATUS 0 2 2))) ∧
  (
  (∀ (s : State) (raw : Nat), s.board.alive = true → s.work.hkState = 2 → s.work.hk.chan < 16 →
    Leads (.hkConversionDone raw) s (fun w =>
      w.rd HK_DATA = s.work.hkCorrect raw + 2 ^ 12 * s.work.hk.chan + 2 ^ 16 + (if s.work.flag HK_DATA 16 then 2 ^ 17 else 0) ∧
      w.hkState = (if s.work.hk.selfcal then 0 else 1) ∧ w.rd HK_CONV_CNT = min (s.work.rd HK_CONV_CNT + 1) 0xFFFFFFFF ∧
      w.rd HK_OVR_CNT = (if s.work.flag HK_DATA 16 then min (s.work.rd HK_OVR_CNT + 1) 0xFFFFFFFF else s.work.rd HK_OVR_CNT) ∧
      RegsKept s.work w [HK_DATA, HK_STATUS, HK_CONV_CNT, HK_OVR_CNT] ∧ w.mem = s.work.mem)) ∧
  (∀ (s : State) (path : Path), s.board.answers = true → s.work.Readable path HK_DATA →
    Gives (.hkDataRead path) s
      ((s.work.clrBit HK_DATA 16).emit (.word (pathCode (s.work.busPath path)) (BitVec.ofNat 32 (s.work.rd HK_DATA))))) ∧
  (∀ (s : State) (off : Int) (gain : Nat), s.board.alive = true → s.work.hkState = 0 →
    let v := s.work.till (s.work.hk.start + 1800000)
    (hkPlausible off gain = true →
      Gives (.hkSelfcalDone off gain) s
        (((v.when v.hk.retried (·.inc TRANSIENT_CNT)).wr HK_CAL (toTwos 12 off + 2 ^ 16 * gain)).setFld HK_STATUS 0 4 5)) ∧
    (hkPlausible off gain = false → s.work.hk.retried = false →
      Gives (.hkSelfcalDone off gain) s { v with hk := { v.hk with retried := true, start := v.now } }) ∧
    (hkPlausible off gain = false → s.work.hk.retried = true →
      Gives (.hkSelfcalDone off gain) s ((v.wr HK_CAL (Config.hkFactory.toNat &&& 0xFFFF0FFF)).setFld HK_STATUS 0 4 13)))) ∧
  (
  (∀ (s : State) (u : HkUrgent) (die : Fin 20), s.board.alive = true →
    let x : Nat × Nat := match u with | .hotSpot => (13, die.val) | .lid => (14, 0) | .vcore => (9, 0)
    (s.work.hk.cur = none → s.work.hkState = 1 →
      Gives (.hkUrgentRequest u die) s
        ({ s.work with hk := { s.work.hk with cur := some x, aborted := none, steps := 0, start := s.work.now } }.setFld HK_STATUS 0 2 3)) ∧
    (s.work.hk.cur = none → s.work.hkState ≠ 1 →
      Gives (.hkUrgentRequest u die) s
        (({ s.work with hk := { s.work.hk with
            cur := some x, aborted := some s.work.hkState, start := s.work.now,
            steps := if s.work.hkState = 0 then (s.work.now - s.work.hk.start) / 1000 * 1000 else 0 } }.inc
          HK_ABORT_CNT).setFld HK_STATUS 0 2 3)) ∧
    (s.work.hk.cur.isSome = true →
      Gives (.hkUrgentRequest u die) s { s.work with hk := { s.work.hk with urgent := s.work.hk.urgent ++ [x] } })) ∧
  (∀ (s : State) (raw chan die : Nat), s.board.alive = true → s.work.hk.cur = some (chan, die) → chan < 16 → die < 20 →
    (chan = 13 → 2864 ≤ s.work.hkCorrect raw →
      ∃ w, GivesBoth (.hkUrgentDone raw) s { s.board with thermtrip := true } w ∧ w.cells = s.work.cells ∧ w.mem = [] ∧
        w.regs = []) ∧
    (¬ (chan = 13 ∧ 2864 ≤ s.work.hkCorrect raw) → s.work.hk.urgent = [] →
      Leads (.hkUrgentDone raw) s (fun w =>
        w.rd HK_URGENT = s.work.hkCorrect raw + 2 ^ 12 * chan + 2 ^ 16 * die ∧
        w.hkState = (if (s.work.hk.aborted.getD 1) % 4 = 1 ∧ s.work.hk.selfcal = true then 0 else (s.work.hk.aborted.getD 1) % 4) ∧ w.hk.cur = none ∧
        (chan = 13 → w.rd TRIP_UNCONF_CNT = min (s.work.rd TRIP_UNCONF_CNT + 1) 0xFFFFFFFF ∧ w.flag THERM_STATUS 20 = true)))))

/-! ### Multiply-accumulate arrays -/

/-- R182, R183, R193, R199, R434, R435: an MMA writes its tile with its k-blocks' products added in ascending order, and leaves
memory; it occupies its cells for its cycles at the rate its domain's cap leaves, and its result lands 12 cycles later; a partner
parity error in a summing MMA faults its context; the landing starts a check pass on the share of MMAs that FAULT_CTL gives; a check
pass compares once, and again as long where it disagrees, and two disagreements poison the tile.

R188, R194: a tile written is read back element for element, whatever its shape and split, and every tile of another index,
array or core keeps its elements.

R184, R186: a product of zero and a finite factor changes nothing and counts as gated; a NaN in the sum, or a product of an
infinity and zero, gives the one NaN of the device. -/
def Obligations.MultiplyAccumulateRunsOnItsTile : Prop :=
  (
  (∀ (s : State) (c : Fin 1024) (x : Fin 17) (b da db : List Byte) (r : MmaRun), s.board.alive = true →
    s.work.Fetches c.val x.val 1 b → (s.work.ctx c.val x.val).checking = none →
    let k := s.work.ctx c.val x.val
    let sh := leAt b 1 1 % 4
    let init := (leAt b 1 1).testBit 2
    let idx := leAt b 4 1
    let mn := shapeMN sh k.split
    sh < 3 → (sh = 2 → k.split = false) → 1 ≤ leAt b 6 2 → leAt b 6 2 ≤ 4096 → leAt b 8 4 % 32 = 0 → leAt b 12 4 % 32 = 0 →
    s.work.localGet c.val (k.opdBase + 32 * leAt b 2 1) 32 = some (da, false) →
    s.work.localGet c.val (k.opdBase + 32 * leAt b 3 1) 32 = some (db, false) →
    opdOk da mn.1 = true → opdOk db mn.2 = true →
    s.work.mmaRun c.val (opdOf da) (opdOf db) (leAt b 8 4) (leAt b 12 4) mn.1 mn.2 (leAt b 6 2)
      (if init then List.replicate (tileSize sh k.split) 0 else s.work.tileGet c.val x.val k.split sh idx) = some r →
    r.poison = false →
    let n := mmaCycles r.cycles k.split (opdOf da) (opdOf db) (leAt b 8 4) (leAt b 12 4) mn.1 mn.2 (leAt b 6 2)
    let starts := max s.work.now k.freeFrom
    let ends := starts + s.work.macNs c.val n
    Leads (.mma c x false) s (fun w =>
      w.acc = (s.work.tilePut c.val x.val k.split sh idx r.tile).acc ∧ s.work.Retired w c.val x.val ∧
      (w.ctx c.val x.val).freeFrom = ends ∧ w.now = starts ∧
      (w.ctx c.val x.val).inFlight =
        [{ idx := idx, cycles := n, nonfin := r.nonfin, lands := ends + s.work.macNs c.val 12,
           due := decide (s.work.chkShare ≠ 0) && decide ((k.mmas + 1) % (s.work.chkShare - 1) = 0) }] ∧
      (init = false → w.accPoison = s.work.accPoison) ∧ w.mem = s.work.mem ∧ w.poison = s.work.poison ∧
      (∀ y, y ≠ x.val → y < 17 → w.ctx c.val y = s.work.ctx c.val y) ∧
      RegsKept s.work w [MAC_GATED_CNT c.val (x.val / 2), MAC_BUSY_CNT c.val (x.val / 2), ACC_INF_CNT c.val (x.val / 2),
        NAN_CNT c.val (x.val / 2), ESC_READ_CNT c.val (x.val / 2)]) ∧
    (init = false → Gives (.mma c x true) s ((s.work.nameIdx c.val x.val [idx]).ctxFault c.val x.val 1 0))) ∧
  (∀ (s : State) (c : Fin 1024) (x : Fin 17) (f : Flight) (fs : List Flight), s.board.alive = true →
    let k := s.work.ctx c.val x.val
    k.inFlight = f :: fs →
    let v := s.work.till f.lands
    (f.due = false → Gives (.mmaDone c x) s ((v.setCtx c.val x.val { k with inFlight := fs }).noteProduct k.session false)) ∧
    (f.due = true → f.nonfin = false → Gives (.mmaDone c x) s ((v.setCtx c.val x.val { k with
      inFlight := fs, checking := some (f.idx, f.cycles), freeFrom := k.freeFrom + s.work.macNs c.val f.cycles }).noteProduct
        k.session false)) ∧
    (f.due = true → f.nonfin = true → Gives (.mmaDone c x) s (((v.setCtx c.val x.val { k with
      inFlight := fs, freeFrom := k.freeFrom + s.work.macNs c.val f.cycles }).inc CHK_SKIP_CNT).noteProduct k.session false))) ∧
  (∀ (s : State) (c : Fin 1024) (x : Fin 17) (i n : Nat), s.board.alive = true →
    (s.work.ctx c.val x.val).checking = some (i, n) →
    let k := s.work.ctx c.val x.val
    (∀ g, Gives (.checkPassDone c x true g) s
      (((s.work.till k.freeFrom).setCtx c.val x.val { k with checking := none }).inc CHK_CNT)) ∧
    (let ends := k.freeFrom + s.work.macNs c.val n
     Gives (.checkPassDone c x false true) s
      ((((s.work.till ends).setCtx c.val x.val { k with checking := none, freeFrom := ends }).inc CHK_RETRY_CNT).inc TRANSIENT_CNT)) ∧
    Leads (.checkPassDone c x false false) s (fun w =>
      (∀ h ∈ (s.work.ctx c.val x.val).halves x.val, halfKey c.val (x.val / 2) h i ∈ w.accPoison) ∧
      w.rd CHK_FAIL_CNT = min (s.work.rd CHK_FAIL_CNT + 1) 0xFFFFFFFF ∧
      w.rd LASTING_CNT = min (s.work.rd LASTING_CNT + 1) 0xFFFFFFFF ∧ (w.ctx c.val x.val).checking = none ∧ w.acc = s.work.acc))) ∧
  (
  ∀ (w : Work) (c : Fin 1024) (x : Fin 16) (split : Bool) (shape idx : Nat) (vs : List Word),
    shape < 3 → (shape = 2 → split = false) → idx < 64 → vs.length = tileSize shape split →
    (w.tilePut c.val x.val split shape idx vs).tileGet c.val x.val split shape idx = vs ∧
    (∀ (c' : Fin 1024) (y : Fin 16) (shape' idx' : Nat), shape' < 3 → (shape' = 2 → split = false) → idx' < 64 →
      (c' ≠ c ∨ y.val / 2 ≠ x.val / 2 ∨ idx' ≠ idx ∨ (split = true ∧ y ≠ x)) →
      (w.tilePut c.val x.val split shape idx vs).tileGet c'.val y.val split shape' idx' =
        w.tileGet c'.val y.val split shape' idx')) ∧
  (
  (∀ (a : Word) (x y : FV), (x.isZero = true ∨ y.isZero = true) → x.finite = true → y.finite = true →
    macStep a x y = (a, .gated)) ∧
  (∀ (a : Word) (x y : FV), ((f32 a).isNan = true ∨ x.isNan = true ∨ y.isNan = true ∨ (x.isInf = true ∧ y.isZero = true)) →
    ¬ ((x.isZero = true ∨ y.isZero = true) ∧ x.finite = true ∧ y.finite = true) → (macStep a x y).1 = 0x7FC00000) ∧
  (∀ (t : List Word) (n : Nat) (as_ bs : List (List FV)) (m : MacCounts), (macBlock n as_ bs t m).1.length = t.length))

/-- R187, R195, R196, R205, R208: ACC_CLR clears its tiles to +0 and removes their poison marks; ACC_ADD adds element by element;
an ACC_OUT in FP32 writes its rows to scratchpad, a deferred one is one record of the log, written behind its header, and one TO_VEC enters the vector unit's
queue while that holds fewer than four tiles of the array; one that waited goes on. -/
def Obligations.AccumulatorInstructionsRun : Prop :=
  (∀ (s : State) (c : Fin 1024) (x : Fin 17) (b : List Byte), s.board.alive = true → s.work.Fetches c.val x.val 2 b →
    1 ≤ leAt b 5 1 → leAt b 4 1 + leAt b 5 1 ≤ 64 →
    let ks := ((List.range (leAt b 5 1)).map (fun i => leAt b 4 1 + i)).flatMap (fun i =>
      ((s.work.ctx c.val x.val).halves x.val).map (fun h => halfKey c.val (x.val / 2) h i))
    Leads (.accClr c x) s (fun w => s.work.Retired w c.val x.val ∧
      (∀ e, Sp.get w.acc 0 e = if ks.contains (e / 512) then 0 else Sp.get s.work.acc 0 e) ∧
      (∀ h, h ∈ w.accPoison ↔ h ∈ s.work.accPoison ∧ h ∉ ks) ∧ w.mem = s.work.mem ∧ w.regs = s.work.regs)) ∧
  (∀ (s : State) (c : Fin 1024) (x : Fin 17) (b d : List Byte), s.board.alive = true → s.work.Fetches c.val x.val 3 b →
    let k := s.work.ctx c.val x.val
    let sh := leAt b 1 1
    sh < 3 → (sh = 2 → k.split = false) → leAt b 8 4 % 32 = 0 →
    s.work.localGet c.val (leAt b 8 4) (4 * tileSize sh k.split) = some (d, false) →
    Leads (.accAdd c x false) s (fun w => s.work.Retired w c.val x.val ∧
      w.acc = (s.work.tilePut c.val x.val k.split sh (leAt b 4 1)
        (((s.work.tileGet c.val x.val k.split sh (leAt b 4 1)).zipIdx).map (fun q =>
          fadd q.1 (BitVec.ofNat 32 (leAt d (4 * q.2) 4))))).acc ∧
      w.accPoison = s.work.accPoison ∧ w.mem = s.work.mem)) ∧
  (∀ (s : State) (c : Fin 1024) (x : Fin 17) (b : List Byte), s.board.alive = true → s.work.Fetches c.val x.val 4 b →
    let k := s.work.ctx c.val x.val
    let sh := leAt b 1 1 % 4
    let mn := shapeMN sh k.split
    let old := s.work.tileGet c.val x.val k.split sh (leAt b 4 1)
    let all := old.flatMap (fun v => toLE 4 (narrowPlain 0 (f32 v) none).1)
    let dst := leAt b 8 4
    let row := fun i => (spadBase c.val + (dst + i * leAt b 16 4), sub all (i * (4 * mn.2)) (4 * mn.2))
    sh < 3 → (sh = 2 → k.split = false) → leAt b 2 1 = 0 → s.work.tilePoisoned c.val x.val (leAt b 4 1) = false →
    dst % 32 = 0 → dst + (mn.1 - 1) * leAt b 16 4 + 4 * mn.2 ≤ 2 ^ 21 →
    (leAt b 1 1 < 3 →
      Leads (.accOut c x false) s (fun w => s.work.Retired w c.val x.val ∧ w.acc = s.work.acc ∧
        w.mem = ((List.range mn.1).foldl (fun (v : Work) i => v.store (row i).1 (row i).2) s.work).mem)) ∧
    (8 ≤ leAt b 1 1 → leAt b 1 1 < 11 →
      let at_ := s.work.base (DLOG_BASE_LO c.val) (DLOG_BASE_HI c.val) + (s.work.dig c.val).logUsed
      let n := 64 + ceilDiv (mn.1 * (4 * mn.2)) 64 * 64
      (s.work.dig c.val).logUsed + n ≤ 4096 * s.work.fld (DLOG_SIZE c.val) 0 20 → s.work.rangeServes at_ n = true →
      inStacks at_ n = true →
      Leads (.accOut c x false) s (fun w => s.work.Retired w c.val x.val ∧ w.acc = s.work.acc ∧
        (w.dig c.val).log = (s.work.dig c.val).log ++
          [{ slot := k.job.getD 0, ctx := x.val, seq := (s.work.dig c.val).logSeq, parts := (List.range mn.1).map row, poison := false }] ∧
        w.bytes (at_ + 64) (mn.1 * (4 * mn.2)) = (List.range mn.1).flatMap (fun i => (row i).2) ∧
        (∀ a, a < at_ ∨ at_ + n ≤ a → w.byte a = s.work.byte a))) ∧
    (16 ≤ leAt b 1 1 → leAt b 1 1 < 19 → ((s.work.dig c.val).queue.filter (fun q => q.1 == x.val / 2)).length < 4 →
      Leads (.accOut c x false) s (fun w => s.work.Retired w c.val x.val ∧ w.acc = s.work.acc ∧ w.mem = s.work.mem ∧
        (w.dig c.val).queue = (s.work.dig c.val).queue ++
          [(x.val / 2, VecTile.mk sh k.split (x.val % 2) false old)]))) ∧
  (∀ (s : State) (c : Fin 1024) (x : Fin 17) (b : List Byte), s.board.alive = true →
    let k := s.work.ctx c.val x.val
    let sh := leAt b 1 1 % 4
    k.stalled = true → (s.work.setCtx c.val x.val { k with stalled := false }).Fetches c.val x.val 4 b →
    16 ≤ leAt b 1 1 → leAt b 1 1 < 19 → sh < 3 → (sh = 2 → k.split = false) → leAt b 2 1 < 11 →
    s.work.tilePoisoned c.val x.val (leAt b 4 1) = false →
    ((s.work.dig c.val).queue.filter (fun q => q.1 == x.val / 2)).length < 4 →
    Leads (.toVecQueueResume c x) s (fun w => s.work.Retired w c.val x.val ∧ w.mem = s.work.mem ∧
      (w.dig c.val).queue = (s.work.dig c.val).queue ++ [(x.val / 2,
        VecTile.mk sh k.split (x.val % 2) false (s.work.tileGet c.val x.val k.split sh (leAt b 4 1)))]))

/-- R190, R202, R211, R214, R326: LOAD and STORE move whole 4-KiB ranges between memory and scratchpad while no stack of the range
zeroises, and a LOAD waits otherwise; a deferred STORE appends one record, which it writes behind its header at DLOG_BASE, while the
log has room, waits and is counted otherwise, and one that waited goes on.

R200, R202: SIGNAL raises its semaphore and lets through the contexts it satisfies; a WAIT that finds its count goes on and takes
it, another waits in state 2; END makes a context DONE, and the last one completes its job and frees its contexts; a flushed context
drains. -/
def Obligations.MovesSemaphoresAndJobsRun : Prop :=
  (
  (∀ (s : State) (c : Fin 1024) (x : Fin 17) (b : List Byte), s.board.alive = true → s.work.Fetches c.val x.val 5 b →
    moveCheck c.val (leAt b 8 8) (leAt b 16 4) (leAt b 20 4) = 0 → inStacks (leAt b 8 8) (leAt b 20 4) = true →
    leAt b 16 4 + leAt b 20 4 ≤ 2 ^ 21 →
    (s.work.rangeServes (leAt b 8 8) (leAt b 20 4) = false → Gives (.load c x) s s.work) ∧
    (s.work.rangeServes (leAt b 8 8) (leAt b 20 4) = true →
    Leads (.load c x) s (fun w => s.work.Retired w c.val x.val ∧
      w.bytes (spadBase c.val + leAt b 16 4) (leAt b 20 4) = s.work.bytes (leAt b 8 8) (leAt b 20 4) ∧
      (∀ a, a < spadBase c.val + leAt b 16 4 ∨ spadBase c.val + leAt b 16 4 + leAt b 20 4 ≤ a → w.byte a = s.work.byte a)))) ∧
  (∀ (s : State) (c : Fin 1024) (x : Fin 17) (b : List Byte), s.board.alive = true → s.work.Fetches c.val x.val 6 b →
    moveCheck c.val (leAt b 8 8) (leAt b 16 4) (leAt b 20 4) = 0 → leAt b 16 4 + leAt b 20 4 ≤ 2 ^ 21 →
    let data := s.work.bytes (spadBase c.val + leAt b 16 4) (leAt b 20 4)
    let ps := s.work.storeLines (spadBase c.val + leAt b 16 4) (leAt b 8 8) (leAt b 20 4) false
    let at_ := s.work.base (DLOG_BASE_LO c.val) (DLOG_BASE_HI c.val) + (s.work.dig c.val).logUsed
    (leAt b 1 1 = 0 → inStacks (leAt b 8 8) (leAt b 20 4) = true → s.work.rangeServes (leAt b 8 8) (leAt b 20 4) = true →
      Leads (.store c x) s (fun w => s.work.Retired w c.val x.val ∧
        w.bytes (leAt b 8 8) (leAt b 20 4) = data ∧
        (∀ a, a < leAt b 8 8 ∨ leAt b 8 8 + leAt b 20 4 ≤ a → w.byte a = s.work.byte a))) ∧
    (leAt b 1 1 = 8 → (s.work.dig c.val).logUsed + 64 + leAt b 20 4 ≤ 4096 * s.work.fld (DLOG_SIZE c.val) 0 20 →
      s.work.rangeServes at_ (64 + leAt b 20 4) = true → inStacks at_ (64 + leAt b 20 4) = true →
      Leads (.store c x) s (fun w => s.work.Retired w c.val x.val ∧ w.bytes (at_ + 64) (leAt b 20 4) = data ∧
        (w.dig c.val).log = (s.work.dig c.val).log ++
          [{ slot := (s.work.ctx c.val x.val).job.getD 0, ctx := x.val, seq := (s.work.dig c.val).logSeq,
             parts := ps.map (fun p => (p.1, p.2.1)), poison := ps.any (fun p => p.2.2) }] ∧
        (∀ a, a < at_ ∨ at_ + 64 + leAt b 20 4 ≤ a → w.byte a = s.work.byte a))) ∧
    (leAt b 1 1 = 8 → 64 + leAt b 20 4 ≤ 4096 * s.work.fld (DLOG_SIZE c.val) 0 20 →
      4096 * s.work.fld (DLOG_SIZE c.val) 0 20 < (s.work.dig c.val).logUsed + 64 + leAt b 20 4 →
      Gives (.store c x) s ((s.work.setCtx c.val x.val { s.work.ctx c.val x.val with stalled := true }).inc (DLOG_WAIT_CNT c.val)))) ∧
  (∀ (s : State) (c : Fin 1024) (x : Fin 17) (b : List Byte), s.board.alive = true →
    let k := s.work.ctx c.val x.val
    k.stalled = true → (s.work.setCtx c.val x.val { k with stalled := false }).Fetches c.val x.val 6 b → leAt b 1 1 = 8 →
    moveCheck c.val (leAt b 8 8) (leAt b 16 4) (leAt b 20 4) = 0 → leAt b 16 4 + leAt b 20 4 ≤ 2 ^ 21 →
    64 + leAt b 20 4 ≤ 4096 * s.work.fld (DLOG_SIZE c.val) 0 20 →
    let at_ := s.work.base (DLOG_BASE_LO c.val) (DLOG_BASE_HI c.val) + (s.work.dig c.val).logUsed
    let ps := s.work.storeLines (spadBase c.val + leAt b 16 4) (leAt b 8 8) (leAt b 20 4) false
    ((s.work.dig c.val).logUsed + 64 + leAt b 20 4 ≤ 4096 * s.work.fld (DLOG_SIZE c.val) 0 20 →
      s.work.rangeServes at_ (64 + leAt b 20 4) = true → inStacks at_ (64 + leAt b 20 4) = true →
      Leads (.deferredStoreResume c x) s (fun w => s.work.Retired w c.val x.val ∧
        (w.dig c.val).log = (s.work.dig c.val).log ++
          [{ slot := k.job.getD 0, ctx := x.val, seq := (s.work.dig c.val).logSeq,
             parts := ps.map (fun p => (p.1, p.2.1)), poison := ps.any (fun p => p.2.2) }] ∧
        (∀ a, a < at_ ∨ at_ + 64 + leAt b 20 4 ≤ a → w.byte a = s.work.byte a))) ∧
    (4096 * s.work.fld (DLOG_SIZE c.val) 0 20 < (s.work.dig c.val).logUsed + 64 + leAt b 20 4 →
      Gives (.deferredStoreResume c x) s s.work))) ∧
  (
  (∀ (s : State) (c : Fin 1024) (x : Fin 17) (b : List Byte) (j : Nat) (job : Job), s.board.alive = true →
    s.work.Fetches c.val x.val 7 b → s.work.jobOf c.val x.val = some (j, job) → (∀ y ∈ job.ctxs, y < 17) →
    (∀ y ∈ job.ctxs, (s.work.ctx c.val y).waits = none) →
    Leads (.signal c x) s (fun w => s.work.Retired w c.val x.val ∧
      w.sem c.val x.val (leAt b 4 1) = s.work.sem c.val x.val (leAt b 4 1) + 1 ∧ w.mem = s.work.mem ∧ w.regs = s.work.regs)) ∧
  (∀ (s : State) (c : Fin 1024) (x y : Fin 17) (b : List Byte) (j m : Nat) (job : Job), s.board.alive = true → x ≠ y →
    s.work.Fetches c.val x.val 7 b → s.work.jobOf c.val x.val = some (j, job) → (s.work.ctx c.val y.val).job = some j →
    job.ctxs = [y.val] → (s.work.ctx c.val y.val).waits = some (leAt b 4 1, m) → s.work.ctxState c.val y.val = 2 →
    m ≤ s.work.sem c.val x.val (leAt b 4 1) + 1 →
    Leads (.signal c x) s (fun w => s.work.Retired w c.val x.val ∧ (w.ctx c.val y.val).waits = none ∧
      w.ctxState c.val y.val = 1 ∧ (w.ctx c.val y.val).pc = (s.work.ctx c.val y.val).pc + 32 ∧
      w.sem c.val x.val (leAt b 4 1) = s.work.sem c.val x.val (leAt b 4 1) + 1 - m)) ∧
  (∀ (s : State) (c : Fin 1024) (x : Fin 17) (b : List Byte) (j : Nat) (job : Job), s.board.alive = true →
    s.work.Fetches c.val x.val 8 b → s.work.jobOf c.val x.val = some (j, job) →
    (leAt b 6 2 ≤ s.work.sem c.val x.val (leAt b 4 1) →
      Leads (.wait c x) s (fun w => s.work.Retired w c.val x.val ∧ (w.ctx c.val x.val).waits = none ∧
        w.sem c.val x.val (leAt b 4 1) = s.work.sem c.val x.val (leAt b 4 1) - leAt b 6 2 ∧ w.mem = s.work.mem)) ∧
    (s.work.sem c.val x.val (leAt b 4 1) < leAt b 6 2 →
      Leads (.wait c x) s (fun w => (w.ctx c.val x.val).waits = some (leAt b 4 1, leAt b 6 2) ∧ w.ctxState c.val x.val = 2 ∧
        (w.ctx c.val x.val).pc = (s.work.ctx c.val x.val).pc ∧ w.digital = s.work.digital ∧ w.mem = s.work.mem))) ∧
  (∀ (s : State) (c : Fin 1024) (x : Fin 17) (b : List Byte) (j : Nat) (job : Job), s.board.alive = true →
    s.work.Fetches c.val x.val 15 b → (s.work.ctx c.val x.val).checking = none → s.work.jobOf c.val x.val = some (j, job) →
    ((∃ y ∈ job.ctxs, y < 17 ∧ y ≠ x.val ∧ s.work.ctxState c.val y ≠ 5) →
      Leads (.endJob c x) s (fun w => w.ctxState c.val x.val = 5 ∧ w.digital = s.work.digital ∧ w.mem = s.work.mem)) ∧
    (job.ctxs = [x.val] →
      Leads (.endJob c x) s (fun w => w.ctxState c.val x.val = 0 ∧ w.ctx c.val x.val = {} ∧
        Sp.find (w.dig c.val).jobs j = none))) ∧
  (∀ (s : State) (c : Fin 1024) (x : Fin 17), s.board.alive = true →
    (s.work.ctxState c.val x.val = 3 → Leads (.contextFlushDone c x) s (fun w => w.ctxState c.val x.val = 4 ∧
      w.ctxs = s.work.ctxs ∧ w.acc = s.work.acc ∧ w.mem = s.work.mem)) ∧
    (s.work.ctxState c.val x.val ≠ 3 → Gives (.contextFlushDone c x) s s.work)))

/-- R200: a context fault poisons, of the tiles, those that the context named and no other; no element, no byte of memory and no
other context changes. -/
def Obligations.AContextFaultStaysInItsContext : Prop :=
  ∀ (w : Work) (c : Fin 1024) (x : Fin 17) (bit : Fin 6) (cause : Fin 16),
    let v := w.ctxFault c.val x.val bit.val cause.val
    v.ctxState c.val x.val = 3 ∧ v.flag (ctxErr c.val x.val) bit.val = true ∧
    v.fld (ctxErr c.val x.val) 12 16 = (w.ctx c.val x.val).tag % 2 ^ 16 ∧
    (∀ h, h ∈ v.accPoison ↔ h ∈ w.accPoison ∨ (x.val ≠ 16 ∧ ∃ i ∈ (w.ctx c.val x.val).named,
      ∃ b ∈ (w.ctx c.val x.val).halves x.val, h = halfKey c.val (x.val / 2) b i)) ∧
    v.acc = w.acc ∧ v.mem = w.mem ∧ v.poison = w.poison ∧
    (∀ (c' : Fin 1024) (y : Fin 17), (c' ≠ c ∨ y ≠ x) →
      v.ctx c'.val y.val = w.ctx c'.val y.val ∧ v.ctxState c'.val y.val = w.ctxState c'.val y.val ∧
      v.rd (ctxErr c'.val y.val) = w.rd (ctxErr c'.val y.val))

/-! ### The vector unit -/

/-- Table 5-7, R203, R204, R206, R223: ELEMWISE, ROWNORM and SOFTMAX widen their unpoisoned inputs to FP32, compute element by element
and row by row by the functions of Table 5-7, and narrow their outputs; SOFTMAX takes the oldest score tile of each array in turn, and
writes its rows after the last. What the parameter block says comes as operands, and the order of the arrays is theirs (log 11, the
model's choice).

R271: a backward kernel takes the tile at the front of its queue: what its second pass needs goes to SCRATCH, the rows' sums go
on in ascending column order, and the kernel waits for the band's next tile.

R207, R211, R246: NARROW narrows block after block with its entry where it names one, counts what Table 6-9 gives, and writes the
segments and scales; OPT2M updates its rows' masters, moments and residuals by R207, at once or as one record of the deferred log for
each output. -/
def Obligations.VectorKernelsRun : Prop :=
  (
  (∀ (s : State) (c : Fin 1024) (p : ElemPar) (b pb : List Byte) (xs : List (List Word)) (v : Work) (qs : List (Nat × List Byte)),
    s.board.alive = true → s.work.Fetches c.val 16 16 b → leAt b 4 1 = 1 → leAt b 8 4 % 32 = 0 →
    s.work.localGet c.val (leAt b 8 4) 32 = some (pb, false) → (tensorAddrs (p.dst :: (elemIns p).map (·.1))).all kaligned = true →
    s.work.kserves c.val ((elemIns p).flatMap (fun t => tensorRanges t.1 t.2)) = true →
    ktensors c.val (elemIns p) s.work = some (xs, false, v) →
    let t := fun k i => wAt (xs.getD k []) i
    let out := (List.range p.n).map (fun i => match p.op with
      | .add => fadd (t 0 i) (t 1 i) | .mul => fmul (t 0 i) (t 1 i) | .fma => ffma (t 0 i) (t 1 i) (t 2 i)
      | .max => fmax (t 0 i) (t 1 i) | .scale => fmul (t 0 i) (t 1 0))
    kputs c.val (tensorNarrow p.dst out).puts = some qs → v.putsServe (qs.map (fun q => (q.1, q.2, false))) = true →
    Leads (.elemwise c p) s (fun w => w.mem = (qs.foldl (fun (u : Work) q => u.putAt (q.1, q.2, false)) v).mem ∧
      w.rd (VEC_NONFINITE_CNT c.val) =
        min (s.work.rd (VEC_NONFINITE_CNT c.val) + (out.filter (fun x => !ffinite x)).length) 0xFFFFFFFF ∧
      s.work.Retired w c.val 16 ∧ w.acc = s.work.acc ∧ w.digital = s.work.digital)) ∧
  (∀ (s : State) (c : Fin 1024) (p : RowPar) (b pb : List Byte) (x g : List Word) (v : Work) (q1 q2 : List (Nat × List Byte)),
    s.board.alive = true → s.work.Fetches c.val 16 16 b → leAt b 4 1 = 2 → leAt b 8 4 % 32 = 0 →
    s.work.localGet c.val (leAt b 8 4) 32 = some (pb, false) → (tensorAddrs [p.src, p.gain, p.dst, p.rrms]).all kaligned = true →
    s.work.kserves c.val ([(p.src, p.rows * p.width), (p.gain, p.width)].flatMap (fun t => tensorRanges t.1 t.2)) = true →
    ktensors c.val [(p.src, p.rows * p.width), (p.gain, p.width)] s.work = some ([x, g], false, v) →
    let r := fun i => rowRrms ((List.range p.width).map (fun j => wAt x (p.width * i + j))) p.eps
    let out := (List.range p.rows).flatMap (fun i =>
      (List.range p.width).map (fun j => fmul (fmul (wAt g j) (wAt x (p.width * i + j))) (r i)))
    kputs c.val (tensorNarrow p.dst out).puts = some q1 →
    kputs c.val (tensorNarrow p.rrms ((List.range p.rows).map r)).puts = some q2 →
    v.putsServe ((q1 ++ q2).map (fun q => (q.1, q.2, false))) = true →
    Leads (.rownorm c p) s (fun w => w.mem = ((q1 ++ q2).foldl (fun (u : Work) q => u.putAt (q.1, q.2, false)) v).mem ∧
      s.work.Retired w c.val 16 ∧ w.acc = s.work.acc ∧ w.digital = s.work.digital)) ∧
  (∀ (s : State) (c : Fin 1024) (p : SoftPar) (b pb : List Byte) (k : Nat) (ws : List Word) (a : Fin 8) (t : VecTile),
    s.board.alive = true → s.work.Fetches c.val 16 16 b → leAt b 4 1 = 4 → leAt b 8 4 % 32 = 0 →
    s.work.localGet c.val (leAt b 8 4) 32 = some (pb, false) → (tensorAddrs [p.mask, p.dst, p.rmax, p.rsum]).all kaligned = true →
    ((s.work.dig c.val).kern).getD (0, []) = (k, ws) → p.order[k]? = some a → s.work.firstTile c.val a.val = some t →
    t.poison = false →
    let m := (shapeMN t.shape t.split).1
    let n := (shapeMN t.shape t.split).2
    ws.length = k * m * n →
    (k + 1 < p.order.length →
      Leads (.softmax c p) s (fun w => (w.dig c.val).kern = some (k + 1, ws ++ t.words) ∧
        (w.dig c.val).queue = (s.work.dig c.val).queue.erase (a.val, t) ∧ w.ctxs = s.work.ctxs ∧ w.mem = s.work.mem ∧
        w.acc = s.work.acc)) ∧
    (∀ (mask : List Word) (v : Work) (q1 q2 q3 : List (Nat × List Byte)), k + 1 = p.order.length →
      let len := n * p.order.length
      s.work.kserves c.val (tensorRanges p.mask (m * len)) = true →
      ktensors c.val [(p.mask, m * len)] (s.work.dropTile c.val a.val) = some ([mask], false, v) →
      let row := fun i => softRow p.scale ((softRows m n p.order.length (ws ++ t.words)).getD i [])
        ((List.range len).map (fun j => wAt mask (len * i + j)))
      kputs c.val (tensorNarrow p.dst ((List.range m).flatMap (fun i => (row i).1))).puts = some q1 →
      kputs c.val (tensorNarrow p.rmax ((List.range m).map (fun i => (row i).2.1))).puts = some q2 →
      kputs c.val (tensorNarrow p.rsum ((List.range m).map (fun i => (row i).2.2))).puts = some q3 →
      v.putsServe ((q1 ++ q2 ++ q3).map (fun q => (q.1, q.2, false))) = true →
      Leads (.softmax c p) s (fun w =>
        w.mem = ((q1 ++ q2 ++ q3).foldl (fun (u : Work) q => u.putAt (q.1, q.2, false)) v).mem ∧ (w.dig c.val).kern = none ∧
        (w.dig c.val).queue = (s.work.dig c.val).queue.erase (a.val, t) ∧ s.work.Retired w c.val 16 ∧ w.acc = s.work.acc)))) ∧
  (
  (∀ (s : State) (c : Fin 1024) (b pb : List Byte) (o : Opd) (a q : Nat) (acc : List Word) (t : VecTile) (xs : List (List Word))
      (b1 b2 b3 : List Byte) (v v2 u : Work), s.board.alive = true → s.work.Fetches c.val 16 16 b → leAt b 4 1 = 3 →
    leAt b 8 4 % 32 = 0 → s.work.localGet c.val (leAt b 8 4) 64 = some (pb, false) →
    let p := bwdOf pb
    s.work.bwdOpd c.val p = some o → p.ok c.val true = true → p.aligned true = true → s.work.nextTile c.val = some (a, t) →
    t.poison = false → t.shape = 0 → t.split = false → ((s.work.dig c.val).kern).getD (0, List.replicate 32 0) = (q, acc) →
    s.work.kserves c.val (p.touches o true q) = true →
    (q + 1) % p.width ≠ 0 → s.work.bandBlock c.val o p.x (q / p.width) (q % p.width) = some (xs, false, v2) →
    kgets c.val [(p.aux + 128 * (q / p.width), 128), (p.gain + 128 * (q % p.width), 128), (p.dgain + 128 * (q % p.width), 128)]
      s.work = some ([b1, b2, b3], false, v) →
    let dg := if p.flags.testBit 1 = true ∧ q / p.width = 0 then List.replicate 32 0 else wordsOf b3
    let z := normTile t.words xs (wordsOf b2) (wordsOf b1) acc dg
    (v.localPut c.val (p.scratch + 4096 * (q % p.width)) (wordsLE z.1) false).kwrite c.val
      [(p.dgain + 128 * (q % p.width), wordsLE z.2.2)] = some u →
    Leads (.rownormBwd c) s (fun w => w.mem = u.mem ∧ (w.dig c.val).kern = some (q + 1, z.2.1) ∧
      (w.dig c.val).queue = (s.work.dig c.val).queue.tail ∧ w.ctx c.val 16 = s.work.ctx c.val 16 ∧ w.acc = s.work.acc)) ∧
  (∀ (s : State) (c : Fin 1024) (b pb : List Byte) (o : Opd) (a q : Nat) (acc : List Word) (t : VecTile) (ps : List (List Word))
      (v : Work), s.board.alive = true → s.work.Fetches c.val 16 16 b → leAt b 4 1 = 5 →
    leAt b 8 4 % 32 = 0 → s.work.localGet c.val (leAt b 8 4) 64 = some (pb, false) →
    let p := bwdOf pb
    s.work.bwdOpd c.val p = some o → p.ok c.val false = true → p.aligned false = true → s.work.nextTile c.val = some (a, t) →
    t.poison = false → t.shape = 0 → t.split = false → ((s.work.dig c.val).kern).getD (0, List.replicate 32 0) = (q, acc) →
    s.work.kserves c.val (p.touches o false q) = true →
    (q + 1) % p.width ≠ 0 → s.work.bandBlock c.val o p.x (q / p.width) (q % p.width) = some (ps, false, v) →
    let e := (List.range 32).map (fun i => (List.range 32).foldl (fun d j =>
      fadd d (fmul (wAt t.words (32 * i + j)) (wAt (ps.getD i []) j))) (wAt acc i))
    Leads (.softmaxBwd c) s (fun w =>
      w.mem = (v.localPut c.val (p.scratch + 4096 * (q % p.width)) (wordsLE t.words) false).mem ∧
      (w.dig c.val).kern = some (q + 1, e) ∧ (w.dig c.val).queue = (s.work.dig c.val).queue.tail ∧
      w.ctx c.val 16 = s.work.ctx c.val 16 ∧ w.acc = s.work.acc))) ∧
  (
  (∀ (s : State) (c : Fin 1024) (b pb : List Byte) (rows : List (List Byte)) (v0 v : Work) (qs : List (Nat × List Byte)),
    s.board.alive = true → s.work.Fetches c.val 16 16 b → leAt b 4 1 = 6 → leAt b 8 4 % 64 = 0 →
    s.work.localGet c.val (leAt b 8 4) 64 = some (pb, false) →
    let p := narrowOf pb
    let entry := namesEntry p.fmt p.sr
    narrowOk pb p = true → kaligned p.src = true → kaligned p.dst = true →
    (p.block = true ∨ scaled p.fmt = false ∨ kaligned p.scl = true) →
    (if entry then s.work.nameEntry c.val 16 p.entry p.sr else (0, s.work)) = (0, v0) →
    v0.kserves c.val p.ins = true → kgets c.val p.ins v0 = some (rows, false, v) →
    let r := p.go (v.rd (GEN_SEQ c.val)) rows (if entry then v.loadEst (v.estAt c.val p.entry) else Est.none)
    kputs c.val r.puts = some qs → v.putsServe (qs.map (fun q => (q.1, q.2, false))) = true →
    let u := qs.foldl (fun (u : Work) q => u.putAt (q.1, q.2, false)) v
    Leads (.narrow c) s (fun w => w.mem = (if entry then u.saveEst (u.estAt c.val p.entry) r.est else u).mem ∧
      s.work.Retired w c.val 16 ∧ w.acc = s.work.acc ∧
      w.rd (SAT_BLK_CNT c.val) = min (s.work.rd (SAT_BLK_CNT c.val) + r.sat) 0xFFFFFFFF ∧
      w.rd (VEC_NONFINITE_CNT c.val) = min (s.work.rd (VEC_NONFINITE_CNT c.val) + p.nonfin rows) 0xFFFFFFFF)) ∧
  (∀ (s : State) (c : Fin 1024) (b p : List Byte) (bs : List (List Byte)) (v : Work) (qs : List (List (Nat × List Byte))),
    s.board.alive = true → s.work.Fetches c.val 16 16 b → leAt b 4 1 = 7 → leAt b 8 4 % 32 = 0 →
    s.work.localGet c.val (leAt b 8 4) 128 = some (p, false) →
    let n := leAt p 0 4
    let rec_ := leAt p 104 8
    let rows := fun off len => (List.range n).map (fun i => (leAt p off 8 + len * i, len))
    let ins := rows 40 4096 ++ rows 8 4096 ++ rows 16 4096 ++ rows 24 4096 ++ rows 48 1024 ++ [(leAt p 56 8, 128)]
    1 ≤ n → n ≤ 1024 → leAt p 4 4 < 2 → allZero (sub p 112 16) = true → (rec_ = 0 ∨ (rec_ % 64 = 0 ∧ inHbm rec_ 64 = true)) →
    [8, 16, 24, 32, 40, 48, 56].all (fun i => kaligned (leAt p i 8)) = true → s.work.kserves c.val ins = true →
    kgets c.val ins s.work = some (bs, false, v) →
    let f := fun i => BitVec.ofNat 32 (leAt p (64 + 4 * i) 4)
    let o : OptPar := ⟨f 0, f 1, f 2, f 3, f 4, f 5, f 6, f 7, f 8⟩
    let word := fun k i j => wAt (wordsOf (bs.getD (k * n + i) [])) j
    let new := fun i j => optStep o (word 0 i j) (word 1 i j) (word 2 i j) (word 3 i j)
      (wAt (wordsOf (bs.getD (5 * n) [])) (j / 32)) (sext 8 (leAt (bs.getD (4 * n + i) []) j 1))
    let put := fun off (g : Word × Word × Word × Word → Word) => (List.range n).map (fun i =>
      (leAt p off 8 + 4096 * i, wordsLE ((List.range 1024).map (fun j => g (new i j)))))
    ([put 8 (·.1), put 16 (·.2.1), put 24 (·.2.2.1), put 32 (·.2.2.2)] ++ if rec_ = 0 then [] else [[(rec_, sub p 100 4)]]).mapM
      (kputs c.val) = some qs →
    (leAt p 4 4 = 0 → v.putsServe (qs.flatten.map (fun q => (q.1, q.2, false))) = true →
      Leads (.opt2m c) s (fun w => w.mem = (qs.flatten.foldl (fun (u : Work) q => u.putAt (q.1, q.2, false)) v).mem ∧
        s.work.Retired w c.val 16 ∧ w.acc = s.work.acc)) ∧
    (leAt p 4 4 = 1 →
      let size := (qs.map (fun q => 64 + ceilDiv ((q.map (·.2.length)).sum) 64 * 64)).sum
      let at_ := s.work.base (DLOG_BASE_LO c.val) (DLOG_BASE_HI c.val) + (s.work.dig c.val).logUsed
      (s.work.dig c.val).logUsed + size ≤ 4096 * s.work.fld (DLOG_SIZE c.val) 0 20 → v.rangeServes at_ size = true →
      inStacks at_ size = true →
      Leads (.opt2m c) s (fun w => s.work.Retired w c.val 16 ∧ w.acc = s.work.acc ∧
        (w.dig c.val).log = (s.work.dig c.val).log ++ (qs.zipIdx).map (fun q =>
          { slot := (s.work.ctx c.val 16).job.getD 0, ctx := 16, seq := (s.work.dig c.val).logSeq + q.2, parts := q.1,
            poison := false }) ∧
        (∀ a, a < at_ ∨ at_ + size ≤ a → w.byte a = s.work.byte a)))))

/-! ### The feed, the stash's table and the sessions -/

/-- R255, R257, R277: FEED_TAIL takes its value, and ends a wait for a record, which the engine then takes and prepares while the
stroke is still to be prepared; a register
of the entry table takes its value, with a check of the table, while every cox is IDLE, and is left alone otherwise. -/
def Obligations.FeedAndStashRegistersAct : Prop :=
  (∀ (s : State) (p : Path) (v : Word), s.board.alive = true → s.work.Writable p FEED_TAIL v.toNat →
    s.work.step.starving = false → Gives (.feedTailWrite p v) s (s.work.wrPlain p FEED_TAIL v.toNat)) ∧
  (∀ (s : State) (p : Path) (v : Word), s.board.alive = true → s.work.Writable p FEED_TAIL v.toNat →
    let u := s.work.wrPlain p FEED_TAIL v.toNat
    let rec_ := u.hbmGet (u.base FEED_BASE_LO FEED_BASE_HI + 64 * u.fld FEED_HEAD 0 16) 64
    s.work.step.starving = true → s.work.stroke.prepared = false → s.work.step.refused = false → u.midStep = false →
    u.flag STEP_CTL 0 = true → u.prepDue = true → u.feedReady = true → rec_.2.2.stepCheck rec_.1 = 0 →
    Leads (.feedTailWrite p v) s (fun w => w.step.starving = false ∧ w.stroke.prepared = true ∧ w.step.inStep = true ∧
      w.step.step = leAt rec_.1 0 4 ∧ w.step.strokes = leAt rec_.1 4 1 ∧ w.step.stroke = 0 ∧ w.step.prev = some (leAt rec_.1 0 4) ∧
      w.step.heats = ((rec_.2.2.mbsOf rec_.1).map rec_.2.2.seqsOf).map (cutHeats rec_.2.2.laneCap) ∧
      w.fld FEED_HEAD 0 16 = (s.work.fld FEED_HEAD 0 16 + 1) % s.work.feedSize % 2 ^ 16)) ∧
  (∀ (s : State) (p : Path) (a : Nat) (v : Word), s.board.alive = true → a ∈ stashTableRegs → s.work.Writable p a v.toNat →
    (s.work.allIdle = false → Gives (.stashTableWrite p a v) s s.work) ∧
    (s.work.allIdle = true →
      let u := s.work.wrPlain p a v.toNat
      let x := if a = POOL_PAGES then u.setFld POOL_FREE 0 23 (u.fld POOL_PAGES 0 23) else u
      Gives (.stashTableWrite p a v) s (if x.entriesOk then { x with step := { x.step with entryBad := false } }
        else ({ x with step := { x.step with entryBad := true } }.setBit STEP_ERR 1).setFld STEP_ERR 4 4 8)))

/-- R280, R281, R290 to R292: a request enters the queue and SREQ_HEAD passes it; OPEN binds a session with its pages, CLOSE returns
them zeroed; each writes its completion; one that waits while the ring is full goes once the host makes room.

R281, R287, R289, R290, R292: a group's end adds its tokens to the session's cache and writes the request's outputs, GENERATE's
token drawn at the session's cache length; a request with all its tokens, or STOP, is done; its completion carries its counts and step
numbers, and waits where the ring is full. What a forward leaves of a token is a free value (log 28).

R281, R283, R284, R288, R289: the request of a session that runs goes group by group: a group takes the next tokens at IN_ADDR, up to
COUNT and the session's capacity; each entry of the program's list starts, once the one before is done, a forward layer group, whose
products the engine offers to the tiles, or a digital job, whose contexts run; an entry of the other mode is passed over. How many
tokens a group takes and where an entry's unit stands come as operands (log 28, the model's choice). -/
def Obligations.SessionsOpenRunAndClose : Prop :=
  (
  (∀ (s : State) (p : Path) (v : Word), s.board.alive = true → s.work.Writable p SREQ_TAIL v.toNat → s.work.sess.waiting = [] →
    let u := s.work.wrPlain p SREQ_TAIL v.toNat
    let req := u.hbmGet (u.base SREQ_BASE_LO SREQ_BASE_HI + 64 * u.fld SREQ_HEAD 0 16) 64
    u.flag SESS_CTL 0 = true → u.fld SREQ_HEAD 0 16 ≠ u.fld SREQ_TAIL 0 16 % u.reqSize →
    (u.fld SREQ_HEAD 0 16 + 1) % u.reqSize = u.fld SREQ_TAIL 0 16 % u.reqSize → (reqOf req.1).bad = false →
    ((reqOf req.1).op = 1 ∨ ∃ q, Sp.find s.work.sess.open_ (reqOf req.1).session = some q ∧ (q.poisoned = false ∨ (reqOf req.1).op = 5)) →
    Leads (.sreqTailWrite p v) s (fun w => w.sess.waiting = [reqOf req.1] ∧ w.sess.open_ = s.work.sess.open_ ∧
      w.fld SREQ_HEAD 0 16 = u.fld SREQ_TAIL 0 16 % u.reqSize ∧ w.mem = s.work.mem)) ∧
  (∀ (s : State) (r : SessReq), s.board.alive = true → s.work.sess.waiting = [r] → s.work.sess.held = [] → r.op = 1 →
    r.bad = false → r.session < 1024 → s.work.sessProgOk r.prog = true →
    Sp.find s.work.sess.open_ r.session = none → s.work.cplFull = false →
    let k := ceilDiv (r.count * s.work.cacheBpt r.prog) 65536
    k ≤ ((List.range (s.work.fld SCACHE_PAGES 0 23)).filter (fun p => !s.work.sess.used.contains p)).length →
    Leads .sessionOpen s (fun w => w.sess.waiting = [] ∧
      (∃ q, Sp.find w.sess.open_ r.session = some q ∧ q.prog = r.prog ∧ q.cap = r.count ∧ q.pages.length = k ∧ q.len = 0 ∧
        q.run = none ∧ (∀ g ∈ q.pages, g ∉ s.work.sess.used ∧ g < s.work.fld SCACHE_PAGES 0 23) ∧
        w.sess.used = s.work.sess.used ++ q.pages) ∧
      w.rd SREQ_CNT = min (s.work.rd SREQ_CNT + 1) 0xFFFFFFFF ∧
      w.fld SCPL_TAIL 0 16 = (s.work.fld SCPL_TAIL 0 16 + 1) % s.work.cplSize % 2 ^ 16)) ∧
  (∀ (s : State) (r : SessReq) (q : Session) (pg : Nat), s.board.alive = true → s.work.sess.waiting = [r] →
    s.work.sess.held = [] → r.op = 5 → r.bad = false →
    Sp.find s.work.sess.open_ r.session = some q → q.run = none → pg ∈ q.pages → s.work.cplFull = false →
    let cpl := s.work.base SCPL_BASE_LO SCPL_BASE_HI + 32 * s.work.fld SCPL_TAIL 0 16
    inStacks cpl 32 = true →
    Leads .sessionClose s (fun w => w.sess.waiting = [] ∧ Sp.find w.sess.open_ r.session = none ∧
      (∀ g ∈ q.pages, g ∉ w.sess.used) ∧ w.rd SZERO_CNT = min (s.work.rd SZERO_CNT + q.pages.length) 0xFFFFFFFF ∧
      (∀ i < 65536, (s.work.cachePage pg + i < cpl ∨ cpl + 32 ≤ s.work.cachePage pg + i) →
        w.byte (s.work.cachePage pg + i) = 0))) ∧
  (∀ (s : State) (p : Path) (v : Word) (b : List Byte), s.board.alive = true → s.work.Writable p SCPL_HEAD v.toNat →
    s.work.sess.held = [b] → b.length = 32 → s.work.sess.waiting = [] →
    let u := s.work.wrPlain p SCPL_HEAD v.toNat
    let cpl := u.base SCPL_BASE_LO SCPL_BASE_HI + 32 * u.fld SCPL_TAIL 0 16
    inStacks cpl 32 = true →
    (u.cplFull = true → Gives (.scplHeadWrite p v) s u) ∧
    (u.cplFull = false → Leads (.scplHeadWrite p v) s (fun w => w.sess.held = [] ∧ w.flag SESS_STATUS 11 = false ∧
      w.bytes cpl 32 = b ∧ w.fld SCPL_TAIL 0 16 = (u.fld SCPL_TAIL 0 16 + 1) % u.cplSize % 2 ^ 16))) ∧
  (∀ (s : State) (p : Path) (v : Word), s.board.alive = true → s.work.Writable p SCPL_HEAD v.toNat → s.work.sess.held = [] →
    s.work.sess.waiting = [] → Gives (.scplHeadWrite p v) s ((s.work.wrPlain p SCPL_HEAD v.toNat).clrBit SESS_STATUS 11))) ∧
  (
  (∀ (s : State) (n : Fin 1024) (k : SessWork) (q : Session) (u : SessRun) (op : Nat) (cmd : Instr) (ts : List Word),
    s.board.alive = true →
    ((op = 2 ∧ cmd = .sessionAppend n k) ∨ (op = 3 ∧ cmd = .sessionGenerate n k) ∨ (op = 4 ∧ cmd = .sessionScore n k)) →
    s.work.sess.waiting = [] → Sp.find s.work.sess.open_ n.val = some q → q.run = some u → u.req.op = op → u.status = none →
    u.group = some ts → s.work.sessUnitRuns n.val = false → leAt (s.work.sessProg q.prog) 8 2 ≤ u.pos →
    let g := s.work.sessTokens n.val q u.req ts
    let m := if op = 3 then 1 else ts.length
    let bad := u.bad || q.poisoned
    let stopped := op = 3 ∧ u.req.stop ≠ 0xFFFFFFFF ∧ g.2.1.any (fun x => x.toNat == u.req.stop) = true
    let out := u.req.outAddr + 4 * u.done
    Leads cmd s (fun w =>
      Sp.find w.sess.open_ n.val = some { q with
        len := q.len + m, hist := g.1, poisoned := bad,
        run := some { u with
          done := u.done + m, group := none,
          status := if bad = true then some 1 else if u.done + m = u.req.count ∨ stopped then some 0 else none } } ∧
      (op ≠ 2 → inStacks out (4 * g.2.1.length) = true → w.bytes out (4 * g.2.1.length) = wordsLE g.2.1) ∧
      (op = 3 → u.req.digital = true → g.2.1 = [Config.sessToken (Config.sessSeed (s.work.sessList q.prog)
        (s.work.rd STEP_COMMITTED) q.hist) ((List.range 32).map (fun l =>
          drawOf ((0xFFFF0000 + 32 * n.val + l) % 2 ^ 32) (q.len % 2 ^ 32) 0))]) ∧
      w.rd STEP_COMMITTED = s.work.rd STEP_COMMITTED)) ∧
  (∀ (s : State) (n : Fin 1024) (q : Session) (u : SessRun) (st : Nat), s.board.alive = true → s.work.sess.waiting = [] →
    Sp.find s.work.sess.open_ n.val = some q → q.run = some u → u.status = some st →
    let cpl := s.work.base SCPL_BASE_LO SCPL_BASE_HI + 32 * s.work.fld SCPL_TAIL 0 16
    let c := s.work.rd STEP_COMMITTED
    let b := s.work.cplOf u.req n.val st u.done (u.first.getD c) (if u.first.isSome then u.lastStep else c) u.recovery
    (s.work.cplFull = false → s.work.sess.held = [] → inStacks cpl 32 = true →
      Leads (.sessionComplete n) s (fun w => w.bytes cpl 32 = b ∧
        Sp.find w.sess.open_ n.val = some { q with run := none } ∧
        w.fld SCPL_TAIL 0 16 = (s.work.fld SCPL_TAIL 0 16 + 1) % s.work.cplSize % 2 ^ 16 ∧
        w.rd SREQ_CNT = min (s.work.rd SREQ_CNT + 1) 0xFFFFFFFF ∧
        (∀ a, a < cpl ∨ cpl + 32 ≤ a → w.byte a = s.work.byte a))) ∧
    (s.work.cplFull = true ∨ s.work.sess.held ≠ [] → Leads (.sessionComplete n) s (fun w =>
      w.sess.held = s.work.sess.held ++ [b] ∧ w.flag SESS_STATUS 11 = true ∧
      w.rd SCPL_WAIT_CNT = min (s.work.rd SCPL_WAIT_CNT + 1) 0xFFFFFFFF ∧ w.mem = s.work.mem)))) ∧
  (
  ∀ (s : State) (n : Fin 1024) (k : SessWork) (q : Session) (u : SessRun) (op : Nat) (cmd : Instr), s.board.alive = true →
    ((op = 2 ∧ cmd = .sessionAppend n k) ∨ (op = 3 ∧ cmd = .sessionGenerate n k) ∨ (op = 4 ∧ cmd = .sessionScore n k)) →
    s.work.sess.waiting = [] → Sp.find s.work.sess.open_ n.val = some q → q.run = some u → u.req.op = op → u.status = none →
    (u.group = none →
      let left := u.req.count - u.done
      let room := q.cap - q.len
      let m := clampNat k.group 1 (min left room)
      let g := s.work.hbmGet (u.req.inAddr + 4 * u.done) (4 * m)
      let ts := (List.range m).map (fun i => BitVec.ofNat 32 (leAt g.1 (4 * i) 4))
      Gives cmd s (if left = 0 then s.work.setRun n.val q { u with status := some 0 }
        else if room = 0 then s.work.setRun n.val q { u with status := some 2 }
        else if op = 3 then s.work.setRun n.val q { u with group := some [], pos := 0 }
        else g.2.2.setRun n.val q { u with group := some ts, pos := 0, bad := u.bad || g.2.1 })) ∧
    (∀ ts, u.group = some ts → s.work.sessUnitRuns n.val = true → Gives cmd s s.work) ∧
    (∀ ts, u.group = some ts → s.work.sessUnitRuns n.val = false → u.pos < leAt (s.work.sessProg q.prog) 8 2 →
      let kind := leAt (s.work.sessList q.prog) (8 * u.pos) 1 % 4
      (kind = 0 ∧ u.req.digital = true) ∨ (kind = 1 ∧ u.req.digital = false) →
      Gives cmd s (s.work.setRun n.val q { u with pos := u.pos + 1 })) ∧
    (∀ ts c a r, u.group = some ts → s.work.sessUnitRuns n.val = false → u.pos < leAt (s.work.sessProg q.prog) 8 2 →
      let kind := leAt (s.work.sessList q.prog) (8 * u.pos) 1 % 4
      (kind = 0 ∨ kind = 2) → u.req.digital = false → k.unit = .forward c a → s.work.fwdGroup c.val 0 a 0xFFFF = .ok r →
      Leads cmd s (fun w => Sp.find w.sess.open_ n.val = some { q with run := some { u with pos := u.pos + 1 } } ∧
        Sp.find w.sess.fwd n.val = some (c.val, r) ∧
        w.sess.offers = s.work.sess.offers ++ (List.range r.vecCount).flatMap (fun v => (r.entries.zipIdx).map (fun e =>
          ({ session := n.val, core := c.val, tile := e.1.tile, entry := e.2, vec := v } : SessProduct))) ∧
        w.mem = s.work.mem ∧ w.regs = s.work.regs)) ∧
    (∀ ts c a h, u.group = some ts → s.work.sessUnitRuns n.val = false → u.pos < leAt (s.work.sessProg q.prog) 8 2 →
      let kind := leAt (s.work.sessList q.prog) (8 * u.pos) 1 % 4
      (kind = 2 ∨ (kind = 0 ∧ u.req.digital = false) ∨ (kind = 1 ∧ u.req.digital = true)) → k.unit = .job c a →
      s.work.descriptor c.val a 80 64 = some h → ((leAt h 3 1).testBit 0 = false ∨ s.work.ctxState c.val 16 = 0) →
      s.work.headerCheck c.val 255 h = 0 → (u.req.digital = false ∨ s.work.copyOpen = false) → s.work.halvesFree c.val h = true →
      s.work.macsOn c.val = true → s.work.streamsFit c.val h = true → headerCtxs h ≠ [] →
      Leads cmd s (fun w => Sp.find w.sess.open_ n.val = some { q with run := some { u with pos := u.pos + 1 } } ∧
        (∀ p ∈ headerCtxs h, w.ctxState c.val p.1 = 1 ∧ (w.ctx c.val p.1).session = some n.val ∧ (w.ctx c.val p.1).pc = p.2) ∧
        Sp.find (w.dig c.val).jobs (4096 + n.val) = some { ctxs := (headerCtxs h).map (·.1) } ∧ w.mem = s.work.mem)))

/-! ### The memory stacks -/

/-- R299 to R305, R309, R310, R326, R461: a line that decodes is delivered to the unit that asked, with its poison mark and a
correction counted; one that does not is read again, and the retry delivers it, marks a die where one alone explains both reads, or
delivers it poisoned and counted. A read of a zeroising stack waits; a request of an older generation of its unit is discarded.

R311, R314 to R316, R326, R461: a write of the stacks stores its bytes and no other; a block whose check matches is stored with its poison
map, another is asked for again; the second arrival is stored clean, or with every line poisoned and its failure counted. Each waits
while its stack zeroises, and is discarded where it bears an older generation of the unit that sent it. -/
def Obligations.LinesAndBlocksAreReadAndStored : Prop :=
  (
  (∀ (s : State) (i : Issuer) (a : Nat) (bad pbad : List Nat), s.board.alive = true → a < apertureBase →
    let line := a / 256
    let m := (stackOf (256 * line)).1
    let b := if s.work.poison.contains line then pbad else bad
    (s.work.current i = false → Gives (.hbmRead ⟨i, a⟩ bad pbad) s s.work) ∧
    (s.work.current i = true → s.work.serves m = false →
      Gives (.hbmRead ⟨i, a⟩ bad pbad) s { s.work with parked := s.work.parked ++ [(i, .read (256 * line) bad pbad)] }) ∧
    (s.work.current i = true → s.work.serves m = true →
      (if s.work.erasure m then further b (s.work.failedDie m) ≤ 4 else b.length ≤ 8) →
      Leads (.hbmRead ⟨i, a⟩ bad pbad) s (fun w => w.mem = s.work.mem ∧ w.poison = s.work.poison ∧
        w.out = s.work.out ++ [.line i (256 * line) (s.work.bytes (256 * line) 256) (s.work.poison.contains line)] ∧
        w.rd (CE_CNT m) = min (s.work.rd (CE_CNT m) + (if s.work.corrects m b then 1 else 0)) 0xFFFFFFFF ∧
        w.rd (POISON_RD_CNT m) = min (s.work.rd (POISON_RD_CNT m) + (if s.work.poison.contains line then 1 else 0)) 0xFFFFFFFF)) ∧
    (s.work.current i = true → s.work.serves m = true →
      ¬ (if s.work.erasure m then further b (s.work.failedDie m) ≤ 4 else b.length ≤ 8) →
      Leads (.hbmRead ⟨i, a⟩ bad pbad) s (fun w => w.mem = s.work.mem ∧ w.out = s.work.out ∧
        (w.memc m).retries = (s.work.memc m).retries ++ [{ issuer := i, line := line, bad := bad, pbad := pbad }]))) ∧
  (∀ (s : State) (a : Nat) (bad pbad : List Nat) (r : Retry) (rest : List Retry), s.board.alive = true → a < apertureBase →
    let line := a / 256
    let m := (stackOf (256 * line)).1
    let b1 := if s.work.poison.contains line then r.pbad else r.bad
    let b2 := if s.work.poison.contains line then pbad else bad
    (s.work.memc m).retries = r :: rest → r.line = line → s.work.serves m = true →
    (s.work.decodes m b2 = true → s.work.current r.issuer = false →
      Leads (.hbmRetryDone a bad pbad) s (fun w => (w.memc m).retries = rest ∧ w.mem = s.work.mem ∧ w.out = s.work.out ∧
        w.rd RGEN_DROP_CNT = min (s.work.rd RGEN_DROP_CNT + 1) 0xFFFFFFFF)) ∧
    (s.work.decodes m b2 = true → s.work.current r.issuer = true →
      Leads (.hbmRetryDone a bad pbad) s (fun w => (w.memc m).retries = rest ∧ w.mem = s.work.mem ∧
        w.out = s.work.out ++ [.line r.issuer (256 * line) (s.work.bytes (256 * line) 256) (s.work.poison.contains line)] ∧
        w.rd (UE_TRANS_CNT m) = min (s.work.rd (UE_TRANS_CNT m) + 1) 0xFFFFFFFF ∧
        w.rd TRANSIENT_CNT = min (s.work.rd TRANSIENT_CNT + 1) 0xFFFFFFFF ∧ w.rd (UE_CNT m) = s.work.rd (UE_CNT m))) ∧
    (s.work.decodes m b2 = false → s.work.erasure m = false → s.work.current r.issuer = true → ∀ z : Fin 18, trialDies b1 = [z.val] → trialDies b2 = [z.val] →
      Leads (.hbmRetryDone a bad pbad) s (fun w => (w.memc m).retries = rest ∧ w.mem = s.work.mem ∧ w.erasure m = true ∧
        w.failedDie m = z ∧ w.flag (MC_ERR m) 0 = true ∧ w.rd (UE_CNT m) = s.work.rd (UE_CNT m) ∧
        ∃ l : List Out, w.out = s.work.out ++ l ++
          [Out.line r.issuer (256 * line) (s.work.bytes (256 * line) 256) (s.work.poison.contains line)])) ∧
    (s.work.decodes m b2 = false → s.work.erasure m = true → s.work.current r.issuer = true →
      Leads (.hbmRetryDone a bad pbad) s (fun w => (w.memc m).retries = rest ∧ w.mem = s.work.mem ∧
        w.out = s.work.out ++ [.line r.issuer (256 * line) (s.work.bytes (256 * line) 256) true] ∧
        w.rd (UE_CNT m) = min (s.work.rd (UE_CNT m) + 1) 0xFFFFFFFF ∧ w.flag (MC_ERR m) 1 = true)))) ∧
  (
  (∀ (s : State) (i : Issuer) (a : Nat) (d : List Byte) (p : Bool) (bad retry : List Nat), s.board.alive = true →
    inStacks a d.length = true →
    (s.work.current i = false → Gives (.hbmWrite ⟨i, a⟩ d p ⟨bad, retry⟩) s s.work) ∧
    (s.work.current i = true → s.work.rangeServes a d.length = false →
      Gives (.hbmWrite ⟨i, a⟩ d p ⟨bad, retry⟩) s { s.work with parked := s.work.parked ++ [(i, .write a d p bad retry)] }) ∧
    (s.work.current i = true → s.work.rangeServes a d.length = true →
    Leads (.hbmWrite ⟨i, a⟩ d p ⟨bad, retry⟩) s (fun w => w.bytes a d.length = d ∧
      (∀ x, x < a ∨ a + d.length ≤ x → w.byte x = s.work.byte x) ∧
      (p = true → ∀ i < d.length, w.poisoned (a + i) 1 = true) ∧
      (p = false → bad = [] → ∀ l, a ≤ 256 * l → 256 * l + 256 ≤ a + d.length → w.poisoned (256 * l) 256 = false)))) ∧
  (∀ (s : State) (b : Block), s.board.alive = true →
    (b.eight = none → inStacks b.dest b.data.length = true) → (b.eight ≠ none → 2 ^ 40 ≤ b.dest) → b.dest % 256 = 0 →
    let near := fun x => b.dest ≤ x ∧ x < b.dest + b.data.length
    (s.work.current b.issuer = false → Gives (.tblkArrival b) s s.work ∧ Gives (.tblkRearrival b) s s.work) ∧
    (s.work.current b.issuer = true → s.work.blockServed b = false →
      Gives (.tblkArrival b) s { s.work with parked := s.work.parked ++ [(b.issuer, .block b false)] }) ∧
    (s.work.current b.issuer = true → s.work.blockServed b = true → crc32c (b.data ++ toBE 2 b.poisonMap) = b.check →
      Leads (.tblkArrival b) s (fun w => w.bytes b.dest b.data.length = b.data ∧
        (∀ x, ¬ near x → w.byte x = s.work.byte x) ∧ w.asked = s.work.asked ∧ w.out = s.work.out)) ∧
    (s.work.current b.issuer = true → s.work.blockServed b = true → crc32c (b.data ++ toBE 2 b.poisonMap) ≠ b.check →
      Gives (.tblkArrival b) s { s.work with
        asked := s.work.asked ++ [(b.dest, b.source)]
        out := s.work.out ++ [.askBlock b.source] }) ∧
    (s.work.current b.issuer = true → s.work.blockServed b = true → (b.dest, b.source) ∈ s.work.asked →
      Leads (.tblkRearrival b) s (fun w => w.bytes b.dest b.data.length = b.data ∧
        (∀ x, ¬ near x → w.byte x = s.work.byte x) ∧ w.asked = s.work.asked.erase (b.dest, b.source) ∧
        (crc32c (b.data ++ toBE 2 b.poisonMap) = b.check →
          w.rd TRANSIENT_CNT = min (s.work.rd TRANSIENT_CNT + 1) 0xFFFFFFFF) ∧
        (crc32c (b.data ++ toBE 2 b.poisonMap) ≠ b.check →
          w.rd LASTING_CNT = min (s.work.rd LASTING_CNT + 1) 0xFFFFFFFF ∧
          ∀ i < b.data.length, w.poisoned (b.dest + i) 1 = true))) ∧
    ((b.dest, b.source) ∉ s.work.asked → Gives (.tblkRearrival b) s s.work)))

/-- R305 to R307, R325, R326: a region at its limit enters the retirement list while that has room, and past 64 sets LIST_FULL;
ZERO_GO starts a zeroisation of the range that ZERO_BASE and ZERO_LEN give; its end leaves every byte and mark of it zero, everything
else as it was, and counts its regions. -/
def Obligations.RegionsRetireAndZeroise : Prop :=
  (∀ (s : State) (m : Fin 12) (r : Nat), s.board.alive = true → r < 32768 →
    let k := s.work.memc m.val
    let lim := if s.work.fld (CE_LIM m.val) 0 16 = 0 then 1 else s.work.fld (CE_LIM m.val) 0 16
    (Sp.get k.counts 0 r < lim ∨ r ∈ k.retired → Gives (.regionRetire m r) s s.work) ∧
    (lim ≤ Sp.get k.counts 0 r → r ∉ k.retired → k.retired.length < 64 →
      Leads (.regionRetire m r) s (fun w => (w.memc m.val).retired = k.retired ++ [r] ∧ (w.memc m.val).counts = k.counts ∧
        w.mem = s.work.mem ∧ w.poison = s.work.poison)) ∧
    (lim ≤ Sp.get k.counts 0 r → r ∉ k.retired → 64 ≤ k.retired.length →
      Gives (.regionRetire m r) s (s.work.setBit (MC_STATUS m.val) 7))) ∧
  (∀ (s : State) (p : Path) (m : Fin 12), s.board.alive = true → s.work.Writable p (MC_CTL m.val) 1 →
    let lo := s.work.fld (ZERO_BASE m.val) 0 15
    (s.work.serves m.val = true → Gives (.zeroGo p m) s ((s.work.setMemc m.val { s.work.memc m.val with
      zero := some (lo, min (if s.work.fld (ZERO_LEN m.val) 0 16 = 0 then 1 else s.work.fld (ZERO_LEN m.val) 0 16) (32768 - lo),
        false) }).setBit (MC_STATUS m.val) 0)) ∧
    (s.work.serves m.val = false → Gives (.zeroGo p m) s s.work)) ∧
  (∀ (s : State) (m : Fin 12) (lo n : Nat) (whole : Bool), s.board.alive = true → (s.work.memc m.val).zero = some (lo, n, whole) →
    s.work.access.waits = [] → s.work.parked = [] → s.work.red = {} → s.work.links = [] →
    Leads (.zeroiseDone m) s (fun w => (w.memc m.val).zero = none ∧ w.serves m.val = true ∧
      (whole = true → (w.memc m.val).ready = true) ∧
      w.rd (ZERO_CNT m.val) = min (s.work.rd (ZERO_CNT m.val) + n + (if whole then 32 else 0)) 0xFFFFFFFF ∧
      (∀ a, a < apertureBase → (stackOf a).1 = m.val → lo ≤ (stackOf a).2 / 2 ^ 21 → (stackOf a).2 / 2 ^ 21 < lo + n →
        w.byte a = 0 ∧ w.poisoned a 1 = false) ∧
      (∀ a, ¬ (a < apertureBase ∧ (stackOf a).1 = m.val ∧ lo ≤ (stackOf a).2 / 2 ^ 21 ∧ (stackOf a).2 / 2 ^ 21 < lo + n) →
        w.byte a = s.work.byte a)))

/-! ### Ports -/

/-- R327, R328, R330, R334 to R336: a port trains, ends on the lanes settled in the best mode that it and its partner allow or stays
down, sends its kept frames again and HELLOs, and finds its class 100 µs after link-up; a bypassed or disabled port, or one with no
healthy lane, does not train. -/
def Obligations.PortsTrainAndFindTheirPartners : Prop :=
  (∀ (s : State) (k : Fin 40) (pm m : Nat) (t : Nat × Bool) (lanes : Fin 16), s.board.alive = true →
    (s.work.link k.val).train = some t → (s.work.link k.val).replay = [] → (s.work.link k.val).queue = [] →
    (s.work.link k.val).answers = [] → bestMode (s.work.trainModes k.val pm) = some m →
    Leads (.linkUp k ⟨pm, lanes⟩) s (fun w => w.flag (LINK_STATUS k.val) 0 = true ∧ w.flag (LINK_STATUS k.val) 9 = false ∧
      w.fld (LINK_STATUS k.val) 1 4 = m ∧
      w.fld (LANE_STATUS k.val) 4 4 = usedLanes (s.work.link k.val).lanes m lanes.val ∧ m ∈ s.work.trainModes k.val pm ∧ (w.link k.val).train = none ∧ (w.link k.val).upAt = s.work.now ∧
      (∀ x ∈ s.work.trainModes k.val pm, modeBefore x m = false) ∧ w.out = s.work.out ∧
      (∀ j, j ≠ k.val → w.link j = s.work.link j))) ∧
  (∀ (s : State) (k : Fin 40) (pm : Nat) (t : Nat × Bool) (lanes : Fin 16), s.board.alive = true →
    (s.work.link k.val).train = some t → s.work.trainModes k.val pm = [] →
    Leads (.linkUp k ⟨pm, lanes⟩) s (fun w => w.flag (LINK_STATUS k.val) 0 = false ∧
      w.flag (LINK_STATUS k.val) (if (s.work.link k.val).lanes = 15 then 7 else 8) = true ∧
      (w.link k.val).train = none ∧ w.out = s.work.out)) ∧
  (∀ (s : State) (k : Fin 40) (pm m : Nat) (t : Nat × Bool) (lanes : Fin 16), s.board.alive = true → k.val < 36 →
    (s.work.link k.val).train = some t → s.work.direct k.val = true → (s.work.link k.val).queue = [] →
    (s.work.link k.val).answers = [] → s.work.flag (LINK_CFG k.val) 12 = false →
    bestMode (s.work.trainModes k.val pm) = some m →
    Leads (.linkUp k ⟨pm, lanes⟩) s (fun w => w.portUp k.val = true ∧ (w.link k.val).replay = (s.work.link k.val).replay ∧
      w.out = s.work.out ++ (s.work.link k.val).replay.map (fun r =>
        let q := s.work.stamp { r.2 with lack := (s.work.link k.val).rxSeq }
        .packet k.val q (s.work.encapOf k.val q)))) ∧
  (∀ (s : State) (k : Fin 40), s.board.alive = true → k.val < 36 → s.work.portUp k.val = true → (s.work.link k.val).queue = [] →
    (s.work.link k.val).answers = [] → (s.work.direct k.val = false ∨ s.work.replayRoom k.val (s.work.mkPkt 8 0xFFFF 0 0 0 0
      ([1, 0] ++ toBE 2 s.work.node ++ toBE 1 k.val)) = true) →
    Leads (.helloTimer k) s (fun w => w.now = max s.work.now (s.work.helloAt k.val) ∧ (w.link k.val).lastHello = w.now ∧
      w.rd (TX_FRAME_CNT k.val) = min (s.work.rd (TX_FRAME_CNT k.val) + 1) 0xFFFFFFFF ∧
      ∃ p, w.out = s.work.out ++ [.packet k.val p (s.work.encapOf k.val p)] ∧ p.type = 8 ∧ p.payload = [1, 0] ++ toBE 2 s.work.node ++ toBE 1 k.val)) ∧
  (∀ (s : State) (k : Fin 40), s.board.alive = true → s.work.portUp k.val = true → (s.work.link k.val).classed = false →
    Leads (.linkClassify k) s (fun w => (w.link k.val).classed = true ∧ w.now = max s.work.now ((s.work.link k.val).upAt + 100000) ∧
      ((s.work.link k.val).helloFrom = none → w.flag (LINK_STATUS k.val) 5 = false ∧ (w.link k.val).replay = [] ∧
        (w.link k.val).lost = none) ∧
      ((s.work.link k.val).helloFrom ≠ none → w.regs = s.work.regs))) ∧
  (∀ (s : State) (k : Fin 40) (node block : Nat), s.board.alive = true → k.val < 36 → block < 40 → node < 65536 →
    s.work.hears k.val = true → s.work.direct k.val = true ∨
      ((s.work.link k.val).classed = false ∧ s.work.now ≤ (s.work.link k.val).upAt + 100000) →
    Leads (.hello k node block) s (fun w => w.direct k.val = true ∧ w.fld (LINK_STATUS k.val) 16 16 = node ∧
      (w.link k.val).helloFrom = some node ∧ w.portUp k.val = true)) ∧
  (∀ (s : State) (p : Path) (k : Fin 40) (reduced : Bool), s.board.alive = true → s.work.modes k.val ≠ 0 →
    (ringPort k.val = true → s.work.bypState k.val = 3) → (reducedLanes (s.work.fld (LANE_STATUS k.val) 0 4)).isSome = true →
    let starts := fun (fast part : Bool) (w : Work) => (w.link k.val).train = some (s.work.now, fast) ∧
      w.flag (LINK_STATUS k.val) 0 = false ∧ w.flag (LINK_STATUS k.val) 9 = true ∧ (w.link k.val).partnerReduced = part ∧
      w.flag (LINK_STATUS k.val) 6 = part ∧ w.flag (LINK_STATUS k.val) 7 = false ∧ w.fld (LANE_STATUS k.val) 4 4 = 0 ∧
      w.portUp k.val = false ∧
      w.rd (RETRAIN_CNT k.val) =
        min (s.work.rd (RETRAIN_CNT k.val) + (if (s.work.link k.val).everUp then 1 else 0)) 0xFFFFFFFF ∧
      (∀ j, j ≠ k.val → w.link j = s.work.link j)
    (s.work.Writable p (LINK_CTL k.val) 1 → Leads (.retrain p k) s (starts false false)) ∧
    (s.work.flag (LINK_STATUS k.val) 0 = true → Leads (.partnerRetrain k reduced) s (starts true reduced)))

/-- R329, R331 to R334, R336, R340, R345, R355, R357: an intact frame is counted and taken in link sequence, and none but the one
awaited after a bad one, which is asked for again once and then charges the lane with the most errors of both; a frame above 9,216
bytes is no frame, a failed MACsec check is flagged. A replay sends the frames kept from its sequence on, each stamped anew and under
MACsec with a packet number of its own; a LACK frees those before it, 1 µs without a frame sends one; a pause stops its priority.

R358, R361, Table 9-9: a pair that listens reports its lock once, is armed by BYP_OPEN of the acting manager, and opens at the beat it
names or at BYP_OPEN_NOW; BYP_CLOSE stops both ports and closes it, and its BYP_STAT pin follows. -/
def Obligations.FramesAndRingPairsAreServed : Prop :=
  (
  (∀ (s : State) (k : Fin 40) (p : Packet), s.board.alive = true → k.val < 36 → s.work.portUp k.val = true →
    s.work.direct k.val = true → (s.work.link k.val).lost = none → p.lseq = (s.work.link k.val).rxSeq → p.lseq < 65536 →
    s.work.accepts p = true → (s.work.link k.val).queue = [] → (s.work.link k.val).answers = [] →
    s.work.frameBytes k.val p ≤ 9216 →
    Leads (.frameReceive k (.good p)) s (fun w => (w.link k.val).rxSeq = (p.lseq + 1) % 65536 ∧
      (w.link k.val).replay = (s.work.link k.val).replay.filter (fun r => seqFrom r.1 p.lack) ∧
      w.rd (RX_FRAME_CNT k.val) = min (s.work.rd (RX_FRAME_CNT k.val) + 1) 0xFFFFFFFF ∧ w.out = s.work.out ∧
      RegsKept s.work w [RX_FRAME_CNT k.val])) ∧
  (∀ (s : State) (k : Fin 40) (p : Packet) (x : Nat) (es : List Nat), s.board.alive = true → k.val < 36 →
    s.work.portUp k.val = true →
    (9216 < s.work.frameBytes k.val p → Gives (.frameReceive k (.good p)) s s.work) ∧
    (s.work.frameBytes k.val p ≤ 9216 → s.work.direct k.val = true → (s.work.link k.val).lost = some (x, es) →
      (p.lseq ≠ x → Gives (.frameReceive k (.good p)) s (s.work.inc (RX_FRAME_CNT k.val))) ∧
      (p.lseq = x → (s.work.link k.val).queue = [] → (s.work.link k.val).answers = [] → s.work.accepts p = true →
        Leads (.frameReceive k (.good p)) s (fun w => (w.link k.val).lost = none ∧ (w.link k.val).rxSeq = (x + 1) % 65536 ∧
          w.hears k.val = true ∧ w.rd (LRETRY_CNT k.val) = min (s.work.rd (LRETRY_CNT k.val) + 1) 0xFFFFFFFF ∧
          w.out = s.work.out)))) ∧
  (∀ (s : State) (k : Fin 40) (lseq : Nat) (errs : List Nat) (words : Nat), s.board.alive = true →
    s.work.portUp k.val = true → s.work.direct k.val = true → (s.work.link k.val).queue = [] → (s.work.link k.val).answers = [] →
    s.work.replayRoom k.val (s.work.mkPkt 8 0xFFFF 0 0 0 0
      ([3, 0] ++ toBE 2 lseq)) = true →
    ((s.work.link k.val).lost = none →
      Leads (.frameReceive k (.bad lseq errs words)) s (fun w => (w.link k.val).lost = some (lseq, errs) ∧
        w.rd (FEC_UNCORR_CNT k.val) = min (s.work.rd (FEC_UNCORR_CNT k.val) + words) 0xFFFFFFFF ∧ w.hears k.val = false ∧
        w.rd (FCS_ERR_CNT k.val) = min (s.work.rd (FCS_ERR_CNT k.val) + 1) 0xFFFFFFFF ∧
        ∃ p, w.out = s.work.out ++ [.packet k.val p (s.work.encapOf k.val p)] ∧ p.type = 8 ∧ p.payload = [3, 0] ++ toBE 2 lseq)) ∧
    (∀ es, (s.work.link k.val).lost = some (lseq, es) →
      Leads (.frameReceive k (.bad lseq errs words)) s (fun w =>
        w.rd (LRETRY_FAIL_CNT k.val) = min (s.work.rd (LRETRY_FAIL_CNT k.val) + 1) 0xFFFFFFFF ∧
        (List.range 4).any (fun lane => w.flag (LANE_STATUS k.val) lane && (List.range 4).all (fun l =>
          if l < lane then es.getD l 0 + errs.getD l 0 < es.getD lane 0 + errs.getD lane 0
          else es.getD l 0 + errs.getD l 0 ≤ es.getD lane 0 + errs.getD lane 0)) = true ∧
        w.flag (LINK_ERR k.val) 0 = true ∧ w.flag (LINK_ERR k.val) 1 = true))) ∧
  (∀ (s : State) (k : Fin 40), s.board.alive = true → s.work.portUp k.val = true →
    Gives (.frameReceive k .icv) s ((s.work.inc (ICV_FAIL_CNT k.val)).setBit (LINK_ERR k.val) 2) ∧
    Gives (.frameReceive k .other) s (s.work.inc (RX_FRAME_CNT k.val))) ∧
  (∀ (s : State) (k : Fin 40) (lseq : Nat), s.board.alive = true → s.work.direct k.val = true → s.work.hears k.val = true →
    (let rs := (s.work.link k.val).replay.filter (fun r => seqFrom r.1 lseq)
     let again := fun (r : Nat × Packet) => s.work.stamp { r.2 with lack := (s.work.link k.val).rxSeq }
     Leads (.replay k lseq) s (fun w => (w.link k.val).replay = (s.work.link k.val).replay ∧ w.mem = s.work.mem ∧
        w.rd (TX_FRAME_CNT k.val) = min (s.work.rd (TX_FRAME_CNT k.val) + rs.length) 0xFFFFFFFF ∧
        (s.work.flag (LINK_CFG k.val) 12 = false →
          w.out = s.work.out ++ rs.map (fun r => .packet k.val (again r) (s.work.encapOf k.val (again r)))) ∧
        (s.work.flag (LINK_CFG k.val) 12 = true → s.work.flag (LINK_CFG k.val) 13 = true →
          (w.link k.val).pn = (s.work.link k.val).pn + rs.length ∧
          w.out = s.work.out ++ rs.zipIdx.map (fun r => .packet k.val (again r.1)
            { s.work.encapOf k.val (again r.1) with pn := some ((s.work.link k.val).pn + r.2) })))) ∧
    ((s.work.link k.val).queue = [] → (s.work.link k.val).answers = [] →
      Gives (.linkAck k lseq) s (s.work.setLink k.val { s.work.link k.val with
        replay := (s.work.link k.val).replay.filter (fun r => seqFrom r.1 lseq) })) ∧
    ((s.work.link k.val).queue = [] → (s.work.link k.val).answers = [] →
      s.work.replayRoom k.val (s.work.mkPkt 8 0xFFFF 0 0 0 0 [2, 0]) = true →
      Leads (.linkAckTimer k) s (fun w => w.now = max s.work.now ((s.work.link k.val).lastTx + 1000) ∧
        ∃ p, w.out = s.work.out ++ [.packet k.val p (s.work.encapOf k.val p)] ∧ p.type = 8 ∧ p.payload = [2, 0] ∧ p.lack = (s.work.link k.val).rxSeq ∧
          p.lseq = (s.work.link k.val).txSeq))) ∧
  (∀ (s : State) (k : Fin 40) (prio : Fin 8) (ns : Nat), s.board.alive = true → s.work.portUp k.val = true →
    (s.work.link k.val).queue = [] → (s.work.link k.val).answers = [] →
    Gives (.pauseFrame k prio ns) s ((s.work.inc (PAUSE_RX_CNT k.val)).setLink k.val { s.work.link k.val with
      paused := Sp.put (s.work.link k.val).paused prio.val (s.work.now + ns) }))) ∧
  (
  (∀ (s : State) (b : Bool), s.board.alive = true → s.work.bypState (westPort b) = 1 →
    (s.work.link (westPort b)).listenLocked = false →
    Gives (.bypListenLock b) s { s.work.setLink (westPort b) { s.work.link (westPort b) with listenLocked := true } with
      out := s.work.out ++ [.ringReady b] }) ∧
  (∀ (s : State) (k : Fin 40) (p : Packet) (c : Ctrl), s.Hears k p 19 c → s.work.portUp k.val = true → c.body.length = 12 →
    s.work.mgr.mgrNode = some p.src → ringPort (beAt c.body 0 1) = true → s.work.bypState (beAt c.body 0 1) = 1 →
    let west := if beAt c.body 0 1 < 34 then 32 else 34
    Gives (.bypOpen k p) s (s.work.settled (((s.work.wr (BYP_OPEN_BEAT west) (beAt c.body 4 8 % 2 ^ 32)).setLink west
      { s.work.link west with openAt := some (beAt c.body 4 8) }).setFld (LINK_STATUS west) 10 2 2) p)) ∧
  (∀ (s : State) (b : Bool) (t : Nat), s.board.alive = true →
    let west := westPort b
    let opens := fun (w : Work) => w.bypState west = 3 ∧ w.bypState (west + 1) = 3 ∧ (w.link west).openAt = none ∧
      s.board.bypStat w b = true ∧
      (s.work.modes west ≠ 0 → (reducedLanes (s.work.fld (LANE_STATUS west) 0 4)).isSome = true →
        (w.link west).train = some (s.work.now, true)) ∧
      (s.work.modes (west + 1) ≠ 0 → (reducedLanes (s.work.fld (LANE_STATUS (west + 1)) 0 4)).isSome = true →
        (w.link (west + 1)).train = some (s.work.now, true)) ∧
      (∀ j, j ≠ west → j ≠ west + 1 → w.link j = s.work.link j)
    ((s.work.link west).openAt = some t → s.work.bypState west = 2 → beatBefore s.work.beatFull t = false →
      Leads (.bypOpenBeat b) s opens) ∧
    (∀ (p : Path) (k : Fin 40), k.val = west → s.work.Writable p (LINK_CTL west) 2 → s.work.bypState west = 1 →
      Leads (.bypOpenNow p k) s opens) ∧
    (∀ (p : Path) (k : Fin 40), k.val = west → s.work.Writable p (LINK_CTL west) 4 → s.work.bypState west = 3 →
      Leads (.bypClose p k) s (fun w => w.bypState west = 0 ∧ s.board.bypStat w b = false ∧ w.portUp west = false ∧ w.portUp (west + 1) = false ∧
        (w.link west).train = none ∧ (∀ j, j ≠ west → j ≠ west + 1 → w.link j = s.work.link j)))))

/-! ### The Rosder transport -/

/-- R315, R316, R326, R337, R338, R342, R564: a DATA or READ_RESP packet next in its flow stores its block of 4,096 bytes, or is answered
by NAK CHECK where the check fails at first; a READ_REQ has its blocks sent on the requester's queue, LAST on the last alone; each is
taken in its flow, and waits while a stack that it meets zeroises.

R342, R343, Table 9-7: an ACK frees what it covers, NAK GAP and CHECK resend, NOT_READY waits, INVALID counts as delivered; 1 µs
after the oldest unacknowledged packet an ACK goes; RTO resends with RETX set, up to RTX_MAX times, and then, or where a packet
is older than MSG_LIFE, abandons the flow: none of its packets is left to send. -/
def Obligations.BlocksTravelAndFlowsAreAcknowledged : Prop :=
  (
  (∀ (s : State) (k : Fin 40) (p : Packet) (cmd : Instr), ((cmd = .data k p ∧ s.Receives k p 0) ∨ (cmd = .readResp k p ∧ s.Receives k p 11)) →
    dataOk p = true →
    let b := blockOf p
    (s.work.packetServed p = false →
      Gives cmd s { s.work with parked := s.work.parked ++ [(s.work.issuer (1040 + k.val), .packet p)] }) ∧
    (s.work.packetServed p = true → crc32c (b.data ++ toBE 2 b.poisonMap) = b.check →
      Leads cmd s (fun w => w.bytes (beAt p.payload 0 8) 4096 = sub p.payload 16 4096 ∧
        (∀ a, a < beAt p.payload 0 8 ∨ beAt p.payload 0 8 + 4096 ≤ a → w.byte a = s.work.byte a) ∧
        (w.rxFlow p).next = ((s.work.rxFlow p).next + 1) % 2 ^ 32 ∧
        w.rd (TBLK_RETRY_CNT (stackOf (beAt p.payload 0 8)).1) = min (s.work.rd (TBLK_RETRY_CNT (stackOf (beAt p.payload 0 8)).1) +
          if (s.work.rxFlow p).retry then 1 else 0) 0xFFFFFFFF ∧
        (∀ i < 16, w.poisoned (beAt p.payload 0 8 + 256 * i) 256 = b.poisonMap.testBit i))) ∧
    (s.work.packetServed p = true → crc32c (b.data ++ toBE 2 b.poisonMap) ≠ b.check → (s.work.rxFlow p).retry = false →
      Leads cmd s (fun w => w.mem = s.work.mem ∧ w.poison = s.work.poison ∧ (w.rxFlow p).retry = true ∧
        (w.rxFlow p).next = (s.work.rxFlow p).next ∧
        w = (s.work.setRx p { s.work.rxFlow p with retry := true }).answer p 3 p.psn 2)) ∧
    (s.work.packetServed p = true → crc32c (b.data ++ toBE 2 b.poisonMap) ≠ b.check → (s.work.rxFlow p).retry = true →
      Leads cmd s (fun w => (∀ i < 16, w.poisoned (beAt p.payload 0 8 + 256 * i) 256 = true) ∧
        w.rd LASTING_CNT = min (s.work.rd LASTING_CNT + 1) 0xFFFFFFFF ∧
        (w.rxFlow p).next = ((s.work.rxFlow p).next + 1) % 2 ^ 32))) ∧
  (∀ (s : State) (k : Fin 40) (p : Packet), s.Receives k p 10 → readOk p = true → s.work.packetServed p = true →
    let l := p.payload
    let key := flowKey p.src (beAt l 12 2)
    Sp.find s.work.txFlows key = none →
    Leads (.readReq k p) s (fun w => w.mem = s.work.mem ∧ (w.rxFlow p).next = ((s.work.rxFlow p).next + 1) % 2 ^ 32 ∧
      ∃ f, Sp.find w.txFlows key = some f ∧ f.unacked.map (fun u => (u.2.type, u.2.dst, u.2.flags.testBit 4, u.2.payload)) =
        (List.range (beAt l 8 4)).map (fun i => (11, p.src, i + 1 == beAt l 8 4,
          s.work.blockPayload (beAt l 0 8 + 4096 * i) (beAt l 16 8 + 4096 * i)))))) ∧
  (
  (∀ (s : State) (k : Fin 40) (p : Packet) (f : TxFlow), s.Receives k p 2 → Sp.find s.work.txFlows (flowKey p.src p.wq) = some f →
    f.waiting = [] → (∃ u ∈ f.unacked, psnUpTo u.2.psn p.psn = true) →
    Leads (.ack k p) s (fun w => Sp.find w.txFlows (flowKey p.src p.wq) = some { f with
        unacked := f.unacked.filter (fun u => !psnUpTo u.2.psn p.psn), timeouts := 0, since := s.work.now } ∧
      (∀ key, key ≠ flowKey p.src p.wq → Sp.find w.txFlows key = Sp.find s.work.txFlows key) ∧
      w.mem = s.work.mem ∧ w.regs = s.work.regs ∧ w.out = s.work.out)) ∧
  (∀ (s : State) (k : Fin 40) (p : Packet) (f : TxFlow), s.Receives k p 3 → Sp.find s.work.txFlows (flowKey p.src p.wq) = some f →
    f.abandoned = false →
    (p.nakCode = 1 ∨ p.nakCode = 2 →
      (∀ u ∈ f.unacked, beatsAhead u.1 s.work.beatFull ≤ s.work.msgLife) →
      Gives (.nak k p) s ((f.unacked.filter (fun u => psnUpTo p.psn u.2.psn)).foldl
        (fun (v : Work) u => v.sendRouted { u.2 with flags := putBits u.2.flags 1 1 1 })
        { s.work with txFlows := Sp.put s.work.txFlows (flowKey p.src p.wq) { f with since := s.work.now, rnr := none } })) ∧
    (p.nakCode = 3 → Gives (.nak k p) s { s.work with
      txFlows := Sp.put s.work.txFlows (flowKey p.src p.wq) { f with rnr := some (s.work.now + s.work.rnrNs, p.psn) } }) ∧
    (p.nakCode = 4 → Leads (.nak k p) s (fun w => w.flag TRANSPORT_ERR 3 = true ∧
      w.rd NAK_RX_CNT = min (s.work.rd NAK_RX_CNT + 1) 0xFFFFFFFF ∧ w.mem = s.work.mem))) ∧
  (∀ (s : State) (node queue : Nat) (f : RxFlow), s.board.alive = true → queue < 65536 →
    Sp.find s.work.rxFlows (flowKey node queue) = some f → f.unacked ≠ 0 →
    let v := { s.work with
      now := max s.work.now (f.since + 1000)
      rxFlows := Sp.put s.work.rxFlows (flowKey node queue) { f with unacked := 0 } }
    Gives (.ackTimer node queue) s (v.sendRouted { v.mkPkt 2 node f.job 0 queue 0 [] with psn := (f.next + 2 ^ 32 - 1) % 2 ^ 32 })) ∧
  (∀ (s : State) (node queue t psn : Nat) (f : TxFlow), s.board.alive = true →
    Sp.find s.work.txFlows (flowKey node queue) = some f → f.rnr = some (t, psn) →
    (∀ u ∈ f.unacked, beatsAhead u.1 s.work.beatFull ≤ s.work.msgLife) →
    Leads (.rnrDelayExpire node queue) s (fun w => w.now = max s.work.now t ∧
      (∃ g, Sp.find w.txFlows (flowKey node queue) = some g ∧ g.rnr = none ∧ g.unacked = f.unacked) ∧ w.mem = s.work.mem)) ∧
  (∀ (s : State) (node queue : Nat) (f : TxFlow) (u : Nat × Packet) (rest : List (Nat × Packet)), s.board.alive = true →
    Sp.find s.work.txFlows (flowKey node queue) = some f → f.unacked = u :: rest → f.abandoned = false →
    (f.timeouts < s.work.rtxMax → (∀ x ∈ f.unacked, beatsAhead x.1 s.work.beatFull ≤ s.work.msgLife) →
      Leads (.rtxTimeout node queue) s (fun w => w.now = max s.work.now (f.since + s.work.rtoNs) ∧
        (∃ g, Sp.find w.txFlows (flowKey node queue) = some g ∧ g.timeouts = f.timeouts + 1 ∧ g.unacked = f.unacked ∧ g.since = w.now) ∧
        w.rd RTX_CNT = min (s.work.rd RTX_CNT + 1) 0xFFFFFFFF)) ∧
    (s.work.rtxMax ≤ f.timeouts ∨ (s.work.resendable u.2.psn f).2 = true →
      Leads (.rtxTimeout node queue) s (fun w =>
        (∃ g, Sp.find w.txFlows (flowKey node queue) = some g ∧ g.abandoned = true ∧ g.unacked = [] ∧ g.waiting = []) ∧
        (∀ l ∈ w.links, ∀ q ∈ l.2.queue, ofFlow (flowKey node queue) q = false) ∧ w.rd RTX_CNT = s.work.rd RTX_CNT ∧
        w.flag TRANSPORT_ERR 2 = true ∧ w.rd RTX_FAIL_CNT = min (s.work.rd RTX_FAIL_CNT + 1) 0xFFFFFFFF))))

/-- R347 to R349, R351: OPEN makes a FREE entry ACTIVE at the generation after its last, and refuses another; FREE, or the beat that
JOB_FREE named, puts it in QUARANTINE for twice MSG_LIFE, at whose end it is FREE; the quarantine of reset runs from
beat lock. -/
def Obligations.JobsOpenFreeAndRest : Prop :=
  (∀ (s : State) (p : Path) (j g : Nat), s.board.alive = true → j < 65536 → g < 256 →
    s.work.Writable p JOB_CMD (j + 65536 * g + 2 ^ 24) →
    let e := s.work.jobEnt j
    (j ≠ 0 → (e.state = 0 ∨ (e.state = 2 ∧ s.work.jobBusy j = false)) → (e.anyGen = true ∨ g = (e.gen + 1) % 256) → s.work.fld ACTIVE_JOBS 0 9 < 256 →
      Leads (.jobCmdOpen p j g) s (fun w => (w.jobEnt j).state = 1 ∧ (w.jobEnt j).gen = g ∧ (w.jobEnt j).anyGen = false ∧
        w.fld ACTIVE_JOBS 0 9 = s.work.fld ACTIVE_JOBS 0 9 + 1 ∧ (∀ i, i ≠ j → w.jobEnt i = s.work.jobEnt i) ∧ w.mem = s.work.mem)) ∧
    (j = 0 ∨ e.state = 1 ∨ (e.anyGen = false ∧ g ≠ (e.gen + 1) % 256) →
      Leads (.jobCmdOpen p j g) s (fun w => w.flag TRANSPORT_ERR 0 = true ∧ w.jobs = s.work.jobs ∧ w.mem = s.work.mem))) ∧
  (∀ (s : State) (j : Nat), s.board.alive = true → j ≠ 0 → j < 65536 → (s.work.jobEnt j).state = 1 →
    1 ≤ s.work.fld ACTIVE_JOBS 0 9 →
    let rests := fun (w : Work) => (w.jobEnt j).state = 2 ∧ (w.jobEnt j).gen = (s.work.jobEnt j).gen ∧
      (w.jobEnt j).until_ = some (beatAdd s.work.beatFull (2 * s.work.msgLife)) ∧
      w.fld ACTIVE_JOBS 0 9 = s.work.fld ACTIVE_JOBS 0 9 - 1 ∧ (∀ f ∈ w.txFlows, f.2.job ≠ j) ∧ (∀ f ∈ w.rxFlows, f.2.job ≠ j) ∧
      (∀ i, i ≠ j → w.jobEnt i = s.work.jobEnt i) ∧ w.mem = s.work.mem
    (∀ (p : Path) (g : Nat), g < 256 → s.work.Writable p JOB_CMD (j + 65536 * g + 2 ^ 25) → Leads (.jobCmdFree p j g) s rests) ∧
    (∀ b, (s.work.jobEnt j).freeAt = some b → beatBefore s.work.beatFull b = false → Leads (.jobFreeBeat j) s rests) ∧
    (∀ b, (s.work.jobEnt j).freeAt = some b → beatBefore s.work.beatFull b = true → Gives (.jobFreeBeat j) s s.work)) ∧
  (∀ (s : State) (j u : Nat), s.board.alive = true → (s.work.jobEnt j).state = 2 → s.work.quarEnd j = some u →
    (((s.work.jobEnt j).until_ = none → ∃ l, s.work.lockAt = some l ∧ u = beatAdd l (2 * s.work.msgLife))) ∧
    (beatBefore s.work.beatFull u = false → Gives (.quarantineEnd j) s { s.work with
      jobs := Sp.put s.work.jobs j { s.work.jobEnt j with state := 0, until_ := none } }) ∧
    (beatBefore s.work.beatFull u = true → Gives (.quarantineEnd j) s s.work))

/-- R311, R326, R340, R341, R352 to R354: a host's WRITE or READ on a queue bound to its endpoint, inside a window that its key, port and
operation match, reaches memory or a register and is answered by an acknowledgement or its bytes, by a remote access error outside
every window, by a remote operational error where a line is poisoned, by invalid request where it is not supported, after a congestion
notification where it is marked; it waits while a stack zeroises, and its answer while class 4 is paused. A packet of an unbound
queue is dropped. -/
def Obligations.HostAccessesKeepToTheirWindows : Prop :=
  let answered := fun (v : Work) (h : Roce) (o : Out) (frames : Nat) (w : Work) =>
    let os := (if h.marked then [(.roceCnp h.host.val, 1)] else []) ++ [(o, frames)]
    w.out = v.out ++ os.map (·.1) ∧ (w.link (36 + h.host.val)).answers = [] ∧
      w.rd (TX_FRAME_CNT (36 + h.host.val)) = min (v.rd (TX_FRAME_CNT (36 + h.host.val)) + (os.map (·.2)).sum) 0xFFFFFFFF
  let reaches := fun (s : State) (h : Roce) => s.board.alive = true ∧ s.work.portUp (36 + h.host.val) = true ∧
    s.work.roceBound h = true ∧ h.bound = none ∧ (s.work.link (36 + h.host.val)).answers = [] ∧
    Sp.find (s.work.link (36 + h.host.val)).paused 1 = none
  (∀ (s : State) (h : Roce) (rkey a n : Nat) (d : List Byte), reaches s h →
    ((s.work.hostWindow h.host.val 1 rkey a d.length = none ∧ d.length ≤ 2 ^ 31) →
      Leads (.roceWrite h.toRocePeer h.marked rkey a d) s (fun w => answered s.work h (.roceNak h.host.val "remote access error") 1 w ∧
        w.mem = s.work.mem ∧ w.poison = s.work.poison ∧ RegsKept s.work w [TX_FRAME_CNT (36 + h.host.val)])) ∧
    ((s.work.hostWindow h.host.val 0 rkey a n = none ∧ n ≤ 2 ^ 31 ∧ s.work.readsOpen h < 16) →
      Leads (.roceRead h.toRocePeer h.marked rkey a n) s (fun w => answered s.work h (.roceNak h.host.val "remote access error") 1 w ∧
        w.mem = s.work.mem ∧ w.poison = s.work.poison ∧ RegsKept s.work w [TX_FRAME_CNT (36 + h.host.val)])) ∧
    (2 ^ 31 < n ∨ 16 ≤ s.work.readsOpen h →
      Leads (.roceRead h.toRocePeer h.marked rkey a n) s (answered s.work h (.roceNak h.host.val "invalid request") 1)) ∧
    Leads (.roceInvalidRequest h.toRocePeer h.marked) s (fun w => answered s.work h (.roceNak h.host.val "invalid request") 1 w ∧
      w.mem = s.work.mem ∧ w.poison = s.work.poison ∧ RegsKept s.work w [TX_FRAME_CNT (36 + h.host.val)])) ∧
  (∀ (s : State) (h : Roce) (rkey a : Nat) (d : List Byte) (x : Nat × Nat × Nat × Nat × Nat), reaches s h →
    s.work.windows = [x] → x.1 ≤ a → a + d.length ≤ x.1 + x.2.1 → x.2.2.1 = rkey → d.length ≤ 2 ^ 31 →
    s.work.readsOpen h < 16 → x.2.2.2.2.testBit h.host.val = true → x.2.2.2.1.testBit 2 = false → inStacks a d.length = true →
    (s.work.rangeServes a d.length = true →
      (x.2.2.2.1.testBit 1 = true →
        Leads (.roceWrite h.toRocePeer h.marked rkey a d) s (fun w => w.bytes a d.length = d ∧
          (∀ y, y < a ∨ a + d.length ≤ y → w.byte y = s.work.byte y) ∧ answered s.work h (.roceAck h.host.val) 1 w)) ∧
      (x.2.2.2.1.testBit 0 = true → (∀ l ∈ linesOf a d.length, s.work.poisoned l.1 l.2 = false) →
        Leads (.roceRead h.toRocePeer h.marked rkey a d.length) s (fun w => answered s.work h (.roceData h.host.val (s.work.bytes a d.length))
            (max 1 (ceilDiv d.length (s.work.roceMtu h))) w ∧ w.mem = s.work.mem ∧ w.poison = s.work.poison)) ∧
      (x.2.2.2.1.testBit 0 = true → (∃ l ∈ linesOf a d.length, s.work.poisoned l.1 l.2 = true) →
        Leads (.roceRead h.toRocePeer h.marked rkey a d.length) s (fun w =>
          answered s.work h (.roceNak h.host.val "remote operational error") 1 w ∧ w.mem = s.work.mem))) ∧
    (s.work.rangeServes a d.length = false → h.marked = false →
      (x.2.2.2.1.testBit 1 = true → Gives (.roceWrite h.toRocePeer h.marked rkey a d) s
        { s.work with parked := s.work.parked ++ [(s.work.issuer (1076 + h.host.val), .hostWrite h a d)] }) ∧
      (x.2.2.2.1.testBit 0 = true → Gives (.roceRead h.toRocePeer h.marked rkey a d.length) s
        { s.work with parked := s.work.parked ++ [(s.work.issuer (1076 + h.host.val), .hostRead h a d.length)] }))) ∧
  (∀ (s : State) (h : Roce) (rkey a : Nat) (x : Nat × Nat × Nat × Nat × Nat), reaches s h → s.work.readsOpen h < 16 →
    s.work.hostWindow h.host.val 0 rkey a 4 = some x → x.2.2.2.1.testBit 2 = true →
    (a % 4 ≠ 0 → Leads (.roceRead h.toRocePeer h.marked rkey a 4) s (answered s.work h (.roceNak h.host.val "remote access error") 1)) ∧
    (a = NODE → s.work.Readable (.host h.host) a →
      Leads (.roceRead h.toRocePeer h.marked rkey a 4) s (fun w => answered s.work h (.roceData h.host.val (toLE 4 (s.work.rd NODE)))
        (max 1 (ceilDiv 4 (s.work.roceMtu h))) w ∧ w.mem = s.work.mem))) ∧
  (∀ (s : State) (h : Roce), s.board.alive = true → s.work.portUp (36 + h.host.val) = true →
    (h.bound = none → s.work.roceBound h = false → Gives (.roceInvalidRequest h.toRocePeer h.marked) s (s.work.inc WQ_DROP_CNT)) ∧
    (∀ m, h.bound = some m → s.work.hostBase ≤ h.wq → h.wq < 65536 →
      Leads (.roceInvalidRequest h.toRocePeer h.marked) s (fun w => Sp.find w.qps h.wq = some (h.host.val, h.qp, 1024 * 2 ^ m.val) ∧
        w.rd WQ_DROP_CNT = s.work.rd WQ_DROP_CNT)) ∧
    (∀ t, h.bound = none → s.work.roceBound h = true → Sp.find (s.work.link (36 + h.host.val)).paused 1 = some t → s.work.now < t →
      Leads (.roceInvalidRequest h.toRocePeer h.marked) s (fun w => w.out = s.work.out ∧ (w.link (36 + h.host.val)).answers =
        (s.work.link (36 + h.host.val)).answers ++ (if h.marked then [(.roceCnp h.host.val, 1)] else []) ++
          [(.roceNak h.host.val "invalid request", 1)])))

/-! ### Reduction -/

/-- R315, R317 to R319, R321, R322, R326: a contribution whose turn it is is added in FP32, the first one stored, a poisoned one as +0 with
its lines marked; the last frees the tracker and advances NOTIFY; one that comes before its turn is held. One that fails its check at
first is asked for again; one whose stack zeroises waits.

R374, R375, R377, R378: a RING packet whose stage is not open is held; one at a member that does not own its shard goes on with
this device's segment added and one more hop; a stage that waited opens with a context of its adder; a bucket's slot completes once
every segment of it is written, and no sooner.

R383, R384, R388: the acting manager merges a report's exponents, the last for an index counting; a member keeps an update for
its catch, and flags one that comes too late; a redo notice is kept with its exponent. -/
def Obligations.ReductionsAddTravelAndComplete : Prop :=
  (
  ∀ (s : State) (k : Fin 40) (p : Packet) (c : Contribution), s.Receives k p 1 → contribOf p false = some c →
    malformedContrib c = false → s.work.red = {} → (∀ j < 36, (s.work.link j).held = []) →
    (s.work.packetServed p = false → Leads (.accContribution k p) s (fun w =>
      w.parked = s.work.parked ++ [(s.work.issuer (1040 + k.val), .packet p)] ∧ w.mem = s.work.mem ∧
        w.memcs = s.work.memcs ∧ w.rxFlows = s.work.rxFlows)) ∧
    (s.work.packetServed p = true → crc32c (c.data ++ toBE 2 c.poisonMap) ≠ beAt p.payload (p.payload.length - 8) 4 →
      (s.work.rxFlow p).retry = false → Leads (.accContribution k p) s (fun w => w.mem = s.work.mem ∧ w.memcs = s.work.memcs ∧
        (w.rxFlow p).retry = true ∧ (w.rxFlow p).next = (s.work.rxFlow p).next)) ∧
    (s.work.packetServed p = true → crc32c (c.data ++ toBE 2 c.poisonMap) = beAt p.payload (p.payload.length - 8) 4 →
    let m := (stackOf c.dest).1
    let t := (s.work.memc m).trackers.find? (fun t => t.covers c)
    let next := match t with | some t => t.next | none => 0
    (s.work.memc m).held = [] → (∀ x, t = some x → x.count = c.count) → (t = none → (s.work.memc m).trackers.length < 4096) →
    (c.seq = next → (c.notify = 0 ∨ c.notify + 4 ≤ c.dest ∨ c.dest + 4096 ≤ c.notify) →
      Leads (.accContribution k p) s (fun w =>
        (let vs := if c.poisonMap = 0 then contribValues c else List.replicate 1024 0
         w.wordsAt c.dest 1024 = if c.seq = 0 then vs else (s.work.wordsAt c.dest 1024).zipWith fadd vs) ∧
        (∀ a, (a < c.dest ∨ c.dest + 4096 ≤ a) →
          (c.seq + 1 = c.count → c.notify ≠ 0 → a < c.notify ∨ c.notify + 4 ≤ a) → w.byte a = s.work.byte a) ∧
        (c.seq + 1 = c.count → c.notify ≠ 0 → w.num c.notify 4 = (s.work.num c.notify 4 + 1) % 2 ^ 32) ∧
        (∀ i ∈ contribLines c, w.poisoned (c.dest + 256 * i) 256 = true) ∧
        w.rd (RACC_CNT m) = min (s.work.rd (RACC_CNT m) + 1) 0xFFFFFFFF ∧
        (c.seq + 1 = c.count → ∀ x ∈ (w.memc m).trackers, x.covers c = false) ∧
        (c.seq + 1 < c.count → ∃ x ∈ (w.memc m).trackers, x.covers c = true ∧ x.next = c.seq + 1) ∧
        (w.rxFlow p).next = ((s.work.rxFlow p).next + 1) % 2 ^ 32)) ∧
    (next < c.seq →
      Leads (.accContribution k p) s (fun w => w.mem = s.work.mem ∧ (w.memc m).held = [c] ∧
        w.rd (RACC_HOLD_CNT m) = min (s.work.rd (RACC_HOLD_CNT m) + 1) 0xFFFFFFFF ∧
        (w.rxFlow p).next = ((s.work.rxFlow p).next + 1) % 2 ^ 32)))) ∧
  (
  (∀ (s : State) (k : Fin 40) (p : Packet) (r : Ring), s.Receives k p 9 → ringOf p = some r → s.work.red = {} →
    (∀ j < 36, (s.work.link j).held = []) →
    Leads (.ringPacket k p) s (fun w => (w.link k.val).held = [p] ∧ w.mem = s.work.mem ∧
      w.rd (ADD_HOLD_CNT k.val) = min (s.work.rd (ADD_HOLD_CNT k.val) + 1) 0xFFFFFFFF)) ∧
  (∀ (s : State) (k : Fin 40) (p : Packet) (r : Ring) (key : Nat) (b : Bucket), s.Receives k p 9 → ringOf p = some r →
    s.work.red = { buckets := [(key, b)] } → b.stages.length = 1 → (∀ j < 36, (s.work.link j).held = []) →
    s.work.ringStage k.val r = some (key, b) → r.fits b = true → r.intact = true → r.gather = false → (b.stage 0).pos ≠ r.shard →
    b.redo = [] →
    let tx := (b.stage 0).tx
    s.work.portUp tx = true → (s.work.link tx).queue = [] → (s.work.link tx).paused = [] → (s.work.link tx).answers = [] → s.work.direct tx = false →
    let sums := ((segsOf (r.seg, r.nseg)).zipIdx).map (fun q =>
      let a := r.values 1 q.2
      let o := s.work.contribSeg (b.inputAt 0 q.1)
      (r.xexp.getD q.2 0, a.1.zipWith fadd o.1, a.2 ||| o.2))
    Leads (.ringPacket k p) s (fun w => w.mem = s.work.mem ∧
      w.rd (ADD_PKT_CNT k.val) = min (s.work.rd (ADD_PKT_CNT k.val) + 1) 0xFFFFFFFF ∧
      ∃ (q : Packet) (r' : Ring), w.out = s.work.out ++ [Out.packet tx q (s.work.encapOf tx q)] ∧ q.type = 9 ∧ q.payload = Ring.payload r' ∧ r'.hops = r.hops + 1 ∧
        r'.shard = r.shard ∧ r'.seg = r.seg ∧ r'.nseg = r.nseg ∧ r'.gather = false ∧ r'.data = (narrowPacket 1 sums).1)) ∧
  (∀ (s : State) (c : Fin 1024) (slot : Nat) (b : Bucket) (st : Stage), s.board.alive = true → slot < 4096 →
    s.work.red = { buckets := [(4096 * c.val + slot, b)] } → b.stages = [st] → st.ring = true → st.waited = true →
    st.isOpen = false → 2 ≤ st.n → b.redo = [] → (s.work.link st.rx).ctxs.length < 64 → (∀ j < 36, (s.work.link j).held = []) →
    Leads (.adderStageOpen c slot 0) s (fun w => (∃ b', w.bucket (4096 * c.val + slot) = some b' ∧
      (b'.stage 0).isOpen = true ∧ (b'.stage 0).waited = false ∧ b'.written = b.written) ∧
      (w.link st.rx).ctxs = (s.work.link st.rx).ctxs ++ [(4096 * c.val + slot, 0)] ∧ w.mem = s.work.mem)) ∧
  (∀ (s : State) (c : Fin 1024) (slot : Nat) (b : Bucket), s.board.alive = true → slot < 4096 →
    s.work.bucket (4096 * c.val + slot) = some b → b.done = false → (∀ st ∈ b.stages, st.isOpen = false) →
    ((∃ i < b.segs, i ∉ b.written) → Gives (.bucketDone c slot) s s.work) ∧
    ((∀ i < b.segs, i ∈ b.written) → (s.work.cox c.val).state slot ≠ 3 →
      Leads (.bucketDone c slot) s (fun w => w.bucket (4096 * c.val + slot) = some { b with done := true } ∧
        (w.cox c.val).state slot = 3)))) ∧
  (
  (∀ (s : State) (k : Fin 40) (p : Packet) (c : Ctrl) (es : List (Nat × Int)), s.Hears k p 14 c → s.work.acting = true →
    scaleEntries c.body = some es →
    let n := beAt c.body 0 2
    Gives (.scaleReport k p) s (s.work.settled (s.work.setMcrew n { s.work.mcrew n with
      scales := (s.work.mcrew n).scales.filter (fun e => !es.any (fun f => f.1 == e.1)) ++ es
      scaleDue := beatAdd (beAt c.body 4 8) (max 64 (s.work.fld SCALE_CFG 16 16)) }) p)) ∧
  (∀ (s : State) (k : Fin 40) (p : Packet) (c : Ctrl) (es : List (Nat × Int)), s.Hears k p 15 c →
    s.work.mgr.mgrNode = some p.src → scaleEntries c.body = some es →
    (beatBefore s.work.beatFull (beAt c.body 4 8) = true →
      Leads (.scaleUpdate k p) s (fun w => w.red.updates = s.work.red.updates ++ [(beAt c.body 4 8, es)] ∧
        w.flag RED_STATUS 8 = true ∧ w.mem = s.work.mem ∧ w.red.scaleLate = s.work.red.scaleLate)) ∧
    (beatBefore s.work.beatFull (beAt c.body 4 8) = false →
      Leads (.scaleUpdate k p) s (fun w => w.red.updates = s.work.red.updates ∧ w.red.scaleLate = true ∧
        w.flag RED_ERR 1 = true ∧ w.mem = s.work.mem))) ∧
  (∀ (s : State) (k : Fin 40) (p : Packet) (c : Ctrl) (key : Nat) (b : Bucket) (st0 st1 : Stage), s.Hears k p 16 c →
    s.work.red = { buckets := [(key, b)] } → (∀ j < 36, (s.work.link j).held = []) → b.stages = [st0, st1] →
    b.num = beAt c.body 0 2 → st1.isOpen = true → st1.ring = false → p.src ∈ st1.nodes → c.body.length = 16 →
    beAt c.body 2 1 = 1 → allZero (sub c.body 8 8) = true → beAt c.body 4 4 ∈ segsOf (b.own 0) →
    (∃ q ∈ segsOf (b.own 0), q ≠ beAt c.body 4 4 ∧ q ∉ b.written ∧ Sp.find b.redo q = none) →
    Leads (.redo k p) s (fun w => w.bucket key = some { b with
      redo := Sp.put b.redo (beAt c.body 4 4) (sext 8 (beAt c.body 3 1)) } ∧ w.mem = s.work.mem)))

/-! ### The domain: manager, nodes, checkpoints, restores -/

/-- R394, R395, R423 to R425: from lock on the manager claims its domain once per 1,024 beats, with the node and generation of its
first claim; a worker follows a CLAIM; a deputy without markers asks for the domain, and takes it over with more than half of the
positioned workers, or gives up after eight beats; a CLAIM of the generation after its
own deposes the manager, as DEPOSED does; a device strapped manager that does not act notes the generation of either. -/
def Obligations.TheDomainIsClaimedAndTakenOver : Prop :=
  (∀ (s : State) (e : NodeEnt), s.board.alive = true → s.work.mayClaim s.board = true → s.work.turn1024 s.work.mgr.lastClaim = true →
    (s.work.acting = true → Leads .claimTimer s (fun w => w.mgr.lastClaim = some s.work.beatFull ∧
      w.mgr.msgId = (if s.work.node = 0xFFFF then s.work.mgr.msgId else (s.work.mgr.msgId + 1) % 2 ^ 32) ∧
      w.mgr.mgrNode = s.work.mgr.mgrNode ∧ w.mem = s.work.mem)) ∧
    (s.work.acting = false → s.work.nodeTable.find? (fun e => e.kind == 4 && e.ident == identBytes) = some e →
      Leads .claimTimer s (fun w => w.node = e.node ∧ w.acting = true ∧ w.mgr.mgrNode = some e.node ∧
        w.jobGen 0 = (match s.work.mgr.repGen with | some r => (r + 1) % 256 | none => 1) ∧
        w.mgr.lastClaim = some s.work.beatFull ∧ w.mgr.claimedAt = s.work.beatFull ∧ w.mem = s.work.mem)) ∧
    (s.work.acting = false → s.work.nodeTable.find? (fun e => e.kind == 4 && e.ident == identBytes) = none →
      Gives .claimTimer s (s.work.setFld MGR_STATUS 0 2 3))) ∧
  (∀ (s : State) (k : Fin 40) (p : Packet) (c : Ctrl), s.Hears k p 1 c → c.body.length = 8 →
    s.work.inDomain (beAt c.body 0 2) = true → s.work.beatSrc ≠ 2 →
    (s.work.acting = true → Gives (.claim k p) s (s.work.settled
      (if beAt c.body 2 1 = (s.work.jobGen 0 + 1) % 256 then s.work.depose else s.work) p)) ∧
    (s.work.acting = false → s.board.role = 2 → Gives (.claim k p) s (s.work.settled { s.work with
      mgr := { s.work.mgr with repGen := some (beAt c.body 2 1) } } p)) ∧
    (s.work.acting = false → s.board.role ≠ 2 → Leads (.claim k p) s (fun w => w.mgr.mgrNode = some p.src ∧
      w.mgr.depNode = (if beAt c.body 4 2 = 0xFFFF then none else some (beAt c.body 4 2)) ∧ w.mgr.claimSeen = true ∧
      ((s.work.jobEnt 0).anyGen = true → w.jobGen 0 = beAt c.body 2 1) ∧
      ((s.work.jobEnt 0).anyGen = false → w.jobGen 0 = s.work.jobGen 0)))) ∧
  (∀ (s : State) (k : Fin 40) (p : Packet) (c : Ctrl), s.Hears k p 22 c →
    (s.work.acting = true → Gives (.deposed k p) s
      (s.work.settled ((s.work.setBit MGR_STATUS 6).setFld MGR_STATUS 0 2 0) p)) ∧
    (s.work.acting = false → s.board.role = 2 → Gives (.deposed k p) s (s.work.settled { s.work with
      mgr := { s.work.mgr with repGen := some (beAt c.body 0 1) } } p))) ∧
  (∀ s : State, s.board.alive = true → s.work.fld MGR_STATUS 0 2 = 1 → s.work.locked = true →
    s.work.depWait ≤ s.work.beat.sinceMarker →
    (∀ x, s.work.mgr.takeover = some x → s.work.mgr.takeoverAt = some s.work.beatFull → Gives .takeoverTimer s s.work) ∧
    (s.work.mgr.takeover = none → Leads .takeoverTimer s (fun w => w.mgr.takeover = some (s.work.beatFull, [], []) ∧ w.mgr.mgrNode = s.work.mgr.mgrNode ∧
      w.mgr.takeoverAt = some s.work.beatFull ∧ w.fld MGR_STATUS 0 2 = 1 ∧ w.mem = s.work.mem))) ∧
  (∀ (s : State) (k : Fin 40) (p : Packet) (c : Ctrl), s.Hears k p 20 c → c.body.length = 12 → s.work.mgr.depNode = some p.src →
    s.work.acting = false →
    (s.work.depWait / 2 ≤ s.work.beat.fly → Leads (.takeover k p) s (fun w => w.mgr.mgrNode = some p.src ∧ w.mgr.depNode = none ∧
      w.jobGen 0 = beAt c.body 0 1)) ∧
    (s.work.beat.fly < s.work.depWait / 2 → Leads (.takeover k p) s (fun w => w.mgr.mgrNode = s.work.mgr.mgrNode ∧
      w.mgr.depNode = some p.src ∧ w.jobGen 0 = s.work.jobGen 0))) ∧
  (∀ (s : State) (k : Fin 40) (p : Packet) (c : Ctrl) (t : Nat) (yes no : List Nat), s.Hears k p 21 c →
    s.work.mgr.takeover = some (t, yes, no) → c.body.length = 4 → beAt c.body 0 1 = (s.work.jobGen 0 + 1) % 256 →
    let after := if (beAt c.body 1 1).testBit 0 then (t, (p.src :: yes).dedup, no) else (t, yes, (p.src :: no).dedup)
    Gives (.takeoverAck k p) s (s.work.settled { s.work with mgr := { s.work.mgr with takeover := some after } } p)) ∧
  (∀ (s : State) (t : Nat) (yes no : List Nat), s.board.alive = true → s.work.mgr.takeover = some (t, yes, no) →
    s.work.fld MGR_STATUS 0 2 = 1 →
    (s.work.positioned < 2 * yes.length → s.work.mgr.crews = [] → Leads .takeoverDecide s (fun w => w.acting = true ∧
      w.jobGen 0 = (s.work.jobGen 0 + 1) % 256 ∧ w.rd TAKEOVER_CNT = min (s.work.rd TAKEOVER_CNT + 1) 0xFFFFFFFF ∧
      w.mgr.mgrNode = some s.work.node ∧ w.mgr.takeover = none ∧ (∀ q ∈ s.work.coxes, q.1 < 1024 → w.coxState q.1 ∈ [0, 6]) ∧
      (s.work.coxes = [] → w.mem = s.work.mem))) ∧
    (2 * yes.length ≤ s.work.positioned → beatBefore s.work.beatFull (beatAdd t 8) = false →
      Gives .takeoverDecide s { s.work.setBit MGR_STATUS 5 with mgr := { s.work.mgr with takeover := none } }) ∧
    (2 * yes.length ≤ s.work.positioned → beatBefore s.work.beatFull (beatAdd t 8) = true → Gives .takeoverDecide s s.work))

/-- R396, R403, R419, R529, R562, R563: a device without a node joins; the manager records a node it knows; ASSIGN gives the device
its node and part; a whole image is loaded and its programs named for their catch, a broken one refused; jobs open and are to be freed as
the manager says; reports, answers to register requests and the requests themselves are taken. -/
def Obligations.NodesJoinAndTakeTheirImages : Prop :=
  (∀ s : State, s.board.alive = true →
    (s.work.joinDue s.board = true → Leads .joinTimer s (fun w => w.mgr.lastJoin = some s.work.beatFull ∧ w.mem = s.work.mem)) ∧
    (s.work.joinDue s.board = false → Gives .joinTimer s s.work)) ∧
  (∀ (s : State) (k : Fin 40) (p : Packet) (c : Ctrl) (e : NodeEnt), s.Hears k p 2 c → c.body.length = 20 → s.work.acting = true →
    s.work.nodeTable.find? (fun x => x.ident == sub c.body 0 16) = some e → beAt c.body 16 1 ≠ 3 → beAt c.body 17 1 % 2 = 0 →
    e.kind ≠ 3 → e.node ≠ 0xFFFD → Sp.find s.work.mgr.joined e.node = none →
    Leads (.join k p) s (fun w => Sp.find w.mgr.joined e.node = some e.kind ∧
      (e.kind = 0 → Sp.find s.work.mgr.positions e.position = none → Sp.find w.mgr.positions e.position = some e.node) ∧
      w.mem = s.work.mem)) ∧
  (∀ (s : State) (k : Fin 40) (p : Packet) (c : Ctrl), s.Hears k p 3 c → s.work.mgr.mgrNode = some p.src → c.body.length = 20 →
    sub c.body 0 16 = identBytes →
    (beAt c.body 16 2 ≠ 0xFFFD → beAt c.body 18 1 ≠ 3 → s.board.role ≠ 3 → s.work.flag REPL_STATUS 5 = false →
      s.work.mgr.lastingPending = false →
      Leads (.assign k p) s (fun w => w.node = beAt c.body 16 2 ∧ w.mgr.diagnosable = false ∧
        w.fld MGR_STATUS 0 2 = (if beAt c.body 18 1 = 2 ∧ s.board.role = 1 then 1 else 0))) ∧
    (beAt c.body 16 2 = 0xFFFD ∨ beAt c.body 18 1 = 3 ∨ s.board.role = 3 ∨ s.work.flag REPL_STATUS 5 = true →
      Leads (.assign k p) s (fun w => w.node = beAt c.body 16 2 ∧ w.mgr.diagnosable = true ∧ w.fld MGR_STATUS 0 2 = 3))) ∧
  (∀ (s : State) (k : Fin 40) (p : Packet) (c : Ctrl) (r : LoadRec) (g : Prog), s.Hears k p 4 c →
    s.work.mgr.mgrNode = some p.src → c.body.length = 32 → allZero (sub c.body 25 7) = true →
    let a := beAt c.body 0 8
    let n := beAt c.body 8 4
    inStacks a n = true → s.work.unfolded = [] → s.work.poisoned a n = false → s.work.flag REPL_STATUS 5 = false →
    s.work.mgr.lastingPending = false → s.work.fld MGR_STATUS 0 2 ≠ 3 → s.board.role ≠ 3 →
    (crc32c (s.work.bytes a n) = beAt c.body 12 4 → loadRecs (n / 16) (s.work.bytes a n) = some [r] → r.count = 1 → r.core < 1024 →
      (s.work.putRec r).loadProg r.core ((s.work.putRec r).progBase r.core) = .ok g →
      Leads (.progArm k p) s (fun w => (w.cox r.core).next = some (g, beAt c.body 16 8) ∧
        Sp.find w.mgr.armed (256 * r.core + beAt c.body 24 1) = some g ∧
        (s.work.coxState r.core ≠ 0 → w.bytes (spadBase r.core + r.off) r.data.length = r.data ∧
          (w.cox r.core).prog = (s.work.cox r.core).prog) ∧
        (s.work.coxState r.core = 0 → s.work.flag (COX_CTL r.core) 0 = true → s.work.mayStroke s.board = true →
          (w.cox r.core).prog = some g))) ∧
    (crc32c (s.work.bytes a n) ≠ beAt c.body 12 4 →
      Leads (.progArm k p) s (fun w => w.coxes = s.work.coxes ∧ w.mem = s.work.mem ∧
        w.rd LASTING_CNT = min (s.work.rd LASTING_CNT + 1) 0xFFFFFFFF))) ∧
  (∀ (s : State) (k : Fin 40) (p : Packet) (c : Ctrl), s.Hears k p 17 c → s.work.mgr.mgrNode = some p.src → c.body.length = 4 →
    let j := beAt c.body 0 2
    j ≠ 0 → (s.work.jobEnt j).state = 0 → (s.work.jobEnt j).anyGen = true ∨ beAt c.body 2 1 = ((s.work.jobEnt j).gen + 1) % 256 →
    s.work.fld ACTIVE_JOBS 0 9 < 256 →
    Leads (.jobOpen k p) s (fun w => (w.jobEnt j).state = 1 ∧ (w.jobEnt j).gen = beAt c.body 2 1 ∧
      w.fld ACTIVE_JOBS 0 9 = s.work.fld ACTIVE_JOBS 0 9 + 1 ∧ w.mem = s.work.mem)) ∧
  (∀ (s : State) (k : Fin 40) (p : Packet) (c : Ctrl), s.Hears k p 18 c → s.work.mgr.mgrNode = some p.src → c.body.length = 12 →
    let j := beAt c.body 0 2
    (j ≠ 0 → Gives (.jobFree k p) s (s.work.settled { s.work with
      jobs := Sp.put s.work.jobs j { s.work.jobEnt j with freeAt := some (beAt c.body 4 8) } } p)) ∧
    (j = 0 → Gives (.jobFree k p) s (s.work.settled (s.work.setBit TRANSPORT_ERR 0) p))) ∧
  (∀ (s : State) (k : Fin 40) (p : Packet) (c : Ctrl), s.Hears k p 13 c → allZero (sub c.body 1 3) = true →
    let kind := beAt c.body 0 1
    let r := c.body.drop 4
    (s.work.acting = true →
      (kind = 1 → r.length = 74 → Gives (.report k p) s (s.work.settled { s.work with
        mgr := { s.work.mgr with reports := Sp.put s.work.mgr.reports (2 ^ 20 * p.src + beAt r 0 2 % 16384) r } } p)) ∧
      (kind = 2 ∨ kind = 3 → Gives (.report k p) s (s.work.settled { s.work with
        mgr := { s.work.mgr with reports := Sp.put s.work.mgr.reports (2 ^ 20 * p.src + (2 ^ 16 + beAt r 0 1)) r } } p)) ∧
      (kind = 4 → Gives (.report k p) s (s.work.settled ((s.work.crewsOfNode p.src).foldl (fun (v : Work) n => v.orderAbort n 2) s.work) p)) ∧
      (kind = 6 → beAt r 8 1 = 8 →
        Gives (.report k p) s (s.work.settled ((s.work.crewsOfNode p.src).foldl (fun (v : Work) n => v.orderAbort n 7) s.work) p)) ∧
      (kind = 5 → Gives (.report k p) s (s.work.settled s.work p))) ∧
    (s.work.acting = false → s.work.fld MGR_STATUS 0 2 ≠ 1 → s.work.mgr.mgrNode = some p.src → s.work.stroke.catchAt = 0 →
      kind = 1 → r.length = 74 → Gives (.report k p) s (s.work.settled { s.work with
        mgr := { s.work.mgr with physical := Sp.put s.work.mgr.physical (beAt r 0 2 % 16384) r } } p))) ∧
  (∀ (s : State) (k : Fin 40) (p : Packet) (c : Ctrl), s.Hears k p 26 c → s.work.acting = true → regRespOk c.body = true →
    Gives (.regResp k p) s (s.work.settled { s.work with
      mgr := { s.work.mgr with responses := Sp.put s.work.mgr.responses p.src c.body } } p)) ∧
  (∀ (s : State) (k : Fin 40) (p : Packet) (c : Ctrl), s.Hears k p 25 c → s.work.mgr.mgrNode = some p.src →
    p.gen = s.work.jobGen 0 → regReqOk c.body = true → beAt c.body 4 1 = 1 → beAt c.body 5 1 = 0 → s.work.node < 0xFFFD →
    s.work.access.waits = [] →
    let a := beAt c.body 24 4 % 2 ^ 30
    let head := toBE 4 (beAt c.body 0 4) ++ toBE 1 1 ++ zeros 3
    (let j : RegJob := { src := p.src, crew := c.crew, id := beAt c.body 0 4, count := 1, left := [(beAt c.body 24 4, beAt c.body 28 4)] }
     s.work.underReset a = true → Gives (.regReq k p) s (s.work.settled (s.work.await (.request j)) p)) ∧
    (beAt c.body 24 4 < 2 ^ 31 → s.work.underReset a = false → s.work.readWaits .manager a = false →
      let r := s.work.pathRead s.board .manager a
      Leads (.regReq k p) s (fun w => w.access.waits = [] ∧ w.mem = s.work.mem ∧
        w.mgr.lastReq = some (beAt c.body 0 4, head ++ (toBE 4 r.1 ++ toBE 1 r.2.2 ++ zeros 3)))) ∧
    (a = GLB_SCRATCH → 2 ^ 31 ≤ beAt c.body 24 4 → s.work.darkAt GLB_SCRATCH = false → s.work.underReset a = false →
      Leads (.regReq k p) s (fun w => w.access.waits = [] ∧ w.mem = s.work.mem ∧ w.rd GLB_SCRATCH = beAt c.body 28 4 ∧
        w.mgr.lastReq = some (beAt c.body 0 4, head ++ zeros 8))))

/-- R405, R410, R411: a crew whose interval has passed has a checkpoint due; the order is kept by a member it reaches in time; the state
record goes to its slots once the folds are complete, and the member tells of both copies; the manager commits with the last member, and
the attempt fails with the first failure; a member notes the commit. -/
def Obligations.CheckpointsAreOrderedWrittenAndCommitted : Prop :=
  (∀ (s : State) (n : Fin 1024) (m : MCrew), s.board.alive = true → s.work.acting = true → s.work.mgr.crews = [(n.val, m)] →
    m.on = true → m.ckpt = none →
    (beatBefore s.work.beatFull (beatAdd m.lastCommit (s.work.rd CKPT_INTERVAL)) = false →
      Gives .ckptIntervalExpire s (s.work.setMcrew n.val { m with ckptDue := true })) ∧
    (beatBefore s.work.beatFull (beatAdd m.lastCommit (s.work.rd CKPT_INTERVAL)) = true → Gives .ckptIntervalExpire s s.work)) ∧
  (∀ (s : State) (k : Fin 40) (p : Packet) (c : Ctrl), s.Hears k p 5 c → s.work.mgr.mgrNode = some p.src → c.body.length = 12 →
    (beatBefore s.work.beatFull (beAt c.body 4 8) = true → Gives (.ckptOrder k p) s (s.work.settled { s.work with
      mgr := { s.work.mgr with ckptOrder := some (beAt c.body 0 4, beAt c.body 4 8) } } p)) ∧
    (beatBefore s.work.beatFull (beAt c.body 4 8) = false → Gives (.ckptOrder k p) s
      (s.work.settled (s.work.ckptDone c.crew (beAt c.body 0 4) 1) p))) ∧
  (∀ (s : State) (k f : Nat) (c : Crew), s.board.alive = true → s.work.mgr.ckptNow = some (k, f) → s.work.mgr.recordDue = true →
    (∀ q ∈ s.work.allParts, q.2.2.foldDue = false) → s.work.strokeCrew = some c → c.keeperNode = none →
    Leads .stateRecordWritten s (fun w => w.mgr.recordDue = false ∧ w.mgr.ckptNow = some (k, f) ∧
      w.bytes (s.work.ownSlot k) (s.work.stateRecord c k f).length = s.work.stateRecord c k f ∧
      (∀ a, a < s.work.ownSlot k ∨ s.work.ownSlot k + (s.work.stateRecord c k f).length ≤ a → w.byte a = s.work.byte a) ∧
      w.regs = s.work.regs)) ∧
  (∀ (s : State) (k f : Nat), s.board.alive = true → s.work.mgr.ckptNow = some (k, f) →
    (s.work.bothWritten f = true → Leads .ckptWritten s (fun w => w.mgr.ckptNow = none ∧ w.mem = s.work.mem ∧
      w.coxes = s.work.coxes)) ∧
    (s.work.bothWritten f = false → Gives .ckptWritten s s.work)) ∧
  (∀ (s : State) (k : Fin 40) (p : Packet) (c : Ctrl) (a : Attempt), s.Hears k p 6 c → s.work.acting = true →
    (s.work.mcrew c.crew).ckpt = some a → c.body.length = 8 → beAt c.body 0 4 = a.k →
    (beAt c.body 4 1 ≠ 0 → Leads (.ckptDone k p) s (fun w => (w.mcrew c.crew).ckpt = none ∧ (w.mcrew c.crew).ckptDue = true ∧
      w.rd CKPT_FAIL_CNT = min (s.work.rd CKPT_FAIL_CNT + 1) 0xFFFFFFFF ∧ w.rd CKPT_LAST = s.work.rd CKPT_LAST)) ∧
    (beAt c.body 4 1 = 0 → (∃ x ∈ s.work.crewNodes c.crew, x ∉ p.src :: a.done) →
      Gives (.ckptDone k p) s (s.work.settled (s.work.setMcrew c.crew { s.work.mcrew c.crew with
        ckpt := some { a with done := (p.src :: a.done).dedup } }) p)) ∧
    (beAt c.body 4 1 = 0 → (∀ x ∈ s.work.crewNodes c.crew, x ∈ p.src :: a.done) →
      Leads (.ckptDone k p) s (fun w => (w.mcrew c.crew).ckpt = none ∧ (w.mcrew c.crew).lastCommit = s.work.beatFull ∧
        w.rd CKPT_LAST = a.k % 2 ^ 32 ∧ w.rd CKPT_CNT = min (s.work.rd CKPT_CNT + 1) 0xFFFFFFFF ∧ w.mem = s.work.mem))) ∧
  (∀ (s : State) (k : Fin 40) (p : Packet) (c : Ctrl), s.Hears k p 7 c → s.work.mgr.mgrNode = some p.src → c.body.length = 4 →
    Gives (.ckptCommit k p) s (s.work.settled ((s.work.wr CKPT_LAST (beAt c.body 0 4)).inc CKPT_CNT) p))

/-- R412, R416, R417, R420, R422: a member answers a roll call once its undo is complete; the manager collects the answers, and goes
on at ROLLCALL_WAIT without the rest; a restore stops the coxes, is told as done or failed, is named its finish once every member
has it, repeated once, and takes effect at its beat; RESTORE_NOW aborts every stroke crew with cause 12. -/
def Obligations.CrewsRollCallAndRestore : Prop :=
  (∀ (s : State) (k : Fin 40) (p : Packet) (c : Ctrl), s.Hears k p 8 c → s.work.mgr.mgrNode = some p.src → c.body.length = 4 →
    let due : Work := { s.work with mgr := { s.work.mgr with rollDue := some (c.crew, beAt c.body 0 4) } }
    (s.work.undoLeft = true → Gives (.rollCall k p) s (s.work.settled due p)) ∧
    (s.work.undoLeft = false → s.work.flag SEC_STATUS 15 = false → Gives (.rollCall k p) s (s.work.settled
      ({ s.work with mgr := { s.work.mgr with rollDue := none } }.answerRoll c.crew (beAt c.body 0 4)) p))) ∧
  (∀ (s : State) (k : Fin 40) (p : Packet) (c : Ctrl) (r : Roll), s.Hears k p 9 c → s.work.acting = true →
    (s.work.mcrew c.crew).roll = some r → c.body.length = 8 → beAt c.body 0 4 = r.call → (beAt c.body 4 1).testBit 0 = true →
    (∃ x ∈ s.work.crewNodes c.crew, x ∉ p.src :: r.answered) →
    Gives (.rollAnswer k p) s (s.work.settled (s.work.setMcrew c.crew { s.work.mcrew c.crew with
      roll := some { r with answered := (p.src :: r.answered).dedup }
      failed := if (beAt c.body 4 1).testBit 1 then (p.src :: (s.work.mcrew c.crew).failed).dedup
        else (s.work.mcrew c.crew).failed }) p)) ∧
  (∀ (s : State) (n : Fin 1024) (r : Roll), s.board.alive = true → s.work.acting = true → (s.work.mcrew n.val).roll = some r →
    let late := beatAdd r.start (max 64 (s.work.fld MGR_CTL 16 16))
    (beatBefore s.work.beatFull late = true → Gives (.rollcallTimeout n) s s.work) ∧
    (beatBefore s.work.beatFull late = false → s.work.mgr.fallen = [] → (s.work.mcrew n.val).failed = [] →
      (∀ x ∈ s.work.crewNodes n.val, x ∈ r.answered) → (s.work.mcrew n.val).cause ≠ 5 → (s.work.mcrew n.val).cause ≠ 11 →
      Leads (.rollcallTimeout n) s (fun w => (w.mcrew n.val).roll = none ∧
        (w.mcrew n.val).restore = some { k := s.work.rd CKPT_LAST, variant := (s.work.mcrew n.val).variant, subs := [] } ∧
        w.rd FAIL_CNT = min (s.work.rd FAIL_CNT + 1) 0xFFFFFFFF ∧ w.flag MGR_STATUS 3 = true)) ∧
    (beatBefore s.work.beatFull late = false → ∀ x ∈ s.work.crewNodes n.val, x ∉ r.answered → s.work.crewNodes n.val = [x] →
      (s.work.mcrew n.val).failed = [] → s.work.positionOf x = none →
      Leads (.rollcallTimeout n) s (fun w => (w.mcrew n.val).lost = true ∧ (w.mcrew n.val).roll = none ∧
        w.flag MGR_STATUS 4 = true ∧ w.rd RESTORE_FAIL_CNT = min (s.work.rd RESTORE_FAIL_CNT + 1) 0xFFFFFFFF))) ∧
  (∀ (s : State) (k : Fin 40) (p : Packet) (c : Ctrl), s.Hears k p 10 c → s.work.mgr.mgrNode = some p.src →
    c.body.length = 8 + 4 * beAt c.body 6 2 →
    Leads (.restore k p) s (fun w => w.flag MGR_STATUS 3 = true ∧ (∀ q ∈ s.work.coxes, q.1 < 1024 → w.coxState q.1 = 0) ∧
      (∃ subs, w.mgr.restore = some (beAt c.body 0 4, beAt c.body 4 1, subs) ∧ subs.length = beAt c.body 6 2) ∧
      w.mgr.restoreDone = false ∧ w.mgr.ckptOrder = none)) ∧
  (∀ (s : State) (st : Fin 3) (k v : Nat) (subs : List (Nat × Nat)), s.board.alive = true → s.work.mgr.restore = some (k, v, subs) →
    s.work.mgr.restoreDone = false → s.work.undoLeft = false → (∀ t ∈ s.work.tiles, t.2.restoreRows = [] ∧ t.2.surveys = []) →
    s.work.mgr.restoreTaken = false →
    (s.work.recordStatus k ≠ 0 ∨ st ≠ 0 → Leads (.restoreComplete st) s (fun w => w.mgr.restoreDone = false ∧ w.mem = s.work.mem ∧
      w.mgr.restore = some (k, v, subs))) ∧
    (s.work.recordStatus k = 0 → st = 0 → s.work.tiles = [] → s.work.extentsBad k = true →
      Leads (.restoreComplete st) s (fun w => w.mgr.restoreDone = false ∧ w.mgr.restore = some (k, v, subs))) ∧
    (s.work.recordStatus k = 0 → st = 0 → s.work.tiles = [] → s.work.coxes = [] → Leads (.restoreComplete st) s (fun w => w.mgr.restoreDone = true ∧
      w.mgr.strokeNo = leAt (s.work.slotRecord k) 12 4 ∧
      (∀ c < 1024, w.rd (GEN_SEQ c) = leAt (s.work.slotRecord k) 12 4) ∧ w.mgr.restore = some (k, v, subs)))) ∧
  (∀ (s : State) (k : Fin 40) (p : Packet) (c : Ctrl) (r : Restoring), s.Hears k p 11 c → s.work.acting = true →
    (s.work.mcrew c.crew).restore = some r → r.finish = none → c.body.length = 8 → beAt c.body 0 4 = r.k →
    let m := s.work.mcrew c.crew
    (beAt c.body 4 1 = 0 → (∃ x ∈ s.work.restoreNodes c.crew r m.failed, x ∉ p.src :: r.done) →
      Gives (.restoreDone k p) s (s.work.settled (s.work.setMcrew c.crew { m with
        restore := some { r with done := (p.src :: r.done).dedup } }) p)) ∧
    (beAt c.body 4 1 = 0 → (∀ x ∈ s.work.restoreNodes c.crew r m.failed, x ∈ p.src :: r.done) →
      Leads (.restoreDone k p) s (fun w => (w.mcrew c.crew).restore = some { r with
        done := (p.src :: r.done).dedup
        finish := some (beatAdd s.work.beatFull (max 16 (s.work.fld MGR_CTL 8 8))) })) ∧
    (beAt c.body 4 1 ≠ 0 → r.tries = 1 → Leads (.restoreDone k p) s (fun w =>
      (w.mcrew c.crew).restore = some { r with done := [], tries := 2 } ∧ (w.mcrew c.crew).lost = m.lost)) ∧
    (beAt c.body 4 1 ≠ 0 → r.tries = 2 → Leads (.restoreDone k p) s (fun w => (w.mcrew c.crew).lost = true ∧
      w.rd RESTORE_FAIL_CNT = min (s.work.rd RESTORE_FAIL_CNT + 1) 0xFFFFFFFF))) ∧
  (∀ (s : State) (k : Fin 40) (p : Packet) (c : Ctrl) (n v : Nat) (subs : List (Nat × Nat)), s.Hears k p 12 c →
    s.work.mgr.mgrNode = some p.src → s.work.mgr.restore = some (n, v, subs) → s.work.mgr.restoreDone = true →
    c.body.length = 12 → beAt c.body 0 4 = n →
    (beatBefore s.work.beatFull (beAt c.body 4 8) = true → Gives (.restoreFinish k p) s (s.work.settled { s.work with
      mgr := { s.work.mgr with restoreFinish := some (beAt c.body 4 8) } } p)) ∧
    (beatBefore s.work.beatFull (beAt c.body 4 8) = false → Gives (.restoreFinish k p) s
      (s.work.settled (s.work.restoreDone n 1) p))) ∧
  (∀ (s : State) (n v r : Nat) (subs : List (Nat × Nat)), s.board.alive = true → s.work.mgr.restore = some (n, v, subs) →
    s.work.mgr.restoreFinish = some r → s.work.acting = false → v < 256 → s.work.mgr.physical = [] →
    (beatBefore s.work.beatFull r = false → s.work.coxes = [] → Leads .restoreFinishBeat s (fun w => w.mgr.restore = none ∧
      w.mgr.restoreFinish = none ∧ w.rd STEP_COMMITTED = leAt (s.work.slotRecord n) 8 4 ∧ w.fld MGR_STATUS 8 8 = v ∧
      w.flag MGR_STATUS 3 = false ∧ w.rd RESTORE_CNT = min (s.work.rd RESTORE_CNT + 1) 0xFFFFFFFF)) ∧
    (beatBefore s.work.beatFull r = true → Gives .restoreFinishBeat s s.work)) ∧
  (∀ (s : State) (p : Path), s.board.alive = true →
    let v := putBits (s.work.rd MGR_CTL) 6 1 1
    s.work.Writable p MGR_CTL v →
    let u := (s.work.wrPlain p MGR_CTL v).clrBit MGR_CTL 6
    (s.work.acting = false → Gives (.restoreNow p) s u) ∧
    (s.work.acting = true → Gives (.restoreNow p) s (((u.crewTab.filter (·.stroke)).map (·.num)).foldl
      (fun (x : Work) n => x.orderAbort n 12) u)))

/-! ### Aborts, hangs and resets -/

/-- R455, R457, R459: a beacon of a crew, job and generation that the device knows notes the crew's abort beat, the earliest one
received; another, or one between RESTORE and the restore finish, is dropped and counted. At its abort beat, which
is counted, every core of the crew that is not IDLE is ABORTED (said for a device with no transfer, bucket or held packet);
nothing happens before it. -/
def Obligations.CrewsAbortAtTheirBeat : Prop :=
  (∀ (s : State) (k : Fin 40) (p : Packet) (b : Beacon), s.Receives k p 7 → beaconOf p.payload = some b →
    ((s.work.crew? b.crew = none ∨ s.work.restoringCrew b.crew = true ∨
        ∃ c, s.work.crew? b.crew = some c ∧ (c.job ≠ b.job ∨ s.work.jobGen c.job ≠ b.gen)) →
      Gives (.abort k p) s (s.work.inc BEACON_DROP_CNT)) ∧
    (∀ c, s.work.crew? b.crew = some c → c.job = b.job → s.work.jobGen c.job = b.gen → s.work.restoringCrew b.crew = false →
      s.work.abortRepeat b = false → beatBefore s.work.beatFull b.abort = true →
      Leads (.abort k p) s (fun w => w.coxes = s.work.coxes ∧ w.mem = s.work.mem ∧
        Sp.find w.fault.aborts b.crew = some (match Sp.find s.work.fault.aborts b.crew with
          | some a => if beatBefore a b.abort then a else b.abort
          | none => b.abort)))) ∧
  (∀ (s : State) (n : Fin 1024) (a : Nat), s.board.alive = true → Sp.find s.work.fault.aborts n.val = some a →
    (s.work.locked = true → beatBefore s.work.beatFull a = true → Gives (.crewAbort n) s s.work) ∧
    (beatBefore s.work.beatFull a = false → Leads (.crewAbort n) s (fun w =>
      (s.work.links = [] → s.work.memcs = [] → s.work.red.buckets = [] → s.work.commits = [] →
        ∀ c ∈ s.work.crewCores n.val, c < 1024 → s.work.coxState c ≠ 0 → w.coxState c = 6) ∧
      Sp.find w.fault.aborts n.val = none ∧ w.mgr.ckptOrder = none ∧
      w.rd ABORT_RX_CNT = min (s.work.rd ABORT_RX_CNT + 1) 0xFFFFFFFF)))

/-- R443, R444, R450, Table 12-9: a core whose work has not moved for its window is logged and an engine reset is called for, at the
die after a reset within REPEAT_WIN; above MAX_LEVEL the device holds instead and says so. Reduction stages that have not moved
abort their crews and reset nothing. A unit that moves, or has no work, is left alone. -/
def Obligations.HungUnitsAreReset : Prop :=
  (∀ (s : State) (c : Fin 1024), s.board.alive = true →
    (s.work.outstanding c.val = false ∨ s.work.stalled c.val s.work.engWin = false →
      Gives (.hangMonitorFire (.core c)) s s.work) ∧
    (s.work.outstanding c.val = true → s.work.stalled c.val s.work.engWin = true → s.work.fault.resets = [] →
      s.work.flag SAMPLE_STATUS 0 = false →
      (s.work.resetBefore c.val 2 = false → 2 ≤ s.work.maxLevel →
        Leads (.hangMonitorFire (.core c)) s (fun w => (∃ r, w.fault.resets = [r] ∧ r.unit = c.val ∧ r.level = 2 ∧ r.sampling = true ∧
          w.fault.log.head? = some r.trigger ∧ r.trigger.cls = 6 ∧ r.trigger.level = 2 ∧ r.trigger.unit = c.val) ∧
          w.mem = s.work.mem ∧ w.coxes = s.work.coxes)) ∧
      (s.work.resetBefore c.val 2 = true → s.work.resetBefore (1024 + c.val / 64) 3 = false → 3 ≤ s.work.maxLevel →
        Leads (.hangMonitorFire (.core c)) s (fun w => (∃ r, w.fault.resets = [r] ∧ r.unit = 1024 + c.val / 64 ∧ r.level = 3 ∧
          r.sampling = true) ∧ w.mem = s.work.mem)) ∧
      (s.work.maxLevel = 1 → Leads (.hangMonitorFire (.core c)) s (fun w => w.fault.resets = [] ∧ w.flag FAULT_STATUS 2 = true ∧
        w.fld FAULT_STATUS 3 3 = 1 ∧ (∃ r, w.fault.log.head? = some r ∧ r.cls = 7 ∧ r.level = 1 ∧ r.unit = c.val ∧ r.code = 6))))) ∧
  (∀ (s : State), s.board.alive = true →
    (s.work.openStages = [] ∨ s.work.stalled 1999 s.work.redWin = false → Gives (.hangMonitorFire .reduction) s s.work) ∧
    (s.work.openStages ≠ [] → s.work.stalled 1999 s.work.redWin = true →
      Leads (.hangMonitorFire .reduction) s (fun w => w.rd (HANG_CNT 0) = min (s.work.rd (HANG_CNT 0) + 1) 0xFFFFFFFF ∧
        w.rd LASTING_CNT = min (s.work.rd LASTING_CNT + 1) 0xFFFFFFFF ∧ w.fault.resets = s.work.fault.resets ∧
        w.red = s.work.red ∧ w.mem = s.work.mem ∧
        ∃ r, w.fault.log.head? = some r ∧ r.cls = 6 ∧ r.level = 1 ∧ r.unit = 1220)))

/-- R445, R446, R452, R453, R460, R461, Table 12-9: once a reset's sample is written, or lost because one is held, the reset runs; at
its end the generations of the unit and of what it contains have stepped by one, its level is counted, its record logged and
every queued request of an older generation gone (said where no access waits); a reset past its bound is called for at the level above. -/
def Obligations.ResetsRunToTheirEnd : Prop :=
  (∀ (s : State) (r : UnitReset), s.board.alive = true → s.work.fault.resets = [r] → r.sampling = true →
    (1040 ≤ r.unit → r.unit < 1092 → r.level = 2 → s.work.flag SAMPLE_STATUS 0 = true →
      Leads .sampleWritten s (fun w => w.rd SAMPLE_LOST_CNT = min (s.work.rd SAMPLE_LOST_CNT + 1) 0xFFFFFFFF ∧ w.mem = s.work.mem ∧
        w.fault.resets = [{ r with sampling := false, start := s.work.now, sampled := false, crews := s.work.unitCrews r.unit }])) ∧
    (r.unit = 1220 → r.level = 4 → s.work.fld ESC_CFG 8 8 ≠ 0 →
      Leads .sampleWritten s (fun w => w.flag SAMPLE_STATUS 0 = true ∧ w.fld SAMPLE_STATUS 1 3 = 4 ∧ w.fld SAMPLE_STATUS 4 11 = 1220 ∧
        w.fault.resets = [{ r with sampling := false, waiting := true, start := s.work.now, sampled := true }] ∧
        w.bytes s.work.sampleBase 32 = r.trigger.bytes toLE ∧
        (∀ a, a < s.work.sampleBase ∨ s.work.sampleBase + 0x840000 ≤ a → w.byte a = s.work.byte a)))) ∧
  (∀ (s : State) (unit : Nat) (r : UnitReset), s.board.alive = true → s.work.fault.resets = [r] → r.sampling = false →
    r.unit = unit → r.level = 2 → s.work.access.waits = [] →
    Leads (.engineResetDone unit) s (fun w => w.fault.resets = [] ∧ w.parked = s.work.parked.filter (fun q => w.current q.1) ∧ Sp.get w.fault.gens 0 unit = (Sp.get s.work.fault.gens 0 unit + 1) % 256 ∧
      w.rd (HANG_CNT 1) = min (s.work.rd (HANG_CNT 1) + 1) 0xFFFFFFFF ∧ w.mem = s.work.mem ∧
      ∃ x, w.fault.log.head? = some x ∧ x.cls = 7 ∧ x.level = 2 ∧ x.unit = unit ∧ x.code = r.trigger.cls)) ∧
  (∀ (s : State) (die : Fin 16) (r : UnitReset), s.board.alive = true → s.work.fault.resets = [r] → r.sampling = false →
    r.unit = 1024 + die.val → r.level = 3 → s.work.access.waits = [] →
    Leads (.partitionResetDone die) s (fun w => w.fault.resets = [] ∧
      (∀ u, u = 1024 + die.val ∨ (64 * die.val ≤ u ∧ u < 64 * die.val + 64) →
        Sp.get w.fault.gens 0 u = (Sp.get s.work.fault.gens 0 u + 1) % 256) ∧
      (∀ u, u ≠ 1024 + die.val → ¬ (64 * die.val ≤ u ∧ u < 64 * die.val + 64) → Sp.get w.fault.gens 0 u = Sp.get s.work.fault.gens 0 u) ∧
      w.rd (HANG_CNT 2) = min (s.work.rd (HANG_CNT 2) + 1) 0xFFFFFFFF)) ∧
  (∀ (s : State) (unit : Nat) (r : UnitReset), s.board.alive = true → s.work.fault.resets = [r] → r.sampling = false →
    r.unit = unit → r.level ≠ 4 → unit ≠ 1220 → s.work.access.waits = [] →
    (unit < 1024 → s.work.resetBefore (1024 + unit / 64) 3 = false → 3 ≤ s.work.maxLevel → s.work.flag SAMPLE_STATUS 0 = false →
      Leads (.resetBoundExpire unit) s (fun w => w.now = max s.work.now (r.start + 20000) ∧
        ∃ x, w.fault.resets = [x] ∧ x.unit = 1024 + unit / 64 ∧ x.level = 3 ∧ x.trigger = r.trigger)) ∧
    (1024 ≤ unit → s.work.chipAgain = false → 4 ≤ s.work.maxLevel →
      Leads (.resetBoundExpire unit) s (fun w => w.now = max s.work.now (r.start + resetBound unit) ∧
        ∃ x, w.fault.resets = [x] ∧ x.unit = 1220 ∧ x.level = 4 ∧ x.trigger = r.trigger ∧ x.sampling = true))) ∧
  (∀ (s : State) (ns : List Nat) (a : Nat), s.board.alive = true → s.work.fault.redHung = some (ns, a) →
    s.work.access.waits = [] →
    (beatsAhead a s.work.beatFull < 64 → Gives (.resetBoundExpire 1220) s s.work) ∧
    (64 ≤ beatsAhead a s.work.beatFull → (∀ q ∈ s.work.openStages, stageNo q ∉ ns) →
      Gives (.resetBoundExpire 1220) s { s.work with fault := { s.work.fault with redHung := none } }))

/-- R448, R453, R460, R496, R497: a chip-level reset keeps the cells and the clock, names its source, class and unit in RESET_CAUSE, is counted,
steps every generation, empties memory and the fault log, and starts the sequence at configuration load, on the flash
bus; one that waits for its
sample's collection goes at the release of the sample or at the end of the wait. -/
def Obligations.ChipLevelResetStartsAnew : Prop :=
  let after (s : State) (source cls unit now : Nat) (w : Work) : Prop :=
    w.rd RESET_CAUSE = source + 16 * (cls % 256) + 4096 * (unit % 2048) ∧
    w.rd CHIP_RST_CNT = min (s.work.rd CHIP_RST_CNT + 1) 0xFFFFFFFF ∧ w.cells = s.work.cells ∧ w.now = now ∧
    w.mem = [] ∧ w.coxes = [] ∧ w.fault.log = [] ∧ w.fault.resets = [] ∧ w.fld GLB_STATUS 16 4 = 3 ∧
    w.access.i3cAddr = s.work.access.i3cAddr ∧ w.start.cfgBus = true ∧ w.out = s.work.out ++ [.flash 0x5A 0] ∧
    (∀ u ∈ domainsOf 1220, Sp.get w.fault.gens 0 u = (Sp.get s.work.fault.gens 0 u + 1) % 256)
  (∀ (s : State) (cause : Fin 4) (cls unit : Nat), s.board.alive = true →
    (cause.val < 2 → Gives (.chipReset cause cls unit) s s.work) ∧
    (2 ≤ cause.val → Leads (.chipReset cause cls unit) s (after s cause.val cls unit s.work.now))) ∧
  (∀ (s : State), s.board.alive = true →
    (s.work.waitingChip = none → Gives .sampleWaitExpire s s.work) ∧
    (∀ r, s.work.waitingChip = some r → Leads .sampleWaitExpire s (after s (if r.trigger.cls = 8 then 3 else 2) r.trigger.cls
      r.trigger.unit (max s.work.now (r.start + 10000000 * s.work.fld ESC_CFG 8 8))))) ∧
  (∀ (s : State) (path : Path), s.board.alive = true → s.work.Writable path SAMPLE_STATUS 1 →
    (s.work.waitingChip = none → Leads (.sampleRelease path) s (fun w => w.flag SAMPLE_STATUS 0 = false ∧
      RegsKept s.work w [SAMPLE_STATUS] ∧ w.mem = s.work.mem ∧ w.fault = s.work.fault)) ∧
    (∀ r, s.work.waitingChip = some r → Leads (.sampleRelease path) s (after s (if r.trigger.cls = 8 then 3 else 2) r.trigger.cls
      r.trigger.unit s.work.now)))

/-- R449, R450, Table 12-9: with no beat lock within CHIP_LIMIT of a chip-level reset the device holds itself for a power cycle, where
MAX_LEVEL allows it, and otherwise holds at MAX_LEVEL; while it holds it raises an in-band interrupt every 100 ms until the
acknowledgement. -/
def Obligations.PowerCyclesAreAskedFor : Prop :=
  (∀ (s : State) (t : Nat), s.board.alive = true → s.work.fault.chipFrom = some t →
    (s.work.maxLevel = 5 → ∃ w, GivesBoth .chipLimitExpire s { s.board with pcyc := true } w ∧
      w.cells = s.work.cells ∧ w.mem = [] ∧ w.coxes = [] ∧ w.rd RESET_CAUSE = s.work.rd RESET_CAUSE ∧
      w.rd CHIP_RST_CNT = s.work.rd CHIP_RST_CNT ∧
      (∃ r, w.fault.log = [r] ∧ r.cls = 7 ∧ r.level = 5 ∧ r.unit = 1220)) ∧
    (s.work.maxLevel < 5 → Leads .chipLimitExpire s (fun w => w.flag FAULT_STATUS 2 = true ∧
      w.fld FAULT_STATUS 3 3 = s.work.maxLevel ∧ w.fault.chipFrom = none ∧ w.cells = s.work.cells))) ∧
  (∀ (s : State),
    (s.board.pcyc = true → s.work.fault.pcycAcked = false → s.work.access.i3cAddr.isSome = true →
      let v := s.work.till (s.work.fault.lastIbi + 100000000)
      Gives .pcycIbiTimer s ({ v with fault := { v.fault with lastIbi := v.now } }.emit .ibi)) ∧
    (s.board.pcyc = false ∨ s.work.fault.pcycAcked = true ∨ s.work.access.i3cAddr = none → Gives .pcycIbiTimer s s.work)) ∧
  (∀ (s : State) (path : Path), s.board.answers = true → s.work.Writable path FT_CTL 2 →
    Gives (.pcycAck path) s { s.work with fault := { s.work.fault with pcycAcked := true } })

/-- R439 to R442: a test asked for by register or by the manager starts where every cox is IDLE and none runs, and is flagged refused
elsewhere; its end, 6 ms on, clears the accumulators, shows the worst outcome and the failed cores, and a failure calls for a
chip-level reset; a transient outcome that a node reports aborts that node's crews. -/
def Obligations.FieldTestsRun : Prop :=
  let starts (w : Work) (n : Nat) : Work :=
    ({ w with fault := { w.fault with ftStart := some w.now, ftNumber := n } }.setBit FT_STATUS 0).setBit FAULT_STATUS 7
  (∀ (s : State) (path : Path), s.board.alive = true → s.work.Writable path FT_CTL 1 →
    (s.work.allIdle = true → s.work.fault.ftStart = none → Gives (.fieldTestGo path) s (starts s.work 0)) ∧
    (s.work.allIdle = false ∨ s.work.fault.ftStart.isSome = true → Gives (.fieldTestGo path) s (s.work.setBit FT_STATUS 1))) ∧
  (∀ (s : State) (k : Fin 40) (p : Packet) (c : Ctrl), s.Hears k p 23 c → s.work.mgr.mgrNode = some p.src → c.body.length = 4 →
    (s.work.allIdle = true → s.work.fault.ftStart = none →
      Gives (.fieldTest k p) s (s.work.settled (starts s.work (beAt c.body 0 4)) p)) ∧
    (s.work.allIdle = false ∨ s.work.fault.ftStart.isSome = true →
      Gives (.fieldTest k p) s (s.work.settled (s.work.setBit FT_STATUS 1) p))) ∧
  (∀ (s : State) (t : Nat) (c : Fin 1024) (mac vec tiles : Fin 3), s.board.alive = true → s.work.fault.ftStart = some t →
    s.work.fault.ftAtStart = false →
    let out := max mac.val (max vec.val tiles.val)
    (out < 2 → Leads (.fieldTestDone [(c.val, mac.val, vec.val, tiles.val)]) s (fun w =>
      w.now = max s.work.now (t + 6000000) ∧ w.fault.ftStart = none ∧ w.acc = [] ∧ w.accPoison = [] ∧ w.flag FT_STATUS 0 = false ∧
      w.fld FT_STATUS 2 2 = out ∧ w.fld FT_STATUS 16 11 = 0 ∧ w.flag FAULT_STATUS 7 = false ∧ w.mem = s.work.mem ∧
      w.fault.resets = s.work.fault.resets)) ∧
    (out = 2 → s.work.fault.resets = [] → 4 ≤ s.work.maxLevel → s.work.chipAgain = false →
      Leads (.fieldTestDone [(c.val, mac.val, vec.val, tiles.val)]) s (fun w => w.fld FT_STATUS 2 2 = 2 ∧
        w.fld FT_STATUS 16 11 = 1 ∧ ∃ r, w.fault.resets = [r] ∧ r.unit = 1220 ∧ r.level = 4 ∧ r.trigger.cls = 8))) ∧
  (∀ (s : State) (k : Fin 40) (p : Packet) (c : Ctrl), s.Hears k p 24 c → s.work.acting = true → c.body.length = 8 →
    beAt c.body 7 1 = 0 →
    (beAt c.body 4 1 = 1 → Gives (.fieldResult k p) s
      (s.work.settled ((s.work.crewsOfNode p.src).foldl (fun (v : Work) n => v.orderAbort n 7) s.work) p)) ∧
    (beAt c.body 4 1 ≠ 1 → Gives (.fieldResult k p) s (s.work.settled s.work p)))

/-! ### Power and temperature -/

/-- R477, R479, R481 to R483: an on request of a domain that is off ramps it where its gate is open, else it waits; an off request
drains one that is on; a domain that is not switched refuses and says so.

R480 to R484, Table 13-4: a waiting ramp starts when every neighbour is within its threshold, or after 64 beats with the core
IDLE; a ramp that reaches regulation is on, and in a start-up class is counted; one that does not is dark; a drained domain
discharges and is off, or ramps for a request that came since; a drain that lasts too long is given up. -/
def Obligations.DomainsAreCommandedAndChangeState : Prop :=
  (
  (∀ (s : State) (path : Path) (p : Fin 72), s.board.alive = true → s.work.Writable path (PD_CTL p.val) 1 →
    (switchable p.val = true → s.work.pdState p.val = 0 →
      s.work.gateOpen p.val (s.work.domain p.val).win = true →
      Leads (.pdCmdOn path p) s (fun w => w.pdState p.val = 2 ∧ (w.domain p.val).since = s.work.now ∧
        (w.domain p.val).fromOff = true ∧ w.rd (RAMP_CNT p.val) = min (s.work.rd (RAMP_CNT p.val) + 1) 0xFFFFFFFF ∧
        RegsKept s.work w [PD_STATUS p.val, RAMP_CNT p.val] ∧ w.mem = s.work.mem)) ∧
    (switchable p.val = true → s.work.pdState p.val = 0 → s.work.gateOpen p.val (s.work.domain p.val).win = false →
      Leads (.pdCmdOn path p) s (fun w => w.pdState p.val = 1 ∧ (w.domain p.val).waitFrom = s.work.now ∧
        w.rd (ADMIT_CNT p.val) = min (s.work.rd (ADMIT_CNT p.val) + 1) 0xFFFFFFFF ∧
        RegsKept s.work w [PD_STATUS p.val, ADMIT_CNT p.val])) ∧
    (switchable p.val = false → Gives (.pdCmdOn path p) s (s.work.setBit (PD_ERR p.val) 3))) ∧
  (∀ (s : State) (path : Path) (p : Fin 72), s.board.alive = true → s.work.Writable path (PD_CTL p.val) 2 →
    (switchable p.val = true → s.work.pdState p.val = 3 →
      Leads (.pdCmdOff path p) s (fun w => w.pdState p.val = 4 ∧ w.fld (PD_STATUS p.val) 8 4 = 0 ∧
        (w.domain p.val).since = s.work.now ∧ RegsKept s.work w [PD_STATUS p.val] ∧ w.mem = s.work.mem)) ∧
    (switchable p.val = false → Gives (.pdCmdOff path p) s (s.work.setBit (PD_ERR p.val) 3)))) ∧
  (
  (∀ (s : State) (p : Fin 72) (avgs : List Nat), s.board.alive = true → s.work.pdState p.val = 1 →
    (s.work.gateOpen p.val avgs = true →
      Leads (.admitGateEval p avgs) s (fun w => w.pdState p.val = 2 ∧ (w.domain p.val).win = avgs ∧
        w.rd (ADMIT_US p.val) = min (s.work.rd (ADMIT_US p.val) + ceilDiv (s.work.now - (s.work.domain p.val).waitFrom) 1000) 0xFFFFFFFF ∧
        RegsKept s.work w [PD_STATUS p.val, RAMP_CNT p.val, ADMIT_US p.val])) ∧
    (s.work.gateOpen p.val avgs = false →
      Gives (.admitGateEval p avgs) s (s.work.setDomain p.val { s.work.domain p.val with win := avgs }))) ∧
  (∀ (s : State) (p : Fin 72), s.board.alive = true →
    (s.work.pdState p.val = 1 → s.work.coxState (64 * domainDie p.val) = 0 → 64 ≤ (s.work.domain p.val).waitBeats →
      Leads (.admitTimeout p) s (fun w => w.pdState p.val = 2 ∧ RegsKept s.work w [PD_STATUS p.val, RAMP_CNT p.val, ADMIT_US p.val])) ∧
    (∀ q, q ∈ s.work.start.ramping → q ≠ p.val → p.val ∈ s.work.start.ramping → s.work.pdState p.val ≠ 6 →
      Gives (.rampDone p) s { s.work.inc (RAMP_CNT p.val) with
        start := { s.work.start with ramping := s.work.start.ramping.filter (· != p.val) } }) ∧
    (p.val ∉ s.work.start.ramping → s.work.pdState p.val = 2 → s.work.flag (PD_STATUS p.val) 4 = false →
      (s.work.domain p.val).slots = [] → (s.work.domain p.val).fromOff = false →
      Leads (.rampDone p) s (fun w => w.pdState p.val = 3 ∧
        w.fld (PD_STATUS p.val) 8 4 = min (s.work.fld (PD_STATUS p.val) 12 4)
          (min (s.work.fld (PD_STATUS p.val) 16 4) (s.work.fld (PD_STATUS p.val) 20 4)) ∧
        RegsKept s.work w [PD_STATUS p.val])) ∧
    (p.val ∉ s.work.start.ramping → s.work.pdState p.val = 2 → s.work.coxes = [] → s.work.node = 0xFFFE →
      Leads (.rampTimeout p) s (fun w => w.pdState p.val = 6 ∧ w.flag (PD_ERR p.val) 1 = true ∧ w.mgr.lastingPending = true ∧
        w.mgr.diagnosable = true ∧ (∃ r, w.fault.log.head? = some r ∧ r.cls = 9 ∧ r.code = p.val) ∧ w.mem = s.work.mem)) ∧
    (s.work.pdState p.val = 4 → s.work.domainIdle p.val = true →
      Leads (.drainComplete p) s (fun w => w.pdState p.val = 5 ∧ (w.domain p.val).since = s.work.now ∧
        RegsKept s.work w [PD_STATUS p.val])) ∧
    (s.work.pdState p.val = 4 → orDefault (s.work.fld PWR_CFG 0 8) 1 ≤ (s.work.domain p.val).drainBeats →
      (s.work.domain p.val).slots = [] →
      Leads (.drainTimeout p) s (fun w => w.pdState p.val = 3 ∧ w.flag (PD_ERR p.val) 2 = true ∧
        RegsKept s.work w [PD_STATUS p.val, PD_ERR p.val])) ∧
    (s.work.pdState p.val = 5 → s.work.flag (PD_STATUS p.val) 3 = true → s.work.gateOpen p.val (s.work.domain p.val).win = true →
      Leads (.dischargeDone p) s (fun w => w.pdState p.val = 2 ∧ w.flag (PD_STATUS p.val) 3 = false ∧
        (w.domain p.val).fromOff = true ∧ RegsKept s.work w [PD_STATUS p.val, RAMP_CNT p.val])) ∧
    (s.work.pdState p.val = 5 → s.work.flag (PD_STATUS p.val) 3 = false → (s.work.domain p.val).slots = [] →
      Leads (.dischargeDone p) s (fun w => w.pdState p.val = 0 ∧ RegsKept s.work w [PD_STATUS p.val]))))

/-- R469 to R475: a lost phase stays switched out, counts and lowers what is left; an excluded sensor is noted, four at the most; a
droop and an undervoltage are counted, and the clock returns to full rate.

R465, R472, R485: a package current above 1,760 A lowers CAP_PKG at once and asks for an urgent reading; one between the limits
starts every count anew; a report's averages and voltages are held; the first hot sample lowers the die's cap, a middling one
leaves it. -/
def Obligations.CurrentsPhasesAndTemperatures : Prop :=
  (
  (∀ (s : State) (p : Fin 72) (n : Fin 10), s.board.alive = true → n.val < phasesN p.val + 2 →
    s.work.flag (PD_PHASE p.val) n.val = false → s.work.pdState p.val ≠ 6 →
    Leads (.phaseFault p n) s (fun w => w.flag (PD_PHASE p.val) n.val = true ∧
      w.fld (PD_STATUS p.val) 24 4 = s.work.fld (PD_STATUS p.val) 24 4 - 1 ∧
      w.rd PHASE_FAIL_CNT = min (s.work.rd PHASE_FAIL_CNT + 1) 0xFFFFFFFF ∧ w.flag (PD_ERR p.val) 0 = true ∧
      w.mem = s.work.mem)) ∧
  (∀ (s : State) (p : Fin 72) (n : Fin 12), s.board.alive = true → s.work.flag (PD_SENSOR_EXCL p.val) n.val = false →
    (((List.range 12).filter (fun i => s.work.flag (PD_SENSOR_EXCL p.val) i)).length < 4 →
      Gives (.sensorExclude p n) s ((s.work.setBit (PD_SENSOR_EXCL p.val) n.val).setBit (PD_ERR p.val) 4)) ∧
    (4 ≤ ((List.range 12).filter (fun i => s.work.flag (PD_SENSOR_EXCL p.val) i)).length →
      Gives (.sensorExclude p n) s s.work)) ∧
  (∀ (s : State) (p : Fin 72), s.board.alive = true →
    Gives (.railDroop p) s (s.work.inc (SPURT_CNT p.val)) ∧
    Gives (.railUndervolt p) s ((s.work.setDomain p.val { s.work.domain p.val with halfRate := true }).inc (DROOP_CNT p.val)) ∧
    Gives (.droopRecovery p) s (s.work.setDomain p.val { s.work.domain p.val with halfRate := false }))) ∧
  (
  (∀ (s : State) (x : Nat), s.board.alive = true → 17600 < x → s.work.power.lowered = none → s.work.fld PKG_STATUS 0 4 = 8 →
    s.work.hk.cur = none →
    Leads (.pkgCurrentSample x) s (fun w => w.fld PKG_STATUS 0 4 = 7 ∧ w.power.lowered = some 0 ∧
      w.rd PKG_LIMIT_CNT = min (s.work.rd PKG_LIMIT_CNT + 1) 0xFFFFFFFF ∧ w.hk.cur = some (9, 0) ∧
      (∀ p < 64, pkgCapped p = true → w.fld (PD_STATUS p) 20 4 = 7) ∧ w.mem = s.work.mem)) ∧
  (∀ (s : State) (x : Nat), s.board.alive = true → 13000 ≤ x → x ≤ 14000 → s.work.power.lowered = none →
    Gives (.pkgCurrentSample x) s { s.work with power := { s.work.power with overUs := 0, underUs := 0 } }) ∧
  (∀ (s : State) (ia ip vm : List Nat) (a b : Nat), s.board.alive = true →
    Leads (.pdReportTick ia ip vm a b) s (fun w =>
      (∀ p < 72, w.rd (PD_IAVG p) = ia.getD p 0 % 65536 + 65536 * (ip.getD p 0 % 65536) ∧ w.rd (PD_VMIN p) = vm.getD p 0 % 1024) ∧
      w.rd PKG_IAVG = a % 65536 + 65536 * (b % 65536) ∧ w = { s.work with regs := w.regs })) ∧
  (∀ (s : State) (d : Fin 20) (code : Nat), s.board.alive = true → code < 4096 →
    let t := Sp.get s.work.power.therm {} d.val
    ((s.work.throttleC + 64) * 16 ≤ code → t.hot = none → t.cap ≤ 8 →
      Leads (.thermSample d code) s (fun w =>
        (Sp.get w.power.therm {} d.val).cap = max 2 (t.cap - 1) ∧
        (∀ p ∈ dieDomains d.val, thermCapped p = true → w.fld (PD_STATUS p) 16 4 = max 2 (t.cap - 1)) ∧
        w.fld HOT_MAX 0 12 = max (s.work.fld HOT_MAX 0 12) code ∧ w.mem = s.work.mem)) ∧
    (code < (s.work.throttleC + 64) * 16 → (s.work.throttleC - 3 + 64) * 16 ≤ code →
      Leads (.thermSample d code) s (fun w =>
        (Sp.get w.power.therm {} d.val).cap = t.cap ∧ (Sp.get w.power.therm {} d.val).hot = none ∧ w.mem = s.work.mem))))

/-- R486, R487: the 115 °C comparator asks for an urgent reading of its die; a second firing within 1 ms trips the device, of which only
the cells outlast the trip. -/
def Obligations.TheComparatorAsksThenTrips : Prop :=
  ∀ (s : State) (d : Fin 20), s.board.alive = true →
    let t := Sp.get s.work.power.therm {} d.val
    (t.fired = none → s.work.hk.cur = none → s.work.hkState = 1 →
      Gives (.thermtripComparator d) s
        ({ s.work with
            power := { s.work.power with therm := Sp.put s.work.power.therm d.val { t with fired := some s.work.now } }
            hk := { s.work.hk with cur := some (13, d.val), aborted := none, steps := 0, start := s.work.now } }.setFld HK_STATUS 0 2 3)) ∧
    (∀ f, t.fired = some f → s.work.now ≤ f + 1000000 →
      GivesBoth (.thermtripComparator d) s { s.board with thermtrip := true }
        { cells := s.work.cells, now := s.work.now, free := s.work.free, out := s.work.out })

/-! ### The security engine -/

/-- R509, R512, R513, R515, R516, R518, Tables 14-10 and 14-11: a command that the path may start runs on an engine that is free and
keeps its outcome until its end; a busy engine answers error 1; a condition that does not hold answers its error and starts
nothing. A new tenant's clearing empties local memory, accumulators and keys of sessions at once. -/
def Obligations.SecurityCommandsStart : Prop :=
  let err (w : Work) (n : Nat) : Work := (w.setBit SEC_STATUS 2).setFld SEC_STATUS 8 4 n
  let runs (w : Work) (op code : Nat) (out : List Byte) : Work := { w with sec := { w.sec with cmd := some (op, code, out) } }.setBit SEC_STATUS 0
  let cmds (p : Path) (nonce : List Byte) : List (Instr × Nat) :=
    [(.attest p, 1), (.dbgChallenge p nonce, 2), (.dbgResponse p, 3), (.dbgClose p, 4), (.ownerProgram p, 5), (.ownerChange p, 6),
     (.tenant p, 7), (.cakLoad p, 8)]
  (∀ (s : State) (p : Path) (nonce : List Byte) (q : Instr × Nat), s.board.alive = true → q ∈ cmds p nonce → s.work.Writable p SEC_CMD q.2 →
    (s.work.flag SEC_STATUS 0 = true → Gives q.1 s (err s.work 1))) ∧
  (∀ (s : State) (p : Path) (nonce : List Byte), s.board.alive = true → s.work.flag SEC_STATUS 0 = false →
    (s.work.Writable p SEC_CMD 1 → Gives (.attest p) s (runs s.work 1 0 (s.work.attestation s.board (s.work.mbox 32)))) ∧
    (s.work.Writable p SEC_CMD 2 →
      (s.work.start.ownerSlot = none → Gives (.dbgChallenge p nonce) s (err s.work 3)) ∧
      (s.work.start.ownerSlot.isSome = true → 4 ≤ s.work.fld SEC_STATUS 19 3 → Gives (.dbgChallenge p nonce) s (err s.work 6)) ∧
      (s.work.start.ownerSlot.isSome = true → s.work.fld SEC_STATUS 19 3 < 4 →
        Gives (.dbgChallenge p nonce) s (runs s.work 2 0 (s.work.challengeRecord nonce)))) ∧
    (s.work.Writable p SEC_CMD 3 →
      (s.work.challengeFresh = false → Gives (.dbgResponse p) s (err s.work 5)) ∧
      (s.work.challengeFresh = true → s.work.allIdle = false → Gives (.dbgResponse p) s (err s.work 3)) ∧
      (s.work.challengeFresh = true → s.work.allIdle = true →
        Gives (.dbgResponse p) s (runs s.work 3 (if s.work.responsePasses then 0 else 4) []))) ∧
    (s.work.Writable p SEC_CMD 4 → Gives (.dbgClose p) s (runs s.work 4 0 [])) ∧
    (s.work.Writable p SEC_CMD 5 →
      (s.board.owners ≠ [] → Gives (.ownerProgram p) s (err s.work 3)) ∧
      (s.board.owners = [] → Gives (.ownerProgram p) s (runs s.work 5 0 (s.work.mbox 64)))) ∧
    (s.work.Writable p SEC_CMD 6 →
      (s.board.owners = [] ∨ 4 ≤ s.board.owners.length → Gives (.ownerChange p) s (err s.work 3)) ∧
      (s.board.owners ≠ [] → s.board.owners.length < 4 →
        Gives (.ownerChange p) s (runs s.work 6 (if s.work.changePasses s.board then 0 else 4) (s.work.mbox 64)))) ∧
    (s.work.Writable p SEC_CMD 7 →
      (s.work.allIdle = false ∨ leAt (s.work.mbox 4) 0 4 = s.work.rd TENANT → Gives (.tenant p) s (err s.work 3)) ∧
      (s.work.allIdle = true → leAt (s.work.mbox 4) 0 4 ≠ s.work.rd TENANT → s.work.sess.open_ = [] → s.work.digital = [] →
        Leads (.tenant p) s (fun w => w.flag SEC_STATUS 0 = true ∧ w.flag SEC_STATUS 22 = true ∧
          w.sec.clearing = some (.tenant (leAt (s.work.mbox 4) 0 4)) ∧ w.acc = [] ∧ w.rd TENANT = s.work.rd TENANT ∧
          (∀ c ∈ w.mem, c.1 < 2 ^ 40) ∧ w.cells = s.work.cells))) ∧
    (s.work.Writable p SEC_CMD 8 →
      let n := leAt (s.work.mbox 9) 8 1
      (n = 0 ∨ 32 < n ∨ (∃ k ∈ s.work.cakPorts, s.work.flag (LINK_CFG k) 12 = false) → Gives (.cakLoad p) s (err s.work 3)) ∧
      (1 ≤ n → n ≤ 32 → (∀ k ∈ s.work.cakPorts, s.work.flag (LINK_CFG k) 12 = true) →
        Gives (.cakLoad p) s (runs s.work 8 0 []))))

/-- R509, R513, R515, R516, R518: the engine's command ends with its error, or with its effect and DONE: the mailbox output, a new
owner slot, closed permissions, keys; a failed response counts toward the lockout. A response that passes, and a new tenant, go
on to the clearing, at whose end the permissions are granted or the tenant stands. -/
def Obligations.SecurityCommandsEnd : Prop :=
  (∀ (s : State) (op code : Nat) (out : List Byte), s.board.alive = true → s.work.sec.cmd = some (op, code, out) →
    s.work.sec.clearing = none →
    (code ≠ 0 → code < 16 → Leads .secCmdComplete s (fun w => w.sec.cmd = none ∧ w.flag SEC_STATUS 0 = false ∧
      w.flag SEC_STATUS 2 = true ∧ w.fld SEC_STATUS 8 4 = code ∧ RegsKept s.work w [SEC_STATUS] ∧ w.mem = s.work.mem ∧
      (op = 3 → w.fld SEC_STATUS 19 3 = min (s.work.fld SEC_STATUS 19 3 + 1) 7 ∧ w.sec.challenge = none) ∧
      (op ≠ 3 → w.fld SEC_STATUS 19 3 = s.work.fld SEC_STATUS 19 3 ∧ w.sec.challenge = s.work.sec.challenge))) ∧
    (op = 4 → code = 0 → Leads .secCmdComplete s (fun w => w.sec.cmd = none ∧ w.perm = s.work.perm &&& 2 ∧
      w.flag SEC_STATUS 1 = true ∧ w.flag SEC_STATUS 0 = false ∧ RegsKept s.work w [SEC_STATUS])) ∧
    (op = 5 → code = 0 → s.board.owners = [] → ∃ w, GivesBoth .secCmdComplete s { s.board with owners := [out] } w ∧
      w.flag SEC_STATUS 1 = true ∧ w.flag SEC_STATUS 0 = false ∧ RegsKept s.work w [SEC_STATUS]) ∧
    (op = 6 → code = 0 → ∃ w, GivesBoth .secCmdComplete s { s.board with owners := s.board.owners ++ [out] } w ∧
      w.flag SEC_STATUS 1 = true ∧ w.flag SEC_STATUS 0 = false ∧ RegsKept s.work w [SEC_STATUS]) ∧
    (op = 2 → code = 0 → out.length = 64 → Leads .secCmdComplete s (fun w => w.sec.challenge = some (out, s.work.now) ∧
      w.mbox 64 = out ∧ w.flag SEC_STATUS 1 = true ∧ w.mem = s.work.mem)) ∧
    (op = 3 → code = 0 → s.work.sess.open_ = [] → s.work.digital = [] → ∀ r t, s.work.sec.challenge = some (r, t) →
      Leads .secCmdComplete s (fun w => w.sec.clearing = some (.debug (leAt r 48 1 % 8)) ∧ w.sec.challenge = none ∧
        w.flag SEC_STATUS 22 = true ∧ w.perm = s.work.perm ∧ w.acc = []))) ∧
  (∀ s : State, s.board.alive = true → s.work.sec.cmd = none → GivesBoth .secCmdComplete s s.board s.work) ∧
  (∀ s : State, s.board.alive = true →
    (s.work.sec.clearing = none ∨ s.work.clearOver = false → Gives .clearingDone s s.work) ∧
    (∀ v, s.work.sec.clearing = some (.tenant v) → s.work.clearOver = true → Leads .clearingDone s (fun w =>
      w.rd TENANT = v % 2 ^ 32 ∧ w.sec.clearing = none ∧ w.sec.cmd = none ∧ w.flag SEC_STATUS 0 = false ∧
      w.flag SEC_STATUS 1 = true ∧ w.flag SEC_STATUS 22 = false ∧ RegsKept s.work w [TENANT, SEC_STATUS] ∧ w.mem = s.work.mem)) ∧
    (∀ perm, s.work.sec.clearing = some (.debug perm) → s.work.clearOver = true → Leads .clearingDone s (fun w =>
      w.perm = s.work.perm ||| perm % 8 ∧ w.sec.clearing = none ∧ w.flag SEC_STATUS 22 = false ∧ w.flag SEC_STATUS 1 = true ∧
      (perm.testBit 1 = true → w.flag SEC_STATUS 15 = true ∧ w.flag CFG_STATUS 9 = false) ∧
      RegsKept s.work w [SEC_STATUS, GLB_STATUS, CFG_STATUS])))

/-! ### Register accesses -/

/-- R520, R527, R534, R536: an access outside the window has no effect; one of another size or alignment, outside its path's permissions,
or of a dark block writes nothing, sets its bit of REG_ERR and is recorded with address and path; a denied one is counted. A write that a
reset of the unit that holds its address, or an earlier access of its path, holds up waits. -/
def Obligations.RefusedAccessesAreRecorded : Prop :=
  let recorded (s : State) (p : Path) (a bit : Nat) (w : Work) : Prop :=
    w.flag REG_ERR bit = true ∧ w.rd REG_LAST_ADDR = a + 2 ^ 30 ∧
    w.rd REG_LAST_PATH = pathCode (s.work.busPath p) + 16 * pathHost (s.work.busPath p) ∧
    (∀ i, i ≠ bit → w.flag REG_ERR i = s.work.flag REG_ERR i) ∧ w = { s.work with regs := w.regs }
  (∀ (s : State) (p : Path) (size a : Nat) (v : Word), s.board.answers = true → 2 ^ 30 ≤ a →
    Gives (.registerWrite p size a v) s s.work) ∧
  (∀ (s : State) (p : Path) (size a : Nat) (v : Word), s.board.answers = true → a < 2 ^ 30 → size ≠ 4 ∨ (a % 4 ≠ 0 ∧ s.work.holdsUp p a = false) →
    Leads (.registerWrite p size a v) s (fun w => recorded s p a 1 w ∧ RegsKept s.work w [REG_ERR, REG_LAST_ADDR, REG_LAST_PATH])) ∧
  (∀ (s : State) (p : Path) (a : Nat) (v : Word), s.board.answers = true → a < 2 ^ 30 →
    s.work.holdsUp p a = true → Gives (.registerWrite p 4 a v) s (s.work.await (.write p a v.toNat none))) ∧
  (∀ (s : State) (p : Path) (a : Nat) (v : Word), s.board.answers = true → a < 2 ^ 30 → a % 4 = 0 → s.work.holdsUp p a = false →
    (s.work.mayWrite (s.work.busPath p) a v.toNat = false → Leads (.registerWrite p 4 a v) s (fun w => recorded s p a 0 w ∧
      w.rd REG_DENY_CNT = min (s.work.rd REG_DENY_CNT + 1) 0xFFFFFFFF ∧
      RegsKept s.work w [REG_ERR, REG_LAST_ADDR, REG_LAST_PATH, REG_DENY_CNT])) ∧
    (s.work.mayWrite (s.work.busPath p) a v.toNat = true → s.work.darkAt a = true →
      Leads (.registerWrite p 4 a v) s (fun w => recorded s p a 3 w ∧ RegsKept s.work w [REG_ERR, REG_LAST_ADDR, REG_LAST_PATH])))

/-- R15, R530: a plain register takes the written value in its RW bits, and in its RWL bits while they are not locked for the path; a W1C
bit written 1 clears; every other bit keeps its value. A write while RWL fields are locked is also recorded as locked.
BEAT_CTL takes SRC 00 and 01 so, and an unlocked SRC 11 as 00, which BEAT_STATUS shows. -/
def Obligations.PlainWritesFollowTheAccessTypes : Prop :=
  (∀ (s : State) (p : Path) (a : Nat) (v : Word) (r : RegRow), s.board.answers = true → a < 2 ^ 30 → a % 4 = 0 → regRow a = some r →
    ((∃ e o, locate a = some (.eight, e, o)) ∨
      a ∈ [GLB_SCRATCH, REG_ERR, BEAT_STATUS, FAULT_STATUS, HANG_WIN0, ESC_CFG, RTX_CFG, THERM_CFG] ∨
      (a ∈ [BEAT_CTL, BEAT_PERIOD] ∧ s.work.rwlLocked (s.work.busPath p) = true) ∨ (a = BEAT_CTL ∧ v.toNat % 4 < 2)) →
    s.work.mayWrite (s.work.busPath p) a v.toNat = true → s.work.darkAt a = false → s.work.holdsUp p a = false →
    let locked := s.work.rwlLocked (s.work.busPath p)
    let after (w : Work) (i : Nat) : Prop :=
      (w.reg a).getLsbD i =
        if r.w1c.testBit i && v.getLsbD i then false
        else if r.rw.testBit i || (r.rwl.testBit i && !locked) then v.getLsbD i else (s.work.reg a).getLsbD i
    ((r.rwl = 0 ∨ locked = false) → Leads (.registerWrite p 4 a v) s (fun w =>
      (∀ i < 32, after w i) ∧ RegsKept s.work w [a] ∧ w = { s.work with regs := w.regs })) ∧
    (r.rwl ≠ 0 → locked = true → Leads (.registerWrite p 4 a v) s (fun w =>
      (∀ i < 32, after w i) ∧ w.flag REG_ERR 2 = true ∧ w.rd REG_LAST_ADDR = a + 2 ^ 30 ∧
      RegsKept s.work w [a, REG_ERR, REG_LAST_ADDR, REG_LAST_PATH] ∧ w = { s.work with regs := w.regs }))) ∧
  (∀ (s : State) (p : Path) (v : Word), s.board.alive = true → s.work.Writable p BEAT_CTL v.toNat → v.toNat % 4 = 3 →
    s.work.rwlLocked (s.work.busPath p) = false →
    Leads (.registerWrite p 4 BEAT_CTL v) s (fun w => w.fld BEAT_CTL 0 2 = 0 ∧ w.flag BEAT_STATUS 5 = true ∧
      RegsKept s.work w [BEAT_CTL, BEAT_STATUS] ∧ w = { s.work with regs := w.regs }))

/-- R521: an address that no register stands at reads zero on every path that may read it, ignores writes, and sets no error flag. -/
def Obligations.UnmappedAddressesReadZeroAndIgnoreWrites : Prop :=
  ∀ (s : State) (p : Path) (a : Nat), a < 2 ^ 30 → regRow a = none → s.board.answers = true →
    (∀ v : Word, s.work.Writable p a v.toNat → Gives (.registerWrite p 4 a v) s s.work) ∧
    (s.work.Readable p a → s.work.pathRead s.board p a = (0, s.work, 0)) ∧
    (∀ v q : Word, s.work.access.i3cAddr.isSome = true → ptrAddr q = a → s.work.Writable .i3cRestricted a v.toNat →
      Gives (.i3cPrivateWrite q v) s { s.work with access := { s.work.access with pointer := q &&& 0xBFFFFFFF } })

/-- R533: a read of the low word of a pair sends it and latches the high word for its path alone; a read of the high word on that path
answers what was latched, whatever the counter has become. -/
def Obligations.LowWordsLatchTheHighWordForTheirPath : Prop :=
  (∀ (s : State) (p : Path) (run : Bool), s.board.answers = true →
    let lo := if run then RUN_BEATS_LO else BEAT_COUNT_LO
    let hi := if run then RUN_BEATS_HI else BEAT_COUNT_HI
    let now := if run then s.work.runBeats else s.work.rd BEAT_COUNT_LO + 2 ^ 32 * s.work.rd BEAT_COUNT_HI
    let code := pathCode (s.work.busPath p)
    s.work.Readable p lo → (run = true → s.work.mgrShows = true) →
    Leads (.beatCountRead p run) s (fun w =>
      w.out = s.work.out ++ [.word code (BitVec.ofNat 32 (now % 2 ^ 32))] ∧
      Sp.find (Sp.get w.access.paths {} code).latch hi = some (BitVec.ofNat 32 (now / 2 ^ 32)) ∧
      (∀ q, q ≠ code → Sp.get w.access.paths {} q = Sp.get s.work.access.paths {} q) ∧
      w.regs = s.work.regs ∧ w.mem = s.work.mem)) ∧
  (∀ (s : State) (p : Path) (hi : Nat) (v : Word), (hi = BEAT_COUNT_HI ∨ (hi = RUN_BEATS_HI ∧ s.work.mgrShows = true)) →
    s.work.Readable p hi → Sp.find (Sp.get s.work.access.paths {} (pathCode (s.work.busPath p))).latch hi = some v →
    s.work.pathRead s.board p hi = (v.toNat, s.work, 0))

/-- R310, R538, R539, R540: a read of MEM_WIN_DATA sends the word of stack memory at the path's own window address and advances that address
by 4, noting and counting poison; an address that the path may not read answers zero and is flagged; a zeroising stack holds the read up; no
read changes memory, and a write is ignored. -/
def Obligations.TheMemoryWindowReadsStackMemoryOnly : Prop :=
  (∀ (s : State) (p : Path), s.board.answers = true → s.work.Readable p MEM_WIN_DATA →
    let code := pathCode (s.work.busPath p)
    let q := s.work.pathSt p
    (s.work.winRefused p = false → s.work.serves (stackOf q.winAt).1 = true →
      Leads (.memWinRead p) s (fun w => q.winAt < apertureBase ∧ w.out = s.work.out ++ [.word code (s.work.word q.winAt)] ∧
        (w.pathSt p).winAt = q.winAt + 4 ∧
        (w.pathSt p).winStatus = (if s.work.poisoned q.winAt 4 then q.winStatus ||| 1 else q.winStatus) ∧
        (∀ c, c ≠ code → Sp.get w.access.paths {} c = Sp.get s.work.access.paths {} c) ∧
        RegsKept s.work w ((List.range 12).map POISON_RD_CNT) ∧ w.mem = s.work.mem ∧
        (q.winAt % 4 = 0 → w.rd (POISON_RD_CNT (stackOf q.winAt).1) = min (s.work.rd (POISON_RD_CNT (stackOf q.winAt).1) +
          (s.work.poison.filter (· == q.winAt / 256)).length) 0xFFFFFFFF))) ∧
    (s.work.winRefused p = true →
      Leads (.memWinRead p) s (fun w => w.out = s.work.out ++ [.word code 0] ∧ (w.pathSt p).winAt = q.winAt ∧
        (w.pathSt p).winStatus = q.winStatus ||| 2 ∧ w.flag REG_ERR 4 = true ∧ w.rd REG_LAST_ADDR = MEM_WIN_DATA ∧
        RegsKept s.work w [REG_ERR, REG_LAST_ADDR, REG_LAST_PATH] ∧ w.mem = s.work.mem)) ∧
    (s.work.winRefused p = false → s.work.serves (stackOf q.winAt).1 = false →
      Gives (.memWinRead p) s (s.work.await (.read p MEM_WIN_DATA none)))) ∧
  (∀ (s t : State) (p : Path), exec (.memWinRead p) s = .next t → t.work.mem = s.work.mem ∧ t.work.poison = s.work.poison) ∧
  (∀ (s : State) (p : Path) (v : Word), s.board.answers = true → s.work.Writable p MEM_WIN_DATA v.toNat →
    Leads (.registerWrite p 4 MEM_WIN_DATA v) s (fun w => RegsKept s.work w [] ∧ w = { s.work with regs := w.regs }))

/-- R542: over I3C a pointer write sets the pointer, a private write stores a word at its pointer, and a private read sends the held word
first, then words from the pointer on, and ends with end-of-data at one that has to wait; a device without a dynamic address hears none of them, and a read of no word or of more
than 1,024 has no effect. -/
def Obligations.I3cTransfersReachRegisters : Prop :=
  (∀ (s : State) (c : Instr) (q v : Word) (n : Nat), (c = .i3cPointerWrite q ∨ c = .i3cPrivateWrite q v ∨ c = .i3cPrivateRead n) →
    s.board.answers = true → s.work.access.i3cAddr = none → Gives c s s.work) ∧
  (∀ (s : State) (q : Word), s.board.answers = true → s.work.access.i3cAddr.isSome = true →
    Gives (.i3cPointerWrite q) s { s.work with access := { s.work.access with pointer := q &&& 0xBFFFFFFF } }) ∧
  (∀ (s : State) (q v : Word), s.board.answers = true → s.work.access.i3cAddr.isSome = true → ptrAddr q = GLB_SCRATCH →
    s.work.darkAt GLB_SCRATCH = false → s.work.holdsUp .i3cRestricted GLB_SCRATCH = false →
    Leads (.i3cPrivateWrite q v) s (fun w => w.reg GLB_SCRATCH = v ∧ w.access.pointer = q &&& 0xBFFFFFFF ∧
      RegsKept s.work w [GLB_SCRATCH] ∧ w.mem = s.work.mem)) ∧
  (∀ (s : State) (n : Nat), s.board.answers = true → n = 0 ∨ 1024 < n → Gives (.i3cPrivateRead n) s s.work) ∧
  (∀ (s : State), s.board.answers = true → s.work.access.i3cAddr.isSome = true →
    let code := pathCode (s.work.busPath .i3cRestricted)
    let ptr := s.work.access.pointer
    (∀ v, s.work.access.heldWord = some v → Gives (.i3cPrivateRead 1) s
      { s.work with access := { s.work.access with heldWord := none, pointer := ptrNext ptr &&& 0xBFFFFFFF },
                    out := s.work.out ++ [.word code v] }) ∧
    (s.work.access.heldWord = none → s.work.holdsUp .i3cRestricted GLB_SCRATCH = false → ptrAddr ptr = GLB_SCRATCH →
      s.work.darkAt GLB_SCRATCH = false →
      Gives (.i3cPrivateRead 1) s
        { s.work with access := { s.work.access with pointer := ptrNext ptr &&& 0xBFFFFFFF },
                      out := s.work.out ++ [.word code (s.work.reg GLB_SCRATCH)] }) ∧
    (∀ n, 1 ≤ n → n ≤ 1024 → s.work.access.heldWord = none →
      (s.work.access.waits.any (fun x => match x with | .i3cWord _ => true | _ => false) = true → Gives (.i3cPrivateRead n) s (s.work.emit .i3cEnd)) ∧
      (s.work.access.waits = [] → s.work.underReset (ptrAddr ptr) = true ∨ s.work.readWaits .i3cRestricted (ptrAddr ptr) = true →
        Gives (.i3cPrivateRead n) s ((s.work.await (.i3cWord (ptrAddr ptr))).emit .i3cEnd))))

/-- R58: a write of COX_PROG while the cox is not IDLE is ignored; while it is IDLE it sets the program's address. -/
def Obligations.ProgramAddressIsWrittenInIdleOnly : Prop :=
  ∀ (s : State) (p : Path) (c : Fin 1024) (v : Word), s.board.alive = true →
    (s.work.coxState c.val ≠ 0 → ∃ w, Gives (.registerWrite p 4 (COX_PROG c.val) v) s w ∧
      w.reg (COX_PROG c.val) = s.work.reg (COX_PROG c.val) ∧
      (s.work.Writable p (COX_PROG c.val) v.toNat → w = s.work)) ∧
    (s.work.coxState c.val = 0 → s.work.Writable p (COX_PROG c.val) v.toNat →
      Leads (.registerWrite p 4 (COX_PROG c.val) v) s (fun w => w.reg (COX_PROG c.val) =
        (s.work.reg (COX_PROG c.val) &&& 0xFFE0003F) ||| (v &&& 0x1FFFC0) ∧ RegsKept s.work w [COX_PROG c.val]))

/-! ### The machine as a whole -/

/-- One step runs the command at the front of the queue with the rest kept; with none waiting one nanosecond passes (the model's choice,
notes/assumptions/1.md). -/
def Obligations.StepRunsTheFrontCommand : Prop :=
  (∀ (s : State) (c : Instr) (rest : List Instr), step { s with pending := c :: rest } = exec c { s with pending := rest }) ∧
  (∀ s : State, s.pending = [] → step s = .next { s with work := { s.work with now := s.work.now + 1 } })

/-- Every command answers a next state in every state, and leaves the queue as it is. -/
def Obligations.EveryCommandAnswersAndKeepsTheQueue : Prop :=
  ∀ (c : Instr) (s : State), ∃ t, exec c s = .next t ∧ t.pending = s.pending

/-- R449, R487, R491, R554: a device without supply, power good or clock, in reset, tripped, or held for a power cycle takes no command but
those of pins, supply and register paths; with no supply or in reset, or tripped, the register paths are silent too. -/
def Obligations.AHeldDeviceIgnoresItsCommands : Prop :=
  (∀ (c : Instr) (s : State), s.board.alive = false → actsHeld c = false → exec c s = .next s) ∧
  (∀ (c : Instr) (s : State), s.board.answers = false → actsHeld c = true →
    (∀ r, c ≠ .resetLRise r) → (∀ n, c ≠ .resetLFall n) → c ≠ .pwrGoodFall → c ≠ .refclkLoss → c ≠ .refclkReturn →
    c ≠ .powerRemoved → c ≠ .pcycIbiTimer → exec c s = .next s)

/-- R5: the device takes its role from the straps at a rise of RESET_L, and no other command changes it. -/
def Obligations.TheRoleIsSampledAtTheRiseOfReset : Prop :=
  (∀ (s : State) (straps : Fin 4), s.board.resetL = false →
    ∃ t, exec (.resetLRise straps) s = .next t ∧ t.board.role = straps) ∧
  (∀ (c : Instr) (s t : State), exec c s = .next t → (∀ r, c ≠ .resetLRise r) → t.board.role = s.board.role)

/-- R559: the trip and power-cycle pins, once low, stay low through every command until the supply is removed. -/
def Obligations.TripAndPowerCycleHoldUntilPowerIsRemoved : Prop :=
  ∀ (c : Instr) (s t : State), exec c s = .next t → c ≠ .powerRemoved →
    (s.board.thermtrip = true → t.board.thermtrip = true) ∧ (s.board.pcyc = true → t.board.pcyc = true)

/-- R509, R510: what is burnt stays burnt: over every step the owner slots written keep their digests in order and the fused minimum
security version does not fall. -/
def Obligations.FusesOnlyGrow : Prop :=
  ∀ (slots : List (List Byte)) (n : Nat),
    let Inv (s : State) : Prop := slots <+: s.board.owners ∧ n ≤ s.board.secMin
    ∀ s t : State, Inv s → step s = .next t → Inv t

/-- R69, R89, R151, R490, R531: after reset every register holds the Reset value of its field map, no command waits, memory lists nothing
and keeps its canonical form, every cox is IDLE, every tile's map is the identity with one deck in reserve, the read budget is
49,152, and every gain is 1.0 and unmeasured. -/
def Obligations.ResetLeavesTheStatedValues : Prop :=
  (∀ a, State.reset.work.reg a = BitVec.ofNat 32 (regReset a)) ∧ State.reset.pending = [] ∧ State.reset.work.mem = [] ∧
  State.reset.MemOk ∧ State.reset.board.role = 0 ∧
  (∀ c < 1024, State.reset.work.coxState c = 0) ∧
  (∀ c < 1024, ∀ t < 16, State.reset.work.rd (RBUDGET c t) = 49152 ∧ State.reset.work.rd (DECK_STATE c t) = 0x4000 ∧
    (∀ k < 8, State.reset.work.phys c t k = k) ∧
    (∀ j, (State.reset.work.tile c t).offOf j = 0 ∧ (State.reset.work.tile c t).gainOf j = 32768)) ∧
  State.reset.work.start.ramping = [65, 67, 69, 71]

/-- R295, R315: the commands that store blocks and lines keep memory in its canonical form. -/
def Obligations.StoredBlocksKeepMemoryCanonical : Prop :=
  ∀ (c : Instr) (s t : State), s.MemOk → exec c s = .next t →
    ((∃ q d p e, c = .hbmWrite q d p e) ∨ (∃ b, c = .tblkArrival b) ∨ (∃ b, c = .tblkRearrival b) ∨ (∃ k p, c = .data k p) ∨
      (∃ k p, c = .readResp k p) ∨ (∃ p, c = .memWinRead p)) → t.MemOk
end

