-- ==== Sys2Proof/Laws/Sp.lean ====
section
/-! SUPPORT. Laws/Sp.lean: sparse maps: what a key reads as after a key is bound anew or removed. -/

namespace Sys2Proof.Machine.Sp

variable {α : Type}

theorem find_ins (k : Nat) (v : α) (l : Sp α) (h : ∀ p ∈ l, p.1 ≠ k) (j : Nat) :
    find (ins k v l) j = if j = k then some v else find l j := by
  induction l with
  | nil =>
    by_cases hj : j = k
    · simp [ins, find, hj]
    · have : (k == j) = false := by simp [Ne.symm hj]
      simp [ins, find, this, hj]
  | cons p ps ih =>
    have hp : p.1 ≠ k := h p (by simp)
    have hps : ∀ q ∈ ps, q.1 ≠ k := fun q hq => h q (by simp [hq])
    simp only [ins]
    split
    · simp only [find, List.find?_cons]
      by_cases hj : j = k
      · simp [hj]
      · have : (k == j) = false := by simp [Ne.symm hj]
        simp [this, hj]
    · simp only [find, List.find?_cons] at ih ⊢
      by_cases hj : p.1 = j
      · have : j ≠ k := hj ▸ hp
        simp [hj, this]
      · have hb : (p.1 == j) = false := by simp [hj]
        rw [hb]
        exact ih hps

theorem find_erase (k : Nat) (l : Sp α) (j : Nat) :
    find (erase l k) j = if j = k then none else find l j := by
  induction l with
  | nil => simp [erase, find]
  | cons p ps ih =>
    simp only [erase, find, List.filter_cons, List.find?_cons] at ih ⊢
    by_cases hp : p.1 = k
    · simp only [hp, bne_self_eq_false, Bool.false_eq_true, if_false]
      by_cases hj : j = k
      · simp [hj]
      · have : (k == j) = false := by simp [Ne.symm hj]
        simpa [this, hj] using ih
    · have hne : (p.1 != k) = true := by simp [hp]
      simp only [hne, if_true, List.find?_cons]
      by_cases hj : p.1 = j
      · have : j ≠ k := hj ▸ hp
        simp [hj, this]
      · have hb : (p.1 == j) = false := by simp [hj]
        simpa [hb] using ih

theorem erase_ne (k : Nat) (l : Sp α) : ∀ p ∈ erase l k, p.1 ≠ k := by
  intro p hp; simpa [erase] using (List.mem_filter.mp hp).2

/-- A key bound anew reads as its value, every other key as before. -/
theorem find_put (l : Sp α) (k : Nat) (v : α) (j : Nat) : find (put l k v) j = if j = k then some v else find l j := by
  rw [put, find_ins _ _ _ (erase_ne k l), find_erase]; split <;> simp_all

@[simp] theorem find_put_same (l : Sp α) (k : Nat) (v : α) : find (put l k v) k = some v := by simp [find_put]

theorem find_put_ne (l : Sp α) (k : Nat) (v : α) {j : Nat} (h : j ≠ k) : find (put l k v) j = find l j := by simp [find_put, h]

theorem get_put (l : Sp α) (k : Nat) (v d : α) (j : Nat) : get (put l k v) d j = if j = k then v else get l d j := by
  simp only [get, find_put]; split <;> simp

@[simp] theorem get_put_same (l : Sp α) (k : Nat) (v d : α) : get (put l k v) d k = v := by simp [get_put]

theorem get_put_ne (l : Sp α) (k : Nat) (v d : α) {j : Nat} (h : j ≠ k) : get (put l k v) d j = get l d j := by simp [get_put, h]

@[simp] theorem get_nil (d : α) (j : Nat) : get [] d j = d := rfl

end Sys2Proof.Machine.Sp
end

