-- ==== Sys2Proof/Laws/State.lean ====
section
/-! SUPPORT. Laws/State.lean: what each named update of the work state leaves as it is, one lemma per field and update, and the
new value of the field it writes. -/

namespace Sys2Proof.Machine

@[simp] theorem Work.wr_force (w : Work) (a n : Nat) : (w.wr a n).force = w.force := rfl
@[simp] theorem Work.wr_mem (w : Work) (a n : Nat) : (w.wr a n).mem = w.mem := rfl
@[simp] theorem Work.wr_poison (w : Work) (a n : Nat) : (w.wr a n).poison = w.poison := rfl
@[simp] theorem Work.wr_acc (w : Work) (a n : Nat) : (w.wr a n).acc = w.acc := rfl
@[simp] theorem Work.wr_accPoison (w : Work) (a n : Nat) : (w.wr a n).accPoison = w.accPoison := rfl
@[simp] theorem Work.wr_cells (w : Work) (a n : Nat) : (w.wr a n).cells = w.cells := rfl
@[simp] theorem Work.wr_now (w : Work) (a n : Nat) : (w.wr a n).now = w.now := rfl
@[simp] theorem Work.wr_free (w : Work) (a n : Nat) : (w.wr a n).free = w.free := rfl
@[simp] theorem Work.wr_out (w : Work) (a n : Nat) : (w.wr a n).out = w.out := rfl
@[simp] theorem Work.wr_fault (w : Work) (a n : Nat) : (w.wr a n).fault = w.fault := rfl
@[simp] theorem Work.wr_power (w : Work) (a n : Nat) : (w.wr a n).power = w.power := rfl
@[simp] theorem Work.wr_hk (w : Work) (a n : Nat) : (w.wr a n).hk = w.hk := rfl
@[simp] theorem Work.wr_beat (w : Work) (a n : Nat) : (w.wr a n).beat = w.beat := rfl
@[simp] theorem Work.wr_coxes (w : Work) (a n : Nat) : (w.wr a n).coxes = w.coxes := rfl
@[simp] theorem Work.wr_stroke (w : Work) (a n : Nat) : (w.wr a n).stroke = w.stroke := rfl
@[simp] theorem Work.wr_step (w : Work) (a n : Nat) : (w.wr a n).step = w.step := rfl
@[simp] theorem Work.wr_tiles (w : Work) (a n : Nat) : (w.wr a n).tiles = w.tiles := rfl
@[simp] theorem Work.wr_fwd (w : Work) (a n : Nat) : (w.wr a n).fwd = w.fwd := rfl
@[simp] theorem Work.wr_commits (w : Work) (a n : Nat) : (w.wr a n).commits = w.commits := rfl
@[simp] theorem Work.wr_unfolded (w : Work) (a n : Nat) : (w.wr a n).unfolded = w.unfolded := rfl
@[simp] theorem Work.wr_ctxs (w : Work) (a n : Nat) : (w.wr a n).ctxs = w.ctxs := rfl
@[simp] theorem Work.wr_digital (w : Work) (a n : Nat) : (w.wr a n).digital = w.digital := rfl
@[simp] theorem Work.wr_sess (w : Work) (a n : Nat) : (w.wr a n).sess = w.sess := rfl
@[simp] theorem Work.wr_memcs (w : Work) (a n : Nat) : (w.wr a n).memcs = w.memcs := rfl
@[simp] theorem Work.wr_parked (w : Work) (a n : Nat) : (w.wr a n).parked = w.parked := rfl
@[simp] theorem Work.wr_asked (w : Work) (a n : Nat) : (w.wr a n).asked = w.asked := rfl
@[simp] theorem Work.wr_links (w : Work) (a n : Nat) : (w.wr a n).links = w.links := rfl
@[simp] theorem Work.wr_txFlows (w : Work) (a n : Nat) : (w.wr a n).txFlows = w.txFlows := rfl
@[simp] theorem Work.wr_rxFlows (w : Work) (a n : Nat) : (w.wr a n).rxFlows = w.rxFlows := rfl
@[simp] theorem Work.wr_qps (w : Work) (a n : Nat) : (w.wr a n).qps = w.qps := rfl
@[simp] theorem Work.wr_jobs (w : Work) (a n : Nat) : (w.wr a n).jobs = w.jobs := rfl
@[simp] theorem Work.wr_lockAt (w : Work) (a n : Nat) : (w.wr a n).lockAt = w.lockAt := rfl
@[simp] theorem Work.wr_crews (w : Work) (a n : Nat) : (w.wr a n).crews = w.crews := rfl
@[simp] theorem Work.wr_released (w : Work) (a n : Nat) : (w.wr a n).released = w.released := rfl
@[simp] theorem Work.wr_red (w : Work) (a n : Nat) : (w.wr a n).red = w.red := rfl
@[simp] theorem Work.wr_mgr (w : Work) (a n : Nat) : (w.wr a n).mgr = w.mgr := rfl
@[simp] theorem Work.wr_start (w : Work) (a n : Nat) : (w.wr a n).start = w.start := rfl
@[simp] theorem Work.wr_sec (w : Work) (a n : Nat) : (w.wr a n).sec = w.sec := rfl
@[simp] theorem Work.wr_access (w : Work) (a n : Nat) : (w.wr a n).access = w.access := rfl
@[simp] theorem Work.wr_windows (w : Work) (a n : Nat) : (w.wr a n).windows = w.windows := rfl
@[simp] theorem Work.wr_regs (w : Work) (a n : Nat) : (w.wr a n).regs = Sp.put w.regs a (BitVec.ofNat 32 n) := rfl

@[simp] theorem Work.setFld_force (w : Work) (a lo len v : Nat) : (w.setFld a lo len v).force = w.force := rfl
@[simp] theorem Work.setFld_mem (w : Work) (a lo len v : Nat) : (w.setFld a lo len v).mem = w.mem := rfl
@[simp] theorem Work.setFld_poison (w : Work) (a lo len v : Nat) : (w.setFld a lo len v).poison = w.poison := rfl
@[simp] theorem Work.setFld_acc (w : Work) (a lo len v : Nat) : (w.setFld a lo len v).acc = w.acc := rfl
@[simp] theorem Work.setFld_accPoison (w : Work) (a lo len v : Nat) : (w.setFld a lo len v).accPoison = w.accPoison := rfl
@[simp] theorem Work.setFld_cells (w : Work) (a lo len v : Nat) : (w.setFld a lo len v).cells = w.cells := rfl
@[simp] theorem Work.setFld_now (w : Work) (a lo len v : Nat) : (w.setFld a lo len v).now = w.now := rfl
@[simp] theorem Work.setFld_free (w : Work) (a lo len v : Nat) : (w.setFld a lo len v).free = w.free := rfl
@[simp] theorem Work.setFld_out (w : Work) (a lo len v : Nat) : (w.setFld a lo len v).out = w.out := rfl
@[simp] theorem Work.setFld_fault (w : Work) (a lo len v : Nat) : (w.setFld a lo len v).fault = w.fault := rfl
@[simp] theorem Work.setFld_power (w : Work) (a lo len v : Nat) : (w.setFld a lo len v).power = w.power := rfl
@[simp] theorem Work.setFld_hk (w : Work) (a lo len v : Nat) : (w.setFld a lo len v).hk = w.hk := rfl
@[simp] theorem Work.setFld_beat (w : Work) (a lo len v : Nat) : (w.setFld a lo len v).beat = w.beat := rfl
@[simp] theorem Work.setFld_coxes (w : Work) (a lo len v : Nat) : (w.setFld a lo len v).coxes = w.coxes := rfl
@[simp] theorem Work.setFld_stroke (w : Work) (a lo len v : Nat) : (w.setFld a lo len v).stroke = w.stroke := rfl
@[simp] theorem Work.setFld_step (w : Work) (a lo len v : Nat) : (w.setFld a lo len v).step = w.step := rfl
@[simp] theorem Work.setFld_tiles (w : Work) (a lo len v : Nat) : (w.setFld a lo len v).tiles = w.tiles := rfl
@[simp] theorem Work.setFld_fwd (w : Work) (a lo len v : Nat) : (w.setFld a lo len v).fwd = w.fwd := rfl
@[simp] theorem Work.setFld_commits (w : Work) (a lo len v : Nat) : (w.setFld a lo len v).commits = w.commits := rfl
@[simp] theorem Work.setFld_unfolded (w : Work) (a lo len v : Nat) : (w.setFld a lo len v).unfolded = w.unfolded := rfl
@[simp] theorem Work.setFld_ctxs (w : Work) (a lo len v : Nat) : (w.setFld a lo len v).ctxs = w.ctxs := rfl
@[simp] theorem Work.setFld_digital (w : Work) (a lo len v : Nat) : (w.setFld a lo len v).digital = w.digital := rfl
@[simp] theorem Work.setFld_sess (w : Work) (a lo len v : Nat) : (w.setFld a lo len v).sess = w.sess := rfl
@[simp] theorem Work.setFld_memcs (w : Work) (a lo len v : Nat) : (w.setFld a lo len v).memcs = w.memcs := rfl
@[simp] theorem Work.setFld_parked (w : Work) (a lo len v : Nat) : (w.setFld a lo len v).parked = w.parked := rfl
@[simp] theorem Work.setFld_asked (w : Work) (a lo len v : Nat) : (w.setFld a lo len v).asked = w.asked := rfl
@[simp] theorem Work.setFld_links (w : Work) (a lo len v : Nat) : (w.setFld a lo len v).links = w.links := rfl
@[simp] theorem Work.setFld_txFlows (w : Work) (a lo len v : Nat) : (w.setFld a lo len v).txFlows = w.txFlows := rfl
@[simp] theorem Work.setFld_rxFlows (w : Work) (a lo len v : Nat) : (w.setFld a lo len v).rxFlows = w.rxFlows := rfl
@[simp] theorem Work.setFld_qps (w : Work) (a lo len v : Nat) : (w.setFld a lo len v).qps = w.qps := rfl
@[simp] theorem Work.setFld_jobs (w : Work) (a lo len v : Nat) : (w.setFld a lo len v).jobs = w.jobs := rfl
@[simp] theorem Work.setFld_lockAt (w : Work) (a lo len v : Nat) : (w.setFld a lo len v).lockAt = w.lockAt := rfl
@[simp] theorem Work.setFld_crews (w : Work) (a lo len v : Nat) : (w.setFld a lo len v).crews = w.crews := rfl
@[simp] theorem Work.setFld_released (w : Work) (a lo len v : Nat) : (w.setFld a lo len v).released = w.released := rfl
@[simp] theorem Work.setFld_red (w : Work) (a lo len v : Nat) : (w.setFld a lo len v).red = w.red := rfl
@[simp] theorem Work.setFld_mgr (w : Work) (a lo len v : Nat) : (w.setFld a lo len v).mgr = w.mgr := rfl
@[simp] theorem Work.setFld_start (w : Work) (a lo len v : Nat) : (w.setFld a lo len v).start = w.start := rfl
@[simp] theorem Work.setFld_sec (w : Work) (a lo len v : Nat) : (w.setFld a lo len v).sec = w.sec := rfl
@[simp] theorem Work.setFld_access (w : Work) (a lo len v : Nat) : (w.setFld a lo len v).access = w.access := rfl
@[simp] theorem Work.setFld_windows (w : Work) (a lo len v : Nat) : (w.setFld a lo len v).windows = w.windows := rfl

@[simp] theorem Work.setBit_force (w : Work) (a i : Nat) : (w.setBit a i).force = w.force := rfl
@[simp] theorem Work.setBit_mem (w : Work) (a i : Nat) : (w.setBit a i).mem = w.mem := rfl
@[simp] theorem Work.setBit_poison (w : Work) (a i : Nat) : (w.setBit a i).poison = w.poison := rfl
@[simp] theorem Work.setBit_acc (w : Work) (a i : Nat) : (w.setBit a i).acc = w.acc := rfl
@[simp] theorem Work.setBit_accPoison (w : Work) (a i : Nat) : (w.setBit a i).accPoison = w.accPoison := rfl
@[simp] theorem Work.setBit_cells (w : Work) (a i : Nat) : (w.setBit a i).cells = w.cells := rfl
@[simp] theorem Work.setBit_now (w : Work) (a i : Nat) : (w.setBit a i).now = w.now := rfl
@[simp] theorem Work.setBit_free (w : Work) (a i : Nat) : (w.setBit a i).free = w.free := rfl
@[simp] theorem Work.setBit_out (w : Work) (a i : Nat) : (w.setBit a i).out = w.out := rfl
@[simp] theorem Work.setBit_fault (w : Work) (a i : Nat) : (w.setBit a i).fault = w.fault := rfl
@[simp] theorem Work.setBit_power (w : Work) (a i : Nat) : (w.setBit a i).power = w.power := rfl
@[simp] theorem Work.setBit_hk (w : Work) (a i : Nat) : (w.setBit a i).hk = w.hk := rfl
@[simp] theorem Work.setBit_beat (w : Work) (a i : Nat) : (w.setBit a i).beat = w.beat := rfl
@[simp] theorem Work.setBit_coxes (w : Work) (a i : Nat) : (w.setBit a i).coxes = w.coxes := rfl
@[simp] theorem Work.setBit_stroke (w : Work) (a i : Nat) : (w.setBit a i).stroke = w.stroke := rfl
@[simp] theorem Work.setBit_step (w : Work) (a i : Nat) : (w.setBit a i).step = w.step := rfl
@[simp] theorem Work.setBit_tiles (w : Work) (a i : Nat) : (w.setBit a i).tiles = w.tiles := rfl
@[simp] theorem Work.setBit_fwd (w : Work) (a i : Nat) : (w.setBit a i).fwd = w.fwd := rfl
@[simp] theorem Work.setBit_commits (w : Work) (a i : Nat) : (w.setBit a i).commits = w.commits := rfl
@[simp] theorem Work.setBit_unfolded (w : Work) (a i : Nat) : (w.setBit a i).unfolded = w.unfolded := rfl
@[simp] theorem Work.setBit_ctxs (w : Work) (a i : Nat) : (w.setBit a i).ctxs = w.ctxs := rfl
@[simp] theorem Work.setBit_digital (w : Work) (a i : Nat) : (w.setBit a i).digital = w.digital := rfl
@[simp] theorem Work.setBit_sess (w : Work) (a i : Nat) : (w.setBit a i).sess = w.sess := rfl
@[simp] theorem Work.setBit_memcs (w : Work) (a i : Nat) : (w.setBit a i).memcs = w.memcs := rfl
@[simp] theorem Work.setBit_parked (w : Work) (a i : Nat) : (w.setBit a i).parked = w.parked := rfl
@[simp] theorem Work.setBit_asked (w : Work) (a i : Nat) : (w.setBit a i).asked = w.asked := rfl
@[simp] theorem Work.setBit_links (w : Work) (a i : Nat) : (w.setBit a i).links = w.links := rfl
@[simp] theorem Work.setBit_txFlows (w : Work) (a i : Nat) : (w.setBit a i).txFlows = w.txFlows := rfl
@[simp] theorem Work.setBit_rxFlows (w : Work) (a i : Nat) : (w.setBit a i).rxFlows = w.rxFlows := rfl
@[simp] theorem Work.setBit_qps (w : Work) (a i : Nat) : (w.setBit a i).qps = w.qps := rfl
@[simp] theorem Work.setBit_jobs (w : Work) (a i : Nat) : (w.setBit a i).jobs = w.jobs := rfl
@[simp] theorem Work.setBit_lockAt (w : Work) (a i : Nat) : (w.setBit a i).lockAt = w.lockAt := rfl
@[simp] theorem Work.setBit_crews (w : Work) (a i : Nat) : (w.setBit a i).crews = w.crews := rfl
@[simp] theorem Work.setBit_released (w : Work) (a i : Nat) : (w.setBit a i).released = w.released := rfl
@[simp] theorem Work.setBit_red (w : Work) (a i : Nat) : (w.setBit a i).red = w.red := rfl
@[simp] theorem Work.setBit_mgr (w : Work) (a i : Nat) : (w.setBit a i).mgr = w.mgr := rfl
@[simp] theorem Work.setBit_start (w : Work) (a i : Nat) : (w.setBit a i).start = w.start := rfl
@[simp] theorem Work.setBit_sec (w : Work) (a i : Nat) : (w.setBit a i).sec = w.sec := rfl
@[simp] theorem Work.setBit_access (w : Work) (a i : Nat) : (w.setBit a i).access = w.access := rfl
@[simp] theorem Work.setBit_windows (w : Work) (a i : Nat) : (w.setBit a i).windows = w.windows := rfl

@[simp] theorem Work.clrBit_force (w : Work) (a i : Nat) : (w.clrBit a i).force = w.force := rfl
@[simp] theorem Work.clrBit_mem (w : Work) (a i : Nat) : (w.clrBit a i).mem = w.mem := rfl
@[simp] theorem Work.clrBit_poison (w : Work) (a i : Nat) : (w.clrBit a i).poison = w.poison := rfl
@[simp] theorem Work.clrBit_acc (w : Work) (a i : Nat) : (w.clrBit a i).acc = w.acc := rfl
@[simp] theorem Work.clrBit_accPoison (w : Work) (a i : Nat) : (w.clrBit a i).accPoison = w.accPoison := rfl
@[simp] theorem Work.clrBit_cells (w : Work) (a i : Nat) : (w.clrBit a i).cells = w.cells := rfl
@[simp] theorem Work.clrBit_now (w : Work) (a i : Nat) : (w.clrBit a i).now = w.now := rfl
@[simp] theorem Work.clrBit_free (w : Work) (a i : Nat) : (w.clrBit a i).free = w.free := rfl
@[simp] theorem Work.clrBit_out (w : Work) (a i : Nat) : (w.clrBit a i).out = w.out := rfl
@[simp] theorem Work.clrBit_fault (w : Work) (a i : Nat) : (w.clrBit a i).fault = w.fault := rfl
@[simp] theorem Work.clrBit_power (w : Work) (a i : Nat) : (w.clrBit a i).power = w.power := rfl
@[simp] theorem Work.clrBit_hk (w : Work) (a i : Nat) : (w.clrBit a i).hk = w.hk := rfl
@[simp] theorem Work.clrBit_beat (w : Work) (a i : Nat) : (w.clrBit a i).beat = w.beat := rfl
@[simp] theorem Work.clrBit_coxes (w : Work) (a i : Nat) : (w.clrBit a i).coxes = w.coxes := rfl
@[simp] theorem Work.clrBit_stroke (w : Work) (a i : Nat) : (w.clrBit a i).stroke = w.stroke := rfl
@[simp] theorem Work.clrBit_step (w : Work) (a i : Nat) : (w.clrBit a i).step = w.step := rfl
@[simp] theorem Work.clrBit_tiles (w : Work) (a i : Nat) : (w.clrBit a i).tiles = w.tiles := rfl
@[simp] theorem Work.clrBit_fwd (w : Work) (a i : Nat) : (w.clrBit a i).fwd = w.fwd := rfl
@[simp] theorem Work.clrBit_commits (w : Work) (a i : Nat) : (w.clrBit a i).commits = w.commits := rfl
@[simp] theorem Work.clrBit_unfolded (w : Work) (a i : Nat) : (w.clrBit a i).unfolded = w.unfolded := rfl
@[simp] theorem Work.clrBit_ctxs (w : Work) (a i : Nat) : (w.clrBit a i).ctxs = w.ctxs := rfl
@[simp] theorem Work.clrBit_digital (w : Work) (a i : Nat) : (w.clrBit a i).digital = w.digital := rfl
@[simp] theorem Work.clrBit_sess (w : Work) (a i : Nat) : (w.clrBit a i).sess = w.sess := rfl
@[simp] theorem Work.clrBit_memcs (w : Work) (a i : Nat) : (w.clrBit a i).memcs = w.memcs := rfl
@[simp] theorem Work.clrBit_parked (w : Work) (a i : Nat) : (w.clrBit a i).parked = w.parked := rfl
@[simp] theorem Work.clrBit_asked (w : Work) (a i : Nat) : (w.clrBit a i).asked = w.asked := rfl
@[simp] theorem Work.clrBit_links (w : Work) (a i : Nat) : (w.clrBit a i).links = w.links := rfl
@[simp] theorem Work.clrBit_txFlows (w : Work) (a i : Nat) : (w.clrBit a i).txFlows = w.txFlows := rfl
@[simp] theorem Work.clrBit_rxFlows (w : Work) (a i : Nat) : (w.clrBit a i).rxFlows = w.rxFlows := rfl
@[simp] theorem Work.clrBit_qps (w : Work) (a i : Nat) : (w.clrBit a i).qps = w.qps := rfl
@[simp] theorem Work.clrBit_jobs (w : Work) (a i : Nat) : (w.clrBit a i).jobs = w.jobs := rfl
@[simp] theorem Work.clrBit_lockAt (w : Work) (a i : Nat) : (w.clrBit a i).lockAt = w.lockAt := rfl
@[simp] theorem Work.clrBit_crews (w : Work) (a i : Nat) : (w.clrBit a i).crews = w.crews := rfl
@[simp] theorem Work.clrBit_released (w : Work) (a i : Nat) : (w.clrBit a i).released = w.released := rfl
@[simp] theorem Work.clrBit_red (w : Work) (a i : Nat) : (w.clrBit a i).red = w.red := rfl
@[simp] theorem Work.clrBit_mgr (w : Work) (a i : Nat) : (w.clrBit a i).mgr = w.mgr := rfl
@[simp] theorem Work.clrBit_start (w : Work) (a i : Nat) : (w.clrBit a i).start = w.start := rfl
@[simp] theorem Work.clrBit_sec (w : Work) (a i : Nat) : (w.clrBit a i).sec = w.sec := rfl
@[simp] theorem Work.clrBit_access (w : Work) (a i : Nat) : (w.clrBit a i).access = w.access := rfl
@[simp] theorem Work.clrBit_windows (w : Work) (a i : Nat) : (w.clrBit a i).windows = w.windows := rfl

@[simp] theorem Work.bitTo_force (w : Work) (a i : Nat) (x : Bool) : (w.bitTo a i x).force = w.force := rfl
@[simp] theorem Work.bitTo_mem (w : Work) (a i : Nat) (x : Bool) : (w.bitTo a i x).mem = w.mem := rfl
@[simp] theorem Work.bitTo_poison (w : Work) (a i : Nat) (x : Bool) : (w.bitTo a i x).poison = w.poison := rfl
@[simp] theorem Work.bitTo_acc (w : Work) (a i : Nat) (x : Bool) : (w.bitTo a i x).acc = w.acc := rfl
@[simp] theorem Work.bitTo_accPoison (w : Work) (a i : Nat) (x : Bool) : (w.bitTo a i x).accPoison = w.accPoison := rfl
@[simp] theorem Work.bitTo_cells (w : Work) (a i : Nat) (x : Bool) : (w.bitTo a i x).cells = w.cells := rfl
@[simp] theorem Work.bitTo_now (w : Work) (a i : Nat) (x : Bool) : (w.bitTo a i x).now = w.now := rfl
@[simp] theorem Work.bitTo_free (w : Work) (a i : Nat) (x : Bool) : (w.bitTo a i x).free = w.free := rfl
@[simp] theorem Work.bitTo_out (w : Work) (a i : Nat) (x : Bool) : (w.bitTo a i x).out = w.out := rfl
@[simp] theorem Work.bitTo_fault (w : Work) (a i : Nat) (x : Bool) : (w.bitTo a i x).fault = w.fault := rfl
@[simp] theorem Work.bitTo_power (w : Work) (a i : Nat) (x : Bool) : (w.bitTo a i x).power = w.power := rfl
@[simp] theorem Work.bitTo_hk (w : Work) (a i : Nat) (x : Bool) : (w.bitTo a i x).hk = w.hk := rfl
@[simp] theorem Work.bitTo_beat (w : Work) (a i : Nat) (x : Bool) : (w.bitTo a i x).beat = w.beat := rfl
@[simp] theorem Work.bitTo_coxes (w : Work) (a i : Nat) (x : Bool) : (w.bitTo a i x).coxes = w.coxes := rfl
@[simp] theorem Work.bitTo_stroke (w : Work) (a i : Nat) (x : Bool) : (w.bitTo a i x).stroke = w.stroke := rfl
@[simp] theorem Work.bitTo_step (w : Work) (a i : Nat) (x : Bool) : (w.bitTo a i x).step = w.step := rfl
@[simp] theorem Work.bitTo_tiles (w : Work) (a i : Nat) (x : Bool) : (w.bitTo a i x).tiles = w.tiles := rfl
@[simp] theorem Work.bitTo_fwd (w : Work) (a i : Nat) (x : Bool) : (w.bitTo a i x).fwd = w.fwd := rfl
@[simp] theorem Work.bitTo_commits (w : Work) (a i : Nat) (x : Bool) : (w.bitTo a i x).commits = w.commits := rfl
@[simp] theorem Work.bitTo_unfolded (w : Work) (a i : Nat) (x : Bool) : (w.bitTo a i x).unfolded = w.unfolded := rfl
@[simp] theorem Work.bitTo_ctxs (w : Work) (a i : Nat) (x : Bool) : (w.bitTo a i x).ctxs = w.ctxs := rfl
@[simp] theorem Work.bitTo_digital (w : Work) (a i : Nat) (x : Bool) : (w.bitTo a i x).digital = w.digital := rfl
@[simp] theorem Work.bitTo_sess (w : Work) (a i : Nat) (x : Bool) : (w.bitTo a i x).sess = w.sess := rfl
@[simp] theorem Work.bitTo_memcs (w : Work) (a i : Nat) (x : Bool) : (w.bitTo a i x).memcs = w.memcs := rfl
@[simp] theorem Work.bitTo_parked (w : Work) (a i : Nat) (x : Bool) : (w.bitTo a i x).parked = w.parked := rfl
@[simp] theorem Work.bitTo_asked (w : Work) (a i : Nat) (x : Bool) : (w.bitTo a i x).asked = w.asked := rfl
@[simp] theorem Work.bitTo_links (w : Work) (a i : Nat) (x : Bool) : (w.bitTo a i x).links = w.links := rfl
@[simp] theorem Work.bitTo_txFlows (w : Work) (a i : Nat) (x : Bool) : (w.bitTo a i x).txFlows = w.txFlows := rfl
@[simp] theorem Work.bitTo_rxFlows (w : Work) (a i : Nat) (x : Bool) : (w.bitTo a i x).rxFlows = w.rxFlows := rfl
@[simp] theorem Work.bitTo_qps (w : Work) (a i : Nat) (x : Bool) : (w.bitTo a i x).qps = w.qps := rfl
@[simp] theorem Work.bitTo_jobs (w : Work) (a i : Nat) (x : Bool) : (w.bitTo a i x).jobs = w.jobs := rfl
@[simp] theorem Work.bitTo_lockAt (w : Work) (a i : Nat) (x : Bool) : (w.bitTo a i x).lockAt = w.lockAt := rfl
@[simp] theorem Work.bitTo_crews (w : Work) (a i : Nat) (x : Bool) : (w.bitTo a i x).crews = w.crews := rfl
@[simp] theorem Work.bitTo_released (w : Work) (a i : Nat) (x : Bool) : (w.bitTo a i x).released = w.released := rfl
@[simp] theorem Work.bitTo_red (w : Work) (a i : Nat) (x : Bool) : (w.bitTo a i x).red = w.red := rfl
@[simp] theorem Work.bitTo_mgr (w : Work) (a i : Nat) (x : Bool) : (w.bitTo a i x).mgr = w.mgr := rfl
@[simp] theorem Work.bitTo_start (w : Work) (a i : Nat) (x : Bool) : (w.bitTo a i x).start = w.start := rfl
@[simp] theorem Work.bitTo_sec (w : Work) (a i : Nat) (x : Bool) : (w.bitTo a i x).sec = w.sec := rfl
@[simp] theorem Work.bitTo_access (w : Work) (a i : Nat) (x : Bool) : (w.bitTo a i x).access = w.access := rfl
@[simp] theorem Work.bitTo_windows (w : Work) (a i : Nat) (x : Bool) : (w.bitTo a i x).windows = w.windows := rfl

@[simp] theorem Work.incBy_force (w : Work) (a n : Nat) : (w.incBy a n).force = w.force := rfl
@[simp] theorem Work.incBy_mem (w : Work) (a n : Nat) : (w.incBy a n).mem = w.mem := rfl
@[simp] theorem Work.incBy_poison (w : Work) (a n : Nat) : (w.incBy a n).poison = w.poison := rfl
@[simp] theorem Work.incBy_acc (w : Work) (a n : Nat) : (w.incBy a n).acc = w.acc := rfl
@[simp] theorem Work.incBy_accPoison (w : Work) (a n : Nat) : (w.incBy a n).accPoison = w.accPoison := rfl
@[simp] theorem Work.incBy_cells (w : Work) (a n : Nat) : (w.incBy a n).cells = w.cells := rfl
@[simp] theorem Work.incBy_now (w : Work) (a n : Nat) : (w.incBy a n).now = w.now := rfl
@[simp] theorem Work.incBy_free (w : Work) (a n : Nat) : (w.incBy a n).free = w.free := rfl
@[simp] theorem Work.incBy_out (w : Work) (a n : Nat) : (w.incBy a n).out = w.out := rfl
@[simp] theorem Work.incBy_fault (w : Work) (a n : Nat) : (w.incBy a n).fault = w.fault := rfl
@[simp] theorem Work.incBy_power (w : Work) (a n : Nat) : (w.incBy a n).power = w.power := rfl
@[simp] theorem Work.incBy_hk (w : Work) (a n : Nat) : (w.incBy a n).hk = w.hk := rfl
@[simp] theorem Work.incBy_beat (w : Work) (a n : Nat) : (w.incBy a n).beat = w.beat := rfl
@[simp] theorem Work.incBy_coxes (w : Work) (a n : Nat) : (w.incBy a n).coxes = w.coxes := rfl
@[simp] theorem Work.incBy_stroke (w : Work) (a n : Nat) : (w.incBy a n).stroke = w.stroke := rfl
@[simp] theorem Work.incBy_step (w : Work) (a n : Nat) : (w.incBy a n).step = w.step := rfl
@[simp] theorem Work.incBy_tiles (w : Work) (a n : Nat) : (w.incBy a n).tiles = w.tiles := rfl
@[simp] theorem Work.incBy_fwd (w : Work) (a n : Nat) : (w.incBy a n).fwd = w.fwd := rfl
@[simp] theorem Work.incBy_commits (w : Work) (a n : Nat) : (w.incBy a n).commits = w.commits := rfl
@[simp] theorem Work.incBy_unfolded (w : Work) (a n : Nat) : (w.incBy a n).unfolded = w.unfolded := rfl
@[simp] theorem Work.incBy_ctxs (w : Work) (a n : Nat) : (w.incBy a n).ctxs = w.ctxs := rfl
@[simp] theorem Work.incBy_digital (w : Work) (a n : Nat) : (w.incBy a n).digital = w.digital := rfl
@[simp] theorem Work.incBy_sess (w : Work) (a n : Nat) : (w.incBy a n).sess = w.sess := rfl
@[simp] theorem Work.incBy_memcs (w : Work) (a n : Nat) : (w.incBy a n).memcs = w.memcs := rfl
@[simp] theorem Work.incBy_parked (w : Work) (a n : Nat) : (w.incBy a n).parked = w.parked := rfl
@[simp] theorem Work.incBy_asked (w : Work) (a n : Nat) : (w.incBy a n).asked = w.asked := rfl
@[simp] theorem Work.incBy_links (w : Work) (a n : Nat) : (w.incBy a n).links = w.links := rfl
@[simp] theorem Work.incBy_txFlows (w : Work) (a n : Nat) : (w.incBy a n).txFlows = w.txFlows := rfl
@[simp] theorem Work.incBy_rxFlows (w : Work) (a n : Nat) : (w.incBy a n).rxFlows = w.rxFlows := rfl
@[simp] theorem Work.incBy_qps (w : Work) (a n : Nat) : (w.incBy a n).qps = w.qps := rfl
@[simp] theorem Work.incBy_jobs (w : Work) (a n : Nat) : (w.incBy a n).jobs = w.jobs := rfl
@[simp] theorem Work.incBy_lockAt (w : Work) (a n : Nat) : (w.incBy a n).lockAt = w.lockAt := rfl
@[simp] theorem Work.incBy_crews (w : Work) (a n : Nat) : (w.incBy a n).crews = w.crews := rfl
@[simp] theorem Work.incBy_released (w : Work) (a n : Nat) : (w.incBy a n).released = w.released := rfl
@[simp] theorem Work.incBy_red (w : Work) (a n : Nat) : (w.incBy a n).red = w.red := rfl
@[simp] theorem Work.incBy_mgr (w : Work) (a n : Nat) : (w.incBy a n).mgr = w.mgr := rfl
@[simp] theorem Work.incBy_start (w : Work) (a n : Nat) : (w.incBy a n).start = w.start := rfl
@[simp] theorem Work.incBy_sec (w : Work) (a n : Nat) : (w.incBy a n).sec = w.sec := rfl
@[simp] theorem Work.incBy_access (w : Work) (a n : Nat) : (w.incBy a n).access = w.access := rfl
@[simp] theorem Work.incBy_windows (w : Work) (a n : Nat) : (w.incBy a n).windows = w.windows := rfl

@[simp] theorem Work.inc_force (w : Work) (a : Nat) : (w.inc a).force = w.force := rfl
@[simp] theorem Work.inc_mem (w : Work) (a : Nat) : (w.inc a).mem = w.mem := rfl
@[simp] theorem Work.inc_poison (w : Work) (a : Nat) : (w.inc a).poison = w.poison := rfl
@[simp] theorem Work.inc_acc (w : Work) (a : Nat) : (w.inc a).acc = w.acc := rfl
@[simp] theorem Work.inc_accPoison (w : Work) (a : Nat) : (w.inc a).accPoison = w.accPoison := rfl
@[simp] theorem Work.inc_cells (w : Work) (a : Nat) : (w.inc a).cells = w.cells := rfl
@[simp] theorem Work.inc_now (w : Work) (a : Nat) : (w.inc a).now = w.now := rfl
@[simp] theorem Work.inc_free (w : Work) (a : Nat) : (w.inc a).free = w.free := rfl
@[simp] theorem Work.inc_out (w : Work) (a : Nat) : (w.inc a).out = w.out := rfl
@[simp] theorem Work.inc_fault (w : Work) (a : Nat) : (w.inc a).fault = w.fault := rfl
@[simp] theorem Work.inc_power (w : Work) (a : Nat) : (w.inc a).power = w.power := rfl
@[simp] theorem Work.inc_hk (w : Work) (a : Nat) : (w.inc a).hk = w.hk := rfl
@[simp] theorem Work.inc_beat (w : Work) (a : Nat) : (w.inc a).beat = w.beat := rfl
@[simp] theorem Work.inc_coxes (w : Work) (a : Nat) : (w.inc a).coxes = w.coxes := rfl
@[simp] theorem Work.inc_stroke (w : Work) (a : Nat) : (w.inc a).stroke = w.stroke := rfl
@[simp] theorem Work.inc_step (w : Work) (a : Nat) : (w.inc a).step = w.step := rfl
@[simp] theorem Work.inc_tiles (w : Work) (a : Nat) : (w.inc a).tiles = w.tiles := rfl
@[simp] theorem Work.inc_fwd (w : Work) (a : Nat) : (w.inc a).fwd = w.fwd := rfl
@[simp] theorem Work.inc_commits (w : Work) (a : Nat) : (w.inc a).commits = w.commits := rfl
@[simp] theorem Work.inc_unfolded (w : Work) (a : Nat) : (w.inc a).unfolded = w.unfolded := rfl
@[simp] theorem Work.inc_ctxs (w : Work) (a : Nat) : (w.inc a).ctxs = w.ctxs := rfl
@[simp] theorem Work.inc_digital (w : Work) (a : Nat) : (w.inc a).digital = w.digital := rfl
@[simp] theorem Work.inc_sess (w : Work) (a : Nat) : (w.inc a).sess = w.sess := rfl
@[simp] theorem Work.inc_memcs (w : Work) (a : Nat) : (w.inc a).memcs = w.memcs := rfl
@[simp] theorem Work.inc_parked (w : Work) (a : Nat) : (w.inc a).parked = w.parked := rfl
@[simp] theorem Work.inc_asked (w : Work) (a : Nat) : (w.inc a).asked = w.asked := rfl
@[simp] theorem Work.inc_links (w : Work) (a : Nat) : (w.inc a).links = w.links := rfl
@[simp] theorem Work.inc_txFlows (w : Work) (a : Nat) : (w.inc a).txFlows = w.txFlows := rfl
@[simp] theorem Work.inc_rxFlows (w : Work) (a : Nat) : (w.inc a).rxFlows = w.rxFlows := rfl
@[simp] theorem Work.inc_qps (w : Work) (a : Nat) : (w.inc a).qps = w.qps := rfl
@[simp] theorem Work.inc_jobs (w : Work) (a : Nat) : (w.inc a).jobs = w.jobs := rfl
@[simp] theorem Work.inc_lockAt (w : Work) (a : Nat) : (w.inc a).lockAt = w.lockAt := rfl
@[simp] theorem Work.inc_crews (w : Work) (a : Nat) : (w.inc a).crews = w.crews := rfl
@[simp] theorem Work.inc_released (w : Work) (a : Nat) : (w.inc a).released = w.released := rfl
@[simp] theorem Work.inc_red (w : Work) (a : Nat) : (w.inc a).red = w.red := rfl
@[simp] theorem Work.inc_mgr (w : Work) (a : Nat) : (w.inc a).mgr = w.mgr := rfl
@[simp] theorem Work.inc_start (w : Work) (a : Nat) : (w.inc a).start = w.start := rfl
@[simp] theorem Work.inc_sec (w : Work) (a : Nat) : (w.inc a).sec = w.sec := rfl
@[simp] theorem Work.inc_access (w : Work) (a : Nat) : (w.inc a).access = w.access := rfl
@[simp] theorem Work.inc_windows (w : Work) (a : Nat) : (w.inc a).windows = w.windows := rfl

@[simp] theorem Work.incFld_force (w : Work) (a lo len n : Nat) : (w.incFld a lo len n).force = w.force := rfl
@[simp] theorem Work.incFld_mem (w : Work) (a lo len n : Nat) : (w.incFld a lo len n).mem = w.mem := rfl
@[simp] theorem Work.incFld_poison (w : Work) (a lo len n : Nat) : (w.incFld a lo len n).poison = w.poison := rfl
@[simp] theorem Work.incFld_acc (w : Work) (a lo len n : Nat) : (w.incFld a lo len n).acc = w.acc := rfl
@[simp] theorem Work.incFld_accPoison (w : Work) (a lo len n : Nat) : (w.incFld a lo len n).accPoison = w.accPoison := rfl
@[simp] theorem Work.incFld_cells (w : Work) (a lo len n : Nat) : (w.incFld a lo len n).cells = w.cells := rfl
@[simp] theorem Work.incFld_now (w : Work) (a lo len n : Nat) : (w.incFld a lo len n).now = w.now := rfl
@[simp] theorem Work.incFld_free (w : Work) (a lo len n : Nat) : (w.incFld a lo len n).free = w.free := rfl
@[simp] theorem Work.incFld_out (w : Work) (a lo len n : Nat) : (w.incFld a lo len n).out = w.out := rfl
@[simp] theorem Work.incFld_fault (w : Work) (a lo len n : Nat) : (w.incFld a lo len n).fault = w.fault := rfl
@[simp] theorem Work.incFld_power (w : Work) (a lo len n : Nat) : (w.incFld a lo len n).power = w.power := rfl
@[simp] theorem Work.incFld_hk (w : Work) (a lo len n : Nat) : (w.incFld a lo len n).hk = w.hk := rfl
@[simp] theorem Work.incFld_beat (w : Work) (a lo len n : Nat) : (w.incFld a lo len n).beat = w.beat := rfl
@[simp] theorem Work.incFld_coxes (w : Work) (a lo len n : Nat) : (w.incFld a lo len n).coxes = w.coxes := rfl
@[simp] theorem Work.incFld_stroke (w : Work) (a lo len n : Nat) : (w.incFld a lo len n).stroke = w.stroke := rfl
@[simp] theorem Work.incFld_step (w : Work) (a lo len n : Nat) : (w.incFld a lo len n).step = w.step := rfl
@[simp] theorem Work.incFld_tiles (w : Work) (a lo len n : Nat) : (w.incFld a lo len n).tiles = w.tiles := rfl
@[simp] theorem Work.incFld_fwd (w : Work) (a lo len n : Nat) : (w.incFld a lo len n).fwd = w.fwd := rfl
@[simp] theorem Work.incFld_commits (w : Work) (a lo len n : Nat) : (w.incFld a lo len n).commits = w.commits := rfl
@[simp] theorem Work.incFld_unfolded (w : Work) (a lo len n : Nat) : (w.incFld a lo len n).unfolded = w.unfolded := rfl
@[simp] theorem Work.incFld_ctxs (w : Work) (a lo len n : Nat) : (w.incFld a lo len n).ctxs = w.ctxs := rfl
@[simp] theorem Work.incFld_digital (w : Work) (a lo len n : Nat) : (w.incFld a lo len n).digital = w.digital := rfl
@[simp] theorem Work.incFld_sess (w : Work) (a lo len n : Nat) : (w.incFld a lo len n).sess = w.sess := rfl
@[simp] theorem Work.incFld_memcs (w : Work) (a lo len n : Nat) : (w.incFld a lo len n).memcs = w.memcs := rfl
@[simp] theorem Work.incFld_parked (w : Work) (a lo len n : Nat) : (w.incFld a lo len n).parked = w.parked := rfl
@[simp] theorem Work.incFld_asked (w : Work) (a lo len n : Nat) : (w.incFld a lo len n).asked = w.asked := rfl
@[simp] theorem Work.incFld_links (w : Work) (a lo len n : Nat) : (w.incFld a lo len n).links = w.links := rfl
@[simp] theorem Work.incFld_txFlows (w : Work) (a lo len n : Nat) : (w.incFld a lo len n).txFlows = w.txFlows := rfl
@[simp] theorem Work.incFld_rxFlows (w : Work) (a lo len n : Nat) : (w.incFld a lo len n).rxFlows = w.rxFlows := rfl
@[simp] theorem Work.incFld_qps (w : Work) (a lo len n : Nat) : (w.incFld a lo len n).qps = w.qps := rfl
@[simp] theorem Work.incFld_jobs (w : Work) (a lo len n : Nat) : (w.incFld a lo len n).jobs = w.jobs := rfl
@[simp] theorem Work.incFld_lockAt (w : Work) (a lo len n : Nat) : (w.incFld a lo len n).lockAt = w.lockAt := rfl
@[simp] theorem Work.incFld_crews (w : Work) (a lo len n : Nat) : (w.incFld a lo len n).crews = w.crews := rfl
@[simp] theorem Work.incFld_released (w : Work) (a lo len n : Nat) : (w.incFld a lo len n).released = w.released := rfl
@[simp] theorem Work.incFld_red (w : Work) (a lo len n : Nat) : (w.incFld a lo len n).red = w.red := rfl
@[simp] theorem Work.incFld_mgr (w : Work) (a lo len n : Nat) : (w.incFld a lo len n).mgr = w.mgr := rfl
@[simp] theorem Work.incFld_start (w : Work) (a lo len n : Nat) : (w.incFld a lo len n).start = w.start := rfl
@[simp] theorem Work.incFld_sec (w : Work) (a lo len n : Nat) : (w.incFld a lo len n).sec = w.sec := rfl
@[simp] theorem Work.incFld_access (w : Work) (a lo len n : Nat) : (w.incFld a lo len n).access = w.access := rfl
@[simp] theorem Work.incFld_windows (w : Work) (a lo len n : Nat) : (w.incFld a lo len n).windows = w.windows := rfl

@[simp] theorem Work.store_regs (w : Work) (a : Nat) (l : List Byte) : (w.store a l).regs = w.regs := rfl
@[simp] theorem Work.store_force (w : Work) (a : Nat) (l : List Byte) : (w.store a l).force = w.force := rfl
@[simp] theorem Work.store_poison (w : Work) (a : Nat) (l : List Byte) : (w.store a l).poison = w.poison := rfl
@[simp] theorem Work.store_acc (w : Work) (a : Nat) (l : List Byte) : (w.store a l).acc = w.acc := rfl
@[simp] theorem Work.store_accPoison (w : Work) (a : Nat) (l : List Byte) : (w.store a l).accPoison = w.accPoison := rfl
@[simp] theorem Work.store_cells (w : Work) (a : Nat) (l : List Byte) : (w.store a l).cells = w.cells := rfl
@[simp] theorem Work.store_now (w : Work) (a : Nat) (l : List Byte) : (w.store a l).now = w.now := rfl
@[simp] theorem Work.store_free (w : Work) (a : Nat) (l : List Byte) : (w.store a l).free = w.free := rfl
@[simp] theorem Work.store_out (w : Work) (a : Nat) (l : List Byte) : (w.store a l).out = w.out := rfl
@[simp] theorem Work.store_fault (w : Work) (a : Nat) (l : List Byte) : (w.store a l).fault = w.fault := rfl
@[simp] theorem Work.store_power (w : Work) (a : Nat) (l : List Byte) : (w.store a l).power = w.power := rfl
@[simp] theorem Work.store_hk (w : Work) (a : Nat) (l : List Byte) : (w.store a l).hk = w.hk := rfl
@[simp] theorem Work.store_beat (w : Work) (a : Nat) (l : List Byte) : (w.store a l).beat = w.beat := rfl
@[simp] theorem Work.store_coxes (w : Work) (a : Nat) (l : List Byte) : (w.store a l).coxes = w.coxes := rfl
@[simp] theorem Work.store_stroke (w : Work) (a : Nat) (l : List Byte) : (w.store a l).stroke = w.stroke := rfl
@[simp] theorem Work.store_step (w : Work) (a : Nat) (l : List Byte) : (w.store a l).step = w.step := rfl
@[simp] theorem Work.store_tiles (w : Work) (a : Nat) (l : List Byte) : (w.store a l).tiles = w.tiles := rfl
@[simp] theorem Work.store_fwd (w : Work) (a : Nat) (l : List Byte) : (w.store a l).fwd = w.fwd := rfl
@[simp] theorem Work.store_commits (w : Work) (a : Nat) (l : List Byte) : (w.store a l).commits = w.commits := rfl
@[simp] theorem Work.store_unfolded (w : Work) (a : Nat) (l : List Byte) : (w.store a l).unfolded = w.unfolded := rfl
@[simp] theorem Work.store_ctxs (w : Work) (a : Nat) (l : List Byte) : (w.store a l).ctxs = w.ctxs := rfl
@[simp] theorem Work.store_digital (w : Work) (a : Nat) (l : List Byte) : (w.store a l).digital = w.digital := rfl
@[simp] theorem Work.store_sess (w : Work) (a : Nat) (l : List Byte) : (w.store a l).sess = w.sess := rfl
@[simp] theorem Work.store_memcs (w : Work) (a : Nat) (l : List Byte) : (w.store a l).memcs = w.memcs := rfl
@[simp] theorem Work.store_parked (w : Work) (a : Nat) (l : List Byte) : (w.store a l).parked = w.parked := rfl
@[simp] theorem Work.store_asked (w : Work) (a : Nat) (l : List Byte) : (w.store a l).asked = w.asked := rfl
@[simp] theorem Work.store_links (w : Work) (a : Nat) (l : List Byte) : (w.store a l).links = w.links := rfl
@[simp] theorem Work.store_txFlows (w : Work) (a : Nat) (l : List Byte) : (w.store a l).txFlows = w.txFlows := rfl
@[simp] theorem Work.store_rxFlows (w : Work) (a : Nat) (l : List Byte) : (w.store a l).rxFlows = w.rxFlows := rfl
@[simp] theorem Work.store_qps (w : Work) (a : Nat) (l : List Byte) : (w.store a l).qps = w.qps := rfl
@[simp] theorem Work.store_jobs (w : Work) (a : Nat) (l : List Byte) : (w.store a l).jobs = w.jobs := rfl
@[simp] theorem Work.store_lockAt (w : Work) (a : Nat) (l : List Byte) : (w.store a l).lockAt = w.lockAt := rfl
@[simp] theorem Work.store_crews (w : Work) (a : Nat) (l : List Byte) : (w.store a l).crews = w.crews := rfl
@[simp] theorem Work.store_released (w : Work) (a : Nat) (l : List Byte) : (w.store a l).released = w.released := rfl
@[simp] theorem Work.store_red (w : Work) (a : Nat) (l : List Byte) : (w.store a l).red = w.red := rfl
@[simp] theorem Work.store_mgr (w : Work) (a : Nat) (l : List Byte) : (w.store a l).mgr = w.mgr := rfl
@[simp] theorem Work.store_start (w : Work) (a : Nat) (l : List Byte) : (w.store a l).start = w.start := rfl
@[simp] theorem Work.store_sec (w : Work) (a : Nat) (l : List Byte) : (w.store a l).sec = w.sec := rfl
@[simp] theorem Work.store_access (w : Work) (a : Nat) (l : List Byte) : (w.store a l).access = w.access := rfl
@[simp] theorem Work.store_windows (w : Work) (a : Nat) (l : List Byte) : (w.store a l).windows = w.windows := rfl
@[simp] theorem Work.store_mem (w : Work) (a : Nat) (l : List Byte) : (w.store a l).mem = storeCells w.mem a l := rfl

@[simp] theorem Work.storeNum_regs (w : Work) (a n v : Nat) : (w.storeNum a n v).regs = w.regs := rfl
@[simp] theorem Work.storeNum_force (w : Work) (a n v : Nat) : (w.storeNum a n v).force = w.force := rfl
@[simp] theorem Work.storeNum_poison (w : Work) (a n v : Nat) : (w.storeNum a n v).poison = w.poison := rfl
@[simp] theorem Work.storeNum_acc (w : Work) (a n v : Nat) : (w.storeNum a n v).acc = w.acc := rfl
@[simp] theorem Work.storeNum_accPoison (w : Work) (a n v : Nat) : (w.storeNum a n v).accPoison = w.accPoison := rfl
@[simp] theorem Work.storeNum_cells (w : Work) (a n v : Nat) : (w.storeNum a n v).cells = w.cells := rfl
@[simp] theorem Work.storeNum_now (w : Work) (a n v : Nat) : (w.storeNum a n v).now = w.now := rfl
@[simp] theorem Work.storeNum_free (w : Work) (a n v : Nat) : (w.storeNum a n v).free = w.free := rfl
@[simp] theorem Work.storeNum_out (w : Work) (a n v : Nat) : (w.storeNum a n v).out = w.out := rfl
@[simp] theorem Work.storeNum_fault (w : Work) (a n v : Nat) : (w.storeNum a n v).fault = w.fault := rfl
@[simp] theorem Work.storeNum_power (w : Work) (a n v : Nat) : (w.storeNum a n v).power = w.power := rfl
@[simp] theorem Work.storeNum_hk (w : Work) (a n v : Nat) : (w.storeNum a n v).hk = w.hk := rfl
@[simp] theorem Work.storeNum_beat (w : Work) (a n v : Nat) : (w.storeNum a n v).beat = w.beat := rfl
@[simp] theorem Work.storeNum_coxes (w : Work) (a n v : Nat) : (w.storeNum a n v).coxes = w.coxes := rfl
@[simp] theorem Work.storeNum_stroke (w : Work) (a n v : Nat) : (w.storeNum a n v).stroke = w.stroke := rfl
@[simp] theorem Work.storeNum_step (w : Work) (a n v : Nat) : (w.storeNum a n v).step = w.step := rfl
@[simp] theorem Work.storeNum_tiles (w : Work) (a n v : Nat) : (w.storeNum a n v).tiles = w.tiles := rfl
@[simp] theorem Work.storeNum_fwd (w : Work) (a n v : Nat) : (w.storeNum a n v).fwd = w.fwd := rfl
@[simp] theorem Work.storeNum_commits (w : Work) (a n v : Nat) : (w.storeNum a n v).commits = w.commits := rfl
@[simp] theorem Work.storeNum_unfolded (w : Work) (a n v : Nat) : (w.storeNum a n v).unfolded = w.unfolded := rfl
@[simp] theorem Work.storeNum_ctxs (w : Work) (a n v : Nat) : (w.storeNum a n v).ctxs = w.ctxs := rfl
@[simp] theorem Work.storeNum_digital (w : Work) (a n v : Nat) : (w.storeNum a n v).digital = w.digital := rfl
@[simp] theorem Work.storeNum_sess (w : Work) (a n v : Nat) : (w.storeNum a n v).sess = w.sess := rfl
@[simp] theorem Work.storeNum_memcs (w : Work) (a n v : Nat) : (w.storeNum a n v).memcs = w.memcs := rfl
@[simp] theorem Work.storeNum_parked (w : Work) (a n v : Nat) : (w.storeNum a n v).parked = w.parked := rfl
@[simp] theorem Work.storeNum_asked (w : Work) (a n v : Nat) : (w.storeNum a n v).asked = w.asked := rfl
@[simp] theorem Work.storeNum_links (w : Work) (a n v : Nat) : (w.storeNum a n v).links = w.links := rfl
@[simp] theorem Work.storeNum_txFlows (w : Work) (a n v : Nat) : (w.storeNum a n v).txFlows = w.txFlows := rfl
@[simp] theorem Work.storeNum_rxFlows (w : Work) (a n v : Nat) : (w.storeNum a n v).rxFlows = w.rxFlows := rfl
@[simp] theorem Work.storeNum_qps (w : Work) (a n v : Nat) : (w.storeNum a n v).qps = w.qps := rfl
@[simp] theorem Work.storeNum_jobs (w : Work) (a n v : Nat) : (w.storeNum a n v).jobs = w.jobs := rfl
@[simp] theorem Work.storeNum_lockAt (w : Work) (a n v : Nat) : (w.storeNum a n v).lockAt = w.lockAt := rfl
@[simp] theorem Work.storeNum_crews (w : Work) (a n v : Nat) : (w.storeNum a n v).crews = w.crews := rfl
@[simp] theorem Work.storeNum_released (w : Work) (a n v : Nat) : (w.storeNum a n v).released = w.released := rfl
@[simp] theorem Work.storeNum_red (w : Work) (a n v : Nat) : (w.storeNum a n v).red = w.red := rfl
@[simp] theorem Work.storeNum_mgr (w : Work) (a n v : Nat) : (w.storeNum a n v).mgr = w.mgr := rfl
@[simp] theorem Work.storeNum_start (w : Work) (a n v : Nat) : (w.storeNum a n v).start = w.start := rfl
@[simp] theorem Work.storeNum_sec (w : Work) (a n v : Nat) : (w.storeNum a n v).sec = w.sec := rfl
@[simp] theorem Work.storeNum_access (w : Work) (a n v : Nat) : (w.storeNum a n v).access = w.access := rfl
@[simp] theorem Work.storeNum_windows (w : Work) (a n v : Nat) : (w.storeNum a n v).windows = w.windows := rfl

@[simp] theorem Work.mark_regs (w : Work) (a n : Nat) : (w.mark a n).regs = w.regs := rfl
@[simp] theorem Work.mark_force (w : Work) (a n : Nat) : (w.mark a n).force = w.force := rfl
@[simp] theorem Work.mark_mem (w : Work) (a n : Nat) : (w.mark a n).mem = w.mem := rfl
@[simp] theorem Work.mark_acc (w : Work) (a n : Nat) : (w.mark a n).acc = w.acc := rfl
@[simp] theorem Work.mark_accPoison (w : Work) (a n : Nat) : (w.mark a n).accPoison = w.accPoison := rfl
@[simp] theorem Work.mark_cells (w : Work) (a n : Nat) : (w.mark a n).cells = w.cells := rfl
@[simp] theorem Work.mark_now (w : Work) (a n : Nat) : (w.mark a n).now = w.now := rfl
@[simp] theorem Work.mark_free (w : Work) (a n : Nat) : (w.mark a n).free = w.free := rfl
@[simp] theorem Work.mark_out (w : Work) (a n : Nat) : (w.mark a n).out = w.out := rfl
@[simp] theorem Work.mark_fault (w : Work) (a n : Nat) : (w.mark a n).fault = w.fault := rfl
@[simp] theorem Work.mark_power (w : Work) (a n : Nat) : (w.mark a n).power = w.power := rfl
@[simp] theorem Work.mark_hk (w : Work) (a n : Nat) : (w.mark a n).hk = w.hk := rfl
@[simp] theorem Work.mark_beat (w : Work) (a n : Nat) : (w.mark a n).beat = w.beat := rfl
@[simp] theorem Work.mark_coxes (w : Work) (a n : Nat) : (w.mark a n).coxes = w.coxes := rfl
@[simp] theorem Work.mark_stroke (w : Work) (a n : Nat) : (w.mark a n).stroke = w.stroke := rfl
@[simp] theorem Work.mark_step (w : Work) (a n : Nat) : (w.mark a n).step = w.step := rfl
@[simp] theorem Work.mark_tiles (w : Work) (a n : Nat) : (w.mark a n).tiles = w.tiles := rfl
@[simp] theorem Work.mark_fwd (w : Work) (a n : Nat) : (w.mark a n).fwd = w.fwd := rfl
@[simp] theorem Work.mark_commits (w : Work) (a n : Nat) : (w.mark a n).commits = w.commits := rfl
@[simp] theorem Work.mark_unfolded (w : Work) (a n : Nat) : (w.mark a n).unfolded = w.unfolded := rfl
@[simp] theorem Work.mark_ctxs (w : Work) (a n : Nat) : (w.mark a n).ctxs = w.ctxs := rfl
@[simp] theorem Work.mark_digital (w : Work) (a n : Nat) : (w.mark a n).digital = w.digital := rfl
@[simp] theorem Work.mark_sess (w : Work) (a n : Nat) : (w.mark a n).sess = w.sess := rfl
@[simp] theorem Work.mark_memcs (w : Work) (a n : Nat) : (w.mark a n).memcs = w.memcs := rfl
@[simp] theorem Work.mark_parked (w : Work) (a n : Nat) : (w.mark a n).parked = w.parked := rfl
@[simp] theorem Work.mark_asked (w : Work) (a n : Nat) : (w.mark a n).asked = w.asked := rfl
@[simp] theorem Work.mark_links (w : Work) (a n : Nat) : (w.mark a n).links = w.links := rfl
@[simp] theorem Work.mark_txFlows (w : Work) (a n : Nat) : (w.mark a n).txFlows = w.txFlows := rfl
@[simp] theorem Work.mark_rxFlows (w : Work) (a n : Nat) : (w.mark a n).rxFlows = w.rxFlows := rfl
@[simp] theorem Work.mark_qps (w : Work) (a n : Nat) : (w.mark a n).qps = w.qps := rfl
@[simp] theorem Work.mark_jobs (w : Work) (a n : Nat) : (w.mark a n).jobs = w.jobs := rfl
@[simp] theorem Work.mark_lockAt (w : Work) (a n : Nat) : (w.mark a n).lockAt = w.lockAt := rfl
@[simp] theorem Work.mark_crews (w : Work) (a n : Nat) : (w.mark a n).crews = w.crews := rfl
@[simp] theorem Work.mark_released (w : Work) (a n : Nat) : (w.mark a n).released = w.released := rfl
@[simp] theorem Work.mark_red (w : Work) (a n : Nat) : (w.mark a n).red = w.red := rfl
@[simp] theorem Work.mark_mgr (w : Work) (a n : Nat) : (w.mark a n).mgr = w.mgr := rfl
@[simp] theorem Work.mark_start (w : Work) (a n : Nat) : (w.mark a n).start = w.start := rfl
@[simp] theorem Work.mark_sec (w : Work) (a n : Nat) : (w.mark a n).sec = w.sec := rfl
@[simp] theorem Work.mark_access (w : Work) (a n : Nat) : (w.mark a n).access = w.access := rfl
@[simp] theorem Work.mark_windows (w : Work) (a n : Nat) : (w.mark a n).windows = w.windows := rfl

@[simp] theorem Work.unmark_regs (w : Work) (a n : Nat) : (w.unmark a n).regs = w.regs := rfl
@[simp] theorem Work.unmark_force (w : Work) (a n : Nat) : (w.unmark a n).force = w.force := rfl
@[simp] theorem Work.unmark_mem (w : Work) (a n : Nat) : (w.unmark a n).mem = w.mem := rfl
@[simp] theorem Work.unmark_acc (w : Work) (a n : Nat) : (w.unmark a n).acc = w.acc := rfl
@[simp] theorem Work.unmark_accPoison (w : Work) (a n : Nat) : (w.unmark a n).accPoison = w.accPoison := rfl
@[simp] theorem Work.unmark_cells (w : Work) (a n : Nat) : (w.unmark a n).cells = w.cells := rfl
@[simp] theorem Work.unmark_now (w : Work) (a n : Nat) : (w.unmark a n).now = w.now := rfl
@[simp] theorem Work.unmark_free (w : Work) (a n : Nat) : (w.unmark a n).free = w.free := rfl
@[simp] theorem Work.unmark_out (w : Work) (a n : Nat) : (w.unmark a n).out = w.out := rfl
@[simp] theorem Work.unmark_fault (w : Work) (a n : Nat) : (w.unmark a n).fault = w.fault := rfl
@[simp] theorem Work.unmark_power (w : Work) (a n : Nat) : (w.unmark a n).power = w.power := rfl
@[simp] theorem Work.unmark_hk (w : Work) (a n : Nat) : (w.unmark a n).hk = w.hk := rfl
@[simp] theorem Work.unmark_beat (w : Work) (a n : Nat) : (w.unmark a n).beat = w.beat := rfl
@[simp] theorem Work.unmark_coxes (w : Work) (a n : Nat) : (w.unmark a n).coxes = w.coxes := rfl
@[simp] theorem Work.unmark_stroke (w : Work) (a n : Nat) : (w.unmark a n).stroke = w.stroke := rfl
@[simp] theorem Work.unmark_step (w : Work) (a n : Nat) : (w.unmark a n).step = w.step := rfl
@[simp] theorem Work.unmark_tiles (w : Work) (a n : Nat) : (w.unmark a n).tiles = w.tiles := rfl
@[simp] theorem Work.unmark_fwd (w : Work) (a n : Nat) : (w.unmark a n).fwd = w.fwd := rfl
@[simp] theorem Work.unmark_commits (w : Work) (a n : Nat) : (w.unmark a n).commits = w.commits := rfl
@[simp] theorem Work.unmark_unfolded (w : Work) (a n : Nat) : (w.unmark a n).unfolded = w.unfolded := rfl
@[simp] theorem Work.unmark_ctxs (w : Work) (a n : Nat) : (w.unmark a n).ctxs = w.ctxs := rfl
@[simp] theorem Work.unmark_digital (w : Work) (a n : Nat) : (w.unmark a n).digital = w.digital := rfl
@[simp] theorem Work.unmark_sess (w : Work) (a n : Nat) : (w.unmark a n).sess = w.sess := rfl
@[simp] theorem Work.unmark_memcs (w : Work) (a n : Nat) : (w.unmark a n).memcs = w.memcs := rfl
@[simp] theorem Work.unmark_parked (w : Work) (a n : Nat) : (w.unmark a n).parked = w.parked := rfl
@[simp] theorem Work.unmark_asked (w : Work) (a n : Nat) : (w.unmark a n).asked = w.asked := rfl
@[simp] theorem Work.unmark_links (w : Work) (a n : Nat) : (w.unmark a n).links = w.links := rfl
@[simp] theorem Work.unmark_txFlows (w : Work) (a n : Nat) : (w.unmark a n).txFlows = w.txFlows := rfl
@[simp] theorem Work.unmark_rxFlows (w : Work) (a n : Nat) : (w.unmark a n).rxFlows = w.rxFlows := rfl
@[simp] theorem Work.unmark_qps (w : Work) (a n : Nat) : (w.unmark a n).qps = w.qps := rfl
@[simp] theorem Work.unmark_jobs (w : Work) (a n : Nat) : (w.unmark a n).jobs = w.jobs := rfl
@[simp] theorem Work.unmark_lockAt (w : Work) (a n : Nat) : (w.unmark a n).lockAt = w.lockAt := rfl
@[simp] theorem Work.unmark_crews (w : Work) (a n : Nat) : (w.unmark a n).crews = w.crews := rfl
@[simp] theorem Work.unmark_released (w : Work) (a n : Nat) : (w.unmark a n).released = w.released := rfl
@[simp] theorem Work.unmark_red (w : Work) (a n : Nat) : (w.unmark a n).red = w.red := rfl
@[simp] theorem Work.unmark_mgr (w : Work) (a n : Nat) : (w.unmark a n).mgr = w.mgr := rfl
@[simp] theorem Work.unmark_start (w : Work) (a n : Nat) : (w.unmark a n).start = w.start := rfl
@[simp] theorem Work.unmark_sec (w : Work) (a n : Nat) : (w.unmark a n).sec = w.sec := rfl
@[simp] theorem Work.unmark_access (w : Work) (a n : Nat) : (w.unmark a n).access = w.access := rfl
@[simp] theorem Work.unmark_windows (w : Work) (a n : Nat) : (w.unmark a n).windows = w.windows := rfl

@[simp] theorem Work.zeroRange_regs (w : Work) (a n : Nat) : (w.zeroRange a n).regs = w.regs := rfl
@[simp] theorem Work.zeroRange_force (w : Work) (a n : Nat) : (w.zeroRange a n).force = w.force := rfl
@[simp] theorem Work.zeroRange_acc (w : Work) (a n : Nat) : (w.zeroRange a n).acc = w.acc := rfl
@[simp] theorem Work.zeroRange_accPoison (w : Work) (a n : Nat) : (w.zeroRange a n).accPoison = w.accPoison := rfl
@[simp] theorem Work.zeroRange_cells (w : Work) (a n : Nat) : (w.zeroRange a n).cells = w.cells := rfl
@[simp] theorem Work.zeroRange_now (w : Work) (a n : Nat) : (w.zeroRange a n).now = w.now := rfl
@[simp] theorem Work.zeroRange_free (w : Work) (a n : Nat) : (w.zeroRange a n).free = w.free := rfl
@[simp] theorem Work.zeroRange_out (w : Work) (a n : Nat) : (w.zeroRange a n).out = w.out := rfl
@[simp] theorem Work.zeroRange_fault (w : Work) (a n : Nat) : (w.zeroRange a n).fault = w.fault := rfl
@[simp] theorem Work.zeroRange_power (w : Work) (a n : Nat) : (w.zeroRange a n).power = w.power := rfl
@[simp] theorem Work.zeroRange_hk (w : Work) (a n : Nat) : (w.zeroRange a n).hk = w.hk := rfl
@[simp] theorem Work.zeroRange_beat (w : Work) (a n : Nat) : (w.zeroRange a n).beat = w.beat := rfl
@[simp] theorem Work.zeroRange_coxes (w : Work) (a n : Nat) : (w.zeroRange a n).coxes = w.coxes := rfl
@[simp] theorem Work.zeroRange_stroke (w : Work) (a n : Nat) : (w.zeroRange a n).stroke = w.stroke := rfl
@[simp] theorem Work.zeroRange_step (w : Work) (a n : Nat) : (w.zeroRange a n).step = w.step := rfl
@[simp] theorem Work.zeroRange_tiles (w : Work) (a n : Nat) : (w.zeroRange a n).tiles = w.tiles := rfl
@[simp] theorem Work.zeroRange_fwd (w : Work) (a n : Nat) : (w.zeroRange a n).fwd = w.fwd := rfl
@[simp] theorem Work.zeroRange_commits (w : Work) (a n : Nat) : (w.zeroRange a n).commits = w.commits := rfl
@[simp] theorem Work.zeroRange_unfolded (w : Work) (a n : Nat) : (w.zeroRange a n).unfolded = w.unfolded := rfl
@[simp] theorem Work.zeroRange_ctxs (w : Work) (a n : Nat) : (w.zeroRange a n).ctxs = w.ctxs := rfl
@[simp] theorem Work.zeroRange_digital (w : Work) (a n : Nat) : (w.zeroRange a n).digital = w.digital := rfl
@[simp] theorem Work.zeroRange_sess (w : Work) (a n : Nat) : (w.zeroRange a n).sess = w.sess := rfl
@[simp] theorem Work.zeroRange_memcs (w : Work) (a n : Nat) : (w.zeroRange a n).memcs = w.memcs := rfl
@[simp] theorem Work.zeroRange_parked (w : Work) (a n : Nat) : (w.zeroRange a n).parked = w.parked := rfl
@[simp] theorem Work.zeroRange_asked (w : Work) (a n : Nat) : (w.zeroRange a n).asked = w.asked := rfl
@[simp] theorem Work.zeroRange_links (w : Work) (a n : Nat) : (w.zeroRange a n).links = w.links := rfl
@[simp] theorem Work.zeroRange_txFlows (w : Work) (a n : Nat) : (w.zeroRange a n).txFlows = w.txFlows := rfl
@[simp] theorem Work.zeroRange_rxFlows (w : Work) (a n : Nat) : (w.zeroRange a n).rxFlows = w.rxFlows := rfl
@[simp] theorem Work.zeroRange_qps (w : Work) (a n : Nat) : (w.zeroRange a n).qps = w.qps := rfl
@[simp] theorem Work.zeroRange_jobs (w : Work) (a n : Nat) : (w.zeroRange a n).jobs = w.jobs := rfl
@[simp] theorem Work.zeroRange_lockAt (w : Work) (a n : Nat) : (w.zeroRange a n).lockAt = w.lockAt := rfl
@[simp] theorem Work.zeroRange_crews (w : Work) (a n : Nat) : (w.zeroRange a n).crews = w.crews := rfl
@[simp] theorem Work.zeroRange_released (w : Work) (a n : Nat) : (w.zeroRange a n).released = w.released := rfl
@[simp] theorem Work.zeroRange_red (w : Work) (a n : Nat) : (w.zeroRange a n).red = w.red := rfl
@[simp] theorem Work.zeroRange_mgr (w : Work) (a n : Nat) : (w.zeroRange a n).mgr = w.mgr := rfl
@[simp] theorem Work.zeroRange_start (w : Work) (a n : Nat) : (w.zeroRange a n).start = w.start := rfl
@[simp] theorem Work.zeroRange_sec (w : Work) (a n : Nat) : (w.zeroRange a n).sec = w.sec := rfl
@[simp] theorem Work.zeroRange_access (w : Work) (a n : Nat) : (w.zeroRange a n).access = w.access := rfl
@[simp] theorem Work.zeroRange_windows (w : Work) (a n : Nat) : (w.zeroRange a n).windows = w.windows := rfl

@[simp] theorem Work.progress_regs (w : Work) (k : Nat) : (w.progress k).regs = w.regs := rfl
@[simp] theorem Work.progress_force (w : Work) (k : Nat) : (w.progress k).force = w.force := rfl
@[simp] theorem Work.progress_mem (w : Work) (k : Nat) : (w.progress k).mem = w.mem := rfl
@[simp] theorem Work.progress_poison (w : Work) (k : Nat) : (w.progress k).poison = w.poison := rfl
@[simp] theorem Work.progress_acc (w : Work) (k : Nat) : (w.progress k).acc = w.acc := rfl
@[simp] theorem Work.progress_accPoison (w : Work) (k : Nat) : (w.progress k).accPoison = w.accPoison := rfl
@[simp] theorem Work.progress_cells (w : Work) (k : Nat) : (w.progress k).cells = w.cells := rfl
@[simp] theorem Work.progress_now (w : Work) (k : Nat) : (w.progress k).now = w.now := rfl
@[simp] theorem Work.progress_free (w : Work) (k : Nat) : (w.progress k).free = w.free := rfl
@[simp] theorem Work.progress_out (w : Work) (k : Nat) : (w.progress k).out = w.out := rfl
@[simp] theorem Work.progress_power (w : Work) (k : Nat) : (w.progress k).power = w.power := rfl
@[simp] theorem Work.progress_hk (w : Work) (k : Nat) : (w.progress k).hk = w.hk := rfl
@[simp] theorem Work.progress_beat (w : Work) (k : Nat) : (w.progress k).beat = w.beat := rfl
@[simp] theorem Work.progress_coxes (w : Work) (k : Nat) : (w.progress k).coxes = w.coxes := rfl
@[simp] theorem Work.progress_stroke (w : Work) (k : Nat) : (w.progress k).stroke = w.stroke := rfl
@[simp] theorem Work.progress_step (w : Work) (k : Nat) : (w.progress k).step = w.step := rfl
@[simp] theorem Work.progress_tiles (w : Work) (k : Nat) : (w.progress k).tiles = w.tiles := rfl
@[simp] theorem Work.progress_fwd (w : Work) (k : Nat) : (w.progress k).fwd = w.fwd := rfl
@[simp] theorem Work.progress_commits (w : Work) (k : Nat) : (w.progress k).commits = w.commits := rfl
@[simp] theorem Work.progress_unfolded (w : Work) (k : Nat) : (w.progress k).unfolded = w.unfolded := rfl
@[simp] theorem Work.progress_ctxs (w : Work) (k : Nat) : (w.progress k).ctxs = w.ctxs := rfl
@[simp] theorem Work.progress_digital (w : Work) (k : Nat) : (w.progress k).digital = w.digital := rfl
@[simp] theorem Work.progress_sess (w : Work) (k : Nat) : (w.progress k).sess = w.sess := rfl
@[simp] theorem Work.progress_memcs (w : Work) (k : Nat) : (w.progress k).memcs = w.memcs := rfl
@[simp] theorem Work.progress_parked (w : Work) (k : Nat) : (w.progress k).parked = w.parked := rfl
@[simp] theorem Work.progress_asked (w : Work) (k : Nat) : (w.progress k).asked = w.asked := rfl
@[simp] theorem Work.progress_links (w : Work) (k : Nat) : (w.progress k).links = w.links := rfl
@[simp] theorem Work.progress_txFlows (w : Work) (k : Nat) : (w.progress k).txFlows = w.txFlows := rfl
@[simp] theorem Work.progress_rxFlows (w : Work) (k : Nat) : (w.progress k).rxFlows = w.rxFlows := rfl
@[simp] theorem Work.progress_qps (w : Work) (k : Nat) : (w.progress k).qps = w.qps := rfl
@[simp] theorem Work.progress_jobs (w : Work) (k : Nat) : (w.progress k).jobs = w.jobs := rfl
@[simp] theorem Work.progress_lockAt (w : Work) (k : Nat) : (w.progress k).lockAt = w.lockAt := rfl
@[simp] theorem Work.progress_crews (w : Work) (k : Nat) : (w.progress k).crews = w.crews := rfl
@[simp] theorem Work.progress_released (w : Work) (k : Nat) : (w.progress k).released = w.released := rfl
@[simp] theorem Work.progress_red (w : Work) (k : Nat) : (w.progress k).red = w.red := rfl
@[simp] theorem Work.progress_mgr (w : Work) (k : Nat) : (w.progress k).mgr = w.mgr := rfl
@[simp] theorem Work.progress_start (w : Work) (k : Nat) : (w.progress k).start = w.start := rfl
@[simp] theorem Work.progress_sec (w : Work) (k : Nat) : (w.progress k).sec = w.sec := rfl
@[simp] theorem Work.progress_access (w : Work) (k : Nat) : (w.progress k).access = w.access := rfl
@[simp] theorem Work.progress_windows (w : Work) (k : Nat) : (w.progress k).windows = w.windows := rfl

@[simp] theorem Work.till_regs (w : Work) (t : Nat) : (w.till t).regs = w.regs := rfl
@[simp] theorem Work.till_force (w : Work) (t : Nat) : (w.till t).force = w.force := rfl
@[simp] theorem Work.till_mem (w : Work) (t : Nat) : (w.till t).mem = w.mem := rfl
@[simp] theorem Work.till_poison (w : Work) (t : Nat) : (w.till t).poison = w.poison := rfl
@[simp] theorem Work.till_acc (w : Work) (t : Nat) : (w.till t).acc = w.acc := rfl
@[simp] theorem Work.till_accPoison (w : Work) (t : Nat) : (w.till t).accPoison = w.accPoison := rfl
@[simp] theorem Work.till_cells (w : Work) (t : Nat) : (w.till t).cells = w.cells := rfl
@[simp] theorem Work.till_free (w : Work) (t : Nat) : (w.till t).free = w.free := rfl
@[simp] theorem Work.till_out (w : Work) (t : Nat) : (w.till t).out = w.out := rfl
@[simp] theorem Work.till_fault (w : Work) (t : Nat) : (w.till t).fault = w.fault := rfl
@[simp] theorem Work.till_power (w : Work) (t : Nat) : (w.till t).power = w.power := rfl
@[simp] theorem Work.till_hk (w : Work) (t : Nat) : (w.till t).hk = w.hk := rfl
@[simp] theorem Work.till_beat (w : Work) (t : Nat) : (w.till t).beat = w.beat := rfl
@[simp] theorem Work.till_coxes (w : Work) (t : Nat) : (w.till t).coxes = w.coxes := rfl
@[simp] theorem Work.till_stroke (w : Work) (t : Nat) : (w.till t).stroke = w.stroke := rfl
@[simp] theorem Work.till_step (w : Work) (t : Nat) : (w.till t).step = w.step := rfl
@[simp] theorem Work.till_tiles (w : Work) (t : Nat) : (w.till t).tiles = w.tiles := rfl
@[simp] theorem Work.till_fwd (w : Work) (t : Nat) : (w.till t).fwd = w.fwd := rfl
@[simp] theorem Work.till_commits (w : Work) (t : Nat) : (w.till t).commits = w.commits := rfl
@[simp] theorem Work.till_unfolded (w : Work) (t : Nat) : (w.till t).unfolded = w.unfolded := rfl
@[simp] theorem Work.till_ctxs (w : Work) (t : Nat) : (w.till t).ctxs = w.ctxs := rfl
@[simp] theorem Work.till_digital (w : Work) (t : Nat) : (w.till t).digital = w.digital := rfl
@[simp] theorem Work.till_sess (w : Work) (t : Nat) : (w.till t).sess = w.sess := rfl
@[simp] theorem Work.till_memcs (w : Work) (t : Nat) : (w.till t).memcs = w.memcs := rfl
@[simp] theorem Work.till_parked (w : Work) (t : Nat) : (w.till t).parked = w.parked := rfl
@[simp] theorem Work.till_asked (w : Work) (t : Nat) : (w.till t).asked = w.asked := rfl
@[simp] theorem Work.till_links (w : Work) (t : Nat) : (w.till t).links = w.links := rfl
@[simp] theorem Work.till_txFlows (w : Work) (t : Nat) : (w.till t).txFlows = w.txFlows := rfl
@[simp] theorem Work.till_rxFlows (w : Work) (t : Nat) : (w.till t).rxFlows = w.rxFlows := rfl
@[simp] theorem Work.till_qps (w : Work) (t : Nat) : (w.till t).qps = w.qps := rfl
@[simp] theorem Work.till_jobs (w : Work) (t : Nat) : (w.till t).jobs = w.jobs := rfl
@[simp] theorem Work.till_lockAt (w : Work) (t : Nat) : (w.till t).lockAt = w.lockAt := rfl
@[simp] theorem Work.till_crews (w : Work) (t : Nat) : (w.till t).crews = w.crews := rfl
@[simp] theorem Work.till_released (w : Work) (t : Nat) : (w.till t).released = w.released := rfl
@[simp] theorem Work.till_red (w : Work) (t : Nat) : (w.till t).red = w.red := rfl
@[simp] theorem Work.till_mgr (w : Work) (t : Nat) : (w.till t).mgr = w.mgr := rfl
@[simp] theorem Work.till_start (w : Work) (t : Nat) : (w.till t).start = w.start := rfl
@[simp] theorem Work.till_sec (w : Work) (t : Nat) : (w.till t).sec = w.sec := rfl
@[simp] theorem Work.till_access (w : Work) (t : Nat) : (w.till t).access = w.access := rfl
@[simp] theorem Work.till_windows (w : Work) (t : Nat) : (w.till t).windows = w.windows := rfl
@[simp] theorem Work.till_now (w : Work) (t : Nat) : (w.till t).now = max w.now t := rfl

@[simp] theorem Work.setTile_regs (w : Work) (c t : Nat) (v : Tile) : (w.setTile c t v).regs = w.regs := rfl
@[simp] theorem Work.setTile_force (w : Work) (c t : Nat) (v : Tile) : (w.setTile c t v).force = w.force := rfl
@[simp] theorem Work.setTile_mem (w : Work) (c t : Nat) (v : Tile) : (w.setTile c t v).mem = w.mem := rfl
@[simp] theorem Work.setTile_poison (w : Work) (c t : Nat) (v : Tile) : (w.setTile c t v).poison = w.poison := rfl
@[simp] theorem Work.setTile_acc (w : Work) (c t : Nat) (v : Tile) : (w.setTile c t v).acc = w.acc := rfl
@[simp] theorem Work.setTile_accPoison (w : Work) (c t : Nat) (v : Tile) : (w.setTile c t v).accPoison = w.accPoison := rfl
@[simp] theorem Work.setTile_cells (w : Work) (c t : Nat) (v : Tile) : (w.setTile c t v).cells = w.cells := rfl
@[simp] theorem Work.setTile_now (w : Work) (c t : Nat) (v : Tile) : (w.setTile c t v).now = w.now := rfl
@[simp] theorem Work.setTile_free (w : Work) (c t : Nat) (v : Tile) : (w.setTile c t v).free = w.free := rfl
@[simp] theorem Work.setTile_out (w : Work) (c t : Nat) (v : Tile) : (w.setTile c t v).out = w.out := rfl
@[simp] theorem Work.setTile_fault (w : Work) (c t : Nat) (v : Tile) : (w.setTile c t v).fault = w.fault := rfl
@[simp] theorem Work.setTile_power (w : Work) (c t : Nat) (v : Tile) : (w.setTile c t v).power = w.power := rfl
@[simp] theorem Work.setTile_hk (w : Work) (c t : Nat) (v : Tile) : (w.setTile c t v).hk = w.hk := rfl
@[simp] theorem Work.setTile_beat (w : Work) (c t : Nat) (v : Tile) : (w.setTile c t v).beat = w.beat := rfl
@[simp] theorem Work.setTile_coxes (w : Work) (c t : Nat) (v : Tile) : (w.setTile c t v).coxes = w.coxes := rfl
@[simp] theorem Work.setTile_stroke (w : Work) (c t : Nat) (v : Tile) : (w.setTile c t v).stroke = w.stroke := rfl
@[simp] theorem Work.setTile_step (w : Work) (c t : Nat) (v : Tile) : (w.setTile c t v).step = w.step := rfl
@[simp] theorem Work.setTile_fwd (w : Work) (c t : Nat) (v : Tile) : (w.setTile c t v).fwd = w.fwd := rfl
@[simp] theorem Work.setTile_commits (w : Work) (c t : Nat) (v : Tile) : (w.setTile c t v).commits = w.commits := rfl
@[simp] theorem Work.setTile_unfolded (w : Work) (c t : Nat) (v : Tile) : (w.setTile c t v).unfolded = w.unfolded := rfl
@[simp] theorem Work.setTile_ctxs (w : Work) (c t : Nat) (v : Tile) : (w.setTile c t v).ctxs = w.ctxs := rfl
@[simp] theorem Work.setTile_digital (w : Work) (c t : Nat) (v : Tile) : (w.setTile c t v).digital = w.digital := rfl
@[simp] theorem Work.setTile_sess (w : Work) (c t : Nat) (v : Tile) : (w.setTile c t v).sess = w.sess := rfl
@[simp] theorem Work.setTile_memcs (w : Work) (c t : Nat) (v : Tile) : (w.setTile c t v).memcs = w.memcs := rfl
@[simp] theorem Work.setTile_parked (w : Work) (c t : Nat) (v : Tile) : (w.setTile c t v).parked = w.parked := rfl
@[simp] theorem Work.setTile_asked (w : Work) (c t : Nat) (v : Tile) : (w.setTile c t v).asked = w.asked := rfl
@[simp] theorem Work.setTile_links (w : Work) (c t : Nat) (v : Tile) : (w.setTile c t v).links = w.links := rfl
@[simp] theorem Work.setTile_txFlows (w : Work) (c t : Nat) (v : Tile) : (w.setTile c t v).txFlows = w.txFlows := rfl
@[simp] theorem Work.setTile_rxFlows (w : Work) (c t : Nat) (v : Tile) : (w.setTile c t v).rxFlows = w.rxFlows := rfl
@[simp] theorem Work.setTile_qps (w : Work) (c t : Nat) (v : Tile) : (w.setTile c t v).qps = w.qps := rfl
@[simp] theorem Work.setTile_jobs (w : Work) (c t : Nat) (v : Tile) : (w.setTile c t v).jobs = w.jobs := rfl
@[simp] theorem Work.setTile_lockAt (w : Work) (c t : Nat) (v : Tile) : (w.setTile c t v).lockAt = w.lockAt := rfl
@[simp] theorem Work.setTile_crews (w : Work) (c t : Nat) (v : Tile) : (w.setTile c t v).crews = w.crews := rfl
@[simp] theorem Work.setTile_released (w : Work) (c t : Nat) (v : Tile) : (w.setTile c t v).released = w.released := rfl
@[simp] theorem Work.setTile_red (w : Work) (c t : Nat) (v : Tile) : (w.setTile c t v).red = w.red := rfl
@[simp] theorem Work.setTile_mgr (w : Work) (c t : Nat) (v : Tile) : (w.setTile c t v).mgr = w.mgr := rfl
@[simp] theorem Work.setTile_start (w : Work) (c t : Nat) (v : Tile) : (w.setTile c t v).start = w.start := rfl
@[simp] theorem Work.setTile_sec (w : Work) (c t : Nat) (v : Tile) : (w.setTile c t v).sec = w.sec := rfl
@[simp] theorem Work.setTile_access (w : Work) (c t : Nat) (v : Tile) : (w.setTile c t v).access = w.access := rfl
@[simp] theorem Work.setTile_windows (w : Work) (c t : Nat) (v : Tile) : (w.setTile c t v).windows = w.windows := rfl
@[simp] theorem Work.setTile_tiles (w : Work) (c t : Nat) (v : Tile) : (w.setTile c t v).tiles = Sp.put w.tiles (16 * c + t) v := rfl

@[simp] theorem Work.setCox_regs (w : Work) (c : Nat) (v : Cox) : (w.setCox c v).regs = w.regs := rfl
@[simp] theorem Work.setCox_force (w : Work) (c : Nat) (v : Cox) : (w.setCox c v).force = w.force := rfl
@[simp] theorem Work.setCox_mem (w : Work) (c : Nat) (v : Cox) : (w.setCox c v).mem = w.mem := rfl
@[simp] theorem Work.setCox_poison (w : Work) (c : Nat) (v : Cox) : (w.setCox c v).poison = w.poison := rfl
@[simp] theorem Work.setCox_acc (w : Work) (c : Nat) (v : Cox) : (w.setCox c v).acc = w.acc := rfl
@[simp] theorem Work.setCox_accPoison (w : Work) (c : Nat) (v : Cox) : (w.setCox c v).accPoison = w.accPoison := rfl
@[simp] theorem Work.setCox_cells (w : Work) (c : Nat) (v : Cox) : (w.setCox c v).cells = w.cells := rfl
@[simp] theorem Work.setCox_now (w : Work) (c : Nat) (v : Cox) : (w.setCox c v).now = w.now := rfl
@[simp] theorem Work.setCox_free (w : Work) (c : Nat) (v : Cox) : (w.setCox c v).free = w.free := rfl
@[simp] theorem Work.setCox_out (w : Work) (c : Nat) (v : Cox) : (w.setCox c v).out = w.out := rfl
@[simp] theorem Work.setCox_fault (w : Work) (c : Nat) (v : Cox) : (w.setCox c v).fault = w.fault := rfl
@[simp] theorem Work.setCox_power (w : Work) (c : Nat) (v : Cox) : (w.setCox c v).power = w.power := rfl
@[simp] theorem Work.setCox_hk (w : Work) (c : Nat) (v : Cox) : (w.setCox c v).hk = w.hk := rfl
@[simp] theorem Work.setCox_beat (w : Work) (c : Nat) (v : Cox) : (w.setCox c v).beat = w.beat := rfl
@[simp] theorem Work.setCox_stroke (w : Work) (c : Nat) (v : Cox) : (w.setCox c v).stroke = w.stroke := rfl
@[simp] theorem Work.setCox_step (w : Work) (c : Nat) (v : Cox) : (w.setCox c v).step = w.step := rfl
@[simp] theorem Work.setCox_tiles (w : Work) (c : Nat) (v : Cox) : (w.setCox c v).tiles = w.tiles := rfl
@[simp] theorem Work.setCox_fwd (w : Work) (c : Nat) (v : Cox) : (w.setCox c v).fwd = w.fwd := rfl
@[simp] theorem Work.setCox_commits (w : Work) (c : Nat) (v : Cox) : (w.setCox c v).commits = w.commits := rfl
@[simp] theorem Work.setCox_unfolded (w : Work) (c : Nat) (v : Cox) : (w.setCox c v).unfolded = w.unfolded := rfl
@[simp] theorem Work.setCox_ctxs (w : Work) (c : Nat) (v : Cox) : (w.setCox c v).ctxs = w.ctxs := rfl
@[simp] theorem Work.setCox_digital (w : Work) (c : Nat) (v : Cox) : (w.setCox c v).digital = w.digital := rfl
@[simp] theorem Work.setCox_sess (w : Work) (c : Nat) (v : Cox) : (w.setCox c v).sess = w.sess := rfl
@[simp] theorem Work.setCox_memcs (w : Work) (c : Nat) (v : Cox) : (w.setCox c v).memcs = w.memcs := rfl
@[simp] theorem Work.setCox_parked (w : Work) (c : Nat) (v : Cox) : (w.setCox c v).parked = w.parked := rfl
@[simp] theorem Work.setCox_asked (w : Work) (c : Nat) (v : Cox) : (w.setCox c v).asked = w.asked := rfl
@[simp] theorem Work.setCox_links (w : Work) (c : Nat) (v : Cox) : (w.setCox c v).links = w.links := rfl
@[simp] theorem Work.setCox_txFlows (w : Work) (c : Nat) (v : Cox) : (w.setCox c v).txFlows = w.txFlows := rfl
@[simp] theorem Work.setCox_rxFlows (w : Work) (c : Nat) (v : Cox) : (w.setCox c v).rxFlows = w.rxFlows := rfl
@[simp] theorem Work.setCox_qps (w : Work) (c : Nat) (v : Cox) : (w.setCox c v).qps = w.qps := rfl
@[simp] theorem Work.setCox_jobs (w : Work) (c : Nat) (v : Cox) : (w.setCox c v).jobs = w.jobs := rfl
@[simp] theorem Work.setCox_lockAt (w : Work) (c : Nat) (v : Cox) : (w.setCox c v).lockAt = w.lockAt := rfl
@[simp] theorem Work.setCox_crews (w : Work) (c : Nat) (v : Cox) : (w.setCox c v).crews = w.crews := rfl
@[simp] theorem Work.setCox_released (w : Work) (c : Nat) (v : Cox) : (w.setCox c v).released = w.released := rfl
@[simp] theorem Work.setCox_red (w : Work) (c : Nat) (v : Cox) : (w.setCox c v).red = w.red := rfl
@[simp] theorem Work.setCox_mgr (w : Work) (c : Nat) (v : Cox) : (w.setCox c v).mgr = w.mgr := rfl
@[simp] theorem Work.setCox_start (w : Work) (c : Nat) (v : Cox) : (w.setCox c v).start = w.start := rfl
@[simp] theorem Work.setCox_sec (w : Work) (c : Nat) (v : Cox) : (w.setCox c v).sec = w.sec := rfl
@[simp] theorem Work.setCox_access (w : Work) (c : Nat) (v : Cox) : (w.setCox c v).access = w.access := rfl
@[simp] theorem Work.setCox_windows (w : Work) (c : Nat) (v : Cox) : (w.setCox c v).windows = w.windows := rfl
@[simp] theorem Work.setCox_coxes (w : Work) (c : Nat) (v : Cox) : (w.setCox c v).coxes = Sp.put w.coxes c v := rfl

@[simp] theorem Work.setCommit_regs (w : Work) (c : Nat) (v : Commit) : (w.setCommit c v).regs = w.regs := rfl
@[simp] theorem Work.setCommit_force (w : Work) (c : Nat) (v : Commit) : (w.setCommit c v).force = w.force := rfl
@[simp] theorem Work.setCommit_mem (w : Work) (c : Nat) (v : Commit) : (w.setCommit c v).mem = w.mem := rfl
@[simp] theorem Work.setCommit_poison (w : Work) (c : Nat) (v : Commit) : (w.setCommit c v).poison = w.poison := rfl
@[simp] theorem Work.setCommit_acc (w : Work) (c : Nat) (v : Commit) : (w.setCommit c v).acc = w.acc := rfl
@[simp] theorem Work.setCommit_accPoison (w : Work) (c : Nat) (v : Commit) : (w.setCommit c v).accPoison = w.accPoison := rfl
@[simp] theorem Work.setCommit_cells (w : Work) (c : Nat) (v : Commit) : (w.setCommit c v).cells = w.cells := rfl
@[simp] theorem Work.setCommit_now (w : Work) (c : Nat) (v : Commit) : (w.setCommit c v).now = w.now := rfl
@[simp] theorem Work.setCommit_free (w : Work) (c : Nat) (v : Commit) : (w.setCommit c v).free = w.free := rfl
@[simp] theorem Work.setCommit_out (w : Work) (c : Nat) (v : Commit) : (w.setCommit c v).out = w.out := rfl
@[simp] theorem Work.setCommit_fault (w : Work) (c : Nat) (v : Commit) : (w.setCommit c v).fault = w.fault := rfl
@[simp] theorem Work.setCommit_power (w : Work) (c : Nat) (v : Commit) : (w.setCommit c v).power = w.power := rfl
@[simp] theorem Work.setCommit_hk (w : Work) (c : Nat) (v : Commit) : (w.setCommit c v).hk = w.hk := rfl
@[simp] theorem Work.setCommit_beat (w : Work) (c : Nat) (v : Commit) : (w.setCommit c v).beat = w.beat := rfl
@[simp] theorem Work.setCommit_coxes (w : Work) (c : Nat) (v : Commit) : (w.setCommit c v).coxes = w.coxes := rfl
@[simp] theorem Work.setCommit_stroke (w : Work) (c : Nat) (v : Commit) : (w.setCommit c v).stroke = w.stroke := rfl
@[simp] theorem Work.setCommit_step (w : Work) (c : Nat) (v : Commit) : (w.setCommit c v).step = w.step := rfl
@[simp] theorem Work.setCommit_tiles (w : Work) (c : Nat) (v : Commit) : (w.setCommit c v).tiles = w.tiles := rfl
@[simp] theorem Work.setCommit_fwd (w : Work) (c : Nat) (v : Commit) : (w.setCommit c v).fwd = w.fwd := rfl
@[simp] theorem Work.setCommit_unfolded (w : Work) (c : Nat) (v : Commit) : (w.setCommit c v).unfolded = w.unfolded := rfl
@[simp] theorem Work.setCommit_ctxs (w : Work) (c : Nat) (v : Commit) : (w.setCommit c v).ctxs = w.ctxs := rfl
@[simp] theorem Work.setCommit_digital (w : Work) (c : Nat) (v : Commit) : (w.setCommit c v).digital = w.digital := rfl
@[simp] theorem Work.setCommit_sess (w : Work) (c : Nat) (v : Commit) : (w.setCommit c v).sess = w.sess := rfl
@[simp] theorem Work.setCommit_memcs (w : Work) (c : Nat) (v : Commit) : (w.setCommit c v).memcs = w.memcs := rfl
@[simp] theorem Work.setCommit_parked (w : Work) (c : Nat) (v : Commit) : (w.setCommit c v).parked = w.parked := rfl
@[simp] theorem Work.setCommit_asked (w : Work) (c : Nat) (v : Commit) : (w.setCommit c v).asked = w.asked := rfl
@[simp] theorem Work.setCommit_links (w : Work) (c : Nat) (v : Commit) : (w.setCommit c v).links = w.links := rfl
@[simp] theorem Work.setCommit_txFlows (w : Work) (c : Nat) (v : Commit) : (w.setCommit c v).txFlows = w.txFlows := rfl
@[simp] theorem Work.setCommit_rxFlows (w : Work) (c : Nat) (v : Commit) : (w.setCommit c v).rxFlows = w.rxFlows := rfl
@[simp] theorem Work.setCommit_qps (w : Work) (c : Nat) (v : Commit) : (w.setCommit c v).qps = w.qps := rfl
@[simp] theorem Work.setCommit_jobs (w : Work) (c : Nat) (v : Commit) : (w.setCommit c v).jobs = w.jobs := rfl
@[simp] theorem Work.setCommit_lockAt (w : Work) (c : Nat) (v : Commit) : (w.setCommit c v).lockAt = w.lockAt := rfl
@[simp] theorem Work.setCommit_crews (w : Work) (c : Nat) (v : Commit) : (w.setCommit c v).crews = w.crews := rfl
@[simp] theorem Work.setCommit_released (w : Work) (c : Nat) (v : Commit) : (w.setCommit c v).released = w.released := rfl
@[simp] theorem Work.setCommit_red (w : Work) (c : Nat) (v : Commit) : (w.setCommit c v).red = w.red := rfl
@[simp] theorem Work.setCommit_mgr (w : Work) (c : Nat) (v : Commit) : (w.setCommit c v).mgr = w.mgr := rfl
@[simp] theorem Work.setCommit_start (w : Work) (c : Nat) (v : Commit) : (w.setCommit c v).start = w.start := rfl
@[simp] theorem Work.setCommit_sec (w : Work) (c : Nat) (v : Commit) : (w.setCommit c v).sec = w.sec := rfl
@[simp] theorem Work.setCommit_access (w : Work) (c : Nat) (v : Commit) : (w.setCommit c v).access = w.access := rfl
@[simp] theorem Work.setCommit_windows (w : Work) (c : Nat) (v : Commit) : (w.setCommit c v).windows = w.windows := rfl
@[simp] theorem Work.setCommit_commits (w : Work) (c : Nat) (v : Commit) : (w.setCommit c v).commits = Sp.put w.commits c v := rfl

@[simp] theorem Work.setDig_regs (w : Work) (c : Nat) (v : Digital) : (w.setDig c v).regs = w.regs := rfl
@[simp] theorem Work.setDig_force (w : Work) (c : Nat) (v : Digital) : (w.setDig c v).force = w.force := rfl
@[simp] theorem Work.setDig_mem (w : Work) (c : Nat) (v : Digital) : (w.setDig c v).mem = w.mem := rfl
@[simp] theorem Work.setDig_poison (w : Work) (c : Nat) (v : Digital) : (w.setDig c v).poison = w.poison := rfl
@[simp] theorem Work.setDig_acc (w : Work) (c : Nat) (v : Digital) : (w.setDig c v).acc = w.acc := rfl
@[simp] theorem Work.setDig_accPoison (w : Work) (c : Nat) (v : Digital) : (w.setDig c v).accPoison = w.accPoison := rfl
@[simp] theorem Work.setDig_cells (w : Work) (c : Nat) (v : Digital) : (w.setDig c v).cells = w.cells := rfl
@[simp] theorem Work.setDig_now (w : Work) (c : Nat) (v : Digital) : (w.setDig c v).now = w.now := rfl
@[simp] theorem Work.setDig_free (w : Work) (c : Nat) (v : Digital) : (w.setDig c v).free = w.free := rfl
@[simp] theorem Work.setDig_out (w : Work) (c : Nat) (v : Digital) : (w.setDig c v).out = w.out := rfl
@[simp] theorem Work.setDig_fault (w : Work) (c : Nat) (v : Digital) : (w.setDig c v).fault = w.fault := rfl
@[simp] theorem Work.setDig_power (w : Work) (c : Nat) (v : Digital) : (w.setDig c v).power = w.power := rfl
@[simp] theorem Work.setDig_hk (w : Work) (c : Nat) (v : Digital) : (w.setDig c v).hk = w.hk := rfl
@[simp] theorem Work.setDig_beat (w : Work) (c : Nat) (v : Digital) : (w.setDig c v).beat = w.beat := rfl
@[simp] theorem Work.setDig_coxes (w : Work) (c : Nat) (v : Digital) : (w.setDig c v).coxes = w.coxes := rfl
@[simp] theorem Work.setDig_stroke (w : Work) (c : Nat) (v : Digital) : (w.setDig c v).stroke = w.stroke := rfl
@[simp] theorem Work.setDig_step (w : Work) (c : Nat) (v : Digital) : (w.setDig c v).step = w.step := rfl
@[simp] theorem Work.setDig_tiles (w : Work) (c : Nat) (v : Digital) : (w.setDig c v).tiles = w.tiles := rfl
@[simp] theorem Work.setDig_fwd (w : Work) (c : Nat) (v : Digital) : (w.setDig c v).fwd = w.fwd := rfl
@[simp] theorem Work.setDig_commits (w : Work) (c : Nat) (v : Digital) : (w.setDig c v).commits = w.commits := rfl
@[simp] theorem Work.setDig_unfolded (w : Work) (c : Nat) (v : Digital) : (w.setDig c v).unfolded = w.unfolded := rfl
@[simp] theorem Work.setDig_ctxs (w : Work) (c : Nat) (v : Digital) : (w.setDig c v).ctxs = w.ctxs := rfl
@[simp] theorem Work.setDig_sess (w : Work) (c : Nat) (v : Digital) : (w.setDig c v).sess = w.sess := rfl
@[simp] theorem Work.setDig_memcs (w : Work) (c : Nat) (v : Digital) : (w.setDig c v).memcs = w.memcs := rfl
@[simp] theorem Work.setDig_parked (w : Work) (c : Nat) (v : Digital) : (w.setDig c v).parked = w.parked := rfl
@[simp] theorem Work.setDig_asked (w : Work) (c : Nat) (v : Digital) : (w.setDig c v).asked = w.asked := rfl
@[simp] theorem Work.setDig_links (w : Work) (c : Nat) (v : Digital) : (w.setDig c v).links = w.links := rfl
@[simp] theorem Work.setDig_txFlows (w : Work) (c : Nat) (v : Digital) : (w.setDig c v).txFlows = w.txFlows := rfl
@[simp] theorem Work.setDig_rxFlows (w : Work) (c : Nat) (v : Digital) : (w.setDig c v).rxFlows = w.rxFlows := rfl
@[simp] theorem Work.setDig_qps (w : Work) (c : Nat) (v : Digital) : (w.setDig c v).qps = w.qps := rfl
@[simp] theorem Work.setDig_jobs (w : Work) (c : Nat) (v : Digital) : (w.setDig c v).jobs = w.jobs := rfl
@[simp] theorem Work.setDig_lockAt (w : Work) (c : Nat) (v : Digital) : (w.setDig c v).lockAt = w.lockAt := rfl
@[simp] theorem Work.setDig_crews (w : Work) (c : Nat) (v : Digital) : (w.setDig c v).crews = w.crews := rfl
@[simp] theorem Work.setDig_released (w : Work) (c : Nat) (v : Digital) : (w.setDig c v).released = w.released := rfl
@[simp] theorem Work.setDig_red (w : Work) (c : Nat) (v : Digital) : (w.setDig c v).red = w.red := rfl
@[simp] theorem Work.setDig_mgr (w : Work) (c : Nat) (v : Digital) : (w.setDig c v).mgr = w.mgr := rfl
@[simp] theorem Work.setDig_start (w : Work) (c : Nat) (v : Digital) : (w.setDig c v).start = w.start := rfl
@[simp] theorem Work.setDig_sec (w : Work) (c : Nat) (v : Digital) : (w.setDig c v).sec = w.sec := rfl
@[simp] theorem Work.setDig_access (w : Work) (c : Nat) (v : Digital) : (w.setDig c v).access = w.access := rfl
@[simp] theorem Work.setDig_windows (w : Work) (c : Nat) (v : Digital) : (w.setDig c v).windows = w.windows := rfl
@[simp] theorem Work.setDig_digital (w : Work) (c : Nat) (v : Digital) : (w.setDig c v).digital = Sp.put w.digital c v := rfl

@[simp] theorem Work.setCtx_regs (w : Work) (c x : Nat) (v : Ctx) : (w.setCtx c x v).regs = w.regs := rfl
@[simp] theorem Work.setCtx_force (w : Work) (c x : Nat) (v : Ctx) : (w.setCtx c x v).force = w.force := rfl
@[simp] theorem Work.setCtx_mem (w : Work) (c x : Nat) (v : Ctx) : (w.setCtx c x v).mem = w.mem := rfl
@[simp] theorem Work.setCtx_poison (w : Work) (c x : Nat) (v : Ctx) : (w.setCtx c x v).poison = w.poison := rfl
@[simp] theorem Work.setCtx_acc (w : Work) (c x : Nat) (v : Ctx) : (w.setCtx c x v).acc = w.acc := rfl
@[simp] theorem Work.setCtx_accPoison (w : Work) (c x : Nat) (v : Ctx) : (w.setCtx c x v).accPoison = w.accPoison := rfl
@[simp] theorem Work.setCtx_cells (w : Work) (c x : Nat) (v : Ctx) : (w.setCtx c x v).cells = w.cells := rfl
@[simp] theorem Work.setCtx_now (w : Work) (c x : Nat) (v : Ctx) : (w.setCtx c x v).now = w.now := rfl
@[simp] theorem Work.setCtx_free (w : Work) (c x : Nat) (v : Ctx) : (w.setCtx c x v).free = w.free := rfl
@[simp] theorem Work.setCtx_out (w : Work) (c x : Nat) (v : Ctx) : (w.setCtx c x v).out = w.out := rfl
@[simp] theorem Work.setCtx_fault (w : Work) (c x : Nat) (v : Ctx) : (w.setCtx c x v).fault = w.fault := rfl
@[simp] theorem Work.setCtx_power (w : Work) (c x : Nat) (v : Ctx) : (w.setCtx c x v).power = w.power := rfl
@[simp] theorem Work.setCtx_hk (w : Work) (c x : Nat) (v : Ctx) : (w.setCtx c x v).hk = w.hk := rfl
@[simp] theorem Work.setCtx_beat (w : Work) (c x : Nat) (v : Ctx) : (w.setCtx c x v).beat = w.beat := rfl
@[simp] theorem Work.setCtx_coxes (w : Work) (c x : Nat) (v : Ctx) : (w.setCtx c x v).coxes = w.coxes := rfl
@[simp] theorem Work.setCtx_stroke (w : Work) (c x : Nat) (v : Ctx) : (w.setCtx c x v).stroke = w.stroke := rfl
@[simp] theorem Work.setCtx_step (w : Work) (c x : Nat) (v : Ctx) : (w.setCtx c x v).step = w.step := rfl
@[simp] theorem Work.setCtx_tiles (w : Work) (c x : Nat) (v : Ctx) : (w.setCtx c x v).tiles = w.tiles := rfl
@[simp] theorem Work.setCtx_fwd (w : Work) (c x : Nat) (v : Ctx) : (w.setCtx c x v).fwd = w.fwd := rfl
@[simp] theorem Work.setCtx_commits (w : Work) (c x : Nat) (v : Ctx) : (w.setCtx c x v).commits = w.commits := rfl
@[simp] theorem Work.setCtx_unfolded (w : Work) (c x : Nat) (v : Ctx) : (w.setCtx c x v).unfolded = w.unfolded := rfl
@[simp] theorem Work.setCtx_digital (w : Work) (c x : Nat) (v : Ctx) : (w.setCtx c x v).digital = w.digital := rfl
@[simp] theorem Work.setCtx_sess (w : Work) (c x : Nat) (v : Ctx) : (w.setCtx c x v).sess = w.sess := rfl
@[simp] theorem Work.setCtx_memcs (w : Work) (c x : Nat) (v : Ctx) : (w.setCtx c x v).memcs = w.memcs := rfl
@[simp] theorem Work.setCtx_parked (w : Work) (c x : Nat) (v : Ctx) : (w.setCtx c x v).parked = w.parked := rfl
@[simp] theorem Work.setCtx_asked (w : Work) (c x : Nat) (v : Ctx) : (w.setCtx c x v).asked = w.asked := rfl
@[simp] theorem Work.setCtx_links (w : Work) (c x : Nat) (v : Ctx) : (w.setCtx c x v).links = w.links := rfl
@[simp] theorem Work.setCtx_txFlows (w : Work) (c x : Nat) (v : Ctx) : (w.setCtx c x v).txFlows = w.txFlows := rfl
@[simp] theorem Work.setCtx_rxFlows (w : Work) (c x : Nat) (v : Ctx) : (w.setCtx c x v).rxFlows = w.rxFlows := rfl
@[simp] theorem Work.setCtx_qps (w : Work) (c x : Nat) (v : Ctx) : (w.setCtx c x v).qps = w.qps := rfl
@[simp] theorem Work.setCtx_jobs (w : Work) (c x : Nat) (v : Ctx) : (w.setCtx c x v).jobs = w.jobs := rfl
@[simp] theorem Work.setCtx_lockAt (w : Work) (c x : Nat) (v : Ctx) : (w.setCtx c x v).lockAt = w.lockAt := rfl
@[simp] theorem Work.setCtx_crews (w : Work) (c x : Nat) (v : Ctx) : (w.setCtx c x v).crews = w.crews := rfl
@[simp] theorem Work.setCtx_released (w : Work) (c x : Nat) (v : Ctx) : (w.setCtx c x v).released = w.released := rfl
@[simp] theorem Work.setCtx_red (w : Work) (c x : Nat) (v : Ctx) : (w.setCtx c x v).red = w.red := rfl
@[simp] theorem Work.setCtx_mgr (w : Work) (c x : Nat) (v : Ctx) : (w.setCtx c x v).mgr = w.mgr := rfl
@[simp] theorem Work.setCtx_start (w : Work) (c x : Nat) (v : Ctx) : (w.setCtx c x v).start = w.start := rfl
@[simp] theorem Work.setCtx_sec (w : Work) (c x : Nat) (v : Ctx) : (w.setCtx c x v).sec = w.sec := rfl
@[simp] theorem Work.setCtx_access (w : Work) (c x : Nat) (v : Ctx) : (w.setCtx c x v).access = w.access := rfl
@[simp] theorem Work.setCtx_windows (w : Work) (c x : Nat) (v : Ctx) : (w.setCtx c x v).windows = w.windows := rfl
@[simp] theorem Work.setCtx_ctxs (w : Work) (c x : Nat) (v : Ctx) : (w.setCtx c x v).ctxs = Sp.put w.ctxs (17 * c + x) v := rfl

@[simp] theorem Work.setMemc_regs (w : Work) (m : Nat) (v : Memc) : (w.setMemc m v).regs = w.regs := rfl
@[simp] theorem Work.setMemc_force (w : Work) (m : Nat) (v : Memc) : (w.setMemc m v).force = w.force := rfl
@[simp] theorem Work.setMemc_mem (w : Work) (m : Nat) (v : Memc) : (w.setMemc m v).mem = w.mem := rfl
@[simp] theorem Work.setMemc_poison (w : Work) (m : Nat) (v : Memc) : (w.setMemc m v).poison = w.poison := rfl
@[simp] theorem Work.setMemc_acc (w : Work) (m : Nat) (v : Memc) : (w.setMemc m v).acc = w.acc := rfl
@[simp] theorem Work.setMemc_accPoison (w : Work) (m : Nat) (v : Memc) : (w.setMemc m v).accPoison = w.accPoison := rfl
@[simp] theorem Work.setMemc_cells (w : Work) (m : Nat) (v : Memc) : (w.setMemc m v).cells = w.cells := rfl
@[simp] theorem Work.setMemc_now (w : Work) (m : Nat) (v : Memc) : (w.setMemc m v).now = w.now := rfl
@[simp] theorem Work.setMemc_free (w : Work) (m : Nat) (v : Memc) : (w.setMemc m v).free = w.free := rfl
@[simp] theorem Work.setMemc_out (w : Work) (m : Nat) (v : Memc) : (w.setMemc m v).out = w.out := rfl
@[simp] theorem Work.setMemc_fault (w : Work) (m : Nat) (v : Memc) : (w.setMemc m v).fault = w.fault := rfl
@[simp] theorem Work.setMemc_power (w : Work) (m : Nat) (v : Memc) : (w.setMemc m v).power = w.power := rfl
@[simp] theorem Work.setMemc_hk (w : Work) (m : Nat) (v : Memc) : (w.setMemc m v).hk = w.hk := rfl
@[simp] theorem Work.setMemc_beat (w : Work) (m : Nat) (v : Memc) : (w.setMemc m v).beat = w.beat := rfl
@[simp] theorem Work.setMemc_coxes (w : Work) (m : Nat) (v : Memc) : (w.setMemc m v).coxes = w.coxes := rfl
@[simp] theorem Work.setMemc_stroke (w : Work) (m : Nat) (v : Memc) : (w.setMemc m v).stroke = w.stroke := rfl
@[simp] theorem Work.setMemc_step (w : Work) (m : Nat) (v : Memc) : (w.setMemc m v).step = w.step := rfl
@[simp] theorem Work.setMemc_tiles (w : Work) (m : Nat) (v : Memc) : (w.setMemc m v).tiles = w.tiles := rfl
@[simp] theorem Work.setMemc_fwd (w : Work) (m : Nat) (v : Memc) : (w.setMemc m v).fwd = w.fwd := rfl
@[simp] theorem Work.setMemc_commits (w : Work) (m : Nat) (v : Memc) : (w.setMemc m v).commits = w.commits := rfl
@[simp] theorem Work.setMemc_unfolded (w : Work) (m : Nat) (v : Memc) : (w.setMemc m v).unfolded = w.unfolded := rfl
@[simp] theorem Work.setMemc_ctxs (w : Work) (m : Nat) (v : Memc) : (w.setMemc m v).ctxs = w.ctxs := rfl
@[simp] theorem Work.setMemc_digital (w : Work) (m : Nat) (v : Memc) : (w.setMemc m v).digital = w.digital := rfl
@[simp] theorem Work.setMemc_sess (w : Work) (m : Nat) (v : Memc) : (w.setMemc m v).sess = w.sess := rfl
@[simp] theorem Work.setMemc_parked (w : Work) (m : Nat) (v : Memc) : (w.setMemc m v).parked = w.parked := rfl
@[simp] theorem Work.setMemc_asked (w : Work) (m : Nat) (v : Memc) : (w.setMemc m v).asked = w.asked := rfl
@[simp] theorem Work.setMemc_links (w : Work) (m : Nat) (v : Memc) : (w.setMemc m v).links = w.links := rfl
@[simp] theorem Work.setMemc_txFlows (w : Work) (m : Nat) (v : Memc) : (w.setMemc m v).txFlows = w.txFlows := rfl
@[simp] theorem Work.setMemc_rxFlows (w : Work) (m : Nat) (v : Memc) : (w.setMemc m v).rxFlows = w.rxFlows := rfl
@[simp] theorem Work.setMemc_qps (w : Work) (m : Nat) (v : Memc) : (w.setMemc m v).qps = w.qps := rfl
@[simp] theorem Work.setMemc_jobs (w : Work) (m : Nat) (v : Memc) : (w.setMemc m v).jobs = w.jobs := rfl
@[simp] theorem Work.setMemc_lockAt (w : Work) (m : Nat) (v : Memc) : (w.setMemc m v).lockAt = w.lockAt := rfl
@[simp] theorem Work.setMemc_crews (w : Work) (m : Nat) (v : Memc) : (w.setMemc m v).crews = w.crews := rfl
@[simp] theorem Work.setMemc_released (w : Work) (m : Nat) (v : Memc) : (w.setMemc m v).released = w.released := rfl
@[simp] theorem Work.setMemc_red (w : Work) (m : Nat) (v : Memc) : (w.setMemc m v).red = w.red := rfl
@[simp] theorem Work.setMemc_mgr (w : Work) (m : Nat) (v : Memc) : (w.setMemc m v).mgr = w.mgr := rfl
@[simp] theorem Work.setMemc_start (w : Work) (m : Nat) (v : Memc) : (w.setMemc m v).start = w.start := rfl
@[simp] theorem Work.setMemc_sec (w : Work) (m : Nat) (v : Memc) : (w.setMemc m v).sec = w.sec := rfl
@[simp] theorem Work.setMemc_access (w : Work) (m : Nat) (v : Memc) : (w.setMemc m v).access = w.access := rfl
@[simp] theorem Work.setMemc_windows (w : Work) (m : Nat) (v : Memc) : (w.setMemc m v).windows = w.windows := rfl
@[simp] theorem Work.setMemc_memcs (w : Work) (m : Nat) (v : Memc) : (w.setMemc m v).memcs = Sp.put w.memcs m v := rfl

@[simp] theorem Work.setLink_regs (w : Work) (k : Nat) (v : Link) : (w.setLink k v).regs = w.regs := rfl
@[simp] theorem Work.setLink_force (w : Work) (k : Nat) (v : Link) : (w.setLink k v).force = w.force := rfl
@[simp] theorem Work.setLink_mem (w : Work) (k : Nat) (v : Link) : (w.setLink k v).mem = w.mem := rfl
@[simp] theorem Work.setLink_poison (w : Work) (k : Nat) (v : Link) : (w.setLink k v).poison = w.poison := rfl
@[simp] theorem Work.setLink_acc (w : Work) (k : Nat) (v : Link) : (w.setLink k v).acc = w.acc := rfl
@[simp] theorem Work.setLink_accPoison (w : Work) (k : Nat) (v : Link) : (w.setLink k v).accPoison = w.accPoison := rfl
@[simp] theorem Work.setLink_cells (w : Work) (k : Nat) (v : Link) : (w.setLink k v).cells = w.cells := rfl
@[simp] theorem Work.setLink_now (w : Work) (k : Nat) (v : Link) : (w.setLink k v).now = w.now := rfl
@[simp] theorem Work.setLink_free (w : Work) (k : Nat) (v : Link) : (w.setLink k v).free = w.free := rfl
@[simp] theorem Work.setLink_out (w : Work) (k : Nat) (v : Link) : (w.setLink k v).out = w.out := rfl
@[simp] theorem Work.setLink_fault (w : Work) (k : Nat) (v : Link) : (w.setLink k v).fault = w.fault := rfl
@[simp] theorem Work.setLink_power (w : Work) (k : Nat) (v : Link) : (w.setLink k v).power = w.power := rfl
@[simp] theorem Work.setLink_hk (w : Work) (k : Nat) (v : Link) : (w.setLink k v).hk = w.hk := rfl
@[simp] theorem Work.setLink_beat (w : Work) (k : Nat) (v : Link) : (w.setLink k v).beat = w.beat := rfl
@[simp] theorem Work.setLink_coxes (w : Work) (k : Nat) (v : Link) : (w.setLink k v).coxes = w.coxes := rfl
@[simp] theorem Work.setLink_stroke (w : Work) (k : Nat) (v : Link) : (w.setLink k v).stroke = w.stroke := rfl
@[simp] theorem Work.setLink_step (w : Work) (k : Nat) (v : Link) : (w.setLink k v).step = w.step := rfl
@[simp] theorem Work.setLink_tiles (w : Work) (k : Nat) (v : Link) : (w.setLink k v).tiles = w.tiles := rfl
@[simp] theorem Work.setLink_fwd (w : Work) (k : Nat) (v : Link) : (w.setLink k v).fwd = w.fwd := rfl
@[simp] theorem Work.setLink_commits (w : Work) (k : Nat) (v : Link) : (w.setLink k v).commits = w.commits := rfl
@[simp] theorem Work.setLink_unfolded (w : Work) (k : Nat) (v : Link) : (w.setLink k v).unfolded = w.unfolded := rfl
@[simp] theorem Work.setLink_ctxs (w : Work) (k : Nat) (v : Link) : (w.setLink k v).ctxs = w.ctxs := rfl
@[simp] theorem Work.setLink_digital (w : Work) (k : Nat) (v : Link) : (w.setLink k v).digital = w.digital := rfl
@[simp] theorem Work.setLink_sess (w : Work) (k : Nat) (v : Link) : (w.setLink k v).sess = w.sess := rfl
@[simp] theorem Work.setLink_memcs (w : Work) (k : Nat) (v : Link) : (w.setLink k v).memcs = w.memcs := rfl
@[simp] theorem Work.setLink_parked (w : Work) (k : Nat) (v : Link) : (w.setLink k v).parked = w.parked := rfl
@[simp] theorem Work.setLink_asked (w : Work) (k : Nat) (v : Link) : (w.setLink k v).asked = w.asked := rfl
@[simp] theorem Work.setLink_txFlows (w : Work) (k : Nat) (v : Link) : (w.setLink k v).txFlows = w.txFlows := rfl
@[simp] theorem Work.setLink_rxFlows (w : Work) (k : Nat) (v : Link) : (w.setLink k v).rxFlows = w.rxFlows := rfl
@[simp] theorem Work.setLink_qps (w : Work) (k : Nat) (v : Link) : (w.setLink k v).qps = w.qps := rfl
@[simp] theorem Work.setLink_jobs (w : Work) (k : Nat) (v : Link) : (w.setLink k v).jobs = w.jobs := rfl
@[simp] theorem Work.setLink_lockAt (w : Work) (k : Nat) (v : Link) : (w.setLink k v).lockAt = w.lockAt := rfl
@[simp] theorem Work.setLink_crews (w : Work) (k : Nat) (v : Link) : (w.setLink k v).crews = w.crews := rfl
@[simp] theorem Work.setLink_released (w : Work) (k : Nat) (v : Link) : (w.setLink k v).released = w.released := rfl
@[simp] theorem Work.setLink_red (w : Work) (k : Nat) (v : Link) : (w.setLink k v).red = w.red := rfl
@[simp] theorem Work.setLink_mgr (w : Work) (k : Nat) (v : Link) : (w.setLink k v).mgr = w.mgr := rfl
@[simp] theorem Work.setLink_start (w : Work) (k : Nat) (v : Link) : (w.setLink k v).start = w.start := rfl
@[simp] theorem Work.setLink_sec (w : Work) (k : Nat) (v : Link) : (w.setLink k v).sec = w.sec := rfl
@[simp] theorem Work.setLink_access (w : Work) (k : Nat) (v : Link) : (w.setLink k v).access = w.access := rfl
@[simp] theorem Work.setLink_windows (w : Work) (k : Nat) (v : Link) : (w.setLink k v).windows = w.windows := rfl
@[simp] theorem Work.setLink_links (w : Work) (k : Nat) (v : Link) : (w.setLink k v).links = Sp.put w.links k v := rfl

@[simp] theorem Work.setDomain_regs (w : Work) (p : Nat) (v : Domain) : (w.setDomain p v).regs = w.regs := rfl
@[simp] theorem Work.setDomain_force (w : Work) (p : Nat) (v : Domain) : (w.setDomain p v).force = w.force := rfl
@[simp] theorem Work.setDomain_mem (w : Work) (p : Nat) (v : Domain) : (w.setDomain p v).mem = w.mem := rfl
@[simp] theorem Work.setDomain_poison (w : Work) (p : Nat) (v : Domain) : (w.setDomain p v).poison = w.poison := rfl
@[simp] theorem Work.setDomain_acc (w : Work) (p : Nat) (v : Domain) : (w.setDomain p v).acc = w.acc := rfl
@[simp] theorem Work.setDomain_accPoison (w : Work) (p : Nat) (v : Domain) : (w.setDomain p v).accPoison = w.accPoison := rfl
@[simp] theorem Work.setDomain_cells (w : Work) (p : Nat) (v : Domain) : (w.setDomain p v).cells = w.cells := rfl
@[simp] theorem Work.setDomain_now (w : Work) (p : Nat) (v : Domain) : (w.setDomain p v).now = w.now := rfl
@[simp] theorem Work.setDomain_free (w : Work) (p : Nat) (v : Domain) : (w.setDomain p v).free = w.free := rfl
@[simp] theorem Work.setDomain_out (w : Work) (p : Nat) (v : Domain) : (w.setDomain p v).out = w.out := rfl
@[simp] theorem Work.setDomain_fault (w : Work) (p : Nat) (v : Domain) : (w.setDomain p v).fault = w.fault := rfl
@[simp] theorem Work.setDomain_hk (w : Work) (p : Nat) (v : Domain) : (w.setDomain p v).hk = w.hk := rfl
@[simp] theorem Work.setDomain_beat (w : Work) (p : Nat) (v : Domain) : (w.setDomain p v).beat = w.beat := rfl
@[simp] theorem Work.setDomain_coxes (w : Work) (p : Nat) (v : Domain) : (w.setDomain p v).coxes = w.coxes := rfl
@[simp] theorem Work.setDomain_stroke (w : Work) (p : Nat) (v : Domain) : (w.setDomain p v).stroke = w.stroke := rfl
@[simp] theorem Work.setDomain_step (w : Work) (p : Nat) (v : Domain) : (w.setDomain p v).step = w.step := rfl
@[simp] theorem Work.setDomain_tiles (w : Work) (p : Nat) (v : Domain) : (w.setDomain p v).tiles = w.tiles := rfl
@[simp] theorem Work.setDomain_fwd (w : Work) (p : Nat) (v : Domain) : (w.setDomain p v).fwd = w.fwd := rfl
@[simp] theorem Work.setDomain_commits (w : Work) (p : Nat) (v : Domain) : (w.setDomain p v).commits = w.commits := rfl
@[simp] theorem Work.setDomain_unfolded (w : Work) (p : Nat) (v : Domain) : (w.setDomain p v).unfolded = w.unfolded := rfl
@[simp] theorem Work.setDomain_ctxs (w : Work) (p : Nat) (v : Domain) : (w.setDomain p v).ctxs = w.ctxs := rfl
@[simp] theorem Work.setDomain_digital (w : Work) (p : Nat) (v : Domain) : (w.setDomain p v).digital = w.digital := rfl
@[simp] theorem Work.setDomain_sess (w : Work) (p : Nat) (v : Domain) : (w.setDomain p v).sess = w.sess := rfl
@[simp] theorem Work.setDomain_memcs (w : Work) (p : Nat) (v : Domain) : (w.setDomain p v).memcs = w.memcs := rfl
@[simp] theorem Work.setDomain_parked (w : Work) (p : Nat) (v : Domain) : (w.setDomain p v).parked = w.parked := rfl
@[simp] theorem Work.setDomain_asked (w : Work) (p : Nat) (v : Domain) : (w.setDomain p v).asked = w.asked := rfl
@[simp] theorem Work.setDomain_links (w : Work) (p : Nat) (v : Domain) : (w.setDomain p v).links = w.links := rfl
@[simp] theorem Work.setDomain_txFlows (w : Work) (p : Nat) (v : Domain) : (w.setDomain p v).txFlows = w.txFlows := rfl
@[simp] theorem Work.setDomain_rxFlows (w : Work) (p : Nat) (v : Domain) : (w.setDomain p v).rxFlows = w.rxFlows := rfl
@[simp] theorem Work.setDomain_qps (w : Work) (p : Nat) (v : Domain) : (w.setDomain p v).qps = w.qps := rfl
@[simp] theorem Work.setDomain_jobs (w : Work) (p : Nat) (v : Domain) : (w.setDomain p v).jobs = w.jobs := rfl
@[simp] theorem Work.setDomain_lockAt (w : Work) (p : Nat) (v : Domain) : (w.setDomain p v).lockAt = w.lockAt := rfl
@[simp] theorem Work.setDomain_crews (w : Work) (p : Nat) (v : Domain) : (w.setDomain p v).crews = w.crews := rfl
@[simp] theorem Work.setDomain_released (w : Work) (p : Nat) (v : Domain) : (w.setDomain p v).released = w.released := rfl
@[simp] theorem Work.setDomain_red (w : Work) (p : Nat) (v : Domain) : (w.setDomain p v).red = w.red := rfl
@[simp] theorem Work.setDomain_mgr (w : Work) (p : Nat) (v : Domain) : (w.setDomain p v).mgr = w.mgr := rfl
@[simp] theorem Work.setDomain_start (w : Work) (p : Nat) (v : Domain) : (w.setDomain p v).start = w.start := rfl
@[simp] theorem Work.setDomain_sec (w : Work) (p : Nat) (v : Domain) : (w.setDomain p v).sec = w.sec := rfl
@[simp] theorem Work.setDomain_access (w : Work) (p : Nat) (v : Domain) : (w.setDomain p v).access = w.access := rfl
@[simp] theorem Work.setDomain_windows (w : Work) (p : Nat) (v : Domain) : (w.setDomain p v).windows = w.windows := rfl

@[simp] theorem Work.setMcrew_regs (w : Work) (n : Nat) (v : MCrew) : (w.setMcrew n v).regs = w.regs := rfl
@[simp] theorem Work.setMcrew_force (w : Work) (n : Nat) (v : MCrew) : (w.setMcrew n v).force = w.force := rfl
@[simp] theorem Work.setMcrew_mem (w : Work) (n : Nat) (v : MCrew) : (w.setMcrew n v).mem = w.mem := rfl
@[simp] theorem Work.setMcrew_poison (w : Work) (n : Nat) (v : MCrew) : (w.setMcrew n v).poison = w.poison := rfl
@[simp] theorem Work.setMcrew_acc (w : Work) (n : Nat) (v : MCrew) : (w.setMcrew n v).acc = w.acc := rfl
@[simp] theorem Work.setMcrew_accPoison (w : Work) (n : Nat) (v : MCrew) : (w.setMcrew n v).accPoison = w.accPoison := rfl
@[simp] theorem Work.setMcrew_cells (w : Work) (n : Nat) (v : MCrew) : (w.setMcrew n v).cells = w.cells := rfl
@[simp] theorem Work.setMcrew_now (w : Work) (n : Nat) (v : MCrew) : (w.setMcrew n v).now = w.now := rfl
@[simp] theorem Work.setMcrew_free (w : Work) (n : Nat) (v : MCrew) : (w.setMcrew n v).free = w.free := rfl
@[simp] theorem Work.setMcrew_out (w : Work) (n : Nat) (v : MCrew) : (w.setMcrew n v).out = w.out := rfl
@[simp] theorem Work.setMcrew_fault (w : Work) (n : Nat) (v : MCrew) : (w.setMcrew n v).fault = w.fault := rfl
@[simp] theorem Work.setMcrew_power (w : Work) (n : Nat) (v : MCrew) : (w.setMcrew n v).power = w.power := rfl
@[simp] theorem Work.setMcrew_hk (w : Work) (n : Nat) (v : MCrew) : (w.setMcrew n v).hk = w.hk := rfl
@[simp] theorem Work.setMcrew_beat (w : Work) (n : Nat) (v : MCrew) : (w.setMcrew n v).beat = w.beat := rfl
@[simp] theorem Work.setMcrew_coxes (w : Work) (n : Nat) (v : MCrew) : (w.setMcrew n v).coxes = w.coxes := rfl
@[simp] theorem Work.setMcrew_stroke (w : Work) (n : Nat) (v : MCrew) : (w.setMcrew n v).stroke = w.stroke := rfl
@[simp] theorem Work.setMcrew_step (w : Work) (n : Nat) (v : MCrew) : (w.setMcrew n v).step = w.step := rfl
@[simp] theorem Work.setMcrew_tiles (w : Work) (n : Nat) (v : MCrew) : (w.setMcrew n v).tiles = w.tiles := rfl
@[simp] theorem Work.setMcrew_fwd (w : Work) (n : Nat) (v : MCrew) : (w.setMcrew n v).fwd = w.fwd := rfl
@[simp] theorem Work.setMcrew_commits (w : Work) (n : Nat) (v : MCrew) : (w.setMcrew n v).commits = w.commits := rfl
@[simp] theorem Work.setMcrew_unfolded (w : Work) (n : Nat) (v : MCrew) : (w.setMcrew n v).unfolded = w.unfolded := rfl
@[simp] theorem Work.setMcrew_ctxs (w : Work) (n : Nat) (v : MCrew) : (w.setMcrew n v).ctxs = w.ctxs := rfl
@[simp] theorem Work.setMcrew_digital (w : Work) (n : Nat) (v : MCrew) : (w.setMcrew n v).digital = w.digital := rfl
@[simp] theorem Work.setMcrew_sess (w : Work) (n : Nat) (v : MCrew) : (w.setMcrew n v).sess = w.sess := rfl
@[simp] theorem Work.setMcrew_memcs (w : Work) (n : Nat) (v : MCrew) : (w.setMcrew n v).memcs = w.memcs := rfl
@[simp] theorem Work.setMcrew_parked (w : Work) (n : Nat) (v : MCrew) : (w.setMcrew n v).parked = w.parked := rfl
@[simp] theorem Work.setMcrew_asked (w : Work) (n : Nat) (v : MCrew) : (w.setMcrew n v).asked = w.asked := rfl
@[simp] theorem Work.setMcrew_links (w : Work) (n : Nat) (v : MCrew) : (w.setMcrew n v).links = w.links := rfl
@[simp] theorem Work.setMcrew_txFlows (w : Work) (n : Nat) (v : MCrew) : (w.setMcrew n v).txFlows = w.txFlows := rfl
@[simp] theorem Work.setMcrew_rxFlows (w : Work) (n : Nat) (v : MCrew) : (w.setMcrew n v).rxFlows = w.rxFlows := rfl
@[simp] theorem Work.setMcrew_qps (w : Work) (n : Nat) (v : MCrew) : (w.setMcrew n v).qps = w.qps := rfl
@[simp] theorem Work.setMcrew_jobs (w : Work) (n : Nat) (v : MCrew) : (w.setMcrew n v).jobs = w.jobs := rfl
@[simp] theorem Work.setMcrew_lockAt (w : Work) (n : Nat) (v : MCrew) : (w.setMcrew n v).lockAt = w.lockAt := rfl
@[simp] theorem Work.setMcrew_crews (w : Work) (n : Nat) (v : MCrew) : (w.setMcrew n v).crews = w.crews := rfl
@[simp] theorem Work.setMcrew_released (w : Work) (n : Nat) (v : MCrew) : (w.setMcrew n v).released = w.released := rfl
@[simp] theorem Work.setMcrew_red (w : Work) (n : Nat) (v : MCrew) : (w.setMcrew n v).red = w.red := rfl
@[simp] theorem Work.setMcrew_start (w : Work) (n : Nat) (v : MCrew) : (w.setMcrew n v).start = w.start := rfl
@[simp] theorem Work.setMcrew_sec (w : Work) (n : Nat) (v : MCrew) : (w.setMcrew n v).sec = w.sec := rfl
@[simp] theorem Work.setMcrew_access (w : Work) (n : Nat) (v : MCrew) : (w.setMcrew n v).access = w.access := rfl
@[simp] theorem Work.setMcrew_windows (w : Work) (n : Nat) (v : MCrew) : (w.setMcrew n v).windows = w.windows := rfl

@[simp] theorem Work.emit_regs (w : Work) (o : Out) : (w.emit o).regs = w.regs := rfl
@[simp] theorem Work.emit_force (w : Work) (o : Out) : (w.emit o).force = w.force := rfl
@[simp] theorem Work.emit_mem (w : Work) (o : Out) : (w.emit o).mem = w.mem := rfl
@[simp] theorem Work.emit_poison (w : Work) (o : Out) : (w.emit o).poison = w.poison := rfl
@[simp] theorem Work.emit_acc (w : Work) (o : Out) : (w.emit o).acc = w.acc := rfl
@[simp] theorem Work.emit_accPoison (w : Work) (o : Out) : (w.emit o).accPoison = w.accPoison := rfl
@[simp] theorem Work.emit_cells (w : Work) (o : Out) : (w.emit o).cells = w.cells := rfl
@[simp] theorem Work.emit_now (w : Work) (o : Out) : (w.emit o).now = w.now := rfl
@[simp] theorem Work.emit_free (w : Work) (o : Out) : (w.emit o).free = w.free := rfl
@[simp] theorem Work.emit_fault (w : Work) (o : Out) : (w.emit o).fault = w.fault := rfl
@[simp] theorem Work.emit_power (w : Work) (o : Out) : (w.emit o).power = w.power := rfl
@[simp] theorem Work.emit_hk (w : Work) (o : Out) : (w.emit o).hk = w.hk := rfl
@[simp] theorem Work.emit_beat (w : Work) (o : Out) : (w.emit o).beat = w.beat := rfl
@[simp] theorem Work.emit_coxes (w : Work) (o : Out) : (w.emit o).coxes = w.coxes := rfl
@[simp] theorem Work.emit_stroke (w : Work) (o : Out) : (w.emit o).stroke = w.stroke := rfl
@[simp] theorem Work.emit_step (w : Work) (o : Out) : (w.emit o).step = w.step := rfl
@[simp] theorem Work.emit_tiles (w : Work) (o : Out) : (w.emit o).tiles = w.tiles := rfl
@[simp] theorem Work.emit_fwd (w : Work) (o : Out) : (w.emit o).fwd = w.fwd := rfl
@[simp] theorem Work.emit_commits (w : Work) (o : Out) : (w.emit o).commits = w.commits := rfl
@[simp] theorem Work.emit_unfolded (w : Work) (o : Out) : (w.emit o).unfolded = w.unfolded := rfl
@[simp] theorem Work.emit_ctxs (w : Work) (o : Out) : (w.emit o).ctxs = w.ctxs := rfl
@[simp] theorem Work.emit_digital (w : Work) (o : Out) : (w.emit o).digital = w.digital := rfl
@[simp] theorem Work.emit_sess (w : Work) (o : Out) : (w.emit o).sess = w.sess := rfl
@[simp] theorem Work.emit_memcs (w : Work) (o : Out) : (w.emit o).memcs = w.memcs := rfl
@[simp] theorem Work.emit_parked (w : Work) (o : Out) : (w.emit o).parked = w.parked := rfl
@[simp] theorem Work.emit_asked (w : Work) (o : Out) : (w.emit o).asked = w.asked := rfl
@[simp] theorem Work.emit_links (w : Work) (o : Out) : (w.emit o).links = w.links := rfl
@[simp] theorem Work.emit_txFlows (w : Work) (o : Out) : (w.emit o).txFlows = w.txFlows := rfl
@[simp] theorem Work.emit_rxFlows (w : Work) (o : Out) : (w.emit o).rxFlows = w.rxFlows := rfl
@[simp] theorem Work.emit_qps (w : Work) (o : Out) : (w.emit o).qps = w.qps := rfl
@[simp] theorem Work.emit_jobs (w : Work) (o : Out) : (w.emit o).jobs = w.jobs := rfl
@[simp] theorem Work.emit_lockAt (w : Work) (o : Out) : (w.emit o).lockAt = w.lockAt := rfl
@[simp] theorem Work.emit_crews (w : Work) (o : Out) : (w.emit o).crews = w.crews := rfl
@[simp] theorem Work.emit_released (w : Work) (o : Out) : (w.emit o).released = w.released := rfl
@[simp] theorem Work.emit_red (w : Work) (o : Out) : (w.emit o).red = w.red := rfl
@[simp] theorem Work.emit_mgr (w : Work) (o : Out) : (w.emit o).mgr = w.mgr := rfl
@[simp] theorem Work.emit_start (w : Work) (o : Out) : (w.emit o).start = w.start := rfl
@[simp] theorem Work.emit_sec (w : Work) (o : Out) : (w.emit o).sec = w.sec := rfl
@[simp] theorem Work.emit_access (w : Work) (o : Out) : (w.emit o).access = w.access := rfl
@[simp] theorem Work.emit_windows (w : Work) (o : Out) : (w.emit o).windows = w.windows := rfl
@[simp] theorem Work.emit_out (w : Work) (o : Out) : (w.emit o).out = w.out ++ [o] := rfl

end Sys2Proof.Machine
end

