-- ==== Sys2Proof/Laws/Regs.lean ====
section
/-! SUPPORT. Laws/Regs.lean: registers: what a register, a field or a bit reads as after a named write of a register. -/

namespace Sys2Proof.Machine

theorem Work.rd_lt (w : Work) (a : Nat) : w.rd a < 2 ^ 32 := (w.reg a).isLt

/-- A register reads as the word last bound, every other register as before. -/
theorem Work.reg_wr (w : Work) (a n b : Nat) : (w.wr a n).reg b = if b = a then BitVec.ofNat 32 n else w.reg b := by
  simp only [Work.reg, Work.wr_regs, Sp.find_put]; split <;> simp_all

theorem Work.rd_wr (w : Work) (a n b : Nat) : (w.wr a n).rd b = if b = a then n % 2 ^ 32 else w.rd b := by
  simp only [Work.rd, Work.reg_wr]; split <;> simp

@[simp] theorem Work.rd_wr_same (w : Work) (a n : Nat) : (w.wr a n).rd a = n % 2 ^ 32 := by simp [Work.rd_wr]

theorem Work.rd_wr_ne (w : Work) (a n : Nat) {b : Nat} (h : b ≠ a) : (w.wr a n).rd b = w.rd b := by simp [Work.rd_wr, h]

/-- A register that no write named reads as before. -/
theorem Work.rd_setFld_ne (w : Work) (a lo len v : Nat) {b : Nat} (h : b ≠ a) : (w.setFld a lo len v).rd b = w.rd b := by
  simp [Work.setFld, Work.rd_wr, h]
theorem Work.rd_setBit_ne (w : Work) (a i : Nat) {b : Nat} (h : b ≠ a) : (w.setBit a i).rd b = w.rd b := by
  simp [Work.setBit, Work.rd_setFld_ne, h]
theorem Work.rd_clrBit_ne (w : Work) (a i : Nat) {b : Nat} (h : b ≠ a) : (w.clrBit a i).rd b = w.rd b := by
  simp [Work.clrBit, Work.rd_setFld_ne, h]
theorem Work.rd_bitTo_ne (w : Work) (a i : Nat) (x : Bool) {b : Nat} (h : b ≠ a) : (w.bitTo a i x).rd b = w.rd b := by
  simp [Work.bitTo, Work.rd_setFld_ne, h]
theorem Work.rd_incBy_ne (w : Work) (a n : Nat) {b : Nat} (h : b ≠ a) : (w.incBy a n).rd b = w.rd b := by
  simp [Work.incBy, Work.rd_wr, h]
theorem Work.rd_inc_ne (w : Work) (a : Nat) {b : Nat} (h : b ≠ a) : (w.inc a).rd b = w.rd b := by
  simp [Work.inc, Work.rd_incBy_ne, h]
theorem Work.rd_incFld_ne (w : Work) (a lo len n : Nat) {b : Nat} (h : b ≠ a) : (w.incFld a lo len n).rd b = w.rd b := by
  simp [Work.incFld, Work.rd_setFld_ne, h]

/-- A counter advances and holds at its largest value (R57). -/
theorem Work.rd_incBy_same (w : Work) (a n : Nat) : (w.incBy a n).rd a = min (w.rd a + n) 0xFFFFFFFF := by
  simp only [Work.incBy, Work.rd_wr_same]; omega
@[simp] theorem Work.rd_inc_same (w : Work) (a : Nat) : (w.inc a).rd a = min (w.rd a + 1) 0xFFFFFFFF := Work.rd_incBy_same w a 1

/-- A state whose registers are the same reads the same. -/
theorem Work.rd_congr {v w : Work} (h : v.regs = w.regs) (a : Nat) : v.rd a = w.rd a := by simp [Work.rd, Work.reg, h]

/-! ### Fields -/

theorem putBits_eq (n lo len v : Nat) :
    putBits n lo len v = 2 ^ lo * (2 ^ len * (n / 2 ^ (lo + len)) + v % 2 ^ len) + n % 2 ^ lo := by
  have h1 : n = 2 ^ lo * (n / 2 ^ lo) + n % 2 ^ lo := (Nat.div_add_mod n (2 ^ lo)).symm
  have h2 : n / 2 ^ lo = 2 ^ len * (n / 2 ^ lo / 2 ^ len) + n / 2 ^ lo % 2 ^ len := (Nat.div_add_mod _ _).symm
  have h3 : n / 2 ^ lo / 2 ^ len = n / 2 ^ (lo + len) := by rw [Nat.div_div_eq_div_mul, pow_add]
  rw [h3] at h2
  simp only [putBits, bits, Nat.shiftRight_eq_div_pow]
  have h4 : n = 2 ^ lo * (2 ^ len * (n / 2 ^ (lo + len))) + 2 ^ lo * (n / 2 ^ lo % 2 ^ len) + n % 2 ^ lo := by
    conv_lhs => rw [h1, h2]
    ring
  have h5 : n - n / 2 ^ lo % 2 ^ len * 2 ^ lo = 2 ^ lo * (2 ^ len * (n / 2 ^ (lo + len))) + n % 2 ^ lo := by
    rw [mul_comm (n / 2 ^ lo % 2 ^ len)]; omega
  rw [h5]; ring

/-- A bit of a number with a field replaced. -/
theorem testBit_putBits (n lo len v i : Nat) :
    (putBits n lo len v).testBit i = if lo ≤ i ∧ i < lo + len then v.testBit (i - lo) else n.testBit i := by
  have hm : n % 2 ^ lo < 2 ^ lo := Nat.mod_lt _ (by positivity)
  have hv : v % 2 ^ len < 2 ^ len := Nat.mod_lt _ (by positivity)
  rw [putBits_eq, Nat.testBit_two_pow_mul_add _ hm]
  by_cases h1 : i < lo
  · rw [if_pos h1, Nat.testBit_mod_two_pow, if_neg (by omega)]; simp [h1]
  · rw [if_neg h1, Nat.testBit_two_pow_mul_add _ hv]
    by_cases h2 : i - lo < len
    · rw [if_pos h2, if_pos (by omega), Nat.testBit_mod_two_pow]; simp [h2]
    · rw [if_neg h2, if_neg (by omega), Nat.testBit_div_two_pow]
      congr 1; omega

/-- The field just written reads as the low bits of the value written. -/
theorem bits_putBits_same (n lo len v : Nat) : bits (putBits n lo len v) lo len = v % 2 ^ len := by
  apply Nat.eq_of_testBit_eq
  intro i
  simp only [bits, Nat.testBit_mod_two_pow, Nat.testBit_shiftRight, testBit_putBits]
  by_cases h : i < len <;> simp [h]

theorem putBits_lt {n lo len v m : Nat} (hn : n < 2 ^ m) (h : lo + len ≤ m) : putBits n lo len v < 2 ^ m := by
  apply Nat.lt_pow_two_of_testBit
  intro i hi
  rw [testBit_putBits, if_neg (by omega)]
  exact Nat.testBit_lt_two_pow (lt_of_lt_of_le hn (Nat.pow_le_pow_right (by norm_num) hi))

/-- A bit of a register after a field of it is written. -/
theorem Work.flag_setFld (w : Work) (a lo len v i : Nat) (h : lo + len ≤ 32) :
    (w.setFld a lo len v).flag a i = if lo ≤ i ∧ i < lo + len then v.testBit (i - lo) else w.flag a i := by
  have := putBits_lt (v := v) (w.rd_lt a) h
  simp only [Work.flag, Work.setFld, Work.rd_wr_same, Nat.mod_eq_of_lt this, testBit_putBits]

@[simp] theorem Work.flag_setBit_same (w : Work) (a i : Nat) (h : i < 32) : (w.setBit a i).flag a i = true := by
  rw [Work.setBit, Work.flag_setFld _ _ _ _ _ _ (by omega)]; simp

@[simp] theorem Work.flag_clrBit_same (w : Work) (a i : Nat) (h : i < 32) : (w.clrBit a i).flag a i = false := by
  rw [Work.clrBit, Work.flag_setFld _ _ _ _ _ _ (by omega)]; simp

@[simp] theorem Work.flag_bitTo_same (w : Work) (a i : Nat) (x : Bool) (h : i < 32) : (w.bitTo a i x).flag a i = x := by
  rw [Work.bitTo, Work.flag_setFld _ _ _ _ _ _ (by omega)]; cases x <;> simp

/-- A field of a register just written. -/
theorem Work.fld_setFld_same (w : Work) (a lo len v : Nat) (h : lo + len ≤ 32) :
    (w.setFld a lo len v).fld a lo len = v % 2 ^ len := by
  have := putBits_lt (v := v) (w.rd_lt a) h
  simp only [Work.fld, Work.setFld, Work.rd_wr_same, Nat.mod_eq_of_lt this, bits_putBits_same]

/-- Bits and fields of a register that no write named. -/
theorem Work.flag_congr {v w : Work} {a : Nat} (h : v.rd a = w.rd a) (i : Nat) : v.flag a i = w.flag a i := by simp [Work.flag, h]
theorem Work.fld_congr {v w : Work} {a : Nat} (h : v.rd a = w.rd a) (lo len : Nat) : v.fld a lo len = w.fld a lo len := by
  simp [Work.fld, h]

theorem Work.flag_setBit_ne (w : Work) (a i : Nat) {b : Nat} (h : b ≠ a) (j : Nat) : (w.setBit a i).flag b j = w.flag b j :=
  Work.flag_congr (Work.rd_setBit_ne w a i h) j
theorem Work.flag_inc_ne (w : Work) (a : Nat) {b : Nat} (h : b ≠ a) (j : Nat) : (w.inc a).flag b j = w.flag b j :=
  Work.flag_congr (Work.rd_inc_ne w a h) j
theorem Work.flag_wr_ne (w : Work) (a n : Nat) {b : Nat} (h : b ≠ a) (j : Nat) : (w.wr a n).flag b j = w.flag b j :=
  Work.flag_congr (Work.rd_wr_ne w a n h) j
theorem Work.flag_setFld_ne (w : Work) (a lo len v : Nat) {b : Nat} (h : b ≠ a) (j : Nat) :
    (w.setFld a lo len v).flag b j = w.flag b j := Work.flag_congr (Work.rd_setFld_ne w a lo len v h) j
theorem Work.fld_setBit_ne (w : Work) (a i : Nat) {b : Nat} (h : b ≠ a) (lo len : Nat) :
    (w.setBit a i).fld b lo len = w.fld b lo len := Work.fld_congr (Work.rd_setBit_ne w a i h) lo len
theorem Work.fld_inc_ne (w : Work) (a : Nat) {b : Nat} (h : b ≠ a) (lo len : Nat) : (w.inc a).fld b lo len = w.fld b lo len :=
  Work.fld_congr (Work.rd_inc_ne w a h) lo len
theorem Work.fld_setFld_ne (w : Work) (a lo len v : Nat) {b : Nat} (h : b ≠ a) (l n : Nat) :
    (w.setFld a lo len v).fld b l n = w.fld b l n := Work.fld_congr (Work.rd_setFld_ne w a lo len v h) l n

end Sys2Proof.Machine
end

