-- ==== Sys2Proof/Laws/Bus.lean ====
section
/-! SUPPORT. Laws/Bus.lean: everything an access to the register window can do. -/

namespace Sys2Proof.Machine

/-- A write of the window by its four outcomes (Table 15-5): recorded and refused, or done. -/
theorem Work.busWrite_cases (w : Work) (p : Path) (a v : Nat) (f : Work → Work) :
    (a % 4 ≠ 0 ∧ w.busWrite p a v f = (w.regError (w.busPath p) a true 1, 2)) ∨
    (a % 4 = 0 ∧ w.mayWrite (w.busPath p) a v = false ∧ w.busWrite p a v f = (w.deny (w.busPath p) a true, 1)) ∨
    (a % 4 = 0 ∧ w.mayWrite (w.busPath p) a v = true ∧ w.darkAt a = true ∧
      w.busWrite p a v f = (w.regError (w.busPath p) a true 3, 4)) ∨
    (a % 4 = 0 ∧ w.mayWrite (w.busPath p) a v = true ∧ w.darkAt a = false ∧
      (hasRwl a && w.rwlLocked (w.busPath p)) = true ∧ w.busWrite p a v f = ((f w).regError (w.busPath p) a true 2, 3)) ∨
    (a % 4 = 0 ∧ w.mayWrite (w.busPath p) a v = true ∧ w.darkAt a = false ∧
      (hasRwl a && w.rwlLocked (w.busPath p)) = false ∧ w.busWrite p a v f = (f w, 0)) := by
  unfold Work.busWrite
  by_cases h1 : a % 4 = 0
  · cases h2 : w.mayWrite (w.busPath p) a v
    · right; left; simp [h1, h2]
    · cases h3 : w.darkAt a
      · cases h4 : (hasRwl a && w.rwlLocked (w.busPath p))
        · right; right; right; right
          refine ⟨h1, rfl, rfl, rfl, ?_⟩
          simp only [h1, h2, h4, ne_eq, not_true_eq_false, if_false, Bool.not_true, Bool.false_eq_true]
        · right; right; right; left
          refine ⟨h1, rfl, rfl, rfl, ?_⟩
          simp only [h1, h2, h4, ne_eq, not_true_eq_false, if_false, Bool.not_true, Bool.false_eq_true, if_true]
      · right; right; left; simp [h1, h2]
  · left; simp [h1]

/-- A read of the window by its outcomes: a refused one returns zero and is recorded (R520, R527, R536). -/
theorem Work.busRead_cases (w : Work) (p : Path) (a : Nat) (f : Work → Nat × Work) :
    (a % 4 ≠ 0 ∧ w.busRead p a f = (0, w.regError (w.busPath p) a false 1, 2)) ∨
    (a % 4 = 0 ∧ w.mayRead (w.busPath p) a = false ∧ w.busRead p a f = (0, w.deny (w.busPath p) a false, 1)) ∨
    (a % 4 = 0 ∧ w.mayRead (w.busPath p) a = true ∧ w.darkAt a = true ∧
      w.busRead p a f = (0, w.regError (w.busPath p) a false 3, 4)) ∨
    (a % 4 = 0 ∧ w.mayRead (w.busPath p) a = true ∧ w.darkAt a = false ∧ w.busRead p a f = ((f w).1, (f w).2, 0)) := by
  unfold Work.busRead
  by_cases h1 : a % 4 = 0
  · cases h2 : w.mayRead (w.busPath p) a
    · right; left; simp [h1, h2]
    · cases h3 : w.darkAt a
      · right; right; right; simp [h1, h2]
      · right; right; left; simp [h1, h2]
  · left; simp [h1]

/-- A recorded refusal changes registers alone. -/
@[simp] theorem Work.regError_mem (w : Work) (p : Path) (a : Nat) (x : Bool) (b : Nat) : (w.regError p a x b).mem = w.mem := rfl
@[simp] theorem Work.deny_mem (w : Work) (p : Path) (a : Nat) (x : Bool) : (w.deny p a x).mem = w.mem := rfl

/-- The plain write changes one register and nothing else of the work state. -/
theorem Work.plainWrite_rd_ne (w : Work) (a v : Nat) (l : Bool) {b : Nat} (h : b ≠ a) : (w.plainWrite a v l).rd b = w.rd b := by
  unfold Work.plainWrite; split
  · rfl
  · exact Work.rd_wr_ne _ _ _ h
@[simp] theorem Work.plainWrite_mem (w : Work) (a v : Nat) (l : Bool) : (w.plainWrite a v l).mem = w.mem := by
  unfold Work.plainWrite; split <;> rfl

end Sys2Proof.Machine
end

