-- ==== Sys2Proof/Laws/Bytes.lean ====
section
/-! SUPPORT. Laws/Bytes.lean: fields of byte lists: their places in an append, and what a number's bytes spell. -/

namespace Sys2Proof.Machine

@[simp] theorem toLE_length (n v : Nat) : (toLE n v).length = n := by
  induction n generalizing v with
  | zero => rfl
  | succ n ih => simp [toLE, ih]

@[simp] theorem toBE_length (n v : Nat) : (toBE n v).length = n := by simp [toBE]

@[simp] theorem zeros_length (n : Nat) : (zeros n).length = n := by simp [zeros]

@[simp] theorem sub_length (l : List Byte) (off n : Nat) : (sub l off n).length = n := by simp [sub]

theorem sub_left (a b : List Byte) {off n : Nat} (h : off + n ≤ a.length) : sub (a ++ b) off n = sub a off n := by
  unfold sub
  refine List.map_congr_left (fun i hi => ?_)
  have : i < n := by simpa using hi
  simp only [List.getD_eq_getElem?_getD, List.getElem?_append_left (by omega : off + i < a.length)]

theorem sub_right (a b : List Byte) {off n : Nat} (h : a.length ≤ off) : sub (a ++ b) off n = sub b (off - a.length) n := by
  unfold sub
  refine List.map_congr_left (fun i _ => ?_)
  simp only [List.getD_eq_getElem?_getD, List.getElem?_append_right (by omega : a.length ≤ off + i)]
  congr 2
  omega

theorem sub_whole (l : List Byte) {n : Nat} (h : n = l.length) : sub l 0 n = l := by
  subst h
  refine List.ext_getElem (by simp) (fun i h1 h2 => ?_)
  simp [sub, h2]

theorem leNat_toLE (n v : Nat) : leNat (toLE n v) = v % 256 ^ n := by
  induction n generalizing v with
  | zero => simp [toLE, leNat, Nat.mod_one]
  | succ n ih =>
    have hp : 256 ^ (n + 1) = 256 * 256 ^ n := by rw [Nat.pow_succ]; ring
    simp only [toLE, leNat, ih, BitVec.toNat_ofNat, hp, Nat.mod_mul]

theorem beNat_toBE (n v : Nat) : beNat (toBE n v) = v % 256 ^ n := by
  simp [beNat, toBE, leNat_toLE]

theorem allZero_zeros (n : Nat) : allZero (zeros n) = true := by simp [allZero, zeros]

theorem crcByte_lt (c : Nat) (b : Byte) (h : c < 2 ^ 32) : crcByte c b < 2 ^ 32 := by
  have step : ∀ x : Nat, x < 2 ^ 32 → (if x % 2 = 1 then (x >>> 1) ^^^ 0x82F63B78 else x >>> 1) < 2 ^ 32 := by
    intro x hx
    have hs : x >>> 1 < 2 ^ 32 := by rw [Nat.shiftRight_eq_div_pow]; omega
    split
    · exact Nat.xor_lt_two_pow hs (by decide)
    · exact hs
  have h0 : c ^^^ b.toNat < 2 ^ 32 := Nat.xor_lt_two_pow h (by have := b.isLt; omega)
  exact step _ (step _ (step _ (step _ (step _ (step _ (step _ (step _ h0)))))))

theorem crc32c_lt (l : List Byte) : crc32c l < 2 ^ 32 := by
  have : ∀ (l : List Byte) (c : Nat), c < 2 ^ 32 → l.foldl crcByte c < 2 ^ 32 := by
    intro l
    induction l with
    | nil => exact fun c h => h
    | cons b l ih => exact fun c h => ih _ (crcByte_lt c b h)
  exact Nat.xor_lt_two_pow (this l _ (by decide)) (by decide)

end Sys2Proof.Machine
end

