-- ==== Sys2Proof/Laws/Exec.lean ====
section
/-! SUPPORT. Laws/Exec.lean: how a command reaches the state, said once: what the running device, a register path, a packet and a
CONTROL message each come to. -/

namespace Sys2Proof.Machine

/-- A command of the running device takes effect. -/
theorem State.run_alive {s : State} (h : s.board.alive = true) (f : Board → Work → Work) :
    s.run f = .next { s with work := f s.board s.work } := by simp [State.run, h]

/-- A device that is not running ignores it. -/
theorem State.run_held {s : State} (h : s.board.alive = false) (f : Board → Work → Work) : s.run f = .next s := by
  simp [State.run, h]

theorem State.runAll_alive {s : State} (h : s.board.alive = true) (f : Board → Work → Board × Work) :
    s.runAll f = .next { s with board := (f s.board s.work).1, work := (f s.board s.work).2 } := by simp [State.runAll, h]

theorem State.runAll_held {s : State} (h : s.board.alive = false) (f : Board → Work → Board × Work) : s.runAll f = .next s := by
  simp [State.runAll, h]

/-- A register path reaches a device that answers. -/
theorem State.access_answers {s : State} (h : s.board.answers = true) (f : Board → Work → Work) :
    s.access f = .next { s with work := f s.board s.work } := by simp [State.access, h]

theorem State.access_silent {s : State} (h : s.board.answers = false) (f : Board → Work → Work) : s.access f = .next s := by
  simp [State.access, h]

/-- A running device answers its register paths. -/
theorem Board.answers_of_alive {b : Board} (h : b.alive = true) : b.answers = true := by
  simp only [Board.alive, Board.answers, Bool.and_eq_true] at *
  tauto

/-- None of these can do but answer a next state with the queue as it was. -/
theorem State.run_next (s : State) (f : Board → Work → Work) : ∃ w, s.run f = .next { s with work := w } := by
  unfold State.run; split
  · exact ⟨_, rfl⟩
  · exact ⟨s.work, rfl⟩
theorem State.access_next (s : State) (f : Board → Work → Work) : ∃ w, s.access f = .next { s with work := w } := by
  unfold State.access; split
  · exact ⟨_, rfl⟩
  · exact ⟨s.work, rfl⟩
theorem State.runAll_next (s : State) (f : Board → Work → Board × Work) :
    ∃ b w, s.runAll f = .next { s with board := b, work := w } := by
  unfold State.runAll; split
  · exact ⟨_, _, rfl⟩
  · exact ⟨s.board, s.work, rfl⟩
theorem State.pins_next (s : State) (f : Board → Work → Board × Work) :
    ∃ b w, s.pins f = .next { s with board := b, work := w } := ⟨_, _, rfl⟩

/-- A write of the window that is done has its effect and no other. -/
theorem Work.onBus_done {w : Work} {p : Path} {a v : Nat} (h : w.Writable p a v) (f : Work → Work) : w.onBus p a v f = f w := by
  obtain ⟨h1, h2, h3, h4, h5⟩ := h
  simp only [Work.onBus, Work.busWrite, h1, h2, h3, h4, h5, ne_eq, not_true_eq_false, if_false, Bool.not_true, Bool.false_eq_true]

/-- A packet that is kept and next in its flow, or outside flow tracking, has its effect and is taken (R342, R563). -/
theorem Work.receive_taken {w : Work} {p : Packet} (ha : w.accepts p = true)
    (hn : untracked p = true ∨ reliableType p.type = false ∨ p.psn = (w.rxFlow p).next) (f : Work → Work × Nat)
    (hf : (f w).2 = 0) : w.receive p f = w.settled (f w).1 p := by
  simp only [Work.receive, ha, Work.settled, Work.inOrder, if_true]
  split
  · rfl
  · rename_i h
    simp only [Bool.or_eq_true, Bool.not_eq_true', not_or, Bool.not_eq_true, Bool.not_eq_false] at h
    rcases hn with hn | hn | hn
    · simp [hn] at h
    · simp [hn] at h
    · simp only [hn, if_true]

/-- A CONTROL message that reaches the device has its operation's effect and is taken. -/
theorem Work.hears_settled {s : State} {k : Fin 40} {p : Packet} {op : Nat} {c : Ctrl} (h : s.Hears k p op c) (f : Work → Ctrl → Work) :
    (if s.work.arrives k.val p 6 = true then s.work.onCtrl p op f else s.work) = s.work.settled (f s.work c) p := by
  obtain ⟨⟨_, h1, h2, h3⟩, h4, h5⟩ := h
  simp only [h1, if_true, Work.onCtrl, h4, h5]
  exact Work.receive_taken h2 h3 _ rfl

end Sys2Proof.Machine
end

