-- ==== Sys2Proof/Laws/Kernel.lean ====
section
/-! SUPPORT. Laws/Kernel.lean: what a vector kernel reads from HBM that holds no poison and waits for no fold, where it writes, and
the lengths of its results. -/

namespace Sys2Proof.Machine

/-- No poison mark stands and no fold is outstanding. -/
abbrev Work.Clean (w : Work) : Prop := w.poison = [] ∧ w.unfolded = []

theorem Work.Clean.poisoned {w : Work} (h : w.Clean) (a n : Nat) : w.poisoned a n = false := by simp [Work.poisoned, h.1]

theorem Work.Clean.localGet {w : Work} (h : w.Clean) {c a b n : Nat} (ha : localOk a n = true) (hb : localAddr c a = some b) :
    w.localGet c a n = some (w.bytes b n, false) := by simp [Work.localGet, ha, hb, h.poisoned]

theorem Work.Clean.foldWait {w : Work} (h : w.Clean) (a n : Nat) : w.foldWait a n = w := by
  obtain ⟨-, h⟩ := h
  cases w
  simp_all [Work.foldWait]

theorem Work.Clean.readsStack {w : Work} (h : w.Clean) (a n : Nat) : w.readsStack a n = w := by
  simp [Work.readsStack, h.foldWait, Work.poisonReads, h.1]

theorem Work.Clean.kget {w : Work} (h : w.Clean) (c : Nat) {a n : Nat} (ha : a + n ≤ apertureBase) :
    w.kget c a n = some (w.bytes a n, false, w) := by
  have h1 : kernelAt c a n = some (.hbm a) := if_pos (Nat.le_trans ha (by decide))
  simp [Work.kget, h1, Work.hbmGet, inStacks, ha, h.poisoned, h.readsStack]

theorem Work.Clean.kgets {w : Work} (h : w.Clean) (c : Nat) (rs : List (Nat × Nat)) (hr : ∀ r ∈ rs, r.1 + r.2 ≤ apertureBase) :
    kgets c rs w = some (rs.map (fun r => w.bytes r.1 r.2), false, w) := by
  induction rs with
  | nil => rfl
  | cons r rs ih => simp [Machine.kgets, h.kget c (hr r (by simp)), ih (fun q hq => hr q (by simp [hq]))]

theorem kputs_hbm (c : Nat) (ps : List (Nat × List Byte)) (h : ∀ p ∈ ps, p.1 + p.2.length ≤ 2 ^ 40) : kputs c ps = some ps := by
  unfold kputs
  induction ps with
  | nil => rfl
  | cons p ps ih =>
    have h1 : kernelAt c p.1 p.2.length = some (.hbm p.1) := if_pos (h p (by simp))
    simp [List.mapM_cons, ih (fun q hq => h q (by simp [hq])), h1]

theorem Work.Clean.kseg {w : Work} (h : w.Clean) (c : Nat) {code seg : Nat} (scl : Option Nat) (hc : scaled code = false)
    (ha : seg + segBytes code ≤ apertureBase) : ∃ s, w.kseg c code seg scl = some (s, w) ∧ s.poison = false := by
  simp [Work.kseg, readSeg, h.kget c ha, hc]

theorem Work.Clean.bandBlock_some {w : Work} (h : w.Clean) (c : Nat) (o : Opd) (base band cb : Nat) (hc : scaled o.fmt = false)
    (ha : ∀ i ∈ List.range 32, (o.place base (32 * band + i) cb).1 + segBytes o.fmt ≤ apertureBase) :
    ∃ xs, w.bandBlock c o base band cb = some (xs, false, w) := by
  unfold Work.bandBlock
  generalize List.range 32 = l at ha
  generalize h0 : (([] : List (List Word)), false, w) = acc
  replace h0 : acc.2 = (false, w) := by simp [← h0]
  induction l generalizing acc with
  | nil => exact ⟨acc.1, by simp [← h0]⟩
  | cons i l ih =>
    obtain ⟨s, hs, hp⟩ := h.kseg c (o.place base (32 * band + i) cb).2 hc (ha i (by simp))
    simp only [List.foldlM_cons, h0, hs, hp]
    exact ih (fun q hq => ha q (by simp [hq])) _ rfl

theorem Work.Clean.bandBlock {w : Work} (h : w.Clean) (c : Nat) (o : Opd) (base band cb : Nat) (hc : scaled o.fmt = false)
    (ha : ∀ i ∈ List.range 32, (o.place base (32 * band + i) cb).1 + segBytes o.fmt ≤ apertureBase) :
    w.bandBlock c o base band cb = some (((w.bandBlock c o base band cb).map (·.1)).getD [], false, w) := by
  obtain ⟨xs, hx⟩ := h.bandBlock_some c o base band cb hc ha
  simp [hx]

theorem kwrite_hbm (w : Work) (c : Nat) (ps : List (Nat × List Byte)) (h : ∀ p ∈ ps, p.1 + p.2.length ≤ 2 ^ 40) :
    w.kwrite c ps = some (ps.foldl (fun (v : Work) q => v.putAt (q.1, q.2, false)) w) := by simp [Work.kwrite, kputs_hbm c ps h]

/-- Local ranges that a core reads. -/
abbrev localIn (c a n : Nat) : Prop := localOk a n = true ∧ (localAddr c a).isSome = true

theorem Work.Clean.localGet_in {w : Work} (h : w.Clean) {c a n : Nat} (ha : localIn c a n) :
    ∃ bs, w.localGet c a n = some (bs, false) := by
  obtain ⟨b, hb⟩ := Option.isSome_iff_exists.1 ha.2
  exact ⟨_, h.localGet ha.1 hb⟩

theorem Work.Clean.segs {w : Work} (h : w.Clean) (c : Nat) (o : Opd) (base side kb : Nat) (hc : scaled o.fmt = false)
    (ha : ∀ i ∈ List.range side, localIn c (o.place base i kb).1 (segBytes o.fmt)) :
    ∃ ss, o.segs (w.localGet c) base side kb = some ss ∧ ss.any (·.poison) = false := by
  unfold Opd.segs
  generalize List.range side = l at ha
  induction l with
  | nil => exact ⟨[], rfl, rfl⟩
  | cons i l ih =>
    obtain ⟨bs, hb⟩ := h.localGet_in (ha i (by simp))
    obtain ⟨ss, hs, hp⟩ := ih (fun q hq => ha q (by simp [hq]))
    have h1 : ∃ s, readSeg (w.localGet c) o.fmt (o.place base i kb).1 (o.place base i kb).2 = some s ∧ s.poison = false := by
      simp [readSeg, hb, hc]
    obtain ⟨s, h1, h2⟩ := h1
    exact ⟨s :: ss, by simp [List.mapM_cons, h1, hs], by simpa [h2] using hp⟩

theorem Work.Clean.mmaRun {w : Work} (h : w.Clean) (c : Nat) (oa ob : Opd) (aa ab m n kblk : Nat) (t : List Word)
    (hca : scaled oa.fmt = false) (hcb : scaled ob.fmt = false)
    (ha : ∀ kb ∈ List.range kblk, ∀ i ∈ List.range m, localIn c (oa.place aa i kb).1 (segBytes oa.fmt))
    (hb : ∀ kb ∈ List.range kblk, ∀ i ∈ List.range n, localIn c (ob.place ab i kb).1 (segBytes ob.fmt)) :
    ∃ r, w.mmaRun c oa ob aa ab m n kblk t = some r ∧ r.poison = false := by
  unfold Work.mmaRun
  generalize h0 : ({ tile := t } : MmaRun) = acc
  replace h0 : acc.poison = false := by simp [← h0]
  generalize List.range kblk = l at ha hb
  induction l generalizing acc with
  | nil => exact ⟨acc, rfl, h0⟩
  | cons kb l ih =>
    obtain ⟨sa, h1, h2⟩ := h.segs c oa aa m kb hca (ha kb (by simp))
    obtain ⟨sb, h3, h4⟩ := h.segs c ob ab n kb hcb (hb kb (by simp))
    simp only [List.foldlM_cons, h1, h3]
    exact ih _ (by simp [h0, h2, h4]) (fun q hq => ha q (by simp [hq])) (fun q hq => hb q (by simp [hq]))

theorem wordsLE_length (ws : List Word) : (wordsLE ws).length = 4 * ws.length := by
  simp [wordsLE, List.length_flatMap, Nat.mul_comm]

theorem softRow_length (scale : Word) (s m : List Word) : (softRow scale s m).1.length = s.length := by simp [softRow]

theorem normTile_length (dy : List Word) (x : List (List Word)) (g r acc dg : List Word) :
    (normTile dy x g r acc dg).1.length = 1024 ∧ (normTile dy x g r acc dg).2.2.length = 32 := by simp [normTile]

end Sys2Proof.Machine
end

