-- ==== Sys2Proof/Laws/Memory.lean ====
section
/-! SUPPORT. Laws/Memory.lean: memory keeps its canonical form, and what a byte reads as after a store. -/

namespace Sys2Proof.Machine

/-- The canonical form, said of the whole list: no listed byte is 0, addresses rise. -/
theorem Memory.wf_iff (l : List Host.Cell) :
    Memory.wf l = true ↔ (∀ c ∈ l, c.2 ≠ 0) ∧ l.Pairwise (fun c d => c.1 < d.1) := by
  induction l with
  | nil => simp [Memory.wf]
  | cons c r ih =>
    cases r with
    | nil => simp [Memory.wf]
    | cons d r =>
      simp only [Memory.wf, Bool.and_eq_true, bne_iff_ne, ne_eq, decide_eq_true_eq, ih]
      constructor
      · rintro ⟨⟨h1, h2⟩, h3, h4⟩
        refine ⟨fun e he => (List.mem_cons.mp he).elim (fun hh => hh ▸ h1) (h3 e), List.pairwise_cons.mpr ⟨?_, h4⟩⟩
        intro e he
        rcases List.mem_cons.mp he with rfl | he
        · exact h2
        · exact lt_trans h2 ((List.pairwise_cons.mp h4).1 e he)
      · rintro ⟨h1, h2⟩
        have h2' := List.pairwise_cons.mp h2
        exact ⟨⟨h1 c (by simp), h2'.1 d (by simp)⟩, fun e he => h1 e (by simp [he]), h2'.2⟩

/-- Any part of a canonical memory is canonical. -/
theorem Memory.wf_filter {l : List Host.Cell} (h : Memory.wf l = true) (f : Host.Cell → Bool) : Memory.wf (l.filter f) = true := by
  rw [Memory.wf_iff] at h ⊢
  exact ⟨fun c hc => h.1 c (List.mem_of_mem_filter hc), h.2.filter f⟩

theorem mem_cellsOf {a : Nat} {bs : List Byte} {c : Host.Cell} (h : c ∈ cellsOf a bs) : a ≤ c.1 ∧ c.1 < a + bs.length ∧ c.2 ≠ 0 := by
  induction bs generalizing a with
  | nil => simp [cellsOf] at h
  | cons b bs ih =>
    simp only [cellsOf] at h
    split at h
    · have := ih h; simp only [List.length_cons]; exact ⟨by omega, by omega, this.2.2⟩
    · rcases List.mem_cons.mp h with rfl | h
      · simp only [List.length_cons]; exact ⟨le_refl _, by omega, by assumption⟩
      · have := ih h; simp only [List.length_cons]; exact ⟨by omega, by omega, this.2.2⟩

theorem cellsOf_rising (a : Nat) (bs : List Byte) : (cellsOf a bs).Pairwise (fun c d => c.1 < d.1) := by
  induction bs generalizing a with
  | nil => simp [cellsOf]
  | cons b bs ih =>
    simp only [cellsOf]
    split
    · exact ih _
    · exact List.pairwise_cons.mpr ⟨fun c hc => by have := mem_cellsOf hc; omega, ih _⟩

/-- A store keeps the canonical form. -/
theorem Memory.wf_store {m : List Host.Cell} (h : Memory.wf m = true) (a : Nat) (bs : List Byte) :
    Memory.wf (storeCells m a bs) = true := by
  rw [Memory.wf_iff] at h ⊢
  simp only [storeCells, List.mem_append, List.mem_filter, decide_eq_true_eq, List.pairwise_append]
  refine ⟨?_, ⟨h.2.filter _, cellsOf_rising a bs, ?_⟩, h.2.filter _, ?_⟩
  · rintro c ((⟨hc, -⟩ | hc) | ⟨hc, -⟩)
    · exact h.1 c hc
    · exact (mem_cellsOf hc).2.2
    · exact h.1 c hc
  · rintro c ⟨-, hc⟩ d hd; have := mem_cellsOf hd; omega
  · rintro c (⟨-, hc⟩ | hc) d ⟨-, hd⟩
    · omega
    · have := mem_cellsOf hc; omega

/-- Every named operation on memory keeps the canonical form. -/
theorem Work.store_wf {w : Work} (h : Memory.wf w.mem = true) (a : Nat) (bs : List Byte) : Memory.wf (w.store a bs).mem = true := by
  simpa using Memory.wf_store h a bs
theorem Work.storeNum_wf {w : Work} (h : Memory.wf w.mem = true) (a n v : Nat) : Memory.wf (w.storeNum a n v).mem = true :=
  Work.store_wf h a _
theorem Work.put_wf {w : Work} (h : Memory.wf w.mem = true) (a : Nat) (bs : List Byte) (p : Bool) :
    Memory.wf (w.put a bs p).mem = true := by
  cases p <;> simpa [Work.put] using Memory.wf_store h a bs
theorem Work.zeroRange_wf {w : Work} (h : Memory.wf w.mem = true) (a n : Nat) : Memory.wf (w.zeroRange a n).mem = true :=
  Memory.wf_filter h _
theorem Work.copy_wf {w : Work} (h : Memory.wf w.mem = true) (src dst n : Nat) : Memory.wf (w.copy src dst n).mem = true := by
  unfold Work.copy
  generalize List.range ((n + 255) / 256) = l
  suffices ∀ v : Work, Memory.wf v.mem = true → Memory.wf (l.foldl (fun v i => v.put (dst + 256 * i)
      (w.bytes (src + 256 * i) (min 256 (n - 256 * i))) (w.poisoned (src + 256 * i) (min 256 (n - 256 * i)))) v).mem = true from this w h
  induction l with
  | nil => intro v hv; exact hv
  | cons i l ih => intro v hv; exact ih _ (Work.put_wf hv _ _ _)

/-- The memory of the reset state is canonical. -/
theorem reset_mem_wf : Memory.wf State.reset.work.mem = true := rfl

theorem cellAt_cons (c : Host.Cell) (l : List Host.Cell) (a : Nat) : cellAt (c :: l) a = if c.1 = a then c.2 else cellAt l a := by
  by_cases h : c.1 = a <;> simp [cellAt, h]

theorem cellAt_append (l k : List Host.Cell) (a : Nat) (h : ∀ c ∈ l, c.1 ≠ a) : cellAt (l ++ k) a = cellAt k a := by
  induction l with
  | nil => rfl
  | cons c l ih =>
    rw [List.cons_append, cellAt_cons, if_neg (h c (by simp))]
    exact ih (fun d hd => h d (by simp [hd]))

theorem cellAt_append_left (l k : List Host.Cell) (a : Nat) (h : ∀ c ∈ k, c.1 ≠ a) : cellAt (l ++ k) a = cellAt l a := by
  induction l with
  | nil =>
    induction k with
    | nil => rfl
    | cons c k ih =>
      rw [List.nil_append, cellAt_cons, if_neg (h c (by simp))]
      exact ih (fun d hd => h d (by simp [hd]))
  | cons c l ih => rw [List.cons_append, cellAt_cons, cellAt_cons, ih]

theorem cellAt_filter (l : List Host.Cell) (f : Nat → Bool) (a : Nat) (h : f a = true) :
    cellAt (l.filter (fun p => f p.1)) a = cellAt l a := by
  induction l with
  | nil => rfl
  | cons c l ih =>
    rw [List.filter_cons, cellAt_cons]
    by_cases hc : c.1 = a
    · rw [if_pos (hc ▸ h), cellAt_cons]; simp [hc]
    · rw [if_neg hc]
      split
      · rw [cellAt_cons, if_neg hc, ih]
      · exact ih

theorem cellAt_cellsOf (a : Nat) (bs : List Byte) (i : Nat) (h : i < bs.length) : cellAt (cellsOf a bs) (a + i) = bs[i] := by
  induction bs generalizing a i with
  | nil => simp at h
  | cons b bs ih =>
    simp only [cellsOf]
    cases i with
    | zero =>
      split
      · rename_i hb
        have : ∀ c ∈ cellsOf (a + 1) bs, c.1 ≠ a := fun c hc => by have := mem_cellsOf hc; omega
        have := cellAt_append_left [] _ a this
        simp only [List.nil_append] at this
        exact this.trans hb.symm
      · simp [cellAt_cons]
    | succ i =>
      have hi : i < bs.length := by simpa using h
      have e : a + (i + 1) = a + 1 + i := by omega
      split
      · rw [e, ih _ _ hi]; simp
      · rw [cellAt_cons, if_neg (by simp only; omega), e, ih _ _ hi]; simp

/-- A byte outside the stored range reads as before. -/
theorem Work.byte_store_ne (w : Work) (a : Nat) (bs : List Byte) (b : Nat) (h : b < a ∨ a + bs.length ≤ b) :
    (w.store a bs).byte b = w.byte b := by
  have hc : ∀ c ∈ cellsOf a bs, c.1 ≠ b := fun c hc => by have := mem_cellsOf hc; omega
  simp only [Work.byte, Work.store_mem, storeCells]
  rcases h with h | h
  · rw [cellAt_append_left _ _ _ (fun c hc => by have := (List.mem_filter.mp hc).2; simp at this; omega),
      cellAt_append_left _ _ _ hc]
    exact cellAt_filter _ (fun p => decide (p < a)) _ (by simpa using h)
  · rw [List.append_assoc, cellAt_append _ _ _ (fun c hc => by have := (List.mem_filter.mp hc).2; simp at this; omega),
      cellAt_append _ _ _ hc]
    exact cellAt_filter _ (fun p => decide (a + bs.length ≤ p)) _ (by simpa using h)

/-- A stored byte reads as it was stored. -/
theorem Work.byte_store (w : Work) (a : Nat) (bs : List Byte) (i : Nat) (h : i < bs.length) : (w.store a bs).byte (a + i) = bs[i] := by
  simp only [Work.byte, Work.store_mem, storeCells]
  rw [cellAt_append_left _ _ _ (fun c hc => by have := (List.mem_filter.mp hc).2; simp at this; omega),
    cellAt_append _ _ _ (fun c hc => by have := (List.mem_filter.mp hc).2; simp at this; omega)]
  exact cellAt_cellsOf a bs i h

end Sys2Proof.Machine
end

