-- ==== Sys2Proof/WellFormed.lean ====
section
/-! DEFINITION. WellFormed.lean: the operands the world outside can give a command. Every field of a packet has the width of
Table 9-3, every list of converter codes or symbol positions the length and range the hardware delivers. A meaning is total
all the same: these checks say what a sender of commands can send. -/

namespace Sys2Proof

/-- Every field of a Rosder header has its width (Table 9-3), and the payload fits the largest packet (R337). -/
def Packet.wf (p : Packet) : Bool :=
  p.ver < 16 && p.type < 16 && p.flags < 256 && p.job < 65536 && p.gen < 256 && p.tc < 256 && p.src < 65536 &&
  p.dst < 65536 && p.wq < 65536 && p.psn < 2 ^ 32 && p.crew < 65536 && p.len < 65536 && p.lseq < 65536 &&
  p.lack < 65536 && p.xmax < 256 && p.nakCode < 256 && p.sent < 65536 && p.rsvd < 2 ^ 32 &&
  p.payload.length < 65536

/-- A frame carries a well-formed packet, or a 16-bit LSEQ and a count for each of four lanes. -/
def Frame.wf : Frame → Bool
  | .good p => p.wf
  | .other => true
  | .bad l errs _ => l < 65536 && errs.length == 4
  | .icv => true

/-- Codes of the converter, −128 to 127 (R76). -/
def adcCodes (l : List Int) : Bool := l.all (fun x => -128 ≤ x && x ≤ 127)

/-- Failed positions of a row with their measured levels, −15 to +15: 1,024 weights, the checksum column, 16 references (R59, R122). -/
def failedPositions (l : List (Nat × Int)) : Bool := l.all (fun p => p.1 < 1041 && -15 ≤ p.2 && p.2 ≤ 15)

/-- Symbol positions of a codeword of 5,760 symbols at most, each once (R297). -/
def symbolPositions (l : List Nat) : Bool := l.Nodup && l.all (· < 5760)

/-- A tensor block is 256 bytes to 4 KiB long, with a 32-bit check (R313). -/
def Block.wf (b : Block) : Bool := 0 < b.data.length && b.data.length ≤ 4096 && b.check < 2 ^ 32 && b.poisonMap < 2 ^ 16

/-- A command's operands are such as its sender can give. -/
def Instr.wf : Instr → Bool
  | .beatMarker _ pl => pl.length < 65536
  | .readyReceive _ p | .bypOpen _ p | .data _ p | .readReq _ p | .readResp _ p | .ack _ p | .nak _ p
  | .ringPacket _ p | .scaleReport _ p | .scaleUpdate _ p | .redo _ p | .claim _ p | .join _ p | .assign _ p
  | .progArm _ p | .ckptOrder _ p | .ckptDone _ p | .ckptCommit _ p | .rollCall _ p | .rollAnswer _ p
  | .restore _ p | .restoreDone _ p | .restoreFinish _ p | .report _ p | .jobOpen _ p | .jobFree _ p
  | .takeover _ p | .takeoverAck _ p | .deposed _ p | .regReq _ p | .regResp _ p | .abort _ p
  | .fieldTest _ p | .fieldResult _ p | .accContribution _ p => p.wf
  | .frameReceive _ f => f.wf
  | .fwdProductDone _ _ codes csum => codes.all adcCodes && adcCodes csum
  | .rowWriteUnitDone _ _ a b | .undoUnitDone _ _ a b | .refreshUnitDone _ _ a b | .copyUnitDone _ _ a b =>
    failedPositions a && failedPositions b
  | .serviceGap _ (.verify a b) => failedPositions a && failedPositions b
  | .levelSurveyDone _ _ _ ls => ls.length == 1024 && ls.all (fun r => r.length == 1041 && r.all (fun l => -15 ≤ l && l ≤ 15))
  | .hbmRead q b p => q.issuer.unit < 1221 && q.issuer.gen < 256 && q.addr < 2 ^ 40 && symbolPositions b && symbolPositions p
  | .hbmRetryDone a b p => a < 2 ^ 40 && symbolPositions b && symbolPositions p
  | .hbmWrite q d _ e =>
    q.issuer.unit < 1221 && q.issuer.gen < 256 && q.addr + d.length ≤ 2 ^ 40 && symbolPositions e.first && symbolPositions e.second
  | .roceWrite h _ _ _ _ | .roceRead h _ _ _ _ | .roceInvalidRequest h _ => h.wq < 65536 && h.qp < 2 ^ 24
  | .tblkArrival b | .tblkRearrival b => b.wf
  | .hkConversionDone r | .hkUrgentDone r => r < 4096
  | .registerWrite _ _ a _ => a < 2 ^ 32
  | .dbgChallenge _ n => n.length == 32
  | .jobCmdOpen _ j g | .jobCmdFree _ j g => j < 65536 && g < 256
  | _ => true

end Sys2Proof
end

