-- ==== Sys2Proof/Tests/Slice0.lean ====
section
/-! SUPPORT. Tests/Slice0.lean: the model's own tests: operands refused as ill-formed, the worked examples of the spec, and for
every statement with hypotheses a state and operands that meet them all. -/

namespace Sys2Proof.Tests

set_option Elab.async false
set_option linter.unusedVariables false

open Sys2Proof Sys2Proof.Machine

/-- A running device with a work state. -/
def st (w : Work) : State := { State.reset with work := w }

/-- The work state after reset with some registers written. -/
def wk (l : List (Nat × Nat)) : Work := l.foldl (fun w p => w.wr p.1 p.2) Work.reset

/-- Beat lock; port 0 up and node 1; the same as acting manager. -/
def lk : List (Nat × Nat) := [(BEAT_STATUS, 1)]
def net : List (Nat × Nat) := [(LINK_STATUS 0, 1), (NODE, 1)]
def man : List (Nat × Nat) := net ++ [(MGR_STATUS, 2), (BEAT_STATUS, 1)]

/-- A packet of a type from node 7 to this device. -/
def pk (type job wq crew : Nat) (l : List Byte) : Packet :=
  { ver := 1, type := type, flags := 0, job := job, gen := 0, tc := 0, src := 7, dst := 1, wq := wq, psn := 0, crew := crew,
    len := l.length, lseq := 0, lack := 0, xmax := 0, nakCode := 0, sent := 0, rsvd := 0, payload := l }

/-- A CONTROL packet, and its message. -/
def msg (op crew : Nat) (body : List Byte) : Packet :=
  pk 6 0 1 0 (toBE 2 op ++ toBE 2 crew ++ zeros 4 ++ toBE 2 body.length ++ [0, 1] ++ zeros 4 ++ body)
def ctl (op crew : Nat) (body : List Byte) : Ctrl := { op := op, crew := crew, msgId := 0, part := 0, parts := 1, body := body }

/-- A program without slots. -/
def prog0 : Prog :=
  { id := 0, len := 100, driveEnd := 50, crew := 1, finishLead := 2, variant := 0, stretchLimit := 10, slots := [], conds := [] }
def slot0 (action : Nat) : Slot := { offset := 0, len := 1, action := action, dep := 0xFFFF, units := 0, desc := 0 }
def prog1 (action : Nat) : Prog := { prog0 with slots := [slot0 action] }

/-- A program of one beat without slots, as memory holds it. -/
def progBytes : List Byte := zeros 28 ++ toLE 4 (crc32c (zeros 28))
def Checked.prog (x : Checked) : Prog := match x with | .ok p => p | _ => prog0
def Checked.no (x : Checked) : Nat := match x with | .bad n => n | .badCond n => n | _ => 0

/-- Crew 1 with members of nodes 1 and 7. -/
def crew1 : Crew :=
  { num := 1, stroke := true, pos := 0, job := 2, wqBase := 16, keeper := 1, keepAddr := 0,
    members := [{ node := 1, logical := 0, ports := 0 }, { node := 7, logical := 1, ports := 0 }] }

/-- A step record of one stroke and one lane whose micro-batch table is zero. -/
def stepHead : List Byte := zeros 4 ++ [1, 1] ++ zeros 10 ++ toLE 8 4096 ++ zeros 36
def stepRec : List Byte := stepHead ++ toLE 4 (crc32c (stepHead ++ zeros 16))

/-- A marker of a beat with finishes. -/
def mark (beat : Nat) (fins : List (Nat × Nat)) : List Byte :=
  toBE 5 beat ++ zeros 3 ++ toBE 2 1000 ++ [0, BitVec.ofNat 8 fins.length] ++ zeros 4 ++
    fins.flatMap (fun f => toBE 2 f.1 ++ toBE 5 f.2 ++ [0])

/-- Context x of core 0 in RUN at address 0, where the bytes given stand. -/
def cx (x : Nat) (k : Ctx) (b : List Byte) : Work :=
  { wk [if x = 16 then (VEC_STATUS 0, 1) else (MAC_STATUS 0 (x / 2), 2 ^ (1 + 3 * (x % 2)))] with
    ctxs := [(x, k)], mem := cellsOf (spadBase 0) b }

/-- A command code of 32 bytes padded with zeros. -/
def ins (l : List Byte) : List Byte := l ++ zeros (32 - l.length)

/-- A straggler's beat that falls on beat 0, whatever the crew's length and limit. -/
theorem straggler_zero (x k : Nat) : beatBefore 0 (beatAdd (beatAdd (2 ^ 64 - (x + k) % 2 ^ 64) x) k) = false := by
  have h : beatAdd (beatAdd (2 ^ 64 - (x + k) % 2 ^ 64) x) k = 0 := by unfold beatAdd; omega
  rw [h]; decide

/-! Packets with a block: what they say follows without spelling the block out. -/

/-- A DATA packet of 4,096 zero bytes for address 4,096 with poison map 5 and a check. -/
def dataPk (c : Nat) : Packet :=
  pk 0 0 1 0 (toBE 8 4096 ++ (zeros 8 ++ (zeros 4096 ++ (toBE 4 c ++ (toBE 2 5 ++ zeros 2)))))

/-- Its true check. -/
def dataCrc : Nat := crc32c (zeros 4096 ++ toBE 2 5)

theorem dataPk_block (c : Nat) (h : c < 4294967296) :
    blockOf (dataPk c) = { issuer := { unit := 1220, gen := 0 }, eight := none, dest := 4096, source := 7, data := zeros 4096, check := c, poisonMap := 5 } := by
  simp [blockOf, dataPk, pk, beAt, sub_left, sub_right, sub_whole, beNat_toBE, h]

theorem dataPk_ok (c : Nat) : dataOk (dataPk c) = true := by
  simp [dataOk, dataPk, pk, beAt, sub_left, sub_right, sub_whole, beNat_toBE, allZero_zeros, apertureBase]

theorem dataPk_check {c : Nat} (h : c < 4294967296) :
    (let b := blockOf (dataPk c); crc32c (b.data ++ toBE 2 b.poisonMap) = b.check) ↔ dataCrc = c := by
  rw [dataPk_block c h]; exact Iff.rfl

theorem dataPk_true : (let b := blockOf (dataPk dataCrc); crc32c (b.data ++ toBE 2 b.poisonMap) = b.check) :=
  (dataPk_check (crc32c_lt _)).2 rfl

theorem dataPk_false : (let b := blockOf (dataPk ((dataCrc + 1) % 2 ^ 32)); crc32c (b.data ++ toBE 2 b.poisonMap) ≠ b.check) := by
  have := crc32c_lt (zeros 4096 ++ toBE 2 5)
  exact mt (dataPk_check (by omega)).1 (by simp only [dataCrc]; omega)

/-- A packet of an open job is kept whatever its payload, where it is kept without one. -/
theorem receives_body {s : State} {k : Fin 40} {p : Packet} {type : Nat} (l : List Byte) (h : s.Receives k p type)
    (ha : s.work.frameBytes k.val { p with payload := l, len := l.length } ≤ 9216) (h0 : p.payload = [] ∧ p.len = 0) (hj : (s.work.jobEnt p.job).state = 1 ∧ (s.work.jobEnt p.job).anyGen = true) :
    s.Receives k { p with payload := l, len := l.length } type := by
  refine ⟨h.1, ?_, ?_, h.2.2.2⟩
  · have h2 := h.2.1
    simp only [Work.arrives, Bool.and_eq_true, decide_eq_true_eq] at h2 ⊢
    exact ⟨h2.1, ha⟩
  have h3 := h.2.2.1
  simp only [Work.accepts, Work.headerOk, Work.stale, Work.jobOk, Work.queueOk, untracked, h0.1, h0.2, hj.1, hj.2,
    Bool.and_eq_true, beq_self_eq_true, Bool.true_or, Bool.or_true, Bool.true_and, List.length_nil] at h3 ⊢
  exact h3

/-- An ACC packet of AS8 bytes for address 4,096, one of two, and its contribution. -/
def accPk (seq : Nat) (d : List Byte) : Packet :=
  pk 1 0 1 0 (toBE 8 4096 ++ (toBE 2 seq ++ (toBE 2 2 ++ (toBE 1 2 ++ (toBE 1 0 ++ (toBE 2 0 ++ (toBE 8 65536 ++ (toBE 8 0 ++ (d ++
    (toBE 4 (crc32c (d ++ toBE 2 0)) ++ (toBE 2 0 ++ zeros 2)))))))))))
def accC (seq : Nat) (d : List Byte) : Contribution :=
  { dest := 4096, seq := seq, count := 2, fmt := 2, xexp := 0, notify := 65536, rsvd := 0, job := 0, gen := 0, data := d,
    lost := false, poisonMap := 0, ovf := false, xmax := 0 }

theorem accPk_contrib (seq : Nat) (d : List Byte) (h : seq < 65536) (hd : d.length = 1024) : contribOf (accPk seq d) false = some (accC seq d) := by
  have h3 : sext 8 0 = 0 := by decide
  have h4 : beNat (zeros 2) = 0 := by decide
  simp [contribOf, accPk, accC, pk, beAt, sub_left, sub_right, sub_whole, beNat_toBE, h, h3, h4, hd]

theorem accPk_check (seq : Nat) (d : List Byte) (hd : d.length = 1024) :
    crc32c ((accC seq d).data ++ toBE 2 (accC seq d).poisonMap) = beAt (accPk seq d).payload ((accPk seq d).payload.length - 8) 4 := by
  have := crc32c_lt (d ++ toBE 2 0)
  simp [accPk, accC, pk, beAt, sub_left, sub_right, sub_whole, beNat_toBE, hd]
  omega

/-- The same with a check that does not match. -/
def accBad (seq : Nat) (d : List Byte) : Packet :=
  pk 1 0 1 0 (toBE 8 4096 ++ (toBE 2 seq ++ (toBE 2 2 ++ (toBE 1 2 ++ (toBE 1 0 ++ (toBE 2 0 ++ (toBE 8 65536 ++ (toBE 8 0 ++ (d ++
    (toBE 4 ((crc32c (d ++ toBE 2 0) + 1) % 2 ^ 32) ++ (toBE 2 0 ++ zeros 2)))))))))))

theorem accBad_contrib (seq : Nat) (d : List Byte) (h : seq < 65536) (hd : d.length = 1024) :
    contribOf (accBad seq d) false = some (accC seq d) := by
  have h3 : sext 8 0 = 0 := by decide
  have h4 : beNat (zeros 2) = 0 := by decide
  simp [contribOf, accBad, accC, pk, beAt, sub_left, sub_right, sub_whole, beNat_toBE, h, h3, h4, hd]

theorem accBad_check (seq : Nat) (d : List Byte) (hd : d.length = 1024) :
    crc32c ((accC seq d).data ++ toBE 2 (accC seq d).poisonMap) ≠ beAt (accBad seq d).payload ((accBad seq d).payload.length - 8) 4 := by
  have := crc32c_lt (d ++ toBE 2 0)
  simp [accBad, accC, pk, beAt, sub_left, sub_right, sub_whole, beNat_toBE, hd]
  omega

theorem accC_form (seq : Nat) (d : List Byte) (h : seq < 2) (hd : d.length = 1024) : malformedContrib (accC seq d) = false := by
  have : seq = 0 ∨ seq = 1 := by omega
  rcases this with rfl | rfl <;> simp [malformedContrib, accC, accBytes, apertureBase, hd]

/-- A RING packet of one segment for bucket 3, and what it says. -/
def ringPk (d : List Byte) : Packet :=
  pk 9 0 0 0 (toBE 2 3 ++ (toBE 1 0 ++ (toBE 1 1 ++ (toBE 4 0 ++ (toBE 2 0 ++ (toBE 2 1 ++ (toBE 1 0 ++ (toBE 1 0 ++ (toBE 1 0 ++ (toBE 1 0 ++ (zeros 16 ++ (d ++
    (toBE 4 (crc32c (d ++ toBE 2 0)) ++ (toBE 2 0 ++ zeros 2))))))))))))))
def ringR (d : List Byte) : Ring :=
  { bucket := 3, level := 0, gather := false, notice := false, redo := false, seg := 0, nseg := 1, shard := 0, hops := 1,
    xexp := [0, 0, 0, 0], data := d, map := 0, job := 0, gen := 0, ovf := false, xmax := 0, intact := true }

theorem ringPk_ring (d : List Byte) (hd : d.length = 2048) : ringOf (ringPk d) = some (ringR d) := by
  have h3 : sext 8 0 = 0 := by decide
  have h4 : List.range 4 = [0, 1, 2, 3] := by decide
  have hc := crc32c_lt (d ++ toBE 2 0)
  simp [ringOf, ringPk, ringR, pk, beAt, sub_left, sub_right, sub_whole, beNat_toBE, allZero_zeros, h3, h4, hd]
  omega

theorem ringR_fits (d : List Byte) (hd : d.length = 2048) (b : Bucket) (h : b.stages.length = 1 ∧ (b.stage 0).n = 2 ∧ b.shard 0 0 = (0, 1)) : (ringR d).fits b = true := by
  simp [Ring.fits, ringR, levelFmt, segLen, perPacket, hd, h.1, h.2.1, h.2.2]


/-! An MMA of two zero operands. -/

def mmaB : List Byte := ins ([1, 0, 2, 2, 5, 0] ++ toLE 2 1 ++ toLE 4 4096 ++ toLE 4 8192)
def mmaS : State := st (cx 0 {} mmaB)

theorem mmaS_run : ∃ r, mmaS.work.mmaRun 0 (opdOf (zeros 32)) (opdOf (zeros 32)) (leAt mmaB 8 4) (leAt mmaB 12 4)
    (shapeMN (leAt mmaB 1 1 % 4) (mmaS.work.ctx 0 0).split).1 (shapeMN (leAt mmaB 1 1 % 4) (mmaS.work.ctx 0 0).split).2
    (leAt mmaB 6 2) (if (leAt mmaB 1 1).testBit 2 then List.replicate (tileSize (leAt mmaB 1 1 % 4) (mmaS.work.ctx 0 0).split) 0
      else mmaS.work.tileGet 0 0 (mmaS.work.ctx 0 0).split (leAt mmaB 1 1 % 4) (leAt mmaB 4 1)) = some r ∧ r.poison = false :=
  Work.Clean.mmaRun (by decide +kernel) _ _ _ _ _ _ _ _ _ (by decide +kernel) (by decide +kernel) (by decide +kernel) (by decide +kernel)

/-! The identity's bytes are opaque: what memory and a message say of them follows without spelling them out. -/

def deputyW : Work := { wk [(BEAT_STATUS, 1), (NODE_TABLE_COUNT, 1)] with mem := cellsOf 0 (identBytes ++ [9, 0, 4, 0, 0, 0]) }

theorem deputyW_bytes : deputyW.bytes 0 22 = identBytes ++ [9, 0, 4, 0, 0, 0] := by
  refine List.ext_getElem (by simp [Work.bytes, identBytes]) (fun i h1 h2 => ?_)
  simpa [Work.bytes, Work.byte, deputyW] using cellAt_cellsOf 0 _ i h2

theorem deputyW_table : deputyW.nodeTable.find? (fun e => e.kind == 4 && e.ident == identBytes) =
    some { ident := identBytes, node := 9, kind := 4, position := 0 } := by
  have h1 : deputyW.nodeTable = [NodeEnt.mk (sub (deputyW.bytes 0 22) 0 16) (leNat (sub (deputyW.bytes 0 22) 16 2))
    (leNat (sub (deputyW.bytes 0 22) 18 1)) (leNat (sub (deputyW.bytes 0 22) 20 2))] := rfl
  have h2 : sub (deputyW.bytes 0 22) 0 16 = identBytes := by rw [deputyW_bytes]; rfl
  have h3 : sub (deputyW.bytes 0 22) 16 2 = [9, 0] ∧ sub (deputyW.bytes 0 22) 18 1 = [4] ∧ sub (deputyW.bytes 0 22) 20 2 = [0, 0] := by
    rw [deputyW_bytes]; exact ⟨rfl, rfl, rfl⟩
  rw [h1, h2, h3.1, h3.2.1, h3.2.2]
  simp [leNat]

theorem joined_hears : (st { wk net with mgr := { mgrNode := some 7 } }).Hears 0 (msg 3 0 (identBytes ++ [0, 9, 2, 0])) 3
    (ctl 3 0 (identBytes ++ [0, 9, 2, 0])) :=
  ⟨receives_body (p := pk 6 0 1 0 []) _ (by decide +kernel) (by decide +kernel) (by decide +kernel) (by decide +kernel), rfl, rfl⟩

/-- A running device strapped 11. -/
def st3 (w : Work) : State := { st w with board := { (st w).board with role := 3 } }

theorem joined_hears3 : (st3 { wk net with mgr := { mgrNode := some 7 } }).Hears 0 (msg 3 0 (identBytes ++ [0, 9, 2, 0])) 3
    (ctl 3 0 (identBytes ++ [0, 9, 2, 0])) := joined_hears

/-- Every memory controller serves. -/
def up12 : List (Nat × Nat) := (List.range 12).map (fun m => (MC_STATUS m, 0))

/-! Tensors of FP32 words in memory without marks. -/

theorem kputs_f32 (c : Nat) {t : Tensor} {ws : List Word} (h : t.fmt.val = 0) (h2 : t.addr + 4 * ws.length ≤ 2 ^ 40) :
    kputs c (tensorNarrow t ws).puts = some [(t.addr, wordsLE ws)] := by
  have hp : (tensorNarrow t ws).puts = [(t.addr, wordsLE ws)] := by simp [tensorNarrow, h]
  rw [hp]
  exact kputs_hbm c _ (by simpa [wordsLE_length] using h2)

theorem ktensors_f32 {w : Work} (h : w.Clean) (c : Nat) {t : Tensor} {n : Nat} (ht : t.fmt.val = 0) (ha : t.addr + 4 * n ≤ apertureBase) :
    ktensors c [(t, n)] w = some ([(List.range n).map (fun i => (decodeElem 0 (packedElem 0 (w.bytes t.addr (4 * n)) i)).toF32)], false, w) := by
  have e : n * 32 / 8 = 4 * n := by omega
  have e2 : tensorBytes t n = 4 * n := by simp [tensorBytes, ht, fmtOf, e]
  simp [ktensors, Work.ktensor, ht, scaled, e2, h.kget c ha]

theorem putsServe_up {v : Work} (h : (List.range 12).all v.serves = true) (ps : List Put) : v.putsServe ps = true := by
  simp [Work.putsServe, Work.rangeServes, h]

theorem mapM_kputs_hbm (c : Nat) (os : List (List (Nat × List Byte))) (h : ∀ o ∈ os, ∀ p ∈ o, p.1 + p.2.length ≤ 2 ^ 40) :
    os.mapM (kputs c) = some os := by
  induction os with
  | nil => rfl
  | cons o os ih =>
    rw [List.mapM_cons, kputs_hbm c o (h o (by simp)), ih (fun q hq => h q (by simp [hq]))]
    rfl

/-- A work state whose memory controllers all serve. -/
def up (w : Work) : Work := up12.foldl (fun w p => w.wr p.1 p.2) w

/-! ### Operands that no sender can give are refused -/

theorem test_wf_packet_version : (Instr.data 0 { pk 0 0 0 0 [] with ver := 16 }).wf = false := by decide
theorem test_wf_packet_sent : (Instr.data 0 { pk 0 0 0 0 [] with sent := 65536 }).wf = false := by decide
theorem test_wf_packet_job : (Instr.nak 0 (pk 4 65536 0 0 [])).wf = false := by decide
theorem test_wf_frame_lseq : (Instr.frameReceive 0 (.bad 65536 [0, 0, 0, 0] 1)).wf = false := by decide
theorem test_wf_frame_packet : (Instr.frameReceive 0 (.good { pk 0 0 0 0 [] with psn := 2 ^ 32 })).wf = false := by decide
theorem test_wf_codes : (Instr.fwdProductDone 0 0 [[128]] []).wf = false := by decide
theorem test_wf_csum : (Instr.fwdProductDone 0 0 [[127]] [-129]).wf = false := by decide
theorem test_wf_failed_positions : (Instr.rowWriteUnitDone 0 0 [(1041, 0)] []).wf = false := by decide
theorem test_wf_survey : (Instr.levelSurveyDone 0 0 0 []).wf = false := by decide
theorem test_wf_symbols_twice : (Instr.hbmRead ⟨{ unit := 1056, gen := 0 }, 0⟩ [7, 7] []).wf = false := by decide
theorem test_wf_symbols_range : (Instr.hbmRead ⟨{ unit := 1056, gen := 0 }, 0⟩ [5760] []).wf = false := by decide
theorem test_wf_read_address : (Instr.hbmRead ⟨{ unit := 1056, gen := 0 }, (2 ^ 40)⟩ [] []).wf = false := by decide
theorem test_wf_write_end : (Instr.hbmWrite ⟨{ unit := 1056, gen := 0 }, 2 ^ 40⟩ [1] false ⟨[], []⟩).wf = false := by decide
theorem test_wf_block_empty : (Instr.tblkArrival { issuer := { unit := 1056, gen := 0 }, eight := none, dest := 0, source := 0, data := [], check := 0, poisonMap := 0 }).wf = false := by
  decide
theorem test_wf_block_check :
    (Instr.tblkArrival { issuer := { unit := 1056, gen := 0 }, eight := none, dest := 0, source := 0, data := [1], check := 2 ^ 32, poisonMap := 0 }).wf = false := by decide
theorem test_wf_conversion : (Instr.hkConversionDone 4096).wf = false := by decide
theorem test_wf_register_address : (Instr.registerWrite .controller 4 (2 ^ 32) 0).wf = false := by decide
theorem test_wf_nonce : (Instr.dbgChallenge .jtagMailbox []).wf = false := by decide
theorem test_wf_job_number : (Instr.jobCmdOpen .controller 65536 0).wf = false := by decide
theorem test_wf_job_generation : (Instr.jobCmdFree .controller 0 256).wf = false := by decide
theorem test_wf_accepts : (Instr.data 0 (pk 0 0 0 0 [])).wf = true ∧ (Instr.hbmRead ⟨{ unit := 1056, gen := 255 }, 0⟩ [7, 9] []).wf = true := by decide

theorem test_wf_issuer_unit : (Instr.hbmRead ⟨{ unit := 1221, gen := 0 }, 0⟩ [] []).wf = false := by decide
theorem test_wf_issuer_generation : (Instr.hbmRead ⟨{ unit := 0, gen := 256 }, 0⟩ [] []).wf = false := by decide
theorem test_wf_measured_level : (Instr.rowWriteUnitDone 0 0 [(3, 16)] []).wf = false := by decide
theorem test_wf_service_gap : (Instr.serviceGap ⟨0, 0⟩ (.verify [(1041, 0)] [])).wf = false := by decide
theorem test_wf_survey_level : (Instr.levelSurveyDone 0 0 0 (List.replicate 1024 (16 :: List.replicate 1040 0))).wf = false := by decide +kernel
theorem test_wf_roce_queue :
    (Instr.roceInvalidRequest { host := 0, wq := 65536, qp := 0, bound := none } false).wf = false := by decide

/-! ### The spec's worked examples -/

/-- File 15, worked example: OSCALE index 70 of tile 0 in core 6, and MC_STATUS of stack 7. -/
theorem test_addresses : OSCALE 6 0 70 = 0x101A0918 ∧ MC_STATUS 7 = 0x01070004 := by decide

/-- File 1, worked example: 3,000 beats before the wrap, the finish at beat 2,000 is 5,000 beats ahead. -/
theorem test_beats_across_the_wrap : beatsAhead 0xFFFFFFF448 2000 = 5000 ∧ beatBefore 0xFFFFFFF448 2000 = true := by decide

/-- The product of the examples: one driven pass of logical deck 2 at RANGE 1, the OSCALE of group 21 at 1.25, with a column offset,
gain and drift gain for column 700. -/
def product6 (off : Int) (gain drift : Nat) : Product :=
  { for_ := .train 0 0, ldeck := 2, phys := 2, start := 0, passes := 1, driven := [true], cols := [], sums := [], cfg := 1, chk := 0,
    scales := List.replicate 32 20480, coefs := { off := [(700, off)], gain := [(700, gain)], drift := drift }, sum := 20480, xexp := -7,
    checked := false, follow := false, poisoned := false }

/-- File 2, worked example: the code 57 of column 700 gives the partial 295. -/
theorem test_column_correction : (product6 (-6) 33536 32320).rawPart [List.replicate 700 0 ++ [57]] 700 = 295 := by decide +kernel

/-- File 4, worked example: with the coefficients measured anew the same code gives 300. -/
theorem test_column_recalibrated : (product6 (-5) 33465 33024).rawPart [List.replicate 700 0 ++ [57]] 700 = 300 := by decide +kernel

/-- File 4, worked example: the offset from a sum of −60 and the gain from 1,503 and −1,505. -/
theorem test_column_units : colOffOf (-60) = -5 ∧ colGainOf 1503 (-1505) = some 33465 := by decide

/-- File 2, worked example: the ten partials of the chain, with the bias 0.01171875, give the BF16 value 185 × 2^−12. -/
theorem test_chain_output :
    (narrowPlain 1 (f32 (fadd (([295, -112, 431, 57, -268, 190, 12, -340, 208, 76] : List Int).foldl (fun a p => fadd a (partialF32 p (-14))) 0)
      0x3C400000)) none).1 = 0x3D39 := by decide +kernel

/-- The blocks of file 6's worked example, from the nearest FP32 values. -/
def blockA : List FV := ([0x402CCCCD, 0xBFF33333, 0x3F4CCCCD, 0x3EE66666] ++ (List.replicate 14 [0x3F800000, 0xBF800000]).flatten).map f32
def blockB : List FV := (0x40A66666 :: (List.replicate 15 [0xBE99999A, 0x3E99999A]).flatten ++ [0xBE99999A]).map f32
def blockC : List FV := (List.replicate 7 0 ++ [0x42500000] ++ List.replicate 24 0).map f32

/-- Block A narrows to NF3 at scale 2 with the codes of the example; the segment begins 0x73 0x90; it does not escape. -/
theorem test_block_a :
    (narrowBlock 9 blockA (some 5) none).scale = some 1 ∧ (narrowBlock 9 blockA (some 5) none).obs = some 2 ∧
    (narrowBlock 9 blockA (some 5) none).codes.take 6 = [3, 6, 1, 0, 1, 5] ∧
    (packElems 9 (narrowBlock 9 blockA (some 5) none).codes).take 2 = [0x73, 0x90] ∧ lossy 9 blockA (some 5) 16 = false := by decide +kernel

/-- Block B escapes; its E4M3 side entry has scale byte 0x79 and the codes of the example. -/
theorem test_block_b :
    lossy 9 blockB (some 5) 16 = true ∧ (narrowBlock 3 blockB (some 5) none).byte = 0x79 ∧
    (narrowBlock 3 blockB (some 5) none).codes.take 3 = [0x7A, 0xDA, 0x5A] ∧ (narrowBlock 3 blockB (some 5) none).obs = some 3 := by
  decide +kernel

/-- Block C saturates to 1.5 at scale 2^5 and stays saturated. -/
theorem test_block_c :
    (narrowBlock 9 blockC (some 5) none).scale = some 5 ∧ (narrowBlock 9 blockC (some 5) none).sat = true ∧
    (narrowBlock 9 blockC (some 5) none).codes.getD 7 0 = 3 ∧ lossy 9 blockC (some 5) 16 = false ∧
    (narrowBlock 9 blockC (some 5) none).obs = some 6 := by decide +kernel

/-- File 6, worked example: the escape offset 0x000B_D6C0 as it stands in the segment. -/
theorem test_escape_offset : toLE 4 (toTwos 32 (0x00100440 - 0x00042D80)) = [0xC0, 0xD6, 0x0B, 0x00] := by decide +kernel

/-! ### Every statement's hypotheses are met -/

/-- Witnesses of Obligations.ResetPinsTakeEffect. -/
theorem test_ResetPinsTakeEffect :
    (∃ (s : State) (straps : Fin 4), s.board.resetL = false ∧ (∃ p ∈ rampClass 0, s.work.pdState p ≠ 6)) ∧
    (∃ (s : State) (straps : Fin 4), s.board.resetL = true) ∧
    (∃ (s : State) (ns : Nat), ns < 1000) ∧
    (∃ (s : State) (ns : Nat), 1000 ≤ ns ∧ s.board.resetL = true ∧ (∀ p < 72, s.work.rd (PD_PHASE p) = 0 ∧ s.work.pdState p ≠ 6)) ∧
    (∃ (s : State), s.board.resetL = false) ∧
    (∃ (s : State), s.board.resetL = true ∧ s.work.start.burn = none ∧ (∀ p < 72, s.work.rd (PD_PHASE p) = 0 ∧ s.work.pdState p ≠ 6)) ∧
    (∃ (s : State), s.work.start.burn = none) :=
  ⟨⟨{ State.reset with board := { State.reset.board with resetL := false } }, 2, by (repeat' apply And.intro) <;> decide +kernel⟩,
   ⟨State.reset, 3, by decide +kernel⟩,
   ⟨State.reset, 999, by decide +kernel⟩,
   ⟨State.reset, 1000, by (repeat' apply And.intro) <;> decide +kernel⟩,
   ⟨{ State.reset with board := { State.reset.board with resetL := false } }, by decide +kernel⟩,
   ⟨State.reset, by (repeat' apply And.intro) <;> decide +kernel⟩,
   ⟨State.reset, by decide +kernel⟩⟩

/-- Witnesses of Obligations.ReferenceClockLossResetsAndReturnGoesOn. -/
theorem test_ReferenceClockLossResetsAndReturnGoesOn :
    (∃ s : State, s.board.alive = true) ∧
    (∃ s : State, s.board.refclk = false ∧ s.work.start.domainDark = true) :=
  ⟨⟨State.reset, by decide +kernel⟩,
   ⟨{ st { wk [] with start := { domainDark := true } } with board := { State.reset.board with refclk := false } }, by (repeat' apply And.intro) <;> decide +kernel⟩⟩

/-- Witnesses of Obligations.ImagesLoadAndStartUpEnds, part 1. -/
theorem test_ConfigurationLoadCompletes :
    (∃ (s : State) (a b : Bool) (m : Fin 6), s.board.alive = true ∧ s.work.start.discovered = false ∧ s.work.start.ramped = true) ∧
    (∃ (s : State) (img : List Byte) (us : Nat), s.board.alive = true ∧ s.work.start.discovered = true ∧ s.work.start.applied = false ∧
     s.work.start.image = none ∧ s.work.flag CFG_STATUS 1 = false ∧ imgReadCause img ≠ 0 ∧ s.work.start.reread = false) ∧
    (∃ (s : State) (img : List Byte) (us : Nat), s.board.alive = true ∧ s.work.start.discovered = true ∧ s.work.start.applied = false ∧
     s.work.start.image = none ∧ s.work.flag CFG_STATUS 1 = false ∧ (imgReadCause img = 0 ∨ s.work.start.reread = true)) ∧
    (∃ s : State, s.board.alive = true ∧ s.work.start.applied = false ∧ (s.work.start.image.isSome || s.work.flag CFG_STATUS 1) = true ∧
     s.work.stacksReady = true) :=
  ⟨⟨st { wk [] with start := { ramped := true } }, false, true, 5, by (repeat' apply And.intro) <;> decide +kernel⟩,
   ⟨st { wk [] with start := { discovered := true } }, [], 7, by (repeat' apply And.intro) <;> decide +kernel⟩,
   ⟨st { wk [] with start := { discovered := true, reread := true } }, [], 7, by (repeat' apply And.intro) <;> decide +kernel⟩,
   ⟨st { wk [(CFG_STATUS, 2)] with memcs := (List.range 12).map (fun m => (m, { ready := true })) }, by (repeat' apply And.intro) <;> decide +kernel⟩⟩

/-- Witnesses of Obligations.ImagesLoadAndStartUpEnds, part 2. -/
theorem test_StartUpEndsAndFusesBurn :
    (∃ s : State, s.board.alive = true ∧ s.work.readyNow s.board = true) ∧
    (∃ (s : State) (v : Nat), s.board.alive = true ∧ s.work.start.burn = some v ∧ s.work.flag CFG_SECVER 14 = true) ∧
    (∃ (s : State) (m : Fin 12), s.board.alive = true ∧ s.work.start.ramped = true ∧ (s.work.memc m.val).ready = false ∧
     (s.work.memc m.val).zero = none) ∧
    (∃ (s : State) (x : Bool) (a : Fin 128), s.board.answers = true ∧ s.work.start.ramped = true ∧ s.work.access.i3cAddr = none) ∧
    (∃ (s : State) (x : Bool) (a : Fin 128), s.board.answers = true ∧ s.work.access.i3cAddr.isSome = true) ∧
    (∃ s : State, s.board.answers = true ∧ s.work.start.ramped = true ∧ s.work.access.i3cAddr = none) :=
  ⟨⟨st { wk ([(BEAT_STATUS, 1), (NODE, 1)] ++ (List.range 16).map (fun i => (PD_STATUS (4 * i + 3), 0))) with start := { applied := true }, memcs := (List.range 12).map (fun m => (m, { ready := true })) }, by (repeat' apply And.intro) <;> decide +kernel⟩,
   ⟨st { wk [(CFG_SECVER, 16384)] with start := { burn := some 3 } }, 3, by (repeat' apply And.intro) <;> decide +kernel⟩,
   ⟨st { wk [] with start := { ramped := true } }, 11, by (repeat' apply And.intro) <;> decide +kernel⟩,
   ⟨st { wk [] with start := { ramped := true } }, true, 127, by (repeat' apply And.intro) <;> decide +kernel⟩,
   ⟨st { wk [] with start := { ramped := true }, access := { i3cAddr := some 9 } }, true, 127, by (repeat' apply And.intro) <;> decide +kernel⟩,
   ⟨st { wk [] with start := { ramped := true } }, by (repeat' apply And.intro) <;> decide +kernel⟩⟩

/-- Witnesses of Obligations.BeatEdgesAdvanceCountersAndCoxes, part 1. -/
theorem test_BeatEdgesAdvanceTheCounter :
    (∃ (s : State) (after : Nat), s.board.alive = true ∧ s.work.beat.lossDue = false ∧ s.work.beatSrc = 0 ∧
     s.work.ownNumbers s.board = false ∧ s.work.locked = true ∧ s.work.edgeGood after = true ∧ s.work.beat.sinceMarker = 0 ∧ s.work.Quiet) ∧
    (∃ (s : State) (after : Nat), s.board.alive = true ∧ s.work.beat.lossDue = false ∧ s.work.beatSrc = 0 ∧ s.work.locked = true ∧
     s.work.edgeGood after = false) ∧
    (∃ s : State, s.board.alive = true ∧ s.work.beat.lossDue = false ∧ s.work.locked = true ∧ s.work.ownNumbers s.board = false ∧
     s.work.beat.fly + 1 ≤ s.work.flyMax ∧ s.work.Quiet) ∧
    (∃ s : State, s.board.alive = true ∧ s.work.beat.lossDue = false ∧ s.work.locked = true ∧ s.work.ownNumbers s.board = false ∧
     s.work.flyMax < s.work.beat.fly + 1) :=
  ⟨⟨st (wk (lk ++ [(BEAT_CTL, 0x103f0000)])), 1050, by (repeat' apply And.intro) <;> decide +kernel⟩,
   ⟨st (wk (lk ++ [(BEAT_CTL, 0x103f0000)])), 1051, by (repeat' apply And.intro) <;> decide +kernel⟩,
   ⟨st (wk lk), by (repeat' apply And.intro) <;> decide +kernel⟩,
   ⟨st { wk lk with beat := { fly := 64 } }, by (repeat' apply And.intro) <;> decide +kernel⟩⟩

/-- Witnesses of Obligations.BeatLockAndMarkers, part 1. -/
theorem test_LockRunsAndLoss :
    (∃ (s : State) (t : Nat), s.board.alive = true ∧ s.work.locked = false ∧ s.work.beat.lastEdge = some t) ∧
    (∃ s : State, s.board.alive = true ∧ s.work.locked = true ∧ s.work.beat.lossDue = true ∧ s.work.coxes = []) :=
  ⟨⟨st { wk [] with beat := { lastEdge := some 5 } }, 5, by (repeat' apply And.intro) <;> decide +kernel⟩,
   ⟨st { wk lk with beat := { lossDue := true } }, by (repeat' apply And.intro) <;> decide +kernel⟩⟩

/-- Witnesses of Obligations.BeatLockAndMarkers, part 2. -/
theorem test_MarkersAreTakenOrCounted :
    (∃ (s : State) (k : Fin 40) (l : List Byte) (m : Marker), s.board.alive = true ∧ s.work.ownNumbers s.board = false ∧
     s.work.beat.lossDue = false ∧ s.work.hears k.val = true ∧ s.work.markerFrom k.val = true ∧ markerOf l = some m ∧ s.work.beatSrc = 0 ∧
     s.work.locked = true ∧ m.period = s.work.period ∧ 36 ≤ s.work.fld BEAT_CTL 16 6 ∧ inWindow m.beat s.work.beatCnt = true ∧ m.fins = []) ∧
    (∃ (s : State) (k : Fin 40) (l : List Byte) (m : Marker), s.board.alive = true ∧ s.work.ownNumbers s.board = false ∧
     s.work.beat.lossDue = false ∧ s.work.hears k.val = true ∧ s.work.markerFrom k.val = true ∧ markerOf l = some m ∧ s.work.beatSrc = 0 ∧
     s.work.locked = true ∧ m.period = s.work.period ∧ 36 ≤ s.work.fld BEAT_CTL 16 6 ∧ ∃ crew f, inWindow m.beat s.work.beatCnt = true ∧
     m.fins = [(crew, f)] ∧ beatBefore s.work.beatFull f = true ∧ Sp.find s.work.beat.fin crew ≠ some f) ∧
    (∃ (s : State) (k : Fin 40) (l : List Byte) (m : Marker), s.board.alive = true ∧ s.work.ownNumbers s.board = false ∧
     s.work.beat.lossDue = false ∧ s.work.hears k.val = true ∧ s.work.markerFrom k.val = true ∧ markerOf l = some m ∧ s.work.beatSrc = 0 ∧
     s.work.locked = true ∧ m.period = s.work.period ∧ 36 ≤ s.work.fld BEAT_CTL 16 6 ∧ inWindow m.beat s.work.beatCnt = false) ∧
    (∃ (s : State) (k : Fin 40) (l : List Byte), s.board.alive = true ∧ s.work.ownNumbers s.board = false ∧ s.work.beat.lossDue = false ∧
     s.work.hears k.val = true ∧ s.work.markerFrom k.val = true ∧ markerOf l = none) ∧
    (∃ (s : State) (k : Fin 40) (l : List Byte), s.board.alive = true ∧ s.work.hears k.val = false) :=
  ⟨⟨st (wk (lk ++ [(BEAT_CTL, 0x103f0000), (LINK_STATUS 0, 1)])), 0, mark 0 [], ⟨0, 0, 1000, []⟩, by (repeat' apply And.intro) <;> decide +kernel⟩,
   ⟨st (wk (lk ++ [(BEAT_CTL, 0x103f0000), (LINK_STATUS 0, 1)])), 0, mark (2 ^ 40 - 1) [(7, 9)], ⟨2 ^ 40 - 1, 0, 1000, [(7, 9)]⟩,
    by decide +kernel, by decide +kernel, by decide +kernel, by decide +kernel, (by decide +kernel), by decide +kernel, by decide +kernel,
    by decide +kernel, by decide +kernel, (by decide +kernel), 7, 9, by (repeat' apply And.intro) <;> decide +kernel⟩,
   ⟨st (wk (lk ++ [(BEAT_CTL, 0x103f0000), (LINK_STATUS 0, 1)])), 0, mark 1 [], ⟨1, 0, 1000, []⟩, by (repeat' apply And.intro) <;> decide +kernel⟩,
   ⟨st (wk (lk ++ [(BEAT_CTL, 0x103f0000), (LINK_STATUS 0, 1)])), 0, [], by (repeat' apply And.intro) <;> decide +kernel⟩,
   ⟨State.reset, 0, [], by (repeat' apply And.intro) <;> decide +kernel⟩⟩

/-- Witnesses of Obligations.BeatEdgesAdvanceCountersAndCoxes, part 2. -/
theorem test_ACoxAdvancesAtTheEdge :
    (∃ (w : Work) (c : Nat) (p : Prog), c < 1024 ∧ (w.cox c).prog = some p ∧ p.slots = [] ∧ w.coxState c = 2 ∧ w.coxOffset c + 1 < 2 ^ 17) :=
  ⟨(st { wk [(COX_STATUS 0, 2)] with coxes := [(0, { prog := some (prog0) })] }).work, 0, prog0, by (repeat' apply And.intro) <;> decide +kernel⟩

/-- Witnesses of Obligations.ProgramsRunAndSlotsEnd, part 1. -/
theorem test_RunTakesAndReleasesPrograms :
    (∃ (s : State) (path : Path) (c : Fin 1024), s.board.alive = true ∧ s.work.Writable path (COX_CTL c.val) 1 ∧
      (let v := (s.work.wrPlain path (COX_CTL c.val) 1).firstArm
       (s.work.wrPlain path (COX_CTL c.val) 1).coxState c.val = 0 ∧ (s.work.wrPlain path (COX_CTL c.val) 1).mayStroke s.board = true ∧
        v.step.entryBad = false ∧ ∃ p, v.loadProg c.val (v.progBase c.val) = .ok p)) ∧
    (∃ (s : State) (path : Path) (c : Fin 1024), s.board.alive = true ∧ s.work.Writable path (COX_CTL c.val) 1 ∧
      (let v := (s.work.wrPlain path (COX_CTL c.val) 1).firstArm
       (s.work.wrPlain path (COX_CTL c.val) 1).coxState c.val = 0 ∧ (s.work.wrPlain path (COX_CTL c.val) 1).mayStroke s.board = true ∧
        v.step.entryBad = false ∧ ∃ n, v.loadProg c.val (v.progBase c.val) = .bad n)) ∧
    (∃ (s : State) (path : Path) (c : Fin 1024), s.board.alive = true ∧ s.work.Writable path (COX_CTL c.val) 1 ∧
      (let v := (s.work.wrPlain path (COX_CTL c.val) 1).firstArm
       (s.work.wrPlain path (COX_CTL c.val) 1).coxState c.val = 0 ∧ (s.work.wrPlain path (COX_CTL c.val) 1).mayStroke s.board = true ∧
        v.step.entryBad = false ∧ ∃ n, v.loadProg c.val (v.progBase c.val) = .badCond n)) ∧
    (∃ (s : State) (path : Path) (c : Fin 1024), s.board.alive = true ∧ s.work.Writable path (COX_CTL c.val) 0 ∧
      (let v := s.work.wrPlain path (COX_CTL c.val) 0
       (v.coxState c.val = 1 ∨ v.coxState c.val = 6))) ∧
    (∃ (s : State) (path : Path) (c : Fin 1024), s.board.alive = true ∧ s.work.Writable path (COX_CTL c.val) 0 ∧
      (let v := s.work.wrPlain path (COX_CTL c.val) 0
       v.coxState c.val ≠ 1 ∧ v.coxState c.val ≠ 6)) :=
  ⟨⟨st { wk [] with mem := cellsOf (spadBase 0) progBytes }, .controller, 0, by decide +kernel, by decide +kernel, by decide +kernel,
    by decide +kernel, (by decide +kernel),
    Checked.prog ((((st { wk [] with mem := cellsOf (spadBase 0) progBytes } : State).work.wrPlain (.controller : Path) (COX_CTL (0 : Fin 1024).val) 1).firstArm).loadProg 0 ((((st { wk [] with mem := cellsOf (spadBase 0) progBytes } : State).work.wrPlain (.controller : Path) (COX_CTL (0 : Fin 1024).val) 1).firstArm).progBase 0)), by decide +kernel⟩,
   ⟨State.reset, .controller, 0, by decide +kernel, by decide +kernel, by decide +kernel, by decide +kernel, (by decide +kernel), 1, by decide +kernel⟩,
   ⟨st { wk [(COND_COUNT 0, 1)] with mem := cellsOf (spadBase 0) progBytes }, .controller, 0, by decide +kernel, by decide +kernel,
    by decide +kernel, by decide +kernel, (by decide +kernel),
    Checked.no ((((st { wk [(COND_COUNT 0, 1)] with mem := cellsOf (spadBase 0) progBytes } : State).work.wrPlain (.controller : Path) (COX_CTL (0 : Fin 1024).val) 1).firstArm).loadProg 0 ((((st { wk [(COND_COUNT 0, 1)] with mem := cellsOf (spadBase 0) progBytes } : State).work.wrPlain (.controller : Path) (COX_CTL (0 : Fin 1024).val) 1).firstArm).progBase 0)), by decide +kernel⟩,
   ⟨st { wk [(COX_STATUS 0, 6)] with coxes := [(0, { prog := some (prog0) })] }, .controller, 0, by (repeat' apply And.intro) <;> decide +kernel⟩,
   ⟨st { wk [(COX_STATUS 0, 2)] with coxes := [(0, { prog := some (prog0) })] }, .controller, 0, by (repeat' apply And.intro) <;> decide +kernel⟩⟩

/-- Witnesses of Obligations.ProgramsRunAndSlotsEnd, part 2. -/
theorem test_LocalCatchIsWritten :
    (∃ (s : State) (path : Path) (v : Word), s.board.alive = true ∧ s.work.Writable path LOCAL_CATCH v.toNat) :=
  ⟨State.reset, .controller, 5, by (repeat' apply And.intro) <;> decide +kernel⟩

/-- Witnesses of Obligations.ProgramsRunAndSlotsEnd, part 3. -/
theorem test_SlotsOverrunAndComplete :
    (∃ (s : State) (c : Fin 1024) (n : Nat) (sl : Slot), s.board.alive = true ∧ s.work.slotAt c.val n = some sl ∧
     (s.work.coxState c.val = 2 ∨ s.work.coxState c.val = 3) ∧ ((Sp.find (s.work.cox c.val).runs n).getD { state := 0 }).state < 2 ∧
     sl.offset + sl.len ≤ s.work.coxOffset c.val) ∧
    (∃ (s : State) (c : Fin 1024) (n : Nat) (p : Prog) (sl : Slot), s.board.alive = true ∧ (s.work.cox c.val).prog = some p ∧
     p.slots[n]? = some sl ∧ sl.action = 5 ∧ (s.work.cox c.val).running n = true ∧ p.condsOf n = []) :=
  ⟨⟨st { wk [(COX_STATUS 0, 2), (COX_STATUS 0, 18)] with coxes := [(0, { prog := some (prog1 5) })] }, 0, 0, slot0 5, by (repeat' apply And.intro) <;> decide +kernel⟩,
   ⟨st { wk [(COX_STATUS 0, 3)] with coxes := [(0, { prog := some (prog1 5), runs := [(0, { state := 1 })] })] }, 0, 0, prog1 5, slot0 5, by (repeat' apply And.intro) <;> decide +kernel⟩⟩

/-- Witnesses of Obligations.LanesArePreparedAndReadyIsSent, part 1. -/
theorem test_LanesArePrepared :
    (∃ s : State, s.board.alive = true ∧ s.work.prepDue = true ∧ s.work.step.refused = false ∧ s.work.stroke.prepared = false ∧
     s.work.step.inStep = true ∧ s.work.step.stroke + 1 < s.work.step.strokes) ∧
    (∃ s : State, s.board.alive = true ∧ s.work.prepDue = true ∧ s.work.step.refused = false ∧ s.work.stroke.prepared = false ∧
     s.work.flag STEP_CTL 0 = true ∧ s.work.step.inStep = false ∧ s.work.feedReady = false) ∧
    (∃ s : State, s.board.alive = true ∧ s.work.prepDue = true ∧ s.work.step.refused = false ∧ s.work.stroke.prepared = false ∧
     s.work.flag STEP_CTL 0 = true ∧ s.work.step.inStep = false ∧ s.work.feedReady = true ∧
      (let a := s.work.base FEED_BASE_LO FEED_BASE_HI + 64 * s.work.fld FEED_HEAD 0 16
       let r := s.work.bytes a 64
       inStacks a 64 = true ∧ s.work.unfolded = [] ∧ s.work.stepCheck r = 0)) :=
  ⟨⟨st { wk [(COX_STATUS 0, 4), (STEP_CTL, 1)] with coxes := [(0, {})], step := { inStep := true, strokes := 2 } }, by (repeat' apply And.intro) <;> decide +kernel⟩,
   ⟨st { wk [(COX_STATUS 0, 1), (STEP_CTL, 1)] with coxes := [(0, {})] }, by (repeat' apply And.intro) <;> decide +kernel⟩,
   ⟨st { wk [(COX_STATUS 0, 1), (STEP_CTL, 1), (FEED_SIZE, 2), (FEED_TAIL, 1)] with coxes := [(0, {})], mem := cellsOf 0 stepRec }, by (repeat' apply And.intro) <;> decide +kernel⟩⟩

/-- Witnesses of Obligations.LanesArePreparedAndReadyIsSent, part 2. -/
theorem test_AnEmptyHeatIsWrittenInItsLane :
    (∃ (w : Work) (q : Nat), w.heatOf q = [] ∧ inStacks (w.laneBuf q) (8256 + 8 * w.laneCap) = true ∧ w.step.stroke < 256) ∧
    (∃ (w : Work) (q : Nat), w.heatOf q = [] ∧ inStacks (w.laneBuf q) (8256 + 8 * w.laneCap) = true ∧ w.step.stroke < 256 ∧
     ∃ i, i < w.laneCap) ∧
    (∃ (w : Work) (q : Nat), w.heatOf q = [] ∧ inStacks (w.laneBuf q) (8256 + 8 * w.laneCap) = true ∧ w.step.stroke < 256 ∧
     ∃ a, (a < w.laneBuf q ∨ w.laneBuf q + 8256 + 8 * w.laneCap ≤ a)) :=
  ⟨⟨Work.reset, 0, by (repeat' apply And.intro) <;> decide +kernel⟩,
   ⟨Work.reset, 0, by decide +kernel, by decide +kernel, by decide +kernel, 0, by decide +kernel⟩,
   ⟨Work.reset, 0, by decide +kernel, by decide +kernel, by decide +kernel, 2 ^ 38, by decide +kernel⟩⟩

/-- Witnesses of Obligations.LanesArePreparedAndReadyIsSent, part 3. -/
theorem test_ReadyIsSentAndCollected :
    (∃ w : Work, w.readyDue = true ∧ w.stroke.readyFrom = none) ∧
    (∃ (s : State) (a : Nat), s.board.alive = true ∧ s.work.readyDue = true ∧ s.work.stroke.readyFrom = some a ∧ s.work.noManager = true) ∧
    (∃ (s : State) (a : Nat), s.board.alive = true ∧ s.work.readyDue = true ∧ s.work.stroke.readyFrom = some a ∧
     ∃ p, s.work.noManager = false ∧ s.work.waitingProgs = [p]) ∧
    (∃ (s : State) (k : Fin 40) (p : Packet), s.Receives k p 5 ∧ p.payload.length = 32 ∧ s.work.acting = true ∧
      (let n := beAt p.payload 0 2
       n < 1024 ∧ (s.work.crewNodes n).contains p.src = true ∧ beAt p.payload 2 1 = 0 ∧ (s.work.mcrew n).roll = none ∧
        (s.work.mcrew n).restore = none ∧ (s.work.mcrew n).lost = false ∧ (s.work.mcrew n).on = true ∧
        (s.work.mcrew n).catchAt = beAt p.payload 4 8 ∧ (∃ m ∈ s.work.crewNodes n, m ∉ p.src :: (s.work.mcrew n).ready))) ∧
    (∃ (s : State) (n : Fin 1024), s.board.alive = true ∧ s.work.acting = true ∧
     ((s.work.mcrew n.val).on = true ∨ (s.work.mcrew n.val).began = false) ∧ (s.work.mcrew n.val).fin = none ∧
     (∃ m ∈ s.work.crewNodes n.val, m ∉ (s.work.mcrew n.val).ready) ∧
     beatBefore s.work.beatFull (beatAdd ((s.work.mcrew n.val).nominal n.val) (Config.crewLimit n.val (s.work.mcrew n.val).variant)) = false ∧
     s.work.locked = true ∧ s.work.fault.beacons = []) :=
  ⟨⟨{ wk [(BEAT_STATUS, 1), (COX_STATUS 0, 4)] with coxes := [(0, { prog := some prog0 })], stroke := { active := true } }, by (repeat' apply And.intro) <;> decide +kernel⟩,
   ⟨st { wk [(BEAT_STATUS, 1), (COX_STATUS 0, 4)] with coxes := [(0, { prog := some prog0 })], stroke := { active := true, readyFrom := some 3 } },
    3, by (repeat' apply And.intro) <;> decide +kernel⟩,
   ⟨st { wk [(BEAT_STATUS, 1), (COX_STATUS 0, 4)] with coxes := [(0, { prog := some prog0 })], stroke := { active := true, readyFrom := some 3 }, mgr := { claimSeen := true } },
    3, by decide +kernel, by decide +kernel, by decide +kernel, prog0, by (repeat' apply And.intro) <;> decide +kernel⟩,
   ⟨st { wk man with crews := [{ crew1 with members := crew1.members ++ [{ node := 8, logical := 2, ports := 0 }] }], mgr := { crews := [(1, { on := true })] } },
    0, pk 5 0 1 1 (toBE 2 1 ++ zeros 30), by (repeat' apply And.intro) <;> decide +kernel⟩,
   ⟨st { wk man with crews := [crew1], mgr := { crews := [(1, { on := true, began := true, catchAt := 2 ^ 64 - (Config.crewLength 1 0 - 1 + Config.crewLimit 1 0) % 2 ^ 64 })] } },
    1, by
     refine ⟨?_, ?_, ?_, ?_, ?_, ?_⟩
     iterate 5 decide +kernel
     refine ⟨?_, ?_, ?_⟩
     exact straggler_zero _ _
     iterate 2 decide +kernel⟩⟩

/-- Witnesses of Obligations.ForwardProductsRunToTheirOutputs, part 1. -/
theorem test_ForwardProductsAreIssued :
    (∃ (s : State) (c : Fin 1024) (t : Fin 16) (r : FwdRun) (i : Nat) (e : FwdEntry) (inp xb : List Byte) (x at_ : Nat), s.board.alive = true ∧
     ((s.work.fwdOf c.val).findSome? (fun q => (q.2.pick t.val).map (fun i => (q.2, i))) = some (r, i)) ∧ r.entries[i]? = some e ∧
     ((if r.next i = 0 then some 0 else r.chainEnd i (r.next i - 1)) = some x) ∧
      (let ph := s.work.phys c.val t.val e.deck
       let ready := if r.begun t.val then s.work.driveTime c.val t.val ph
                    else max s.work.now (max (s.work.tile c.val t.val).freeFrom (r.launch + 64))
       s.work.capTime c.val t.val (max x ready) = some at_ ∧ s.work.held c.val t.val = false ∧
        s.work.localGet c.val (r.inBase + 1024 * (r.next i * r.rowSegs + e.rowSeg)) 1024 = some (inp, false) ∧
        s.work.localGet c.val (r.inExp + (r.next i * r.rowSegs + e.rowSeg)) 1 = some (xb, false))) :=
  ⟨st { wk [] with fwd := [(0, { slot := 0, vecCount := 1, inBase := 0, inExp := 4096, outBase := 8192, biasBase := none, rowSegs := 1, outBlks := 1, pexp := 0, entries := [{ tile := 0, deck := 0, last := true, rowSeg := 0, outBlk := 0 }], launch := 0, left := 2 })], mem := cellsOf (spadBase 0) [1] },
    0, 0,
    { slot := 0, vecCount := 1, inBase := 0, inExp := 4096, outBase := 8192, biasBase := none, rowSegs := 1, outBlks := 1, pexp := 0, entries := [{ tile := 0, deck := 0, last := true, rowSeg := 0, outBlk := 0 }], launch := 0, left := 2 },
    0, { tile := 0, deck := 0, last := true, rowSeg := 0, outBlk := 0 }, [1] ++ zeros 1023, [0], 0, 64, by (repeat' apply And.intro) <;> decide +kernel⟩

/-- Witnesses of Obligations.ForwardProductsRunToTheirOutputs, part 2. -/
theorem test_ForwardProductsAreCorrectedAndWritten :
    (∃ (s : State) (c : Fin 1024) (t : Fin 16) (codes : List (List Int)) (csum : List Int) (p : Product) (rest : List Product) (i v : Nat) (q : FwdRun) (e : FwdEntry), s.board.alive = true ∧
     (s.work.tile c.val t.val).flight = p :: rest ∧ p.for_ = .train i v ∧ p.checked = false ∧ p.poisoned = false ∧
     s.work.fwd = [(fwdKey c.val q.slot, q)] ∧ q.slot < 4096 ∧ q.entries = [e] ∧ e.tile = t.val ∧ e.last = true ∧ i = 0 ∧ q.biasBase = none ∧
     q.outBlks = 1 ∧ e.outBlk = 0 ∧ 2 ≤ q.left ∧ q.outBase + v * 2048 + 2048 ≤ 2 ^ 21) ∧
    (∃ (s : State) (c : Fin 1024) (t : Fin 16) (codes : List (List Int)) (csum : List Int) (p : Product) (rest : List Product), s.board.alive = true ∧
     (s.work.tile c.val t.val).flight = p :: rest ∧ p.for_ = .nobody ∧ p.checked = false ∧ p.poisoned = false) ∧
    (∃ (ideal off gain drift c c0 : Int) (s r : Nat),
      (let gd := gain * drift
       let within := fun (k : Int) => (4096 * 2 ^ (33 + 2 * r) * (4 * k - off) - 4096 * ideal * gd).natAbs ≤
         (8192 * 2 ^ (5 + 2 * r) + 15 * s) * gd.natAbs
       0 < gd ∧ within c0)) ∧
    (∃ (p : Product) (codes : List (List Int)) (q j : Nat), p.coefs.valid = true ∧ p.saturates (p.heldCodes codes) [] = false ∧
     q < p.passes ∧ p.driven.getD q false = true ∧ j < 1024) :=
  ⟨⟨st { wk [] with fwd := [(0, { slot := 0, vecCount := 1, inBase := 0, inExp := 4096, outBase := 8192, biasBase := none, rowSegs := 1, outBlks := 1, pexp := 0, entries := [{ tile := 0, deck := 0, last := true, rowSeg := 0, outBlk := 0 }], launch := 0, left := 2 })], tiles := [(0, { flight := [{ newProduct (.train 0 0) 0 false with passes := 1, driven := [true], cols := [List.replicate 1024 0], sums := [1], scales := List.replicate 32 16384, sum := 1 }] })] },
    0, 0, [List.replicate 1024 3], [],
    { newProduct (.train 0 0) 0 false with passes := 1, driven := [true], cols := [List.replicate 1024 0], sums := [1], scales := List.replicate 32 16384, sum := 1 },
    [], 0, 0,
    { slot := 0, vecCount := 1, inBase := 0, inExp := 4096, outBase := 8192, biasBase := none, rowSegs := 1, outBlks := 1, pexp := 0, entries := [{ tile := 0, deck := 0, last := true, rowSeg := 0, outBlk := 0 }], launch := 0, left := 2 },
    { tile := 0, deck := 0, last := true, rowSeg := 0, outBlk := 0 }, by (repeat' apply And.intro) <;> decide +kernel⟩,
   ⟨st { wk [] with tiles := [(0, { flight := [{ newProduct (.nobody) 0 false with passes := 1, driven := [true], cols := [List.replicate 1024 0], sums := [1], scales := List.replicate 32 16384, sum := 1 }] })] },
    0, 0, [List.replicate 1024 3], [],
    { newProduct (.nobody) 0 false with passes := 1, driven := [true], cols := [List.replicate 1024 0], sums := [1], scales := List.replicate 32 16384, sum := 1 },
    [], by (repeat' apply And.intro) <;> decide +kernel⟩,
   ⟨0, 0, 32768, 32768, 99, 0, 0, 0, by (repeat' apply And.intro) <;> decide +kernel⟩,
   ⟨{ newProduct .nobody 0 false with passes := 1, driven := [true], coefs := { valid := true, gain := [], drift := 0 } }, [[7, 3]], 0, 1, by (repeat' apply And.intro) <;> decide +kernel⟩⟩

/-- Witnesses of Obligations.SessionProductsShareTheTiles. -/
theorem test_SessionProductsShareTheTiles :
    (∃ (s : State) (c : Fin 1024) (t : Fin 16) (n : Fin 1024), s.board.alive = true ∧
      (let v := s.work.tile c.val t.val
       let mine := fun (q : SessProduct) => q.core == c.val && q.tile == t.val && q.session == n.val
       let room : Prop := s.work.flag (TILE_CTL c.val t.val) 0 = true ∧ v.queue.length < 32 ∧
         ¬(s.work.flag REPL_STATUS 4 = true ∧ s.work.flag (CAL_STATUS c.val t.val) 2 = true)
       ∃ q, s.work.sess.offers.find? mine = some q ∧ room)) ∧
    (∃ (s : State) (c : Fin 1024) (t : Fin 16) (n : Fin 1024), s.board.alive = true ∧
      (let v := s.work.tile c.val t.val
       let room : Prop := s.work.flag (TILE_CTL c.val t.val) 0 = true ∧ v.queue.length < 32 ∧
         ¬(s.work.flag REPL_STATUS 4 = true ∧ s.work.flag (CAL_STATUS c.val t.val) 2 = true)
       (¬room))) ∧
    (∃ (s : State) (c : Fin 1024) (t : Fin 16) (n : Fin 1024), s.board.alive = true ∧
      (let mine := fun (q : SessProduct) => q.core == c.val && q.tile == t.val && q.session == n.val
       s.work.sess.offers.find? mine = none)) ∧
    (∃ (s : State) (c : Fin 1024) (t : Fin 16) (q : SessProduct) (rest : List SessProduct) (at_ k : Nat) (rc : List Byte) (x : Int) (bad : Bool), s.board.alive = true ∧
     (s.work.tile c.val t.val).queue = q :: rest ∧ s.work.sessRecord q = some (k, rc, x, bad) ∧ s.work.held c.val t.val = false ∧
     s.work.tileServes c.val t.val (s.work.sessionClass q.session) = true ∧ s.work.fault.ftStart = none ∧
      (let ph := s.work.phys c.val t.val k
       s.work.capTime c.val t.val (s.work.sessDriveTime c.val t.val ph) = some at_ ∧ s.work.nextLaunch c.val t.val = none ∧
        (s.work.tile c.val t.val).unitEnd ≤ at_)) ∧
    (∃ (s : State) (path : Path) (c : Fin 1024) (t : Fin 16) (v : Word), s.board.alive = true ∧
     s.work.Writable path (RBUDGET c.val t.val) v.toNat) :=
  ⟨⟨st { wk [] with sess := { fwd := [(3, (0, { slot := 0, vecCount := 1, inBase := 0, inExp := 4096, outBase := 8192, biasBase := none, rowSegs := 1, outBlks := 1, pexp := 0, entries := [{ tile := 0, deck := 0, last := true, rowSeg := 0, outBlk := 0 }], launch := 0, left := 2 }))], offers := [{ session := 3, core := 0, tile := 0, entry := 0, vec := 0 }] }, mem := cellsOf (spadBase 0) [1] },
    0, 0, 3, by decide +kernel, { session := 3, core := 0, tile := 0, entry := 0, vec := 0 }, by (repeat' apply And.intro) <;> decide +kernel⟩,
   ⟨st { wk [(TILE_CTL 5 3, 0)] with free := 0 }, 5, 3, 0, by (repeat' apply And.intro) <;> decide +kernel⟩,
   ⟨State.reset, 5, 3, 0, by (repeat' apply And.intro) <;> decide +kernel⟩,
   ⟨st { wk [] with tiles := [(0, { queue := [{ session := 3, core := 0, tile := 0, entry := 0, vec := 0 }] })], sess := { fwd := [(3, (0, { slot := 0, vecCount := 1, inBase := 0, inExp := 4096, outBase := 8192, biasBase := none, rowSegs := 1, outBlks := 1, pexp := 0, entries := [{ tile := 0, deck := 0, last := true, rowSeg := 0, outBlk := 0 }], launch := 0, left := 2 }))], offers := [{ session := 3, core := 0, tile := 0, entry := 0, vec := 0 }] }, mem := cellsOf (spadBase 0) [1] },
    0, 0, { session := 3, core := 0, tile := 0, entry := 0, vec := 0 }, [],
    ((st { wk [] with tiles := [(0, { queue := [{ session := 3, core := 0, tile := 0, entry := 0, vec := 0 }] })], sess := { fwd := [(3, (0, { slot := 0, vecCount := 1, inBase := 0, inExp := 4096, outBase := 8192, biasBase := none, rowSegs := 1, outBlks := 1, pexp := 0, entries := [{ tile := 0, deck := 0, last := true, rowSeg := 0, outBlk := 0 }], launch := 0, left := 2 }))], offers := [{ session := 3, core := 0, tile := 0, entry := 0, vec := 0 }] }, mem := cellsOf (spadBase 0) [1] } : State).work.sessDriveTime 0 0 0),
    0, [1] ++ zeros 1023, 0, false, by (repeat' apply And.intro) <;> decide +kernel⟩,
   ⟨State.reset, .controller, 5, 3, 32511, by (repeat' apply And.intro) <;> decide +kernel⟩⟩

/-- Witnesses of Obligations.RowUnitsStartAndEnd, part 1. -/
theorem test_RowWriteUnitsStart :
    (∃ (s : State) (c : Fin 1024) (t : Fin 16) (j : Nat) (p : Part) (r : Nat × Nat × Nat) (e : XferEntry) (at_ : Nat), s.board.alive = true ∧
     s.work.slotWork c.val t.val = some (j, p) ∧ (p.todo.find? (fun r => r.1 == t.val) = some r) ∧
     s.work.unitTime c.val t.val (p.launch + 2000) = some at_ ∧ p.state = 1 ∧ at_ + 10000 ≤ s.work.edgeNs p.writeEnd ∧
     s.work.stageFree c.val = true ∧ s.work.held c.val t.val = false ∧ s.work.slotSupply c.val t.val = true ∧ p.entries[r.2.1]? = some e ∧
      (let q := s.work.rowPlan c.val e r.2.2 p.pexp p.thresh
       q.1.poison = false)) :=
  ⟨st { wk [] with commits := [(0, { parts := [(0, { group := 5, slot := 0, parts := 1, writeEnd := 100, band := 0, pexp := 0, thresh := 16, layerRec := 4096, step := 0, state := 1, entries := [{ tile := 0, deck := 0, rowFirst := 0, rowCount := 2, master := 1048576, level := 2097152, resid := 3145728 }], todo := [(0, 0, 0)], staged := [], undo := [], launch := 0, decided := 0, foldDue := false })] })] },
    0, 0, 0,
    { group := 5, slot := 0, parts := 1, writeEnd := 100, band := 0, pexp := 0, thresh := 16, layerRec := 4096, step := 0, state := 1, entries := [{ tile := 0, deck := 0, rowFirst := 0, rowCount := 2, master := 1048576, level := 2097152, resid := 3145728 }], todo := [(0, 0, 0)], staged := [], undo := [], launch := 0, decided := 0, foldDue := false },
    (0, 0, 0), { tile := 0, deck := 0, rowFirst := 0, rowCount := 2, master := 1048576, level := 2097152, resid := 3145728 }, 2000, by (repeat' apply And.intro) <;> decide +kernel⟩

/-- Witnesses of Obligations.RowUnitsStartAndEnd, part 2. -/
theorem test_RowWriteAndUndoUnitsEnd :
    (∃ (s : State) (c : Fin 1024) (t : Fin 16) (j : Nat) (u : TileUnit) (p : Part) (cm : Commit), s.board.alive = true ∧
     (s.work.tile c.val t.val).unit = some u ∧ u.kind = .row j ∧ (u.found = none ∨ u.found = some ([], [])) ∧
     s.work.commits = [(c.val, cm)] ∧ cm.parts = [(j, p)] ∧ p.state = 1 ∧ p.todo ≠ []) ∧
    (∃ (s : State) (c : Fin 1024) (t : Fin 16) (j : Nat) (u : TileUnit) (p : Part) (cm : Commit) (r r2 : Staged) (rs : List Staged), s.board.alive = true ∧
     (s.work.tile c.val t.val).unit = some u ∧ u.kind = .undo j ∧ (u.found = none ∨ u.found = some ([], [])) ∧
     s.work.commits = [(c.val, cm)] ∧ cm.parts = [(j, p)] ∧ p.state = 3 ∧ p.undo = r :: r2 :: rs ∧ r.tile = t.val) :=
  ⟨⟨st { wk [] with commits := [(0, { parts := [(0, { group := 5, slot := 0, parts := 1, writeEnd := 100, band := 0, pexp := 0, thresh := 16, layerRec := 4096, step := 0, state := 1, entries := [{ tile := 0, deck := 0, rowFirst := 0, rowCount := 2, master := 1048576, level := 2097152, resid := 3145728 }], todo := [(0, 0, 0)], staged := [], undo := [], launch := 0, decided := 0, foldDue := false })] })], tiles := [(0, { unit := some { kind := .row 0, start := 0, old := List.replicate 1041 0, target := List.replicate 1041 1 } })] },
    0, 0, 0, { kind := .row 0, start := 0, old := List.replicate 1041 0, target := List.replicate 1041 1 },
    { group := 5, slot := 0, parts := 1, writeEnd := 100, band := 0, pexp := 0, thresh := 16, layerRec := 4096, step := 0, state := 1, entries := [{ tile := 0, deck := 0, rowFirst := 0, rowCount := 2, master := 1048576, level := 2097152, resid := 3145728 }], todo := [(0, 0, 0)], staged := [], undo := [], launch := 0, decided := 0, foldDue := false },
    { parts := [(0, { group := 5, slot := 0, parts := 1, writeEnd := 100, band := 0, pexp := 0, thresh := 16, layerRec := 4096, step := 0, state := 1, entries := [{ tile := 0, deck := 0, rowFirst := 0, rowCount := 2, master := 1048576, level := 2097152, resid := 3145728 }], todo := [(0, 0, 0)], staged := [], undo := [], launch := 0, decided := 0, foldDue := false })] }, by (repeat' apply And.intro) <;> decide +kernel⟩,
   ⟨st { wk [] with commits := [(0, { parts := [(0, { group := 5, slot := 0, parts := 1, writeEnd := 100, band := 0, pexp := 0, thresh := 16, layerRec := 4096, step := 0, state := 3, entries := [{ tile := 0, deck := 0, rowFirst := 0, rowCount := 2, master := 1048576, level := 2097152, resid := 3145728 }], todo := [], staged := [], undo := [{ idx := 0, tile := 0, ldeck := 0, phys := 0, row := 0 }, { idx := 0, tile := 0, ldeck := 0, phys := 0, row := 0 }], launch := 0, decided := 1, foldDue := false })] })], tiles := [(0, { unit := some { kind := .undo 0, start := 0, old := List.replicate 1041 0, target := List.replicate 1041 1 } })] },
    0, 0, 0, { kind := .undo 0, start := 0, old := List.replicate 1041 0, target := List.replicate 1041 1 },
    { group := 5, slot := 0, parts := 1, writeEnd := 100, band := 0, pexp := 0, thresh := 16, layerRec := 4096, step := 0, state := 3, entries := [{ tile := 0, deck := 0, rowFirst := 0, rowCount := 2, master := 1048576, level := 2097152, resid := 3145728 }], todo := [], staged := [], undo := [{ idx := 0, tile := 0, ldeck := 0, phys := 0, row := 0 }, { idx := 0, tile := 0, ldeck := 0, phys := 0, row := 0 }], launch := 0, decided := 1, foldDue := false },
    { parts := [(0, { group := 5, slot := 0, parts := 1, writeEnd := 100, band := 0, pexp := 0, thresh := 16, layerRec := 4096, step := 0, state := 3, entries := [{ tile := 0, deck := 0, rowFirst := 0, rowCount := 2, master := 1048576, level := 2097152, resid := 3145728 }], todo := [], staged := [], undo := [{ idx := 0, tile := 0, ldeck := 0, phys := 0, row := 0 }, { idx := 0, tile := 0, ldeck := 0, phys := 0, row := 0 }], launch := 0, decided := 1, foldDue := false })] },
    { idx := 0, tile := 0, ldeck := 0, phys := 0, row := 0 }, { idx := 0, tile := 0, ldeck := 0, phys := 0, row := 0 }, [], by (repeat' apply And.intro) <;> decide +kernel⟩⟩

/-- Witnesses of Obligations.RowUnitsStartAndEnd, part 3. -/
theorem test_AUnitLeavesItsRowAtWhatWasRead :
    (∃ (w : Work) (c : Fin 1024) (t : Fin 16) (u : TileUnit) (f1 f2 : List (Nat × Int)), ∃ j, j < u.target.length) ∧
    (∃ (w : Work) (c : Fin 1024) (t : Fin 16) (u : TileUnit) (f1 f2 : List (Nat × Int)), ∃ k, k ≠ cellKey c.val t.val u.phys u.row) :=
  ⟨⟨Work.reset, 0, 0, { kind := .refresh, start := 0, old := List.replicate 1041 0, target := List.replicate 1041 1 }, [], [(1, 3)], 1, by decide +kernel⟩,
   ⟨Work.reset, 0, 0, { kind := .refresh, start := 0, old := List.replicate 1041 0, target := List.replicate 1041 1 }, [], [(1, 3)], 1, by decide +kernel⟩⟩

/-- Witnesses of Obligations.GroupsRollBackAndCommit. -/
theorem test_GroupsRollBackAndCommit :
    (∃ (s : State) (c : Fin 1024) (j : Nat) (p : Part) (cm : Commit), s.board.alive = true ∧ s.work.commits = [(c.val, cm)] ∧
     cm.parts = [(j, p)] ∧ p.state = 1 ∧ beatBefore s.work.beatFull p.writeEnd = false ∧ p.staged ≠ []) ∧
    (∃ (s : State) (c : Fin 1024) (t : Fin 16) (j : Nat) (p : Part) (r : Staged) (at_ : Nat), s.board.alive = true ∧
     s.work.slotWork c.val t.val = some (j, p) ∧ (p.undo.find? (fun r => r.tile == t.val) = some r) ∧
     s.work.unitTime c.val t.val 0 = some at_ ∧ p.state = 3 ∧ s.work.undoTime p = true ∧ s.work.slotSupply c.val t.val = true) ∧
    (∃ (s : State) (c : Fin 1024) (j : Nat) (p : Part) (cm : Commit), s.board.alive = true ∧ s.work.commits = [(c.val, cm)] ∧
     cm.parts = [(j, p)] ∧ p.state = 5 ∧ p.foldDue = true ∧ p.layerRec + 8 + 4 * p.band + 4 ≤ 2 ^ 40) :=
  ⟨⟨st { wk [] with commits := [(0, { parts := [(0, { group := 5, slot := 0, parts := 1, writeEnd := 0, band := 0, pexp := 0, thresh := 16, layerRec := 4096, step := 0, state := 1, entries := [{ tile := 0, deck := 0, rowFirst := 0, rowCount := 2, master := 1048576, level := 2097152, resid := 3145728 }], todo := [(0, 0, 0)], staged := [{ idx := 0, tile := 0, ldeck := 0, phys := 0, row := 0 }], undo := [], launch := 0, decided := 0, foldDue := false })] })] },
    0, 0,
    { group := 5, slot := 0, parts := 1, writeEnd := 0, band := 0, pexp := 0, thresh := 16, layerRec := 4096, step := 0, state := 1, entries := [{ tile := 0, deck := 0, rowFirst := 0, rowCount := 2, master := 1048576, level := 2097152, resid := 3145728 }], todo := [(0, 0, 0)], staged := [{ idx := 0, tile := 0, ldeck := 0, phys := 0, row := 0 }], undo := [], launch := 0, decided := 0, foldDue := false },
    { parts := [(0, { group := 5, slot := 0, parts := 1, writeEnd := 0, band := 0, pexp := 0, thresh := 16, layerRec := 4096, step := 0, state := 1, entries := [{ tile := 0, deck := 0, rowFirst := 0, rowCount := 2, master := 1048576, level := 2097152, resid := 3145728 }], todo := [(0, 0, 0)], staged := [{ idx := 0, tile := 0, ldeck := 0, phys := 0, row := 0 }], undo := [], launch := 0, decided := 0, foldDue := false })] }, by (repeat' apply And.intro) <;> decide +kernel⟩,
   ⟨st { wk [] with commits := [(0, { parts := [(0, { group := 5, slot := 0, parts := 1, writeEnd := 100, band := 0, pexp := 0, thresh := 16, layerRec := 4096, step := 0, state := 3, entries := [{ tile := 0, deck := 0, rowFirst := 0, rowCount := 2, master := 1048576, level := 2097152, resid := 3145728 }], todo := [], staged := [], undo := [{ idx := 0, tile := 0, ldeck := 0, phys := 0, row := 0 }], launch := 0, decided := 1, foldDue := false })] })] },
    0, 0, 0,
    { group := 5, slot := 0, parts := 1, writeEnd := 100, band := 0, pexp := 0, thresh := 16, layerRec := 4096, step := 0, state := 3, entries := [{ tile := 0, deck := 0, rowFirst := 0, rowCount := 2, master := 1048576, level := 2097152, resid := 3145728 }], todo := [], staged := [], undo := [{ idx := 0, tile := 0, ldeck := 0, phys := 0, row := 0 }], launch := 0, decided := 1, foldDue := false },
    { idx := 0, tile := 0, ldeck := 0, phys := 0, row := 0 }, 0, by (repeat' apply And.intro) <;> decide +kernel⟩,
   ⟨st { wk [] with commits := [(0, { parts := [(0, { group := 5, slot := 0, parts := 1, writeEnd := 100, band := 0, pexp := 0, thresh := 16, layerRec := 4096, step := 0, state := 5, entries := [{ tile := 0, deck := 0, rowFirst := 0, rowCount := 2, master := 1048576, level := 2097152, resid := 3145728 }], todo := [], staged := [{ idx := 0, tile := 0, ldeck := 0, phys := 0, row := 0 }], undo := [], launch := 0, decided := 0, foldDue := true })] })] },
    0, 0,
    { group := 5, slot := 0, parts := 1, writeEnd := 100, band := 0, pexp := 0, thresh := 16, layerRec := 4096, step := 0, state := 5, entries := [{ tile := 0, deck := 0, rowFirst := 0, rowCount := 2, master := 1048576, level := 2097152, resid := 3145728 }], todo := [], staged := [{ idx := 0, tile := 0, ldeck := 0, phys := 0, row := 0 }], undo := [], launch := 0, decided := 0, foldDue := true },
    { parts := [(0, { group := 5, slot := 0, parts := 1, writeEnd := 100, band := 0, pexp := 0, thresh := 16, layerRec := 4096, step := 0, state := 5, entries := [{ tile := 0, deck := 0, rowFirst := 0, rowCount := 2, master := 1048576, level := 2097152, resid := 3145728 }], todo := [], staged := [{ idx := 0, tile := 0, ldeck := 0, phys := 0, row := 0 }], undo := [], launch := 0, decided := 0, foldDue := true })] }, by (repeat' apply And.intro) <;> decide +kernel⟩⟩

/-- Witnesses of Obligations.StaleRowsDecksAndClearing, part 1. -/
theorem test_StaleRowsAreRefreshed :
    (∃ (s : State) (c : Fin 1024) (t : Fin 16) (k row d at_ : Nat), s.board.alive = true ∧
     (s.work.tile c.val t.val).nextStale = some (k, row) ∧ s.work.freeRecovery c.val t.val = some d ∧
     s.work.unitTime c.val t.val 0 = some at_ ∧ at_ + 10000 ≤ d ∧ s.work.sec.clearing = none ∧ (s.work.tile c.val t.val).restoreRows = [] ∧
     s.work.outsideSupply c.val t.val = true) ∧
    (∃ (s : State) (c : Fin 1024) (t : Fin 16) (u : TileUnit) (rest : List (Nat × Nat)), s.board.alive = true ∧
     (s.work.tile c.val t.val).unit = some u ∧ u.kind = .refresh ∧ (u.found = none ∨ u.found = some ([], [])) ∧
     (s.work.tile c.val t.val).stale = (u.ldeck, u.row) :: rest) :=
  ⟨⟨st { wk [(COX_STATUS 0, 2 + 16 * 60)] with coxes := [(0, { prog := some prog0 })], tiles := [(0, { stale := [(0, 5)] })] }, 0, 0, 0, 5,
    ((st { wk [(COX_STATUS 0, 2 + 16 * 60)] with coxes := [(0, { prog := some prog0 })], tiles := [(0, { stale := [(0, 5)] })] } : State).work.freeRecovery 0 0).getD 0,
    0, by (repeat' apply And.intro) <;> decide +kernel⟩,
   ⟨st { wk [] with tiles := [(0, { stale := [(0, 0)], unit := some { kind := .refresh, start := 0, old := List.replicate 1041 0, target := List.replicate 1041 1 } })] },
    0, 0, { kind := .refresh, start := 0, old := List.replicate 1041 0, target := List.replicate 1041 1 }, [], by (repeat' apply And.intro) <;> decide +kernel⟩⟩

/-- Witnesses of Obligations.StaleRowsDecksAndClearing, part 2. -/
theorem test_DecksRetireByCopy :
    (∃ (s : State) (c : Fin 1024) (t : Fin 16) (k p : Nat), s.board.alive = true ∧
     ((List.range 8).find? (fun k => s.work.deckUsed k && s.work.deckDue c.val t.val (s.work.phys c.val t.val k)) = some k) ∧
     s.work.fld (RETIRE_STATUS c.val t.val) 8 2 = 0 ∧ (s.work.tile c.val t.val).dropTarget = false ∧
     ((List.range 8).find? (fun p => s.work.deckState c.val t.val p == 1) = some p)) ∧
    (∃ (s : State) (c : Fin 1024) (t : Fin 16) (d : Fin 8) (ls : List (List Int)), s.board.alive = true ∧ ls.length ≤ 1024 ∧
     (s.work.tile c.val t.val).surveys.head? = some d.val) ∧
    (∃ (s : State) (c : Fin 1024) (t : Fin 16) (d : Fin 8) (ls : List (List Int)), s.board.alive = true ∧
     (s.work.tile c.val t.val).surveys.head? ≠ some d.val) ∧
    (∃ (s : State) (c : Fin 1024) (t : Fin 16) (k row d at_ : Nat), s.board.alive = true ∧ s.work.retiring c.val t.val = some k ∧
     ((List.range 1024).find? (fun r => !(s.work.tile c.val t.val).clean.contains r) = some row) ∧ s.work.freeRecovery c.val t.val = some d ∧
     s.work.unitTime c.val t.val 0 = some at_ ∧ s.work.copying c.val t.val = true ∧ (s.work.tile c.val t.val).nextStale = none ∧
     at_ + 10000 ≤ d ∧ s.work.stageFree c.val = true ∧ s.work.sec.clearing = none ∧ (s.work.tile c.val t.val).restoreRows = [] ∧
     s.work.outsideSupply c.val t.val = true) ∧
    (∃ (s : State) (c : Fin 1024) (t : Fin 16) (u : TileUnit), s.board.alive = true ∧ (s.work.tile c.val t.val).unit = some u ∧
     u.kind = .copy ∧ (u.found = none ∨ u.found = some ([], [])) ∧ u.phys < 8 ∧ s.work.fld (RETIRE_STATUS c.val t.val) 8 2 = 1 ∧
     s.work.fld (RETIRE_STATUS c.val t.val) 4 3 = u.phys ∧ s.work.rd (DECK_VFAIL c.val t.val u.phys) ≤ s.work.vfyLimit c.val t.val ∧
     (insNat u.row (s.work.tile c.val t.val).clean).length < 1024) :=
  ⟨⟨st (wk ((List.range 8).map (fun p => (DECK_VFAIL 0 0 p, 0x10000)))), 0, 0, 0, 7, by (repeat' apply And.intro) <;> decide +kernel⟩,
   ⟨st { wk [] with tiles := [(0, { surveys := [7] })] }, 0, 0, 7, [List.replicate 1041 1], by (repeat' apply And.intro) <;> decide +kernel⟩,
   ⟨State.reset, 0, 0, 7, [], by (repeat' apply And.intro) <;> decide +kernel⟩,
   ⟨st { wk [(COX_STATUS 0, 2 + 16 * 60), (RETIRE_STATUS 0 0, 0x170)] with coxes := [(0, { prog := some prog0 })], tiles := [(0, { surveyed := true })] },
    0, 0, 0, 0,
    ((st { wk [(COX_STATUS 0, 2 + 16 * 60), (RETIRE_STATUS 0 0, 0x170)] with coxes := [(0, { prog := some prog0 })], tiles := [(0, { surveyed := true })] } : State).work.freeRecovery 0 0).getD 0,
    0, by (repeat' apply And.intro) <;> decide +kernel⟩,
   ⟨st { wk [(RETIRE_STATUS 0 0, 0x170)] with tiles := [(0, { unit := some { kind := .copy, start := 0, old := List.replicate 1041 0, target := List.replicate 1041 1, phys := 7 } })] },
    0, 0, { kind := .copy, start := 0, old := List.replicate 1041 0, target := List.replicate 1041 1, phys := 7 }, by (repeat' apply And.intro) <;> decide +kernel⟩⟩

/-- Witnesses of Obligations.StaleRowsDecksAndClearing, part 3. -/
theorem test_RestoreAndClearUnitsStart :
    (∃ (s : State) (c : Fin 1024) (t : Fin 16) (k row at_ : Nat) (rest : List (Nat × Nat)) (m : DeckMap), s.board.alive = true ∧
     s.work.unitTime c.val t.val 0 = some at_ ∧ (s.work.tile c.val t.val).restoreRows = (k, row) :: rest ∧ s.work.sec.clearing = none ∧
     s.work.held c.val t.val = false ∧ s.work.outsideSupply c.val t.val = true ∧ s.work.mgr.restoreTaken = true ∧
     Sp.find (s.work.tile c.val t.val).maps k = some m ∧
      (let q := s.work.rowPlan c.val (m.entry t.val k) row m.pexp 16
       q.1.poison = false ∧ q.1.old ≠ q.1.target)) ∧
    (∃ (s : State) (c : Fin 1024) (t : Fin 16) (at_ : Nat), s.board.alive = true ∧ s.work.unitTime c.val t.val 0 = some at_ ∧
     s.work.sec.clearing.isSome = true ∧ (s.work.tile c.val t.val).cleared < s.work.clearRows ∧ s.work.held c.val t.val = false ∧
     s.work.outsideSupply c.val t.val = true) ∧
    (∃ (s : State) (c : Fin 1024) (t : Fin 16) (u : TileUnit) (a b : List (Nat × Int)), s.board.alive = true ∧
     (s.work.tile c.val t.val).unit = some u ∧ u.kind ≠ .colOff ∧ u.kind ≠ .colGain ∧ u.kind ≠ .drift) :=
  ⟨⟨st { wk [(OSCALE 0 0 0, 0x4000)] with mgr := { restoreTaken := true }, mem := cellsOf 1048576 (toLE 4 0x7F000000), tiles := [(0, { restoreRows := [(0, 0)], maps := [(0, { master := 2097152, level := 3145728, resid := 1048576, pexp := 0, layer := 4096 })] })] },
    0, 0, 0, 0, 0, [], { master := 2097152, level := 3145728, resid := 1048576, pexp := 0, layer := 4096 }, by (repeat' apply And.intro) <;> decide +kernel⟩,
   ⟨st { wk [] with sec := { clearing := some (.debug 1) } }, 0, 0, 0, by (repeat' apply And.intro) <;> decide +kernel⟩,
   ⟨st { wk [] with tiles := [(0, { unit := some { kind := .refresh, start := 0, old := List.replicate 1041 0, target := List.replicate 1041 1 } })] },
    0, 0, { kind := .refresh, start := 0, old := List.replicate 1041 0, target := List.replicate 1041 1 }, [], [(1, 3)], by (repeat' apply And.intro) <;> decide +kernel⟩⟩

/-- Witnesses of Obligations.CalibrationFallsDueRunsAndIsJudged, part 1. -/
theorem test_CalibrationUnitsStart :
    (∃ (s : State) (c : Fin 1024) (t : Fin 16) (kind : UnitKind) (p : Nat) (retry : Bool) (need at_ : Nat), s.board.alive = true ∧
     (s.work.tile c.val t.val).cal.active = true ∧ (s.work.tile c.val t.val).cal.needTemp = false ∧
     s.work.calNext c.val t.val = some (kind, p, retry, need) ∧ s.work.calFits c.val t.val need = true ∧
     s.work.unitTime c.val t.val 0 = some at_ ∧ s.work.held c.val t.val = false) :=
  ⟨st { wk [] with tiles := [(0, { cal := { active := true, forceCol := true } })] }, 0, 0, .colOff, 0, false, 20000, 0, by (repeat' apply And.intro) <;> decide +kernel⟩

/-- Witnesses of Obligations.CalibrationFallsDueRunsAndIsJudged, part 2. -/
theorem test_CalibrationResultsAreJudged :
    (∃ (s : State) (c : Fin 1024) (t : Fin 16) (u : TileUnit), s.board.alive = true ∧ (s.work.tile c.val t.val).unit = some u ∧
     (s.work.tile c.val t.val).cal.active = false ∧ u.found = none ∧ ∃ (codes : List (List Int)) (d : Nat), u.kind = .drift ∧ u.phys < 8 ∧
     driftOf (s.work.refSums c.val t.val codes) = some d ∧
     s.work.driftPlausible c.val t.val u.phys d (s.work.refSums c.val t.val codes) = true) ∧
    (∃ (s : State) (c : Fin 1024) (t : Fin 16) (u : TileUnit), s.board.alive = true ∧ (s.work.tile c.val t.val).unit = some u ∧
     (s.work.tile c.val t.val).cal.active = false ∧ u.found = none ∧ ∃ codes : List (List Int), u.kind = .drift ∧ u.retry = false ∧
     driftOf (s.work.refSums c.val t.val codes) = none) ∧
    (∃ (s : State) (c : Fin 1024) (t : Fin 16) (u : TileUnit), s.board.alive = true ∧ (s.work.tile c.val t.val).unit = some u ∧
     (s.work.tile c.val t.val).cal.active = false ∧ u.found = none ∧ ∃ (cz : List Int) (side : Int), u.kind = .colOff ∧
     (∀ j < 1024, (colOffOf (cz.getD j 0)).natAbs ≤ s.work.live (CAL_LIM_OFF c.val t.val) % 512) ∧
     (colOffOf side).natAbs ≤ s.work.live (CAL_LIM_OFF c.val t.val) % 512 ∧ (s.work.tile c.val t.val).pend.gain = none) :=
  ⟨⟨st { wk [] with tiles := [(0, { unit := some { kind := .drift, start := 0 } })] }, 0, 0, { kind := .drift, start := 0 },
    by decide +kernel, by decide +kernel, by decide +kernel, by decide +kernel,
    (List.range 16).map (fun k => List.replicate 24 (8 * refLevel k)), 32768, by (repeat' apply And.intro) <;> decide +kernel⟩,
   ⟨st { wk [] with tiles := [(0, { unit := some { kind := .drift, start := 0 } })] }, 0, 0, { kind := .drift, start := 0 },
    by decide +kernel, by decide +kernel, by decide +kernel, by decide +kernel, [], by (repeat' apply And.intro) <;> decide +kernel⟩,
   ⟨st { wk [] with tiles := [(0, { unit := some { kind := .colOff, start := 0 } })] }, 0, 0, { kind := .colOff, start := 0 },
    by decide +kernel, by decide +kernel, by decide +kernel, by decide +kernel, [6], -6, by (repeat' apply And.intro) <;> decide +kernel⟩⟩

/-- Witnesses of Obligations.CalibrationFallsDueRunsAndIsJudged, part 3. -/
theorem test_CalibrationFallsDue :
    (∃ (s : State) (c : Fin 1024) (t : Fin 16) (x : Int), s.board.alive = true) ∧
    (∃ (s : State) (c : Fin 1024) (t : Fin 16) (d : Fin 8), s.board.alive = true ∧ s.work.driftable c.val t.val d.val = true ∧
     max 1024 (bits (s.work.live (CAL_CTL c.val t.val)) 16 16) ≤ s.work.driftAge c.val t.val d.val) ∧
    (∃ (s : State) (c : Fin 1024) (t : Fin 16) (d : Fin 8), s.board.alive = true ∧ s.work.driftable c.val t.val d.val = true ∧
     65536 ≤ s.work.driftAge c.val t.val d.val) :=
  ⟨⟨State.reset, 0, 0, -40, by decide +kernel⟩,
   ⟨st (wk [(BEAT_COUNT_LO, 65535)]), 0, 0, 6, by (repeat' apply And.intro) <;> decide +kernel⟩,
   ⟨st (wk [(BEAT_COUNT_LO, 65536)]), 0, 0, 6, by (repeat' apply And.intro) <;> decide +kernel⟩⟩

/-- Witnesses of Obligations.TheHousekeepingConverterWorks, part 1. -/
theorem test_HousekeepingWorkStarts :
    (∃ (s : State) (path : Path) (x : Word), s.board.alive = true ∧ s.work.Writable path HK_CTL x.toNat ∧
      (let v := s.work.wrPlain path HK_CTL x.toNat
       x.toNat.testBit 4 = true ∧ x.toNat.testBit 6 = false ∧ v.hkState = 1)) ∧
    (∃ (s : State) (path : Path) (x : Word), s.board.alive = true ∧ s.work.Writable path HK_CTL x.toNat ∧
      (let v := s.work.wrPlain path HK_CTL x.toNat
       x.toNat.testBit 4 = true ∧ x.toNat.testBit 6 = false ∧ v.hkState ≠ 1)) ∧
    (∃ (s : State) (path : Path) (x : Word), s.board.alive = true ∧ s.work.Writable path HK_CTL x.toNat ∧
      (let v := s.work.wrPlain path HK_CTL x.toNat
       x.toNat.testBit 6 = true ∧ x.toNat.testBit 4 = false ∧ v.hkState = 1)) ∧
    (∃ (s : State) (path : Path) (x : Word), s.board.alive = true ∧ s.work.Writable path HK_CTL x.toNat ∧
      (let v := s.work.wrPlain path HK_CTL x.toNat
       x.toNat.testBit 6 = true ∧ x.toNat.testBit 4 = false ∧ v.hkState = 2 ∧ v.hk.aborted = none)) ∧
    (∃ (s : State) (path : Path) (x : Word), s.board.alive = true ∧ s.work.Writable path HK_CTL x.toNat ∧
      (let v := s.work.wrPlain path HK_CTL x.toNat
       ∃ c, x.toNat.testBit 5 = true ∧ x.toNat.testBit 4 = false ∧ x.toNat.testBit 6 = false ∧ v.hkState = 1 ∧ v.flag HK_CTL 5 = true ∧
        v.scanNext = some c)) ∧
    (∃ (s : State) (c : Nat), s.board.alive = true ∧ s.work.hkState = 1 ∧ s.work.flag HK_CTL 5 = true ∧ s.work.scanNext = some c) :=
  ⟨⟨st (wk [(HK_STATUS, 1)]), .controller, 0x10, by (repeat' apply And.intro) <;> decide +kernel⟩,
   ⟨st (wk [(HK_STATUS, 2)]), .controller, 0x10, by (repeat' apply And.intro) <;> decide +kernel⟩,
   ⟨st (wk [(HK_STATUS, 1)]), .controller, 0x40, by (repeat' apply And.intro) <;> decide +kernel⟩,
   ⟨st (wk [(HK_STATUS, 2)]), .controller, 0x40, by (repeat' apply And.intro) <;> decide +kernel⟩,
   ⟨st (wk [(HK_STATUS, 1), (HK_SCAN, 4)]), .controller, 0x20, by decide +kernel, by decide +kernel, 2, by (repeat' apply And.intro) <;> decide +kernel⟩,
   ⟨st (wk [(HK_STATUS, 1), (HK_CTL, 0x20), (HK_SCAN, 4)]), 2, by (repeat' apply And.intro) <;> decide +kernel⟩⟩

/-- Witnesses of Obligations.TheHousekeepingConverterWorks, part 2. -/
theorem test_HousekeepingResultsAreKept :
    (∃ (s : State) (raw : Nat), s.board.alive = true ∧ s.work.hkState = 2 ∧ s.work.hk.chan < 16) ∧
    (∃ (s : State) (path : Path), s.board.answers = true ∧ s.work.Readable path HK_DATA) ∧
    (∃ (s : State) (off : Int) (gain : Nat), s.board.alive = true ∧ s.work.hkState = 0 ∧ hkPlausible off gain = true) ∧
    (∃ (s : State) (off : Int) (gain : Nat), s.board.alive = true ∧ s.work.hkState = 0 ∧ hkPlausible off gain = false ∧
     s.work.hk.retried = false) ∧
    (∃ (s : State) (off : Int) (gain : Nat), s.board.alive = true ∧ s.work.hkState = 0 ∧ hkPlausible off gain = false ∧
     s.work.hk.retried = true) :=
  ⟨⟨st { wk [(HK_STATUS, 2), (HK_CAL, 0x80000000), (HK_DATA, 0x10000)] with hk := { chan := 15 } }, 4095, by (repeat' apply And.intro) <;> decide +kernel⟩,
   ⟨State.reset, .i3cRestricted, by (repeat' apply And.intro) <;> decide +kernel⟩,
   ⟨st (wk [(HK_STATUS, 0)]), -32, 34078, by (repeat' apply And.intro) <;> decide +kernel⟩,
   ⟨st (wk [(HK_STATUS, 0)]), 33, 34078, by (repeat' apply And.intro) <;> decide +kernel⟩,
   ⟨st { wk [(HK_STATUS, 0)] with hk := { retried := true } }, 33, 34078, by (repeat' apply And.intro) <;> decide +kernel⟩⟩

/-- Witnesses of Obligations.TheHousekeepingConverterWorks, part 3. -/
theorem test_UrgentConversionsComeFirst :
    (∃ (s : State) (u : HkUrgent) (die : Fin 20), s.board.alive = true ∧ s.work.hk.cur = none ∧ s.work.hkState = 1) ∧
    (∃ (s : State) (u : HkUrgent) (die : Fin 20), s.board.alive = true ∧ s.work.hk.cur = none ∧ s.work.hkState ≠ 1) ∧
    (∃ (s : State) (u : HkUrgent) (die : Fin 20), s.board.alive = true ∧ s.work.hk.cur.isSome = true) ∧
    (∃ (s : State) (raw chan die : Nat), s.board.alive = true ∧ s.work.hk.cur = some (chan, die) ∧ chan < 16 ∧ die < 20 ∧ chan = 13 ∧
     2864 ≤ s.work.hkCorrect raw) ∧
    (∃ (s : State) (raw chan die : Nat), s.board.alive = true ∧ s.work.hk.cur = some (chan, die) ∧ chan < 16 ∧ die < 20 ∧ (¬ (chan = 13 ∧
     2864 ≤ s.work.hkCorrect raw)) ∧ s.work.hk.urgent = []) :=
  ⟨⟨st (wk [(HK_STATUS, 1)]), .hotSpot, 19, by (repeat' apply And.intro) <;> decide +kernel⟩,
   ⟨st (wk [(HK_STATUS, 2)]), .hotSpot, 19, by (repeat' apply And.intro) <;> decide +kernel⟩,
   ⟨st { wk [(HK_STATUS, 3)] with hk := { cur := some (9, 0) } }, .lid, 0, by (repeat' apply And.intro) <;> decide +kernel⟩,
   ⟨st { wk [(HK_STATUS, 3), (HK_CAL, 0x80000000)] with hk := { cur := some (13, 19) } }, 2864, 13, 19, by (repeat' apply And.intro) <;> decide +kernel⟩,
   ⟨st { wk [(HK_STATUS, 3), (HK_CAL, 0x80000000)] with hk := { cur := some (13, 19), aborted := some 2 } }, 2863, 13, 19, by (repeat' apply And.intro) <;> decide +kernel⟩⟩

/-- Witnesses of Obligations.MultiplyAccumulateRunsOnItsTile, part 1. -/
theorem test_MultiplyAccumulateRuns :
    (∃ (s : State) (c : Fin 1024) (x : Fin 17) (b da db : List Byte) (r : MmaRun), s.board.alive = true ∧ s.work.Fetches c.val x.val 1 b ∧
     (s.work.ctx c.val x.val).checking = none ∧
      (let k := s.work.ctx c.val x.val
       let sh := leAt b 1 1 % 4
       let init := (leAt b 1 1).testBit 2
       let idx := leAt b 4 1
       let mn := shapeMN sh k.split
       sh < 3 ∧ (sh = 2 → k.split = false) ∧ 1 ≤ leAt b 6 2 ∧ leAt b 6 2 ≤ 4096 ∧ leAt b 8 4 % 32 = 0 ∧ leAt b 12 4 % 32 = 0 ∧
        s.work.localGet c.val (k.opdBase + 32 * leAt b 2 1) 32 = some (da, false) ∧
        s.work.localGet c.val (k.opdBase + 32 * leAt b 3 1) 32 = some (db, false) ∧ opdOk da mn.1 = true ∧ opdOk db mn.2 = true ∧
        (s.work.mmaRun c.val (opdOf da) (opdOf db) (leAt b 8 4) (leAt b 12 4) mn.1 mn.2 (leAt b 6 2) (if init then List.replicate (tileSize sh k.split) 0 else s.work.tileGet c.val x.val k.split sh idx) = some r) ∧
        r.poison = false)) ∧
    (∃ (s : State) (c : Fin 1024) (x : Fin 17) (b da db : List Byte) (r : MmaRun), s.board.alive = true ∧ s.work.Fetches c.val x.val 1 b ∧
     (s.work.ctx c.val x.val).checking = none ∧
      (let k := s.work.ctx c.val x.val
       let sh := leAt b 1 1 % 4
       let init := (leAt b 1 1).testBit 2
       let idx := leAt b 4 1
       let mn := shapeMN sh k.split
       sh < 3 ∧ (sh = 2 → k.split = false) ∧ 1 ≤ leAt b 6 2 ∧ leAt b 6 2 ≤ 4096 ∧ leAt b 8 4 % 32 = 0 ∧ leAt b 12 4 % 32 = 0 ∧
        s.work.localGet c.val (k.opdBase + 32 * leAt b 2 1) 32 = some (da, false) ∧
        s.work.localGet c.val (k.opdBase + 32 * leAt b 3 1) 32 = some (db, false) ∧ opdOk da mn.1 = true ∧ opdOk db mn.2 = true ∧
        (s.work.mmaRun c.val (opdOf da) (opdOf db) (leAt b 8 4) (leAt b 12 4) mn.1 mn.2 (leAt b 6 2) (if init then List.replicate (tileSize sh k.split) 0 else s.work.tileGet c.val x.val k.split sh idx) = some r) ∧
        r.poison = false ∧ init = false)) ∧
    (∃ (s : State) (c : Fin 1024) (x : Fin 17) (f : Flight) (fs : List Flight), s.board.alive = true ∧
      (let k := s.work.ctx c.val x.val
       k.inFlight = f :: fs ∧ f.due = false)) ∧
    (∃ (s : State) (c : Fin 1024) (x : Fin 17) (f : Flight) (fs : List Flight), s.board.alive = true ∧
      (let k := s.work.ctx c.val x.val
       k.inFlight = f :: fs ∧ f.due = true ∧ f.nonfin = false)) ∧
    (∃ (s : State) (c : Fin 1024) (x : Fin 17) (f : Flight) (fs : List Flight), s.board.alive = true ∧
      (let k := s.work.ctx c.val x.val
       k.inFlight = f :: fs ∧ f.due = true ∧ f.nonfin = true)) ∧
    (∃ (s : State) (c : Fin 1024) (x : Fin 17) (i n : Nat), s.board.alive = true ∧ (s.work.ctx c.val x.val).checking = some (i, n)) ∧
    (∃ (s : State) (c : Fin 1024) (x : Fin 17) (i n : Nat), s.board.alive = true ∧ (s.work.ctx c.val x.val).checking = some (i, n)) ∧
    (∃ (s : State) (c : Fin 1024) (x : Fin 17) (i n : Nat), s.board.alive = true ∧ (s.work.ctx c.val x.val).checking = some (i, n)) :=
  ⟨⟨mmaS, 0, 0, mmaB, zeros 32, zeros 32, mmaS_run.choose, by
     refine ⟨?_, ?_, ?_, ?_, ?_, ?_⟩
     iterate 5 decide +kernel
     refine ⟨?_, ?_, ?_, ?_, ?_, ?_⟩
     iterate 5 decide +kernel
     refine ⟨?_, ?_, ?_, ?_, ?_⟩
     iterate 3 decide +kernel
     exact mmaS_run.choose_spec.1
     exact mmaS_run.choose_spec.2⟩,
   ⟨mmaS, 0, 0, mmaB, zeros 32, zeros 32, mmaS_run.choose, by
     refine ⟨?_, ?_, ?_, ?_, ?_, ?_⟩
     iterate 5 decide +kernel
     refine ⟨?_, ?_, ?_, ?_, ?_, ?_⟩
     iterate 5 decide +kernel
     refine ⟨?_, ?_, ?_, ?_, ?_, ?_⟩
     iterate 3 decide +kernel
     exact mmaS_run.choose_spec.1
     exact mmaS_run.choose_spec.2
     decide +kernel⟩,
   ⟨st { wk [] with ctxs := [(0, { inFlight := [{ idx := 5, cycles := 64, nonfin := true, due := false, lands := 100 }] })] }, 0, 0,
    { idx := 5, cycles := 64, nonfin := true, due := false, lands := 100 }, [], by (repeat' apply And.intro) <;> decide +kernel⟩,
   ⟨st { wk [] with ctxs := [(0, { inFlight := [{ idx := 5, cycles := 64, nonfin := false, due := true, lands := 100 }] })] }, 0, 0,
    { idx := 5, cycles := 64, nonfin := false, due := true, lands := 100 }, [], by (repeat' apply And.intro) <;> decide +kernel⟩,
   ⟨st { wk [] with ctxs := [(0, { inFlight := [{ idx := 5, cycles := 64, nonfin := true, due := true, lands := 100 }] })] }, 0, 0,
    { idx := 5, cycles := 64, nonfin := true, due := true, lands := 100 }, [], by (repeat' apply And.intro) <;> decide +kernel⟩,
   ⟨st { wk [] with ctxs := [(0, { checking := some (5, 64) })] }, 0, 0, 5, 64, by (repeat' apply And.intro) <;> decide +kernel⟩,
   ⟨st { wk [] with ctxs := [(0, { checking := some (5, 64) })] }, 0, 0, 5, 64, by (repeat' apply And.intro) <;> decide +kernel⟩,
   ⟨st { wk [] with ctxs := [(0, { checking := some (5, 64) })] }, 0, 0, 5, 64, by (repeat' apply And.intro) <;> decide +kernel⟩⟩

/-- Witnesses of Obligations.MultiplyAccumulateRunsOnItsTile, part 2. -/
theorem test_TilesReadBackWhatWasPut :
    (∃ (w : Work) (c : Fin 1024) (x : Fin 16) (split : Bool) (shape idx : Nat) (vs : List Word), shape < 3 ∧ (shape = 2 → split = false) ∧
     idx < 64 ∧ vs.length = tileSize shape split) ∧
    (∃ (w : Work) (c : Fin 1024) (x : Fin 16) (split : Bool) (shape idx : Nat) (vs : List Word), shape < 3 ∧ (shape = 2 → split = false) ∧
     idx < 64 ∧ vs.length = tileSize shape split ∧ ∃ (c' : Fin 1024) (y : Fin 16) (shape' idx' : Nat), shape' < 3 ∧
     (shape' = 2 → split = false) ∧ idx' < 64 ∧ (c' ≠ c ∨ y.val / 2 ≠ x.val / 2 ∨ idx' ≠ idx ∨ (split = true ∧ y ≠ x))) :=
  ⟨⟨Work.reset, 1023, 15, true, 1, 63, List.replicate (tileSize 1 true) 7, by (repeat' apply And.intro) <;> decide +kernel⟩,
   ⟨Work.reset, 1023, 15, true, 1, 63, List.replicate (tileSize 1 true) 7, by decide +kernel, by decide +kernel, by decide +kernel,
    by decide +kernel, 1023, 14, 1, 63, by (repeat' apply And.intro) <;> decide +kernel⟩⟩

/-- Witnesses of Obligations.MultiplyAccumulateRunsOnItsTile, part 3. -/
theorem test_ZeroProductsAreGatedAndNaNsStay :
    (∃ (a : Word) (x y : FV), (x.isZero = true ∨ y.isZero = true) ∧ x.finite = true ∧ y.finite = true) ∧
    (∃ (a : Word) (x y : FV), ((f32 a).isNan = true ∨ x.isNan = true ∨ y.isNan = true ∨ (x.isInf = true ∧ y.isZero = true)) ∧
     (¬ ((x.isZero = true ∨ y.isZero = true) ∧ x.finite = true ∧ y.finite = true))) :=
  ⟨⟨5, f32 0, f32 0x3F800000, by (repeat' apply And.intro) <;> decide +kernel⟩,
   ⟨5, f32 0x7F800000, f32 0, by (repeat' apply And.intro) <;> decide +kernel⟩⟩

/-- Witnesses of Obligations.AccumulatorInstructionsRun. -/
theorem test_AccumulatorInstructionsRun :
    (∃ (s : State) (c : Fin 1024) (x : Fin 17) (b : List Byte), s.board.alive = true ∧ s.work.Fetches c.val x.val 2 b ∧ 1 ≤ leAt b 5 1 ∧
     leAt b 4 1 + leAt b 5 1 ≤ 64) ∧
    (∃ (s : State) (c : Fin 1024) (x : Fin 17) (b d : List Byte), s.board.alive = true ∧ s.work.Fetches c.val x.val 3 b ∧
      (let k := s.work.ctx c.val x.val
       let sh := leAt b 1 1
       sh < 3 ∧ (sh = 2 → k.split = false) ∧ leAt b 8 4 % 32 = 0 ∧
        s.work.localGet c.val (leAt b 8 4) (4 * tileSize sh k.split) = some (d, false))) ∧
    (∃ (s : State) (c : Fin 1024) (x : Fin 17) (b : List Byte), s.board.alive = true ∧ s.work.Fetches c.val x.val 4 b ∧
      (let k := s.work.ctx c.val x.val
       let sh := leAt b 1 1 % 4
       let mn := shapeMN sh k.split
       let dst := leAt b 8 4
       sh < 3 ∧ (sh = 2 → k.split = false) ∧ leAt b 2 1 = 0 ∧ s.work.tilePoisoned c.val x.val (leAt b 4 1) = false ∧ dst % 32 = 0 ∧
        dst + (mn.1 - 1) * leAt b 16 4 + 4 * mn.2 ≤ 2 ^ 21 ∧ leAt b 1 1 < 3)) ∧
    (∃ (s : State) (c : Fin 1024) (x : Fin 17) (b : List Byte), s.board.alive = true ∧ s.work.Fetches c.val x.val 4 b ∧
      (let k := s.work.ctx c.val x.val
       let sh := leAt b 1 1 % 4
       let mn := shapeMN sh k.split
       let dst := leAt b 8 4
       sh < 3 ∧ (sh = 2 → k.split = false) ∧ leAt b 2 1 = 0 ∧ s.work.tilePoisoned c.val x.val (leAt b 4 1) = false ∧ dst % 32 = 0 ∧
        dst + (mn.1 - 1) * leAt b 16 4 + 4 * mn.2 ≤ 2 ^ 21 ∧ 8 ≤ leAt b 1 1 ∧ leAt b 1 1 < 11 ∧
         (let at_ := s.work.base (DLOG_BASE_LO c.val) (DLOG_BASE_HI c.val) + (s.work.dig c.val).logUsed
          let n := 64 + ceilDiv (mn.1 * (4 * mn.2)) 64 * 64
          (s.work.dig c.val).logUsed + n ≤ 4096 * s.work.fld (DLOG_SIZE c.val) 0 20 ∧ s.work.rangeServes at_ n = true ∧
           inStacks at_ n = true))) ∧
    (∃ (s : State) (c : Fin 1024) (x : Fin 17) (b : List Byte), s.board.alive = true ∧ s.work.Fetches c.val x.val 4 b ∧
      (let k := s.work.ctx c.val x.val
       let sh := leAt b 1 1 % 4
       let mn := shapeMN sh k.split
       let dst := leAt b 8 4
       sh < 3 ∧ (sh = 2 → k.split = false) ∧ leAt b 2 1 = 0 ∧ s.work.tilePoisoned c.val x.val (leAt b 4 1) = false ∧ dst % 32 = 0 ∧
        dst + (mn.1 - 1) * leAt b 16 4 + 4 * mn.2 ≤ 2 ^ 21 ∧ 16 ≤ leAt b 1 1 ∧ leAt b 1 1 < 19 ∧
        (((s.work.dig c.val).queue.filter (fun q => q.1 == x.val / 2)).length < 4))) ∧
    (∃ (s : State) (c : Fin 1024) (x : Fin 17) (b : List Byte), s.board.alive = true ∧
      (let k := s.work.ctx c.val x.val
       let sh := leAt b 1 1 % 4
       k.stalled = true ∧ (s.work.setCtx c.val x.val { k with stalled := false }).Fetches c.val x.val 4 b ∧ 16 ≤ leAt b 1 1 ∧
        leAt b 1 1 < 19 ∧ sh < 3 ∧ (sh = 2 → k.split = false) ∧ leAt b 2 1 < 11 ∧ s.work.tilePoisoned c.val x.val (leAt b 4 1) = false ∧
        (((s.work.dig c.val).queue.filter (fun q => q.1 == x.val / 2)).length < 4))) :=
  ⟨⟨st (cx 0 {} (ins [2, 0, 0, 0, 63, 1])), 0, 0, ins [2, 0, 0, 0, 63, 1], by (repeat' apply And.intro) <;> decide +kernel⟩,
   ⟨st (cx 0 {} (ins ([3, 1, 0, 0, 5, 0, 0, 0] ++ toLE 4 4096))), 0, 0, ins ([3, 1, 0, 0, 5, 0, 0, 0] ++ toLE 4 4096), _, by
     refine ⟨?_, ?_, ?_, ?_, ?_, ?_⟩
     iterate 5 decide +kernel
     exact Work.Clean.localGet (b:=spadBase 0+4096) (by decide +kernel) (by decide +kernel) (by decide +kernel)⟩,
   ⟨st (cx 0 {} (ins ([4, 1, 0, 0, 5, 0, 0, 0] ++ toLE 4 4096 ++ zeros 4 ++ toLE 4 128))), 0, 0,
    ins ([4, 1, 0, 0, 5, 0, 0, 0] ++ toLE 4 4096 ++ zeros 4 ++ toLE 4 128), by (repeat' apply And.intro) <;> decide +kernel⟩,
   ⟨st ((up (cx 0 {} (ins ([4, 9, 0, 0, 5, 0, 0, 0] ++ toLE 4 4096 ++ zeros 4 ++ toLE 4 128)))).wr (DLOG_SIZE 0) 100), 0, 0,
    ins ([4, 9, 0, 0, 5, 0, 0, 0] ++ toLE 4 4096 ++ zeros 4 ++ toLE 4 128), by (repeat' apply And.intro) <;> decide +kernel⟩,
   ⟨st (cx 0 {} (ins ([4, 17, 0, 0, 5, 0, 0, 0] ++ toLE 4 4096 ++ zeros 4 ++ toLE 4 128))), 0, 0,
    ins ([4, 17, 0, 0, 5, 0, 0, 0] ++ toLE 4 4096 ++ zeros 4 ++ toLE 4 128), by (repeat' apply And.intro) <;> decide +kernel⟩,
   ⟨st (cx 0 { stalled := true } (ins ([4, 17, 0, 0, 5, 0, 0, 0] ++ toLE 4 4096 ++ zeros 4 ++ toLE 4 128))), 0, 0,
    ins ([4, 17, 0, 0, 5, 0, 0, 0] ++ toLE 4 4096 ++ zeros 4 ++ toLE 4 128), by (repeat' apply And.intro) <;> decide +kernel⟩⟩

/-- Witnesses of Obligations.MovesSemaphoresAndJobsRun, part 1. -/
theorem test_LocalMovesRun :
    (∃ (s : State) (c : Fin 1024) (x : Fin 17) (b : List Byte), s.board.alive = true ∧ s.work.Fetches c.val x.val 5 b ∧
     moveCheck c.val (leAt b 8 8) (leAt b 16 4) (leAt b 20 4) = 0 ∧ inStacks (leAt b 8 8) (leAt b 20 4) = true ∧
     leAt b 16 4 + leAt b 20 4 ≤ 2 ^ 21 ∧ s.work.rangeServes (leAt b 8 8) (leAt b 20 4) = false) ∧
    (∃ (s : State) (c : Fin 1024) (x : Fin 17) (b : List Byte), s.board.alive = true ∧ s.work.Fetches c.val x.val 5 b ∧
     moveCheck c.val (leAt b 8 8) (leAt b 16 4) (leAt b 20 4) = 0 ∧ inStacks (leAt b 8 8) (leAt b 20 4) = true ∧
     leAt b 16 4 + leAt b 20 4 ≤ 2 ^ 21 ∧ s.work.rangeServes (leAt b 8 8) (leAt b 20 4) = true) ∧
    (∃ (s : State) (c : Fin 1024) (x : Fin 17) (b : List Byte), s.board.alive = true ∧ s.work.Fetches c.val x.val 6 b ∧
     moveCheck c.val (leAt b 8 8) (leAt b 16 4) (leAt b 20 4) = 0 ∧ leAt b 16 4 + leAt b 20 4 ≤ 2 ^ 21 ∧ leAt b 1 1 = 0 ∧
     inStacks (leAt b 8 8) (leAt b 20 4) = true ∧ s.work.rangeServes (leAt b 8 8) (leAt b 20 4) = true) ∧
    (∃ (s : State) (c : Fin 1024) (x : Fin 17) (b : List Byte), s.board.alive = true ∧ s.work.Fetches c.val x.val 6 b ∧
     moveCheck c.val (leAt b 8 8) (leAt b 16 4) (leAt b 20 4) = 0 ∧ leAt b 16 4 + leAt b 20 4 ≤ 2 ^ 21 ∧
      (let at_ := s.work.base (DLOG_BASE_LO c.val) (DLOG_BASE_HI c.val) + (s.work.dig c.val).logUsed
       leAt b 1 1 = 8 ∧ (s.work.dig c.val).logUsed + 64 + leAt b 20 4 ≤ 4096 * s.work.fld (DLOG_SIZE c.val) 0 20 ∧
        s.work.rangeServes at_ (64 + leAt b 20 4) = true ∧ inStacks at_ (64 + leAt b 20 4) = true)) ∧
    (∃ (s : State) (c : Fin 1024) (x : Fin 17) (b : List Byte), s.board.alive = true ∧ s.work.Fetches c.val x.val 6 b ∧
     moveCheck c.val (leAt b 8 8) (leAt b 16 4) (leAt b 20 4) = 0 ∧ leAt b 16 4 + leAt b 20 4 ≤ 2 ^ 21 ∧ leAt b 1 1 = 8 ∧
     64 + leAt b 20 4 ≤ 4096 * s.work.fld (DLOG_SIZE c.val) 0 20 ∧
     4096 * s.work.fld (DLOG_SIZE c.val) 0 20 < (s.work.dig c.val).logUsed + 64 + leAt b 20 4) ∧
    (∃ (s : State) (c : Fin 1024) (x : Fin 17) (b : List Byte), s.board.alive = true ∧
      (let k := s.work.ctx c.val x.val
       k.stalled = true ∧ (s.work.setCtx c.val x.val { k with stalled := false }).Fetches c.val x.val 6 b ∧ leAt b 1 1 = 8 ∧
        moveCheck c.val (leAt b 8 8) (leAt b 16 4) (leAt b 20 4) = 0 ∧ leAt b 16 4 + leAt b 20 4 ≤ 2 ^ 21 ∧
        64 + leAt b 20 4 ≤ 4096 * s.work.fld (DLOG_SIZE c.val) 0 20 ∧
         (let at_ := s.work.base (DLOG_BASE_LO c.val) (DLOG_BASE_HI c.val) + (s.work.dig c.val).logUsed
          (s.work.dig c.val).logUsed + 64 + leAt b 20 4 ≤ 4096 * s.work.fld (DLOG_SIZE c.val) 0 20 ∧
           s.work.rangeServes at_ (64 + leAt b 20 4) = true ∧ inStacks at_ (64 + leAt b 20 4) = true))) ∧
    (∃ (s : State) (c : Fin 1024) (x : Fin 17) (b : List Byte), s.board.alive = true ∧
      (let k := s.work.ctx c.val x.val
       k.stalled = true ∧ (s.work.setCtx c.val x.val { k with stalled := false }).Fetches c.val x.val 6 b ∧ leAt b 1 1 = 8 ∧
        moveCheck c.val (leAt b 8 8) (leAt b 16 4) (leAt b 20 4) = 0 ∧ leAt b 16 4 + leAt b 20 4 ≤ 2 ^ 21 ∧
        64 + leAt b 20 4 ≤ 4096 * s.work.fld (DLOG_SIZE c.val) 0 20 ∧
        4096 * s.work.fld (DLOG_SIZE c.val) 0 20 < (s.work.dig c.val).logUsed + 64 + leAt b 20 4)) :=
  ⟨⟨st (cx 0 {} (ins ([5, 0] ++ zeros 6 ++ toLE 8 8192 ++ toLE 4 4096 ++ toLE 4 4096))), 0, 0,
    ins ([5, 0] ++ zeros 6 ++ toLE 8 8192 ++ toLE 4 4096 ++ toLE 4 4096), by (repeat' apply And.intro) <;> decide +kernel⟩,
   ⟨st (up (cx 0 {} (ins ([5, 0] ++ zeros 6 ++ toLE 8 8192 ++ toLE 4 4096 ++ toLE 4 4096)))), 0, 0,
    ins ([5, 0] ++ zeros 6 ++ toLE 8 8192 ++ toLE 4 4096 ++ toLE 4 4096), by (repeat' apply And.intro) <;> decide +kernel⟩,
   ⟨st (up (cx 0 {} (ins ([6, 0] ++ zeros 6 ++ toLE 8 8192 ++ toLE 4 4096 ++ toLE 4 4096)))), 0, 0,
    ins ([6, 0] ++ zeros 6 ++ toLE 8 8192 ++ toLE 4 4096 ++ toLE 4 4096), by (repeat' apply And.intro) <;> decide +kernel⟩,
   ⟨st ((up (cx 0 {} (ins ([6, 8] ++ zeros 6 ++ toLE 8 8192 ++ toLE 4 4096 ++ toLE 4 4096)))).wr (DLOG_SIZE 0) 2), 0, 0,
    ins ([6, 8] ++ zeros 6 ++ toLE 8 8192 ++ toLE 4 4096 ++ toLE 4 4096), by (repeat' apply And.intro) <;> decide +kernel⟩,
   ⟨st { (up (cx 0 {} (ins ([6, 8] ++ zeros 6 ++ toLE 8 8192 ++ toLE 4 4096 ++ toLE 4 4096)))).wr (DLOG_SIZE 0) 2 with digital := [(0, { log := List.replicate 32 { slot := 0, ctx := 0, seq := 0, parts := [(0, zeros 64)], poison := false } })] },
    0, 0, ins ([6, 8] ++ zeros 6 ++ toLE 8 8192 ++ toLE 4 4096 ++ toLE 4 4096), by (repeat' apply And.intro) <;> decide +kernel⟩,
   ⟨st ((up (cx 0 { stalled := true } (ins ([6, 8] ++ zeros 6 ++ toLE 8 8192 ++ toLE 4 4096 ++ toLE 4 4096)))).wr (DLOG_SIZE 0) 2), 0, 0,
    ins ([6, 8] ++ zeros 6 ++ toLE 8 8192 ++ toLE 4 4096 ++ toLE 4 4096), by (repeat' apply And.intro) <;> decide +kernel⟩,
   ⟨st { (up (cx 0 { stalled := true } (ins ([6, 8] ++ zeros 6 ++ toLE 8 8192 ++ toLE 4 4096 ++ toLE 4 4096)))).wr (DLOG_SIZE 0) 2 with digital := [(0, { log := List.replicate 32 { slot := 0, ctx := 0, seq := 0, parts := [(0, zeros 64)], poison := false } })] },
    0, 0, ins ([6, 8] ++ zeros 6 ++ toLE 8 8192 ++ toLE 4 4096 ++ toLE 4 4096), by (repeat' apply And.intro) <;> decide +kernel⟩⟩

/-- Witnesses of Obligations.MovesSemaphoresAndJobsRun, part 2. -/
theorem test_SemaphoresJobsAndFlushes :
    (∃ (s : State) (c : Fin 1024) (x : Fin 17) (b : List Byte) (j : Nat) (job : Job), s.board.alive = true ∧ s.work.Fetches c.val x.val 7 b ∧
     s.work.jobOf c.val x.val = some (j, job) ∧ (∀ y ∈ job.ctxs, y < 17) ∧ (∀ y ∈ job.ctxs, (s.work.ctx c.val y).waits = none)) ∧
    (∃ (s : State) (c : Fin 1024) (x y : Fin 17) (b : List Byte) (j m : Nat) (job : Job), s.board.alive = true ∧ x ≠ y ∧
     s.work.Fetches c.val x.val 7 b ∧ s.work.jobOf c.val x.val = some (j, job) ∧ (s.work.ctx c.val y.val).job = some j ∧ job.ctxs = [y.val] ∧
     (s.work.ctx c.val y.val).waits = some (leAt b 4 1, m) ∧ s.work.ctxState c.val y.val = 2 ∧ m ≤ s.work.sem c.val x.val (leAt b 4 1) + 1) ∧
    (∃ (s : State) (c : Fin 1024) (x : Fin 17) (b : List Byte) (j : Nat) (job : Job), s.board.alive = true ∧ s.work.Fetches c.val x.val 8 b ∧
     s.work.jobOf c.val x.val = some (j, job) ∧ leAt b 6 2 ≤ s.work.sem c.val x.val (leAt b 4 1)) ∧
    (∃ (s : State) (c : Fin 1024) (x : Fin 17) (b : List Byte) (j : Nat) (job : Job), s.board.alive = true ∧ s.work.Fetches c.val x.val 8 b ∧
     s.work.jobOf c.val x.val = some (j, job) ∧ s.work.sem c.val x.val (leAt b 4 1) < leAt b 6 2) ∧
    (∃ (s : State) (c : Fin 1024) (x : Fin 17) (b : List Byte) (j : Nat) (job : Job), s.board.alive = true ∧
     s.work.Fetches c.val x.val 15 b ∧ (s.work.ctx c.val x.val).checking = none ∧ s.work.jobOf c.val x.val = some (j, job) ∧
     (∃ y ∈ job.ctxs, y < 17 ∧ y ≠ x.val ∧ s.work.ctxState c.val y ≠ 5)) ∧
    (∃ (s : State) (c : Fin 1024) (x : Fin 17) (b : List Byte) (j : Nat) (job : Job), s.board.alive = true ∧
     s.work.Fetches c.val x.val 15 b ∧ (s.work.ctx c.val x.val).checking = none ∧ s.work.jobOf c.val x.val = some (j, job) ∧
     job.ctxs = [x.val]) ∧
    (∃ (s : State) (c : Fin 1024) (x : Fin 17), s.board.alive = true ∧ s.work.ctxState c.val x.val = 3) ∧
    (∃ (s : State) (c : Fin 1024) (x : Fin 17), s.board.alive = true ∧ s.work.ctxState c.val x.val ≠ 3) :=
  ⟨⟨st { cx 0 { slot := some 0 } (ins [7, 0, 0, 0, 3]) with digital := [(0, { jobs := [(0, { ctxs := [0], sems := [(3, 7)] })] })] }, 0, 0,
    ins [7, 0, 0, 0, 3], 0, { ctxs := [0], sems := [(3, 7)] }, by (repeat' apply And.intro) <;> decide +kernel⟩,
   ⟨st { wk [(MAC_STATUS 0 0, 34)] with ctxs := [(0, { slot := some 0 }), (1, { slot := some 0, waits := some (3, 8) })], mem := cellsOf (spadBase 0) (ins [7, 0, 0, 0, 3]), digital := [(0, { jobs := [(0, { ctxs := [1], sems := [(3, 7)] })] })] },
    0, 0, 1, ins [7, 0, 0, 0, 3], 0, 8, { ctxs := [1], sems := [(3, 7)] }, by (repeat' apply And.intro) <;> decide +kernel⟩,
   ⟨st { cx 0 { slot := some 0 } (ins [8, 0, 0, 0, 3, 0, 7]) with digital := [(0, { jobs := [(0, { ctxs := [0], sems := [(3, 7)] })] })] },
    0, 0, ins [8, 0, 0, 0, 3, 0, 7], 0, { ctxs := [0], sems := [(3, 7)] }, by (repeat' apply And.intro) <;> decide +kernel⟩,
   ⟨st { cx 0 { slot := some 0 } (ins [8, 0, 0, 0, 3, 0, 8]) with digital := [(0, { jobs := [(0, { ctxs := [0], sems := [(3, 7)] })] })] },
    0, 0, ins [8, 0, 0, 0, 3, 0, 8], 0, { ctxs := [0], sems := [(3, 7)] }, by (repeat' apply And.intro) <;> decide +kernel⟩,
   ⟨st { cx 0 { slot := some 0 } (ins [15]) with digital := [(0, { jobs := [(0, { ctxs := [0, 1], sems := [(3, 7)] })] })] }, 0, 0,
    ins [15], 0, { ctxs := [0, 1], sems := [(3, 7)] }, by (repeat' apply And.intro) <;> decide +kernel⟩,
   ⟨st { cx 0 { slot := some 0 } (ins [15]) with digital := [(0, { jobs := [(0, { ctxs := [0], sems := [(3, 7)] })] })] }, 0, 0, ins [15],
    0, { ctxs := [0], sems := [(3, 7)] }, by (repeat' apply And.intro) <;> decide +kernel⟩,
   ⟨st (wk [(VEC_STATUS 0, 3)]), 0, 16, by (repeat' apply And.intro) <;> decide +kernel⟩,
   ⟨State.reset, 0, 16, by (repeat' apply And.intro) <;> decide +kernel⟩⟩

/-- Witnesses of Obligations.AContextFaultStaysInItsContext. -/
theorem test_AContextFaultStaysInItsContext :
    (∃ (w : Work) (c : Fin 1024) (x : Fin 17) (bit : Fin 6) (cause : Fin 16), ∃ (c' : Fin 1024) (y : Fin 17), (c' ≠ c ∨ y ≠ x)) :=
  ⟨cx 3 { named := [4] } [], 0, 3, 4, 5, 0, 16, by decide +kernel⟩

/-- Witnesses of Obligations.VectorKernelsRun, part 1. -/
theorem test_ForwardKernelsRun :
    (∃ (s : State) (c : Fin 1024) (p : ElemPar) (b pb : List Byte) (xs : List (List Word)) (v : Work) (qs : List (Nat × List Byte)), s.board.alive = true ∧
     s.work.Fetches c.val 16 16 b ∧ leAt b 4 1 = 1 ∧ leAt b 8 4 % 32 = 0 ∧ s.work.localGet c.val (leAt b 8 4) 32 = some (pb, false) ∧
     (tensorAddrs (p.dst :: (elemIns p).map (·.1))).all kaligned = true ∧
     (s.work.kserves c.val ((elemIns p).flatMap (fun t => tensorRanges t.1 t.2)) = true) ∧
     ktensors c.val (elemIns p) s.work = some (xs, false, v) ∧
      (let t := fun k i => wAt (xs.getD k []) i
       let out := (List.range p.n).map (fun i => match p.op with
         | .add => fadd (t 0 i) (t 1 i) | .mul => fmul (t 0 i) (t 1 i) | .fma => ffma (t 0 i) (t 1 i) (t 2 i)
         | .max => fmax (t 0 i) (t 1 i) | .scale => fmul (t 0 i) (t 1 0))
       kputs c.val (tensorNarrow p.dst out).puts = some qs ∧ (v.putsServe (qs.map (fun q => (q.1, q.2, false))) = true))) ∧
    (∃ (s : State) (c : Fin 1024) (p : RowPar) (b pb : List Byte) (x g : List Word) (v : Work) (q1 q2 : List (Nat × List Byte)), s.board.alive = true ∧
     s.work.Fetches c.val 16 16 b ∧ leAt b 4 1 = 2 ∧ leAt b 8 4 % 32 = 0 ∧ s.work.localGet c.val (leAt b 8 4) 32 = some (pb, false) ∧
     (tensorAddrs [p.src, p.gain, p.dst, p.rrms]).all kaligned = true ∧
     (s.work.kserves c.val ([(p.src, p.rows * p.width), (p.gain, p.width)].flatMap (fun t => tensorRanges t.1 t.2)) = true) ∧
     ktensors c.val [(p.src, p.rows * p.width), (p.gain, p.width)] s.work = some ([x, g], false, v) ∧
      (let r := fun i => rowRrms ((List.range p.width).map (fun j => wAt x (p.width * i + j))) p.eps
       let out := (List.range p.rows).flatMap (fun i =>
         (List.range p.width).map (fun j => fmul (fmul (wAt g j) (wAt x (p.width * i + j))) (r i)))
       kputs c.val (tensorNarrow p.dst out).puts = some q1 ∧ kputs c.val (tensorNarrow p.rrms ((List.range p.rows).map r)).puts = some q2 ∧
        (v.putsServe ((q1 ++ q2).map (fun q => (q.1, q.2, false))) = true))) ∧
    (∃ (s : State) (c : Fin 1024) (p : SoftPar) (b pb : List Byte) (k : Nat) (ws : List Word) (a : Fin 8) (t : VecTile), s.board.alive = true ∧
     s.work.Fetches c.val 16 16 b ∧ leAt b 4 1 = 4 ∧ leAt b 8 4 % 32 = 0 ∧ s.work.localGet c.val (leAt b 8 4) 32 = some (pb, false) ∧
     (tensorAddrs [p.mask, p.dst, p.rmax, p.rsum]).all kaligned = true ∧ ((s.work.dig c.val).kern).getD (0, []) = (k, ws) ∧
     p.order[k]? = some a ∧ s.work.firstTile c.val a.val = some t ∧ t.poison = false ∧
      (let m := (shapeMN t.shape t.split).1
       let n := (shapeMN t.shape t.split).2
       ws.length = k * m * n ∧ k + 1 < p.order.length)) ∧
    (∃ (s : State) (c : Fin 1024) (p : SoftPar) (b pb : List Byte) (k : Nat) (ws : List Word) (a : Fin 8) (t : VecTile), s.board.alive = true ∧
     s.work.Fetches c.val 16 16 b ∧ leAt b 4 1 = 4 ∧ leAt b 8 4 % 32 = 0 ∧ s.work.localGet c.val (leAt b 8 4) 32 = some (pb, false) ∧
     (tensorAddrs [p.mask, p.dst, p.rmax, p.rsum]).all kaligned = true ∧ ((s.work.dig c.val).kern).getD (0, []) = (k, ws) ∧
     p.order[k]? = some a ∧ s.work.firstTile c.val a.val = some t ∧ t.poison = false ∧
      (let m := (shapeMN t.shape t.split).1
       let n := (shapeMN t.shape t.split).2
       ws.length = k * m * n ∧ ∃ (mask : List Word) (v : Work) (q1 q2 q3 : List (Nat × List Byte)), k + 1 = p.order.length ∧
         (let len := n * p.order.length
          s.work.kserves c.val (tensorRanges p.mask (m * len)) = true ∧
           ktensors c.val [(p.mask, m * len)] (s.work.dropTile c.val a.val) = some ([mask], false, v) ∧
            (let row := fun i => softRow p.scale ((softRows m n p.order.length (ws ++ t.words)).getD i [])
               ((List.range len).map (fun j => wAt mask (len * i + j)))
             (kputs c.val (tensorNarrow p.dst ((List.range m).flatMap (fun i => (row i).1))).puts = some q1) ∧
              (kputs c.val (tensorNarrow p.rmax ((List.range m).map (fun i => (row i).2.1))).puts = some q2) ∧
              (kputs c.val (tensorNarrow p.rsum ((List.range m).map (fun i => (row i).2.2))).puts = some q3) ∧
              (v.putsServe ((q1 ++ q2 ++ q3).map (fun q => (q.1, q.2, false))) = true))))) :=
  ⟨⟨st { (up (cx 16 {} (ins [16, 0, 0, 0, 1]))) with digital := [(0, {  })] }, 0,
    { op := .add, a := { addr := 0, fmt := 0, scale := 0 }, b := { addr := 4096, fmt := 0, scale := 0 }, c := { addr := 0, fmt := 0, scale := 0 }, dst := { addr := 8192, fmt := 0, scale := 0 }, n := 1 },
    ins [16, 0, 0, 0, 1],
    (((st { (up (cx 16 {} (ins [16, 0, 0, 0, 1]))) with digital := [(0, {  })] } : State).work.localGet 0 0 32).map (·.1)).getD [],
    ((ktensors 0 (elemIns ({ op := .add, a := { addr := 0, fmt := 0, scale := 0 }, b := { addr := 4096, fmt := 0, scale := 0 }, c := { addr := 0, fmt := 0, scale := 0 }, dst := { addr := 8192, fmt := 0, scale := 0 }, n := 1 } : ElemPar)) (st { (up (cx 16 {} (ins [16, 0, 0, 0, 1]))) with digital := [(0, {  })] } : State).work).map (·.1)).getD [],
    (st { (up (cx 16 {} (ins [16, 0, 0, 0, 1]))) with digital := [(0, {  })] } : State).work, _, by
     refine ⟨?_, ?_, ?_, ?_, ?_, ?_⟩
     iterate 5 decide +kernel
     refine ⟨?_, ?_, ?_, ?_, ?_⟩
     iterate 3 decide +kernel
     exact kputs_f32 _ rfl (by decide)
     apply putsServe_up; decide +kernel⟩,
   ⟨st { (up (cx 16 {} (ins [16, 0, 0, 0, 2]))) with digital := [(0, {  })] }, 0,
    { src := { addr := 0, fmt := 0, scale := 0 }, gain := { addr := 4096, fmt := 0, scale := 0 }, eps := 0x3F800000, dst := { addr := 8192, fmt := 0, scale := 0 }, rrms := { addr := 12288, fmt := 0, scale := 0 }, rows := 1, width := 1 },
    ins [16, 0, 0, 0, 2],
    (((st { (up (cx 16 {} (ins [16, 0, 0, 0, 2]))) with digital := [(0, {  })] } : State).work.localGet 0 0 32).map (·.1)).getD [], [0],
    [0], (st { (up (cx 16 {} (ins [16, 0, 0, 0, 2]))) with digital := [(0, {  })] } : State).work, _, _, by
     refine ⟨?_, ?_, ?_, ?_, ?_, ?_⟩
     iterate 5 decide +kernel
     refine ⟨?_, ?_, ?_, ?_, ?_, ?_⟩
     iterate 3 decide +kernel
     exact kputs_f32 _ rfl (by decide +kernel)
     exact kputs_f32 _ rfl (by decide +kernel)
     apply putsServe_up; decide +kernel⟩,
   ⟨st { (up (cx 16 {} (ins [16, 0, 0, 0, 4]))) with digital := [(0, { queue := [(0, { shape := 0, split := false, half := 0, poison := false, words := List.replicate 1024 0 })] })] },
    0,
    { order := [0, 0], scale := 0x3F800000, mask := { addr := 4096, fmt := 0, scale := 0 }, dst := { addr := 8192, fmt := 0, scale := 0 }, rmax := { addr := 16384, fmt := 0, scale := 0 }, rsum := { addr := 20480, fmt := 0, scale := 0 } },
    ins [16, 0, 0, 0, 4],
    (((st { (up (cx 16 {} (ins [16, 0, 0, 0, 4]))) with digital := [(0, { queue := [(0, { shape := 0, split := false, half := 0, poison := false, words := List.replicate 1024 0 })] })] } : State).work.localGet 0 0 32).map (·.1)).getD [],
    0, [], 0, { shape := 0, split := false, half := 0, poison := false, words := List.replicate 1024 0 }, by (repeat' apply And.intro) <;> decide +kernel⟩,
   ⟨st { (up (cx 16 {} (ins [16, 0, 0, 0, 4]))) with digital := [(0, { queue := [(0, { shape := 0, split := false, half := 0, poison := false, words := List.replicate 1024 0 })] })] },
    0,
    { order := [0], scale := 0x3F800000, mask := { addr := 4096, fmt := 0, scale := 0 }, dst := { addr := 8192, fmt := 0, scale := 0 }, rmax := { addr := 16384, fmt := 0, scale := 0 }, rsum := { addr := 20480, fmt := 0, scale := 0 } },
    ins [16, 0, 0, 0, 4],
    (((st { (up (cx 16 {} (ins [16, 0, 0, 0, 4]))) with digital := [(0, { queue := [(0, { shape := 0, split := false, half := 0, poison := false, words := List.replicate 1024 0 })] })] } : State).work.localGet 0 0 32).map (·.1)).getD [],
    0, [], 0, { shape := 0, split := false, half := 0, poison := false, words := List.replicate 1024 0 }, by decide +kernel,
    by decide +kernel, by decide +kernel, by decide +kernel, (by decide +kernel), by decide +kernel, by decide +kernel, by decide +kernel,
    by decide +kernel, (by decide +kernel), by decide +kernel, _,
    (st { (up (cx 16 {} (ins [16, 0, 0, 0, 4]))) with digital := [(0, { queue := [(0, { shape := 0, split := false, half := 0, poison := false, words := List.replicate 1024 0 })] })] } : State).work.dropTile 0 0,
    _, _, _, by
     refine ⟨?_, ?_, ?_, ?_, ?_, ?_⟩
     iterate 2 decide +kernel
     exact ktensors_f32 (by decide +kernel) 0 rfl (by decide +kernel)
     exact kputs_f32 _ rfl (by simp only [List.length_flatMap, softRow_length]; decide +kernel)
     exact kputs_f32 _ rfl (by simp only [List.length_map, List.length_range]; decide +kernel)
     refine ⟨?_, ?_⟩
     exact kputs_f32 _ rfl (by simp only [List.length_map, List.length_range]; decide +kernel)
     apply putsServe_up; decide +kernel⟩⟩

/-- Witnesses of Obligations.VectorKernelsRun, part 2. -/
theorem test_BackwardKernelsTakeTiles :
    (∃ (s : State) (c : Fin 1024) (b pb : List Byte) (o : Opd) (a q : Nat) (acc : List Word) (t : VecTile) (xs : List (List Word)) (b1 b2 b3 : List Byte) (v v2 u : Work), s.board.alive = true ∧
     s.work.Fetches c.val 16 16 b ∧ leAt b 4 1 = 3 ∧ leAt b 8 4 % 32 = 0 ∧ s.work.localGet c.val (leAt b 8 4) 64 = some (pb, false) ∧
      (let p := bwdOf pb
       s.work.bwdOpd c.val p = some o ∧ p.ok c.val true = true ∧ p.aligned true = true ∧ s.work.nextTile c.val = some (a, t) ∧
        t.poison = false ∧ t.shape = 0 ∧ t.split = false ∧ ((s.work.dig c.val).kern).getD (0, List.replicate 32 0) = (q, acc) ∧
        s.work.kserves c.val (p.touches o true q) = true ∧ (q + 1) % p.width ≠ 0 ∧
        s.work.bandBlock c.val o p.x (q / p.width) (q % p.width) = some (xs, false, v2) ∧
        kgets c.val [(p.aux + 128 * (q / p.width), 128), (p.gain + 128 * (q % p.width), 128), (p.dgain + 128 * (q % p.width), 128)] s.work = some ([b1, b2, b3], false, v) ∧

         (let dg := if p.flags.testBit 1 = true ∧ q / p.width = 0 then List.replicate 32 0 else wordsOf b3
          let z := normTile t.words xs (wordsOf b2) (wordsOf b1) acc dg
          (v.localPut c.val (p.scratch + 4096 * (q % p.width)) (wordsLE z.1) false).kwrite c.val [(p.dgain + 128 * (q % p.width), wordsLE z.2.2)] = some u))) ∧
    (∃ (s : State) (c : Fin 1024) (b pb : List Byte) (o : Opd) (a q : Nat) (acc : List Word) (t : VecTile) (ps : List (List Word)) (v : Work), s.board.alive = true ∧
     s.work.Fetches c.val 16 16 b ∧ leAt b 4 1 = 5 ∧ leAt b 8 4 % 32 = 0 ∧ s.work.localGet c.val (leAt b 8 4) 64 = some (pb, false) ∧
      (let p := bwdOf pb
       s.work.bwdOpd c.val p = some o ∧ p.ok c.val false = true ∧ p.aligned false = true ∧ s.work.nextTile c.val = some (a, t) ∧
        t.poison = false ∧ t.shape = 0 ∧ t.split = false ∧ ((s.work.dig c.val).kern).getD (0, List.replicate 32 0) = (q, acc) ∧
        s.work.kserves c.val (p.touches o false q) = true ∧ (q + 1) % p.width ≠ 0 ∧
        s.work.bandBlock c.val o p.x (q / p.width) (q % p.width) = some (ps, false, v))) :=
  ⟨⟨st { (wk ((VEC_STATUS 0, 1) :: up12 ++ [])) with ctxs := [(16, {})], mem := cellsOf (spadBase 0) (ins ([16, 0, 0, 0, 3, 0, 0, 0] ++ toLE 4 64) ++ (zeros 32 ++ (toLE 4 32 ++ toLE 2 2 ++ [0, 0] ++ toLE 4 128 ++ toLE 4 32768 ++ toLE 8 16384 ++ toLE 8 24576 ++ toLE 8 28672 ++ toLE 8 36864 ++ toLE 8 65536 ++ zeros 8) ++ ([1] ++ zeros 31))), digital := [(0, { queue := [(0, { shape := 0, split := false, half := 0, poison := false, words := List.replicate 1024 0 })] })] },
    0, ins ([16, 0, 0, 0, 3, 0, 0, 0] ++ toLE 4 64),
    (((st { (wk ((VEC_STATUS 0, 1) :: up12 ++ [])) with ctxs := [(16, {})], mem := cellsOf (spadBase 0) (ins ([16, 0, 0, 0, 3, 0, 0, 0] ++ toLE 4 64) ++ (zeros 32 ++ (toLE 4 32 ++ toLE 2 2 ++ [0, 0] ++ toLE 4 128 ++ toLE 4 32768 ++ toLE 8 16384 ++ toLE 8 24576 ++ toLE 8 28672 ++ toLE 8 36864 ++ toLE 8 65536 ++ zeros 8) ++ ([1] ++ zeros 31))), digital := [(0, { queue := [(0, { shape := 0, split := false, half := 0, poison := false, words := List.replicate 1024 0 })] })] } : State).work.localGet 0 64 64).map (·.1)).getD [],
    opdOf ([1] ++ zeros 31), 0, 0, List.replicate 32 0,
    { shape := 0, split := false, half := 0, poison := false, words := List.replicate 1024 0 },
    (((st { (wk ((VEC_STATUS 0, 1) :: up12 ++ [])) with ctxs := [(16, {})], mem := cellsOf (spadBase 0) (ins ([16, 0, 0, 0, 3, 0, 0, 0] ++ toLE 4 64) ++ (zeros 32 ++ (toLE 4 32 ++ toLE 2 2 ++ [0, 0] ++ toLE 4 128 ++ toLE 4 32768 ++ toLE 8 16384 ++ toLE 8 24576 ++ toLE 8 28672 ++ toLE 8 36864 ++ toLE 8 65536 ++ zeros 8) ++ ([1] ++ zeros 31))), digital := [(0, { queue := [(0, { shape := 0, split := false, half := 0, poison := false, words := List.replicate 1024 0 })] })] } : State).work.bandBlock 0 (opdOf ([1] ++ zeros 31) : Opd) 16384 0 0).map (·.1)).getD [],
    (st { (wk ((VEC_STATUS 0, 1) :: up12 ++ [])) with ctxs := [(16, {})], mem := cellsOf (spadBase 0) (ins ([16, 0, 0, 0, 3, 0, 0, 0] ++ toLE 4 64) ++ (zeros 32 ++ (toLE 4 32 ++ toLE 2 2 ++ [0, 0] ++ toLE 4 128 ++ toLE 4 32768 ++ toLE 8 16384 ++ toLE 8 24576 ++ toLE 8 28672 ++ toLE 8 36864 ++ toLE 8 65536 ++ zeros 8) ++ ([1] ++ zeros 31))), digital := [(0, { queue := [(0, { shape := 0, split := false, half := 0, poison := false, words := List.replicate 1024 0 })] })] } : State).work.bytes 24576 128,
    (st { (wk ((VEC_STATUS 0, 1) :: up12 ++ [])) with ctxs := [(16, {})], mem := cellsOf (spadBase 0) (ins ([16, 0, 0, 0, 3, 0, 0, 0] ++ toLE 4 64) ++ (zeros 32 ++ (toLE 4 32 ++ toLE 2 2 ++ [0, 0] ++ toLE 4 128 ++ toLE 4 32768 ++ toLE 8 16384 ++ toLE 8 24576 ++ toLE 8 28672 ++ toLE 8 36864 ++ toLE 8 65536 ++ zeros 8) ++ ([1] ++ zeros 31))), digital := [(0, { queue := [(0, { shape := 0, split := false, half := 0, poison := false, words := List.replicate 1024 0 })] })] } : State).work.bytes 28672 128,
    (st { (wk ((VEC_STATUS 0, 1) :: up12 ++ [])) with ctxs := [(16, {})], mem := cellsOf (spadBase 0) (ins ([16, 0, 0, 0, 3, 0, 0, 0] ++ toLE 4 64) ++ (zeros 32 ++ (toLE 4 32 ++ toLE 2 2 ++ [0, 0] ++ toLE 4 128 ++ toLE 4 32768 ++ toLE 8 16384 ++ toLE 8 24576 ++ toLE 8 28672 ++ toLE 8 36864 ++ toLE 8 65536 ++ zeros 8) ++ ([1] ++ zeros 31))), digital := [(0, { queue := [(0, { shape := 0, split := false, half := 0, poison := false, words := List.replicate 1024 0 })] })] } : State).work.bytes 36864 128,
    (st { (wk ((VEC_STATUS 0, 1) :: up12 ++ [])) with ctxs := [(16, {})], mem := cellsOf (spadBase 0) (ins ([16, 0, 0, 0, 3, 0, 0, 0] ++ toLE 4 64) ++ (zeros 32 ++ (toLE 4 32 ++ toLE 2 2 ++ [0, 0] ++ toLE 4 128 ++ toLE 4 32768 ++ toLE 8 16384 ++ toLE 8 24576 ++ toLE 8 28672 ++ toLE 8 36864 ++ toLE 8 65536 ++ zeros 8) ++ ([1] ++ zeros 31))), digital := [(0, { queue := [(0, { shape := 0, split := false, half := 0, poison := false, words := List.replicate 1024 0 })] })] } : State).work,
    (st { (wk ((VEC_STATUS 0, 1) :: up12 ++ [])) with ctxs := [(16, {})], mem := cellsOf (spadBase 0) (ins ([16, 0, 0, 0, 3, 0, 0, 0] ++ toLE 4 64) ++ (zeros 32 ++ (toLE 4 32 ++ toLE 2 2 ++ [0, 0] ++ toLE 4 128 ++ toLE 4 32768 ++ toLE 8 16384 ++ toLE 8 24576 ++ toLE 8 28672 ++ toLE 8 36864 ++ toLE 8 65536 ++ zeros 8) ++ ([1] ++ zeros 31))), digital := [(0, { queue := [(0, { shape := 0, split := false, half := 0, poison := false, words := List.replicate 1024 0 })] })] } : State).work,
    _, by
     refine ⟨?_, ?_, ?_, ?_, ?_, ?_⟩
     iterate 5 decide +kernel
     refine ⟨?_, ?_, ?_, ?_, ?_, ?_⟩
     iterate 5 decide +kernel
     refine ⟨?_, ?_, ?_, ?_, ?_, ?_⟩
     iterate 5 decide +kernel
     refine ⟨?_, ?_, ?_⟩
     exact Work.Clean.bandBlock (by decide +kernel) 0 _ _ _ _ (by decide +kernel) (by decide +kernel)
     exact Work.Clean.kgets (by decide +kernel) 0 [(24576, 128), (28672, 128), (36864, 128)] (by decide +kernel)
     exact kwrite_hbm _ _ _ (by simp only [List.forall_mem_cons, wordsLE_length, normTile_length]; decide +kernel)⟩,
   ⟨st { (wk ((VEC_STATUS 0, 1) :: up12 ++ [])) with ctxs := [(16, {})], mem := cellsOf (spadBase 0) (ins ([16, 0, 0, 0, 5, 0, 0, 0] ++ toLE 4 64) ++ (zeros 32 ++ (toLE 4 32 ++ toLE 2 2 ++ [0, 0] ++ toLE 4 128 ++ toLE 4 32768 ++ toLE 8 16384 ++ toLE 8 0 ++ toLE 8 0 ++ toLE 8 0 ++ toLE 8 65536 ++ zeros 8) ++ ([1] ++ zeros 31))), digital := [(0, { queue := [(0, { shape := 0, split := false, half := 0, poison := false, words := List.replicate 1024 0 })] })] },
    0, ins ([16, 0, 0, 0, 5, 0, 0, 0] ++ toLE 4 64),
    (((st { (wk ((VEC_STATUS 0, 1) :: up12 ++ [])) with ctxs := [(16, {})], mem := cellsOf (spadBase 0) (ins ([16, 0, 0, 0, 5, 0, 0, 0] ++ toLE 4 64) ++ (zeros 32 ++ (toLE 4 32 ++ toLE 2 2 ++ [0, 0] ++ toLE 4 128 ++ toLE 4 32768 ++ toLE 8 16384 ++ toLE 8 0 ++ toLE 8 0 ++ toLE 8 0 ++ toLE 8 65536 ++ zeros 8) ++ ([1] ++ zeros 31))), digital := [(0, { queue := [(0, { shape := 0, split := false, half := 0, poison := false, words := List.replicate 1024 0 })] })] } : State).work.localGet 0 64 64).map (·.1)).getD [],
    opdOf ([1] ++ zeros 31), 0, 0, List.replicate 32 0,
    { shape := 0, split := false, half := 0, poison := false, words := List.replicate 1024 0 },
    (((st { (wk ((VEC_STATUS 0, 1) :: up12 ++ [])) with ctxs := [(16, {})], mem := cellsOf (spadBase 0) (ins ([16, 0, 0, 0, 5, 0, 0, 0] ++ toLE 4 64) ++ (zeros 32 ++ (toLE 4 32 ++ toLE 2 2 ++ [0, 0] ++ toLE 4 128 ++ toLE 4 32768 ++ toLE 8 16384 ++ toLE 8 0 ++ toLE 8 0 ++ toLE 8 0 ++ toLE 8 65536 ++ zeros 8) ++ ([1] ++ zeros 31))), digital := [(0, { queue := [(0, { shape := 0, split := false, half := 0, poison := false, words := List.replicate 1024 0 })] })] } : State).work.bandBlock 0 (opdOf ([1] ++ zeros 31) : Opd) 16384 0 0).map (·.1)).getD [],
    (st { (wk ((VEC_STATUS 0, 1) :: up12 ++ [])) with ctxs := [(16, {})], mem := cellsOf (spadBase 0) (ins ([16, 0, 0, 0, 5, 0, 0, 0] ++ toLE 4 64) ++ (zeros 32 ++ (toLE 4 32 ++ toLE 2 2 ++ [0, 0] ++ toLE 4 128 ++ toLE 4 32768 ++ toLE 8 16384 ++ toLE 8 0 ++ toLE 8 0 ++ toLE 8 0 ++ toLE 8 65536 ++ zeros 8) ++ ([1] ++ zeros 31))), digital := [(0, { queue := [(0, { shape := 0, split := false, half := 0, poison := false, words := List.replicate 1024 0 })] })] } : State).work, by
     refine ⟨?_, ?_, ?_, ?_, ?_, ?_⟩
     iterate 5 decide +kernel
     refine ⟨?_, ?_, ?_, ?_, ?_, ?_⟩
     iterate 5 decide +kernel
     refine ⟨?_, ?_, ?_, ?_, ?_, ?_⟩
     iterate 5 decide +kernel
     exact Work.Clean.bandBlock (by decide +kernel) 0 _ _ _ _ (by decide +kernel) (by decide +kernel)⟩⟩

/-- Witnesses of Obligations.VectorKernelsRun, part 3. -/
theorem test_NarrowAndOptimiserRun :
    (∃ (s : State) (c : Fin 1024) (b pb : List Byte) (rows : List (List Byte)) (v0 v : Work) (qs : List (Nat × List Byte)), s.board.alive = true ∧
     s.work.Fetches c.val 16 16 b ∧ leAt b 4 1 = 6 ∧ leAt b 8 4 % 64 = 0 ∧ s.work.localGet c.val (leAt b 8 4) 64 = some (pb, false) ∧
      (let p := narrowOf pb
       let entry := namesEntry p.fmt p.sr
       narrowOk pb p = true ∧ kaligned p.src = true ∧ kaligned p.dst = true ∧
        (p.block = true ∨ scaled p.fmt = false ∨ kaligned p.scl = true) ∧
        ((if entry then s.work.nameEntry c.val 16 p.entry p.sr else (0, s.work)) = (0, v0)) ∧ v0.kserves c.val p.ins = true ∧
        kgets c.val p.ins v0 = some (rows, false, v) ∧
         (let r := p.go (v.rd (GEN_SEQ c.val)) rows (if entry then v.loadEst (v.estAt c.val p.entry) else Est.none)
          kputs c.val r.puts = some qs ∧ (v.putsServe (qs.map (fun q => (q.1, q.2, false))) = true)))) ∧
    (∃ (s : State) (c : Fin 1024) (b p : List Byte) (bs : List (List Byte)) (v : Work) (qs : List (List (Nat × List Byte))), s.board.alive = true ∧
     s.work.Fetches c.val 16 16 b ∧ leAt b 4 1 = 7 ∧ leAt b 8 4 % 32 = 0 ∧ s.work.localGet c.val (leAt b 8 4) 128 = some (p, false) ∧
      (let n := leAt p 0 4
       let rec_ := leAt p 104 8
       let rows := fun off len => (List.range n).map (fun i => (leAt p off 8 + len * i, len))
       let ins := rows 40 4096 ++ rows 8 4096 ++ rows 16 4096 ++ rows 24 4096 ++ rows 48 1024 ++ [(leAt p 56 8, 128)]
       1 ≤ n ∧ n ≤ 1024 ∧ leAt p 4 4 < 2 ∧ allZero (sub p 112 16) = true ∧ (rec_ = 0 ∨ (rec_ % 64 = 0 ∧ inHbm rec_ 64 = true)) ∧
        ([8, 16, 24, 32, 40, 48, 56].all (fun i => kaligned (leAt p i 8)) = true) ∧ s.work.kserves c.val ins = true ∧
        kgets c.val ins s.work = some (bs, false, v) ∧
         (let f := fun i => BitVec.ofNat 32 (leAt p (64 + 4 * i) 4)
          let o : OptPar := ⟨f 0, f 1, f 2, f 3, f 4, f 5, f 6, f 7, f 8⟩
          let word := fun k i j => wAt (wordsOf (bs.getD (k * n + i) [])) j
          let new := fun i j => optStep o (word 0 i j) (word 1 i j) (word 2 i j) (word 3 i j)
            (wAt (wordsOf (bs.getD (5 * n) [])) (j / 32)) (sext 8 (leAt (bs.getD (4 * n + i) []) j 1))
          let put := fun off (g : Word × Word × Word × Word → Word) => (List.range n).map (fun i =>
            (leAt p off 8 + 4096 * i, wordsLE ((List.range 1024).map (fun j => g (new i j)))))
          (([put 8 (·.1), put 16 (·.2.1), put 24 (·.2.2.1), put 32 (·.2.2.2)] ++ if rec_ = 0 then [] else [[(rec_, sub p 100 4)]]).mapM (kputs c.val) = some qs) ∧
           leAt p 4 4 = 0 ∧ (v.putsServe (qs.flatten.map (fun q => (q.1, q.2, false))) = true)))) ∧
    (∃ (s : State) (c : Fin 1024) (b p : List Byte) (bs : List (List Byte)) (v : Work) (qs : List (List (Nat × List Byte))), s.board.alive = true ∧
     s.work.Fetches c.val 16 16 b ∧ leAt b 4 1 = 7 ∧ leAt b 8 4 % 32 = 0 ∧ s.work.localGet c.val (leAt b 8 4) 128 = some (p, false) ∧
      (let n := leAt p 0 4
       let rec_ := leAt p 104 8
       let rows := fun off len => (List.range n).map (fun i => (leAt p off 8 + len * i, len))
       let ins := rows 40 4096 ++ rows 8 4096 ++ rows 16 4096 ++ rows 24 4096 ++ rows 48 1024 ++ [(leAt p 56 8, 128)]
       1 ≤ n ∧ n ≤ 1024 ∧ leAt p 4 4 < 2 ∧ allZero (sub p 112 16) = true ∧ (rec_ = 0 ∨ (rec_ % 64 = 0 ∧ inHbm rec_ 64 = true)) ∧
        ([8, 16, 24, 32, 40, 48, 56].all (fun i => kaligned (leAt p i 8)) = true) ∧ s.work.kserves c.val ins = true ∧
        kgets c.val ins s.work = some (bs, false, v) ∧
         (let f := fun i => BitVec.ofNat 32 (leAt p (64 + 4 * i) 4)
          let o : OptPar := ⟨f 0, f 1, f 2, f 3, f 4, f 5, f 6, f 7, f 8⟩
          let word := fun k i j => wAt (wordsOf (bs.getD (k * n + i) [])) j
          let new := fun i j => optStep o (word 0 i j) (word 1 i j) (word 2 i j) (word 3 i j)
            (wAt (wordsOf (bs.getD (5 * n) [])) (j / 32)) (sext 8 (leAt (bs.getD (4 * n + i) []) j 1))
          let put := fun off (g : Word × Word × Word × Word → Word) => (List.range n).map (fun i =>
            (leAt p off 8 + 4096 * i, wordsLE ((List.range 1024).map (fun j => g (new i j)))))
          (([put 8 (·.1), put 16 (·.2.1), put 24 (·.2.2.1), put 32 (·.2.2.2)] ++ if rec_ = 0 then [] else [[(rec_, sub p 100 4)]]).mapM (kputs c.val) = some qs) ∧
           leAt p 4 4 = 1 ∧
            (let size := (qs.map (fun q => 64 + ceilDiv ((q.map (·.2.length)).sum) 64 * 64)).sum
             let at_ := s.work.base (DLOG_BASE_LO c.val) (DLOG_BASE_HI c.val) + (s.work.dig c.val).logUsed
             (s.work.dig c.val).logUsed + size ≤ 4096 * s.work.fld (DLOG_SIZE c.val) 0 20 ∧ v.rangeServes at_ size = true ∧
              inStacks at_ size = true)))) :=
  ⟨⟨st { (wk ((VEC_STATUS 0, 1) :: up12 ++ [])) with ctxs := [(16, {})], mem := cellsOf (spadBase 0) (ins ([16, 0, 0, 0, 6, 0, 0, 0] ++ toLE 4 64) ++ (zeros 32 ++ ([1, 0, 0, 0] ++ toLE 2 1 ++ toLE 2 1 ++ toLE 8 4096 ++ toLE 8 128 ++ toLE 8 8192 ++ toLE 8 2 ++ zeros 8 ++ toLE 8 16384 ++ toLE 8 1))), digital := [(0, {  })] },
    0, ins ([16, 0, 0, 0, 6, 0, 0, 0] ++ toLE 4 64),
    (((st { (wk ((VEC_STATUS 0, 1) :: up12 ++ [])) with ctxs := [(16, {})], mem := cellsOf (spadBase 0) (ins ([16, 0, 0, 0, 6, 0, 0, 0] ++ toLE 4 64) ++ (zeros 32 ++ ([1, 0, 0, 0] ++ toLE 2 1 ++ toLE 2 1 ++ toLE 8 4096 ++ toLE 8 128 ++ toLE 8 8192 ++ toLE 8 2 ++ zeros 8 ++ toLE 8 16384 ++ toLE 8 1))), digital := [(0, {  })] } : State).work.localGet 0 64 64).map (·.1)).getD [],
    ((kgets 0 ((narrowOf ((((st { (wk ((VEC_STATUS 0, 1) :: up12 ++ [])) with ctxs := [(16, {})], mem := cellsOf (spadBase 0) (ins ([16, 0, 0, 0, 6, 0, 0, 0] ++ toLE 4 64) ++ (zeros 32 ++ ([1, 0, 0, 0] ++ toLE 2 1 ++ toLE 2 1 ++ toLE 8 4096 ++ toLE 8 128 ++ toLE 8 8192 ++ toLE 8 2 ++ zeros 8 ++ toLE 8 16384 ++ toLE 8 1))), digital := [(0, {  })] } : State).work.localGet 0 64 64).map (·.1)).getD [] : List Byte)).ins) (st { (wk ((VEC_STATUS 0, 1) :: up12 ++ [])) with ctxs := [(16, {})], mem := cellsOf (spadBase 0) (ins ([16, 0, 0, 0, 6, 0, 0, 0] ++ toLE 4 64) ++ (zeros 32 ++ ([1, 0, 0, 0] ++ toLE 2 1 ++ toLE 2 1 ++ toLE 8 4096 ++ toLE 8 128 ++ toLE 8 8192 ++ toLE 8 2 ++ zeros 8 ++ toLE 8 16384 ++ toLE 8 1))), digital := [(0, {  })] } : State).work).map (·.1)).getD [],
    (st { (wk ((VEC_STATUS 0, 1) :: up12 ++ [])) with ctxs := [(16, {})], mem := cellsOf (spadBase 0) (ins ([16, 0, 0, 0, 6, 0, 0, 0] ++ toLE 4 64) ++ (zeros 32 ++ ([1, 0, 0, 0] ++ toLE 2 1 ++ toLE 2 1 ++ toLE 8 4096 ++ toLE 8 128 ++ toLE 8 8192 ++ toLE 8 2 ++ zeros 8 ++ toLE 8 16384 ++ toLE 8 1))), digital := [(0, {  })] } : State).work,
    ((kgets 0 ((narrowOf ((((st { (wk ((VEC_STATUS 0, 1) :: up12 ++ [])) with ctxs := [(16, {})], mem := cellsOf (spadBase 0) (ins ([16, 0, 0, 0, 6, 0, 0, 0] ++ toLE 4 64) ++ (zeros 32 ++ ([1, 0, 0, 0] ++ toLE 2 1 ++ toLE 2 1 ++ toLE 8 4096 ++ toLE 8 128 ++ toLE 8 8192 ++ toLE 8 2 ++ zeros 8 ++ toLE 8 16384 ++ toLE 8 1))), digital := [(0, {  })] } : State).work.localGet 0 64 64).map (·.1)).getD [] : List Byte)).ins) (st { (wk ((VEC_STATUS 0, 1) :: up12 ++ [])) with ctxs := [(16, {})], mem := cellsOf (spadBase 0) (ins ([16, 0, 0, 0, 6, 0, 0, 0] ++ toLE 4 64) ++ (zeros 32 ++ ([1, 0, 0, 0] ++ toLE 2 1 ++ toLE 2 1 ++ toLE 8 4096 ++ toLE 8 128 ++ toLE 8 8192 ++ toLE 8 2 ++ zeros 8 ++ toLE 8 16384 ++ toLE 8 1))), digital := [(0, {  })] } : State).work).map (·.2.2)).getD (st { (wk ((VEC_STATUS 0, 1) :: up12 ++ [])) with ctxs := [(16, {})], mem := cellsOf (spadBase 0) (ins ([16, 0, 0, 0, 6, 0, 0, 0] ++ toLE 4 64) ++ (zeros 32 ++ ([1, 0, 0, 0] ++ toLE 2 1 ++ toLE 2 1 ++ toLE 8 4096 ++ toLE 8 128 ++ toLE 8 8192 ++ toLE 8 2 ++ zeros 8 ++ toLE 8 16384 ++ toLE 8 1))), digital := [(0, {  })] } : State).work,
    (kputs 0 ((narrowOf ((((st { (wk ((VEC_STATUS 0, 1) :: up12 ++ [])) with ctxs := [(16, {})], mem := cellsOf (spadBase 0) (ins ([16, 0, 0, 0, 6, 0, 0, 0] ++ toLE 4 64) ++ (zeros 32 ++ ([1, 0, 0, 0] ++ toLE 2 1 ++ toLE 2 1 ++ toLE 8 4096 ++ toLE 8 128 ++ toLE 8 8192 ++ toLE 8 2 ++ zeros 8 ++ toLE 8 16384 ++ toLE 8 1))), digital := [(0, {  })] } : State).work.localGet 0 64 64).map (·.1)).getD [] : List Byte)).go ((((kgets 0 ((narrowOf ((((st { (wk ((VEC_STATUS 0, 1) :: up12 ++ [])) with ctxs := [(16, {})], mem := cellsOf (spadBase 0) (ins ([16, 0, 0, 0, 6, 0, 0, 0] ++ toLE 4 64) ++ (zeros 32 ++ ([1, 0, 0, 0] ++ toLE 2 1 ++ toLE 2 1 ++ toLE 8 4096 ++ toLE 8 128 ++ toLE 8 8192 ++ toLE 8 2 ++ zeros 8 ++ toLE 8 16384 ++ toLE 8 1))), digital := [(0, {  })] } : State).work.localGet 0 64 64).map (·.1)).getD [] : List Byte)).ins) (st { (wk ((VEC_STATUS 0, 1) :: up12 ++ [])) with ctxs := [(16, {})], mem := cellsOf (spadBase 0) (ins ([16, 0, 0, 0, 6, 0, 0, 0] ++ toLE 4 64) ++ (zeros 32 ++ ([1, 0, 0, 0] ++ toLE 2 1 ++ toLE 2 1 ++ toLE 8 4096 ++ toLE 8 128 ++ toLE 8 8192 ++ toLE 8 2 ++ zeros 8 ++ toLE 8 16384 ++ toLE 8 1))), digital := [(0, {  })] } : State).work).map (·.2.2)).getD (st { (wk ((VEC_STATUS 0, 1) :: up12 ++ [])) with ctxs := [(16, {})], mem := cellsOf (spadBase 0) (ins ([16, 0, 0, 0, 6, 0, 0, 0] ++ toLE 4 64) ++ (zeros 32 ++ ([1, 0, 0, 0] ++ toLE 2 1 ++ toLE 2 1 ++ toLE 8 4096 ++ toLE 8 128 ++ toLE 8 8192 ++ toLE 8 2 ++ zeros 8 ++ toLE 8 16384 ++ toLE 8 1))), digital := [(0, {  })] } : State).work : Work).rd (GEN_SEQ 0)) (((kgets 0 ((narrowOf ((((st { (wk ((VEC_STATUS 0, 1) :: up12 ++ [])) with ctxs := [(16, {})], mem := cellsOf (spadBase 0) (ins ([16, 0, 0, 0, 6, 0, 0, 0] ++ toLE 4 64) ++ (zeros 32 ++ ([1, 0, 0, 0] ++ toLE 2 1 ++ toLE 2 1 ++ toLE 8 4096 ++ toLE 8 128 ++ toLE 8 8192 ++ toLE 8 2 ++ zeros 8 ++ toLE 8 16384 ++ toLE 8 1))), digital := [(0, {  })] } : State).work.localGet 0 64 64).map (·.1)).getD [] : List Byte)).ins) (st { (wk ((VEC_STATUS 0, 1) :: up12 ++ [])) with ctxs := [(16, {})], mem := cellsOf (spadBase 0) (ins ([16, 0, 0, 0, 6, 0, 0, 0] ++ toLE 4 64) ++ (zeros 32 ++ ([1, 0, 0, 0] ++ toLE 2 1 ++ toLE 2 1 ++ toLE 8 4096 ++ toLE 8 128 ++ toLE 8 8192 ++ toLE 8 2 ++ zeros 8 ++ toLE 8 16384 ++ toLE 8 1))), digital := [(0, {  })] } : State).work).map (·.1)).getD [] : List (List Byte)) Est.none).puts).getD [], by (repeat' apply And.intro) <;> decide +kernel⟩,
   ⟨st { (wk ((VEC_STATUS 0, 1) :: up12 ++ [])) with ctxs := [(16, {})], mem := cellsOf (spadBase 0) (ins ([16, 0, 0, 0, 7, 0, 0, 0] ++ toLE 4 64) ++ (zeros 32 ++ (toLE 4 1 ++ toLE 4 0 ++ toLE 8 16384 ++ toLE 8 20480 ++ toLE 8 24576 ++ toLE 8 28672 ++ toLE 8 32768 ++ toLE 8 40960 ++ toLE 8 45056 ++ zeros 64))), digital := [(0, {  })] },
    0, ins ([16, 0, 0, 0, 7, 0, 0, 0] ++ toLE 4 64),
    (toLE 4 1 ++ toLE 4 0 ++ toLE 8 16384 ++ toLE 8 20480 ++ toLE 8 24576 ++ toLE 8 28672 ++ toLE 8 32768 ++ toLE 8 40960 ++ toLE 8 45056 ++ zeros 64),
    _,
    (st { (wk ((VEC_STATUS 0, 1) :: up12 ++ [])) with ctxs := [(16, {})], mem := cellsOf (spadBase 0) (ins ([16, 0, 0, 0, 7, 0, 0, 0] ++ toLE 4 64) ++ (zeros 32 ++ (toLE 4 1 ++ toLE 4 0 ++ toLE 8 16384 ++ toLE 8 20480 ++ toLE 8 24576 ++ toLE 8 28672 ++ toLE 8 32768 ++ toLE 8 40960 ++ toLE 8 45056 ++ zeros 64))), digital := [(0, {  })] } : State).work,
    _, by
     refine ⟨?_, ?_, ?_, ?_, ?_, ?_⟩
     iterate 5 decide +kernel
     refine ⟨?_, ?_, ?_, ?_, ?_, ?_⟩
     iterate 5 decide +kernel
     refine ⟨?_, ?_, ?_, ?_, ?_, ?_⟩
     iterate 2 decide +kernel
     exact Work.Clean.kgets (by decide +kernel) 0 _ (by decide +kernel)
     exact mapM_kputs_hbm 0 _ (by simp only [show leAt (toLE 4 1 ++ toLE 4 0 ++ toLE 8 16384 ++ toLE 8 20480 ++ toLE 8 24576 ++ toLE 8 28672 ++ toLE 8 32768 ++ toLE 8 40960 ++ toLE 8 45056 ++ zeros 64) 0 4 = 1 from (by decide +kernel), if_pos (show leAt (toLE 4 1 ++ toLE 4 0 ++ toLE 8 16384 ++ toLE 8 20480 ++ toLE 8 24576 ++ toLE 8 28672 ++ toLE 8 32768 ++ toLE 8 40960 ++ toLE 8 45056 ++ zeros 64) 104 8 = 0 from (by decide +kernel)), List.forall_mem_cons, wordsLE_length, List.length_map, List.length_range, List.range_one, List.map_cons, List.map_nil, List.cons_append, List.nil_append, List.append_nil]; decide +kernel)
     decide +kernel
     apply putsServe_up; decide +kernel⟩,
   ⟨st { (wk ((VEC_STATUS 0, 1) :: up12 ++ [(DLOG_SIZE 0, 100)])) with ctxs := [(16, {})], mem := cellsOf (spadBase 0) (ins ([16, 0, 0, 0, 7, 0, 0, 0] ++ toLE 4 64) ++ (zeros 32 ++ (toLE 4 1 ++ toLE 4 1 ++ toLE 8 16384 ++ toLE 8 20480 ++ toLE 8 24576 ++ toLE 8 28672 ++ toLE 8 32768 ++ toLE 8 40960 ++ toLE 8 45056 ++ zeros 64))), digital := [(0, {  })] },
    0, ins ([16, 0, 0, 0, 7, 0, 0, 0] ++ toLE 4 64),
    (toLE 4 1 ++ toLE 4 1 ++ toLE 8 16384 ++ toLE 8 20480 ++ toLE 8 24576 ++ toLE 8 28672 ++ toLE 8 32768 ++ toLE 8 40960 ++ toLE 8 45056 ++ zeros 64),
    _,
    (st { (wk ((VEC_STATUS 0, 1) :: up12 ++ [(DLOG_SIZE 0, 100)])) with ctxs := [(16, {})], mem := cellsOf (spadBase 0) (ins ([16, 0, 0, 0, 7, 0, 0, 0] ++ toLE 4 64) ++ (zeros 32 ++ (toLE 4 1 ++ toLE 4 1 ++ toLE 8 16384 ++ toLE 8 20480 ++ toLE 8 24576 ++ toLE 8 28672 ++ toLE 8 32768 ++ toLE 8 40960 ++ toLE 8 45056 ++ zeros 64))), digital := [(0, {  })] } : State).work,
    _, by
     refine ⟨?_, ?_, ?_, ?_, ?_, ?_⟩
     iterate 5 decide +kernel
     refine ⟨?_, ?_, ?_, ?_, ?_, ?_⟩
     iterate 5 decide +kernel
     refine ⟨?_, ?_, ?_, ?_, ?_, ?_⟩
     iterate 2 decide +kernel
     exact Work.Clean.kgets (by decide +kernel) 0 _ (by decide +kernel)
     exact mapM_kputs_hbm 0 _ (by simp only [show leAt (toLE 4 1 ++ toLE 4 1 ++ toLE 8 16384 ++ toLE 8 20480 ++ toLE 8 24576 ++ toLE 8 28672 ++ toLE 8 32768 ++ toLE 8 40960 ++ toLE 8 45056 ++ zeros 64) 0 4 = 1 from (by decide +kernel), if_pos (show leAt (toLE 4 1 ++ toLE 4 1 ++ toLE 8 16384 ++ toLE 8 20480 ++ toLE 8 24576 ++ toLE 8 28672 ++ toLE 8 32768 ++ toLE 8 40960 ++ toLE 8 45056 ++ zeros 64) 104 8 = 0 from (by decide +kernel)), List.forall_mem_cons, wordsLE_length, List.length_map, List.length_range, List.range_one, List.map_cons, List.map_nil, List.cons_append, List.nil_append, List.append_nil]; decide +kernel)
     decide +kernel
     refine ⟨?_, ?_, ?_⟩
     iterate 3 decide +kernel⟩⟩

/-- Witnesses of Obligations.FeedAndStashRegistersAct. -/
theorem test_FeedAndStashRegistersAct :
    (∃ (s : State) (p : Path) (v : Word), s.board.alive = true ∧ s.work.Writable p FEED_TAIL v.toNat ∧ s.work.step.starving = false) ∧
    (∃ (s : State) (p : Path) (v : Word), s.board.alive = true ∧ s.work.Writable p FEED_TAIL v.toNat ∧
      (let u := s.work.wrPlain p FEED_TAIL v.toNat
       let rec_ := u.hbmGet (u.base FEED_BASE_LO FEED_BASE_HI + 64 * u.fld FEED_HEAD 0 16) 64
       s.work.step.starving = true ∧ s.work.stroke.prepared = false ∧ s.work.step.refused = false ∧ u.midStep = false ∧
        u.flag STEP_CTL 0 = true ∧ u.prepDue = true ∧ u.feedReady = true ∧ rec_.2.2.stepCheck rec_.1 = 0)) ∧
    (∃ (s : State) (p : Path) (a : Nat) (v : Word), s.board.alive = true ∧ a ∈ stashTableRegs ∧ s.work.Writable p a v.toNat ∧
     s.work.allIdle = false) ∧
    (∃ (s : State) (p : Path) (a : Nat) (v : Word), s.board.alive = true ∧ a ∈ stashTableRegs ∧ s.work.Writable p a v.toNat ∧
     s.work.allIdle = true) :=
  ⟨⟨State.reset, .controller, 1, by (repeat' apply And.intro) <;> decide +kernel⟩,
   ⟨st { wk [(STEP_CTL, 1), (FEED_SIZE, 4), (STEP_CFG, 1), (COX_STATUS 0, 1)] with coxes := [(0, {})], mem := cellsOf 0 stepRec, step := { starving := true } },
    .controller, 1, by (repeat' apply And.intro) <;> decide +kernel⟩,
   ⟨st { wk [(COX_STATUS 1, 1)] with coxes := [(1, {})] }, .controller, POOL_PAGES, 5, by (repeat' apply And.intro) <;> decide +kernel⟩,
   ⟨State.reset, .controller, POOL_PAGES, 5, by (repeat' apply And.intro) <;> decide +kernel⟩⟩

/-- Witnesses of Obligations.SessionsOpenRunAndClose, part 1. -/
theorem test_SessionsOpenAndClose :
    (∃ (s : State) (p : Path) (v : Word), s.board.alive = true ∧ s.work.Writable p SREQ_TAIL v.toNat ∧ s.work.sess.waiting = [] ∧
      (let u := s.work.wrPlain p SREQ_TAIL v.toNat
       let req := u.hbmGet (u.base SREQ_BASE_LO SREQ_BASE_HI + 64 * u.fld SREQ_HEAD 0 16) 64
       u.flag SESS_CTL 0 = true ∧ u.fld SREQ_HEAD 0 16 ≠ u.fld SREQ_TAIL 0 16 % u.reqSize ∧
        (u.fld SREQ_HEAD 0 16 + 1) % u.reqSize = u.fld SREQ_TAIL 0 16 % u.reqSize ∧ (reqOf req.1).bad = false ∧
        ((reqOf req.1).op = 1 ∨ ∃ q, Sp.find s.work.sess.open_ (reqOf req.1).session = some q ∧
        (q.poisoned = false ∨ (reqOf req.1).op = 5)))) ∧
    (∃ (s : State) (r : SessReq), s.board.alive = true ∧ s.work.sess.waiting = [r] ∧ s.work.sess.held = [] ∧ r.op = 1 ∧ r.bad = false ∧
     r.session < 1024 ∧ s.work.sessProgOk r.prog = true ∧ Sp.find s.work.sess.open_ r.session = none ∧ s.work.cplFull = false ∧
      (let k := ceilDiv (r.count * s.work.cacheBpt r.prog) 65536
       (k ≤ ((List.range (s.work.fld SCACHE_PAGES 0 23)).filter (fun p => !s.work.sess.used.contains p)).length))) ∧
    (∃ (s : State) (r : SessReq) (q : Session) (pg : Nat), s.board.alive = true ∧ s.work.sess.waiting = [r] ∧ s.work.sess.held = [] ∧
     r.op = 5 ∧ r.bad = false ∧ Sp.find s.work.sess.open_ r.session = some q ∧ q.run = none ∧ pg ∈ q.pages ∧ s.work.cplFull = false ∧
      (let cpl := s.work.base SCPL_BASE_LO SCPL_BASE_HI + 32 * s.work.fld SCPL_TAIL 0 16
       inStacks cpl 32 = true)) ∧
    (∃ (s : State) (p : Path) (v : Word) (b : List Byte), s.board.alive = true ∧ s.work.Writable p SCPL_HEAD v.toNat ∧
     s.work.sess.held = [b] ∧ b.length = 32 ∧ s.work.sess.waiting = [] ∧
      (let u := s.work.wrPlain p SCPL_HEAD v.toNat
       let cpl := u.base SCPL_BASE_LO SCPL_BASE_HI + 32 * u.fld SCPL_TAIL 0 16
       inStacks cpl 32 = true ∧ u.cplFull = true)) ∧
    (∃ (s : State) (p : Path) (v : Word) (b : List Byte), s.board.alive = true ∧ s.work.Writable p SCPL_HEAD v.toNat ∧
     s.work.sess.held = [b] ∧ b.length = 32 ∧ s.work.sess.waiting = [] ∧
      (let u := s.work.wrPlain p SCPL_HEAD v.toNat
       let cpl := u.base SCPL_BASE_LO SCPL_BASE_HI + 32 * u.fld SCPL_TAIL 0 16
       inStacks cpl 32 = true ∧ u.cplFull = false)) ∧
    (∃ (s : State) (p : Path) (v : Word), s.board.alive = true ∧ s.work.Writable p SCPL_HEAD v.toNat ∧ s.work.sess.held = [] ∧
     s.work.sess.waiting = []) :=
  ⟨⟨st { wk ([(SESS_CTL, 1), (SREQ_SIZE, 4), (SCPL_SIZE, 4), (SCPL_BASE_LO, 1048576)]) with sess := { open_ := [(3, { prog := 0, cap := 8, pages := [1] })], waiting := [], held := [], used := [1] }, mem := cellsOf 0 ([2, 0, 3, 0] ++ zeros 60) },
    .controller, 1, by (repeat' apply And.intro) <;> decide +kernel⟩,
   ⟨st { wk ((SCACHE_PAGES, 8) :: [(SESS_CTL, 1), (SREQ_SIZE, 4), (SCPL_SIZE, 4), (SCPL_BASE_LO, 1048576)]) with sess := { open_ := [], waiting := [{ op := 1, cls := 0, digital := false, session := 3, tag := 7, count := 5, stop := 9, inAddr := 8192, outAddr := 16384, prog := 0, bad := false }], held := [], used := [1] }, mem := [] },
    { op := 1, cls := 0, digital := false, session := 3, tag := 7, count := 5, stop := 9, inAddr := 8192, outAddr := 16384, prog := 0, bad := false }, by (repeat' apply And.intro) <;> decide +kernel⟩,
   ⟨st { wk ((SCACHE_PAGES, 8) :: [(SESS_CTL, 1), (SREQ_SIZE, 4), (SCPL_SIZE, 4), (SCPL_BASE_LO, 1048576)]) with sess := { open_ := [(3, { prog := 0, cap := 8, pages := [1] })], waiting := [{ op := 5, cls := 0, digital := false, session := 3, tag := 7, count := 5, stop := 9, inAddr := 8192, outAddr := 16384, prog := 0, bad := false }], held := [], used := [1] }, mem := cellsOf 65536 [1, 2] },
    { op := 5, cls := 0, digital := false, session := 3, tag := 7, count := 5, stop := 9, inAddr := 8192, outAddr := 16384, prog := 0, bad := false },
    { prog := 0, cap := 8, pages := [1] }, 1, by (repeat' apply And.intro) <;> decide +kernel⟩,
   ⟨st { wk ((SCPL_TAIL, 3) :: [(SESS_CTL, 1), (SREQ_SIZE, 4), (SCPL_SIZE, 4), (SCPL_BASE_LO, 1048576)]) with sess := { open_ := [], waiting := [], held := [zeros 31 ++ [5]], used := [1] }, mem := [] },
    .controller, 0, zeros 31 ++ [5], by (repeat' apply And.intro) <;> decide +kernel⟩,
   ⟨st { wk ((SCPL_TAIL, 3) :: [(SESS_CTL, 1), (SREQ_SIZE, 4), (SCPL_SIZE, 4), (SCPL_BASE_LO, 1048576)]) with sess := { open_ := [], waiting := [], held := [zeros 31 ++ [5]], used := [1] }, mem := [] },
    .controller, 1, zeros 31 ++ [5], by (repeat' apply And.intro) <;> decide +kernel⟩,
   ⟨State.reset, .controller, 1, by (repeat' apply And.intro) <;> decide +kernel⟩⟩

/-- Witnesses of Obligations.SessionsOpenRunAndClose, part 3. -/
theorem test_SessionGroupsAndTheirUnitsStart :
    (∃ (s : State) (n : Fin 1024) (k : SessWork) (q : Session) (u : SessRun) (op : Nat) (cmd : Instr), s.board.alive = true ∧ ((op = 2 ∧
     cmd = .sessionAppend n k) ∨ (op = 3 ∧ cmd = .sessionGenerate n k) ∨ (op = 4 ∧ cmd = .sessionScore n k)) ∧ s.work.sess.waiting = [] ∧
     Sp.find s.work.sess.open_ n.val = some q ∧ q.run = some u ∧ u.req.op = op ∧ u.status = none ∧ u.group = none) ∧
    (∃ (s : State) (n : Fin 1024) (k : SessWork) (q : Session) (u : SessRun) (op : Nat) (cmd : Instr), s.board.alive = true ∧ ((op = 2 ∧
     cmd = .sessionAppend n k) ∨ (op = 3 ∧ cmd = .sessionGenerate n k) ∨ (op = 4 ∧ cmd = .sessionScore n k)) ∧ s.work.sess.waiting = [] ∧
     Sp.find s.work.sess.open_ n.val = some q ∧ q.run = some u ∧ u.req.op = op ∧ u.status = none ∧ ∃ ts, u.group = some ts ∧
     s.work.sessUnitRuns n.val = true) ∧
    (∃ (s : State) (n : Fin 1024) (k : SessWork) (q : Session) (u : SessRun) (op : Nat) (cmd : Instr), s.board.alive = true ∧ ((op = 2 ∧
     cmd = .sessionAppend n k) ∨ (op = 3 ∧ cmd = .sessionGenerate n k) ∨ (op = 4 ∧ cmd = .sessionScore n k)) ∧ s.work.sess.waiting = [] ∧
     Sp.find s.work.sess.open_ n.val = some q ∧ q.run = some u ∧ u.req.op = op ∧ u.status = none ∧ ∃ ts, u.group = some ts ∧
     s.work.sessUnitRuns n.val = false ∧ u.pos < leAt (s.work.sessProg q.prog) 8 2 ∧
      (let kind := leAt (s.work.sessList q.prog) (8 * u.pos) 1 % 4
       ((kind = 0 ∧ u.req.digital = true) ∨ (kind = 1 ∧ u.req.digital = false)))) ∧
    (∃ (s : State) (n : Fin 1024) (k : SessWork) (q : Session) (u : SessRun) (op : Nat) (cmd : Instr), s.board.alive = true ∧ ((op = 2 ∧
     cmd = .sessionAppend n k) ∨ (op = 3 ∧ cmd = .sessionGenerate n k) ∨ (op = 4 ∧ cmd = .sessionScore n k)) ∧ s.work.sess.waiting = [] ∧
     Sp.find s.work.sess.open_ n.val = some q ∧ q.run = some u ∧ u.req.op = op ∧ u.status = none ∧ ∃ ts c a r, u.group = some ts ∧
     s.work.sessUnitRuns n.val = false ∧ u.pos < leAt (s.work.sessProg q.prog) 8 2 ∧
      (let kind := leAt (s.work.sessList q.prog) (8 * u.pos) 1 % 4
       (kind = 0 ∨ kind = 2) ∧ u.req.digital = false ∧ k.unit = .forward c a ∧ s.work.fwdGroup c.val 0 a 0xFFFF = .ok r)) ∧
    (∃ (s : State) (n : Fin 1024) (k : SessWork) (q : Session) (u : SessRun) (op : Nat) (cmd : Instr), s.board.alive = true ∧ ((op = 2 ∧
     cmd = .sessionAppend n k) ∨ (op = 3 ∧ cmd = .sessionGenerate n k) ∨ (op = 4 ∧ cmd = .sessionScore n k)) ∧ s.work.sess.waiting = [] ∧
     Sp.find s.work.sess.open_ n.val = some q ∧ q.run = some u ∧ u.req.op = op ∧ u.status = none ∧ ∃ ts c a h, u.group = some ts ∧
     s.work.sessUnitRuns n.val = false ∧ u.pos < leAt (s.work.sessProg q.prog) 8 2 ∧
      (let kind := leAt (s.work.sessList q.prog) (8 * u.pos) 1 % 4
       (kind = 2 ∨ (kind = 0 ∧ u.req.digital = false) ∨ (kind = 1 ∧ u.req.digital = true)) ∧ k.unit = .job c a ∧
        s.work.descriptor c.val a 80 64 = some h ∧ ((leAt h 3 1).testBit 0 = false ∨ s.work.ctxState c.val 16 = 0) ∧
        s.work.headerCheck c.val 255 h = 0 ∧ (u.req.digital = false ∨ s.work.copyOpen = false) ∧ s.work.halvesFree c.val h = true ∧
        s.work.macsOn c.val = true ∧ s.work.streamsFit c.val h = true ∧ headerCtxs h ≠ [])) :=
  ⟨⟨st { wk ([(SESS_CTL, 1), (SREQ_SIZE, 4), (SCPL_SIZE, 4), (SCPL_BASE_LO, 1048576)]) with sess := { open_ := [(3, { prog := 0, cap := 8, pages := [1], run := some { req := { op := 3, cls := 0, digital := false, session := 3, tag := 7, count := 4, stop := 9, inAddr := 8192, outAddr := 16384, prog := 0, bad := false } } })], waiting := [], held := [], used := [1] }, mem := cellsOf 0 (toLE 8 4096 ++ [1]) ++ cellsOf 4096 [0] ++ cellsOf (spadBase 0) ([1, 0, 1, 0] ++ toLE 4 1024 ++ toLE 4 2048 ++ toLE 4 4096 ++ zeros 4 ++ [1, 1, 0, 0, 128, 0, 0, 0]) },
    3, { group := 1, unit := .forward 0 0 },
    { prog := 0, cap := 8, pages := [1], run := some { req := { op := 3, cls := 0, digital := false, session := 3, tag := 7, count := 4, stop := 9, inAddr := 8192, outAddr := 16384, prog := 0, bad := false } } },
    { req := { op := 3, cls := 0, digital := false, session := 3, tag := 7, count := 4, stop := 9, inAddr := 8192, outAddr := 16384, prog := 0, bad := false } },
    3, .sessionGenerate (3 : Fin 1024) ({ group := 1, unit := .forward 0 0 } : SessWork), by (repeat' apply And.intro) <;> decide +kernel⟩,
   ⟨st { wk ([(SESS_CTL, 1), (SREQ_SIZE, 4), (SCPL_SIZE, 4), (SCPL_BASE_LO, 1048576)]) with sess := { open_ := [(3, { prog := 0, cap := 8, pages := [1], run := some { req := { op := 3, cls := 0, digital := false, session := 3, tag := 7, count := 4, stop := 9, inAddr := 8192, outAddr := 16384, prog := 0, bad := false }, group := some [] } })], waiting := [], held := [], used := [1], fwd := [(3, (0, { slot := 0xFFFF, vecCount := 1, inBase := 0, inExp := 0, outBase := 0, biasBase := none, rowSegs := 1, outBlks := 1, pexp := 0, entries := [], launch := 0, left := 0 }))] }, mem := cellsOf 0 (toLE 8 4096 ++ [1]) ++ cellsOf 4096 [0] ++ cellsOf (spadBase 0) ([1, 0, 1, 0] ++ toLE 4 1024 ++ toLE 4 2048 ++ toLE 4 4096 ++ zeros 4 ++ [1, 1, 0, 0, 128, 0, 0, 0]) },
    3, { group := 1, unit := .forward 0 0 },
    { prog := 0, cap := 8, pages := [1], run := some { req := { op := 3, cls := 0, digital := false, session := 3, tag := 7, count := 4, stop := 9, inAddr := 8192, outAddr := 16384, prog := 0, bad := false }, group := some [] } },
    { req := { op := 3, cls := 0, digital := false, session := 3, tag := 7, count := 4, stop := 9, inAddr := 8192, outAddr := 16384, prog := 0, bad := false }, group := some [] },
    3, .sessionGenerate (3 : Fin 1024) ({ group := 1, unit := .forward 0 0 } : SessWork), by decide +kernel, by decide +kernel,
    by decide +kernel, by decide +kernel, (by decide +kernel), by decide +kernel, by decide +kernel, [], by (repeat' apply And.intro) <;> decide +kernel⟩,
   ⟨st { wk ([(SESS_CTL, 1), (SREQ_SIZE, 4), (SCPL_SIZE, 4), (SCPL_BASE_LO, 1048576)]) with sess := { open_ := [(3, { prog := 0, cap := 8, pages := [1], run := some { req := { op := 3, cls := 0, digital := true, session := 3, tag := 7, count := 4, stop := 9, inAddr := 8192, outAddr := 16384, prog := 0, bad := false }, group := some [] } })], waiting := [], held := [], used := [1] }, mem := cellsOf 0 (toLE 8 4096 ++ [1]) ++ cellsOf 4096 [0] ++ cellsOf (spadBase 0) ([1, 0, 1, 0] ++ toLE 4 1024 ++ toLE 4 2048 ++ toLE 4 4096 ++ zeros 4 ++ [1, 1, 0, 0, 128, 0, 0, 0]) },
    3, { group := 1, unit := .forward 0 0 },
    { prog := 0, cap := 8, pages := [1], run := some { req := { op := 3, cls := 0, digital := true, session := 3, tag := 7, count := 4, stop := 9, inAddr := 8192, outAddr := 16384, prog := 0, bad := false }, group := some [] } },
    { req := { op := 3, cls := 0, digital := true, session := 3, tag := 7, count := 4, stop := 9, inAddr := 8192, outAddr := 16384, prog := 0, bad := false }, group := some [] },
    3, .sessionGenerate (3 : Fin 1024) ({ group := 1, unit := .forward 0 0 } : SessWork), by decide +kernel, by decide +kernel,
    by decide +kernel, by decide +kernel, (by decide +kernel), by decide +kernel, by decide +kernel, [], by (repeat' apply And.intro) <;> decide +kernel⟩,
   ⟨st { wk ([(SESS_CTL, 1), (SREQ_SIZE, 4), (SCPL_SIZE, 4), (SCPL_BASE_LO, 1048576)]) with sess := { open_ := [(3, { prog := 0, cap := 8, pages := [1], run := some { req := { op := 3, cls := 0, digital := false, session := 3, tag := 7, count := 4, stop := 9, inAddr := 8192, outAddr := 16384, prog := 0, bad := false }, group := some [] } })], waiting := [], held := [], used := [1] }, mem := cellsOf 0 (toLE 8 4096 ++ [1]) ++ cellsOf 4096 [2] ++ cellsOf (spadBase 0) ([1, 0, 1, 0] ++ toLE 4 1024 ++ toLE 4 2048 ++ toLE 4 4096 ++ zeros 4 ++ [1, 1, 0, 0, 128, 0, 0, 0]) },
    3, { group := 1, unit := .forward 0 0 },
    { prog := 0, cap := 8, pages := [1], run := some { req := { op := 3, cls := 0, digital := false, session := 3, tag := 7, count := 4, stop := 9, inAddr := 8192, outAddr := 16384, prog := 0, bad := false }, group := some [] } },
    { req := { op := 3, cls := 0, digital := false, session := 3, tag := 7, count := 4, stop := 9, inAddr := 8192, outAddr := 16384, prog := 0, bad := false }, group := some [] },
    3, .sessionGenerate (3 : Fin 1024) ({ group := 1, unit := .forward 0 0 } : SessWork), by decide +kernel, by decide +kernel,
    by decide +kernel, by decide +kernel, (by decide +kernel), by decide +kernel, by decide +kernel, [], 0, 0,
    (match (st { wk ([(SESS_CTL, 1), (SREQ_SIZE, 4), (SCPL_SIZE, 4), (SCPL_BASE_LO, 1048576)]) with sess := { open_ := [(3, { prog := 0, cap := 8, pages := [1], run := some { req := { op := 3, cls := 0, digital := false, session := 3, tag := 7, count := 4, stop := 9, inAddr := 8192, outAddr := 16384, prog := 0, bad := false }, group := some [] } })], waiting := [], held := [], used := [1] }, mem := cellsOf 0 (toLE 8 4096 ++ [1]) ++ cellsOf 4096 [2] ++ cellsOf (spadBase 0) ([1, 0, 1, 0] ++ toLE 4 1024 ++ toLE 4 2048 ++ toLE 4 4096 ++ zeros 4 ++ [1, 1, 0, 0, 128, 0, 0, 0]) } : State).work.fwdGroup 0 0 0 0xFFFF with | .ok r => r | _ => { slot := 0xFFFF, vecCount := 1, inBase := 0, inExp := 0, outBase := 0, biasBase := none, rowSegs := 1, outBlks := 1, pexp := 0, entries := [], launch := 0, left := 0 }), by (repeat' apply And.intro) <;> decide +kernel⟩,
   ⟨st { wk ([(SESS_CTL, 1), (SREQ_SIZE, 4), (SCPL_SIZE, 4), (SCPL_BASE_LO, 1048576)] ++ [(PD_STATUS 1, 3)]) with sess := { open_ := [(3, { prog := 0, cap := 8, pages := [1], run := some { req := { op := 3, cls := 0, digital := false, session := 3, tag := 7, count := 4, stop := 9, inAddr := 8192, outAddr := 16384, prog := 0, bad := false }, group := some [] } })], waiting := [], held := [], used := [1] }, mem := cellsOf 0 (toLE 8 4096 ++ [1]) ++ cellsOf 4096 [2] ++ cellsOf (spadBase 0) (zeros 8 ++ toLE 4 128 ++ zeros 116 ++ [15]) },
    3, { group := 1, unit := .job 0 0 },
    { prog := 0, cap := 8, pages := [1], run := some { req := { op := 3, cls := 0, digital := false, session := 3, tag := 7, count := 4, stop := 9, inAddr := 8192, outAddr := 16384, prog := 0, bad := false }, group := some [] } },
    { req := { op := 3, cls := 0, digital := false, session := 3, tag := 7, count := 4, stop := 9, inAddr := 8192, outAddr := 16384, prog := 0, bad := false }, group := some [] },
    3, .sessionGenerate (3 : Fin 1024) ({ group := 1, unit := .job 0 0 } : SessWork), by decide +kernel, by decide +kernel,
    by decide +kernel, by decide +kernel, (by decide +kernel), by decide +kernel, by decide +kernel, [], 0, 0,
    ((st { wk ([(SESS_CTL, 1), (SREQ_SIZE, 4), (SCPL_SIZE, 4), (SCPL_BASE_LO, 1048576)] ++ [(PD_STATUS 1, 3)]) with sess := { open_ := [(3, { prog := 0, cap := 8, pages := [1], run := some { req := { op := 3, cls := 0, digital := false, session := 3, tag := 7, count := 4, stop := 9, inAddr := 8192, outAddr := 16384, prog := 0, bad := false }, group := some [] } })], waiting := [], held := [], used := [1] }, mem := cellsOf 0 (toLE 8 4096 ++ [1]) ++ cellsOf 4096 [2] ++ cellsOf (spadBase 0) (zeros 8 ++ toLE 4 128 ++ zeros 116 ++ [15]) } : State).work.descriptor 0 0 80 64).getD [], by (repeat' apply And.intro) <;> decide +kernel⟩⟩

/-- Witnesses of Obligations.SessionsOpenRunAndClose, part 2. -/
theorem test_SessionRequestsAdvanceAndComplete :
    (∃ (s : State) (n : Fin 1024) (k : SessWork) (q : Session) (u : SessRun) (op : Nat) (cmd : Instr) (ts : List Word), s.board.alive = true ∧
     ((op = 2 ∧ cmd = .sessionAppend n k) ∨ (op = 3 ∧ cmd = .sessionGenerate n k) ∨ (op = 4 ∧ cmd = .sessionScore n k)) ∧
     s.work.sess.waiting = [] ∧ Sp.find s.work.sess.open_ n.val = some q ∧ q.run = some u ∧ u.req.op = op ∧ u.status = none ∧
     u.group = some ts ∧ s.work.sessUnitRuns n.val = false ∧ leAt (s.work.sessProg q.prog) 8 2 ≤ u.pos) ∧
    (∃ (s : State) (n : Fin 1024) (q : Session) (u : SessRun) (st : Nat), s.board.alive = true ∧ s.work.sess.waiting = [] ∧
     Sp.find s.work.sess.open_ n.val = some q ∧ q.run = some u ∧ u.status = some st ∧
      (let cpl := s.work.base SCPL_BASE_LO SCPL_BASE_HI + 32 * s.work.fld SCPL_TAIL 0 16
       s.work.cplFull = false ∧ s.work.sess.held = [] ∧ inStacks cpl 32 = true)) ∧
    (∃ (s : State) (n : Fin 1024) (q : Session) (u : SessRun) (st : Nat), s.board.alive = true ∧ s.work.sess.waiting = [] ∧
     Sp.find s.work.sess.open_ n.val = some q ∧ q.run = some u ∧ u.status = some st ∧ (s.work.cplFull = true ∨ s.work.sess.held ≠ [])) :=
  ⟨⟨st { wk ([(SESS_CTL, 1), (SREQ_SIZE, 4), (SCPL_SIZE, 4), (SCPL_BASE_LO, 1048576)]) with sess := { open_ := [(3, { prog := 0, cap := 8, pages := [1], run := some { req := { op := 3, cls := 0, digital := true, session := 3, tag := 7, count := 4, stop := 9, inAddr := 8192, outAddr := 16384, prog := 0, bad := false }, group := some [] } })], waiting := [], held := [], used := [1] }, mem := cellsOf 0 (toLE 8 4096 ++ [0]) ++ cellsOf 4096 [0] ++ cellsOf (spadBase 0) ([1, 0, 1, 0] ++ toLE 4 1024 ++ toLE 4 2048 ++ toLE 4 4096 ++ zeros 4 ++ [1, 1, 0, 0, 128, 0, 0, 0]) },
    3, { group := 1, unit := .forward 0 0 },
    { prog := 0, cap := 8, pages := [1], run := some { req := { op := 3, cls := 0, digital := true, session := 3, tag := 7, count := 4, stop := 9, inAddr := 8192, outAddr := 16384, prog := 0, bad := false }, group := some [] } },
    { req := { op := 3, cls := 0, digital := true, session := 3, tag := 7, count := 4, stop := 9, inAddr := 8192, outAddr := 16384, prog := 0, bad := false }, group := some [] },
    3, .sessionGenerate (3 : Fin 1024) ({ group := 1, unit := .forward 0 0 } : SessWork), [], by (repeat' apply And.intro) <;> decide +kernel⟩,
   ⟨st { wk ([(SESS_CTL, 1), (SREQ_SIZE, 4), (SCPL_SIZE, 4), (SCPL_BASE_LO, 1048576)]) with sess := { open_ := [(3, { prog := 0, cap := 8, pages := [1], run := some { req := { op := 3, cls := 0, digital := false, session := 3, tag := 7, count := 4, stop := 9, inAddr := 8192, outAddr := 16384, prog := 0, bad := false }, status := some 0 } })], waiting := [], held := [], used := [1] }, mem := [] },
    3,
    { prog := 0, cap := 8, pages := [1], run := some { req := { op := 3, cls := 0, digital := false, session := 3, tag := 7, count := 4, stop := 9, inAddr := 8192, outAddr := 16384, prog := 0, bad := false }, status := some 0 } },
    { req := { op := 3, cls := 0, digital := false, session := 3, tag := 7, count := 4, stop := 9, inAddr := 8192, outAddr := 16384, prog := 0, bad := false }, status := some 0 },
    0, by (repeat' apply And.intro) <;> decide +kernel⟩,
   ⟨st { wk ((SCPL_TAIL, 3) :: [(SESS_CTL, 1), (SREQ_SIZE, 4), (SCPL_SIZE, 4), (SCPL_BASE_LO, 1048576)]) with sess := { open_ := [(3, { prog := 0, cap := 8, pages := [1], run := some { req := { op := 3, cls := 0, digital := false, session := 3, tag := 7, count := 4, stop := 9, inAddr := 8192, outAddr := 16384, prog := 0, bad := false }, status := some 0 } })], waiting := [], held := [], used := [1] }, mem := [] },
    3,
    { prog := 0, cap := 8, pages := [1], run := some { req := { op := 3, cls := 0, digital := false, session := 3, tag := 7, count := 4, stop := 9, inAddr := 8192, outAddr := 16384, prog := 0, bad := false }, status := some 0 } },
    { req := { op := 3, cls := 0, digital := false, session := 3, tag := 7, count := 4, stop := 9, inAddr := 8192, outAddr := 16384, prog := 0, bad := false }, status := some 0 },
    0, by (repeat' apply And.intro) <;> decide +kernel⟩⟩

/-- Witnesses of Obligations.LinesAndBlocksAreReadAndStored, part 1. -/
theorem test_LinesAreReadAndRetried :
    (∃ (s : State) (i : Issuer) (a : Nat) (bad pbad : List Nat), s.board.alive = true ∧ a < apertureBase ∧ s.work.current i = false) ∧
    (∃ (s : State) (i : Issuer) (a : Nat) (bad pbad : List Nat), s.board.alive = true ∧ a < apertureBase ∧
      (let line := a / 256
       let m := (stackOf (256 * line)).1
       s.work.current i = true ∧ s.work.serves m = false)) ∧
    (∃ (s : State) (i : Issuer) (a : Nat) (bad pbad : List Nat), s.board.alive = true ∧ a < apertureBase ∧
      (let line := a / 256
       let m := (stackOf (256 * line)).1
       let b := if s.work.poison.contains line then pbad else bad
       s.work.current i = true ∧ s.work.serves m = true ∧ (if s.work.erasure m then further b (s.work.failedDie m) ≤ 4 else b.length ≤ 8))) ∧
    (∃ (s : State) (i : Issuer) (a : Nat) (bad pbad : List Nat), s.board.alive = true ∧ a < apertureBase ∧
      (let line := a / 256
       let m := (stackOf (256 * line)).1
       let b := if s.work.poison.contains line then pbad else bad
       s.work.current i = true ∧ s.work.serves m = true ∧
        (¬ (if s.work.erasure m then further b (s.work.failedDie m) ≤ 4 else b.length ≤ 8)))) ∧
    (∃ (s : State) (a : Nat) (bad pbad : List Nat) (r : Retry) (rest : List Retry), s.board.alive = true ∧ a < apertureBase ∧
      (let line := a / 256
       let m := (stackOf (256 * line)).1
       let b2 := if s.work.poison.contains line then pbad else bad
       (s.work.memc m).retries = r :: rest ∧ r.line = line ∧ s.work.serves m = true ∧ s.work.decodes m b2 = true ∧
        s.work.current r.issuer = false)) ∧
    (∃ (s : State) (a : Nat) (bad pbad : List Nat) (r : Retry) (rest : List Retry), s.board.alive = true ∧ a < apertureBase ∧
      (let line := a / 256
       let m := (stackOf (256 * line)).1
       let b2 := if s.work.poison.contains line then pbad else bad
       (s.work.memc m).retries = r :: rest ∧ r.line = line ∧ s.work.serves m = true ∧ s.work.decodes m b2 = true ∧
        s.work.current r.issuer = true)) ∧
    (∃ (s : State) (a : Nat) (bad pbad : List Nat) (r : Retry) (rest : List Retry), s.board.alive = true ∧ a < apertureBase ∧
      (let line := a / 256
       let m := (stackOf (256 * line)).1
       let b1 := if s.work.poison.contains line then r.pbad else r.bad
       let b2 := if s.work.poison.contains line then pbad else bad
       (s.work.memc m).retries = r :: rest ∧ r.line = line ∧ s.work.serves m = true ∧ s.work.decodes m b2 = false ∧
        s.work.erasure m = false ∧ s.work.current r.issuer = true ∧ ∃ z : Fin 18, trialDies b1 = [z.val] ∧ trialDies b2 = [z.val])) ∧
    (∃ (s : State) (a : Nat) (bad pbad : List Nat) (r : Retry) (rest : List Retry), s.board.alive = true ∧ a < apertureBase ∧
      (let line := a / 256
       let m := (stackOf (256 * line)).1
       let b2 := if s.work.poison.contains line then pbad else bad
       (s.work.memc m).retries = r :: rest ∧ r.line = line ∧ s.work.serves m = true ∧ s.work.decodes m b2 = false ∧ s.work.erasure m = true ∧
        s.work.current r.issuer = true)) :=
  ⟨⟨State.reset, { unit := 1220, gen := 1 }, 0, [3], [], by (repeat' apply And.intro) <;> decide +kernel⟩,
   ⟨st (wk [(MC_STATUS 0, 1)]), { unit := 1220, gen := 0 }, 0, [3], [], by (repeat' apply And.intro) <;> decide +kernel⟩,
   ⟨st { wk [(MC_STATUS 0, 0)] with mem := cellsOf 0 [7] }, { unit := 1220, gen := 0 }, 0, [3], [], by (repeat' apply And.intro) <;> decide +kernel⟩,
   ⟨st { wk [(MC_STATUS 0, 0)] with mem := cellsOf 0 [7] }, { unit := 1220, gen := 0 }, 0, [0, 1, 2, 3, 4, 5, 6, 7, 8], [], by (repeat' apply And.intro) <;> decide +kernel⟩,
   ⟨st { wk ([(MC_STATUS 0, 0)]) with memcs := [(0, { retries := [{ issuer := { unit := 1220, gen := 1 }, line := 0, bad := [0, 1, 2, 3, 4, 5, 6, 7, 8], pbad := [] }] })] },
    0, [], [], { issuer := { unit := 1220, gen := 1 }, line := 0, bad := [0, 1, 2, 3, 4, 5, 6, 7, 8], pbad := [] }, [], by (repeat' apply And.intro) <;> decide +kernel⟩,
   ⟨st { wk ([(MC_STATUS 0, 0)]) with memcs := [(0, { retries := [{ issuer := { unit := 1220, gen := 0 }, line := 0, bad := [0, 1, 2, 3, 4, 5, 6, 7, 8], pbad := [] }] })] },
    0, [], [], { issuer := { unit := 1220, gen := 0 }, line := 0, bad := [0, 1, 2, 3, 4, 5, 6, 7, 8], pbad := [] }, [], by (repeat' apply And.intro) <;> decide +kernel⟩,
   ⟨st { wk ([(MC_STATUS 0, 0)]) with memcs := [(0, { retries := [{ issuer := { unit := 1220, gen := 0 }, line := 0, bad := ((List.range 288).filter (fun p => dieOf p == 5) ++ [100]), pbad := [] }] })] },
    0, (List.range 288).filter (fun p => dieOf p == 5) ++ [100], [],
    { issuer := { unit := 1220, gen := 0 }, line := 0, bad := ((List.range 288).filter (fun p => dieOf p == 5) ++ [100]), pbad := [] }, [],
    by decide +kernel, by decide +kernel, by decide +kernel, by decide +kernel, (by decide +kernel), by decide +kernel, by decide +kernel,
    by decide +kernel, 5, by (repeat' apply And.intro) <;> decide +kernel⟩,
   ⟨st { wk ([(MC_STATUS 0, 2)]) with memcs := [(0, { retries := [{ issuer := { unit := 1220, gen := 0 }, line := 0, bad := List.range 100, pbad := [] }] })] },
    0, List.range 100, [], { issuer := { unit := 1220, gen := 0 }, line := 0, bad := List.range 100, pbad := [] }, [], by (repeat' apply And.intro) <;> decide +kernel⟩⟩

/-- Witnesses of Obligations.RegionsRetireAndZeroise. -/
theorem test_RegionsRetireAndZeroise :
    (∃ (s : State) (m : Fin 12) (r : Nat), s.board.alive = true ∧ r < 32768 ∧
      (let k := s.work.memc m.val
       let lim := if s.work.fld (CE_LIM m.val) 0 16 = 0 then 1 else s.work.fld (CE_LIM m.val) 0 16
       (Sp.get k.counts 0 r < lim ∨ r ∈ k.retired))) ∧
    (∃ (s : State) (m : Fin 12) (r : Nat), s.board.alive = true ∧ r < 32768 ∧
      (let k := s.work.memc m.val
       let lim := if s.work.fld (CE_LIM m.val) 0 16 = 0 then 1 else s.work.fld (CE_LIM m.val) 0 16
       lim ≤ Sp.get k.counts 0 r ∧ r ∉ k.retired ∧ k.retired.length < 64)) ∧
    (∃ (s : State) (m : Fin 12) (r : Nat), s.board.alive = true ∧ r < 32768 ∧
      (let k := s.work.memc m.val
       let lim := if s.work.fld (CE_LIM m.val) 0 16 = 0 then 1 else s.work.fld (CE_LIM m.val) 0 16
       lim ≤ Sp.get k.counts 0 r ∧ r ∉ k.retired ∧ 64 ≤ k.retired.length)) ∧
    (∃ (s : State) (p : Path) (m : Fin 12), s.board.alive = true ∧ s.work.Writable p (MC_CTL m.val) 1 ∧ s.work.serves m.val = true) ∧
    (∃ (s : State) (p : Path) (m : Fin 12), s.board.alive = true ∧ s.work.Writable p (MC_CTL m.val) 1 ∧ s.work.serves m.val = false) ∧
    (∃ (s : State) (m : Fin 12) (lo n : Nat) (whole : Bool), s.board.alive = true ∧ (s.work.memc m.val).zero = some (lo, n, whole) ∧
     s.work.access.waits = [] ∧ s.work.parked = [] ∧ s.work.red = {} ∧ s.work.links = []) :=
  ⟨⟨st { wk ([(MC_STATUS 0, 0)]) with memcs := [(0, { counts := [(5, 9)], retired := [5] })] }, 0, 5, by (repeat' apply And.intro) <;> decide +kernel⟩,
   ⟨st { wk ([(MC_STATUS 0, 0)]) with memcs := [(0, { counts := [(5, 90000)], retired := [6] })] }, 0, 5, by (repeat' apply And.intro) <;> decide +kernel⟩,
   ⟨st { wk ([(MC_STATUS 0, 0)]) with memcs := [(0, { counts := [(5, 90000)], retired := List.range 64 |>.map (· + 100) })] }, 0, 5, by (repeat' apply And.intro) <;> decide +kernel⟩,
   ⟨st (wk [(MC_STATUS 0, 0), (ZERO_BASE 0, 32767)]), .controller, 0, by (repeat' apply And.intro) <;> decide +kernel⟩,
   ⟨st (wk [(MC_STATUS 0, 1)]), .controller, 0, by (repeat' apply And.intro) <;> decide +kernel⟩,
   ⟨st { wk ([(MC_STATUS 0, 1)]) with memcs := [(0, { zero := some (0, 3, true) })], mem := cellsOf 0 [7], poison := [0] }, 0, 0, 3, true, by (repeat' apply And.intro) <;> decide +kernel⟩⟩

/-- Witnesses of Obligations.LinesAndBlocksAreReadAndStored, part 2. -/
theorem test_WritesAndBlocksAreStored :
    (∃ (s : State) (i : Issuer) (a : Nat) (d : List Byte) (p : Bool) (bad retry : List Nat), s.board.alive = true ∧
     inStacks a d.length = true ∧ s.work.current i = false) ∧
    (∃ (s : State) (i : Issuer) (a : Nat) (d : List Byte) (p : Bool) (bad retry : List Nat), s.board.alive = true ∧
     inStacks a d.length = true ∧ s.work.current i = true ∧ s.work.rangeServes a d.length = false) ∧
    (∃ (s : State) (i : Issuer) (a : Nat) (d : List Byte) (p : Bool) (bad retry : List Nat), s.board.alive = true ∧
     inStacks a d.length = true ∧ s.work.current i = true ∧ s.work.rangeServes a d.length = true) ∧
    (∃ (s : State) (b : Block), s.board.alive = true ∧ (b.eight = none → inStacks b.dest b.data.length = true) ∧
     (b.eight ≠ none → 2 ^ 40 ≤ b.dest) ∧ b.dest % 256 = 0 ∧ s.work.current b.issuer = false) ∧
    (∃ (s : State) (b : Block), s.board.alive = true ∧ (b.eight = none → inStacks b.dest b.data.length = true) ∧
     (b.eight ≠ none → 2 ^ 40 ≤ b.dest) ∧ b.dest % 256 = 0 ∧ s.work.current b.issuer = true ∧ s.work.blockServed b = false) ∧
    (∃ (s : State) (b : Block), s.board.alive = true ∧ (b.eight = none → inStacks b.dest b.data.length = true) ∧
     (b.eight ≠ none → 2 ^ 40 ≤ b.dest) ∧ b.dest % 256 = 0 ∧ s.work.current b.issuer = true ∧ s.work.blockServed b = true ∧
     crc32c (b.data ++ toBE 2 b.poisonMap) = b.check) ∧
    (∃ (s : State) (b : Block), s.board.alive = true ∧ (b.eight = none → inStacks b.dest b.data.length = true) ∧
     (b.eight ≠ none → 2 ^ 40 ≤ b.dest) ∧ b.dest % 256 = 0 ∧ s.work.current b.issuer = true ∧ s.work.blockServed b = true ∧
     crc32c (b.data ++ toBE 2 b.poisonMap) ≠ b.check) ∧
    (∃ (s : State) (b : Block), s.board.alive = true ∧ (b.eight = none → inStacks b.dest b.data.length = true) ∧
     (b.eight ≠ none → 2 ^ 40 ≤ b.dest) ∧ b.dest % 256 = 0 ∧ s.work.current b.issuer = true ∧ s.work.blockServed b = true ∧
     (b.dest, b.source) ∈ s.work.asked) ∧
    (∃ (s : State) (b : Block), s.board.alive = true ∧ (b.eight = none → inStacks b.dest b.data.length = true) ∧
     (b.eight ≠ none → 2 ^ 40 ≤ b.dest) ∧ b.dest % 256 = 0 ∧ (b.dest, b.source) ∉ s.work.asked) :=
  ⟨⟨State.reset, { unit := 1220, gen := 1 }, 0, List.replicate 260 3, false, [], [], by (repeat' apply And.intro) <;> decide +kernel⟩,
   ⟨st (wk [(MC_STATUS 0, 1), (MC_STATUS 1, 1)]), { unit := 1220, gen := 0 }, 0, List.replicate 260 3, false, [], [], by (repeat' apply And.intro) <;> decide +kernel⟩,
   ⟨st { up (wk []) with mem := cellsOf 0 (zeros 10 ++ [5]) }, { unit := 1220, gen := 0 }, 0, List.replicate 260 3, false, [], [], by (repeat' apply And.intro) <;> decide +kernel⟩,
   ⟨State.reset,
    { issuer := { unit := 1220, gen := 1 }, eight := none, dest := 256, source := 4096, data := [1, 2, 3, 4], check := 0, poisonMap := 1 }, by (repeat' apply And.intro) <;> decide +kernel⟩,
   ⟨st (wk [(MC_STATUS 0, 1), (MC_STATUS 1, 1)]),
    { issuer := { unit := 1220, gen := 0 }, eight := none, dest := 256, source := 4096, data := [1, 2, 3, 4], check := 0, poisonMap := 1 }, by (repeat' apply And.intro) <;> decide +kernel⟩,
   ⟨st { up (wk []) with mem := cellsOf 260 [7] },
    { issuer := { unit := 1220, gen := 0 }, eight := none, dest := 256, source := 4096, data := [1, 2, 3, 4], check := crc32c ([1, 2, 3, 4] ++ toBE 2 1), poisonMap := 1 }, by (repeat' apply And.intro) <;> decide +kernel⟩,
   ⟨st (up (wk [])),
    { issuer := { unit := 1220, gen := 0 }, eight := none, dest := 256, source := 4096, data := [1, 2, 3, 4], check := 0, poisonMap := 1 }, by (repeat' apply And.intro) <;> decide +kernel⟩,
   ⟨st { up (wk []) with asked := [(256, 4096)] },
    { issuer := { unit := 1220, gen := 0 }, eight := none, dest := 256, source := 4096, data := [1, 2, 3, 4], check := 0, poisonMap := 1 }, by (repeat' apply And.intro) <;> decide +kernel⟩,
   ⟨State.reset,
    { issuer := { unit := 1220, gen := 0 }, eight := some 3, dest := 2 ^ 41 + 256, source := 4096, data := [1, 2, 3, 4], check := 0, poisonMap := 1 }, by (repeat' apply And.intro) <;> decide +kernel⟩⟩

/-- Witnesses of Obligations.PortsTrainAndFindTheirPartners. -/
theorem test_PortsTrainAndFindTheirPartners :
    (∃ (s : State) (k : Fin 40) (pm m : Nat) (t : Nat × Bool) (lanes : Fin 16), s.board.alive = true ∧ (s.work.link k.val).train = some t ∧
     (s.work.link k.val).replay = [] ∧ (s.work.link k.val).queue = [] ∧ (s.work.link k.val).answers = [] ∧
     bestMode (s.work.trainModes k.val pm) = some m) ∧
    (∃ (s : State) (k : Fin 40) (pm : Nat) (t : Nat × Bool) (lanes : Fin 16), s.board.alive = true ∧ (s.work.link k.val).train = some t ∧
     s.work.trainModes k.val pm = []) ∧
    (∃ (s : State) (k : Fin 40) (pm m : Nat) (t : Nat × Bool) (lanes : Fin 16), s.board.alive = true ∧ k.val < 36 ∧
     (s.work.link k.val).train = some t ∧ s.work.direct k.val = true ∧ (s.work.link k.val).queue = [] ∧ (s.work.link k.val).answers = [] ∧
     s.work.flag (LINK_CFG k.val) 12 = false ∧ bestMode (s.work.trainModes k.val pm) = some m) ∧
    (∃ (s : State) (k : Fin 40), s.board.alive = true ∧ k.val < 36 ∧ s.work.portUp k.val = true ∧ (s.work.link k.val).queue = [] ∧
     (s.work.link k.val).answers = [] ∧
     (s.work.direct k.val = false ∨ s.work.replayRoom k.val (s.work.mkPkt 8 0xFFFF 0 0 0 0 ([1, 0] ++ toBE 2 s.work.node ++ toBE 1 k.val)) = true)) ∧
    (∃ (s : State) (k : Fin 40), s.board.alive = true ∧ s.work.portUp k.val = true ∧ (s.work.link k.val).classed = false) ∧
    (∃ (s : State) (k : Fin 40) (node block : Nat), s.board.alive = true ∧ k.val < 36 ∧ block < 40 ∧ node < 65536 ∧
     s.work.hears k.val = true ∧ (s.work.direct k.val = true ∨ ((s.work.link k.val).classed = false ∧
     s.work.now ≤ (s.work.link k.val).upAt + 100000))) ∧
    (∃ (s : State) (p : Path) (k : Fin 40) (reduced : Bool), s.board.alive = true ∧ s.work.modes k.val ≠ 0 ∧
     (ringPort k.val = true → s.work.bypState k.val = 3) ∧ (reducedLanes (s.work.fld (LANE_STATUS k.val) 0 4)).isSome = true ∧
     s.work.Writable p (LINK_CTL k.val) 1) ∧
    (∃ (s : State) (p : Path) (k : Fin 40) (reduced : Bool), s.board.alive = true ∧ s.work.modes k.val ≠ 0 ∧
     (ringPort k.val = true → s.work.bypState k.val = 3) ∧ (reducedLanes (s.work.fld (LANE_STATUS k.val) 0 4)).isSome = true ∧
     s.work.flag (LINK_STATUS k.val) 0 = true) :=
  ⟨⟨st { wk ([(LINK_STATUS 0, 1)]) with links := [(0, { train := some (0, true), everUp := true })] }, 0, 1023,
    (bestMode ((st { wk ([(LINK_STATUS 0, 1)]) with links := [(0, { train := some (0, true), everUp := true })] } : State).work.trainModes 0 1023)).getD 0,
    (0, true), 15, by (repeat' apply And.intro) <;> decide +kernel⟩,
   ⟨st { wk ([(LINK_STATUS 0, 1)]) with links := [(0, { train := some (0, true), everUp := true })] }, 0, 0, (0, true), 15, by (repeat' apply And.intro) <;> decide +kernel⟩,
   ⟨st { wk ([(LINK_STATUS 0, 33)]) with links := [(0, { train := some (0, true), replay := [(2, { pk 8 0 0 0 [0, 0] with lseq := 7, lack := 3 })] })] },
    0, 1023,
    (bestMode ((st { wk ([(LINK_STATUS 0, 33)]) with links := [(0, { train := some (0, true), replay := [(2, { pk 8 0 0 0 [0, 0] with lseq := 7, lack := 3 })] })] } : State).work.trainModes 0 1023)).getD 0,
    (0, true), 15, by (repeat' apply And.intro) <;> decide +kernel⟩,
   ⟨st { wk ([(LINK_STATUS 0, 1)]) with links := [(0, {})] }, 0, by (repeat' apply And.intro) <;> decide +kernel⟩,
   ⟨st { wk ([(LINK_STATUS 0, 33)]) with links := [(0, {})] }, 0, by (repeat' apply And.intro) <;> decide +kernel⟩,
   ⟨st { wk ([(LINK_STATUS 0, 1)]) with links := [(0, {})] }, 0, 9, 3, by (repeat' apply And.intro) <;> decide +kernel⟩,
   ⟨st { wk ([(LINK_STATUS 0, 1)]) with links := [(0, { everUp := true })] }, .controller, 0, true, by (repeat' apply And.intro) <;> decide +kernel⟩,
   ⟨st { wk ([(LINK_STATUS 0, 1)]) with links := [(0, { everUp := true })] }, .controller, 0, true, by (repeat' apply And.intro) <;> decide +kernel⟩⟩

/-- Witnesses of Obligations.FramesAndRingPairsAreServed, part 1. -/
theorem test_FramesAreTakenAndReplayed :
    (∃ (s : State) (k : Fin 40) (p : Packet), s.board.alive = true ∧ k.val < 36 ∧ s.work.portUp k.val = true ∧ s.work.direct k.val = true ∧
     (s.work.link k.val).lost = none ∧ p.lseq = (s.work.link k.val).rxSeq ∧ p.lseq < 65536 ∧ s.work.accepts p = true ∧
     (s.work.link k.val).queue = [] ∧ (s.work.link k.val).answers = [] ∧ s.work.frameBytes k.val p ≤ 9216) ∧
    (∃ (s : State) (k : Fin 40) (p : Packet) (x : Nat) (es : List Nat), s.board.alive = true ∧ k.val < 36 ∧ s.work.portUp k.val = true ∧
     9216 < s.work.frameBytes k.val p) ∧
    (∃ (s : State) (k : Fin 40) (p : Packet) (x : Nat) (es : List Nat), s.board.alive = true ∧ k.val < 36 ∧ s.work.portUp k.val = true ∧
     s.work.frameBytes k.val p ≤ 9216 ∧ s.work.direct k.val = true ∧ (s.work.link k.val).lost = some (x, es) ∧ p.lseq ≠ x) ∧
    (∃ (s : State) (k : Fin 40) (p : Packet) (x : Nat) (es : List Nat), s.board.alive = true ∧ k.val < 36 ∧ s.work.portUp k.val = true ∧
     s.work.frameBytes k.val p ≤ 9216 ∧ s.work.direct k.val = true ∧ (s.work.link k.val).lost = some (x, es) ∧ p.lseq = x ∧
     (s.work.link k.val).queue = [] ∧ (s.work.link k.val).answers = [] ∧ s.work.accepts p = true) ∧
    (∃ (s : State) (k : Fin 40) (lseq : Nat) (errs : List Nat) (words : Nat), s.board.alive = true ∧ s.work.portUp k.val = true ∧
     s.work.direct k.val = true ∧ (s.work.link k.val).queue = [] ∧ (s.work.link k.val).answers = [] ∧
     s.work.replayRoom k.val (s.work.mkPkt 8 0xFFFF 0 0 0 0 ([3, 0] ++ toBE 2 lseq)) = true ∧ (s.work.link k.val).lost = none) ∧
    (∃ (s : State) (k : Fin 40) (lseq : Nat) (errs : List Nat) (words : Nat), s.board.alive = true ∧ s.work.portUp k.val = true ∧
     s.work.direct k.val = true ∧ (s.work.link k.val).queue = [] ∧ (s.work.link k.val).answers = [] ∧
     s.work.replayRoom k.val (s.work.mkPkt 8 0xFFFF 0 0 0 0 ([3, 0] ++ toBE 2 lseq)) = true ∧
     ∃ es, (s.work.link k.val).lost = some (lseq, es)) ∧
    (∃ (s : State) (k : Fin 40), s.board.alive = true ∧ s.work.portUp k.val = true) ∧
    (∃ (s : State) (k : Fin 40) (lseq : Nat), s.board.alive = true ∧ s.work.direct k.val = true ∧ s.work.hears k.val = true) ∧
    (∃ (s : State) (k : Fin 40) (lseq : Nat), s.board.alive = true ∧ s.work.direct k.val = true ∧ s.work.hears k.val = true ∧
     (s.work.link k.val).queue = [] ∧ (s.work.link k.val).answers = []) ∧
    (∃ (s : State) (k : Fin 40) (lseq : Nat), s.board.alive = true ∧ s.work.direct k.val = true ∧ s.work.hears k.val = true ∧
     (s.work.link k.val).queue = [] ∧ (s.work.link k.val).answers = [] ∧
     s.work.replayRoom k.val (s.work.mkPkt 8 0xFFFF 0 0 0 0 [2, 0]) = true) ∧
    (∃ (s : State) (k : Fin 40) (prio : Fin 8) (ns : Nat), s.board.alive = true ∧ s.work.portUp k.val = true ∧
     (s.work.link k.val).queue = [] ∧ (s.work.link k.val).answers = []) :=
  ⟨⟨st { wk ([(LINK_STATUS 0, 33), (NODE, 1)]) with links := [(0, { rxSeq := 7, replay := [(2, { pk 8 0 0 0 [0, 0] with lseq := 7, lack := 3 }), (3, { pk 8 0 0 0 [0, 0] with lseq := 7, lack := 3 })] })] },
    0, { pk 8 0 0 0 [0, 0] with lseq := 7, lack := 3 }, by (repeat' apply And.intro) <;> decide +kernel⟩,
   ⟨st { wk ([(LINK_STATUS 0, 33)]) with links := [(0, {})] }, 0,
    { { pk 8 0 0 0 [0, 0] with lseq := 7, lack := 3 } with payload := zeros 9200 }, 7, [], by (repeat' apply And.intro) <;> decide +kernel⟩,
   ⟨st { wk ([(LINK_STATUS 0, 33)]) with links := [(0, { lost := some (8, [1]) })] }, 0, { pk 8 0 0 0 [0, 0] with lseq := 7, lack := 3 },
    8, [1], by (repeat' apply And.intro) <;> decide +kernel⟩,
   ⟨st { wk ([(LINK_STATUS 0, 33), (NODE, 1)]) with links := [(0, { lost := some (7, [1]) })] }, 0,
    { pk 8 0 0 0 [0, 0] with lseq := 7, lack := 3 }, 7, [1], by (repeat' apply And.intro) <;> decide +kernel⟩,
   ⟨st { wk ([(LINK_STATUS 0, 33)]) with links := [(0, {})] }, 0, 7, [0, 0, 2, 0], 3, by (repeat' apply And.intro) <;> decide +kernel⟩,
   ⟨st { wk ([(LINK_STATUS 0, 33)]) with links := [(0, { lost := some (7, [0, 1]) })] }, 0, 7, [0, 0, 2, 0], 3, by decide +kernel,
    by decide +kernel, by decide +kernel, by decide +kernel, (by decide +kernel), by decide +kernel, [0, 1], by decide +kernel⟩,
   ⟨st { wk ([(LINK_STATUS 0, 33)]) with links := [(0, {})] }, 0, by (repeat' apply And.intro) <;> decide +kernel⟩,
   ⟨st { wk ([(LINK_STATUS 0, 33)]) with links := [(0, { rxSeq := 7, replay := [(2, { pk 8 0 0 0 [0, 0] with lseq := 7, lack := 3 }), (3, { pk 8 0 0 0 [0, 0] with lseq := 7, lack := 3 })] })] },
    0, 3, by (repeat' apply And.intro) <;> decide +kernel⟩,
   ⟨st { wk ([(LINK_STATUS 0, 33)]) with links := [(0, { rxSeq := 7, replay := [(2, { pk 8 0 0 0 [0, 0] with lseq := 7, lack := 3 }), (3, { pk 8 0 0 0 [0, 0] with lseq := 7, lack := 3 })] })] },
    0, 3, by (repeat' apply And.intro) <;> decide +kernel⟩,
   ⟨st { wk ([(LINK_STATUS 0, 33)]) with links := [(0, { rxSeq := 7, txSeq := 4 })] }, 0, 0, by (repeat' apply And.intro) <;> decide +kernel⟩,
   ⟨st { wk ([(LINK_STATUS 0, 1)]) with links := [(0, {})] }, 0, 3, 500, by (repeat' apply And.intro) <;> decide +kernel⟩⟩

/-- Witnesses of Obligations.FramesAndRingPairsAreServed, part 2. -/
theorem test_RingPairsOpenAndClose :
    (∃ (s : State) (b : Bool), s.board.alive = true ∧ s.work.bypState (westPort b) = 1 ∧ (s.work.link (westPort b)).listenLocked = false) ∧
    (∃ (s : State) (k : Fin 40) (p : Packet) (c : Ctrl), s.Hears k p 19 c ∧ s.work.portUp k.val = true ∧ c.body.length = 12 ∧
     s.work.mgr.mgrNode = some p.src ∧ ringPort (beAt c.body 0 1) = true ∧ s.work.bypState (beAt c.body 0 1) = 1) ∧
    (∃ (s : State) (b : Bool) (t : Nat), s.board.alive = true ∧
      (let west := westPort b
       (s.work.link west).openAt = some t ∧ s.work.bypState west = 2 ∧ beatBefore s.work.beatFull t = false)) ∧
    (∃ (s : State) (b : Bool) (t : Nat), s.board.alive = true ∧
      (let west := westPort b
       ∃ (p : Path) (k : Fin 40), k.val = west ∧ s.work.Writable p (LINK_CTL west) 2 ∧ s.work.bypState west = 1)) ∧
    (∃ (s : State) (b : Bool) (t : Nat), s.board.alive = true ∧
      (let west := westPort b
       ∃ (p : Path) (k : Fin 40), k.val = west ∧ s.work.Writable p (LINK_CTL west) 4 ∧ s.work.bypState west = 3)) :=
  ⟨⟨st (wk [(LINK_STATUS 34, 0x400)]), true, by (repeat' apply And.intro) <;> decide +kernel⟩,
   ⟨st { wk (net ++ [(LINK_STATUS 34, 0x400)]) with mgr := { mgrNode := some 7 } }, 0, msg 19 0 ([34, 0, 0, 0] ++ toBE 8 100),
    ctl 19 0 ([34, 0, 0, 0] ++ toBE 8 100), by (repeat' apply And.intro) <;> decide +kernel⟩,
   ⟨st { wk ([(BEAT_COUNT_LO, 100), (LINK_STATUS 34, 0x800)]) with links := [(34, { openAt := some 100 })] }, true, 100, by (repeat' apply And.intro) <;> decide +kernel⟩,
   ⟨st { wk ([(LINK_STATUS 34, 0x400)]) with links := [(34, { openAt := some 100 })] }, true, 100, by decide +kernel, .controller, 34, by (repeat' apply And.intro) <;> decide +kernel⟩,
   ⟨st { wk ([(LINK_STATUS 34, 0xC01)]) with links := [(34, { openAt := some 100 })] }, true, 100, by decide +kernel, .controller, 34, by (repeat' apply And.intro) <;> decide +kernel⟩⟩

/-- Witnesses of Obligations.BlocksTravelAndFlowsAreAcknowledged, part 1. -/
theorem test_BlocksTravelInFlows :
    (∃ (s : State) (k : Fin 40) (p : Packet) (cmd : Instr), ((cmd = .data k p ∧ s.Receives k p 0) ∨ (cmd = .readResp k p ∧
     s.Receives k p 11)) ∧ dataOk p = true ∧ s.work.packetServed p = false) ∧
    (∃ (s : State) (k : Fin 40) (p : Packet) (cmd : Instr), ((cmd = .data k p ∧ s.Receives k p 0) ∨ (cmd = .readResp k p ∧
     s.Receives k p 11)) ∧ dataOk p = true ∧
      (let b := blockOf p
       s.work.packetServed p = true ∧ crc32c (b.data ++ toBE 2 b.poisonMap) = b.check)) ∧
    (∃ (s : State) (k : Fin 40) (p : Packet) (cmd : Instr), ((cmd = .data k p ∧ s.Receives k p 0) ∨ (cmd = .readResp k p ∧
     s.Receives k p 11)) ∧ dataOk p = true ∧
      (let b := blockOf p
       s.work.packetServed p = true ∧ crc32c (b.data ++ toBE 2 b.poisonMap) ≠ b.check ∧ (s.work.rxFlow p).retry = false)) ∧
    (∃ (s : State) (k : Fin 40) (p : Packet) (cmd : Instr), ((cmd = .data k p ∧ s.Receives k p 0) ∨ (cmd = .readResp k p ∧
     s.Receives k p 11)) ∧ dataOk p = true ∧
      (let b := blockOf p
       s.work.packetServed p = true ∧ crc32c (b.data ++ toBE 2 b.poisonMap) ≠ b.check ∧ (s.work.rxFlow p).retry = true)) ∧
    (∃ (s : State) (k : Fin 40) (p : Packet), s.Receives k p 10 ∧ readOk p = true ∧ s.work.packetServed p = true ∧
      (let l := p.payload
       let key := flowKey p.src (beAt l 12 2)
       Sp.find s.work.txFlows key = none)) :=
  ⟨⟨st { wk (net) with now := 5 }, 0, dataPk dataCrc, .data 0 (dataPk dataCrc), by
     refine ⟨?_, ?_, ?_⟩
     exact .inl ⟨rfl, receives_body (p := pk 0 0 1 0 []) _ (by decide +kernel) (by decide +kernel) (by decide +kernel) (by decide +kernel)⟩
     exact dataPk_ok _
     decide +kernel⟩,
   ⟨st { wk (up12 ++ net) with now := 5 }, 0, dataPk dataCrc, .data 0 (dataPk dataCrc), by
     refine ⟨?_, ?_, ?_, ?_⟩
     exact .inl ⟨rfl, receives_body (p := pk 0 0 1 0 []) _ (by decide +kernel) (by decide +kernel) (by decide +kernel) (by decide +kernel)⟩
     exact dataPk_ok _
     decide +kernel
     exact dataPk_true⟩,
   ⟨st { wk (up12 ++ net) with now := 5 }, 0, dataPk ((dataCrc + 1) % 2 ^ 32), .data 0 (dataPk ((dataCrc + 1) % 2 ^ 32)), by
     refine ⟨?_, ?_, ?_, ?_, ?_⟩
     exact .inl ⟨rfl, receives_body (p := pk 0 0 1 0 []) _ (by decide +kernel) (by decide +kernel) (by decide +kernel) (by decide +kernel)⟩
     exact dataPk_ok _
     decide +kernel
     exact dataPk_false
     decide +kernel⟩,
   ⟨st { wk (up12 ++ net) with rxFlows := [(flowKey 7 1, { job := 0, retry := true })] }, 0, dataPk ((dataCrc + 1) % 2 ^ 32),
    .data 0 (dataPk ((dataCrc + 1) % 2 ^ 32)), by
     refine ⟨?_, ?_, ?_, ?_, ?_⟩
     exact .inl ⟨rfl, receives_body (p := pk 0 0 1 0 []) _ (by decide +kernel) (by decide +kernel) (by decide +kernel) (by decide +kernel)⟩
     exact dataPk_ok _
     decide +kernel
     exact dataPk_false
     decide +kernel⟩,
   ⟨st { wk (up12 ++ net) with mem := cellsOf 4096 [4] }, 0, pk 10 0 1 0 (toBE 8 4096 ++ toBE 4 1 ++ toBE 2 30 ++ zeros 2 ++ toBE 8 8192), by (repeat' apply And.intro) <;> decide +kernel⟩⟩

/-- Witnesses of Obligations.BlocksTravelAndFlowsAreAcknowledged, part 2. -/
theorem test_FlowsAreAcknowledgedAndResent :
    (∃ (s : State) (k : Fin 40) (p : Packet) (f : TxFlow), s.Receives k p 2 ∧ Sp.find s.work.txFlows (flowKey p.src p.wq) = some f ∧
     f.waiting = [] ∧ (∃ u ∈ f.unacked, psnUpTo u.2.psn p.psn = true)) ∧
    (∃ (s : State) (k : Fin 40) (p : Packet) (f : TxFlow), s.Receives k p 3 ∧ Sp.find s.work.txFlows (flowKey p.src p.wq) = some f ∧
     f.abandoned = false ∧ (p.nakCode = 1 ∨ p.nakCode = 2) ∧ (∀ u ∈ f.unacked, beatsAhead u.1 s.work.beatFull ≤ s.work.msgLife)) ∧
    (∃ (s : State) (k : Fin 40) (p : Packet) (f : TxFlow), s.Receives k p 3 ∧ Sp.find s.work.txFlows (flowKey p.src p.wq) = some f ∧
     f.abandoned = false ∧ p.nakCode = 3) ∧
    (∃ (s : State) (k : Fin 40) (p : Packet) (f : TxFlow), s.Receives k p 3 ∧ Sp.find s.work.txFlows (flowKey p.src p.wq) = some f ∧
     f.abandoned = false ∧ p.nakCode = 4) ∧
    (∃ (s : State) (node queue : Nat) (f : RxFlow), s.board.alive = true ∧ queue < 65536 ∧
     Sp.find s.work.rxFlows (flowKey node queue) = some f ∧ f.unacked ≠ 0) ∧
    (∃ (s : State) (node queue t psn : Nat) (f : TxFlow), s.board.alive = true ∧ Sp.find s.work.txFlows (flowKey node queue) = some f ∧
     f.rnr = some (t, psn) ∧ (∀ u ∈ f.unacked, beatsAhead u.1 s.work.beatFull ≤ s.work.msgLife)) ∧
    (∃ (s : State) (node queue : Nat) (f : TxFlow) (u : Nat × Packet) (rest : List (Nat × Packet)), s.board.alive = true ∧
     Sp.find s.work.txFlows (flowKey node queue) = some f ∧ f.unacked = u :: rest ∧ f.abandoned = false ∧ f.timeouts < s.work.rtxMax ∧
     (∀ x ∈ f.unacked, beatsAhead x.1 s.work.beatFull ≤ s.work.msgLife)) ∧
    (∃ (s : State) (node queue : Nat) (f : TxFlow) (u : Nat × Packet) (rest : List (Nat × Packet)), s.board.alive = true ∧
     Sp.find s.work.txFlows (flowKey node queue) = some f ∧ f.unacked = u :: rest ∧ f.abandoned = false ∧
     (s.work.rtxMax ≤ f.timeouts ∨ (s.work.resendable u.2.psn f).2 = true)) :=
  ⟨⟨st { wk (net) with txFlows := [(flowKey 7 30, { job := 2, gen := 0, next := 1, unacked := [(0, { pk 0 2 30 0 [1] with psn := 0 })], timeouts := 2 })] },
    0, pk 2 0 30 0 [], { job := 2, gen := 0, next := 1, unacked := [(0, { pk 0 2 30 0 [1] with psn := 0 })], timeouts := 2 }, by (repeat' apply And.intro) <;> decide +kernel⟩,
   ⟨st { wk (net) with txFlows := [(flowKey 7 30, { job := 2, gen := 0, next := 1, unacked := [(0, { pk 0 2 30 0 [1] with psn := 0 })] })] },
    0, { pk 3 0 30 0 [] with nakCode := 1 }, { job := 2, gen := 0, next := 1, unacked := [(0, { pk 0 2 30 0 [1] with psn := 0 })] }, by (repeat' apply And.intro) <;> decide +kernel⟩,
   ⟨st { wk (net) with txFlows := [(flowKey 7 30, { job := 2, gen := 0, next := 1, unacked := [(0, { pk 0 2 30 0 [1] with psn := 0 })] })] },
    0, { pk 3 0 30 0 [] with nakCode := 3 }, { job := 2, gen := 0, next := 1, unacked := [(0, { pk 0 2 30 0 [1] with psn := 0 })] }, by (repeat' apply And.intro) <;> decide +kernel⟩,
   ⟨st { wk (net) with txFlows := [(flowKey 7 30, { job := 2, gen := 0, next := 1, unacked := [(0, { pk 0 2 30 0 [1] with psn := 0 })] })] },
    0, { pk 3 0 30 0 [] with nakCode := 4 }, { job := 2, gen := 0, next := 1, unacked := [(0, { pk 0 2 30 0 [1] with psn := 0 })] }, by (repeat' apply And.intro) <;> decide +kernel⟩,
   ⟨st { wk (net) with rxFlows := [(flowKey 7 30, { job := 2, next := 5, unacked := 2 })] }, 7, 30, { job := 2, next := 5, unacked := 2 }, by (repeat' apply And.intro) <;> decide +kernel⟩,
   ⟨st { wk (net) with txFlows := [(flowKey 7 30, { job := 2, gen := 0, next := 1, unacked := [(0, { pk 0 2 30 0 [1] with psn := 0 })], rnr := some (9, 0) })] },
    7, 30, 9, 0, { job := 2, gen := 0, next := 1, unacked := [(0, { pk 0 2 30 0 [1] with psn := 0 })], rnr := some (9, 0) }, by (repeat' apply And.intro) <;> decide +kernel⟩,
   ⟨st { wk (net) with txFlows := [(flowKey 7 30, { job := 2, gen := 0, next := 1, unacked := [(0, { pk 0 2 30 0 [1] with psn := 0 })] })] },
    7, 30, { job := 2, gen := 0, next := 1, unacked := [(0, { pk 0 2 30 0 [1] with psn := 0 })] }, (0, { pk 0 2 30 0 [1] with psn := 0 }),
    [], by (repeat' apply And.intro) <;> decide +kernel⟩,
   ⟨st { wk (net) with txFlows := [(flowKey 7 30, { job := 2, gen := 0, next := 1, unacked := [(0, { pk 0 2 30 0 [1] with psn := 0 })], timeouts := 15 })] },
    7, 30, { job := 2, gen := 0, next := 1, unacked := [(0, { pk 0 2 30 0 [1] with psn := 0 })], timeouts := 15 },
    (0, { pk 0 2 30 0 [1] with psn := 0 }), [], by (repeat' apply And.intro) <;> decide +kernel⟩⟩

/-- Witnesses of Obligations.JobsOpenFreeAndRest. -/
theorem test_JobsOpenFreeAndRest :
    (∃ (s : State) (p : Path) (j g : Nat), s.board.alive = true ∧ j < 65536 ∧ g < 256 ∧ s.work.Writable p JOB_CMD (j + 65536 * g + 2 ^ 24) ∧
      (let e := s.work.jobEnt j
       j ≠ 0 ∧ (e.state = 0 ∨ (e.state = 2 ∧ s.work.jobBusy j = false)) ∧ (e.anyGen = true ∨ g = (e.gen + 1) % 256) ∧
        s.work.fld ACTIVE_JOBS 0 9 < 256)) ∧
    (∃ (s : State) (p : Path) (j g : Nat), s.board.alive = true ∧ j < 65536 ∧ g < 256 ∧ s.work.Writable p JOB_CMD (j + 65536 * g + 2 ^ 24) ∧
      (let e := s.work.jobEnt j
       (j = 0 ∨ e.state = 1 ∨ (e.anyGen = false ∧ g ≠ (e.gen + 1) % 256)))) ∧
    (∃ (s : State) (j : Nat), s.board.alive = true ∧ j ≠ 0 ∧ j < 65536 ∧ (s.work.jobEnt j).state = 1 ∧ 1 ≤ s.work.fld ACTIVE_JOBS 0 9 ∧
     ∃ (p : Path) (g : Nat), g < 256 ∧ s.work.Writable p JOB_CMD (j + 65536 * g + 2 ^ 25)) ∧
    (∃ (s : State) (j : Nat), s.board.alive = true ∧ j ≠ 0 ∧ j < 65536 ∧ (s.work.jobEnt j).state = 1 ∧ 1 ≤ s.work.fld ACTIVE_JOBS 0 9 ∧
     ∃ b, (s.work.jobEnt j).freeAt = some b ∧ beatBefore s.work.beatFull b = false) ∧
    (∃ (s : State) (j : Nat), s.board.alive = true ∧ j ≠ 0 ∧ j < 65536 ∧ (s.work.jobEnt j).state = 1 ∧ 1 ≤ s.work.fld ACTIVE_JOBS 0 9 ∧
     ∃ b, (s.work.jobEnt j).freeAt = some b ∧ beatBefore s.work.beatFull b = true) ∧
    (∃ (s : State) (j u : Nat), s.board.alive = true ∧ (s.work.jobEnt j).state = 2 ∧ s.work.quarEnd j = some u ∧
     (s.work.jobEnt j).until_ = none) ∧
    (∃ (s : State) (j u : Nat), s.board.alive = true ∧ (s.work.jobEnt j).state = 2 ∧ s.work.quarEnd j = some u ∧
     beatBefore s.work.beatFull u = false) ∧
    (∃ (s : State) (j u : Nat), s.board.alive = true ∧ (s.work.jobEnt j).state = 2 ∧ s.work.quarEnd j = some u ∧
     beatBefore s.work.beatFull u = true) :=
  ⟨⟨State.reset, .controller, 2, 5, by (repeat' apply And.intro) <;> decide +kernel⟩,
   ⟨State.reset, .controller, 0, 5, by (repeat' apply And.intro) <;> decide +kernel⟩,
   ⟨st { wk ([(ACTIVE_JOBS, 2)]) with jobs := [(2, { state := 1, gen := 4, anyGen := false })] }, 2, by decide +kernel, by decide +kernel,
    by decide +kernel, by decide +kernel, (by decide +kernel), .controller, 4, by (repeat' apply And.intro) <;> decide +kernel⟩,
   ⟨st { wk ([(ACTIVE_JOBS, 2)]) with jobs := [(2, { state := 1, gen := 4, anyGen := false, freeAt := some 0 })] }, 2, by decide +kernel,
    by decide +kernel, by decide +kernel, by decide +kernel, (by decide +kernel), 0, by (repeat' apply And.intro) <;> decide +kernel⟩,
   ⟨st { wk ([(ACTIVE_JOBS, 2)]) with jobs := [(2, { state := 1, gen := 4, anyGen := false, freeAt := some 9 })] }, 2, by decide +kernel,
    by decide +kernel, by decide +kernel, by decide +kernel, (by decide +kernel), 9, by (repeat' apply And.intro) <;> decide +kernel⟩,
   ⟨st { wk (net) with now := 5, lockAt := some 5 }, 2,
    beatAdd 5 (2 * (st { wk (net) with now := 5, lockAt := some 5 } : State).work.msgLife), by (repeat' apply And.intro) <;> decide +kernel⟩,
   ⟨st { wk (net) with jobs := [(2, { until_ := some 0 })] }, 2, 0, by (repeat' apply And.intro) <;> decide +kernel⟩,
   ⟨st { wk (net) with jobs := [(2, { until_ := some 9 })] }, 2, 9, by (repeat' apply And.intro) <;> decide +kernel⟩⟩

/-- Witnesses of Obligations.HostAccessesKeepToTheirWindows. -/
theorem test_HostAccessesKeepToTheirWindows :
    (
      (let reaches := fun (s : State) (h : Roce) => s.board.alive = true ∧ s.work.portUp (36 + h.host.val) = true ∧
         s.work.roceBound h = true ∧ h.bound = none ∧ (s.work.link (36 + h.host.val)).answers = [] ∧
         Sp.find (s.work.link (36 + h.host.val)).paused 1 = none
       ∃ (s : State) (h : Roce) (rkey a n : Nat) (d : List Byte), reaches s h ∧ (s.work.hostWindow h.host.val 1 rkey a d.length = none ∧
        d.length ≤ 2 ^ 31))) ∧
    (
      (let reaches := fun (s : State) (h : Roce) => s.board.alive = true ∧ s.work.portUp (36 + h.host.val) = true ∧
         s.work.roceBound h = true ∧ h.bound = none ∧ (s.work.link (36 + h.host.val)).answers = [] ∧
         Sp.find (s.work.link (36 + h.host.val)).paused 1 = none
       ∃ (s : State) (h : Roce) (rkey a n : Nat) (d : List Byte), reaches s h ∧ (s.work.hostWindow h.host.val 0 rkey a n = none ∧
        n ≤ 2 ^ 31 ∧ s.work.readsOpen h < 16))) ∧
    (
      (let reaches := fun (s : State) (h : Roce) => s.board.alive = true ∧ s.work.portUp (36 + h.host.val) = true ∧
         s.work.roceBound h = true ∧ h.bound = none ∧ (s.work.link (36 + h.host.val)).answers = [] ∧
         Sp.find (s.work.link (36 + h.host.val)).paused 1 = none
       ∃ (s : State) (h : Roce) (rkey a n : Nat) (d : List Byte), reaches s h ∧ (2 ^ 31 < n ∨ 16 ≤ s.work.readsOpen h))) ∧
    (
      (let reaches := fun (s : State) (h : Roce) => s.board.alive = true ∧ s.work.portUp (36 + h.host.val) = true ∧
         s.work.roceBound h = true ∧ h.bound = none ∧ (s.work.link (36 + h.host.val)).answers = [] ∧
         Sp.find (s.work.link (36 + h.host.val)).paused 1 = none
       ∃ (s : State) (h : Roce) (rkey a n : Nat) (d : List Byte), reaches s h)) ∧
    (
      (let reaches := fun (s : State) (h : Roce) => s.board.alive = true ∧ s.work.portUp (36 + h.host.val) = true ∧
         s.work.roceBound h = true ∧ h.bound = none ∧ (s.work.link (36 + h.host.val)).answers = [] ∧
         Sp.find (s.work.link (36 + h.host.val)).paused 1 = none
       ∃ (s : State) (h : Roce) (rkey a : Nat) (d : List Byte) (x : Nat × Nat × Nat × Nat × Nat), reaches s h ∧ s.work.windows = [x] ∧
        x.1 ≤ a ∧ a + d.length ≤ x.1 + x.2.1 ∧ x.2.2.1 = rkey ∧ d.length ≤ 2 ^ 31 ∧ s.work.readsOpen h < 16 ∧
        x.2.2.2.2.testBit h.host.val = true ∧ x.2.2.2.1.testBit 2 = false ∧ inStacks a d.length = true ∧
        s.work.rangeServes a d.length = true ∧ x.2.2.2.1.testBit 1 = true)) ∧
    (
      (let reaches := fun (s : State) (h : Roce) => s.board.alive = true ∧ s.work.portUp (36 + h.host.val) = true ∧
         s.work.roceBound h = true ∧ h.bound = none ∧ (s.work.link (36 + h.host.val)).answers = [] ∧
         Sp.find (s.work.link (36 + h.host.val)).paused 1 = none
       ∃ (s : State) (h : Roce) (rkey a : Nat) (d : List Byte) (x : Nat × Nat × Nat × Nat × Nat), reaches s h ∧ s.work.windows = [x] ∧
        x.1 ≤ a ∧ a + d.length ≤ x.1 + x.2.1 ∧ x.2.2.1 = rkey ∧ d.length ≤ 2 ^ 31 ∧ s.work.readsOpen h < 16 ∧
        x.2.2.2.2.testBit h.host.val = true ∧ x.2.2.2.1.testBit 2 = false ∧ inStacks a d.length = true ∧
        s.work.rangeServes a d.length = true ∧ x.2.2.2.1.testBit 0 = true ∧ (∀ l ∈ linesOf a d.length, s.work.poisoned l.1 l.2 = false))) ∧
    (
      (let reaches := fun (s : State) (h : Roce) => s.board.alive = true ∧ s.work.portUp (36 + h.host.val) = true ∧
         s.work.roceBound h = true ∧ h.bound = none ∧ (s.work.link (36 + h.host.val)).answers = [] ∧
         Sp.find (s.work.link (36 + h.host.val)).paused 1 = none
       ∃ (s : State) (h : Roce) (rkey a : Nat) (d : List Byte) (x : Nat × Nat × Nat × Nat × Nat), reaches s h ∧ s.work.windows = [x] ∧
        x.1 ≤ a ∧ a + d.length ≤ x.1 + x.2.1 ∧ x.2.2.1 = rkey ∧ d.length ≤ 2 ^ 31 ∧ s.work.readsOpen h < 16 ∧
        x.2.2.2.2.testBit h.host.val = true ∧ x.2.2.2.1.testBit 2 = false ∧ inStacks a d.length = true ∧
        s.work.rangeServes a d.length = true ∧ x.2.2.2.1.testBit 0 = true ∧ (∃ l ∈ linesOf a d.length, s.work.poisoned l.1 l.2 = true))) ∧
    (
      (let reaches := fun (s : State) (h : Roce) => s.board.alive = true ∧ s.work.portUp (36 + h.host.val) = true ∧
         s.work.roceBound h = true ∧ h.bound = none ∧ (s.work.link (36 + h.host.val)).answers = [] ∧
         Sp.find (s.work.link (36 + h.host.val)).paused 1 = none
       ∃ (s : State) (h : Roce) (rkey a : Nat) (d : List Byte) (x : Nat × Nat × Nat × Nat × Nat), reaches s h ∧ s.work.windows = [x] ∧
        x.1 ≤ a ∧ a + d.length ≤ x.1 + x.2.1 ∧ x.2.2.1 = rkey ∧ d.length ≤ 2 ^ 31 ∧ s.work.readsOpen h < 16 ∧
        x.2.2.2.2.testBit h.host.val = true ∧ x.2.2.2.1.testBit 2 = false ∧ inStacks a d.length = true ∧
        s.work.rangeServes a d.length = false ∧ h.marked = false ∧ x.2.2.2.1.testBit 1 = true)) ∧
    (
      (let reaches := fun (s : State) (h : Roce) => s.board.alive = true ∧ s.work.portUp (36 + h.host.val) = true ∧
         s.work.roceBound h = true ∧ h.bound = none ∧ (s.work.link (36 + h.host.val)).answers = [] ∧
         Sp.find (s.work.link (36 + h.host.val)).paused 1 = none
       ∃ (s : State) (h : Roce) (rkey a : Nat) (d : List Byte) (x : Nat × Nat × Nat × Nat × Nat), reaches s h ∧ s.work.windows = [x] ∧
        x.1 ≤ a ∧ a + d.length ≤ x.1 + x.2.1 ∧ x.2.2.1 = rkey ∧ d.length ≤ 2 ^ 31 ∧ s.work.readsOpen h < 16 ∧
        x.2.2.2.2.testBit h.host.val = true ∧ x.2.2.2.1.testBit 2 = false ∧ inStacks a d.length = true ∧
        s.work.rangeServes a d.length = false ∧ h.marked = false ∧ x.2.2.2.1.testBit 0 = true)) ∧
    (
      (let reaches := fun (s : State) (h : Roce) => s.board.alive = true ∧ s.work.portUp (36 + h.host.val) = true ∧
         s.work.roceBound h = true ∧ h.bound = none ∧ (s.work.link (36 + h.host.val)).answers = [] ∧
         Sp.find (s.work.link (36 + h.host.val)).paused 1 = none
       ∃ (s : State) (h : Roce) (rkey a : Nat) (x : Nat × Nat × Nat × Nat × Nat), reaches s h ∧ s.work.readsOpen h < 16 ∧
        s.work.hostWindow h.host.val 0 rkey a 4 = some x ∧ x.2.2.2.1.testBit 2 = true ∧ a % 4 ≠ 0)) ∧
    (
      (let reaches := fun (s : State) (h : Roce) => s.board.alive = true ∧ s.work.portUp (36 + h.host.val) = true ∧
         s.work.roceBound h = true ∧ h.bound = none ∧ (s.work.link (36 + h.host.val)).answers = [] ∧
         Sp.find (s.work.link (36 + h.host.val)).paused 1 = none
       ∃ (s : State) (h : Roce) (rkey a : Nat) (x : Nat × Nat × Nat × Nat × Nat), reaches s h ∧ s.work.readsOpen h < 16 ∧
        s.work.hostWindow h.host.val 0 rkey a 4 = some x ∧ x.2.2.2.1.testBit 2 = true ∧ a = NODE ∧ s.work.Readable (.host h.host) a)) ∧
    (∃ (s : State) (h : Roce), s.board.alive = true ∧ s.work.portUp (36 + h.host.val) = true ∧ h.bound = none ∧ s.work.roceBound h = false) ∧
    (∃ (s : State) (h : Roce), s.board.alive = true ∧ s.work.portUp (36 + h.host.val) = true ∧ ∃ m, h.bound = some m ∧
     s.work.hostBase ≤ h.wq ∧ h.wq < 65536) ∧
    (∃ (s : State) (h : Roce), s.board.alive = true ∧ s.work.portUp (36 + h.host.val) = true ∧ ∃ t, h.bound = none ∧
     s.work.roceBound h = true ∧ Sp.find (s.work.link (36 + h.host.val)).paused 1 = some t ∧ s.work.now < t) :=
  ⟨⟨st { wk (up12 ++ [(LINK_STATUS 37, 1), (WQ_CFG, 8)]) with qps := [(9, (1, 4, 1024))], windows := [(4096, 256, 77, 3, 3)] },
    { host := 1, marked := true, wq := 9, qp := 4, bound := none }, 78, 4096, 8, [1], by (repeat' apply And.intro) <;> decide +kernel⟩,
   ⟨st { wk (up12 ++ [(LINK_STATUS 37, 1), (WQ_CFG, 8)]) with qps := [(9, (1, 4, 1024))], windows := [(4096, 256, 77, 3, 3)] },
    { host := 1, marked := true, wq := 9, qp := 4, bound := none }, 78, 4096, 8, [1], by (repeat' apply And.intro) <;> decide +kernel⟩,
   ⟨st { wk (up12 ++ [(LINK_STATUS 37, 1), (WQ_CFG, 8)]) with qps := [(9, (1, 4, 1024))], windows := [(4096, 256, 77, 3, 3)] },
    { host := 1, marked := true, wq := 9, qp := 4, bound := none }, 78, 4096, 2147483649, [1], by (repeat' apply And.intro) <;> decide +kernel⟩,
   ⟨st { wk (up12 ++ [(LINK_STATUS 37, 1), (WQ_CFG, 8)]) with qps := [(9, (1, 4, 1024))], windows := [(4096, 256, 77, 3, 3)] },
    { host := 1, marked := true, wq := 9, qp := 4, bound := none }, 78, 4096, 8, [1], by decide +kernel⟩,
   ⟨st { wk (up12 ++ [(LINK_STATUS 37, 1), (WQ_CFG, 8)]) with qps := [(9, (1, 4, 1024))], windows := [(4096, 256, 77, 2, 3)] },
    { host := 1, marked := true, wq := 9, qp := 4, bound := none }, 77, 4351, [1], (4096, 256, 77, 2, 3), by (repeat' apply And.intro) <;> decide +kernel⟩,
   ⟨st { wk (up12 ++ [(LINK_STATUS 37, 1), (WQ_CFG, 8)]) with qps := [(9, (1, 4, 1024))], windows := [(4096, 256, 77, 1, 3)], mem := cellsOf 4351 [5] },
    { host := 1, marked := true, wq := 9, qp := 4, bound := none }, 77, 4351, [1], (4096, 256, 77, 1, 3), by (repeat' apply And.intro) <;> decide +kernel⟩,
   ⟨st { wk (up12 ++ [(LINK_STATUS 37, 1), (WQ_CFG, 8)]) with qps := [(9, (1, 4, 1024))], windows := [(4096, 256, 77, 1, 3)], poison := [16] },
    { host := 1, marked := true, wq := 9, qp := 4, bound := none }, 77, 4351, [1], (4096, 256, 77, 1, 3), by (repeat' apply And.intro) <;> decide +kernel⟩,
   ⟨st { wk ([(LINK_STATUS 37, 1), (WQ_CFG, 8)]) with qps := [(9, (1, 4, 1024))], windows := [(4096, 256, 77, 2, 3)] },
    { host := 1, marked := false, wq := 9, qp := 4, bound := none }, 77, 4351, [1], (4096, 256, 77, 2, 3), by (repeat' apply And.intro) <;> decide +kernel⟩,
   ⟨st { wk ([(LINK_STATUS 37, 1), (WQ_CFG, 8)]) with qps := [(9, (1, 4, 1024))], windows := [(4096, 256, 77, 1, 3)] },
    { host := 1, marked := false, wq := 9, qp := 4, bound := none }, 77, 4351, [1], (4096, 256, 77, 1, 3), by (repeat' apply And.intro) <;> decide +kernel⟩,
   ⟨st { wk (up12 ++ [(LINK_STATUS 37, 1), (WQ_CFG, 8)]) with qps := [(9, (1, 4, 1024))], windows := [(0, 4096, 77, 5, 3)] },
    { host := 1, marked := true, wq := 9, qp := 4, bound := none }, 77, 5, (0, 4096, 77, 5, 3), by (repeat' apply And.intro) <;> decide +kernel⟩,
   ⟨st { wk (up12 ++ [(LINK_STATUS 37, 1), (WQ_CFG, 8)] ++ [(NODE, 9)]) with qps := [(9, (1, 4, 1024))], windows := [(NODE, 4, 77, 5, 3)] },
    { host := 1, marked := true, wq := 9, qp := 4, bound := none }, 77, NODE, (NODE, 4, 77, 5, 3), by (repeat' apply And.intro) <;> decide +kernel⟩,
   ⟨st { wk (up12 ++ [(LINK_STATUS 37, 1), (WQ_CFG, 8)]) with qps := [(9, (1, 4, 1024))] },
    { host := 1, marked := true, wq := 9, qp := 5, bound := none }, by (repeat' apply And.intro) <;> decide +kernel⟩,
   ⟨st { wk (up12 ++ [(LINK_STATUS 37, 1), (WQ_CFG, 8)]) with qps := [(9, (1, 4, 1024))] },
    { host := 1, marked := true, wq := 9, qp := 4, bound := some 2 }, by decide +kernel, by decide +kernel, 2, by (repeat' apply And.intro) <;> decide +kernel⟩,
   ⟨st { wk (up12 ++ [(LINK_STATUS 37, 1), (WQ_CFG, 8)]) with qps := [(9, (1, 4, 1024))], links := [(37, { paused := [(1, 9)] })] },
    { host := 1, marked := true, wq := 9, qp := 4, bound := none }, by decide +kernel, by decide +kernel, 9, by (repeat' apply And.intro) <;> decide +kernel⟩⟩

/-- Witnesses of Obligations.ReductionsAddTravelAndComplete, part 1. -/
theorem test_ContributionsAddInTheirTurn :
    (∃ (s : State) (k : Fin 40) (p : Packet) (c : Contribution), s.Receives k p 1 ∧ contribOf p false = some c ∧ malformedContrib c = false ∧
     s.work.red = {} ∧ (∀ j < 36, (s.work.link j).held = []) ∧ s.work.packetServed p = false) ∧
    (∃ (s : State) (k : Fin 40) (p : Packet) (c : Contribution), s.Receives k p 1 ∧ contribOf p false = some c ∧ malformedContrib c = false ∧
     s.work.red = {} ∧ (∀ j < 36, (s.work.link j).held = []) ∧ s.work.packetServed p = true ∧
     crc32c (c.data ++ toBE 2 c.poisonMap) ≠ beAt p.payload (p.payload.length - 8) 4 ∧ (s.work.rxFlow p).retry = false) ∧
    (∃ (s : State) (k : Fin 40) (p : Packet) (c : Contribution), s.Receives k p 1 ∧ contribOf p false = some c ∧ malformedContrib c = false ∧
     s.work.red = {} ∧ (∀ j < 36, (s.work.link j).held = []) ∧ s.work.packetServed p = true ∧
     crc32c (c.data ++ toBE 2 c.poisonMap) = beAt p.payload (p.payload.length - 8) 4 ∧
      (let m := (stackOf c.dest).1
       let t := (s.work.memc m).trackers.find? (fun t => t.covers c)
       let next := match t with | some t => t.next | none => 0
       (s.work.memc m).held = [] ∧ (∀ x, t = some x → x.count = c.count) ∧ (t = none → (s.work.memc m).trackers.length < 4096) ∧
        c.seq = next ∧ (c.notify = 0 ∨ c.notify + 4 ≤ c.dest ∨ c.dest + 4096 ≤ c.notify))) ∧
    (∃ (s : State) (k : Fin 40) (p : Packet) (c : Contribution), s.Receives k p 1 ∧ contribOf p false = some c ∧ malformedContrib c = false ∧
     s.work.red = {} ∧ (∀ j < 36, (s.work.link j).held = []) ∧ s.work.packetServed p = true ∧
     crc32c (c.data ++ toBE 2 c.poisonMap) = beAt p.payload (p.payload.length - 8) 4 ∧
      (let m := (stackOf c.dest).1
       let t := (s.work.memc m).trackers.find? (fun t => t.covers c)
       let next := match t with | some t => t.next | none => 0
       (s.work.memc m).held = [] ∧ (∀ x, t = some x → x.count = c.count) ∧ (t = none → (s.work.memc m).trackers.length < 4096) ∧
        next < c.seq)) :=
  ⟨⟨st { wk (net) with now := 4 }, 0, accPk 1 (zeros 1024), accC 1 (zeros 1024), by
     refine ⟨?_, ?_, ?_, ?_, ?_, ?_⟩
     exact receives_body (p := pk 1 0 1 0 []) _ (by decide +kernel) (by decide +kernel) (by decide +kernel) (by decide +kernel)
     exact accPk_contrib 1 _ (by decide) (zeros_length _)
     exact accC_form 1 _ (by decide) (zeros_length _)
     iterate 3 decide +kernel⟩,
   ⟨st { wk (up12 ++ net) with now := 4 }, 0, accBad 1 (zeros 1024), accC 1 (zeros 1024), by
     refine ⟨?_, ?_, ?_, ?_, ?_, ?_⟩
     exact receives_body (p := pk 1 0 1 0 []) _ (by decide +kernel) (by decide +kernel) (by decide +kernel) (by decide +kernel)
     exact accBad_contrib 1 _ (by decide) (zeros_length _)
     exact accC_form 1 _ (by decide) (zeros_length _)
     iterate 2 decide +kernel
     refine ⟨?_, ?_, ?_⟩
     decide +kernel
     exact accBad_check 1 _ (zeros_length _)
     decide +kernel⟩,
   ⟨st { wk (up12 ++ net) with memcs := [(1, { trackers := [{ dest := 4096, count := 2, next := 1, job := 0, gen := 0 }] })], mem := cellsOf 4096 [0, 0, 128, 63] },
    0, accPk 1 (zeros 1024), accC 1 (zeros 1024), by
     refine ⟨?_, ?_, ?_, ?_, ?_, ?_⟩
     exact receives_body (p := pk 1 0 1 0 []) _ (by decide +kernel) (by decide +kernel) (by decide +kernel) (by decide +kernel)
     exact accPk_contrib 1 _ (by decide) (zeros_length _)
     exact accC_form 1 _ (by decide) (zeros_length _)
     iterate 2 decide +kernel
     refine ⟨?_, ?_, ?_, ?_, ?_, ?_⟩
     decide +kernel
     exact accPk_check 1 _ (zeros_length _)
     iterate 3 decide +kernel
     refine ⟨?_, ?_⟩
     iterate 2 decide +kernel⟩,
   ⟨st { wk (up12 ++ net) with now := 4 }, 0, accPk 1 (zeros 1024), accC 1 (zeros 1024), by
     refine ⟨?_, ?_, ?_, ?_, ?_, ?_⟩
     exact receives_body (p := pk 1 0 1 0 []) _ (by decide +kernel) (by decide +kernel) (by decide +kernel) (by decide +kernel)
     exact accPk_contrib 1 _ (by decide) (zeros_length _)
     exact accC_form 1 _ (by decide) (zeros_length _)
     iterate 2 decide +kernel
     refine ⟨?_, ?_, ?_, ?_, ?_, ?_⟩
     decide +kernel
     exact accPk_check 1 _ (zeros_length _)
     iterate 4 decide +kernel⟩⟩

/-- Witnesses of Obligations.ReductionsAddTravelAndComplete, part 2. -/
theorem test_RingStagesAndBucketsRun :
    (∃ (s : State) (k : Fin 40) (p : Packet) (r : Ring), s.Receives k p 9 ∧ ringOf p = some r ∧ s.work.red = {} ∧
     (∀ j < 36, (s.work.link j).held = [])) ∧
    (∃ (s : State) (k : Fin 40) (p : Packet) (r : Ring) (key : Nat) (b : Bucket), s.Receives k p 9 ∧ ringOf p = some r ∧
     s.work.red = { buckets := [(key, b)] } ∧ b.stages.length = 1 ∧ (∀ j < 36, (s.work.link j).held = []) ∧
     s.work.ringStage k.val r = some (key, b) ∧ r.fits b = true ∧ r.intact = true ∧ r.gather = false ∧ (b.stage 0).pos ≠ r.shard ∧
     b.redo = [] ∧
      (let tx := (b.stage 0).tx
       s.work.portUp tx = true ∧ (s.work.link tx).queue = [] ∧ (s.work.link tx).paused = [] ∧ (s.work.link tx).answers = [] ∧
        s.work.direct tx = false)) ∧
    (∃ (s : State) (c : Fin 1024) (slot : Nat) (b : Bucket) (st : Stage), s.board.alive = true ∧ slot < 4096 ∧
     s.work.red = { buckets := [(4096 * c.val + slot, b)] } ∧ b.stages = [st] ∧ st.ring = true ∧ st.waited = true ∧ st.isOpen = false ∧
     2 ≤ st.n ∧ b.redo = [] ∧ (s.work.link st.rx).ctxs.length < 64 ∧ (∀ j < 36, (s.work.link j).held = [])) ∧
    (∃ (s : State) (c : Fin 1024) (slot : Nat) (b : Bucket), s.board.alive = true ∧ slot < 4096 ∧
     s.work.bucket (4096 * c.val + slot) = some b ∧ b.done = false ∧ (∀ st ∈ b.stages, st.isOpen = false) ∧ (∃ i < b.segs, i ∉ b.written)) ∧
    (∃ (s : State) (c : Fin 1024) (slot : Nat) (b : Bucket), s.board.alive = true ∧ slot < 4096 ∧
     s.work.bucket (4096 * c.val + slot) = some b ∧ b.done = false ∧ (∀ st ∈ b.stages, st.isOpen = false) ∧ (∀ i < b.segs, i ∈ b.written) ∧
     (s.work.cox c.val).state slot ≠ 3) :=
  ⟨⟨st { wk (net) with now := 4 }, 0, ringPk (zeros 2048), ringR (zeros 2048), by
     refine ⟨?_, ?_, ?_, ?_⟩
     exact receives_body (p := pk 9 0 0 0 []) _ (by decide +kernel) (by decide +kernel) (by decide +kernel) (by decide +kernel)
     exact ringPk_ring _ (zeros_length _)
     iterate 2 decide +kernel⟩,
   ⟨st { wk (net ++ [(LINK_STATUS 1, 1)]) with red := { buckets := [(0, { num := 3, job := 0, gen := 0, segs := 2, firstSeg := 0, src := 4096, dst := 16384, work0 := 32768, work1 := 65536, resx := 131072, cnt := 0, stages := [{ ring := true, n := 2, pos := 1, rx := 0, tx := 1, nodes := [7], isOpen := true, waited := false }] })] }, mem := cellsOf 4096 [0, 0, 128, 63] },
    0, ringPk (zeros 2048), ringR (zeros 2048), 0,
    { num := 3, job := 0, gen := 0, segs := 2, firstSeg := 0, src := 4096, dst := 16384, work0 := 32768, work1 := 65536, resx := 131072, cnt := 0, stages := [{ ring := true, n := 2, pos := 1, rx := 0, tx := 1, nodes := [7], isOpen := true, waited := false }] }, by
     refine ⟨?_, ?_, ?_, ?_, ?_, ?_⟩
     exact receives_body (p := pk 9 0 0 0 []) _ (by decide +kernel) (by decide +kernel) (by decide +kernel) (by decide +kernel)
     exact ringPk_ring _ (zeros_length _)
     iterate 3 decide +kernel
     refine ⟨?_, ?_, ?_, ?_, ?_, ?_⟩
     decide +kernel
     exact ringR_fits _ (zeros_length _) _ (by decide +kernel)
     iterate 3 decide +kernel
     refine ⟨?_, ?_, ?_, ?_, ?_, ?_⟩
     iterate 6 decide +kernel⟩,
   ⟨st { wk (net) with red := { buckets := [(5, { num := 3, job := 0, gen := 0, segs := 2, firstSeg := 0, src := 4096, dst := 16384, work0 := 32768, work1 := 65536, resx := 131072, cnt := 0, stages := [{ ring := true, n := 2, pos := 1, rx := 0, tx := 1, nodes := [7], isOpen := false, waited := true }] })] } },
    0, 5,
    { num := 3, job := 0, gen := 0, segs := 2, firstSeg := 0, src := 4096, dst := 16384, work0 := 32768, work1 := 65536, resx := 131072, cnt := 0, stages := [{ ring := true, n := 2, pos := 1, rx := 0, tx := 1, nodes := [7], isOpen := false, waited := true }] },
    { ring := true, n := 2, pos := 1, rx := 0, tx := 1, nodes := [7], isOpen := false, waited := true }, by (repeat' apply And.intro) <;> decide +kernel⟩,
   ⟨st { wk (net) with red := { buckets := [(5, { num := 3, job := 0, gen := 0, segs := 2, firstSeg := 0, src := 4096, dst := 16384, work0 := 32768, work1 := 65536, resx := 131072, cnt := 0, stages := [{ ring := true, n := 2, pos := 1, rx := 0, tx := 1, nodes := [7], isOpen := false, waited := false }], written := [1] })] } },
    0, 5,
    { num := 3, job := 0, gen := 0, segs := 2, firstSeg := 0, src := 4096, dst := 16384, work0 := 32768, work1 := 65536, resx := 131072, cnt := 0, stages := [{ ring := true, n := 2, pos := 1, rx := 0, tx := 1, nodes := [7], isOpen := false, waited := false }], written := [1] }, by (repeat' apply And.intro) <;> decide +kernel⟩,
   ⟨st { wk (net ++ [(COX_STATUS 0, 3)]) with red := { buckets := [(5, { num := 3, job := 0, gen := 0, segs := 2, firstSeg := 0, src := 4096, dst := 16384, work0 := 32768, work1 := 65536, resx := 131072, cnt := 0, stages := [{ ring := true, n := 2, pos := 1, rx := 0, tx := 1, nodes := [7], isOpen := false, waited := false }], written := [1, 0] })] }, coxes := [(0, { prog := some ({ prog0 with slots := List.replicate 6 (slot0 8) }) })] },
    0, 5,
    { num := 3, job := 0, gen := 0, segs := 2, firstSeg := 0, src := 4096, dst := 16384, work0 := 32768, work1 := 65536, resx := 131072, cnt := 0, stages := [{ ring := true, n := 2, pos := 1, rx := 0, tx := 1, nodes := [7], isOpen := false, waited := false }], written := [1, 0] }, by (repeat' apply And.intro) <;> decide +kernel⟩⟩

/-- Witnesses of Obligations.ReductionsAddTravelAndComplete, part 3. -/
theorem test_AgreedExponentsTravel :
    (∃ (s : State) (k : Fin 40) (p : Packet) (c : Ctrl) (es : List (Nat × Int)), s.Hears k p 14 c ∧ s.work.acting = true ∧
     scaleEntries c.body = some es) ∧
    (∃ (s : State) (k : Fin 40) (p : Packet) (c : Ctrl) (es : List (Nat × Int)), s.Hears k p 15 c ∧ s.work.mgr.mgrNode = some p.src ∧
     scaleEntries c.body = some es ∧ beatBefore s.work.beatFull (beAt c.body 4 8) = true) ∧
    (∃ (s : State) (k : Fin 40) (p : Packet) (c : Ctrl) (es : List (Nat × Int)), s.Hears k p 15 c ∧ s.work.mgr.mgrNode = some p.src ∧
     scaleEntries c.body = some es ∧ beatBefore s.work.beatFull (beAt c.body 4 8) = false) ∧
    (∃ (s : State) (k : Fin 40) (p : Packet) (c : Ctrl) (key : Nat) (b : Bucket) (st0 st1 : Stage), s.Hears k p 16 c ∧
     s.work.red = { buckets := [(key, b)] } ∧ (∀ j < 36, (s.work.link j).held = []) ∧ b.stages = [st0, st1] ∧ b.num = beAt c.body 0 2 ∧
     st1.isOpen = true ∧ st1.ring = false ∧ p.src ∈ st1.nodes ∧ c.body.length = 16 ∧ beAt c.body 2 1 = 1 ∧ allZero (sub c.body 8 8) = true ∧
     beAt c.body 4 4 ∈ segsOf (b.own 0) ∧ (∃ q ∈ segsOf (b.own 0), q ≠ beAt c.body 4 4 ∧ q ∉ b.written ∧ Sp.find b.redo q = none)) :=
  ⟨⟨st (wk man), 0, msg 14 0 (toBE 2 3 ++ toBE 2 1 ++ toBE 8 9 ++ zeros 4 ++ toBE 4 5 ++ [254, 0, 0, 0]),
    ctl 14 0 (toBE 2 3 ++ toBE 2 1 ++ toBE 8 9 ++ zeros 4 ++ toBE 4 5 ++ [254, 0, 0, 0]), [(5, -2)], by (repeat' apply And.intro) <;> decide +kernel⟩,
   ⟨st { wk (net ++ [(BEAT_COUNT_LO, 5)]) with mgr := { mgrNode := some 7 } }, 0,
    msg 15 0 (toBE 2 3 ++ toBE 2 1 ++ toBE 8 9 ++ zeros 4 ++ toBE 4 5 ++ [254, 0, 0, 0]),
    ctl 15 0 (toBE 2 3 ++ toBE 2 1 ++ toBE 8 9 ++ zeros 4 ++ toBE 4 5 ++ [254, 0, 0, 0]), [(5, -2)], by (repeat' apply And.intro) <;> decide +kernel⟩,
   ⟨st { wk (net ++ [(BEAT_COUNT_LO, 15)]) with mgr := { mgrNode := some 7 } }, 0,
    msg 15 0 (toBE 2 3 ++ toBE 2 1 ++ toBE 8 9 ++ zeros 4 ++ toBE 4 5 ++ [254, 0, 0, 0]),
    ctl 15 0 (toBE 2 3 ++ toBE 2 1 ++ toBE 8 9 ++ zeros 4 ++ toBE 4 5 ++ [254, 0, 0, 0]), [(5, -2)], by (repeat' apply And.intro) <;> decide +kernel⟩,
   ⟨st { wk (net) with red := { buckets := [(0, { num := 3, job := 0, gen := 0, segs := 4, firstSeg := 0, src := 4096, dst := 16384, work0 := 32768, work1 := 65536, resx := 131072, cnt := 0, stages := [{ ring := true, n := 2, pos := 1, rx := 0, tx := 1, nodes := [7], isOpen := false, waited := false }, { ring := false, n := 2, pos := 1, rx := 0, tx := 1, nodes := [7], isOpen := true, waited := false }] })] } },
    0, msg 16 0 (toBE 2 3 ++ [1, 254] ++ toBE 4 2 ++ zeros 8), ctl 16 0 (toBE 2 3 ++ [1, 254] ++ toBE 4 2 ++ zeros 8), 0,
    { num := 3, job := 0, gen := 0, segs := 4, firstSeg := 0, src := 4096, dst := 16384, work0 := 32768, work1 := 65536, resx := 131072, cnt := 0, stages := [{ ring := true, n := 2, pos := 1, rx := 0, tx := 1, nodes := [7], isOpen := false, waited := false }, { ring := false, n := 2, pos := 1, rx := 0, tx := 1, nodes := [7], isOpen := true, waited := false }] },
    { ring := true, n := 2, pos := 1, rx := 0, tx := 1, nodes := [7], isOpen := false, waited := false },
    { ring := false, n := 2, pos := 1, rx := 0, tx := 1, nodes := [7], isOpen := true, waited := false }, by (repeat' apply And.intro) <;> decide +kernel⟩⟩

/-- Witnesses of Obligations.TheDomainIsClaimedAndTakenOver. -/
theorem test_TheDomainIsClaimedAndTakenOver :
    (∃ (s : State) (e : NodeEnt), s.board.alive = true ∧ s.work.mayClaim s.board = true ∧ s.work.turn1024 s.work.mgr.lastClaim = true ∧
     s.work.acting = true) ∧
    (∃ (s : State) (e : NodeEnt), s.board.alive = true ∧ s.work.mayClaim s.board = true ∧ s.work.turn1024 s.work.mgr.lastClaim = true ∧
     s.work.acting = false ∧ (s.work.nodeTable.find? (fun e => e.kind == 4 && e.ident == identBytes) = some e)) ∧
    (∃ (s : State) (e : NodeEnt), s.board.alive = true ∧ s.work.mayClaim s.board = true ∧ s.work.turn1024 s.work.mgr.lastClaim = true ∧
     s.work.acting = false ∧ (s.work.nodeTable.find? (fun e => e.kind == 4 && e.ident == identBytes) = none)) ∧
    (∃ (s : State) (k : Fin 40) (p : Packet) (c : Ctrl), s.Hears k p 1 c ∧ c.body.length = 8 ∧ s.work.inDomain (beAt c.body 0 2) = true ∧
     s.work.beatSrc ≠ 2 ∧ s.work.acting = true) ∧
    (∃ (s : State) (k : Fin 40) (p : Packet) (c : Ctrl), s.Hears k p 1 c ∧ c.body.length = 8 ∧ s.work.inDomain (beAt c.body 0 2) = true ∧
     s.work.beatSrc ≠ 2 ∧ s.work.acting = false ∧ s.board.role = 2) ∧
    (∃ (s : State) (k : Fin 40) (p : Packet) (c : Ctrl), s.Hears k p 1 c ∧ c.body.length = 8 ∧ s.work.inDomain (beAt c.body 0 2) = true ∧
     s.work.beatSrc ≠ 2 ∧ s.work.acting = false ∧ s.board.role ≠ 2) ∧
    (∃ (s : State) (k : Fin 40) (p : Packet) (c : Ctrl), s.Hears k p 22 c ∧ s.work.acting = true) ∧
    (∃ (s : State) (k : Fin 40) (p : Packet) (c : Ctrl), s.Hears k p 22 c ∧ s.work.acting = false ∧ s.board.role = 2) ∧
    (∃ s : State, s.board.alive = true ∧ s.work.fld MGR_STATUS 0 2 = 1 ∧ s.work.locked = true ∧ s.work.depWait ≤ s.work.beat.sinceMarker ∧
     ∃ x, s.work.mgr.takeover = some x ∧ s.work.mgr.takeoverAt = some s.work.beatFull) ∧
    (∃ s : State, s.board.alive = true ∧ s.work.fld MGR_STATUS 0 2 = 1 ∧ s.work.locked = true ∧ s.work.depWait ≤ s.work.beat.sinceMarker ∧
     s.work.mgr.takeover = none) ∧
    (∃ (s : State) (k : Fin 40) (p : Packet) (c : Ctrl), s.Hears k p 20 c ∧ c.body.length = 12 ∧ s.work.mgr.depNode = some p.src ∧
     s.work.acting = false ∧ s.work.depWait / 2 ≤ s.work.beat.fly) ∧
    (∃ (s : State) (k : Fin 40) (p : Packet) (c : Ctrl), s.Hears k p 20 c ∧ c.body.length = 12 ∧ s.work.mgr.depNode = some p.src ∧
     s.work.acting = false ∧ s.work.beat.fly < s.work.depWait / 2) ∧
    (∃ (s : State) (k : Fin 40) (p : Packet) (c : Ctrl) (t : Nat) (yes no : List Nat), s.Hears k p 21 c ∧
     s.work.mgr.takeover = some (t, yes, no) ∧ c.body.length = 4 ∧ beAt c.body 0 1 = (s.work.jobGen 0 + 1) % 256) ∧
    (∃ (s : State) (t : Nat) (yes no : List Nat), s.board.alive = true ∧ s.work.mgr.takeover = some (t, yes, no) ∧
     s.work.fld MGR_STATUS 0 2 = 1 ∧ s.work.positioned < 2 * yes.length ∧ s.work.mgr.crews = []) ∧
    (∃ (s : State) (t : Nat) (yes no : List Nat), s.board.alive = true ∧ s.work.mgr.takeover = some (t, yes, no) ∧
     s.work.fld MGR_STATUS 0 2 = 1 ∧ 2 * yes.length ≤ s.work.positioned ∧ beatBefore s.work.beatFull (beatAdd t 8) = false) ∧
    (∃ (s : State) (t : Nat) (yes no : List Nat), s.board.alive = true ∧ s.work.mgr.takeover = some (t, yes, no) ∧
     s.work.fld MGR_STATUS 0 2 = 1 ∧ 2 * yes.length ≤ s.work.positioned ∧ beatBefore s.work.beatFull (beatAdd t 8) = true) :=
  ⟨⟨st (wk man), { ident := [], node := 9, kind := 4, position := 0 }, by (repeat' apply And.intro) <;> decide +kernel⟩,
   ⟨{ State.reset with board := { State.reset.board with role := 2 }, work := deputyW },
    { ident := identBytes, node := 9, kind := 4, position := 0 }, by
     refine ⟨?_, ?_, ?_, ?_, ?_⟩
     iterate 4 decide +kernel
     exact deputyW_table⟩,
   ⟨{ State.reset with board := { State.reset.board with role := 2 }, work := { wk [(BEAT_STATUS, 1), (NODE_TABLE_COUNT, 0)] with mem := [] } },
    { ident := [], node := 9, kind := 4, position := 0 }, by (repeat' apply And.intro) <;> decide +kernel⟩,
   ⟨st (wk man), 0, msg 1 0 ([0, 0, 1, 0, 0, 9, 0, 0]), ctl 1 0 ([0, 0, 1, 0, 0, 9, 0, 0]), by (repeat' apply And.intro) <;> decide +kernel⟩,
   ⟨{ State.reset with board := { State.reset.board with role := 2 }, work := wk net }, 0, msg 1 0 ([0, 0, 5, 0, 0, 9, 0, 0]),
    ctl 1 0 ([0, 0, 5, 0, 0, 9, 0, 0]), by (repeat' apply And.intro) <;> decide +kernel⟩,
   ⟨st (wk net), 0, msg 1 0 ([0, 0, 5, 0, 0, 9, 0, 0]), ctl 1 0 ([0, 0, 5, 0, 0, 9, 0, 0]), by (repeat' apply And.intro) <;> decide +kernel⟩,
   ⟨st (wk man), 0, msg 22 0 ([5, 0, 0, 0]), ctl 22 0 ([5, 0, 0, 0]), by (repeat' apply And.intro) <;> decide +kernel⟩,
   ⟨{ State.reset with board := { State.reset.board with role := 2 }, work := wk net }, 0, msg 22 0 ([5, 0, 0, 0]),
    ctl 22 0 ([5, 0, 0, 0]), by (repeat' apply And.intro) <;> decide +kernel⟩,
   ⟨st { wk ([(MGR_STATUS, 1), (BEAT_STATUS, 1), (NODE, 1)]) with beat := { sinceMarker := 1000 }, mgr := { takeover := some (0, [], []), takeoverAt := some 0 } },
    by decide +kernel, by decide +kernel, by decide +kernel, by decide +kernel, (0, [], []), by (repeat' apply And.intro) <;> decide +kernel⟩,
   ⟨st { wk ([(MGR_STATUS, 1), (BEAT_STATUS, 1), (NODE, 1)]) with beat := { sinceMarker := 1000 } }, by (repeat' apply And.intro) <;> decide +kernel⟩,
   ⟨st { wk (net) with mgr := { mgrNode := some 9, depNode := some 7 }, beat := { fly := 100 } }, 0, msg 20 0 ([5] ++ zeros 11),
    ctl 20 0 ([5] ++ zeros 11), by (repeat' apply And.intro) <;> decide +kernel⟩,
   ⟨st { wk (net) with mgr := { mgrNode := some 9, depNode := some 7 } }, 0, msg 20 0 ([5] ++ zeros 11), ctl 20 0 ([5] ++ zeros 11), by (repeat' apply And.intro) <;> decide +kernel⟩,
   ⟨st { wk (net) with mgr := { takeover := some (0, [], []) } }, 0, msg 21 0 ([1, 1, 0, 0]), ctl 21 0 ([1, 1, 0, 0]), 0, [], [], by (repeat' apply And.intro) <;> decide +kernel⟩,
   ⟨st { wk ([(MGR_STATUS, 1), (NODE, 1)]) with mgr := { takeover := some (0, [7], []) } }, 0, [7], [], by (repeat' apply And.intro) <;> decide +kernel⟩,
   ⟨st { wk ([(MGR_STATUS, 1), (BEAT_COUNT_LO, 8)]) with mgr := { takeover := some (0, [], []) } }, 0, [], [], by (repeat' apply And.intro) <;> decide +kernel⟩,
   ⟨st { wk ([(MGR_STATUS, 1)]) with mgr := { takeover := some (0, [], []) } }, 0, [], [], by (repeat' apply And.intro) <;> decide +kernel⟩⟩

/-- Witnesses of Obligations.NodesJoinAndTakeTheirImages. -/
theorem test_NodesJoinAndTakeTheirImages :
    (∃ s : State, s.board.alive = true ∧ s.work.joinDue s.board = true) ∧
    (∃ s : State, s.board.alive = true ∧ s.work.joinDue s.board = false) ∧
    (∃ (s : State) (k : Fin 40) (p : Packet) (c : Ctrl) (e : NodeEnt), s.Hears k p 2 c ∧ c.body.length = 20 ∧ s.work.acting = true ∧
     (s.work.nodeTable.find? (fun x => x.ident == sub c.body 0 16) = some e) ∧ beAt c.body 16 1 ≠ 3 ∧ beAt c.body 17 1 % 2 = 0 ∧ e.kind ≠ 3 ∧
     e.node ≠ 0xFFFD ∧ Sp.find s.work.mgr.joined e.node = none) ∧
    (∃ (s : State) (k : Fin 40) (p : Packet) (c : Ctrl), s.Hears k p 3 c ∧ s.work.mgr.mgrNode = some p.src ∧ c.body.length = 20 ∧
     sub c.body 0 16 = identBytes ∧ beAt c.body 16 2 ≠ 0xFFFD ∧ beAt c.body 18 1 ≠ 3 ∧ s.board.role ≠ 3 ∧ s.work.flag REPL_STATUS 5 = false ∧
     s.work.mgr.lastingPending = false) ∧
    (∃ (s : State) (k : Fin 40) (p : Packet) (c : Ctrl), s.Hears k p 3 c ∧ s.work.mgr.mgrNode = some p.src ∧ c.body.length = 20 ∧
     sub c.body 0 16 = identBytes ∧ (beAt c.body 16 2 = 0xFFFD ∨ beAt c.body 18 1 = 3 ∨ s.board.role = 3 ∨ s.work.flag REPL_STATUS 5 = true)) ∧
    (∃ (s : State) (k : Fin 40) (p : Packet) (c : Ctrl) (r : LoadRec) (g : Prog), s.Hears k p 4 c ∧ s.work.mgr.mgrNode = some p.src ∧
     c.body.length = 32 ∧ allZero (sub c.body 25 7) = true ∧
      (let a := beAt c.body 0 8
       let n := beAt c.body 8 4
       inStacks a n = true ∧ s.work.unfolded = [] ∧ s.work.poisoned a n = false ∧ s.work.flag REPL_STATUS 5 = false ∧
        s.work.mgr.lastingPending = false ∧ s.work.fld MGR_STATUS 0 2 ≠ 3 ∧ s.board.role ≠ 3 ∧ crc32c (s.work.bytes a n) = beAt c.body 12 4 ∧
        loadRecs (n / 16) (s.work.bytes a n) = some [r] ∧ r.count = 1 ∧ r.core < 1024 ∧
        (s.work.putRec r).loadProg r.core ((s.work.putRec r).progBase r.core) = .ok g)) ∧
    (∃ (s : State) (k : Fin 40) (p : Packet) (c : Ctrl) (r : LoadRec) (g : Prog), s.Hears k p 4 c ∧ s.work.mgr.mgrNode = some p.src ∧
     c.body.length = 32 ∧ allZero (sub c.body 25 7) = true ∧
      (let a := beAt c.body 0 8
       let n := beAt c.body 8 4
       inStacks a n = true ∧ s.work.unfolded = [] ∧ s.work.poisoned a n = false ∧ s.work.flag REPL_STATUS 5 = false ∧
        s.work.mgr.lastingPending = false ∧ s.work.fld MGR_STATUS 0 2 ≠ 3 ∧ s.board.role ≠ 3 ∧ crc32c (s.work.bytes a n) ≠ beAt c.body 12 4)) ∧
    (∃ (s : State) (k : Fin 40) (p : Packet) (c : Ctrl), s.Hears k p 17 c ∧ s.work.mgr.mgrNode = some p.src ∧ c.body.length = 4 ∧
      (let j := beAt c.body 0 2
       j ≠ 0 ∧ (s.work.jobEnt j).state = 0 ∧ ((s.work.jobEnt j).anyGen = true ∨ beAt c.body 2 1 = ((s.work.jobEnt j).gen + 1) % 256) ∧
        s.work.fld ACTIVE_JOBS 0 9 < 256)) ∧
    (∃ (s : State) (k : Fin 40) (p : Packet) (c : Ctrl), s.Hears k p 18 c ∧ s.work.mgr.mgrNode = some p.src ∧ c.body.length = 12 ∧
      (let j := beAt c.body 0 2
       j ≠ 0)) ∧
    (∃ (s : State) (k : Fin 40) (p : Packet) (c : Ctrl), s.Hears k p 18 c ∧ s.work.mgr.mgrNode = some p.src ∧ c.body.length = 12 ∧
      (let j := beAt c.body 0 2
       j = 0)) ∧
    (∃ (s : State) (k : Fin 40) (p : Packet) (c : Ctrl), s.Hears k p 13 c ∧ allZero (sub c.body 1 3) = true ∧
      (let kind := beAt c.body 0 1
       let r := c.body.drop 4
       s.work.acting = true ∧ kind = 1 ∧ r.length = 74)) ∧
    (∃ (s : State) (k : Fin 40) (p : Packet) (c : Ctrl), s.Hears k p 13 c ∧ allZero (sub c.body 1 3) = true ∧
      (let kind := beAt c.body 0 1
       s.work.acting = true ∧ (kind = 2 ∨ kind = 3))) ∧
    (∃ (s : State) (k : Fin 40) (p : Packet) (c : Ctrl), s.Hears k p 13 c ∧ allZero (sub c.body 1 3) = true ∧
      (let kind := beAt c.body 0 1
       s.work.acting = true ∧ kind = 4)) ∧
    (∃ (s : State) (k : Fin 40) (p : Packet) (c : Ctrl), s.Hears k p 13 c ∧ allZero (sub c.body 1 3) = true ∧
      (let kind := beAt c.body 0 1
       let r := c.body.drop 4
       s.work.acting = true ∧ kind = 6 ∧ beAt r 8 1 = 8)) ∧
    (∃ (s : State) (k : Fin 40) (p : Packet) (c : Ctrl), s.Hears k p 13 c ∧ allZero (sub c.body 1 3) = true ∧
      (let kind := beAt c.body 0 1
       s.work.acting = true ∧ kind = 5)) ∧
    (∃ (s : State) (k : Fin 40) (p : Packet) (c : Ctrl), s.Hears k p 13 c ∧ allZero (sub c.body 1 3) = true ∧
      (let kind := beAt c.body 0 1
       let r := c.body.drop 4
       s.work.acting = false ∧ s.work.fld MGR_STATUS 0 2 ≠ 1 ∧ s.work.mgr.mgrNode = some p.src ∧ s.work.stroke.catchAt = 0 ∧ kind = 1 ∧
        r.length = 74)) ∧
    (∃ (s : State) (k : Fin 40) (p : Packet) (c : Ctrl), s.Hears k p 26 c ∧ s.work.acting = true ∧ regRespOk c.body = true) ∧
    (∃ (s : State) (k : Fin 40) (p : Packet) (c : Ctrl), s.Hears k p 25 c ∧ s.work.mgr.mgrNode = some p.src ∧ p.gen = s.work.jobGen 0 ∧
     regReqOk c.body = true ∧ beAt c.body 4 1 = 1 ∧ beAt c.body 5 1 = 0 ∧ s.work.node < 0xFFFD ∧ s.work.access.waits = [] ∧
      (let a := beAt c.body 24 4 % 2 ^ 30
       s.work.underReset a = true)) ∧
    (∃ (s : State) (k : Fin 40) (p : Packet) (c : Ctrl), s.Hears k p 25 c ∧ s.work.mgr.mgrNode = some p.src ∧ p.gen = s.work.jobGen 0 ∧
     regReqOk c.body = true ∧ beAt c.body 4 1 = 1 ∧ beAt c.body 5 1 = 0 ∧ s.work.node < 0xFFFD ∧ s.work.access.waits = [] ∧
      (let a := beAt c.body 24 4 % 2 ^ 30
       beAt c.body 24 4 < 2 ^ 31 ∧ s.work.underReset a = false ∧ s.work.readWaits .manager a = false)) ∧
    (∃ (s : State) (k : Fin 40) (p : Packet) (c : Ctrl), s.Hears k p 25 c ∧ s.work.mgr.mgrNode = some p.src ∧ p.gen = s.work.jobGen 0 ∧
     regReqOk c.body = true ∧ beAt c.body 4 1 = 1 ∧ beAt c.body 5 1 = 0 ∧ s.work.node < 0xFFFD ∧ s.work.access.waits = [] ∧
      (let a := beAt c.body 24 4 % 2 ^ 30
       a = GLB_SCRATCH ∧ 2 ^ 31 ≤ beAt c.body 24 4 ∧ s.work.darkAt GLB_SCRATCH = false ∧ s.work.underReset a = false)) :=
  ⟨⟨st { wk ([(BEAT_STATUS, 1), (NODE, 0xFFFE)]) with mgr := { mgrNode := some 7 } }, by (repeat' apply And.intro) <;> decide +kernel⟩,
   ⟨State.reset, by (repeat' apply And.intro) <;> decide +kernel⟩,
   ⟨st { wk (man ++ [(NODE_TABLE_COUNT, 1)]) with mem := cellsOf 0 (List.replicate 16 7 ++ [9, 0, 0, 0, 3, 0]) }, 0,
    msg 2 0 (List.replicate 16 7 ++ zeros 4), ctl 2 0 (List.replicate 16 7 ++ zeros 4),
    { ident := List.replicate 16 7, node := 9, kind := 0, position := 3 }, by (repeat' apply And.intro) <;> decide +kernel⟩,
   ⟨st { wk (net) with mgr := { mgrNode := some 7 } }, 0, msg 3 0 (identBytes ++ [0, 9, 2, 0]), ctl 3 0 (identBytes ++ [0, 9, 2, 0]), by
     refine ⟨?_, ?_, ?_, ?_, ?_, ?_⟩
     exact joined_hears
     iterate 2 decide +kernel
     exact rfl
     decide +kernel
     refine ⟨?_, ?_, ?_, ?_⟩
     iterate 4 decide +kernel⟩,
   ⟨st3 { wk (net) with mgr := { mgrNode := some 7 } }, 0, msg 3 0 (identBytes ++ [0, 9, 2, 0]), ctl 3 0 (identBytes ++ [0, 9, 2, 0]), by
     refine ⟨?_, ?_, ?_, ?_, ?_⟩
     exact joined_hears3
     iterate 2 decide +kernel
     exact rfl
     decide +kernel⟩,
   ⟨st { wk (net) with mem := cellsOf 4096 (toLE 2 0 ++ toLE 2 1 ++ toLE 4 0 ++ toLE 4 32 ++ zeros 4 ++ progBytes), mgr := { mgrNode := some 7 } },
    0,
    msg 4 1 (toBE 8 4096 ++ toBE 4 48 ++ toBE 4 (crc32c (toLE 2 0 ++ toLE 2 1 ++ toLE 4 0 ++ toLE 4 32 ++ zeros 4 ++ progBytes)) ++ toBE 8 100 ++ zeros 8),
    ctl 4 1 (toBE 8 4096 ++ toBE 4 48 ++ toBE 4 (crc32c (toLE 2 0 ++ toLE 2 1 ++ toLE 4 0 ++ toLE 4 32 ++ zeros 4 ++ progBytes)) ++ toBE 8 100 ++ zeros 8),
    { core := 0, count := 1, off := 0, data := progBytes },
    Checked.prog (((st { wk (net) with mem := cellsOf 4096 (toLE 2 0 ++ toLE 2 1 ++ toLE 4 0 ++ toLE 4 32 ++ zeros 4 ++ progBytes), mgr := { mgrNode := some 7 } } : State).work.putRec ({ core := 0, count := 1, off := 0, data := progBytes } : LoadRec)).loadProg 0 (((st { wk (net) with mem := cellsOf 4096 (toLE 2 0 ++ toLE 2 1 ++ toLE 4 0 ++ toLE 4 32 ++ zeros 4 ++ progBytes), mgr := { mgrNode := some 7 } } : State).work.putRec ({ core := 0, count := 1, off := 0, data := progBytes } : LoadRec)).progBase 0)), by (repeat' apply And.intro) <;> decide +kernel⟩,
   ⟨st { wk (net) with mem := cellsOf 4096 (toLE 2 0 ++ toLE 2 1 ++ toLE 4 0 ++ toLE 4 32 ++ zeros 4 ++ progBytes), mgr := { mgrNode := some 7 } },
    0, msg 4 1 (toBE 8 4096 ++ toBE 4 48 ++ toBE 4 (0) ++ toBE 8 100 ++ zeros 8),
    ctl 4 1 (toBE 8 4096 ++ toBE 4 48 ++ toBE 4 (0) ++ toBE 8 100 ++ zeros 8), { core := 0, count := 1, off := 0, data := progBytes },
    Checked.prog (((st { wk (net) with mem := cellsOf 4096 (toLE 2 0 ++ toLE 2 1 ++ toLE 4 0 ++ toLE 4 32 ++ zeros 4 ++ progBytes), mgr := { mgrNode := some 7 } } : State).work.putRec ({ core := 0, count := 1, off := 0, data := progBytes } : LoadRec)).loadProg 0 (((st { wk (net) with mem := cellsOf 4096 (toLE 2 0 ++ toLE 2 1 ++ toLE 4 0 ++ toLE 4 32 ++ zeros 4 ++ progBytes), mgr := { mgrNode := some 7 } } : State).work.putRec ({ core := 0, count := 1, off := 0, data := progBytes } : LoadRec)).progBase 0)), by (repeat' apply And.intro) <;> decide +kernel⟩,
   ⟨st { wk (net) with jobs := [(2, { state := 0 })], mgr := { mgrNode := some 7 } }, 0, msg 17 0 (toBE 2 2 ++ [5, 0]),
    ctl 17 0 (toBE 2 2 ++ [5, 0]), by (repeat' apply And.intro) <;> decide +kernel⟩,
   ⟨st { wk (net) with mgr := { mgrNode := some 7 } }, 0, msg 18 0 (toBE 2 2 ++ zeros 2 ++ toBE 8 100),
    ctl 18 0 (toBE 2 2 ++ zeros 2 ++ toBE 8 100), by (repeat' apply And.intro) <;> decide +kernel⟩,
   ⟨st { wk (net) with mgr := { mgrNode := some 7 } }, 0, msg 18 0 (toBE 2 0 ++ zeros 2 ++ toBE 8 100),
    ctl 18 0 (toBE 2 0 ++ zeros 2 ++ toBE 8 100), by (repeat' apply And.intro) <;> decide +kernel⟩,
   ⟨st (wk man), 0, msg 13 0 ([1, 0, 0, 0] ++ (zeros 73 ++ [7])), ctl 13 0 ([1, 0, 0, 0] ++ (zeros 73 ++ [7])), by (repeat' apply And.intro) <;> decide +kernel⟩,
   ⟨st (wk man), 0, msg 13 0 ([2, 0, 0, 0, 3, 4, 5]), ctl 13 0 ([2, 0, 0, 0, 3, 4, 5]), by (repeat' apply And.intro) <;> decide +kernel⟩,
   ⟨st { wk (man) with crews := [crew1] }, 0, msg 13 0 ([4, 0, 0, 0, 1]), ctl 13 0 ([4, 0, 0, 0, 1]), by (repeat' apply And.intro) <;> decide +kernel⟩,
   ⟨st { wk (man) with crews := [crew1] }, 0, msg 13 0 ([6, 0, 0, 0] ++ zeros 8 ++ [8] ++ zeros 23),
    ctl 13 0 ([6, 0, 0, 0] ++ zeros 8 ++ [8] ++ zeros 23), by (repeat' apply And.intro) <;> decide +kernel⟩,
   ⟨st (wk man), 0, msg 13 0 ([5, 0, 0, 0]), ctl 13 0 ([5, 0, 0, 0]), by (repeat' apply And.intro) <;> decide +kernel⟩,
   ⟨st { wk (net) with mgr := { mgrNode := some 7 } }, 0, msg 13 0 ([1, 0, 0, 0] ++ (zeros 73 ++ [7])),
    ctl 13 0 ([1, 0, 0, 0] ++ (zeros 73 ++ [7])), by (repeat' apply And.intro) <;> decide +kernel⟩,
   ⟨st (wk man), 0, msg 26 0 (toBE 4 5 ++ [1, 0, 0, 0] ++ zeros 8), ctl 26 0 (toBE 4 5 ++ [1, 0, 0, 0] ++ zeros 8), by (repeat' apply And.intro) <;> decide +kernel⟩,
   ⟨st { wk (net) with access := {}, fault := { resets := [{ unit := 1080, level := 2, trigger := {}, sampling := false, start := 0 }] }, mgr := { mgrNode := some 7 } },
    0, msg 25 0 (toBE 4 5 ++ [1, 0, 0, 0] ++ zeros 16 ++ toBE 4 (MC_STATUS 0) ++ toBE 4 77),
    ctl 25 0 (toBE 4 5 ++ [1, 0, 0, 0] ++ zeros 16 ++ toBE 4 (MC_STATUS 0) ++ toBE 4 77), by (repeat' apply And.intro) <;> decide +kernel⟩,
   ⟨st { wk (net ++ [(GLB_SCRATCH, 6)]) with mgr := { mgrNode := some 7 } }, 0,
    msg 25 0 (toBE 4 5 ++ [1, 0, 0, 0] ++ zeros 16 ++ toBE 4 (GLB_SCRATCH) ++ toBE 4 77),
    ctl 25 0 (toBE 4 5 ++ [1, 0, 0, 0] ++ zeros 16 ++ toBE 4 (GLB_SCRATCH) ++ toBE 4 77), by (repeat' apply And.intro) <;> decide +kernel⟩,
   ⟨st { wk (net) with mgr := { mgrNode := some 7 } }, 0,
    msg 25 0 (toBE 4 5 ++ [1, 0, 0, 0] ++ zeros 16 ++ toBE 4 (2 ^ 31 + GLB_SCRATCH) ++ toBE 4 77),
    ctl 25 0 (toBE 4 5 ++ [1, 0, 0, 0] ++ zeros 16 ++ toBE 4 (2 ^ 31 + GLB_SCRATCH) ++ toBE 4 77), by (repeat' apply And.intro) <;> decide +kernel⟩⟩

/-- Witnesses of Obligations.CheckpointsAreOrderedWrittenAndCommitted. -/
theorem test_CheckpointsAreOrderedWrittenAndCommitted :
    (∃ (s : State) (n : Fin 1024) (m : MCrew), s.board.alive = true ∧ s.work.acting = true ∧ s.work.mgr.crews = [(n.val, m)] ∧ m.on = true ∧
     m.ckpt = none ∧ beatBefore s.work.beatFull (beatAdd m.lastCommit (s.work.rd CKPT_INTERVAL)) = false) ∧
    (∃ (s : State) (n : Fin 1024) (m : MCrew), s.board.alive = true ∧ s.work.acting = true ∧ s.work.mgr.crews = [(n.val, m)] ∧ m.on = true ∧
     m.ckpt = none ∧ beatBefore s.work.beatFull (beatAdd m.lastCommit (s.work.rd CKPT_INTERVAL)) = true) ∧
    (∃ (s : State) (k : Fin 40) (p : Packet) (c : Ctrl), s.Hears k p 5 c ∧ s.work.mgr.mgrNode = some p.src ∧ c.body.length = 12 ∧
     beatBefore s.work.beatFull (beAt c.body 4 8) = true) ∧
    (∃ (s : State) (k : Fin 40) (p : Packet) (c : Ctrl), s.Hears k p 5 c ∧ s.work.mgr.mgrNode = some p.src ∧ c.body.length = 12 ∧
     beatBefore s.work.beatFull (beAt c.body 4 8) = false) ∧
    (∃ (s : State) (k f : Nat) (c : Crew), s.board.alive = true ∧ s.work.mgr.ckptNow = some (k, f) ∧ s.work.mgr.recordDue = true ∧
     (∀ q ∈ s.work.allParts, q.2.2.foldDue = false) ∧ s.work.strokeCrew = some c ∧ c.keeperNode = none) ∧
    (∃ (s : State) (k f : Nat), s.board.alive = true ∧ s.work.mgr.ckptNow = some (k, f) ∧ s.work.bothWritten f = true) ∧
    (∃ (s : State) (k f : Nat), s.board.alive = true ∧ s.work.mgr.ckptNow = some (k, f) ∧ s.work.bothWritten f = false) ∧
    (∃ (s : State) (k : Fin 40) (p : Packet) (c : Ctrl) (a : Attempt), s.Hears k p 6 c ∧ s.work.acting = true ∧
     (s.work.mcrew c.crew).ckpt = some a ∧ c.body.length = 8 ∧ beAt c.body 0 4 = a.k ∧ beAt c.body 4 1 ≠ 0) ∧
    (∃ (s : State) (k : Fin 40) (p : Packet) (c : Ctrl) (a : Attempt), s.Hears k p 6 c ∧ s.work.acting = true ∧
     (s.work.mcrew c.crew).ckpt = some a ∧ c.body.length = 8 ∧ beAt c.body 0 4 = a.k ∧ beAt c.body 4 1 = 0 ∧
     (∃ x ∈ s.work.crewNodes c.crew, x ∉ p.src :: a.done)) ∧
    (∃ (s : State) (k : Fin 40) (p : Packet) (c : Ctrl) (a : Attempt), s.Hears k p 6 c ∧ s.work.acting = true ∧
     (s.work.mcrew c.crew).ckpt = some a ∧ c.body.length = 8 ∧ beAt c.body 0 4 = a.k ∧ beAt c.body 4 1 = 0 ∧
     (∀ x ∈ s.work.crewNodes c.crew, x ∈ p.src :: a.done)) ∧
    (∃ (s : State) (k : Fin 40) (p : Packet) (c : Ctrl), s.Hears k p 7 c ∧ s.work.mgr.mgrNode = some p.src ∧ c.body.length = 4) :=
  ⟨⟨st { wk ([(BEAT_COUNT_LO, 200)] ++ [(CKPT_INTERVAL, 100)] ++ man) with mgr := { crews := [(1, { on := true })] }, crews := [crew1] },
    1, { on := true }, by (repeat' apply And.intro) <;> decide +kernel⟩,
   ⟨st { wk ([(BEAT_COUNT_LO, 20)] ++ [(CKPT_INTERVAL, 100)] ++ man) with mgr := { crews := [(1, { on := true })] }, crews := [crew1] }, 1,
    { on := true }, by (repeat' apply And.intro) <;> decide +kernel⟩,
   ⟨st { wk (net) with mgr := { mgrNode := some 7 } }, 0, msg 5 1 (toBE 4 3 ++ toBE 8 100), ctl 5 1 (toBE 4 3 ++ toBE 8 100), by (repeat' apply And.intro) <;> decide +kernel⟩,
   ⟨st { wk ([(BEAT_COUNT_LO, 100)] ++ net) with mgr := { mgrNode := some 7 } }, 0, msg 5 1 (toBE 4 3 ++ toBE 8 100),
    ctl 5 1 (toBE 4 3 ++ toBE 8 100), by (repeat' apply And.intro) <;> decide +kernel⟩,
   ⟨st { wk (net) with mgr := { ckptNow := some (3, 50), recordDue := true }, crews := [{ crew1 with keeper := 9 }] }, 3, 50,
    { crew1 with keeper := 9 }, by (repeat' apply And.intro) <;> decide +kernel⟩,
   ⟨st { wk (net) with mgr := { mgrNode := some 7, ckptNow := some (3, 50) }, stroke := { catchAt := 51, active := true }, crews := [crew1] },
    3, 50, by (repeat' apply And.intro) <;> decide +kernel⟩,
   ⟨st { wk (net) with mgr := { ckptNow := some (3, 50) } }, 3, 50, by (repeat' apply And.intro) <;> decide +kernel⟩,
   ⟨st { wk (man) with mgr := { crews := [(1, { on := true, ckpt := some { k := 3, fin := 50 } })] }, crews := [crew1] }, 0,
    msg 6 1 (toBE 4 3 ++ [1, 0, 0, 0]), ctl 6 1 (toBE 4 3 ++ [1, 0, 0, 0]), { k := 3, fin := 50 }, by (repeat' apply And.intro) <;> decide +kernel⟩,
   ⟨st { wk (man) with mgr := { crews := [(1, { on := true, ckpt := some { k := 3, fin := 50 } })] }, crews := [{ crew1 with members := crew1.members ++ [{ node := 8, logical := 2, ports := 0 }] }] },
    0, msg 6 1 (toBE 4 3 ++ [0, 0, 0, 0]), ctl 6 1 (toBE 4 3 ++ [0, 0, 0, 0]), { k := 3, fin := 50 }, by (repeat' apply And.intro) <;> decide +kernel⟩,
   ⟨st { wk (man) with mgr := { crews := [(1, { on := true, ckpt := some { k := 3, fin := 50 } })] }, crews := [crew1] }, 0,
    msg 6 1 (toBE 4 3 ++ [0, 0, 0, 0]), ctl 6 1 (toBE 4 3 ++ [0, 0, 0, 0]), { k := 3, fin := 50 }, by (repeat' apply And.intro) <;> decide +kernel⟩,
   ⟨st { wk (net) with mgr := { mgrNode := some 7 } }, 0, msg 7 1 (toBE 4 3), ctl 7 1 (toBE 4 3), by (repeat' apply And.intro) <;> decide +kernel⟩⟩

/-- Witnesses of Obligations.CrewsRollCallAndRestore. -/
theorem test_CrewsRollCallAndRestore :
    (∃ (s : State) (k : Fin 40) (p : Packet) (c : Ctrl), s.Hears k p 8 c ∧ s.work.mgr.mgrNode = some p.src ∧ c.body.length = 4 ∧
     s.work.undoLeft = true) ∧
    (∃ (s : State) (k : Fin 40) (p : Packet) (c : Ctrl), s.Hears k p 8 c ∧ s.work.mgr.mgrNode = some p.src ∧ c.body.length = 4 ∧
     s.work.undoLeft = false ∧ s.work.flag SEC_STATUS 15 = false) ∧
    (∃ (s : State) (k : Fin 40) (p : Packet) (c : Ctrl) (r : Roll), s.Hears k p 9 c ∧ s.work.acting = true ∧
     (s.work.mcrew c.crew).roll = some r ∧ c.body.length = 8 ∧ beAt c.body 0 4 = r.call ∧ (beAt c.body 4 1).testBit 0 = true ∧
     (∃ x ∈ s.work.crewNodes c.crew, x ∉ p.src :: r.answered)) ∧
    (∃ (s : State) (n : Fin 1024) (r : Roll), s.board.alive = true ∧ s.work.acting = true ∧ (s.work.mcrew n.val).roll = some r ∧
      (let late := beatAdd r.start (max 64 (s.work.fld MGR_CTL 16 16))
       beatBefore s.work.beatFull late = true)) ∧
    (∃ (s : State) (n : Fin 1024) (r : Roll), s.board.alive = true ∧ s.work.acting = true ∧ (s.work.mcrew n.val).roll = some r ∧
      (let late := beatAdd r.start (max 64 (s.work.fld MGR_CTL 16 16))
       beatBefore s.work.beatFull late = false ∧ s.work.mgr.fallen = [] ∧ (s.work.mcrew n.val).failed = [] ∧
        (∀ x ∈ s.work.crewNodes n.val, x ∈ r.answered) ∧ (s.work.mcrew n.val).cause ≠ 5 ∧ (s.work.mcrew n.val).cause ≠ 11)) ∧
    (∃ (s : State) (n : Fin 1024) (r : Roll), s.board.alive = true ∧ s.work.acting = true ∧ (s.work.mcrew n.val).roll = some r ∧
      (let late := beatAdd r.start (max 64 (s.work.fld MGR_CTL 16 16))
       beatBefore s.work.beatFull late = false ∧ ∃ x, x ∈ s.work.crewNodes n.val ∧ x ∉ r.answered ∧ s.work.crewNodes n.val = [x] ∧
        (s.work.mcrew n.val).failed = [] ∧ s.work.positionOf x = none)) ∧
    (∃ (s : State) (k : Fin 40) (p : Packet) (c : Ctrl), s.Hears k p 10 c ∧ s.work.mgr.mgrNode = some p.src ∧
     c.body.length = 8 + 4 * beAt c.body 6 2) ∧
    (∃ (s : State) (st : Fin 3) (k v : Nat) (subs : List (Nat × Nat)), s.board.alive = true ∧ s.work.mgr.restore = some (k, v, subs) ∧
     s.work.mgr.restoreDone = false ∧ s.work.undoLeft = false ∧ (∀ t ∈ s.work.tiles, t.2.restoreRows = [] ∧ t.2.surveys = []) ∧
     s.work.mgr.restoreTaken = false ∧ (s.work.recordStatus k ≠ 0 ∨ st ≠ 0)) ∧
    (∃ (s : State) (st : Fin 3) (k v : Nat) (subs : List (Nat × Nat)), s.board.alive = true ∧ s.work.mgr.restore = some (k, v, subs) ∧
     s.work.mgr.restoreDone = false ∧ s.work.undoLeft = false ∧ (∀ t ∈ s.work.tiles, t.2.restoreRows = [] ∧ t.2.surveys = []) ∧
     s.work.mgr.restoreTaken = false ∧ s.work.recordStatus k = 0 ∧ st = 0 ∧ s.work.tiles = [] ∧ s.work.extentsBad k = true) ∧
    (∃ (s : State) (st : Fin 3) (k v : Nat) (subs : List (Nat × Nat)), s.board.alive = true ∧ s.work.mgr.restore = some (k, v, subs) ∧
     s.work.mgr.restoreDone = false ∧ s.work.undoLeft = false ∧ (∀ t ∈ s.work.tiles, t.2.restoreRows = [] ∧ t.2.surveys = []) ∧
     s.work.mgr.restoreTaken = false ∧ s.work.recordStatus k = 0 ∧ st = 0 ∧ s.work.tiles = [] ∧ s.work.coxes = []) ∧
    (∃ (s : State) (k : Fin 40) (p : Packet) (c : Ctrl) (r : Restoring), s.Hears k p 11 c ∧ s.work.acting = true ∧
     (s.work.mcrew c.crew).restore = some r ∧ r.finish = none ∧ c.body.length = 8 ∧ beAt c.body 0 4 = r.k ∧
      (let m := s.work.mcrew c.crew
       beAt c.body 4 1 = 0 ∧ (∃ x ∈ s.work.restoreNodes c.crew r m.failed, x ∉ p.src :: r.done))) ∧
    (∃ (s : State) (k : Fin 40) (p : Packet) (c : Ctrl) (r : Restoring), s.Hears k p 11 c ∧ s.work.acting = true ∧
     (s.work.mcrew c.crew).restore = some r ∧ r.finish = none ∧ c.body.length = 8 ∧ beAt c.body 0 4 = r.k ∧
      (let m := s.work.mcrew c.crew
       beAt c.body 4 1 = 0 ∧ (∀ x ∈ s.work.restoreNodes c.crew r m.failed, x ∈ p.src :: r.done))) ∧
    (∃ (s : State) (k : Fin 40) (p : Packet) (c : Ctrl) (r : Restoring), s.Hears k p 11 c ∧ s.work.acting = true ∧
     (s.work.mcrew c.crew).restore = some r ∧ r.finish = none ∧ c.body.length = 8 ∧ beAt c.body 0 4 = r.k ∧ beAt c.body 4 1 ≠ 0 ∧
     r.tries = 1) ∧
    (∃ (s : State) (k : Fin 40) (p : Packet) (c : Ctrl) (r : Restoring), s.Hears k p 11 c ∧ s.work.acting = true ∧
     (s.work.mcrew c.crew).restore = some r ∧ r.finish = none ∧ c.body.length = 8 ∧ beAt c.body 0 4 = r.k ∧ beAt c.body 4 1 ≠ 0 ∧
     r.tries = 2) ∧
    (∃ (s : State) (k : Fin 40) (p : Packet) (c : Ctrl) (n v : Nat) (subs : List (Nat × Nat)), s.Hears k p 12 c ∧
     s.work.mgr.mgrNode = some p.src ∧ s.work.mgr.restore = some (n, v, subs) ∧ s.work.mgr.restoreDone = true ∧ c.body.length = 12 ∧
     beAt c.body 0 4 = n ∧ beatBefore s.work.beatFull (beAt c.body 4 8) = true) ∧
    (∃ (s : State) (k : Fin 40) (p : Packet) (c : Ctrl) (n v : Nat) (subs : List (Nat × Nat)), s.Hears k p 12 c ∧
     s.work.mgr.mgrNode = some p.src ∧ s.work.mgr.restore = some (n, v, subs) ∧ s.work.mgr.restoreDone = true ∧ c.body.length = 12 ∧
     beAt c.body 0 4 = n ∧ beatBefore s.work.beatFull (beAt c.body 4 8) = false) ∧
    (∃ (s : State) (n v r : Nat) (subs : List (Nat × Nat)), s.board.alive = true ∧ s.work.mgr.restore = some (n, v, subs) ∧
     s.work.mgr.restoreFinish = some r ∧ s.work.acting = false ∧ v < 256 ∧ s.work.mgr.physical = [] ∧ beatBefore s.work.beatFull r = false ∧
     s.work.coxes = []) ∧
    (∃ (s : State) (n v r : Nat) (subs : List (Nat × Nat)), s.board.alive = true ∧ s.work.mgr.restore = some (n, v, subs) ∧
     s.work.mgr.restoreFinish = some r ∧ s.work.acting = false ∧ v < 256 ∧ s.work.mgr.physical = [] ∧ beatBefore s.work.beatFull r = true) ∧
    (∃ (s : State) (p : Path), s.board.alive = true ∧
      (let v := putBits (s.work.rd MGR_CTL) 6 1 1
       s.work.Writable p MGR_CTL v ∧ s.work.acting = false)) ∧
    (∃ (s : State) (p : Path), s.board.alive = true ∧
      (let v := putBits (s.work.rd MGR_CTL) 6 1 1
       s.work.Writable p MGR_CTL v ∧ s.work.acting = true)) :=
  ⟨⟨st { wk (net) with mgr := { mgrNode := some 7 }, commits := [(0, { parts := [(0, { group := 5, slot := 0, parts := 1, writeEnd := 100, band := 0, pexp := 0, thresh := 16, layerRec := 4096, step := 0, state := 3, entries := [{ tile := 0, deck := 0, rowFirst := 0, rowCount := 2, master := 1048576, level := 2097152, resid := 3145728 }], todo := [], staged := [], undo := [], launch := 0, decided := 0, foldDue := false })] })] },
    0, msg 8 1 (toBE 4 5), ctl 8 1 (toBE 4 5), by (repeat' apply And.intro) <;> decide +kernel⟩,
   ⟨st { wk (net) with mgr := { mgrNode := some 7 } }, 0, msg 8 1 (toBE 4 5), ctl 8 1 (toBE 4 5), by (repeat' apply And.intro) <;> decide +kernel⟩,
   ⟨st { wk (man) with mgr := { crews := [(1, { on := true, roll := some { call := 5, start := 0 } })] }, crews := [{ crew1 with members := crew1.members ++ [{ node := 8, logical := 2, ports := 0 }] }] },
    0, msg 9 1 (toBE 4 5 ++ [1, 0, 0, 0]), ctl 9 1 (toBE 4 5 ++ [1, 0, 0, 0]), { call := 5, start := 0 }, by (repeat' apply And.intro) <;> decide +kernel⟩,
   ⟨st { wk (man) with mgr := { crews := [(1, { on := true, roll := some { call := 5, start := 0 } })] }, crews := [crew1] }, 1,
    { call := 5, start := 0 }, by (repeat' apply And.intro) <;> decide +kernel⟩,
   ⟨st { wk ([(BEAT_COUNT_LO, 70000)] ++ man) with mgr := { crews := [(1, { on := true, cause := 1, roll := some { call := 5, start := 0, answered := [7] } })] }, crews := [crew1] },
    1, { call := 5, start := 0, answered := [7] }, by (repeat' apply And.intro) <;> decide +kernel⟩,
   ⟨st { wk ([(BEAT_COUNT_LO, 70000)] ++ man) with mgr := { crews := [(1, { on := true, cause := 1, roll := some { call := 5, start := 0 } })] }, crews := [crew1] },
    1, { call := 5, start := 0 }, by decide +kernel, by decide +kernel, by decide +kernel, by decide +kernel, 7, by (repeat' apply And.intro) <;> decide +kernel⟩,
   ⟨st { wk (net ++ [(COX_STATUS 0, 1)]) with mgr := { mgrNode := some 7 }, coxes := [(0, {})] }, 0,
    msg 10 1 (toBE 4 3 ++ [2, 0] ++ toBE 2 0), ctl 10 1 (toBE 4 3 ++ [2, 0] ++ toBE 2 0), by (repeat' apply And.intro) <;> decide +kernel⟩,
   ⟨st { wk (net) with mgr := { mgrNode := some 7, restore := some (2, 1, []) } }, 1, 2, 1, [], by (repeat' apply And.intro) <;> decide +kernel⟩,
   ⟨st { wk (net ++ [(CKPT_SLOT_SIZE, 5000)]) with mgr := { mgrNode := some 7, restore := some (2, 1, []) }, poison := [65536], crews := [crew1], coxes := [(0, { prog := some (prog1 5) })], mem := cellsOf 0 (toLE 4 2 ++ toLE 4 0 ++ toLE 4 77 ++ toLE 4 12 ++ zeros 8 ++ toLE 4 (crc32c (toLE 4 2 ++ toLE 4 0 ++ toLE 4 77 ++ toLE 4 12 ++ zeros 8 ++ zeros 4 ++ toLE 4 64 ++ zeros 32)) ++ toLE 4 64 ++ zeros 32) ++ cellsOf (spadBase 0) ([1, 0, 1, 0] ++ zeros 12 ++ toLE 8 8192 ++ toLE 8 4096 ++ toLE 8 (2 ^ 24)) },
    0, 2, 1, [], by (repeat' apply And.intro) <;> decide +kernel⟩,
   ⟨st { wk (net) with mgr := { mgrNode := some 7, restore := some (2, 1, []) }, mem := cellsOf 0 (toLE 4 2 ++ toLE 4 0 ++ toLE 4 77 ++ toLE 4 12 ++ zeros 8 ++ toLE 4 (crc32c (toLE 4 2 ++ toLE 4 0 ++ toLE 4 77 ++ toLE 4 12 ++ zeros 8 ++ zeros 4 ++ toLE 4 64 ++ zeros 32)) ++ toLE 4 64 ++ zeros 32) },
    0, 2, 1, [], by (repeat' apply And.intro) <;> decide +kernel⟩,
   ⟨st { wk (man) with mgr := { crews := [(1, { on := true, restore := some { k := 3, variant := 0, subs := [] } })] }, crews := [{ crew1 with members := crew1.members ++ [{ node := 8, logical := 2, ports := 0 }] }] },
    0, msg 11 1 (toBE 4 3 ++ [0, 0, 0, 0]), ctl 11 1 (toBE 4 3 ++ [0, 0, 0, 0]), { k := 3, variant := 0, subs := [] }, by (repeat' apply And.intro) <;> decide +kernel⟩,
   ⟨st { wk (man) with mgr := { crews := [(1, { on := true, restore := some { k := 3, variant := 0, subs := [] } })] }, crews := [crew1] },
    0, msg 11 1 (toBE 4 3 ++ [0, 0, 0, 0]), ctl 11 1 (toBE 4 3 ++ [0, 0, 0, 0]), { k := 3, variant := 0, subs := [] }, by (repeat' apply And.intro) <;> decide +kernel⟩,
   ⟨st { wk (man) with mgr := { crews := [(1, { on := true, restore := some { k := 3, variant := 0, subs := [] } })] }, crews := [crew1] },
    0, msg 11 1 (toBE 4 3 ++ [1, 0, 0, 0]), ctl 11 1 (toBE 4 3 ++ [1, 0, 0, 0]), { k := 3, variant := 0, subs := [] }, by (repeat' apply And.intro) <;> decide +kernel⟩,
   ⟨st { wk (man) with mgr := { crews := [(1, { on := true, restore := some { k := 3, variant := 0, subs := [], tries := 2 } })] }, crews := [crew1] },
    0, msg 11 1 (toBE 4 3 ++ [1, 0, 0, 0]), ctl 11 1 (toBE 4 3 ++ [1, 0, 0, 0]), { k := 3, variant := 0, subs := [], tries := 2 }, by (repeat' apply And.intro) <;> decide +kernel⟩,
   ⟨st { wk (net) with mgr := { mgrNode := some 7, restore := some (3, 1, []), restoreDone := true } }, 0,
    msg 12 1 (toBE 4 3 ++ toBE 8 100), ctl 12 1 (toBE 4 3 ++ toBE 8 100), 3, 1, [], by (repeat' apply And.intro) <;> decide +kernel⟩,
   ⟨st { wk ([(BEAT_COUNT_LO, 100)] ++ net) with mgr := { mgrNode := some 7, restore := some (3, 1, []), restoreDone := true } }, 0,
    msg 12 1 (toBE 4 3 ++ toBE 8 100), ctl 12 1 (toBE 4 3 ++ toBE 8 100), 3, 1, [], by (repeat' apply And.intro) <;> decide +kernel⟩,
   ⟨st { wk (net) with mgr := { mgrNode := some 7, restore := some (3, 1, []), restoreFinish := some 0 } }, 3, 1, 0, [], by (repeat' apply And.intro) <;> decide +kernel⟩,
   ⟨st { wk (net) with mgr := { mgrNode := some 7, restore := some (3, 1, []), restoreFinish := some 9 } }, 3, 1, 9, [], by (repeat' apply And.intro) <;> decide +kernel⟩,
   ⟨State.reset, .controller, by (repeat' apply And.intro) <;> decide +kernel⟩,
   ⟨st { wk (man) with mgr := { crews := [(1, { on := true })] }, crews := [crew1] }, .controller, by (repeat' apply And.intro) <;> decide +kernel⟩⟩

/-- Witnesses of Obligations.CrewsAbortAtTheirBeat. -/
theorem test_CrewsAbortAtTheirBeat :
    (∃ (s : State) (k : Fin 40) (p : Packet) (b : Beacon), s.Receives k p 7 ∧ beaconOf p.payload = some b ∧
     (s.work.crew? b.crew = none ∨ s.work.restoringCrew b.crew = true ∨ ∃ c, s.work.crew? b.crew = some c ∧
     (c.job ≠ b.job ∨ s.work.jobGen c.job ≠ b.gen))) ∧
    (∃ (s : State) (k : Fin 40) (p : Packet) (b : Beacon), s.Receives k p 7 ∧ beaconOf p.payload = some b ∧
     ∃ c, s.work.crew? b.crew = some c ∧ c.job = b.job ∧ s.work.jobGen c.job = b.gen ∧ s.work.restoringCrew b.crew = false ∧
     s.work.abortRepeat b = false ∧ beatBefore s.work.beatFull b.abort = true) ∧
    (∃ (s : State) (n : Fin 1024) (a : Nat), s.board.alive = true ∧ Sp.find s.work.fault.aborts n.val = some a ∧ s.work.locked = true ∧
     beatBefore s.work.beatFull a = true) ∧
    (∃ (s : State) (n : Fin 1024) (a : Nat), s.board.alive = true ∧ Sp.find s.work.fault.aborts n.val = some a ∧
     beatBefore s.work.beatFull a = false) :=
  ⟨⟨st (wk net), 0, pk 7 0 0 0 (toBE 2 1 ++ [5, 0] ++ toBE 2 7 ++ toBE 2 2 ++ zeros 8 ++ toBE 8 100 ++ zeros 8),
    { crew := 1, cause := 5, relay := false, origin := 7, job := 2, gen := 0, abort := 100 }, by (repeat' apply And.intro) <;> decide +kernel⟩,
   ⟨st { wk (net) with crews := [crew1], jobs := [(2, { state := 1 })] }, 0,
    pk 7 0 0 0 (toBE 2 1 ++ [5, 0] ++ toBE 2 7 ++ toBE 2 2 ++ zeros 8 ++ toBE 8 100 ++ zeros 8),
    { crew := 1, cause := 5, relay := false, origin := 7, job := 2, gen := 0, abort := 100 }, by decide +kernel, by decide +kernel, crew1, by (repeat' apply And.intro) <;> decide +kernel⟩,
   ⟨st { wk (lk) with fault := { aborts := [(1, 100)] } }, 1, 100, by (repeat' apply And.intro) <;> decide +kernel⟩,
   ⟨st { wk ([(BEAT_COUNT_LO, 100), (COX_STATUS 0, 3), (NODE, 1)]) with fault := { aborts := [(1, 100)] }, coxes := [(0, { prog := some prog0 })], crews := [crew1] },
    1, 100, by (repeat' apply And.intro) <;> decide +kernel⟩⟩

/-- Witnesses of Obligations.HungUnitsAreReset. -/
theorem test_HungUnitsAreReset :
    (∃ (s : State) (c : Fin 1024), s.board.alive = true ∧ (s.work.outstanding c.val = false ∨ s.work.stalled c.val s.work.engWin = false)) ∧
    (∃ (s : State) (c : Fin 1024), s.board.alive = true ∧ s.work.outstanding c.val = true ∧ s.work.stalled c.val s.work.engWin = true ∧
     s.work.fault.resets = [] ∧ s.work.flag SAMPLE_STATUS 0 = false ∧ s.work.resetBefore c.val 2 = false ∧ 2 ≤ s.work.maxLevel) ∧
    (∃ (s : State) (c : Fin 1024), s.board.alive = true ∧ s.work.outstanding c.val = true ∧ s.work.stalled c.val s.work.engWin = true ∧
     s.work.fault.resets = [] ∧ s.work.flag SAMPLE_STATUS 0 = false ∧ s.work.resetBefore c.val 2 = true ∧
     s.work.resetBefore (1024 + c.val / 64) 3 = false ∧ 3 ≤ s.work.maxLevel) ∧
    (∃ (s : State) (c : Fin 1024), s.board.alive = true ∧ s.work.outstanding c.val = true ∧ s.work.stalled c.val s.work.engWin = true ∧
     s.work.fault.resets = [] ∧ s.work.flag SAMPLE_STATUS 0 = false ∧ s.work.maxLevel = 1) ∧
    (∃ (s : State), s.board.alive = true ∧ (s.work.openStages = [] ∨ s.work.stalled 1999 s.work.redWin = false)) ∧
    (∃ (s : State), s.board.alive = true ∧ s.work.openStages ≠ [] ∧ s.work.stalled 1999 s.work.redWin = true) :=
  ⟨⟨State.reset, 0, by (repeat' apply And.intro) <;> decide +kernel⟩,
   ⟨st { wk ([(COX_STATUS 0, 3), (ESC_CFG, 4), (NODE, 1)]) with coxes := [(0, { prog := some (prog1 0), runs := [(0, { state := 1 })] })] },
    0, by (repeat' apply And.intro) <;> decide +kernel⟩,
   ⟨st { wk ([(COX_STATUS 0, 3), (ESC_CFG, 4), (NODE, 1)]) with coxes := [(0, { prog := some (prog1 0), runs := [(0, { state := 1 })] })], fault := { last := [{ unit := 0, level := 2, beat := 0 }] } },
    0, by (repeat' apply And.intro) <;> decide +kernel⟩,
   ⟨st { wk ([(COX_STATUS 0, 3), (ESC_CFG, 1), (NODE, 1)]) with coxes := [(0, { prog := some (prog1 0), runs := [(0, { state := 1 })] })] },
    0, by (repeat' apply And.intro) <;> decide +kernel⟩,
   ⟨State.reset, by (repeat' apply And.intro) <;> decide +kernel⟩,
   ⟨st { wk (net) with red := { buckets := [(5, { num := 3, job := 0, gen := 0, segs := 2, firstSeg := 0, src := 4096, dst := 16384, work0 := 32768, work1 := 65536, resx := 131072, cnt := 0, stages := [{ ring := true, n := 2, pos := 1, rx := 0, tx := 1, nodes := [7], isOpen := true }] })] } }, by (repeat' apply And.intro) <;> decide +kernel⟩⟩

/-- Witnesses of Obligations.ResetsRunToTheirEnd. -/
theorem test_ResetsRunToTheirEnd :
    (∃ (s : State) (r : UnitReset), s.board.alive = true ∧ s.work.fault.resets = [r] ∧ r.sampling = true ∧ 1040 ≤ r.unit ∧ r.unit < 1092 ∧
     r.level = 2 ∧ s.work.flag SAMPLE_STATUS 0 = true) ∧
    (∃ (s : State) (r : UnitReset), s.board.alive = true ∧ s.work.fault.resets = [r] ∧ r.sampling = true ∧ r.unit = 1220 ∧ r.level = 4 ∧
     s.work.fld ESC_CFG 8 8 ≠ 0) ∧
    (∃ (s : State) (unit : Nat) (r : UnitReset), s.board.alive = true ∧ s.work.fault.resets = [r] ∧ r.sampling = false ∧ r.unit = unit ∧
     r.level = 2 ∧ s.work.access.waits = []) ∧
    (∃ (s : State) (die : Fin 16) (r : UnitReset), s.board.alive = true ∧ s.work.fault.resets = [r] ∧ r.sampling = false ∧
     r.unit = 1024 + die.val ∧ r.level = 3 ∧ s.work.access.waits = []) ∧
    (∃ (s : State) (unit : Nat) (r : UnitReset), s.board.alive = true ∧ s.work.fault.resets = [r] ∧ r.sampling = false ∧ r.unit = unit ∧
     r.level ≠ 4 ∧ unit ≠ 1220 ∧ s.work.access.waits = [] ∧ unit < 1024 ∧ s.work.resetBefore (1024 + unit / 64) 3 = false ∧
     3 ≤ s.work.maxLevel ∧ s.work.flag SAMPLE_STATUS 0 = false) ∧
    (∃ (s : State) (unit : Nat) (r : UnitReset), s.board.alive = true ∧ s.work.fault.resets = [r] ∧ r.sampling = false ∧ r.unit = unit ∧
     r.level ≠ 4 ∧ unit ≠ 1220 ∧ s.work.access.waits = [] ∧ 1024 ≤ unit ∧ s.work.chipAgain = false ∧ 4 ≤ s.work.maxLevel) ∧
    (∃ (s : State) (ns : List Nat) (a : Nat), s.board.alive = true ∧ s.work.fault.redHung = some (ns, a) ∧ s.work.access.waits = [] ∧
     beatsAhead a s.work.beatFull < 64) ∧
    (∃ (s : State) (ns : List Nat) (a : Nat), s.board.alive = true ∧ s.work.fault.redHung = some (ns, a) ∧ s.work.access.waits = [] ∧
     64 ≤ beatsAhead a s.work.beatFull ∧ (∀ q ∈ s.work.openStages, stageNo q ∉ ns)) :=
  ⟨⟨st { wk ([(SAMPLE_STATUS, 1)]) with fault := { resets := [{ unit := 1041, level := 2, trigger := { cls := 6, unit := 3, level := 2 }, sampling := true, start := 5 }] } },
    { unit := 1041, level := 2, trigger := { cls := 6, unit := 3, level := 2 }, sampling := true, start := 5 }, by (repeat' apply And.intro) <;> decide +kernel⟩,
   ⟨st { wk ([(ESC_CFG, 0x304)]) with fault := { resets := [{ unit := 1220, level := 4, trigger := { cls := 6, unit := 3, level := 2 }, sampling := true, start := 5 }] } },
    { unit := 1220, level := 4, trigger := { cls := 6, unit := 3, level := 2 }, sampling := true, start := 5 }, by (repeat' apply And.intro) <;> decide +kernel⟩,
   ⟨st { wk (net) with fault := { resets := [{ unit := 3, level := 2, trigger := { cls := 6, unit := 3, level := 2 }, sampling := false, start := 5 }] } },
    3, { unit := 3, level := 2, trigger := { cls := 6, unit := 3, level := 2 }, sampling := false, start := 5 }, by (repeat' apply And.intro) <;> decide +kernel⟩,
   ⟨st { wk (net) with fault := { resets := [{ unit := 1024 + 2, level := 3, trigger := { cls := 6, unit := 3, level := 2 }, sampling := false, start := 5 }] } },
    2, { unit := 1024 + 2, level := 3, trigger := { cls := 6, unit := 3, level := 2 }, sampling := false, start := 5 }, by (repeat' apply And.intro) <;> decide +kernel⟩,
   ⟨st { wk ([(ESC_CFG, 4), (NODE, 1)]) with fault := { resets := [{ unit := 3, level := 2, trigger := { cls := 6, unit := 3, level := 2 }, sampling := false, start := 5 }] } },
    3, { unit := 3, level := 2, trigger := { cls := 6, unit := 3, level := 2 }, sampling := false, start := 5 }, by (repeat' apply And.intro) <;> decide +kernel⟩,
   ⟨st { wk ([(ESC_CFG, 4), (NODE, 1)]) with fault := { resets := [{ unit := 1041, level := 2, trigger := { cls := 6, unit := 3, level := 2 }, sampling := false, start := 5 }] } },
    1041, { unit := 1041, level := 2, trigger := { cls := 6, unit := 3, level := 2 }, sampling := false, start := 5 }, by (repeat' apply And.intro) <;> decide +kernel⟩,
   ⟨st { wk ([(BEAT_COUNT_LO, 50)]) with fault := { redHung := some ([10], 100) } }, [10], 100, by (repeat' apply And.intro) <;> decide +kernel⟩,
   ⟨st { wk ([(BEAT_COUNT_LO, 164)]) with fault := { redHung := some ([10], 100) } }, [10], 100, by (repeat' apply And.intro) <;> decide +kernel⟩⟩

/-- Witnesses of Obligations.ChipLevelResetStartsAnew. -/
theorem test_ChipLevelResetStartsAnew :
    (∃ (s : State) (cause : Fin 4) (cls unit : Nat), s.board.alive = true ∧ cause.val < 2) ∧
    (∃ (s : State) (cause : Fin 4) (cls unit : Nat), s.board.alive = true ∧ 2 ≤ cause.val) ∧
    (∃ (s : State), s.board.alive = true ∧ s.work.waitingChip = none) ∧
    (∃ (s : State), s.board.alive = true ∧ ∃ r, s.work.waitingChip = some r) ∧
    (∃ (s : State) (path : Path), s.board.alive = true ∧ s.work.Writable path SAMPLE_STATUS 1 ∧ s.work.waitingChip = none) ∧
    (∃ (s : State) (path : Path), s.board.alive = true ∧ s.work.Writable path SAMPLE_STATUS 1 ∧ ∃ r, s.work.waitingChip = some r) :=
  ⟨⟨State.reset, 1, 8, 1220, by (repeat' apply And.intro) <;> decide +kernel⟩,
   ⟨st { wk (net) with mem := cellsOf 0 [5] }, 2, 8, 1220, by (repeat' apply And.intro) <;> decide +kernel⟩,
   ⟨State.reset, by (repeat' apply And.intro) <;> decide +kernel⟩,
   ⟨st { wk ([(ESC_CFG, 0x304)]) with fault := { resets := [{ unit := 1220, level := 4, trigger := { cls := 6, unit := 3, level := 2 }, sampling := false, start := 5, waiting := true }] } },
    by decide +kernel,
    { unit := 1220, level := 4, trigger := { cls := 6, unit := 3, level := 2 }, sampling := false, start := 5, waiting := true }, by decide +kernel⟩,
   ⟨st (wk [(SAMPLE_STATUS, 1)]), .controller, by (repeat' apply And.intro) <;> decide +kernel⟩,
   ⟨st { wk ([(SAMPLE_STATUS, 1)]) with fault := { resets := [{ unit := 1220, level := 4, trigger := { cls := 6, unit := 3, level := 2 }, sampling := false, start := 5, waiting := true }] } },
    .controller, by decide +kernel, by decide +kernel,
    { unit := 1220, level := 4, trigger := { cls := 6, unit := 3, level := 2 }, sampling := false, start := 5, waiting := true }, by decide +kernel⟩⟩

/-- Witnesses of Obligations.PowerCyclesAreAskedFor. -/
theorem test_PowerCyclesAreAskedFor :
    (∃ (s : State) (t : Nat), s.board.alive = true ∧ s.work.fault.chipFrom = some t ∧ s.work.maxLevel = 5) ∧
    (∃ (s : State) (t : Nat), s.board.alive = true ∧ s.work.fault.chipFrom = some t ∧ s.work.maxLevel < 5) ∧
    (∃ (s : State), s.board.pcyc = true ∧ s.work.fault.pcycAcked = false ∧ s.work.access.i3cAddr.isSome = true) ∧
    (∃ (s : State), (s.board.pcyc = false ∨ s.work.fault.pcycAcked = true ∨ s.work.access.i3cAddr = none)) ∧
    (∃ (s : State) (path : Path), s.board.answers = true ∧ s.work.Writable path FT_CTL 2) :=
  ⟨⟨st { wk ([(ESC_CFG, 5)]) with fault := { chipFrom := some 3 } }, 3, by (repeat' apply And.intro) <;> decide +kernel⟩,
   ⟨st { wk ([(ESC_CFG, 4)]) with fault := { chipFrom := some 3 } }, 3, by (repeat' apply And.intro) <;> decide +kernel⟩,
   ⟨{ State.reset with board := { State.reset.board with pcyc := true }, work := { Work.reset with access := { i3cAddr := some 9 } } }, by (repeat' apply And.intro) <;> decide +kernel⟩,
   ⟨State.reset, by decide +kernel⟩,
   ⟨State.reset, .controller, by (repeat' apply And.intro) <;> decide +kernel⟩⟩

/-- Witnesses of Obligations.FieldTestsRun. -/
theorem test_FieldTestsRun :
    (∃ (s : State) (path : Path), s.board.alive = true ∧ s.work.Writable path FT_CTL 1 ∧ s.work.allIdle = true ∧ s.work.fault.ftStart = none) ∧
    (∃ (s : State) (path : Path), s.board.alive = true ∧ s.work.Writable path FT_CTL 1 ∧
     (s.work.allIdle = false ∨ s.work.fault.ftStart.isSome = true)) ∧
    (∃ (s : State) (k : Fin 40) (p : Packet) (c : Ctrl), s.Hears k p 23 c ∧ s.work.mgr.mgrNode = some p.src ∧ c.body.length = 4 ∧
     s.work.allIdle = true ∧ s.work.fault.ftStart = none) ∧
    (∃ (s : State) (k : Fin 40) (p : Packet) (c : Ctrl), s.Hears k p 23 c ∧ s.work.mgr.mgrNode = some p.src ∧ c.body.length = 4 ∧
     (s.work.allIdle = false ∨ s.work.fault.ftStart.isSome = true)) ∧
    (∃ (s : State) (t : Nat) (c : Fin 1024) (mac vec tiles : Fin 3), s.board.alive = true ∧ s.work.fault.ftStart = some t ∧
     s.work.fault.ftAtStart = false ∧
      (let out := max mac.val (max vec.val tiles.val)
       out < 2)) ∧
    (∃ (s : State) (t : Nat) (c : Fin 1024) (mac vec tiles : Fin 3), s.board.alive = true ∧ s.work.fault.ftStart = some t ∧
     s.work.fault.ftAtStart = false ∧
      (let out := max mac.val (max vec.val tiles.val)
       out = 2 ∧ s.work.fault.resets = [] ∧ 4 ≤ s.work.maxLevel ∧ s.work.chipAgain = false)) ∧
    (∃ (s : State) (k : Fin 40) (p : Packet) (c : Ctrl), s.Hears k p 24 c ∧ s.work.acting = true ∧ c.body.length = 8 ∧ beAt c.body 7 1 = 0 ∧
     beAt c.body 4 1 = 1) ∧
    (∃ (s : State) (k : Fin 40) (p : Packet) (c : Ctrl), s.Hears k p 24 c ∧ s.work.acting = true ∧ c.body.length = 8 ∧ beAt c.body 7 1 = 0 ∧
     beAt c.body 4 1 ≠ 1) :=
  ⟨⟨State.reset, .controller, by (repeat' apply And.intro) <;> decide +kernel⟩,
   ⟨st { wk (net) with fault := { ftStart := some 5 } }, .controller, by (repeat' apply And.intro) <;> decide +kernel⟩,
   ⟨st { wk (net) with mgr := { mgrNode := some 7 } }, 0, msg 23 0 (toBE 4 9), ctl 23 0 (toBE 4 9), by (repeat' apply And.intro) <;> decide +kernel⟩,
   ⟨st { wk (net) with fault := { ftStart := some 5 }, mgr := { mgrNode := some 7 } }, 0, msg 23 0 (toBE 4 9), ctl 23 0 (toBE 4 9), by (repeat' apply And.intro) <;> decide +kernel⟩,
   ⟨st { wk (net) with fault := { ftStart := some 5 } }, 5, 3, 1, 0, 0, by (repeat' apply And.intro) <;> decide +kernel⟩,
   ⟨st { wk ([(ESC_CFG, 4), (NODE, 1)]) with fault := { ftStart := some 5 } }, 5, 3, 1, 0, 2, by (repeat' apply And.intro) <;> decide +kernel⟩,
   ⟨st (wk man), 0, msg 24 0 (zeros 4 ++ [1, 0, 0, 0]), ctl 24 0 (zeros 4 ++ [1, 0, 0, 0]), by (repeat' apply And.intro) <;> decide +kernel⟩,
   ⟨st (wk man), 0, msg 24 0 (zeros 8), ctl 24 0 (zeros 8), by (repeat' apply And.intro) <;> decide +kernel⟩⟩

/-- Witnesses of Obligations.DomainsAreCommandedAndChangeState, part 1. -/
theorem test_PowerCommandsMoveDomains :
    (∃ (s : State) (path : Path) (p : Fin 72), s.board.alive = true ∧ s.work.Writable path (PD_CTL p.val) 1 ∧ switchable p.val = true ∧
     s.work.pdState p.val = 0 ∧ s.work.gateOpen p.val (s.work.domain p.val).win = true) ∧
    (∃ (s : State) (path : Path) (p : Fin 72), s.board.alive = true ∧ s.work.Writable path (PD_CTL p.val) 1 ∧ switchable p.val = true ∧
     s.work.pdState p.val = 0 ∧ s.work.gateOpen p.val (s.work.domain p.val).win = false) ∧
    (∃ (s : State) (path : Path) (p : Fin 72), s.board.alive = true ∧ s.work.Writable path (PD_CTL p.val) 1 ∧ switchable p.val = false) ∧
    (∃ (s : State) (path : Path) (p : Fin 72), s.board.alive = true ∧ s.work.Writable path (PD_CTL p.val) 2 ∧ switchable p.val = true ∧
     s.work.pdState p.val = 3) ∧
    (∃ (s : State) (path : Path) (p : Fin 72), s.board.alive = true ∧ s.work.Writable path (PD_CTL p.val) 2 ∧ switchable p.val = false) :=
  ⟨⟨st (wk [(PD_STATUS 1, 0)]), .controller, 1, by (repeat' apply And.intro) <;> decide +kernel⟩,
   ⟨st { wk ([(PD_STATUS 1, 0)]) with power := { dom := [(1, { win := List.replicate 8 10000000 })] } }, .controller, 1, by (repeat' apply And.intro) <;> decide +kernel⟩,
   ⟨State.reset, .controller, 2, by (repeat' apply And.intro) <;> decide +kernel⟩,
   ⟨State.reset, .controller, 1, by (repeat' apply And.intro) <;> decide +kernel⟩,
   ⟨State.reset, .controller, 2, by (repeat' apply And.intro) <;> decide +kernel⟩⟩

/-- Witnesses of Obligations.DomainsAreCommandedAndChangeState, part 2. -/
theorem test_DomainsChangeState :
    (∃ (s : State) (p : Fin 72) (avgs : List Nat), s.board.alive = true ∧ s.work.pdState p.val = 1 ∧ s.work.gateOpen p.val avgs = true) ∧
    (∃ (s : State) (p : Fin 72) (avgs : List Nat), s.board.alive = true ∧ s.work.pdState p.val = 1 ∧ s.work.gateOpen p.val avgs = false) ∧
    (∃ (s : State) (p : Fin 72), s.board.alive = true ∧ s.work.pdState p.val = 1 ∧ s.work.coxState (64 * domainDie p.val) = 0 ∧
     64 ≤ (s.work.domain p.val).waitBeats) ∧
    (∃ (s : State) (p : Fin 72), s.board.alive = true ∧ ∃ q, q ∈ s.work.start.ramping ∧ q ≠ p.val ∧ p.val ∈ s.work.start.ramping ∧
     s.work.pdState p.val ≠ 6) ∧
    (∃ (s : State) (p : Fin 72), s.board.alive = true ∧ p.val ∉ s.work.start.ramping ∧ s.work.pdState p.val = 2 ∧
     s.work.flag (PD_STATUS p.val) 4 = false ∧ (s.work.domain p.val).slots = [] ∧ (s.work.domain p.val).fromOff = false) ∧
    (∃ (s : State) (p : Fin 72), s.board.alive = true ∧ p.val ∉ s.work.start.ramping ∧ s.work.pdState p.val = 2 ∧ s.work.coxes = [] ∧
     s.work.node = 0xFFFE) ∧
    (∃ (s : State) (p : Fin 72), s.board.alive = true ∧ s.work.pdState p.val = 4 ∧ s.work.domainIdle p.val = true) ∧
    (∃ (s : State) (p : Fin 72), s.board.alive = true ∧ s.work.pdState p.val = 4 ∧
     orDefault (s.work.fld PWR_CFG 0 8) 1 ≤ (s.work.domain p.val).drainBeats ∧ (s.work.domain p.val).slots = []) ∧
    (∃ (s : State) (p : Fin 72), s.board.alive = true ∧ s.work.pdState p.val = 5 ∧ s.work.flag (PD_STATUS p.val) 3 = true ∧
     s.work.gateOpen p.val (s.work.domain p.val).win = true) ∧
    (∃ (s : State) (p : Fin 72), s.board.alive = true ∧ s.work.pdState p.val = 5 ∧ s.work.flag (PD_STATUS p.val) 3 = false ∧
     (s.work.domain p.val).slots = []) :=
  ⟨⟨st { wk ([(PD_STATUS 1, 1)]) with now := 5000 }, 1, [], by (repeat' apply And.intro) <;> decide +kernel⟩,
   ⟨st { wk ([(PD_STATUS 1, 1)]) with now := 5000 }, 1, List.replicate 8 10000000, by (repeat' apply And.intro) <;> decide +kernel⟩,
   ⟨st { wk ([(PD_STATUS 1, 1)]) with power := { dom := [(1, { waitBeats := 64 })] } }, 1, by (repeat' apply And.intro) <;> decide +kernel⟩,
   ⟨st { wk ([]) with start := { ramping := [65, 67] } }, 65, by decide +kernel, 67, by (repeat' apply And.intro) <;> decide +kernel⟩,
   ⟨st { wk ([(PD_STATUS 1, 559234)]) with start := {} }, 1, by (repeat' apply And.intro) <;> decide +kernel⟩,
   ⟨st { wk ([(PD_STATUS 1, 2), (NODE, 0xFFFE)]) with start := {} }, 1, by (repeat' apply And.intro) <;> decide +kernel⟩,
   ⟨st { wk ([(PD_STATUS 1, 4)]) with start := {} }, 1, by (repeat' apply And.intro) <;> decide +kernel⟩,
   ⟨st { wk ([(PD_STATUS 1, 4)]) with power := { dom := [(1, { drainBeats := 300 })] } }, 1, by (repeat' apply And.intro) <;> decide +kernel⟩,
   ⟨st { wk ([(PD_STATUS 1, 13)]) with start := {} }, 1, by (repeat' apply And.intro) <;> decide +kernel⟩,
   ⟨st { wk ([(PD_STATUS 1, 5)]) with start := {} }, 1, by (repeat' apply And.intro) <;> decide +kernel⟩⟩

/-- Witnesses of Obligations.CurrentsPhasesAndTemperatures, part 1. -/
theorem test_PhasesSensorsAndDroops :
    (∃ (s : State) (p : Fin 72) (n : Fin 10), s.board.alive = true ∧ n.val < phasesN p.val + 2 ∧ s.work.flag (PD_PHASE p.val) n.val = false ∧
     s.work.pdState p.val ≠ 6) ∧
    (∃ (s : State) (p : Fin 72) (n : Fin 12), s.board.alive = true ∧ s.work.flag (PD_SENSOR_EXCL p.val) n.val = false ∧
     (((List.range 12).filter (fun i => s.work.flag (PD_SENSOR_EXCL p.val) i)).length < 4)) ∧
    (∃ (s : State) (p : Fin 72) (n : Fin 12), s.board.alive = true ∧ s.work.flag (PD_SENSOR_EXCL p.val) n.val = false ∧
     (4 ≤ ((List.range 12).filter (fun i => s.work.flag (PD_SENSOR_EXCL p.val) i)).length)) ∧
    (∃ (s : State) (p : Fin 72), s.board.alive = true) :=
  ⟨⟨State.reset, 1, 9, by (repeat' apply And.intro) <;> decide +kernel⟩,
   ⟨State.reset, 1, 11, by (repeat' apply And.intro) <;> decide +kernel⟩,
   ⟨st (wk [(PD_SENSOR_EXCL 1, 15)]), 1, 11, by (repeat' apply And.intro) <;> decide +kernel⟩,
   ⟨State.reset, 71, by decide +kernel⟩⟩

/-- Witnesses of Obligations.CurrentsPhasesAndTemperatures, part 2. -/
theorem test_CurrentAndTemperatureAreSampled :
    (∃ (s : State) (x : Nat), s.board.alive = true ∧ 17600 < x ∧ s.work.power.lowered = none ∧ s.work.fld PKG_STATUS 0 4 = 8 ∧
     s.work.hk.cur = none) ∧
    (∃ (s : State) (x : Nat), s.board.alive = true ∧ 13000 ≤ x ∧ x ≤ 14000 ∧ s.work.power.lowered = none) ∧
    (∃ (s : State) (ia ip vm : List Nat) (a b : Nat), s.board.alive = true) ∧
    (∃ (s : State) (d : Fin 20) (code : Nat), s.board.alive = true ∧ code < 4096 ∧
      (let t := Sp.get s.work.power.therm {} d.val
       (s.work.throttleC + 64) * 16 ≤ code ∧ t.hot = none ∧ t.cap ≤ 8)) ∧
    (∃ (s : State) (d : Fin 20) (code : Nat), s.board.alive = true ∧ code < 4096 ∧ code < (s.work.throttleC + 64) * 16 ∧
     (s.work.throttleC - 3 + 64) * 16 ≤ code) :=
  ⟨⟨st (wk [(PKG_STATUS, 8)]), 17601, by (repeat' apply And.intro) <;> decide +kernel⟩,
   ⟨State.reset, 13000, by (repeat' apply And.intro) <;> decide +kernel⟩,
   ⟨State.reset, [1, 70000], [2], [1024, 1023], 65536, 65535, by decide +kernel⟩,
   ⟨State.reset, 19, 4095, by (repeat' apply And.intro) <;> decide +kernel⟩,
   ⟨st { wk ([]) with power := { therm := [(19, { hot := some 3 })] } }, 19, (st Work.reset).work.throttleC * 16 + 1023, by (repeat' apply And.intro) <;> decide +kernel⟩⟩

/-- Witnesses of Obligations.TheComparatorAsksThenTrips. -/
theorem test_TheComparatorAsksThenTrips :
    (∃ (s : State) (d : Fin 20), s.board.alive = true ∧
      (let t := Sp.get s.work.power.therm {} d.val
       t.fired = none ∧ s.work.hk.cur = none ∧ s.work.hkState = 1)) ∧
    (∃ (s : State) (d : Fin 20), s.board.alive = true ∧
      (let t := Sp.get s.work.power.therm {} d.val
       ∃ f, t.fired = some f ∧ s.work.now ≤ f + 1000000)) :=
  ⟨⟨st (wk [(HK_STATUS, 1)]), 19, by (repeat' apply And.intro) <;> decide +kernel⟩,
   ⟨st { wk ([]) with power := { therm := [(19, { fired := some 3 })] }, now := 1000003 }, 19, by decide +kernel, 3, by (repeat' apply And.intro) <;> decide +kernel⟩⟩

/-- Witnesses of Obligations.SecurityCommandsStart. -/
theorem test_SecurityCommandsStart :
    (
      (let cmds (p : Path) (nonce : List Byte) : List (Instr × Nat) :=
         [(.attest p, 1), (.dbgChallenge p nonce, 2), (.dbgResponse p, 3), (.dbgClose p, 4), (.ownerProgram p, 5), (.ownerChange p, 6),
          (.tenant p, 7), (.cakLoad p, 8)]
       ∃ (s : State) (p : Path) (nonce : List Byte) (q : Instr × Nat), s.board.alive = true ∧ q ∈ cmds p nonce ∧
        s.work.Writable p SEC_CMD q.2 ∧ s.work.flag SEC_STATUS 0 = true)) ∧
    (∃ (s : State) (p : Path) (nonce : List Byte), s.board.alive = true ∧ s.work.flag SEC_STATUS 0 = false ∧ s.work.Writable p SEC_CMD 1) ∧
    (∃ (s : State) (p : Path) (nonce : List Byte), s.board.alive = true ∧ s.work.flag SEC_STATUS 0 = false ∧ s.work.Writable p SEC_CMD 2 ∧
     s.work.start.ownerSlot = none) ∧
    (∃ (s : State) (p : Path) (nonce : List Byte), s.board.alive = true ∧ s.work.flag SEC_STATUS 0 = false ∧ s.work.Writable p SEC_CMD 2 ∧
     s.work.start.ownerSlot.isSome = true ∧ 4 ≤ s.work.fld SEC_STATUS 19 3) ∧
    (∃ (s : State) (p : Path) (nonce : List Byte), s.board.alive = true ∧ s.work.flag SEC_STATUS 0 = false ∧ s.work.Writable p SEC_CMD 2 ∧
     s.work.start.ownerSlot.isSome = true ∧ s.work.fld SEC_STATUS 19 3 < 4) ∧
    (∃ (s : State) (p : Path) (nonce : List Byte), s.board.alive = true ∧ s.work.flag SEC_STATUS 0 = false ∧ s.work.Writable p SEC_CMD 3 ∧
     s.work.challengeFresh = false) ∧
    (∃ (s : State) (p : Path) (nonce : List Byte), s.board.alive = true ∧ s.work.flag SEC_STATUS 0 = false ∧ s.work.Writable p SEC_CMD 3 ∧
     s.work.challengeFresh = true ∧ s.work.allIdle = false) ∧
    (∃ (s : State) (p : Path) (nonce : List Byte), s.board.alive = true ∧ s.work.flag SEC_STATUS 0 = false ∧ s.work.Writable p SEC_CMD 3 ∧
     s.work.challengeFresh = true ∧ s.work.allIdle = true) ∧
    (∃ (s : State) (p : Path) (nonce : List Byte), s.board.alive = true ∧ s.work.flag SEC_STATUS 0 = false ∧ s.work.Writable p SEC_CMD 4) ∧
    (∃ (s : State) (p : Path) (nonce : List Byte), s.board.alive = true ∧ s.work.flag SEC_STATUS 0 = false ∧ s.work.Writable p SEC_CMD 5 ∧
     s.board.owners ≠ []) ∧
    (∃ (s : State) (p : Path) (nonce : List Byte), s.board.alive = true ∧ s.work.flag SEC_STATUS 0 = false ∧ s.work.Writable p SEC_CMD 5 ∧
     s.board.owners = []) ∧
    (∃ (s : State) (p : Path) (nonce : List Byte), s.board.alive = true ∧ s.work.flag SEC_STATUS 0 = false ∧ s.work.Writable p SEC_CMD 6 ∧
     (s.board.owners = [] ∨ 4 ≤ s.board.owners.length)) ∧
    (∃ (s : State) (p : Path) (nonce : List Byte), s.board.alive = true ∧ s.work.flag SEC_STATUS 0 = false ∧ s.work.Writable p SEC_CMD 6 ∧
     s.board.owners ≠ [] ∧ s.board.owners.length < 4) ∧
    (∃ (s : State) (p : Path) (nonce : List Byte), s.board.alive = true ∧ s.work.flag SEC_STATUS 0 = false ∧ s.work.Writable p SEC_CMD 7 ∧
     (s.work.allIdle = false ∨ leAt (s.work.mbox 4) 0 4 = s.work.rd TENANT)) ∧
    (∃ (s : State) (p : Path) (nonce : List Byte), s.board.alive = true ∧ s.work.flag SEC_STATUS 0 = false ∧ s.work.Writable p SEC_CMD 7 ∧
     s.work.allIdle = true ∧ leAt (s.work.mbox 4) 0 4 ≠ s.work.rd TENANT ∧ s.work.sess.open_ = [] ∧ s.work.digital = []) ∧
    (∃ (s : State) (p : Path) (nonce : List Byte), s.board.alive = true ∧ s.work.flag SEC_STATUS 0 = false ∧ s.work.Writable p SEC_CMD 8 ∧
      (let n := leAt (s.work.mbox 9) 8 1
       (n = 0 ∨ 32 < n ∨ (∃ k ∈ s.work.cakPorts, s.work.flag (LINK_CFG k) 12 = false)))) ∧
    (∃ (s : State) (p : Path) (nonce : List Byte), s.board.alive = true ∧ s.work.flag SEC_STATUS 0 = false ∧ s.work.Writable p SEC_CMD 8 ∧
      (let n := leAt (s.work.mbox 9) 8 1
       1 ≤ n ∧ n ≤ 32 ∧ (∀ k ∈ s.work.cakPorts, s.work.flag (LINK_CFG k) 12 = true))) :=
  ⟨⟨st (wk [(SEC_STATUS, 1)]), .jtagMailbox, zeros 32, (.tenant .jtagMailbox, 7), by (repeat' apply And.intro) <;> decide +kernel⟩,
   ⟨State.reset, .jtagMailbox, zeros 32, by (repeat' apply And.intro) <;> decide +kernel⟩,
   ⟨State.reset, .jtagMailbox, zeros 32, by (repeat' apply And.intro) <;> decide +kernel⟩,
   ⟨st { wk ([(SEC_STATUS, 2 ^ 21)]) with start := { ownerSlot := some 0 } }, .jtagMailbox, zeros 32, by (repeat' apply And.intro) <;> decide +kernel⟩,
   ⟨st { wk ([]) with start := { ownerSlot := some 0 } }, .jtagMailbox, zeros 32, by (repeat' apply And.intro) <;> decide +kernel⟩,
   ⟨State.reset, .jtagMailbox, zeros 32, by (repeat' apply And.intro) <;> decide +kernel⟩,
   ⟨st { wk ([(COX_STATUS 0, 1)]) with sec := { challenge := some (zeros 64, 0) }, coxes := [(0, {})] }, .jtagMailbox, zeros 32, by (repeat' apply And.intro) <;> decide +kernel⟩,
   ⟨st { wk ([]) with sec := { challenge := some (zeros 64, 0) } }, .jtagMailbox, zeros 32, by (repeat' apply And.intro) <;> decide +kernel⟩,
   ⟨State.reset, .jtagMailbox, zeros 32, by (repeat' apply And.intro) <;> decide +kernel⟩,
   ⟨{ State.reset with board := { State.reset.board with owners := [[1]] } }, .jtagMailbox, zeros 32, by (repeat' apply And.intro) <;> decide +kernel⟩,
   ⟨State.reset, .jtagMailbox, zeros 32, by (repeat' apply And.intro) <;> decide +kernel⟩,
   ⟨State.reset, .jtagMailbox, zeros 32, by (repeat' apply And.intro) <;> decide +kernel⟩,
   ⟨{ State.reset with board := { State.reset.board with owners := [[1]] } }, .jtagMailbox, zeros 32, by (repeat' apply And.intro) <;> decide +kernel⟩,
   ⟨State.reset, .jtagMailbox, zeros 32, by (repeat' apply And.intro) <;> decide +kernel⟩,
   ⟨st { wk ([(SEC_MBOX 0, 5)]) with mem := cellsOf 9 [5, 6] }, .jtagMailbox, zeros 32, by (repeat' apply And.intro) <;> decide +kernel⟩,
   ⟨State.reset, .jtagMailbox, zeros 32, by (repeat' apply And.intro) <;> decide +kernel⟩,
   ⟨st (wk [(SEC_MBOX 2, 32)]), .jtagMailbox, zeros 32, by (repeat' apply And.intro) <;> decide +kernel⟩⟩

/-- Witnesses of Obligations.SecurityCommandsEnd. -/
theorem test_SecurityCommandsEnd :
    (∃ (s : State) (op code : Nat) (out : List Byte), s.board.alive = true ∧ s.work.sec.cmd = some (op, code, out) ∧
     s.work.sec.clearing = none ∧ code ≠ 0 ∧ code < 16) ∧
    (∃ (s : State) (op code : Nat) (out : List Byte), s.board.alive = true ∧ s.work.sec.cmd = some (op, code, out) ∧
     s.work.sec.clearing = none ∧ op = 4 ∧ code = 0) ∧
    (∃ (s : State) (op code : Nat) (out : List Byte), s.board.alive = true ∧ s.work.sec.cmd = some (op, code, out) ∧
     s.work.sec.clearing = none ∧ op = 5 ∧ code = 0 ∧ s.board.owners = []) ∧
    (∃ (s : State) (op code : Nat) (out : List Byte), s.board.alive = true ∧ s.work.sec.cmd = some (op, code, out) ∧
     s.work.sec.clearing = none ∧ op = 6 ∧ code = 0) ∧
    (∃ (s : State) (op code : Nat) (out : List Byte), s.board.alive = true ∧ s.work.sec.cmd = some (op, code, out) ∧
     s.work.sec.clearing = none ∧ op = 2 ∧ code = 0 ∧ out.length = 64) ∧
    (∃ (s : State) (op code : Nat) (out : List Byte), s.board.alive = true ∧ s.work.sec.cmd = some (op, code, out) ∧
     s.work.sec.clearing = none ∧ op = 3 ∧ code = 0 ∧ s.work.sess.open_ = [] ∧ s.work.digital = [] ∧
     ∃ r t, s.work.sec.challenge = some (r, t)) ∧
    (∃ s : State, s.board.alive = true ∧ s.work.sec.cmd = none) ∧
    (∃ s : State, s.board.alive = true ∧ (s.work.sec.clearing = none ∨ s.work.clearOver = false)) ∧
    (∃ s : State, s.board.alive = true ∧ ∃ v, s.work.sec.clearing = some (.tenant v) ∧ s.work.clearOver = true) ∧
    (∃ s : State, s.board.alive = true ∧ ∃ perm, s.work.sec.clearing = some (.debug perm) ∧ s.work.clearOver = true) :=
  ⟨⟨st { wk ([(SEC_STATUS, 1)]) with sec := { cmd := some (3, 5, []) } }, 3, 5, [], by (repeat' apply And.intro) <;> decide +kernel⟩,
   ⟨st { wk ([(SEC_STATUS, 1)]) with sec := { cmd := some (4, 0, []) } }, 4, 0, [], by (repeat' apply And.intro) <;> decide +kernel⟩,
   ⟨st { wk ([(SEC_STATUS, 1)]) with sec := { cmd := some (5, 0, [7]) } }, 5, 0, [7], by (repeat' apply And.intro) <;> decide +kernel⟩,
   ⟨st { wk ([(SEC_STATUS, 1)]) with sec := { cmd := some (6, 0, [7]) } }, 6, 0, [7], by (repeat' apply And.intro) <;> decide +kernel⟩,
   ⟨st { wk ([(SEC_STATUS, 1)]) with sec := { cmd := some (2, 0, zeros 63 ++ [9]) } }, 2, 0, zeros 63 ++ [9], by (repeat' apply And.intro) <;> decide +kernel⟩,
   ⟨st { wk ([(SEC_STATUS, 1)]) with sec := { cmd := some (3, 0, []), challenge := some (List.replicate 64 3, 9) } }, 3, 0, [],
    by decide +kernel, by decide +kernel, by decide +kernel, by decide +kernel, (by decide +kernel), by decide +kernel, by decide +kernel,
    List.replicate 64 3, 9, by decide +kernel⟩,
   ⟨State.reset, by (repeat' apply And.intro) <;> decide +kernel⟩,
   ⟨State.reset, by (repeat' apply And.intro) <;> decide +kernel⟩,
   ⟨st { wk ((SEC_STATUS, 1) :: (List.range 16).map (fun d => (PD_STATUS (4 * d), 0))) with sec := { clearing := some (.tenant 5), cmd := some (7, 0, []) } },
    by decide +kernel, 5, by (repeat' apply And.intro) <;> decide +kernel⟩,
   ⟨st { wk ((SEC_STATUS, 1) :: (List.range 16).map (fun d => (PD_STATUS (4 * d), 0))) with sec := { clearing := some (.debug 2), cmd := some (3, 0, []) } },
    by decide +kernel, 2, by (repeat' apply And.intro) <;> decide +kernel⟩⟩

/-- Witnesses of Obligations.RefusedAccessesAreRecorded. -/
theorem test_RefusedAccessesAreRecorded :
    (∃ (s : State) (p : Path) (size a : Nat) (v : Word), s.board.answers = true ∧ 2 ^ 30 ≤ a) ∧
    (∃ (s : State) (p : Path) (size a : Nat) (v : Word), s.board.answers = true ∧ a < 2 ^ 30 ∧ (size ≠ 4 ∨ (a % 4 ≠ 0 ∧
     s.work.holdsUp p a = false))) ∧
    (∃ (s : State) (p : Path) (a : Nat) (v : Word), s.board.answers = true ∧ a < 2 ^ 30 ∧ s.work.holdsUp p a = true) ∧
    (∃ (s : State) (p : Path) (a : Nat) (v : Word), s.board.answers = true ∧ a < 2 ^ 30 ∧ a % 4 = 0 ∧ s.work.holdsUp p a = false ∧
     s.work.mayWrite (s.work.busPath p) a v.toNat = false) ∧
    (∃ (s : State) (p : Path) (a : Nat) (v : Word), s.board.answers = true ∧ a < 2 ^ 30 ∧ a % 4 = 0 ∧ s.work.holdsUp p a = false ∧
     s.work.mayWrite (s.work.busPath p) a v.toNat = true ∧ s.work.darkAt a = true) :=
  ⟨⟨State.reset, .controller, 4, 2 ^ 30, 5, by (repeat' apply And.intro) <;> decide +kernel⟩,
   ⟨State.reset, .host 3, 2, 2 ^ 30 - 4, 5, by (repeat' apply And.intro) <;> decide +kernel⟩,
   ⟨st { wk ([]) with fault := { resets := [{ unit := 1080, level := 2, trigger := {}, sampling := false, start := 0 }] } }, .controller,
    MC_STATUS 0, 5, by (repeat' apply And.intro) <;> decide +kernel⟩,
   ⟨State.reset, .i3cRestricted, BEAT_CTL, 5, by (repeat' apply And.intro) <;> decide +kernel⟩,
   ⟨st (wk ((List.range 72).map (fun p => (PD_STATUS p, 6)))), .controller, COX_CTL 0, 5, by (repeat' apply And.intro) <;> decide +kernel⟩⟩

/-- Witnesses of Obligations.PlainWritesFollowTheAccessTypes. -/
theorem test_PlainWritesFollowTheAccessTypes :
    (∃ (s : State) (p : Path) (a : Nat) (v : Word) (r : RegRow), s.board.answers = true ∧ a < 2 ^ 30 ∧ a % 4 = 0 ∧ regRow a = some r ∧
     ((∃ e o, locate a = some (.eight, e, o)) ∨ a ∈ [GLB_SCRATCH, REG_ERR, BEAT_STATUS, FAULT_STATUS, HANG_WIN0, ESC_CFG, RTX_CFG, THERM_CFG] ∨ (a ∈ [BEAT_CTL, BEAT_PERIOD] ∧
     s.work.rwlLocked (s.work.busPath p) = true) ∨ (a = BEAT_CTL ∧ v.toNat % 4 < 2)) ∧ s.work.mayWrite (s.work.busPath p) a v.toNat = true ∧
     s.work.darkAt a = false ∧ s.work.holdsUp p a = false ∧
      (let locked := s.work.rwlLocked (s.work.busPath p)
       (r.rwl = 0 ∨ locked = false))) ∧
    (∃ (s : State) (p : Path) (a : Nat) (v : Word) (r : RegRow), s.board.answers = true ∧ a < 2 ^ 30 ∧ a % 4 = 0 ∧ regRow a = some r ∧
     ((∃ e o, locate a = some (.eight, e, o)) ∨ a ∈ [GLB_SCRATCH, REG_ERR, BEAT_STATUS, FAULT_STATUS, HANG_WIN0, ESC_CFG, RTX_CFG, THERM_CFG] ∨ (a ∈ [BEAT_CTL, BEAT_PERIOD] ∧
     s.work.rwlLocked (s.work.busPath p) = true) ∨ (a = BEAT_CTL ∧ v.toNat % 4 < 2)) ∧ s.work.mayWrite (s.work.busPath p) a v.toNat = true ∧
     s.work.darkAt a = false ∧ s.work.holdsUp p a = false ∧
      (let locked := s.work.rwlLocked (s.work.busPath p)
       r.rwl ≠ 0 ∧ locked = true)) ∧
    (∃ (s : State) (p : Path) (v : Word), s.board.alive = true ∧ s.work.Writable p BEAT_CTL v.toNat ∧ v.toNat % 4 = 3 ∧
     s.work.rwlLocked (s.work.busPath p) = false) :=
  ⟨⟨State.reset, .controller, GLB_SCRATCH, 5,
    (regRow GLB_SCRATCH).getD { off := 0, count := 0, stride := 0, rw := 0, w1c := 0, rwl := 0, reset := 0 }, by
     refine ⟨?_, ?_, ?_, ?_, ?_, ?_⟩
     iterate 4 decide +kernel
     exact .inr (by decide +kernel)
     refine ⟨?_, ?_, ?_, ?_⟩
     iterate 4 decide +kernel⟩,
   ⟨st (wk [(CFG_STATUS, 512)]), .controller, BEAT_PERIOD, 5,
    (regRow BEAT_PERIOD).getD { off := 0, count := 0, stride := 0, rw := 0, w1c := 0, rwl := 0, reset := 0 }, by
     refine ⟨?_, ?_, ?_, ?_, ?_, ?_⟩
     iterate 4 decide +kernel
     exact .inr (by decide +kernel)
     refine ⟨?_, ?_, ?_, ?_, ?_⟩
     iterate 5 decide +kernel⟩,
   ⟨st (wk []), .controller, 7, by (repeat' apply And.intro) <;> decide +kernel⟩⟩

/-- Witnesses of Obligations.UnmappedAddressesReadZeroAndIgnoreWrites. -/
theorem test_UnmappedAddressesReadZeroAndIgnoreWrites :
    (∃ (s : State) (p : Path) (a : Nat), a < 2 ^ 30 ∧ regRow a = none ∧ s.board.answers = true ∧ ∃ v : Word, s.work.Writable p a v.toNat) ∧
    (∃ (s : State) (p : Path) (a : Nat), a < 2 ^ 30 ∧ regRow a = none ∧ s.board.answers = true ∧ s.work.Readable p a) ∧
    (∃ (s : State) (p : Path) (a : Nat), a < 2 ^ 30 ∧ regRow a = none ∧ s.board.answers = true ∧
     ∃ v q : Word, s.work.access.i3cAddr.isSome = true ∧ ptrAddr q = a ∧ s.work.Writable .i3cRestricted a v.toNat) :=
  ⟨⟨st { wk ([(SEC_STATUS, 2 ^ 14)]) with access := { i3cAddr := some 9 } }, .controller, 24, by decide +kernel, by decide +kernel,
    by decide +kernel, 5, by decide +kernel⟩,
   ⟨st { wk ([(SEC_STATUS, 2 ^ 14)]) with access := { i3cAddr := some 9 } }, .controller, 24, by (repeat' apply And.intro) <;> decide +kernel⟩,
   ⟨st { wk ([(SEC_STATUS, 2 ^ 14)]) with access := { i3cAddr := some 9 } }, .controller, 24, by decide +kernel, by decide +kernel,
    by decide +kernel, 5, 24, by (repeat' apply And.intro) <;> decide +kernel⟩⟩

/-- Witnesses of Obligations.LowWordsLatchTheHighWordForTheirPath. -/
theorem test_LowWordsLatchTheHighWordForTheirPath :
    (∃ (s : State) (p : Path) (run : Bool), s.board.answers = true ∧
      (let lo := if run then RUN_BEATS_LO else BEAT_COUNT_LO
       s.work.Readable p lo ∧ (run = true → s.work.mgrShows = true))) ∧
    (∃ (s : State) (p : Path) (hi : Nat) (v : Word), (hi = BEAT_COUNT_HI ∨ (hi = RUN_BEATS_HI ∧ s.work.mgrShows = true)) ∧
     s.work.Readable p hi ∧ Sp.find (Sp.get s.work.access.paths {} (pathCode (s.work.busPath p))).latch hi = some v) :=
  ⟨⟨st (wk [(BEAT_COUNT_LO, 5), (BEAT_COUNT_HI, 7), (MGR_STATUS, 2)]), .controller, true, by (repeat' apply And.intro) <;> decide +kernel⟩,
   ⟨st { wk ([]) with access := { paths := [(0, { latch := [(BEAT_COUNT_HI, 3)] })] } }, .controller, BEAT_COUNT_HI, 3, by (repeat' apply And.intro) <;> decide +kernel⟩⟩

/-- Witnesses of Obligations.TheMemoryWindowReadsStackMemoryOnly. -/
theorem test_TheMemoryWindowReadsStackMemoryOnly :
    (∃ (s : State) (p : Path), s.board.answers = true ∧ s.work.Readable p MEM_WIN_DATA ∧
      (let q := s.work.pathSt p
       s.work.winRefused p = false ∧ s.work.serves (stackOf q.winAt).1 = true)) ∧
    (∃ (s : State) (p : Path), s.board.answers = true ∧ s.work.Readable p MEM_WIN_DATA ∧ s.work.winRefused p = true) ∧
    (∃ (s : State) (p : Path), s.board.answers = true ∧ s.work.Readable p MEM_WIN_DATA ∧
      (let q := s.work.pathSt p
       s.work.winRefused p = false ∧ s.work.serves (stackOf q.winAt).1 = false)) ∧
    (∃ (s t : State) (p : Path), exec (.memWinRead p) s = .next t) ∧
    (∃ (s : State) (p : Path) (v : Word), s.board.answers = true ∧ s.work.Writable p MEM_WIN_DATA v.toNat) :=
  ⟨⟨st { wk ([(MC_STATUS 0, 0)]) with access := { paths := [(0, { winLo := 4092 })] }, mem := cellsOf 4092 [1, 2], poison := [15] },
    .controller, by (repeat' apply And.intro) <;> decide +kernel⟩,
   ⟨st { wk ([]) with access := { paths := [(0, { winHi := 0xC0 })] } }, .controller, by (repeat' apply And.intro) <;> decide +kernel⟩,
   ⟨st { wk ([(MC_STATUS 0, 1)]) with now := 4 }, .controller, by (repeat' apply And.intro) <;> decide +kernel⟩,
   ⟨State.reset, _, .controller, rfl⟩,
   ⟨State.reset, .controller, 9, by (repeat' apply And.intro) <;> decide +kernel⟩⟩

/-- Witnesses of Obligations.I3cTransfersReachRegisters. -/
theorem test_I3cTransfersReachRegisters :
    (∃ (s : State) (c : Instr) (q v : Word) (n : Nat), (c = .i3cPointerWrite q ∨ c = .i3cPrivateWrite q v ∨ c = .i3cPrivateRead n) ∧
     s.board.answers = true ∧ s.work.access.i3cAddr = none) ∧
    (∃ (s : State) (q : Word), s.board.answers = true ∧ s.work.access.i3cAddr.isSome = true) ∧
    (∃ (s : State) (q v : Word), s.board.answers = true ∧ s.work.access.i3cAddr.isSome = true ∧ ptrAddr q = GLB_SCRATCH ∧
     s.work.darkAt GLB_SCRATCH = false ∧ s.work.holdsUp .i3cRestricted GLB_SCRATCH = false) ∧
    (∃ (s : State) (n : Nat), s.board.answers = true ∧ (n = 0 ∨ 1024 < n)) ∧
    (∃ (s : State), s.board.answers = true ∧ s.work.access.i3cAddr.isSome = true ∧ ∃ v, s.work.access.heldWord = some v) ∧
    (∃ (s : State), s.board.answers = true ∧ s.work.access.i3cAddr.isSome = true ∧
      (let ptr := s.work.access.pointer
       s.work.access.heldWord = none ∧ s.work.holdsUp .i3cRestricted GLB_SCRATCH = false ∧ ptrAddr ptr = GLB_SCRATCH ∧
        s.work.darkAt GLB_SCRATCH = false)) ∧
    (∃ (s : State), s.board.answers = true ∧ s.work.access.i3cAddr.isSome = true ∧ ∃ n, 1 ≤ n ∧ n ≤ 1024 ∧ s.work.access.heldWord = none ∧
     (s.work.access.waits.any (fun x => match x with | .i3cWord _ => true | _ => false) = true)) ∧
    (∃ (s : State), s.board.answers = true ∧ s.work.access.i3cAddr.isSome = true ∧
      (let ptr := s.work.access.pointer
       ∃ n, 1 ≤ n ∧ n ≤ 1024 ∧ s.work.access.heldWord = none ∧ s.work.access.waits = [] ∧
        (s.work.underReset (ptrAddr ptr) = true ∨ s.work.readWaits .i3cRestricted (ptrAddr ptr) = true))) :=
  ⟨⟨State.reset, .i3cPrivateRead 4, 0, 0, 4, by (repeat' apply And.intro) <;> decide +kernel⟩,
   ⟨st { wk ([]) with access := { i3cAddr := some 9 } }, 0xC0000004, by (repeat' apply And.intro) <;> decide +kernel⟩,
   ⟨st { wk ([]) with access := { i3cAddr := some 9 } }, BitVec.ofNat 32 GLB_SCRATCH, 77, by (repeat' apply And.intro) <;> decide +kernel⟩,
   ⟨st { wk ([]) with access := { i3cAddr := some 9 } }, 1025, by (repeat' apply And.intro) <;> decide +kernel⟩,
   ⟨st { wk ([]) with access := { i3cAddr := some 9, heldWord := some 6 } }, by decide +kernel, by decide +kernel, 6, by decide +kernel⟩,
   ⟨st { wk ([(GLB_SCRATCH, 5)]) with access := { i3cAddr := some 9, pointer := BitVec.ofNat 32 GLB_SCRATCH } }, by (repeat' apply And.intro) <;> decide +kernel⟩,
   ⟨st { wk ([]) with access := { i3cAddr := some 9, waits := [.i3cWord 4] } }, by decide +kernel, by decide +kernel, 3, by (repeat' apply And.intro) <;> decide +kernel⟩,
   ⟨st { wk ([]) with access := { i3cAddr := some 9, pointer := BitVec.ofNat 32 (MC_STATUS 0) }, fault := { resets := [{ unit := 1080, level := 2, trigger := {}, sampling := false, start := 0 }] } },
    by decide +kernel, by decide +kernel, 3, by (repeat' apply And.intro) <;> decide +kernel⟩⟩

/-- Witnesses of Obligations.ProgramAddressIsWrittenInIdleOnly. -/
theorem test_ProgramAddressIsWrittenInIdleOnly :
    (∃ (s : State) (p : Path) (c : Fin 1024) (v : Word), s.board.alive = true ∧ s.work.coxState c.val ≠ 0) ∧
    (∃ (s : State) (p : Path) (c : Fin 1024) (v : Word), s.board.alive = true ∧ s.work.coxState c.val = 0 ∧
     s.work.Writable p (COX_PROG c.val) v.toNat) :=
  ⟨⟨st { wk ([(COX_STATUS 0, 1)]) with coxes := [(0, {})] }, .controller, 0, 128, by (repeat' apply And.intro) <;> decide +kernel⟩,
   ⟨State.reset, .controller, 0, 0xFFFFFFFF, by (repeat' apply And.intro) <;> decide +kernel⟩⟩

/-- Witnesses of Obligations.StepRunsTheFrontCommand. -/
theorem test_StepRunsTheFrontCommand :
    (∃ s : State, s.pending = []) :=
  ⟨State.reset, by decide +kernel⟩

/-- Witnesses of Obligations.AHeldDeviceIgnoresItsCommands. -/
theorem test_AHeldDeviceIgnoresItsCommands :
    (∃ (c : Instr) (s : State), s.board.alive = false ∧ actsHeld c = false) ∧
    (∃ (c : Instr) (s : State), s.board.answers = false ∧ actsHeld c = true ∧ (∀ r, c ≠ .resetLRise r) ∧ (∀ n, c ≠ .resetLFall n) ∧
     c ≠ .pwrGoodFall ∧ c ≠ .refclkLoss ∧ c ≠ .refclkReturn ∧ c ≠ .powerRemoved ∧ c ≠ .pcycIbiTimer) :=
  ⟨⟨.railDroop 3, { State.reset with board := { State.reset.board with resetL := false } }, by (repeat' apply And.intro) <;> decide +kernel⟩,
   ⟨.i3cHotJoin, { State.reset with board := { State.reset.board with powered := false } }, by
     refine ⟨?_, ?_, ?_, ?_, ?_, ?_⟩
     iterate 2 decide +kernel
     exact (by simp)
     exact (by simp)
     decide +kernel
     refine ⟨?_, ?_, ?_, ?_⟩
     iterate 4 decide +kernel⟩⟩

/-- Witnesses of Obligations.TheRoleIsSampledAtTheRiseOfReset. -/
theorem test_TheRoleIsSampledAtTheRiseOfReset :
    (∃ (s : State) (straps : Fin 4), s.board.resetL = false) ∧
    (∃ (c : Instr) (s t : State), exec c s = .next t ∧ (∀ r, c ≠ .resetLRise r)) :=
  ⟨⟨{ State.reset with board := { State.reset.board with resetL := false } }, 2, by decide +kernel⟩,
   ⟨.railDroop 3, State.reset, _, by
     refine ⟨?_, ?_⟩
     exact rfl
     exact (by simp)⟩⟩

/-- Witnesses of Obligations.TripAndPowerCycleHoldUntilPowerIsRemoved. -/
theorem test_TripAndPowerCycleHoldUntilPowerIsRemoved :
    (∃ (c : Instr) (s t : State), exec c s = .next t ∧ c ≠ .powerRemoved ∧ s.board.thermtrip = true) ∧
    (∃ (c : Instr) (s t : State), exec c s = .next t ∧ c ≠ .powerRemoved ∧ s.board.pcyc = true) :=
  ⟨⟨.railDroop 3, { State.reset with board := { State.reset.board with thermtrip := true } }, _, by
     refine ⟨?_, ?_, ?_⟩
     exact rfl
     iterate 2 decide +kernel⟩,
   ⟨.railDroop 3, { State.reset with board := { State.reset.board with pcyc := true } }, _, by
     refine ⟨?_, ?_, ?_⟩
     exact rfl
     iterate 2 decide +kernel⟩⟩

/-- Witnesses of Obligations.FusesOnlyGrow. -/
theorem test_FusesOnlyGrow :
    (∃ (slots : List (List Byte)) (n : Nat),
      (let Inv (s : State) : Prop := slots <+: s.board.owners ∧ n ≤ s.board.secMin
       ∃ s t : State, Inv s ∧ step s = .next t)) :=
  ⟨[], 0, State.reset, _, by
     refine ⟨?_, ?_⟩
     decide +kernel
     exact rfl⟩

/-- Witnesses of Obligations.StoredBlocksKeepMemoryCanonical. -/
theorem test_StoredBlocksKeepMemoryCanonical :
    (∃ (c : Instr) (s t : State), s.MemOk ∧ exec c s = .next t ∧
     ((∃ q d p e, c = .hbmWrite q d p e) ∨ (∃ b, c = .tblkArrival b) ∨ (∃ b, c = .tblkRearrival b) ∨ (∃ k p, c = .data k p) ∨ (∃ k p, c = .readResp k p) ∨ (∃ p, c = .memWinRead p))) :=
  ⟨.hbmWrite ⟨{ unit := 1056, gen := 0 }, 0⟩ (List.replicate 32 5) false ⟨[], []⟩, State.reset, _, by
     refine ⟨?_, ?_, ?_⟩
     decide +kernel
     exact rfl
     exact .inl ⟨_, _, _, _, rfl⟩⟩

end Sys2Proof.Tests
end

section
/-! ### What a command can do to the board

Said once for all commands: each answers a next state with the queue as it was, and on the board the strapped role stays, the
trip and power-cycle pins only go low, and fuses only grow, but for a rise of RESET_L (R5) and the removal of power (R559). -/

namespace Sys2Proof.Machine

/-- What the first board holds stands in the second: the role (R5), a pin held low (R449, R487), what is burnt (R509, R510). -/
structure Board.KeptIn (b c : Board) : Prop where
  role : c.role = b.role
  thermtrip : b.thermtrip = true → c.thermtrip = true
  pcyc : b.pcyc = true → c.pcyc = true
  owners : b.owners <+: c.owners
  secMin : b.secMin ≤ c.secMin

theorem Board.KeptIn.refl (b : Board) : b.KeptIn b := ⟨rfl, id, id, List.prefix_rfl, le_rfl⟩

theorem Board.KeptIn.trans {a b c : Board} (h : a.KeptIn b) (k : b.KeptIn c) : a.KeptIn c :=
  ⟨k.role.trans h.role, k.thermtrip ∘ h.thermtrip, k.pcyc ∘ h.pcyc, h.owners.trans k.owners, h.secMin.trans k.secMin⟩

/-- An operation with two branches keeps what both keep. -/
theorem Board.KeptIn.ite {b : Board} {c : Prop} [Decidable c] {x y : Board × Work} (hx : b.KeptIn x.1) (hy : b.KeptIn y.1) :
    b.KeptIn (if c then x else y).1 := by
  split
  · exact hx
  · exact hy

/-- The answer is a next state with the queue as it was, whose board keeps what the board held. -/
def State.Advances (s : State) (a : Ans) : Prop := ∃ b w, a = .next { s with board := b, work := w } ∧ s.board.KeptIn b

theorem State.run_advances (s : State) (f : Board → Work → Work) : s.Advances (s.run f) := by
  obtain ⟨w, h⟩ := s.run_next f
  exact ⟨s.board, w, h, .refl _⟩

theorem State.access_advances (s : State) (f : Board → Work → Work) : s.Advances (s.access f) := by
  obtain ⟨w, h⟩ := s.access_next f
  exact ⟨s.board, w, h, .refl _⟩

theorem State.i3c_advances (s : State) (f : Board → Work → Work) : s.Advances (s.i3c f) := by
  unfold State.i3c
  exact s.access_advances _

theorem State.secCommand_advances (s : State) (p : Path) (op : Nat) (nonce : List Byte) :
    s.Advances (s.secCommand p op nonce) := by
  unfold State.secCommand
  exact s.run_advances _

theorem State.pins_advances {s : State} {f : Board → Work → Board × Work} (h : s.board.KeptIn (f s.board s.work).1) :
    s.Advances (s.pins f) := ⟨_, _, rfl, h⟩

theorem State.runAll_advances {s : State} {f : Board → Work → Board × Work} (h : s.board.KeptIn (f s.board s.work).1) :
    s.Advances (s.runAll f) := by
  cases ha : s.board.alive
  case true => exact ⟨_, _, State.runAll_alive ha f, h⟩
  case false => exact ⟨s.board, s.work, State.runAll_held ha f, .refl _⟩

/-! ### The operations that reach the board -/

/-- A burn cut short leaves no less than was fused (R510). -/
theorem secMin_le_burnCut (b : Board) (w : Work) : b.secMin ≤ (burnCut b w).1 := by
  unfold burnCut
  split
  · split
    · exact Nat.le_add_right _ _
    · exact le_rfl
  · exact le_rfl

theorem burnCut_of_no_burn (b : Board) {w : Work} (h : w.start.burn = none) : burnCut b w = (b.secMin, w) := by
  simp [burnCut, h]

theorem resetFall_keeps (b : Board) (w : Work) (ns : Nat) : b.KeptIn (resetFall b w ns).1 := by
  unfold resetFall
  split <;> exact ⟨rfl, id, id, List.prefix_rfl, le_rfl⟩

theorem powerFall_keeps (b : Board) (w : Work) : b.KeptIn (powerFall b w).1 := by
  unfold powerFall
  split
  · exact ⟨rfl, id, id, List.prefix_rfl, le_rfl⟩
  · exact ⟨rfl, id, id, List.prefix_rfl, secMin_le_burnCut b w⟩

theorem refLoss_keeps (b : Board) (w : Work) : b.KeptIn (refLoss b w).1 := by
  unfold refLoss
  split
  · exact .refl b
  · split <;> exact ⟨rfl, id, id, List.prefix_rfl, le_rfl⟩

theorem refReturn_keeps (b : Board) (w : Work) : b.KeptIn (refReturn b w).1 := by
  unfold refReturn
  split <;> exact ⟨rfl, id, id, List.prefix_rfl, le_rfl⟩

theorem thermalTrip_keeps (b : Board) (w : Work) : b.KeptIn (thermalTrip b w).1 :=
  ⟨rfl, fun _ => rfl, id, List.prefix_rfl, le_rfl⟩

theorem powerCycle_keeps (b : Board) (w : Work) (r : FaultRec) : b.KeptIn (powerCycle b w r).1 :=
  ⟨rfl, id, fun _ => rfl, List.prefix_rfl, le_rfl⟩

/-- An escalation reaches the board by a power-cycle request alone. -/
theorem escalate_keeps (b : Board) (w : Work) (level unit : Nat) (r : FaultRec) : b.KeptIn (escalate b w level unit r).1 := by
  unfold escalate
  dsimp only
  split
  · exact .refl b
  · split
    · exact powerCycle_keeps b w r
    · exact .refl b

theorem hangCtx_keeps (b : Board) (w : Work) (c x : Nat) : b.KeptIn (hangCtx b w c x).1 := by
  unfold hangCtx
  dsimp only
  split
  · exact .refl b
  · split
    · exact escalate_keeps ..
    · split <;> exact .refl b

theorem hangEngine_keeps (b : Board) (w : Work) (level unit : Nat) : b.KeptIn (hangEngine b w level unit).1 :=
  escalate_keeps ..

theorem hangFire_keeps (b : Board) (w : Work) (u : HangUnit) : b.KeptIn (hangFire b w u).1 := by
  cases u with
  | ctx c x => exact hangCtx_keeps ..
  | reduction => exact .refl b
  | core c | link k | memc m | switch e =>
    dsimp only [hangFire]
    split
    · exact hangEngine_keeps ..
    · exact .refl b

/-- The engines that a reduction hang escalates to do so one after the other. -/
theorem redExpire_keeps (b : Board) (w : Work) : b.KeptIn (redExpire b w).1 := by
  unfold redExpire
  split
  · exact .refl b
  · split
    · exact .refl b
    · exact List.foldlRecOn _ _ (motive := fun r : Board × Work => b.KeptIn r.1) (.refl b)
        fun _ h _ _ => h.trans (escalate_keeps ..)

theorem boundExpire_keeps (b : Board) (w : Work) (unit : Nat) : b.KeptIn (boundExpire b w unit).1 := by
  unfold boundExpire
  split
  · exact redExpire_keeps b w
  · split
    · exact .refl b
    · exact escalate_keeps ..

theorem testDone_keeps (b : Board) (w : Work) (rs : List (Nat × Nat × Nat × Nat)) : b.KeptIn (testDone b w rs).1 := by
  unfold testDone
  split
  · exact .refl b
  · dsimp only
    split
    · exact .refl b
    · split
      · exact .refl b
      · exact escalate_keeps ..

/-- A command of the security engine reaches the board by an owner digest added (R509). -/
theorem secEffect_keeps (b : Board) (w : Work) (op : Nat) (out : List Byte) : b.KeptIn (secEffect b w op out).1 := by
  unfold secEffect
  split
  case h_4 =>
    dsimp only
    split
    case isTrue h => exact ⟨rfl, id, id, by simp [List.isEmpty_iff.mp h], le_rfl⟩
    case isFalse => exact .refl b
  case h_5 => exact ⟨rfl, id, id, List.prefix_append _ _, le_rfl⟩
  all_goals exact .refl b

theorem secEnds_keeps (b : Board) (w : Work) : b.KeptIn (secEnds b w).1 := by
  unfold secEnds
  split
  · exact .refl b
  · split
    · exact .refl b
    · dsimp only
      split
      · exact .refl b
      · split
        · exact .refl b
        · exact secEffect_keeps ..

/-! ### The commands that reach the board -/

theorem execHkUrgentDone_advances (raw : Nat) (s : State) : s.Advances (execHkUrgentDone raw s) := by
  apply State.runAll_advances
  split
  · exact .refl _
  · dsimp only
    split
    · exact thermalTrip_keeps ..
    · exact .refl _

theorem execThermtripComparator_advances (die : Fin 20) (s : State) : s.Advances (execThermtripComparator die s) := by
  apply State.runAll_advances
  exact .ite (thermalTrip_keeps ..) (.refl _)

theorem execChipLimitExpire_advances (s : State) : s.Advances (execChipLimitExpire s) := by
  apply State.runAll_advances
  split
  · exact .refl _
  · exact escalate_keeps ..

theorem execFuseBurn_advances (s : State) : s.Advances (execFuseBurn s) := by
  apply State.runAll_advances
  split
  · split
    · exact ⟨rfl, id, id, List.prefix_rfl, Nat.le_max_left _ _⟩
    · exact .refl _
  · exact .refl _

theorem execPcycIbiTimer_advances (s : State) : s.Advances (execPcycIbiTimer s) := by
  apply State.pins_advances
  split <;> exact .refl _

theorem execResetBoundExpire_advances (unit : Nat) (s : State) : s.Advances (execResetBoundExpire unit s) := by
  apply State.runAll_advances
  dsimp only
  split <;> exact boundExpire_keeps ..

/-- What a command can do to the board and the queue, but for the two that undo what the others keep: a rise of RESET_L, which
samples the role anew (R5), and the removal of power, which releases the held pins (R559). -/
theorem exec_advances (c : Instr) (s : State) (hrise : ∀ r, c ≠ .resetLRise r) (hoff : c ≠ .powerRemoved) :
    s.Advances (exec c s) := by
  unfold exec
  cases c with
  | resetLRise r => exact absurd rfl (hrise r)
  | powerRemoved => exact absurd rfl hoff
  | resetLFall ns => exact State.pins_advances (resetFall_keeps _ _ ns)
  | pwrGoodFall => exact State.pins_advances (powerFall_keeps ..)
  | refclkLoss => exact State.pins_advances (refLoss_keeps ..)
  | refclkReturn => exact State.pins_advances (refReturn_keeps ..)
  | pcycIbiTimer => exact execPcycIbiTimer_advances s
  | fuseBurn => exact execFuseBurn_advances s
  | hkUrgentDone raw => exact execHkUrgentDone_advances raw s
  | thermtripComparator die => exact execThermtripComparator_advances die s
  | hangMonitorFire u => exact State.runAll_advances (hangFire_keeps _ _ u)
  | resetBoundExpire u => exact execResetBoundExpire_advances u s
  | chipLimitExpire => exact execChipLimitExpire_advances s
  | fieldTestDone rs => exact State.runAll_advances (testDone_keeps _ _ rs)
  | secCmdComplete => exact State.runAll_advances (secEnds_keeps ..)
  | hkDataRead | pcycAck | memWinRead | beatCountRead | i3cDynamicAddress | i3cHotJoin | registerWrite =>
    exact s.access_advances _
  | i3cPointerWrite | i3cPrivateWrite | i3cPrivateRead => exact s.i3c_advances _
  | attest | dbgChallenge | dbgResponse | dbgClose | ownerProgram | ownerChange | tenant | cakLoad =>
    exact s.secCommand_advances ..
  | jobCmdOpen | jobCmdFree =>
    dsimp only [execJobCmdOpen, execJobCmdFree]
    exact s.run_advances _
  | _ => exact s.run_advances _

end Sys2Proof.Machine
end

section
/-! ### Pins and supply -/

namespace Sys2Proof.Machine

/-- A domain of the first start-up class has its state in another register than the cause of the reset. -/
theorem PD_STATUS_ne_RESET_CAUSE : ∀ p ∈ rampClass 0, PD_STATUS p ≠ RESET_CAUSE := by decide

/-- The cause of a reset says nothing of the domains that ramp first. -/
theorem pdState_wr_RESET_CAUSE (w : Work) (n : Nat) {p : Nat} (hp : p ∈ rampClass 0) :
    (w.wr RESET_CAUSE n).pdState p = w.pdState p :=
  Work.fld_congr (Work.rd_wr_ne w RESET_CAUSE n (PD_STATUS_ne_RESET_CAUSE p hp)) 0 3

/-- A rise of RESET_L at a device in reset sets the pins and samples the straps, whatever start-up comes to (R5). -/
theorem resetRise_board {b : Board} (h : b.resetL = false) (w : Work) (straps : Fin 4) :
    (resetRise b w straps).1 = { b with powered := true, pwrGood := true, resetL := true, role := straps } := by
  simp [resetRise, h]

/-- Where a domain of the first class can ramp, the rise names the cause and starts that class (R490, R492). -/
theorem resetRise_work {b : Board} (h : b.resetL = false) {w : Work} (straps : Fin 4)
    (hp : ∃ p ∈ rampClass 0, w.pdState p ≠ 6) :
    (resetRise b w straps).2 =
      { w.wr RESET_CAUSE (if b.pwrGood then 1 else 0) with
        start := { ramping := (rampClass 0).filter (fun p => w.pdState p != 6), rise := w.now } } := by
  obtain ⟨p, hmem, hon⟩ := hp
  have hsame : (rampClass 0).filter (fun p => (w.wr RESET_CAUSE (if b.pwrGood then 1 else 0)).pdState p != 6) =
      (rampClass 0).filter (fun p => w.pdState p != 6) :=
    List.filter_congr fun q hq => by rw [pdState_wr_RESET_CAUSE w _ hq]
  have hramp : ((rampClass 0).filter (fun p => w.pdState p != 6)).isEmpty = false :=
    List.isEmpty_eq_false_iff_exists_mem.mpr ⟨p, List.mem_filter.mpr ⟨hmem, bne_iff_ne.mpr hon⟩⟩
  simp only [resetRise, h, Bool.false_eq_true, if_false, hsame, hramp]
  rfl

/-- With no phase lost and no domain dark, a reset of everything keeps the cells and the model's own clock, count and output
alone (R473, R476, R531). -/
theorem Work.wiped_of_sound {w : Work} (h : ∀ p < 72, w.rd (PD_PHASE p) = 0 ∧ w.pdState p ≠ 6) :
    w.wiped = { cells := w.cells, now := w.now, free := w.free, out := w.out } := by
  have hdark : (List.range 72).any (fun p => w.pdState p == 6) = false := by
    simpa using fun p hp => (h p hp).2
  unfold Work.wiped
  dsimp only
  rw [hdark, List.foldlRecOn (motive := fun v : Work => v = {}) (List.range 72) _ rfl]
  rintro _ rfl p hp
  obtain ⟨hphase, hon⟩ := h p (List.mem_range.mp hp)
  simp [hphase, hon]

/-- A pulse of 1 µs or more on RESET_L (R558). -/
theorem resetFall_long {b : Board} (h : b.resetL = true) (w : Work) {ns : Nat} (hns : 1000 ≤ ns) :
    resetFall b w ns = ({ b with resetL := false }, w.wiped) := by
  simp [resetFall, h, hns]

/-- Out of reset and with no burn under way, the fall of PWR_GOOD wipes the device (R491). -/
theorem powerFall_of_no_burn {b : Board} {w : Work} (h : b.resetL = true) (hb : w.start.burn = none) :
    powerFall b w = ({ b with pwrGood := false }, w.wiped) := by
  simp [powerFall, h, burnCut_of_no_burn b hb]

/-- With no burn under way, the removal of power leaves the fuses as they are (R487, R559). -/
theorem powerRemoved_of_no_burn (b : Board) {w : Work} (hb : w.start.burn = none) :
    powerRemoved b w =
      ({ b with powered := false, pwrGood := false, resetL := false, thermtrip := false, pcyc := false },
       { cells := w.cells, now := w.now, free := w.free, out := w.out }) := by
  simp [powerRemoved, burnCut_of_no_burn b hb]

/-- A command of the pins gives what its operation comes to. -/
theorem givesBoth_of_pins {c : Instr} {s : State} (f : Board → Work → Board × Work) {b : Board} {w : Work}
    (hc : exec c s = s.pins f) (hf : f s.board s.work = (b, w)) : GivesBoth c s b w := by
  rw [GivesBoth, hc, State.pins, hf]

theorem givesBoth_resetLRise {s : State} {straps : Fin 4} {b : Board} {w : Work}
    (h : resetRise s.board s.work straps = (b, w)) : GivesBoth (.resetLRise straps) s b w :=
  givesBoth_of_pins (fun b w => resetRise b w straps) rfl h

theorem givesBoth_resetLFall {s : State} {ns : Nat} {b : Board} {w : Work}
    (h : resetFall s.board s.work ns = (b, w)) : GivesBoth (.resetLFall ns) s b w :=
  givesBoth_of_pins (fun b w => resetFall b w ns) rfl h

/-- Settles O1: each pin's operation, computed in its own lemma, under the command that carries it. -/
theorem resetPinsTakeEffect : Obligations.ResetPinsTakeEffect := by
  refine ⟨?rise, ?riseHigh, ?fallShort, ?fallLong, ?powerLow, ?powerHigh, ?removed⟩
  case rise =>
    intro s straps hlow hramp
    exact givesBoth_resetLRise (Prod.ext (resetRise_board hlow _ _) (resetRise_work hlow straps hramp))
  case riseHigh =>
    intro s straps hhigh
    exact givesBoth_resetLRise (by simp [resetRise, hhigh])
  case fallShort =>
    intro s ns hns
    exact givesBoth_resetLFall (by simp [resetFall, hns])
  case fallLong =>
    intro s ns hns hhigh hsound
    exact givesBoth_resetLFall (by rw [resetFall_long hhigh _ hns, Work.wiped_of_sound hsound])
  case powerLow =>
    intro s hlow
    exact givesBoth_of_pins powerFall rfl (by simp [powerFall, hlow])
  case powerHigh =>
    intro s hhigh hburn hsound
    exact givesBoth_of_pins powerFall rfl (by rw [powerFall_of_no_burn hhigh hburn, Work.wiped_of_sound hsound])
  case removed =>
    intro s hburn
    exact givesBoth_of_pins powerRemoved rfl (powerRemoved_of_no_burn _ hburn)

/-- No command but a rise of RESET_L changes the role (R5). -/
theorem exec_role {c : Instr} {s t : State} (h : exec c s = .next t) (hrise : ∀ r, c ≠ .resetLRise r) :
    t.board.role = s.board.role := by
  by_cases hoff : c = .powerRemoved
  case pos =>
    subst hoff
    cases h
    rfl
  case neg =>
    obtain ⟨b, w, ht, hkept⟩ := exec_advances c s hrise hoff
    cases ht.symm.trans h
    exact hkept.role

/-- Settles O55: a rise of RESET_L samples the straps, and every other command keeps the role. -/
theorem theRoleIsSampledAtTheRiseOfReset : Obligations.TheRoleIsSampledAtTheRiseOfReset := by
  constructor
  case left =>
    intro s straps hlow
    exact ⟨_, rfl, congrArg Board.role (resetRise_board hlow s.work straps)⟩
  case right =>
    intro c s t h hrise
    exact exec_role h hrise

end Sys2Proof.Machine
end

section
/-! ### Registers kept and registers written

What every proof about a register asks: whether a write named it, and what the fields beside a written one hold. -/

namespace Sys2Proof.Machine

theorem RegsKept.refl (w : Work) (l : List Nat) : RegsKept w w l := fun _ _ => rfl

/-- A write of a register of the list keeps the others. -/
theorem RegsKept.wr {w v : Work} {l : List Nat} (h : RegsKept w v l) {a : Nat} (ha : a ∈ l) (n : Nat) : RegsKept w (v.wr a n) l := by
  intro b hb
  have hne : b ≠ a := fun e => hb (e ▸ ha)
  rw [Work.reg_wr, if_neg hne, h b hb]

theorem RegsKept.mono {w v : Work} {l m : List Nat} (h : RegsKept w v l) (hlm : l ⊆ m) : RegsKept w v m :=
  fun a ha => h a (fun hl => ha (hlm hl))

theorem RegsKept.trans {u v w : Work} {l : List Nat} (h : RegsKept u v l) (k : RegsKept v w l) : RegsKept u w l :=
  fun a ha => (k a ha).trans (h a ha)

theorem RegsKept.of_regs {u v w : Work} {l : List Nat} (h : RegsKept w v l) (e : u.regs = v.regs) : RegsKept w u l := by
  intro a ha
  rw [← h a ha, Work.reg, Work.reg, e]

theorem RegsKept.rd {w v : Work} {l : List Nat} (h : RegsKept w v l) {a : Nat} (ha : a ∉ l) : v.rd a = w.rd a :=
  congrArg BitVec.toNat (h a ha)

theorem RegsKept.fld {w v : Work} {l : List Nat} (h : RegsKept w v l) {a : Nat} (ha : a ∉ l) (lo len : Nat) :
    v.fld a lo len = w.fld a lo len := Work.fld_congr (h.rd ha) lo len

theorem RegsKept.flag {w v : Work} {l : List Nat} (h : RegsKept w v l) {a : Nat} (ha : a ∉ l) (i : Nat) :
    v.flag a i = w.flag a i := Work.flag_congr (h.rd ha) i

/-- A field beside the one written reads as before. -/
theorem Work.fld_setFld_apart (w : Work) (a : Nat) {lo len : Nat} (v : Nat) {l n : Nat} (hw : lo + len ≤ 32)
    (h : l + n ≤ lo ∨ lo + len ≤ l) : (w.setFld a lo len v).fld a l n = w.fld a l n := by
  have hlt := putBits_lt (v := v) (w.rd_lt a) hw
  apply Nat.eq_of_testBit_eq
  intro i
  simp only [Work.fld, bits, Work.setFld, Work.rd_wr_same, Nat.mod_eq_of_lt hlt, Nat.testBit_mod_two_pow, Nat.testBit_shiftRight,
    testBit_putBits]
  by_cases hi : i < n
  · rw [if_neg (by omega)]
  · simp [hi]

/-- A counter in a field advances and holds at its largest value (R57). -/
theorem Work.fld_incFld_same (w : Work) (a : Nat) {lo len : Nat} (n : Nat) (h : lo + len ≤ 32) :
    (w.incFld a lo len n).fld a lo len = min (w.fld a lo len + n) (2 ^ len - 1) := by
  have hpos : 0 < 2 ^ len := Nat.two_pow_pos len
  rw [Work.incFld, Work.fld_setFld_same _ _ _ _ _ h, Nat.mod_eq_of_lt (by omega)]

@[simp] theorem Work.when_true (w : Work) (f : Work → Work) : w.when true f = f w := rfl
@[simp] theorem Work.when_false (w : Work) (f : Work → Work) : w.when false f = w := rfl

theorem RegsKept.when {w v : Work} {l : List Nat} (h : RegsKept w v l) {f : Work → Work}
    (hf : RegsKept w v l → RegsKept w (f v) l) (c : Bool) : RegsKept w (v.when c f) l := by
  cases c with
  | true => exact hf h
  | false => exact h

/-- A command of the running device gives what its operation comes to. -/
theorem gives_of_run {c : Instr} {s : State} {f : Board → Work → Work} {w : Work} (hc : exec c s = s.run f)
    (ha : s.board.alive = true) (hf : f s.board s.work = w) : Gives c s w := by
  rw [Gives, hc, State.run_alive ha, hf]

/-- An access to a device that answers gives what its operation comes to. -/
theorem gives_of_access {c : Instr} {s : State} {f : Board → Work → Work} {w : Work} (hc : exec c s = s.access f)
    (ha : s.board.answers = true) (hf : f s.board s.work = w) : Gives c s w := by
  rw [Gives, hc, State.access_answers ha, hf]

end Sys2Proof.Machine
end

section
/-! ### Where registers stand -/

namespace Sys2Proof.Machine

/-- The register of a core at an offset of its block lies in that block (R522). -/
theorem locate_core {c : Nat} (hc : c < 1024) {o : Nat} (ho : o < 0x20000) : locate (coreBase c + o) = some (.core, c, o) := by
  have hdiv : (coreBase c + o - 0x10000000) / 0x40000 = c := by unfold coreBase; omega
  have hmod : (coreBase c + o - 0x10000000) % 0x40000 = o := by unfold coreBase; omega
  unfold locate
  rw [if_neg (by unfold coreBase; omega), if_neg (by unfold coreBase; omega), if_neg (by unfold coreBase; omega),
    if_neg (by unfold coreBase; omega), if_pos (by unfold coreBase; omega)]
  simp only [hdiv, hmod, if_pos ho]

theorem regRow_COX_PROG {c : Nat} (hc : c < 1024) : regRow (COX_PROG c) = some ⟨0x1004, 1, 0, 0x1fffc0, 0, 0, 0⟩ := by
  have hl : locate (COX_PROG c) = some (.core, c, 0x1004) := locate_core hc (by decide)
  rw [regRow, hl]
  show (blkRows .core).find? (fun r => r.covers 0x1004) = _
  decide

end Sys2Proof.Machine
end

section
/-! ### Plain writes (R530) -/

namespace Sys2Proof.Machine

/-- A plain write binds one register anew. -/
theorem Work.plainWrite_eq (w : Work) {a : Nat} (v : Nat) (l : Bool) {r : RegRow} (hr : regRow a = some r) :
    w.plainWrite a v l = w.wr a (mergeBits (w.rd a) v (r.rw ||| if l then 0 else r.rwl) &&& ((v &&& r.w1c) ^^^ 0xFFFFFFFF)) := by
  simp only [Work.plainWrite, hr]

/-- A plain write reaches no register but its own. -/
theorem Work.plainWrite_kept (w : Work) (a v : Nat) (l : Bool) : RegsKept w (w.plainWrite a v l) [a] := by
  unfold Work.plainWrite
  split
  · exact RegsKept.refl w [a]
  · exact (RegsKept.refl w [a]).wr (List.mem_singleton.mpr rfl) _

theorem Work.plainWrite_frame (w : Work) (a v : Nat) (l : Bool) :
    w.plainWrite a v l = { w with regs := (w.plainWrite a v l).regs } := by
  unfold Work.plainWrite
  split <;> rfl

theorem Work.wrPlain_kept (w : Work) (p : Path) (a v : Nat) : RegsKept w (w.wrPlain p a v) [a] := w.plainWrite_kept a v _

theorem Work.wrPlain_frame (w : Work) (p : Path) (a v : Nat) : w.wrPlain p a v = { w with regs := (w.wrPlain p a v).regs } :=
  w.plainWrite_frame a v _

/-- A bit below 32 of the complement that R530's masks are built with. -/
theorem testBit_xor_ones (n : Nat) {i : Nat} (hi : i < 32) : (n ^^^ 0xFFFFFFFF).testBit i = !n.testBit i := by
  have h1 : Nat.testBit 0xFFFFFFFF i = true := by
    rw [show (0xFFFFFFFF : Nat) = 2 ^ 32 - 1 from rfl, Nat.testBit_two_pow_sub_one]
    exact decide_eq_true hi
  rw [Nat.testBit_xor, h1, Bool.xor_true]

theorem testBit_mergeBits (old v mask : Nat) {i : Nat} (hi : i < 32) :
    (mergeBits old v mask).testBit i = if mask.testBit i then v.testBit i else old.testBit i := by
  rw [mergeBits, Nat.testBit_or, Nat.testBit_and, Nat.testBit_and, testBit_xor_ones _ hi]
  cases mask.testBit i <;> simp

/-- A bit after a plain write: one of W1C written 1 clears, one of RW, or of RWL while unlocked, takes the value (R530). -/
theorem Work.getLsbD_plainWrite (w : Work) {a : Nat} (v : Word) (l : Bool) {r : RegRow} (hr : regRow a = some r) {i : Nat}
    (hi : i < 32) : ((w.plainWrite a v.toNat l).reg a).getLsbD i =
      if r.w1c.testBit i && v.getLsbD i then false
      else if r.rw.testBit i || (r.rwl.testBit i && !l) then v.getLsbD i else (w.reg a).getLsbD i := by
  have hv : v.toNat.testBit i = v.getLsbD i := BitVec.testBit_toNat v
  have hold : (w.rd a).testBit i = (w.reg a).getLsbD i := BitVec.testBit_toNat _
  have hmask : (r.rw ||| if l = true then 0 else r.rwl).testBit i = (r.rw.testBit i || (r.rwl.testBit i && !l)) := by
    cases l <;> simp [Nat.testBit_or]
  rw [w.plainWrite_eq _ _ hr, Work.reg_wr, if_pos rfl, BitVec.getLsbD_ofNat, decide_eq_true hi, Bool.true_and, Nat.testBit_and,
    testBit_mergeBits _ _ _ hi, testBit_xor_ones _ hi, Nat.testBit_and, hmask, hv, hold]
  cases r.w1c.testBit i <;> cases v.getLsbD i <;> simp

end Sys2Proof.Machine
end

section
/-! ### Accesses over a path (R520 to R534) -/

namespace Sys2Proof.Machine

/-- A refusal is recorded in three registers (Table 15-12). -/
theorem Work.regError_kept (w : Work) (p : Path) (a : Nat) (x : Bool) (i : Nat) :
    RegsKept w (w.regError p a x i) [REG_ERR, REG_LAST_ADDR, REG_LAST_PATH] :=
  (((RegsKept.refl w _).wr (by simp) _).wr (by simp) _).wr (by simp) _

theorem Work.regError_frame (w : Work) (p : Path) (a : Nat) (x : Bool) (i : Nat) :
    w.regError p a x i = { w with regs := (w.regError p a x i).regs } := rfl

/-- A denied access is counted beside its record (R527). -/
theorem Work.deny_kept (w : Work) (p : Path) (a : Nat) (x : Bool) :
    RegsKept w (w.deny p a x) [REG_ERR, REG_LAST_ADDR, REG_LAST_PATH, REG_DENY_CNT] :=
  ((((RegsKept.refl w _).wr (by simp) _).wr (by simp) _).wr (by simp) _).wr (by simp) _

/-- A word written over a path takes the course of every access of that path. -/
theorem gives_registerWrite {s : State} {p : Path} {a : Nat} {v : Word} {w : Work} (hb : s.board.answers = true) (ha : a < 2 ^ 30)
    (h : s.work.onBus p a v.toNat (fun u => u.writeReg s.board p a v.toNat) = w) : Gives (.registerWrite p 4 a v) s w :=
  gives_of_access (f := fun b u => if 2 ^ 30 ≤ a then u else if 4 ≠ 4 then u.regError (u.busPath p) a true 1
    else u.goWrite b p a v.toNat) rfl hb (by rw [if_neg (by omega), if_neg (by decide)]; exact h)

theorem gives_registerWrite_done {s : State} {p : Path} {a : Nat} {v : Word} (hb : s.board.answers = true) (ha : a < 2 ^ 30)
    (hw : s.work.Writable p a v.toNat) :
    Gives (.registerWrite p 4 a v) s (s.work.writeReg s.board p a v.toNat) :=
  gives_registerWrite hb ha (Work.onBus_done hw _)

/-- A permitted write that meets locked fields has its effect and is recorded (R530, Table 15-5). -/
theorem Work.onBus_locked {w : Work} {p : Path} {a v : Nat} (h4 : a % 4 = 0) (hm : w.mayWrite (w.busPath p) a v = true)
    (hd : w.darkAt a = false) (hl : (hasRwl a && w.rwlLocked (w.busPath p)) = true) (hu : w.holdsUp p a = false) (f : Work → Work) :
    w.onBus p a v f = (f w).regError (w.busPath p) a true 2 := by
  simp only [Work.onBus, Work.busWrite, h4, hm, hd, hl, hu, ne_eq, not_true_eq_false, if_false, Bool.not_true, Bool.false_eq_true,
    if_true]

/-- What an access keeps of a register, where its own effect keeps it and the record of a refusal is another. -/
theorem Work.onBus_reg {w : Work} {f : Work → Work} {b : Nat} (hf : (f w).reg b = w.reg b) (p : Path) (a v : Nat)
    (hb : b ∉ [REG_ERR, REG_LAST_ADDR, REG_LAST_PATH, REG_DENY_CNT]) : (w.onBus p a v f).reg b = w.reg b := by
  have herr : ∀ (u : Work) (q : Path) (i : Nat), (u.regError q a true i).reg b = u.reg b := fun u q i =>
    u.regError_kept q a true i b fun h => hb (List.mem_append_left [REG_DENY_CNT] h)
  have hdeny : ∀ q, (w.deny q a true).reg b = w.reg b := fun q => w.deny_kept q a true b hb
  unfold Work.onBus
  split
  · rfl
  · rcases w.busWrite_cases p a v f with ⟨_, h⟩ | ⟨_, _, h⟩ | ⟨_, _, _, h⟩ | ⟨_, _, _, _, h⟩ | ⟨_, _, _, _, h⟩
    · rw [h, herr]
    · rw [h, hdeny]
    · rw [h, herr]
    · rw [h, herr, hf]
    · rw [h, hf]

end Sys2Proof.Machine
end

section
/-! ### Plain register writes (R15, R530) and COX_PROG (R58) -/

namespace Sys2Proof.Machine

/-- The registers that stand once and have a rule of their own for writes, the security mailbox apart. -/
def ruledRegs : List Nat :=
  [HK_CTL, BEAT_CTL, BEAT_PERIOD, LOCAL_CATCH, SEC_CMD, FT_CTL, SAMPLE_STATUS, FAULT_CTL, MGR_CTL, JOB_CMD, FEED_TAIL, SESS_CTL,
   SREQ_TAIL, SCPL_HEAD, MEM_WIN_ADDR_LO, MEM_WIN_ADDR_HI, MEM_WIN_STATUS] ++ stashTableRegs ++ sessRegs ++ mgrRegs ++ idleRegs

theorem Work.writeGlob_plain (w : Work) (b : Board) (p : Path) {a : Nat} (v : Nat) (ha : a ∉ ruledRegs) (hm : isMbox a = false) :
    w.writeGlob b p a v = w.wrPlain p a v := by
  simp only [ruledRegs, List.mem_append, List.mem_cons, List.not_mem_nil, or_false, not_or] at ha
  simp only [Work.writeGlob, ha, hm, List.contains_iff_mem, List.mem_cons, List.not_mem_nil, Bool.and_eq_true, if_false, false_and,
    Bool.false_eq_true, or_self]

/-- A held device writes a plain register's bits too (R449). -/
theorem Work.writeReg_plain (w : Work) (b : Board) (p : Path) {a v : Nat}
    (ha : a ∉ [FT_CTL, MEM_WIN_ADDR_LO, MEM_WIN_ADDR_HI, MEM_WIN_STATUS]) (hrun : w.writeRun b p a v = w.wrPlain p a v) :
    w.writeReg b p a v = w.wrPlain p a v := by
  simp only [List.mem_cons, List.not_mem_nil, or_false, not_or] at ha
  simp only [Work.writeReg, hrun, ha, List.contains_iff_mem, List.mem_cons, List.not_mem_nil, or_self, if_false, ite_self]

theorem Work.writeRun_glob (w : Work) (b : Board) (p : Path) {a : Nat} (v : Nat) (ha : locate a = some (.glob, 0, a)) :
    w.writeRun b p a v = w.writeGlob b p a v := by
  simp only [Work.writeRun, ha]

/-- BEAT_CTL's low bits are its source, locked with the configuration (Table 1-11). -/
theorem regRow_BEAT_CTL : regRow BEAT_CTL = some ⟨0x100000, 1, 0, 0, 0, 0xffff3f03, 0x103f0001⟩ := by decide


theorem Work.fld_source_wrPlain (w : Work) {p : Path} (v : Word) (hl : w.rwlLocked (w.busPath p) = false) :
    (w.wrPlain p BEAT_CTL v.toNat).fld BEAT_CTL 0 2 = v.toNat % 4 := by
  apply Nat.eq_of_testBit_eq
  intro i
  rw [show (4 : Nat) = 2 ^ 2 from rfl, Work.fld, bits, Nat.shiftRight_zero, Nat.testBit_mod_two_pow, Nat.testBit_mod_two_pow]
  by_cases hi : i < 2
  · have hbit := w.getLsbD_plainWrite v false regRow_BEAT_CTL (i := i) (by omega)
    have hmask : Nat.testBit 0xffff3f03 i = true := by interval_cases i <;> rfl
    simp only [Nat.zero_testBit, hmask, Bool.false_and, Bool.false_eq_true, if_false, Bool.false_or, Bool.not_false, Bool.and_self,
      if_true] at hbit
    rw [Work.wrPlain, hl, Work.rd, BitVec.testBit_toNat, BitVec.testBit_toNat, hbit]
  · simp [hi]

/-- The source is the internal one only where it is so written (R15). -/
theorem Work.beatSrc_ne_internal {w : Work} (h : w.fld BEAT_CTL 0 2 ≠ 2) : (w.beatSrc == 2) = false := by
  unfold Work.beatSrc
  split
  · rfl
  · contradiction
  · exact beq_eq_false_iff_ne.mpr h

theorem Work.writeBeatCtl_locked {w : Work} {p : Path} (v : Nat) (hl : w.rwlLocked (w.busPath p) = true) :
    w.writeBeatCtl p v = w.wrPlain p BEAT_CTL v := by
  rw [Work.writeBeatCtl, if_pos hl]

theorem Work.writeBeatCtl_external {w : Work} {p : Path} {v : Word} (hl : w.rwlLocked (w.busPath p) = false) (hv : v.toNat % 4 < 2) :
    w.writeBeatCtl p v.toNat = w.wrPlain p BEAT_CTL v.toNat := by
  have hsrc := w.fld_source_wrPlain v hl
  have h2 : (v.toNat % 4 == 2) = false := beq_eq_false_iff_ne.mpr (by omega)
  have h3 : (v.toNat % 4 == 3) = false := beq_eq_false_iff_ne.mpr (by omega)
  simp only [Work.writeBeatCtl, hl, hsrc, h2, h3, Bool.false_and, Bool.or_self, Work.when_false, Bool.false_eq_true, if_false,
    Work.beatSrc_ne_internal (w := w.wrPlain p BEAT_CTL v.toNat) (by omega)]

/-- SRC 11 is replaced with 00, and BEAT_STATUS shows it (R15). -/
theorem Work.writeBeatCtl_reserved {w : Work} {p : Path} {v : Word} (hl : w.rwlLocked (w.busPath p) = false) (hv : v.toNat % 4 = 3) :
    w.writeBeatCtl p v.toNat = ((w.wrPlain p BEAT_CTL v.toNat).setFld BEAT_CTL 0 2 0).setBit BEAT_STATUS 5 := by
  have hsrc : (((w.wrPlain p BEAT_CTL v.toNat).setFld BEAT_CTL 0 2 0).setBit BEAT_STATUS 5).fld BEAT_CTL 0 2 = 0 := by
    rw [Work.fld_setBit_ne _ _ _ (by decide), Work.fld_setFld_same _ _ _ _ _ (by decide), Nat.zero_mod]
  have hext : ((((w.wrPlain p BEAT_CTL v.toNat).setFld BEAT_CTL 0 2 0).setBit BEAT_STATUS 5).beatSrc == 2) = false :=
    Work.beatSrc_ne_internal (by omega)
  simp only [Work.writeBeatCtl, hl, w.fld_source_wrPlain v hl, hv, beq_self_eq_true, Bool.true_or, Work.when_true, Work.when_false,
    Bool.false_eq_true, if_false, hext, Bool.false_and]

/-- The writes that R530 alone governs: registers of an Eight, registers with no rule of their own, and the beat's own registers
where they are locked or the source written is 00 or 01. -/
def Work.PlainWriteAt (w : Work) (p : Path) (a v : Nat) : Prop :=
  (∃ e o, locate a = some (.eight, e, o)) ∨
    a ∈ [GLB_SCRATCH, REG_ERR, BEAT_STATUS, FAULT_STATUS, HANG_WIN0, ESC_CFG, RTX_CFG, THERM_CFG] ∨
    (a ∈ [BEAT_CTL, BEAT_PERIOD] ∧ w.rwlLocked (w.busPath p) = true) ∨ (a = BEAT_CTL ∧ v % 4 < 2)

theorem Work.writeReg_of_plainWriteAt {w : Work} {p : Path} {a : Nat} {v : Word} (b : Board) (h : w.PlainWriteAt p a v.toNat) :
    w.writeReg b p a v.toNat = w.wrPlain p a v.toNat := by
  have hheld : ∀ x ∈ [FT_CTL, MEM_WIN_ADDR_LO, MEM_WIN_ADDR_HI, MEM_WIN_STATUS], locate x = some (.glob, 0, x) := by decide
  have hctl : w.rwlLocked (w.busPath p) = true ∨ v.toNat % 4 < 2 → w.writeBeatCtl p v.toNat = w.wrPlain p BEAT_CTL v.toNat := by
    cases hl : w.rwlLocked (w.busPath p) with
    | true => exact fun _ => Work.writeBeatCtl_locked _ hl
    | false => exact fun hv => Work.writeBeatCtl_external hl (hv.resolve_left (by decide))
  rcases h with ⟨e, o, he⟩ | hplain | ⟨hbeat, hl⟩ | ⟨rfl, hv⟩
  · refine w.writeReg_plain b p (fun hx => ?_) (by simp only [Work.writeRun, he])
    exact absurd (he.symm.trans (hheld a hx)) (by simp)
  · have hrule : ∀ x ∈ [GLB_SCRATCH, REG_ERR, BEAT_STATUS, FAULT_STATUS, HANG_WIN0, ESC_CFG, RTX_CFG, THERM_CFG],
        locate x = some (.glob, 0, x) ∧ x ∉ ruledRegs ∧ isMbox x = false ∧
          x ∉ [FT_CTL, MEM_WIN_ADDR_LO, MEM_WIN_ADDR_HI, MEM_WIN_STATUS] := by decide
    obtain ⟨hloc, hruled, hmbox, hna⟩ := hrule a hplain
    exact w.writeReg_plain b p hna ((w.writeRun_glob b p _ hloc).trans (w.writeGlob_plain b p _ hruled hmbox))
  · rcases List.mem_pair.mp hbeat with rfl | rfl
    · exact w.writeReg_plain b p (by decide) ((w.writeRun_glob b p _ (by decide)).trans (hctl (.inl hl)))
    · refine w.writeReg_plain b p (by decide) ((w.writeRun_glob b p _ (by decide)).trans ?_)
      exact if_pos hl
  · exact w.writeReg_plain b p (by decide) ((w.writeRun_glob b p _ (by decide)).trans (hctl (.inr hv)))

theorem hasRwl_eq {a : Nat} {r : RegRow} (hr : regRow a = some r) : hasRwl a = (r.rwl != 0) := by
  simp only [hasRwl, hr]

/-- Settles O46: the write of each plain register is the plain write of R530, bit by bit; with locked fields it is recorded besides. -/
theorem plainWritesFollowTheAccessTypes : Obligations.PlainWritesFollowTheAccessTypes := by
  refine ⟨?plain, ?reserved⟩
  case plain =>
    intro s p a v r hb ha h4 hr hat hmay hdark hup locked after
    have hplain : s.work.writeReg s.board p a v.toNat = s.work.wrPlain p a v.toNat := Work.writeReg_of_plainWriteAt s.board hat
    have hbits : ∀ i < 32, after (s.work.wrPlain p a v.toNat) i := fun i hi => s.work.getLsbD_plainWrite v locked hr hi
    constructor
    case left =>
      intro hfree
      have hopen : (hasRwl a && locked) = false := by
        rw [hasRwl_eq hr]
        rcases hfree with h0 | hl
        · simp [h0]
        · simp [hl]
      exact ⟨_, gives_registerWrite_done hb ha ⟨h4, hmay, hdark, hopen, hup⟩, by
        rw [hplain]
        exact ⟨hbits, s.work.wrPlain_kept p a _, s.work.wrPlain_frame p a _⟩⟩
    case right =>
      intro hrwl hlock
      have hhas : hasRwl a = true := by rw [hasRwl_eq hr, bne_iff_ne]; exact hrwl
      have hna : a ∉ [REG_ERR, REG_LAST_ADDR, REG_LAST_PATH] := by
        have hnone : ∀ x ∈ [REG_ERR, REG_LAST_ADDR, REG_LAST_PATH], hasRwl x = false := by decide
        exact fun hx => absurd (hhas.symm.trans (hnone a hx)) (by decide)
      have hgives := gives_registerWrite hb ha (Work.onBus_locked h4 hmay hdark (Bool.and_eq_true_iff.mpr ⟨hhas, hlock⟩) hup
        (fun u => u.writeReg s.board p a v.toNat))
      rw [hplain] at hgives
      refine ⟨_, hgives, ?bits, ?flag, ?addr, ?kept, ?frame⟩
      case bits =>
        intro i hi
        show (((s.work.wrPlain p a v.toNat).regError _ a true 2).reg a).getLsbD i = _
        rw [Work.regError_kept _ _ a true 2 a hna]
        exact hbits i hi
      case flag =>
        rw [Work.regError, Work.flag_wr_ne _ _ _ (by decide), Work.flag_wr_ne _ _ _ (by decide),
          Work.flag_setBit_same _ _ _ (by decide)]
      case addr =>
        rw [Work.regError, Work.rd_wr_ne _ _ _ (by decide), Work.rd_wr_same, if_pos rfl]
        omega
      case kept =>
        have hone : RegsKept s.work (s.work.wrPlain p a v.toNat) [a, REG_ERR, REG_LAST_ADDR, REG_LAST_PATH] :=
          (s.work.wrPlain_kept p a _).mono (by simp)
        exact ((hone.wr (by simp) _).wr (by simp) _).wr (by simp) _
      case frame =>
        rw [Work.regError_frame, s.work.wrPlain_frame p a]
  case reserved =>
    intro s p v hb hw hv hl
    have hrun : s.work.writeReg s.board p BEAT_CTL v.toNat =
        ((s.work.wrPlain p BEAT_CTL v.toNat).setFld BEAT_CTL 0 2 0).setBit BEAT_STATUS 5 := by
      rw [Work.writeReg, if_pos hb, s.work.writeRun_glob _ _ _ (by decide)]
      exact Work.writeBeatCtl_reserved hl hv
    have hgives := gives_registerWrite_done (Board.answers_of_alive hb) (by decide) hw
    rw [hrun] at hgives
    refine ⟨_, hgives, ?_, Work.flag_setBit_same _ _ _ (by decide), ?_, ?_⟩
    · rw [Work.fld_setBit_ne _ _ _ (by decide), Work.fld_setFld_same _ _ _ _ _ (by decide), Nat.zero_mod]
    · have hone : RegsKept s.work (s.work.wrPlain p BEAT_CTL v.toNat) [BEAT_CTL, BEAT_STATUS] :=
        (s.work.wrPlain_kept p BEAT_CTL _).mono (by simp)
      exact (hone.wr (by simp) _).wr (by simp) _
    · rw [s.work.wrPlain_frame p BEAT_CTL]
      rfl

/-- A write of COX_PROG is taken in IDLE only (R58). -/
theorem Work.writeReg_COX_PROG (w : Work) {b : Board} (hb : b.alive = true) (p : Path) {c : Nat} (hc : c < 1024) (v : Nat) :
    w.writeReg b p (COX_PROG c) v = w.writeIf (w.coxState c = 0) p (COX_PROG c) v := by
  have hl : locate (COX_PROG c) = some (.core, c, 0x1004) := locate_core hc (by decide)
  have hne : COX_PROG c ≠ COX_CTL c := by unfold COX_PROG COX_CTL; omega
  simp only [Work.writeReg, hb, if_true, Work.writeRun, hl, Work.writeCore, if_neg hne, List.contains_iff_mem, List.mem_cons, true_or]

/-- The bits of COX_PROG that a plain write reaches (Table 1-18). -/
theorem Work.reg_COX_PROG_wrPlain (w : Work) (p : Path) {c : Nat} (hc : c < 1024) (v : Word) :
    (w.wrPlain p (COX_PROG c) v.toNat).reg (COX_PROG c) = (w.reg (COX_PROG c) &&& 0xFFE0003F) ||| (v &&& 0x1FFFC0) := by
  apply BitVec.eq_of_getLsbD_eq
  intro i hi
  have hcompl : (0xFFE0003F : Word) = ~~~(0x1FFFC0 : Word) := by decide
  have hmask : (0x1FFFC0 : Word).getLsbD i = Nat.testBit 0x1fffc0 i := rfl
  rw [Work.wrPlain, w.getLsbD_plainWrite v _ (regRow_COX_PROG hc) hi, hcompl, BitVec.getLsbD_or, BitVec.getLsbD_and, BitVec.getLsbD_and,
    BitVec.getLsbD_not, hmask, decide_eq_true hi]
  cases Nat.testBit 0x1fffc0 i <;> simp

theorem coreBase_lt {c : Nat} (hc : c < 1024) {o : Nat} (ho : o < 0x40000) : coreBase c + o < 2 ^ 30 := by unfold coreBase; omega

/-- Settles O51: the write reaches the register through `writeIf`, which the state of the cox opens or closes. -/
theorem programAddressIsWrittenInIdleOnly : Obligations.ProgramAddressIsWrittenInIdleOnly := by
  intro s p c v hb
  have hans := Board.answers_of_alive hb
  have hlt : COX_PROG c.val < 2 ^ 30 := coreBase_lt c.isLt (by decide)
  have hwr := s.work.writeReg_COX_PROG hb p c.isLt v.toNat
  constructor
  case left =>
    intro hbusy
    have hsame : s.work.writeReg s.board p (COX_PROG c.val) v.toNat = s.work := by
      rw [hwr, decide_eq_false hbusy, Work.writeIf, Work.when_false]
    have hrec : COX_PROG c.val ∉ [REG_ERR, REG_LAST_ADDR, REG_LAST_PATH, REG_DENY_CNT] := by
      have hall : ∀ x ∈ [REG_ERR, REG_LAST_ADDR, REG_LAST_PATH, REG_DENY_CNT], x < 0x10000000 := by decide
      intro h
      have := hall _ h
      unfold COX_PROG coreBase at this
      omega
    exact ⟨_, gives_registerWrite hans hlt rfl, Work.onBus_reg (by rw [hsame]) p _ _ hrec,
      fun hw => (Work.onBus_done hw _).trans hsame⟩
  case right =>
    intro hidle hw
    have hdone : s.work.writeReg s.board p (COX_PROG c.val) v.toNat = s.work.wrPlain p (COX_PROG c.val) v.toNat := by
      rw [hwr, decide_eq_true hidle, Work.writeIf, Work.when_true]
    refine ⟨_, gives_registerWrite_done hans hlt hw, ?_⟩
    rw [hdone]
    exact ⟨s.work.reg_COX_PROG_wrPlain p c.isLt v, s.work.wrPlain_kept p _ _⟩

end Sys2Proof.Machine
end

section
/-! ### Programs taken and released, slots overrun and complete (R43 to R48) -/

namespace Sys2Proof.Machine

@[simp] theorem Work.cox_setCox_same (w : Work) (c : Nat) (x : Cox) : (w.setCox c x).cox c = x := Sp.get_put_same ..

section
variable {w : Work} {b : Board} {c : Nat} (hidle : w.coxState c = 0) (hmay : w.mayStroke b = true)
  (hbad : w.firstArm.step.entryBad = false)
include hidle hmay hbad

/-- A program that passes its checks is taken: the cox is ARMED (R43, Table 1-8). -/
theorem Work.armCox_takes {g : Prog} (hload : w.firstArm.loadProg c (w.firstArm.progBase c) = .ok g) :
    w.armCox b c = (w.firstArm.setCox c { w.firstArm.cox c with prog := some g, runs := [],
                                                                catchAt := w.firstArm.localAim }).setCoxState c 1 := by
  simp only [Work.armCox, hidle, hmay, hbad, hload, ne_eq, not_true_eq_false, decide_false, Bool.not_true, Bool.or_self,
    Bool.false_eq_true, if_false]

/-- Another leaves the mark of its refusal (R43, R268). -/
theorem Work.armCox_refuses {x : Checked} (hload : w.firstArm.loadProg c (w.firstArm.progBase c) = x) (hx : ∀ g, x ≠ .ok g) :
    w.armCox b c = w.firstArm.progRefused c x := by
  simp only [Work.armCox, hidle, hmay, hbad, hload, ne_eq, not_true_eq_false, decide_false, Bool.not_true, Bool.or_self,
    Bool.false_eq_true, if_false]

end

theorem Work.writeCoxCtl_set (w : Work) (b : Board) (p : Path) (c : Nat) :
    w.writeCoxCtl b p c 1 = (w.wrPlain p (COX_CTL c) 1).armCox b c := by
  have hrun : Nat.testBit 1 0 = true := rfl
  simp only [Work.writeCoxCtl, hrun, if_true]

theorem Work.writeCoxCtl_clear (w : Work) (b : Board) (p : Path) (c : Nat) :
    w.writeCoxCtl b p c 0 =
      let v := w.wrPlain p (COX_CTL c) 0
      if v.coxState c = 1 ∨ v.coxState c = 6 then v.releaseCox c else v := by
  simp only [Work.writeCoxCtl, Nat.zero_testBit, Bool.false_eq_true, if_false, Bool.or_eq_true, decide_eq_true_eq]

theorem gives_coxRunSet {s : State} {p : Path} {c : Fin 1024} {w : Work} (hb : s.board.alive = true)
    (hw : s.work.Writable p (COX_CTL c.val) 1) (h : (s.work.wrPlain p (COX_CTL c.val) 1).armCox s.board c.val = w) :
    Gives (.coxRunSet p c) s w :=
  gives_of_run (execCoxRunSet.eq_1 p c s) hb
    ((Work.onBus_done hw _).trans ((s.work.writeCoxCtl_set s.board p c.val).trans h))

theorem gives_coxRunClear {s : State} {p : Path} {c : Fin 1024} {w : Work} (hb : s.board.alive = true)
    (hw : s.work.Writable p (COX_CTL c.val) 0) (h : s.work.writeCoxCtl s.board p c.val 0 = w) : Gives (.coxRunClear p c) s w :=
  gives_of_run (execCoxRunClear.eq_1 p c s) hb ((Work.onBus_done hw _).trans h)

/-! ### LOCAL_CATCH (R48) -/

theorem regRow_LOCAL_CATCH : regRow LOCAL_CATCH = some ⟨0x10002c, 1, 0, 0xffffffff, 0, 0, 0⟩ := by decide

/-- LOCAL_CATCH takes every bit written. -/
theorem Work.reg_LOCAL_CATCH_wrPlain (w : Work) (p : Path) (v : Word) : (w.wrPlain p LOCAL_CATCH v.toNat).reg LOCAL_CATCH = v := by
  apply BitVec.eq_of_getLsbD_eq
  intro i hi
  have hall : Nat.testBit 0xffffffff i = true := by
    rw [show (0xffffffff : Nat) = 2 ^ 32 - 1 from rfl, Nat.testBit_two_pow_sub_one]
    exact decide_eq_true hi
  rw [Work.wrPlain, w.getLsbD_plainWrite v _ regRow_LOCAL_CATCH hi]
  simp only [Nat.zero_testBit, hall, Bool.false_and, Bool.true_or, Bool.false_eq_true, if_false, if_true]

/-- What decides which coxes take LOCAL_CATCH anew is in other registers than LOCAL_CATCH. -/
theorem Work.aims_of_kept {w v : Work} (h : RegsKept w v [LOCAL_CATCH]) (hm : v.mgr = w.mgr) (c : Nat) :
    (v.coxState c = 1 && v.noManager) = decide (w.coxState c = 1 ∧ w.noManager = true) := by
  have hc : COX_STATUS c ≠ LOCAL_CATCH := by unfold COX_STATUS coreBase LOCAL_CATCH; omega
  have hstate : v.coxState c = w.coxState c := h.fld (by simpa using hc) 0 3
  have hman : v.noManager = w.noManager := by
    rw [Work.noManager, Work.noManager, hm, h.flag (by decide)]
  rw [hstate, hman, Bool.decide_and, Bool.decide_eq_true]

theorem Work.writeLocalCatch_kept (w : Work) (p : Path) (v : Nat) : RegsKept w (w.writeLocalCatch p v) [LOCAL_CATCH] :=
  w.wrPlain_kept p LOCAL_CATCH v

/-- Every ARMED cox of a device without a manager aims at the catch that the register now names; nothing else changes. -/
theorem Work.writeLocalCatch_eq (w : Work) (p : Path) (v : Nat) :
    w.writeLocalCatch p v = { w with
      regs := (w.writeLocalCatch p v).regs
      coxes := w.coxes.map (fun q => (q.1, if w.coxState q.1 = 1 ∧ w.noManager = true
        then { q.2 with catchAt := (w.writeLocalCatch p v).localTarget } else q.2)) } := by
  have hframe := w.wrPlain_frame p LOCAL_CATCH v
  have hkept := w.wrPlain_kept p LOCAL_CATCH v
  have hmgr : (w.wrPlain p LOCAL_CATCH v).mgr = w.mgr := by rw [hframe]
  have hcoxes : (w.wrPlain p LOCAL_CATCH v).coxes = w.coxes := by rw [hframe]
  have hmap : (w.writeLocalCatch p v).coxes = w.coxes.map (fun q => (q.1, if w.coxState q.1 = 1 ∧ w.noManager = true
      then { q.2 with catchAt := (w.writeLocalCatch p v).localTarget } else q.2)) := by
    show (w.wrPlain p LOCAL_CATCH v).coxes.map _ = _
    rw [hcoxes]
    refine List.map_congr_left fun q _ => ?_
    rw [Work.aims_of_kept hkept hmgr]
    simp only [decide_eq_true_eq]
    rfl
  rw [← hmap]
  exact congrArg (fun u : Work => { u with coxes := (w.writeLocalCatch p v).coxes }) hframe

/-! ### Slots (R45, R46) -/

/-- A slot that runs is not complete. -/
theorem Cox.state_ne_of_running {x : Cox} {n : Nat} (h : x.running n = true) : x.state n ≠ 3 := by
  unfold Cox.running at h
  unfold Cox.state
  cases hr : Sp.find x.runs n with
  | none => simp [hr] at h
  | some r =>
    rw [hr] at h
    intro h3
    simp [show r.state = 3 from h3] at h

/-- A slot that no condition entry names releases none. -/
theorem Work.releaseEntries_of_no_conds {w : Work} {c n : Nat} {p : Prog} (hp : (w.cox c).prog = some p) (hc : p.condsOf n = []) :
    w.releaseEntries c n = w := by
  simp only [Work.releaseEntries, hp, hc, List.filter_nil, List.foldl_nil]

/-- A running slot that releases no entry completes: the core has made progress, and an overrun cox may be ready (R45). -/
theorem Work.completeSlot_running {w : Work} {c n : Nat} {p : Prog} (hp : (w.cox c).prog = some p) (hr : (w.cox c).running n = true)
    (hc : p.condsOf n = []) :
    w.completeSlot c n =
      ((w.setCox c { w.cox c with runs := Sp.put (w.cox c).runs n { state := 3 } }).progress c).coxReady c := by
  rw [Work.completeSlot, if_neg (Cox.state_ne_of_running hr)]
  dsimp only
  rw [Work.releaseEntries_of_no_conds (by rw [Work.cox_setCox_same]; exact hp) hc]

/-- Settles O6: the write of RUN by what the program read is, the write of LOCAL_CATCH, and a slot's two ends. -/
theorem programsRunAndSlotsEnd : Obligations.ProgramsRunAndSlotsEnd := by
  refine ⟨⟨?set, ?clear⟩, ?localCatch, ?overrun, ?complete⟩
  case set =>
    intro s path c hb hw
    dsimp only
    intro hidle hmay hbad
    refine ⟨fun p hload => ?_, fun n hload => ?_, fun n hload => ?_⟩
    · exact gives_coxRunSet hb hw (Work.armCox_takes hidle hmay hbad hload)
    · exact gives_coxRunSet hb hw (Work.armCox_refuses (x := .bad n) hidle hmay hbad hload (by simp))
    · exact gives_coxRunSet hb hw (Work.armCox_refuses (x := .badCond n) hidle hmay hbad hload (by simp))
  case clear =>
    intro s path c hb hw v
    have hclear := s.work.writeCoxCtl_clear s.board path c.val
    refine ⟨fun hstop => ?_, fun h1 h6 => ?_⟩
    · exact gives_coxRunClear hb hw (hclear.trans (if_pos hstop))
    · exact gives_coxRunClear hb hw (hclear.trans (if_neg (not_or.mpr ⟨h1, h6⟩)))
  case localCatch =>
    intro s path v hb hw
    exact ⟨s.work.writeLocalCatch path v.toNat, gives_of_run (execLocalCatchWrite.eq_1 path v s) hb (Work.onBus_done hw _),
      congrArg BitVec.toNat (s.work.reg_LOCAL_CATCH_wrPlain path v), s.work.writeLocalCatch_kept path _,
      s.work.writeLocalCatch_eq path _⟩
  case overrun =>
    intro s c n sl hb hsl hstate hrun hdue r
    have hin : [2, 3].contains (s.work.coxState c.val) = true := by
      rcases hstate with h | h <;> rw [h] <;> rfl
    refine gives_of_run (execSlotOverrun.eq_1 c n s) hb ?_
    simp only [hsl, hin, Bool.not_true, decide_eq_false (Nat.not_le.mpr hrun), decide_eq_false (Nat.not_lt.mpr hdue),
      Bool.or_self, Bool.false_eq_true, if_false]
    rfl
  case complete =>
    intro s c n p sl hb hp hsl hact hrun hconds v
    have hslot : s.work.slotAt c.val n = some sl := by rw [Work.slotAt, hp]; exact hsl
    refine gives_of_run (execSlotComplete.eq_1 c n s) hb ?_
    simp only [hslot, hact, hrun, decide_true, Bool.and_self, if_true, Work.completeSlot_running hp hrun hconds, Work.coxReady,
      Bool.and_eq_true, decide_eq_true_eq]
    rfl

end Sys2Proof.Machine
end

section
/-! ### A quiet beat edge (R24, R32) -/

namespace Sys2Proof.Machine

/-! What the source, the numbering and the time in force go by. -/

theorem Work.acting_of_kept {w v : Work} {l : List Nat} (h : RegsKept w v l) (hm : MGR_STATUS ∉ l) : v.acting = w.acting := by
  rw [Work.acting, Work.acting, h.fld hm]

theorem Work.beatSrc_of_kept {w v : Work} {l : List Nat} (h : RegsKept w v l) (hc : BEAT_CTL ∉ l) (hs : SEC_STATUS ∉ l) :
    v.beatSrc = w.beatSrc := by
  rw [Work.beatSrc, Work.beatSrc, h.fld hc, h.flag hs]

theorem Work.ownNumbers_of_kept {w v : Work} {l : List Nat} (h : RegsKept w v l) (hc : BEAT_CTL ∉ l) (hs : SEC_STATUS ∉ l)
    (hm : MGR_STATUS ∉ l) (b : Board) : v.ownNumbers b = w.ownNumbers b := by
  rw [Work.ownNumbers, Work.ownNumbers, Work.beatSrc_of_kept h hc hs, Work.acting_of_kept h hm]

theorem Work.beatFull_of_kept {w v : Work} {l : List Nat} (h : RegsKept w v l) (hlo : BEAT_COUNT_LO ∉ l) (hhi : BEAT_COUNT_HI ∉ l) :
    v.beatFull = w.beatFull := by
  rw [Work.beatFull, Work.beatFull, Work.epoch, Work.epoch, Work.beatCnt, Work.beatCnt, h.rd hlo, h.fld hhi, h.fld hhi]

theorem Work.flyMax_of_kept {w v : Work} {l : List Nat} (h : RegsKept w v l) (hc : BEAT_CTL ∉ l) : v.flyMax = w.flyMax := by
  rw [Work.flyMax, Work.flyMax, h.fld hc]

/-! The counter (R32, R33). -/

theorem Work.setBeat_kept (w : Work) (t : Nat) : RegsKept w (w.setBeat t) [BEAT_COUNT_LO, BEAT_COUNT_HI] :=
  ((RegsKept.refl w _).wr (by simp) _).wr (by simp) _

/-- The counter and epoch bound to a full beat time read as it. -/
theorem Work.beatFull_setBeat (w : Work) {t : Nat} (ht : t < 2 ^ 64) : (w.setBeat t).beatFull = t := by
  have hlo : (w.setBeat t).rd BEAT_COUNT_LO = t % 2 ^ 32 := by
    rw [Work.setBeat, Work.rd_wr_ne _ _ _ (by decide), Work.rd_wr_same, Nat.mod_mod]
  have hhi : (w.setBeat t).rd BEAT_COUNT_HI = t / 2 ^ 32 % 2 ^ 8 + 2 ^ 8 * (t / 2 ^ 40 % 2 ^ 24) := by
    rw [Work.setBeat, Work.rd_wr_same]
    exact Nat.mod_eq_of_lt (by omega)
  simp only [Work.beatFull, Work.epoch, Work.beatCnt, Work.fld, bits, hlo, hhi, Nat.shiftRight_eq_div_pow]
  omega

theorem beatAdd_lt (t n : Nat) : beatAdd t n < 2 ^ 64 := Nat.mod_lt _ (by decide)

/-- The advance binds the counter's two registers, whatever the time counted to. -/
theorem Work.countBeat_regs (w : Work) : w.countBeat.regs = (w.setBeat (beatAdd w.beatFull 1)).regs := by
  unfold Work.countBeat
  generalize beatAdd w.beatFull 1 = t
  rfl

/-- What else an advance changes: a beat period that waited is in force, and a beat more has passed since the marker. -/
theorem Work.countBeat_frame (w : Work) :
    w.countBeat = { w with
      regs := w.countBeat.regs, force := w.force.filter (fun p => p.1 != BEAT_PERIOD),
      beat := { w.beat with sinceMarker := w.beat.sinceMarker + 1 } } := by
  unfold Work.countBeat
  generalize beatAdd w.beatFull 1 = t
  rfl

theorem Work.countBeat_mem (w : Work) : w.countBeat.mem = w.mem := by rw [w.countBeat_frame]
theorem Work.countBeat_coxes (w : Work) : w.countBeat.coxes = w.coxes := by rw [w.countBeat_frame]

theorem Work.countBeat_kept (w : Work) : RegsKept w w.countBeat [BEAT_COUNT_LO, BEAT_COUNT_HI] :=
  (w.setBeat_kept _).of_regs w.countBeat_regs

theorem Work.beatFull_countBeat (w : Work) : w.countBeat.beatFull = beatAdd w.beatFull 1 := by
  have hsame : RegsKept (w.setBeat (beatAdd w.beatFull 1)) w.countBeat [] := (RegsKept.refl _ []).of_regs w.countBeat_regs
  rw [Work.beatFull_of_kept hsame (by decide) (by decide), Work.beatFull_setBeat _ (beatAdd_lt ..)]

theorem Work.quiet_countBeat {w : Work} (h : w.Quiet) : w.countBeat.Quiet := by
  rw [w.countBeat_frame]
  exact h

/-! Each part of an edge's work where it finds nothing to do. -/

theorem Work.beaconEdge_of_none {w : Work} (h : w.fault.beacons = []) : w.beaconEdge = w := by
  unfold Work.beaconEdge
  rw [h, List.filter_nil, List.foldl_nil, ← h]

theorem Work.rollEdge_of_none {w : Work} (h : w.mgr.rollDue = none) : w.rollEdge = w := by
  simp only [Work.rollEdge, h]

theorem Work.calEdge_of_no_tiles {w : Work} (h : w.tiles = []) : w.calEdge = w := by
  simp only [Work.calEdge, h, List.filter_nil, List.map_nil, List.dedup_nil, List.foldl_nil]

theorem Work.waitingProgs_of_no_cox {w : Work} (h : w.coxes = []) : w.waitingProgs = [] := by
  simp only [Work.waitingProgs, h, List.filterMap_nil, List.foldl_nil]

theorem Work.settleRed_of_empty {w : Work} (h : w.red = {}) : w.settleRed = w := by
  unfold Work.settleRed
  rw [h, ← h]
  simp only [h, List.append_nil, List.length_nil, List.map_nil, List.sum_nil, drainMine]
  rw [← h]

theorem Work.redGo_of_empty {w : Work} (hr : w.red = {}) (hl : w.links = []) : w.redGo = w := by
  have hheld : ∀ k, (w.link k).held = [] := fun k => by rw [Work.link, hl]; rfl
  have hdrain : (List.range 36).foldl (fun (v : Work) k => drainRing (v.link k).held.length k v) w = w :=
    List.foldlRecOn (motive := fun v => v = w) _ _ rfl fun v hv k _ => by rw [hv, hheld]; rfl
  rw [Work.redGo, Work.settleRed_of_empty hr, hdrain, Work.settleRed_of_empty hr]

theorem PowerSt.dom_eta {x : PowerSt} (h : x.dom = []) : { x with dom := [] } = x := by rw [← h]

theorem Work.unitsEdge_of_none {w : Work} (hd : w.power.dom = []) (hs : w.step.starving = false) (hc : w.commits = [])
    (hr : w.red = {}) (hl : w.links = []) : w.unitsEdge = w := by
  have hparts : w.allParts = [] := by rw [Work.allParts, hc, List.flatMap_nil]
  simp only [Work.unitsEdge, hd, List.map_nil, PowerSt.dom_eta hd, List.foldl_nil, hs, Work.when_false, hparts, List.dedup_nil]
  exact Work.redGo_of_empty hr hl

theorem Work.readyEdge_of_no_cox {w : Work} (hc : w.coxes = []) (hr : w.stroke.readyFrom = none) : w.readyEdge = w := by
  have hnot : w.readyDue = false := by
    simp only [Work.readyDue, Work.allReady, hc, List.any_nil, Bool.and_false, Bool.false_and]
  unfold Work.readyEdge
  rw [hnot, if_neg (by decide), ← hr]

/-- A device that does not number the beats itself sends no markers and manages no crews. -/
theorem Work.managerEdge_of_worker {w : Work} {b : Board} (h : w.ownNumbers b = false) : w.managerEdge b = w := by
  simp only [Work.ownNumbers, Bool.or_eq_false_iff] at h
  obtain ⟨⟨_, hrole⟩, hact⟩ := h
  simp only [Work.managerEdge, hact, Work.when_false, Work.sendsMarkers, hrole, Bool.or_self, Bool.and_false, Bool.false_and]

/-- An edge finds nothing to do on a quiet worker. -/
theorem Work.edgeWork_quiet {w : Work} {b : Board} (hq : w.Quiet) (ho : w.ownNumbers b = false) : w.edgeWork b = w := by
  obtain ⟨hcox, htile, hcmt, hbeacon, hroll, hdom, hstarve, hred, hlink, hready⟩ := hq
  simp only [Work.edgeWork, Work.beaconEdge_of_none hbeacon, Work.rollEdge_of_none hroll, Work.calEdge_of_no_tiles htile,
    Work.waitingProgs_of_no_cox hcox, hcox, List.filter_nil, List.map_nil, List.foldl_nil]
  rw [show w.doCatch [] = w from rfl, Work.unitsEdge_of_none hdom hstarve hcmt hred hlink, Work.readyEdge_of_no_cox hcox hready,
    Work.managerEdge_of_worker ho]

/-- The counter's advance is all that a quiet worker's edge comes to. -/
theorem Work.advanceBeat_quiet {w : Work} {b : Board} (hq : w.Quiet) (ho : w.ownNumbers b = false) (hf : w.beat.fly ≤ w.flyMax) :
    w.advanceBeat b = w.countBeat := by
  have hown : w.countBeat.ownNumbers b = false :=
    (Work.ownNumbers_of_kept w.countBeat_kept (by decide) (by decide) (by decide) b).trans ho
  have hmax : ¬w.countBeat.flyMax < w.countBeat.beat.fly := by
    rw [Work.flyMax_of_kept w.countBeat_kept (by decide), w.countBeat_frame]
    exact Nat.not_lt.mpr hf
  rw [Work.advanceBeat, if_neg hmax]
  exact Work.edgeWork_quiet (Work.quiet_countBeat hq) hown

/-- One flywheeled beat too many makes the loss of lock due, and the edge's work is left (R24, R26). -/
theorem Work.advanceBeat_overflown {w : Work} (b : Board) (hf : w.flyMax < w.beat.fly) :
    w.advanceBeat b = { w.countBeat with beat := { w.countBeat.beat with lossDue := true } } := by
  have hmax : w.countBeat.flyMax < w.countBeat.beat.fly := by
    rw [Work.flyMax_of_kept w.countBeat_kept (by decide), w.countBeat_frame]
    exact hf
  rw [Work.advanceBeat, if_pos hmax]

/-! The edges themselves. -/

theorem Work.incFld_kept (w : Work) (a lo len n : Nat) : RegsKept w (w.incFld a lo len n) [a] :=
  (RegsKept.refl w [a]).wr (List.mem_singleton.mpr rfl) _

theorem Work.flewOne_kept (w : Work) : RegsKept w w.flewOne [BEAT_ERR_CNT] := w.incFld_kept BEAT_ERR_CNT 16 16 1

/-- An edge that no marker was missed before ends the row of flywheeled beats. -/
theorem Work.markerMissed_of_marker {w : Work} {b : Board} (h : w.beat.sinceMarker = 0) :
    w.markerMissed b = { w with beat := { w.beat with fly := 0 } } := by
  simp [Work.markerMissed, h]

/-- The state in which a good edge that no marker was missed before advances the counter. -/
def Work.edged (w : Work) : Work := { w with beat := { w.beat with lastEdge := some w.now, fly := 0 } }

theorem Work.takeEdge_quiet {w : Work} {b : Board} (hq : w.Quiet) (ho : w.ownNumbers b = false) (hm : w.beat.sinceMarker = 0) :
    w.takeEdge b = w.edged.countBeat := by
  have hmissed : { w with beat := { w.beat with lastEdge := some w.now } }.markerMissed b = w.edged := Work.markerMissed_of_marker hm
  rw [Work.takeEdge, hmissed]
  exact Work.advanceBeat_quiet (w := w.edged) hq ho (Nat.zero_le _)

theorem Work.countBeat_edged {w : Work} (hm : w.beat.sinceMarker = 0) :
    w.edged.countBeat = { w.setBeat (beatAdd w.beatFull 1) with
      force := w.force.filter (fun p => p.1 != BEAT_PERIOD),
      beat := { w.beat with lastEdge := some w.now, fly := 0, sinceMarker := 1 } } := by
  have hfull : w.edged.beatFull = w.beatFull := rfl
  have hsince : w.edged.beat.sinceMarker = 0 := hm
  unfold Work.countBeat
  rw [hfull, hsince]
  generalize beatAdd w.beatFull 1 = t
  rfl

/-- An edge of a locked worker of source mode 00 is taken in the window of R22, and counted outside it. -/
theorem gives_beatEdge {s : State} (hb : s.board.alive = true) (hl : s.work.beat.lossDue = false) (hs : s.work.beatSrc = 0)
    (hk : s.work.locked = true) (after : Nat) :
    Gives (.beatEdge after) s
      (let v := s.work.till (s.work.beat.lastEdge.getD s.work.now + after)
       if s.work.edgeGood after = true then v.takeEdge s.board else v.edgeErr) := by
  have hsrc : ∀ t, (s.work.till t).beatSrc = 0 := fun _ => hs
  have hlock : ∀ t, (s.work.till t).locked = true := fun _ => hk
  have hgood : ∀ t, (s.work.till t).edgeGood after = s.work.edgeGood after := fun _ => rfl
  refine gives_of_run (execBeatEdge.eq_1 after s) hb ?_
  simp only [hl, hsrc, hlock, hgood, Bool.false_eq_true, if_false, Nat.zero_ne_one, decide_false, Bool.false_and, Bool.not_true]

/-- What a flywheeled beat leaves to the advance of the counter. -/
def Work.flown (w : Work) : Work :=
  { w.till (w.beat.lastEdge.getD w.now + w.period) with
    beat := { w.beat with lastEdge := some (w.beat.lastEdge.getD w.now + w.period) } }.flewOne

theorem Work.flown_kept (w : Work) : RegsKept w w.flown [BEAT_ERR_CNT] := Work.flewOne_kept _

theorem gives_flywheel {s : State} (hb : s.board.alive = true) (hl : s.work.beat.lossDue = false) (hk : s.work.locked = true) :
    Gives .flywheel s (s.work.flown.advanceBeat s.board) := by
  refine gives_of_run (execFlywheel.eq_1 s) hb ?_
  simp only [hk, hl, Bool.not_true, Bool.or_self, Bool.false_eq_true, if_false]
  rfl

/-! A cox at an edge (R44). -/

theorem Cox.allDone_of_no_slots {x : Cox} {p : Prog} (hp : x.prog = some p) (hs : p.slots = []) : x.allDone = true := by
  simp only [Cox.allDone, hp, hs, List.length_nil, List.range_zero, List.all_nil]

/-- A program without slots leaves the advance of the offset and the ready check. -/
theorem Work.runEdge_of_no_slots {w : Work} {c : Nat} {p : Prog} (hp : (w.cox c).prog = some p) (hs : p.slots = []) :
    w.runEdge c = (w.setFld (COX_STATUS c) 4 17 (w.coxOffset c + 1)).readyCheck c p := by
  simp only [Work.runEdge, hp, Work.endReservations, hs, List.zipIdx_nil, List.foldl_nil]

/-- A RUNNING cox with every slot complete waits for its finish from its ready offset on. -/
theorem Work.readyCheck_of_done {w : Work} {c : Nat} (p : Prog) (hr : w.coxState c = 2) (hd : (w.cox c).allDone = true) :
    w.readyCheck c p = if p.ready ≤ w.coxOffset c then w.setCoxState c 4 else w := by
  simp only [Work.readyCheck, hr, hd, decide_true, Bool.true_and, decide_eq_true_eq, if_true]

/-- Settles O4: a quiet worker's edge is the advance of its counter; a cox without slots moves on by the offset alone. -/
theorem beatEdgesAdvanceCountersAndCoxes : Obligations.BeatEdgesAdvanceCountersAndCoxes := by
  refine ⟨⟨?good, ?bad, ?flown, ?lost⟩, ?cox⟩
  case good =>
    intro s after hb hdue hsrc hown hlock hgood hmark hq
    have hgives := gives_beatEdge hb hdue hsrc hlock after
    have hfull : (s.work.till (s.work.beat.lastEdge.getD s.work.now + after)).beatFull = s.work.beatFull := rfl
    rw [if_pos hgood, Work.takeEdge_quiet (w := s.work.till _) hq hown hmark,
      Work.countBeat_edged (w := s.work.till _) hmark, hfull] at hgives
    dsimp only
    generalize beatAdd s.work.beatFull 1 = n at hgives ⊢
    exact hgives
  case bad =>
    intro s after hb hdue hsrc hlock hbad
    have hgives := gives_beatEdge hb hdue hsrc hlock after
    rwa [if_neg (by rw [hbad]; decide)] at hgives
  case flown =>
    intro s hb hdue hlock hown hfly hq t
    have hadv : s.work.flown.advanceBeat s.board = s.work.flown.countBeat :=
      Work.advanceBeat_quiet (w := s.work.flown) hq
        ((Work.ownNumbers_of_kept s.work.flown_kept (by decide) (by decide) (by decide) _).trans hown)
        (by rw [Work.flyMax_of_kept s.work.flown_kept (by decide)]; exact hfly)
    have hgives := gives_flywheel hb hdue hlock
    rw [hadv] at hgives
    refine ⟨_, hgives, ?beat, ?count, ?kept, s.work.flown.countBeat_frame⟩
    case beat => rw [Work.beatFull_countBeat, Work.beatFull_of_kept s.work.flown_kept (by decide) (by decide)]
    case count =>
      rw [Work.countBeat_kept _ |>.fld (by decide)]
      exact Work.fld_incFld_same _ BEAT_ERR_CNT 1 (by decide)
    case kept => exact (s.work.flown_kept.mono (by simp)).trans (s.work.flown.countBeat_kept.mono (by simp))
  case lost =>
    intro s hb hdue hlock hown hfly
    have hgives := gives_flywheel hb hdue hlock
    rw [Work.advanceBeat_overflown s.board (by rw [Work.flyMax_of_kept s.work.flown_kept (by decide)]; exact hfly)] at hgives
    refine ⟨_, hgives, rfl, ?_, s.work.flown.countBeat_mem, s.work.flown.countBeat_coxes⟩
    have hsame : RegsKept s.work.flown.countBeat { s.work.flown.countBeat with
        beat := { s.work.flown.countBeat.beat with lossDue := true } } [] := (RegsKept.refl _ []).of_regs rfl
    rw [Work.beatFull_of_kept hsame (by decide) (by decide), Work.beatFull_countBeat,
      Work.beatFull_of_kept s.work.flown_kept (by decide) (by decide)]
  case cox =>
    intro w c p _ hp hs hrun hoff
    have hedge : w.coxEdge c 2 = (w.setFld (COX_STATUS c) 4 17 (w.coxOffset c + 1)).readyCheck c p := Work.runEdge_of_no_slots hp hs
    have hstate : (w.setFld (COX_STATUS c) 4 17 (w.coxOffset c + 1)).coxState c = 2 :=
      (w.fld_setFld_apart _ _ (by decide) (by decide)).trans hrun
    have hmoved : (w.setFld (COX_STATUS c) 4 17 (w.coxOffset c + 1)).coxOffset c = w.coxOffset c + 1 := by
      rw [Work.coxOffset, Work.fld_setFld_same _ _ _ _ _ (by decide), Nat.mod_eq_of_lt hoff]
    rw [hedge, Work.readyCheck_of_done p hstate (Cox.allDone_of_no_slots hp hs), hmoved]
    have hone : RegsKept w (w.setFld (COX_STATUS c) 4 17 (w.coxOffset c + 1)) [COX_STATUS c] :=
      (RegsKept.refl w _).wr (by simp) _
    split
    · exact ⟨(Work.fld_setFld_apart _ _ _ (by decide) (by decide)).trans hmoved, Work.fld_setFld_same _ _ _ _ _ (by decide),
        hone.wr (by simp) _, rfl⟩
    · exact ⟨hmoved, hstate, hone, rfl⟩

end Sys2Proof.Machine
end

section
/-! ### What sending leaves as it is

A packet given to a port changes the port, its flow and its counters, and what goes out; never a register below the link blocks,
memory, cells, tiles, beat, coxes or the fault log. -/

namespace Sys2Proof.Machine

/-- What sending leaves: the registers below the link blocks (Table 15-1), and the parts of the state named. -/
structure Work.SendKept (w v : Work) : Prop where
  regs : ∀ a < linkBase 0, v.reg a = w.reg a
  mem : v.mem = w.mem
  cells : v.cells = w.cells
  tiles : v.tiles = w.tiles
  beat : v.beat = w.beat
  coxes : v.coxes = w.coxes
  log : v.fault.log = w.fault.log

namespace Work.SendKept

theorem refl (w : Work) : w.SendKept w := ⟨fun _ _ => rfl, rfl, rfl, rfl, rfl, rfl, rfl⟩

theorem trans {u v w : Work} (h : u.SendKept v) (k : v.SendKept w) : u.SendKept w :=
  ⟨fun a ha => (k.regs a ha).trans (h.regs a ha), k.mem.trans h.mem, k.cells.trans h.cells, k.tiles.trans h.tiles,
    k.beat.trans h.beat, k.coxes.trans h.coxes, k.log.trans h.log⟩

theorem rd {w v : Work} (h : w.SendKept v) {a : Nat} (ha : a < linkBase 0) : v.rd a = w.rd a :=
  congrArg BitVec.toNat (h.regs a ha)

theorem foldl {α : Type} {f : Work → α → Work} (hf : ∀ (v : Work) x, v.SendKept (f v x)) (l : List α) (w : Work) :
    w.SendKept (l.foldl f w) :=
  List.foldlRecOn l f (refl w) fun v hv x _ => hv.trans (hf v x)

theorem when {w : Work} {f : Work → Work} (hf : w.SendKept (f w)) (c : Bool) : w.SendKept (w.when c f) := by
  cases c with
  | true => exact hf
  | false => exact refl w

end Work.SendKept

theorem Work.incBy_sendKept (w : Work) {a : Nat} (ha : linkBase 0 ≤ a) (n : Nat) : w.SendKept (w.incBy a n) :=
  ⟨fun _ hb => (w.reg_wr a _ _).trans (if_neg (by omega)), rfl, rfl, rfl, rfl, rfl, rfl⟩

theorem Work.setLink_sendKept (w : Work) (k : Nat) (l : Link) : w.SendKept (w.setLink k l) :=
  ⟨fun _ _ => rfl, rfl, rfl, rfl, rfl, rfl, rfl⟩

theorem Work.emit_sendKept (w : Work) (o : Out) : w.SendKept (w.emit o) := ⟨fun _ _ => rfl, rfl, rfl, rfl, rfl, rfl, rfl⟩

theorem Work.progress_sendKept (w : Work) (key : Nat) : w.SendKept (w.progress key) :=
  ⟨fun _ _ => rfl, rfl, rfl, rfl, rfl, rfl, rfl⟩

theorem Work.txFlows_sendKept (w : Work) (x : Sp TxFlow) : w.SendKept { w with txFlows := x } :=
  ⟨fun _ _ => rfl, rfl, rfl, rfl, rfl, rfl, rfl⟩

theorem Work.mgr_sendKept (w : Work) (x : MgrSt) : w.SendKept { w with mgr := x } :=
  ⟨fun _ _ => rfl, rfl, rfl, rfl, rfl, rfl, rfl⟩

/-- The counters of a port stand in its link block. -/
theorem linkBase_le_TX_FRAME_CNT (k : Nat) : linkBase 0 ≤ TX_FRAME_CNT k := by unfold TX_FRAME_CNT linkBase; omega
theorem linkBase_le_REPLAY_WAIT_CNT (k : Nat) : linkBase 0 ≤ REPLAY_WAIT_CNT k := by unfold REPLAY_WAIT_CNT linkBase; omega

/-! From the frame on a port up to a record's REPORT. -/

theorem Work.putFrame_sendKept (w : Work) (k : Nat) (p : Packet) : w.SendKept (w.putFrame k p) :=
  ((w.setLink_sendKept k _).trans (Work.incBy_sendKept _ (linkBase_le_TX_FRAME_CNT k) 1)).trans (Work.emit_sendKept _ _)

theorem Work.sendNow_sendKept (w : Work) (k : Nat) (p : Packet) : w.SendKept (w.sendNow k p) :=
  ((w.setLink_sendKept k _).trans (Work.putFrame_sendKept _ k _)).trans (Work.progress_sendKept _ _)

theorem pumpN_sendKept (n k : Nat) (w : Work) : w.SendKept (pumpN n k w) := by
  induction n generalizing w with
  | zero => exact .refl w
  | succ n ih =>
    unfold pumpN
    split
    · exact .refl w
    · exact ((w.setLink_sendKept k _).trans (Work.sendNow_sendKept _ k _)).trans (ih _)

theorem Work.pumpHost_sendKept (w : Work) (k : Nat) : w.SendKept (w.pumpHost k) := by
  unfold Work.pumpHost
  extract_lets l held
  split
  · exact .refl w
  · refine (w.setLink_sendKept k _).trans (Work.SendKept.foldl (fun v a => ?_) l.answers _)
    exact (v.incBy_sendKept (linkBase_le_TX_FRAME_CNT k) a.2).trans (Work.emit_sendKept _ a.1)

theorem Work.pump_sendKept (w : Work) (k : Nat) : w.SendKept (w.pump k) :=
  (pumpN_sendKept _ k w).trans (Work.pumpHost_sendKept _ k)

theorem Work.xmit_sendKept (w : Work) (k : Nat) (p : Packet) : w.SendKept (w.xmit k p) :=
  (((Work.SendKept.when (w.incBy_sendKept (linkBase_le_REPLAY_WAIT_CNT k) 1) _).trans
    (.when (Work.progress_sendKept _ _) _)).trans (Work.setLink_sendKept _ k _)).trans (Work.pump_sendKept _ k)

theorem Work.sendRouted_sendKept (w : Work) (p : Packet) : w.SendKept (w.sendRouted p) := by
  unfold Work.sendRouted
  split
  · exact w.xmit_sendKept _ p
  · exact w.emit_sendKept _

theorem Work.first_sendKept (w : Work) (key : Nat) (f : TxFlow) (p : Packet) : w.SendKept (w.first key f p) :=
  (w.txFlows_sendKept _).trans (Work.sendRouted_sendKept _ _)

theorem Work.sendFlow_sendKept (w : Work) (p : Packet) : w.SendKept (w.sendFlow p) := by
  unfold Work.sendFlow
  dsimp only
  split
  · exact .refl w
  · split
    · exact w.first_sendKept _ _ p
    · exact w.txFlows_sendKept _

theorem Work.send_sendKept (w : Work) (p : Packet) : w.SendKept (w.send p) := by
  unfold Work.send
  split
  · exact w.sendFlow_sendKept p
  · exact w.sendRouted_sendKept p

theorem Work.control_sendKept (w : Work) (dst op crew : Nat) (body : List Byte) : w.SendKept (w.control dst op crew body) := by
  unfold Work.control
  split
  · exact .refl w
  · exact (w.mgr_sendKept _).trans (Work.send_sendKept _ _)

theorem Work.report_sendKept (w : Work) (kind crew : Nat) (body : List Byte) : w.SendKept (w.report kind crew body) :=
  Work.SendKept.foldl (fun v d => v.control_sendKept d 13 crew _) w.mgrNodes.dedup w

theorem Work.reportRec_sendKept (w : Work) (r : FaultRec) : w.SendKept (w.reportRec r) := by
  unfold Work.reportRec
  split
  · exact .refl w
  · split
    · exact ⟨fun _ _ => rfl, rfl, rfl, rfl, rfl, rfl, rfl⟩
    · exact w.report_sendKept _ _ _

end Sys2Proof.Machine
end

section
/-! ### The fault log (R429) -/

namespace Sys2Proof.Machine

theorem Work.logOnly_kept (w : Work) (r : FaultRec) : RegsKept w (w.logOnly r) [FAULT_STATUS, FLOG_OVF_CNT] := by
  have hnew : RegsKept w ({ w with fault := { w.fault with log := (r :: w.fault.log).take 256 } }.setBit FAULT_STATUS 0)
      [FAULT_STATUS, FLOG_OVF_CNT] :=
    ((RegsKept.refl w [FAULT_STATUS, FLOG_OVF_CNT]).of_regs rfl).wr (by simp) _
  exact (hnew.when (fun h => h.wr (by simp) _) _).when (fun h => h.wr (by simp) _) _

/-- The status bits of a new record are registers alone. -/
theorem Work.logBits_frame (w : Work) (full unread : Bool) :
    ((w.setBit FAULT_STATUS 0).when full (·.setBit FAULT_STATUS 1)).when unread (·.inc FLOG_OVF_CNT) =
      { w with regs := (((w.setBit FAULT_STATUS 0).when full (·.setBit FAULT_STATUS 1)).when unread (·.inc FLOG_OVF_CNT)).regs } := by
  cases full <;> cases unread <;> rfl

/-- A record enters at the head; beside it only registers change. -/
theorem Work.logOnly_frame (w : Work) (r : FaultRec) :
    w.logOnly r = { w with regs := (w.logOnly r).regs, fault := { w.fault with log := (r :: w.fault.log).take 256 } } :=
  Work.logBits_frame { w with fault := { w.fault with log := (r :: w.fault.log).take 256 } } _ _

end Sys2Proof.Machine
end

section
/-! ### Lock lost (R22, R26) -/

namespace Sys2Proof.Machine

/-- A lasting fault that no crew is concerned in is counted, logged and reported (R429, R431). -/
theorem Work.lasting_of_no_crew (w : Work) {r : FaultRec} (hf : r.crew = 0) :
    w.lasting r none [] = (w.inc LASTING_CNT).logRec { r with gen := w.jobGen r.job } := by
  have hcrew : (if r.crew ≠ 0 then r.crew else List.headD [] 0) = r.crew := by rw [hf]; rfl
  unfold Work.lasting
  dsimp only [Option.isSome_none, Bool.false_and]
  rw [hcrew]
  rfl

/-- Lock lost, marked and counted. -/
def Work.lockLost (w : Work) : Work := ((w.clrBit BEAT_STATUS 0).setBit BEAT_STATUS 1).inc LASTING_CNT

/-- The record of a loss of lock. -/
def Work.lossRecord (w : Work) : FaultRec := { cls := 10, unit := 1220, gen := w.jobGen 0, beat := w.lockLost.beatFull }

/-- A loss of lock logged and reported. -/
def Work.lossLogged (w : Work) : Work := (w.lockLost.logOnly w.lossRecord).reportRec w.lossRecord

theorem Work.lockLost_kept (w : Work) : RegsKept w w.lockLost [BEAT_STATUS, LASTING_CNT] :=
  (((RegsKept.refl w _).wr (by simp) _).wr (by simp) _).wr (by simp) _

theorem Work.lossLogged_sendKept (w : Work) : (w.lockLost.logOnly w.lossRecord).SendKept w.lossLogged :=
  (w.lockLost.logOnly w.lossRecord).reportRec_sendKept w.lossRecord

theorem Work.lossLogged_beat (w : Work) : w.lossLogged.beat = w.beat := by
  rw [w.lossLogged_sendKept.beat, Work.logOnly_frame]
  rfl

theorem Work.lossLogged_coxes (w : Work) : w.lossLogged.coxes = w.coxes := by
  rw [w.lossLogged_sendKept.coxes, Work.logOnly_frame]
  rfl

theorem Work.lossLogged_mem (w : Work) : w.lossLogged.mem = w.mem := by
  rw [w.lossLogged_sendKept.mem, Work.logOnly_frame]
  rfl

theorem Work.lossLogged_cells (w : Work) : w.lossLogged.cells = w.cells := by
  rw [w.lossLogged_sendKept.cells, Work.logOnly_frame]
  rfl

theorem Work.lossLogged_tiles (w : Work) : w.lossLogged.tiles = w.tiles := by
  rw [w.lossLogged_sendKept.tiles, Work.logOnly_frame]
  rfl

/-- The record heads the log. -/
theorem Work.lossLogged_log (w : Work) : w.lossLogged.fault.log.head? = some w.lossRecord := by
  rw [w.lossLogged_sendKept.log, Work.logOnly_frame]
  rfl

/-- Registers other than those of the log read as the loss left them. -/
theorem Work.lossLogged_rd (w : Work) {a : Nat} (ha : a < linkBase 0) (hl : a ∉ [FAULT_STATUS, FLOG_OVF_CNT]) :
    w.lossLogged.rd a = w.lockLost.rd a :=
  (w.lossLogged_sendKept.rd ha).trans ((w.lockLost.logOnly_kept w.lossRecord).rd hl)

/-- With no cox listed nothing is aborted: a loss of lock is logged and reported, and a new run begins (R26). -/
theorem Work.loseLock_of_no_cox {w : Work} (hc : w.coxes = []) :
    w.loseLock = { w.lossLogged with
      beat := { port := w.beat.port, lastMarker := w.beat.lastMarker, sinceMarker := w.beat.sinceMarker } } := by
  have hlost : ((w.clrBit BEAT_STATUS 0).setBit BEAT_STATUS 1).lasting { cls := 10, unit := 1220 } none [] = w.lossLogged :=
    Work.lasting_of_no_crew _ rfl
  have habort : w.lossLogged.abortCores (w.lossLogged.coxes.map (·.1)) = w.lossLogged := by
    rw [w.lossLogged_coxes, hc]
    rfl
  unfold Work.loseLock
  dsimp only
  rw [hlost, habort, w.lossLogged_beat]

end Sys2Proof.Machine
end

section
/-! ### Markers (R16, R20, R25, R30, R332, R561) -/

namespace Sys2Proof.Machine

theorem Work.notePort_kept (w : Work) (k : Nat) : RegsKept w (w.notePort k) [BEAT_CTL] :=
  ((RegsKept.refl w [BEAT_CTL]).when (fun h => h.wr (by simp) _) (w.flag CFG_STATUS 1)).of_regs rfl

/-- Noting the port of a marker changes no field of BEAT_CTL but MARKER_PORT. -/
theorem Work.fld_notePort (w : Work) (k : Nat) {l n : Nat} (h : l + n ≤ 8 ∨ 14 ≤ l) :
    (w.notePort k).fld BEAT_CTL l n = w.fld BEAT_CTL l n := by
  have hset : (w.when (w.flag CFG_STATUS 1) (·.setFld BEAT_CTL 8 6 k)).fld BEAT_CTL l n = w.fld BEAT_CTL l n := by
    cases w.flag CFG_STATUS 1 with
    | true => exact w.fld_setFld_apart BEAT_CTL k (by decide) h
    | false => rfl
  exact hset

theorem Work.beatSrc_notePort (w : Work) (k : Nat) : (w.notePort k).beatSrc = w.beatSrc := by
  rw [Work.beatSrc, Work.beatSrc, w.fld_notePort k (by decide), (w.notePort_kept k).flag (by decide)]

theorem Work.period_notePort (w : Work) (k : Nat) : (w.notePort k).period = w.period := by
  have hforce : (w.notePort k).force = w.force := by
    unfold Work.notePort Work.when
    split <;> rfl
  rw [Work.period, Work.period, Work.live, Work.live, hforce, (w.notePort_kept k).rd (by decide)]

/-- Nothing goes on where the forwarding port names none (R17). -/
theorem Work.forwardMarker_of_none {w : Work} (l : List Byte) (h : 36 ≤ w.fld BEAT_CTL 16 6) : w.forwardMarker l = w := by
  simp only [Work.forwardMarker, h, decide_true, Bool.true_or, if_true]

section
variable {w : Work} {b : Board} {k : Nat} {l : List Byte} (hown : w.ownNumbers b = false) (hdue : w.beat.lossDue = false)
  (hhears : w.hears k = true) (hfrom : w.markerFrom k = true)
include hown hdue hhears hfrom

/-- A marker that R561 discards counts as an edge error. -/
theorem Work.marker_of_discarded (hm : markerOf l = none) : w.marker b k l = w.incFld BEAT_ERR_CNT 0 16 1 := by
  simp only [Work.marker, hown, hdue, hhears, hfrom, hm, Bool.not_true, Bool.or_self, Bool.false_eq_true, if_false]
  rfl

/-- In source mode 00 a locked worker that forwards nothing takes a marker of its period where it lies in the window of R25. -/
theorem Work.marker_of_numbering {m : Marker} (hm : markerOf l = some m) (hsrc : w.beatSrc = 0) (hlock : w.locked = true)
    (hper : m.period = w.period) (hfwd : 36 ≤ w.fld BEAT_CTL 16 6) :
    w.marker b k l = if inWindow m.beat w.beatCnt = true then (w.notePort k).takeMarker m else (w.notePort k).badMarker := by
  have hgo : (w.notePort k).forwardMarker l = w.notePort k :=
    Work.forwardMarker_of_none l (by rw [w.fld_notePort k (by decide)]; exact hfwd)
  have hlock' : (w.notePort k).locked = true := ((w.notePort_kept k).flag (by decide) 0).trans hlock
  have hcnt : (w.notePort k).beatCnt = w.beatCnt := by
    rw [Work.beatCnt, Work.beatCnt, (w.notePort_kept k).rd (by decide), (w.notePort_kept k).fld (by decide)]
  have hsame : (m.period != (w.notePort k).period) = false := by rw [w.period_notePort k, hper, bne_self_eq_false]
  simp only [Work.marker, hown, hdue, hhears, hfrom, hm, hgo, hsame, Bool.not_true, Bool.or_self, Bool.false_eq_true, if_false,
    Work.when_false, hlock', Bool.and_false, w.beatSrc_notePort k, hsrc, Nat.zero_ne_one, Work.markerNumbers, hcnt, if_true]

end

/-- A finish that is not past is noted, and nothing else (R30). -/
theorem Work.takeFin_ahead {w : Work} {crew f : Nat} (hnew : Sp.find w.beat.fin crew ≠ some f) (hahead : beatBefore w.beatFull f = true) :
    w.takeFin (crew, f) = { w with beat := { w.beat with fin := Sp.put w.beat.fin crew f } } := by
  simp only [Work.takeFin, if_neg hnew, hahead, Bool.not_true, Bool.false_and, Work.when_false]

theorem Work.beatFull_notePort (w : Work) (k : Nat) : (w.notePort k).beatFull = w.beatFull :=
  Work.beatFull_of_kept (w.notePort_kept k) (by decide) (by decide)

/-- Settles O5: the run's end, the loss of lock as one record logged and reported, and a marker by what R25 and R561 say of it. -/
theorem beatLockAndMarkers : Obligations.BeatLockAndMarkers := by
  refine ⟨⟨?runEnd, ?loss⟩, ?taken, ?discarded, ?deaf⟩
  case runEnd =>
    intro s t hb hlock hlast
    refine gives_of_run (execLockRunEnd.eq_1 s) hb ?_
    simp only [hlast, hlock, Bool.false_eq_true, if_false]
  case loss =>
    intro s hb hlock hdue hcox
    have hgives : Gives .lossOfLock s s.work.loseLock := by
      refine gives_of_run (execLossOfLock.eq_1 s) hb ?_
      simp only [hdue, hlock, Bool.and_self, if_true]
    rw [Work.loseLock_of_no_cox hcox] at hgives
    have hregs : ∀ {a}, a < linkBase 0 → a ∉ [FAULT_STATUS, FLOG_OVF_CNT] →
        s.work.lossLogged.rd a = s.work.lockLost.rd a := fun ha hl => s.work.lossLogged_rd ha hl
    refine ⟨_, hgives, ?locked, ?lost, ?count, ⟨s.work.lossRecord, s.work.lossLogged_log, rfl, rfl, ?beat⟩, rfl,
      s.work.lossLogged_mem, s.work.lossLogged_cells, s.work.lossLogged_tiles⟩
    case locked =>
      refine (Work.flag_congr (hregs (by decide) (by decide)) 0).trans ?_
      rw [Work.lockLost, Work.flag_inc_ne _ _ (by decide), Work.setBit, Work.flag_setFld _ _ _ _ _ _ (by decide), if_neg (by decide),
        Work.flag_clrBit_same _ _ _ (by decide)]
    case lost =>
      refine (Work.flag_congr (hregs (by decide) (by decide)) 1).trans ?_
      rw [Work.lockLost, Work.flag_inc_ne _ _ (by decide), Work.flag_setBit_same _ _ _ (by decide)]
    case count =>
      refine (hregs (by decide) (by decide)).trans ?_
      rw [Work.lockLost, Work.rd_inc_same, Work.rd_setBit_ne _ _ _ (by decide), Work.rd_clrBit_ne _ _ _ (by decide)]
    case beat => exact Work.beatFull_of_kept s.work.lockLost_kept (by decide) (by decide)
  case taken =>
    intro s k l m hb hown hdue hhears hfrom hm hsrc hlock hper hfwd u
    have hmarker := Work.marker_of_numbering hown hdue hhears hfrom hm hsrc hlock hper hfwd
    refine ⟨fun hwin hfins => ?none, fun crew f hwin hfins hahead hnew => ?one, fun hwin => ?outside⟩
    case none =>
      refine gives_of_run (execBeatMarker.eq_1 k l s) hb (hmarker.trans ((if_pos hwin).trans ?_))
      rw [Work.takeMarker, hfins, List.foldl_nil]
      rfl
    case one =>
      refine gives_of_run (execBeatMarker.eq_1 k l s) hb (hmarker.trans ((if_pos hwin).trans ?_))
      rw [Work.takeMarker, hfins, List.foldl_cons, List.foldl_nil]
      exact Work.takeFin_ahead (by exact hnew) ((s.work.beatFull_notePort k.val).symm ▸ hahead)
    case outside =>
      refine gives_of_run (execBeatMarker.eq_1 k l s) hb (hmarker.trans ((if_neg (by rw [hwin]; decide)).trans ?_))
      have hloss : ((s.work.notePort k.val).beat.lossDue || (s.work.notePort k.val).beat.mismatch) = s.work.beat.mismatch := by
        show (s.work.beat.lossDue || s.work.beat.mismatch) = _
        rw [hdue, Bool.false_or]
      rw [Work.badMarker, hloss]
      rfl
  case discarded =>
    intro s k l hb hown hdue hhears hfrom hm
    exact gives_of_run (execBeatMarker.eq_1 k l s) hb (Work.marker_of_discarded hown hdue hhears hfrom hm)
  case deaf =>
    intro s k l hb hdeaf
    refine gives_of_run (execBeatMarker.eq_1 k l s) hb ?_
    simp only [Work.marker, hdeaf, Bool.not_false, Bool.or_true, Bool.true_or, if_true]

end Sys2Proof.Machine
end

section
/-! ### The state that reset leaves (R490, R531) -/

namespace Sys2Proof.Machine

/-- The register of a tile at an offset of its block lies in that block (R523). -/
theorem locate_tile {c t : Nat} (hc : c < 1024) (ht : t < 16) {o : Nat} (ho : o < 0x1000) :
    locate (tileBase c t + o) = some (.tile, c * 16 + t, o) := by
  have hbase : tileBase c t = 0x10020000 + 0x40000 * c + 0x1000 * t := by unfold tileBase coreBase; omega
  have hdiv : (tileBase c t + o - 0x10000000) / 0x40000 = c := by rw [hbase]; omega
  have hmod : (tileBase c t + o - 0x10000000) % 0x40000 = 0x20000 + 0x1000 * t + o := by rw [hbase]; omega
  have hsub : 0x20000 + 0x1000 * t + o - 0x20000 = 0x1000 * t + o := by rw [Nat.add_assoc, Nat.add_sub_cancel_left]
  have htile : (0x1000 * t + o) / 0x1000 = t := by omega
  have hoff : (0x1000 * t + o) % 0x1000 = o := by omega
  unfold locate
  rw [if_neg (by omega), if_neg (by omega), if_neg (by omega), if_neg (by omega), if_pos (by omega)]
  simp only [hdiv, hmod]
  rw [if_neg (by omega), if_pos (by omega), hsub, htile, hoff]

/-- In the blocks of cores and tiles a register resets to its row's value (R531). -/
theorem regReset_of_row {a i o : Nat} {b : Blk} {r : RegRow} (hl : locate a = some (b, i, o)) (hb : b = .core ∨ b = .tile)
    (hr : (blkRows b).find? (fun r => r.covers o) = some r) : regReset a = r.reset := by
  rcases hb with rfl | rfl <;> simp only [regReset, hl, hr]

theorem regReset_COX_STATUS {c : Nat} (hc : c < 1024) : regReset (COX_STATUS c) = 0 :=
  regReset_of_row (r := ⟨0x1008, 1, 0, 0, 0, 0, 0⟩) (locate_core hc (by decide)) (.inl rfl) (by decide)
theorem regReset_RBUDGET {c t : Nat} (hc : c < 1024) (ht : t < 16) : regReset (RBUDGET c t) = 49152 :=
  regReset_of_row (r := ⟨0x8, 1, 0, 0x1ffff, 0, 0, 49152⟩) (locate_tile hc ht (by decide)) (.inr rfl) (by decide)
theorem regReset_DECK_MAP {c t : Nat} (hc : c < 1024) (ht : t < 16) : regReset (DECK_MAP c t) = 0xFAC688 :=
  regReset_of_row (r := ⟨0x10, 1, 0, 0, 0, 0, 0xFAC688⟩) (locate_tile hc ht (by decide)) (.inr rfl) (by decide)
theorem regReset_DECK_STATE {c t : Nat} (hc : c < 1024) (ht : t < 16) : regReset (DECK_STATE c t) = 0x4000 :=
  regReset_of_row (r := ⟨0x14, 1, 0, 0, 0, 0, 0x4000⟩) (locate_tile hc ht (by decide)) (.inr rfl) (by decide)

/-- A register that nothing has written reads as its reset value (R531). -/
theorem Work.rd_of_no_regs {w : Work} (h : w.regs = []) (a : Nat) : w.rd a = regReset a % 2 ^ 32 := by
  rw [Work.rd, Work.reg, h]
  exact BitVec.toNat_ofNat ..

/-- DECK_MAP as it resets gives every logical deck its own number (R69). -/
theorem bits_identity_map : ∀ k < 8, bits 0xFAC688 (3 * k) 3 = k := by decide

/-- Settles O58: nothing is written since reset, so each register named holds what its field map gives (R89, R151, R531). That the
strapped role is 00, memory empty, and a field that an image gives at its factory default, HK_CAL at 0, is the model's choice (logs 3,
13, 4 and 61). -/
theorem resetLeavesTheStatedValues : Obligations.ResetLeavesTheStatedValues := by
  have hrd : ∀ a, State.reset.work.rd a = regReset a % 2 ^ 32 := Work.rd_of_no_regs rfl
  refine ⟨fun a => rfl, rfl, rfl, reset_mem_wf, rfl, fun c hc => ?idle,
    fun c hc t ht => ⟨?budget, ?reserve, fun k hk => ?map, fun j => ⟨rfl, rfl⟩⟩, rfl⟩
  case idle => rw [Work.coxState, Work.fld, hrd, regReset_COX_STATUS hc]; rfl
  case budget => rw [hrd, regReset_RBUDGET hc ht, Nat.mod_eq_of_lt (by decide)]
  case reserve => rw [hrd, regReset_DECK_STATE hc ht, Nat.mod_eq_of_lt (by decide)]
  case map => rw [Work.phys, Work.fld, hrd, regReset_DECK_MAP hc ht, Nat.mod_eq_of_lt (by decide), bits_identity_map k hk]

end Sys2Proof.Machine
end

section
/-! ### The issue of a product (R84 to R92, R106)

What starting a product leaves as it is, and what it writes: the row array's time, the tile's queue of products, and counters and
status of the tile. -/

namespace Sys2Proof.Machine

@[simp] theorem Work.tile_setTile_same (w : Work) (c t : Nat) (x : Tile) : (w.setTile c t x).tile c t = x := Sp.get_put_same ..

/-- A field beside a bit that may be set reads as before. -/
theorem Work.fld_whenSetBit_apart (w : Work) (a : Nat) {b : Nat} (hb : b + 1 ≤ 32) (x : Bool) {l n : Nat} (h : l + n ≤ b ∨ b + 1 ≤ l) :
    (w.when x (·.setBit a b)).fld a l n = w.fld a l n := by
  cases x with
  | true => exact w.fld_setFld_apart a 1 hb h
  | false => rfl

/-- Between two states only registers of a list and tiles differ, and a tile's products in flight and session queue stand. -/
structure Work.IssueKept (c t : Nat) (l : List Nat) (w v : Work) : Prop where
  rest : v = { w with regs := v.regs, tiles := v.tiles }
  regs : RegsKept w v l
  flight : (v.tile c t).flight = (w.tile c t).flight
  queue : (v.tile c t).queue = (w.tile c t).queue

namespace Work.IssueKept

variable {c t : Nat} {l m : List Nat} {u v w : Work}

theorem refl (w : Work) : w.IssueKept c t l w := ⟨rfl, RegsKept.refl w l, rfl, rfl⟩

theorem trans (h : u.IssueKept c t l v) (k : v.IssueKept c t l w) : u.IssueKept c t l w :=
  ⟨by rw [k.rest, h.rest], h.regs.trans k.regs, k.flight.trans h.flight, k.queue.trans h.queue⟩

theorem mono (h : w.IssueKept c t l v) (hlm : l ⊆ m) : w.IssueKept c t m v := ⟨h.rest, h.regs.mono hlm, h.flight, h.queue⟩

theorem wr (h : w.IssueKept c t l v) {a : Nat} (ha : a ∈ l) (n : Nat) : w.IssueKept c t l (v.wr a n) :=
  ⟨by rw [h.rest]; rfl, h.regs.wr ha n, h.flight, h.queue⟩

theorem whenInc (h : w.IssueKept c t l v) {a : Nat} (ha : a ∈ l) (x : Bool) : w.IssueKept c t l (v.when x (·.inc a)) := by
  cases x with
  | true => exact h.wr ha _
  | false => exact h

theorem whenSetBit (h : w.IssueKept c t l v) {a : Nat} (ha : a ∈ l) (b : Nat) (x : Bool) :
    w.IssueKept c t l (v.when x (·.setBit a b)) := by
  cases x with
  | true => exact h.wr ha _
  | false => exact h

theorem setTile (h : w.IssueKept c t l v) {x : Tile} (hf : x.flight = (v.tile c t).flight) (hq : x.queue = (v.tile c t).queue) :
    w.IssueKept c t l (v.setTile c t x) := by
  have hx : (v.setTile c t x).tile c t = x := v.tile_setTile_same c t x
  exact ⟨by rw [h.rest]; rfl, h.regs, by rw [hx, hf, h.flight], by rw [hx, hq, h.queue]⟩

end Work.IssueKept

/-- A product's passes: none of a poisoned record (R88, R101). -/
def Work.drivePasses (w : Work) (c t : Nat) (rec : List Byte) (p : Product) : Nat :=
  if p.poisoned then 0 else passesOf rec (w.rowBudget c t)

/-- The start is taken under the cap and the deck selected (R66, R475). -/
def Work.driveSelected (w : Work) (c t k at_ : Nat) : Work :=
  ((w.till at_).started c t at_).selectDeck c t (w.phys c t k)

/-- Whether the product is checked is settled, and one on aged coefficients counted (R92, R123, R163). -/
def Work.driveChecked (w : Work) (c t k ph n : Nat) : Work :=
  let v := (if n ≠ 0 then w.checkOf c t k else (false, false, w)).2.2
  v.when (v.flag (CAL_DUE c t) (16 + ph)) (·.inc (AGED_ISSUE_CNT c t))

/-- A product is counted (R86, R90, R106). -/
def Work.driveCounted (w : Work) (c t n : Nat) (p : Product) : Work :=
  (((w.inc (ISSUE_CNT c t)).when (n = 0 && !p.poisoned) (·.inc (ZSKIP_CNT c t))).when (n = 2) (·.inc (SPLIT2_CNT c t))).when (n = 4)
    (·.inc (SPLIT4_CNT c t))

/-- What TILE_STATUS notes of a product: an input of −128 (R72), poison (R101). -/
def Work.driveNoted (w : Work) (c t n : Nat) (rec : List Byte) (p : Product) : Work :=
  (w.when (n ≠ 0 && rec.any (· == 128)) (·.setBit (TILE_STATUS c t) 9)).when p.poisoned (·.setBit (TILE_STATUS c t) 11)

/-- Everything that starting a product does before the product itself stands in the tile. -/
def Work.driveBegun (w : Work) (c t k at_ : Nat) (rec : List Byte) (p : Product) : Work :=
  let n := w.drivePasses c t rec p
  (((w.driveSelected c t k at_).driveChecked c t k (w.phys c t k) n).driveCounted c t n p).driveNoted c t n rec p

theorem Work.drive_eq (w : Work) (c t k at_ : Nat) (rec : List Byte) (p : Product) :
    let v := w.driveBegun c t k at_ rec p
    ∃ (q : Product) (x : Tile), w.drive c t k at_ rec p = (v.setTile c t x).busyBit c t ∧
      (x.flight = (v.tile c t).flight ++ [q] ∧ x.freeFrom = at_ + 256 * max 1 (w.drivePasses c t rec p) ∧
        x.queue = (v.tile c t).queue) ∧
      (q.for_ = p.for_ ∧ q.ldeck = k ∧ q.phys = w.phys c t k ∧ q.start = at_ ∧ q.passes = w.drivePasses c t rec p ∧
        q.sum = (rec.map absIn).sum ∧ q.xexp = p.xexp ∧ q.poisoned = p.poisoned) ∧
      q.cfg = v.live (DECK_CFG c t k) ∧ q.chk = v.live (TILE_CHK c t) := by
  refine ⟨_, _, rfl, ⟨rfl, rfl, rfl⟩, ?_, rfl, rfl⟩
  exact ⟨rfl, rfl, rfl, rfl, rfl, rfl, rfl, rfl⟩

/-! The parts of the issue, each by what it leaves. -/

theorem Work.started_kept (w : Work) (c t at_ : Nat) (l : List Nat) : w.IssueKept c t l (w.started c t at_) :=
  (IssueKept.refl w).setTile rfl rfl

theorem Work.driveSelected_kept (w : Work) (c t k at_ : Nat) :
    (w.till at_).IssueKept c t [TILE_STATUS c t] (w.driveSelected c t k at_) :=
  ((w.till at_).started_kept c t at_ _).wr (List.mem_singleton.mpr rfl) _

theorem Work.checkOf_kept (w : Work) (c t k : Nat) : w.IssueKept c t [CSUM_SKIP_CNT c t] (w.checkOf c t k).2.2 := by
  unfold Work.checkOf
  dsimp only
  split
  · exact (IssueKept.refl w).whenInc (List.mem_singleton.mpr rfl) _
  · split
    · exact (IssueKept.refl w).setTile rfl rfl
    · exact IssueKept.refl w

theorem Work.driveChecked_kept (w : Work) (c t k ph n : Nat) :
    w.IssueKept c t [CSUM_SKIP_CNT c t, AGED_ISSUE_CNT c t] (w.driveChecked c t k ph n) := by
  have hcheck : w.IssueKept c t [CSUM_SKIP_CNT c t, AGED_ISSUE_CNT c t] (if n ≠ 0 then w.checkOf c t k else (false, false, w)).2.2 := by
    split
    · exact (w.checkOf_kept c t k).mono (by simp)
    · exact IssueKept.refl w
  exact hcheck.whenInc (by simp) _

theorem Work.driveCounted_kept (w : Work) (c t n : Nat) (p : Product) :
    (w.inc (ISSUE_CNT c t)).IssueKept c t [ZSKIP_CNT c t, SPLIT2_CNT c t, SPLIT4_CNT c t] (w.driveCounted c t n p) :=
  (((IssueKept.refl _).whenInc (by simp) _).whenInc (by simp) _).whenInc (by simp) _

theorem Work.driveNoted_kept (w : Work) (c t n : Nat) (rec : List Byte) (p : Product) :
    w.IssueKept c t [TILE_STATUS c t] (w.driveNoted c t n rec p) :=
  ((IssueKept.refl w).whenSetBit (by simp) _ _).whenSetBit (by simp) _ _

/-- The registers of a tile that the issue of a product may write. -/
def issueRegs (c t : Nat) : List Nat :=
  [TILE_STATUS c t, CSUM_SKIP_CNT c t, AGED_ISSUE_CNT c t, ISSUE_CNT c t, ZSKIP_CNT c t, SPLIT2_CNT c t, SPLIT4_CNT c t]

theorem Work.driveBegun_kept (w : Work) (c t k at_ : Nat) (rec : List Byte) (p : Product) :
    (w.till at_).IssueKept c t (issueRegs c t) (w.driveBegun c t k at_ rec p) := by
  have hchecked := ((w.driveSelected_kept c t k at_).mono (m := issueRegs c t) (by simp [issueRegs])).trans
    (((w.driveSelected c t k at_).driveChecked_kept c t k (w.phys c t k) (w.drivePasses c t rec p)).mono (by simp [issueRegs]))
  have hcounted := (hchecked.wr (a := ISSUE_CNT c t) (by simp [issueRegs]) _).trans
    ((Work.driveCounted_kept _ c t (w.drivePasses c t rec p) p).mono (by simp [issueRegs]))
  exact hcounted.trans ((Work.driveNoted_kept _ c t (w.drivePasses c t rec p) rec p).mono (by simp [issueRegs]))

theorem DECK_CFG_not_mem_issueRegs (c t : Nat) {k : Nat} (hk : k < 8) : DECK_CFG c t k ∉ issueRegs c t := by
  simp only [issueRegs, List.mem_cons, List.not_mem_nil, or_false, not_or, DECK_CFG, TILE_STATUS, CSUM_SKIP_CNT, AGED_ISSUE_CNT,
    ISSUE_CNT, ZSKIP_CNT, SPLIT2_CNT, SPLIT4_CNT]
  omega

theorem TILE_CHK_not_mem_issueRegs (c t : Nat) : TILE_CHK c t ∉ issueRegs c t := by
  simp only [issueRegs, List.mem_cons, List.not_mem_nil, or_false, not_or, TILE_CHK, TILE_STATUS, CSUM_SKIP_CNT, AGED_ISSUE_CNT,
    ISSUE_CNT, ZSKIP_CNT, SPLIT2_CNT, SPLIT4_CNT]
  omega

/-- A value in force that no listed register holds is as it was. -/
theorem Work.IssueKept.live {c t : Nat} {l : List Nat} {w v : Work} (h : w.IssueKept c t l v) {a : Nat} (ha : a ∉ l) :
    v.live a = w.live a := by
  have hforce : v.force = w.force := by rw [h.rest]
  rw [Work.live, Work.live, hforce, h.regs.rd ha]

/-! ### What the issue comes to -/

section
variable (w : Work) (c t k at_ : Nat) (rec : List Byte) (p : Product)

/-- The issue changes registers and tiles, and time has come to the start. -/
theorem Work.drive_frame : w.drive c t k at_ rec p =
    { w with regs := (w.drive c t k at_ rec p).regs, tiles := (w.drive c t k at_ rec p).tiles, now := max w.now at_ } := by
  obtain ⟨q, x, hdrive, -⟩ := w.drive_eq c t k at_ rec p
  rw [hdrive, (w.driveBegun_kept c t k at_ rec p).rest]
  rfl

theorem Work.busyBit_kept : RegsKept w (w.busyBit c t) [TILE_STATUS c t] := (RegsKept.refl w _).wr (by simp) _

/-- The row array is occupied for the passes, 256 ns at the least (R84, R87). -/
theorem Work.drive_freeFrom :
    ((w.drive c t k at_ rec p).tile c t).freeFrom = at_ + 256 * max 1 (w.drivePasses c t rec p) := by
  obtain ⟨q, x, hdrive, ⟨-, hfree, -⟩, -⟩ := w.drive_eq c t k at_ rec p
  rw [hdrive]
  exact (congrArg Tile.freeFrom (Work.tile_setTile_same ..)).trans hfree

theorem Work.drive_queue : ((w.drive c t k at_ rec p).tile c t).queue = (w.tile c t).queue := by
  obtain ⟨q, x, hdrive, ⟨-, -, hqueue⟩, -⟩ := w.drive_eq c t k at_ rec p
  rw [hdrive]
  exact ((congrArg Tile.queue (Work.tile_setTile_same ..)).trans hqueue).trans (w.driveBegun_kept c t k at_ rec p).queue

/-- The product waits for conversion behind those in flight, with what it was issued with (R107). -/
theorem Work.drive_flight (hk : k < 8) : ∃ q : Product,
    ((w.drive c t k at_ rec p).tile c t).flight = (w.tile c t).flight ++ [q] ∧
      (q.for_ = p.for_ ∧ q.ldeck = k ∧ q.phys = w.phys c t k ∧ q.start = at_ ∧ q.passes = w.drivePasses c t rec p ∧
        q.sum = (rec.map absIn).sum ∧ q.xexp = p.xexp ∧ q.poisoned = p.poisoned) ∧
      q.cfg = w.live (DECK_CFG c t k) ∧ q.chk = w.live (TILE_CHK c t) := by
  have hkept := w.driveBegun_kept c t k at_ rec p
  obtain ⟨q, x, hdrive, ⟨hflight, -, -⟩, hq, hcfg, hchk⟩ := w.drive_eq c t k at_ rec p
  refine ⟨q, ?_, hq, hcfg.trans (hkept.live (DECK_CFG_not_mem_issueRegs c t hk)),
    hchk.trans (hkept.live (TILE_CHK_not_mem_issueRegs c t))⟩
  rw [hdrive]
  exact ((congrArg Tile.flight (Work.tile_setTile_same ..)).trans hflight).trans (congrArg (· ++ [q]) hkept.flight)

/-- The product is counted (R106). -/
theorem Work.drive_rd_ISSUE_CNT : (w.drive c t k at_ rec p).rd (ISSUE_CNT c t) = min (w.rd (ISSUE_CNT c t) + 1) 0xFFFFFFFF := by
  have hstatus : ISSUE_CNT c t ∉ [TILE_STATUS c t] := by simp [ISSUE_CNT, TILE_STATUS]
  obtain ⟨q, x, hdrive, -⟩ := w.drive_eq c t k at_ rec p
  rw [hdrive, (Work.busyBit_kept _ c t).rd hstatus, Work.rd_congr (Work.setTile_regs ..), Work.driveBegun,
    (Work.driveNoted_kept _ c t _ rec p).regs.rd hstatus,
    (Work.driveCounted_kept _ c t _ p).regs.rd (by simp [ISSUE_CNT, ZSKIP_CNT, SPLIT2_CNT, SPLIT4_CNT]), Work.rd_inc_same,
    (Work.driveChecked_kept _ c t k _ _).regs.rd (by simp [ISSUE_CNT, CSUM_SKIP_CNT, AGED_ISSUE_CNT]),
    (w.driveSelected_kept c t k at_).regs.rd hstatus]
  rfl

theorem Work.phys_lt : w.phys c t k < 8 := Nat.mod_lt _ (by decide)

/-- The deck that the product drives is selected (R66). -/
theorem Work.drive_fld_deck : (w.drive c t k at_ rec p).fld (TILE_STATUS c t) 3 3 = w.phys c t k := by
  have hselected : (w.driveSelected c t k at_).fld (TILE_STATUS c t) 3 3 = w.phys c t k :=
    (Work.fld_setFld_same _ _ 3 3 _ (by decide)).trans (Nat.mod_eq_of_lt (w.phys_lt c t k))
  obtain ⟨q, x, hdrive, -⟩ := w.drive_eq c t k at_ rec p
  rw [hdrive, Work.busyBit, Work.bitTo, Work.fld_setFld_apart _ _ _ (by decide) (by decide),
    Work.fld_congr (Work.rd_congr (Work.setTile_regs ..) _), Work.driveBegun, Work.driveNoted,
    Work.fld_whenSetBit_apart _ _ (by decide) _ (by decide), Work.fld_whenSetBit_apart _ _ (by decide) _ (by decide),
    (Work.driveCounted_kept _ c t _ p).regs.fld (by simp [TILE_STATUS, ZSKIP_CNT, SPLIT2_CNT, SPLIT4_CNT]),
    Work.fld_inc_ne _ _ (by simp [TILE_STATUS, ISSUE_CNT]),
    (Work.driveChecked_kept _ c t k _ _).regs.fld (by simp [TILE_STATUS, CSUM_SKIP_CNT, AGED_ISSUE_CNT]), hselected]

/-- The tile is busy (Table 2-10). -/
theorem Work.drive_flag_busy : (w.drive c t k at_ rec p).flag (TILE_STATUS c t) 0 = true := by
  obtain ⟨q, x, hdrive, ⟨hflight, -, -⟩, -⟩ := w.drive_eq c t k at_ rec p
  rw [hdrive, Work.busyBit, Work.flag_bitTo_same _ _ _ _ (by decide), Work.tile_setTile_same, hflight]
  simp

end

end Sys2Proof.Machine
end

section
/-! ### The forward engine's issue (R84, R88, R91, R99) -/

namespace Sys2Proof.Machine

section
variable {w : Work} {c t i : Nat} {r : FwdRun} {e : FwdEntry} {rec xb : List Byte} {x at_ : Nat}

/-- The product of the next vector of an entry, clean. -/
def FwdRun.product (r : FwdRun) (i : Nat) (xb : List Byte) : Product := newProduct (.train i (r.next i)) (sext 8 (leNat xb)) false

theorem Work.drivePasses_product (w : Work) (c t : Nat) (rec : List Byte) (r : FwdRun) (i : Nat) (xb : List Byte) :
    w.drivePasses c t rec (r.product i xb) = passesOf rec (w.rowBudget c t) := rfl

/-- The run once an entry has issued its next vector, its row-array part ending at a time. -/
def FwdRun.issued (r : FwdRun) (i fin : Nat) : FwdRun :=
  { r with nextVec := Sp.put r.nextVec i (r.next i + 1), rowEnd := Sp.put r.rowEnd (2 * i + r.next i % 2) fin }

theorem FwdRun.next_issued (r : FwdRun) (i fin : Nat) : (r.issued i fin).next i = r.next i + 1 := Sp.get_put_same ..

/-- The run and FWD_STATUS follow the issue of an entry's next vector. -/
def Work.runIssued (w : Work) (c : Nat) (r : FwdRun) (i fin : Nat) : Work :=
  let v := w.setFld (FWD_STATUS c) 16 16 (r.next i)
  { v with fwd := Sp.put v.fwd (fwdKey c r.slot) (r.issued i fin) }

theorem Work.runIssued_kept (w : Work) (c : Nat) (r : FwdRun) (i fin : Nat) : RegsKept w (w.runIssued c r i fin) [FWD_STATUS c] :=
  ((RegsKept.refl w _).wr (by simp) _).of_regs rfl
theorem Work.runIssued_frame (w : Work) (c : Nat) (r : FwdRun) (i fin : Nat) :
    w.runIssued c r i fin = { w with regs := (w.runIssued c r i fin).regs, fwd := (w.runIssued c r i fin).fwd } := rfl
theorem Work.tile_runIssued (w : Work) (c : Nat) (r : FwdRun) (i fin c' t : Nat) : (w.runIssued c r i fin).tile c' t = w.tile c' t := rfl
theorem Work.find_runIssued (w : Work) (c : Nat) (r : FwdRun) (i fin : Nat) :
    Sp.find (w.runIssued c r i fin).fwd (fwdKey c r.slot) = some (r.issued i fin) := Sp.find_put_same ..

/-- A tile whose chain, row array and cap allow a start at a time, and which nothing holds, drives the next record there. -/
theorem Work.issueTrain_eq
    (hpick : (w.fwdOf c).findSome? (fun q => (q.2.pick t).map (fun i => (q.2, i))) = some (r, i)) (he : r.entries[i]? = some e)
    (hwait : (if r.next i = 0 then some 0 else r.chainEnd i (r.next i - 1)) = some x)
    (hcap : w.capTime c t (max x (if r.begun t then w.driveTime c t (w.phys c t e.deck)
      else max w.now (max (w.tile c t).freeFrom (r.launch + 64)))) = some at_)
    (hheld : w.held c t = false)
    (hrec : w.localGet c (r.inBase + 1024 * (r.next i * r.rowSegs + e.rowSeg)) 1024 = some (rec, false))
    (hexp : w.localGet c (r.inExp + (r.next i * r.rowSegs + e.rowSeg)) 1 = some (xb, false)) :
    w.issueTrain c t = (w.drive c t e.deck at_ rec (r.product i xb)).runIssued c r i (at_ + 256 * max 1 (passesOf rec (w.rowBudget c t)))
    := by
  simp only [Work.issueTrain, hpick, he, hwait, Option.bind_some, hcap, hheld, Bool.false_eq_true, if_false, hrec, hexp, Bool.or_self]
  rfl

end

theorem tile_not_mem_FWD_STATUS (c t o : Nat) : tileBase c t + o ∉ [FWD_STATUS c] := by
  rw [List.mem_singleton, tileBase, FWD_STATUS]
  omega

/-- The forward engine's issue, of an entry whose deck is a deck of the tile, as R84, R86, R88, R91, R99 and R101 say it. -/
theorem leads_fwdProductIssue {s : State} {c : Fin 1024} {t : Fin 16} {r : FwdRun} {i : Nat} {e : FwdEntry} {inp xb : List Byte}
    {x at_ : Nat} (hb : s.board.alive = true) (hdeck : e.deck < 8)
    (hpick : (s.work.fwdOf c.val).findSome? (fun q => (q.2.pick t.val).map (fun i => (q.2, i))) = some (r, i))
    (he : r.entries[i]? = some e) (hwait : (if r.next i = 0 then some 0 else r.chainEnd i (r.next i - 1)) = some x) :
    let ph := s.work.phys c.val t.val e.deck
    let ready := if r.begun t.val then s.work.driveTime c.val t.val ph
                 else max s.work.now (max (s.work.tile c.val t.val).freeFrom (r.launch + 64))
    s.work.capTime c.val t.val (max x ready) = some at_ → s.work.held c.val t.val = false →
    s.work.localGet c.val (r.inBase + 1024 * (r.next i * r.rowSegs + e.rowSeg)) 1024 = some (inp, false) →
    s.work.localGet c.val (r.inExp + (r.next i * r.rowSegs + e.rowSeg)) 1 = some (xb, false) →
    let n := passesOf inp (s.work.rowBudget c.val t.val)
    Leads (.fwdProductIssue c t) s (fun w =>
      (∃ q : Product, (w.tile c.val t.val).flight = (s.work.tile c.val t.val).flight ++ [q] ∧ q.for_ = .train i (r.next i) ∧
        q.ldeck = e.deck ∧ q.phys = ph ∧ q.start = at_ ∧ q.passes = n ∧ q.sum = (inp.map absIn).sum ∧ q.xexp = sext 8 (leNat xb) ∧
        q.cfg = s.work.live (DECK_CFG c.val t.val e.deck) ∧ q.chk = s.work.live (TILE_CHK c.val t.val) ∧ q.poisoned = false) ∧
      (w.tile c.val t.val).freeFrom = at_ + 256 * max 1 n ∧
      w.rd (ISSUE_CNT c.val t.val) = min (s.work.rd (ISSUE_CNT c.val t.val) + 1) 0xFFFFFFFF ∧
      w.fld (TILE_STATUS c.val t.val) 3 3 = ph ∧ w.flag (TILE_STATUS c.val t.val) 0 = true ∧
      (∃ r' : FwdRun, Sp.find w.fwd (fwdKey c.val r.slot) = some r' ∧ r'.next i = r.next i + 1) ∧
      w.now = max s.work.now at_ ∧ w.mem = s.work.mem ∧ w.cells = s.work.cells ∧ w.coxes = s.work.coxes) := by
  intro ph ready hcap hheld hrec hexp n
  have hissue := Work.issueTrain_eq hpick he hwait hcap hheld hrec hexp
  obtain ⟨q, hflight, ⟨hfor, hldeck, hphys, hstart, hpasses, hsum, hxexp, hpoison⟩, hcfg, hchk⟩ :=
    s.work.drive_flight c.val t.val e.deck at_ inp (r.product i xb) hdeck
  have hfree := s.work.drive_freeFrom c.val t.val e.deck at_ inp (r.product i xb)
  have hcount := s.work.drive_rd_ISSUE_CNT c.val t.val e.deck at_ inp (r.product i xb)
  have hph := s.work.drive_fld_deck c.val t.val e.deck at_ inp (r.product i xb)
  have hbusy := s.work.drive_flag_busy c.val t.val e.deck at_ inp (r.product i xb)
  have hframe := s.work.drive_frame c.val t.val e.deck at_ inp (r.product i xb)
  rw [Work.drivePasses_product] at hpasses hfree
  generalize s.work.drive c.val t.val e.deck at_ inp (r.product i xb) = d at *
  have hkept := d.runIssued_kept c.val r i (at_ + 256 * max 1 n)
  refine ⟨_, gives_of_run (execFwdProductIssue.eq_1 c t s) hb hissue, ⟨q, ?_, hfor, hldeck, hphys, hstart, hpasses, hsum, hxexp, hcfg,
    hchk, hpoison⟩, ?_, ?count, ?deck, ?busy, ⟨_, Work.find_runIssued .., r.next_issued i _⟩, ?_⟩
  · rw [Work.tile_runIssued, hflight]
  · rw [Work.tile_runIssued, hfree]
  case count => exact (hkept.rd (tile_not_mem_FWD_STATUS c t 0x20)).trans hcount
  case deck => exact (hkept.fld (tile_not_mem_FWD_STATUS c t 0x4) 3 3).trans hph
  case busy => exact (hkept.flag (tile_not_mem_FWD_STATUS c t 0x4) 0).trans hbusy
  rw [Work.runIssued_frame, hframe]
  exact ⟨rfl, rfl, rfl, rfl⟩

end Sys2Proof.Machine
end

section
/-! ### Codes within the noise bound (R76, R95)

With gd the gain times the drift, positive, the bound on a code k says that 4k − off lies in an interval; the code is held to that
interval and then to the converter's range. That the bound is one of codes is the model's reading (log 113). -/

namespace Sys2Proof.Machine

theorem clampInt_bounds (i : Int) {lo hi : Int} (h : lo ≤ hi) : lo ≤ clampInt i lo hi ∧ clampInt i lo hi ≤ hi := by
  unfold clampInt
  split
  · exact ⟨le_rfl, h⟩
  · split <;> omega

/-- A number held to a range lies at an end of it, or is as it was. -/
theorem clampInt_cases (i lo hi : Int) : clampInt i lo hi = lo ∨ clampInt i lo hi = hi ∨ clampInt i lo hi = i := by
  unfold clampInt
  split
  · exact .inl rfl
  · split
    · exact .inr (.inl rfl)
    · exact .inr (.inr rfl)

/-- `k` lies in the bound of R95, cleared of its denominators: `u` codes to the unit, `x` the ideal value, `b` the bound. -/
theorem natAbs_scaled_sub_le {u x b m : Int} (hu : 0 < u) :
    ((u * m - x).natAbs : Int) ≤ b ↔ -((b - x) / u) ≤ m ∧ m ≤ (x + b) / u := by
  rw [Int.natCast_natAbs, abs_le, neg_le (b := m), Int.le_ediv_iff_mul_le hu, Int.le_ediv_iff_mul_le hu, neg_mul, mul_comm m u]
  constructor <;> rintro ⟨h1, h2⟩ <;> constructor <;> linarith

/-- The codes whose four quarter steps, less the offset, lie between two numbers. -/
theorem quarter_steps_iff (k off lo hi : Int) :
    (-((-(lo + off)) / 4) ≤ k ∧ k ≤ (hi + off) / 4) ↔ (lo ≤ 4 * k - off ∧ 4 * k - off ≤ hi) := by omega

/-- R95 of a code, its denominators cleared: |v − ideal| ≤ 2 · 2^(5+2r) + 15 S / 4,096 for v = (4k − off) 2^(33+2r) / gd. -/
def WithinNoise (ideal off gd : Int) (s r : Nat) (k : Int) : Prop :=
  (4096 * 2 ^ (33 + 2 * r) * (4 * k - off) - 4096 * ideal * gd).natAbs ≤ (8192 * 2 ^ (5 + 2 * r) + 15 * s) * gd.natAbs

theorem withinNoise_iff {ideal off gd : Int} {s r : Nat} (hgd : 0 < gd) (k : Int) :
    WithinNoise ideal off gd s r k ↔
      -(((8192 * 2 ^ (5 + 2 * r) + 15 * (s : Int)) * gd - 4096 * ideal * gd) / (4096 * 2 ^ (33 + 2 * r))) ≤ 4 * k - off ∧
        4 * k - off ≤ (4096 * ideal * gd + (8192 * 2 ^ (5 + 2 * r) + 15 * (s : Int)) * gd) / (4096 * 2 ^ (33 + 2 * r)) := by
  have hunit : (0 : Int) < 4096 * 2 ^ (33 + 2 * r) := by positivity
  rw [← natAbs_scaled_sub_le hunit, WithinNoise, ← Int.ofNat_le]
  push_cast
  rw [abs_of_pos hgd]

/-- The converter gives a code of its range: an end of it, or a code within the bound wherever some code is. -/
theorem heldCode_withinNoise {ideal off gain drift c c0 : Int} {s r : Nat} (hgd : 0 < gain * drift)
    (h0 : WithinNoise ideal off (gain * drift) s r c0) :
    let k := heldCode ideal s r off gain drift c
    k ≤ 127 ∧ -128 ≤ k ∧ (k = -128 ∨ k = 127 ∨ WithinNoise ideal off (gain * drift) s r k) := by
  intro k
  have h0 := (quarter_steps_iff _ _ _ _).mpr ((withinNoise_iff hgd c0).mp h0)
  have hk := heldCode.eq_1 ideal s r off gain drift c
  simp only [hgd.ne', if_false] at hk
  rw [show k = _ from hk]
  generalize hm : clampInt c _ _ = m
  have hin := clampInt_bounds c (h0.1.trans h0.2)
  rw [hm] at hin
  refine ⟨(clampInt_bounds m (by decide)).2, (clampInt_bounds m (by decide)).1, ?_⟩
  rcases clampInt_cases m (-128) 127 with h | h | h
  · exact .inl h
  · exact .inr (.inl h)
  · rw [h]
    exact .inr (.inr ((withinNoise_iff hgd m).mpr ((quarter_steps_iff _ _ _ _).mp hin)))

theorem getD_map_range {α : Type} (f : Nat → α) {n i : Nat} (h : i < n) (d : α) : ((List.range n).map f).getD i d = f i := by
  rw [List.getD_eq_getElem?_getD, List.getElem?_map, List.getElem?_range h, Option.map_some, Option.getD_some]

/-- The codes of each pass, every one within the noise bound of its column or at an end of the range. -/
def Product.boundCodes (p : Product) (codes : List (List Int)) : List (List Int) :=
  (List.range p.passes).map (fun q => if p.driven.getD q false then (List.range 1024).map (p.boundCode codes q) else (codes[q]?).getD [])

/-- An end of the converter's range (R76). -/
def atEnd (x : Int) : Bool := x == 127 || x == -128

/-- Whether a code of a driven pass is at an end. -/
def Product.anyEnd (p : Product) (codes : List (List Int)) : Bool :=
  (List.range p.passes).any (fun q => p.driven.getD q false && (codes.getD q []).any atEnd)

theorem Product.heldCodes_of_valid {p : Product} (codes : List (List Int)) (h : p.coefs.valid = true) :
    p.heldCodes codes = if p.anyEnd (p.boundCodes codes) then
      (List.range p.passes).map (fun q => (List.range 1024).map (fun j =>
        if atEnd (((p.boundCodes codes).getD q []).getD j 0) then ((p.boundCodes codes).getD q []).getD j 0
        else ((codes[q]?).getD []).getD j 0))
      else p.boundCodes codes := by
  simp only [Product.heldCodes, h, Bool.not_true, Bool.false_eq_true, if_false]
  rfl

theorem Product.boundCodes_driven {p : Product} (codes : List (List Int)) {q : Nat} (hq : q < p.passes)
    (hd : p.driven.getD q false = true) : (p.boundCodes codes).getD q [] = (List.range 1024).map (p.boundCode codes q) := by
  rw [Product.boundCodes, getD_map_range _ hq, if_pos hd]

theorem Product.boundCodes_driven_getD {p : Product} (codes : List (List Int)) {q j : Nat} (hq : q < p.passes)
    (hd : p.driven.getD q false = true) (hj : j < 1024) : ((p.boundCodes codes).getD q []).getD j 0 = p.boundCode codes q j := by
  rw [Product.boundCodes_driven codes hq hd, getD_map_range _ hj]

theorem Product.saturates_of_anyEnd {p : Product} {codes : List (List Int)} (csum : List Int) (h : p.anyEnd codes = true) :
    p.saturates codes csum = true := by
  obtain ⟨q, hq, hend⟩ := List.any_eq_true.mp h
  obtain ⟨hd, hcode⟩ := Bool.and_eq_true_iff.mp hend
  refine List.any_eq_true.mpr ⟨q, hq, ?_⟩
  rw [List.getD_eq_getElem?_getD] at hcode
  rw [hd, Bool.true_and, Bool.or_eq_true]
  exact .inl hcode

/-- A column held at an end keeps its end, so the product still saturates. -/
theorem Product.anyEnd_heldCodes {p : Product} {codes : List (List Int)} (hv : p.coefs.valid = true)
    (h : p.anyEnd (p.boundCodes codes) = true) : p.anyEnd (p.heldCodes codes) = true := by
  have hheld := p.heldCodes_of_valid codes hv
  rw [if_pos h] at hheld
  obtain ⟨q, hq, hend⟩ := List.any_eq_true.mp h
  obtain ⟨hd, hcode⟩ := Bool.and_eq_true_iff.mp hend
  have hlt := List.mem_range.mp hq
  rw [Product.boundCodes_driven codes hlt hd, List.any_map] at hcode
  obtain ⟨j, hj, hat⟩ := List.any_eq_true.mp hcode
  refine List.any_eq_true.mpr ⟨q, hq, ?_⟩
  rw [hd, Bool.true_and, hheld, getD_map_range _ hlt, List.any_map]
  refine List.any_eq_true.mpr ⟨j, hj, ?_⟩
  have hat' : atEnd (p.boundCode codes q j) = true := hat
  rw [Function.comp_apply, Product.boundCodes_driven_getD codes hlt hd (List.mem_range.mp hj), if_pos hat']
  exact hat'

/-- A product with valid coefficients and no code at an end is converted from codes within the bound (R95). -/
theorem Product.heldCodes_eq_boundCode {p : Product} {codes : List (List Int)} (hv : p.coefs.valid = true)
    (hs : p.saturates (p.heldCodes codes) [] = false) {q j : Nat} (hq : q < p.passes) (hd : p.driven.getD q false = true)
    (hj : j < 1024) : ((p.heldCodes codes).getD q []).getD j 0 = p.boundCode codes q j := by
  have hnone : ¬p.anyEnd (p.boundCodes codes) = true := by
    intro h
    rw [Product.saturates_of_anyEnd [] (Product.anyEnd_heldCodes hv h)] at hs
    exact absurd hs (by decide)
  rw [p.heldCodes_of_valid codes hv, if_neg hnone, Product.boundCodes_driven_getD codes hq hd hj]

end Sys2Proof.Machine
end

section
/-! ### The end of a conversion (R76 to R82, R86, R99)

A product leaves the tile; what its codes come to is counted and goes to the chain it is for. -/

namespace Sys2Proof.Machine

/-- The oldest product leaves the tile, its conversion over. -/
def Work.flightTaken (w : Work) (c t : Nat) (p : Product) (rest : List Product) : Work :=
  ((((w.till (p.start + 256 * (p.passes - 1) + 416)).setTile c t { w.tile c t with flight := rest }).busyBit c t).progress c)

/-- What a product's codes count: columns at an end of the converter's range, and partials that clamp (R76, R79). -/
def Work.codesCounted (w : Work) (c t : Nat) (p : Product) (codes : List (List Int)) (csum : List Int) : Work :=
  (w.when (p.saturates codes csum) (fun v => (v.inc (ADC_SAT_CNT c t)).setBit (TILE_STATUS c t) 7)).when
    ((List.range 1024).any (fun j => p.rawPart codes j < -32768 || 32767 < p.rawPart codes j))
    (fun v => (v.inc (PCLAMP_CNT c t)).setBit (TILE_STATUS c t) 8)

section
variable {w : Work} {c t : Nat} {p : Product} {rest : List Product}

theorem Work.productDone_zeroSkipped (hflight : (w.tile c t).flight = p :: rest) (hpoison : p.poisoned = false) (hn : p.passes = 0)
    (codes : List (List Int)) (csum : List Int) :
    w.productDone c t codes csum = (w.flightTaken c t p rest).partials c t p (some (List.replicate 1024 0)) := by
  simp only [Work.productDone, hflight, hpoison, hn, if_true, Bool.false_eq_true, if_false]
  rw [Work.flightTaken, hn]

theorem Work.productDone_driven (hflight : (w.tile c t).flight = p :: rest) (hpoison : p.poisoned = false) (hchk : p.checked = false)
    (hn : p.passes ≠ 0) (codes : List (List Int)) (csum : List Int) :
    w.productDone c t codes csum =
      let v := (w.flightTaken c t p rest).codesCounted c t p (p.heldCodes codes) csum
      v.partials c t p (some (p.correct (p.heldCodes codes) (v.pexpOf c t p))) := by
  simp only [Work.productDone, hflight, hpoison, hn, Bool.false_eq_true, if_false, Work.convert, Work.compareCsum, hchk, Bool.not_false,
    if_true]
  rfl

end

/-! What counting and leaving the tile keep. -/

theorem Work.tile_flightTaken (w : Work) (c t : Nat) (p : Product) (rest : List Product) :
    ((w.flightTaken c t p rest).tile c t).flight = rest := congrArg Tile.flight (Work.tile_setTile_same ..)

theorem Work.flightTaken_kept (w : Work) (c t : Nat) (p : Product) (rest : List Product) :
    RegsKept w (w.flightTaken c t p rest) [TILE_STATUS c t] := ((RegsKept.refl w _).wr (a := TILE_STATUS c t) (by simp) _).of_regs rfl

theorem Work.codesCounted_frame (w : Work) (c t : Nat) (p : Product) (codes : List (List Int)) (csum : List Int) :
    w.codesCounted c t p codes csum = { w with regs := (w.codesCounted c t p codes csum).regs } := by
  unfold Work.codesCounted
  generalize p.saturates codes csum = sat
  generalize (List.range 1024).any _ = clamps
  cases sat <;> cases clamps <;> rfl

theorem Work.tile_congr {v w : Work} (h : v.tiles = w.tiles) (c t : Nat) : v.tile c t = w.tile c t := by rw [Work.tile, Work.tile, h]

section
variable (w : Work) (c t : Nat) (p : Product) (codes : List (List Int)) (csum : List Int)

theorem Work.codesCounted_tiles : (w.codesCounted c t p codes csum).tiles = w.tiles := by rw [w.codesCounted_frame]
theorem Work.codesCounted_mem : (w.codesCounted c t p codes csum).mem = w.mem := by rw [w.codesCounted_frame]
theorem Work.codesCounted_cells : (w.codesCounted c t p codes csum).cells = w.cells := by rw [w.codesCounted_frame]
theorem Work.codesCounted_fwd : (w.codesCounted c t p codes csum).fwd = w.fwd := by rw [w.codesCounted_frame]

end

/-- A counter that may advance, with a bit of the status that notes it. -/
theorem Work.countNoted_same (w : Work) {a b i : Nat} (hab : a ≠ b) (hi : i < 32) (x : Bool) :
    (w.when x (fun v => (v.inc a).setBit b i)).flag b i = (w.flag b i || x) ∧
      (w.when x (fun v => (v.inc a).setBit b i)).rd a = if x then min (w.rd a + 1) 0xFFFFFFFF else w.rd a := by
  cases x with
  | true => exact ⟨by rw [Bool.or_true]; exact Work.flag_setBit_same _ _ _ hi, (Work.rd_setBit_ne _ _ _ hab).trans (w.rd_inc_same a)⟩
  | false => exact ⟨(Bool.or_false _).symm, rfl⟩

/-- Other counters and bits stand. -/
theorem Work.countNoted_ne (w : Work) {a b i d j : Nat} (hda : d ≠ a) (hij : j ≠ i) (hi : i < 32) (hab : b ≠ a) (hdb : d ≠ b) (x : Bool) :
    (w.when x (fun v => (v.inc a).setBit b i)).flag b j = w.flag b j ∧ (w.when x (fun v => (v.inc a).setBit b i)).rd d = w.rd d := by
  cases x with
  | true =>
    refine ⟨?_, (Work.rd_setBit_ne _ _ _ hdb).trans (Work.rd_inc_ne _ _ hda)⟩
    rw [Work.when_true, Work.setBit, Work.flag_setFld _ _ _ _ _ _ (by omega), if_neg (by omega), Work.flag_inc_ne _ _ hab]
  | false => exact ⟨rfl, rfl⟩

/-- Codes at an end of the range are counted and noted (R76). -/
theorem Work.codesCounted_saturation (w : Work) (c t : Nat) (p : Product) (codes : List (List Int)) (csum : List Int) :
    (w.codesCounted c t p codes csum).flag (TILE_STATUS c t) 7 = (w.flag (TILE_STATUS c t) 7 || p.saturates codes csum) ∧
      (w.codesCounted c t p codes csum).rd (ADC_SAT_CNT c t) =
        if p.saturates codes csum then min (w.rd (ADC_SAT_CNT c t) + 1) 0xFFFFFFFF else w.rd (ADC_SAT_CNT c t) := by
  obtain ⟨hflag, hcount⟩ := w.countNoted_same (a := ADC_SAT_CNT c t) (b := TILE_STATUS c t) (i := 7) (by simp [ADC_SAT_CNT, TILE_STATUS])
    (by decide) (p.saturates codes csum)
  have hclamp := Work.countNoted_ne (a := PCLAMP_CNT c t) (b := TILE_STATUS c t) (i := 8) (d := ADC_SAT_CNT c t) (j := 7)
    (w.when (p.saturates codes csum) (fun v => (v.inc (ADC_SAT_CNT c t)).setBit (TILE_STATUS c t) 7))
    (by simp [ADC_SAT_CNT, PCLAMP_CNT]) (by decide) (by decide) (by simp [TILE_STATUS, PCLAMP_CNT]) (by simp [ADC_SAT_CNT, TILE_STATUS])
    ((List.range 1024).any (fun j => p.rawPart codes j < -32768 || 32767 < p.rawPart codes j))
  exact ⟨hclamp.1.trans hflag, hclamp.2.trans hcount⟩

theorem Work.partials_nobody (w : Work) (c t : Nat) {p : Product} (h : p.for_ = .nobody) (part : Option (List Word)) :
    w.partials c t p part = w := by rw [Work.partials, h]

theorem Work.flag_flightTaken (w : Work) (c t : Nat) (p : Product) (rest : List Product) :
    (w.flightTaken c t p rest).flag (TILE_STATUS c t) 7 = w.flag (TILE_STATUS c t) 7 := by
  rw [Work.flightTaken]
  exact (Work.flag_setFld _ _ 0 1 _ 7 (by decide)).trans (if_neg (by decide))

/-- A product whose slot was aborted leaves the tile, its codes at an end of the range are counted, and nothing else follows (R76). -/
theorem leads_fwdProductDone_nobody {s : State} {c : Fin 1024} {t : Fin 16} (codes : List (List Int)) (csum : List Int) {p : Product}
    {rest : List Product} (hb : s.board.alive = true) (hflight : (s.work.tile c.val t.val).flight = p :: rest)
    (hfor : p.for_ = .nobody) (hchk : p.checked = false) (hpoison : p.poisoned = false) :
    let sat : Bool := p.passes ≠ 0 ∧ p.saturates (p.heldCodes codes) csum = true
    Leads (.fwdProductDone c t codes csum) s (fun w =>
      (w.tile c.val t.val).flight = rest ∧ w.mem = s.work.mem ∧ w.fwd = s.work.fwd ∧
      w.flag (TILE_STATUS c.val t.val) 7 = (s.work.flag (TILE_STATUS c.val t.val) 7 || sat) ∧
      w.rd (ADC_SAT_CNT c.val t.val) =
        (if sat then min (s.work.rd (ADC_SAT_CNT c.val t.val) + 1) 0xFFFFFFFF else s.work.rd (ADC_SAT_CNT c.val t.val))) := by
  intro sat
  by_cases hn : p.passes = 0
  · have hsat : sat = false := decide_eq_false (fun h => h.1 hn)
    have hdone := (Work.productDone_zeroSkipped hflight hpoison hn codes csum).trans (Work.partials_nobody _ c.val t.val hfor _)
    refine ⟨_, gives_of_run (execFwdProductDone.eq_1 c t codes csum s) hb hdone, Work.tile_flightTaken .., rfl, rfl, ?_, ?_⟩
    · rw [hsat, Bool.or_false, Work.flag_flightTaken]
    · rw [hsat, (s.work.flightTaken_kept c.val t.val p rest).rd (by simp [ADC_SAT_CNT, TILE_STATUS])]
      rfl
  · have hsat : sat = p.saturates (p.heldCodes codes) csum := by simp [sat, hn]
    have hdone := (Work.productDone_driven hflight hpoison hchk hn codes csum).trans (Work.partials_nobody _ c.val t.val hfor _)
    obtain ⟨hflag, hcount⟩ := (s.work.flightTaken c.val t.val p rest).codesCounted_saturation c.val t.val p (p.heldCodes codes) csum
    refine ⟨_, gives_of_run (execFwdProductDone.eq_1 c t codes csum s) hb hdone, ?_, Work.codesCounted_mem .., Work.codesCounted_fwd ..,
      ?_, ?_⟩
    · rw [Work.tile_congr (Work.codesCounted_tiles ..), Work.tile_flightTaken]
    · rw [hflag, Work.flag_flightTaken, hsat]
    · rw [hcount, hsat, (s.work.flightTaken_kept c.val t.val p rest).rd (by simp [ADC_SAT_CNT, TILE_STATUS])]

/-! A chain of one entry (R81, R82, R99). -/

theorem Work.localPut_scratchpad (w : Work) (c : Nat) {a : Nat} {bs : List Byte} (h : a + bs.length ≤ 2 ^ 21) (ha : a < 2 ^ 21) :
    w.localPut c a bs false = (w.store (spadBase c + a) bs).unmark (spadBase c + a) bs.length := by
  have hok : localOk a bs.length = true := by rw [localOk, decide_eq_true h, Bool.true_or]
  rw [Work.localPut, localAddr, if_pos ha]
  simp only [hok, if_true]
  rfl

theorem chainBlock_length (parts : List (List Word)) (bias : Option (List Word)) : (chainBlock parts bias).1.length = 2048 := by
  simp only [chainBlock, List.length_flatMap, toLE_length, List.map_const', List.length_map, List.length_range, List.sum_replicate,
    smul_eq_mul]

theorem Work.byte_congr {v w : Work} (h : v.mem = w.mem) (a : Nat) : v.byte a = w.byte a := by rw [Work.byte, Work.byte, h]
theorem Work.bytes_congr {v w : Work} (h : v.mem = w.mem) (a n : Nat) : v.bytes a n = w.bytes a n :=
  List.map_congr_left fun i _ => Work.byte_congr h (a + i)

theorem Work.bytes_store (w : Work) (a : Nat) (bs : List Byte) : (w.store a bs).bytes a bs.length = bs := by
  refine List.ext_getElem (by simp [Work.bytes]) (fun i hi hlt => ?_)
  simp only [Work.bytes, List.getElem_map, List.getElem_range]
  exact w.byte_store a bs i hlt

theorem chainOf_singleton (e : FwdEntry) : chainOf [e] 0 = [0] := rfl

section
variable {c v : Nat} {r : FwdRun} {e : FwdEntry} {part : List Word}

/-- The partials of its entry complete a vector of a chain of one entry: its block is written, clean. -/
theorem Work.chainPut_singleton (w : Work) (hentries : r.entries = [e]) (hblk : e.outBlk = 0) (hbias : r.biasBase = none)
    (hblks : r.outBlks = 1) (hgot : Sp.find r.got (128 * v) = some (some part)) :
    (w.chainPut c r 0 v).2 = (w.localPut c (r.outBase + v * 2048) (chainBlock [part] none).1 false).incBy (SAT_BLK_CNT c)
      (chainBlock [part] none).2 ∧
    (w.chainPut c r 0 v).1.wrote = true ∧ (w.chainPut c r 0 v).1.run.left = r.left - 1 := by
  have hall : ([some (some part)] : List (Option (Option (List Word)))).all (·.isSome) = true := rfl
  have hparts : ([some (some part)] : List (Option (Option (List Word)))).filterMap (fun g => g.join) = [part] := rfl
  simp only [Work.chainPut, hentries, chainOf_singleton, List.map_singleton, Nat.add_zero, hgot, hall, hparts, hbias, hblk, hblks,
    Bool.not_true, Bool.false_eq_true, if_false, Option.bind_none, Option.map_none, List.length_singleton, Nat.lt_irrefl, decide_false,
    Bool.or_self, List.getElem?_cons_zero, Option.map_some, Option.getD_some, Nat.mul_one, and_self]

/-- The run after the partials of its entry for a vector have reached it. -/
def FwdRun.taking (r : FwdRun) (v : Nat) (part : List Word) : FwdRun := { r with got := Sp.put r.got (128 * v) (some part) }

theorem FwdRun.taking_outBase (r : FwdRun) (v : Nat) (part : List Word) : (r.taking v part).outBase = r.outBase := rfl
theorem FwdRun.taking_left (r : FwdRun) (v : Nat) (part : List Word) : (r.taking v part).left = r.left := rfl

theorem Work.chainDone_of_left (w : Work) {s i v : Nat} {r : FwdRun} (hfind : Sp.find w.fwd (fwdKey c s) = some r)
    (hleft : (w.chainPut c r i v).1.run.left ≠ 0) :
    w.chainDone c s i v =
      let u := (w.chainPut c r i v).2.when (w.chainPut c r i v).1.full (·.inc (FWD_VEC_CNT c))
      { u with fwd := Sp.put u.fwd (fwdKey c s) (w.chainPut c r i v).1.run } := by
  simp only [Work.chainDone, hfind, hleft, decide_false, Bool.and_false, Bool.false_eq_true, if_false]

/-- While outputs are left, the block is stored and the run goes on with one output fewer. -/
theorem Work.deposit_singleton (w : Work) (hfind : Sp.find w.fwd (fwdKey c r.slot) = some r) (hentries : r.entries = [e])
    (hblk : e.outBlk = 0) (hbias : r.biasBase = none) (hblks : r.outBlks = 1) (hleft : 2 ≤ r.left)
    (hroom : r.outBase + v * 2048 + 2048 ≤ 2 ^ 21) :
    let u := w.deposit c r.slot 0 v (some part)
    u.tiles = w.tiles ∧ u.cells = w.cells ∧ u.mem = (w.store (spadBase c + (r.outBase + v * 2048)) (chainBlock [part] none).1).mem ∧
      ∃ q : FwdRun, Sp.find u.fwd (fwdKey c r.slot) = some q ∧ q.left = r.left - 1 := by
  obtain ⟨hput, -, hrun⟩ := Work.chainPut_singleton (c := c) (v := v) (r := r.taking v part)
    { w with fwd := Sp.put w.fwd (fwdKey c r.slot) (r.taking v part) } hentries hblk hbias hblks (Sp.find_put_same ..)
  rw [FwdRun.taking_outBase, Work.localPut_scratchpad _ _ (by rw [chainBlock_length]; exact hroom) (by omega)] at hput
  rw [FwdRun.taking_left] at hrun
  have hdone := Work.chainDone_of_left (s := r.slot) { w with fwd := Sp.put w.fwd (fwdKey c r.slot) (r.taking v part) }
    (Sp.find_put_same ..) (i := 0) (v := v) (by omega)
  have hdeposit : w.deposit c r.slot 0 v (some part) =
      { w with fwd := Sp.put w.fwd (fwdKey c r.slot) (r.taking v part) }.chainDone c r.slot 0 v := by
    simp only [Work.deposit, hfind]
    rfl
  rw [hdeposit, hdone]
  generalize Work.chainPut _ c _ 0 v = o at hput hrun ⊢
  have hkept : (o.2.when o.1.full (·.inc (FWD_VEC_CNT c))) = { o.2 with regs := (o.2.when o.1.full (·.inc (FWD_VEC_CNT c))).regs } := by
    cases o.1.full <;> rfl
  rw [hkept, hput]
  exact ⟨rfl, rfl, rfl, o.1.run, Sp.find_put_same .., hrun⟩

end

section
variable {w : Work} {c t v : Nat} {p : Product} {q : FwdRun} {e : FwdEntry}

/-- The run that a tile works for, where it is the only one. -/
theorem Work.find_run_of_singleton (hfwd : w.fwd = [(fwdKey c q.slot, q)]) (hslot : q.slot < 4096) (hentries : q.entries = [e])
    (htile : e.tile = t) :
    (w.fwdOf c).find? (fun r => r.2.entries.any (fun e => e.tile == t)) = some (fwdKey c q.slot, q) := by
  have hcore : fwdKey c q.slot / 4096 = c := by unfold fwdKey; omega
  simp [Work.fwdOf, hfwd, hcore, hentries, htile]

theorem Work.partials_of_singleton (hfwd : w.fwd = [(fwdKey c q.slot, q)]) (hslot : q.slot < 4096) (hentries : q.entries = [e])
    (htile : e.tile = t) (hfor : p.for_ = .train 0 v) (part : Option (List Word)) :
    w.partials c t p part = w.deposit c q.slot 0 v part := by
  simp only [Work.partials, hfor, Work.find_run_of_singleton hfwd hslot hentries htile]

theorem Work.pexpOf_of_singleton (hfwd : w.fwd = [(fwdKey c q.slot, q)]) (hslot : q.slot < 4096) (hentries : q.entries = [e])
    (htile : e.tile = t) (hfor : p.for_ = .train 0 v) : w.pexpOf c t p = q.pexp := by
  simp only [Work.pexpOf, hfor, Work.find_run_of_singleton hfwd hslot hentries htile]

end

/-- A conversion for the only chain of the only run of a core, of one entry (R77, R81, R82, R86, R99). -/
theorem leads_fwdProductDone_chain {s : State} {c : Fin 1024} {t : Fin 16} (codes : List (List Int)) (csum : List Int) {p : Product}
    {rest : List Product} {v : Nat} {q : FwdRun} {e : FwdEntry} (hb : s.board.alive = true)
    (hflight : (s.work.tile c.val t.val).flight = p :: rest) (hfor : p.for_ = .train 0 v) (hchk : p.checked = false)
    (hpoison : p.poisoned = false) (hfwd : s.work.fwd = [(fwdKey c.val q.slot, q)]) (hslot : q.slot < 4096) (hentries : q.entries = [e])
    (htile : e.tile = t.val) (hbias : q.biasBase = none) (hblks : q.outBlks = 1) (hblk : e.outBlk = 0)
    (hleft : 2 ≤ q.left) (hroom : q.outBase + v * 2048 + 2048 ≤ 2 ^ 21) :
    let x := q.pexp + p.xexp + 3 + 2 * (p.range : Int)
    let parts := if p.passes = 0 then List.replicate 1024 0
                 else (List.range 1024).map (fun j => partialF32 (clampInt (p.rawPart (p.heldCodes codes) j) (-32768) 32767) x)
    Leads (.fwdProductDone c t codes csum) s (fun w =>
      (w.tile c.val t.val).flight = rest ∧
      w.bytes (spadBase c.val + (q.outBase + v * 2048)) 2048 = (chainBlock [parts] none).1 ∧
      (∃ q' : FwdRun, Sp.find w.fwd (fwdKey c.val q.slot) = some q' ∧ q'.left = q.left - 1) ∧
      (∀ a, a < spadBase c.val + (q.outBase + v * 2048) ∨ spadBase c.val + (q.outBase + v * 2048) + 2048 ≤ a →
        w.byte a = s.work.byte a) ∧
      w.cells = s.work.cells) := by
  intro x parts
  obtain ⟨u, hu, hdone⟩ : ∃ u : Work, (u.fwd = s.work.fwd ∧ (u.tile c.val t.val).flight = rest ∧ u.mem = s.work.mem ∧
      u.cells = s.work.cells) ∧ s.work.productDone c.val t.val codes csum = u.deposit c.val q.slot 0 v (some parts) := by
    by_cases hn : p.passes = 0
    · refine ⟨s.work.flightTaken c.val t.val p rest, ⟨rfl, Work.tile_flightTaken .., rfl, rfl⟩, ?_⟩
      have hrun : (s.work.flightTaken c.val t.val p rest).fwd = _ := hfwd
      rw [Work.productDone_zeroSkipped hflight hpoison hn, Work.partials_of_singleton hrun hslot hentries htile hfor]
      simp only [parts, hn, if_true]
    · refine ⟨(s.work.flightTaken c.val t.val p rest).codesCounted c.val t.val p (p.heldCodes codes) csum,
        ⟨Work.codesCounted_fwd .., ?_, Work.codesCounted_mem .., Work.codesCounted_cells ..⟩, ?_⟩
      · rw [Work.tile_congr (Work.codesCounted_tiles ..), Work.tile_flightTaken]
      · have hrun := (Work.codesCounted_fwd (s.work.flightTaken c.val t.val p rest) c.val t.val p (p.heldCodes codes) csum).trans hfwd
        rw [Work.productDone_driven hflight hpoison hchk hn, Work.partials_of_singleton hrun hslot hentries htile hfor,
          Work.pexpOf_of_singleton hrun hslot hentries htile hfor]
        simp only [parts, hn, if_false]
        rfl
  obtain ⟨hufwd, huflight, humem, hucells⟩ := hu
  have hfind : Sp.find u.fwd (fwdKey c.val q.slot) = some q := by simp [hufwd, hfwd, Sp.find]
  obtain ⟨htiles, hcells, hmem, hrun⟩ := u.deposit_singleton (c := c.val) (v := v) (part := parts) hfind hentries hblk hbias hblks hleft
    hroom
  refine ⟨_, gives_of_run (execFwdProductDone.eq_1 c t codes csum s) hb hdone, ?_, ?_, hrun, fun a ha => ?_, hcells.trans hucells⟩
  · rw [Work.tile_congr htiles, huflight]
  · have hblock := u.bytes_store (spadBase c.val + (q.outBase + v * 2048)) (chainBlock [parts] none).1
    rw [chainBlock_length] at hblock
    rw [Work.bytes_congr hmem, hblock]
  · rw [Work.byte_congr hmem, Work.byte_store_ne _ _ _ _ (by rw [chainBlock_length]; exact ha), Work.byte_congr humem]

end Sys2Proof.Machine
end

section
/-! ### A forward entry of a deck that no descriptor names

An entry's word gives its deck three bits (Table 2-5). O8 takes any number: the DECK_CFG of a deck 205 would stand where AGED_ISSUE_CNT
stands, which the issue counts up before the product takes its configuration. Everything else that O8 says holds, and this too of the
decks of a tile: `leads_fwdProductIssue`, `leads_fwdProductDone_chain`, `leads_fwdProductDone_nobody`, `heldCode_withinNoise` and
`Product.heldCodes_eq_boundCode`. -/

namespace Sys2Proof.Machine

/-- A command gives one next state. -/
theorem Gives.unique {c : Instr} {s : State} {v w : Work} (hv : Gives c s v) (hw : Gives c s w) : v = w := by
  have h : (Host.Outcome.next { s with work := v } : Ans) = .next { s with work := w } := hv.symm.trans hw
  injection h with h
  exact congrArg State.work h

theorem DECK_CFG_of_deck_205 (c t : Nat) : DECK_CFG c t 205 = AGED_ISSUE_CNT c t := rfl

/-- The entry of tile 0 and deck 205, and a run of one vector over it. -/
def wideEntry : FwdEntry := { tile := 0, deck := 205, last := true, rowSeg := 0, outBlk := 0 }
def wideRun : FwdRun :=
  { slot := 0, vecCount := 1, inBase := 0, inExp := 4096, outBase := 8192, biasBase := none, rowSegs := 1, outBlks := 1, pexp := 0,
    entries := [wideEntry], launch := 0, left := 1 }

/-- The device after reset with that run launched, the coefficients of deck 0 of tile 0 aged. -/
def wideState : State :=
  { State.reset with work := { Work.reset with regs := [(CAL_DUE 0 0, 0x10000)], fwd := [(0, wideRun)] } }

/-- The product issued holds the count of 1 for its configuration, which read 0 before. -/
theorem wideState_issued_cfg : ((wideState.work.issueTrain 0 0).tile 0 0).flight.map (·.cfg) = [1] := by decide +kernel
theorem wideState_live_cfg : wideState.work.live (DECK_CFG 0 0 205) = 0 := by
  rw [DECK_CFG_of_deck_205]
  decide

/-- Refutes O8: at deck 205 the product's configuration is the count that its issue has just advanced, not the word that stood there
before. -/
theorem not_forwardProductsRunToTheirOutputs : ¬ Obligations.ForwardProductsRunToTheirOutputs := by
  rintro ⟨hissue, -⟩
  obtain ⟨w, hgives, ⟨q, hflight, -, -, -, -, -, -, -, hcfg, -⟩, -⟩ :=
    hissue wideState 0 0 wideRun 0 wideEntry (zeros 1024) [0] 0 64 rfl (by decide +kernel) rfl rfl (by decide +kernel) (by decide)
      (by decide +kernel) (by decide +kernel)
  have hissued : Gives (.fwdProductIssue 0 0) wideState (wideState.work.issueTrain 0 0) :=
    gives_of_run (execFwdProductIssue.eq_1 0 0 wideState) rfl rfl
  have hone : (w.tile 0 0).flight = [q] := hflight
  have hcfgs : (w.tile 0 0).flight.map (·.cfg) = [1] := hgives.unique hissued ▸ wideState_issued_cfg
  rw [hone, List.map_singleton, hcfg.trans wideState_live_cfg] at hcfgs
  exact absurd hcfgs (by decide)

end Sys2Proof.Machine
end

section
/-! ### Maps of one key, and memory beside a store -/

namespace Sys2Proof.Machine

theorem Sp.put_singleton {α : Type} (k : Nat) (x v : α) : Sp.put [(k, x)] k v = [(k, v)] := by simp [Sp.put, Sp.erase, Sp.ins]

theorem Sp.erase_singleton {α : Type} (k : Nat) (x : α) : Sp.erase [(k, x)] k = [] := by simp [Sp.erase]

theorem Sp.find_singleton {α : Type} (k : Nat) (x : α) : Sp.find [(k, x)] k = some x := by simp [Sp.find]

theorem Work.bytes_store_apart (w : Work) {a n b : Nat} {bs : List Byte} (h : a + n ≤ b) : (w.store b bs).bytes a n = w.bytes a n :=
  List.map_congr_left fun i hi => w.byte_store_ne b bs (a + i) (.inl (by have := List.mem_range.mp hi; omega))

theorem Work.num_store_apart (w : Work) {a n b : Nat} {bs : List Byte} (h : a + n ≤ b) : (w.store b bs).num a n = w.num a n := by
  rw [Work.num, Work.num, w.bytes_store_apart h]

theorem Work.num_congr {v w : Work} (h : v.mem = w.mem) (a n : Nat) : v.num a n = w.num a n := by
  rw [Work.num, Work.num, Work.bytes_congr h]

theorem Work.num_storeNum_same (w : Work) (a n v : Nat) : (w.storeNum a n v).num a n = v % 256 ^ n := by
  have hbytes : (w.storeNum a n v).bytes a n = toLE n v := by
    simpa [Work.storeNum] using w.bytes_store a (toLE n v)
  rw [Work.num, hbytes, leNat_toLE]

end Sys2Proof.Machine
end

section
/-! ### What leaves the tiles alone

Planning a row, a part and its journal entry, staging records and supplies change registers outside the tiles' blocks, memory with
its marks, and the commit state; never a tile, its registers or its cells. -/

namespace Sys2Proof.Machine

/-- An address in a tile's block (R523). -/
def InTile (a : Nat) : Prop := 0x10000000 ≤ a ∧ 0x20000 ≤ (a - 0x10000000) % 0x40000

theorem inTile_tileBase (c : Nat) {t o : Nat} (ht : t < 16) (ho : o < 0x1000) : InTile (tileBase c t + o) := by
  unfold InTile tileBase coreBase
  omega

theorem not_inTile_coreBase (c : Nat) {o : Nat} (ho : o < 0x20000) : ¬ InTile (coreBase c + o) := by
  unfold InTile coreBase
  omega

theorem not_inTile_memcBase {m o : Nat} (hm : m < 12) (ho : o < 0x10000) : ¬ InTile (memcBase m + o) := by
  unfold InTile memcBase
  omega

theorem stackOf_lt (a : Nat) : (stackOf a).1 < 12 := Nat.mod_lt _ (by decide)

/-- Between two states only registers outside the tiles, memory, its marks and the free values used up differ. -/
structure Work.StackKept (w v : Work) : Prop where
  rest : v = { w with regs := v.regs, mem := v.mem, poison := v.poison, free := v.free }
  regs : ∀ a, InTile a → v.reg a = w.reg a

namespace Work.StackKept

variable {u v w : Work}

theorem refl (w : Work) : w.StackKept w := ⟨rfl, fun _ _ => rfl⟩

theorem trans (h : u.StackKept v) (k : v.StackKept w) : u.StackKept w :=
  ⟨by rw [k.rest, h.rest], fun a ha => (k.regs a ha).trans (h.regs a ha)⟩

theorem wr (h : w.StackKept v) {a : Nat} (ha : ¬ InTile a) (n : Nat) : w.StackKept (v.wr a n) :=
  by
  refine ⟨by rw [h.rest]; rfl, fun b hb => ?_⟩
  have hne : b ≠ a := fun e => ha (e ▸ hb)
  rw [Work.reg_wr, if_neg hne, h.regs b hb]

theorem inc (h : w.StackKept v) {a : Nat} (ha : ¬ InTile a) : w.StackKept (v.inc a) := h.wr ha _

theorem foldl {α : Type} {f : Work → α → Work} (hf : ∀ (v : Work) x, v.StackKept (f v x)) (l : List α) (w : Work) :
    w.StackKept (l.foldl f w) :=
  List.foldlRecOn l f (refl w) fun v hv x _ => hv.trans (hf v x)

theorem when {f : Work → Work} (h : w.StackKept v) (hf : v.StackKept (f v)) (c : Bool) : w.StackKept (v.when c f) := by
  cases c with
  | true => exact h.trans hf
  | false => exact h

theorem put (w : Work) (a : Nat) (bs : List Byte) (p : Bool) : w.StackKept (w.put a bs p) := by
  cases p <;> exact ⟨rfl, fun _ _ => rfl⟩

end Work.StackKept

theorem not_inTile_FOLD_WAIT_CNT (c : Nat) : ¬ InTile (FOLD_WAIT_CNT c) := not_inTile_coreBase c (o := 0x1c28) (by decide)
theorem not_inTile_CMT_STATUS (c : Nat) : ¬ InTile (CMT_STATUS c) := not_inTile_coreBase c (o := 0x1c04) (by decide)
theorem not_inTile_POISON_RD_CNT (a : Nat) : ¬ InTile (POISON_RD_CNT (stackOf a).1) :=
  not_inTile_memcBase (stackOf_lt a) (o := 0x4c) (by decide)
theorem not_inTile_RMW_POISON_CNT (a : Nat) : ¬ InTile (RMW_POISON_CNT (stackOf a).1) :=
  not_inTile_memcBase (stackOf_lt a) (o := 0x50) (by decide)

theorem Work.readsStack_kept (w : Work) (a n : Nat) : w.StackKept (w.readsStack a n) := by
  unfold Work.readsStack Work.foldWait Work.poisonReads
  exact (Work.StackKept.foldl (fun v c => (Work.StackKept.refl v).inc (not_inTile_FOLD_WAIT_CNT c)) _ w).trans
    (Work.StackKept.foldl (fun v _ => (Work.StackKept.refl v).inc (not_inTile_POISON_RD_CNT _)) _ _)

theorem Work.unmapped_kept (w : Work) : w.StackKept w.unmapped :=
  ((Work.StackKept.refl w).wr (a := UNMAPPED_CNT) (by simp [InTile, UNMAPPED_CNT]) _).wr (a := STASH_STATUS)
    (by simp [InTile, STASH_STATUS]) _

theorem Work.hbmGet_kept (w : Work) (a n : Nat) : w.StackKept (w.hbmGet a n).2.2 := by
  unfold Work.hbmGet
  split
  · exact w.readsStack_kept a n
  · refine Work.StackKept.when (List.foldlRecOn (motive := fun (r : List Byte × Bool × Bool × Work) => w.StackKept r.2.2.2) _ _ (.refl w) fun r hr p _ => ?_)
      (Work.unmapped_kept _) _
    dsimp only
    split
    · exact hr.trans (Work.readsStack_kept _ _ _)
    · exact hr
    · exact hr.trans ⟨rfl, fun _ _ => rfl⟩

theorem Work.putStack_kept (w : Work) (a : Nat) (bs : List Byte) (p : Bool) : w.StackKept (w.putStack a bs p) := by
  unfold Work.putStack
  exact (Work.StackKept.foldl (fun v _ =>
    ((Work.StackKept.refl v).inc (not_inTile_POISON_RD_CNT _)).inc (not_inTile_RMW_POISON_CNT _)) _ w).trans
    (Work.StackKept.put _ a bs p)

theorem Work.hbmPut_kept (w : Work) (a : Nat) (bs : List Byte) (p : Bool) : w.StackKept (w.hbmPut a bs p) := by
  unfold Work.hbmPut
  split
  · exact w.putStack_kept a bs p
  · refine Work.StackKept.when (List.foldlRecOn (motive := fun (r : Bool × Work) => w.StackKept r.2) _ _ (.refl w) fun r hr q _ => ?_)
      (Work.unmapped_kept _) _
    split
    · exact hr.trans (Work.putStack_kept _ _ _ _)
    · exact hr
    · exact hr

/-- A plan reads the row's level map, its residuals and its masters, in this order (R115). -/
theorem Work.rowPlan_reads (w : Work) (c : Nat) (e : XferEntry) (row : Nat) (pexp : Int) (thresh : Nat) :
    (w.rowPlan c e row pexp thresh).2 =
      ((((w.hbmGet (e.level + 1024 * row) 1024).2.2.hbmGet (e.resid + 4096 * row) 4096).2.2).hbmGet (e.master + 4096 * row) 4096).2.2 := by
  simp only [Work.rowPlan]

theorem Work.rowPlan_kept (w : Work) (c : Nat) (e : XferEntry) (row : Nat) (pexp : Int) (thresh : Nat) :
    w.StackKept (w.rowPlan c e row pexp thresh).2 := by
  rw [Work.rowPlan_reads]
  exact ((w.hbmGet_kept _ _).trans (Work.hbmGet_kept _ _ _)).trans (Work.hbmGet_kept _ _ _)

/-- Between two states the commit state may differ too. -/
structure Work.TilesKept (w v : Work) : Prop where
  rest : v = { w with regs := v.regs, mem := v.mem, poison := v.poison, free := v.free, commits := v.commits }
  regs : ∀ a, InTile a → v.reg a = w.reg a

theorem Work.StackKept.tilesKept {w v : Work} (h : w.StackKept v) : w.TilesKept v := ⟨by rw [h.rest], h.regs⟩

namespace Work.TilesKept

variable {u v w : Work}

theorem refl (w : Work) : w.TilesKept w := (StackKept.refl w).tilesKept

theorem trans (h : u.TilesKept v) (k : v.TilesKept w) : u.TilesKept w :=
  ⟨by rw [k.rest, h.rest], fun a ha => (k.regs a ha).trans (h.regs a ha)⟩

theorem cells (h : w.TilesKept v) : v.cells = w.cells := by rw [h.rest]
theorem now (h : w.TilesKept v) : v.now = w.now := by rw [h.rest]
theorem tile (h : w.TilesKept v) (c t : Nat) : v.tile c t = w.tile c t := by rw [h.rest]; rfl
theorem cellRow (h : w.TilesKept v) (c t p row : Nat) : v.cellRow c t p row = w.cellRow c t p row := by
  rw [Work.cellRow, Work.cellRow, h.cells]

theorem rd (h : w.TilesKept v) {a : Nat} (ha : InTile a) : v.rd a = w.rd a := congrArg BitVec.toNat (h.regs a ha)
theorem fld (h : w.TilesKept v) {a : Nat} (ha : InTile a) (lo len : Nat) : v.fld a lo len = w.fld a lo len := Work.fld_congr (h.rd ha) lo len
theorem flag (h : w.TilesKept v) {a : Nat} (ha : InTile a) (i : Nat) : v.flag a i = w.flag a i := Work.flag_congr (h.rd ha) i

theorem live (h : w.TilesKept v) {a : Nat} (ha : InTile a) : v.live a = w.live a := by
  have hforce : v.force = w.force := by rw [h.rest]
  rw [Work.live, Work.live, hforce, h.rd ha]

theorem held (h : w.TilesKept v) (c : Nat) {t : Nat} (ht : t < 16) : v.held c t = w.held c t :=
  h.flag (inTile_tileBase c ht (by decide)) 2

theorem phys (h : w.TilesKept v) (c : Nat) {t : Nat} (ht : t < 16) (k : Nat) : v.phys c t k = w.phys c t k :=
  h.fld (inTile_tileBase c ht (by decide)) _ _

/-- The checksum divisor of a deck of the tile (R63). -/
theorem csdiv (h : w.TilesKept v) (c : Nat) {t k : Nat} (ht : t < 16) (hk : k < 8) : v.csdiv c t k = w.csdiv c t k := by
  have hin : InTile (DECK_CFG c t k) := by
    rw [DECK_CFG, Nat.add_assoc]
    exact inTile_tileBase c ht (by omega)
  rw [Work.csdiv, Work.csdiv, h.live hin]

end Work.TilesKept

end Sys2Proof.Machine
end

section
/-! ### Parts and supplies of a core (R126, R141) -/

namespace Sys2Proof.Machine

theorem Work.setCommit_same (w : Work) (c : Nat) (v : Commit) : (w.setCommit c v).commit c = v := Sp.get_put_same ..

theorem Work.commit_congr {v w : Work} (h : v.commits = w.commits) (c : Nat) : v.commit c = w.commit c := by
  rw [Work.commit, Work.commit, h]

theorem Work.showSupplies_commits (w : Work) (c : Nat) : (w.showSupplies c).commits = w.commits := rfl

/-- A part bound anew, with its journal entry, changes no tile. -/
theorem Work.setPart_kept (w : Work) (c j : Nat) (p : Part) : w.TilesKept (w.setPart c j p) :=
  ⟨rfl, (((Work.StackKept.refl _).wr (not_inTile_CMT_STATUS c) _).regs)⟩

theorem Work.setPart_commits (w : Work) (c j : Nat) (p : Part) :
    (w.setPart c j p).commits = Sp.put w.commits c { w.commit c with parts := Sp.put (w.parts c) j p } := rfl

theorem Work.find_setPart (w : Work) (c j : Nat) (p : Part) : Sp.find ((w.setPart c j p).parts c) j = some p := by
  rw [Work.parts, Work.commit, Work.setPart_commits, Sp.get_put_same, Sp.find_put_same]

/-- Taking a supply changes no tile and no part. -/
theorem Work.takeSupply_kept (w : Work) (c t : Nat) (slot : Bool) : w.TilesKept (w.takeSupply c t slot) := by
  unfold Work.takeSupply
  split
  · exact .refl w
  · exact ⟨rfl, ((Work.StackKept.refl _).wr (not_inTile_CMT_STATUS c) _).regs⟩

theorem Work.takeSupply_mem (w : Work) (c t : Nat) (slot : Bool) : (w.takeSupply c t slot).mem = w.mem := by
  unfold Work.takeSupply
  split <;> rfl

theorem Work.takeSupply_parts (w : Work) (c t : Nat) (slot : Bool) : (w.takeSupply c t slot).parts c = w.parts c := by
  unfold Work.takeSupply
  split
  · rfl
  · rw [Work.parts, Work.commit_congr (Work.showSupplies_commits ..), Work.setCommit_same]
    rfl

theorem Work.takeSupply_taken (w : Work) (c t : Nat) (slot : Bool) : ((w.takeSupply c t slot).commit c).supplies.any (·.1 == t) = true := by
  unfold Work.takeSupply
  split
  · assumption
  · refine (congrArg (fun q : Commit => q.supplies.any (·.1 == t)) (w.setCommit_same c _)).trans ?_
    simp

theorem Work.dropSupply_kept (w : Work) (c t : Nat) : w.TilesKept (w.dropSupply c t) :=
  ⟨rfl, ((Work.StackKept.refl _).wr (not_inTile_CMT_STATUS c) _).regs⟩

theorem Work.dropSupply_dropped (w : Work) (c t : Nat) : ((w.dropSupply c t).commit c).supplies.all (·.1 != t) = true := by
  refine (congrArg (fun q : Commit => q.supplies.all (·.1 != t)) (w.setCommit_same c _)).trans ?_
  simp

theorem Work.supplyDone_kept (w : Work) (c t : Nat) : w.TilesKept (w.supplyDone c t) := by
  unfold Work.supplyDone
  split
  · exact .refl w
  · exact w.dropSupply_kept c t

/-! A device with one part open. -/

/-- The only part of the device is one of a core's, at a journal entry. -/
def Work.SolePart (w : Work) (c j : Nat) (p : Part) : Prop := ∃ cm : Commit, w.commits = [(c, cm)] ∧ cm.parts = [(j, p)]

namespace Work.SolePart

variable {v w : Work} {c j t : Nat} {p : Part}

theorem congr (h : w.SolePart c j p) (e : v.commits = w.commits) : v.SolePart c j p := by rwa [SolePart, e]

theorem parts (h : w.SolePart c j p) : w.parts c = [(j, p)] := by
  obtain ⟨cm, hcommits, hparts⟩ := h
  rw [Work.parts, Work.commit, hcommits, Sp.get, Sp.find_singleton, Option.getD_some, hparts]

theorem find (h : w.SolePart c j p) : Sp.find (w.parts c) j = some p := by rw [h.parts, Sp.find_singleton]

theorem allParts (h : w.SolePart c j p) : w.allParts = [(c, j, p)] := by
  obtain ⟨cm, hcommits, hparts⟩ := h
  simp [Work.allParts, hcommits, hparts]

/-- What is bound anew beside the parts leaves the part alone. -/
theorem setCommit (h : w.SolePart c j p) {cm : Commit} (hcm : cm.parts = w.parts c) : (w.setCommit c cm).SolePart c j p := by
  obtain ⟨cm', hcommits, hparts⟩ := id h
  exact ⟨cm, by rw [Work.setCommit_commits, hcommits, Sp.put_singleton], hcm.trans h.parts⟩

theorem setPart (h : w.SolePart c j p) (q : Part) : (w.setPart c j q).SolePart c j q := by
  obtain ⟨cm, hcommits, -⟩ := id h
  exact ⟨_, by rw [Work.setPart_commits, hcommits, Sp.put_singleton], by rw [h.parts, Sp.put_singleton]⟩

theorem supplyDone (h : w.SolePart c j p) : (w.supplyDone c t).SolePart c j p := by
  unfold Work.supplyDone
  split
  · exact h
  · exact (h.setCommit (cm := { w.commit c with supplies := (w.commit c).supplies.filter (·.1 != t) }) rfl).congr rfl

theorem undoHeld (h : w.SolePart c j p) (t : Nat) :
    w.undoHeld c t = (p.state == 3 && p.foldDue && p.undo.any (fun r => r.tile == t)) := by
  have hparts : (w.commit c).parts = [(j, p)] := h.parts
  rw [Work.undoHeld, hparts, List.any_cons, List.any_nil, Bool.or_false]

/-- A group with a row left to undo, or with none of its parts in rollback, does not settle (R135, R136). -/
theorem settle (h : w.SolePart c j p) (hp : p.state = 3 → p.undo ≠ []) (g : Nat) : w.settle g = w := by
  rw [Work.settle, h.allParts]
  by_cases hin : (p.group == g && p.state == 3) = true
  · have hundone : w.undone c j p = false := by
      simp [Work.undone, hp (by simpa using (Bool.and_eq_true_iff.mp hin).2)]
    simp [hin, hundone]
  · simp [hin]

/-- A group with a row left to write is not written (R135). -/
theorem tryWritten (h : w.SolePart c j p) (hp : p.todo ≠ []) (g : Nat) : w.tryWritten g = w := by
  have hdone : w.partDone c j p = false := by simp [Work.partDone, hp]
  rw [Work.tryWritten, h.allParts]
  by_cases hin : (p.group == g && p.state == 1) = true
  · simp [hin, hdone]
  · simp [hin]

end Work.SolePart

end Sys2Proof.Machine
end

section
/-! ### The start of a unit (R120, R142, R154) -/

namespace Sys2Proof.Machine

/-- The tile as a unit that starts leaves it. -/
def Work.tileBegun (w : Work) (c t at_ : Nat) (u : TileUnit) : Tile :=
  { w.tile c t with starts := (at_ :: (w.tile c t).starts).take 8, unit := some { u with start := at_, beat := w.beatCnt },
                    unitEnd := at_ + 10000, freeFrom := at_ + 8000,
                    queue := (w.tile c t).queue.map (fun q => { q with waited := true }) }

/-- The status bits that a unit's start sets, and the deck it selects where it is no column calibration. -/
def Work.unitStatus (w : Work) (c t : Nat) (u : TileUnit) (cal : Bool) : Work :=
  let v := w.setBit (TILE_STATUS c t) 2
  let v := if cal then v.setBit (CAL_STATUS c t) 0 else v.setBit (PGM_STATUS c t) 0
  match u.kind with
  | .colOff | .colGain => v
  | _ => v.selectDeck c t u.phys

section
variable (w : Work) (c t at_ : Nat) (u : TileUnit) (cal : Bool)

theorem Work.tile_started : (w.started c t at_).tile c t = { w.tile c t with starts := (at_ :: (w.tile c t).starts).take 8 } :=
  Work.tile_setTile_same ..

theorem Work.beatCnt_congr {v w : Work} (h : v.regs = w.regs) : v.beatCnt = w.beatCnt := by
  rw [Work.beatCnt, Work.beatCnt, Work.rd_congr h, Work.fld_congr (Work.rd_congr h _)]

theorem Work.unitGo_eq :
    w.unitGo c t at_ u cal =
      ((((w.till at_).started c t at_).setTile c t (w.tileBegun c t at_ u)).unitStatus c t u cal) := by
  have htile : ((w.till at_).started c t at_).tile c t =
      { w.tile c t with starts := (at_ :: (w.tile c t).starts).take 8 } := by
    rw [Work.tile_started, Work.tile_congr (Work.till_tiles w at_)]
  have hbeat : ((w.till at_).started c t at_).beatCnt = w.beatCnt := Work.beatCnt_congr rfl
  unfold Work.unitGo Work.tileBegun
  simp only [htile, hbeat]
  rfl

/-- The status bits stand, whether the unit selects its deck or not. -/
theorem Work.unitStatus_cases {w v : Work} {cal : Bool}
    (hv : v = if cal then (w.setBit (TILE_STATUS c t) 2).setBit (CAL_STATUS c t) 0
      else (w.setBit (TILE_STATUS c t) 2).setBit (PGM_STATUS c t) 0) :
    w.unitStatus c t u cal = v ∨ w.unitStatus c t u cal = v.selectDeck c t u.phys := by
  unfold Work.unitStatus
  dsimp only
  rw [← hv]
  split
  · exact .inl rfl
  · exact .inl rfl
  · exact .inr rfl

theorem Work.unitStatus_frame : w.unitStatus c t u cal = { w with regs := (w.unitStatus c t u cal).regs } := by
  rcases Work.unitStatus_cases c t u (w := w) (cal := cal) rfl with h | h <;> rw [h] <;> cases cal <;> rfl

theorem Work.held_unitStatus : (w.unitStatus c t u cal).held c t = true := by
  have hset : (w.setBit (TILE_STATUS c t) 2).held c t = true := w.flag_setBit_same _ _ (by decide)
  have hboth : (if cal then (w.setBit (TILE_STATUS c t) 2).setBit (CAL_STATUS c t) 0
      else (w.setBit (TILE_STATUS c t) 2).setBit (PGM_STATUS c t) 0).held c t = true := by
    cases cal with
    | true => exact (Work.flag_setBit_ne _ _ _ (by simp [TILE_STATUS, CAL_STATUS]) 2).trans hset
    | false => exact (Work.flag_setBit_ne _ _ _ (by simp [TILE_STATUS, PGM_STATUS]) 2).trans hset
  rcases Work.unitStatus_cases c t u (w := w) (cal := cal) rfl with h | h <;> rw [h]
  · exact hboth
  · exact ((Work.flag_setFld _ (TILE_STATUS c t) 3 3 u.phys 2 (by decide)).trans (if_neg (by decide))).trans hboth

/-- The unit shows in PGM_STATUS (Table 3-14). -/
theorem Work.flag_unitStatus : (w.unitStatus c t u false).flag (PGM_STATUS c t) 0 = true := by
  have hset : ((w.setBit (TILE_STATUS c t) 2).setBit (PGM_STATUS c t) 0).flag (PGM_STATUS c t) 0 = true :=
    Work.flag_setBit_same _ _ _ (by decide)
  rcases Work.unitStatus_cases c t u (w := w) (cal := false) rfl with h | h <;> rw [h]
  · exact hset
  · exact (Work.flag_setFld_ne _ _ 3 3 u.phys (by simp [TILE_STATUS, PGM_STATUS]) 0).trans hset

/-- A start changes registers and tiles, and time has come to it. -/
theorem Work.unitGo_frame : w.unitGo c t at_ u cal =
    { w with regs := (w.unitGo c t at_ u cal).regs, tiles := (w.unitGo c t at_ u cal).tiles, now := max w.now at_ } := by
  rw [Work.unitGo_eq, Work.unitStatus_frame]
  rfl

theorem Work.tile_unitGo : (w.unitGo c t at_ u cal).tile c t = w.tileBegun c t at_ u := by
  rw [Work.unitGo_eq, Work.unitStatus_frame]
  exact Work.tile_setTile_same ..

theorem Work.flag_unitGo : (w.unitGo c t at_ u false).flag (PGM_STATUS c t) 0 = true := by
  rw [Work.unitGo_eq]
  exact Work.flag_unitStatus _ c t u

theorem Work.unitGo_cells : (w.unitGo c t at_ u cal).cells = w.cells := by rw [Work.unitGo_frame]
theorem Work.unitGo_mem : (w.unitGo c t at_ u cal).mem = w.mem := by rw [Work.unitGo_frame]
theorem Work.unitGo_commits : (w.unitGo c t at_ u cal).commits = w.commits := by rw [Work.unitGo_frame]

/-- A unit that starts runs on its tile and holds it (R120, R142). -/
theorem Work.unitGo_runs {P : TileUnit → Prop} (h : P { u with start := at_, beat := w.beatCnt }) :
    (w.unitGo c t at_ u cal).UnitRuns c t at_ P := by
  have hnow : (w.unitGo c t at_ u cal).now = max w.now at_ := by rw [Work.unitGo_frame]
  have hheld : (w.unitGo c t at_ u cal).held c t = true := by rw [Work.unitGo_eq]; exact Work.held_unitStatus ..
  have htile := w.tile_unitGo c t at_ u cal
  refine ⟨⟨_, congrArg Tile.unit htile, rfl, h⟩, congrArg Tile.unitEnd htile, congrArg Tile.freeFrom htile, hheld, ?_⟩
  rw [hnow]
  omega

end

end Sys2Proof.Machine
end

section
/-! ### Commit groups (R135, R136, R139, R140) -/

namespace Sys2Proof.Machine

/-- A part in rollback: its rows are to be undone, the last staged first (R135, R136). -/
def Part.rolledBack (p : Part) (beat : Nat) (abort : Bool) : Part :=
  { p with state := 3, todo := [], undo := p.staged.reverse, decided := beat, foldDue := abort }

/-- The rollback of a group whose one part has staged rows (R135). -/
theorem Work.rollbackGroup_eq {w : Work} {c j : Nat} {p : Part} (h : w.SolePart c j p) (hstate : p.state = 1 ∨ p.state = 2)
    (hstaged : p.staged ≠ []) (abort : Bool) :
    w.rollbackGroup p.group abort =
      { w with stroke := { w.stroke with rolled := insNat p.group w.stroke.rolled } }.setPart c j (p.rolledBack w.beatFull abort) := by
  have hsole : { w with stroke := { w.stroke with rolled := insNat p.group w.stroke.rolled } }.SolePart c j p := h.congr rfl
  rw [Work.rollbackGroup, hsole.allParts]
  simp only [List.foldl_cons, List.foldl_nil, beq_self_eq_true, Bool.true_and, hstate, if_true, Bool.or_eq_true,
    decide_eq_true_eq]
  exact (hsole.setPart _).settle (fun _ => by simpa [Part.rolledBack] using hstaged) p.group

theorem leads_writeEndExpire {s : State} {c : Fin 1024} {j : Nat} {p : Part} (hb : s.board.alive = true)
    (hsole : s.work.SolePart c.val j p) (hstate : p.state = 1) (hpast : beatBefore s.work.beatFull p.writeEnd = false)
    (hstaged : p.staged ≠ []) :
    Leads (.writeEndExpire p.group) s (fun w =>
      (∃ p' : Part, Sp.find (w.parts c.val) j = some p' ∧ p'.state = 3 ∧ p'.todo = [] ∧ p'.undo = p.staged.reverse ∧
        p'.decided = s.work.beatFull ∧ p'.foldDue = false) ∧ w.cells = s.work.cells ∧ w.tiles = s.work.tiles) := by
  have hexpire : (if (s.work.allParts.filter (fun q => q.2.2.group == p.group && q.2.2.state == 1)).any
      (fun q => !beatBefore s.work.beatFull q.2.2.writeEnd) then s.work.rollbackGroup p.group false else s.work) =
      s.work.rollbackGroup p.group false := if_pos (by simp [hsole.allParts, hstate, hpast])
  refine ⟨_, gives_of_run (execWriteEndExpire.eq_1 p.group s) hb
    (hexpire.trans (s.work.rollbackGroup_eq hsole (.inl hstate) hstaged false)), ?_, rfl, rfl⟩
  exact ⟨_, Work.find_setPart _ c.val j _, rfl, rfl, rfl, rfl, rfl⟩

/-- An undo unit starts where time and a supply allow (R136). -/
theorem Work.startUndo_eq {w : Work} {c t j at_ : Nat} {p : Part} {r : Staged} (hwork : w.slotWork c t = some (j, p))
    (hrow : p.undo.find? (fun r => r.tile == t) = some r) (htime : w.unitTime c t 0 = some at_) (hstate : p.state = 3)
    (hedge : w.undoTime p = true) (hsupply : w.slotSupply c t = true) :
    w.startUndo c t = (w.takeSupply c t true).unitGo c t at_
      { w.rowUnit c t r.ldeck r.row (.undo j) (w.staged c r.idx).2 (w.staged c r.idx).1 with phys := r.phys } false := by
  simp [Work.startUndo, hwork, hrow, htime, hstate, hedge, hsupply]

theorem leads_undoUnitStart {s : State} {c : Fin 1024} {t : Fin 16} {j at_ : Nat} {p : Part} {r : Staged} (hb : s.board.alive = true)
    (hwork : s.work.slotWork c.val t.val = some (j, p)) (hrow : p.undo.find? (fun r => r.tile == t.val) = some r)
    (htime : s.work.unitTime c.val t.val 0 = some at_) (hstate : p.state = 3) (hedge : s.work.undoTime p = true)
    (hsupply : s.work.slotSupply c.val t.val = true) :
    Leads (.undoUnitStart c t) s (fun w =>
      w.UnitRuns c.val t.val at_ (fun u => u.kind = .undo j ∧ u.ldeck = r.ldeck ∧ u.phys = r.phys ∧ u.row = r.row ∧
        u.target = (s.work.staged c.val r.idx).1 ++
          [csumLevel (s.work.csdiv c.val t.val r.ldeck) (s.work.staged c.val r.idx).1] ++ refLevels) ∧
      w.mem = s.work.mem ∧ w.cells = s.work.cells) := by
  refine ⟨_, gives_of_run (execUndoUnitStart.eq_1 c t s) hb (Work.startUndo_eq hwork hrow htime hstate hedge hsupply),
    Work.unitGo_runs _ _ _ _ _ _ ⟨rfl, rfl, rfl, rfl, rfl⟩, ?_, ?_⟩
  · rw [Work.unitGo_mem, Work.takeSupply_mem]
  · rw [Work.unitGo_cells, (s.work.takeSupply_kept c.val t.val true).cells]

/-- The band's step is stored and the commit counted, before the journal entry is freed (R139, R140). -/
def Work.bandCommitted (w : Work) (c : Nat) (p : Part) : Work :=
  (w.storeNum (p.layerRec + 8 + 4 * p.band) 4 p.step).inc (CMT_COMMIT_CNT c)

/-- The rows of a core wait for no fold. -/
def Work.foldOver (w : Work) (c : Nat) : Work := { w with unfolded := w.unfolded.filter (fun u => u.1 != c) }

theorem Work.foldsDone_eq {w : Work} {c j : Nat} {p : Part} (h : w.SolePart c j p) (hstate : p.state = 5) (hfold : p.foldDue = true) :
    w.foldsDone c =
      ((w.bandCommitted c p).freePart c j p).foldOver c := by
  rw [Work.foldsDone, h.parts]
  simp only [List.foldl_cons, List.foldl_nil, hfold, hstate, Bool.not_true, Bool.false_eq_true, if_false, if_true]
  rfl

/-- Journal entries lie in the scratchpads, above every address of HBM. -/
theorem Work.le_jrnlAt (w : Work) (c j : Nat) : 2 ^ 40 ≤ w.jrnlAt c j := by
  unfold Work.jrnlAt spadBase
  omega

theorem Work.parts_congr {v w : Work} (h : v.commits = w.commits) (c : Nat) : v.parts c = w.parts c := by
  rw [Work.parts, Work.parts, Work.commit_congr h]

/-- The journal entry and the staging records of a part are free (R133). -/
def Work.partFreed (w : Work) (c j : Nat) (p : Part) : Work :=
  (w.setCommit c { w.commit c with
    parts := Sp.erase (w.parts c) j
    staging := (w.commit c).staging.filter (fun i => !(p.staged.map (·.idx)).contains i) }).storeNum (w.jrnlAt c j + 2) 1 0

theorem Work.freePart_eq (w : Work) (c j : Nat) (p : Part) :
    w.freePart c j p = (w.partFreed c j p).setFld (CMT_STATUS c) 0 7 ((w.partFreed c j p).parts c).length := rfl

theorem Work.SolePart.partFreed {w : Work} {c j : Nat} {p : Part} (h : w.SolePart c j p) : (w.partFreed c j p).parts c = [] := by
  have hparts : (w.partFreed c j p).parts c = Sp.erase (w.parts c) j := congrArg Commit.parts (w.setCommit_same c _)
  rw [hparts, h.parts, Sp.erase_singleton]

theorem Work.num_bandCommitted (w : Work) (c : Nat) (p : Part) :
    (w.bandCommitted c p).num (p.layerRec + 8 + 4 * p.band) 4 = p.step % 256 ^ 4 :=
  (Work.num_congr rfl _ 4).trans (w.num_storeNum_same _ 4 p.step)

theorem Work.num_partFreed (w : Work) (c j : Nat) (p : Part) {a n : Nat} (h : a + n ≤ 2 ^ 40) : (w.partFreed c j p).num a n = w.num a n := by
  have happart : a + n ≤ w.jrnlAt c j + 2 := by
    have := w.le_jrnlAt c j
    omega
  exact (Work.num_congr rfl a n).trans (w.num_store_apart (bs := toLE 1 0) happart)

theorem Work.rd_bandCommitted (w : Work) (c : Nat) (p : Part) :
    (w.bandCommitted c p).rd (CMT_COMMIT_CNT c) = min (w.rd (CMT_COMMIT_CNT c) + 1) 0xFFFFFFFF := by
  rw [Work.bandCommitted, Work.rd_inc_same, Work.rd_congr (Work.storeNum_regs ..)]

theorem Work.rd_partFreed (w : Work) (c j : Nat) (p : Part) (a : Nat) : (w.partFreed c j p).rd a = w.rd a := Work.rd_congr rfl a

theorem Work.rd_freePart (w : Work) (c j : Nat) (p : Part) : (w.freePart c j p).rd (CMT_COMMIT_CNT c) = w.rd (CMT_COMMIT_CNT c) := by
  rw [Work.freePart_eq, Work.rd_setFld_ne _ _ _ _ _ (by simp [CMT_COMMIT_CNT, CMT_STATUS]), Work.rd_partFreed]

theorem Work.num_freePart (w : Work) (c j : Nat) (p : Part) {a n : Nat} (h : a + n ≤ 2 ^ 40) : (w.freePart c j p).num a n = w.num a n := by
  rw [Work.freePart_eq, Work.num_congr (Work.setFld_mem ..), w.num_partFreed c j p h]

/-- With no part left, OPEN reads 0 (Table 3-13). -/
theorem Work.SolePart.freePart {w : Work} {c j : Nat} {p : Part} (h : w.SolePart c j p) :
    (w.freePart c j p).parts c = [] ∧ (w.freePart c j p).fld (CMT_STATUS c) 0 7 = 0 := by
  rw [Work.freePart_eq, Work.parts_congr (Work.setFld_commits ..), Work.fld_setFld_same _ _ _ _ _ (by decide), h.partFreed]
  exact ⟨rfl, rfl⟩

theorem leads_foldComplete {s : State} {c : Fin 1024} {j : Nat} {p : Part} (hb : s.board.alive = true)
    (hsole : s.work.SolePart c.val j p) (hstate : p.state = 5) (hfold : p.foldDue = true)
    (hrec : p.layerRec + 8 + 4 * p.band + 4 ≤ 2 ^ 40) :
    Leads (.foldComplete c) s (fun w =>
      w.parts c.val = [] ∧ w.num (p.layerRec + 8 + 4 * p.band) 4 = p.step % 2 ^ 32 ∧
      w.rd (CMT_COMMIT_CNT c.val) = min (s.work.rd (CMT_COMMIT_CNT c.val) + 1) 0xFFFFFFFF ∧
      w.fld (CMT_STATUS c.val) 0 7 = 0 ∧ (∀ u ∈ w.unfolded, u.1 ≠ c.val) ∧ w.cells = s.work.cells) := by
  have hfree := (hsole.congr rfl : (s.work.bandCommitted c.val p).SolePart c.val j p).freePart
  refine ⟨_, gives_of_run (execFoldComplete.eq_1 c s) hb (Work.foldsDone_eq hsole hstate hfold), ?parts, ?step, ?count, ?open_, ?rows, rfl⟩
  case parts => exact (Work.parts_congr rfl c.val).trans hfree.1
  case step =>
    exact (Work.num_congr rfl _ 4).trans ((Work.num_freePart _ c.val j p hrec).trans (s.work.num_bandCommitted c.val p))
  case count => exact (Work.rd_congr rfl _).trans ((Work.rd_freePart _ c.val j p).trans (s.work.rd_bandCommitted c.val p))
  case open_ => exact (Work.fld_congr (Work.rd_congr rfl _) 0 7).trans hfree.2
  case rows =>
    intro u hu
    simpa using (List.mem_filter.mp hu).2

/-- Settles O11: each clause by what the group's one part comes to. -/
theorem groupsRollBackAndCommit : Obligations.GroupsRollBackAndCommit := by
  refine ⟨?_, ?_, ?_⟩
  · intro s c j p cm hb hcommits hparts hstate hpast hstaged
    exact leads_writeEndExpire hb ⟨cm, hcommits, hparts⟩ hstate hpast hstaged
  · intro s c t j p r at_ hb hwork hrow htime hstate hedge hsupply
    exact leads_undoUnitStart hb hwork hrow htime hstate hedge hsupply
  · intro s c j p cm hb hcommits hparts hstate hfold hrec
    exact leads_foldComplete hb ⟨cm, hcommits, hparts⟩ hstate hfold hrec

end Sys2Proof.Machine
end

section
/-! ### The end of a unit (R59, R120 to R123, R138, R145) -/

namespace Sys2Proof.Machine

/-- Between two states only a tile's write hold, shown, and its session queue differ (R138, R143). -/
structure Work.HoldShown (c t : Nat) (w v : Work) : Prop where
  rest : v = { w with regs := v.regs, tiles := v.tiles }
  regs : RegsKept w v [TILE_STATUS c t]
  tile : ∃ q, v.tile c t = { w.tile c t with queue := q }
  held : v.held c t = w.undoHeld c t

theorem Work.showUndoHold_shown {w : Work} {c t : Nat} (h : (w.tile c t).unit = none) : w.HoldShown c t (w.showUndoHold c t) := by
  unfold Work.showUndoHold
  cases hheld : w.undoHeld c t with
  | true =>
    dsimp only
    rw [if_neg (by simp [h]), if_pos rfl]
    exact ⟨rfl, ((RegsKept.refl w _).of_regs rfl).wr (by simp) _, ⟨_, (Work.tile_congr (Work.setBit_tiles ..) c t).trans (Work.tile_setTile_same ..)⟩,
      (Work.flag_setBit_same _ _ _ (by decide)).trans hheld.symm⟩
  | false =>
    dsimp only
    rw [if_neg (by simp [h]), if_neg (by decide)]
    exact ⟨rfl, (RegsKept.refl w _).wr (by simp) _, ⟨_, rfl⟩, (Work.flag_clrBit_same _ _ _ (by decide)).trans hheld.symm⟩

theorem Work.undoHeld_congr {v w : Work} (h : v.commits = w.commits) (c t : Nat) : v.undoHeld c t = w.undoHeld c t := by
  rw [Work.undoHeld, Work.undoHeld, Work.commit_congr h]

/-- Between two states the tile lets its unit go: its status and hold follow. -/
structure Work.UnitLet (c t : Nat) (w v : Work) : Prop where
  rest : v = { w with regs := v.regs, tiles := v.tiles }
  regs : RegsKept w v [TILE_STATUS c t, PGM_STATUS c t, CAL_STATUS c t]
  tile : ∃ q, v.tile c t = { w.tile c t with unit := none, queue := q }
  held : v.held c t = w.undoHeld c t
  failed : v.flag (PGM_STATUS c t) 6 = w.flag (PGM_STATUS c t) 6

theorem Work.unitOver_let (w : Work) (c t : Nat) : w.UnitLet c t (w.unitOver c t) := by
  have hfree : w.setTile c t { w.tile c t with unit := none } = { w with tiles := (w.setTile c t { w.tile c t with unit := none }).tiles } := rfl
  have htile : ((w.setTile c t { w.tile c t with unit := none }).releaseHold c t).tile c t = { w.tile c t with unit := none } :=
    (Work.tile_congr rfl c t).trans (Work.tile_setTile_same ..)
  have hregs : RegsKept w ((w.setTile c t { w.tile c t with unit := none }).releaseHold c t)
      [TILE_STATUS c t, PGM_STATUS c t, CAL_STATUS c t] :=
    ((((RegsKept.refl w _).of_regs rfl).wr (by simp) _).wr (by simp) _).wr (by simp) _
  have hfailed : ((w.setTile c t { w.tile c t with unit := none }).releaseHold c t).flag (PGM_STATUS c t) 6 = w.flag (PGM_STATUS c t) 6 := by
    unfold Work.releaseHold
    rw [Work.clrBit, Work.flag_setFld_ne _ _ _ _ _ (by simp [PGM_STATUS, CAL_STATUS]), Work.clrBit,
      Work.flag_setFld _ _ _ _ _ _ (by decide), if_neg (by decide), Work.clrBit,
      Work.flag_setFld_ne _ _ _ _ _ (by simp [PGM_STATUS, TILE_STATUS]), Work.flag_congr (Work.rd_congr (Work.setTile_regs ..) _)]
  obtain ⟨hrest, hkept, ⟨q, hq⟩, hheld⟩ := Work.showUndoHold_shown (c := c) (t := t) (congrArg Tile.unit htile)
  refine ⟨?_, hregs.trans (hkept.mono (by simp)), ⟨q, ?_⟩, ?_, ?_⟩
  · rw [Work.unitOver, hrest]
    rfl
  · rw [Work.unitOver, hq, htile]
  · exact hheld.trans (Work.undoHeld_congr rfl c t)
  · exact (hkept.flag (by simp [PGM_STATUS, TILE_STATUS]) 6).trans hfailed

/-- The row at its new levels, time and the row's count with it. -/
def Work.rowSet (w : Work) (c t : Nat) (u : TileUnit) (new : List Int) : Work :=
  (((w.till (u.start + 10000)).setCells c t u.phys u.row new).inc (ROWUNIT_CNT c t)).progress c

/-- Positions that failed the first read alone are counted (R121). -/
def Work.passesCounted (w : Work) (c t n : Nat) : Work := (w.incBy (VFY_RETRY_CNT c t) n).incBy TRANSIENT_CNT n

/-- Positions that failed the second read are counted and flagged (R122; undo units too, log 71). -/
def Work.failsCounted (w : Work) (c t p : Nat) (f : List (Nat × Int)) : Work :=
  w.when (!f.isEmpty) (fun v =>
    ((v.incBy (VFY_FAIL_CNT c t) f.length).incBy (DECK_VFAIL c t p) f.length).setBit (PGM_STATUS c t) 6)

/-- Positions that failed the first read and not the second. -/
def TileUnit.passed (u : TileUnit) (f1 f2 : List (Nat × Int)) : Nat :=
  ((u.failures f1).filter (fun f => !(u.failures f2).any (fun g => g.1 == f.1))).length

/-- The RESETs and partial SETs of a unit's two phases (R145). -/
def TileUnit.wear (u : TileUnit) (f1 : List (Nat × Int)) : Nat × Nat :=
  let p1 := phaseWear (u.old.zip u.target)
  let p2 := phaseWear ((u.failures f1).map (fun f => (f.2, u.target.getD f.1 0)))
  (p1.1 + p2.1, p1.2 + p2.2)

/-- The level that a unit leaves on its checksum column. -/
def TileUnit.csumLeft (u : TileUnit) (f2 : List (Nat × Int)) : Int := (measured (u.failures f2) u.target).getD 1024 0

/-- A unit's wear is added to its row (R145). -/
def Work.wearAdded (w : Work) (c t : Nat) (u : TileUnit) (f1 f2 : List (Nat × Int)) : Work :=
  w.addWear c t u.phys u.row (u.wear f1).1 (u.wear f1).2 (u.csumLeft f2)

/-- What a unit's reads leave, before the tile is free of it. -/
def Work.unitRead (w : Work) (c t : Nat) (u : TileUnit) (f1 f2 : List (Nat × Int)) : Work :=
  (((w.rowSet c t u (measured (u.failures f2) u.target)).passesCounted c t (u.passed f1 f2)).failsCounted c t u.phys
    (u.failures f2)).wearAdded c t u f1 f2

theorem Work.unitEnds_eq (w : Work) (c t : Nat) (u : TileUnit) (f1 f2 : List (Nat × Int)) :
    w.unitEnds c t u f1 f2 = (w.unitRead c t u f1 f2).unitOver c t := by
  unfold Work.unitEnds Work.unitRead Work.wearAdded Work.failsCounted Work.passesCounted Work.rowSet TileUnit.passed TileUnit.wear TileUnit.csumLeft
  dsimp only

/-- The registers that count failures of a unit's second read, where there are any. -/
def failRegs (c t p : Nat) (f : List (Nat × Int)) : List Nat := if f.isEmpty then [] else [VFY_FAIL_CNT c t, DECK_VFAIL c t p]

/-- Two numbers and bytes stored, and two registers bound, are memory and registers alone. -/
theorem Work.storeWr_frame (w : Work) (a b d x y r q r' q' m n : Nat) (bs : List Byte) :
    ((((w.storeNum a x m).storeNum b y n).store d bs).wr r q).wr r' q' = { w with
      regs := Sp.put (Sp.put w.regs r (BitVec.ofNat 32 q)) r' (BitVec.ofNat 32 q')
      mem := storeCells (storeCells (storeCells w.mem a (toLE x m)) b (toLE y n)) d bs } := rfl

theorem Work.addWear_frame (w : Work) (c t p row a b : Nat) (x : Int) : w.addWear c t p row a b x =
    { w with regs := (w.addWear c t p row a b x).regs, mem := (w.addWear c t p row a b x).mem } := by
  unfold Work.addWear
  dsimp only
  rw [Work.storeWr_frame]

theorem Work.addWear_kept (w : Work) (c t p row a b : Nat) (x : Int) :
    RegsKept w (w.addWear c t p row a b x) [DECK_WEAR_RESET c t p, DECK_WEAR_SET c t p] :=
  (((RegsKept.refl w _).of_regs rfl).wr (by simp) _).wr (by simp) _

theorem Work.wearAdded_frame (w : Work) (c t : Nat) (u : TileUnit) (f1 f2 : List (Nat × Int)) : w.wearAdded c t u f1 f2 =
    { w with regs := (w.wearAdded c t u f1 f2).regs, mem := (w.wearAdded c t u f1 f2).mem } :=
  w.addWear_frame c t u.phys u.row _ _ _

theorem Work.wearAdded_kept (w : Work) (c t : Nat) (u : TileUnit) (f1 f2 : List (Nat × Int)) :
    RegsKept w (w.wearAdded c t u f1 f2) [DECK_WEAR_RESET c t u.phys, DECK_WEAR_SET c t u.phys] :=
  w.addWear_kept c t u.phys u.row _ _ _

theorem Work.passesCounted_kept (w : Work) (c t n : Nat) : RegsKept w (w.passesCounted c t n) [VFY_RETRY_CNT c t, TRANSIENT_CNT] :=
  ((RegsKept.refl w _).wr (by simp) _).wr (by simp) _

theorem Work.rowSet_kept (w : Work) (c t : Nat) (u : TileUnit) (new : List Int) : RegsKept w (w.rowSet c t u new) [ROWUNIT_CNT c t] :=
  (((RegsKept.refl w _).of_regs rfl).wr (by simp) _).of_regs rfl

section
variable (w : Work) (c t p : Nat) (f : List (Nat × Int))

theorem Work.failsCounted_frame : w.failsCounted c t p f = { w with regs := (w.failsCounted c t p f).regs } := by
  unfold Work.failsCounted
  cases !f.isEmpty <;> rfl

theorem Work.failsCounted_kept : RegsKept w (w.failsCounted c t p f) (PGM_STATUS c t :: failRegs c t p f) := by
  unfold Work.failsCounted failRegs
  cases hf : f.isEmpty with
  | true => exact RegsKept.refl w _
  | false => exact (((RegsKept.refl w _).wr (by simp) _).wr (by simp) _).wr (by simp) _

/-- A second read's failures advance VFY_FAIL_CNT and set PGM_STATUS.VFY_FAIL (R122). -/
theorem Work.failsCounted_counts :
    (w.failsCounted c t p f).rd (VFY_FAIL_CNT c t) = min (w.rd (VFY_FAIL_CNT c t) + f.length) 0xFFFFFFFF ∧
      (w.failsCounted c t p f).flag (PGM_STATUS c t) 6 = (w.flag (PGM_STATUS c t) 6 || !f.isEmpty) := by
  have hdeck : VFY_FAIL_CNT c t ≠ DECK_VFAIL c t p := by
    unfold VFY_FAIL_CNT DECK_VFAIL
    omega
  unfold Work.failsCounted
  cases f with
  | nil =>
    have := w.rd_lt (VFY_FAIL_CNT c t)
    refine ⟨?_, (Bool.or_false _).symm⟩
    simp only [List.isEmpty_nil, Bool.not_true, Work.when_false, List.length_nil]
    omega
  | cons g gs =>
    simp only [List.isEmpty_cons, Bool.not_false, Work.when_true, Bool.or_true]
    exact ⟨by rw [Work.rd_setBit_ne _ _ _ (by simp [VFY_FAIL_CNT, PGM_STATUS]), Work.rd_incBy_ne _ _ _ hdeck, Work.rd_incBy_same],
      Work.flag_setBit_same _ _ _ (by decide)⟩

end

section
variable (w : Work) (c t : Nat) (u : TileUnit) (f1 f2 : List (Nat × Int))

theorem Work.unitRead_frame : w.unitRead c t u f1 f2 = { w with
    regs := (w.unitRead c t u f1 f2).regs, mem := (w.unitRead c t u f1 f2).mem, fault := (w.unitRead c t u f1 f2).fault,
    now := max w.now (u.start + 10000),
    cells := Sp.put w.cells (cellKey c t u.phys u.row) ((measured (u.failures f2) u.target).map heldLevel) } := by
  rw [Work.unitRead, Work.wearAdded_frame, Work.failsCounted_frame]
  rfl

/-- The registers that the reads of a unit on a physical deck may write. -/
def readRegs (c t p : Nat) (f : List (Nat × Int)) : List Nat :=
  [ROWUNIT_CNT c t, VFY_RETRY_CNT c t, TRANSIENT_CNT, PGM_STATUS c t, DECK_WEAR_RESET c t p, DECK_WEAR_SET c t p] ++ failRegs c t p f

theorem Work.unitRead_kept : RegsKept w (w.unitRead c t u f1 f2) (readRegs c t u.phys (u.failures f2)) :=
  (((w.rowSet_kept c t u _).mono (by simp [readRegs])).trans ((Work.passesCounted_kept _ c t _).mono (by simp [readRegs]))).trans
    (((Work.failsCounted_kept _ c t u.phys _).mono (by intro a; simp [readRegs]; tauto)).trans
      ((Work.wearAdded_kept _ c t u f1 f2).mono (by simp [readRegs])))

/-- TRANSIENT_CNT stands outside the tiles. -/
theorem tileBase_ne_TRANSIENT_CNT (c t o : Nat) : tileBase c t + o ≠ TRANSIENT_CNT := by
  unfold tileBase coreBase TRANSIENT_CNT
  omega

/-- The unit is counted (Table 3-14). -/
theorem Work.rd_ROWUNIT_CNT_unitRead :
    (w.unitRead c t u f1 f2).rd (ROWUNIT_CNT c t) = min (w.rd (ROWUNIT_CNT c t) + 1) 0xFFFFFFFF := by
  have hfail : ROWUNIT_CNT c t ∉ PGM_STATUS c t :: failRegs c t u.phys (u.failures f2) := by
    unfold failRegs
    split
    · simp [ROWUNIT_CNT, PGM_STATUS]
    · simp [ROWUNIT_CNT, PGM_STATUS, VFY_FAIL_CNT, DECK_VFAIL]
      omega
  have hpass : ROWUNIT_CNT c t ∉ [VFY_RETRY_CNT c t, TRANSIENT_CNT] := by
    simpa [ROWUNIT_CNT, VFY_RETRY_CNT] using tileBase_ne_TRANSIENT_CNT c t 0x210
  rw [Work.unitRead, (Work.wearAdded_kept _ c t u f1 f2).rd (by simp [ROWUNIT_CNT, DECK_WEAR_RESET, DECK_WEAR_SET]; omega),
    (Work.failsCounted_kept _ c t u.phys _).rd hfail, (Work.passesCounted_kept _ c t _).rd hpass]
  exact Work.rd_inc_same ((w.till (u.start + 10000)).setCells c t u.phys u.row (measured (u.failures f2) u.target)) _

/-- Its failures are counted and flagged (R122). -/
theorem Work.unitRead_counts :
    (w.unitRead c t u f1 f2).rd (VFY_FAIL_CNT c t) = min (w.rd (VFY_FAIL_CNT c t) + (u.failures f2).length) 0xFFFFFFFF ∧
      (w.unitRead c t u f1 f2).flag (PGM_STATUS c t) 6 = (w.flag (PGM_STATUS c t) 6 || !(u.failures f2).isEmpty) := by
  have hfails : VFY_FAIL_CNT c t ∉ [VFY_RETRY_CNT c t, TRANSIENT_CNT] := by
    simpa [VFY_FAIL_CNT, VFY_RETRY_CNT] using tileBase_ne_TRANSIENT_CNT c t 0x218
  have hstatus : PGM_STATUS c t ∉ [VFY_RETRY_CNT c t, TRANSIENT_CNT] := by
    simpa [PGM_STATUS, VFY_RETRY_CNT] using tileBase_ne_TRANSIENT_CNT c t 0x200
  obtain ⟨hcount, hflag⟩ := ((w.rowSet c t u (measured (u.failures f2) u.target)).passesCounted c t (u.passed f1 f2)).failsCounted_counts c t
    u.phys (u.failures f2)
  rw [Work.unitRead, (Work.wearAdded_kept _ c t u f1 f2).rd (by simp [VFY_FAIL_CNT, DECK_WEAR_RESET, DECK_WEAR_SET]; omega),
    (Work.wearAdded_kept _ c t u f1 f2).flag (by simp [PGM_STATUS, DECK_WEAR_RESET, DECK_WEAR_SET]; omega), hcount, hflag,
    (Work.passesCounted_kept _ c t _).rd hfails, (Work.passesCounted_kept _ c t _).flag hstatus,
    (w.rowSet_kept c t u _).rd (by simp [VFY_FAIL_CNT, ROWUNIT_CNT]), (w.rowSet_kept c t u _).flag (by simp [PGM_STATUS, ROWUNIT_CNT])]
  exact ⟨rfl, rfl⟩

end

/-- The registers that the end of a unit on a physical deck may write. -/
def unitRegs (c t p : Nat) (f : List (Nat × Int)) : List Nat := [TILE_STATUS c t, CAL_STATUS c t] ++ readRegs c t p f

/-- Between two states a unit on a tile has ended, with failures of its second read. -/
structure Work.UnitEnded (c t : Nat) (u : TileUnit) (f : List (Nat × Int)) (w v : Work) : Prop where
  rest : v = { w with
    regs := v.regs, mem := v.mem, fault := v.fault, tiles := v.tiles, now := max w.now (u.start + 10000),
    cells := Sp.put w.cells (cellKey c t u.phys u.row) ((measured f u.target).map heldLevel) }
  regs : RegsKept w v (unitRegs c t u.phys f)
  tile : ∃ q, v.tile c t = { w.tile c t with unit := none, queue := q }
  held : v.held c t = w.undoHeld c t
  rows : v.rd (ROWUNIT_CNT c t) = min (w.rd (ROWUNIT_CNT c t) + 1) 0xFFFFFFFF
  fails : v.rd (VFY_FAIL_CNT c t) = min (w.rd (VFY_FAIL_CNT c t) + f.length) 0xFFFFFFFF
  failed : v.flag (PGM_STATUS c t) 6 = (w.flag (PGM_STATUS c t) 6 || !f.isEmpty)

theorem Work.unitEnds_ended (w : Work) (c t : Nat) (u : TileUnit) (f1 f2 : List (Nat × Int)) :
    w.UnitEnded c t u (u.failures f2) (w.unitEnds c t u f1 f2) := by
  have hframe := w.unitRead_frame c t u f1 f2
  have hregs := w.unitRead_kept c t u f1 f2
  have hrows := w.rd_ROWUNIT_CNT_unitRead c t u f1 f2
  obtain ⟨hfails, hfailed⟩ := w.unitRead_counts c t u f1 f2
  rw [Work.unitEnds_eq]
  generalize w.unitRead c t u f1 f2 = v at *
  have htile : v.tile c t = w.tile c t := Work.tile_congr (by rw [hframe]) c t
  have hcommits : v.commits = w.commits := by rw [hframe]
  obtain ⟨hrest, hkept, ⟨q, hq⟩, hheld, hbit⟩ := v.unitOver_let c t
  generalize v.unitOver c t = v' at *
  refine ⟨?_, ?_, ⟨q, ?_⟩, ?_, ?_, ?_, ?_⟩
  · rw [hrest, hframe]
  · exact (hregs.mono (by intro a; simp [unitRegs]; tauto)).trans (hkept.mono (by simp [unitRegs, readRegs]))
  · rw [hq, htile]
  · rw [hheld, Work.undoHeld_congr hcommits]
  · rw [hkept.rd (by simp [ROWUNIT_CNT, TILE_STATUS, PGM_STATUS, CAL_STATUS]), hrows]
  · rw [hkept.rd (by simp [VFY_FAIL_CNT, TILE_STATUS, PGM_STATUS, CAL_STATUS]), hfails]
  · rw [hbit, hfailed]

end Sys2Proof.Machine
end

section
/-! ### What the end of a unit leaves in its row (R59, R120 to R123) -/

namespace Sys2Proof.Machine

/-- A position of a row holds the level measured where it failed, else its planned one. -/
theorem getD_map_measured (f : List (Nat × Int)) (target : List Int) {j : Nat} (hj : j < target.length) :
    ((measured f target).map heldLevel).getD j 0 =
      heldLevel (match f.find? (fun g => g.1 == j) with | some g => g.2 | none => target.getD j 0) := by
  have hrow : ((measured f target).map heldLevel).getD j 0 = heldLevel (((f.find? (fun g => g.1 == j)).map (·.2)).getD target[j]) := by
    simp [measured, overlay, hj]
  rw [hrow, List.getD_eq_getElem _ _ hj]
  cases f.find? (fun g => g.1 == j) <;> rfl

theorem measured_nil (target : List Int) : measured [] target = target := by
  simp [measured, overlay]

theorem TileUnit.failures_nil (u : TileUnit) : u.failures [] = [] := rfl

/-- A unit whose reads found nothing. -/
def TileUnit.Clean (u : TileUnit) : Prop := u.found = none ∨ u.found = some ([], [])

theorem TileUnit.Clean.result {u : TileUnit} (h : u.Clean) : u.result [] [] = ([], []) := by
  rcases h with h | h <;> rw [TileUnit.result, h] <;> rfl

namespace Work.UnitEnded

variable {c t : Nat} {u : TileUnit} {f : List (Nat × Int)} {w v : Work}

theorem cells (h : w.UnitEnded c t u f v) : v.cells = Sp.put w.cells (cellKey c t u.phys u.row) ((measured f u.target).map heldLevel) := by
  rw [h.rest]

theorem cellRow (h : w.UnitEnded c t u f v) : v.cellRow c t u.phys u.row = (measured f u.target).map heldLevel := by
  rw [Work.cellRow, h.cells, Sp.get_put_same]

theorem now (h : w.UnitEnded c t u f v) : v.now = max w.now (u.start + 10000) := by rw [h.rest]
theorem commits (h : w.UnitEnded c t u f v) : v.commits = w.commits := by rw [h.rest]
theorem force (h : w.UnitEnded c t u f v) : v.force = w.force := by rw [h.rest]

theorem unit (h : w.UnitEnded c t u f v) : (v.tile c t).unit = none := by
  obtain ⟨q, hq⟩ := h.tile
  rw [hq]

/-- A row at its planned levels. -/
theorem cellRow_clean (h : w.UnitEnded c t u [] v) : v.cellRow c t u.phys u.row = u.target.map heldLevel := by
  rw [h.cellRow, measured_nil]

end Work.UnitEnded

theorem Work.unitEnds_clean (w : Work) (c t : Nat) (u : TileUnit) : w.UnitEnded c t u [] (w.unitEnds c t u [] []) :=
  w.unitEnds_ended c t u [] []

theorem Work.staleIf_clean (w : Work) (c t : Nat) (u : TileUnit) : w.staleIf c t u [] = w := rfl

/-- The end of a unit that runs on a tile, of a kind that the command takes. -/
theorem Work.onUnit_eq {w v : Work} {c t : Nat} {u : TileUnit} {f : TileUnit → Option Work} (hunit : (w.tile c t).unit = some u)
    (hf : f u = some v) : w.onUnit c t f = v := by rw [Work.onUnit, hunit]; simp only [hf, Option.getD_some]

/-- R59, R120 to R123, R138, R145: the end of any unit, whatever it read. -/
theorem Work.unitEnds_leaves (w : Work) (c t : Nat) (u : TileUnit) (f1 f2 : List (Nat × Int)) :
    let v := w.unitEnds c t u f1 f2
    let f := u.failures f2
    (∀ j < u.target.length, (v.cellRow c t u.phys u.row).getD j 0 =
      heldLevel (match f.find? (fun g => g.1 == j) with | some g => g.2 | none => u.target.getD j 0)) ∧
    (∀ k, k ≠ cellKey c t u.phys u.row → Sp.find v.cells k = Sp.find w.cells k) ∧
    v.rd (VFY_FAIL_CNT c t) = min (w.rd (VFY_FAIL_CNT c t) + f.length) 0xFFFFFFFF ∧
    v.flag (PGM_STATUS c t) 6 = (w.flag (PGM_STATUS c t) 6 || !f.isEmpty) ∧
    (v.tile c t).unit = none ∧ v.held c t = w.undoHeld c t := by
  intro v f
  have h : w.UnitEnded c t u f v := w.unitEnds_ended c t u f1 f2
  refine ⟨fun j hj => ?_, fun k hk => ?_, h.fails, h.failed, h.unit, h.held⟩
  · rw [h.cellRow]
    exact getD_map_measured f u.target hj
  · rw [h.cells, Sp.find_put_ne _ _ _ hk]

end Sys2Proof.Machine
end

section
/-! ### Row write units (R117, R119, R131 to R133, R142) -/

namespace Sys2Proof.Machine

/-- A part with a staged row more; one in rollback has it to undo too (R133). -/
def Part.rowStaged (p : Part) (r : Staged) : Part :=
  { p with staged := p.staged ++ [r], undo := if p.state = 3 then r :: p.undo else p.undo }

theorem Work.SolePart.stage {w : Work} {c j : Nat} {p : Part} (h : w.SolePart c j p) (idx t k ph row flags : Nat) (old new : List Int) :
    (w.stage c idx t k ph row flags old new).SolePart c j p := by
  unfold Work.stage
  refine (h.setCommit (cm := { w.commit c with staging := insNat idx (w.commit c).staging }) rfl).congr ?_
  rw [(Work.hbmPut_kept _ _ _ _).rest]

theorem Work.stage_kept (w : Work) (c idx t k ph row flags : Nat) (old new : List Int) :
    w.TilesKept (w.stage c idx t k ph row flags old new) := by
  unfold Work.stage
  exact (⟨rfl, fun _ _ => rfl⟩ : w.TilesKept (w.setCommit c _)).trans (Work.hbmPut_kept _ _ _ _).tilesKept

/-- The staging record of a row written with no failure, and the part that holds it. -/
def Work.rowKept (w : Work) (c t j : Nat) (u : TileUnit) (p : Part) : Work :=
  (w.stage c (w.stageNext c) t u.ldeck u.phys u.row 0 u.old (measured [] u.target)).setPart c j
    (p.rowStaged { idx := w.stageNext c, tile := t, ldeck := u.ldeck, phys := u.phys, row := u.row })

theorem Work.rowKept_kept (w : Work) (c t j : Nat) (u : TileUnit) (p : Part) : w.TilesKept (w.rowKept c t j u p) :=
  (w.stage_kept c _ t _ _ _ _ _ _).trans (Work.setPart_kept _ c j _)

/-- A row write unit with no failure, of a part with rows left to write, leaves one staged row more (R133). -/
theorem Work.rowDone_eq {w : Work} {c t j : Nat} {u : TileUnit} {p : Part} (h : w.SolePart c j p) (hstate : p.state ≠ 3)
    (htodo : p.todo ≠ []) :
    w.rowDone c t j u [] [] = ((w.unitEnds c t u [] []).rowKept c t j u p).supplyDone c t := by
  have hended : (w.unitEnds c t u [] []).SolePart c j p := h.congr (w.unitEnds_clean c t u).commits
  have hpart := ((hended.stage ((w.unitEnds c t u [] []).stageNext c) t u.ldeck u.phys u.row 0 u.old (measured [] u.target)).setPart
    (p.rowStaged { idx := (w.unitEnds c t u [] []).stageNext c, tile := t, ldeck := u.ldeck, phys := u.phys, row := u.row })).supplyDone
    (t := t)
  unfold Work.rowDone
  simp only [Work.staleIf_clean, hended.find]
  refine Eq.trans ?_ ((congrArg (·.settle p.group) (hpart.tryWritten htodo p.group)).trans (hpart.settle (fun e => absurd e hstate) _))
  rfl

theorem leads_rowWriteUnitDone {s : State} {c : Fin 1024} {t : Fin 16} {j : Nat} {u : TileUnit} {p : Part} (hb : s.board.alive = true)
    (hunit : (s.work.tile c.val t.val).unit = some u) (hkind : u.kind = .row j) (hclean : u.Clean)
    (hsole : s.work.SolePart c.val j p) (hstate : p.state = 1) (htodo : p.todo ≠ []) :
    Leads (.rowWriteUnitDone c t [] []) s (fun w =>
      w.cellRow c.val t.val u.phys u.row = u.target.map heldLevel ∧
      w.rd (ROWUNIT_CNT c.val t.val) = min (s.work.rd (ROWUNIT_CNT c.val t.val) + 1) 0xFFFFFFFF ∧
      (w.tile c.val t.val).unit = none ∧ w.held c.val t.val = false ∧ w.now = max s.work.now (u.start + 10000) ∧
      (∃ p' : Part, Sp.find (w.parts c.val) j = some p' ∧ p'.state = 1 ∧ p'.todo = p.todo ∧
        p'.staged = p.staged ++ [Staged.mk (s.work.stageNext c.val) t.val u.ldeck u.phys u.row])) := by
  have hended := s.work.unitEnds_clean c.val t.val u
  have hsole' : (s.work.unitEnds c.val t.val u [] []).SolePart c.val j p := hsole.congr hended.commits
  have hnext : (s.work.unitEnds c.val t.val u [] []).stageNext c.val = s.work.stageNext c.val := by
    rw [Work.stageNext, Work.stageNext, Work.commit_congr hended.commits]
  have hdone := Work.rowDone_eq (t := t.val) (u := u) hsole (by omega) htodo
  have hheld : s.work.undoHeld c.val t.val = false := by simp [hsole.undoHeld, hstate]
  generalize s.work.unitEnds c.val t.val u [] [] = v at *
  have hkept := (v.rowKept_kept c.val t.val j u p).trans (Work.supplyDone_kept _ c.val t.val)
  have hpart := ((hsole'.stage (v.stageNext c.val) t.val u.ldeck u.phys u.row 0 u.old (measured [] u.target)).setPart
    (p.rowStaged { idx := v.stageNext c.val, tile := t.val, ldeck := u.ldeck, phys := u.phys, row := u.row })).supplyDone (t := t.val)
  refine ⟨(v.rowKept c.val t.val j u p).supplyDone c.val t.val, gives_of_run (execRowWriteUnitDone.eq_1 c t [] [] s) hb
    (Work.onUnit_eq hunit ?run), ?_, ?_, ?_, ?_, ?_, _, hpart.find, hstate, rfl, ?_⟩
  case run => simp only [hkind, hclean.result, hdone]
  · rw [hkept.cellRow, hended.cellRow_clean]
  · exact (hkept.rd (inTile_tileBase c.val t.isLt (o := 0x210) (by decide))).trans hended.rows
  · rw [hkept.tile, hended.unit]
  · rw [hkept.held c.val t.isLt, hended.held, hheld]
  · rw [hkept.now, hended.now]
  · rw [hnext]
    rfl

/-- A tile starts its next row of a part (R131, R132). -/
theorem Work.startRow_eq {w : Work} {c t j at_ : Nat} {p : Part} {r : Nat × Nat × Nat} {e : XferEntry}
    (hwork : w.slotWork c t = some (j, p)) (hrow : p.todo.find? (fun r => r.1 == t) = some r)
    (htime : w.unitTime c t (p.launch + 2000) = some at_) (hstate : p.state = 1) (hend : at_ + 10000 ≤ w.edgeNs p.writeEnd)
    (hstage : w.stageFree c = true) (hheld : w.held c t = false) (hsupply : w.slotSupply c t = true)
    (he : p.entries[r.2.1]? = some e) (hpoison : (w.rowPlan c e r.2.2 p.pexp p.thresh).1.poison = false) :
    let q := w.rowPlan c e r.2.2 p.pexp p.thresh
    let v := q.2.setPart c j { p with todo := p.todo.erase r }
    w.startRow c t =
      (v.takeSupply c t true).unitGo c t at_ (v.rowUnit c t e.deck r.2.2 (.row j) q.1.old q.1.target) false := by
  simp [Work.startRow, hwork, hrow, htime, hstate, Nat.not_lt.mpr hend, hstage, hheld, hsupply, he, hpoison]

theorem leads_rowWriteUnitStart {s : State} {c : Fin 1024} {t : Fin 16} {j at_ : Nat} {p : Part} {r : Nat × Nat × Nat} {e : XferEntry}
    (hb : s.board.alive = true) (hdeck : e.deck < 8)
    (hwork : s.work.slotWork c.val t.val = some (j, p)) (hrow : p.todo.find? (fun r => r.1 == t.val) = some r)
    (htime : s.work.unitTime c.val t.val (p.launch + 2000) = some at_) (hstate : p.state = 1)
    (hend : at_ + 10000 ≤ s.work.edgeNs p.writeEnd) (hstage : s.work.stageFree c.val = true)
    (hheld : s.work.held c.val t.val = false) (hsupply : s.work.slotSupply c.val t.val = true) (he : p.entries[r.2.1]? = some e) :
    let q := s.work.rowPlan c.val e r.2.2 p.pexp p.thresh
    q.1.poison = false →
    Leads (.rowWriteUnitStart c t) s (fun w =>
      w.UnitRuns c.val t.val at_ (fun u => u.kind = .row j ∧ u.ldeck = e.deck ∧ u.row = r.2.2 ∧
        u.phys = s.work.phys c.val t.val e.deck ∧
        u.target = q.1.target ++ [csumLevel (s.work.csdiv c.val t.val e.deck) q.1.target] ++ refLevels) ∧
      w.flag (PGM_STATUS c.val t.val) 0 = true ∧ (w.commit c.val).supplies.any (·.1 == t.val) = true ∧
      (∃ p' : Part, Sp.find (w.parts c.val) j = some p' ∧ p'.todo = p.todo.erase r ∧ p'.staged = p.staged) ∧
      w.cells = s.work.cells) := by
  intro q hpoison
  have hstarted := Work.startRow_eq hwork hrow htime hstate hend hstage hheld hsupply he hpoison
  have hkept : s.work.TilesKept (q.2.setPart c.val j { p with todo := p.todo.erase r }) :=
    (s.work.rowPlan_kept c.val e r.2.2 p.pexp p.thresh).tilesKept.trans (Work.setPart_kept _ c.val j _)
  have hpart := Work.find_setPart q.2 c.val j { p with todo := p.todo.erase r }
  change s.work.startRow c.val t.val = ((q.2.setPart c.val j { p with todo := p.todo.erase r }).takeSupply c.val t.val true).unitGo _ _ _ _ _
    at hstarted
  generalize q.2.setPart c.val j { p with todo := p.todo.erase r } = v at *
  have hfind : Sp.find ((v.takeSupply c.val t.val true).parts c.val) j = some { p with todo := p.todo.erase r } := by
    rw [Work.takeSupply_parts, hpart]
  refine ⟨_, gives_of_run (execRowWriteUnitStart.eq_1 c t s) hb hstarted, Work.unitGo_runs _ _ _ _ _ _ ⟨rfl, rfl, rfl, ?_, ?_⟩,
    Work.flag_unitGo .., ?_, ⟨{ p with todo := p.todo.erase r }, ?_, rfl, rfl⟩, ?_⟩
  · exact hkept.phys c.val t.isLt e.deck
  · rw [← hkept.csdiv c.val t.isLt hdeck]
    rfl
  · rw [Work.commit_congr (Work.unitGo_commits ..)]
    exact Work.takeSupply_taken ..
  · rw [Work.parts_congr (Work.unitGo_commits ..), hfind]
  · rw [Work.unitGo_cells, (v.takeSupply_kept c.val t.val true).cells, hkept.cells]

end Sys2Proof.Machine
end

section
/-! ### Undo units (R136, R138) -/

namespace Sys2Proof.Machine

/-- A part once its next row is undone with no failure (R136). -/
def Part.rowUndone (p : Part) (r : Staged) : Part := { p with undo := p.undo.erase r }

/-- An undo unit with no failure, of a part with another row to undo, leaves one row less, and shows the hold of R138. -/
theorem Work.undoDone_eq {w : Work} {c t j : Nat} {u : TileUnit} {p : Part} {r : Staged} (h : w.SolePart c j p)
    (hrow : p.undo.find? (fun r => r.tile == t) = some r) (hleft : p.undo.erase r ≠ []) :
    w.undoDone c t j u [] [] =
      (((w.unitEnds c t u [] []).setPart c j (p.rowUndone r)).supplyDone c t).showUndoHold c t := by
  have hended : (w.unitEnds c t u [] []).SolePart c j p := h.congr (w.unitEnds_clean c t u).commits
  have hpart := (hended.setPart (p.rowUndone r)).supplyDone (t := t)
  unfold Work.undoDone
  simp only [Work.staleIf_clean, TileUnit.failures_nil, List.isEmpty_nil, if_true, hended.find, hrow, List.filter_nil]
  exact congrArg (·.showUndoHold c t) (hpart.settle (fun _ => hleft) p.group)

theorem leads_undoUnitDone {s : State} {c : Fin 1024} {t : Fin 16} {j : Nat} {u : TileUnit} {p : Part} {r r2 : Staged}
    {rs : List Staged} (hb : s.board.alive = true) (hunit : (s.work.tile c.val t.val).unit = some u) (hkind : u.kind = .undo j)
    (hclean : u.Clean) (hsole : s.work.SolePart c.val j p) (hstate : p.state = 3) (hundo : p.undo = r :: r2 :: rs) (hr : r.tile = t.val) :
    Leads (.undoUnitDone c t [] []) s (fun w =>
      w.cellRow c.val t.val u.phys u.row = u.target.map heldLevel ∧ (w.tile c.val t.val).unit = none ∧
      w.held c.val t.val = (p.foldDue && (r2 :: rs).any (fun x => x.tile == t.val)) ∧
      (∃ p' : Part, Sp.find (w.parts c.val) j = some p' ∧ p'.state = 3 ∧ p'.undo = r2 :: rs ∧ p'.staged = p.staged)) := by
  have hended := s.work.unitEnds_clean c.val t.val u
  have hsole' : (s.work.unitEnds c.val t.val u [] []).SolePart c.val j p := hsole.congr hended.commits
  have herase : p.undo.erase r = r2 :: rs := by rw [hundo, List.erase_cons_head]
  have hrow : p.undo.find? (fun r => r.tile == t.val) = some r := by simp [hundo, hr]
  have hdone := Work.undoDone_eq (u := u) hsole hrow (by rw [herase]; simp)
  generalize s.work.unitEnds c.val t.val u [] [] = v at *
  have hkept := (v.setPart_kept c.val j (p.rowUndone r)).trans (Work.supplyDone_kept _ c.val t.val)
  have hpart := (hsole'.setPart (p.rowUndone r)).supplyDone (t := t.val)
  generalize (v.setPart c.val j (p.rowUndone r)).supplyDone c.val t.val = x at *
  have hnone : (x.tile c.val t.val).unit = none := by rw [hkept.tile, hended.unit]
  obtain ⟨hrest, -, ⟨q, hq⟩, hheld⟩ := Work.showUndoHold_shown hnone
  have hcells : (x.showUndoHold c.val t.val).cells = x.cells := by rw [hrest]
  have hcommits : (x.showUndoHold c.val t.val).commits = x.commits := by rw [hrest]
  refine ⟨x.showUndoHold c.val t.val, gives_of_run (execUndoUnitDone.eq_1 c t [] [] s) hb (Work.onUnit_eq hunit ?run), ?_, ?_, ?_,
    p.rowUndone r, ?_, hstate, herase, rfl⟩
  case run => simp only [hkind, hclean.result, hdone]
  · rw [Work.cellRow, hcells, hkept.cells]
    exact hended.cellRow_clean
  · rw [hq]
    exact hnone
  · rw [hheld, hpart.undoHeld]
    simp [Part.rowUndone, hstate, herase]
  · rw [Work.parts_congr hcommits, hpart.find]

end Sys2Proof.Machine
end

section
/-! ### The plan of a row, position by position (R115) -/

namespace Sys2Proof.Machine

theorem Work.readsStack_mem (w : Work) (a n : Nat) : (w.readsStack a n).mem = w.mem := by
  unfold Work.readsStack Work.foldWait Work.poisonReads
  exact List.foldlRecOn (motive := fun v : Work => v.mem = w.mem) _ _
    (List.foldlRecOn (motive := fun v : Work => v.mem = w.mem) _ _ rfl fun _ h _ _ => h) fun _ h _ _ => h

theorem Work.hbmGet_stacks (w : Work) {a n : Nat} (h : inStacks a n = true) :
    w.hbmGet a n = (w.bytes a n, w.poisoned a n, w.readsStack a n) := if_pos h

/-- The targets of a row that lies in the stacks, by its levels, residuals and scales. -/
theorem Work.rowPlan_target (w : Work) (c : Nat) (e : XferEntry) (row : Nat) (pexp : Int) (thresh : Nat)
    (hl : inStacks (e.level + 1024 * row) 1024 = true) (hr : inStacks (e.resid + 4096 * row) 4096 = true) :
    (w.rowPlan c e row pexp thresh).1.target = ((levelsOf (w.bytes (e.level + 1024 * row) 1024)).zipIdx).map (fun p =>
      (target (BitVec.ofNat 32 (leAt (w.bytes (e.resid + 4096 * row) 4096) (4 * p.2) 4)) p.1
        (w.oscale c e.tile e.deck (p.2 / 32)) pexp thresh).1) := by
  have hmem : (w.readsStack (e.level + 1024 * row) 1024).bytes (e.resid + 4096 * row) 4096 = w.bytes (e.resid + 4096 * row) 4096 :=
    Work.bytes_congr (w.readsStack_mem _ _) _ _
  simp only [Work.rowPlan, w.hbmGet_stacks hl, Work.hbmGet_stacks _ hr, hmem, List.map_map, Function.comp_def]

/-- A zero residual is below every threshold, so its level stays (R115). -/
theorem target_zero (l : Int) (oscale : Nat) (pexp : Int) {thresh : Nat} (h : 0 < thresh) : (target 0 l oscale pexp thresh).1 = l := by
  have hzero : f32 0 = .fin false 0 (-149) := by decide +kernel
  have hdiv : scaledDiv (16 * 0) (-149 - (pexp - 14)) oscale = 0 := by simp [scaledDiv]
  simp only [target, hzero, hdiv, h, decide_true, Bool.or_true, if_true]

theorem leAt_bytes (w : Work) (a : Nat) {n off k : Nat} (h : off + k ≤ n) : leAt (w.bytes a n) off k = w.num (a + off) k := by
  refine congrArg leNat (List.map_congr_left fun i hi => ?_)
  have hi' : i < k := List.mem_range.mp hi
  rw [List.getD_eq_getElem _ _ (by simp only [Work.bytes, List.length_map, List.length_range]; omega)]
  simp [Work.bytes, Nat.add_assoc]

/-! A memory of one byte. -/

theorem Work.byte_single {w : Work} {x : Nat} {b : Byte} (h : w.mem = [(x, b)]) (a : Nat) : w.byte a = if a = x then b else 0 := by
  rw [Work.byte, h, cellAt_cons]
  by_cases hx : x = a
  · rw [if_pos hx, if_pos hx.symm]
  · rw [if_neg hx, if_neg (Ne.symm hx)]
    rfl

theorem Work.bytes_single_apart {w : Work} {x : Nat} {b : Byte} (h : w.mem = [(x, b)]) {a n : Nat} (hx : x < a ∨ a + n ≤ x) :
    w.bytes a n = zeros n := by
  refine List.ext_getElem (by simp [Work.bytes]) fun i hi _ => ?_
  have hi' : i < n := by simpa [Work.bytes] using hi
  simp only [Work.bytes, zeros, List.getElem_map, List.getElem_range, List.getElem_replicate, Work.byte_single h]
  exact if_neg (by omega)

/-- The levels 15, 0, 0 and so on. -/
def edgeRow : List Int := 15 :: List.replicate 1023 0

/-- The targets of a row of levels 0 whose one residual, of its first position, is 2^127, on a scale of 2^-16 (R115). -/
theorem Work.rowPlan_edge {w : Work} {c : Nat} {e : XferEntry} (hmem : w.mem = [(e.resid + 3, 0x7F)]) (hl : inStacks e.level 1024 = true)
    (hr : inStacks e.resid 4096 = true) (hapart : e.resid + 3 < e.level) (hscale : w.oscale c e.tile e.deck 0 = 0x4000) :
    (w.rowPlan c e 0 0 16).1.target = edgeRow := by
  have hlevels : levelsOf (w.bytes e.level 1024) = List.replicate 1024 0 := by
    rw [Work.bytes_single_apart hmem (.inl hapart)]
    decide +kernel
  rw [Work.rowPlan_target _ _ _ 0 _ _ (by simpa using hl) (by simpa using hr)]
  simp only [Nat.mul_zero, Nat.add_zero, hlevels]
  have hlen : edgeRow.length = 1024 := by rw [edgeRow, List.length_cons, List.length_replicate]
  refine List.ext_getElem (by rw [hlen, List.length_map, List.length_zipIdx, List.length_replicate]) fun i hi _ => ?_
  have hi' : i < 1024 := by simpa [-List.reduceReplicate] using hi
  simp only [List.getElem_map, List.getElem_zipIdx, List.getElem_replicate, Nat.zero_add]
  rw [leAt_bytes w e.resid (by omega : 4 * i + 4 ≤ 4096)]
  by_cases h0 : i = 0
  · subst h0
    have hword : w.num e.resid 4 = 0x7F000000 := by
      simp [Work.num, Work.bytes, List.range_succ, Work.byte_single hmem, leNat]
    simp only [Nat.mul_zero, Nat.add_zero, Nat.zero_div, hword, hscale]
    exact (by decide +kernel : (target 0x7F000000#32 0 0x4000 0 16).1 = 15)
  · have hword : w.num (e.resid + 4 * i) 4 = 0 := by
      rw [Work.num, Work.bytes_single_apart hmem (.inl (by omega))]
      decide
    rw [hword]
    obtain ⟨k, rfl⟩ := Nat.exists_eq_succ_of_ne_zero h0
    simp only [edgeRow, List.getElem_cons_succ, List.getElem_replicate]
    exact target_zero 0 _ 0 (by decide)

end Sys2Proof.Machine
end

section
/-! ### A transfer entry of a deck that no descriptor names

The descriptor of a weight transfer gives a deck three bits (Table 3-6). O10 takes any number: the DECK_CFG of tile 0's deck 34,506
would stand where core 1's FOLD_WAIT_CNT stands, which the read of the row's levels may count up before its checksum level is taken.
Everything else that O10 says holds, and this too of the decks of a tile: `leads_rowWriteUnitStart`, `leads_rowWriteUnitDone`,
`leads_undoUnitDone` and `Work.unitEnds_leaves`. -/

namespace Sys2Proof.Machine

theorem DECK_CFG_of_deck_34506 : DECK_CFG 0 0 34506 = FOLD_WAIT_CNT 1 := rfl

/-- The entry of tile 0 and deck 34,506, and a part with one row of it to write. -/
def farEntry : XferEntry :=
  { tile := 0, deck := 34506, rowFirst := 0, rowCount := 1, master := 2097152, level := 3145728, resid := 1048576 }
def farPart : Part :=
  { group := 5, slot := 0, parts := 1, writeEnd := 100, band := 0, pexp := 0, thresh := 16, layerRec := 4096, step := 0, state := 1,
    entries := [farEntry], todo := [(0, 0, 0)], launch := 0 }

/-- The device after reset with that part launched, a residual of 2^127 at the row's first position, a fold of core 1 over the row's
levels outstanding, and core 1's count of such waits at 15. -/
def farState : State :=
  { State.reset with work := { Work.reset with
      regs := [(FOLD_WAIT_CNT 1, 15), (OSCALE 0 0 (32 * 34506), 0x4000)], mem := [(1048579, 0x7F)], unfolded := [(1, 3145728, 1024)],
      commits := [(0, { parts := [(0, farPart)] })] } }

theorem farState_target : (farState.work.rowPlan 0 farEntry 0 0 16).1.target = edgeRow :=
  Work.rowPlan_edge rfl (by decide) (by decide) (by decide) (by decide +kernel)

theorem csumLevel_edgeRow : csumLevel 0 edgeRow = 15 ∧ csumLevel 1 edgeRow = 8 ∧ csumLevel 8 edgeRow = 0 := by decide +kernel

/-- Before the start the deck's divisor is 1, and the row's checksum level 15. -/
theorem farState_planned :
    (farState.work.rowPlan 0 farEntry 0 0 16).1.target ++
      [csumLevel (farState.work.csdiv 0 0 34506) (farState.work.rowPlan 0 farEntry 0 0 16).1.target] ++ refLevels =
      edgeRow ++ [15] ++ refLevels := by
  have hdiv : farState.work.csdiv 0 0 34506 = 0 := by decide +kernel
  rw [hdiv, farState_target, csumLevel_edgeRow.1]

/-- The state that the plan and the part leave: the read of the levels has waited for the fold, and counted to 16. -/
def farStarting : Work := (farState.work.rowPlan 0 farEntry 0 0 16).2.setPart 0 0 { farPart with todo := [] }

/-- The unit that starts drives the checksum column to the level of the divisor 2. -/
theorem farState_started :
    ∃ w, Gives (.rowWriteUnitStart 0 0) farState w ∧ (w.tile 0 0).unit.map (·.target) = some (edgeRow ++ [8] ++ refLevels) := by
  have hstarted := Work.startRow_eq (w := farState.work) (c := 0) (t := 0) (j := 0) (at_ := 2000) (p := farPart) (r := (0, 0, 0))
    (e := farEntry) (by decide +kernel) rfl (by decide +kernel) rfl (by decide +kernel) (by decide +kernel) (by decide +kernel)
    (by decide +kernel) rfl (by decide +kernel)
  have hdiv : farStarting.csdiv 0 0 34506 = 1 := by decide +kernel
  have hdriven : (farState.work.rowPlan 0 farEntry 0 0 16).1.target ++
      [csumLevel (farStarting.csdiv 0 0 34506) (farState.work.rowPlan 0 farEntry 0 0 16).1.target] ++ refLevels =
      edgeRow ++ [8] ++ refLevels := by rw [hdiv, farState_target, csumLevel_edgeRow.2.1]
  refine ⟨_, gives_of_run (execRowWriteUnitStart.eq_1 0 0 farState) rfl hstarted, ?_⟩
  rw [Work.tile_unitGo]
  exact congrArg some hdriven

/-- Refutes O10: at deck 34,506 the checksum column is driven to the level of the divisor that the start has just counted up, 8, not to
that of the one that stood there before, 15. -/
theorem not_rowUnitsStartAndEnd : ¬ Obligations.RowUnitsStartAndEnd := by
  rintro ⟨hstart, -⟩
  obtain ⟨w, hgives, ⟨⟨u, hunit, -, -, -, -, -, htarget⟩, -⟩, -⟩ :=
    hstart farState 0 0 0 farPart (0, 0, 0) farEntry 2000 rfl (by decide +kernel) rfl (by decide +kernel) rfl (by decide +kernel)
      (by decide +kernel) (by decide +kernel) (by decide +kernel) rfl (by decide +kernel)
  obtain ⟨v, hstarted, hdriven⟩ := farState_started
  have hunit' : (w.tile 0 0).unit = some u := hunit
  rw [← hgives.unique hstarted, hunit', Option.map_some, htarget.trans farState_planned] at hdriven
  simp at hdriven

end Sys2Proof.Machine
end

section
/-! ### Refresh units (R124, R125) -/

namespace Sys2Proof.Machine

/-- A tile starts its next refresh where free recovery time leaves room for it (R124, R125). -/
theorem Work.startRefresh_eq {w : Work} {c t k row d at_ : Nat} (hstale : (w.tile c t).nextStale = some (k, row))
    (hfree : w.freeRecovery c t = some d) (htime : w.unitTime c t 0 = some at_) (hroom : at_ + 10000 ≤ d) (hclear : w.sec.clearing = none)
    (hrows : (w.tile c t).restoreRows = []) (hsupply : w.outsideSupply c t = true) :
    w.startRefresh c t = (w.takeSupply c t false).unitGo c t at_
      (w.rowUnit c t k row .refresh (w.recorded c t k row) (w.recorded c t k row)) false := by
  simp [Work.startRefresh, hstale, hfree, htime, Nat.not_lt.mpr hroom, hclear, hrows, hsupply]

theorem leads_refreshUnitStart {s : State} {c : Fin 1024} {t : Fin 16} {k row d at_ : Nat} (hb : s.board.alive = true)
    (hstale : (s.work.tile c.val t.val).nextStale = some (k, row)) (hfree : s.work.freeRecovery c.val t.val = some d)
    (htime : s.work.unitTime c.val t.val 0 = some at_) (hroom : at_ + 10000 ≤ d) (hclear : s.work.sec.clearing = none)
    (hrows : (s.work.tile c.val t.val).restoreRows = []) (hsupply : s.work.outsideSupply c.val t.val = true) :
    Leads (.refreshUnitStart c t) s (fun w =>
      w.UnitRuns c.val t.val at_ (fun u => u.kind = .refresh ∧ u.ldeck = k ∧ u.row = row ∧
        u.target = s.work.recorded c.val t.val k row ++
          [csumLevel (s.work.csdiv c.val t.val k) (s.work.recorded c.val t.val k row)] ++ refLevels) ∧
      (w.tile c.val t.val).stale = (s.work.tile c.val t.val).stale ∧ w.mem = s.work.mem ∧ w.cells = s.work.cells) := by
  have hkept := s.work.takeSupply_kept c.val t.val false
  refine ⟨_, gives_of_run (execRefreshUnitStart.eq_1 c t s) hb (Work.startRefresh_eq hstale hfree htime hroom hclear hrows hsupply),
    Work.unitGo_runs _ _ _ _ _ _ ⟨rfl, rfl, rfl, rfl⟩, ?_, ?_, ?_⟩
  · rw [Work.tile_unitGo, Work.tileBegun, hkept.tile]
  · rw [Work.unitGo_mem, Work.takeSupply_mem]
  · rw [Work.unitGo_cells, hkept.cells]

/-- The row that heads the stale list leaves it (R124). -/
def Work.staleLeft (w : Work) (c t : Nat) (rest : List (Nat × Nat)) : Work :=
  (w.setTile c t { w.tile c t with stale := rest }).showStale c t

theorem Work.showStale_tiles (w : Work) (c t : Nat) : (w.showStale c t).tiles = w.tiles := rfl

/-- PGM_STATUS shows the length of the list (Table 3-14). -/
theorem Work.fld_showStale (w : Work) (c t : Nat) : (w.showStale c t).fld (PGM_STATUS c t) 16 5 = (w.tile c t).stale.length % 32 := by
  unfold Work.showStale
  dsimp only
  rw [Work.fld_setFld_apart _ _ _ (by decide) (by decide), Work.fld_setFld_same _ _ _ _ _ (by decide)]
  rfl

theorem Work.tile_staleLeft (w : Work) (c t : Nat) (rest : List (Nat × Nat)) :
    (w.staleLeft c t rest).tile c t = { w.tile c t with stale := rest } := by
  rw [Work.staleLeft, Work.tile_congr (Work.showStale_tiles ..), Work.tile_setTile_same]

theorem Work.fld_staleLeft (w : Work) (c t : Nat) (rest : List (Nat × Nat)) :
    (w.staleLeft c t rest).fld (PGM_STATUS c t) 16 5 = rest.length % 32 := by
  rw [Work.staleLeft, Work.fld_showStale, Work.tile_setTile_same]

theorem Work.refreshDone_eq {w : Work} {c t : Nat} {u : TileUnit} {rest : List (Nat × Nat)}
    (hstale : (w.tile c t).stale = (u.ldeck, u.row) :: rest) :
    w.refreshDone c t u [] [] = ((w.unitEnds c t u [] []).staleLeft c t rest).dropSupply c t := by
  have hlist : ((w.unitEnds c t u [] []).tile c t).stale = (u.ldeck, u.row) :: rest := by
    obtain ⟨q, hq⟩ := (w.unitEnds_clean c t u).tile
    rw [hq, hstale]
  unfold Work.refreshDone
  simp only [Work.staleIf_clean, TileUnit.failures_nil, hlist, List.contains_cons, BEq.rfl, Bool.true_or, if_true,
    List.erase_cons_head]
  rfl

theorem leads_refreshUnitDone {s : State} {c : Fin 1024} {t : Fin 16} {u : TileUnit} {rest : List (Nat × Nat)}
    (hb : s.board.alive = true) (hunit : (s.work.tile c.val t.val).unit = some u) (hkind : u.kind = .refresh) (hclean : u.Clean)
    (hstale : (s.work.tile c.val t.val).stale = (u.ldeck, u.row) :: rest) :
    Leads (.refreshUnitDone c t [] []) s (fun w =>
      (w.tile c.val t.val).stale = rest ∧ (w.tile c.val t.val).unit = none ∧
      w.cellRow c.val t.val u.phys u.row = u.target.map heldLevel ∧ w.fld (PGM_STATUS c.val t.val) 16 5 = rest.length % 32 ∧
      (w.commit c.val).supplies.all (·.1 != t.val) = true) := by
  have hended := s.work.unitEnds_clean c.val t.val u
  have hdone := Work.refreshDone_eq hstale
  generalize s.work.unitEnds c.val t.val u [] [] = v at *
  have hkept := (v.staleLeft c.val t.val rest).dropSupply_kept c.val t.val
  refine ⟨(v.staleLeft c.val t.val rest).dropSupply c.val t.val, gives_of_run (execRefreshUnitDone.eq_1 c t [] [] s) hb
    (Work.onUnit_eq hunit ?run), ?_, ?_, ?_, ?_, Work.dropSupply_dropped ..⟩
  case run => simp only [hkind, hclean.result, hdone]
  · rw [hkept.tile, Work.tile_staleLeft]
  · rw [hkept.tile, Work.tile_staleLeft]
    exact hended.unit
  · rw [Work.cellRow, hkept.cells]
    exact hended.cellRow_clean
  · exact (hkept.fld (inTile_tileBase c.val t.isLt (o := 0x200) (by decide)) 16 5).trans (v.fld_staleLeft c.val t.val rest)

end Sys2Proof.Machine
end

section
/-! ### Retirement and surveys (R127, R146 to R148) -/

namespace Sys2Proof.Machine

/-- A deck that is due, of a tile that retires none, begins its retirement to the lowest spare (R146 to R148). -/
theorem Work.retireDue_eq {w : Work} {c t k p : Nat}
    (hdue : (List.range 8).find? (fun k => w.deckUsed k && w.deckDue c t (w.phys c t k)) = some k)
    (hidle : w.fld (RETIRE_STATUS c t) 8 2 = 0) (hdrop : (w.tile c t).dropTarget = false)
    (hspare : (List.range 8).find? (fun p => w.deckState c t p == 1) = some p) :
    w.retireDue c t = ((w.setTile c t { w.tile c t with clean := [], copyFailed := [], surveyed := false }).wr (RETIRE_STATUS c t)
      (w.phys c t k + 16 * p + 256)).callSurvey c t p := by
  simp only [Work.retireDue, hdue, hidle, hdrop, hspare, ne_eq, not_true_eq_false, decide_false, Bool.false_or, Bool.false_eq_true,
    if_false]
  rfl

theorem leads_deckRetireDue {s : State} {c : Fin 1024} {t : Fin 16} {k p : Nat} (hb : s.board.alive = true)
    (hdue : (List.range 8).find? (fun k => s.work.deckUsed k && s.work.deckDue c.val t.val (s.work.phys c.val t.val k)) = some k)
    (hidle : s.work.fld (RETIRE_STATUS c.val t.val) 8 2 = 0) (hdrop : (s.work.tile c.val t.val).dropTarget = false)
    (hspare : (List.range 8).find? (fun p => s.work.deckState c.val t.val p == 1) = some p) :
    Leads (.deckRetireDue c t) s (fun w =>
      let v := s.work.tile c.val t.val
      w.tile c.val t.val = { v with clean := [], copyFailed := [], surveyed := false, surveys := v.surveys.filter (· != p) ++ [p],
                                    surveyFrom := if v.surveys.isEmpty then s.work.now else v.surveyFrom } ∧
      w.rd (RETIRE_STATUS c.val t.val) = s.work.phys c.val t.val k + 16 * p + 256 ∧ w.flag (PGM_STATUS c.val t.val) 1 = true ∧
      RegsKept s.work w [RETIRE_STATUS c.val t.val, PGM_STATUS c.val t.val] ∧ w.mem = s.work.mem ∧ w.cells = s.work.cells) := by
  have hp : p < 8 := List.mem_range.mp (List.mem_of_find?_eq_some hspare)
  have hk := s.work.phys_lt c.val t.val k
  have hbegun := Work.retireDue_eq hdue hidle hdrop hspare
  generalize hv : (s.work.setTile c.val t.val { s.work.tile c.val t.val with clean := [], copyFailed := [], surveyed := false }).wr
    (RETIRE_STATUS c.val t.val) (s.work.phys c.val t.val k + 16 * p + 256) = v at *
  have htile : v.tile c.val t.val = { s.work.tile c.val t.val with clean := [], copyFailed := [], surveyed := false } := by
    rw [← hv, Work.tile_congr (Work.wr_tiles ..), Work.tile_setTile_same]
  have hrd : v.rd (RETIRE_STATUS c.val t.val) = s.work.phys c.val t.val k + 16 * p + 256 := by
    rw [← hv, Work.rd_wr_same]
    omega
  have hkept : RegsKept s.work v [RETIRE_STATUS c.val t.val, PGM_STATUS c.val t.val] := by
    rw [← hv]
    exact ((RegsKept.refl s.work _).of_regs rfl).wr (by simp) _
  have hnow : v.now = s.work.now := by rw [← hv]; rfl
  refine ⟨_, gives_of_run (execDeckRetireDue.eq_1 c t s) hb hbegun, ?_, ?_, ?_, ?_, ?_, ?_⟩
  · rw [Work.callSurvey, Work.tile_congr (Work.setBit_tiles ..), Work.tile_setTile_same, htile, hnow]
  · rw [Work.callSurvey, Work.rd_setBit_ne _ _ _ (by simp [RETIRE_STATUS, PGM_STATUS]), Work.rd_congr (Work.setTile_regs ..), hrd]
  · exact Work.flag_setBit_same _ _ _ (by decide)
  · exact (hkept.of_regs (Work.setTile_regs ..)).wr (by simp) _
  · rw [Work.callSurvey, Work.setBit_mem, Work.setTile_mem, ← hv]
    rfl
  · rw [Work.callSurvey, Work.setBit_cells, Work.setTile_cells, ← hv]
    rfl

/-! Surveys (R127). -/

/-- Between two states that take in surveyed rows no tile, no register of one and no time differs. -/
structure Work.SurveyKept (w v : Work) : Prop where
  tiles : v.tiles = w.tiles
  now : v.now = w.now
  regs : ∀ a, InTile a → v.reg a = w.reg a

/-- A surveyed row: its cells, its checksum level in the wear table, and its level map. -/
def Work.surveyRow (c t p : Nat) (map : Option DeckMap) (w : Work) (r : List Int × Nat) : Work :=
  let v := (w.setCells c t p r.2 r.1).store (w.wearAt c t p r.2 + 8) [levelByte (r.1.getD 1024 0)]
  match map with
  | some m => v.hbmPut (m.level + 1024 * r.2) ((r.1.take 1024).map levelByte) false
  | none => v

section
variable (c t p : Nat) (map : Option DeckMap)

theorem Work.surveyRow_kept (w : Work) (r : List Int × Nat) : w.SurveyKept (w.surveyRow c t p map r) := by
  unfold Work.surveyRow
  cases map with
  | none => exact ⟨rfl, rfl, fun _ _ => rfl⟩
  | some m =>
    have hput := Work.hbmPut_kept ((w.setCells c t p r.2 r.1).store (w.wearAt c t p r.2 + 8) [levelByte (r.1.getD 1024 0)])
      (m.level + 1024 * r.2) ((r.1.take 1024).map levelByte) false
    dsimp only
    exact ⟨by rw [hput.rest]; rfl, by rw [hput.rest]; rfl, hput.regs⟩

theorem Work.surveyRow_cells (w : Work) (r : List Int × Nat) :
    (w.surveyRow c t p map r).cells = Sp.put w.cells (cellKey c t p r.2) (r.1.map heldLevel) := by
  unfold Work.surveyRow
  cases map with
  | none => rfl
  | some m =>
    dsimp only
    rw [(Work.hbmPut_kept _ _ _ _).rest]
    rfl

theorem Work.surveyRows_kept (ls : List (List Int × Nat)) (w : Work) :
    w.SurveyKept (ls.foldl (fun (v : Work) r => v.surveyRow c t p map r) w) :=
  List.foldlRecOn (motive := fun v => w.SurveyKept v) ls _ ⟨rfl, rfl, fun _ _ => rfl⟩ fun v hv r _ =>
    have hrow := v.surveyRow_kept c t p map r
    ⟨hrow.tiles.trans hv.tiles, hrow.now.trans hv.now, fun a ha => (hrow.regs a ha).trans (hv.regs a ha)⟩

/-- The rows surveyed hold what was measured, those before them what they held. -/
theorem Work.surveyRows_cellRow (ls : List (List Int)) (k : Nat) (w : Work) :
    let v := (ls.zipIdx k).foldl (fun (v : Work) r => v.surveyRow c t p map r) w
    (∀ r < k, v.cellRow c t p r = w.cellRow c t p r) ∧ ∀ i < ls.length, v.cellRow c t p (k + i) = (ls.getD i []).map heldLevel := by
  induction ls generalizing k w with
  | nil => exact ⟨fun _ _ => rfl, fun i hi => absurd hi (Nat.not_lt_zero i)⟩
  | cons l ls ih =>
    obtain ⟨hbefore, hrows⟩ := ih (k + 1) (w.surveyRow c t p map (l, k))
    simp only [List.zipIdx_cons, List.foldl_cons]
    refine ⟨fun r hr => ?_, fun i hi => ?_⟩
    · have hkey : cellKey c t p r ≠ cellKey c t p k := by unfold cellKey; omega
      rw [hbefore r (by omega), Work.cellRow, Work.surveyRow_cells, Sp.get_put_ne _ _ _ _ hkey, Work.cellRow]
    · cases i with
      | zero =>
        rw [Nat.add_zero k, hbefore k (by omega), Work.cellRow, Work.surveyRow_cells, Sp.get_put_same]
        rfl
      | succ i =>
        have := hrows i (by simpa using hi)
        rwa [show k + 1 + i = k + (i + 1) by omega] at this

end

theorem Work.bytes_hbmPut_stacks (w : Work) {a n : Nat} {bs : List Byte} (hn : bs.length = n) (h : inStacks a n = true) :
    (w.hbmPut a bs false).bytes a n = bs := by
  subst hn
  rw [Work.hbmPut, if_pos h, Work.putStack]
  exact (Work.bytes_congr (w := Work.store _ a bs) rfl _ _).trans (Work.bytes_store _ a bs)

theorem Work.logical_congr {v w : Work} (hregs : v.regs = w.regs) (hstart : v.start = w.start) (c t p : Nat) :
    v.logical c t p = w.logical c t p := by
  simp only [Work.logical, Work.deckUsed, Work.spareCount, Work.phys, Work.deckState, Work.fld, Work.rd_congr hregs, hstart]
  rfl

/-- The tile's next survey starts as the one that runs ends. -/
def Work.surveyTaken (w : Work) (c t : Nat) : Work :=
  let v := w.till ((w.tile c t).surveyFrom + 1024000)
  v.setTile c t { v.tile c t with surveys := (v.tile c t).surveys.tail, surveyFrom := v.now }

/-- The level map of the deck that a physical deck serves. -/
def Work.surveyMap (w : Work) (c t p : Nat) : Option DeckMap := (w.logical c t p).bind (fun k => Sp.find (w.tile c t).maps k)

/-- The rows of a survey taken in. -/
def Work.surveyRead (w : Work) (c t p : Nat) (ls : List (List Int)) : Work :=
  ls.zipIdx.foldl (fun (v : Work) r => v.surveyRow c t p ((w.surveyTaken c t).surveyMap c t p) r) (w.surveyTaken c t)

/-- The status of the tile's surveys, and of a retirement whose target has been surveyed. -/
def Work.surveyShown (w : Work) (c t p : Nat) : Work :=
  let v := w.bitTo (PGM_STATUS c t) 1 (!(w.tile c t).surveys.isEmpty)
  if v.fld (RETIRE_STATUS c t) 8 2 = 1 && v.fld (RETIRE_STATUS c t) 4 3 = p then v.setTile c t { v.tile c t with surveyed := true } else v

theorem Work.surveyDone_eq {w : Work} {c t p : Nat} (h : (w.tile c t).surveys.head? = some p) (ls : List (List Int)) :
    w.surveyDone c t p ls = (w.surveyRead c t p ls).surveyShown c t p := by
  rw [Work.surveyDone, if_neg (by simp [h])]
  rfl

theorem Work.tile_surveyTaken (w : Work) (c t : Nat) : (w.surveyTaken c t).tile c t =
    { w.tile c t with surveys := (w.tile c t).surveys.tail, surveyFrom := max w.now ((w.tile c t).surveyFrom + 1024000) } := by
  unfold Work.surveyTaken
  dsimp only
  rw [Work.tile_setTile_same, Work.tile_congr (Work.till_tiles ..)]
  rfl

theorem Work.surveyMap_surveyTaken (w : Work) (c t p : Nat) : (w.surveyTaken c t).surveyMap c t p = w.surveyMap c t p := by
  have hlogical := Work.logical_congr (v := w.surveyTaken c t) (w := w) rfl rfl c t p
  simp only [Work.surveyMap, hlogical, Work.tile_surveyTaken]

/-- What showing the surveys leaves and shows. -/
theorem Work.surveyShown_shows (w : Work) (c t p : Nat) :
    let v := w.surveyShown c t p
    v.cells = w.cells ∧ v.mem = w.mem ∧ v.now = w.now ∧ (v.tile c t).surveys = (w.tile c t).surveys ∧
      v.flag (PGM_STATUS c t) 1 = !(w.tile c t).surveys.isEmpty ∧
      (w.fld (RETIRE_STATUS c t) 8 2 = 1 → w.fld (RETIRE_STATUS c t) 4 3 = p → (v.tile c t).surveyed = true) := by
  have hkept : RegsKept w (w.bitTo (PGM_STATUS c t) 1 (!(w.tile c t).surveys.isEmpty)) [PGM_STATUS c t] :=
    (RegsKept.refl w _).wr (by simp) _
  have hflag := w.flag_bitTo_same (PGM_STATUS c t) 1 (!(w.tile c t).surveys.isEmpty) (by decide)
  have htile : (w.bitTo (PGM_STATUS c t) 1 (!(w.tile c t).surveys.isEmpty)).tile c t = w.tile c t := Work.tile_congr (Work.bitTo_tiles ..) c t
  have hout : RETIRE_STATUS c t ∉ [PGM_STATUS c t] := by simp [RETIRE_STATUS, PGM_STATUS]
  unfold Work.surveyShown
  dsimp only
  rw [hkept.fld hout, hkept.fld hout]
  split
  · refine ⟨rfl, rfl, rfl, ?_, (Work.flag_congr (Work.rd_congr (Work.setTile_regs ..) _) 1).trans hflag, fun _ _ => ?_⟩
    · rw [Work.tile_setTile_same, htile]
    · rw [Work.tile_setTile_same]
  · rename_i hno
    refine ⟨rfl, rfl, rfl, by rw [htile], hflag, fun h1 h2 => absurd ?_ hno⟩
    simp [h1, h2]

theorem leads_levelSurveyDone {s : State} {c : Fin 1024} {t : Fin 16} {d : Fin 8} {ls : List (List Int)} (hb : s.board.alive = true)
    (hhead : (s.work.tile c.val t.val).surveys.head? = some d.val) :
    Leads (.levelSurveyDone c t d ls) s (fun w =>
      (∀ r < ls.length, w.cellRow c.val t.val d.val r = (ls.getD r []).map heldLevel) ∧
      (w.tile c.val t.val).surveys = (s.work.tile c.val t.val).surveys.tail ∧
      w.flag (PGM_STATUS c.val t.val) 1 = !((s.work.tile c.val t.val).surveys.tail).isEmpty ∧
      w.now = max s.work.now ((s.work.tile c.val t.val).surveyFrom + 1024000) ∧
      (∀ m, s.work.surveyMap c.val t.val d.val = some m → ∀ l, ls = [l] →
        1024 ≤ l.length → inStacks m.level 1024 = true → w.bytes m.level 1024 = (l.take 1024).map levelByte) ∧
      (s.work.fld (RETIRE_STATUS c.val t.val) 8 2 = 1 → s.work.fld (RETIRE_STATUS c.val t.val) 4 3 = d.val →
        (w.tile c.val t.val).surveyed = true)) := by
  have hkept : (s.work.surveyTaken c.val t.val).SurveyKept (s.work.surveyRead c.val t.val d.val ls) := Work.surveyRows_kept ..
  have hrows := (Work.surveyRows_cellRow c.val t.val d.val ((s.work.surveyTaken c.val t.val).surveyMap c.val t.val d.val) ls 0
    (s.work.surveyTaken c.val t.val)).2
  have hmap : ∀ m, s.work.surveyMap c.val t.val d.val = some m → ∀ l, ls = [l] → 1024 ≤ l.length → inStacks m.level 1024 = true →
      (s.work.surveyRead c.val t.val d.val ls).bytes m.level 1024 = (l.take 1024).map levelByte := by
    rintro m hm l rfl hl hin
    have hlen : ((l.take 1024).map levelByte).length = 1024 := by
      rw [List.length_map, List.length_take]
      omega
    simp only [Work.surveyRead, Work.surveyMap_surveyTaken, hm, List.zipIdx_singleton, List.foldl_cons, List.foldl_nil, Work.surveyRow,
      Nat.mul_zero, Nat.add_zero]
    exact Work.bytes_hbmPut_stacks _ hlen hin
  have hread : (s.work.surveyRead c.val t.val d.val ls).tile c.val t.val = (s.work.surveyTaken c.val t.val).tile c.val t.val :=
    Work.tile_congr hkept.tiles _ _
  have hretire : ∀ lo len, (s.work.surveyRead c.val t.val d.val ls).fld (RETIRE_STATUS c.val t.val) lo len =
      s.work.fld (RETIRE_STATUS c.val t.val) lo len := fun lo len =>
    Work.fld_congr (congrArg BitVec.toNat (hkept.regs _ (inTile_tileBase c.val t.isLt (o := 0x230) (by decide)))) lo len
  obtain ⟨hcells, hmem, hnow, hsurveys, hflag, hsurveyed⟩ := (s.work.surveyRead c.val t.val d.val ls).surveyShown_shows c.val t.val d.val
  refine ⟨_, gives_of_run (execLevelSurveyDone.eq_1 c t d ls s) hb (Work.surveyDone_eq hhead ls), fun r hr => ?_, ?_, ?_, ?_,
    fun m hm l hl hlen hin => ?_, ?_⟩
  · rw [Work.cellRow, hcells, ← hrows r hr, Nat.zero_add]
    rfl
  · rw [hsurveys, hread, Work.tile_surveyTaken]
  · rw [hflag, hread, Work.tile_surveyTaken]
  · rw [hnow, hkept.now]
    rfl
  · rw [Work.bytes_congr hmem, hmap m hm l hl hlen hin]
  · rw [← hretire, ← hretire]
    exact hsurveyed

end Sys2Proof.Machine
end

section
/-! ### Retirement copies (R125, R147) -/

namespace Sys2Proof.Machine

theorem gives_levelSurveyDone_other {s : State} {c : Fin 1024} {t : Fin 16} {d : Fin 8} (ls : List (List Int)) (hb : s.board.alive = true)
    (hhead : (s.work.tile c.val t.val).surveys.head? ≠ some d.val) : Gives (.levelSurveyDone c t d ls) s s.work :=
  gives_of_run (execLevelSurveyDone.eq_1 c t d ls s) hb (if_pos hhead)

/-- The unit that copies a row of a logical deck to the target of its retirement. -/
def Work.copyUnit (w : Work) (c t k row : Nat) : TileUnit :=
  let p := w.fld (RETIRE_STATUS c t) 4 3
  let ls := w.recorded c t k row
  { kind := .copy, start := 0, ldeck := k, phys := p, row := row, old := w.cellRow c t p row,
    target := ls ++ [csumLevel (w.csdiv c t k) ls] ++ refLevels }

/-- A tile starts the copy of the first row that is not clean where free recovery time leaves room for it. -/
theorem Work.startCopy_eq {w : Work} {c t k row d at_ : Nat} (hretiring : w.retiring c t = some k)
    (hrow : (List.range 1024).find? (fun r => !(w.tile c t).clean.contains r) = some row) (hfree : w.freeRecovery c t = some d)
    (htime : w.unitTime c t 0 = some at_) (hcopying : w.copying c t = true) (hstale : (w.tile c t).nextStale = none)
    (hroom : at_ + 10000 ≤ d) (hstage : w.stageFree c = true) (hclear : w.sec.clearing = none) (hrows : (w.tile c t).restoreRows = [])
    (hsupply : w.outsideSupply c t = true) :
    w.startCopy c t = (w.takeSupply c t false).unitGo c t at_ (w.copyUnit c t k row) false := by
  unfold Work.startCopy
  rw [hretiring, hrow, hfree, htime]
  simp [hcopying, hstale, Nat.not_lt.mpr hroom, hstage, hclear, hrows, hsupply, Work.copyUnit]

theorem leads_copyUnitStart {s : State} {c : Fin 1024} {t : Fin 16} {k row d at_ : Nat} (hb : s.board.alive = true)
    (hretiring : s.work.retiring c.val t.val = some k)
    (hrow : (List.range 1024).find? (fun r => !(s.work.tile c.val t.val).clean.contains r) = some row)
    (hfree : s.work.freeRecovery c.val t.val = some d) (htime : s.work.unitTime c.val t.val 0 = some at_)
    (hcopying : s.work.copying c.val t.val = true) (hstale : (s.work.tile c.val t.val).nextStale = none) (hroom : at_ + 10000 ≤ d)
    (hstage : s.work.stageFree c.val = true) (hclear : s.work.sec.clearing = none)
    (hrows : (s.work.tile c.val t.val).restoreRows = []) (hsupply : s.work.outsideSupply c.val t.val = true) :
    Leads (.copyUnitStart c t) s (fun w =>
      w.UnitRuns c.val t.val at_ (fun u => u.kind = .copy ∧ u.ldeck = k ∧ u.row = row ∧
        u.phys = s.work.fld (RETIRE_STATUS c.val t.val) 4 3 ∧
        u.target = s.work.recorded c.val t.val k row ++
          [csumLevel (s.work.csdiv c.val t.val k) (s.work.recorded c.val t.val k row)] ++ refLevels) ∧
      w.mem = s.work.mem ∧ w.cells = s.work.cells) := by
  refine ⟨_, gives_of_run (execCopyUnitStart.eq_1 c t s) hb
      (Work.startCopy_eq hretiring hrow hfree htime hcopying hstale hroom hstage hclear hrows hsupply),
    Work.unitGo_runs _ _ _ _ _ _ ⟨rfl, rfl, rfl, rfl, rfl⟩, ?_, ?_⟩
  · rw [Work.unitGo_mem, Work.takeSupply_mem]
  · rw [Work.unitGo_cells, (s.work.takeSupply_kept c.val t.val false).cells]

/-- A row copied is clean, and counted (Table 3-11). -/
def Work.rowCopied (w : Work) (c t row : Nat) : Work :=
  (w.setTile c t { w.tile c t with clean := insNat row (w.tile c t).clean }).setFld (RETIRE_STATUS c t) 16 11
    (insNat row (w.tile c t).clean).length

theorem Work.rowCopied_copies (w : Work) (c t row : Nat) (hlen : (insNat row (w.tile c t).clean).length < 2048) :
    let v := w.rowCopied c t row
    v.tile c t = { w.tile c t with clean := insNat row (w.tile c t).clean } ∧ v.cells = w.cells ∧
      v.fld (RETIRE_STATUS c t) 16 11 = (insNat row (w.tile c t).clean).length := by
  refine ⟨(Work.tile_congr (Work.setFld_tiles ..) c t).trans (Work.tile_setTile_same ..), rfl, ?_⟩
  rw [Work.rowCopied, Work.fld_setFld_same _ _ _ _ _ (by decide)]
  exact Nat.mod_eq_of_lt hlen

/-- Giving up staging records of copies changes no cell and no set of clean rows. -/
theorem Work.dropCopy_keeps (w : Work) (c t row : Nat) :
    let v := w.dropCopy c t row
    (∃ l, v.tile c t = { w.tile c t with copyFailed := l }) ∧ v.cells = w.cells :=
  ⟨⟨_, Work.tile_setTile_same ..⟩, rfl⟩

/-- A unit with no failure keeps the registers that a retirement goes by. -/
theorem Work.UnitEnded.retire {c t : Nat} {u : TileUnit} {w v : Work} (h : w.UnitEnded c t u [] v) (hp : u.phys < 8) :
    v.rd (RETIRE_STATUS c t) = w.rd (RETIRE_STATUS c t) ∧ v.rd (DECK_VFAIL c t u.phys) = w.rd (DECK_VFAIL c t u.phys) ∧
      v.vfyLimit c t = w.vfyLimit c t := by
  have hout : ∀ o, 0x220 ≤ o → o < 0x400 → (o < 0x240 ∨ 0x280 ≤ o) → tileBase c t + o ∉ unitRegs c t u.phys [] := by
    intro o hlo hhi ho
    have htransient := tileBase_ne_TRANSIENT_CNT c t o
    simp [unitRegs, readRegs, failRegs, TILE_STATUS, CAL_STATUS, ROWUNIT_CNT, VFY_RETRY_CNT, PGM_STATUS, DECK_WEAR_RESET, DECK_WEAR_SET]
    omega
  have hlimit : PGM_LIMIT c t ∉ unitRegs c t u.phys [] := by
    have htransient := tileBase_ne_TRANSIENT_CNT c t 0x204
    simp [unitRegs, readRegs, failRegs, TILE_STATUS, CAL_STATUS, ROWUNIT_CNT, VFY_RETRY_CNT, PGM_STATUS, DECK_WEAR_RESET, DECK_WEAR_SET,
      PGM_LIMIT]
    omega
  refine ⟨h.regs.rd (hout 0x230 (by decide) (by decide) (by decide)), h.regs.rd ?_, ?_⟩
  · rw [DECK_VFAIL, Nat.add_assoc]
    exact hout _ (by omega) (by omega) (by omega)
  · rw [Work.vfyLimit, Work.vfyLimit, Work.live, Work.live, h.force, h.regs.rd hlimit]

/-- A copy with no failure, of a target whose failures are within the limit and that has rows left, leaves one row more clean. -/
theorem Work.copyDone_eq {w : Work} {c t : Nat} {u : TileUnit} (ht : t < 16) (hp : u.phys < 8)
    (hstate : w.fld (RETIRE_STATUS c t) 8 2 = 1) (htarget : w.fld (RETIRE_STATUS c t) 4 3 = u.phys)
    (hfails : w.rd (DECK_VFAIL c t u.phys) ≤ w.vfyLimit c t) (hlen : (insNat u.row (w.tile c t).clean).length < 1024) :
    w.copyDone c t u [] [] = (((w.unitEnds c t u [] []).dropSupply c t).dropCopy c t u.row).rowCopied c t u.row := by
  have hended := w.unitEnds_clean c t u
  obtain ⟨hretire, hvfail, hlimit⟩ := hended.retire hp
  have hkept := (w.unitEnds c t u [] []).dropSupply_kept c t
  have hretire' : ((w.unitEnds c t u [] []).dropSupply c t).rd (RETIRE_STATUS c t) = w.rd (RETIRE_STATUS c t) :=
    (hkept.rd (inTile_tileBase c ht (o := 0x230) (by decide))).trans hretire
  have hvfail' : ((w.unitEnds c t u [] []).dropSupply c t).rd (DECK_VFAIL c t u.phys) = w.rd (DECK_VFAIL c t u.phys) := by
    rw [← hvfail, DECK_VFAIL, Nat.add_assoc]
    exact hkept.rd (inTile_tileBase c ht (by omega))
  have hlimit' : ((w.unitEnds c t u [] []).dropSupply c t).vfyLimit c t = w.vfyLimit c t := by
    rw [← hlimit, Work.vfyLimit, Work.vfyLimit, PGM_LIMIT, hkept.live (inTile_tileBase c ht (by decide))]
  have hclean : (((w.unitEnds c t u [] []).dropSupply c t).tile c t).clean = (w.tile c t).clean := by
    obtain ⟨q, hq⟩ := hended.tile
    rw [hkept.tile, hq]
  unfold Work.copyDone
  generalize (w.unitEnds c t u [] []).dropSupply c t = v at *
  obtain ⟨⟨l, hl⟩, -⟩ := v.dropCopy_keeps c t u.row
  have hclean' : ((v.dropCopy c t u.row).tile c t).clean = (w.tile c t).clean := by rw [hl, hclean]
  simp only [Work.fld_congr hretire', hstate, htarget, hlimit', hvfail', Nat.not_lt.mpr hfails, TileUnit.failures_nil, List.isEmpty_nil,
    hclean', hlen, ne_eq, not_true_eq_false, decide_false, Bool.or_self, Bool.false_eq_true, if_false, if_true]
  rw [Work.rowCopied, hclean']

theorem leads_copyUnitDone {s : State} {c : Fin 1024} {t : Fin 16} {u : TileUnit} (hb : s.board.alive = true)
    (hunit : (s.work.tile c.val t.val).unit = some u) (hkind : u.kind = .copy) (hclean : u.Clean) (hp : u.phys < 8)
    (hstate : s.work.fld (RETIRE_STATUS c.val t.val) 8 2 = 1) (htarget : s.work.fld (RETIRE_STATUS c.val t.val) 4 3 = u.phys)
    (hfails : s.work.rd (DECK_VFAIL c.val t.val u.phys) ≤ s.work.vfyLimit c.val t.val)
    (hlen : (insNat u.row (s.work.tile c.val t.val).clean).length < 1024) :
    Leads (.copyUnitDone c t [] []) s (fun w =>
      (w.tile c.val t.val).clean = insNat u.row (s.work.tile c.val t.val).clean ∧
      w.fld (RETIRE_STATUS c.val t.val) 16 11 = (insNat u.row (s.work.tile c.val t.val).clean).length ∧
      w.cellRow c.val t.val u.phys u.row = u.target.map heldLevel ∧ (w.tile c.val t.val).unit = none) := by
  have hended := s.work.unitEnds_clean c.val t.val u
  obtain ⟨q, hq⟩ := hended.tile
  have hdone := Work.copyDone_eq t.isLt hp hstate htarget hfails hlen
  generalize s.work.unitEnds c.val t.val u [] [] = v at *
  have hkept := v.dropSupply_kept c.val t.val
  generalize v.dropSupply c.val t.val = x at *
  obtain ⟨⟨l, hl⟩, hcells⟩ := x.dropCopy_keeps c.val t.val u.row
  generalize x.dropCopy c.val t.val u.row = y at *
  have htile : y.tile c.val t.val = { s.work.tile c.val t.val with unit := none, queue := q, copyFailed := l } := by
    rw [hl, hkept.tile, hq]
  have hrows : (y.tile c.val t.val).clean = (s.work.tile c.val t.val).clean := by rw [htile]
  obtain ⟨htile', hcells', hcount⟩ := y.rowCopied_copies c.val t.val u.row (by rw [hrows]; omega)
  refine ⟨y.rowCopied c.val t.val u.row, gives_of_run (execCopyUnitDone.eq_1 c t [] [] s) hb (Work.onUnit_eq hunit ?run),
    ?_, ?_, ?_, ?_⟩
  case run => simp only [hkind, hclean.result, hdone]
  · rw [htile', hrows]
  · rw [hcount, hrows]
  · rw [Work.cellRow, hcells', hcells, hkept.cells]
    exact hended.cellRow_clean
  · rw [htile', htile]

end Sys2Proof.Machine
end

section
/-! ### Restore transfers and clearing units (R126, R418, R516) -/

namespace Sys2Proof.Machine

/-- A record that has been taken back is not taken back again (R413). -/
theorem Work.takeBack_taken {w : Work} (h : w.mgr.restoreTaken = true) : w.takeBack = w := by
  unfold Work.takeBack
  split
  · exact if_pos (by rw [h, Bool.true_or, Bool.true_or])
  · rfl

/-- Targets at a rail are counted and flagged (R117). -/
def Work.railsShown (w : Work) (c t n : Nat) : Work := if n = 0 then w else (w.incBy (LVL_RAIL_CNT c t) n).setBit (PGM_STATUS c t) 7

/-- Between two states only two registers of a tile may differ, the count of rails and PGM_STATUS. -/
structure Work.RailsKept (c t : Nat) (w v : Work) : Prop where
  rest : v = { w with regs := v.regs }
  regs : RegsKept w v [LVL_RAIL_CNT c t, PGM_STATUS c t]

theorem Work.RailsKept.cells {c t : Nat} {w v : Work} (h : w.RailsKept c t v) : v.cells = w.cells := by rw [h.rest]
theorem Work.RailsKept.force {c t : Nat} {w v : Work} (h : w.RailsKept c t v) : v.force = w.force := by rw [h.rest]
theorem Work.RailsKept.tile {c t : Nat} {w v : Work} (h : w.RailsKept c t v) : v.tile c t = w.tile c t :=
  Work.tile_congr (by rw [h.rest]) c t

theorem Work.railsShown_kept (w : Work) (c t n : Nat) : w.RailsKept c t (w.railsShown c t n) := by
  unfold Work.railsShown
  split
  · exact ⟨rfl, RegsKept.refl w _⟩
  · exact ⟨rfl, ((RegsKept.refl w _).wr (by simp) _).wr (by simp) _⟩

theorem Work.csdiv_congr {v w : Work} {c t k : Nat} (hforce : v.force = w.force) (h : v.rd (DECK_CFG c t k) = w.rd (DECK_CFG c t k)) :
    v.csdiv c t k = w.csdiv c t k := by
  rw [Work.csdiv, Work.csdiv, Work.live, Work.live, hforce, h]

/-- The state that a restore transfer's unit starts in: its row is planned and no longer left to restore. -/
def Work.restorePlanned (w : Work) (c t k row : Nat) (m : DeckMap) (rest : List (Nat × Nat)) : Work :=
  let q := w.rowPlan c (m.entry t k) row m.pexp 16
  (q.2.railsShown c t q.1.rails).setTile c t { w.tile c t with restoreRows := rest }

theorem Work.restorePlanned_cells (w : Work) (c t k row : Nat) (m : DeckMap) (rest : List (Nat × Nat)) :
    (w.restorePlanned c t k row m rest).cells = w.cells := by
  rw [Work.restorePlanned, Work.setTile_cells, (Work.railsShown_kept _ c t _).cells,
    (w.rowPlan_kept c (m.entry t k) row m.pexp 16).tilesKept.cells]

/-- Only the read of the row may have moved the divisor of its deck: 64 and 71 number no deck, but the two registers of the rails. -/
theorem Work.csdiv_restorePlanned (w : Work) {c t k row : Nat} {m : DeckMap} {rest : List (Nat × Nat)} (h64 : k ≠ 64) (h71 : k ≠ 71) :
    (w.restorePlanned c t k row m rest).csdiv c t k = (w.rowPlan c (m.entry t k) row m.pexp 16).2.csdiv c t k := by
  have hrails := (w.rowPlan c (m.entry t k) row m.pexp 16).2.railsShown_kept c t (w.rowPlan c (m.entry t k) row m.pexp 16).1.rails
  have hout : DECK_CFG c t k ∉ [LVL_RAIL_CNT c t, PGM_STATUS c t] := by
    simp [DECK_CFG, LVL_RAIL_CNT, PGM_STATUS]
    omega
  refine Work.csdiv_congr ?_ ((Work.rd_congr (Work.setTile_regs ..) _).trans (hrails.regs.rd hout))
  rw [Work.restorePlanned, Work.setTile_force, hrails.force]

/-- A tile starts the first row left to restore, of a mapped deck, where the row's levels are not its targets (R117, R418). -/
theorem Work.startRestore_eq {w : Work} {c t k row at_ : Nat} {rest : List (Nat × Nat)} {m : DeckMap}
    (htime : w.unitTime c t 0 = some at_) (hrows : (w.tile c t).restoreRows = (k, row) :: rest) (hclear : w.sec.clearing = none)
    (hheld : w.held c t = false) (hsupply : w.outsideSupply c t = true) (htaken : w.mgr.restoreTaken = true)
    (hmap : Sp.find (w.tile c t).maps k = some m) (hpoison : (w.rowPlan c (m.entry t k) row m.pexp 16).1.poison = false)
    (hchanged : (w.rowPlan c (m.entry t k) row m.pexp 16).1.old ≠ (w.rowPlan c (m.entry t k) row m.pexp 16).1.target) :
    let q := w.rowPlan c (m.entry t k) row m.pexp 16
    let v := w.restorePlanned c t k row m rest
    w.startRestore c t = (v.takeSupply c t false).unitGo c t at_ (v.rowUnit c t k row .restore q.1.old q.1.target) false := by
  have hnext : w.nextRestore c t ((k, row) :: rest) =
      (some (k, row, (w.rowPlan c (m.entry t k) row m.pexp 16).1), rest,
        (w.rowPlan c (m.entry t k) row m.pexp 16).2.railsShown c t (w.rowPlan c (m.entry t k) row m.pexp 16).1.rails) := by
    simp only [Work.nextRestore, hmap, hpoison, hchanged, Work.railsShown, decide_false, Bool.or_self, Bool.false_eq_true, if_false]
  have htile : ((w.rowPlan c (m.entry t k) row m.pexp 16).2.railsShown c t
      (w.rowPlan c (m.entry t k) row m.pexp 16).1.rails).tile c t = w.tile c t := by
    rw [(Work.railsShown_kept _ c t _).tile, (w.rowPlan_kept c (m.entry t k) row m.pexp 16).tilesKept.tile]
  intro q v
  unfold Work.startRestore
  simp only [htime, hrows, hclear, hheld, hsupply, htaken, hnext, htile, List.isEmpty_cons, Option.isSome_none, Bool.not_true, Bool.or_self,
    Bool.false_eq_true, if_false]
  rfl

theorem leads_restoreTransferStart {s : State} {c : Fin 1024} {t : Fin 16} {k row at_ : Nat} {rest : List (Nat × Nat)} {m : DeckMap}
    (hdeck : k < 8) (hb : s.board.alive = true) (htime : s.work.unitTime c.val t.val 0 = some at_)
    (hrows : (s.work.tile c.val t.val).restoreRows = (k, row) :: rest) (hclear : s.work.sec.clearing = none)
    (hheld : s.work.held c.val t.val = false) (hsupply : s.work.outsideSupply c.val t.val = true)
    (htaken : s.work.mgr.restoreTaken = true) (hmap : Sp.find (s.work.tile c.val t.val).maps k = some m) :
    let q := s.work.rowPlan c.val (m.entry t.val k) row m.pexp 16
    q.1.poison = false → q.1.old ≠ q.1.target →
    Leads (.restoreTransferStart c t) s (fun w =>
      w.UnitRuns c.val t.val at_ (fun u => u.kind = .restore ∧ u.ldeck = k ∧ u.row = row ∧
        u.target = q.1.target ++ [csumLevel (s.work.csdiv c.val t.val k) q.1.target] ++ refLevels) ∧
      (w.tile c.val t.val).restoreRows = rest ∧ w.cells = s.work.cells) := by
  intro q hpoison hchanged
  have hstarted := Work.startRestore_eq htime hrows hclear hheld hsupply htaken hmap hpoison hchanged
  have hdiv : (s.work.restorePlanned c.val t.val k row m rest).csdiv c.val t.val k = s.work.csdiv c.val t.val k :=
    (s.work.csdiv_restorePlanned (by omega) (by omega)).trans
      ((s.work.rowPlan_kept c.val (m.entry t.val k) row m.pexp 16).tilesKept.csdiv c.val t.isLt hdeck)
  have hcells := s.work.restorePlanned_cells c.val t.val k row m rest
  have htile : (s.work.restorePlanned c.val t.val k row m rest).tile c.val t.val =
      { s.work.tile c.val t.val with restoreRows := rest } := Work.tile_setTile_same ..
  dsimp only at hstarted
  generalize s.work.restorePlanned c.val t.val k row m rest = v at *
  have hkept := v.takeSupply_kept c.val t.val false
  refine ⟨_, gives_of_run (execRestoreTransferStart.eq_1 c t s) hb ((congrArg (·.startRestore c.val t.val)
    (Work.takeBack_taken htaken)).trans hstarted), Work.unitGo_runs _ _ _ _ _ _ ⟨rfl, rfl, rfl, ?_⟩, ?_, ?_⟩
  · rw [← hdiv]
    rfl
  · rw [Work.tile_unitGo, Work.tileBegun, hkept.tile, htile]
  · rw [Work.unitGo_cells, hkept.cells, hcells]

/-- The unit that drives the next row of a tile's logical decks to level 0 (R516). -/
def Work.clearUnit (w : Work) (c t n : Nat) : TileUnit :=
  let old := w.cellRow c t (w.phys c t (n / 1024)) (n % 1024)
  { kind := .clear, start := 0, ldeck := n / 1024, phys := w.phys c t (n / 1024), row := n % 1024, old := old,
    target := List.replicate 1025 0 ++ old.drop 1025 }

theorem Work.startClear_eq {w : Work} {c t at_ : Nat} (htime : w.unitTime c t 0 = some at_) (hclear : w.sec.clearing.isSome = true)
    (hleft : (w.tile c t).cleared < w.clearRows) (hheld : w.held c t = false) (hsupply : w.outsideSupply c t = true) :
    w.startClear c t = (w.takeSupply c t false).unitGo c t at_ (w.clearUnit c t (w.tile c t).cleared) false := by
  have hsome : w.sec.clearing.isNone = false := by rw [← Option.not_isSome, hclear, Bool.not_true]
  unfold Work.startClear
  simp only [htime, hsome, Nat.not_le.mpr hleft, hheld, hsupply, decide_false, Bool.not_true, Bool.or_self, Bool.false_eq_true, if_false]
  rfl

theorem leads_deckClearUnitStart {s : State} {c : Fin 1024} {t : Fin 16} {at_ : Nat} (hb : s.board.alive = true)
    (htime : s.work.unitTime c.val t.val 0 = some at_) (hclear : s.work.sec.clearing.isSome = true)
    (hleft : (s.work.tile c.val t.val).cleared < s.work.clearRows) (hheld : s.work.held c.val t.val = false)
    (hsupply : s.work.outsideSupply c.val t.val = true) :
    let n := (s.work.tile c.val t.val).cleared
    Leads (.deckClearUnitStart c t) s (fun w =>
      w.UnitRuns c.val t.val at_ (fun u => u.kind = .clear ∧ u.ldeck = n / 1024 ∧ u.row = n % 1024 ∧
        u.target.take 1025 = List.replicate 1025 0) ∧
      w.mem = s.work.mem ∧ w.cells = s.work.cells) := by
  intro n
  refine ⟨_, gives_of_run (execDeckClearUnitStart.eq_1 c t s) hb (Work.startClear_eq htime hclear hleft hheld hsupply),
    Work.unitGo_runs _ _ _ _ _ _ ⟨rfl, rfl, rfl, List.take_left' List.length_replicate⟩, ?_, ?_⟩
  · rw [Work.unitGo_mem, Work.takeSupply_mem]
  · rw [Work.unitGo_cells, (s.work.takeSupply_kept c.val t.val false).cells]

end Sys2Proof.Machine
end

section
/-! ### Service gaps (R105, R120, R142) -/

namespace Sys2Proof.Machine

/-- A tile's hold is over, and no unit shows. -/
theorem Work.releaseHold_shows (w : Work) (c t : Nat) :
    (w.releaseHold c t).held c t = false ∧ (w.releaseHold c t).flag (PGM_STATUS c t) 0 = false := by
  constructor
  · exact (Work.flag_setFld_ne _ (CAL_STATUS c t) _ _ _ (by simp [TILE_STATUS, CAL_STATUS]) 2).trans
      ((Work.flag_setFld_ne _ (PGM_STATUS c t) _ _ _ (by simp [TILE_STATUS, PGM_STATUS]) 2).trans
        (Work.flag_clrBit_same _ _ _ (by decide)))
  · exact (Work.flag_setFld_ne _ (CAL_STATUS c t) _ _ _ (by simp [PGM_STATUS, CAL_STATUS]) 0).trans
      (Work.flag_clrBit_same _ _ _ (by decide))

theorem Work.tile_pgmGap (w : Work) (c t : Nat) (u : TileUnit) (a b : List (Nat × Int)) :
    (w.pgmGap c t u a b).tile c t = { w.tile c t with unit := some { u with found := some (u.result a b) } } :=
  (Work.tile_congr rfl c t).trans (Work.tile_setTile_same ..)

theorem Work.pgmGap_cells (w : Work) (c t : Nat) (u : TileUnit) (a b : List (Nat × Int)) :
    (w.pgmGap c t u a b).cells = Sp.put w.cells (cellKey c t u.phys u.row) ((measured (u.result a b).2 u.target).map heldLevel) := rfl

/-- The service gap of a programming unit, whatever its kind. -/
theorem gives_serviceGap {s : State} {c : Fin 1024} {t : Fin 16} {u : TileUnit} (a b : List (Nat × Int)) (hb : s.board.alive = true)
    (hunit : (s.work.tile c.val t.val).unit = some u) (hkind : u.kind ≠ .colOff ∧ u.kind ≠ .colGain ∧ u.kind ≠ .drift) :
    Gives (.serviceGap ⟨c, t⟩ (.verify a b)) s (s.work.pgmGap c.val t.val u a b) := by
  obtain ⟨hoff, hgain, hdrift⟩ := hkind
  refine gives_of_run (execServiceGap.eq_1 ⟨c, t⟩ (.verify a b) s) hb (Work.onUnit_eq hunit ?_)
  cases hk : u.kind with
  | colOff => exact absurd hk hoff
  | colGain => exact absurd hk hgain
  | drift => exact absurd hk hdrift
  | _ => rfl

theorem leads_serviceGap {s : State} {c : Fin 1024} {t : Fin 16} {u : TileUnit} (a b : List (Nat × Int)) (hb : s.board.alive = true)
    (hunit : (s.work.tile c.val t.val).unit = some u) (hkind : u.kind ≠ .colOff ∧ u.kind ≠ .colGain ∧ u.kind ≠ .drift) :
    let f := u.result a b
    Leads (.serviceGap ⟨c, t⟩ (.verify a b)) s (fun w =>
      w.cellRow c.val t.val u.phys u.row = (measured f.2 u.target).map heldLevel ∧
      (∀ k, k ≠ cellKey c.val t.val u.phys u.row → Sp.find w.cells k = Sp.find s.work.cells k) ∧
      w.held c.val t.val = false ∧ w.flag (PGM_STATUS c.val t.val) 0 = false ∧
      (w.tile c.val t.val).unit = some { u with found := some f } ∧ w.now = max s.work.now (u.start + 8000) ∧ w.mem = s.work.mem) := by
  intro f
  have hcells := s.work.pgmGap_cells c.val t.val u a b
  obtain ⟨hheld, hflag⟩ := Work.releaseHold_shows _ c.val t.val
  refine ⟨s.work.pgmGap c.val t.val u a b, gives_serviceGap a b hb hunit hkind, ?_, fun k hk => ?_, hheld, hflag, ?_, rfl, rfl⟩
  · rw [Work.cellRow, hcells, Sp.get_put_same]
  · rw [hcells, Sp.find_put_ne _ _ _ hk]
  · rw [Work.tile_pgmGap]

end Sys2Proof.Machine
end

section
/-! ### A row to restore of a deck that is none

A tile's rows to restore are of its logical decks, 0 to 7 (R418). O12 takes any number, as O10 does: `DECK_CFG_of_deck_34506`.
Everything else that O12 says holds, and this too of the decks of a tile: `leads_refreshUnitStart`, `leads_refreshUnitDone`,
`leads_deckRetireDue`, `leads_levelSurveyDone`, `gives_levelSurveyDone_other`, `leads_copyUnitStart`, `leads_copyUnitDone`,
`leads_restoreTransferStart`, `leads_deckClearUnitStart` and `leads_serviceGap`. -/

namespace Sys2Proof.Machine

/-- The map of deck 34,506, with the addresses of `farEntry`. -/
def farMap : DeckMap := { master := 2097152, level := 3145728, resid := 1048576, pexp := 0, layer := 4096 }

/-- The device after reset with a row of that deck to restore, a residual of 2^127 at the row's first position, a fold of core 1 over
the row's levels outstanding, and core 1's count of such waits at 15. -/
def farRestore : State :=
  { State.reset with work := { Work.reset with
      regs := [(FOLD_WAIT_CNT 1, 15), (OSCALE 0 0 (32 * 34506), 0x4000)], mem := [(1048579, 0x7F)], unfolded := [(1, 3145728, 1024)],
      mgr := { restoreTaken := true }, tiles := [(0, { restoreRows := [(34506, 0)], maps := [(34506, farMap)] })] } }

theorem farRestore_target : (farRestore.work.rowPlan 0 (farMap.entry 0 34506) 0 0 16).1.target = edgeRow :=
  Work.rowPlan_edge rfl (by decide) (by decide) (by decide) (by decide +kernel)

theorem farRestore_changed : (farRestore.work.rowPlan 0 (farMap.entry 0 34506) 0 0 16).1.old ≠
    (farRestore.work.rowPlan 0 (farMap.entry 0 34506) 0 0 16).1.target := by
  rw [farRestore_target]
  decide +kernel

/-- Before the start the row's checksum level is 15. -/
theorem farRestore_planned :
    (farRestore.work.rowPlan 0 (farMap.entry 0 34506) 0 0 16).1.target ++
      [csumLevel (farRestore.work.csdiv 0 0 34506) (farRestore.work.rowPlan 0 (farMap.entry 0 34506) 0 0 16).1.target] ++ refLevels =
      edgeRow ++ [15] ++ refLevels := by
  have hdiv : farRestore.work.csdiv 0 0 34506 = 0 := by decide +kernel
  rw [hdiv, farRestore_target, csumLevel_edgeRow.1]

/-- The unit that starts drives the checksum column to the level of the divisor that the read of the row has counted up. -/
theorem farRestore_started :
    ∃ w, Gives (.restoreTransferStart 0 0) farRestore w ∧ (w.tile 0 0).unit.map (·.target) = some (edgeRow ++ [8] ++ refLevels) := by
  have hstarted := Work.startRestore_eq (w := farRestore.work) (c := 0) (t := 0) (k := 34506) (row := 0) (at_ := 0) (rest := [])
    (m := farMap) (by decide +kernel) rfl rfl (by decide +kernel) (by decide +kernel) rfl rfl (by decide +kernel) farRestore_changed
  have hdiv : (farRestore.work.restorePlanned 0 0 34506 0 farMap []).csdiv 0 0 34506 = 1 :=
    (farRestore.work.csdiv_restorePlanned (by decide) (by decide)).trans (by decide +kernel)
  have hdriven : (farRestore.work.rowPlan 0 (farMap.entry 0 34506) 0 0 16).1.target ++
      [csumLevel ((farRestore.work.restorePlanned 0 0 34506 0 farMap []).csdiv 0 0 34506)
        (farRestore.work.rowPlan 0 (farMap.entry 0 34506) 0 0 16).1.target] ++ refLevels = edgeRow ++ [8] ++ refLevels := by
    rw [hdiv, farRestore_target, csumLevel_edgeRow.2.1]
  refine ⟨_, gives_of_run (execRestoreTransferStart.eq_1 0 0 farRestore) rfl
    ((congrArg (·.startRestore 0 0) (Work.takeBack_taken rfl)).trans hstarted), ?_⟩
  rw [Work.tile_unitGo]
  exact congrArg some hdriven

/-- Refutes O12: at deck 34,506 a restore transfer's unit drives the checksum column to the level of the divisor that the start has
just counted up, 8, not to that of the one that stood there before, 15. -/
theorem not_staleRowsDecksAndClearing : ¬ Obligations.StaleRowsDecksAndClearing := by
  rintro ⟨-, -, hrestore, -⟩
  obtain ⟨w, hgives, ⟨⟨u, hunit, -, -, -, -, htarget⟩, -⟩, -⟩ :=
    hrestore farRestore 0 0 34506 0 0 [] farMap rfl (by decide +kernel) rfl rfl (by decide +kernel) (by decide +kernel) rfl rfl
      (by decide +kernel) farRestore_changed
  obtain ⟨v, hstarted, hdriven⟩ := farRestore_started
  have hunit' : (w.tile 0 0).unit = some u := hunit
  rw [← hgives.unique hstarted, hunit', Option.map_some, htarget.trans farRestore_planned] at hdriven
  simp at hdriven

end Sys2Proof.Machine
end

section
/-! ### The start of a calibration unit (R154, R159, R166) -/

namespace Sys2Proof.Machine

/-- The calibration run as the start of a unit leaves it: a COL_OFF unit is followed at once by COL_GAIN, a DRIFT unit that is no retry
has had its turn (R154, R166). -/
def CalRun.unitTaken (r : CalRun) (kind : UnitKind) (p : Nat) (retry : Bool) : CalRun :=
  let r := match r.todo with | _ :: rest => { r with todo := rest } | [] => r
  match kind with
  | .colOff => if retry then r else { r with colDone := true, todo := [(.colGain, 0, false)] }
  | .drift => if retry then r else { r with driftDone := p :: r.driftDone }
  | _ => r

/-- The column calibration in progress as the start of a unit leaves it: a COL_OFF unit notes the temperature (R159). -/
def ColPend.unitTaken (x : ColPend) (kind : UnitKind) (retry : Bool) (temp : Nat) : ColPend :=
  match kind with
  | .colOff => if retry then { x with temp := temp } else { temp := temp }
  | _ => x

/-- The state that a calibration unit starts in: its run goes on with it, and it is counted. -/
def Work.calTaken (w : Work) (c t : Nat) (kind : UnitKind) (p : Nat) (retry : Bool) : Work :=
  (w.setTile c t { w.tile c t with
      cal := (w.tile c t).cal.unitTaken kind p retry,
      pend := (w.tile c t).pend.unitTaken kind retry (w.rd (TILE_TEMP c t)) }).inc (CAL_RUN_CNT c t)

section
variable {w : Work} {c t p need at_ : Nat} {kind : UnitKind} {retry : Bool}

/-- A run under way is no run to begin. -/
theorem Work.outsideCal_of_active (h : (w.tile c t).cal.active = true) : w.outsideCal c t = w := by
  simp [Work.outsideCal, h]

/-- A run with a unit left that fits goes on (R166). -/
theorem Work.calCheck_of_fits (hnext : w.calNext c t = some (kind, p, retry, need)) (hfits : w.calFits c t need = true) :
    w.calCheck c t = w := by
  simp [Work.calCheck, hnext, hfits]

/-- Where no run is active none can end. -/
theorem Work.calCheck_of_inactive (h : (w.tile c t).cal.active = false) : w.calCheck c t = w := by
  simp [Work.calCheck, h]

theorem Work.startCal_eq (hactive : (w.tile c t).cal.active = true) (htemp : (w.tile c t).cal.needTemp = false)
    (hnext : w.calNext c t = some (kind, p, retry, need)) (hfits : w.calFits c t need = true)
    (htime : w.unitTime c t 0 = some at_) (hheld : w.held c t = false) :
    w.startCal c t = (w.calTaken c t kind p retry).unitGo c t at_ { kind := kind, start := 0, phys := p, retry := retry } true := by
  unfold Work.startCal
  rw [Work.outsideCal_of_active hactive, Work.calCheck_of_fits hnext hfits]
  simp only [hnext, htime]
  exact if_neg (by simp [hactive, htemp, hheld, hfits])

end

section
variable (w : Work) (c t at_ : Nat) (u : TileUnit)

/-- A calibration unit that starts writes two status registers of its tile. -/
theorem Work.unitStatus_kept : RegsKept w (w.unitStatus c t u true) [TILE_STATUS c t, CAL_STATUS c t] := by
  have hset : RegsKept w ((w.setBit (TILE_STATUS c t) 2).setBit (CAL_STATUS c t) 0) [TILE_STATUS c t, CAL_STATUS c t] :=
    ((RegsKept.refl w _).wr (by simp) _).wr (by simp) _
  rcases Work.unitStatus_cases c t u (w := w) (cal := true) rfl with h | h <;> rw [h]
  · exact hset
  · exact hset.wr (by simp) _

/-- The unit shows in CAL_STATUS (R154). -/
theorem Work.flag_unitStatus_cal : (w.unitStatus c t u true).flag (CAL_STATUS c t) 0 = true := by
  have hset : ((w.setBit (TILE_STATUS c t) 2).setBit (CAL_STATUS c t) 0).flag (CAL_STATUS c t) 0 = true :=
    Work.flag_setBit_same _ _ _ (by decide)
  rcases Work.unitStatus_cases c t u (w := w) (cal := true) rfl with h | h <;> rw [h]
  · exact hset
  · exact (Work.flag_setFld_ne _ (TILE_STATUS c t) 3 3 u.phys (by simp [TILE_STATUS, CAL_STATUS]) 0).trans hset

theorem Work.unitGo_kept : RegsKept w (w.unitGo c t at_ u true) [TILE_STATUS c t, CAL_STATUS c t] := by
  rw [Work.unitGo_eq]
  exact ((RegsKept.refl w _).of_regs rfl).trans (Work.unitStatus_kept _ c t u)

theorem Work.flag_unitGo_cal : (w.unitGo c t at_ u true).flag (CAL_STATUS c t) 0 = true := by
  rw [Work.unitGo_eq]
  exact Work.flag_unitStatus_cal ..

end

theorem Work.tile_calTaken (w : Work) (c t : Nat) (kind : UnitKind) (p : Nat) (retry : Bool) :
    (w.calTaken c t kind p retry).tile c t = { w.tile c t with
      cal := (w.tile c t).cal.unitTaken kind p retry,
      pend := (w.tile c t).pend.unitTaken kind retry (w.rd (TILE_TEMP c t)) } :=
  (Work.tile_congr rfl c t).trans (Work.tile_setTile_same ..)

theorem Work.calTaken_kept (w : Work) (c t : Nat) (kind : UnitKind) (p : Nat) (retry : Bool) :
    RegsKept w (w.calTaken c t kind p retry) [CAL_RUN_CNT c t] :=
  ((RegsKept.refl w _).of_regs rfl).wr (by simp) _

theorem Work.rd_calTaken (w : Work) (c t : Nat) (kind : UnitKind) (p : Nat) (retry : Bool) :
    (w.calTaken c t kind p retry).rd (CAL_RUN_CNT c t) = min (w.rd (CAL_RUN_CNT c t) + 1) 0xFFFFFFFF := by
  rw [Work.calTaken, Work.rd_inc_same, Work.rd_congr (Work.setTile_regs ..)]

theorem Work.beatCnt_of_kept {w v : Work} {l : List Nat} (h : RegsKept w v l) (hlo : BEAT_COUNT_LO ∉ l) (hhi : BEAT_COUNT_HI ∉ l) :
    v.beatCnt = w.beatCnt := by
  rw [Work.beatCnt, Work.beatCnt, h.rd hlo, h.fld hhi]

/-- R154, R166: the next unit of a calibration run starts, holds the tile and is counted. -/
theorem leads_calUnitStart {s : State} {c : Fin 1024} {t : Fin 16} {kind : UnitKind} {p : Nat} {retry : Bool} {need at_ : Nat}
    (hb : s.board.alive = true) (hactive : (s.work.tile c.val t.val).cal.active = true)
    (htemp : (s.work.tile c.val t.val).cal.needTemp = false) (hnext : s.work.calNext c.val t.val = some (kind, p, retry, need))
    (hfits : s.work.calFits c.val t.val need = true) (htime : s.work.unitTime c.val t.val 0 = some at_)
    (hheld : s.work.held c.val t.val = false) :
    Leads (.calUnitStart c t) s (fun w =>
      w.UnitRuns c.val t.val at_ (fun u => u.kind = kind ∧ u.phys = p ∧ u.retry = retry ∧ u.beat = s.work.beatCnt) ∧
      w.flag (CAL_STATUS c.val t.val) 0 = true ∧
      w.rd (CAL_RUN_CNT c.val t.val) = min (s.work.rd (CAL_RUN_CNT c.val t.val) + 1) 0xFFFFFFFF ∧
      (kind = .drift → retry = false → p ∈ (w.tile c.val t.val).cal.driftDone) ∧
      (kind = .colOff → retry = false → (w.tile c.val t.val).cal.todo = [(.colGain, 0, false)] ∧
        (w.tile c.val t.val).pend.temp = s.work.rd (TILE_TEMP c.val t.val)) ∧
      w.mem = s.work.mem ∧ w.cells = s.work.cells) := by
  have hbeat : (s.work.calTaken c.val t.val kind p retry).beatCnt = s.work.beatCnt := by
    refine Work.beatCnt_of_kept (s.work.calTaken_kept c.val t.val kind p retry) ?_ ?_ <;>
      simp [BEAT_COUNT_LO, BEAT_COUNT_HI, CAL_RUN_CNT, tileBase, coreBase] <;> omega
  refine ⟨_, gives_of_run (execCalUnitStart.eq_1 c t s) hb (Work.startCal_eq hactive htemp hnext hfits htime hheld),
    Work.unitGo_runs _ _ _ _ _ _ ⟨rfl, rfl, rfl, hbeat⟩, Work.flag_unitGo_cal .., ?count, ?drift, ?off, ?_, ?_⟩
  case count =>
    exact ((Work.unitGo_kept _ c.val t.val at_ _).rd (by simp [CAL_RUN_CNT, TILE_STATUS, CAL_STATUS])).trans (Work.rd_calTaken ..)
  case drift =>
    rintro rfl rfl
    rw [Work.tile_unitGo, Work.tileBegun, Work.tile_calTaken]
    exact List.mem_cons_self
  case off =>
    rintro rfl rfl
    rw [Work.tile_unitGo, Work.tileBegun, Work.tile_calTaken]
    exact ⟨rfl, rfl⟩
  · rw [Work.unitGo_mem]
    rfl
  · rw [Work.unitGo_cells]
    rfl

end Sys2Proof.Machine
end

section
/-! ### The end of a calibration unit (R152, R154, R168) -/

namespace Sys2Proof.Machine

/-- What judging a unit's result leaves: registers and tiles alone may differ, and the tile's run is as it was. -/
structure Work.Judged (c t : Nat) (w v : Work) : Prop where
  rest : v = { w with regs := v.regs, tiles := v.tiles }
  cal : (v.tile c t).cal = (w.tile c t).cal

/-- The hold of a calibration unit over, its result taken (R152). -/
def Work.calHoldOver (w : Work) (c t : Nat) (u : TileUnit) : Work :=
  (w.setTile c t { w.tile c t with unit := some { u with found := some ([], []) } }).releaseHold c t

/-- The end of a calibration unit whose hold is over. -/
def Work.calUnitOver (w : Work) (c t : Nat) (u : TileUnit) : Work := ((w.calHoldOver c t u).till (u.start + 10000)).unitOver c t

section
variable {w v : Work} {c t : Nat} {u : TileUnit} {sums : CalSums}

theorem Work.calGap_eq (hfound : u.found = none) (hsums : (w.till (u.start + 8000)).calSums c t u sums = some v) :
    w.calGap c t u sums = some (v.calHoldOver c t u) := by
  rw [Work.calGap, if_neg (by simp [hfound]), hsums]
  rfl

theorem Work.tile_calHoldOver (v : Work) (c t : Nat) (u : TileUnit) :
    (v.calHoldOver c t u).tile c t = { v.tile c t with unit := some { u with found := some ([], []) } } :=
  (Work.tile_congr rfl c t).trans (Work.tile_setTile_same ..)

theorem Work.calHoldOver_kept (v : Work) (c t : Nat) (u : TileUnit) :
    RegsKept v (v.calHoldOver c t u) [TILE_STATUS c t, PGM_STATUS c t, CAL_STATUS c t] :=
  ((((RegsKept.refl v _).of_regs rfl).wr (by simp) _).wr (by simp) _).wr (by simp) _

theorem Work.calUnitOver_kept (v : Work) (c t : Nat) (u : TileUnit) :
    RegsKept v (v.calUnitOver c t u) [TILE_STATUS c t, PGM_STATUS c t, CAL_STATUS c t] :=
  ((v.calHoldOver_kept c t u).of_regs (Work.till_regs _ (u.start + 10000))).trans (Work.unitOver_let _ c t).regs

/-- The tile lets its calibration unit go; nothing else of it but the session queue may change. -/
theorem Work.tile_calUnitOver (v : Work) (c t : Nat) (u : TileUnit) :
    ∃ q, (v.calUnitOver c t u).tile c t = { v.tile c t with unit := none, queue := q } := by
  obtain ⟨q, hq⟩ := (Work.unitOver_let ((v.calHoldOver c t u).till (u.start + 10000)) c t).tile
  refine ⟨q, ?_⟩
  rw [Work.calUnitOver, hq, Work.tile_congr (Work.till_tiles ..), Work.tile_calHoldOver]

theorem Work.calUnitOver_mem (v : Work) (c t : Nat) (u : TileUnit) : (v.calUnitOver c t u).mem = v.mem := by
  rw [Work.calUnitOver, (Work.unitOver_let _ c t).rest]
  rfl

/-- The end of a hold clears bit 0 of CAL_STATUS alone. -/
theorem Work.flag_releaseHold_cal (w : Work) (c t : Nat) {i : Nat} (hi : i ≠ 0) :
    (w.releaseHold c t).flag (CAL_STATUS c t) i = w.flag (CAL_STATUS c t) i := by
  unfold Work.releaseHold
  rw [Work.clrBit, Work.flag_setFld _ _ _ _ _ _ (by decide), if_neg (by omega), Work.clrBit,
    Work.flag_setFld_ne _ _ _ _ _ (by simp [PGM_STATUS, CAL_STATUS]), Work.clrBit,
    Work.flag_setFld_ne _ _ _ _ _ (by simp [TILE_STATUS, CAL_STATUS])]

theorem Work.flag_unitOver_cal (w : Work) (c t : Nat) {i : Nat} (hi : i ≠ 0) :
    (w.unitOver c t).flag (CAL_STATUS c t) i = w.flag (CAL_STATUS c t) i := by
  have htile : ((w.setTile c t { w.tile c t with unit := none }).releaseHold c t).tile c t = { w.tile c t with unit := none } :=
    (Work.tile_congr rfl c t).trans (Work.tile_setTile_same ..)
  have hshown := Work.showUndoHold_shown (c := c) (t := t) (congrArg Tile.unit htile)
  exact (hshown.regs.flag (by simp [TILE_STATUS, CAL_STATUS]) i).trans (Work.flag_releaseHold_cal _ c t hi)

theorem Work.flag_calUnitOver (v : Work) (c t : Nat) (u : TileUnit) {i : Nat} (hi : i ≠ 0) :
    (v.calUnitOver c t u).flag (CAL_STATUS c t) i = v.flag (CAL_STATUS c t) i := by
  have htill := Work.rd_congr (Work.till_regs (v.calHoldOver c t u) (u.start + 10000)) (CAL_STATUS c t)
  rw [Work.calUnitOver, Work.flag_unitOver_cal _ c t hi, Work.flag_congr htill, Work.calHoldOver, Work.flag_releaseHold_cal _ c t hi,
    Work.flag_congr (Work.rd_congr (Work.setTile_regs ..) _)]

/-- Outside a run, a calibration unit ends with its result taken, and nothing follows. -/
theorem Work.calDone_eq (hunit : (w.tile c t).unit = some u) (hinactive : (w.tile c t).cal.active = false) (hfound : u.found = none)
    (hsums : (w.till (u.start + 8000)).calSums c t u sums = some v) (hjudged : (w.till (u.start + 8000)).Judged c t v) :
    w.calDone c t sums = v.calUnitOver c t u := by
  have hover : ((v.calUnitOver c t u).tile c t).cal.active = false := by
    obtain ⟨q, hq⟩ := v.tile_calUnitOver c t u
    rw [hq]
    exact (congrArg CalRun.active hjudged.cal).trans hinactive
  simp only [Work.calDone, hunit, hfound, Option.isSome_none, Bool.false_eq_true, if_false, Work.calGap_eq hfound hsums]
  exact Work.calCheck_of_inactive hover

/-- Its hold is that of the undo of its core (R138). -/
theorem Work.Judged.held_calUnitOver {n : Nat} (h : (w.till n).Judged c t v) : (v.calUnitOver c t u).held c t = w.undoHeld c t :=
  (Work.unitOver_let ((v.calHoldOver c t u).till (u.start + 10000)) c t).held.trans
    (Work.undoHeld_congr (by show v.commits = w.commits; rw [h.rest]; rfl) c t)

theorem Work.Judged.mem_calUnitOver {n : Nat} (h : (w.till n).Judged c t v) : (v.calUnitOver c t u).mem = w.mem := by
  rw [Work.calUnitOver_mem, h.rest]
  rfl

theorem Work.Judged.now_calHoldOver {n : Nat} (h : (w.till n).Judged c t v) : (v.calHoldOver c t u).now = max w.now n := by
  show v.now = _
  rw [h.rest]
  rfl

end

/-- CAL_UNIT_DONE of a unit outside a run. -/
theorem gives_calUnitDone {s : State} {c : Fin 1024} {t : Fin 16} {u : TileUnit} {sums : CalSums} {v : Work} (hb : s.board.alive = true)
    (hunit : (s.work.tile c.val t.val).unit = some u) (hinactive : (s.work.tile c.val t.val).cal.active = false)
    (hfound : u.found = none) (hsums : (s.work.till (u.start + 8000)).calSums c.val t.val u sums = some v)
    (hjudged : (s.work.till (u.start + 8000)).Judged c.val t.val v) :
    Gives (.calUnitDone c t sums) s (v.calUnitOver c.val t.val u) :=
  gives_of_run (execCalUnitDone.eq_1 c t sums s) hb (Work.calDone_eq hunit hinactive hfound hsums hjudged)

/-- SERVICE_GAP of a DRIFT unit, with its codes. -/
theorem gives_serviceGap_drift {s : State} {c : Fin 1024} {t : Fin 16} {u : TileUnit} {codes : List (List Int)} {v : Work}
    (hb : s.board.alive = true) (hunit : (s.work.tile c.val t.val).unit = some u) (hkind : u.kind = .drift) (hfound : u.found = none)
    (hsums : (s.work.till (u.start + 8000)).calSums c.val t.val u (.drift codes) = some v) :
    Gives (.serviceGap ⟨c, t⟩ (.sums (.drift codes))) s (v.calHoldOver c.val t.val u) :=
  gives_of_run (execServiceGap.eq_1 ⟨c, t⟩ (.sums (.drift codes)) s) hb
    (Work.onUnit_eq hunit (by simp only [hkind, Work.calGap_eq hfound hsums]))

end Sys2Proof.Machine
end

section
/-! ### The judgement of a calibration result (R155, R158, R161, R169, R170) -/

namespace Sys2Proof.Machine

theorem mem_insNat_self (k : Nat) (l : List Nat) : k ∈ insNat k l := by
  induction l with
  | nil => exact List.mem_cons_self
  | cons x xs ih =>
    rw [insNat]
    split
    · exact List.mem_cons_self
    · split
      case isTrue hk => exact hk ▸ List.mem_cons_self
      case isFalse => exact List.mem_cons_of_mem x ih

/-- A bit beside the one cleared reads as before. -/
theorem Work.flag_clrBit_apart (w : Work) (a : Nat) {i j : Nat} (hi : i < 32) (h : j ≠ i) : (w.clrBit a i).flag a j = w.flag a j := by
  rw [Work.clrBit, Work.flag_setFld _ _ _ _ _ _ (by omega), if_neg (by omega)]

section
variable (w : Work) (c t : Nat) (u : TileUnit) (d : Nat)

/-- A passing unit changes registers alone (R172). -/
theorem Work.calPassed_frame (retry : Bool) : w.calPassed c t retry = { w with regs := (w.calPassed c t retry).regs } := by
  cases retry <;> rfl

theorem Work.tile_calPassed (retry : Bool) : (w.calPassed c t retry).tile c t = w.tile c t :=
  Work.tile_congr (by rw [Work.calPassed_frame]) c t

/-- A passing DRIFT unit's values: the gain, its beat, and the deck no longer due nor failed (R158, R161). -/
def Work.driftSet : Work :=
  ((((w.wr (DRIFT_GAIN c t u.phys) d).wr (DRIFT_BEAT c t u.phys) (u.beat % 2 ^ 32)).clrBit (CAL_DUE c t) (8 + u.phys)).clrBit
    (CAL_DUE c t) (16 + u.phys)).clrBit (CAL_STATUS c t) (8 + u.phys)

theorem Work.driftSet_frame : w.driftSet c t u d = { w with regs := (w.driftSet c t u d).regs } := rfl

theorem Work.tile_driftSet : (w.driftSet c t u d).tile c t = w.tile c t :=
  Work.tile_congr (by rw [Work.driftSet_frame]) c t

/-- The deck's drift gain is measured. -/
def Work.driftNoted : Work :=
  (w.driftSet c t u d).setTile c t
    { (w.driftSet c t u d).tile c t with driftMeasured := insNat u.phys ((w.driftSet c t u d).tile c t).driftMeasured }

theorem Work.driftNoted_regs : (w.driftNoted c t u d).regs = (w.driftSet c t u d).regs := Work.setTile_regs ..

theorem Work.driftNoted_frame :
    w.driftNoted c t u d = { w with regs := (w.driftNoted c t u d).regs, tiles := (w.driftNoted c t u d).tiles } := by
  unfold Work.driftNoted
  generalize hset : w.driftSet c t u d = v
  have hframe : v = { w with regs := v.regs } := hset ▸ w.driftSet_frame c t u d
  rw [hframe]
  rfl

/-- A retirement target in DRIFT state goes on (Table 3-11); nothing else changes. -/
theorem Work.applyDrift_cases :
    w.applyDrift c t u d = w.driftNoted c t u d ∨ w.applyDrift c t u d = (w.driftNoted c t u d).retireState c t 3 := by
  have happly : w.applyDrift c t u d = (w.driftNoted c t u d).when
      ((w.driftNoted c t u d).fld (RETIRE_STATUS c t) 8 2 = 2 && (w.driftNoted c t u d).fld (RETIRE_STATUS c t) 4 3 = u.phys)
      (·.retireState c t 3) := rfl
  rw [happly, Work.when]
  split
  · exact .inr rfl
  · exact .inl rfl

theorem Work.applyDrift_kept : RegsKept (w.driftSet c t u d) (w.applyDrift c t u d) [RETIRE_STATUS c t] := by
  rcases w.applyDrift_cases c t u d with h | h <;> rw [h]
  · exact (RegsKept.refl _ _).of_regs (w.driftNoted_regs c t u d)
  · exact ((RegsKept.refl _ _).of_regs (w.driftNoted_regs c t u d)).wr (by simp) _

theorem Work.applyDrift_frame : w.applyDrift c t u d =
    { w with regs := (w.applyDrift c t u d).regs, tiles := (w.applyDrift c t u d).tiles } := by
  have hnoted := w.driftNoted_frame c t u d
  rcases w.applyDrift_cases c t u d with h | h <;> rw [h]
  · exact hnoted
  · generalize w.driftNoted c t u d = v at *
    rw [hnoted]
    rfl

theorem Work.tile_applyDrift : (w.applyDrift c t u d).tile c t =
    { w.tile c t with driftMeasured := insNat u.phys (w.tile c t).driftMeasured } := by
  have htile : (w.driftNoted c t u d).tile c t = { w.tile c t with driftMeasured := insNat u.phys (w.tile c t).driftMeasured } := by
    rw [Work.driftNoted, Work.tile_setTile_same, w.tile_driftSet]
  rcases w.applyDrift_cases c t u d with h | h <;> rw [h]
  · exact htile
  · exact (Work.tile_congr (Work.setFld_tiles ..) c t).trans htile

variable {u}

/-- What the registers of a deck say once its drift gain is set. -/
theorem Work.driftSet_shows (hp : u.phys < 8) :
    let v := w.driftSet c t u d
    v.rd (DRIFT_GAIN c t u.phys) = d % 2 ^ 32 ∧ v.rd (DRIFT_BEAT c t u.phys) = u.beat % 2 ^ 32 ∧
      v.flag (CAL_DUE c t) (8 + u.phys) = false ∧ v.flag (CAL_DUE c t) (16 + u.phys) = false := by
  have hcal : CAL_DUE c t ≠ CAL_STATUS c t := by simp [CAL_DUE, CAL_STATUS]
  refine ⟨?_, ?_, ?_, ?_⟩
  · rw [Work.driftSet, Work.rd_clrBit_ne _ _ _ (by simp [DRIFT_GAIN, CAL_STATUS]; omega),
      Work.rd_clrBit_ne _ _ _ (by simp [DRIFT_GAIN, CAL_DUE]; omega), Work.rd_clrBit_ne _ _ _ (by simp [DRIFT_GAIN, CAL_DUE]; omega),
      Work.rd_wr_ne _ _ _ (by simp [DRIFT_GAIN, DRIFT_BEAT]), Work.rd_wr_same]
  · rw [Work.driftSet, Work.rd_clrBit_ne _ _ _ (by simp [DRIFT_BEAT, CAL_STATUS]; omega),
      Work.rd_clrBit_ne _ _ _ (by simp [DRIFT_BEAT, CAL_DUE]; omega), Work.rd_clrBit_ne _ _ _ (by simp [DRIFT_BEAT, CAL_DUE]; omega),
      Work.rd_wr_same, Nat.mod_mod]
  · rw [Work.driftSet, Work.flag_congr (Work.rd_clrBit_ne _ _ _ hcal), Work.flag_clrBit_apart _ _ (by omega) (by omega),
      Work.flag_clrBit_same _ _ _ (by omega)]
  · rw [Work.driftSet, Work.flag_congr (Work.rd_clrBit_ne _ _ _ hcal), Work.flag_clrBit_same _ _ _ (by omega)]

end

section
variable {w : Work} {c t : Nat} {u : TileUnit}

/-- A plausible drift result is applied (R158, R169). -/
theorem Work.driftResult_plausible {codes : List (List Int)} {d : Nat} (hd : driftOf (w.refSums c t codes) = some d)
    (hok : w.driftPlausible c t u.phys d (w.refSums c t codes) = true) :
    w.driftResult c t u codes = (w.calPassed c t u.retry).applyDrift c t u d := by
  simp only [Work.driftResult, hd, hok, if_true, Work.calResult]

/-- A plausible drift gain fits its register. -/
theorem Work.lt_of_driftPlausible {p d : Nat} {ms : List Int} (h : w.driftPlausible c t p d ms = true) : d < 2 ^ 16 := by
  have hle : d ≤ bits (w.live (CAL_LIM_DRIFT c t)) 16 16 := by
    simp only [Work.driftPlausible, Bool.and_eq_true, decide_eq_true_eq] at h
    exact h.1.1.2
  exact lt_of_le_of_lt hle (Nat.mod_lt _ (by decide))

theorem Work.judged_applyDrift (w : Work) (c t : Nat) (u : TileUnit) (d : Nat) :
    w.Judged c t ((w.calPassed c t u.retry).applyDrift c t u d) := by
  refine ⟨?_, ?_⟩
  · rw [Work.applyDrift_frame, Work.calPassed_frame]
  · rw [Work.tile_applyDrift, Work.tile_calPassed]

/-- A result held over: its unit is retried in a later slot (R170). -/
def Work.retryHeld (w : Work) (c t : Nat) (u : TileUnit) : Work :=
  (w.setTile c t { w.tile c t with heldRetry := (w.tile c t).heldRetry ++ [(u.kind, u.phys)] }).showHeld c t

/-- Outside a run an implausible drift result of a first try is held over (R170). -/
theorem Work.driftResult_implausible {codes : List (List Int)} (hd : driftOf (w.refSums c t codes) = none) (hretry : u.retry = false)
    (hinactive : (w.tile c t).cal.active = false) : w.driftResult c t u codes = w.retryHeld c t u := by
  simp only [Work.driftResult, hd, Work.calResult, hretry, hinactive, Bool.false_eq_true, if_false, Work.retryHeld]

theorem Work.tile_retryHeld (w : Work) (c t : Nat) (u : TileUnit) : (w.retryHeld c t u).tile c t =
    { w.tile c t with heldRetry := (w.tile c t).heldRetry ++ [(u.kind, u.phys)] } :=
  (Work.tile_congr rfl c t).trans (Work.tile_setTile_same ..)

theorem Work.retryHeld_kept (w : Work) (c t : Nat) (u : TileUnit) : RegsKept w (w.retryHeld c t u) [CAL_STATUS c t] :=
  ((RegsKept.refl w _).of_regs rfl).wr (by simp) _

theorem Work.flag_retryHeld (w : Work) (c t : Nat) (u : TileUnit) : (w.retryHeld c t u).flag (CAL_STATUS c t) 4 = true := by
  rw [Work.retryHeld, Work.showHeld, Work.flag_bitTo_same _ _ _ _ (by decide), Work.tile_setTile_same]
  simp

theorem Work.judged_retryHeld (w : Work) (c t : Nat) (u : TileUnit) : w.Judged c t (w.retryHeld c t u) :=
  ⟨rfl, by rw [Work.tile_retryHeld]⟩

/-- A column offset result that has passed waits for its gain (R155). -/
def Work.offHeld (w : Work) (c t : Nat) (u : TileUnit) (cz : List Int) (side : Int) : Work :=
  (w.calPassed c t u.retry).setTile c t { w.tile c t with
    pend := { (w.tile c t).pend with off := some ((List.range 1024).map (fun j => colOffOf (cz.getD j 0)), colOffOf side) } }

theorem Work.offResult_plausible {cz : List Int} {side : Int}
    (hcz : ∀ j < 1024, (colOffOf (cz.getD j 0)).natAbs ≤ w.live (CAL_LIM_OFF c t) % 512)
    (hside : (colOffOf side).natAbs ≤ w.live (CAL_LIM_OFF c t) % 512) (hgain : (w.tile c t).pend.gain = none) :
    w.offResult c t u cz side = w.offHeld c t u cz side := by
  have hall : ((List.range 1024).map (fun j => colOffOf (cz.getD j 0))).all
      (fun x => x.natAbs ≤ w.live (CAL_LIM_OFF c t) % 512) = true := by
    simpa using hcz
  have hgain' : ((w.offHeld c t u cz side).tile c t).pend.gain = none := by rw [Work.offHeld, Work.tile_setTile_same, hgain]
  have happly : (w.offHeld c t u cz side).applyCol c t = w.offHeld c t u cz side := by
    unfold Work.applyCol
    dsimp only
    rw [hgain']
    cases ((w.offHeld c t u cz side).tile c t).pend.off <;> rfl
  rw [← happly]
  simp only [Work.offResult, hall, hside, decide_true, Bool.and_self, if_true, Work.calResult, Work.tile_calPassed]
  rfl

theorem Work.tile_offHeld (w : Work) (c t : Nat) (u : TileUnit) (cz : List Int) (side : Int) : (w.offHeld c t u cz side).tile c t =
    { w.tile c t with
      pend := { (w.tile c t).pend with off := some ((List.range 1024).map (fun j => colOffOf (cz.getD j 0)), colOffOf side) } } :=
  Work.tile_setTile_same ..

theorem Work.judged_offHeld (w : Work) (c t : Nat) (u : TileUnit) (cz : List Int) (side : Int) :
    w.Judged c t (w.offHeld c t u cz side) := by
  refine ⟨?_, by rw [Work.tile_offHeld]⟩
  rw [Work.offHeld, Work.calPassed_frame]
  rfl

end

end Sys2Proof.Machine
end

section
/-! ### What calibration units leave (R152, R154 to R158, R168 to R170) -/

namespace Sys2Proof.Machine

/-- A result is judged by registers and tiles, whatever the time. -/
theorem Work.refSums_till (w : Work) (n c t : Nat) (codes : List (List Int)) : (w.till n).refSums c t codes = w.refSums c t codes := rfl

theorem Work.driftPlausible_till (w : Work) (n c t p d : Nat) (ms : List Int) :
    (w.till n).driftPlausible c t p d ms = w.driftPlausible c t p d ms := rfl

/-- The registers that the end of a passing DRIFT unit may write after the deck's own: the states of its retirement and of its tile. -/
def driftEndRegs (c t : Nat) : List Nat := [RETIRE_STATUS c t, TILE_STATUS c t, PGM_STATUS c t, CAL_STATUS c t]

/-- The tile's coefficient registers and CAL_DUE are none of them. -/
theorem notMem_driftEndRegs (c t : Nat) {o : Nat} (ho : 0x404 < o) : tileBase c t + o ∉ driftEndRegs c t := by
  simp [driftEndRegs, RETIRE_STATUS, TILE_STATUS, PGM_STATUS, CAL_STATUS]
  omega

theorem DRIFT_GAIN_notMem (c t p : Nat) : DRIFT_GAIN c t p ∉ driftEndRegs c t := by
  rw [DRIFT_GAIN, Nat.add_assoc]
  exact notMem_driftEndRegs c t (by omega)

theorem DRIFT_BEAT_notMem (c t p : Nat) : DRIFT_BEAT c t p ∉ driftEndRegs c t := by
  rw [DRIFT_BEAT, Nat.add_assoc]
  exact notMem_driftEndRegs c t (by omega)

section
variable {s : State} {c : Fin 1024} {t : Fin 16} {u : TileUnit}

/-- The state that a passing DRIFT unit's result leaves, at the end of its hold. -/
def Work.driftPassed (w : Work) (c t : Nat) (u : TileUnit) (d : Nat) : Work :=
  ((w.till (u.start + 8000)).calPassed c t u.retry).applyDrift c t u d

section
variable {w : Work} {c t : Nat}

theorem Work.calSums_drift {codes : List (List Int)} {d : Nat} (hkind : u.kind = .drift)
    (hd : driftOf (w.refSums c t codes) = some d) (hok : w.driftPlausible c t u.phys d (w.refSums c t codes) = true) :
    (w.till (u.start + 8000)).calSums c t u (.drift codes) = some (w.driftPassed c t u d) := by
  rw [← Work.driftPlausible_till w (u.start + 8000), ← Work.refSums_till w (u.start + 8000)] at hok
  rw [← Work.refSums_till w (u.start + 8000)] at hd
  simp only [Work.calSums, hkind, Work.driftResult_plausible hd hok, Work.driftPassed]

theorem Work.judged_driftPassed (w : Work) (c t : Nat) (u : TileUnit) (d : Nat) :
    (w.till (u.start + 8000)).Judged c t (w.driftPassed c t u d) := Work.judged_applyDrift ..

theorem Work.tile_driftPassed (w : Work) (c t : Nat) (u : TileUnit) (d : Nat) : (w.driftPassed c t u d).tile c t =
    { w.tile c t with driftMeasured := insNat u.phys (w.tile c t).driftMeasured } := by
  rw [Work.driftPassed, Work.tile_applyDrift, Work.tile_calPassed, Work.tile_congr (Work.till_tiles ..)]

/-- What the deck's registers say, whatever the end of its unit writes of the tile's state. -/
theorem Work.driftPassed_shows {v : Work} {d : Nat} (hp : u.phys < 8) (hd : d < 2 ^ 16)
    (hkept : RegsKept (w.driftPassed c t u d) v (driftEndRegs c t)) :
    v.rd (DRIFT_GAIN c t u.phys) = d ∧ v.rd (DRIFT_BEAT c t u.phys) = u.beat % 2 ^ 32 ∧
      v.flag (CAL_DUE c t) (8 + u.phys) = false ∧ v.flag (CAL_DUE c t) (16 + u.phys) = false := by
  obtain ⟨hgain, hbeat, hdue, haged⟩ := ((w.till (u.start + 8000)).calPassed c t u.retry).driftSet_shows c t d hp
  have hset := (((w.till (u.start + 8000)).calPassed c t u.retry).applyDrift_kept c t u d).mono (m := driftEndRegs c t)
    (by simp [driftEndRegs])
  have hkept' := hset.trans hkept
  have hcal : CAL_DUE c t ∉ driftEndRegs c t := notMem_driftEndRegs c t (by decide)
  refine ⟨?_, ?_, ?_, ?_⟩
  · rw [hkept'.rd (DRIFT_GAIN_notMem c t _), hgain, Nat.mod_eq_of_lt (hd.trans (by decide))]
  · rw [hkept'.rd (DRIFT_BEAT_notMem c t _), hbeat]
  · rw [hkept'.flag hcal, hdue]
  · rw [hkept'.flag hcal, haged]

end

/-- R158, R161, R169: a plausible drift result is applied by the end of its unit. -/
theorem leads_calUnitDone_drift {codes : List (List Int)} {d : Nat} (hb : s.board.alive = true)
    (hunit : (s.work.tile c.val t.val).unit = some u) (hinactive : (s.work.tile c.val t.val).cal.active = false)
    (hfound : u.found = none) (hkind : u.kind = .drift) (hp : u.phys < 8) (hd : driftOf (s.work.refSums c.val t.val codes) = some d)
    (hok : s.work.driftPlausible c.val t.val u.phys d (s.work.refSums c.val t.val codes) = true) :
    Leads (.calUnitDone c t (.drift codes)) s (fun w =>
      w.rd (DRIFT_GAIN c.val t.val u.phys) = d ∧ w.rd (DRIFT_BEAT c.val t.val u.phys) = u.beat % 2 ^ 32 ∧
      w.flag (CAL_DUE c.val t.val) (8 + u.phys) = false ∧ w.flag (CAL_DUE c.val t.val) (16 + u.phys) = false ∧
      u.phys ∈ (w.tile c.val t.val).driftMeasured ∧ (w.tile c.val t.val).unit = none ∧
      w.held c.val t.val = s.work.undoHeld c.val t.val ∧ w.mem = s.work.mem) := by
  have hjudged := s.work.judged_driftPassed c.val t.val u d
  have hkept := ((s.work.driftPassed c.val t.val u d).calUnitOver_kept c.val t.val u).mono (m := driftEndRegs c.val t.val)
    (by simp [driftEndRegs])
  obtain ⟨hgain, hbeat, hdue, haged⟩ := Work.driftPassed_shows hp (Work.lt_of_driftPlausible hok) hkept
  obtain ⟨q, hq⟩ := (s.work.driftPassed c.val t.val u d).tile_calUnitOver c.val t.val u
  refine ⟨_, gives_calUnitDone hb hunit hinactive hfound (Work.calSums_drift hkind hd hok) hjudged, hgain, hbeat, hdue, haged, ?_, ?_,
    hjudged.held_calUnitOver, hjudged.mem_calUnitOver⟩
  · rw [hq, Work.tile_driftPassed]
    exact mem_insNat_self ..
  · rw [hq]

/-- R152, R154: a plausible drift result known at the service gap is applied there; the hold is over and the unit runs on. -/
theorem leads_serviceGap_drift {codes : List (List Int)} {d : Nat} (hb : s.board.alive = true)
    (hunit : (s.work.tile c.val t.val).unit = some u) (hfound : u.found = none) (hkind : u.kind = .drift) (hp : u.phys < 8)
    (hd : driftOf (s.work.refSums c.val t.val codes) = some d)
    (hok : s.work.driftPlausible c.val t.val u.phys d (s.work.refSums c.val t.val codes) = true) :
    Leads (.serviceGap ⟨c, t⟩ (.sums (.drift codes))) s (fun w =>
      w.rd (DRIFT_GAIN c.val t.val u.phys) = d ∧ w.held c.val t.val = false ∧
      (w.tile c.val t.val).unit = some { u with found := some ([], []) } ∧ w.now = max s.work.now (u.start + 8000)) := by
  have hkept := ((s.work.driftPassed c.val t.val u d).calHoldOver_kept c.val t.val u).mono (m := driftEndRegs c.val t.val)
    (by simp [driftEndRegs])
  obtain ⟨hgain, -⟩ := Work.driftPassed_shows hp (Work.lt_of_driftPlausible hok) hkept
  refine ⟨_, gives_serviceGap_drift hb hunit hkind hfound (Work.calSums_drift hkind hd hok), hgain, (Work.releaseHold_shows _ _ _).1, ?_,
    (s.work.judged_driftPassed c.val t.val u d).now_calHoldOver⟩
  rw [Work.tile_calHoldOver]

/-- R170: an implausible drift result of a first try outside a run is held over for one retry, and nothing is applied. -/
theorem leads_calUnitDone_implausible {codes : List (List Int)} (hb : s.board.alive = true)
    (hunit : (s.work.tile c.val t.val).unit = some u) (hinactive : (s.work.tile c.val t.val).cal.active = false)
    (hfound : u.found = none) (hkind : u.kind = .drift) (hretry : u.retry = false)
    (hd : driftOf (s.work.refSums c.val t.val codes) = none) :
    Leads (.calUnitDone c t (.drift codes)) s (fun w =>
      (w.tile c.val t.val).heldRetry = (s.work.tile c.val t.val).heldRetry ++ [(.drift, u.phys)] ∧
      w.flag (CAL_STATUS c.val t.val) 4 = true ∧ (w.tile c.val t.val).unit = none ∧
      w.rd (DRIFT_GAIN c.val t.val 0) = s.work.rd (DRIFT_GAIN c.val t.val 0)) := by
  have hsums : (s.work.till (u.start + 8000)).calSums c.val t.val u (.drift codes) =
      some ((s.work.till (u.start + 8000)).retryHeld c.val t.val u) := by
    rw [← Work.refSums_till s.work (u.start + 8000)] at hd
    simp only [Work.calSums, hkind, Work.driftResult_implausible (w := s.work.till (u.start + 8000)) hd hretry hinactive]
  have hjudged := (s.work.till (u.start + 8000)).judged_retryHeld c.val t.val u
  have htile := (s.work.till (u.start + 8000)).tile_retryHeld c.val t.val u
  have hflag := (s.work.till (u.start + 8000)).flag_retryHeld c.val t.val u
  have hkept := ((s.work.till (u.start + 8000)).retryHeld_kept c.val t.val u).mono (m := driftEndRegs c.val t.val) (by simp [driftEndRegs])
  generalize (s.work.till (u.start + 8000)).retryHeld c.val t.val u = v at *
  have hover := hkept.trans ((v.calUnitOver_kept c.val t.val u).mono (by simp [driftEndRegs]))
  obtain ⟨q, hq⟩ := v.tile_calUnitOver c.val t.val u
  refine ⟨_, gives_calUnitDone hb hunit hinactive hfound hsums hjudged, ?_, ?_, ?_, ?_⟩
  · rw [hq, htile, hkind, Work.tile_congr (Work.till_tiles ..)]
  · rw [v.flag_calUnitOver c.val t.val u (by decide), hflag]
  · rw [hq]
  · rw [hover.rd (DRIFT_GAIN_notMem _ _ 0), Work.rd_congr (Work.till_regs ..)]

/-- R155, R169: a plausible COL_OFF result waits for its COL_GAIN; the offsets in force stay. -/
theorem leads_calUnitDone_off {cz : List Int} {side : Int} (hb : s.board.alive = true)
    (hunit : (s.work.tile c.val t.val).unit = some u) (hinactive : (s.work.tile c.val t.val).cal.active = false)
    (hfound : u.found = none) (hkind : u.kind = .colOff)
    (hcz : ∀ j < 1024, (colOffOf (cz.getD j 0)).natAbs ≤ s.work.live (CAL_LIM_OFF c.val t.val) % 512)
    (hside : (colOffOf side).natAbs ≤ s.work.live (CAL_LIM_OFF c.val t.val) % 512)
    (hgain : (s.work.tile c.val t.val).pend.gain = none) :
    Leads (.calUnitDone c t (.off cz side)) s (fun w =>
      (w.tile c.val t.val).pend.off = some ((List.range 1024).map (fun j => colOffOf (cz.getD j 0)), colOffOf side) ∧
      (w.tile c.val t.val).off = (s.work.tile c.val t.val).off ∧ (w.tile c.val t.val).unit = none) := by
  have hsums : (s.work.till (u.start + 8000)).calSums c.val t.val u (.off cz side) =
      some ((s.work.till (u.start + 8000)).offHeld c.val t.val u cz side) := by
    simp only [Work.calSums, hkind, Work.offResult_plausible (w := s.work.till (u.start + 8000)) hcz hside hgain]
  have hjudged := (s.work.till (u.start + 8000)).judged_offHeld c.val t.val u cz side
  have htile := (s.work.till (u.start + 8000)).tile_offHeld c.val t.val u cz side
  generalize (s.work.till (u.start + 8000)).offHeld c.val t.val u cz side = v at *
  obtain ⟨q, hq⟩ := v.tile_calUnitOver c.val t.val u
  refine ⟨_, gives_calUnitDone hb hunit hinactive hfound hsums hjudged, ?_, ?_, ?_⟩
  · rw [hq, htile]
  · rw [hq, htile, Work.tile_congr (Work.till_tiles ..)]
  · rw [hq]

end

end Sys2Proof.Machine
end

section
/-! ### When calibration falls due (R159 to R163) -/

namespace Sys2Proof.Machine

/-- R159, R160: a temperature read that is due is noted; one that is not changes nothing. -/
theorem gives_tempSample {s : State} (hb : s.board.alive = true) (c : Fin 1024) (t : Fin 16) (x : Int) :
    let u := s.work.tile c.val t.val
    let v := (s.work.setTile c.val t.val { u with tempAt := some s.work.beatFull, cal := { u.cal with needTemp := false } }).wr
      (TILE_TEMP c.val t.val) (toTwos 12 x)
    Gives (.tempSample c t x) s (if !s.work.tempDue c.val t.val then s.work
      else if v.tempMoved c.val t.val then v.setBit (CAL_DUE c.val t.val) 0 else v) :=
  gives_of_run (execTempSample.eq_1 c t x s) hb rfl

/-- R161: a deck that may fall due does at the age of DRIFT_DUE. -/
theorem gives_driftDueExpire {s : State} {c : Fin 1024} {t : Fin 16} {d : Fin 8} (hb : s.board.alive = true)
    (hd : s.work.driftable c.val t.val d.val = true)
    (hage : max 1024 (bits (s.work.live (CAL_CTL c.val t.val)) 16 16) ≤ s.work.driftAge c.val t.val d.val) :
    Gives (.driftDueExpire c t d) s (s.work.setBit (CAL_DUE c.val t.val) (8 + d.val)) :=
  gives_of_run (execDriftDueExpire.eq_1 c t d s) hb (by simp only [hd, hage, decide_true, Bool.and_self, Work.when_true])

/-- R161, R163: a deck that may fall due is aged at 65,536 beats. -/
theorem gives_driftAged {s : State} {c : Fin 1024} {t : Fin 16} {d : Fin 8} (hb : s.board.alive = true)
    (hd : s.work.driftable c.val t.val d.val = true) (hage : 65536 ≤ s.work.driftAge c.val t.val d.val) :
    Gives (.driftAged c t d) s (s.work.setBit (CAL_DUE c.val t.val) (16 + d.val)) :=
  gives_of_run (execDriftAged.eq_1 c t d s) hb (by simp only [hd, hage, decide_true, Bool.and_self, Work.when_true])

/-- Settles O13: units start by `leads_calUnitStart`, their results are judged by the lemmas of CAL_UNIT_DONE and SERVICE_GAP, and
temperature and age make calibration due. -/
theorem calibrationFallsDueRunsAndIsJudged : Obligations.CalibrationFallsDueRunsAndIsJudged := by
  refine ⟨fun s c t kind p retry need at_ hb hactive htemp hnext hfits htime hheld =>
      leads_calUnitStart hb hactive htemp hnext hfits htime hheld,
    fun s c t u hb hunit hinactive hfound => ⟨?drift, ?held, ?off⟩,
    fun s c t x hb => gives_tempSample hb c t x,
    fun s c t d hb hd => ⟨gives_driftDueExpire hb hd, gives_driftAged hb hd⟩⟩
  case drift =>
    intro codes d hkind hp hd hok
    exact ⟨leads_calUnitDone_drift hb hunit hinactive hfound hkind hp hd hok, leads_serviceGap_drift hb hunit hfound hkind hp hd hok⟩
  case held =>
    intro codes hkind hretry hd
    exact leads_calUnitDone_implausible hb hunit hinactive hfound hkind hretry hd
  case off =>
    intro cz side hkind hcz hside hgain
    exact leads_calUnitDone_off hb hunit hinactive hfound hkind hcz hside hgain

end Sys2Proof.Machine
end

section
/-! ### The housekeeping converter: work that starts (R176, R178) -/

namespace Sys2Proof.Machine

section
variable {w : Work} {p : Path} {x : Nat}

/-- A write of HK_CTL with neither START nor SELFCAL is a plain one. -/
theorem Work.hkCtl_plain (h4 : x.testBit 4 = false) (h6 : x.testBit 6 = false) : w.hkCtl p x = w.wrPlain p HK_CTL x := by
  simp [Work.hkCtl, h4, h6]

/-- START on an idle converter starts a conversion (R176). -/
theorem Work.hkCtl_start_idle (h4 : x.testBit 4 = true) (h6 : x.testBit 6 = false) (hidle : (w.wrPlain p HK_CTL x).hkState = 1) :
    w.hkCtl p x = (w.wrPlain p HK_CTL x).hkConvert ((w.wrPlain p HK_CTL x).fld HK_CTL 0 4) (w.wrPlain p HK_CTL x).hsSel := by
  simp [Work.hkCtl, h4, h6, hidle]

/-- START on a busy converter is flagged (Table 4-13). -/
theorem Work.hkCtl_start_busy (h4 : x.testBit 4 = true) (h6 : x.testBit 6 = false) (hbusy : (w.wrPlain p HK_CTL x).hkState ≠ 1) :
    w.hkCtl p x = (w.wrPlain p HK_CTL x).setBit HK_STATUS 5 := by
  simp [Work.hkCtl, h4, h6, hbusy]

/-- SELFCAL asks for a self-calibration (R178). -/
theorem Work.hkCtl_selfcal (h6 : x.testBit 6 = true) (h4 : x.testBit 4 = false) :
    w.hkCtl p x = (w.wrPlain p HK_CTL x).hkSelfcalAsk := by
  simp [Work.hkCtl, h4, h6]

theorem Work.hkSelfcalAsk_idle (hidle : w.hkState = 1) : w.hkSelfcalAsk = w.hkSelfcalGo := by
  simp only [Work.hkSelfcalAsk, hidle]

theorem Work.hkSelfcalAsk_converting (hbusy : w.hkState = 2) (hnone : w.hk.aborted = none) :
    w.hkSelfcalAsk = { w with hk := { w.hk with selfcal := true } } := by
  simp [Work.hkSelfcalAsk, hbusy, hnone]

/-- An idle converter with SCAN set samples the next channel once the pace has elapsed (R176). -/
theorem Work.scanGo_eq {c : Nat} (hidle : w.hkState = 1) (hscan : w.flag HK_CTL 5 = true) (hnext : w.scanNext = some c) :
    w.scanGo = { w.till w.hk.paceFrom with
      hk := { w.hk with next := (c + 1) % 16, chan := c, die := w.hsSel, start := max w.now w.hk.paceFrom } }.setFld HK_STATUS 0 2 2 := by
  simp only [Work.scanGo, hidle, hscan, hnext, decide_true, Bool.and_self, if_true]
  rfl

end

section
variable {s : State} {path : Path} {x : Word} {v : Work} (hb : s.board.alive = true) (hw : s.work.Writable path HK_CTL x.toNat)
include hb hw

theorem gives_hkStart (h4 : x.toNat.testBit 4 = true) (hv : s.work.hkCtl path x.toNat = v) : Gives (.hkStart path x) s v :=
  gives_of_run (execHkStart.eq_1 path x s) hb (by rw [Work.onBus_done hw, if_pos h4, hv])

theorem gives_hkSelfcal (h6 : x.toNat.testBit 6 = true) (hv : s.work.hkCtl path x.toNat = v) : Gives (.hkSelfcal path x) s v :=
  gives_of_run (execHkSelfcal.eq_1 path x s) hb (by rw [Work.onBus_done hw, if_pos h6, hv])

theorem gives_hkScan (h5 : x.toNat.testBit 5 = true) (hv : (s.work.hkCtl path x.toNat).scanGo = v) : Gives (.hkScan path x) s v :=
  gives_of_run (execHkScan.eq_1 path x s) hb (by rw [Work.onBus_done hw, if_pos h5, hv])

end

end Sys2Proof.Machine
end

section
/-! ### The housekeeping converter: results (R175, R177, R178) -/

namespace Sys2Proof.Machine

theorem Work.hkCorrect_lt (w : Work) (raw : Nat) : w.hkCorrect raw < 2 ^ 12 := by
  unfold Work.hkCorrect clampInt
  omega

/-- The corrected code goes by HK_CAL alone. -/
theorem Work.hkCorrect_congr {v w : Work} (h : v.rd HK_CAL = w.rd HK_CAL) (raw : Nat) : v.hkCorrect raw = w.hkCorrect raw := by
  rw [Work.hkCorrect, Work.hkCorrect, Work.fld_congr h, Work.fld_congr h]

/-- A converter with no self-calibration waiting, or not idle, goes on as it is; else it calibrates (R178). -/
theorem Work.hkIdle_leaves (w : Work) :
    w.hkIdle.hkState = (if w.hkState = 1 ∧ w.hk.selfcal = true then 0 else w.hkState) ∧ RegsKept w w.hkIdle [HK_STATUS] ∧
      w.hkIdle.hk.cur = w.hk.cur ∧ w.hkIdle.mem = w.mem := by
  by_cases hwaits : w.hkState = 1 ∧ w.hk.selfcal = true
  · have hgo : w.hkIdle = { w with hk := { w.hk with selfcal := false } }.hkSelfcalGo := if_pos (by simp [hwaits])
    rw [hgo, if_pos hwaits]
    exact ⟨Work.fld_setFld_same _ _ _ _ _ (by decide), ((RegsKept.refl w _).of_regs rfl).wr (by simp) _, rfl, rfl⟩
  · have hstays : w.hkIdle = w := if_neg (by simpa using hwaits)
    rw [hstays, if_neg hwaits]
    exact ⟨rfl, RegsKept.refl w _, rfl, rfl⟩

/-- The result of a conversion put into HK_DATA; one that replaces an unread result is counted (R177). -/
def Work.resultPut (w : Work) (raw : Nat) : Work :=
  let v := w.when (w.flag HK_DATA 16) (fun v => (v.setBit HK_STATUS 4).inc HK_OVR_CNT)
  v.wr HK_DATA (v.hkCorrect raw + 2 ^ 12 * v.hk.chan + 2 ^ 16 + if w.flag HK_DATA 16 then 2 ^ 17 else 0)

/-- What the result's place and its count say, and what else may have changed. -/
theorem Work.resultPut_shows (w : Work) (raw : Nat) (hchan : w.hk.chan < 16) :
    let v := w.resultPut raw
    v.rd HK_DATA = w.hkCorrect raw + 2 ^ 12 * w.hk.chan + 2 ^ 16 + (if w.flag HK_DATA 16 then 2 ^ 17 else 0) ∧
    v.rd HK_OVR_CNT = (if w.flag HK_DATA 16 then min (w.rd HK_OVR_CNT + 1) 0xFFFFFFFF else w.rd HK_OVR_CNT) ∧
    RegsKept w v [HK_DATA, HK_STATUS, HK_OVR_CNT] ∧ v.hk = w.hk ∧ v.mem = w.mem := by
  have hcode := w.hkCorrect_lt raw
  cases hlost : w.flag HK_DATA 16 with
  | false =>
    have hput : w.resultPut raw = w.wr HK_DATA (w.hkCorrect raw + 2 ^ 12 * w.hk.chan + 2 ^ 16 + 0) := by
      simp only [Work.resultPut, hlost, Work.when_false, Bool.false_eq_true, if_false]
    rw [hput]
    refine ⟨?_, Work.rd_wr_ne _ _ _ (by decide), (RegsKept.refl w _).wr (by simp) _, rfl, rfl⟩
    rw [Work.rd_wr_same, if_neg (by decide)]
    omega
  | true =>
    have hcorrect : ((w.setBit HK_STATUS 4).inc HK_OVR_CNT).hkCorrect raw = w.hkCorrect raw :=
      Work.hkCorrect_congr ((Work.rd_inc_ne _ _ (by decide)).trans (Work.rd_setBit_ne _ _ _ (by decide))) raw
    have hput : w.resultPut raw = ((w.setBit HK_STATUS 4).inc HK_OVR_CNT).wr HK_DATA
        (w.hkCorrect raw + 2 ^ 12 * w.hk.chan + 2 ^ 16 + 2 ^ 17) := by
      simp only [Work.resultPut, hlost, Work.when_true, if_true, hcorrect]
      rfl
    rw [hput]
    refine ⟨?_, ?_, (((RegsKept.refl w _).wr (by simp) _).wr (by simp) _).wr (by simp) _, rfl, rfl⟩
    · rw [Work.rd_wr_same, if_pos rfl]
      omega
    · rw [Work.rd_wr_ne _ _ _ (by decide), Work.rd_inc_same, Work.rd_setBit_ne _ _ _ (by decide), if_pos rfl]

/-- The state that the end of a conversion leaves before the converter takes up what waits (R176, R177). -/
def Work.converted (w : Work) (raw : Nat) : Work :=
  let v := (w.till (w.hk.start + 1000)).resultPut raw
  ({ v with hk := { v.hk with paceFrom := v.now + 1000 * v.fld HK_CTL 16 8 } }.inc HK_CONV_CNT).setFld HK_STATUS 0 2 1

/-- A count and a state beside a result. -/
theorem Work.converted_shows (w : Work) (raw : Nat) (hchan : w.hk.chan < 16) :
    let v := w.converted raw
    v.rd HK_DATA = w.hkCorrect raw + 2 ^ 12 * w.hk.chan + 2 ^ 16 + (if w.flag HK_DATA 16 then 2 ^ 17 else 0) ∧
    v.hkState = 1 ∧ v.rd HK_CONV_CNT = min (w.rd HK_CONV_CNT + 1) 0xFFFFFFFF ∧
    v.rd HK_OVR_CNT = (if w.flag HK_DATA 16 then min (w.rd HK_OVR_CNT + 1) 0xFFFFFFFF else w.rd HK_OVR_CNT) ∧
    RegsKept w v [HK_DATA, HK_STATUS, HK_CONV_CNT, HK_OVR_CNT] ∧ v.hk.selfcal = w.hk.selfcal ∧ v.mem = w.mem := by
  obtain ⟨hdata, hovr, hkept, hhk, hmem⟩ := (w.till (w.hk.start + 1000)).resultPut_shows raw hchan
  unfold Work.converted
  generalize (w.till (w.hk.start + 1000)).resultPut raw = v at *
  have hselfcal : v.hk.selfcal = w.hk.selfcal := by rw [hhk, Work.till_hk]
  refine ⟨?_, Work.fld_setFld_same _ _ _ _ _ (by decide), ?_, ?_, ?_, hselfcal, hmem⟩
  · rw [Work.rd_setFld_ne _ _ _ _ _ (by decide), Work.rd_inc_ne _ _ (by decide)]
    exact hdata
  · rw [Work.rd_setFld_ne _ _ _ _ _ (by decide), Work.rd_inc_same]
    exact congrArg (fun n => min (n + 1) 0xFFFFFFFF) (hkept.rd (by decide))
  · rw [Work.rd_setFld_ne _ _ _ _ _ (by decide), Work.rd_inc_ne _ _ (by decide)]
    exact hovr
  · have hbefore : RegsKept w v [HK_DATA, HK_STATUS, HK_CONV_CNT, HK_OVR_CNT] := hkept.mono (by simp)
    exact ((hbefore.of_regs rfl).wr (by simp) _).wr (by simp) _

/-- R175, R177, R178: a conversion's corrected result goes to HK_DATA, and the converter idles or calibrates. -/
theorem leads_hkConversionDone {s : State} {raw : Nat} (hb : s.board.alive = true) (hstate : s.work.hkState = 2)
    (hchan : s.work.hk.chan < 16) :
    Leads (.hkConversionDone raw) s (fun w =>
      w.rd HK_DATA = s.work.hkCorrect raw + 2 ^ 12 * s.work.hk.chan + 2 ^ 16 + (if s.work.flag HK_DATA 16 then 2 ^ 17 else 0) ∧
      w.hkState = (if s.work.hk.selfcal then 0 else 1) ∧ w.rd HK_CONV_CNT = min (s.work.rd HK_CONV_CNT + 1) 0xFFFFFFFF ∧
      w.rd HK_OVR_CNT = (if s.work.flag HK_DATA 16 then min (s.work.rd HK_OVR_CNT + 1) 0xFFFFFFFF else s.work.rd HK_OVR_CNT) ∧
      RegsKept s.work w [HK_DATA, HK_STATUS, HK_CONV_CNT, HK_OVR_CNT] ∧ w.mem = s.work.mem) := by
  obtain ⟨hdata, hidle, hconv, hovr, hkept, hselfcal, hmem⟩ := s.work.converted_shows raw hchan
  obtain ⟨hstate', hkept', -, hmem'⟩ := (s.work.converted raw).hkIdle_leaves
  refine ⟨(s.work.converted raw).hkIdle, gives_of_run (execHkConversionDone.eq_1 raw s) hb (if_neg (by simp [hstate])), ?_, ?_, ?_, ?_,
    hkept.trans (hkept'.mono (by simp)), hmem'.trans hmem⟩
  · rw [hkept'.rd (by decide), hdata]
  · simp only [hstate', hidle, hselfcal, true_and]
  · rw [hkept'.rd (by decide), hconv]
  · rw [hkept'.rd (by decide), hovr]

/-- R177: a read of HK_DATA returns the held result and clears VALID. -/
theorem gives_hkDataRead {s : State} {path : Path} (hb : s.board.answers = true) (hr : s.work.Readable path HK_DATA) :
    Gives (.hkDataRead path) s
      ((s.work.clrBit HK_DATA 16).emit (.word (pathCode (s.work.busPath path)) (BitVec.ofNat 32 (s.work.rd HK_DATA)))) := by
  obtain ⟨haligned, hmay, hlit, hfree⟩ := hr
  refine gives_of_access (execHkDataRead.eq_1 path s) hb ?_
  simp only [Work.readOut, Work.busRead, haligned, hmay, hlit, hfree, ne_eq, not_true_eq_false, if_false, Bool.not_true,
    Bool.false_eq_true]

section
variable {s : State} {off : Int} {gain : Nat} {v : Work} (hb : s.board.alive = true) (hstate : s.work.hkState = 0)
  (hv : v = s.work.till (s.work.hk.start + 1800000))
include hb hstate hv

/-- R178: plausible factors are stored. -/
theorem gives_hkSelfcalDone_plausible (hok : hkPlausible off gain = true) :
    Gives (.hkSelfcalDone off gain) s
      (((v.when v.hk.retried (·.inc TRANSIENT_CNT)).wr HK_CAL (toTwos 12 off + 2 ^ 16 * gain)).setFld HK_STATUS 0 4 5) := by
  subst hv
  refine gives_of_run (execHkSelfcalDone.eq_1 off gain s) hb ?_
  simp only [hstate, hok, ne_eq, not_true_eq_false, if_false, if_true]

/-- R178: an implausible run is made once more. -/
theorem gives_hkSelfcalDone_again (hbad : hkPlausible off gain = false) (hfirst : s.work.hk.retried = false) :
    Gives (.hkSelfcalDone off gain) s { v with hk := { v.hk with retried := true, start := v.now } } := by
  subst hv
  refine gives_of_run (execHkSelfcalDone.eq_1 off gain s) hb ?_
  simp only [hstate, hbad, hfirst, Work.till_hk, ne_eq, not_true_eq_false, if_false, Bool.false_eq_true, Bool.not_false, if_true]

/-- R178: after a second implausible run the factory factors stay. -/
theorem gives_hkSelfcalDone_factory (hbad : hkPlausible off gain = false) (hsecond : s.work.hk.retried = true) :
    Gives (.hkSelfcalDone off gain) s ((v.wr HK_CAL (Config.hkFactory.toNat &&& 0xFFFF0FFF)).setFld HK_STATUS 0 4 13) := by
  subst hv
  refine gives_of_run (execHkSelfcalDone.eq_1 off gain s) hb ?_
  simp only [hstate, hbad, hsecond, Work.till_hk, ne_eq, not_true_eq_false, if_false, Bool.false_eq_true, Bool.not_true]

end

end Sys2Proof.Machine
end

section
/-! ### The housekeeping converter: urgent conversions (R179, R486, R487) -/

namespace Sys2Proof.Machine

section
variable {w : Work} {chan die : Nat}

/-- An urgent request to an idle converter is converted at once. -/
theorem Work.urgent_idle (hcur : w.hk.cur = none) (hidle : w.hkState = 1) :
    w.urgent chan die =
      { w with hk := { w.hk with cur := some (chan, die), aborted := none, steps := 0, start := w.now } }.setFld HK_STATUS 0 2 3 := by
  simp only [Work.urgent, hcur, hidle]
  rfl

/-- One that comes during ordinary work aborts it, which is counted; whole steps of a self-calibration stand. -/
theorem Work.urgent_aborts (hcur : w.hk.cur = none) (hbusy : w.hkState ≠ 1) :
    w.urgent chan die =
      ({ w with hk := { w.hk with
          cur := some (chan, die), aborted := some w.hkState, start := w.now,
          steps := if w.hkState = 0 then (w.now - w.hk.start) / 1000 * 1000 else 0 } }.inc HK_ABORT_CNT).setFld HK_STATUS 0 2 3 := by
  simp only [Work.urgent, hcur, hbusy, ne_eq, not_false_eq_true, decide_true, Work.when_true, if_false]

/-- One that comes during another waits behind it. -/
theorem Work.urgent_waits (hcur : w.hk.cur.isSome = true) :
    w.urgent chan die = { w with hk := { w.hk with urgent := w.hk.urgent ++ [(chan, die)] } } := by
  obtain ⟨x, hx⟩ := Option.isSome_iff_exists.mp hcur
  simp only [Work.urgent, hx]

end

/-- The channel and die that an urgent request asks for (R179). -/
def urgentAsk (u : HkUrgent) (die : Fin 20) : Nat × Nat :=
  match u with | .hotSpot => (13, die.val) | .lid => (14, 0) | .vcore => (9, 0)

theorem gives_hkUrgentRequest {s : State} {u : HkUrgent} {die : Fin 20} {v : Work} (hb : s.board.alive = true)
    (hv : s.work.urgent (urgentAsk u die).1 (urgentAsk u die).2 = v) : Gives (.hkUrgentRequest u die) s v :=
  gives_of_run (execHkUrgentRequest.eq_1 u die s) hb (by rw [← hv]; cases u <;> rfl)

/-- A command that may change the board gives what its operation comes to. -/
theorem givesBoth_of_runAll {c : Instr} {s : State} {f : Board → Work → Board × Work} {b : Board} {w : Work}
    (hc : exec c s = s.runAll f) (ha : s.board.alive = true) (hf : f s.board s.work = (b, w)) : GivesBoth c s b w := by
  rw [GivesBoth, hc, State.runAll_alive ha, hf]

/-- The result of an urgent conversion latched and counted (R179). -/
def Work.urgentLatched (w : Work) (raw chan die : Nat) : Work :=
  ((w.till (w.hk.start + 1000)).wr HK_URGENT (w.hkCorrect raw + 2 ^ 12 * chan + 2 ^ 16 * die)).inc HK_CONV_CNT

/-- A reading of a hot spot that confirms no trip is counted (R486). -/
def Work.tripUnconfirmed (w : Work) (chan : Nat) : Work := w.when (chan = 13) (fun v => (v.inc TRIP_UNCONF_CNT).setBit THERM_STATUS 20)

section
variable {s : State} {raw chan die : Nat} (hb : s.board.alive = true) (hcur : s.work.hk.cur = some (chan, die))
include hb hcur

/-- R487: a reading of a hot spot of 115 °C or more trips the device. -/
theorem givesBoth_hkUrgentDone_trips (htrip : chan = 13 ∧ 2864 ≤ s.work.hkCorrect raw) :
    GivesBoth (.hkUrgentDone raw) s { s.board with thermtrip := true }
      (thermalTrip s.board (s.work.urgentLatched raw chan die)).2 := by
  refine givesBoth_of_runAll (execHkUrgentDone.eq_1 raw s) hb ?_
  simp only [hcur]
  exact if_pos htrip

/-- Any other reading is latched, and the converter takes up its next work. -/
theorem gives_hkUrgentDone (hlow : ¬ (chan = 13 ∧ 2864 ≤ s.work.hkCorrect raw)) :
    Gives (.hkUrgentDone raw) s ((s.work.urgentLatched raw chan die).tripUnconfirmed chan).urgentNext := by
  refine givesBoth_of_runAll (execHkUrgentDone.eq_1 raw s) hb ?_
  simp only [hcur]
  exact if_neg hlow

end

section
variable (w : Work)

theorem Work.urgentLatched_shows {raw chan die : Nat} (hchan : chan < 16) (hdie : die < 20) :
    let v := w.urgentLatched raw chan die
    v.rd HK_URGENT = w.hkCorrect raw + 2 ^ 12 * chan + 2 ^ 16 * die ∧ RegsKept w v [HK_URGENT, HK_CONV_CNT] ∧ v.hk = w.hk := by
  have hcode := w.hkCorrect_lt raw
  refine ⟨?_, (((RegsKept.refl w _).of_regs rfl).wr (by simp) _).wr (by simp) _, rfl⟩
  rw [Work.urgentLatched, Work.rd_inc_ne _ _ (by decide), Work.rd_wr_same]
  omega

theorem Work.tripUnconfirmed_shows (chan : Nat) :
    let v := w.tripUnconfirmed chan
    (chan = 13 → v.rd TRIP_UNCONF_CNT = min (w.rd TRIP_UNCONF_CNT + 1) 0xFFFFFFFF ∧ v.flag THERM_STATUS 20 = true) ∧
      RegsKept w v [TRIP_UNCONF_CNT, THERM_STATUS] ∧ v.hk = w.hk := by
  by_cases hhot : chan = 13
  · have hcounted : w.tripUnconfirmed chan = (w.inc TRIP_UNCONF_CNT).setBit THERM_STATUS 20 := by
      simp only [Work.tripUnconfirmed, hhot, decide_true, Work.when_true]
    rw [hcounted]
    refine ⟨fun _ => ⟨?_, Work.flag_setBit_same _ _ _ (by decide)⟩, ((RegsKept.refl w _).wr (by simp) _).wr (by simp) _, rfl⟩
    rw [Work.rd_setBit_ne _ _ _ (by decide), Work.rd_inc_same]
  · have hsame : w.tripUnconfirmed chan = w := by
      simp only [Work.tripUnconfirmed, hhot, decide_false, Work.when_false]
    rw [hsame]
    exact ⟨fun h => absurd h hhot, RegsKept.refl w _, rfl⟩

end

/-- The converter back at what the last urgent conversion aborted; idle where it aborted nothing (R179). -/
def Work.urgentOver (w : Work) : Work :=
  { w with hk := { w.hk with cur := none, aborted := none, steps := 0, start := w.now - w.hk.steps } }.setFld HK_STATUS 0 2
    (w.hk.aborted.getD 1)

/-- With no urgent request waiting, the converter goes back to what was aborted, or idles, or calibrates (Table 4-10). -/
theorem Work.urgentNext_leaves {w : Work} (hnone : w.hk.urgent = []) :
    w.urgentNext.hkState = (if (w.hk.aborted.getD 1) % 4 = 1 ∧ w.hk.selfcal = true then 0 else (w.hk.aborted.getD 1) % 4) ∧
      RegsKept w w.urgentNext [HK_STATUS] ∧ w.urgentNext.hk.cur = none := by
  have hnext : w.urgentNext = w.urgentOver.hkIdle := by
    unfold Work.urgentNext
    rw [hnone]
    rfl
  have hstate : w.urgentOver.hkState = (w.hk.aborted.getD 1) % 4 := Work.fld_setFld_same _ _ _ _ _ (by decide)
  have hkept : RegsKept w w.urgentOver [HK_STATUS] := ((RegsKept.refl w _).of_regs rfl).wr (by simp) _
  obtain ⟨hidle, hkept', hcur, -⟩ := w.urgentOver.hkIdle_leaves
  rw [hnext]
  exact ⟨by rw [hidle, hstate]; rfl, hkept.trans hkept', hcur⟩

/-- R179, R486: a reading that confirms no trip is latched; with no other request waiting the converter goes on with its own work. -/
theorem leads_hkUrgentDone {s : State} {raw chan die : Nat} (hb : s.board.alive = true) (hcur : s.work.hk.cur = some (chan, die))
    (hchan : chan < 16) (hdie : die < 20) (hlow : ¬ (chan = 13 ∧ 2864 ≤ s.work.hkCorrect raw)) (hnone : s.work.hk.urgent = []) :
    Leads (.hkUrgentDone raw) s (fun w =>
      w.rd HK_URGENT = s.work.hkCorrect raw + 2 ^ 12 * chan + 2 ^ 16 * die ∧
      w.hkState = (if (s.work.hk.aborted.getD 1) % 4 = 1 ∧ s.work.hk.selfcal = true then 0 else (s.work.hk.aborted.getD 1) % 4) ∧
      w.hk.cur = none ∧
      (chan = 13 → w.rd TRIP_UNCONF_CNT = min (s.work.rd TRIP_UNCONF_CNT + 1) 0xFFFFFFFF ∧ w.flag THERM_STATUS 20 = true)) := by
  have hgives := gives_hkUrgentDone hb hcur hlow
  obtain ⟨hlatched, hkept, hhk⟩ := s.work.urgentLatched_shows (raw := raw) hchan hdie
  generalize s.work.urgentLatched raw chan die = x at *
  obtain ⟨hhot, hkept', hhk'⟩ := x.tripUnconfirmed_shows chan
  generalize x.tripUnconfirmed chan = v at *
  have hhkv : v.hk = s.work.hk := hhk'.trans hhk
  obtain ⟨hstate, hkept'', hcur'⟩ := Work.urgentNext_leaves (w := v) (by rw [hhkv, hnone])
  refine ⟨_, hgives, ?_, by rw [hstate, hhkv], hcur', fun h => ⟨?_, ?_⟩⟩
  · rw [hkept''.rd (by decide), hkept'.rd (by decide), hlatched]
  · rw [hkept''.rd (by decide), (hhot h).1, hkept.rd (by decide)]
  · rw [hkept''.flag (by decide), (hhot h).2]

/-- Settles O14: work starts by HK_CTL and the pace, results are kept, and urgent conversions come first. -/
theorem theHousekeepingConverterWorks : Obligations.TheHousekeepingConverterWorks := by
  refine ⟨⟨fun s path x hb hw => ⟨?start, ?busy, ?selfcal, ?waits, ?scan⟩, ?pace⟩,
    ⟨fun s raw hb hstate hchan => leads_hkConversionDone hb hstate hchan, fun s path hb hr => gives_hkDataRead hb hr,
      fun s off gain hb hstate => ⟨gives_hkSelfcalDone_plausible hb hstate rfl, gives_hkSelfcalDone_again hb hstate rfl,
        gives_hkSelfcalDone_factory hb hstate rfl⟩⟩,
    fun s u die hb => ⟨?idle, ?aborts, ?queued⟩, fun s raw chan die hb hcur hchan hdie => ⟨?trip, ?latched⟩⟩
  case start =>
    intro h4 h6 hidle
    exact gives_hkStart hb hw h4 (Work.hkCtl_start_idle h4 h6 hidle)
  case busy =>
    intro h4 h6 hbusy
    exact gives_hkStart hb hw h4 (Work.hkCtl_start_busy h4 h6 hbusy)
  case selfcal =>
    intro h6 h4 hidle
    exact gives_hkSelfcal hb hw h6 ((Work.hkCtl_selfcal h6 h4).trans (Work.hkSelfcalAsk_idle hidle))
  case waits =>
    intro h6 h4 hbusy hnone
    exact gives_hkSelfcal hb hw h6 ((Work.hkCtl_selfcal h6 h4).trans (Work.hkSelfcalAsk_converting hbusy hnone))
  case scan =>
    intro c h5 h4 h6 hidle hscan hnext
    exact gives_hkScan hb hw h5 ((congrArg Work.scanGo (Work.hkCtl_plain h4 h6)).trans (Work.scanGo_eq hidle hscan hnext))
  case pace =>
    intro s c hb hidle hscan hnext
    exact gives_of_run (execHkScanPace.eq_1 s) hb (Work.scanGo_eq hidle hscan hnext)
  case idle =>
    intro hcur hidle
    exact gives_hkUrgentRequest hb (Work.urgent_idle hcur hidle)
  case aborts =>
    intro hcur hbusy
    exact gives_hkUrgentRequest hb (Work.urgent_aborts hcur hbusy)
  case queued =>
    intro hcur
    exact gives_hkUrgentRequest hb (Work.urgent_waits hcur)
  case trip =>
    intro hchannel hhot
    exact ⟨_, givesBoth_hkUrgentDone_trips hb hcur ⟨hchannel, hhot⟩, rfl, rfl, rfl⟩
  case latched =>
    intro hlow hnone
    exact leads_hkUrgentDone hb hcur hchan hdie hlow hnone

end Sys2Proof.Machine
end

section
/-! ### Contexts and their status fields (R197 to R202, Table 5-14)

The state of a context is a three-bit field of VEC_STATUS or of its array's MAC_STATUS. -/

namespace Sys2Proof.Machine

/-- The register that shows a context's state, and the field's place in it. -/
def statusReg (c x : Nat) : Nat := if x = 16 then VEC_STATUS c else MAC_STATUS c (x / 2)
def statusLo (x : Nat) : Nat := if x = 16 then 0 else 1 + 3 * (x % 2)

theorem statusLo_le (x : Nat) : statusLo x + 3 ≤ 32 := by
  unfold statusLo
  split <;> omega

theorem Work.ctxState_eq (w : Work) (c x : Nat) : w.ctxState c x = w.fld (statusReg c x) (statusLo x) 3 := by
  unfold Work.ctxState statusReg statusLo
  split <;> rfl

theorem Work.setCtxState_eq (w : Work) (c x st : Nat) :
    w.setCtxState c x st = (w.setFld (statusReg c x) (statusLo x) 3 st).countCtxs c := by
  unfold Work.setCtxState statusReg statusLo
  split <;> rfl

theorem Work.ctxState_congr {v w : Work} {c x : Nat} (h : v.rd (statusReg c x) = w.rd (statusReg c x)) :
    v.ctxState c x = w.ctxState c x := by
  rw [Work.ctxState_eq, Work.ctxState_eq, Work.fld_congr h]

theorem RegsKept.ctxState {w v : Work} {l : List Nat} (h : RegsKept w v l) {c x : Nat} (hx : statusReg c x ∉ l) :
    v.ctxState c x = w.ctxState c x := Work.ctxState_congr (h.rd hx)

theorem statusReg_ne_DJ_STATUS (c d : Nat) {x : Nat} (hx : x < 17) : statusReg c x ≠ DJ_STATUS d := by
  unfold statusReg DJ_STATUS VEC_STATUS MAC_STATUS coreBase
  split <;> omega

/-- Contexts that share a register are the two halves of one array. -/
theorem statusReg_inj {c d x y : Nat} (hx : x < 17) (hy : y < 17) (h : statusReg d y = statusReg c x) :
    d = c ∧ (y = x ∨ statusLo y + 3 ≤ statusLo x ∨ statusLo x + 3 ≤ statusLo y) := by
  unfold statusReg VEC_STATUS MAC_STATUS coreBase at h
  unfold statusLo
  split_ifs at h ⊢ <;> omega

theorem Work.ctxState_setCtxState_same (w : Work) (c : Nat) {x st : Nat} (hx : x < 17) (hst : st < 8) :
    (w.setCtxState c x st).ctxState c x = st := by
  rw [Work.setCtxState_eq, Work.ctxState_eq, Work.countCtxs, Work.fld_setFld_ne _ _ _ _ _ (statusReg_ne_DJ_STATUS c c hx),
    Work.fld_setFld_same _ _ _ _ _ (statusLo_le x)]
  exact Nat.mod_eq_of_lt hst

/-- A context that takes a state leaves the states of all others. -/
theorem Work.ctxState_setCtxState_ne (w : Work) {c d x y : Nat} (st : Nat) (hx : x < 17) (hy : y < 17) (h : d ≠ c ∨ y ≠ x) :
    (w.setCtxState c x st).ctxState d y = w.ctxState d y := by
  rw [Work.setCtxState_eq, Work.ctxState_eq, Work.ctxState_eq, Work.countCtxs,
    Work.fld_setFld_ne _ _ _ _ _ (statusReg_ne_DJ_STATUS d c hy)]
  by_cases he : statusReg d y = statusReg c x
  · obtain ⟨hd, hfields⟩ := statusReg_inj hx hy he
    rw [he]
    exact w.fld_setFld_apart _ _ (statusLo_le x) (by omega)
  · exact w.fld_setFld_ne _ _ _ _ he _ _

theorem Work.setCtxState_kept (w : Work) (c x st : Nat) : RegsKept w (w.setCtxState c x st) [statusReg c x, DJ_STATUS c] := by
  rw [Work.setCtxState_eq]
  exact ((RegsKept.refl w _).wr (by simp) _).wr (by simp) _

/-- Beside registers a change of state changes nothing. -/
theorem Work.setCtxState_frame (w : Work) (c x st : Nat) :
    w.setCtxState c x st = { w with regs := (w.setCtxState c x st).regs } := by
  rw [Work.setCtxState_eq]
  rfl

/-! What a context holds beside its status. -/

@[simp] theorem Work.ctx_setCtx_same (w : Work) (c x : Nat) (k : Ctx) : (w.setCtx c x k).ctx c x = k := by simp [Work.ctx]

theorem Work.ctx_setCtx_ne (w : Work) {c d x y : Nat} (k : Ctx) (hx : x < 17) (hy : y < 17) (h : d ≠ c ∨ y ≠ x) :
    (w.setCtx c x k).ctx d y = w.ctx d y := by
  rw [Work.ctx, Work.setCtx_ctxs, Sp.get_put_ne _ _ _ _ (by omega), Work.ctx]

theorem Work.ctx_congr {v w : Work} (h : v.ctxs = w.ctxs) (c x : Nat) : v.ctx c x = w.ctx c x := by rw [Work.ctx, Work.ctx, h]

@[simp] theorem Work.dig_setDig_same (w : Work) (c : Nat) (d : Digital) : (w.setDig c d).dig c = d := by simp [Work.dig]

theorem Work.dig_congr {v w : Work} (h : v.digital = w.digital) (c : Nat) : v.dig c = w.dig c := by rw [Work.dig, Work.dig, h]

/-- The notes of a session's request are the session engine's alone. -/
theorem Work.noteRun_frame (w : Work) (n : Nat) (f : SessRun → SessRun) : w.noteRun n f = { w with sess := (w.noteRun n f).sess } := by
  unfold Work.noteRun
  split <;> rfl

end Sys2Proof.Machine
end

section
/-! ### A context fault (R200, R290) -/

namespace Sys2Proof.Machine

theorem mem_insNat (k : Nat) (l : List Nat) (h : Nat) : h ∈ insNat k l ↔ h = k ∨ h ∈ l := by
  induction l with
  | nil => simp [insNat]
  | cons x xs ih =>
    unfold insNat
    split_ifs with hlt heq
    · rw [List.mem_cons]
    · simp [heq]
    · rw [List.mem_cons, ih, List.mem_cons]
      tauto

theorem mem_foldl_insNat (ks l : List Nat) (h : Nat) : h ∈ ks.foldl (fun l k => insNat k l) l ↔ h ∈ l ∨ h ∈ ks := by
  induction ks generalizing l with
  | nil => simp
  | cons k ks ih =>
    rw [List.foldl_cons, ih, mem_insNat, List.mem_cons]
    tauto

/-- The marks of a context's tiles: those of its halves at the indices join the others. -/
theorem Work.mem_tilePoison (w : Work) (c x : Nat) (idxs : List Nat) (h : Nat) :
    h ∈ (w.tilePoison c x idxs true).accPoison ↔
      h ∈ w.accPoison ∨ ∃ i ∈ idxs, ∃ b ∈ (w.ctx c x).halves x, h = halfKey c (x / 2) b i := by
  simp only [Work.tilePoison, if_true, mem_foldl_insNat, List.mem_flatMap, List.mem_map, eq_comm]

/-- The tiles that a context named, poisoned; the vector unit names none. -/
def Work.namedPoisoned (w : Work) (c x : Nat) : Work := w.when (x ≠ 16) (fun v => v.tilePoison c x (w.ctx c x).named true)

/-- The error register of a context with its bit, its cause and the job's tag. -/
def Work.errorNoted (w : Work) (c x bit cause tag : Nat) : Work :=
  ((w.setBit (ctxErr c x) bit).when (bit = 4) (fun v => v.setFld (ctxErr c x) 8 4 cause)).setFld (ctxErr c x) 12 16 tag

/-- The count of a context's resets. -/
def Work.resetCounted (w : Work) (c x : Nat) : Work :=
  if x = 16 then w.inc (VEC_RESET_CNT c) else w.incFld (CTX_RESET_CNT c (x / 2)) (16 * (x % 2)) 16 1

/-- What a context fault does beside the notes of a session's request. -/
def Work.faulted (w : Work) (c x bit cause : Nat) : Work :=
  ((((w.namedPoisoned c x).errorNoted c x bit cause (w.ctx c x).tag).resetCounted c x).setCtx c x
    { w.ctx c x with inFlight := [], checking := none, stalled := false, waits := none }).setCtxState c x 3

theorem Work.ctxFault_frame (w : Work) (c x bit cause : Nat) :
    w.ctxFault c x bit cause = { w.faulted c x bit cause with sess := (w.ctxFault c x bit cause).sess } := by
  have hcases : w.ctxFault c x bit cause = w.faulted c x bit cause ∨
      ∃ n f, w.ctxFault c x bit cause = (w.faulted c x bit cause).noteRun n f := by
    unfold Work.ctxFault
    dsimp only
    split
    · exact .inr ⟨_, _, rfl⟩
    · exact .inl rfl
  obtain h | ⟨n, f, h⟩ := hcases
  · rw [h]
  · rw [h]
    exact Work.noteRun_frame _ n f

theorem Work.namedPoisoned_frame (w : Work) (c x : Nat) :
    w.namedPoisoned c x = { w with accPoison := (w.namedPoisoned c x).accPoison } := by
  unfold Work.namedPoisoned
  cases decide (x ≠ 16) <;> rfl

theorem Work.mem_namedPoisoned (w : Work) (c x h : Nat) :
    h ∈ (w.namedPoisoned c x).accPoison ↔
      h ∈ w.accPoison ∨ (x ≠ 16 ∧ ∃ i ∈ (w.ctx c x).named, ∃ b ∈ (w.ctx c x).halves x, h = halfKey c (x / 2) b i) := by
  by_cases hx : x = 16
  · simp [Work.namedPoisoned, hx]
  · simp only [Work.namedPoisoned, hx, ne_eq, not_false_eq_true, decide_true, Work.when_true, Work.mem_tilePoison, true_and]

theorem Work.errorNoted_kept (w : Work) (c x bit cause tag : Nat) : RegsKept w (w.errorNoted c x bit cause tag) [ctxErr c x] :=
  (((RegsKept.refl w _).wr (by simp) _).when (fun h => h.wr (by simp) _) _).wr (by simp) _

theorem Work.errorNoted_frame (w : Work) (c x bit cause tag : Nat) :
    w.errorNoted c x bit cause tag = { w with regs := (w.errorNoted c x bit cause tag).regs } := by
  unfold Work.errorNoted
  cases decide (bit = 4) <;> rfl

theorem Work.fld_errorNoted (w : Work) (c x bit cause tag : Nat) :
    (w.errorNoted c x bit cause tag).fld (ctxErr c x) 12 16 = tag % 2 ^ 16 := Work.fld_setFld_same _ _ _ _ _ (by decide)

/-- The bit of an error stays through the fields beside it. -/
theorem Work.flag_errorNoted (w : Work) (c x cause tag : Nat) {bit : Nat} (h : bit < 6) :
    (w.errorNoted c x bit cause tag).flag (ctxErr c x) bit = true := by
  rw [Work.errorNoted, Work.flag_setFld _ _ _ _ _ _ (by decide), if_neg (by omega)]
  cases decide (bit = 4) with
  | false => exact Work.flag_setBit_same _ _ _ (by omega)
  | true =>
    rw [Work.when_true, Work.flag_setFld _ _ _ _ _ _ (by decide), if_neg (by omega)]
    exact Work.flag_setBit_same _ _ _ (by omega)

theorem Work.resetCounted_kept (w : Work) (c x : Nat) :
    RegsKept w (w.resetCounted c x) [VEC_RESET_CNT c, CTX_RESET_CNT c (x / 2)] := by
  unfold Work.resetCounted
  split <;> exact (RegsKept.refl w _).wr (by simp) _

theorem Work.resetCounted_frame (w : Work) (c x : Nat) : w.resetCounted c x = { w with regs := (w.resetCounted c x).regs } := by
  unfold Work.resetCounted
  split <;> rfl

/-- The registers of a fault up to the change of state: the error register and a count. -/
theorem Work.faultRegs_kept (w : Work) (c x bit cause tag : Nat) :
    RegsKept w (((w.namedPoisoned c x).errorNoted c x bit cause tag).resetCounted c x)
      [ctxErr c x, VEC_RESET_CNT c, CTX_RESET_CNT c (x / 2)] := by
  have hregs : (w.namedPoisoned c x).regs = w.regs := by rw [w.namedPoisoned_frame c x]
  exact (((RegsKept.refl w _).of_regs hregs).trans ((Work.errorNoted_kept _ c x bit cause tag).mono (by simp))).trans
    ((Work.resetCounted_kept _ c x).mono (by simp))

theorem Work.faulted_frame (w : Work) (c x bit cause : Nat) :
    w.faulted c x bit cause =
      { w.setCtx c x { w.ctx c x with inFlight := [], checking := none, stalled := false, waits := none } with
        regs := (w.faulted c x bit cause).regs, accPoison := (w.namedPoisoned c x).accPoison } := by
  unfold Work.faulted
  rw [Work.setCtxState_frame, Work.resetCounted_frame, Work.errorNoted_frame, w.namedPoisoned_frame]
  rfl

section
variable {c d x y : Nat}

theorem statusReg_not_mem_faultRegs :
    statusReg d y ∉ [ctxErr c x, VEC_RESET_CNT c, CTX_RESET_CNT c (x / 2)] := by
  unfold statusReg ctxErr VEC_RESET_CNT CTX_RESET_CNT VEC_STATUS MAC_STATUS VEC_ERR CTX_ERR0 CTX_ERR1 coreBase
  simp only [List.mem_cons, List.not_mem_nil, or_false, not_or]
  split_ifs <;> omega

theorem ctxErr_not_mem_counts :
    ctxErr d y ∉ [VEC_RESET_CNT c, CTX_RESET_CNT c (x / 2)] := by
  unfold ctxErr VEC_RESET_CNT CTX_RESET_CNT VEC_ERR CTX_ERR0 CTX_ERR1 coreBase
  simp only [List.mem_cons, List.not_mem_nil, or_false, not_or]
  split_ifs <;> omega

theorem ctxErr_not_mem_status : ctxErr d y ∉ [statusReg c x, DJ_STATUS c] := by
  unfold statusReg ctxErr VEC_STATUS MAC_STATUS VEC_ERR CTX_ERR0 CTX_ERR1 DJ_STATUS coreBase
  simp only [List.mem_cons, List.not_mem_nil, or_false, not_or]
  split_ifs <;> omega

theorem ctxErr_ne (hx : x < 17) (hy : y < 17) (h : d ≠ c ∨ y ≠ x) : ctxErr d y ≠ ctxErr c x := by
  unfold ctxErr VEC_ERR CTX_ERR0 CTX_ERR1 coreBase
  split_ifs <;> omega

end

section
variable (w : Work) {c x : Nat} (bit cause : Nat)

/-- The error register of the context that faults shows what was noted of it. -/
theorem Work.rd_ctxErr_faulted :
    (w.faulted c x bit cause).rd (ctxErr c x) =
      ((w.namedPoisoned c x).errorNoted c x bit cause (w.ctx c x).tag).rd (ctxErr c x) :=
  ((Work.setCtxState_kept _ c x 3).rd ctxErr_not_mem_status).trans
    ((Work.resetCounted_kept _ c x).rd ctxErr_not_mem_counts)

/-- The other contexts' states and error registers stay. -/
theorem Work.faulted_others {d y : Nat} (hx : x < 17) (hy : y < 17) (h : d ≠ c ∨ y ≠ x) :
    (w.faulted c x bit cause).ctxState d y = w.ctxState d y ∧ (w.faulted c x bit cause).rd (ctxErr d y) = w.rd (ctxErr d y) := by
  have hkept := w.faultRegs_kept c x bit cause (w.ctx c x).tag
  refine ⟨?_, ?_⟩
  · exact (Work.ctxState_setCtxState_ne _ 3 hx hy h).trans (hkept.ctxState statusReg_not_mem_faultRegs)
  · refine ((Work.setCtxState_kept _ c x 3).rd ctxErr_not_mem_status).trans (hkept.rd ?_)
    have hcounts := ctxErr_not_mem_counts (c := c) (d := d) (x := x) (y := y)
    have hne := ctxErr_ne hx hy h
    simp only [List.mem_cons, not_or] at hcounts ⊢
    exact ⟨hne, hcounts⟩

end

/-- Settles O18: the fault is the context's part with the notes of its session; each part of it by what it writes. -/
theorem aContextFaultStaysInItsContext : Obligations.AContextFaultStaysInItsContext := by
  intro w c x bit cause v
  have hx := x.isLt
  have hframe := w.ctxFault_frame c.val x.val bit.val cause.val
  have hfaulted := w.faulted_frame c.val x.val bit.val cause.val
  have hrd : ∀ a, v.rd a = (w.faulted c.val x.val bit.val cause.val).rd a := Work.rd_congr (congrArg Work.regs hframe :)
  have herr := (hrd _).trans (w.rd_ctxErr_faulted (c := c.val) bit.val cause.val)
  refine ⟨?state, ?flag, ?tag, fun h => ?marks, (congrArg Work.acc hframe :).trans (congrArg Work.acc hfaulted :),
    (congrArg Work.mem hframe :).trans (congrArg Work.mem hfaulted :), (congrArg Work.poison hframe :).trans (congrArg Work.poison hfaulted :),
    fun c' y h => ?others⟩
  case state =>
    rw [Work.ctxState_congr (hrd _)]
    exact Work.ctxState_setCtxState_same _ _ hx (by decide)
  case flag =>
    rw [Work.flag_congr herr]
    exact Work.flag_errorNoted _ _ _ _ _ bit.isLt
  case tag =>
    rw [Work.fld_congr herr]
    exact Work.fld_errorNoted ..
  case marks =>
    rw [show v.accPoison = (w.namedPoisoned c.val x.val).accPoison from
      (congrArg Work.accPoison hframe :).trans (congrArg Work.accPoison hfaulted :)]
    exact w.mem_namedPoisoned c.val x.val h
  case others =>
    have hne : c'.val ≠ c.val ∨ y.val ≠ x.val := by simpa only [ne_eq, Fin.ext_iff] using h
    obtain ⟨hstate, hreg⟩ := w.faulted_others (c := c.val) bit.val cause.val hx y.isLt hne
    exact ⟨(Work.ctx_congr ((congrArg Work.ctxs hframe :).trans (congrArg Work.ctxs hfaulted :)) _ _).trans
      (w.ctx_setCtx_ne _ hx y.isLt hne), (Work.ctxState_congr (hrd _)).trans hstate, (hrd _).trans hreg⟩

end Sys2Proof.Machine
end

section
/-! ### Instructions: issue and retirement (R200, R202, R208) -/

namespace Sys2Proof.Machine

/-- A command of the running device leads to what its operation comes to. -/
theorem leads_of_run {i : Instr} {s : State} {f : Board → Work → Work} {w : Work} {P : Work → Prop} (hc : exec i s = s.run f)
    (ha : s.board.alive = true) (hf : f s.board s.work = w) (hP : P w) : Leads i s P := ⟨w, gives_of_run hc ha hf, hP⟩

section
variable {w : Work} {c x op : Nat} {b : List Byte}

theorem Work.draining_of_run (h : w.ctxState c x = 1) : w.draining c x = false := by rw [Work.draining, h]; rfl

theorem Work.nextInstr_of_fetches (h : w.Fetches c x op b) : w.nextInstr c x = .instr b := by
  obtain ⟨hstate, hwaits, hstalled, -, hfetch, hok, -⟩ := h
  simp [Work.nextInstr, hstate, hwaits, hstalled, hfetch, hok]

theorem Work.issue_of_fetches (h : w.Fetches c x op b) (f : List Byte → Work) : w.issue c x op f = f b := by
  rw [Work.issue, Work.nextInstr_of_fetches h]
  obtain ⟨-, -, -, -, -, -, hop⟩ := h
  exact if_pos hop

theorem Work.issueMac_of_fetches (h : w.Fetches c x op b) (f : Work → List Byte → Work) : w.issueMac c x op f = f w b := by
  rw [Work.issueMac, Work.issue_of_fetches h]
  obtain ⟨-, -, -, hnone, -⟩ := h
  rw [Work.landFor, hnone, List.foldl_nil]

theorem Work.issueVk_of_fetches {kernel : Nat} (h : w.Fetches c 16 16 b) (hk : leAt b 4 1 = kernel) (f : List Byte → Work) :
    w.issueVk c kernel f = f b := by
  rw [Work.issueVk, Work.issue_of_fetches h]
  exact if_pos hk

/-- The vector stream holds no instruction of an array (R208). -/
theorem instrOk1_array (h : instrOk1 x b = true) (hop : leAt b 0 1 = op) (harray : op = 1 ∨ op = 2 ∨ op = 3 ∨ op = 4) : x ≠ 16 := by
  rintro rfl
  unfold instrOk1 at h
  rcases harray with rfl | rfl | rfl | rfl <;> simp [hop] at h

end

/-! Retirement moves the program counter and marks progress. -/

section
variable (w : Work) (c x : Nat)

@[simp] theorem Work.retireInstr_regs : (w.retireInstr c x).regs = w.regs := rfl
@[simp] theorem Work.retireInstr_mem : (w.retireInstr c x).mem = w.mem := rfl
@[simp] theorem Work.retireInstr_acc : (w.retireInstr c x).acc = w.acc := rfl
@[simp] theorem Work.retireInstr_accPoison : (w.retireInstr c x).accPoison = w.accPoison := rfl
@[simp] theorem Work.retireInstr_digital : (w.retireInstr c x).digital = w.digital := rfl

theorem Work.retireInstr_ctxs :
    (w.retireInstr c x).ctxs = (w.setCtx c x { w.ctx c x with pc := (w.ctx c x).pc + 32, stalled := false }).ctxs := rfl

theorem Work.ctx_retireInstr_same :
    (w.retireInstr c x).ctx c x = { w.ctx c x with pc := (w.ctx c x).pc + 32, stalled := false } :=
  (Work.ctx_congr (w.retireInstr_ctxs c x) c x).trans (w.ctx_setCtx_same c x _)

theorem Work.ctx_retireInstr_ne {c x d y : Nat} (hx : x < 17) (hy : y < 17) (h : d ≠ c ∨ y ≠ x) :
    (w.retireInstr c x).ctx d y = w.ctx d y :=
  (Work.ctx_congr (w.retireInstr_ctxs c x) d y).trans (w.ctx_setCtx_ne _ hx hy h)

end

/-- A context that has kept its state and its program counter retires an instruction. -/
theorem Work.retired_retireInstr {w v : Work} {c x : Nat} (hpc : (v.ctx c x).pc = (w.ctx c x).pc)
    (hstate : v.ctxState c x = w.ctxState c x) : w.Retired (v.retireInstr c x) c x := by
  refine ⟨?_, ?_, (Work.ctxState_congr (Work.rd_congr rfl _)).trans hstate⟩ <;> rw [Work.ctx_retireInstr_same]
  exact congrArg (· + 32) hpc

/-! Naming indices changes the context alone. -/

theorem Work.ctx_nameIdx (w : Work) (c x : Nat) (idxs : List Nat) :
    (w.nameIdx c x idxs).ctx c x = { w.ctx c x with named := ((w.ctx c x).named ++ idxs).dedup } := w.ctx_setCtx_same c x _

theorem Work.ctx_nameIdx_ne (w : Work) {c x d y : Nat} (idxs : List Nat) (hx : x < 17) (hy : y < 17) (h : d ≠ c ∨ y ≠ x) :
    (w.nameIdx c x idxs).ctx d y = w.ctx d y := w.ctx_setCtx_ne _ hx hy h

theorem Work.draining_nameIdx (w : Work) (c x : Nat) (idxs : List Nat) : (w.nameIdx c x idxs).draining c x = w.draining c x := rfl

end Sys2Proof.Machine
end

section
/-! ### The counts of an array (R186, Table 5-13) -/

namespace Sys2Proof.Machine

/-- The registers that an array instruction counts in. -/
def macRegs (c a : Nat) : List Nat := [MAC_GATED_CNT c a, MAC_BUSY_CNT c a, ACC_INF_CNT c a, NAN_CNT c a, ESC_READ_CNT c a]

theorem Work.macCount_kept (w : Work) (c x : Nat) (m : MacCounts) (n : Nat) : RegsKept w (w.macCount c x m n) (macRegs c (x / 2)) :=
  (((((RegsKept.refl w _).of_regs rfl).wr (by simp [macRegs]) _).wr (by simp [macRegs]) _).wr (by simp [macRegs]) _).wr
    (by simp [macRegs]) _

theorem statusReg_not_mem_macRegs (c : Nat) {x : Nat} (hx : x < 16) : statusReg c x ∉ macRegs c (x / 2) := by
  unfold macRegs statusReg
  rw [if_neg (by omega)]
  simp [MAC_STATUS, MAC_GATED_CNT, MAC_BUSY_CNT, ACC_INF_CNT, NAN_CNT, ESC_READ_CNT]

/-- Registers outside the cores' blocks are none of them. -/
theorem not_mem_macRegs_of_lt {c i a : Nat} (h : a < 0x10000000) : a ∉ macRegs c i := by
  simp only [macRegs, MAC_GATED_CNT, MAC_BUSY_CNT, ACC_INF_CNT, NAN_CNT, ESC_READ_CNT, coreBase, List.mem_cons, List.not_mem_nil,
    or_false, not_or]
  omega

end Sys2Proof.Machine
end

section
/-! ### Multiply-accumulate: the instruction (R182, R183, R193, R199, R434) -/

namespace Sys2Proof.Machine

/-- The tile of an MMA written and counted; one that initialises it removes its marks. -/
def Work.mmaWritten (w : Work) (c x : Nat) (split : Bool) (shape idx : Nat) (init : Bool) (r : MmaRun) (n : Nat) : Work :=
  (((if init then w.tilePoison c x [idx] false else w).tilePut c x split shape idx r.tile).macCount c x r.counts n).incBy
    (ESC_READ_CNT c (x / 2)) r.escapes

/-- An MMA leaves its cells: they are its own from their freedom on, and its result is in flight. -/
def Work.mmaFlown (w : Work) (c x idx n : Nat) (nonfin : Bool) : Work :=
  let v := w.till (w.ctx c x).freeFrom
  let ends := v.now + v.macNs c n
  let due := v.chkShare ≠ 0 && ((v.ctx c x).mmas + 1) % (v.chkShare - 1) = 0
  v.setCtx c x { v.ctx c x with
    inFlight := (v.ctx c x).inFlight ++ [{ idx := idx, cycles := n, nonfin := nonfin, due := due, lands := ends + v.macNs c 12 }]
    mmas := (v.ctx c x).mmas + 1, freeFrom := ends }

/-- The end of an MMA whose tile is written: its result in flight, the session's steps noted, and the context on. -/
def Work.mmaIssued (v : Work) (c x idx n : Nat) (nonfin : Bool) : Work :=
  ((v.mmaFlown c x idx n nonfin).noteProduct (v.ctx c x).session true).retireInstr c x

theorem Work.mmaWritten_kept (w : Work) (c x : Nat) (split : Bool) (shape idx : Nat) (init : Bool) (r : MmaRun) (n : Nat) :
    RegsKept w (w.mmaWritten c x split shape idx init r n) (macRegs c (x / 2)) := by
  have hmarks : ((if init then w.tilePoison c x [idx] false else w).tilePut c x split shape idx r.tile).regs = w.regs := by
    cases init <;> rfl
  exact (((RegsKept.refl w _).of_regs hmarks).trans (Work.macCount_kept _ c x r.counts n)).wr (by simp [macRegs]) _

theorem Work.mmaWritten_frame (w : Work) (c x : Nat) (split : Bool) (shape idx : Nat) (init : Bool) (r : MmaRun) (n : Nat) :
    w.mmaWritten c x split shape idx init r n =
      { w with
        regs := (w.mmaWritten c x split shape idx init r n).regs, acc := (w.tilePut c x split shape idx r.tile).acc
        accPoison := (if init then w.tilePoison c x [idx] false else w).accPoison
        digital := (w.mmaWritten c x split shape idx init r n).digital } := by
  cases init <;> rfl

theorem Work.macNs_congr {v w : Work} {l : List Nat} (h : RegsKept w v l) (hl : ∀ a ∈ l, 0x10000000 ≤ a) {c : Nat} (hc : c < 1024)
    (n : Nat) : v.macNs c n = w.macNs c n := by
  have hlow : PD_STATUS (4 * (c / 64) + 1) < 0x10000000 := by
    unfold PD_STATUS pwrBase
    omega
  rw [Work.macNs, Work.macNs, h.fld (fun hm => absurd (hl _ hm) (by omega))]

theorem Work.chkShare_congr {v w : Work} {l : List Nat} (h : RegsKept w v l) (hl : ∀ a ∈ l, 0x10000000 ≤ a)
    (hf : v.force = w.force) : v.chkShare = w.chkShare := by
  have hlow : FAULT_CTL < 0x10000000 := by decide
  rw [Work.chkShare, Work.chkShare, Work.live, Work.live, hf, h.rd (fun hm => absurd (hl _ hm) (by omega))]

theorem macRegs_le {c i a : Nat} (h : a ∈ macRegs c i) : 0x10000000 ≤ a := by
  by_contra hlt
  exact not_mem_macRegs_of_lt (by omega) h

theorem Work.noteProduct_frame (w : Work) (n : Option Nat) (starts : Bool) :
    w.noteProduct n starts = { w with sess := (w.noteProduct n starts).sess } := by
  cases n with
  | none => rfl
  | some n => exact w.noteRun_frame n _

theorem Work.ctx_noteProduct (w : Work) (n : Option Nat) (starts : Bool) (c x : Nat) :
    (w.noteProduct n starts).ctx c x = w.ctx c x := by
  rw [Work.noteProduct_frame]
  rfl

section
variable {w : Work} {c x : Nat} {b da db : List Byte} {r : MmaRun}

/-- An MMA whose descriptors and operands are good (R182, R193, R199): the parity error of its partner faults the context of a summing
one; otherwise its tile is written and its result is in flight. -/
theorem Work.mma_eq (parity : Bool) (hcheck : (w.ctx c x).checking = none) (hrun : w.ctxState c x = 1)
    (hshape : leAt b 1 1 % 4 < 3) (hsplit : leAt b 1 1 % 4 = 2 → (w.ctx c x).split = false) (hk1 : 1 ≤ leAt b 6 2)
    (hk2 : leAt b 6 2 ≤ 4096) (ha : leAt b 8 4 % 32 = 0) (hb : leAt b 12 4 % 32 = 0)
    (hda : w.localGet c ((w.ctx c x).opdBase + 32 * leAt b 2 1) 32 = some (da, false))
    (hdb : w.localGet c ((w.ctx c x).opdBase + 32 * leAt b 3 1) 32 = some (db, false))
    (hoa : opdOk da (shapeMN (leAt b 1 1 % 4) (w.ctx c x).split).1 = true)
    (hob : opdOk db (shapeMN (leAt b 1 1 % 4) (w.ctx c x).split).2 = true)
    (hr : w.mmaRun c (opdOf da) (opdOf db) (leAt b 8 4) (leAt b 12 4) (shapeMN (leAt b 1 1 % 4) (w.ctx c x).split).1
      (shapeMN (leAt b 1 1 % 4) (w.ctx c x).split).2 (leAt b 6 2)
      (if (leAt b 1 1).testBit 2 then List.replicate (tileSize (leAt b 1 1 % 4) (w.ctx c x).split) 0
        else w.tileGet c x (w.ctx c x).split (leAt b 1 1 % 4) (leAt b 4 1)) = some r)
    (hpoison : r.poison = false) :
    w.mma c x parity b =
      if parity && !(leAt b 1 1).testBit 2 then (w.nameIdx c x [leAt b 4 1]).ctxFault c x 1 0
      else
        let n := mmaCycles r.cycles (w.ctx c x).split (opdOf da) (opdOf db) (leAt b 8 4) (leAt b 12 4)
          (shapeMN (leAt b 1 1 % 4) (w.ctx c x).split).1 (shapeMN (leAt b 1 1 % 4) (w.ctx c x).split).2 (leAt b 6 2)
        ((w.nameIdx c x [leAt b 4 1]).mmaWritten c x (w.ctx c x).split (leAt b 1 1 % 4) (leAt b 4 1) ((leAt b 1 1).testBit 2) r
          n).mmaIssued c x (leAt b 4 1) n r.nonfin := by
  have h1 : (decide (3 ≤ leAt b 1 1 % 4) || (decide (leAt b 1 1 % 4 = 2) && (w.ctx c x).split)) = false := by
    by_cases h2 : leAt b 1 1 % 4 = 2
    · simp [h2, hsplit h2]
    · simp [h2]; omega
  have h2 : (decide (leAt b 6 2 = 0) || decide (4096 < leAt b 6 2)) = false := by
    simp only [Bool.or_eq_false_iff, decide_eq_false_iff_not]
    omega
  unfold Work.mma
  simp only [hcheck, Option.isSome_none, Bool.false_eq_true, if_false, Work.draining_of_run hrun]
  simp only [h1, h2, Bool.false_eq_true, if_false]
  have hda' : (w.nameIdx c x [leAt b 4 1]).localGet c ((w.ctx c x).opdBase + 32 * leAt b 2 1) 32 = some (da, false) := hda
  have hdb' : (w.nameIdx c x [leAt b 4 1]).localGet c ((w.ctx c x).opdBase + 32 * leAt b 3 1) 32 = some (db, false) := hdb
  have hr' : (w.nameIdx c x [leAt b 4 1]).mmaRun c (opdOf da) (opdOf db) (leAt b 8 4) (leAt b 12 4)
      (shapeMN (leAt b 1 1 % 4) (w.ctx c x).split).1 (shapeMN (leAt b 1 1 % 4) (w.ctx c x).split).2 (leAt b 6 2)
      (if (leAt b 1 1).testBit 2 then List.replicate (tileSize (leAt b 1 1 % 4) (w.ctx c x).split) 0
        else (w.nameIdx c x [leAt b 4 1]).tileGet c x (w.ctx c x).split (leAt b 1 1 % 4) (leAt b 4 1)) = some r := hr
  simp only [hda', hdb', hr', hoa, hob, ha, hb, hpoison, Bool.and_self, Bool.not_true, Bool.false_eq_true, if_false, ne_eq,
    not_true_eq_false, decide_false, Bool.or_self]
  rfl

end

end Sys2Proof.Machine
end

section
/-! ### Multiply-accumulate: what the instruction leaves (R182, R193, R199, R434) -/

namespace Sys2Proof.Machine

section
variable (v : Work) (c x idx n : Nat) (nonfin : Bool)

theorem Work.mmaIssued_frame :
    v.mmaIssued c x idx n nonfin =
      { v with
        now := max v.now (v.ctx c x).freeFrom, ctxs := (v.mmaIssued c x idx n nonfin).ctxs
        fault := (v.mmaIssued c x idx n nonfin).fault, sess := (v.mmaIssued c x idx n nonfin).sess } := by
  rw [Work.mmaIssued, Work.noteProduct_frame]
  rfl

theorem Work.ctx_mmaIssued_ne {c x y : Nat} (hx : x < 17) (hy : y < 17) (h : y ≠ x) :
    (v.mmaIssued c x idx n nonfin).ctx c y = v.ctx c y := by
  rw [Work.mmaIssued, Work.ctx_retireInstr_ne _ hx hy (.inr h), Work.ctx_noteProduct]
  exact Work.ctx_setCtx_ne _ _ hx hy (.inr h)

/-- The context after an MMA: its cells busy from their freedom on, the result landing 12 cycles after its end, a check pass due on
the share in force. -/
theorem Work.ctx_mmaIssued :
    (v.mmaIssued c x idx n nonfin).ctx c x =
      { v.ctx c x with
        inFlight := (v.ctx c x).inFlight ++ [{
          idx := idx, cycles := n, nonfin := nonfin, lands := max v.now (v.ctx c x).freeFrom + v.macNs c n + v.macNs c 12
          due := decide (v.chkShare ≠ 0) && decide (((v.ctx c x).mmas + 1) % (v.chkShare - 1) = 0) }]
        mmas := (v.ctx c x).mmas + 1, freeFrom := max v.now (v.ctx c x).freeFrom + v.macNs c n
        pc := (v.ctx c x).pc + 32, stalled := false } := by
  have hflown : (v.mmaFlown c x idx n nonfin).ctx c x = _ := Work.ctx_setCtx_same _ c x _
  rw [Work.mmaIssued, Work.ctx_retireInstr_same, Work.ctx_noteProduct, hflown]
  rfl

end

/-- An MMA with good operands leads to its tile, its times and its flight (R182, R193, R199, R434). -/
theorem leads_mma {s : State} {c : Fin 1024} {x : Fin 17} {b da db : List Byte} {r : MmaRun} (halive : s.board.alive = true)
    (hf : s.work.Fetches c.val x.val 1 b) (hcheck : (s.work.ctx c.val x.val).checking = none) :
    let k := s.work.ctx c.val x.val
    let sh := leAt b 1 1 % 4
    let init := (leAt b 1 1).testBit 2
    let idx := leAt b 4 1
    let mn := shapeMN sh k.split
    sh < 3 → (sh = 2 → k.split = false) → 1 ≤ leAt b 6 2 → leAt b 6 2 ≤ 4096 → leAt b 8 4 % 32 = 0 → leAt b 12 4 % 32 = 0 →
    s.work.localGet c.val (k.opdBase + 32 * leAt b 2 1) 32 = some (da, false) →
    s.work.localGet c.val (k.opdBase + 32 * leAt b 3 1) 32 = some (db, false) →
    opdOk da mn.1 = true → opdOk db mn.2 = true →
    s.work.mmaRun c.val (opdOf da) (opdOf db) (leAt b 8 4) (leAt b 12 4) mn.1 mn.2 (leAt b 6 2)
      (if init then List.replicate (tileSize sh k.split) 0 else s.work.tileGet c.val x.val k.split sh idx) = some r →
    r.poison = false →
    let n := mmaCycles r.cycles k.split (opdOf da) (opdOf db) (leAt b 8 4) (leAt b 12 4) mn.1 mn.2 (leAt b 6 2)
    let starts := max s.work.now k.freeFrom
    let ends := starts + s.work.macNs c.val n
    Leads (.mma c x false) s (fun w =>
      w.acc = (s.work.tilePut c.val x.val k.split sh idx r.tile).acc ∧ s.work.Retired w c.val x.val ∧
      (w.ctx c.val x.val).freeFrom = ends ∧ w.now = starts ∧
      (w.ctx c.val x.val).inFlight =
        [{ idx := idx, cycles := n, nonfin := r.nonfin, lands := ends + s.work.macNs c.val 12,
           due := decide (s.work.chkShare ≠ 0) && decide ((k.mmas + 1) % (s.work.chkShare - 1) = 0) }] ∧
      (init = false → w.accPoison = s.work.accPoison) ∧ w.mem = s.work.mem ∧ w.poison = s.work.poison ∧
      (∀ y, y ≠ x.val → y < 17 → w.ctx c.val y = s.work.ctx c.val y) ∧
      RegsKept s.work w (macRegs c.val (x.val / 2))) ∧
    (init = false → Gives (.mma c x true) s ((s.work.nameIdx c.val x.val [idx]).ctxFault c.val x.val 1 0)) := by
  intro k sh init idx mn hshape hsplit hk1 hk2 ha hb hda hdb hoa hob hr hpoison n starts ends
  obtain ⟨hrun, -, -, hnone, -, hok, hop⟩ := id hf
  have hx : x.val < 16 := by
    have := instrOk1_array hok hop (.inl rfl)
    have := x.isLt
    omega
  have hmma := fun parity => Work.mma_eq parity hcheck hrun hshape hsplit hk1 hk2 ha hb hda hdb hoa hob hr hpoison
  refine ⟨?_, fun hinit =>
    gives_of_run (execMma.eq_1 c x true s) halive ((Work.issueMac_of_fetches hf _).trans ((hmma true).trans (if_pos ?_)))⟩
  · have hctx := s.work.ctx_nameIdx c.val x.val [idx]
    have hnamed := fun y h hy => s.work.ctx_nameIdx_ne (c := c.val) (d := c.val) (y := y) [idx] x.isLt hy (.inr h)
    have hkept := (s.work.nameIdx c.val x.val [idx]).mmaWritten_kept c.val x.val k.split sh idx init r n
    have hframe := (s.work.nameIdx c.val x.val [idx]).mmaWritten_frame c.val x.val k.split sh idx init r n
    have hmarks : init = false → (if init then (s.work.nameIdx c.val x.val [idx]).tilePoison c.val x.val [idx] false
        else s.work.nameIdx c.val x.val [idx]).accPoison = s.work.accPoison := by rintro h; rw [h]; rfl
    refine leads_of_run (execMma.eq_1 c x false s) halive (((Work.issueMac_of_fetches hf _).trans (hmma false)).trans (if_neg nofun)) ?_
    dsimp only
    generalize (s.work.nameIdx c.val x.val [idx]).mmaWritten c.val x.val k.split sh idx init r n = v at *
    replace hkept : RegsKept s.work v (macRegs c.val (x.val / 2)) := hkept
    have hvctx : ∀ y, v.ctx c.val y = (s.work.nameIdx c.val x.val [idx]).ctx c.val y :=
      Work.ctx_congr (congrArg Work.ctxs hframe :) c.val
    have hnow : v.now = s.work.now := (congrArg Work.now hframe :)
    have hissued := v.mmaIssued_frame c.val x.val idx n r.nonfin
    have hissuedCtx := v.ctx_mmaIssued c.val x.val idx n r.nonfin
    rw [hvctx, hctx, hnow, Work.chkShare_congr hkept (fun _ => macRegs_le) (congrArg Work.force hframe :),
      Work.macNs_congr hkept (fun _ => macRegs_le) c.isLt, Work.macNs_congr hkept (fun _ => macRegs_le) c.isLt] at hissuedCtx
    have hothers := fun y h hy => (v.ctx_mmaIssued_ne idx n r.nonfin (c := c.val) (y := y) x.isLt hy h).trans
      ((hvctx y).trans (hnamed y h hy))
    have hstarts : max v.now (v.ctx c.val x.val).freeFrom = starts := by rw [hnow, hvctx, hctx]
    generalize v.mmaIssued c.val x.val idx n r.nonfin = w at *
    have hregs : RegsKept s.work w (macRegs c.val (x.val / 2)) := hkept.of_regs (congrArg Work.regs hissued :)
    refine ⟨(congrArg Work.acc hissued :).trans (congrArg Work.acc hframe :),
      ⟨by rw [hissuedCtx], by rw [hissuedCtx], hregs.ctxState (statusReg_not_mem_macRegs _ hx)⟩, by rw [hissuedCtx],
      (congrArg Work.now hissued :).trans hstarts, ?_,
      fun h => ((congrArg Work.accPoison hissued :).trans (congrArg Work.accPoison hframe :)).trans (hmarks h),
      (congrArg Work.mem hissued :).trans (congrArg Work.mem hframe :),
      (congrArg Work.poison hissued :).trans (congrArg Work.poison hframe :), hothers, hregs⟩
    rw [hissuedCtx, hnone]
    rfl
  · rw [show (leAt b 1 1).testBit 2 = false from hinit]
    rfl

end Sys2Proof.Machine
end

section
/-! ### Multiply-accumulate: results land (R193, R434) -/

namespace Sys2Proof.Machine

/-- The oldest result lands: a due check pass starts on finite operands and is skipped on others. -/
theorem Work.land_cons {w : Work} {c x : Nat} {f : Flight} {fs : List Flight} (h : (w.ctx c x).inFlight = f :: fs) :
    w.land c x =
      ((((w.till f.lands).setCtx c x { w.ctx c x with
        inFlight := fs
        checking := if f.due && !f.nonfin then some (f.idx, f.cycles) else (w.ctx c x).checking
        freeFrom := if f.due then (w.ctx c x).freeFrom + w.macNs c f.cycles else (w.ctx c x).freeFrom }).when (f.due && f.nonfin)
        (·.inc CHK_SKIP_CNT)).noteProduct (w.ctx c x).session false) := by
  simp only [Work.land, h]
  rfl

theorem gives_mmaDone {s : State} {c : Fin 1024} {x : Fin 17} {f : Flight} {fs : List Flight} (halive : s.board.alive = true)
    (h : (s.work.ctx c.val x.val).inFlight = f :: fs) :
    let k := s.work.ctx c.val x.val
    let v := s.work.till f.lands
    (f.due = false → Gives (.mmaDone c x) s ((v.setCtx c.val x.val { k with inFlight := fs }).noteProduct k.session false)) ∧
    (f.due = true → f.nonfin = false → Gives (.mmaDone c x) s ((v.setCtx c.val x.val { k with
      inFlight := fs, checking := some (f.idx, f.cycles), freeFrom := k.freeFrom + s.work.macNs c.val f.cycles }).noteProduct
        k.session false)) ∧
    (f.due = true → f.nonfin = true → Gives (.mmaDone c x) s (((v.setCtx c.val x.val { k with
      inFlight := fs, freeFrom := k.freeFrom + s.work.macNs c.val f.cycles }).inc CHK_SKIP_CNT).noteProduct k.session false)) := by
  intro k v
  have hland := Work.land_cons h
  refine ⟨fun hdue => ?_, fun hdue hfin => ?_, fun hdue hnon => ?_⟩ <;>
    refine gives_of_run (execMmaDone.eq_1 c x s) halive (hland.trans ?_)
  · rw [hdue]
    rfl
  · rw [hdue, hfin]
    rfl
  · rw [hdue, hnon]
    rfl

end Sys2Proof.Machine
end

section
/-! ### What sending changes

Beside registers, a packet sent changes the ports, the flows, the manager's part, the marks of progress and what leaves the
device; a lasting fault changes no more. -/

namespace Sys2Proof.Machine

/-- Between two states only registers, ports, flows, the fault and manager parts and what left the device differ. -/
def Work.SendsOnly (w v : Work) : Prop :=
  v = { w with regs := v.regs, out := v.out, fault := v.fault, links := v.links, txFlows := v.txFlows, mgr := v.mgr }

namespace Work.SendsOnly

variable {u v w : Work}

theorem refl (w : Work) : w.SendsOnly w := rfl

theorem trans (h : u.SendsOnly v) (k : v.SendsOnly w) : u.SendsOnly w := by
  unfold Work.SendsOnly at *
  rw [k, h]

theorem foldl {α : Type} {f : Work → α → Work} (hf : ∀ (v : Work) x, v.SendsOnly (f v x)) (l : List α) (w : Work) :
    w.SendsOnly (l.foldl f w) :=
  List.foldlRecOn l f (refl w) fun v hv x _ => hv.trans (hf v x)

theorem when {f : Work → Work} (hf : w.SendsOnly (f w)) (c : Bool) : w.SendsOnly (w.when c f) := by
  cases c with
  | true => exact hf
  | false => exact refl w

theorem incBy (w : Work) (a n : Nat) : w.SendsOnly (w.incBy a n) := rfl
theorem setLink (w : Work) (k : Nat) (l : Link) : w.SendsOnly (w.setLink k l) := rfl
theorem emit (w : Work) (o : Out) : w.SendsOnly (w.emit o) := rfl
theorem progress (w : Work) (key : Nat) : w.SendsOnly (w.progress key) := rfl
theorem fault (w : Work) (x : FaultSt) : w.SendsOnly { w with fault := x } := rfl
theorem mgr (w : Work) (x : MgrSt) : w.SendsOnly { w with mgr := x } := rfl
theorem txFlows (w : Work) (x : Sp TxFlow) : w.SendsOnly { w with txFlows := x } := rfl

end Work.SendsOnly

theorem Work.putFrame_sendsOnly (w : Work) (k : Nat) (p : Packet) : w.SendsOnly (w.putFrame k p) :=
  ((Work.SendsOnly.setLink w k _).trans (.incBy _ (TX_FRAME_CNT k) 1)).trans (.emit _ _)

theorem Work.sendNow_sendsOnly (w : Work) (k : Nat) (p : Packet) : w.SendsOnly (w.sendNow k p) :=
  ((Work.SendsOnly.setLink w k _).trans (Work.putFrame_sendsOnly _ k _)).trans (.progress _ _)

theorem pumpN_sendsOnly (n k : Nat) (w : Work) : w.SendsOnly (pumpN n k w) := by
  induction n generalizing w with
  | zero => exact .refl w
  | succ n ih =>
    unfold pumpN
    split
    · exact .refl w
    · exact ((Work.SendsOnly.setLink w k _).trans (Work.sendNow_sendsOnly _ k _)).trans (ih _)

theorem Work.pumpHost_sendsOnly (w : Work) (k : Nat) : w.SendsOnly (w.pumpHost k) := by
  unfold Work.pumpHost
  extract_lets l held
  split
  · exact .refl w
  · exact (Work.SendsOnly.setLink w k _).trans
      (Work.SendsOnly.foldl (fun v a => (Work.SendsOnly.incBy v (TX_FRAME_CNT k) a.2).trans (.emit _ a.1)) l.answers _)

theorem Work.xmit_sendsOnly (w : Work) (k : Nat) (p : Packet) : w.SendsOnly (w.xmit k p) :=
  (((Work.SendsOnly.when (.incBy w (REPLAY_WAIT_CNT k) 1) _).trans (.when (.progress _ (1040 + k)) _)).trans (.setLink _ k _)).trans
    ((pumpN_sendsOnly _ k _).trans (Work.pumpHost_sendsOnly _ k))

theorem Work.sendRouted_sendsOnly (w : Work) (p : Packet) : w.SendsOnly (w.sendRouted p) := by
  unfold Work.sendRouted
  split
  · exact w.xmit_sendsOnly _ p
  · exact .emit w _

theorem Work.first_sendsOnly (w : Work) (key : Nat) (f : TxFlow) (p : Packet) : w.SendsOnly (w.first key f p) :=
  (Work.SendsOnly.txFlows w _).trans (Work.sendRouted_sendsOnly _ _)

theorem Work.sendFlow_sendsOnly (w : Work) (p : Packet) : w.SendsOnly (w.sendFlow p) := by
  unfold Work.sendFlow
  dsimp only
  split
  · exact .refl w
  · split
    · exact w.first_sendsOnly _ _ p
    · exact .txFlows w _

theorem Work.send_sendsOnly (w : Work) (p : Packet) : w.SendsOnly (w.send p) := by
  unfold Work.send
  split
  · exact w.sendFlow_sendsOnly p
  · exact w.sendRouted_sendsOnly p

theorem Work.control_sendsOnly (w : Work) (dst op crew : Nat) (body : List Byte) : w.SendsOnly (w.control dst op crew body) := by
  unfold Work.control
  split
  · exact .refl w
  · exact (Work.SendsOnly.mgr w _).trans (Work.send_sendsOnly _ _)

theorem Work.reportRec_sendsOnly (w : Work) (r : FaultRec) : w.SendsOnly (w.reportRec r) := by
  unfold Work.reportRec
  split
  · exact .refl w
  · split
    · exact .fault w _
    · exact .foldl (fun v d => v.control_sendsOnly d 13 _ _) w.mgrNodes.dedup w

theorem Work.logRec_sendsOnly (w : Work) (r : FaultRec) : w.SendsOnly (w.logRec r) := by
  have hlogged : w.SendsOnly (w.logOnly { r with beat := w.beatFull }) := by
    rw [Work.logOnly_frame]
    exact rfl
  exact hlogged.trans (Work.reportRec_sendsOnly _ _)

theorem Work.decideAbort_sendsOnly (w : Work) (crew cause : Nat) : w.SendsOnly (w.decideAbort crew cause) := by
  unfold Work.decideAbort
  split
  · exact .refl w
  · exact (((Work.SendsOnly.fault w _).trans (.fault _ _)).trans (.incBy _ ABORT_TX_CNT 1)).trans
      (.foldl (fun v n => v.sendRouted_sendsOnly _) _ _)

/-! A lasting fault (R429, R432). -/

/-- A lasting fault with its beacons: the abort decisions of its crews, its count, and its record. -/
theorem Work.lasting_eq (w : Work) (r : FaultRec) (cause : Nat) (crews : List Nat) :
    ∃ r', w.lasting r (some cause) crews =
      ((crews.foldl (fun (v : Work) n => v.decideAbort n cause) w).inc LASTING_CNT).logRec r' := ⟨_, rfl⟩

theorem Work.lasting_sendsOnly (w : Work) (r : FaultRec) (cause : Nat) (crews : List Nat) :
    w.SendsOnly (w.lasting r (some cause) crews) := by
  obtain ⟨r', h⟩ := w.lasting_eq r cause crews
  rw [h]
  exact ((Work.SendsOnly.foldl (fun v n => v.decideAbort_sendsOnly n cause) crews w).trans (.incBy _ LASTING_CNT 1)).trans
    (Work.logRec_sendsOnly _ r')

/-- An abort decided counts its beacon in no register below the ports but ABORT_TX_CNT. -/
theorem Work.rd_decideAbort (w : Work) (crew cause : Nat) {a : Nat} (ha : a < linkBase 0) (hne : a ≠ ABORT_TX_CNT) :
    (w.decideAbort crew cause).rd a = w.rd a := by
  unfold Work.decideAbort
  split
  · rfl
  · refine ((Work.SendKept.foldl (fun v n => v.sendRouted_sendKept _) _ _).rd ha).trans ?_
    rw [Work.rd_inc_ne _ _ hne]
    rfl

theorem Work.rd_logRec (w : Work) (r : FaultRec) {a : Nat} (ha : a < linkBase 0) (hne : a ∉ [FAULT_STATUS, FLOG_OVF_CNT]) :
    (w.logRec r).rd a = w.rd a := ((Work.reportRec_sendKept _ _).rd ha).trans ((w.logOnly_kept _).rd hne)

/-- What a lasting fault leaves of a register below the ports that neither beacons nor the log count in. -/
theorem Work.rd_lasting (w : Work) (r : FaultRec) (cause : Nat) (crews : List Nat) {a : Nat} (ha : a < linkBase 0)
    (hne : a ∉ [ABORT_TX_CNT, FAULT_STATUS, FLOG_OVF_CNT]) :
    (w.lasting r (some cause) crews).rd a = (w.inc LASTING_CNT).rd a := by
  obtain ⟨r', h⟩ := w.lasting_eq r cause crews
  simp only [List.mem_cons, List.not_mem_nil, or_false, not_or] at hne
  obtain ⟨habort, hlog⟩ := hne
  have hdecided : (crews.foldl (fun (v : Work) n => v.decideAbort n cause) w).rd a = w.rd a :=
    List.foldlRecOn (motive := fun v : Work => v.rd a = w.rd a) crews _ rfl
      fun v hv n _ => (v.rd_decideAbort n cause ha habort).trans hv
  rw [h, Work.rd_logRec _ _ ha (by simpa using hlog)]
  simp only [Work.inc, Work.incBy, Work.rd_wr]
  split
  · rename_i he
    rw [← he, hdecided]
  · exact hdecided

end Sys2Proof.Machine
end

section
/-! ### Check passes (R435) -/

namespace Sys2Proof.Machine

/-- A check pass whose comparisons have run: once where they agree, twice where they do not, a second difference poisoning the tile
(R435). -/
theorem checkPassDone_cases {s : State} {c : Fin 1024} {x : Fin 17} {i n : Nat} (halive : s.board.alive = true)
    (h : (s.work.ctx c.val x.val).checking = some (i, n)) :
    let k := s.work.ctx c.val x.val
    (∀ g, Gives (.checkPassDone c x true g) s
      (((s.work.till k.freeFrom).setCtx c.val x.val { k with checking := none }).inc CHK_CNT)) ∧
    (let ends := k.freeFrom + s.work.macNs c.val n
     Gives (.checkPassDone c x false true) s
      ((((s.work.till ends).setCtx c.val x.val { k with checking := none, freeFrom := ends }).inc CHK_RETRY_CNT).inc TRANSIENT_CNT)) ∧
    Leads (.checkPassDone c x false false) s (fun w =>
      (∀ h ∈ (s.work.ctx c.val x.val).halves x.val, halfKey c.val (x.val / 2) h i ∈ w.accPoison) ∧
      w.rd CHK_FAIL_CNT = min (s.work.rd CHK_FAIL_CNT + 1) 0xFFFFFFFF ∧
      w.rd LASTING_CNT = min (s.work.rd LASTING_CNT + 1) 0xFFFFFFFF ∧ (w.ctx c.val x.val).checking = none ∧ w.acc = s.work.acc) := by
  intro k
  refine ⟨fun g => ?_, ?_, ?_⟩
  · refine gives_of_run (execCheckPassDone.eq_1 c x true g s) halive ?_
    simp only [h]
    rfl
  · refine gives_of_run (execCheckPassDone.eq_1 c x false true s) halive ?_
    simp only [h]
    rfl
  · obtain ⟨u, hu⟩ : ∃ u : Work, u = (s.work.till (k.freeFrom + s.work.macNs c.val n)).setCtx c.val x.val
        { k with checking := none, freeFrom := k.freeFrom + s.work.macNs c.val n } := ⟨_, rfl⟩
    have hctx : u.ctx c.val x.val = { k with checking := none, freeFrom := k.freeFrom + s.work.macNs c.val n } := by
      rw [hu]
      exact Work.ctx_setCtx_same _ _ _ _
    have hregs : ∀ a, u.rd a = s.work.rd a := fun a => by rw [hu]; rfl
    refine leads_of_run (w := ((u.inc CHK_FAIL_CNT).tilePoison c.val x.val [i] true).lasting
        { cls := 3, unit := c.val, detail := k.tag } (some 7) (u.crewsFor 0 (u.coreCrew c.val)))
      (execCheckPassDone.eq_1 c x false false s) halive ?_ ?_
    · simp only [h]
      rw [hu]
      rfl
    · have hsent := Work.lasting_sendsOnly ((u.inc CHK_FAIL_CNT).tilePoison c.val x.val [i] true)
        { cls := 3, unit := c.val, detail := k.tag } 7 (u.crewsFor 0 (u.coreCrew c.val))
      have hrd := fun a => Work.rd_lasting ((u.inc CHK_FAIL_CNT).tilePoison c.val x.val [i] true)
        { cls := 3, unit := c.val, detail := k.tag } 7 (u.crewsFor 0 (u.coreCrew c.val)) (a := a)
      generalize Work.lasting _ _ _ _ = w at *
      refine ⟨fun h hh => ?_, ?_, ?_, ?_, ?_⟩
      · rw [show w.accPoison = _ from (congrArg Work.accPoison hsent :)]
        refine (Work.mem_tilePoison _ _ _ _ _).mpr (.inr ⟨i, by simp, h, ?_, rfl⟩)
        rw [show (u.inc CHK_FAIL_CNT).ctx c.val x.val = u.ctx c.val x.val from rfl, hctx]
        exact hh
      · rw [hrd _ (by decide) (by decide), Work.rd_inc_ne _ _ (by decide)]
        exact (u.rd_inc_same CHK_FAIL_CNT).trans (by rw [hregs])
      · rw [hrd _ (by decide) (by decide), Work.rd_inc_same]
        exact congrArg (fun m => min (m + 1) 0xFFFFFFFF) ((u.rd_inc_ne CHK_FAIL_CNT (by decide)).trans (hregs _))
      · rw [Work.ctx_congr (w := u) (congrArg Work.ctxs hsent :), hctx]
      · rw [show w.acc = _ from (congrArg Work.acc hsent :)]
        show u.acc = s.work.acc
        rw [hu]
        rfl

end Sys2Proof.Machine
end

section
/-! ### Tiles in the accumulator (R188, R194)

An element stands in one bank of its array, in one of the 512 cells of its half-tile; no two elements of a tile share a cell. -/

namespace Sys2Proof.Machine

theorem Sp.get_erase {α : Type} (l : Sp α) (k : Nat) (d : α) (j : Nat) : Sp.get (Sp.erase l k) d j = if j = k then d else Sp.get l d j := by
  simp only [Sp.get, Sp.find_erase]
  split <;> rfl

theorem get_putAcc (l : Sp Word) (k : Nat) (v : Word) (j : Nat) : Sp.get (putAcc l k v) 0 j = if j = k then v else Sp.get l 0 j := by
  unfold putAcc
  split
  · rename_i hv
    rw [Sp.get_erase, hv]
  · exact Sp.get_put l k v 0 j

/-- Elements bound at keys of their own: each reads back, and every other key reads as before. -/
theorem get_foldl_putAcc (key : Nat → Nat) (vs : List Word) (n : Nat) (l : Sp Word) (j : Nat) :
    (∀ p, n ≤ p → p < n + vs.length → (∀ q, n ≤ q → q < n + vs.length → key q = key p → q = p) → j = key p →
      Sp.get ((vs.zipIdx n).foldl (fun l q => putAcc l (key q.2) q.1) l) 0 j = vs.getD (p - n) 0) ∧
    ((∀ p, n ≤ p → p < n + vs.length → j ≠ key p) →
      Sp.get ((vs.zipIdx n).foldl (fun l q => putAcc l (key q.2) q.1) l) 0 j = Sp.get l 0 j) := by
  induction vs generalizing n l with
  | nil => exact ⟨fun p h1 h2 => absurd h2 (by simp only [List.length_nil]; omega), fun _ => rfl⟩
  | cons v vs ih =>
    obtain ⟨hin, hout⟩ := ih (n + 1) (putAcc l (key n) v)
    simp only [List.zipIdx_cons, List.foldl_cons, List.length_cons]
    refine ⟨fun p h1 h2 hinj hj => ?_, fun h => ?_⟩
    · by_cases hp : p = n
      · subst hp
        rw [hout fun q hq1 hq2 he => by have := hinj q (by omega) (by omega) (by rw [← he, hj]); omega, get_putAcc, if_pos hj]
        simp
      · rw [hin p (by omega) (by omega) (fun q hq1 hq2 he => hinj q (by omega) (by omega) he) hj,
          show p - n = p - (n + 1) + 1 by omega]
        rfl
    · rw [hout fun p h1 h2 => h p (by omega) (by omega), get_putAcc, if_neg (h n (by omega) (by omega))]

/-- The bank of an element, and its cell in the half-tile. -/
def accBank (x : Nat) (split : Bool) (shape p : Nat) : Nat :=
  let n := (shapeMN shape split).2
  if split then x % 2 else p % n / (n / 2)
def accCell (split : Bool) (shape p : Nat) : Nat :=
  let n := (shapeMN shape split).2
  if split then p else p / n * (n / 2) + p % n % (n / 2)

theorem accKey_eq (c x : Nat) (split : Bool) (shape idx p : Nat) :
    accKey c x split shape idx p = 512 * halfKey c (x / 2) (accBank x split shape p) idx + accCell split shape p := by
  cases split with
  | true => rfl
  | false => exact Nat.add_assoc _ _ _

section
variable {shape p q : Nat} {split : Bool}

/-- A tile of any shape fills the cells of its half-tiles (Table 5-3). -/
theorem accCell_lt (x : Nat) (hshape : shape < 3) (hsplit : shape = 2 → split = false) (hp : p < tileSize shape split) :
    accCell split shape p < 512 ∧ accBank x split shape p < 2 := by
  unfold tileSize at hp
  unfold accCell accBank
  interval_cases shape <;> cases split <;> simp [shapeMN] at hsplit hp ⊢ <;> omega

theorem accCell_inj {x : Nat} (hshape : shape < 3) (hsplit : shape = 2 → split = false) (hp : p < tileSize shape split)
    (hq : q < tileSize shape split) (hb : accBank x split shape q = accBank x split shape p)
    (hc : accCell split shape q = accCell split shape p) : q = p := by
  unfold tileSize at hp hq
  unfold accCell at hc
  unfold accBank at hb
  interval_cases shape <;> cases split <;> simp [shapeMN] at hsplit hp hq hb hc ⊢ <;> omega

end

theorem halfKey_inj {c d a e h g i j : Nat} (ha : a < 8) (he : e < 8) (hh : h < 2) (hg : g < 2) (hi : i < 64) (hj : j < 64)
    (heq : halfKey d e g j = halfKey c a h i) : d = c ∧ e = a ∧ g = h ∧ j = i := by
  unfold halfKey at heq
  omega

theorem Work.tileGet_length (w : Work) (c x : Nat) (split : Bool) (shape idx : Nat) :
    (w.tileGet c x split shape idx).length = tileSize shape split := by
  rw [Work.tileGet, List.length_map, List.length_range]

/-- A tile written is read back element for element. -/
theorem Work.tileGet_tilePut_same (w : Work) (c x : Nat) {split : Bool} {shape idx : Nat} {vs : List Word} (hx : x < 16)
    (hshape : shape < 3) (hsplit : shape = 2 → split = false) (hidx : idx < 64) (hlen : vs.length = tileSize shape split) :
    (w.tilePut c x split shape idx vs).tileGet c x split shape idx = vs := by
  refine List.ext_getElem (by rw [Work.tileGet_length, hlen]) fun p hp hlt => ?_
  rw [Work.tileGet_length] at hp
  simp only [Work.tileGet, List.getElem_map, List.getElem_range]
  obtain ⟨hread, -⟩ := get_foldl_putAcc (accKey c x split shape idx) vs 0 w.acc (accKey c x split shape idx p)
  refine (hread p (by omega) (by omega) (fun q _ hq he => ?_) rfl).trans (List.getD_eq_getElem _ _ hlt)
  obtain ⟨hcp, hbp⟩ := accCell_lt x hshape hsplit hp
  obtain ⟨hcq, hbq⟩ := accCell_lt x hshape hsplit (show q < tileSize shape split by omega)
  rw [accKey_eq, accKey_eq] at he
  obtain ⟨-, -, hbank, -⟩ := halfKey_inj (by omega) (by omega) hbp hbq hidx hidx
    (show halfKey c (x / 2) (accBank x split shape q) idx = halfKey c (x / 2) (accBank x split shape p) idx by omega)
  exact accCell_inj hshape hsplit hp (by omega) hbank (by omega)

/-- A tile of another index, array or core, or of the other half of a split array, keeps its elements. -/
theorem Work.tileGet_tilePut_apart (w : Work) {c d x y : Nat} {split : Bool} {shape shape' idx idx' : Nat} {vs : List Word}
    (hx : x < 16) (hy : y < 16) (hshape : shape < 3) (hsplit : shape = 2 → split = false) (hidx : idx < 64) (hshape' : shape' < 3)
    (hsplit' : shape' = 2 → split = false) (hidx' : idx' < 64) (hlen : vs.length = tileSize shape split)
    (h : d ≠ c ∨ y / 2 ≠ x / 2 ∨ idx' ≠ idx ∨ (split = true ∧ y ≠ x)) :
    (w.tilePut c x split shape idx vs).tileGet d y split shape' idx' = w.tileGet d y split shape' idx' := by
  refine List.map_congr_left fun p hp => ?_
  obtain ⟨-, hkept⟩ := get_foldl_putAcc (accKey c x split shape idx) vs 0 w.acc (accKey d y split shape' idx' p)
  refine hkept fun q _ hq he => ?_
  obtain ⟨hcp, hbp⟩ := accCell_lt y hshape' hsplit' (List.mem_range.mp hp)
  obtain ⟨hcq, hbq⟩ := accCell_lt x hshape hsplit (show q < tileSize shape split by omega)
  rw [accKey_eq, accKey_eq] at he
  obtain ⟨hc, ha, hbank, hi⟩ := halfKey_inj (by omega) (by omega) hbq hbp hidx hidx'
    (show halfKey d (y / 2) (accBank y split shape' p) idx' = halfKey c (x / 2) (accBank x split shape q) idx by omega)
  rcases h with h | h | h | ⟨rfl, h⟩
  · exact h hc
  · exact h ha
  · exact h hi
  · have hhalf : y % 2 = x % 2 := hbank
    omega

end Sys2Proof.Machine
end

section
/-! ### One multiply-accumulate (R184, R186) -/

namespace Sys2Proof.Machine

theorem macStep_gated (a : Word) {x y : FV} (hz : x.isZero = true ∨ y.isZero = true) (hx : x.finite = true) (hy : y.finite = true) :
    macStep a x y = (a, .gated) := by
  rw [macStep, if_pos]
  simpa [hx, hy] using hz

theorem FV.eq_nan {v : FV} (h : v.isNan = true) : v = .nan := by
  cases v with
  | nan => rfl
  | inf s => cases h
  | fin s m e => cases h

theorem FV.mul_nan (v : FV) : v.mul .nan = .nan := by cases v <;> rfl

theorem FV.add_nan (v : FV) : v.add .nan = .nan := by cases v <;> rfl

/-- Infinity times zero is NaN. -/
theorem FV.inf_mul_zero {x y : FV} (hx : x.isInf = true) (hy : y.isZero = true) : x.mul y = .nan := by
  cases x with
  | nan => cases hx
  | fin s m e => cases hx
  | inf s =>
    cases y with
    | nan => cases hy
    | inf t => cases hy
    | fin t m e =>
      cases m with
      | zero => rfl
      | succ m => cases hy

theorem macStep_nan {a : Word} {x y : FV}
    (h : (f32 a).isNan = true ∨ x.isNan = true ∨ y.isNan = true ∨ (x.isInf = true ∧ y.isZero = true))
    (hgate : ¬ ((x.isZero = true ∨ y.isZero = true) ∧ x.finite = true ∧ y.finite = true)) : (macStep a x y).1 = 0x7FC00000 := by
  have hsum : (x.mul y).add (f32 a) = .nan := by
    rcases h with ha | hx | hy | ⟨hx, hy⟩
    · rw [FV.eq_nan ha, FV.add_nan]
    · rw [FV.eq_nan hx]
      rfl
    · rw [FV.eq_nan hy, FV.mul_nan]
      rfl
    · rw [FV.inf_mul_zero hx hy]
      rfl
  rw [macStep, if_neg (by simpa only [Bool.and_eq_true, Bool.or_eq_true, and_assoc] using hgate), hsum]
  rfl

/-- One element of a tile taking a k-block. -/
def macCell (n : Nat) (as_ bs : List (List FV)) (s : List Word × MacCounts) (q : Word × Nat) : List Word × MacCounts :=
  let r := macRow (q.1, s.2) (as_.getD (q.2 / n) []) (bs.getD (q.2 % n) [])
  (s.1 ++ [r.1], r.2)

theorem length_foldl_macCell (n : Nat) (as_ bs : List (List FV)) (l : List (Word × Nat)) (s : List Word × MacCounts) :
    (l.foldl (macCell n as_ bs) s).1.length = s.1.length + l.length := by
  induction l generalizing s with
  | nil => rfl
  | cons q l ih =>
    simp only [List.foldl_cons, ih, macCell, List.length_append, List.length_cons, List.length_nil]
    omega

theorem macBlock_length (t : List Word) (n : Nat) (as_ bs : List (List FV)) (m : MacCounts) :
    (macBlock n as_ bs t m).1.length = t.length := by
  refine (length_foldl_macCell n as_ bs t.zipIdx ([], m)).trans ?_
  rw [List.length_nil, List.length_zipIdx, Nat.zero_add]

/-- Settles O15: the instruction and its landing, the check pass, the accumulator's cells, and the one NaN of a product. -/
theorem multiplyAccumulateRunsOnItsTile : Obligations.MultiplyAccumulateRunsOnItsTile := by
  refine ⟨⟨fun s c x b da db r halive hf hcheck => leads_mma halive hf hcheck, fun s c x f fs halive h => gives_mmaDone halive h,
      fun s c x i n halive h => checkPassDone_cases halive h⟩, fun w c x split shape idx vs hshape hsplit hidx hlen => ⟨?same, ?apart⟩,
    fun a x y hz hx hy => macStep_gated a hz hx hy, fun a x y h hgate => macStep_nan h hgate,
    fun t n as_ bs m => macBlock_length t n as_ bs m⟩
  case same => exact w.tileGet_tilePut_same _ _ x.isLt hshape hsplit hidx hlen
  case apart =>
    intro c' y shape' idx' hshape' hsplit' hidx' h
    refine w.tileGet_tilePut_apart x.isLt y.isLt hshape hsplit hidx hshape' hsplit' hidx' hlen ?_
    simpa only [ne_eq, Fin.ext_iff] using h

end Sys2Proof.Machine
end

section
/-! ### What memory traffic leaves alone

Reads and writes of HBM and of local memory count in registers of the memory controllers, of the stash and of the folds; they never
touch the registers of a core's digital units. -/

namespace Sys2Proof.Machine

/-- An address in the part of a core's block that holds the registers of its arrays, jobs, vector unit and estimator (Table 15-1). -/
def InUnits (a : Nat) : Prop := 0x10000000 ≤ a ∧ 0x4000 ≤ (a - 0x10000000) % 0x40000 ∧ (a - 0x10000000) % 0x40000 < 0x5000

theorem inUnits_coreBase (c : Nat) {o : Nat} (h1 : 0x4000 ≤ o) (h2 : o < 0x5000) : InUnits (coreBase c + o) := by
  unfold InUnits coreBase
  omega

theorem inUnits_statusReg (c : Nat) {x : Nat} (hx : x < 17) : InUnits (statusReg c x) := by
  unfold statusReg VEC_STATUS MAC_STATUS
  split
  · exact inUnits_coreBase c (by decide) (by decide)
  · rw [Nat.add_assoc]
    exact inUnits_coreBase c (by omega) (by omega)

theorem not_inUnits_of_lt {a : Nat} (h : a < 0x10000000) : ¬ InUnits a := fun hin => absurd hin.1 (by omega)

theorem not_inUnits_FOLD_WAIT_CNT (c : Nat) : ¬ InUnits (FOLD_WAIT_CNT c) := by
  unfold InUnits FOLD_WAIT_CNT coreBase
  omega

theorem not_inUnits_memc (a : Nat) {o : Nat} (ho : o < 0x10000) : ¬ InUnits (memcBase (stackOf a).1 + o) := by
  have := stackOf_lt a
  refine not_inUnits_of_lt ?_
  unfold memcBase
  omega

/-- Between two states only registers outside the tiles and the digital units, memory, its marks and the free values used up differ. -/
structure Work.MemKept (w v : Work) : Prop where
  stack : w.StackKept v
  regs : ∀ a, InUnits a → v.reg a = w.reg a

namespace Work.MemKept

variable {u v w : Work}

theorem refl (w : Work) : w.MemKept w := ⟨.refl w, fun _ _ => rfl⟩

theorem trans (h : u.MemKept v) (k : v.MemKept w) : u.MemKept w :=
  ⟨h.stack.trans k.stack, fun a ha => (k.regs a ha).trans (h.regs a ha)⟩

theorem inc (h : w.MemKept v) {a : Nat} (ht : ¬ InTile a) (ha : ¬ InUnits a) : w.MemKept (v.inc a) := by
  refine ⟨h.stack.inc ht, fun b hb => ?_⟩
  have hne : b ≠ a := fun e => ha (e ▸ hb)
  exact (v.reg_wr a _ b).trans ((if_neg hne).trans (h.regs b hb))

theorem foldl {α : Type} {f : Work → α → Work} (hf : ∀ (v : Work) x, v.MemKept (f v x)) (l : List α) (w : Work) :
    w.MemKept (l.foldl f w) :=
  List.foldlRecOn l f (refl w) fun v hv x _ => hv.trans (hf v x)

theorem when {f : Work → Work} (h : w.MemKept v) (hf : v.MemKept (f v)) (c : Bool) : w.MemKept (v.when c f) := by
  cases c with
  | true => exact h.trans hf
  | false => exact h

theorem ctxs (h : w.MemKept v) : v.ctxs = w.ctxs := (congrArg Work.ctxs h.stack.rest :)
theorem digital (h : w.MemKept v) : v.digital = w.digital := (congrArg Work.digital h.stack.rest :)
theorem acc (h : w.MemKept v) : v.acc = w.acc := (congrArg Work.acc h.stack.rest :)
theorem ctx (h : w.MemKept v) (c x : Nat) : v.ctx c x = w.ctx c x := Work.ctx_congr h.ctxs c x
theorem dig (h : w.MemKept v) (c : Nat) : v.dig c = w.dig c := Work.dig_congr h.digital c
theorem rd (h : w.MemKept v) {a : Nat} (ha : InUnits a) : v.rd a = w.rd a := congrArg BitVec.toNat (h.regs a ha)

theorem ctxState (h : w.MemKept v) (c : Nat) {x : Nat} (hx : x < 17) : v.ctxState c x = w.ctxState c x :=
  Work.ctxState_congr (h.rd (inUnits_statusReg c hx))

end Work.MemKept

theorem Work.put_memKept (w : Work) (a : Nat) (bs : List Byte) (p : Bool) : w.MemKept (w.put a bs p) :=
  ⟨.put w a bs p, fun _ _ => by cases p <;> rfl⟩

theorem Work.drawBytes_memKept (w : Work) (n : Nat) : w.MemKept (w.drawBytes n).2 := ⟨⟨rfl, fun _ _ => rfl⟩, fun _ _ => rfl⟩

theorem Work.readsStack_memKept (w : Work) (a n : Nat) : w.MemKept (w.readsStack a n) := by
  unfold Work.readsStack Work.foldWait Work.poisonReads
  exact (Work.MemKept.foldl (fun v c => (Work.MemKept.refl v).inc (not_inTile_FOLD_WAIT_CNT c) (not_inUnits_FOLD_WAIT_CNT c)) _ w).trans
    (Work.MemKept.foldl (fun v _ =>
      (Work.MemKept.refl v).inc (not_inTile_POISON_RD_CNT _) (not_inUnits_memc _ (by decide))) _ _)

theorem Work.unmapped_memKept (w : Work) : w.MemKept w.unmapped := by
  refine ⟨w.unmapped_kept, fun a ha => ?_⟩
  have h1 : a ≠ UNMAPPED_CNT := fun e => not_inUnits_of_lt (by decide) (e ▸ ha)
  have h2 : a ≠ STASH_STATUS := fun e => not_inUnits_of_lt (by decide) (e ▸ ha)
  exact ((Work.reg_wr _ _ _ a).trans (if_neg h2)).trans ((Work.reg_wr _ _ _ a).trans (if_neg h1))

theorem Work.putStack_memKept (w : Work) (a : Nat) (bs : List Byte) (p : Bool) : w.MemKept (w.putStack a bs p) :=
  (Work.MemKept.foldl (fun v _ =>
    ((Work.MemKept.refl v).inc (not_inTile_POISON_RD_CNT _) (not_inUnits_memc _ (by decide))).inc (not_inTile_RMW_POISON_CNT _)
      (not_inUnits_memc _ (by decide))) _ w).trans (Work.put_memKept _ a bs p)

theorem Work.hbmGet_memKept (w : Work) (a n : Nat) : w.MemKept (w.hbmGet a n).2.2 := by
  unfold Work.hbmGet
  split
  · exact w.readsStack_memKept a n
  · refine Work.MemKept.when (List.foldlRecOn (motive := fun (r : List Byte × Bool × Bool × Work) => w.MemKept r.2.2.2) _ _ (.refl w)
      fun r hr p _ => ?_) (Work.unmapped_memKept _) _
    dsimp only
    split
    · exact hr.trans (Work.readsStack_memKept _ _ _)
    · exact hr
    · exact hr.trans ⟨⟨rfl, fun _ _ => rfl⟩, fun _ _ => rfl⟩

theorem Work.hbmPut_memKept (w : Work) (a : Nat) (bs : List Byte) (p : Bool) : w.MemKept (w.hbmPut a bs p) := by
  unfold Work.hbmPut
  split
  · exact w.putStack_memKept a bs p
  · refine Work.MemKept.when (List.foldlRecOn (motive := fun (r : Bool × Work) => w.MemKept r.2) _ _ (.refl w) fun r hr q _ => ?_)
      (Work.unmapped_memKept _) _
    split
    · exact hr.trans (Work.putStack_memKept _ _ _ _)
    · exact hr
    · exact hr

theorem Work.putAt_memKept (w : Work) (p : Put) : w.MemKept (w.putAt p) := by
  unfold Work.putAt
  split
  · exact w.hbmPut_memKept _ _ _
  · exact w.put_memKept _ _ _

theorem Work.putAts_memKept (w : Work) (ps : List Put) : w.MemKept (ps.foldl (fun (v : Work) p => v.putAt p) w) :=
  .foldl (fun v p => v.putAt_memKept p) ps w

end Sys2Proof.Machine
end

section
/-! ### Bytes stored, one range after another -/

namespace Sys2Proof.Machine

theorem cellAt_storeCells (m : List Host.Cell) (a : Nat) (bs : List Byte) (b : Nat) :
    cellAt (storeCells m a bs) b = if a ≤ b ∧ b < a + bs.length then bs.getD (b - a) 0 else cellAt m b := by
  split
  · rename_i h
    have hlt : b - a < bs.length := by omega
    have hbyte := Work.byte_store { mem := m } a bs (b - a) hlt
    rw [Nat.add_sub_of_le h.1] at hbyte
    exact hbyte.trans (List.getD_eq_getElem _ _ hlt).symm
  · exact Work.byte_store_ne { mem := m } a bs b (by omega)

/-- Ranges of one length stored one behind another. -/
def storeChunks (m : List Host.Cell) (a k n : Nat) (f : Nat → List Byte) : List Host.Cell :=
  ((List.range n).map (fun i => (a + k * i, f i))).foldl (fun m p => storeCells m p.1 p.2) m

theorem cellAt_storeChunks (m : List Host.Cell) {a k : Nat} (n : Nat) {f : Nat → List Byte} (hk : 0 < k)
    (hf : ∀ i < n, (f i).length = k) (b : Nat) :
    cellAt (storeChunks m a k n f) b =
      if a ≤ b ∧ b < a + k * n then (f ((b - a) / k)).getD ((b - a) % k) 0 else cellAt m b := by
  induction n with
  | zero => exact (if_neg (by omega)).symm
  | succ n ih =>
    have hsplit : storeChunks m a k (n + 1) f = storeCells (storeChunks m a k n f) (a + k * n) (f n) := by
      simp only [storeChunks, List.range_succ, List.map_append, List.foldl_append, List.map_cons, List.map_nil, List.foldl_cons,
        List.foldl_nil]
    have hmul : k * (n + 1) = k * n + k := Nat.mul_succ k n
    rw [hsplit, cellAt_storeCells, ih fun i hi => hf i (by omega), hf n (by omega)]
    by_cases hlast : a + k * n ≤ b ∧ b < a + k * n + k
    · have hdiv : (b - a) / k = n := Nat.div_eq_of_lt_le (by rw [Nat.mul_comm]; omega) (by rw [Nat.mul_comm]; omega)
      have hmod : (b - a) % k = b - (a + k * n) := by
        have := Nat.div_add_mod (b - a) k
        rw [hdiv] at this
        omega
      rw [if_pos hlast, if_pos (by omega), hdiv, hmod]
    · rw [if_neg hlast]
      by_cases hin : a ≤ b ∧ b < a + k * n
      · rw [if_pos hin, if_pos (by omega)]
      · rw [if_neg hin, if_neg (by omega)]

@[simp] theorem Work.bytes_length (w : Work) (a n : Nat) : (w.bytes a n).length = n := by simp [Work.bytes]

theorem Work.getD_bytes (w : Work) (a : Nat) {n i : Nat} (h : i < n) : (w.bytes a n).getD i 0 = w.byte (a + i) :=
  getD_map_range _ h 0

/-- A range is its parts of one length in order. -/
theorem Work.flatMap_bytes (w : Work) (a k n : Nat) : (List.range n).flatMap (fun i => w.bytes (a + k * i) k) = w.bytes a (k * n) := by
  induction n with
  | zero => rfl
  | succ n ih =>
    rw [List.range_succ, List.flatMap_append, ih, List.flatMap_singleton]
    simp only [Work.bytes, Nat.mul_succ, List.range_add, List.map_append, List.map_map, Function.comp_def, Nat.add_assoc]

/-- A range copied in parts reads as its source, and every other byte as before. -/
theorem Work.byte_copied {v w : Work} {dst src k n : Nat} (hk : 0 < k)
    (h : v.mem = storeChunks w.mem dst k n (fun i => w.bytes (src + k * i) k)) (b : Nat) :
    v.byte b = if dst ≤ b ∧ b < dst + k * n then w.byte (src + (b - dst)) else w.byte b := by
  rw [Work.byte, h, cellAt_storeChunks _ _ hk fun i _ => w.bytes_length _ _]
  split
  · rw [Work.getD_bytes _ _ (Nat.mod_lt _ hk), Nat.add_assoc, Nat.div_add_mod]
  · rfl

theorem Work.bytes_copied {v w : Work} {dst src k n : Nat} (hk : 0 < k)
    (h : v.mem = storeChunks w.mem dst k n (fun i => w.bytes (src + k * i) k)) : v.bytes dst (k * n) = w.bytes src (k * n) := by
  refine List.map_congr_left fun i hi => ?_
  have hlt := List.mem_range.mp hi
  rw [Work.byte_copied hk h, if_pos (by omega), Nat.add_sub_cancel_left]

theorem Work.byte_copied_apart {v w : Work} {dst src k n : Nat} (hk : 0 < k)
    (h : v.mem = storeChunks w.mem dst k n (fun i => w.bytes (src + k * i) k)) {b : Nat} (hb : b < dst ∨ dst + k * n ≤ b) :
    v.byte b = w.byte b := by
  rw [Work.byte_copied hk h, if_neg (by omega)]

/-! The 256-byte lines of an aligned range (R312). -/

theorem linesOf_aligned {a n : Nat} (ha : a % 256 = 0) (hn : n % 256 = 0) :
    linesOf a n = (List.range (n / 256)).map (fun i => (a + 256 * i, 256)) := by
  unfold linesOf
  split
  · rename_i h
    rw [h]
    rfl
  · rw [show (a + n - 1) / 256 - a / 256 + 1 = n / 256 by omega]
    refine List.map_congr_left fun i hi => ?_
    have hlt := List.mem_range.mp hi
    refine Prod.ext ?_ ?_ <;> dsimp only <;> omega

theorem Work.put_mem (w : Work) (a : Nat) (bs : List Byte) (p : Bool) : (w.put a bs p).mem = storeCells w.mem a bs := by cases p <;> rfl

theorem Work.putStack_mem (w : Work) (a : Nat) (bs : List Byte) (p : Bool) : (w.putStack a bs p).mem = storeCells w.mem a bs := by
  rw [Work.putStack, Work.put_mem]
  exact congrArg (storeCells · a bs) (List.foldlRecOn (motive := fun v : Work => v.mem = w.mem) _ _ rfl fun _ h _ _ => h)

theorem Work.hbmPut_mem (w : Work) {a : Nat} {bs : List Byte} (p : Bool) (h : inStacks a bs.length = true) :
    (w.hbmPut a bs p).mem = storeCells w.mem a bs := by
  rw [Work.hbmPut, if_pos h, Work.putStack_mem]

/-- A write to the stacks or to local memory stores its bytes at its address. -/
theorem Work.putAt_mem (w : Work) {p : Put} (h : inStacks p.1 p.2.1.length = true ∨ 2 ^ 40 ≤ p.1) :
    (w.putAt p).mem = storeCells w.mem p.1 p.2.1 := by
  unfold Work.putAt
  split
  · exact w.hbmPut_mem _ (h.resolve_right (by omega))
  · exact w.put_mem _ _ _

theorem Work.putAts_mem (w : Work) (ps : List Put) (h : ∀ p ∈ ps, inStacks p.1 p.2.1.length = true ∨ 2 ^ 40 ≤ p.1) :
    (ps.foldl (fun (v : Work) p => v.putAt p) w).mem = ps.foldl (fun m p => storeCells m p.1 p.2.1) w.mem := by
  induction ps generalizing w with
  | nil => rfl
  | cons p ps ih =>
    rw [List.foldl_cons, List.foldl_cons, ih _ fun q hq => h q (List.mem_cons_of_mem _ hq), w.putAt_mem (h p List.mem_cons_self)]

end Sys2Proof.Machine
end

section
/-! ### The deferred log (R211 to R214)

One record goes behind the used bytes of the log, in the model's order: 64 bytes of header, the data, bytes of padding. -/

namespace Sys2Proof.Machine

/-- Registers of the digital units other than DLOG_USED, the contexts and the accumulators stay while records are appended. -/
structure Work.LogKept (w v : Work) (c : Nat) : Prop where
  ctxs : v.ctxs = w.ctxs
  acc : v.acc = w.acc
  regs : ∀ a, InUnits a → a ≠ DLOG_USED c → v.reg a = w.reg a

namespace Work.LogKept

variable {u v w : Work} {c : Nat}

theorem refl (w : Work) (c : Nat) : w.LogKept w c := ⟨rfl, rfl, fun _ _ _ => rfl⟩

theorem trans (h : u.LogKept v c) (k : v.LogKept w c) : u.LogKept w c :=
  ⟨k.ctxs.trans h.ctxs, k.acc.trans h.acc, fun a ha hne => (k.regs a ha hne).trans (h.regs a ha hne)⟩

theorem ctx (h : w.LogKept v c) (d x : Nat) : v.ctx d x = w.ctx d x := Work.ctx_congr h.ctxs d x

theorem rd (h : w.LogKept v c) {a : Nat} (ha : InUnits a) (hne : a ≠ DLOG_USED c) : v.rd a = w.rd a :=
  congrArg BitVec.toNat (h.regs a ha hne)

theorem ctxState (h : w.LogKept v c) {x : Nat} (hx : x < 17) : v.ctxState c x = w.ctxState c x := by
  refine Work.ctxState_congr (h.rd (inUnits_statusReg c hx) ?_)
  unfold statusReg DLOG_USED VEC_STATUS MAC_STATUS coreBase
  split <;> omega

end Work.LogKept

/-- A record of the log for one output of a context (R211). -/
def recordOf (slot x seq : Nat) (ps : List Put) : Deferred :=
  { slot := slot, ctx := x, seq := seq, parts := ps.map (fun p => (p.1, p.2.1)), poison := ps.any (fun p => p.2.2) }

theorem size_recordOf (slot x seq : Nat) (ps : List Put) : (recordOf slot x seq ps).size = recBytes ps := by
  simp only [recordOf, Deferred.size, recBytes, List.map_map, Function.comp_def]

/-- The address behind the last record of the log. -/
def Work.logEnd (w : Work) (c : Nat) : Nat := w.base (DLOG_BASE_LO c) (DLOG_BASE_HI c) + (w.dig c).logUsed

/-- The bytes of a record: 64 of the header, the data, and the padding to 64. -/
def Work.recordBytes (w : Work) (ps : List Put) : List Byte :=
  (w.drawBytes 64).1 ++ ps.flatMap (fun p => p.2.1) ++
    ((w.drawBytes 64).2.drawBytes (recBytes ps - 64 - (ps.flatMap (fun p => p.2.1)).length)).1

theorem length_data (ps : List Put) : (ps.flatMap (fun p => p.2.1)).length = (ps.map (fun p => p.2.1.length)).sum := by
  rw [List.length_flatMap]

theorem Work.recordBytes_length (w : Work) (ps : List Put) : (w.recordBytes ps).length = recBytes ps := by
  have hpad : 64 + (ps.map (fun p => p.2.1.length)).sum ≤ recBytes ps := by
    rw [recBytes, ceilDiv, if_neg (by decide)]
    omega
  simp only [Work.recordBytes, Work.drawBytes, List.length_append, toLE_length, length_data]
  omega

/-- The data of a record that memory holds stands 64 bytes behind its start. -/
theorem Work.bytes_of_record {v w : Work} {m : List Host.Cell} {a : Nat} {ps : List Put}
    (h : v.mem = storeCells m a (w.recordBytes ps)) :
    v.bytes (a + 64) (ps.map (fun p => p.2.1.length)).sum = ps.flatMap (fun p => p.2.1) := by
  rw [← length_data]
  refine List.ext_getElem (v.bytes_length _ _) fun i hi hdata => ?_
  have hhead : (w.drawBytes 64).1.length = 64 := toLE_length 64 _
  have hlen := w.recordBytes_length ps
  have hget : (w.recordBytes ps).getD (64 + i) 0 = (ps.flatMap (fun p => p.2.1))[i] := by
    unfold Work.recordBytes
    rw [List.append_assoc, List.getD_append_right _ _ _ _ (by omega), hhead, Nat.add_sub_cancel_left, List.getD_append _ _ _ _ hdata,
      List.getD_eq_getElem _ _ hdata]
  have hlong : 64 + i < (w.recordBytes ps).length := by
    simp only [Work.recordBytes, List.length_append]
    omega
  simp only [Work.bytes, List.getElem_map, List.getElem_range]
  rw [Work.byte, h, cellAt_storeCells, if_pos (by omega), ← hget]
  congr 1
  omega

/-- One record appended: memory at the end of the log, and the log (R211). -/
theorem Work.appendRec_eq (w : Work) (c x : Nat) (ps : List Put) :
    ∃ u, w.MemKept u ∧
      w.appendRec c x ps = u.setDig c { w.dig c with
        log := (w.dig c).log ++ [recordOf ((w.ctx c x).job.getD 0) x (w.dig c).logSeq ps], logSeq := (w.dig c).logSeq + 1 } ∧
      (inStacks (w.logEnd c) (recBytes ps) = true → u.mem = storeCells w.mem (w.logEnd c) (w.recordBytes ps)) := by
  let t := ((w.drawBytes 64).2.drawBytes (recBytes ps - 64 - (ps.flatMap (fun p => p.2.1)).length)).2
  let u := t.hbmPut (w.logEnd c) (w.recordBytes ps) (ps.any (fun p => p.2.2))
  have hkept : w.MemKept u :=
    ((w.drawBytes_memKept _).trans (Work.drawBytes_memKept _ _)).trans (t.hbmPut_memKept _ _ _)
  have hsize := size_recordOf ((w.ctx c x).job.getD 0) x (w.dig c).logSeq ps
  have happend : w.appendRec c x ps = u.setDig c { u.dig c with
      log := (w.dig c).log ++ [recordOf ((w.ctx c x).job.getD 0) x (w.dig c).logSeq ps], logSeq := (w.dig c).logSeq + 1 } := by
    unfold recordOf at hsize
    unfold Work.appendRec
    dsimp only
    rw [hsize]
    rfl
  refine ⟨u, hkept, by rw [happend, hkept.dig], fun hin => t.hbmPut_mem _ (by rwa [w.recordBytes_length])⟩

/-- The records of several outputs, one each, numbered from a sequence number on. -/
def recordsOf (slot x seq : Nat) (os : List (List Put)) : List Deferred := (os.zipIdx seq).map (fun q => recordOf slot x q.2 q.1)

theorem logBytes_cons (o : List Put) (os : List (List Put)) : logBytes (o :: os) = recBytes o + logBytes os := List.sum_cons

theorem inUnits_DLOG_BASE_LO (c : Nat) : InUnits (DLOG_BASE_LO c) := inUnits_coreBase c (by decide) (by decide)
theorem inUnits_DLOG_BASE_HI (c : Nat) : InUnits (DLOG_BASE_HI c) := inUnits_coreBase c (by decide) (by decide)

theorem Work.appendRec_logKept (w : Work) (c x : Nat) (ps : List Put) : w.LogKept (w.appendRec c x ps) c := by
  obtain ⟨u, hkept, heq, -⟩ := w.appendRec_eq c x ps
  rw [heq]
  exact ⟨hkept.ctxs, hkept.acc, fun a ha _ => hkept.regs a ha⟩

theorem Work.appendRec_dig (w : Work) (c x : Nat) (ps : List Put) :
    (w.appendRec c x ps).dig c = { w.dig c with
      log := (w.dig c).log ++ [recordOf ((w.ctx c x).job.getD 0) x (w.dig c).logSeq ps], logSeq := (w.dig c).logSeq + 1 } := by
  obtain ⟨u, -, heq, -⟩ := w.appendRec_eq c x ps
  rw [heq, Work.dig_setDig_same]

theorem Work.appendRec_mem (w : Work) {c : Nat} (x : Nat) {ps : List Put} (h : inStacks (w.logEnd c) (recBytes ps) = true) :
    (w.appendRec c x ps).mem = storeCells w.mem (w.logEnd c) (w.recordBytes ps) := by
  obtain ⟨u, -, heq, hmem⟩ := w.appendRec_eq c x ps
  rw [heq, Work.setDig_mem, hmem h]

/-- The next record goes behind the one appended. -/
theorem Work.logEnd_appendRec (w : Work) (c x : Nat) (ps : List Put) : (w.appendRec c x ps).logEnd c = w.logEnd c + recBytes ps := by
  have hkept := w.appendRec_logKept c x ps
  have hne : DLOG_BASE_LO c ≠ DLOG_USED c ∧ DLOG_BASE_HI c ≠ DLOG_USED c := by
    unfold DLOG_BASE_LO DLOG_BASE_HI DLOG_USED
    omega
  rw [Work.logEnd, Work.logEnd, Work.base, Work.base, hkept.rd (inUnits_DLOG_BASE_LO c) hne.1,
    Work.fld_congr (hkept.rd (inUnits_DLOG_BASE_HI c) hne.2), Work.appendRec_dig]
  simp only [Digital.logUsed, List.map_append, List.sum_append, List.map_cons, List.map_nil, List.sum_cons, List.sum_nil, size_recordOf]
  omega

theorem inStacks_mono {a n m : Nat} (h : inStacks a n = true) {b : Nat} (hb : b + m ≤ a + n) : inStacks b m = true := by
  simp only [inStacks, decide_eq_true_eq] at h ⊢
  omega

/-- Several records appended: the log has one more for each, and memory differs only from the end of the log on, over their bytes. -/
theorem Work.appendRecs (c x : Nat) (os : List (List Put)) (w : Work) :
    let v := os.foldl (fun (v : Work) o => v.appendRec c x o) w
    w.LogKept v c ∧
    v.dig c = { w.dig c with
      log := (w.dig c).log ++ recordsOf ((w.ctx c x).job.getD 0) x (w.dig c).logSeq os, logSeq := (w.dig c).logSeq + os.length } ∧
    (inStacks (w.logEnd c) (logBytes os) = true → ∀ a, a < w.logEnd c ∨ w.logEnd c + logBytes os ≤ a → v.byte a = w.byte a) := by
  induction os generalizing w with
  | nil => exact ⟨.refl w c, by simp [recordsOf], fun _ _ _ => rfl⟩
  | cons o os ih =>
    obtain ⟨hkept, hdig, hbytes⟩ := ih (w.appendRec c x o)
    have hfirst := w.appendRec_logKept c x o
    refine ⟨hfirst.trans hkept, ?_, fun hin a ha => ?_⟩
    · rw [List.foldl_cons, hdig, hfirst.ctx, Work.appendRec_dig]
      simp only [recordsOf, List.zipIdx_cons, List.map_cons, List.append_assoc, List.singleton_append, List.length_cons]
      congr 1
      omega
    · rw [logBytes_cons] at hin ha
      rw [w.logEnd_appendRec c x o] at hbytes
      have hsecond := hbytes (inStacks_mono hin (by omega)) a (by omega)
      rw [List.foldl_cons, hsecond, Work.byte, w.appendRec_mem x (inStacks_mono hin (by omega)), cellAt_storeCells,
        w.recordBytes_length, if_neg (by omega)]
      rfl

/-! The outputs of an instruction, at once and deferred. -/

theorem Work.logPuts_logKept (w : Work) (c x : Nat) (os : List (List Put)) : w.LogKept (w.logPuts c x os) c := by
  obtain ⟨hkept, -, -⟩ := Work.appendRecs c x os w
  refine hkept.trans ⟨rfl, rfl, fun a _ hne => ?_⟩
  exact (Work.reg_wr _ _ _ a).trans (if_neg hne)

theorem Work.logPuts_dig (w : Work) (c x : Nat) (os : List (List Put)) :
    (w.logPuts c x os).dig c = { w.dig c with
      log := (w.dig c).log ++ recordsOf ((w.ctx c x).job.getD 0) x (w.dig c).logSeq os, logSeq := (w.dig c).logSeq + os.length } :=
  (Work.appendRecs c x os w).2.1

theorem Work.byte_logPuts_apart (w : Work) {c : Nat} (x : Nat) {os : List (List Put)} (h : inStacks (w.logEnd c) (logBytes os) = true)
    {a : Nat} (ha : a < w.logEnd c ∨ w.logEnd c + logBytes os ≤ a) : (w.logPuts c x os).byte a = w.byte a :=
  (Work.appendRecs c x os w).2.2 h a ha

/-- The data of a single record stands behind its header. -/
theorem Work.bytes_logPuts_one (w : Work) {c : Nat} (x : Nat) {ps : List Put} (h : inStacks (w.logEnd c) (recBytes ps) = true) :
    (w.logPuts c x [ps]).bytes (w.logEnd c + 64) (ps.map (fun p => p.2.1.length)).sum = ps.flatMap (fun p => p.2.1) := by
  have hmem : (w.logPuts c x [ps]).mem = storeCells w.mem (w.logEnd c) (w.recordBytes ps) := by
    rw [Work.logPuts, Work.logUsed, Work.setFld, Work.wr_mem, List.foldl_cons, List.foldl_nil, w.appendRec_mem x h]
  exact Work.bytes_of_record hmem

section
variable {w : Work} {c x : Nat} {os : List (List Put)} (done : Work → Work)

theorem Work.puts_now (h : w.putsServe os.flatten = true) :
    w.puts c x false os done = done (os.flatten.foldl (fun (v : Work) p => v.putAt p) w) := by
  simp [Work.puts, h]

theorem Work.puts_now_one {ps : List Put} (h : w.putsServe ps = true) :
    w.puts c x false [ps] done = done (ps.foldl (fun (v : Work) p => v.putAt p) w) := by
  simp [Work.puts, h]

theorem recBytes_le_logBytes {o : List Put} (h : o ∈ os) : recBytes o ≤ logBytes os := List.le_sum_of_mem (List.mem_map_of_mem h)

/-- Deferred outputs that fit the log and whose stacks serve are appended (R211). -/
theorem Work.puts_logged (hfit : (w.dig c).logUsed + logBytes os ≤ 4096 * w.fld (DLOG_SIZE c) 0 20)
    (hserve : w.rangeServes (w.logEnd c) (logBytes os) = true) : w.puts c x true os done = done (w.logPuts c x os) := by
  have hnone : os.any (fun o => decide (4096 * w.fld (DLOG_SIZE c) 0 20 < recBytes o)) = false := by
    rw [List.any_eq_false]
    intro o ho
    have := recBytes_le_logBytes ho
    simp only [decide_eq_true_eq]
    omega
  have hserve' : w.rangeServes (w.base (DLOG_BASE_LO c) (DLOG_BASE_HI c) + (w.dig c).logUsed) (logBytes os) = true := hserve
  simp [Work.puts, hnone, hserve', Nat.not_lt.mpr hfit]

/-- Deferred outputs that fit the log, but not behind its records, wait (R214). -/
theorem Work.puts_waits (hany : ∀ o ∈ os, recBytes o ≤ 4096 * w.fld (DLOG_SIZE c) 0 20)
    (hfull : 4096 * w.fld (DLOG_SIZE c) 0 20 < (w.dig c).logUsed + logBytes os) :
    w.puts c x true os done =
      (w.setCtx c x { w.ctx c x with stalled := true }).when (!(w.ctx c x).stalled) (·.inc (DLOG_WAIT_CNT c)) := by
  have hnone : os.any (fun o => decide (4096 * w.fld (DLOG_SIZE c) 0 20 < recBytes o)) = false := by
    rw [List.any_eq_false]
    intro o ho
    simpa using hany o ho
  simp [Work.puts, hnone, hfull]

end

end Sys2Proof.Machine
end

section
/-! ### LOAD and STORE (R190, R211 to R214, R312, R326) -/

namespace Sys2Proof.Machine

section
variable {c hbm loc len : Nat}

/-- A move that passes its check is of whole 4-KiB ranges, aligned, of a place in local memory. -/
theorem moveCheck_eq_zero (h : moveCheck c hbm loc len = 0) :
    len % 4096 = 0 ∧ hbm % 4096 = 0 ∧ ∃ a, localAddr c loc = some a := by
  unfold moveCheck at h
  split_ifs at h with h1 h2
  · rw [← Option.isSome_iff_exists]
    simp only [Bool.or_eq_true, decide_eq_true_eq, not_or, ne_eq, Decidable.not_not, Option.isNone_iff_eq_none] at h1 h2
    obtain ⟨⟨⟨⟨hhbm, -⟩, -⟩, -⟩, hloc⟩ := h2
    exact ⟨h1, hhbm, Option.isSome_iff_ne_none.mpr hloc⟩

/-- A range that ends within scratchpad is its core's, except an empty one. -/
theorem localAddr_spad {a : Nat} (h : localAddr c loc = some a) (hfit : loc + len ≤ 2 ^ 21) : a = spadBase c + loc ∨ len = 0 := by
  by_cases hlt : loc < 2 ^ 21
  · rw [localAddr, if_pos hlt, Option.some.injEq] at h
    exact .inl h.symm
  · exact .inr (by omega)

end

theorem le_spadBase (c : Nat) : 2 ^ 40 ≤ spadBase c := Nat.le_add_right _ _

section
variable (w : Work) {hbm len : Nat}

theorem storeLines_aligned (a : Nat) (drain : Bool) (hh : hbm % 4096 = 0) (hl : len % 4096 = 0) :
    w.storeLines a hbm len drain =
      (List.range (len / 256)).map (fun i => (hbm + 256 * i, w.bytes (a + 256 * i) 256, drain || w.poisoned (a + 256 * i) 256)) := by
  simp only [Work.storeLines, linesOf_aligned (show hbm % 256 = 0 by omega) (show len % 256 = 0 by omega), List.map_map,
    Function.comp_def, Nat.add_sub_cancel_left]

theorem storeLines_sum (a : Nat) (drain : Bool) (hh : hbm % 4096 = 0) (hl : len % 4096 = 0) :
    ((w.storeLines a hbm len drain).map (fun p => p.2.1.length)).sum = len := by
  simp only [storeLines_aligned w a drain hh hl, List.map_map, Function.comp_def, Work.bytes_length, List.map_const',
    List.length_range, List.sum_replicate, smul_eq_mul]
  omega

theorem recBytes_storeLines (a : Nat) (drain : Bool) (hh : hbm % 4096 = 0) (hl : len % 4096 = 0) :
    recBytes (w.storeLines a hbm len drain) = 64 + len := by
  rw [recBytes, storeLines_sum w a drain hh hl, ceilDiv, if_neg (by decide)]
  omega

/-- The data of a STORE, line after line, are the bytes of its range. -/
theorem storeLines_data (a : Nat) (drain : Bool) (hh : hbm % 4096 = 0) (hl : len % 4096 = 0) :
    (w.storeLines a hbm len drain).flatMap (fun p => p.2.1) = w.bytes a len := by
  rw [storeLines_aligned w a drain hh hl, List.flatMap_map, w.flatMap_bytes, Nat.mul_div_cancel' (Nat.dvd_of_mod_eq_zero (by omega))]

/-- Where every stack of a range serves, those of its lines do (R326). -/
theorem rangeServes_line (hh : hbm % 4096 = 0) (hin : inStacks hbm len = true) (h : w.rangeServes hbm len = true) {i : Nat}
    (hi : 256 * i + 256 ≤ len) : w.rangeServes (hbm + 256 * i) 256 = true := by
  unfold Work.rangeServes at h ⊢
  rw [Bool.or_eq_true] at h ⊢
  refine h.imp id fun hpages => ?_
  rw [if_pos hin, List.all_eq_true] at hpages
  rw [if_pos (inStacks_mono hin (by omega)), List.all_eq_true]
  intro j hj
  have hj0 : j = 0 := by
    have := List.mem_range.mp hj
    omega
  have hpage := hpages (256 * i / 4096 % 12) (List.mem_range.mpr (by omega))
  rwa [hj0, show ((hbm + 256 * i) / 4096 + 0) % 12 = (hbm / 4096 + 256 * i / 4096 % 12) % 12 by omega]

theorem putsServe_storeLines (a : Nat) (drain : Bool) (hh : hbm % 4096 = 0) (hl : len % 4096 = 0) (hin : inStacks hbm len = true)
    (h : w.rangeServes hbm len = true) : w.putsServe (w.storeLines a hbm len drain) = true := by
  rw [Work.putsServe, storeLines_aligned w a drain hh hl, List.all_map, List.all_eq_true]
  intro i hi
  have hlt := List.mem_range.mp hi
  simp only [Function.comp_apply, Work.bytes_length, rangeServes_line w hh hin h (show 256 * i + 256 ≤ len by omega), Bool.or_true]

/-- The writes of a STORE to the stacks store its range (R190). -/
theorem mem_storeLines (a : Nat) (drain : Bool) (hh : hbm % 4096 = 0) (hl : len % 4096 = 0) (hin : inStacks hbm len = true) :
    ((w.storeLines a hbm len drain).foldl (fun (v : Work) p => v.putAt p) w).mem =
      storeChunks w.mem hbm 256 (len / 256) (fun i => w.bytes (a + 256 * i) 256) := by
  rw [storeLines_aligned w a drain hh hl, Work.putAts_mem, storeChunks, List.foldl_map, List.foldl_map]
  intro p hp
  obtain ⟨i, hi, rfl⟩ := List.mem_map.mp hp
  have hlt := List.mem_range.mp hi
  rw [Work.bytes_length]
  exact .inl (inStacks_mono hin (by omega))

/-- The lines of a LOAD. -/
def Work.loadLine (dst hbm : Nat) (v : Work) (p : Nat × Nat) : Work :=
  (v.hbmGet p.1 p.2).2.2.put (dst + (p.1 - hbm)) (v.hbmGet p.1 p.2).1 (v.hbmGet p.1 p.2).2.1

theorem loadLines_memKept (dst : Nat) : w.MemKept (w.loadLines hbm dst len) :=
  .foldl (f := Work.loadLine dst hbm) (fun v p => (v.hbmGet_memKept p.1 p.2).trans (Work.put_memKept _ _ _ _)) _ w

/-- The lines of a LOAD from the stacks to local memory store its range: none of them reads what another stored. -/
theorem mem_loadLines {dst : Nat} (hh : hbm % 4096 = 0) (hl : len % 4096 = 0) (hin : inStacks hbm len = true) (hdst : 2 ^ 40 ≤ dst) :
    (w.loadLines hbm dst len).mem = storeChunks w.mem dst 256 (len / 256) (fun i => w.bytes (hbm + 256 * i) 256) := by
  have hbelow : hbm + len ≤ apertureBase := by simpa [inStacks] using hin
  have haperture : apertureBase < 2 ^ 40 := by decide
  have hfold : ∀ n ≤ len / 256,
      (((List.range n).map (fun i => (hbm + 256 * i, 256))).foldl (Work.loadLine dst hbm) w).mem =
        storeChunks w.mem dst 256 n (fun i => w.bytes (hbm + 256 * i) 256) := by
    intro n hn
    induction n with
    | zero => rfl
    | succ n ih =>
      have hprev := ih (by omega)
      rw [storeChunks, List.range_succ, List.map_append, List.map_append, List.foldl_append, List.foldl_append, List.map_cons,
        List.map_nil, List.map_cons, List.map_nil, List.foldl_cons, List.foldl_nil, List.foldl_cons, List.foldl_nil, ← storeChunks,
        ← hprev]
      generalize ((List.range n).map (fun i => (hbm + 256 * i, 256))).foldl (Work.loadLine dst hbm) w = v at hprev ⊢
      have hread : v.bytes (hbm + 256 * n) 256 = w.bytes (hbm + 256 * n) 256 := by
        refine List.map_congr_left fun i hi => ?_
        have hlt := List.mem_range.mp hi
        exact Work.byte_copied_apart (by decide) hprev (.inl (by omega))
      unfold Work.loadLine
      dsimp only
      rw [Work.put_mem, Work.hbmGet_stacks _ (inStacks_mono hin (by omega)), Nat.add_sub_cancel_left, Work.readsStack_mem, hread]
  have hlines : w.loadLines hbm dst len = ((List.range (len / 256)).map (fun i => (hbm + 256 * i, 256))).foldl (Work.loadLine dst hbm) w := by
    rw [← linesOf_aligned (show hbm % 256 = 0 by omega) (show len % 256 = 0 by omega)]
    rfl
  rw [hlines, hfold _ le_rfl]

end

/-! The two instructions. -/

section
variable {w : Work} {c x : Nat} {b : List Byte}

theorem Work.loadInstr_eq (hrun : w.ctxState c x = 1) (hcheck : moveCheck c (leAt b 8 8) (leAt b 16 4) (leAt b 20 4) = 0) {a : Nat}
    (ha : localAddr c (leAt b 16 4) = some a) :
    w.loadInstr c x b =
      if w.rangeServes (leAt b 8 8) (leAt b 20 4) = true then (w.loadLines (leAt b 8 8) a (leAt b 20 4)).retireInstr c x else w := by
  cases h : w.rangeServes (leAt b 8 8) (leAt b 20 4) <;>
    simp [Work.loadInstr, Work.draining_of_run hrun, hcheck, ha, h]

/-- A STORE from scratchpad has the lines of its range as its one output (R211). -/
theorem Work.storeInstr_eq (hrun : w.ctxState c x = 1) (hcheck : moveCheck c (leAt b 8 8) (leAt b 16 4) (leAt b 20 4) = 0)
    (hfit : leAt b 16 4 + leAt b 20 4 ≤ 2 ^ 21) :
    w.storeInstr c x b = w.puts c x ((leAt b 1 1).testBit 3)
      [w.storeLines (spadBase c + leAt b 16 4) (leAt b 8 8) (leAt b 20 4) false] (fun v => v.retireInstr c x) := by
  obtain ⟨-, -, a, ha⟩ := moveCheck_eq_zero hcheck
  have hlines : w.storeLines a (leAt b 8 8) (leAt b 20 4) false =
      w.storeLines (spadBase c + leAt b 16 4) (leAt b 8 8) (leAt b 20 4) false := by
    obtain rfl | hzero := localAddr_spad ha hfit
    · rfl
    · simp only [Work.storeLines, hzero, linesOf, if_true, List.map_nil]
  simp only [Work.storeInstr, hcheck, ha, Work.draining_of_run hrun, hlines, ne_eq, not_true_eq_false, if_false]

end

/-- What a state keeps beside the tiles, the counts and memory lets its context retire. -/
theorem Work.MemKept.retired {w v : Work} (h : w.MemKept v) (c : Nat) {x : Nat} (hx : x < 17) : w.Retired (v.retireInstr c x) c x :=
  Work.retired_retireInstr (congrArg Ctx.pc (h.ctx c x)) (h.ctxState c hx)

theorem Work.LogKept.retired {w v : Work} {c : Nat} (h : w.LogKept v c) {x : Nat} (hx : x < 17) : w.Retired (v.retireInstr c x) c x :=
  Work.retired_retireInstr (congrArg Ctx.pc (h.ctx c x)) (h.ctxState hx)

section
variable {s : State} {c : Fin 1024} {x : Fin 17} {b : List Byte}

theorem load_waits (halive : s.board.alive = true) (hf : s.work.Fetches c.val x.val 5 b)
    (hcheck : moveCheck c.val (leAt b 8 8) (leAt b 16 4) (leAt b 20 4) = 0)
    (hserves : s.work.rangeServes (leAt b 8 8) (leAt b 20 4) = false) : Gives (.load c x) s s.work := by
  obtain ⟨-, -, a, ha⟩ := moveCheck_eq_zero hcheck
  exact gives_of_run (execLoad.eq_1 c x s) halive
    ((Work.issue_of_fetches hf _).trans ((Work.loadInstr_eq hf.1 hcheck ha).trans (if_neg (by simp [hserves]))))

theorem leads_load (halive : s.board.alive = true) (hf : s.work.Fetches c.val x.val 5 b)
    (hcheck : moveCheck c.val (leAt b 8 8) (leAt b 16 4) (leAt b 20 4) = 0) (hin : inStacks (leAt b 8 8) (leAt b 20 4) = true)
    (hfit : leAt b 16 4 + leAt b 20 4 ≤ 2 ^ 21) (hserves : s.work.rangeServes (leAt b 8 8) (leAt b 20 4) = true) :
    Leads (.load c x) s (fun w => s.work.Retired w c.val x.val ∧
      w.bytes (spadBase c.val + leAt b 16 4) (leAt b 20 4) = s.work.bytes (leAt b 8 8) (leAt b 20 4) ∧
      (∀ a, a < spadBase c.val + leAt b 16 4 ∨ spadBase c.val + leAt b 16 4 + leAt b 20 4 ≤ a → w.byte a = s.work.byte a)) := by
  obtain ⟨hl, hh, a, ha⟩ := moveCheck_eq_zero hcheck
  have hlen : 256 * (leAt b 20 4 / 256) = leAt b 20 4 := by omega
  have hlines : s.work.loadLines (leAt b 8 8) a (leAt b 20 4) =
      s.work.loadLines (leAt b 8 8) (spadBase c.val + leAt b 16 4) (leAt b 20 4) := by
    obtain rfl | hzero := localAddr_spad ha hfit
    · rfl
    · simp only [Work.loadLines, hzero, linesOf, if_true, List.foldl_nil]
  have hmem := mem_loadLines s.work hh hl hin ((le_spadBase c.val).trans (Nat.le_add_right _ (leAt b 16 4)))
  rw [← Work.retireInstr_mem _ c.val x.val] at hmem
  refine leads_of_run (execLoad.eq_1 c x s) halive
    ((Work.issue_of_fetches hf _).trans ((Work.loadInstr_eq hf.1 hcheck ha).trans ((if_pos hserves).trans
      (congrArg (Work.retireInstr · c.val x.val) hlines)))) ⟨(loadLines_memKept s.work _).retired _ x.isLt, ?_, fun d hd => ?_⟩
  · have hcopied := Work.bytes_copied (by decide) hmem
    rw [hlen] at hcopied
    exact hcopied
  · exact Work.byte_copied_apart (by decide) hmem (by rwa [hlen])

theorem leads_store (halive : s.board.alive = true) (hf : s.work.Fetches c.val x.val 6 b)
    (hcheck : moveCheck c.val (leAt b 8 8) (leAt b 16 4) (leAt b 20 4) = 0) (hfit : leAt b 16 4 + leAt b 20 4 ≤ 2 ^ 21)
    (hform : leAt b 1 1 = 0) (hin : inStacks (leAt b 8 8) (leAt b 20 4) = true)
    (hserves : s.work.rangeServes (leAt b 8 8) (leAt b 20 4) = true) :
    Leads (.store c x) s (fun w => s.work.Retired w c.val x.val ∧
      w.bytes (leAt b 8 8) (leAt b 20 4) = s.work.bytes (spadBase c.val + leAt b 16 4) (leAt b 20 4) ∧
      (∀ a, a < leAt b 8 8 ∨ leAt b 8 8 + leAt b 20 4 ≤ a → w.byte a = s.work.byte a)) := by
  obtain ⟨hl, hh, -⟩ := moveCheck_eq_zero hcheck
  have hlen : 256 * (leAt b 20 4 / 256) = leAt b 20 4 := by omega
  have hputs := Work.puts_now_one (c := c.val) (x := x.val) (fun v => v.retireInstr c.val x.val)
    (putsServe_storeLines s.work (spadBase c.val + leAt b 16 4) false hh hl hin hserves)
  have hinstr := Work.storeInstr_eq hf.1 hcheck hfit
  rw [hform] at hinstr
  have hmem := mem_storeLines s.work (spadBase c.val + leAt b 16 4) false hh hl hin
  rw [← Work.retireInstr_mem _ c.val x.val] at hmem
  refine leads_of_run (execStore.eq_1 c x s) halive ((Work.issue_of_fetches hf _).trans (hinstr.trans hputs))
    ⟨(s.work.putAts_memKept _).retired _ x.isLt, ?_, fun d hd => ?_⟩
  · have hcopied := Work.bytes_copied (by decide) hmem
    rw [hlen] at hcopied
    exact hcopied
  · exact Work.byte_copied_apart (by decide) hmem (by rwa [hlen])

end

end Sys2Proof.Machine
end

section
/-! ### Deferred stores (R211, R214) -/

namespace Sys2Proof.Machine

section
variable {w : Work} {c x : Nat} {b : List Byte}

/-- The record of a deferred STORE (R211). -/
def Work.storeRecord (w : Work) (c x : Nat) (b : List Byte) : Deferred :=
  recordOf ((w.ctx c x).job.getD 0) x (w.dig c).logSeq
    (w.storeLines (spadBase c + leAt b 16 4) (leAt b 8 8) (leAt b 20 4) false)

theorem logBytes_one (ps : List Put) : logBytes [ps] = recBytes ps := by simp [logBytes]

theorem recordsOf_one (slot x seq : Nat) (ps : List Put) : recordsOf slot x seq [ps] = [recordOf slot x seq ps] := rfl

/-- The bytes that the one record of a STORE takes. -/
theorem logBytes_storeLines (hcheck : moveCheck c (leAt b 8 8) (leAt b 16 4) (leAt b 20 4) = 0) :
    logBytes [w.storeLines (spadBase c + leAt b 16 4) (leAt b 8 8) (leAt b 20 4) false] = 64 + leAt b 20 4 := by
  obtain ⟨hl, hh, -⟩ := moveCheck_eq_zero hcheck
  rw [logBytes_one, recBytes_storeLines _ _ _ hh hl]

section
variable (hrun : w.ctxState c x = 1) (hcheck : moveCheck c (leAt b 8 8) (leAt b 16 4) (leAt b 20 4) = 0)
  (hfit : leAt b 16 4 + leAt b 20 4 ≤ 2 ^ 21) (hform : leAt b 1 1 = 8)
include hrun hcheck hfit hform

theorem Work.storeInstr_logged (hroom : (w.dig c).logUsed + 64 + leAt b 20 4 ≤ 4096 * w.fld (DLOG_SIZE c) 0 20)
    (hserves : w.rangeServes (w.logEnd c) (64 + leAt b 20 4) = true) :
    w.storeInstr c x b = (w.logPuts c x
      [w.storeLines (spadBase c + leAt b 16 4) (leAt b 8 8) (leAt b 20 4) false]).retireInstr c x := by
  have hsize := logBytes_storeLines (w := w) hcheck
  rw [Work.storeInstr_eq hrun hcheck hfit, hform]
  exact Work.puts_logged _ (by omega) (by rwa [hsize])

theorem Work.storeInstr_waits (hone : 64 + leAt b 20 4 ≤ 4096 * w.fld (DLOG_SIZE c) 0 20)
    (hfull : 4096 * w.fld (DLOG_SIZE c) 0 20 < (w.dig c).logUsed + 64 + leAt b 20 4) (hnot : (w.ctx c x).stalled = false) :
    w.storeInstr c x b = (w.setCtx c x { w.ctx c x with stalled := true }).inc (DLOG_WAIT_CNT c) := by
  have hsize := logBytes_storeLines (w := w) hcheck
  rw [Work.storeInstr_eq hrun hcheck hfit, hform]
  refine (Work.puts_waits _ (fun o ho => ?_) (by omega)).trans ?_
  · rw [List.mem_singleton.mp ho, ← logBytes_one, hsize]
    exact hone
  · rw [hnot]
    rfl

end

/-- What a deferred STORE leaves: the record in the log and in memory, and nothing else written (R211). -/
theorem Work.storeLogged_spec (hx : x < 17) (hcheck : moveCheck c (leAt b 8 8) (leAt b 16 4) (leAt b 20 4) = 0)
    (hin : inStacks (w.logEnd c) (64 + leAt b 20 4) = true) :
    let v := (w.logPuts c x [w.storeLines (spadBase c + leAt b 16 4) (leAt b 8 8) (leAt b 20 4) false]).retireInstr c x
    w.Retired v c x ∧ v.bytes (w.logEnd c + 64) (leAt b 20 4) = w.bytes (spadBase c + leAt b 16 4) (leAt b 20 4) ∧
    (v.dig c).log = (w.dig c).log ++ [w.storeRecord c x b] ∧
    (∀ a, a < w.logEnd c ∨ w.logEnd c + 64 + leAt b 20 4 ≤ a → v.byte a = w.byte a) := by
  obtain ⟨hl, hh, -⟩ := moveCheck_eq_zero hcheck
  have hsize := recBytes_storeLines w (spadBase c + leAt b 16 4) false hh hl
  have hsum := storeLines_sum w (spadBase c + leAt b 16 4) false hh hl
  have hdata := storeLines_data w (spadBase c + leAt b 16 4) false hh hl
  unfold Work.storeRecord
  generalize w.storeLines (spadBase c + leAt b 16 4) (leAt b 8 8) (leAt b 20 4) false = ps at hsize hsum hdata ⊢
  rw [← hsize] at hin
  refine ⟨(w.logPuts_logKept c x _).retired hx, ?_, ?_, fun a ha => ?_⟩
  · rw [Work.bytes_congr (Work.retireInstr_mem ..), ← hdata, ← w.bytes_logPuts_one x hin, hsum]
  · rw [Work.dig_congr (Work.retireInstr_digital ..), Work.logPuts_dig, recordsOf_one]
  · rw [Work.byte_congr (Work.retireInstr_mem ..)]
    rw [← logBytes_one] at hin hsize
    exact w.byte_logPuts_apart x hin (by omega)

end

section
variable {s : State} {c : Fin 1024} {x : Fin 17} {b : List Byte}

theorem leads_store_deferred (halive : s.board.alive = true) (hf : s.work.Fetches c.val x.val 6 b)
    (hcheck : moveCheck c.val (leAt b 8 8) (leAt b 16 4) (leAt b 20 4) = 0) (hfit : leAt b 16 4 + leAt b 20 4 ≤ 2 ^ 21)
    (hform : leAt b 1 1 = 8)
    (hroom : (s.work.dig c.val).logUsed + 64 + leAt b 20 4 ≤ 4096 * s.work.fld (DLOG_SIZE c.val) 0 20)
    (hserves : s.work.rangeServes (s.work.logEnd c.val) (64 + leAt b 20 4) = true)
    (hin : inStacks (s.work.logEnd c.val) (64 + leAt b 20 4) = true) :
    Leads (.store c x) s (fun w => s.work.Retired w c.val x.val ∧
      w.bytes (s.work.logEnd c.val + 64) (leAt b 20 4) = s.work.bytes (spadBase c.val + leAt b 16 4) (leAt b 20 4) ∧
      (w.dig c.val).log = (s.work.dig c.val).log ++ [s.work.storeRecord c.val x.val b] ∧
      (∀ a, a < s.work.logEnd c.val ∨ s.work.logEnd c.val + 64 + leAt b 20 4 ≤ a → w.byte a = s.work.byte a)) :=
  leads_of_run (execStore.eq_1 c x s) halive
    ((Work.issue_of_fetches hf _).trans (Work.storeInstr_logged hf.1 hcheck hfit hform hroom hserves))
    (Work.storeLogged_spec x.isLt hcheck hin)

theorem store_deferred_waits (halive : s.board.alive = true) (hf : s.work.Fetches c.val x.val 6 b)
    (hcheck : moveCheck c.val (leAt b 8 8) (leAt b 16 4) (leAt b 20 4) = 0) (hfit : leAt b 16 4 + leAt b 20 4 ≤ 2 ^ 21)
    (hform : leAt b 1 1 = 8) (hone : 64 + leAt b 20 4 ≤ 4096 * s.work.fld (DLOG_SIZE c.val) 0 20)
    (hfull : 4096 * s.work.fld (DLOG_SIZE c.val) 0 20 < (s.work.dig c.val).logUsed + 64 + leAt b 20 4) :
    Gives (.store c x) s ((s.work.setCtx c.val x.val { s.work.ctx c.val x.val with stalled := true }).inc (DLOG_WAIT_CNT c.val)) := by
  have hnot : (s.work.ctx c.val x.val).stalled = false := by
    obtain ⟨-, -, hstalled, -⟩ := hf
    exact hstalled
  exact gives_of_run (execStore.eq_1 c x s) halive
    ((Work.issue_of_fetches hf _).trans (Work.storeInstr_waits hf.1 hcheck hfit hform hone hfull hnot))

/-- The state in which a context that waited tries its instruction again (R214). -/
def Work.unstalled (w : Work) (c x : Nat) : Work := w.setCtx c x { w.ctx c x with stalled := false }

/-- A STORE that waited is tried again; one that would wait again leaves its state (R214). -/
theorem deferredStoreResume_store {w : Work} (halive : s.board.alive = true) (hstalled : (s.work.ctx c.val x.val).stalled = true)
    (hf : (s.work.unstalled c.val x.val).Fetches c.val x.val 6 b)
    (hw : (let u := (s.work.unstalled c.val x.val).storeInstr c.val x.val b
      if (u.ctx c.val x.val).stalled then s.work else u) = w) : Gives (.deferredStoreResume c x) s w := by
  refine gives_of_run (execDeferredStoreResume.eq_1 c x s) halive ?_
  have hop : leAt b 0 1 = 6 := by
    obtain ⟨-, -, -, -, -, -, hop⟩ := hf
    exact hop
  have hnext := Work.nextInstr_of_fetches hf
  unfold Work.unstalled at hnext hw
  rw [← hw]
  simp only [hstalled, Bool.not_true, Bool.false_eq_true, if_false, hnext, hop, if_true]

/-- A context tries its instruction again in the state it waited in: only it is different. -/
theorem Work.Retired.of_unstalled {w v : Work} {c x : Nat} (h : (w.unstalled c x).Retired v c x) : w.Retired v c x := by
  obtain ⟨hpc, hstalled, hstate⟩ := h
  refine ⟨hpc.trans ?_, hstalled, hstate.trans (Work.ctxState_congr (Work.rd_congr rfl _))⟩
  rw [Work.unstalled, Work.ctx_setCtx_same]

theorem leads_deferredStoreResume (halive : s.board.alive = true) (hstalled : (s.work.ctx c.val x.val).stalled = true)
    (hf : (s.work.unstalled c.val x.val).Fetches c.val x.val 6 b) (hform : leAt b 1 1 = 8)
    (hcheck : moveCheck c.val (leAt b 8 8) (leAt b 16 4) (leAt b 20 4) = 0) (hfit : leAt b 16 4 + leAt b 20 4 ≤ 2 ^ 21)
    (hroom : (s.work.dig c.val).logUsed + 64 + leAt b 20 4 ≤ 4096 * s.work.fld (DLOG_SIZE c.val) 0 20)
    (hserves : s.work.rangeServes (s.work.logEnd c.val) (64 + leAt b 20 4) = true)
    (hin : inStacks (s.work.logEnd c.val) (64 + leAt b 20 4) = true) :
    Leads (.deferredStoreResume c x) s (fun w => s.work.Retired w c.val x.val ∧
      (w.dig c.val).log = (s.work.dig c.val).log ++ [s.work.storeRecord c.val x.val b] ∧
      (∀ a, a < s.work.logEnd c.val ∨ s.work.logEnd c.val + 64 + leAt b 20 4 ≤ a → w.byte a = s.work.byte a)) := by
  have hinstr := Work.storeInstr_logged (w := s.work.unstalled c.val x.val) hf.1 hcheck hfit hform hroom hserves
  obtain ⟨hret, -, hlog, hbytes⟩ := Work.storeLogged_spec (w := s.work.unstalled c.val x.val) x.isLt hcheck hin
  have hrecord : (s.work.unstalled c.val x.val).storeRecord c.val x.val b = s.work.storeRecord c.val x.val b := by
    unfold Work.storeRecord
    rw [show ((s.work.unstalled c.val x.val).ctx c.val x.val).job = (s.work.ctx c.val x.val).job by
      rw [Work.unstalled, Work.ctx_setCtx_same]; rfl]
    rfl
  rw [hrecord, ← hinstr] at hlog
  rw [← hinstr] at hret hbytes
  refine ⟨_, deferredStoreResume_store halive hstalled hf (if_neg ?_), hret.of_unstalled, hlog, hbytes⟩
  rw [hret.2.1]
  nofun

theorem deferredStoreResume_waits (halive : s.board.alive = true) (hstalled : (s.work.ctx c.val x.val).stalled = true)
    (hf : (s.work.unstalled c.val x.val).Fetches c.val x.val 6 b) (hform : leAt b 1 1 = 8)
    (hcheck : moveCheck c.val (leAt b 8 8) (leAt b 16 4) (leAt b 20 4) = 0) (hfit : leAt b 16 4 + leAt b 20 4 ≤ 2 ^ 21)
    (hone : 64 + leAt b 20 4 ≤ 4096 * s.work.fld (DLOG_SIZE c.val) 0 20)
    (hfull : 4096 * s.work.fld (DLOG_SIZE c.val) 0 20 < (s.work.dig c.val).logUsed + 64 + leAt b 20 4) :
    Gives (.deferredStoreResume c x) s s.work := by
  refine deferredStoreResume_store halive hstalled hf (if_pos ?_)
  have hnot : ((s.work.unstalled c.val x.val).ctx c.val x.val).stalled = false := by rw [Work.unstalled, Work.ctx_setCtx_same]
  rw [Work.storeInstr_waits (w := s.work.unstalled c.val x.val) hf.1 hcheck hfit hform hone hfull hnot]
  exact congrArg Ctx.stalled (Work.ctx_setCtx_same _ _ _ _)

end

end Sys2Proof.Machine
end

section
/-! ### Semaphores of a job: SIGNAL and WAIT (R202) -/

namespace Sys2Proof.Machine

section
variable {v w : Work} {c x y sem n j : Nat} {job : Job}

/-- The job of a context is that of its number in the core's table. -/
theorem Work.jobOf_eq_some : w.jobOf c x = some (j, job) ↔ (w.ctx c x).job = some j ∧ Sp.find (w.dig c).jobs j = some job := by
  simp only [Work.jobOf, Option.bind_eq_some_iff, Option.map_eq_some_iff, Prod.mk.injEq]
  constructor
  · rintro ⟨s, hs, k, hk, rfl, rfl⟩
    exact ⟨hs, hk⟩
  · rintro ⟨hs, hk⟩
    exact ⟨j, hs, job, hk, rfl, rfl⟩

theorem Work.jobOf_congr (hc : (v.ctx c x).job = (w.ctx c x).job) (hd : v.digital = w.digital) : v.jobOf c x = w.jobOf c x := by
  rw [Work.jobOf, Work.jobOf, hc, Work.dig_congr hd]

theorem Work.sem_of_jobOf (h : w.jobOf c x = some (j, job)) (sem : Nat) : w.sem c x sem = Sp.get job.sems 0 sem := by
  simp only [Work.sem, h]

theorem Work.sem_congr (h : v.jobOf c x = w.jobOf c x) (sem : Nat) : v.sem c x sem = w.sem c x sem := by rw [Work.sem, Work.sem, h]

theorem Work.setSem_frame (w : Work) (c x sem n : Nat) : w.setSem c x sem n = { w with digital := (w.setSem c x sem n).digital } := by
  unfold Work.setSem
  split <;> rfl

theorem Work.setSem_mem (w : Work) (c x sem n : Nat) : (w.setSem c x sem n).mem = w.mem := (congrArg Work.mem (w.setSem_frame c x sem n) :)
theorem Work.setSem_regs (w : Work) (c x sem n : Nat) : (w.setSem c x sem n).regs = w.regs := (congrArg Work.regs (w.setSem_frame c x sem n) :)
theorem Work.setSem_ctxs (w : Work) (c x sem n : Nat) : (w.setSem c x sem n).ctxs = w.ctxs := (congrArg Work.ctxs (w.setSem_frame c x sem n) :)

/-- A semaphore set is set for every context of the job. -/
theorem Work.jobOf_setSem (hx : w.jobOf c x = some (j, job)) (hy : (w.ctx c y).job = some j) :
    (w.setSem c x sem n).jobOf c y = some (j, { job with sems := Sp.put job.sems sem n }) := by
  rw [Work.jobOf_eq_some, Work.ctx_congr (w.setSem_ctxs c x sem n)]
  refine ⟨hy, ?_⟩
  unfold Work.setSem
  simp only [hx, Work.dig_setDig_same, Sp.find_put_same]

theorem Work.sem_setSem (hx : w.jobOf c x = some (j, job)) (hy : (w.ctx c y).job = some j) :
    (w.setSem c x sem n).sem c y sem = n := by
  rw [Work.sem_of_jobOf (Work.jobOf_setSem hx hy)]
  exact Sp.get_put_same _ _ _ _

end

theorem Work.ctxState_retireInstr (w : Work) (c x d y : Nat) : (w.retireInstr c x).ctxState d y = w.ctxState d y :=
  Work.ctxState_congr (Work.rd_congr rfl _)

/-! A context that its semaphore lets through. -/

section
variable (w : Work) {c x : Nat} (sem n : Nat)

/-- The count is taken and the context no longer waits. -/
def Work.waitTaken (w : Work) (c x sem n : Nat) : Work :=
  (w.setSem c x sem (w.sem c x sem - n)).setCtx c x { w.ctx c x with waits := none }

theorem Work.passWait_eq :
    w.passWait c x sem n =
      ((w.waitTaken c x sem n).when (w.ctxState c x = 2) (fun v => v.setCtxState c x 1)).retireInstr c x := by
  have hstate : (w.waitTaken c x sem n).ctxState c x = w.ctxState c x :=
    Work.ctxState_congr (Work.rd_congr (w.setSem_regs c x sem _) _)
  rw [← hstate]
  rfl

/-- Beside registers the change of state of the context that goes on changes nothing. -/
theorem Work.passWait_frame :
    ((w.waitTaken c x sem n).when (w.ctxState c x = 2) (fun v => v.setCtxState c x 1)) =
      { w.waitTaken c x sem n with
        regs := ((w.waitTaken c x sem n).when (w.ctxState c x = 2) (fun v => v.setCtxState c x 1)).regs } := by
  cases decide (w.ctxState c x = 2)
  · rfl
  · exact Work.setCtxState_frame _ c x 1

theorem Work.passWait_digital : (w.passWait c x sem n).digital = (w.setSem c x sem (w.sem c x sem - n)).digital := by
  rw [w.passWait_eq, Work.retireInstr_digital, w.passWait_frame]
  rfl

theorem Work.passWait_mem : (w.passWait c x sem n).mem = w.mem := by
  rw [w.passWait_eq, Work.retireInstr_mem, w.passWait_frame]
  exact w.setSem_mem c x sem _

theorem Work.ctx_passWait_same :
    (w.passWait c x sem n).ctx c x = { w.ctx c x with waits := none, pc := (w.ctx c x).pc + 32, stalled := false } := by
  have hctx : ((w.waitTaken c x sem n).when (w.ctxState c x = 2) (fun v => v.setCtxState c x 1)).ctx c x =
      { w.ctx c x with waits := none } := by
    rw [w.passWait_frame]
    exact Work.ctx_setCtx_same _ _ _ _
  rw [w.passWait_eq, Work.ctx_retireInstr_same, hctx]

theorem Work.ctx_passWait_ne {y : Nat} (hx : x < 17) (hy : y < 17) (h : y ≠ x) : (w.passWait c x sem n).ctx c y = w.ctx c y := by
  rw [w.passWait_eq, Work.ctx_retireInstr_ne _ hx hy (.inr h), w.passWait_frame]
  exact (Work.ctx_setCtx_ne _ _ hx hy (.inr h)).trans (Work.ctx_congr (w.setSem_ctxs c x sem _) c y)

theorem Work.ctxState_waitTaken (y : Nat) : (w.waitTaken c x sem n).ctxState c y = w.ctxState c y :=
  Work.ctxState_congr (Work.rd_congr (w.setSem_regs c x sem _) _)

theorem Work.ctxState_passWait_woken (hx : x < 17) (h : w.ctxState c x = 2) : (w.passWait c x sem n).ctxState c x = 1 := by
  rw [w.passWait_eq, Work.ctxState_retireInstr, decide_eq_true h, Work.when_true]
  exact Work.ctxState_setCtxState_same _ _ hx (by decide)

theorem Work.ctxState_passWait_run (h : w.ctxState c x = 1) : (w.passWait c x sem n).ctxState c x = 1 := by
  rw [w.passWait_eq, Work.ctxState_retireInstr, decide_eq_false (by rw [h]; decide), Work.when_false]
  exact (w.ctxState_waitTaken sem n x).trans h

theorem Work.ctxState_passWait_ne {y : Nat} (hx : x < 17) (hy : y < 17) (h : y ≠ x) :
    (w.passWait c x sem n).ctxState c y = w.ctxState c y := by
  rw [w.passWait_eq, Work.ctxState_retireInstr, ← w.ctxState_waitTaken (x := x) sem n y]
  cases decide (w.ctxState c x = 2)
  · rfl
  · exact Work.ctxState_setCtxState_ne _ 1 hx hy (.inr h)

end

/-! SIGNAL and WAIT. -/

/-- The semaphore of a SIGNAL raised and its context on. -/
def Work.signalled (w : Work) (c x sem : Nat) : Work := (w.setSem c x sem (w.sem c x sem + 1)).retireInstr c x

section
variable {w : Work} {c x j : Nat} {job : Job} (sem : Nat)

theorem Work.ctx_signalled_same : (w.signalled c x sem).ctx c x = { w.ctx c x with pc := (w.ctx c x).pc + 32, stalled := false } := by
  rw [Work.signalled, Work.ctx_retireInstr_same, Work.ctx_congr (w.setSem_ctxs c x sem _)]

theorem Work.ctx_signalled_ne {y : Nat} (hx : x < 17) (hy : y < 17) (h : y ≠ x) : (w.signalled c x sem).ctx c y = w.ctx c y := by
  rw [Work.signalled, Work.ctx_retireInstr_ne _ hx hy (.inr h), Work.ctx_congr (w.setSem_ctxs c x sem _)]

theorem Work.waits_signalled {y : Nat} (hx : x < 17) (hy : y < 17) : ((w.signalled c x sem).ctx c y).waits = (w.ctx c y).waits := by
  by_cases h : y = x
  · rw [h, Work.ctx_signalled_same]
  · rw [Work.ctx_signalled_ne sem hx hy h]

theorem Work.job_signalled {y : Nat} (hx : x < 17) (hy : y < 17) : ((w.signalled c x sem).ctx c y).job = (w.ctx c y).job := by
  by_cases h : y = x
  · rw [h, Work.ctx_signalled_same]
    rfl
  · rw [Work.ctx_signalled_ne sem hx hy h]

theorem Work.regs_signalled : (w.signalled c x sem).regs = w.regs := w.setSem_regs c x sem _

theorem Work.ctxState_signalled (y : Nat) : (w.signalled c x sem).ctxState c y = w.ctxState c y :=
  Work.ctxState_congr (Work.rd_congr (w.regs_signalled sem) _)

/-- The job of a context after a SIGNAL: one more in its semaphore, which each context of the job sees. -/
theorem Work.jobOf_signalled (h : w.jobOf c x = some (j, job)) (hx : x < 17) {y : Nat} (hy : y < 17) (hj : (w.ctx c y).job = some j) :
    (w.signalled c x sem).jobOf c y = some (j, { job with sems := Sp.put job.sems sem (w.sem c x sem + 1) }) := by
  rw [← Work.jobOf_setSem h hj]
  exact Work.jobOf_congr ((w.job_signalled sem hx hy).trans (congrArg Ctx.job (Work.ctx_congr (w.setSem_ctxs c x sem _) c y).symm)) rfl

theorem Work.sem_signalled (h : w.jobOf c x = some (j, job)) (hx : x < 17) {y : Nat} (hy : y < 17) (hj : (w.ctx c y).job = some j) :
    (w.signalled c x sem).sem c y sem = w.sem c x sem + 1 := by
  rw [Work.sem_of_jobOf (Work.jobOf_signalled sem h hx hy hj)]
  exact Sp.get_put_same _ _ _ _

/-- A context of the job that waits for the semaphore is let through where it has its count. -/
def Work.letThrough (c sem : Nat) (v : Work) (y : Nat) : Work :=
  match (v.ctx c y).waits with
  | some (s, n) => if s = sem ∧ n ≤ v.sem c y s then v.passWait c y s n else v
  | none => v

theorem Work.signalInstr_eq {b : List Byte} (h : w.jobOf c x = some (j, job)) (hx : x < 17) :
    w.signalInstr c x b = job.ctxs.foldl (Work.letThrough c (leAt b 4 1)) (w.signalled c x (leAt b 4 1)) := by
  have hjob : ((w.setSem c x (leAt b 4 1) (w.sem c x (leAt b 4 1) + 1)).retireInstr c x).jobOf c x = _ :=
    Work.jobOf_signalled (leAt b 4 1) h hx hx (Work.jobOf_eq_some.mp h).1
  simp only [Work.signalInstr, hjob]
  rfl

theorem Work.letThrough_none {v : Work} {y : Nat} (h : (v.ctx c y).waits = none) : Work.letThrough c sem v y = v := by
  simp only [Work.letThrough, h]

theorem Work.letThrough_some {v : Work} {y n : Nat} (h : (v.ctx c y).waits = some (sem, n)) (hn : n ≤ v.sem c y sem) :
    Work.letThrough c sem v y = v.passWait c y sem n := by
  simp only [Work.letThrough, h, hn, and_self, if_true]

theorem foldl_letThrough_none {v : Work} {ys : List Nat} (h : ∀ y ∈ ys, (v.ctx c y).waits = none) :
    ys.foldl (Work.letThrough c sem) v = v := by
  induction ys with
  | nil => rfl
  | cons y ys ih =>
    rw [List.foldl_cons, Work.letThrough_none sem (h y List.mem_cons_self)]
    exact ih fun z hz => h z (List.mem_cons_of_mem _ hz)

end

section
variable {s : State} {c : Fin 1024} {x : Fin 17} {b : List Byte} {j : Nat} {job : Job}

theorem leads_signal (halive : s.board.alive = true) (hf : s.work.Fetches c.val x.val 7 b)
    (hjob : s.work.jobOf c.val x.val = some (j, job)) (hlt : ∀ y ∈ job.ctxs, y < 17)
    (hnone : ∀ y ∈ job.ctxs, (s.work.ctx c.val y).waits = none) :
    Leads (.signal c x) s (fun w => s.work.Retired w c.val x.val ∧
      w.sem c.val x.val (leAt b 4 1) = s.work.sem c.val x.val (leAt b 4 1) + 1 ∧ w.mem = s.work.mem ∧ w.regs = s.work.regs) := by
  have hfold := foldl_letThrough_none (c := c.val) (leAt b 4 1) (v := s.work.signalled c.val x.val (leAt b 4 1))
    fun y hy => (Work.waits_signalled (leAt b 4 1) x.isLt (hlt y hy)).trans (hnone y hy)
  refine leads_of_run (execSignal.eq_1 c x s) halive
    ((Work.issue_of_fetches hf _).trans ((Work.signalInstr_eq hjob x.isLt).trans hfold)) ⟨⟨?_, ?_, ?_⟩, ?_, ?_, ?_⟩
  · rw [Work.ctx_signalled_same]
  · rw [Work.ctx_signalled_same]
  · exact Work.ctxState_signalled _ _
  · exact Work.sem_signalled _ hjob x.isLt x.isLt (Work.jobOf_eq_some.mp hjob).1
  · exact s.work.setSem_mem ..
  · exact Work.regs_signalled _

/-- The one other context of the job, which waits for no more than the count it finds, goes on (R202). -/
theorem leads_signal_wakes {y : Fin 17} {m : Nat} (halive : s.board.alive = true) (hne : x ≠ y)
    (hf : s.work.Fetches c.val x.val 7 b) (hjob : s.work.jobOf c.val x.val = some (j, job))
    (hy : (s.work.ctx c.val y.val).job = some j) (hctxs : job.ctxs = [y.val])
    (hwaits : (s.work.ctx c.val y.val).waits = some (leAt b 4 1, m)) (hstate : s.work.ctxState c.val y.val = 2)
    (hm : m ≤ s.work.sem c.val x.val (leAt b 4 1) + 1) :
    Leads (.signal c x) s (fun w => s.work.Retired w c.val x.val ∧ (w.ctx c.val y.val).waits = none ∧
      w.ctxState c.val y.val = 1 ∧ (w.ctx c.val y.val).pc = (s.work.ctx c.val y.val).pc + 32 ∧
      w.sem c.val x.val (leAt b 4 1) = s.work.sem c.val x.val (leAt b 4 1) + 1 - m) := by
  have hxy : x.val ≠ y.val := fun h => hne (Fin.ext h)
  have hjx := (Work.jobOf_eq_some.mp hjob).1
  have hv := Work.jobOf_signalled (leAt b 4 1) hjob x.isLt x.isLt hjx
  have hvy := Work.jobOf_signalled (leAt b 4 1) hjob x.isLt y.isLt hy
  have hsem := Work.sem_signalled (leAt b 4 1) hjob x.isLt y.isLt hy
  have hctxy := Work.ctx_signalled_ne (w := s.work) (c := c.val) (leAt b 4 1) x.isLt y.isLt hxy.symm
  have hctxx := Work.ctx_signalled_same (w := s.work) (c := c.val) (x := x.val) (leAt b 4 1)
  have hst := Work.ctxState_signalled (w := s.work) (c := c.val) (x := x.val) (leAt b 4 1)
  have hinstr := (Work.signalInstr_eq (b := b) hjob x.isLt).trans (congrArg (List.foldl _ _) hctxs)
  generalize s.work.signalled c.val x.val (leAt b 4 1) = v at hv hvy hsem hctxy hctxx hst hinstr
  have hpass : [y.val].foldl (Work.letThrough c.val (leAt b 4 1)) v = v.passWait c.val y.val (leAt b 4 1) m :=
    Work.letThrough_some _ (by rw [hctxy, hwaits]) (by rwa [hsem])
  refine leads_of_run (execSignal.eq_1 c x s) halive
    ((Work.issue_of_fetches hf _).trans (hinstr.trans hpass)) ⟨⟨?_, ?_, ?_⟩, ?_, ?_, ?_, ?_⟩
  · rw [Work.ctx_passWait_ne _ _ _ y.isLt x.isLt hxy, hctxx]
  · rw [Work.ctx_passWait_ne _ _ _ y.isLt x.isLt hxy, hctxx]
  · rw [Work.ctxState_passWait_ne _ _ _ y.isLt x.isLt hxy, hst]
  · rw [Work.ctx_passWait_same]
  · exact Work.ctxState_passWait_woken _ _ _ y.isLt ((hst _).trans hstate)
  · rw [Work.ctx_passWait_same, hctxy]
  · have hafter : (v.passWait c.val y.val (leAt b 4 1) m).jobOf c.val x.val =
        (v.setSem c.val y.val (leAt b 4 1) (v.sem c.val y.val (leAt b 4 1) - m)).jobOf c.val x.val := by
      refine Work.jobOf_congr ?_ (v.passWait_digital _ _)
      rw [Work.ctx_passWait_ne _ _ _ y.isLt x.isLt hxy, Work.ctx_congr (v.setSem_ctxs ..)]
    rw [Work.sem_congr hafter, Work.sem_setSem hvy (Work.jobOf_eq_some.mp hv).1, hsem]

theorem leads_wait_passes (halive : s.board.alive = true) (hf : s.work.Fetches c.val x.val 8 b)
    (hjob : s.work.jobOf c.val x.val = some (j, job)) (hn : leAt b 6 2 ≤ s.work.sem c.val x.val (leAt b 4 1)) :
    Leads (.wait c x) s (fun w => s.work.Retired w c.val x.val ∧ (w.ctx c.val x.val).waits = none ∧
      w.sem c.val x.val (leAt b 4 1) = s.work.sem c.val x.val (leAt b 4 1) - leAt b 6 2 ∧ w.mem = s.work.mem) := by
  have hctx := s.work.ctx_passWait_same (c := c.val) (x := x.val) (leAt b 4 1) (leAt b 6 2)
  refine leads_of_run (execWait.eq_1 c x s) halive ((Work.issue_of_fetches hf _).trans (if_pos hn))
    ⟨⟨?_, ?_, ?_⟩, ?_, ?_, s.work.passWait_mem _ _⟩
  · rw [hctx]
  · rw [hctx]
  · rw [Work.ctxState_passWait_run _ _ _ hf.1, hf.1]
  · rw [hctx]
  · have hafter : (s.work.passWait c.val x.val (leAt b 4 1) (leAt b 6 2)).jobOf c.val x.val =
        (s.work.setSem c.val x.val (leAt b 4 1) (s.work.sem c.val x.val (leAt b 4 1) - leAt b 6 2)).jobOf c.val x.val := by
      refine Work.jobOf_congr ?_ (s.work.passWait_digital _ _)
      rw [hctx, Work.ctx_congr (s.work.setSem_ctxs ..)]
      rfl
    rw [Work.sem_congr hafter, Work.sem_setSem hjob (Work.jobOf_eq_some.mp hjob).1]

/-- A WAIT that does not find its count holds its context in state 2. -/
theorem leads_wait_holds (halive : s.board.alive = true) (hf : s.work.Fetches c.val x.val 8 b)
    (hn : s.work.sem c.val x.val (leAt b 4 1) < leAt b 6 2) :
    Leads (.wait c x) s (fun w => (w.ctx c.val x.val).waits = some (leAt b 4 1, leAt b 6 2) ∧ w.ctxState c.val x.val = 2 ∧
      (w.ctx c.val x.val).pc = (s.work.ctx c.val x.val).pc ∧ w.digital = s.work.digital ∧ w.mem = s.work.mem) := by
  let v := s.work.setCtx c.val x.val { s.work.ctx c.val x.val with waits := some (leAt b 4 1, leAt b 6 2) }
  have hrun : v.ctxState c.val x.val = 1 := (Work.ctxState_congr (Work.rd_congr rfl _)).trans hf.1
  have hinstr : s.work.waitInstr c.val x.val b = v.setCtxState c.val x.val 2 := by
    refine (if_neg (Nat.not_le.mpr hn)).trans ?_
    exact if_pos (decide_eq_true hrun)
  have hframe := v.setCtxState_frame c.val x.val 2
  have hctx : (v.setCtxState c.val x.val 2).ctx c.val x.val = _ :=
    (Work.ctx_congr (congrArg Work.ctxs hframe :) _ _).trans (Work.ctx_setCtx_same _ _ _ _)
  refine leads_of_run (execWait.eq_1 c x s) halive ((Work.issue_of_fetches hf _).trans hinstr)
    ⟨?_, Work.ctxState_setCtxState_same _ _ x.isLt (by decide), ?_, (congrArg Work.digital hframe :), (congrArg Work.mem hframe :)⟩
  · rw [hctx]
  · rw [hctx]

end

end Sys2Proof.Machine
end

section
/-! ### The end of a stream (R202) and a flushed context (R200, Table 5-6) -/

namespace Sys2Proof.Machine

/-- Between two states the contexts, the digital units and their registers are the same. -/
structure Work.UnitsKept (w v : Work) : Prop where
  ctxs : v.ctxs = w.ctxs
  digital : v.digital = w.digital
  regs : ∀ a, InUnits a → v.reg a = w.reg a

theorem Work.MemKept.unitsKept {w v : Work} (h : w.MemKept v) : w.UnitsKept v := ⟨h.ctxs, h.digital, h.regs⟩

namespace Work.UnitsKept

variable {u v w : Work}

theorem refl (w : Work) : w.UnitsKept w := ⟨rfl, rfl, fun _ _ => rfl⟩

theorem trans (h : u.UnitsKept v) (k : v.UnitsKept w) : u.UnitsKept w :=
  ⟨k.ctxs.trans h.ctxs, k.digital.trans h.digital, fun a ha => (k.regs a ha).trans (h.regs a ha)⟩

theorem wr (w : Work) {a : Nat} (ha : ¬ InUnits a) (n : Nat) : w.UnitsKept (w.wr a n) :=
  ⟨rfl, rfl, fun b hb => (w.reg_wr a n b).trans (if_neg (fun e : b = a => ha (e ▸ hb)))⟩

theorem ctxState (h : w.UnitsKept v) (c : Nat) {x : Nat} (hx : x < 17) : v.ctxState c x = w.ctxState c x :=
  Work.ctxState_congr (congrArg BitVec.toNat (h.regs _ (inUnits_statusReg c hx)))

end Work.UnitsKept

/-- An entry of the stash that returns to FREE is none of the digital units' matter. -/
theorem Work.freeEntry_unitsKept (w : Work) (i : Nat) : w.UnitsKept (w.freeEntry i) := by
  have hpool : w.UnitsKept (w.setFld POOL_FREE 0 23 (min (w.fld POOL_FREE 0 23 + w.entryPages i) (w.fld POOL_PAGES 0 23))) :=
    .wr w (not_inUnits_of_lt (by decide)) _
  have hput : ∀ (v : Work) (a n : Nat), v.UnitsKept (v.putNum a n 0) := fun v a n => (v.putStack_memKept a (toLE n 0) false).unitsKept
  obtain ⟨hctxs, hdigital, hregs⟩ := (hpool.trans (hput _ (Work.entryAt _ i + 20) 1)).trans (hput _ (Work.entryAt _ i + 24) 4)
  exact ⟨hctxs, hdigital, hregs⟩

theorem Work.releaseEntries_unitsKept (w : Work) (c n : Nat) : w.UnitsKept (w.releaseEntries c n) := by
  unfold Work.releaseEntries
  split
  · exact .refl w
  · exact List.foldlRecOn _ _ (.refl w) fun v hv e _ => hv.trans (v.freeEntry_unitsKept e.entry)

theorem not_inUnits_COX_STATUS (c : Nat) : ¬ InUnits (COX_STATUS c) := by
  unfold InUnits COX_STATUS coreBase
  omega

theorem Work.coxReady_unitsKept (w : Work) (c : Nat) : w.UnitsKept (w.coxReady c) := by
  unfold Work.coxReady
  split
  · exact .wr w (not_inUnits_COX_STATUS c) _
  · exact .refl w

/-- A slot that completes leaves the digital units (R45, R267). -/
theorem Work.completeSlot_unitsKept (w : Work) (c n : Nat) : w.UnitsKept (w.completeSlot c n) := by
  unfold Work.completeSlot
  split
  · exact .refl w
  · let u := w.setCox c { w.cox c with runs := Sp.put (w.cox c).runs n { state := 3 } }
    have hu : w.UnitsKept u := ⟨rfl, rfl, fun _ _ => rfl⟩
    have hprogress : (u.releaseEntries c n).UnitsKept ((u.releaseEntries c n).progress c) := ⟨rfl, rfl, fun _ _ => rfl⟩
    exact ((hu.trans (u.releaseEntries_unitsKept c n)).trans hprogress).trans (Work.coxReady_unitsKept _ c)

section
variable (w : Work) (c : Nat) {x : Nat}

/-- A context freed is in its reset state, and IDLE (Table 5-6). -/
theorem Work.freeCtx_spec (hx : x < 17) :
    (w.freeCtx c x).ctx c x = {} ∧ (w.freeCtx c x).ctxState c x = 0 ∧ (w.freeCtx c x).digital = w.digital := by
  let v := (w.setCtx c x {}).setCtxState c x 0
  have hframe : v = { w.setCtx c x {} with regs := v.regs } := (w.setCtx c x {}).setCtxState_frame c x 0
  have hctx : v.ctx c x = {} := (Work.ctx_congr (congrArg Work.ctxs hframe :) c x).trans (Work.ctx_setCtx_same _ _ _ _)
  have hdig : v.digital = w.digital := (congrArg Work.digital hframe :)
  have hstate : v.ctxState c x = 0 := Work.ctxState_setCtxState_same _ c hx (by decide)
  by_cases hvec : x = 16
  · have hfree : w.freeCtx c x = v := if_pos hvec
    rw [hfree]
    exact ⟨hctx, hstate, hdig⟩
  · let u := v.clrBit (MAC_STATUS c (x / 2)) (7 + x % 2)
    have hfree : w.freeCtx c x = u.when (u.ctxState c (2 * (x / 2)) = 0 && u.ctxState c (2 * (x / 2) + 1) = 0)
        (fun t => t.clrBit (MAC_STATUS c (x / 2)) 0) := if_neg hvec
    have hreg : statusReg c x = MAC_STATUS c (x / 2) := if_neg hvec
    have hlo : statusLo x = 1 + 3 * (x % 2) := if_neg hvec
    have hbit : ∀ (t : Work) (i : Nat), i < 32 → (i = 0 ∨ 7 ≤ i) →
        (t.clrBit (MAC_STATUS c (x / 2)) i).ctxState c x = t.ctxState c x := by
      intro t i hi hapart
      rw [Work.ctxState_eq, Work.ctxState_eq, hreg, hlo]
      exact t.fld_setFld_apart _ 0 (by omega) (by omega)
    have hu : u.ctxState c x = 0 := (hbit v _ (by omega) (by omega)).trans hstate
    rw [hfree]
    cases (u.ctxState c (2 * (x / 2)) = 0 && u.ctxState c (2 * (x / 2) + 1) = 0 : Bool) with
    | false => exact ⟨hctx, hu, hdig⟩
    | true => exact ⟨hctx, (hbit u 0 (by decide) (.inl rfl)).trans hu, hdig⟩

end

/-- A context that has ended its stream. -/
def Work.streamEnded (w : Work) (c x : Nat) : Work := (w.retireInstr c x).setCtxState c x 5

section
variable {w : Work} {c x j : Nat} {job : Job}

theorem Work.streamEnded_frame (w : Work) (c x : Nat) :
    w.streamEnded c x = { w.retireInstr c x with regs := (w.streamEnded c x).regs } := (w.retireInstr c x).setCtxState_frame c x 5

theorem Work.streamEnded_digital (w : Work) (c x : Nat) : (w.streamEnded c x).digital = w.digital :=
  (congrArg Work.digital (w.streamEnded_frame c x) :)

theorem Work.streamEnded_mem (w : Work) (c x : Nat) : (w.streamEnded c x).mem = w.mem := (congrArg Work.mem (w.streamEnded_frame c x) :)

theorem Work.ctxState_streamEnded_same (hx : x < 17) : (w.streamEnded c x).ctxState c x = 5 :=
  Work.ctxState_setCtxState_same _ c hx (by decide)

theorem Work.ctxState_streamEnded_ne {y : Nat} (hx : x < 17) (hy : y < 17) (h : y ≠ x) :
    (w.streamEnded c x).ctxState c y = w.ctxState c y :=
  (Work.ctxState_setCtxState_ne _ 5 hx hy (.inr h)).trans (w.ctxState_retireInstr c x c y)

theorem Work.jobOf_streamEnded (h : w.jobOf c x = some (j, job)) : (w.streamEnded c x).jobOf c x = some (j, job) := by
  rw [← h]
  refine Work.jobOf_congr ?_ (w.streamEnded_digital c x)
  have hctxs : (w.streamEnded c x).ctxs = (w.retireInstr c x).ctxs := (congrArg Work.ctxs (w.streamEnded_frame c x) :)
  rw [Work.ctx_congr hctxs, Work.ctx_retireInstr_same]
  rfl

/-- The last context of a job that ends completes it: its contexts are freed, and it leaves the core's table (R202). -/
def Work.jobEnded (w : Work) (c j : Nat) (job : Job) : Work :=
  let u := job.ctxs.foldl (fun (v : Work) y => v.freeCtx c y) w
  (u.setDig c { u.dig c with jobs := Sp.erase (u.dig c).jobs j }).when (j < 4096) (fun v => v.completeSlot c j)

theorem Work.ctxEnd_eq (h : w.jobOf c x = some (j, job)) :
    w.ctxEnd c x =
      if job.ctxs.all (fun y => (w.streamEnded c x).ctxState c y = 5) then (w.streamEnded c x).jobEnded c j job
      else w.streamEnded c x := by
  obtain ⟨hjob, hfind⟩ := Work.jobOf_eq_some.mp (Work.jobOf_streamEnded h)
  unfold Work.streamEnded at hjob hfind
  simp only [Work.ctxEnd, hjob, hfind]
  rfl

/-- A job of one context that ends leaves the context in its reset state. -/
theorem Work.jobEnded_one (w : Work) (c j : Nat) (hx : x < 17) (hctxs : job.ctxs = [x]) :
    let v := w.jobEnded c j job
    v.ctxState c x = 0 ∧ v.ctx c x = {} ∧ Sp.find (v.dig c).jobs j = none := by
  obtain ⟨hctx, hstate, -⟩ := w.freeCtx_spec c hx
  let u := w.freeCtx c x
  let t := u.setDig c { u.dig c with jobs := Sp.erase (u.dig c).jobs j }
  have hended : w.jobEnded c j job = t.when (j < 4096) (fun v => v.completeSlot c j) := by
    simp only [Work.jobEnded, hctxs, List.foldl_cons, List.foldl_nil]
    rfl
  have hkept : t.UnitsKept (t.when (j < 4096) (fun v => v.completeSlot c j)) := by
    cases decide (j < 4096)
    · exact .refl t
    · exact t.completeSlot_unitsKept c j
  have hfind : Sp.find (t.dig c).jobs j = none := by
    rw [Work.dig_setDig_same]
    simp [Sp.find_erase]
  rw [hended]
  refine ⟨(hkept.ctxState c hx).trans ?_, (Work.ctx_congr hkept.ctxs c x).trans hctx, ?_⟩
  · exact (Work.ctxState_congr (Work.rd_congr rfl _)).trans hstate
  · rwa [Work.dig_congr hkept.digital]

end

section
variable {s : State} {c : Fin 1024} {x : Fin 17} {b : List Byte} {j : Nat} {job : Job}

theorem endJob_runs (halive : s.board.alive = true) (hf : s.work.Fetches c.val x.val 15 b)
    (hcheck : (s.work.ctx c.val x.val).checking = none) : Gives (.endJob c x) s (s.work.ctxEnd c.val x.val) := by
  refine gives_of_run (execEndJob.eq_1 c x s) halive ((Work.issueMac_of_fetches hf _).trans (if_neg ?_))
  rw [hcheck]
  nofun

theorem leads_endJob_waits (halive : s.board.alive = true) (hf : s.work.Fetches c.val x.val 15 b)
    (hcheck : (s.work.ctx c.val x.val).checking = none) (hjob : s.work.jobOf c.val x.val = some (j, job))
    (hother : ∃ y ∈ job.ctxs, y < 17 ∧ y ≠ x.val ∧ s.work.ctxState c.val y ≠ 5) :
    Leads (.endJob c x) s (fun w => w.ctxState c.val x.val = 5 ∧ w.digital = s.work.digital ∧ w.mem = s.work.mem) := by
  obtain ⟨y, hy, hlt, hne, hstate⟩ := hother
  have hnot : job.ctxs.all (fun y => (s.work.streamEnded c.val x.val).ctxState c.val y = 5) = false := by
    rw [List.all_eq_false]
    exact ⟨y, hy, by rwa [Work.ctxState_streamEnded_ne x.isLt hlt hne, decide_eq_true_eq]⟩
  have hend := (Work.ctxEnd_eq hjob).trans (if_neg (by rw [hnot]; nofun))
  refine ⟨_, endJob_runs halive hf hcheck, ?_⟩
  rw [hend]
  exact ⟨Work.ctxState_streamEnded_same x.isLt, Work.streamEnded_digital .., Work.streamEnded_mem ..⟩

theorem leads_endJob_last (halive : s.board.alive = true) (hf : s.work.Fetches c.val x.val 15 b)
    (hcheck : (s.work.ctx c.val x.val).checking = none) (hjob : s.work.jobOf c.val x.val = some (j, job))
    (hctxs : job.ctxs = [x.val]) :
    Leads (.endJob c x) s (fun w => w.ctxState c.val x.val = 0 ∧ w.ctx c.val x.val = {} ∧ Sp.find (w.dig c.val).jobs j = none) := by
  have hall : job.ctxs.all (fun y => (s.work.streamEnded c.val x.val).ctxState c.val y = 5) = true := by
    simp [hctxs, Work.ctxState_streamEnded_same x.isLt]
  have hend := (Work.ctxEnd_eq hjob).trans (if_pos hall)
  refine ⟨_, endJob_runs halive hf hcheck, ?_⟩
  rw [hend]
  exact Work.jobEnded_one _ _ _ x.isLt hctxs

theorem contextFlushDone_of_reset (halive : s.board.alive = true) (h : s.work.ctxState c.val x.val = 3) :
    Leads (.contextFlushDone c x) s (fun w => w.ctxState c.val x.val = 4 ∧ w.ctxs = s.work.ctxs ∧ w.acc = s.work.acc ∧
      w.mem = s.work.mem) := by
  have hframe := s.work.setCtxState_frame c.val x.val 4
  exact leads_of_run (execContextFlushDone.eq_1 c x s) halive (if_pos h)
    ⟨Work.ctxState_setCtxState_same _ _ x.isLt (by decide), (congrArg Work.ctxs hframe :), (congrArg Work.acc hframe :),
      (congrArg Work.mem hframe :)⟩

theorem contextFlushDone_of_not_reset (halive : s.board.alive = true) (h : s.work.ctxState c.val x.val ≠ 3) :
    Gives (.contextFlushDone c x) s s.work := gives_of_run (execContextFlushDone.eq_1 c x s) halive (if_neg h)

end

/-- Settles O17: each instruction by what it does to its context, the log and memory. -/
theorem movesSemaphoresAndJobsRun : Obligations.MovesSemaphoresAndJobsRun := by
  refine ⟨⟨?load, ?store, ?resume⟩, ?signal, ?wakes, ?wait, ?endJob, ?flush⟩
  case load =>
    intro s c x b halive hf hcheck hin hfit
    exact ⟨load_waits halive hf hcheck, leads_load halive hf hcheck hin hfit⟩
  case store =>
    intro s c x b halive hf hcheck hfit
    exact ⟨leads_store halive hf hcheck hfit, leads_store_deferred halive hf hcheck hfit,
      store_deferred_waits halive hf hcheck hfit⟩
  case resume =>
    intro s c x b halive k hstalled hf hform hcheck hfit hone
    exact ⟨leads_deferredStoreResume halive hstalled hf hform hcheck hfit,
      deferredStoreResume_waits halive hstalled hf hform hcheck hfit hone⟩
  case signal => exact fun s c x b j job halive hf hjob hlt hnone => leads_signal halive hf hjob hlt hnone
  case wakes =>
    exact fun s c x y b j m job halive hne hf hjob hy hctxs hwaits hstate hm =>
      leads_signal_wakes halive hne hf hjob hy hctxs hwaits hstate hm
  case wait => exact fun s c x b j job halive hf hjob => ⟨leads_wait_passes halive hf hjob, leads_wait_holds halive hf⟩
  case endJob =>
    exact fun s c x b j job halive hf hcheck hjob =>
      ⟨leads_endJob_waits halive hf hcheck hjob, leads_endJob_last halive hf hcheck hjob⟩
  case flush => exact fun s c x halive => ⟨contextFlushDone_of_reset halive, contextFlushDone_of_not_reset halive⟩

end Sys2Proof.Machine
end

section
/-! ### ACC_CLR and ACC_ADD (R183, R195, R196) -/

namespace Sys2Proof.Machine

/-- What a list holds once some keys are filtered out. -/
theorem Sp.get_filter {α : Type} (l : Sp α) (f : Nat → Bool) (d : α) (k : Nat) :
    Sp.get (l.filter (fun p => f p.1)) d k = if f k then Sp.get l d k else d := by
  have hfind : Sp.find (l.filter (fun p => f p.1)) k = if f k then Sp.find l k else none := by
    have hkeys : (fun p : Nat × α => decide (f p.1 = true ∧ (p.1 == k) = true)) = fun p => f k && p.1 == k := by
      funext p
      by_cases hp : p.1 = k
      · simp [hp]
      · simp [beq_false_of_ne hp]
    rw [Sp.find, Sp.find, List.find?_filter, hkeys]
    cases f k <;> simp
  rw [Sp.get, Sp.get, hfind]
  split <;> rfl

/-- The shape of an array instruction is one of its context. -/
theorem shape_ok {sh : Nat} {split : Bool} (h : sh < 3) (hsplit : sh = 2 → split = false) :
    (decide (3 ≤ sh) || (decide (sh = 2) && split)) = false := by
  by_cases h2 : sh = 2
  · simp [h2, hsplit h2]
  · simp [h2]
    omega

section
variable {w : Work} {c x : Nat} {b : List Byte}

theorem instrIdxs_accClr (hop : leAt b 0 1 = 2) (hpos : 1 ≤ leAt b 5 1) (hfit : leAt b 4 1 + leAt b 5 1 ≤ 64) :
    instrIdxs b = (List.range (leAt b 5 1)).map (fun i => leAt b 4 1 + i) := by
  have hmod : leAt b 4 1 % 64 = leAt b 4 1 := Nat.mod_eq_of_lt (by omega)
  unfold instrIdxs
  simp only [hop, hmod]
  rw [Nat.min_eq_left (by omega)]

theorem Work.accClr_eq (hrun : w.ctxState c x = 1) (hpos : 1 ≤ leAt b 5 1) (hfit : leAt b 4 1 + leAt b 5 1 ≤ 64) :
    w.accClr c x b = ((w.nameIdx c x (instrIdxs b)).tileClear c x (instrIdxs b)).retireInstr c x := by
  have hcount : (decide (leAt b 5 1 = 0) || decide (64 < leAt b 4 1 + leAt b 5 1)) = false := by
    simp only [Bool.or_eq_false_iff, decide_eq_false_iff_not]
    omega
  simp only [Work.accClr, Work.draining_of_run hrun, Bool.false_eq_true, if_false, hcount]

theorem Work.halves_nameIdx (w : Work) (c x : Nat) (idxs : List Nat) :
    ((w.nameIdx c x idxs).ctx c x).halves x = (w.ctx c x).halves x := by rw [Work.ctx_nameIdx]; rfl

theorem Work.accAdd_eq {d : List Byte} (hrun : w.ctxState c x = 1) (hshape : leAt b 1 1 < 3)
    (hsplit : leAt b 1 1 = 2 → (w.ctx c x).split = false) (hsrc : leAt b 8 4 % 32 = 0)
    (hd : w.localGet c (leAt b 8 4) (4 * tileSize (leAt b 1 1) (w.ctx c x).split) = some (d, false)) :
    ∃ m, w.accAdd c x false b =
      (((w.nameIdx c x [leAt b 4 1]).tilePut c x (w.ctx c x).split (leAt b 1 1) (leAt b 4 1)
        (((w.tileGet c x (w.ctx c x).split (leAt b 1 1) (leAt b 4 1)).zipIdx).map (fun q =>
          fadd q.1 (BitVec.ofNat 32 (leAt d (4 * q.2) 4))))).macCount c x m 0).retireInstr c x := by
  have hd' : (w.nameIdx c x [leAt b 4 1]).localGet c (leAt b 8 4) (4 * tileSize (leAt b 1 1) (w.ctx c x).split) = some (d, false) := hd
  refine ⟨((w.tileGet c x (w.ctx c x).split (leAt b 1 1) (leAt b 4 1)).zip
    (((w.tileGet c x (w.ctx c x).split (leAt b 1 1) (leAt b 4 1)).zipIdx).map (fun q =>
      fadd q.1 (BitVec.ofNat 32 (leAt d (4 * q.2) 4))))).foldl (fun m q => m.add (turnKind q.1 q.2)) {}, ?_⟩
  unfold Work.accAdd
  simp only [Work.draining_of_run hrun, shape_ok hshape hsplit, hsrc, hd', Bool.false_eq_true, if_false, if_true]
  rfl

end

section
variable {s : State} {c : Fin 1024} {x : Fin 17} {b : List Byte}

theorem leads_accClr (halive : s.board.alive = true) (hf : s.work.Fetches c.val x.val 2 b) (hpos : 1 ≤ leAt b 5 1)
    (hfit : leAt b 4 1 + leAt b 5 1 ≤ 64) :
    let ks := ((List.range (leAt b 5 1)).map (fun i => leAt b 4 1 + i)).flatMap (fun i =>
      ((s.work.ctx c.val x.val).halves x.val).map (fun h => halfKey c.val (x.val / 2) h i))
    Leads (.accClr c x) s (fun w => s.work.Retired w c.val x.val ∧
      (∀ e, Sp.get w.acc 0 e = if ks.contains (e / 512) then 0 else Sp.get s.work.acc 0 e) ∧
      (∀ h, h ∈ w.accPoison ↔ h ∈ s.work.accPoison ∧ h ∉ ks) ∧ w.mem = s.work.mem ∧ w.regs = s.work.regs) := by
  intro ks
  have hidxs : instrIdxs b = (List.range (leAt b 5 1)).map (fun i => leAt b 4 1 + i) := by
    obtain ⟨-, -, -, -, -, -, hop⟩ := hf
    exact instrIdxs_accClr hop hpos hfit
  let v := s.work.nameIdx c.val x.val (instrIdxs b)
  have hks : (instrIdxs b).flatMap (fun i => ((v.ctx c.val x.val).halves x.val).map (fun h => halfKey c.val (x.val / 2) h i)) = ks := by
    rw [hidxs, Work.halves_nameIdx]
  have hacc : (v.tileClear c.val x.val (instrIdxs b)).acc = s.work.acc.filter (fun p => !ks.contains (p.1 / 512)) := by
    rw [← hks]
    rfl
  have hmarks : (v.tileClear c.val x.val (instrIdxs b)).accPoison = s.work.accPoison.filter (fun k => !ks.contains k) := by
    rw [← hks]
    rfl
  refine leads_of_run (execAccClr.eq_1 c x s) halive
    ((Work.issueMac_of_fetches hf _).trans (Work.accClr_eq hf.1 hpos hfit))
    ⟨Work.retired_retireInstr ?_ ?_, fun e => ?_, fun h => ?_, rfl, rfl⟩
  · exact (congrArg Ctx.pc (s.work.ctx_nameIdx c.val x.val _) :)
  · exact Work.ctxState_congr (Work.rd_congr rfl _)
  · rw [Work.retireInstr_acc, hacc, Sp.get_filter s.work.acc (fun k => !ks.contains (k / 512))]
    cases ks.contains (e / 512) <;> rfl
  · rw [Work.retireInstr_accPoison, hmarks, List.mem_filter]
    simp

theorem leads_accAdd {d : List Byte} (halive : s.board.alive = true) (hf : s.work.Fetches c.val x.val 3 b) (hshape : leAt b 1 1 < 3)
    (hsplit : leAt b 1 1 = 2 → (s.work.ctx c.val x.val).split = false) (hsrc : leAt b 8 4 % 32 = 0)
    (hd : s.work.localGet c.val (leAt b 8 4) (4 * tileSize (leAt b 1 1) (s.work.ctx c.val x.val).split) = some (d, false)) :
    Leads (.accAdd c x false) s (fun w => s.work.Retired w c.val x.val ∧
      w.acc = (s.work.tilePut c.val x.val (s.work.ctx c.val x.val).split (leAt b 1 1) (leAt b 4 1)
        (((s.work.tileGet c.val x.val (s.work.ctx c.val x.val).split (leAt b 1 1) (leAt b 4 1)).zipIdx).map (fun q =>
          fadd q.1 (BitVec.ofNat 32 (leAt d (4 * q.2) 4))))).acc ∧
      w.accPoison = s.work.accPoison ∧ w.mem = s.work.mem) := by
  have hinstr := Work.accAdd_eq hf.1 hshape hsplit hsrc hd
  have harray : x.val ≠ 16 := by
    obtain ⟨-, -, -, -, -, hok, hop⟩ := hf
    exact instrOk1_array hok hop (.inr (.inr (.inl rfl)))
  obtain ⟨m, hm⟩ := hinstr
  have hx := x.isLt
  refine leads_of_run (execAccAdd.eq_1 c x false s) halive ((Work.issueMac_of_fetches hf _).trans hm)
    ⟨Work.retired_retireInstr ?_ ?_, rfl, rfl, rfl⟩
  · exact (congrArg Ctx.pc (s.work.ctx_nameIdx c.val x.val _) :)
  · exact ((Work.macCount_kept _ c.val x.val m 0).ctxState (statusReg_not_mem_macRegs _ (by omega))).trans
      (Work.ctxState_congr (Work.rd_congr rfl _))

end

end Sys2Proof.Machine
end

section
/-! ### Rows narrowed to FP32 (R224, R225) -/

namespace Sys2Proof.Machine

/-- The bytes of a value narrowed to FP32. -/
def fp32Bytes (v : FV) : List Byte := toLE 4 (narrowPlain 0 v none).1

theorem NarrowRun.plain_puts (r : NarrowRun) (seq seg : Nat) (vs : List FV) :
    (r.plain 0 false seq seg vs).puts = r.puts ++ [(seg, vs.flatMap fp32Bytes)] := by
  have hvs : (vs.zipIdx).flatMap (fun p => fp32Bytes p.1) = vs.flatMap fp32Bytes := by
    rw [← List.flatMap_map Prod.fst fp32Bytes, List.zipIdx_map_fst]
  rw [← hvs]
  simp only [NarrowRun.plain, Bool.false_eq_true, if_false, List.flatMap_map]
  rfl

/-- Groups of 32 narrowed one after another give the bytes of the values in order. -/
theorem NarrowRun.plain_groups (vs : List FV) (seq : Nat) (r : NarrowRun) (k : Nat) :
    ((List.range k).foldl (fun (r : NarrowRun) g => r.plain 0 false seq 0 ((vs.drop (32 * g)).take 32)) r).puts.flatMap (·.2) =
      r.puts.flatMap (·.2) ++ (vs.take (32 * k)).flatMap fp32Bytes := by
  induction k with
  | zero => simp
  | succ k ih =>
    rw [List.range_succ, List.foldl_append, List.foldl_cons, List.foldl_nil, NarrowRun.plain_puts, List.flatMap_append, ih,
      Nat.mul_succ, List.take_add, List.flatMap_append, List.append_assoc]
    simp

theorem outRowBytes_fp32 (n : Nat) : outRowBytes 0 n = 4 * n := by
  have hwidth : outRowBytes 0 n = n * 32 / 8 := rfl
  omega

theorem narrowTile_fp32 {vs : List FV} (h : vs.length % 32 = 0) (seq n : Nat) (base : Nat → Nat) (e : Est) :
    (narrowTile 0 false seq n base vs e).puts =
      (List.range (vs.length / n)).map (fun i => (base i, sub (vs.flatMap fp32Bytes) (i * (4 * n)) (4 * n))) := by
  have hall := NarrowRun.plain_groups vs seq { est := e } (vs.length / 32)
  rw [show 32 * (vs.length / 32) = vs.length by omega, List.take_length] at hall
  have hplain : scaled 0 = false := rfl
  simp only [narrowTile, hplain, Bool.false_eq_true, if_false, outRowBytes_fp32]
  rw [hall]
  rfl

/-- Writes within scratchpad are their core's. -/
theorem localPuts_spad (c : Nat) {ps : List (Nat × List Byte)} (h : ∀ p ∈ ps, p.1 < 2 ^ 21 ∧ p.1 + p.2.length ≤ 2 ^ 21) :
    localPuts c ps = some (ps.map (fun p => (spadBase c + p.1, p.2))) := by
  induction ps with
  | nil => rfl
  | cons p ps ih =>
    obtain ⟨hlt, hend⟩ := h p List.mem_cons_self
    have hrest := ih fun q hq => h q (List.mem_cons_of_mem _ hq)
    have hok : localOk p.1 p.2.length = true := by rw [localOk, decide_eq_true hend, Bool.true_or]
    unfold localPuts at hrest ⊢
    rw [List.mapM_cons, hrest, if_pos hok, localAddr, if_pos hlt]
    rfl

end Sys2Proof.Machine
end

section
/-! ### ACC_OUT (R187, R196, R205, R208) -/

namespace Sys2Proof.Machine

/-- The bytes of a tile in FP32, in the order of its elements. -/
def Work.tileBytes (w : Work) (c x : Nat) (b : List Byte) : List Byte :=
  (w.tileGet c x (w.ctx c x).split (leAt b 1 1 % 4) (leAt b 4 1)).flatMap (fun v => toLE 4 (narrowPlain 0 (f32 v) none).1)

/-- Rows and columns of the tile of an ACC_OUT. -/
def Work.outMN (w : Work) (c x : Nat) (b : List Byte) : Nat × Nat := shapeMN (leAt b 1 1 % 4) (w.ctx c x).split

/-- A row of an ACC_OUT in FP32: its place in scratchpad and its bytes. -/
def Work.outRow (w : Work) (c x : Nat) (b : List Byte) (i : Nat) : Nat × List Byte :=
  (spadBase c + (leAt b 8 4 + i * leAt b 16 4),
    sub (w.tileBytes c x b) (i * (4 * (w.outMN c x b).2)) (4 * (w.outMN c x b).2))

/-- The rows as writes, of a tile without poison. -/
def Work.outPuts (w : Work) (c x : Nat) (b : List Byte) : List Put :=
  (List.range (w.outMN c x b).1).map (fun i => ((w.outRow c x b i).1, (w.outRow c x b i).2, false))

theorem shapeMN_pos {sh : Nat} (split : Bool) : 0 < (shapeMN sh split).2 ∧ (shapeMN sh split).1 * (shapeMN sh split).2 % 32 = 0 := by
  unfold shapeMN
  split <;> cases split <;> decide

section
variable {w : Work} {c x : Nat} {b : List Byte}

/-- The conditions on an ACC_OUT of a good tile: its shape is one of its context, and no half of its tile is poisoned. -/
structure Work.OutOk (w : Work) (c x : Nat) (b : List Byte) : Prop where
  run : w.ctxState c x = 1
  shape : leAt b 1 1 % 4 < 3
  split : leAt b 1 1 % 4 = 2 → (w.ctx c x).split = false
  clean : w.tilePoisoned c x (leAt b 4 1) = false
  /-- No bias, no stochastic rounding, no CLEAR. -/
  form : (leAt b 1 1).testBit 5 = false ∧ (leAt b 1 1).testBit 6 = false ∧ (leAt b 1 1).testBit 2 = false

/-- The rows lie in scratchpad. -/
structure Work.OutFits (w : Work) (c x : Nat) (b : List Byte) : Prop where
  aligned : leAt b 8 4 % 32 = 0
  fits : leAt b 8 4 + ((w.outMN c x b).1 - 1) * leAt b 16 4 + 4 * (w.outMN c x b).2 ≤ 2 ^ 21

theorem Work.OutFits.row (h : w.OutFits c x b) {i : Nat} (hi : i < (w.outMN c x b).1) :
    leAt b 8 4 + i * leAt b 16 4 < 2 ^ 21 ∧ leAt b 8 4 + i * leAt b 16 4 + 4 * (w.outMN c x b).2 ≤ 2 ^ 21 := by
  obtain ⟨-, hfits⟩ := h
  have hpos : 0 < (w.outMN c x b).2 := (shapeMN_pos _).1
  have hle : i * leAt b 16 4 ≤ ((w.outMN c x b).1 - 1) * leAt b 16 4 := Nat.mul_le_mul_right _ (by omega)
  omega

theorem Work.outMN_pos (w : Work) (c x : Nat) (b : List Byte) : 0 < (w.outMN c x b).2 := (shapeMN_pos _).1

/-- The narrowing of an ACC_OUT in FP32. -/
def Work.outRun (w : Work) (c x : Nat) (b : List Byte) : NarrowRun :=
  narrowTile 0 false (w.rd (GEN_SEQ c)) (w.outMN c x b).2 (fun i => leAt b 8 4 + i * leAt b 16 4)
    ((w.tileGet c x (w.ctx c x).split (leAt b 1 1 % 4) (leAt b 4 1)).map f32) Est.none

theorem Work.outRun_puts (w : Work) (c x : Nat) (b : List Byte) :
    (w.outRun c x b).puts = (List.range (w.outMN c x b).1).map (fun i => (leAt b 8 4 + i * leAt b 16 4, (w.outRow c x b i).2)) := by
  let vs := (w.tileGet c x (w.ctx c x).split (leAt b 1 1 % 4) (leAt b 4 1)).map f32
  have hlen : vs.length = (w.outMN c x b).1 * (w.outMN c x b).2 := (List.length_map _).trans (tileGet_length ..)
  have htile := narrowTile_fp32 (vs := vs) (by rw [hlen]; exact (shapeMN_pos _).2) (w.rd (GEN_SEQ c)) (w.outMN c x b).2
    (fun i => leAt b 8 4 + i * leAt b 16 4) Est.none
  rw [hlen, Nat.mul_div_cancel _ (w.outMN_pos c x b), List.flatMap_map] at htile
  exact htile

theorem Work.localPuts_outRun (h : w.OutFits c x b) :
    localPuts c (w.outRun c x b).puts = some ((List.range (w.outMN c x b).1).map (w.outRow c x b)) := by
  rw [localPuts_spad c, w.outRun_puts, List.map_map]
  · rfl
  · intro p hp
    rw [w.outRun_puts] at hp
    obtain ⟨i, hi, rfl⟩ := List.mem_map.mp hp
    obtain ⟨hlt, hend⟩ := h.row (List.mem_range.mp hi)
    exact ⟨hlt, by rwa [Work.outRow, sub_length]⟩

/-- The places of the rows lie in scratchpad before their bytes are known. -/
theorem Work.localPuts_outPlaces (h : w.OutFits c x b) :
    ∃ ps, localPuts c (((List.range (w.outMN c x b).1).map (fun i =>
      (leAt b 8 4 + i * leAt b 16 4, outRowBytes 0 (w.outMN c x b).2))).map (fun r => (r.1, zeros r.2))) = some ps := by
  refine ⟨_, localPuts_spad c ?_⟩
  intro p hp
  obtain ⟨r, hr, rfl⟩ := List.mem_map.mp hp
  obtain ⟨i, hi, rfl⟩ := List.mem_map.mp hr
  simpa only [outRowBytes_fp32, zeros, List.length_replicate] using h.row (List.mem_range.mp hi)

theorem Work.tilePoisoned_nameIdx (w : Work) (c x : Nat) (idxs : List Nat) (i : Nat) :
    (w.nameIdx c x idxs).tilePoisoned c x i = w.tilePoisoned c x i := by
  rw [Work.tilePoisoned, Work.halves_nameIdx]
  rfl

theorem Work.tileGet_congr {v w : Work} (h : v.acc = w.acc) (c x : Nat) (split : Bool) (shape idx : Nat) :
    v.tileGet c x split shape idx = w.tileGet c x split shape idx := by rw [Work.tileGet, Work.tileGet, h]

/-- An ACC_OUT in FP32 has its rows as its one output (R208). -/
theorem Work.accOut_eq (h : w.OutOk c x b) (hfits : w.OutFits c x b) (hvec : (leAt b 1 1).testBit 4 = false) (hcode : leAt b 2 1 = 0) :
    w.accOut c x false b =
      (w.nameIdx c x [leAt b 4 1]).puts c x ((leAt b 1 1).testBit 3) [w.outPuts c x b]
        (fun v => (v.narrowed c none (w.outRun c x b)).retireInstr c x) := by
  obtain ⟨hrun, hshape, hsplit, hclean, hbias, hround, hclear⟩ := h
  obtain ⟨ps, hplaces⟩ := Work.localPuts_outPlaces hfits
  have hrows := Work.localPuts_outRun hfits
  have hseq : (w.nameIdx c x [leAt b 4 1]).rd (GEN_SEQ c) = w.rd (GEN_SEQ c) := Work.rd_congr rfl _
  have htile : (w.nameIdx c x [leAt b 4 1]).tileGet c x (w.ctx c x).split (leAt b 1 1 % 4) (leAt b 4 1) =
      w.tileGet c x (w.ctx c x).split (leAt b 1 1 % 4) (leAt b 4 1) := Work.tileGet_congr rfl ..
  obtain ⟨haligned, -⟩ := hfits
  unfold Work.outMN at hplaces
  unfold Work.outRun Work.outMN at hrows
  have hputs : ((List.range (w.outMN c x b).1).map (w.outRow c x b)).map (fun q => (q.1, q.2, false)) = w.outPuts c x b :=
    List.map_map
  have hdrain : (w.nameIdx c x [leAt b 4 1]).draining c x = false := (w.draining_nameIdx c x _).trans (Work.draining_of_run hrun)
  have hclean' := (w.tilePoisoned_nameIdx c x [leAt b 4 1] (leAt b 4 1)).trans hclean
  have hnamed : namesEntry 0 false = false := rfl
  unfold Work.accOut
  simp only [Work.draining_of_run hrun, Bool.not_false, Work.when_true, shape_ok hshape hsplit, hbias, hround, hclear, hvec, hcode,
    haligned, hplaces, hclean', hnamed, Bool.false_eq_true, if_false, if_true, Bool.false_and, Bool.or_self, ne_eq, not_true_eq_false,
    hdrain, hseq, htile, hrows]
  rw [← hputs]
  rfl

end

end Sys2Proof.Machine
end

section
/-! ### ACC_OUT to scratchpad, to the log and to the vector unit (R187, R205, R208, R211) -/

namespace Sys2Proof.Machine

/-- The registers that a narrowing without an entry counts in (Table 6-9). -/
def narrowRegs (c : Nat) : List Nat := [SAT_BLK_CNT c, ESC_CNT c, ESC_OVF_CNT c, NONFIN_BLK_CNT c]

theorem Work.narrowed_none_kept (w : Work) (c : Nat) (r : NarrowRun) : RegsKept w (w.narrowed c none r) (narrowRegs c) :=
  ((((RegsKept.refl w _).wr (by simp [narrowRegs]) _).wr (by simp [narrowRegs]) _).wr (by simp [narrowRegs]) _).wr
    (by simp [narrowRegs]) _

theorem statusReg_not_mem_narrowRegs (c x : Nat) : statusReg c x ∉ narrowRegs c := by
  unfold narrowRegs statusReg SAT_BLK_CNT ESC_CNT ESC_OVF_CNT NONFIN_BLK_CNT VEC_STATUS MAC_STATUS coreBase
  simp only [List.mem_cons, List.not_mem_nil, or_false, not_or]
  split_ifs <;> omega

section
variable {w : Work} {c x : Nat} {b : List Byte}

theorem Work.outPuts_sum (w : Work) (c x : Nat) (b : List Byte) :
    ((w.outPuts c x b).map (fun p => p.2.1.length)).sum = (w.outMN c x b).1 * (4 * (w.outMN c x b).2) := by
  simp [Work.outPuts, Work.outRow, Function.comp_def]

theorem Work.outRow_fst (w : Work) (c x : Nat) (b : List Byte) (i : Nat) :
    (w.outRow c x b i).1 = spadBase c + (leAt b 8 4 + i * leAt b 16 4) := by rw [Work.outRow]

theorem le_spadBase_add (c n : Nat) : 2 ^ 40 ≤ spadBase c + n := (le_spadBase c).trans (Nat.le_add_right (spadBase c) n)

theorem le_outRow (w : Work) (c x : Nat) (b : List Byte) (i : Nat) : 2 ^ 40 ≤ (w.outRow c x b i).1 := by
  rw [Work.outRow_fst]
  exact le_spadBase_add c _

theorem Work.putsServe_outPuts (v w : Work) (c x : Nat) (b : List Byte) : v.putsServe (w.outPuts c x b) = true := by
  rw [Work.putsServe, Work.outPuts, List.all_map, List.all_eq_true]
  intro i _
  rw [Function.comp_apply]
  exact (Bool.or_eq_true _ _).mpr (.inl (decide_eq_true (le_outRow w c x b i)))

theorem Work.mem_foldl_store (f : Nat → Nat × List Byte) (l : List Nat) (v : Work) :
    (l.foldl (fun (u : Work) i => u.store (f i).1 (f i).2) v).mem = l.foldl (fun m i => storeCells m (f i).1 (f i).2) v.mem := by
  induction l generalizing v with
  | nil => rfl
  | cons i l ih => exact ih _

/-- Memory after the rows are stored one after another. -/
theorem Work.mem_outPuts (v w : Work) (c x : Nat) (b : List Byte) :
    ((w.outPuts c x b).foldl (fun (u : Work) p => u.putAt p) v).mem =
      (List.range (w.outMN c x b).1).foldl (fun m i => storeCells m (w.outRow c x b i).1 (w.outRow c x b i).2) v.mem := by
  rw [Work.putAts_mem, Work.outPuts, List.foldl_map]
  intro p hp
  obtain ⟨i, -, rfl⟩ := List.mem_map.mp hp
  exact .inr (le_outRow w c x b i)

/-- A narrowing counted and the instruction retired, after writes that kept the units. -/
theorem Work.retired_narrowed {v : Work} (hctx : (v.ctx c x).pc = (w.ctx c x).pc) (hstate : v.ctxState c x = w.ctxState c x)
    (r : NarrowRun) : w.Retired ((v.narrowed c none r).retireInstr c x) c x :=
  Work.retired_retireInstr hctx (((Work.narrowed_none_kept v c r).ctxState (statusReg_not_mem_narrowRegs c x)).trans hstate)

theorem Work.narrowedRetired_frame (v : Work) (c x : Nat) (r : NarrowRun) :
    ((v.narrowed c none r).retireInstr c x).digital = v.digital ∧ ((v.narrowed c none r).retireInstr c x).mem = v.mem ∧
    ((v.narrowed c none r).retireInstr c x).acc = v.acc := ⟨rfl, rfl, rfl⟩

theorem Work.pc_nameIdx (w : Work) (c x : Nat) (idxs : List Nat) : ((w.nameIdx c x idxs).ctx c x).pc = (w.ctx c x).pc :=
  (congrArg Ctx.pc (w.ctx_nameIdx c x idxs) :)

theorem Work.ctxState_nameIdx (w : Work) (c x : Nat) (idxs : List Nat) (d y : Nat) :
    (w.nameIdx c x idxs).ctxState d y = w.ctxState d y := Work.ctxState_congr (Work.rd_congr rfl _)

/-- The tile of an ACC_OUT as the vector unit takes it (R205). -/
def Work.outTile (w : Work) (c x : Nat) (b : List Byte) : VecTile :=
  { shape := leAt b 1 1 % 4, split := (w.ctx c x).split, half := x % 2, poison := false
    words := w.tileGet c x (w.ctx c x).split (leAt b 1 1 % 4) (leAt b 4 1) }

theorem Work.accOut_toVec_eq (h : w.OutOk c x b) (hvec : (leAt b 1 1).testBit 4 = true) (hcode : leAt b 2 1 < 11)
    (hroom : ((w.dig c).queue.filter (fun q => q.1 == x / 2)).length < 4) :
    w.accOut c x false b =
      ((w.nameIdx c x [leAt b 4 1]).setDig c { w.dig c with queue := (w.dig c).queue ++ [(x / 2, w.outTile c x b)] }).retireInstr c x := by
  obtain ⟨hrun, hshape, hsplit, hclean, hbias, hround, hclear⟩ := h
  have hclean' := (w.tilePoisoned_nameIdx c x [leAt b 4 1] (leAt b 4 1)).trans hclean
  have hdrain : (w.nameIdx c x [leAt b 4 1]).draining c x = false := (w.draining_nameIdx c x _).trans (Work.draining_of_run hrun)
  have htile : (w.nameIdx c x [leAt b 4 1]).tileGet c x (w.ctx c x).split (leAt b 1 1 % 4) (leAt b 4 1) =
      w.tileGet c x (w.ctx c x).split (leAt b 1 1 % 4) (leAt b 4 1) := Work.tileGet_congr rfl ..
  have hdig : (w.nameIdx c x [leAt b 4 1]).dig c = w.dig c := Work.dig_congr rfl c
  have hsplit' : ((w.nameIdx c x [leAt b 4 1]).ctx c x).split = (w.ctx c x).split := (congrArg Ctx.split (w.ctx_nameIdx c x _) :)
  unfold Work.accOut
  simp only [Work.draining_of_run hrun, Bool.not_false, Work.when_true, shape_ok hshape hsplit, hbias, hclear, hvec,
    hclean', hdrain, htile, Bool.false_eq_true, if_false, if_true, Bool.false_and, Bool.or_self, Nat.not_le.mpr hcode,
    Work.toVec, hdig, hsplit', Nat.not_le.mpr hroom]
  rfl

end

section
variable (w : Work) (c x : Nat) (b : List Byte)

theorem Work.dig_nameIdx (idxs : List Nat) : (w.nameIdx c x idxs).dig c = w.dig c := Work.dig_congr rfl c

theorem Work.logEnd_nameIdx (idxs : List Nat) : (w.nameIdx c x idxs).logEnd c = w.logEnd c := by
  rw [Work.logEnd, Work.logEnd, Work.dig_nameIdx]
  rfl

theorem Work.outPuts_data : (w.outPuts c x b).flatMap (fun p => p.2.1) =
    (List.range (w.outMN c x b).1).flatMap (fun i => (w.outRow c x b i).2) := List.flatMap_map ..

/-- The record of a deferred ACC_OUT (R211). -/
theorem Work.recordOf_outPuts (slot seq : Nat) :
    recordOf slot x seq (w.outPuts c x b) =
      { slot := slot, ctx := x, seq := seq, parts := (List.range (w.outMN c x b).1).map (w.outRow c x b), poison := false } := by
  simp [recordOf, Work.outPuts, Function.comp_def]

end

/-! The bits of the flags of an ACC_OUT that is plain, deferred, or to the vector unit. -/

theorem flags_plain : ∀ f < 3, f.testBit 5 = false ∧ f.testBit 6 = false ∧ f.testBit 2 = false ∧ f.testBit 4 = false ∧
    f.testBit 3 = false := by decide

theorem flags_deferred {f : Nat} (h1 : 8 ≤ f) (h2 : f < 11) :
    f.testBit 5 = false ∧ f.testBit 6 = false ∧ f.testBit 2 = false ∧ f.testBit 4 = false ∧ f.testBit 3 = true := by
  interval_cases f <;> decide

theorem flags_toVec {f : Nat} (h1 : 16 ≤ f) (h2 : f < 19) :
    f.testBit 5 = false ∧ f.testBit 6 = false ∧ f.testBit 2 = false ∧ f.testBit 4 = true := by
  interval_cases f <;> decide

section
variable {s : State} {c : Fin 1024} {x : Fin 17} {b : List Byte}

/-- An ACC_OUT of a good tile in FP32 stores its rows in scratchpad (R208). -/
theorem leads_accOut (halive : s.board.alive = true) (hf : s.work.Fetches c.val x.val 4 b) (hok : s.work.OutOk c.val x.val b)
    (hfits : s.work.OutFits c.val x.val b) (hcode : leAt b 2 1 = 0) (hplain : leAt b 1 1 < 3) :
    Leads (.accOut c x false) s (fun w => s.work.Retired w c.val x.val ∧ w.acc = s.work.acc ∧
      w.mem = ((List.range (s.work.outMN c.val x.val b).1).foldl
        (fun (v : Work) i => v.store (s.work.outRow c.val x.val b i).1 (s.work.outRow c.val x.val b i).2) s.work).mem) := by
  obtain ⟨-, -, -, hvec, hdefer⟩ := flags_plain _ hplain
  have hkept := (s.work.nameIdx c.val x.val [leAt b 4 1]).putAts_memKept (s.work.outPuts c.val x.val b)
  have hmem := Work.mem_outPuts (s.work.nameIdx c.val x.val [leAt b 4 1]) s.work c.val x.val b
  have hinstr := Work.accOut_eq hok hfits hvec hcode
  rw [hdefer, Work.puts_now_one _ (Work.putsServe_outPuts _ s.work c.val x.val b)] at hinstr
  generalize (s.work.outPuts c.val x.val b).foldl (fun (u : Work) p => u.putAt p) _ = v at hkept hmem hinstr
  refine leads_of_run (execAccOut.eq_1 c x false s) halive ((Work.issueMac_of_fetches hf _).trans hinstr)
    ⟨Work.retired_narrowed (by rw [hkept.ctx, Work.pc_nameIdx]) (by rw [hkept.ctxState _ x.isLt, Work.ctxState_nameIdx]) _, hkept.acc, ?_⟩
  rw [Work.mem_foldl_store, Work.retireInstr_mem]
  exact hmem

/-- A deferred ACC_OUT is one record of the log, written behind its header (R211). -/
theorem leads_accOut_deferred (halive : s.board.alive = true) (hf : s.work.Fetches c.val x.val 4 b) (hok : s.work.OutOk c.val x.val b)
    (hfits : s.work.OutFits c.val x.val b) (hcode : leAt b 2 1 = 0) (h1 : 8 ≤ leAt b 1 1) (h2 : leAt b 1 1 < 11) :
    let m := (s.work.outMN c.val x.val b).1
    let len := m * (4 * (s.work.outMN c.val x.val b).2)
    let n := 64 + ceilDiv len 64 * 64
    (s.work.dig c.val).logUsed + n ≤ 4096 * s.work.fld (DLOG_SIZE c.val) 0 20 →
    s.work.rangeServes (s.work.logEnd c.val) n = true → inStacks (s.work.logEnd c.val) n = true →
    Leads (.accOut c x false) s (fun w => s.work.Retired w c.val x.val ∧ w.acc = s.work.acc ∧
      (w.dig c.val).log = (s.work.dig c.val).log ++
        [{ slot := (s.work.ctx c.val x.val).job.getD 0, ctx := x.val, seq := (s.work.dig c.val).logSeq,
           parts := (List.range m).map (s.work.outRow c.val x.val b), poison := false }] ∧
      w.bytes (s.work.logEnd c.val + 64) len = (List.range m).flatMap (fun i => (s.work.outRow c.val x.val b i).2) ∧
      (∀ a, a < s.work.logEnd c.val ∨ s.work.logEnd c.val + n ≤ a → w.byte a = s.work.byte a)) := by
  intro m len n hroom hserves hin
  obtain ⟨-, -, -, hvec, hdefer⟩ := flags_deferred h1 h2
  have hsize : logBytes [s.work.outPuts c.val x.val b] = n := by rw [logBytes_one, recBytes, Work.outPuts_sum]
  have hone : recBytes (s.work.outPuts c.val x.val b) = n := by rw [← logBytes_one, hsize]
  have hend := s.work.logEnd_nameIdx c.val x.val [leAt b 4 1]
  have hdig := s.work.dig_nameIdx c.val x.val [leAt b 4 1]
  have hjob : ((s.work.nameIdx c.val x.val [leAt b 4 1]).ctx c.val x.val).job = (s.work.ctx c.val x.val).job := by
    rw [Work.ctx_nameIdx]
    rfl
  have hkept := (s.work.nameIdx c.val x.val [leAt b 4 1]).logPuts_logKept c.val x.val [s.work.outPuts c.val x.val b]
  have hlog := congrArg Digital.log
    ((s.work.nameIdx c.val x.val [leAt b 4 1]).logPuts_dig c.val x.val [s.work.outPuts c.val x.val b])
  rw [← hend] at hserves hin
  have hbytes := (s.work.nameIdx c.val x.val [leAt b 4 1]).bytes_logPuts_one x.val (hone ▸ hin)
  have hapart := fun a => (s.work.nameIdx c.val x.val [leAt b 4 1]).byte_logPuts_apart x.val (hsize ▸ hin) (a := a)
  have hinstr := Work.accOut_eq hok hfits hvec hcode
  rw [hdefer, Work.puts_logged _ (by rwa [hdig, hsize]) (hsize ▸ hserves)] at hinstr
  rw [hend, hsize] at hapart
  rw [hend, Work.outPuts_sum, s.work.outPuts_data] at hbytes
  rw [hjob, hdig, recordsOf_one, s.work.recordOf_outPuts] at hlog
  generalize (s.work.nameIdx c.val x.val [leAt b 4 1]).logPuts c.val x.val _ = v at hkept hlog hbytes hapart hinstr
  obtain ⟨hdigital, hmem, hacc⟩ := v.narrowedRetired_frame c.val x.val (s.work.outRun c.val x.val b)
  refine leads_of_run (execAccOut.eq_1 c x false s) halive ((Work.issueMac_of_fetches hf _).trans hinstr)
    ⟨Work.retired_narrowed (by rw [hkept.ctx, Work.pc_nameIdx])
      (by rw [hkept.ctxState x.isLt, Work.ctxState_nameIdx]) _, hacc.trans hkept.acc, ?_, ?_, fun a ha => ?_⟩
  · rw [Work.dig_congr hdigital, hlog]
  · rw [Work.bytes_congr hmem, hbytes]
  · rw [Work.byte_congr hmem, hapart a ha]
    exact Work.byte_congr rfl a

end

section
variable {w : Work} {c x : Nat} {b : List Byte}

/-- An ACC_OUT to the vector unit enters its queue and changes nothing else of memory and accumulators (R205). -/
theorem Work.accOut_toVec_spec (hok : w.OutOk c x b) (hcode : leAt b 2 1 < 11) (h1 : 16 ≤ leAt b 1 1) (h2 : leAt b 1 1 < 19)
    (hroom : ((w.dig c).queue.filter (fun q => q.1 == x / 2)).length < 4) :
    let v := w.accOut c x false b
    w.Retired v c x ∧ v.acc = w.acc ∧ v.mem = w.mem ∧ (v.dig c).queue = (w.dig c).queue ++ [(x / 2, w.outTile c x b)] := by
  obtain ⟨-, -, -, hvec⟩ := flags_toVec h1 h2
  rw [Work.accOut_toVec_eq hok hvec hcode hroom]
  refine ⟨Work.retired_retireInstr ?_ ?_, ?_, ?_, ?_⟩
  · rw [Work.ctx_congr (Work.setDig_ctxs ..), Work.pc_nameIdx]
  · rw [Work.ctxState_congr (Work.rd_congr (Work.setDig_regs ..) _), Work.ctxState_nameIdx]
  · rw [Work.retireInstr_acc, Work.setDig_acc, Work.nameIdx, Work.setCtx_acc]
  · rw [Work.retireInstr_mem, Work.setDig_mem, Work.nameIdx, Work.setCtx_mem]
  · rw [Work.dig_congr (Work.retireInstr_digital ..), Work.dig_setDig_same]

theorem Work.outOk_of_fetches (h : w.Fetches c x 4 b) (hshape : leAt b 1 1 % 4 < 3)
    (hsplit : leAt b 1 1 % 4 = 2 → (w.ctx c x).split = false) (hclean : w.tilePoisoned c x (leAt b 4 1) = false)
    (hform : (leAt b 1 1).testBit 5 = false ∧ (leAt b 1 1).testBit 6 = false ∧ (leAt b 1 1).testBit 2 = false) : w.OutOk c x b :=
  ⟨h.1, hshape, hsplit, hclean, hform⟩

end

section
variable {s : State} {c : Fin 1024} {x : Fin 17} {b : List Byte}

theorem leads_accOut_toVec (halive : s.board.alive = true) (hf : s.work.Fetches c.val x.val 4 b) (hok : s.work.OutOk c.val x.val b)
    (hcode : leAt b 2 1 = 0) (h1 : 16 ≤ leAt b 1 1) (h2 : leAt b 1 1 < 19)
    (hroom : ((s.work.dig c.val).queue.filter (fun q => q.1 == x.val / 2)).length < 4) :
    Leads (.accOut c x false) s (fun w => s.work.Retired w c.val x.val ∧ w.acc = s.work.acc ∧ w.mem = s.work.mem ∧
      (w.dig c.val).queue = (s.work.dig c.val).queue ++ [(x.val / 2, s.work.outTile c.val x.val b)]) :=
  leads_of_run (execAccOut.eq_1 c x false s) halive (Work.issueMac_of_fetches hf _)
    (Work.accOut_toVec_spec hok (by rw [hcode]; decide) h1 h2 hroom)

/-- An ACC_OUT that waited for the queue enters it once it holds fewer than four tiles of the array (R205). -/
theorem leads_toVecQueueResume (halive : s.board.alive = true) (hstalled : (s.work.ctx c.val x.val).stalled = true)
    (hf : (s.work.unstalled c.val x.val).Fetches c.val x.val 4 b) (hok : (s.work.unstalled c.val x.val).OutOk c.val x.val b)
    (hcode : leAt b 2 1 < 11) (h1 : 16 ≤ leAt b 1 1) (h2 : leAt b 1 1 < 19)
    (hroom : ((s.work.dig c.val).queue.filter (fun q => q.1 == x.val / 2)).length < 4) :
    Leads (.toVecQueueResume c x) s (fun w => s.work.Retired w c.val x.val ∧ w.mem = s.work.mem ∧
      (w.dig c.val).queue = (s.work.dig c.val).queue ++ [(x.val / 2, s.work.outTile c.val x.val b)]) := by
  have hdig : (s.work.unstalled c.val x.val).dig c.val = s.work.dig c.val := Work.dig_congr rfl _
  have htile : (s.work.unstalled c.val x.val).outTile c.val x.val b = s.work.outTile c.val x.val b := by
    rw [Work.outTile, Work.outTile, Work.tileGet_congr (v := s.work.unstalled c.val x.val) (w := s.work) rfl,
      show ((s.work.unstalled c.val x.val).ctx c.val x.val).split = (s.work.ctx c.val x.val).split by
        rw [Work.unstalled, Work.ctx_setCtx_same]]
  obtain ⟨hret, -, hmem, hqueue⟩ := Work.accOut_toVec_spec hok hcode h1 h2 (by rwa [hdig])
  rw [hdig, htile] at hqueue
  obtain ⟨-, -, -, hvec⟩ := flags_toVec h1 h2
  have hop : leAt b 0 1 = 4 := by
    obtain ⟨-, -, -, -, -, -, hop⟩ := hf
    exact hop
  have hnext := Work.nextInstr_of_fetches hf
  refine leads_of_run (w := (s.work.unstalled c.val x.val).accOut c.val x.val false b) (execToVecQueueResume.eq_1 c x s) halive ?_
    ⟨hret.of_unstalled, hmem, hqueue⟩
  unfold Work.unstalled at hnext ⊢
  simp only [hstalled, Bool.not_true, Bool.false_eq_true, if_false, hnext, hop, hvec, and_self, if_true]

end

/-- Settles O16: each array instruction by its tiles, its rows and the queue it enters. -/
theorem accumulatorInstructionsRun : Obligations.AccumulatorInstructionsRun := by
  refine ⟨?clear, ?add, ?out, ?resume⟩
  case clear => exact fun s c x b halive hf hpos hfit => leads_accClr halive hf hpos hfit
  case add => exact fun s c x b d halive hf hshape hsplit hsrc hd => leads_accAdd halive hf hshape hsplit hsrc hd
  case out =>
    intro s c x b halive hf k sh mn old all dst row hshape hsplit hcode hclean haligned hfits
    have hfit : s.work.OutFits c.val x.val b := ⟨haligned, hfits⟩
    refine ⟨fun hplain => ?_, fun h1 h2 => ?_, fun h1 h2 hroom => ?_⟩
    · obtain ⟨h5, h6, h7, -, -⟩ := flags_plain _ hplain
      exact leads_accOut halive hf (Work.outOk_of_fetches hf hshape hsplit hclean ⟨h5, h6, h7⟩) hfit hcode hplain
    · obtain ⟨h5, h6, h7, -, -⟩ := flags_deferred h1 h2
      exact leads_accOut_deferred halive hf (Work.outOk_of_fetches hf hshape hsplit hclean ⟨h5, h6, h7⟩) hfit hcode h1 h2
    · obtain ⟨h5, h6, h7, -⟩ := flags_toVec h1 h2
      exact leads_accOut_toVec halive hf (Work.outOk_of_fetches hf hshape hsplit hclean ⟨h5, h6, h7⟩) hcode h1 h2 hroom
  case resume =>
    intro s c x b halive k sh hstalled hf h1 h2 hshape hsplit hcode hclean hroom
    obtain ⟨h5, h6, h7, -⟩ := flags_toVec h1 h2
    have hctx : (s.work.unstalled c.val x.val).ctx c.val x.val = { s.work.ctx c.val x.val with stalled := false } :=
      Work.ctx_setCtx_same _ _ _ _
    have hok : (s.work.unstalled c.val x.val).OutOk c.val x.val b := by
      refine Work.outOk_of_fetches hf hshape (fun h => ?_) ?_ ⟨h5, h6, h7⟩
      · rw [hctx]
        exact hsplit h
      · rw [Work.tilePoisoned, hctx]
        exact hclean
    exact leads_toVecQueueResume halive hstalled hf hok hcode h1 h2 hroom

end Sys2Proof.Machine
end

section
/-! ### What a kernel reads and writes leaves alone (R203, R223) -/

namespace Sys2Proof.Machine

/-- What each step of a fold that may fail keeps, a fold that ends keeps. -/
theorem foldlM_some_keeps {α β : Type} {f : β → α → Option β} {P : β → Prop} (hf : ∀ b a b', P b → f b a = some b' → P b')
    (l : List α) {b b' : β} (hb : P b) (h : l.foldlM f b = some b') : P b' := by
  induction l generalizing b with
  | nil =>
    cases h
    exact hb
  | cons a l ih =>
    rw [List.foldlM_cons] at h
    obtain ⟨d, hd, hrest⟩ := Option.bind_eq_some_iff.mp h
    exact ih (hf b a d hb hd) hrest

section
variable {w : Work} {c : Nat}

theorem Work.kget_memKept {a n : Nat} {r : List Byte × Bool × Work} (h : w.kget c a n = some r) : w.MemKept r.2.2 := by
  unfold Work.kget at h
  split at h
  · cases h
    exact w.hbmGet_memKept _ _
  · obtain ⟨p, -, rfl⟩ := Option.map_eq_some_iff.mp h
    exact .refl w
  · cases h

theorem kgets_memKept {rs : List (Nat × Nat)} {r : List (List Byte) × Bool × Work} (h : kgets c rs w = some r) : w.MemKept r.2.2 := by
  induction rs generalizing w r with
  | nil =>
    cases h
    exact .refl w
  | cons p rs ih =>
    unfold kgets at h
    split at h
    · cases h
    · rename_i hget
      obtain ⟨t, ht, rfl⟩ := Option.map_eq_some_iff.mp h
      exact (Work.kget_memKept hget).trans (ih (r := t) ht)

theorem Work.kseg_memKept {code seg : Nat} {scl : Option Nat} {r : Seg × Work} (h : w.kseg c code seg scl = some r) : w.MemKept r.2 := by
  unfold Work.kseg at h
  dsimp only at h
  split at h
  · rename_i hget
    cases h
    exact Work.kget_memKept hget
  · cases h

theorem Work.ktensor_memKept {t : Tensor} {n : Nat} {r : List Word × Bool × Work} (h : w.ktensor c t n = some r) : w.MemKept r.2.2 := by
  unfold Work.ktensor at h
  split at h
  · obtain ⟨q, hq, rfl⟩ := Option.map_eq_some_iff.mp h
    refine foldlM_some_keeps (b' := q) (P := fun q : List Word × Bool × Work => w.MemKept q.2.2) (fun q s q' hkept hs => ?_) _ (.refl w) hq
    obtain ⟨g, hg, rfl⟩ := Option.map_eq_some_iff.mp hs
    exact hkept.trans (Work.kseg_memKept hg)
  · obtain ⟨q, hq, rfl⟩ := Option.map_eq_some_iff.mp h
    exact Work.kget_memKept hq

theorem ktensors_memKept {ts : List (Tensor × Nat)} {r : List (List Word) × Bool × Work} (h : ktensors c ts w = some r) :
    w.MemKept r.2.2 := by
  induction ts generalizing w r with
  | nil =>
    cases h
    exact .refl w
  | cons t ts ih =>
    unfold ktensors at h
    split at h
    · cases h
    · rename_i hget
      obtain ⟨q, hq, rfl⟩ := Option.map_eq_some_iff.mp h
      exact (Work.ktensor_memKept hget).trans (ih (r := q) hq)

theorem Work.bandBlock_memKept {o : Opd} {base band cb : Nat} {r : List (List Word) × Bool × Work}
    (h : w.bandBlock c o base band cb = some r) : w.MemKept r.2.2 := by
  refine foldlM_some_keeps (P := fun q : List (List Word) × Bool × Work => w.MemKept q.2.2) (fun q i q' hkept hs => ?_) _ (.refl w) h
  dsimp only at hs
  split at hs
  · rename_i hseg
    cases hs
    exact hkept.trans (Work.kseg_memKept hseg)
  · cases hs

theorem Work.localPut_memKept (w : Work) (c a : Nat) (bs : List Byte) (p : Bool) : w.MemKept (w.localPut c a bs p) := by
  unfold Work.localPut
  split
  · split
    · exact w.put_memKept _ bs p
    · exact .refl w
  · exact .refl w

/-- The writes of a kernel, none of them poisoned. -/
def Work.putClean (w : Work) (qs : List (Nat × List Byte)) : Work := qs.foldl (fun (u : Work) q => u.putAt (q.1, q.2, false)) w

theorem Work.putClean_memKept (w : Work) (qs : List (Nat × List Byte)) : w.MemKept (w.putClean qs) :=
  .foldl (fun v _ => v.putAt_memKept _) qs w

theorem Work.kwrite_memKept {ps : List (Nat × List Byte)} {v : Work} (h : w.kwrite c ps = some v) : w.MemKept v := by
  obtain ⟨qs, -, rfl⟩ := Option.map_eq_some_iff.mp h
  exact w.putClean_memKept qs

/-! A read leaves memory. -/

theorem Work.mem_when_unmapped (w : Work) (b : Bool) : (w.when b Work.unmapped).mem = w.mem := by cases b <;> rfl

theorem Work.hbmGet_mem (w : Work) (a n : Nat) : (w.hbmGet a n).2.2.mem = w.mem := by
  unfold Work.hbmGet
  split
  · exact w.readsStack_mem a n
  · refine (Work.mem_when_unmapped _ _).trans (List.foldlRecOn
      (motive := fun (r : List Byte × Bool × Bool × Work) => r.2.2.2.mem = w.mem) _ _ rfl fun r hr p _ => ?_)
    dsimp only
    split
    · exact (Work.readsStack_mem _ _ _).trans hr
    · exact hr
    · exact hr

theorem Work.kget_mem {a n : Nat} {r : List Byte × Bool × Work} (h : w.kget c a n = some r) : r.2.2.mem = w.mem := by
  unfold Work.kget at h
  split at h
  · cases h
    exact w.hbmGet_mem _ _
  · obtain ⟨p, -, rfl⟩ := Option.map_eq_some_iff.mp h
    rfl
  · cases h

theorem kgets_mem {rs : List (Nat × Nat)} {r : List (List Byte) × Bool × Work} (h : kgets c rs w = some r) : r.2.2.mem = w.mem := by
  induction rs generalizing w r with
  | nil =>
    cases h
    rfl
  | cons p rs ih =>
    unfold kgets at h
    split at h
    · cases h
    · rename_i hget
      obtain ⟨t, ht, rfl⟩ := Option.map_eq_some_iff.mp h
      exact (ih (r := t) ht).trans (Work.kget_mem hget)

end

end Sys2Proof.Machine
end

section
/-! ### The frame of a vector kernel: parameters, inputs, outputs, counts (R199, R203, R326, Table 6-9) -/

namespace Sys2Proof.Machine

section
variable {w : Work} {c : Nat} {b : List Byte}

theorem Work.kernelPar_eq {n align : Nat} {p : List Byte} (ha : leAt b 8 4 % align = 0)
    (hp : w.localGet c (leAt b 8 4) n = some (p, false)) (f : List Byte → Work) : w.kernelPar c b n align f = f p := by
  simp only [Work.kernelPar, ha, if_true, hp, Bool.false_and, Bool.false_eq_true, if_false]

theorem Work.kernelAligned_eq {as_ : List Nat} (h : as_.all kaligned = true) (f : Work) : w.kernelAligned c as_ f = f := if_pos h

theorem Work.tensorsIn_eq {ts : List (Tensor × Nat)} {xs : List (List Word)} {v : Work} (hrun : w.ctxState c 16 = 1)
    (hserves : w.kserves c (ts.flatMap (fun t => tensorRanges t.1 t.2)) = true) (hts : ktensors c ts w = some (xs, false, v))
    (f : List (List Word) → Work → Work) : w.tensorsIn c ts f = f xs v := by
  simp only [Work.tensorsIn, Work.draining_of_run hrun, hserves, hts, Bool.not_true, Bool.false_eq_true, if_false]

theorem Work.kernelIn_eq {rs : List (Nat × Nat)} {bs : List (List Byte)} {v : Work} (hrun : w.ctxState c 16 = 1)
    (hserves : w.kserves c rs = true) (hrs : kgets c rs w = some (bs, false, v)) (f : List (List Byte) → Work → Work) :
    w.kernelIn c rs f = f bs v := by
  simp only [Work.kernelIn, Work.draining_of_run hrun, hserves, hrs, Bool.not_true, Bool.false_eq_true, if_false]

section
variable {os qs : List (List (Nat × List Byte))} (hrun : w.ctxState c 16 = 1) (hqs : os.mapM (kputs c) = some qs) (done : Work → Work)
include hrun hqs

theorem Work.kernelOut_now (hserve : w.putsServe (qs.flatten.map (fun q => (q.1, q.2, false))) = true) :
    w.kernelOut c false os done = (done (w.putClean qs.flatten)).retireInstr c 16 := by
  rw [Work.putClean, ← List.foldl_map (f := fun q : Nat × List Byte => ((q.1, q.2, false) : Put)) (g := fun (u : Work) p => u.putAt p)]
  rw [List.map_flatten] at hserve ⊢
  simp only [Work.kernelOut, hqs, Work.draining_of_run hrun, Bool.false_eq_true, if_false]
  exact Work.puts_now _ hserve

theorem Work.kernelOut_logged
    (hfit : (w.dig c).logUsed + logBytes (qs.map (·.map (fun q => (q.1, q.2, false)))) ≤ 4096 * w.fld (DLOG_SIZE c) 0 20)
    (hserve : w.rangeServes (w.logEnd c) (logBytes (qs.map (·.map (fun q => (q.1, q.2, false))))) = true) :
    w.kernelOut c true os done = (done (w.logPuts c 16 (qs.map (·.map (fun q => (q.1, q.2, false)))))).retireInstr c 16 := by
  simp only [Work.kernelOut, hqs, Work.draining_of_run hrun, Bool.false_eq_true, if_false]
  exact Work.puts_logged _ hfit hserve

end

end

/-! The counts of a kernel. -/

/-- The registers in which a kernel counts (Tables 5-13 and 6-9). -/
def kernelRegs (c : Nat) : List Nat := VEC_NONFINITE_CNT c :: narrowRegs c

/-- Between two states only counts of a kernel differ. -/
structure Work.Counted (w v : Work) (c : Nat) : Prop where
  rest : v = { w with regs := v.regs }
  regs : RegsKept w v (kernelRegs c)

namespace Work.Counted

variable {u v w : Work} {c : Nat}

theorem refl (w : Work) (c : Nat) : w.Counted w c := ⟨rfl, .refl w _⟩

theorem incBy (h : w.Counted v c) {a : Nat} (ha : a ∈ kernelRegs c) (n : Nat) : w.Counted (v.incBy a n) c :=
  ⟨by rw [h.rest]; rfl, h.regs.wr ha _⟩

theorem mem (h : w.Counted v c) : v.mem = w.mem := (congrArg Work.mem h.rest :)
theorem acc (h : w.Counted v c) : v.acc = w.acc := (congrArg Work.acc h.rest :)
theorem digital (h : w.Counted v c) : v.digital = w.digital := (congrArg Work.digital h.rest :)
theorem ctx (h : w.Counted v c) (d x : Nat) : v.ctx d x = w.ctx d x := Work.ctx_congr (congrArg Work.ctxs h.rest :) d x

theorem ctxState (h : w.Counted v c) (x : Nat) : v.ctxState c x = w.ctxState c x := by
  refine h.regs.ctxState ?_
  unfold kernelRegs narrowRegs statusReg VEC_NONFINITE_CNT SAT_BLK_CNT ESC_CNT ESC_OVF_CNT NONFIN_BLK_CNT VEC_STATUS MAC_STATUS coreBase
  simp only [List.mem_cons, List.not_mem_nil, or_false, not_or]
  split_ifs <;> omega

end Work.Counted

section
variable {v w : Work} {c : Nat}

theorem Work.Counted.narrowed_none (h : w.Counted v c) (r : NarrowRun) : w.Counted (v.narrowed c none r) c :=
  (((h.incBy (by simp [kernelRegs, narrowRegs]) _).incBy (by simp [kernelRegs, narrowRegs]) _).incBy
    (by simp [kernelRegs, narrowRegs]) _).incBy (by simp [kernelRegs, narrowRegs]) _

theorem Work.Counted.countNonfin (h : w.Counted v c) (ws : List Word) : w.Counted (v.countNonfin c ws) c :=
  h.incBy (by simp [kernelRegs]) _

/-- The counts that output tensors leave. -/
def Work.tensorsCounted (w : Work) (c : Nat) (os : List (Tensor × List Word)) : Work :=
  ((os.map (fun o => tensorNarrow o.1 o.2)).foldl (fun (u : Work) r => u.narrowed c none r) w).countNonfin c (os.flatMap (·.2))

theorem Work.tensorsCounted_counted (w : Work) (c : Nat) (os : List (Tensor × List Word)) : w.Counted (w.tensorsCounted c os) c :=
  (List.foldlRecOn (motive := fun u : Work => w.Counted u c) _ _ (.refl w c) fun _ hu r _ => hu.narrowed_none r).countNonfin _

theorem VEC_NONFINITE_CNT_not_mem_narrowRegs (c : Nat) : VEC_NONFINITE_CNT c ∉ narrowRegs c := by
  simp [narrowRegs, VEC_NONFINITE_CNT, SAT_BLK_CNT, ESC_CNT, ESC_OVF_CNT, NONFIN_BLK_CNT]

/-- Outputs that are infinite or NaN are counted (Table 5-13). -/
theorem Work.rd_tensorsCounted (w : Work) (c : Nat) (os : List (Tensor × List Word)) :
    (w.tensorsCounted c os).rd (VEC_NONFINITE_CNT c) =
      min (w.rd (VEC_NONFINITE_CNT c) + ((os.flatMap (·.2)).filter (fun v => !ffinite v)).length) 0xFFFFFFFF := by
  have hkept : RegsKept w ((os.map (fun o => tensorNarrow o.1 o.2)).foldl (fun (u : Work) r => u.narrowed c none r) w) (narrowRegs c) :=
    List.foldlRecOn (motive := fun u : Work => RegsKept w u (narrowRegs c)) _ _ (.refl w _)
      fun u hu r _ => hu.trans (u.narrowed_none_kept c r)
  rw [Work.tensorsCounted, Work.countNonfin, Work.rd_incBy_same, hkept.rd (VEC_NONFINITE_CNT_not_mem_narrowRegs c)]

/-- A kernel that wrote its tensors and retires. -/
theorem Work.tensorsOut_eq {os : List (Tensor × List Word)} {qs : List (List (Nat × List Byte))} (hrun : w.ctxState c 16 = 1)
    (hqs : (os.map (fun o => (tensorNarrow o.1 o.2).puts)).mapM (kputs c) = some qs)
    (hserve : w.putsServe (qs.flatten.map (fun q => (q.1, q.2, false))) = true) :
    w.tensorsOut c os = ((w.putClean qs.flatten).tensorsCounted c os).retireInstr c 16 := by
  rw [Work.tensorsOut]
  exact Work.kernelOut_now hrun (by rwa [List.map_map]) _ hserve

/-- A kernel retires after what it read, wrote and counted. -/
theorem Work.MemKept.kernel_retired {u : Work} (h : w.MemKept v) (hcount : v.Counted u c) : w.Retired (u.retireInstr c 16) c 16 :=
  Work.retired_retireInstr (by rw [hcount.ctx, h.ctx]) (by rw [hcount.ctxState, h.ctxState c (by decide)])

theorem Work.MemKept.kernel_acc {u : Work} (h : w.MemKept v) (hcount : v.Counted u c) : (u.retireInstr c 16).acc = w.acc :=
  (Work.retireInstr_acc ..).trans (hcount.acc.trans h.acc)

theorem Work.MemKept.kernel_digital {u : Work} (h : w.MemKept v) (hcount : v.Counted u c) :
    (u.retireInstr c 16).digital = w.digital := (Work.retireInstr_digital ..).trans (hcount.digital.trans h.digital)

theorem inUnits_VEC_NONFINITE_CNT (c : Nat) : InUnits (VEC_NONFINITE_CNT c) := inUnits_coreBase c (by decide) (by decide)

end

end Sys2Proof.Machine
end

section
/-! ### ELEMWISE and ROWNORM (Table 5-7, R204, R206) -/

namespace Sys2Proof.Machine

theorem zipIdx_map_range {α : Type} (f : Nat → α) (n : Nat) :
    ((List.range n).map f).zipIdx = (List.range n).map (fun i => (f i, i)) := by
  refine List.ext_getElem (by simp) fun i h1 h2 => ?_
  simp

theorem mapM_kputs_one {c : Nat} {o q : List (Nat × List Byte)} (h : kputs c o = some q) : [o].mapM (kputs c) = some [q] := by
  simp [h]

section
variable {s : State} {c : Fin 1024} {b pb : List Byte}

/-- The output of ELEMWISE element by element (Table 5-7). -/
def elemOut (p : ElemPar) (xs : List (List Word)) : List Word :=
  (List.range p.n).map (fun i => elemOp p.op (wAt (xs.getD 0 []) i) (wAt (xs.getD 1 []) i) (wAt (xs.getD 2 []) i) (wAt (xs.getD 1 []) 0))

theorem Work.elemwise_eq {w : Work} {c : Nat} {p : ElemPar} {xs : List (List Word)} {v : Work} (hrun : w.ctxState c 16 = 1)
    (ha : leAt b 8 4 % 32 = 0) (hp : w.localGet c (leAt b 8 4) 32 = some (pb, false))
    (haligned : (tensorAddrs (p.dst :: (elemIns p).map (·.1))).all kaligned = true)
    (hserves : w.kserves c ((elemIns p).flatMap (fun t => tensorRanges t.1 t.2)) = true)
    (hts : ktensors c (elemIns p) w = some (xs, false, v)) : w.elemwise c p b = v.tensorsOut c [(p.dst, elemOut p xs)] := by
  rw [Work.elemwise, Work.kernelPar_eq ha hp, Work.kernelAligned_eq haligned, Work.tensorsIn_eq hrun hserves hts]
  rfl

theorem leads_elemwise {p : ElemPar} {xs : List (List Word)} {v : Work} {qs : List (Nat × List Byte)} (halive : s.board.alive = true)
    (hf : s.work.Fetches c.val 16 16 b) (hk : leAt b 4 1 = 1) (ha : leAt b 8 4 % 32 = 0)
    (hp : s.work.localGet c.val (leAt b 8 4) 32 = some (pb, false))
    (haligned : (tensorAddrs (p.dst :: (elemIns p).map (·.1))).all kaligned = true)
    (hserves : s.work.kserves c.val ((elemIns p).flatMap (fun t => tensorRanges t.1 t.2)) = true)
    (hts : ktensors c.val (elemIns p) s.work = some (xs, false, v))
    (hqs : kputs c.val (tensorNarrow p.dst (elemOut p xs)).puts = some qs)
    (hserve : v.putsServe (qs.map (fun q => (q.1, q.2, false))) = true) :
    Leads (.elemwise c p) s (fun w => w.mem = (v.putClean qs).mem ∧
      w.rd (VEC_NONFINITE_CNT c.val) =
        min (s.work.rd (VEC_NONFINITE_CNT c.val) + ((elemOut p xs).filter (fun x => !ffinite x)).length) 0xFFFFFFFF ∧
      s.work.Retired w c.val 16 ∧ w.acc = s.work.acc ∧ w.digital = s.work.digital) := by
  have hin := ktensors_memKept hts
  have hkept := hin.trans (v.putClean_memKept qs)
  have hrun : v.ctxState c.val 16 = 1 := (hin.ctxState c.val (by decide)).trans hf.1
  have hout := Work.tensorsOut_eq (os := [(p.dst, elemOut p xs)]) hrun (mapM_kputs_one hqs) (by rwa [List.flatten_singleton])
  rw [List.flatten_singleton] at hout
  have hcount := (v.putClean qs).tensorsCounted_counted c.val [(p.dst, elemOut p xs)]
  have hrd := (v.putClean qs).rd_tensorsCounted c.val [(p.dst, elemOut p xs)]
  rw [List.flatMap_singleton, hkept.rd (inUnits_VEC_NONFINITE_CNT c.val)] at hrd
  dsimp only at hrd
  generalize (v.putClean qs).tensorsCounted c.val [(p.dst, elemOut p xs)] = u at hout hcount hrd
  refine leads_of_run (execElemwise.eq_1 c p s) halive
    ((Work.issueVk_of_fetches hf hk _).trans ((Work.elemwise_eq hf.1 ha hp haligned hserves hts).trans hout))
    ⟨(Work.retireInstr_mem ..).trans hcount.mem, ?_, hkept.kernel_retired hcount, hkept.kernel_acc hcount, hkept.kernel_digital hcount⟩
  rw [Work.rd_congr (Work.retireInstr_regs ..), hrd]

/-- A row of ROWNORM: its elements, and the reciprocal of its root mean square (R204). -/
def normRow (p : RowPar) (x : List Word) (i : Nat) : List Word := (List.range p.width).map (fun j => wAt x (p.width * i + j))

def normOutput (p : RowPar) (x g : List Word) : List Word :=
  (List.range p.rows).flatMap (fun i => (List.range p.width).map (fun j =>
    fmul (fmul (wAt g j) (wAt x (p.width * i + j))) (rowRrms (normRow p x i) p.eps)))

theorem normOutput_eq (p : RowPar) (x g : List Word) :
    ((((List.range p.rows).map (normRow p x)).zip (((List.range p.rows).map (normRow p x)).map (fun r => rowRrms r p.eps))).flatMap
      (fun q => (q.1.zipIdx).map (fun e => fmul (fmul (wAt g e.2) e.1) q.2))) = normOutput p x g := by
  rw [List.map_map, List.zip_map', List.flatMap_map]
  simp only [normOutput, normRow, zipIdx_map_range, List.map_map, Function.comp_def]

end

end Sys2Proof.Machine
end

section
/-! ### ROWNORM (Table 5-7, R204, R206) -/

namespace Sys2Proof.Machine

section
variable {w : Work} {c : Nat} {b pb : List Byte}

/-- The reciprocals of the rows' root mean squares. -/
def normRrms (p : RowPar) (x : List Word) : List Word := (List.range p.rows).map (fun i => rowRrms (normRow p x i) p.eps)

theorem Work.rownorm_eq {p : RowPar} {x g : List Word} {v : Work} (hrun : w.ctxState c 16 = 1) (ha : leAt b 8 4 % 32 = 0)
    (hp : w.localGet c (leAt b 8 4) 32 = some (pb, false)) (haligned : (tensorAddrs [p.src, p.gain, p.dst, p.rrms]).all kaligned = true)
    (hserves : w.kserves c ([(p.src, p.rows * p.width), (p.gain, p.width)].flatMap (fun t => tensorRanges t.1 t.2)) = true)
    (hts : ktensors c [(p.src, p.rows * p.width), (p.gain, p.width)] w = some ([x, g], false, v)) :
    w.rownorm c p b = v.tensorsOut c [(p.dst, normOutput p x g), (p.rrms, normRrms p x)] := by
  have hrrms : ((List.range p.rows).map (normRow p x)).map (fun r => rowRrms r p.eps) = normRrms p x := List.map_map
  rw [Work.rownorm, Work.kernelPar_eq ha hp, Work.kernelAligned_eq haligned, Work.tensorsIn_eq hrun hserves hts, ← normOutput_eq,
    ← hrrms]
  rfl

theorem mapM_kputs_two {o1 o2 q1 q2 : List (Nat × List Byte)} (h1 : kputs c o1 = some q1) (h2 : kputs c o2 = some q2) :
    [o1, o2].mapM (kputs c) = some [q1, q2] := by simp [h1, h2]

theorem mapM_kputs_three {o1 o2 o3 q1 q2 q3 : List (Nat × List Byte)} (h1 : kputs c o1 = some q1) (h2 : kputs c o2 = some q2)
    (h3 : kputs c o3 = some q3) : [o1, o2, o3].mapM (kputs c) = some [q1, q2, q3] := by simp [h1, h2, h3]

theorem flatten_two {α : Type} (q1 q2 : List α) : [q1, q2].flatten = q1 ++ q2 := by simp

theorem flatten_three {α : Type} (q1 q2 q3 : List α) : [q1, q2, q3].flatten = q1 ++ q2 ++ q3 := by simp

end

theorem leads_rownorm {s : State} {c : Fin 1024} {b pb : List Byte} {p : RowPar} {x g : List Word} {v : Work}
    {q1 q2 : List (Nat × List Byte)} (halive : s.board.alive = true) (hf : s.work.Fetches c.val 16 16 b) (hk : leAt b 4 1 = 2)
    (ha : leAt b 8 4 % 32 = 0) (hp : s.work.localGet c.val (leAt b 8 4) 32 = some (pb, false))
    (haligned : (tensorAddrs [p.src, p.gain, p.dst, p.rrms]).all kaligned = true)
    (hserves : s.work.kserves c.val ([(p.src, p.rows * p.width), (p.gain, p.width)].flatMap (fun t => tensorRanges t.1 t.2)) = true)
    (hts : ktensors c.val [(p.src, p.rows * p.width), (p.gain, p.width)] s.work = some ([x, g], false, v))
    (hq1 : kputs c.val (tensorNarrow p.dst (normOutput p x g)).puts = some q1)
    (hq2 : kputs c.val (tensorNarrow p.rrms (normRrms p x)).puts = some q2)
    (hserve : v.putsServe ((q1 ++ q2).map (fun q => (q.1, q.2, false))) = true) :
    Leads (.rownorm c p) s (fun w => w.mem = (v.putClean (q1 ++ q2)).mem ∧ s.work.Retired w c.val 16 ∧ w.acc = s.work.acc ∧
      w.digital = s.work.digital) := by
  have hin := ktensors_memKept hts
  have hkept := hin.trans (v.putClean_memKept (q1 ++ q2))
  have hrun : v.ctxState c.val 16 = 1 := (hin.ctxState c.val (by decide)).trans hf.1
  have hout := Work.tensorsOut_eq (os := [(p.dst, normOutput p x g), (p.rrms, normRrms p x)]) hrun (mapM_kputs_two hq1 hq2)
    (by rwa [flatten_two])
  rw [flatten_two] at hout
  have hcount := (v.putClean (q1 ++ q2)).tensorsCounted_counted c.val [(p.dst, normOutput p x g), (p.rrms, normRrms p x)]
  generalize (v.putClean (q1 ++ q2)).tensorsCounted c.val _ = u at hout hcount
  exact leads_of_run (execRownorm.eq_1 c p s) halive
    ((Work.issueVk_of_fetches hf hk _).trans ((Work.rownorm_eq hf.1 ha hp haligned hserves hts).trans hout))
    ⟨(Work.retireInstr_mem ..).trans hcount.mem, hkept.kernel_retired hcount, hkept.kernel_acc hcount, hkept.kernel_digital hcount⟩

end Sys2Proof.Machine
end

section
/-! ### Writes do not meet the digital units -/

namespace Sys2Proof.Machine

section
variable (w : Work) (c : Nat) (d : Digital)

theorem Work.inc_setDig (a : Nat) : (w.setDig c d).inc a = (w.inc a).setDig c d := by
  rw [Work.inc, Work.inc, Work.incBy, Work.incBy, Work.rd_congr (w.setDig_regs c d)]
  rfl

theorem Work.putStack_setDig (a : Nat) (bs : List Byte) (p : Bool) :
    (w.setDig c d).putStack a bs p = (w.putStack a bs p).setDig c d := by
  unfold Work.putStack
  dsimp only [Work.setDig_poison]
  rw [List.foldl_hom (fun v : Work => v.setDig c d) (g₁ := fun (v : Work) (p : Nat × Nat) =>
    (v.inc (POISON_RD_CNT (stackOf p.1).1)).inc (RMW_POISON_CNT (stackOf p.1).1)) fun _ _ => by rw [Work.inc_setDig, Work.inc_setDig]]
  cases p <;> rfl

theorem Work.resolve_setDig (a : Nat) : (w.setDig c d).resolve a = w.resolve a := by
  have haperture : (w.setDig c d).entryAperture = w.entryAperture := rfl
  have hcount : (w.setDig c d).entryCount = w.entryCount := rfl
  have hstate : (w.setDig c d).entryState = w.entryState := rfl
  have hmax : (w.setDig c d).entryMax = w.entryMax := rfl
  have hpages : (w.setDig c d).entryPages = w.entryPages := rfl
  have hrcmp : (w.setDig c d).entryRcmp = w.entryRcmp := rfl
  have hbase : (w.setDig c d).base = w.base := rfl
  have hof : (w.setDig c d).entryOf = w.entryOf := by
    funext a
    rw [Work.entryOf, Work.entryOf, haperture, hcount, hmax]
  rw [Work.resolve, Work.resolve, haperture, hstate, hpages, hrcmp, hbase, hof, Work.setDig_step]

/-- A part of a line written through the aperture (R272, R274). -/
def Work.putLine (a : Nat) (bs : List Byte) (poison : Bool) (r : Bool × Work) (p : Nat × Nat) : Bool × Work :=
  match r.2.resolve p.1 with
  | .at_ b => (r.1, r.2.putStack b (sub bs (p.1 - a) p.2) poison)
  | .zeros => r
  | .unmapped => (true, r.2)

theorem Work.hbmPut_aperture (w : Work) {a : Nat} {bs : List Byte} (poison : Bool) (h : ¬ inStacks a bs.length = true) :
    w.hbmPut a bs poison =
      ((linesOf a bs.length).foldl (Work.putLine a bs poison) (false, w)).2.when
        ((linesOf a bs.length).foldl (Work.putLine a bs poison) (false, w)).1 Work.unmapped := (if_neg h).trans rfl

theorem Work.putLine_setDig (a : Nat) (bs : List Byte) (poison : Bool) (r : Bool × Work) (p : Nat × Nat) :
    Work.putLine a bs poison (r.1, r.2.setDig c d) p =
      ((Work.putLine a bs poison r p).1, (Work.putLine a bs poison r p).2.setDig c d) := by
  unfold Work.putLine
  rw [Work.resolve_setDig]
  cases r.2.resolve p.1 with
  | at_ e => exact congrArg (r.1, ·) (r.2.putStack_setDig c d _ _ _)
  | zeros => rfl
  | unmapped => rfl

theorem Work.unmapped_setDig : (w.setDig c d).unmapped = w.unmapped.setDig c d := by
  rw [Work.unmapped, Work.unmapped, Work.inc_setDig, Work.setBit, Work.setBit, Work.setFld, Work.setFld,
    Work.rd_congr (Work.setDig_regs _ c d)]
  rfl

theorem Work.hbmPut_setDig (a : Nat) (bs : List Byte) (poison : Bool) :
    (w.setDig c d).hbmPut a bs poison = (w.hbmPut a bs poison).setDig c d := by
  by_cases h : inStacks a bs.length = true
  · rw [Work.hbmPut, Work.hbmPut, if_pos h, if_pos h, Work.putStack_setDig]
  · have hlines := List.foldl_hom (fun r : Bool × Work => (r.1, r.2.setDig c d)) (g₁ := Work.putLine a bs poison)
      (l := linesOf a bs.length) (init := (false, w)) fun r p => Work.putLine_setDig c d a bs poison r p
    rw [Work.hbmPut_aperture _ _ h, Work.hbmPut_aperture _ _ h, hlines]
    generalize (linesOf a bs.length).foldl (Work.putLine a bs poison) (false, w) = r
    cases hb : r.1 with
    | false => rfl
    | true => exact r.2.unmapped_setDig c d

theorem Work.putAt_setDig (p : Put) : (w.setDig c d).putAt p = (w.putAt p).setDig c d := by
  unfold Work.putAt
  split
  · exact w.hbmPut_setDig c d _ _ _
  · unfold Work.put
    cases p.2.2 <;> rfl

theorem Work.rangeServes_setDig (a n : Nat) : (w.setDig c d).rangeServes a n = w.rangeServes a n := by
  have hserves : (w.setDig c d).serves = w.serves := rfl
  have hresolve : (w.setDig c d).resolve = w.resolve := funext (w.resolve_setDig c d)
  rw [Work.rangeServes, Work.rangeServes, hserves, hresolve]

theorem Work.kserves_setDig : (w.setDig c d).kserves = w.kserves := by
  have hserves : (w.setDig c d).rangeServes = w.rangeServes := by
    funext a n
    exact w.rangeServes_setDig c d a n
  funext e rs
  rw [Work.kserves, Work.kserves, hserves]

theorem Work.putsServe_setDig (ps : List Put) : (w.setDig c d).putsServe ps = w.putsServe ps := by
  have hserves : (w.setDig c d).rangeServes = w.rangeServes := by
    funext a n
    exact w.rangeServes_setDig c d a n
  rw [Work.putsServe, Work.putsServe, hserves]

theorem Work.putClean_setDig (qs : List (Nat × List Byte)) : (w.setDig c d).putClean qs = (w.putClean qs).setDig c d :=
  List.foldl_hom (fun v : Work => v.setDig c d) fun v _ => v.putAt_setDig c d _

end

end Sys2Proof.Machine
end

section
/-! ### SOFTMAX (Table 5-7, R204 to R206) -/

namespace Sys2Proof.Machine

section
variable {w : Work} {c : Nat} {b pb : List Byte}

/-- The oldest tile of an array leaves the queue alone. -/
theorem Work.dropTile_eq {a : Nat} {t : VecTile} (h : w.firstTile c a = some t) :
    w.dropTile c a = w.setDig c { w.dig c with queue := (w.dig c).queue.erase (a, t) } := by
  obtain ⟨q, hq, rfl⟩ := Option.map_eq_some_iff.mp h
  have ha : q.1 = a := by simpa using List.find?_some hq
  subst ha
  unfold Work.dropTile
  simp only [hq]

section
variable {p : SoftPar} {k : Nat} {ws : List Word} {a : Fin 8} {t : VecTile}
  (ha : leAt b 8 4 % 32 = 0) (hp : w.localGet c (leAt b 8 4) 32 = some (pb, false))
  (haligned : (tensorAddrs [p.mask, p.dst, p.rmax, p.rsum]).all kaligned = true)
  (hkern : ((w.dig c).kern).getD (0, []) = (k, ws)) (horder : p.order[k]? = some a) (htile : w.firstTile c a.val = some t)
  (hclean : t.poison = false) (hlen : ws.length = k * (shapeMN t.shape t.split).1 * (shapeMN t.shape t.split).2)
include ha hp haligned hkern horder htile hclean hlen

/-- SOFTMAX with a tile of the size it takes: the tile joins the scores, or with the last one the outputs follow. -/
theorem Work.softmax_eq :
    w.softmax c p b =
      if k + 1 < p.order.length then
        (w.dropTile c a.val).setDig c { (w.dropTile c a.val).dig c with kern := some (k + 1, ws ++ t.words) }
      else (w.dropTile c a.val).softmaxOut c p (shapeMN t.shape t.split).1 (shapeMN t.shape t.split).2 (ws ++ t.words) := by
  rw [Work.softmax, Work.kernelPar_eq ha hp, Work.kernelAligned_eq haligned]
  simp only [hkern, horder, Option.bind_some, htile, Option.map_some, hclean, hlen, Bool.false_and, Bool.false_eq_true, if_false,
    ne_eq, not_true_eq_false, decide_false]

end

/-- A row of SOFTMAX's output (R204). -/
def softOutRow (p : SoftPar) (m n : Nat) (ws mask : List Word) (i : Nat) : List Word × Word × Word :=
  softRow p.scale ((softRows m n p.order.length ws).getD i [])
    ((List.range (n * p.order.length)).map (fun j => wAt mask (n * p.order.length * i + j)))

theorem softOutRow_zipIdx (p : SoftPar) (m n : Nat) (ws mask : List Word) :
    ((softRows m n p.order.length ws).zipIdx).map (fun q =>
      softRow p.scale q.1 ((List.range (n * p.order.length)).map (fun j => wAt mask (n * p.order.length * q.2 + j)))) =
    (List.range m).map (softOutRow p m n ws mask) := by
  rw [softRows, zipIdx_map_range, List.map_map]
  refine List.map_congr_left fun i hi => ?_
  simp only [Function.comp_apply, softOutRow, softRows, getD_map_range _ (List.mem_range.mp hi)]

/-- The outputs of SOFTMAX: the probabilities, and each row's maximum and sum. -/
def softOuts (p : SoftPar) (m n : Nat) (ws mask : List Word) : List (Tensor × List Word) :=
  [(p.dst, (List.range m).flatMap (fun i => (softOutRow p m n ws mask i).1)),
    (p.rmax, (List.range m).map (fun i => (softOutRow p m n ws mask i).2.1)),
    (p.rsum, (List.range m).map (fun i => (softOutRow p m n ws mask i).2.2))]

theorem Work.softmaxOut_eq {p : SoftPar} {m n : Nat} {ws mask : List Word} {v : Work} (hrun : w.ctxState c 16 = 1)
    (hserves : w.kserves c (tensorRanges p.mask (m * (n * p.order.length))) = true)
    (hts : ktensors c [(p.mask, m * (n * p.order.length))] w = some ([mask], false, v)) :
    w.softmaxOut c p m n ws = (v.setDig c { v.dig c with kern := none }).tensorsOut c (softOuts p m n ws mask) := by
  have hrows := softOutRow_zipIdx p m n ws mask
  rw [Work.softmaxOut, Work.tensorsIn_eq hrun (by rwa [List.flatMap_singleton]) hts]
  rw [softOuts, ← List.flatMap_map (f := softOutRow p m n ws mask) (g := fun r => r.1), ← hrows,
    show (fun i => (softOutRow p m n ws mask i).2.1) = (fun r : List Word × Word × Word => r.2.1) ∘ softOutRow p m n ws mask from rfl,
    show (fun i => (softOutRow p m n ws mask i).2.2) = (fun r : List Word × Word × Word => r.2.2) ∘ softOutRow p m n ws mask from rfl,
    ← List.map_map, ← List.map_map, ← hrows]
  rfl

end

section
variable {s : State} {c : Fin 1024} {b pb : List Byte} {p : SoftPar} {k : Nat} {ws : List Word} {a : Fin 8} {t : VecTile}
  (halive : s.board.alive = true) (hf : s.work.Fetches c.val 16 16 b) (hk : leAt b 4 1 = 4)
  (ha : leAt b 8 4 % 32 = 0) (hp : s.work.localGet c.val (leAt b 8 4) 32 = some (pb, false))
  (haligned : (tensorAddrs [p.mask, p.dst, p.rmax, p.rsum]).all kaligned = true)
  (hkern : ((s.work.dig c.val).kern).getD (0, []) = (k, ws)) (horder : p.order[k]? = some a)
  (htile : s.work.firstTile c.val a.val = some t) (hclean : t.poison = false)
  (hlen : ws.length = k * (shapeMN t.shape t.split).1 * (shapeMN t.shape t.split).2)
include halive hf hk ha hp haligned hkern horder htile hclean hlen

/-- SOFTMAX takes a tile that is not its last. -/
theorem leads_softmax_takes (hmore : k + 1 < p.order.length) :
    Leads (.softmax c p) s (fun w => (w.dig c.val).kern = some (k + 1, ws ++ t.words) ∧
      (w.dig c.val).queue = (s.work.dig c.val).queue.erase (a.val, t) ∧ w.ctxs = s.work.ctxs ∧ w.mem = s.work.mem ∧
      w.acc = s.work.acc) := by
  have hsoft := (Work.softmax_eq ha hp haligned hkern horder htile hclean hlen).trans (if_pos hmore)
  have hdrop := Work.dropTile_eq htile
  refine leads_of_run (execSoftmax.eq_1 c p s) halive ((Work.issueVk_of_fetches hf hk _).trans hsoft) ⟨?_, ?_, ?_, ?_, ?_⟩
  · rw [Work.dig_setDig_same]
  · rw [Work.dig_setDig_same, hdrop, Work.dig_setDig_same]
  · rw [Work.setDig_ctxs, hdrop, Work.setDig_ctxs]
  · rw [Work.setDig_mem, hdrop, Work.setDig_mem]
  · rw [Work.setDig_acc, hdrop, Work.setDig_acc]

/-- SOFTMAX writes its rows after its last tile. -/
theorem leads_softmax_last {mask : List Word} {v : Work} {q1 q2 q3 : List (Nat × List Byte)} (hlast : k + 1 = p.order.length)
    (hserves : s.work.kserves c.val
      (tensorRanges p.mask ((shapeMN t.shape t.split).1 * ((shapeMN t.shape t.split).2 * p.order.length))) = true)
    (hts : ktensors c.val [(p.mask, (shapeMN t.shape t.split).1 * ((shapeMN t.shape t.split).2 * p.order.length))]
      (s.work.dropTile c.val a.val) = some ([mask], false, v))
    (hq1 : kputs c.val (tensorNarrow p.dst ((List.range (shapeMN t.shape t.split).1).flatMap (fun i =>
      (softOutRow p (shapeMN t.shape t.split).1 (shapeMN t.shape t.split).2 (ws ++ t.words) mask i).1))).puts = some q1)
    (hq2 : kputs c.val (tensorNarrow p.rmax ((List.range (shapeMN t.shape t.split).1).map (fun i =>
      (softOutRow p (shapeMN t.shape t.split).1 (shapeMN t.shape t.split).2 (ws ++ t.words) mask i).2.1))).puts = some q2)
    (hq3 : kputs c.val (tensorNarrow p.rsum ((List.range (shapeMN t.shape t.split).1).map (fun i =>
      (softOutRow p (shapeMN t.shape t.split).1 (shapeMN t.shape t.split).2 (ws ++ t.words) mask i).2.2))).puts = some q3)
    (hserve : v.putsServe ((q1 ++ q2 ++ q3).map (fun q => (q.1, q.2, false))) = true) :
    Leads (.softmax c p) s (fun w => w.mem = (v.putClean (q1 ++ q2 ++ q3)).mem ∧ (w.dig c.val).kern = none ∧
      (w.dig c.val).queue = (s.work.dig c.val).queue.erase (a.val, t) ∧ s.work.Retired w c.val 16 ∧ w.acc = s.work.acc) := by
  have hsoft := (Work.softmax_eq ha hp haligned hkern horder htile hclean hlen).trans (if_neg (by omega))
  have hdrop := Work.dropTile_eq htile
  rw [hdrop] at hts
  rw [hdrop] at hsoft
  generalize hz : s.work.setDig c.val { s.work.dig c.val with queue := (s.work.dig c.val).queue.erase (a.val, t) } = z at hts hsoft
  have hzrun : z.ctxState c.val 16 = s.work.ctxState c.val 16 := by
    rw [← hz, Work.ctxState_congr (Work.rd_congr (Work.setDig_regs ..) _)]
  have hzserves : z.kserves c.val = s.work.kserves c.val := by
    rw [← hz, Work.kserves_setDig]
  have hin : z.MemKept v := ktensors_memKept hts
  have hkept := hin.trans (v.putClean_memKept (q1 ++ q2 ++ q3))
  rw [Work.softmaxOut_eq (hzrun.trans hf.1) (by rwa [hzserves]) hts] at hsoft
  have hrun : (v.setDig c.val { v.dig c.val with kern := none }).ctxState c.val 16 = 1 := by
    rw [Work.ctxState_congr (Work.rd_congr (Work.setDig_regs ..) _), hin.ctxState c.val (by decide), hzrun, hf.1]
  have hout := Work.tensorsOut_eq (os := softOuts p (shapeMN t.shape t.split).1 (shapeMN t.shape t.split).2 (ws ++ t.words) mask)
    hrun (mapM_kputs_three hq1 hq2 hq3) (by rwa [flatten_three, Work.putsServe_setDig])
  rw [flatten_three, Work.putClean_setDig] at hout
  generalize softOuts p _ _ _ mask = os at hout hsoft
  have hcount := ((v.putClean (q1 ++ q2 ++ q3)).setDig c.val { v.dig c.val with kern := none }).tensorsCounted_counted c.val os
  generalize ((v.putClean (q1 ++ q2 ++ q3)).setDig c.val _).tensorsCounted c.val os = u at hout hcount
  have hdig : (u.retireInstr c.val 16).dig c.val = { v.dig c.val with kern := none } := by
    rw [Work.dig_congr (Work.retireInstr_digital ..), Work.dig_congr hcount.digital, Work.dig_setDig_same]
  refine leads_of_run (execSoftmax.eq_1 c p s) halive ((Work.issueVk_of_fetches hf hk _).trans (hsoft.trans hout)) ⟨?_, ?_, ?_, ?_, ?_⟩
  · rw [Work.retireInstr_mem, hcount.mem, Work.setDig_mem]
  · rw [hdig]
  · rw [hdig, hin.dig, ← hz, Work.dig_setDig_same]
  · refine Work.retired_retireInstr ?_ ?_
    · rw [hcount.ctx, Work.ctx_congr (Work.setDig_ctxs ..), hkept.ctx, ← hz, Work.ctx_congr (Work.setDig_ctxs ..)]
    · rw [hcount.ctxState, Work.ctxState_congr (Work.rd_congr (Work.setDig_regs ..) _), hkept.ctxState c.val (by decide), hzrun]
  · rw [Work.retireInstr_acc, hcount.acc, Work.setDig_acc, hkept.acc, ← hz, Work.setDig_acc]

end

end Sys2Proof.Machine
end

section
/-! ### The backward kernels (R271) -/

namespace Sys2Proof.Machine

section
variable {w : Work} {c : Nat} {b pb : List Byte}

/-- A tile at the front of the queue leaves it. -/
theorem Work.dropTile_front {v : Work} {a : Nat} {t : VecTile} (hd : v.dig c = w.dig c) (h : w.nextTile c = some (a, t)) :
    v.dropTile c a = v.setDig c { w.dig c with queue := (w.dig c).queue.tail } := by
  obtain ⟨rest, hqueue⟩ : ∃ rest, (w.dig c).queue = (a, t) :: rest := by
    unfold Work.nextTile at h
    cases hq : (w.dig c).queue with
    | nil => simp [hq] at h
    | cons q rest =>
      rw [hq, List.head?_cons, Option.some.injEq] at h
      exact ⟨rest, by rw [h]⟩
  have hfind : (w.dig c).queue.find? (fun q => q.1 == a) = some (a, t) := by rw [hqueue, List.find?_cons_of_pos (by simp)]
  unfold Work.dropTile
  simp only [hd, hfind]
  rw [hqueue, List.erase_cons_head, List.tail_cons]

/-- A tile that is not the last of its band is neither the last of all. -/
theorem not_last_of_mod {q width rows : Nat} (h : (q + 1) % width ≠ 0) : q + 1 ≠ width * rows ∧ q % width + 1 ≠ width := by
  refine ⟨fun he => h (by rw [he, Nat.mul_mod_right]), fun he => h ?_⟩
  rw [← Nat.mod_add_mod, he, Nat.mod_self]

/-- A tile taken within a band: the kernel goes on with the next one. -/
theorem Work.tileTaken_within {v : Work} {p : BwdPar} {a q : Nat} {acc : List Word} {t : VecTile} (hd : v.dig c = w.dig c)
    (h : w.nextTile c = some (a, t)) (hwithin : (q + 1) % p.width ≠ 0) :
    v.tileTaken c p a q acc =
      (v.setDig c { w.dig c with queue := (w.dig c).queue.tail }).setDig c
        { w.dig c with queue := (w.dig c).queue.tail, kern := some (q + 1, acc) } := by
  unfold Work.tileTaken
  rw [Work.dropTile_front hd h]
  simp only [(not_last_of_mod hwithin).1, if_false, hwithin, Work.dig_setDig_same]

section
variable {norm : Bool} {o : Opd} {a q : Nat} {acc : List Word} {t : VecTile} (hrun : w.ctxState c 16 = 1)
  (ha : leAt b 8 4 % 32 = 0) (hp : w.localGet c (leAt b 8 4) 64 = some (pb, false)) (hopd : w.bwdOpd c (bwdOf pb) = some o)
  (hok : (bwdOf pb).ok c norm = true) (haligned : (bwdOf pb).aligned norm = true) (htile : w.nextTile c = some (a, t))
  (hclean : t.poison = false) (hshape : t.shape = 0) (hsplit : t.split = false)
  (hkern : ((w.dig c).kern).getD (0, List.replicate 32 0) = (q, acc))
  (hserves : w.kserves c ((bwdOf pb).touches o norm q) = true)
include hrun ha hp hopd hok haligned htile hclean hshape hsplit hkern hserves

/-- A backward kernel with a good block and a tile of its shape takes it. -/
theorem Work.bwdTile_eq (f : BwdPar → Opd → Nat → Nat → List Word → List Word → Work → Work) :
    w.bwdTile c b norm f = f (bwdOf pb) o a q acc t.words w := by
  rw [Work.bwdTile, Work.kernelPar_eq ha hp]
  simp only [hopd, hok, haligned, htile, hkern, hserves, hclean, hshape, hsplit, Work.draining_of_run hrun, Bool.not_true,
    Bool.false_eq_true, if_false, ne_eq, not_true_eq_false, decide_false, Bool.or_self]

end

/-- The gain gradient that a tile adds to: a fresh one where the block asks for it and the band is the first. -/
def BwdPar.gradIn (p : BwdPar) (band : Nat) (bs : List Byte) : List Word :=
  if p.flags.testBit 1 = true ∧ band = 0 then List.replicate 32 0 else wordsOf bs

theorem Work.rownormBwdTile_within {p : BwdPar} {o : Opd} {a q : Nat} {acc dy : List Word} {xs : List (List Word)} {b1 b2 b3 : List Byte}
    {v v2 u : Work} (hwithin : (q + 1) % p.width ≠ 0)
    (hband : w.bandBlock c o p.x (q / p.width) (q % p.width) = some (xs, false, v2))
    (hins : kgets c [(p.aux + 128 * (q / p.width), 128), (p.gain + 128 * (q % p.width), 128), (p.dgain + 128 * (q % p.width), 128)]
      w = some ([b1, b2, b3], false, v))
    (hwrite : (v.localPut c (p.scratch + 4096 * (q % p.width))
      (wordsLE (normTile dy xs (wordsOf b2) (wordsOf b1) acc (p.gradIn (q / p.width) b3)).1) false).kwrite c
        [(p.dgain + 128 * (q % p.width), wordsLE (normTile dy xs (wordsOf b2) (wordsOf b1) acc (p.gradIn (q / p.width) b3)).2.2)] =
          some u) :
    Work.rownormBwdTile c p o a q acc dy w =
      u.tileTaken c p a q (normTile dy xs (wordsOf b2) (wordsOf b1) acc (p.gradIn (q / p.width) b3)).2.1 := by
  have hgrad : (if (p.flags.testBit 1 && decide (q / p.width = 0)) = true then List.replicate 32 0 else wordsOf b3) =
      p.gradIn (q / p.width) b3 := by simp only [BwdPar.gradIn, Bool.and_eq_true, decide_eq_true_eq]
  unfold Work.rownormBwdTile
  simp only [hband, hins, Bool.or_self, Bool.false_eq_true, if_false, List.getD_cons_zero, List.getD_cons_succ, hgrad, hwrite,
    (not_last_of_mod (rows := 0) hwithin).2]

/-- The rows' sums of SOFTMAX_BWD with a tile's (R271). -/
def softSums (dp : List Word) (ps : List (List Word)) (acc : List Word) : List Word :=
  (List.range 32).map (fun i => (List.range 32).foldl (fun d j =>
    fadd d (fmul (wAt dp (32 * i + j)) (wAt (ps.getD i []) j))) (wAt acc i))

theorem Work.softmaxBwdTile_within {p : BwdPar} {o : Opd} {a q : Nat} {acc dp : List Word} {ps : List (List Word)} {v : Work}
    (hwithin : (q + 1) % p.width ≠ 0) (hband : w.bandBlock c o p.x (q / p.width) (q % p.width) = some (ps, false, v)) :
    Work.softmaxBwdTile c p o a q acc dp w =
      (v.localPut c (p.scratch + 4096 * (q % p.width)) (wordsLE dp) false).tileTaken c p a q (softSums dp ps acc) := by
  unfold Work.softmaxBwdTile
  simp only [hband, Bool.false_eq_true, if_false, (not_last_of_mod (rows := 0) hwithin).2]
  rfl

/-- What a kernel keeps that takes a tile within a band. -/
theorem Work.MemKept.tileTaken {v : Work} {p : BwdPar} {a q : Nat} {acc : List Word} {t : VecTile} (h : w.MemKept v)
    (htile : w.nextTile c = some (a, t)) (hwithin : (q + 1) % p.width ≠ 0) :
    let u := v.tileTaken c p a q acc
    u.mem = v.mem ∧ (u.dig c).kern = some (q + 1, acc) ∧ (u.dig c).queue = (w.dig c).queue.tail ∧ u.ctx c 16 = w.ctx c 16 ∧
    u.acc = w.acc := by
  rw [Work.tileTaken_within (h.dig c) htile hwithin]
  refine ⟨?_, ?_, ?_, ?_, ?_⟩
  · rw [Work.setDig_mem, Work.setDig_mem]
  · rw [Work.dig_setDig_same]
  · rw [Work.dig_setDig_same]
  · rw [Work.ctx_congr (Work.setDig_ctxs ..), Work.ctx_congr (Work.setDig_ctxs ..), h.ctx]
  · rw [Work.setDig_acc, Work.setDig_acc, h.acc]

end

section
variable {s : State} {c : Fin 1024} {b pb : List Byte} {o : Opd} {a q : Nat} {acc : List Word} {t : VecTile}
  (halive : s.board.alive = true) (hf : s.work.Fetches c.val 16 16 b)
  (ha : leAt b 8 4 % 32 = 0) (hp : s.work.localGet c.val (leAt b 8 4) 64 = some (pb, false))
  (hopd : s.work.bwdOpd c.val (bwdOf pb) = some o) (htile : s.work.nextTile c.val = some (a, t))
  (hclean : t.poison = false) (hshape : t.shape = 0) (hsplit : t.split = false)
  (hkern : ((s.work.dig c.val).kern).getD (0, List.replicate 32 0) = (q, acc))
  (hwithin : (q + 1) % (bwdOf pb).width ≠ 0)
include halive hf ha hp hopd htile hclean hshape hsplit hkern hwithin

theorem leads_rownormBwd {xs : List (List Word)} {b1 b2 b3 : List Byte} {v v2 u : Work} (hk : leAt b 4 1 = 3)
    (hok : (bwdOf pb).ok c.val true = true) (haligned : (bwdOf pb).aligned true = true)
    (hserves : s.work.kserves c.val ((bwdOf pb).touches o true q) = true)
    (hband : s.work.bandBlock c.val o (bwdOf pb).x (q / (bwdOf pb).width) (q % (bwdOf pb).width) = some (xs, false, v2))
    (hins : kgets c.val [((bwdOf pb).aux + 128 * (q / (bwdOf pb).width), 128), ((bwdOf pb).gain + 128 * (q % (bwdOf pb).width), 128),
      ((bwdOf pb).dgain + 128 * (q % (bwdOf pb).width), 128)] s.work = some ([b1, b2, b3], false, v))
    (hwrite : (v.localPut c.val ((bwdOf pb).scratch + 4096 * (q % (bwdOf pb).width))
      (wordsLE (normTile t.words xs (wordsOf b2) (wordsOf b1) acc ((bwdOf pb).gradIn (q / (bwdOf pb).width) b3)).1) false).kwrite c.val
        [((bwdOf pb).dgain + 128 * (q % (bwdOf pb).width),
          wordsLE (normTile t.words xs (wordsOf b2) (wordsOf b1) acc ((bwdOf pb).gradIn (q / (bwdOf pb).width) b3)).2.2)] = some u) :
    Leads (.rownormBwd c) s (fun w => w.mem = u.mem ∧
      (w.dig c.val).kern = some (q + 1,
        (normTile t.words xs (wordsOf b2) (wordsOf b1) acc ((bwdOf pb).gradIn (q / (bwdOf pb).width) b3)).2.1) ∧
      (w.dig c.val).queue = (s.work.dig c.val).queue.tail ∧ w.ctx c.val 16 = s.work.ctx c.val 16 ∧ w.acc = s.work.acc) := by
  have hkept : s.work.MemKept u := ((kgets_memKept hins).trans (v.localPut_memKept _ _ _ _)).trans (Work.kwrite_memKept hwrite)
  have hkernel := Work.bwdTile_eq hf.1 ha hp hopd hok haligned htile hclean hshape hsplit hkern hserves (Work.rownormBwdTile c.val)
  exact leads_of_run (execRownormBwd.eq_1 c s) halive ((Work.issueVk_of_fetches hf hk _).trans
    (hkernel.trans (Work.rownormBwdTile_within hwithin hband hins hwrite))) (hkept.tileTaken htile hwithin)

theorem leads_softmaxBwd {ps : List (List Word)} {v : Work} (hk : leAt b 4 1 = 5) (hok : (bwdOf pb).ok c.val false = true)
    (haligned : (bwdOf pb).aligned false = true) (hserves : s.work.kserves c.val ((bwdOf pb).touches o false q) = true)
    (hband : s.work.bandBlock c.val o (bwdOf pb).x (q / (bwdOf pb).width) (q % (bwdOf pb).width) = some (ps, false, v)) :
    Leads (.softmaxBwd c) s (fun w =>
      w.mem = (v.localPut c.val ((bwdOf pb).scratch + 4096 * (q % (bwdOf pb).width)) (wordsLE t.words) false).mem ∧
      (w.dig c.val).kern = some (q + 1, softSums t.words ps acc) ∧ (w.dig c.val).queue = (s.work.dig c.val).queue.tail ∧
      w.ctx c.val 16 = s.work.ctx c.val 16 ∧ w.acc = s.work.acc) := by
  have hkept : s.work.MemKept
      (v.localPut c.val ((bwdOf pb).scratch + 4096 * (q % (bwdOf pb).width)) (wordsLE t.words) false) :=
    (Work.bandBlock_memKept hband).trans (v.localPut_memKept _ _ _ _)
  have hkernel := Work.bwdTile_eq hf.1 ha hp hopd hok haligned htile hclean hshape hsplit hkern hserves (Work.softmaxBwdTile c.val)
  exact leads_of_run (execSoftmaxBwd.eq_1 c s) halive ((Work.issueVk_of_fetches hf hk _).trans
    (hkernel.trans (Work.softmaxBwdTile_within hwithin hband))) (hkept.tileTaken htile hwithin)

end

end Sys2Proof.Machine
end

section
/-! ### NARROW (R246, Table 6-9) -/

namespace Sys2Proof.Machine

section
variable {w : Work} {c : Nat} {b pb : List Byte}

/-- An entry named without a fault is a note of the core's digital units alone (R233). -/
theorem Work.nameEntry_zero {x entry : Nat} {sr : Bool} {v : Work} (h : w.nameEntry c x entry sr = (0, v)) : ∃ d, v = w.setDig c d := by
  unfold Work.nameEntry at h
  dsimp only at h
  split at h
  · cases h
  · split at h
    · cases h
    · cases h
      exact ⟨_, rfl⟩

/-- A kernel that names its entry, where it has one, is in the same state beside that note. -/
theorem Work.named_kept {entry : Bool} {i : Nat} {sr : Bool} {v : Work} (h : (if entry then w.nameEntry c 16 i sr else (0, w)) = (0, v)) :
    v.ctxs = w.ctxs ∧ v.acc = w.acc ∧ v.regs = w.regs := by
  cases entry with
  | false =>
    cases h
    exact ⟨rfl, rfl, rfl⟩
  | true =>
    obtain ⟨d, rfl⟩ := Work.nameEntry_zero h
    exact ⟨Work.setDig_ctxs .., Work.setDig_acc .., Work.setDig_regs ..⟩

/-- The estimator of a narrowing: its entry's, where it names one. -/
def Work.estOf (v : Work) (c : Nat) (p : NarrowPar) : Est := if namesEntry p.fmt p.sr then v.loadEst (v.estAt c p.entry) else Est.none

/-- What NARROW counts and writes back at its end. -/
def Work.narrowDone (u : Work) (c : Nat) (p : NarrowPar) (r : NarrowRun) (nonfin : Nat) : Work :=
  (u.narrowed c (if namesEntry p.fmt p.sr then some p.entry else none) r).incBy (VEC_NONFINITE_CNT c) nonfin

theorem Work.narrowKernel_eq {rows : List (List Byte)} {v0 v : Work} {qs : List (Nat × List Byte)} (hrun : w.ctxState c 16 = 1)
    (ha : leAt b 8 4 % 64 = 0) (hp : w.localGet c (leAt b 8 4) 64 = some (pb, false)) (hok : narrowOk pb (narrowOf pb) = true)
    (hsrc : kaligned (narrowOf pb).src = true) (hdst : kaligned (narrowOf pb).dst = true)
    (hscl : (narrowOf pb).block = true ∨ scaled (narrowOf pb).fmt = false ∨ kaligned (narrowOf pb).scl = true)
    (hnamed : (if namesEntry (narrowOf pb).fmt (narrowOf pb).sr then w.nameEntry c 16 (narrowOf pb).entry (narrowOf pb).sr
      else (0, w)) = (0, v0))
    (hserves : v0.kserves c (narrowOf pb).ins = true) (hins : kgets c (narrowOf pb).ins v0 = some (rows, false, v))
    (hqs : kputs c ((narrowOf pb).go (v.rd (GEN_SEQ c)) rows (v.estOf c (narrowOf pb))).puts = some qs)
    (hserve : v.putsServe (qs.map (fun q => (q.1, q.2, false))) = true) :
    w.narrowKernel c b =
      ((v.putClean qs).narrowDone c (narrowOf pb) ((narrowOf pb).go (v.rd (GEN_SEQ c)) rows (v.estOf c (narrowOf pb)))
        ((narrowOf pb).nonfin rows)).retireInstr c 16 := by
  have hscl' : ((narrowOf pb).block || !scaled (narrowOf pb).fmt || kaligned (narrowOf pb).scl) = true := by
    rcases hscl with h | h | h <;> simp [h]
  obtain ⟨hctxs, -, hregs⟩ := Work.named_kept hnamed
  have hrun0 : v0.ctxState c 16 = 1 := (Work.ctxState_congr (Work.rd_congr hregs _)).trans hrun
  have hrunv : v.ctxState c 16 = 1 := ((kgets_memKept hins).ctxState c (by decide)).trans hrun0
  have hout := Work.kernelOut_now hrunv (mapM_kputs_one hqs) (fun u => u.narrowDone c (narrowOf pb)
    ((narrowOf pb).go (v.rd (GEN_SEQ c)) rows (v.estOf c (narrowOf pb))) ((narrowOf pb).nonfin rows)) (by rwa [List.flatten_singleton])
  rw [List.flatten_singleton] at hout
  rw [Work.narrowKernel, Work.kernelPar_eq (by omega) hp]
  simp only [Work.draining_of_run hrun, Bool.not_false, Bool.and_true, hnamed, ha, hok, List.all_cons, List.all_nil, hsrc, hdst, hscl',
    Bool.not_true, ne_eq, not_true_eq_false, decide_false, Bool.or_self, Bool.and_self, Bool.false_eq_true, if_false]
  rw [Work.kernelIn_eq hrun0 hserves hins]
  exact hout

end

section
variable (u : Work) (c : Nat) (r : NarrowRun)

/-- A narrowing's counts are the same with an entry and without. -/
theorem Work.narrowed_frame (e : Option Nat) :
    (u.narrowed c e r).ctxs = u.ctxs ∧ (u.narrowed c e r).acc = u.acc ∧ (u.narrowed c e r).regs = (u.narrowed c none r).regs := by
  cases e <;> exact ⟨rfl, rfl, rfl⟩

theorem Work.saveEst_mem_congr {v w : Work} (h : v.mem = w.mem) (a : Nat) (e : Est) : (v.saveEst a e).mem = (w.saveEst a e).mem := by
  simp only [Work.saveEst, Work.storeNum, Work.store, h]

theorem EST_BASE_not_mem_narrowRegs : EST_BASE c ∉ narrowRegs c := by
  simp [narrowRegs, EST_BASE, SAT_BLK_CNT, ESC_CNT, ESC_OVF_CNT, NONFIN_BLK_CNT]

/-- The entry that a narrowing names is written back to its place. -/
theorem Work.narrowed_some_mem (i : Nat) : (u.narrowed c (some i) r).mem = (u.saveEst (u.estAt c i) r.est).mem := by
  have hkept := u.narrowed_none_kept c r
  have hat : (u.narrowed c none r).estAt c i = u.estAt c i := by
    rw [Work.estAt, Work.estAt, hkept.rd (EST_BASE_not_mem_narrowRegs c)]
  have hsave : u.narrowed c (some i) r = (u.narrowed c none r).saveEst ((u.narrowed c none r).estAt c i) r.est := rfl
  rw [hsave, hat]
  exact Work.saveEst_mem_congr rfl _ _

theorem Work.rd_narrowed_SAT (e : Option Nat) :
    (u.narrowed c e r).rd (SAT_BLK_CNT c) = min (u.rd (SAT_BLK_CNT c) + r.sat) 0xFFFFFFFF := by
  have hregs : (u.narrowed c e r).regs = (u.narrowed c none r).regs := by
    obtain ⟨-, -, hregs⟩ := u.narrowed_frame c r e
    exact hregs
  rw [Work.rd_congr hregs]
  simp only [Work.narrowed]
  rw [Work.rd_incBy_ne _ _ _ (by simp [SAT_BLK_CNT, NONFIN_BLK_CNT]), Work.rd_incBy_ne _ _ _ (by simp [SAT_BLK_CNT, ESC_OVF_CNT]),
    Work.rd_incBy_ne _ _ _ (by simp [SAT_BLK_CNT, ESC_CNT]), Work.rd_incBy_same]

theorem Work.rd_narrowed_NONFINITE (e : Option Nat) : (u.narrowed c e r).rd (VEC_NONFINITE_CNT c) = u.rd (VEC_NONFINITE_CNT c) := by
  have hregs : (u.narrowed c e r).regs = (u.narrowed c none r).regs := by
    obtain ⟨-, -, hregs⟩ := u.narrowed_frame c r e
    exact hregs
  rw [Work.rd_congr hregs, (u.narrowed_none_kept c r).rd (VEC_NONFINITE_CNT_not_mem_narrowRegs c)]

variable (p : NarrowPar) (n : Nat)

theorem Work.narrowDone_mem :
    (u.narrowDone c p r n).mem = (if namesEntry p.fmt p.sr then u.saveEst (u.estAt c p.entry) r.est else u).mem := by
  have hinc : (u.narrowDone c p r n).mem = (u.narrowed c (if namesEntry p.fmt p.sr then some p.entry else none) r).mem := rfl
  rw [hinc]
  cases namesEntry p.fmt p.sr with
  | false => rfl
  | true => exact u.narrowed_some_mem c r p.entry

theorem Work.narrowDone_kept :
    (u.narrowDone c p r n).ctxs = u.ctxs ∧ (u.narrowDone c p r n).acc = u.acc ∧
    (u.narrowDone c p r n).ctxState c 16 = u.ctxState c 16 := by
  obtain ⟨hctxs, hacc, hregs⟩ := u.narrowed_frame c r (if namesEntry p.fmt p.sr then some p.entry else none)
  have hcount := (Work.Counted.refl u c).narrowed_none r
  refine ⟨hctxs, hacc, ?_⟩
  rw [← hcount.ctxState 16]
  refine Work.ctxState_congr ((Work.rd_incBy_ne _ _ _ ?_).trans (Work.rd_congr hregs _))
  simp [statusReg, VEC_STATUS, VEC_NONFINITE_CNT]

theorem Work.rd_narrowDone_SAT : (u.narrowDone c p r n).rd (SAT_BLK_CNT c) = min (u.rd (SAT_BLK_CNT c) + r.sat) 0xFFFFFFFF := by
  rw [Work.narrowDone, Work.rd_incBy_ne _ _ _ (by simp [SAT_BLK_CNT, VEC_NONFINITE_CNT]), Work.rd_narrowed_SAT]

theorem Work.rd_narrowDone_NONFINITE :
    (u.narrowDone c p r n).rd (VEC_NONFINITE_CNT c) = min (u.rd (VEC_NONFINITE_CNT c) + n) 0xFFFFFFFF := by
  rw [Work.narrowDone, Work.rd_incBy_same, Work.rd_narrowed_NONFINITE]

end

theorem inUnits_SAT_BLK_CNT (c : Nat) : InUnits (SAT_BLK_CNT c) := inUnits_coreBase c (by decide) (by decide)

section
variable {s : State} {c : Fin 1024} {b pb : List Byte}

theorem leads_narrow {rows : List (List Byte)} {v0 v : Work} {qs : List (Nat × List Byte)} (halive : s.board.alive = true)
    (hf : s.work.Fetches c.val 16 16 b) (hk : leAt b 4 1 = 6) (ha : leAt b 8 4 % 64 = 0)
    (hp : s.work.localGet c.val (leAt b 8 4) 64 = some (pb, false)) (hok : narrowOk pb (narrowOf pb) = true)
    (hsrc : kaligned (narrowOf pb).src = true) (hdst : kaligned (narrowOf pb).dst = true)
    (hscl : (narrowOf pb).block = true ∨ scaled (narrowOf pb).fmt = false ∨ kaligned (narrowOf pb).scl = true)
    (hnamed : (if namesEntry (narrowOf pb).fmt (narrowOf pb).sr then
      s.work.nameEntry c.val 16 (narrowOf pb).entry (narrowOf pb).sr else (0, s.work)) = (0, v0))
    (hserves : v0.kserves c.val (narrowOf pb).ins = true) (hins : kgets c.val (narrowOf pb).ins v0 = some (rows, false, v))
    (hqs : kputs c.val ((narrowOf pb).go (v.rd (GEN_SEQ c.val)) rows (v.estOf c.val (narrowOf pb))).puts = some qs)
    (hserve : v.putsServe (qs.map (fun q => (q.1, q.2, false))) = true) :
    let r := (narrowOf pb).go (v.rd (GEN_SEQ c.val)) rows (v.estOf c.val (narrowOf pb))
    Leads (.narrow c) s (fun w =>
      w.mem = (if namesEntry (narrowOf pb).fmt (narrowOf pb).sr then
        (v.putClean qs).saveEst ((v.putClean qs).estAt c.val (narrowOf pb).entry) r.est else v.putClean qs).mem ∧
      s.work.Retired w c.val 16 ∧ w.acc = s.work.acc ∧
      w.rd (SAT_BLK_CNT c.val) = min (s.work.rd (SAT_BLK_CNT c.val) + r.sat) 0xFFFFFFFF ∧
      w.rd (VEC_NONFINITE_CNT c.val) = min (s.work.rd (VEC_NONFINITE_CNT c.val) + (narrowOf pb).nonfin rows) 0xFFFFFFFF) := by
  intro r
  have hkernel := Work.narrowKernel_eq hf.1 ha hp hok hsrc hdst hscl hnamed hserves hins hqs hserve
  obtain ⟨hctxs0, hacc0, hregs0⟩ := Work.named_kept hnamed
  have hkept : v0.MemKept (v.putClean qs) := (kgets_memKept hins).trans (v.putClean_memKept qs)
  have hmem := (v.putClean qs).narrowDone_mem c.val r (narrowOf pb) ((narrowOf pb).nonfin rows)
  have hsat := (v.putClean qs).rd_narrowDone_SAT c.val r (narrowOf pb) ((narrowOf pb).nonfin rows)
  have hnonfin := (v.putClean qs).rd_narrowDone_NONFINITE c.val r (narrowOf pb) ((narrowOf pb).nonfin rows)
  obtain ⟨hctxs, hacc, hstate⟩ := (v.putClean qs).narrowDone_kept c.val r (narrowOf pb) ((narrowOf pb).nonfin rows)
  rw [hkept.rd (inUnits_SAT_BLK_CNT c.val), Work.rd_congr hregs0] at hsat
  rw [hkept.rd (inUnits_VEC_NONFINITE_CNT c.val), Work.rd_congr hregs0] at hnonfin
  generalize (v.putClean qs).narrowDone c.val (narrowOf pb) _ _ = z at hkernel hmem hsat hnonfin hctxs hacc hstate
  refine leads_of_run (execNarrow.eq_1 c s) halive ((Work.issueVk_of_fetches hf hk _).trans hkernel)
    ⟨(Work.retireInstr_mem ..).trans hmem, Work.retired_retireInstr ?_ ?_, ?_, ?_, ?_⟩
  · rw [Work.ctx_congr hctxs, hkept.ctx, Work.ctx_congr hctxs0]
  · rw [hstate, hkept.ctxState c.val (by decide), Work.ctxState_congr (Work.rd_congr hregs0 _)]
  · rw [Work.retireInstr_acc, hacc, hkept.acc, hacc0]
  · rw [Work.rd_congr (Work.retireInstr_regs ..), hsat]
  · rw [Work.rd_congr (Work.retireInstr_regs ..), hnonfin]

end

end Sys2Proof.Machine
end

section
/-! ### OPT2M (R207, R211) -/

namespace Sys2Proof.Machine

/-- The scalars of an OPT2M block (Table 5-8). -/
def optPar (p : List Byte) : OptPar :=
  let f := fun i => BitVec.ofNat 32 (leAt p (64 + 4 * i) 4)
  ⟨f 0, f 1, f 2, f 3, f 4, f 5, f 6, f 7, f 8⟩

/-- The rows that a field of the block names. -/
def optRows (p : List Byte) (off len : Nat) : List (Nat × Nat) :=
  (List.range (leAt p 0 4)).map (fun i => (leAt p off 8 + len * i, len))

/-- What OPT2M reads. -/
def optIns (p : List Byte) : List (Nat × Nat) :=
  optRows p 40 4096 ++ optRows p 8 4096 ++ optRows p 16 4096 ++ optRows p 24 4096 ++ optRows p 48 1024 ++ [(leAt p 56 8, 128)]

/-- Word j of row i of the k-th operand. -/
def optWord (p : List Byte) (bs : List (List Byte)) (k i j : Nat) : Word := wAt (wordsOf (bs.getD (k * leAt p 0 4 + i) [])) j

/-- The update of one weight (R207). -/
def optNew (p : List Byte) (bs : List (List Byte)) (i j : Nat) : Word × Word × Word × Word :=
  optStep (optPar p) (optWord p bs 0 i j) (optWord p bs 1 i j) (optWord p bs 2 i j) (optWord p bs 3 i j)
    (wAt (wordsOf (bs.getD (5 * leAt p 0 4) [])) (j / 32)) (sext 8 (leAt (bs.getD (4 * leAt p 0 4 + i) []) j 1))

/-- The rows of one output. -/
def optPut (p : List Byte) (bs : List (List Byte)) (off : Nat) (g : Word × Word × Word × Word → Word) : List (Nat × List Byte) :=
  (List.range (leAt p 0 4)).map (fun i =>
    (leAt p off 8 + 4096 * i, wordsLE ((List.range 1024).map (fun j => g (optNew p bs i j)))))

/-- The outputs of OPT2M, the record's address last where the block gives one. -/
def optOuts (p : List Byte) (bs : List (List Byte)) : List (List (Nat × List Byte)) :=
  [optPut p bs 8 (·.1), optPut p bs 16 (·.2.1), optPut p bs 24 (·.2.2.1), optPut p bs 32 (·.2.2.2)] ++
    if leAt p 104 8 = 0 then [] else [[(leAt p 104 8, sub p 100 4)]]

/-- The words of the outputs, weight after weight. -/
def optWords (p : List Byte) (bs : List (List Byte)) : List Word :=
  ((List.range (leAt p 0 4)).map (fun i => (List.range 1024).map (optNew p bs i))).flatMap (fun r =>
    r.flatMap (fun e => [e.1, e.2.1, e.2.2.1, e.2.2.2]))

theorem optPut_eq (p : List Byte) (bs : List (List Byte)) (off : Nat) (g : Word × Word × Word × Word → Word) :
    ((((List.range (leAt p 0 4)).map (fun i => (List.range 1024).map (optNew p bs i))).zipIdx).map (fun q =>
      (leAt p off 8 + 4096 * q.2, wordsLE (q.1.map g)))) = optPut p bs off g := by
  rw [zipIdx_map_range, List.map_map]
  refine List.map_congr_left fun i _ => ?_
  rw [Function.comp_apply, List.map_map]
  rfl

section
variable {w : Work} {c : Nat} {b p : List Byte}

theorem Work.opt2m_eq {bs : List (List Byte)} {v : Work} (hrun : w.ctxState c 16 = 1) (ha : leAt b 8 4 % 32 = 0)
    (hp : w.localGet c (leAt b 8 4) 128 = some (p, false)) (h1 : 1 ≤ leAt p 0 4) (h2 : leAt p 0 4 ≤ 1024) (hdefer : leAt p 4 4 < 2)
    (hzero : allZero (sub p 112 16) = true) (hrec : leAt p 104 8 = 0 ∨ (leAt p 104 8 % 64 = 0 ∧ inHbm (leAt p 104 8) 64 = true))
    (haligned : [8, 16, 24, 32, 40, 48, 56].all (fun i => kaligned (leAt p i 8)) = true) (hserves : w.kserves c (optIns p) = true)
    (hins : kgets c (optIns p) w = some (bs, false, v)) :
    w.opt2m c b = v.kernelOut c ((leAt p 4 4).testBit 0) (optOuts p bs) (fun u => u.countNonfin c (optWords p bs)) := by
  have hcounts : (decide (leAt p 0 4 = 0) || decide (1024 < leAt p 0 4) || decide (2 ≤ leAt p 4 4) || !allZero (sub p 112 16)) = false := by
    simp only [hzero, Bool.not_true, Bool.or_false, Bool.or_eq_false_iff, decide_eq_false_iff_not]
    omega
  have hplaces : ((decide (leAt p 104 8 ≠ 0) && (decide (leAt p 104 8 % 64 ≠ 0) || !inHbm (leAt p 104 8) 64)) ||
      !([8, 16, 24, 32, 40, 48, 56].all (fun i => kaligned (leAt p i 8)))) = false := by
    rw [haligned]
    rcases hrec with h | ⟨h, hhbm⟩
    · simp [h]
    · simp [h, hhbm]
  rw [Work.opt2m, Work.kernelPar_eq ha hp]
  simp only [hcounts, hplaces, Bool.false_eq_true, if_false]
  refine (Work.kernelIn_eq hrun hserves hins _).trans ?_
  rw [optOuts, ← optPut_eq, ← optPut_eq, ← optPut_eq, ← optPut_eq]
  rfl

end

end Sys2Proof.Machine
end

section
/-! ### OPT2M, at once and deferred (R207, R211) -/

namespace Sys2Proof.Machine

theorem inUnits_DLOG_SIZE (c : Nat) : InUnits (DLOG_SIZE c) := inUnits_coreBase c (by decide) (by decide)

theorem Work.MemKept.logEnd {w v : Work} (h : w.MemKept v) (c : Nat) : v.logEnd c = w.logEnd c := by
  rw [Work.logEnd, Work.logEnd, Work.base, Work.base, h.rd (inUnits_DLOG_BASE_LO c), Work.fld_congr (h.rd (inUnits_DLOG_BASE_HI c)),
    h.dig]

/-- The outputs of a kernel as writes without poison. -/
def cleanOuts (qs : List (List (Nat × List Byte))) : List (List Put) := qs.map (·.map (fun q => (q.1, q.2, false)))

theorem logBytes_cleanOuts (qs : List (List (Nat × List Byte))) :
    logBytes (cleanOuts qs) = (qs.map (fun q => 64 + ceilDiv ((q.map (·.2.length)).sum) 64 * 64)).sum := by
  simp only [logBytes, cleanOuts, recBytes, List.map_map, Function.comp_def]

theorem recordOf_clean (slot x seq : Nat) (q : List (Nat × List Byte)) :
    recordOf slot x seq (q.map (fun q => (q.1, q.2, false))) = { slot := slot, ctx := x, seq := seq, parts := q, poison := false } := by
  simp [recordOf, Function.comp_def]

theorem recordsOf_cleanOuts (slot x seq : Nat) (qs : List (List (Nat × List Byte))) :
    recordsOf slot x seq (cleanOuts qs) =
      (qs.zipIdx).map (fun q => { slot := slot, ctx := x, seq := seq + q.2, parts := q.1, poison := false }) := by
  rw [recordsOf, cleanOuts, List.zipIdx_map, List.zipIdx_eq_map_add, List.map_map, List.map_map]
  exact List.map_congr_left fun q _ => recordOf_clean slot x (seq + q.2) q.1

section
variable {s : State} {c : Fin 1024} {b p : List Byte} {bs : List (List Byte)} {v : Work} {qs : List (List (Nat × List Byte))}
  (halive : s.board.alive = true) (hf : s.work.Fetches c.val 16 16 b) (hk : leAt b 4 1 = 7) (ha : leAt b 8 4 % 32 = 0)
  (hp : s.work.localGet c.val (leAt b 8 4) 128 = some (p, false)) (h1 : 1 ≤ leAt p 0 4) (h2 : leAt p 0 4 ≤ 1024)
  (hdefer : leAt p 4 4 < 2) (hzero : allZero (sub p 112 16) = true)
  (hrec : leAt p 104 8 = 0 ∨ (leAt p 104 8 % 64 = 0 ∧ inHbm (leAt p 104 8) 64 = true))
  (haligned : [8, 16, 24, 32, 40, 48, 56].all (fun i => kaligned (leAt p i 8)) = true)
  (hserves : s.work.kserves c.val (optIns p) = true) (hins : kgets c.val (optIns p) s.work = some (bs, false, v))
  (hqs : (optOuts p bs).mapM (kputs c.val) = some qs)
include halive hf hk ha hp h1 h2 hdefer hzero hrec haligned hserves hins hqs

theorem leads_opt2m (hform : leAt p 4 4 = 0) (hserve : v.putsServe (qs.flatten.map (fun q => (q.1, q.2, false))) = true) :
    Leads (.opt2m c) s (fun w => w.mem = (v.putClean qs.flatten).mem ∧ s.work.Retired w c.val 16 ∧ w.acc = s.work.acc) := by
  have hin := kgets_memKept hins
  have hkept := hin.trans (v.putClean_memKept qs.flatten)
  have hrun : v.ctxState c.val 16 = 1 := (hin.ctxState c.val (by decide)).trans hf.1
  have hkernel := Work.opt2m_eq hf.1 ha hp h1 h2 hdefer hzero hrec haligned hserves hins
  rw [hform, Nat.zero_testBit, Work.kernelOut_now hrun hqs _ hserve] at hkernel
  have hcount := (Work.Counted.refl (v.putClean qs.flatten) c.val).countNonfin (optWords p bs)
  generalize (v.putClean qs.flatten).countNonfin c.val (optWords p bs) = u at hkernel hcount
  exact leads_of_run (execOpt2m.eq_1 c s) halive ((Work.issueVk_of_fetches hf hk _).trans hkernel)
    ⟨(Work.retireInstr_mem ..).trans hcount.mem, hkept.kernel_retired hcount, hkept.kernel_acc hcount⟩

/-- A deferred OPT2M appends one record of the log for each output (R211). -/
theorem leads_opt2m_deferred (hform : leAt p 4 4 = 1)
    (hfit : (s.work.dig c.val).logUsed + (qs.map (fun q => 64 + ceilDiv ((q.map (·.2.length)).sum) 64 * 64)).sum ≤
      4096 * s.work.fld (DLOG_SIZE c.val) 0 20)
    (hserve : v.rangeServes (s.work.logEnd c.val) (qs.map (fun q => 64 + ceilDiv ((q.map (·.2.length)).sum) 64 * 64)).sum = true)
    (hstacks : inStacks (s.work.logEnd c.val) (qs.map (fun q => 64 + ceilDiv ((q.map (·.2.length)).sum) 64 * 64)).sum = true) :
    Leads (.opt2m c) s (fun w => s.work.Retired w c.val 16 ∧ w.acc = s.work.acc ∧
      (w.dig c.val).log = (s.work.dig c.val).log ++ (qs.zipIdx).map (fun q =>
        { slot := (s.work.ctx c.val 16).job.getD 0, ctx := 16, seq := (s.work.dig c.val).logSeq + q.2, parts := q.1, poison := false }) ∧
      (∀ a, a < s.work.logEnd c.val ∨
        s.work.logEnd c.val + (qs.map (fun q => 64 + ceilDiv ((q.map (·.2.length)).sum) 64 * 64)).sum ≤ a →
          w.byte a = s.work.byte a)) := by
  have hin := kgets_memKept hins
  have hrun : v.ctxState c.val 16 = 1 := (hin.ctxState c.val (by decide)).trans hf.1
  have hmem : v.mem = s.work.mem := kgets_mem hins
  have hend := hin.logEnd c.val
  have hsize := Work.fld_congr (hin.rd (inUnits_DLOG_SIZE c.val)) 0 20
  rw [← logBytes_cleanOuts, ← hend] at hserve hstacks
  rw [← logBytes_cleanOuts, ← hin.dig, ← hsize] at hfit
  rw [← logBytes_cleanOuts, ← hend]
  have hkernel := Work.opt2m_eq hf.1 ha hp h1 h2 hdefer hzero hrec haligned hserves hins
  rw [hform, show Nat.testBit 1 0 = true from rfl, Work.kernelOut_logged hrun hqs _ hfit hserve] at hkernel
  have hlogged := v.logPuts_logKept c.val 16 (cleanOuts qs)
  have hlog := congrArg Digital.log (v.logPuts_dig c.val 16 (cleanOuts qs))
  rw [recordsOf_cleanOuts, hin.ctx, hin.dig] at hlog
  have hapart := fun a => v.byte_logPuts_apart 16 hstacks (a := a)
  have hcount := (Work.Counted.refl (v.logPuts c.val 16 (cleanOuts qs)) c.val).countNonfin (optWords p bs)
  change s.work.opt2m c.val b = ((v.logPuts c.val 16 (cleanOuts qs)).countNonfin c.val (optWords p bs)).retireInstr c.val 16 at hkernel
  generalize v.logPuts c.val 16 (cleanOuts qs) = z at hkernel hlogged hlog hapart hcount
  generalize z.countNonfin c.val (optWords p bs) = u at hkernel hcount
  refine leads_of_run (execOpt2m.eq_1 c s) halive ((Work.issueVk_of_fetches hf hk _).trans hkernel)
    ⟨Work.retired_retireInstr ?_ ?_, ?_, ?_, fun a hout => ?_⟩
  · rw [hcount.ctx, hlogged.ctx, hin.ctx]
  · rw [hcount.ctxState, hlogged.ctxState (by decide), hin.ctxState c.val (by decide)]
  · rw [Work.retireInstr_acc, hcount.acc, hlogged.acc, hin.acc]
  · rw [Work.dig_congr (Work.retireInstr_digital ..), Work.dig_congr hcount.digital, hlog]
  · rw [Work.byte_congr (Work.retireInstr_mem ..), Work.byte_congr hcount.mem, hapart a hout, Work.byte_congr hmem]

end

/-- Settles O19: each kernel by its inputs read, its outputs written and what it counts. -/
theorem vectorKernelsRun : Obligations.VectorKernelsRun := by
  refine ⟨⟨?elemwise, ?rownorm, ?softmax⟩, ⟨?rownormBwd, ?softmaxBwd⟩, ?narrow, ?opt2m⟩
  case elemwise =>
    intro s c p b pb xs v qs halive hf hk ha hp haligned hserves hts t out hqs hserve
    exact leads_elemwise halive hf hk ha hp haligned hserves hts hqs hserve
  case rownorm =>
    intro s c p b pb x g v q1 q2 halive hf hk ha hp haligned hserves hts r out hq1 hq2 hserve
    exact leads_rownorm halive hf hk ha hp haligned hserves hts hq1 hq2 hserve
  case softmax =>
    intro s c p b pb k ws a t halive hf hk ha hp haligned hkern horder htile hclean m n hlen
    refine ⟨leads_softmax_takes halive hf hk ha hp haligned hkern horder htile hclean hlen, ?_⟩
    intro mask v q1 q2 q3 hlast len hserves hts row hq1 hq2 hq3 hserve
    exact leads_softmax_last halive hf hk ha hp haligned hkern horder htile hclean hlen hlast hserves hts hq1 hq2 hq3 hserve
  case rownormBwd =>
    intro s c b pb o a q acc t xs b1 b2 b3 v v2 u halive hf hk ha hp p hopd hok haligned htile hclean hshape hsplit hkern hserves
      hwithin hband hins dg z hwrite
    exact leads_rownormBwd halive hf ha hp hopd htile hclean hshape hsplit hkern hwithin hk hok haligned hserves hband hins hwrite
  case softmaxBwd =>
    intro s c b pb o a q acc t ps v halive hf hk ha hp p hopd hok haligned htile hclean hshape hsplit hkern hserves hwithin hband e
    exact leads_softmaxBwd halive hf ha hp hopd htile hclean hshape hsplit hkern hwithin hk hok haligned hserves hband
  case narrow =>
    intro s c b pb rows v0 v qs halive hf hk ha hp p entry hok hsrc hdst hscl hnamed hserves hins r hqs hserve u
    exact leads_narrow halive hf hk ha hp hok hsrc hdst hscl hnamed hserves hins hqs hserve
  case opt2m =>
    intro s c b p bs v qs halive hf hk ha hp n rec_ rows ins h1 h2 hdefer hzero hrec haligned hserves hins f o word new put hqs
    exact ⟨leads_opt2m halive hf hk ha hp h1 h2 hdefer hzero hrec haligned hserves hins hqs,
      leads_opt2m_deferred halive hf hk ha hp h1 h2 hdefer hzero hrec haligned hserves hins hqs⟩

end Sys2Proof.Machine
end

section
/-! ### What reads and writes of HBM leave alone

They count in registers of the folds, of the memory controllers and of the stash (R140, R274, R310); the engines' own registers
stand, and of the state only memory, its marks and the free values used up differ. -/

namespace Sys2Proof.Machine

/-- An address of the device's own registers (Table 15-1), but for the two in which the stash counts unmapped accesses. -/
abbrev EngineReg (a : Nat) : Prop := a < memcBase 0 ∧ a ∉ [UNMAPPED_CNT, STASH_STATUS]

theorem EngineReg.ne_memc {a : Nat} (h : EngineReg a) (m o : Nat) : a ≠ memcBase m + o := by
  have hlt := h.1
  unfold memcBase at *
  omega

theorem EngineReg.ne_core {a : Nat} (h : EngineReg a) (c o : Nat) : a ≠ coreBase c + o := by
  have hlt := h.1
  unfold memcBase at hlt
  unfold coreBase
  omega

/-- Between two states only memory, its marks, the free values used up and registers that are no engine's differ. -/
structure Work.HbmKept (w v : Work) : Prop where
  stack : w.StackKept v
  regs : ∀ a, EngineReg a → v.reg a = w.reg a

namespace Work.HbmKept

variable {u v w : Work}

theorem refl (w : Work) : w.HbmKept w := ⟨.refl w, fun _ _ => rfl⟩

theorem trans (h : u.HbmKept v) (k : v.HbmKept w) : u.HbmKept w :=
  ⟨h.stack.trans k.stack, fun a ha => (k.regs a ha).trans (h.regs a ha)⟩

theorem inc (w : Work) {a : Nat} (ht : ¬ InTile a) (ha : ∀ b, EngineReg b → b ≠ a) : w.HbmKept (w.inc a) :=
  ⟨(StackKept.refl w).inc ht, fun b hb => (w.reg_wr a _ b).trans (if_neg (ha b hb))⟩

theorem foldl {α : Type} {f : Work → α → Work} (hf : ∀ (v : Work) x, v.HbmKept (f v x)) (l : List α) (w : Work) :
    w.HbmKept (l.foldl f w) :=
  List.foldlRecOn l f (refl w) fun v hv x _ => hv.trans (hf v x)

theorem when (h : w.HbmKept v) {f : Work → Work} (hf : v.HbmKept (f v)) (c : Bool) : w.HbmKept (v.when c f) := by
  cases c with
  | true => exact h.trans hf
  | false => exact h

theorem step (h : w.HbmKept v) : v.step = w.step := (congrArg Work.step h.stack.rest :)
theorem stroke (h : w.HbmKept v) : v.stroke = w.stroke := (congrArg Work.stroke h.stack.rest :)
theorem sess (h : w.HbmKept v) : v.sess = w.sess := (congrArg Work.sess h.stack.rest :)
theorem coxes (h : w.HbmKept v) : v.coxes = w.coxes := (congrArg Work.coxes h.stack.rest :)

theorem rd (h : w.HbmKept v) {a : Nat} (ha : EngineReg a) : v.rd a = w.rd a := congrArg BitVec.toNat (h.regs a ha)

theorem fld (h : w.HbmKept v) {a : Nat} (ha : EngineReg a) (lo len : Nat) : v.fld a lo len = w.fld a lo len :=
  Work.fld_congr (h.rd ha) lo len

theorem flag (h : w.HbmKept v) {a : Nat} (ha : EngineReg a) (i : Nat) : v.flag a i = w.flag a i := Work.flag_congr (h.rd ha) i

theorem base (h : w.HbmKept v) {lo hi : Nat} (hlo : EngineReg lo) (hhi : EngineReg hi) : v.base lo hi = w.base lo hi := by
  rw [Work.base, Work.base, h.rd hlo, h.fld hhi]

end Work.HbmKept

theorem Work.readsStack_hbmKept (w : Work) (a n : Nat) : w.HbmKept (w.readsStack a n) := by
  unfold Work.readsStack Work.foldWait Work.poisonReads
  exact (Work.HbmKept.foldl (fun v c => .inc v (not_inTile_FOLD_WAIT_CNT c) fun _ hb => hb.ne_core c _) _ w).trans
    (Work.HbmKept.foldl (fun v _ => .inc v (not_inTile_POISON_RD_CNT _) fun _ hb => hb.ne_memc _ _) _ _)

theorem Work.unmapped_hbmKept (w : Work) : w.HbmKept w.unmapped := by
  refine ⟨w.unmapped_kept, fun a ha => ?_⟩
  have h1 : a ≠ UNMAPPED_CNT := fun e => ha.2 (by simp [e])
  have h2 : a ≠ STASH_STATUS := fun e => ha.2 (by simp [e])
  exact ((Work.reg_wr _ _ _ a).trans (if_neg h2)).trans ((Work.reg_wr _ _ _ a).trans (if_neg h1))

theorem Work.put_hbmKept (w : Work) (a : Nat) (bs : List Byte) (p : Bool) : w.HbmKept (w.put a bs p) :=
  ⟨.put w a bs p, fun _ _ => by cases p <;> rfl⟩

theorem Work.putStack_hbmKept (w : Work) (a : Nat) (bs : List Byte) (p : Bool) : w.HbmKept (w.putStack a bs p) :=
  (Work.HbmKept.foldl (fun v _ =>
    (Work.HbmKept.inc v (not_inTile_POISON_RD_CNT _) fun _ hb => hb.ne_memc _ _).trans
      (.inc _ (not_inTile_RMW_POISON_CNT _) fun _ hb => hb.ne_memc _ _)) _ w).trans (Work.put_hbmKept _ a bs p)

theorem Work.drawBytes_hbmKept (w : Work) (n : Nat) : w.HbmKept (w.drawBytes n).2 := ⟨⟨rfl, fun _ _ => rfl⟩, fun _ _ => rfl⟩

/-- A part of a line read through the aperture (R272, R274). -/
def Work.getLine (r : List Byte × Bool × Bool × Work) (p : Nat × Nat) : List Byte × Bool × Bool × Work :=
  match r.2.2.2.resolve p.1 with
  | .at_ b => (r.1 ++ r.2.2.2.bytes b p.2, r.2.1 || r.2.2.2.poisoned b p.2, r.2.2.1, r.2.2.2.readsStack b p.2)
  | .zeros => (r.1 ++ zeros p.2, r.2.1, r.2.2.1, r.2.2.2)
  | .unmapped => (r.1 ++ (r.2.2.2.drawBytes p.2).1, true, true, (r.2.2.2.drawBytes p.2).2)

theorem Work.hbmGet_aperture (w : Work) {a n : Nat} (h : ¬ inStacks a n = true) :
    w.hbmGet a n =
      let r := (linesOf a n).foldl Work.getLine ([], false, false, w)
      (r.1, r.2.1, r.2.2.2.when r.2.2.1 Work.unmapped) := (if_neg h).trans rfl

theorem Work.hbmGet_hbmKept (w : Work) (a n : Nat) : w.HbmKept (w.hbmGet a n).2.2 := by
  by_cases h : inStacks a n = true
  · rw [w.hbmGet_stacks h]
    exact w.readsStack_hbmKept a n
  · rw [w.hbmGet_aperture h]
    refine Work.HbmKept.when (List.foldlRecOn (motive := fun r : List Byte × Bool × Bool × Work => w.HbmKept r.2.2.2) _ _ (.refl w)
      fun r hr p _ => ?_) (Work.unmapped_hbmKept _) _
    unfold Work.getLine
    cases r.2.2.2.resolve p.1 with
    | at_ b => exact hr.trans (Work.readsStack_hbmKept _ _ _)
    | zeros => exact hr
    | unmapped => exact hr.trans (Work.drawBytes_hbmKept _ p.2)

theorem Work.hbmPut_hbmKept (w : Work) (a : Nat) (bs : List Byte) (p : Bool) : w.HbmKept (w.hbmPut a bs p) := by
  by_cases h : inStacks a bs.length = true
  · rw [Work.hbmPut, if_pos h]
    exact w.putStack_hbmKept a bs p
  · rw [w.hbmPut_aperture p h]
    refine Work.HbmKept.when (List.foldlRecOn (motive := fun r : Bool × Work => w.HbmKept r.2) _ _ (.refl w) fun r hr q _ => ?_)
      (Work.unmapped_hbmKept _) _
    unfold Work.putLine
    cases r.2.resolve q.1 with
    | at_ b => exact hr.trans (Work.putStack_hbmKept _ _ _ _)
    | zeros => exact hr
    | unmapped => exact hr

end Sys2Proof.Machine
end

section
/-! ### What HBM reads as

A read of HBM goes by memory, by the free values to come, and by the table of the aperture; two states that agree there read alike. -/

namespace Sys2Proof.Machine

/-- The registers by which an aperture address is translated (R272 to R274). -/
def tableRegs : List Nat :=
  [STEP_CFG, ENTRY_BASE_LO, ENTRY_BASE_HI, ENTRY_COUNT, POOL_BASE_LO, POOL_BASE_HI, RCMP_BASE_LO, RCMP_BASE_HI]

theorem engineReg_of_mem_tableRegs : ∀ a ∈ tableRegs, EngineReg a := by decide

/-- HBM reads alike in two states. -/
structure Work.ReadsAs (w v : Work) : Prop where
  mem : v.mem = w.mem
  free : v.free = w.free
  stash : v.step.stash = w.step.stash
  regs : ∀ a ∈ tableRegs, v.rd a = w.rd a

namespace Work.ReadsAs

variable {u v w : Work}

theorem refl (w : Work) : w.ReadsAs w := ⟨rfl, rfl, rfl, fun _ _ => rfl⟩

theorem trans (h : u.ReadsAs v) (k : v.ReadsAs w) : u.ReadsAs w :=
  ⟨k.mem.trans h.mem, k.free.trans h.free, k.stash.trans h.stash, fun a ha => (k.regs a ha).trans (h.regs a ha)⟩

theorem symm (h : w.ReadsAs v) : v.ReadsAs w := ⟨h.mem.symm, h.free.symm, h.stash.symm, fun a ha => (h.regs a ha).symm⟩

theorem wr (h : w.ReadsAs v) {a : Nat} (ha : a ∉ tableRegs) (n : Nat) : w.ReadsAs (v.wr a n) :=
  ⟨h.mem, h.free, h.stash, fun b hb => (v.rd_wr_ne a n fun e => ha (e ▸ hb)).trans (h.regs b hb)⟩

theorem of_hbmKept (h : w.HbmKept v) (hmem : v.mem = w.mem) (hfree : v.free = w.free) : w.ReadsAs v :=
  ⟨hmem, hfree, congrArg StepSt.stash h.step, fun a ha => h.rd (engineReg_of_mem_tableRegs a ha)⟩

theorem fld (h : w.ReadsAs v) {a : Nat} (ha : a ∈ tableRegs) (lo len : Nat) : v.fld a lo len = w.fld a lo len :=
  Work.fld_congr (h.regs a ha) lo len

theorem base (h : w.ReadsAs v) {lo hi : Nat} (hlo : lo ∈ tableRegs) (hhi : hi ∈ tableRegs) : v.base lo hi = w.base lo hi := by
  rw [Work.base, Work.base, h.regs lo hlo, h.fld hhi]

theorem laneCap (h : w.ReadsAs v) : v.laneCap = w.laneCap := by rw [Work.laneCap, Work.laneCap, h.fld (by decide)]
theorem lanes (h : w.ReadsAs v) : v.lanes = w.lanes := by rw [Work.lanes, Work.lanes, h.fld (by decide)]

/-- The entry table and the translation read alike (R272, R274). -/
theorem resolve (h : w.ReadsAs v) (a : Nat) : v.resolve a = w.resolve a := by
  have hnum : v.num = w.num := funext fun a => funext fun n => Work.num_congr h.mem a n
  have hat : v.entryAt = w.entryAt := funext fun i => by rw [Work.entryAt, Work.entryAt, h.base (by decide) (by decide)]
  have hcount : v.entryCount = w.entryCount := h.fld (by decide) 0 17
  have haperture : v.entryAperture = w.entryAperture := funext fun i => by rw [Work.entryAperture, Work.entryAperture, hnum, hat]
  have hmax : v.entryMax = w.entryMax := funext fun i => by
    rw [Work.entryMax, Work.entryMax, Work.entryBpt, Work.entryBpt, hnum, hat, h.laneCap]
  have hof : v.entryOf a = w.entryOf a := by rw [Work.entryOf, Work.entryOf, hcount, haperture, hmax]
  have hstate : v.entryState = w.entryState := funext fun i => by rw [Work.entryState, Work.entryState, hnum, hat]
  have hpages : v.entryPages = w.entryPages := funext fun i => by rw [Work.entryPages, Work.entryPages, hnum, hat]
  have hrcmp : v.entryRcmp = w.entryRcmp := funext fun i => by rw [Work.entryRcmp, Work.entryRcmp, hnum, hat]
  rw [Work.resolve, Work.resolve, hof, haperture, hstate, hpages, hrcmp, h.stash, h.base (lo := POOL_BASE_LO) (by decide) (by decide),
    h.base (lo := RCMP_BASE_LO) (by decide) (by decide)]

end Work.ReadsAs

theorem Work.readsStack_free (w : Work) (a n : Nat) : (w.readsStack a n).free = w.free := by
  unfold Work.readsStack Work.foldWait Work.poisonReads
  refine List.foldlRecOn (motive := fun v : Work => v.free = w.free) _ _ ?_ fun _ h _ _ => h
  exact List.foldlRecOn (motive := fun v : Work => v.free = w.free) _ _ rfl fun _ h _ _ => h

theorem Work.readsStack_readsAs (w : Work) (a n : Nat) : w.ReadsAs (w.readsStack a n) :=
  .of_hbmKept (w.readsStack_hbmKept a n) (w.readsStack_mem a n) (w.readsStack_free a n)

namespace Work.ReadsAs

variable {v w : Work}

theorem getLine {q r : List Byte × Bool × Bool × Work} (h : r.1 = q.1 ∧ q.2.2.2.ReadsAs r.2.2.2) (p : Nat × Nat) :
    (Work.getLine r p).1 = (Work.getLine q p).1 ∧ (Work.getLine q p).2.2.2.ReadsAs (Work.getLine r p).2.2.2 := by
  obtain ⟨hb, hr⟩ := h
  unfold Work.getLine
  rw [hr.resolve p.1, hb]
  cases q.2.2.2.resolve p.1 with
  | at_ b =>
    exact ⟨congrArg (q.1 ++ ·) (Work.bytes_congr hr.mem b p.2),
      (Work.readsStack_readsAs _ _ _).symm.trans (hr.trans (Work.readsStack_readsAs _ _ _))⟩
  | zeros => exact ⟨rfl, hr⟩
  | unmapped =>
    exact ⟨by simp only [Work.drawBytes, Work.draw, hr.free], hr.mem, congrArg (· + 1) hr.free, hr.stash, hr.regs⟩

/-- What a read of HBM returns. -/
theorem hbmGet (h : w.ReadsAs v) (a n : Nat) : (v.hbmGet a n).1 = (w.hbmGet a n).1 := by
  by_cases hin : inStacks a n = true
  · rw [v.hbmGet_stacks hin, w.hbmGet_stacks hin]
    exact Work.bytes_congr h.mem a n
  · rw [v.hbmGet_aperture hin, w.hbmGet_aperture hin]
    have hlines : ((linesOf a n).foldl Work.getLine ([], false, false, v)).1 =
          ((linesOf a n).foldl Work.getLine ([], false, false, w)).1 ∧
        ((linesOf a n).foldl Work.getLine ([], false, false, w)).2.2.2.ReadsAs
          ((linesOf a n).foldl Work.getLine ([], false, false, v)).2.2.2 :=
      List.foldl_rel (r := fun (r q : List Byte × Bool × Bool × Work) => r.1 = q.1 ∧ q.2.2.2.ReadsAs r.2.2.2) ⟨rfl, h⟩
        fun p _ _ _ hrq => getLine hrq p
    exact hlines.1

theorem seqsOf (h : w.ReadsAs v) (mb : List Byte) : v.seqsOf mb = w.seqsOf mb := by simp only [Work.seqsOf, h.hbmGet]

theorem mbsOf (h : w.ReadsAs v) (r : List Byte) : v.mbsOf r = w.mbsOf r := by simp only [Work.mbsOf, h.hbmGet]

theorem sessProg (h : w.ReadsAs v) (p : Nat) (hb : v.base SPROG_BASE_LO SPROG_BASE_HI = w.base SPROG_BASE_LO SPROG_BASE_HI) :
    v.sessProg p = w.sessProg p := by rw [Work.sessProg, Work.sessProg, hb, h.hbmGet]

/-- The checks of a step record (Table 7-3). -/
theorem stepCheck (h : w.ReadsAs v) (hprev : v.step.prev = w.step.prev) (r : List Byte) : v.stepCheck r = w.stepCheck r := by
  simp only [Work.stepCheck, h.mbsOf, funext h.seqsOf, hprev, h.lanes, h.laneCap, h.hbmGet]

end Work.ReadsAs

end Sys2Proof.Machine
end

section
/-! ### The step engine: lanes and records (R252 to R264) -/

namespace Sys2Proof.Machine

/-- Lane buffers written leave the step engine's state, the coxes and every register of an engine but the two counts of heats. -/
structure Work.LanesKept (w v : Work) : Prop where
  step : v.step = w.step
  coxes : v.coxes = w.coxes
  rd : ∀ a, EngineReg a → a ∉ [HEAT_CNT, EMPTY_HEAT_CNT] → v.rd a = w.rd a

theorem Work.LanesKept.trans {u v w : Work} (h : u.LanesKept v) (k : v.LanesKept w) : u.LanesKept w :=
  ⟨k.step.trans h.step, k.coxes.trans h.coxes, fun a ha hn => (k.rd a ha hn).trans (h.rd a ha hn)⟩

theorem Work.HbmKept.lanesKept {w v : Work} (h : w.HbmKept v) : w.LanesKept v := ⟨h.step, h.coxes, fun _ ha _ => h.rd ha⟩

theorem Work.putTokens_hbmKept (w : Work) (a : Nat) (p : Piece) : w.HbmKept (w.putTokens a p) :=
  (w.hbmGet_hbmKept _ _).trans (Work.hbmPut_hbmKept _ _ _ _)

theorem Work.putLane_lanesKept (w : Work) (q : Nat) : w.LanesKept (w.putLane q) := by
  have hcount : ∀ (u : Work) (b : Bool), u.LanesKept (u.inc (if b then EMPTY_HEAT_CNT else HEAT_CNT)) := fun u b =>
    ⟨rfl, rfl, fun a _ hn => u.rd_inc_ne _ fun e => hn (by cases b <;> simp [e])⟩
  refine Work.LanesKept.trans (Work.HbmKept.lanesKept ?_) (hcount _ _)
  refine (((List.foldlRecOn (motive := fun r : List Byte × Nat × Work => w.HbmKept r.2.2) _ _ (.refl w) fun r hr p _ =>
    hr.trans (Work.putTokens_hbmKept _ _ p)).trans (Work.hbmPut_hbmKept _ _ _ _)).trans (Work.hbmPut_hbmKept _ _ _ _)).trans
      (Work.hbmPut_hbmKept _ _ _ _)

theorem Work.putLanes_lanesKept (w : Work) : w.LanesKept w.putLanes :=
  have h := List.foldlRecOn (motive := fun v : Work => w.LanesKept v) (List.range w.lanes) (fun (v : Work) q => v.putLane q)
    ⟨rfl, rfl, fun _ _ _ => rfl⟩ fun v hv q _ => hv.trans (v.putLane_lanesKept q)
  ⟨h.step, h.coxes, h.rd⟩

/-- Where the record at FEED_HEAD lies (R255). -/
def Work.feedAt (w : Work) : Nat := w.base FEED_BASE_LO FEED_BASE_HI + 64 * w.fld FEED_HEAD 0 16

/-- The step engine with the step of a record taken (R255, R259). -/
def Work.stepTaken (w : Work) (r : List Byte) : StepSt :=
  { w.step with
    prev := some (leAt r 0 4), step := leAt r 0 4, strokes := leAt r 4 1, stroke := 0, inStep := true
    tokenScale := BitVec.ofNat 32 (leAt r 8 4), heats := ((w.mbsOf r).map w.seqsOf).map (cutHeats w.laneCap), starving := false }

/-- FEED_HEAD past the record at it. -/
def Work.feedPassed (w : Work) : Work := w.setFld FEED_HEAD 0 16 ((w.fld FEED_HEAD 0 16 + 1) % w.feedSize)

theorem Work.feedPassed_readsAs (w : Work) : w.ReadsAs w.feedPassed := (Work.ReadsAs.refl w).wr (by decide) _

theorem Work.stepTaken_congr {w v : Work} (h : w.ReadsAs v) (hstep : v.step = w.step) (r : List Byte) :
    v.stepTaken r = w.stepTaken r := by
  simp only [Work.stepTaken, h.mbsOf, funext h.seqsOf, h.laneCap, hstep]

/-- A record that passes its checks is taken: its heats are cut and counted, and the lanes of its first stroke prepared (R255 to R264). -/
theorem Work.takeRecord_taken {w : Work} (h : (w.hbmGet w.feedAt 64).2.2.stepCheck (w.hbmGet w.feedAt 64).1 = 0) :
    ∃ n, w.takeRecord = (({ (w.hbmGet w.feedAt 64).2.2.feedPassed with
      step := (w.hbmGet w.feedAt 64).2.2.stepTaken (w.hbmGet w.feedAt 64).1 } : Work).incBy SPLIT_SEQ_CNT n).putLanes := by
  rw [← Work.stepTaken_congr (Work.feedPassed_readsAs _) rfl]
  unfold Work.takeRecord
  exact ⟨_, if_neg (not_not.mpr h)⟩

theorem Work.feedSize_of_hbmKept {w v : Work} (h : w.HbmKept v) : v.feedSize = w.feedSize := by
  rw [Work.feedSize, Work.feedSize, h.fld (by decide)]

/-- What the taking of a record leaves. -/
theorem Work.takeRecord_leaves {w : Work} (h : (w.hbmGet w.feedAt 64).2.2.stepCheck (w.hbmGet w.feedAt 64).1 = 0) :
    w.takeRecord.step = (w.hbmGet w.feedAt 64).2.2.stepTaken (w.hbmGet w.feedAt 64).1 ∧ w.takeRecord.stroke.prepared = true ∧
      w.takeRecord.coxes = w.coxes ∧
      w.takeRecord.fld FEED_HEAD 0 16 = (w.fld FEED_HEAD 0 16 + 1) % w.feedSize % 2 ^ 16 := by
  obtain ⟨n, htaken⟩ := Work.takeRecord_taken h
  have hread := w.hbmGet_hbmKept w.feedAt 64
  rw [htaken]
  have hlanes := Work.putLanes_lanesKept (({ (w.hbmGet w.feedAt 64).2.2.feedPassed with
      step := (w.hbmGet w.feedAt 64).2.2.stepTaken (w.hbmGet w.feedAt 64).1 } : Work).incBy SPLIT_SEQ_CNT n)
  refine ⟨hlanes.step, rfl, hlanes.coxes.trans hread.coxes, ?_⟩
  rw [Work.fld_congr (hlanes.rd FEED_HEAD (by decide) (by decide)), Work.fld_congr (Work.rd_incBy_ne _ _ _ (by decide)),
    ← hread.fld (a := FEED_HEAD) (by decide), ← Work.feedSize_of_hbmKept hread]
  exact Work.fld_setFld_same (w.hbmGet w.feedAt 64).2.2 FEED_HEAD 0 16 _ (by decide)

/-! What a preparation comes to (R252, R257, R264). -/

section
variable {w : Work} (hrefused : w.step.refused = false) (hprep : w.stroke.prepared = false)
include hrefused hprep

theorem Work.prepare_midStep (hmid : w.midStep = true) :
    w.prepare = ({ w with step := { w.step with stroke := w.step.stroke + 1 } } : Work).putLanes := by
  simp only [Work.prepare, hrefused, hprep, hmid, Bool.or_self, Bool.false_eq_true, if_false, if_true]

theorem Work.prepare_starves (hmid : w.midStep = false) (hfeed : w.flag STEP_CTL 0 = true) (hready : w.feedReady = false) :
    w.prepare = ({ w with step := { w.step with starving := true } } : Work).setBit STEP_STATUS 17 := by
  simp only [Work.prepare, hrefused, hprep, hmid, hfeed, hready, Bool.or_self, Bool.not_true, Bool.false_eq_true, if_false]

theorem Work.prepare_takes (hmid : w.midStep = false) (hfeed : w.flag STEP_CTL 0 = true) (hready : w.feedReady = true) :
    w.prepare = w.takeRecord := by
  simp only [Work.prepare, hrefused, hprep, hmid, hfeed, hready, Bool.or_self, Bool.not_true, Bool.false_eq_true, if_false, if_true]

end

theorem Work.midStep_of_not_inStep {w : Work} (h : w.step.inStep = false) : w.midStep = false := by rw [Work.midStep, h, Bool.false_and]

end Sys2Proof.Machine
end

section
/-! ### FEED_TAIL and the registers of the stash's table (R255, R257, R277) -/

namespace Sys2Proof.Machine

section
variable {s : State} {p : Path}

theorem Work.wrPlain_step (w : Work) (a v : Nat) : (w.wrPlain p a v).step = w.step := by rw [w.wrPlain_frame]

theorem Work.wrPlain_stroke (w : Work) (a v : Nat) : (w.wrPlain p a v).stroke = w.stroke := by rw [w.wrPlain_frame]

theorem gives_feedTailWrite {v : Word} {w : Work} (halive : s.board.alive = true) (hw : s.work.Writable p FEED_TAIL v.toNat)
    (h : s.work.writeFeedTail p v.toNat = w) : Gives (.feedTailWrite p v) s w :=
  gives_of_run (execFeedTailWrite.eq_1 p v s) halive ((Work.onBus_done hw _).trans h)

theorem Work.writeFeedTail_of_fed {w : Work} (v : Nat) (h : w.step.starving = false) :
    w.writeFeedTail p v = w.wrPlain p FEED_TAIL v := by
  rw [Work.writeFeedTail, Work.wrPlain_step, h]
  rfl

theorem Work.writeFeedTail_of_starving {w : Work} {v : Nat} (h : w.step.starving = true)
    (hready : (w.wrPlain p FEED_TAIL v).feedReady = true) (hdue : (w.wrPlain p FEED_TAIL v).prepDue = true) :
    w.writeFeedTail p v = (w.wrPlain p FEED_TAIL v).prepare := by
  rw [Work.writeFeedTail, Work.wrPlain_step, h, hready, hdue]
  rfl

/-- FEED_TAIL past the engine's head ends its wait: it takes the record and prepares its first stroke (R255, R257). -/
theorem leads_feedTailWrite {v : Word} (halive : s.board.alive = true) (hw : s.work.Writable p FEED_TAIL v.toNat) {u : Work}
    (hu : s.work.wrPlain p FEED_TAIL v.toNat = u) (hstarve : s.work.step.starving = true) (hprep : s.work.stroke.prepared = false)
    (hrefused : s.work.step.refused = false) (hmid : u.midStep = false) (hfeed : u.flag STEP_CTL 0 = true) (hdue : u.prepDue = true)
    (hready : u.feedReady = true) (hcheck : (u.hbmGet u.feedAt 64).2.2.stepCheck (u.hbmGet u.feedAt 64).1 = 0) :
    Leads (.feedTailWrite p v) s (fun w => w.step = (u.hbmGet u.feedAt 64).2.2.stepTaken (u.hbmGet u.feedAt 64).1 ∧
      w.stroke.prepared = true ∧
      w.fld FEED_HEAD 0 16 = (s.work.fld FEED_HEAD 0 16 + 1) % s.work.feedSize % 2 ^ 16) := by
  have hkept := s.work.wrPlain_kept p FEED_TAIL v.toNat
  have hstep : u.step = s.work.step := hu ▸ Work.wrPlain_step s.work _ _
  have hstroke : u.stroke = s.work.stroke := hu ▸ Work.wrPlain_stroke s.work _ _
  rw [hu] at hkept
  obtain ⟨htaken, hprepared, -, hhead⟩ := Work.takeRecord_leaves hcheck
  have hprepare : u.prepare = u.takeRecord :=
    Work.prepare_takes (by rw [hstep, hrefused]) (by rw [hstroke, hprep]) hmid hfeed hready
  refine ⟨u.takeRecord, gives_feedTailWrite halive hw ?_, htaken, hprepared, ?_⟩
  · rw [Work.writeFeedTail_of_starving hstarve (hu ▸ hready) (hu ▸ hdue), hu, hprepare]
  · rw [hhead, Work.feedSize, hkept.fld (by decide), hkept.fld (by decide), ← Work.feedSize]

theorem gives_stashTableWrite {a : Nat} {v : Word} {w : Work} (halive : s.board.alive = true) (ha : a ∈ stashTableRegs)
    (hw : s.work.Writable p a v.toNat) (h : s.work.writeStashTable p a v.toNat = w) : Gives (.stashTableWrite p a v) s w :=
  gives_of_run (execStashTableWrite.eq_1 p a v s) halive
    ((if_pos (List.contains_iff_mem.mpr ha)).trans ((Work.onBus_done hw _).trans h))

theorem Work.writeStashTable_of_busy {w : Work} (a v : Nat) (h : w.allIdle = false) : w.writeStashTable p a v = w := by
  rw [Work.writeStashTable, h]
  rfl

theorem Work.writeStashTable_of_idle {w : Work} (a v : Nat) (h : w.allIdle = true) :
    w.writeStashTable p a v =
      (if a = POOL_PAGES then (w.wrPlain p a v).setFld POOL_FREE 0 23 ((w.wrPlain p a v).fld POOL_PAGES 0 23)
        else w.wrPlain p a v).checkEntries := by
  rw [Work.writeStashTable, h]
  by_cases ha : a = POOL_PAGES
  · simp only [ha, Bool.not_true, Bool.false_eq_true, decide_true, Work.when_true, if_true, if_false]
  · simp only [ha, Bool.not_true, Bool.false_eq_true, decide_false, Work.when_false, if_false]

end

/-- Settles O20: FEED_TAIL by whether the engine waits for a record, the table's registers by whether every cox is IDLE. -/
theorem feedAndStashRegistersAct : Obligations.FeedAndStashRegistersAct := by
  refine ⟨?fed, ?starving, ?table⟩
  case fed =>
    intro s p v halive hw hfed
    exact gives_feedTailWrite halive hw (Work.writeFeedTail_of_fed v.toNat hfed)
  case starving =>
    intro s p v halive hw u record hstarve hprep hrefused hmid hfeed hdue hready hcheck
    obtain ⟨w, hgives, hstep, hprepared, hhead⟩ :=
      leads_feedTailWrite halive hw rfl hstarve hprep hrefused hmid hfeed hdue hready hcheck
    refine ⟨w, hgives, ?_⟩
    beta_reduce
    rw [hstep]
    exact ⟨rfl, hprepared, rfl, rfl, rfl, rfl, rfl, rfl, hhead⟩
  case table =>
    intro s p a v halive ha hw
    refine ⟨fun hbusy => gives_stashTableWrite halive ha hw (Work.writeStashTable_of_busy a v.toNat hbusy), fun hidle => ?_⟩
    exact gives_stashTableWrite halive ha hw (Work.writeStashTable_of_idle a v.toNat hidle)

end Sys2Proof.Machine
end

section
/-! ### LANE_PREP (R255 to R257, R264) -/

namespace Sys2Proof.Machine

section
variable {s : State} (halive : s.board.alive = true) (hdue : s.work.prepDue = true) (hrefused : s.work.step.refused = false)
  (hprep : s.work.stroke.prepared = false)
include halive hdue hrefused hprep

omit hrefused hprep in
theorem gives_lanePrep {w : Work} (h : s.work.prepare = w) : Gives .lanePrep s w :=
  gives_of_run (execLanePrep.eq_1 s) halive ((if_pos hdue).trans h)

theorem gives_lanePrep_midStep (hin : s.work.step.inStep = true) (hleft : s.work.step.stroke + 1 < s.work.step.strokes) :
    Gives .lanePrep s ({ s.work with step := { s.work.step with stroke := s.work.step.stroke + 1 } } : Work).putLanes :=
  gives_lanePrep halive hdue
    (Work.prepare_midStep hrefused hprep ((congrArg (· && _) hin).trans (decide_eq_true hleft)))

theorem gives_lanePrep_starves (hfeed : s.work.flag STEP_CTL 0 = true) (hin : s.work.step.inStep = false)
    (hready : s.work.feedReady = false) :
    Gives .lanePrep s (({ s.work with step := { s.work.step with starving := true } } : Work).setBit STEP_STATUS 17) :=
  gives_lanePrep halive hdue (Work.prepare_starves hrefused hprep (Work.midStep_of_not_inStep hin) hfeed hready)

/-- A record in the stacks that passes its checks starts its step (R255, R256). -/
theorem leads_lanePrep_takes (hfeed : s.work.flag STEP_CTL 0 = true) (hin : s.work.step.inStep = false)
    (hready : s.work.feedReady = true) (hstacks : inStacks s.work.feedAt 64 = true)
    (hcheck : s.work.stepCheck (s.work.bytes s.work.feedAt 64) = 0) :
    Leads .lanePrep s (fun w => w.stroke.prepared = true ∧ w.step = s.work.stepTaken (s.work.bytes s.work.feedAt 64) ∧
      w.fld FEED_HEAD 0 16 = (s.work.fld FEED_HEAD 0 16 + 1) % s.work.feedSize % 2 ^ 16 ∧ w.coxes = s.work.coxes) := by
  have hreads := s.work.readsStack_readsAs s.work.feedAt 64
  have hstep := (s.work.readsStack_hbmKept s.work.feedAt 64).step
  have hget := s.work.hbmGet_stacks hstacks
  have hpasses : (s.work.hbmGet s.work.feedAt 64).2.2.stepCheck (s.work.hbmGet s.work.feedAt 64).1 = 0 := by
    rw [hget]
    exact (hreads.stepCheck (congrArg StepSt.prev hstep) _).trans hcheck
  obtain ⟨htaken, hprepared, hcoxes, hhead⟩ := Work.takeRecord_leaves hpasses
  rw [hget] at htaken
  exact ⟨s.work.takeRecord,
    gives_lanePrep halive hdue (Work.prepare_takes hrefused hprep (Work.midStep_of_not_inStep hin) hfeed hready), hprepared,
    htaken.trans (Work.stepTaken_congr hreads hstep _), hhead, hcoxes⟩

end

end Sys2Proof.Machine
end

section
/-! ### Fields of bytes stored -/

namespace Sys2Proof.Machine

theorem leAt_append_right (l r : List Byte) {off n : Nat} (h : l.length ≤ off) : leAt (l ++ r) off n = leAt r (off - l.length) n := by
  rw [leAt, leAt, sub_right l r h]

theorem leAt_toLE_append (n v : Nat) (r : List Byte) : leAt (toLE n v ++ r) 0 n = v % 256 ^ n := by
  rw [leAt, sub_left _ _ (by simp), sub_whole _ (by simp), leNat_toLE]

/-- A byte of a memory in which bytes were stored. -/
theorem Work.byte_of_stored {v : Work} {m : List Host.Cell} {a : Nat} {bs : List Byte} (h : v.mem = storeCells m a bs) (b : Nat) :
    v.byte b = if a ≤ b ∧ b < a + bs.length then bs.getD (b - a) 0 else cellAt m b := by
  rw [Work.byte, h, cellAt_storeCells]

/-- A field of bytes that memory holds. -/
theorem Work.num_of_bytes {v : Work} {a : Nat} {bs : List Byte} (h : v.bytes a bs.length = bs) {off n : Nat}
    (hfit : off + n ≤ bs.length) : v.num (a + off) n = leAt bs off n := by
  rw [← leAt_bytes v a hfit, h]

theorem Work.bytes_of_stored {v : Work} {m : List Host.Cell} {a : Nat} {bs : List Byte} (h : v.mem = storeCells m a bs) :
    v.bytes a bs.length = bs := by
  have hstored : v.bytes a bs.length = (({ mem := m } : Work).store a bs).bytes a bs.length := Work.bytes_congr h a _
  exact hstored.trans (Work.bytes_store _ a bs)

/-- Bytes before a store are as they were. -/
theorem Work.bytes_of_stored_before {v : Work} {m : List Host.Cell} {b : Nat} {bs : List Byte} (h : v.mem = storeCells m b bs)
    {a n : Nat} (happart : a + n ≤ b) : v.bytes a n = ({ mem := m } : Work).bytes a n :=
  (Work.bytes_congr (w := ({ mem := m } : Work).store b bs) h a n).trans (Work.bytes_store_apart _ happart)

end Sys2Proof.Machine
end

section
/-! ### An empty heat (R260 to R263) -/

namespace Sys2Proof.Machine

variable {w : Work} {q : Nat}

/-- FLAGS of an empty heat's header (Table 7-4). -/
def Work.emptyFlags (w : Work) : Nat :=
  (if w.step.stroke = 0 then 1 else 0) + (if w.step.stroke + 1 = w.step.strokes then 2 else 0) + 4

/-- The header of an empty heat (Table 7-4). -/
def Work.emptyHead (w : Work) : List Byte :=
  toLE 4 0 ++ (toLE 2 0 ++ (toLE 1 w.step.stroke ++ (toLE 1 w.emptyFlags ++ (toLE 4 w.step.step ++
    (toLE 4 w.step.tokenScale.toNat ++ zeros 48)))))

theorem Work.emptyHead_length (w : Work) : w.emptyHead.length = 64 := by simp [Work.emptyHead]

/-- The token ids of an empty heat: padding in every place (R262). -/
def Work.emptyPads (w : Work) : List Byte := List.replicate (4 * w.laneCap) 0xFF

theorem Work.emptyPads_length (w : Work) : w.emptyPads.length = 4 * w.laneCap := List.length_replicate

theorem pads_eq (n : Nat) : (List.range n).flatMap (fun _ => toLE 4 0xFFFFFFFF) = List.replicate (4 * n) (0xFF : Byte) := by
  have hword : toLE 4 0xFFFFFFFF = List.replicate 4 (0xFF : Byte) := by decide
  rw [hword, List.flatMap_def, List.map_const', List.length_range, List.flatten_replicate_replicate, Nat.mul_comm]

/-- The buffer of a lane with no tokens: its header, padding, and weights of zero (R260 to R263). -/
theorem Work.putLane_empty (h : w.heatOf q = []) :
    w.putLane q = (((w.hbmPut (w.laneBuf q) w.emptyHead false).hbmPut (w.laneBuf q + 8256) w.emptyPads false).hbmPut
      (w.laneBuf q + 8256 + 4 * w.laneCap) (zeros (4 * w.laneCap)) false).inc EMPTY_HEAT_CNT := by
  simp only [Work.putLane, h, Work.emptyHead, Work.emptyPads, Work.emptyFlags, ← pads_eq, List.map_nil, List.sum_nil, List.length_nil,
    List.isEmpty_nil, List.foldl_nil, List.range_zero, List.flatMap_nil, List.append_nil, List.nil_append, List.append_assoc,
    if_true, Nat.mul_zero, Nat.add_zero, Nat.sub_zero]

theorem Work.putLane_empty_mem (h : w.heatOf q = []) (hin : inStacks (w.laneBuf q) (8256 + 8 * w.laneCap) = true) :
    (w.putLane q).mem = storeCells (storeCells (storeCells w.mem (w.laneBuf q) w.emptyHead) (w.laneBuf q + 8256) w.emptyPads)
      (w.laneBuf q + 8256 + 4 * w.laneCap) (zeros (4 * w.laneCap)) := by
  rw [Work.putLane_empty h, Work.inc_mem, Work.hbmPut_mem _ _ (inStacks_mono hin (by rw [zeros_length]; omega)),
    Work.hbmPut_mem _ _ (inStacks_mono hin (by rw [w.emptyPads_length]; omega)),
    Work.hbmPut_mem _ _ (inStacks_mono hin (by rw [w.emptyHead_length]; omega))]

section
variable (h : w.heatOf q = []) (hin : inStacks (w.laneBuf q) (8256 + 8 * w.laneCap) = true)
include h hin

theorem Work.putLane_empty_head : (w.putLane q).bytes (w.laneBuf q) w.emptyHead.length = w.emptyHead := by
  have hlen := w.emptyHead_length
  rw [Work.bytes_of_stored_before (Work.putLane_empty_mem h hin) (by omega), Work.bytes_of_stored_before rfl (by omega)]
  exact Work.bytes_of_stored rfl

theorem Work.putLane_empty_pads : (w.putLane q).bytes (w.laneBuf q + 8256) w.emptyPads.length = w.emptyPads := by
  have hlen := w.emptyPads_length
  rw [Work.bytes_of_stored_before (Work.putLane_empty_mem h hin) (by omega)]
  exact Work.bytes_of_stored rfl

theorem Work.putLane_empty_pad {i : Nat} (hi : i < w.laneCap) :
    (w.putLane q).num (w.laneBuf q + 8256 + 4 * i) 4 = 0xFFFFFFFF := by
  have hsub : sub w.emptyPads (4 * i) 4 = List.replicate 4 0xFF :=
    (List.map_congr_left fun j hj => by
      have hlt := List.mem_range.mp hj
      exact List.getD_replicate _ (by omega)).trans (List.map_const' ..)
  rw [Work.num_of_bytes (Work.putLane_empty_pads h hin) (by rw [w.emptyPads_length]; omega), leAt, hsub]
  decide

theorem Work.byte_putLane_empty {a : Nat} (ha : a < w.laneBuf q ∨ w.laneBuf q + 8256 + 8 * w.laneCap ≤ a) :
    (w.putLane q).byte a = w.byte a := by
  have h1 := w.emptyHead_length
  have h2 := w.emptyPads_length
  have h3 := zeros_length (4 * w.laneCap)
  rw [Work.byte_of_stored (Work.putLane_empty_mem h hin), if_neg (by omega), cellAt_storeCells, if_neg (by omega), cellAt_storeCells,
    if_neg (by omega), Work.byte]

omit hin in
theorem Work.rd_putLane_empty : (w.putLane q).rd EMPTY_HEAT_CNT = min (w.rd EMPTY_HEAT_CNT + 1) 0xFFFFFFFF := by
  have hkept := ((w.hbmPut_hbmKept (w.laneBuf q) w.emptyHead false).trans
    (Work.hbmPut_hbmKept _ (w.laneBuf q + 8256) w.emptyPads false)).trans
      (Work.hbmPut_hbmKept _ (w.laneBuf q + 8256 + 4 * w.laneCap) (zeros (4 * w.laneCap)) false)
  rw [Work.putLane_empty h, Work.rd_inc_same, hkept.rd (by decide)]

end

theorem Work.emptyFlags_lt (w : Work) : w.emptyFlags < 256 := by
  unfold Work.emptyFlags
  split <;> split <;> decide

/-- The fields of an empty heat's header (Table 7-4). -/
theorem Work.emptyHead_fields (w : Work) :
    leAt w.emptyHead 0 4 = 0 ∧ leAt w.emptyHead 4 2 = 0 ∧ leAt w.emptyHead 6 1 = w.step.stroke % 256 ∧
      leAt w.emptyHead 7 1 = w.emptyFlags := by
  unfold Work.emptyHead
  refine ⟨leAt_toLE_append 4 0 _, ?_, ?_, ?_⟩
  · rw [leAt_append_right _ _ (by simp)]
    exact leAt_toLE_append 2 0 _
  · rw [leAt_append_right _ _ (by simp), leAt_append_right _ _ (by simp)]
    exact leAt_toLE_append 1 _ _
  · rw [leAt_append_right _ _ (by simp), leAt_append_right _ _ (by simp), leAt_append_right _ _ (by simp)]
    exact (leAt_toLE_append 1 _ _).trans (Nat.mod_eq_of_lt w.emptyFlags_lt)

end Sys2Proof.Machine
end

section
/-! ### READY (R49, R50, R54, R56) -/

namespace Sys2Proof.Machine

theorem Work.readyEdge_due {w : Work} (hdue : w.readyDue = true) (hfrom : w.stroke.readyFrom = none) :
    w.readyEdge.stroke.readyFrom = some w.beatFull := by
  simp only [Work.readyEdge, hdue, hfrom, if_true, Option.getD_none]

/-- The device's stroke with the beat of its READY noted (R56). -/
def Work.readyNoted (w : Work) : Work := { w with stroke := { w.stroke with readyAt := w.stroke.readyFrom } }

section
variable {s : State} (halive : s.board.alive = true) (hdue : s.work.readyDue = true) (hfrom : s.work.stroke.readyFrom.isNone = false)
include halive hdue hfrom

theorem gives_readySend {w : Work} (h : (if s.work.readyNoted.noManager then s.work.readyNoted
    else (s.work.waitingProgs.map (·.crew)).foldl (fun (v : Work) n => v.sendReady n) s.work.readyNoted) = w) :
    Gives .readySend s w := by
  have hgo : ¬ (!s.work.readyDue || s.work.stroke.readyFrom.isNone) = true := by simp [hdue, hfrom]
  exact gives_of_run (execReadySend.eq_1 s) halive ((if_neg hgo).trans h)

theorem gives_readySend_alone (hnone : s.work.noManager = true) : Gives .readySend s s.work.readyNoted :=
  gives_readySend halive hdue hfrom (if_pos hnone)

theorem gives_readySend_crew {p : Prog} (hmgr : s.work.noManager = false) (hprogs : s.work.waitingProgs = [p]) :
    Gives .readySend s (s.work.readyNoted.sendReady p.crew) := by
  have hnot : ¬ s.work.readyNoted.noManager = true := Bool.eq_false_iff.mp hmgr
  exact gives_readySend halive hdue hfrom ((if_neg hnot).trans (by rw [hprogs]; rfl))

end

/-- Members whose READY is still out: not all are held. -/
theorem all_contains_eq_false {l r : List Nat} (h : ∃ m ∈ l, m ∉ r) : l.all r.contains = false := by
  obtain ⟨m, hm, hr⟩ := h
  exact List.all_eq_false.mpr ⟨m, hm, by simpa using hr⟩

theorem Work.decideFinish_of_out {w : Work} {n : Nat} (h : ∃ m ∈ w.crewNodes n, m ∉ (w.mcrew n).ready) : w.decideFinish n = w := by
  rw [Work.decideFinish, all_contains_eq_false h]
  simp only [Bool.not_false, Bool.or_true, Bool.true_or, if_true]

/-- A crew with a member's READY noted (R50). -/
def MCrew.readyFrom (m : MCrew) (src stretch : Nat) : MCrew :=
  { m with ready := (src :: m.ready).dedup, stretch := max m.stretch stretch }

/-- A member's READY is noted, and waits for the others (R50). -/
theorem Work.takeReady_noted {w : Work} {p : Packet} {n : Nat} (hn : beAt p.payload 0 2 = n) (hlen : p.payload.length = 32)
    (hact : w.acting = true) (hlt : n < 1024) (hmem : (w.crewNodes n).contains p.src = true) (hflags : beAt p.payload 2 1 = 0)
    (hroll : (w.mcrew n).roll = none) (hrestore : (w.mcrew n).restore = none) (hlost : (w.mcrew n).lost = false)
    (hon : (w.mcrew n).on = true) (hcatch : (w.mcrew n).catchAt = beAt p.payload 4 8)
    (hout : ∃ m ∈ w.crewNodes n, m ∉ p.src :: (w.mcrew n).ready) :
    w.takeReady p = w.setMcrew n ((w.mcrew n).readyFrom p.src (beAt p.payload 20 2)) := by
  have hnoted : (w.setMcrew n ((w.mcrew n).readyFrom p.src (beAt p.payload 20 2))).decideFinish n =
      w.setMcrew n ((w.mcrew n).readyFrom p.src (beAt p.payload 20 2)) := by
    refine Work.decideFinish_of_out ?_
    have hcrew : (w.setMcrew n ((w.mcrew n).readyFrom p.src (beAt p.payload 20 2))).mcrew n =
        (w.mcrew n).readyFrom p.src (beAt p.payload 20 2) := Sp.get_put_same ..
    obtain ⟨m, hm, hr⟩ := hout
    refine ⟨m, hm, ?_⟩
    rw [hcrew]
    exact fun hin => hr (List.mem_dedup.mp hin)
  have hfirst : ¬ (p.payload.length ≠ 32 || 1024 ≤ beAt p.payload 0 2 || !(w.acting || w.fld MGR_STATUS 0 2 == 1) ||
      !(w.crewNodes (beAt p.payload 0 2)).contains p.src) = true := by
    rw [hn, hact, hmem, hlen]
    simpa using hlt
  have hsame : (decide ((w.mcrew n).catchAt = beAt p.payload 4 8) && (w.mcrew n).on) = true := by rw [hcatch, hon]; simp
  unfold Work.takeReady
  rw [if_neg hfirst, hn]
  simp only [hflags, hroll, hrestore, hlost, Nat.zero_testBit, Bool.and_false, Option.isSome_none, Bool.or_self, Bool.false_eq_true,
    if_false]
  rw [if_pos hsame]
  exact hnoted

theorem gives_readyReceive {s : State} {k : Fin 40} {p : Packet} {v : Work} (h : s.Receives k p 5) (hv : s.work.takeReady p = v) :
    Gives (.readyReceive k p) s (s.work.settled v p) := by
  obtain ⟨halive, harrives, haccepts, hnext⟩ := h
  refine gives_of_run (execReadyReceive.eq_1 k p s) halive ((if_pos harrives).trans ?_)
  rw [Work.receive_taken haccepts hnext _ rfl, hv]

theorem Work.orderAbort_free {w : Work} (crew cause : Nat) (hlock : w.locked = true) (hb : w.fault.beacons = []) :
    w.orderAbort crew cause = (w.decideAbort crew cause).logRec { code := cause, crew := crew, flags := 2, unit := 1220 } := by
  rw [Work.orderAbort, hlock, hb]
  rfl

theorem gives_stragglerTimeout {s : State} {n : Fin 1024} {m : MCrew} (halive : s.board.alive = true) (hact : s.work.acting = true)
    (hm : s.work.mcrew n.val = m) (hon : m.on = true ∨ m.began = false) (hfin : m.fin = none)
    (hout : ∃ k ∈ s.work.crewNodes n.val, k ∉ m.ready)
    (htime : beatBefore s.work.beatFull (beatAdd (m.nominal n.val) (Config.crewLimit n.val m.variant)) = false) :
    Gives (.stragglerTimeout n) s (s.work.orderAbort n.val 1) := by
  have hgo : (!m.on && m.began) = false := by
    rcases hon with h | h <;> simp [h]
  refine gives_of_run (execStragglerTimeout.eq_1 n s) halive ?_
  simp only [hm, hact, hgo, hfin, all_contains_eq_false hout, htime, Bool.not_true, Option.isSome_none, Bool.or_self,
    Bool.false_eq_true, if_false]

/-- Settles O7: a preparation by what is due, an empty heat by its three stores, READY from its edge to its manager. -/
theorem lanesArePreparedAndReadyIsSent : Obligations.LanesArePreparedAndReadyIsSent := by
  refine ⟨?prep, ?heat, ?edge, ?send, ?receive, ?straggler⟩
  case prep =>
    intro s halive hdue hrefused hprep
    refine ⟨gives_lanePrep_midStep halive hdue hrefused hprep, gives_lanePrep_starves halive hdue hrefused hprep, ?_⟩
    intro hfeed hin hready a r hstacks _ hcheck
    obtain ⟨w, hgives, hprepared, hstep, hhead, hcoxes⟩ :=
      leads_lanePrep_takes halive hdue hrefused hprep hfeed hin hready hstacks hcheck
    refine ⟨w, hgives, ?_⟩
    beta_reduce
    rw [hstep]
    exact ⟨hprepared, rfl, rfl, rfl, rfl, rfl, hhead, hcoxes⟩
  case heat =>
    intro w q hempty hin hstroke
    have hnum : ∀ {off n : Nat}, off + n ≤ 64 → (w.putLane q).num (w.laneBuf q + off) n = leAt w.emptyHead off n := fun hfit =>
      Work.num_of_bytes (Work.putLane_empty_head hempty hin) (by rw [w.emptyHead_length]; exact hfit)
    obtain ⟨hn, hlen, hindex, hflags⟩ := w.emptyHead_fields
    exact ⟨(hnum (off := 0) (by decide)).trans hn, (hnum (by decide)).trans hlen,
      ((hnum (by decide)).trans hindex).trans (Nat.mod_eq_of_lt hstroke), (hnum (by decide)).trans hflags,
      fun i hi => Work.putLane_empty_pad hempty hin hi, fun a ha => Work.byte_putLane_empty hempty hin ha,
      Work.rd_putLane_empty hempty⟩
  case edge => exact fun w hdue hfrom => Work.readyEdge_due hdue hfrom
  case send =>
    intro s a halive hdue hfrom v
    have hnoted : v = s.work.readyNoted := by rw [Work.readyNoted, hfrom]
    have hsome : s.work.stroke.readyFrom.isNone = false := by rw [hfrom]; rfl
    rw [hnoted]
    exact ⟨gives_readySend_alone halive hdue hsome, fun p => gives_readySend_crew halive hdue hsome⟩
  case receive =>
    intro s k p hrec hlen hact n hlt hmem hflags hroll hrestore hlost hon hcatch hout
    exact gives_readyReceive hrec (Work.takeReady_noted rfl hlen hact hlt hmem hflags hroll hrestore hlost hon hcatch hout)
  case straggler =>
    intro s n halive hact hon hfin hout htime hlock hbeacons
    rw [← Work.orderAbort_free n.val 1 hlock hbeacons]
    exact gives_stragglerTimeout halive hact rfl hon hfin hout htime

end Sys2Proof.Machine
end

section
/-! ### Completions (R280, R287, R290, R292) -/

namespace Sys2Proof.Machine

section
variable (w : Work)

/-- Where the next completion is written (R280). -/
def Work.cplAt : Nat := w.base SCPL_BASE_LO SCPL_BASE_HI + 32 * w.fld SCPL_TAIL 0 16

/-- The registers of the completion ring. -/
def cplRegs : List Nat := [SCPL_BASE_LO, SCPL_BASE_HI, SCPL_SIZE, SCPL_HEAD, SCPL_TAIL]

theorem Work.cplAt_congr {v w : Work} (h : ∀ a ∈ cplRegs, v.rd a = w.rd a) : v.cplAt = w.cplAt := by
  rw [Work.cplAt, Work.cplAt, Work.base, Work.base, h SCPL_BASE_LO (by decide), Work.fld_congr (h SCPL_BASE_HI (by decide)),
    Work.fld_congr (h SCPL_TAIL (by decide))]

theorem Work.cplSize_congr {v w : Work} (h : ∀ a ∈ cplRegs, v.rd a = w.rd a) : v.cplSize = w.cplSize := by
  rw [Work.cplSize, Work.cplSize, Work.fld_congr (h SCPL_SIZE (by decide))]

theorem Work.cplFull_congr {v w : Work} (h : ∀ a ∈ cplRegs, v.rd a = w.rd a) : v.cplFull = w.cplFull := by
  rw [Work.cplFull, Work.cplFull, Work.fld_congr (h SCPL_TAIL (by decide)), Work.fld_congr (h SCPL_HEAD (by decide)),
    Work.cplSize_congr h]

theorem Work.cplTail_congr {v w : Work} (h : ∀ a ∈ cplRegs, v.rd a = w.rd a) : v.fld SCPL_TAIL 0 16 = w.fld SCPL_TAIL 0 16 :=
  Work.fld_congr (h SCPL_TAIL (by decide)) 0 16

theorem Work.cplOf_length (r : SessReq) (n st d f l : Nat) (rec : Bool) : (w.cplOf r n st d f l rec).length = 32 := by
  simp [Work.cplOf]

theorem Work.putCpl_eq (b : List Byte) :
    w.putCpl b = (w.hbmPut w.cplAt b false).setFld SCPL_TAIL 0 16 ((w.fld SCPL_TAIL 0 16 + 1) % w.cplSize) := rfl

theorem Work.putCpl_sess (b : List Byte) : (w.putCpl b).sess = w.sess := (w.hbmPut_hbmKept w.cplAt b false).sess

theorem Work.rd_putCpl (b : List Byte) {a : Nat} (ha : EngineReg a) (hne : a ≠ SCPL_TAIL) : (w.putCpl b).rd a = w.rd a := by
  rw [w.putCpl_eq, Work.rd_setFld_ne _ _ _ _ _ hne, (w.hbmPut_hbmKept w.cplAt b false).rd ha]

theorem Work.putCpl_tail (b : List Byte) : (w.putCpl b).fld SCPL_TAIL 0 16 = (w.fld SCPL_TAIL 0 16 + 1) % w.cplSize % 2 ^ 16 := by
  rw [w.putCpl_eq, Work.fld_setFld_same _ _ _ _ _ (by decide)]

theorem Work.putCpl_mem {b : List Byte} (hb : b.length = 32) (h : inStacks w.cplAt 32 = true) :
    (w.putCpl b).mem = storeCells w.mem w.cplAt b := by
  rw [w.putCpl_eq, Work.setFld_mem, Work.hbmPut_mem _ _ (by rw [hb]; exact h)]

theorem Work.putCpl_bytes {b : List Byte} (hb : b.length = 32) (h : inStacks w.cplAt 32 = true) : (w.putCpl b).bytes w.cplAt 32 = b :=
  hb ▸ Work.bytes_of_stored (w.putCpl_mem hb h)

theorem Work.byte_putCpl {b : List Byte} (hb : b.length = 32) (h : inStacks w.cplAt 32 = true) {a : Nat}
    (ha : a < w.cplAt ∨ w.cplAt + 32 ≤ a) : (w.putCpl b).byte a = w.byte a := by
  rw [Work.byte_of_stored (w.putCpl_mem hb h), if_neg (by omega), Work.byte]

/-- The counts of a request that completes with a status. -/
def Work.reqCounted (st : Nat) : Work :=
  ((w.inc SREQ_CNT).when (st = 1) (·.inc SPOISON_CNT)).when (st = 2) (·.inc SCACHE_FULL_CNT)

theorem Work.reqCounted_frame (st : Nat) : w.reqCounted st = { w with regs := (w.reqCounted st).regs } := by
  unfold Work.reqCounted Work.when
  split <;> split <;> rfl

theorem Work.reqCounted_kept (st : Nat) : RegsKept (w.inc SREQ_CNT) (w.reqCounted st) [SPOISON_CNT, SCACHE_FULL_CNT] :=
  RegsKept.when (RegsKept.when (RegsKept.refl _ _) (fun h => h.wr (by simp) _) _) (fun h => h.wr (by simp) _) _

theorem Work.rd_reqCounted (st : Nat) {a : Nat} (ha : a ∉ [SREQ_CNT, SPOISON_CNT, SCACHE_FULL_CNT]) :
    (w.reqCounted st).rd a = w.rd a := by
  rw [(w.reqCounted_kept st).rd fun h => ha (List.mem_cons_of_mem _ h), Work.rd_inc_ne w SREQ_CNT fun h => ha (by simp [h])]

theorem Work.rd_reqCounted_SREQ_CNT (st : Nat) : (w.reqCounted st).rd SREQ_CNT = min (w.rd SREQ_CNT + 1) 0xFFFFFFFF := by
  rw [(w.reqCounted_kept st).rd (by decide), Work.rd_inc_same]

theorem cplRegs_not_counts : ∀ a ∈ cplRegs, a ∉ [SREQ_CNT, SPOISON_CNT, SCACHE_FULL_CNT] := by decide

theorem Work.cplRegs_reqCounted (st : Nat) : ∀ a ∈ cplRegs, (w.reqCounted st).rd a = w.rd a := fun a ha =>
  w.rd_reqCounted st (cplRegs_not_counts a ha)

end

section
variable {w : Work} (r : SessReq) (n st d f l : Nat) (rec : Bool)

theorem Work.complete_eq : w.complete r n st d f l rec =
    if (w.reqCounted st).cplFull || !(w.reqCounted st).sess.held.isEmpty then
      (({ w.reqCounted st with sess := { (w.reqCounted st).sess with
        held := (w.reqCounted st).sess.held ++ [w.cplOf r n st d f l rec] } } : Work).inc SCPL_WAIT_CNT).setBit SESS_STATUS 11
    else (w.reqCounted st).putCpl (w.cplOf r n st d f l rec) := rfl

theorem Work.reqCounted_sess : (w.reqCounted st).sess = w.sess := by rw [w.reqCounted_frame]
theorem Work.reqCounted_mem : (w.reqCounted st).mem = w.mem := by rw [w.reqCounted_frame]

/-- Room in the ring and none waiting: the completion is written. -/
theorem Work.complete_written (hfull : w.cplFull = false) (hheld : w.sess.held = []) :
    w.complete r n st d f l rec = (w.reqCounted st).putCpl (w.cplOf r n st d f l rec) := by
  rw [Work.complete_eq, Work.cplFull_congr (w.cplRegs_reqCounted st), Work.reqCounted_sess, hfull, hheld]
  rfl

/-- A full ring, or another that waits: the completion waits, and its wait is counted (R292). -/
theorem Work.complete_waits (h : w.cplFull = true ∨ w.sess.held ≠ []) :
    w.complete r n st d f l rec = (({ w.reqCounted st with sess := { w.sess with
      held := w.sess.held ++ [w.cplOf r n st d f l rec] } } : Work).inc SCPL_WAIT_CNT).setBit SESS_STATUS 11 := by
  have hwait : (w.cplFull || !w.sess.held.isEmpty) = true := by
    rcases h with h | h
    · rw [h, Bool.true_or]
    · simp [h]
  rw [Work.complete_eq, Work.cplFull_congr (w.cplRegs_reqCounted st), Work.reqCounted_sess, if_pos hwait]

/-- What a completion written leaves. -/
theorem Work.complete_leaves (hfull : w.cplFull = false) (hheld : w.sess.held = []) :
    (w.complete r n st d f l rec).sess = w.sess ∧
      (w.complete r n st d f l rec).rd SREQ_CNT = min (w.rd SREQ_CNT + 1) 0xFFFFFFFF ∧
      (w.complete r n st d f l rec).fld SCPL_TAIL 0 16 = (w.fld SCPL_TAIL 0 16 + 1) % w.cplSize % 2 ^ 16 ∧
      ∀ a, EngineReg a → a ∉ [SCPL_TAIL, SREQ_CNT, SPOISON_CNT, SCACHE_FULL_CNT] → (w.complete r n st d f l rec).rd a = w.rd a := by
  rw [Work.complete_written r n st d f l rec hfull hheld]
  refine ⟨(Work.putCpl_sess _ _).trans (Work.reqCounted_sess st), ?_, ?_, fun a ha hn => ?_⟩
  · rw [Work.rd_putCpl _ _ (by decide) (by decide), w.rd_reqCounted_SREQ_CNT]
  · rw [Work.putCpl_tail, Work.cplTail_congr (w.cplRegs_reqCounted st), Work.cplSize_congr (w.cplRegs_reqCounted st)]
  · rw [List.mem_cons, not_or] at hn
    rw [Work.rd_putCpl _ _ ha hn.1, w.rd_reqCounted st hn.2]

/-- The bytes of a completion written. -/
theorem Work.complete_bytes (hfull : w.cplFull = false) (hheld : w.sess.held = []) (hin : inStacks w.cplAt 32 = true) :
    (w.complete r n st d f l rec).bytes w.cplAt 32 = w.cplOf r n st d f l rec ∧
      ∀ a, a < w.cplAt ∨ w.cplAt + 32 ≤ a → (w.complete r n st d f l rec).byte a = w.byte a := by
  rw [← Work.cplAt_congr (w.cplRegs_reqCounted st)] at hin
  rw [Work.complete_written r n st d f l rec hfull hheld, ← Work.cplAt_congr (w.cplRegs_reqCounted st)]
  have hlen := w.cplOf_length r n st d f l rec
  exact ⟨Work.putCpl_bytes _ hlen hin, fun a ha =>
    (Work.byte_putCpl _ hlen hin ha).trans (Work.byte_congr (Work.reqCounted_mem st) a)⟩

end

end Sys2Proof.Machine
end

section
/-! ### The request queue (R280 to R282) -/

namespace Sys2Proof.Machine

variable {w : Work} {r : SessReq}

/-- One request that waits is the next, where no completion waits and its session, if it names one, is not busy (R282, R292). -/
theorem Work.nextReq_single (hwait : w.sess.waiting = [r]) (hheld : w.sess.held = [])
    (h : r.session = 0xFFFF ∨ w.sessBusy r.session = false) : w.nextReq = some (0, r) := by
  have hstart : w.startable [r] 0 = true := by rcases h with h | h <;> simp [Work.startable, h]
  simp [Work.nextReq, hwait, hheld, hstart]

/-- No other can be the next. -/
theorem Work.nextReq_of_single (hwait : w.sess.waiting = [r]) : w.nextReq = none ∨ w.nextReq = some (0, r) := by
  by_cases hheld : w.sess.held = []
  · by_cases h : r.session = 0xFFFF ∨ w.sessBusy r.session = false
    · exact .inr (Work.nextReq_single hwait hheld h)
    · have hstart : w.startable [r] 0 = false := by
        rw [not_or, Bool.not_eq_false] at h
        simp [Work.startable, h]
      exact .inl (by simp [Work.nextReq, hwait, hstart])
  · exact .inl (by simp [Work.nextReq, hheld])

theorem Work.sweep_of_none (hwait : w.sess.waiting = []) : w.sweep = w := by
  rw [Work.sweep, hwait]
  rfl

/-- A request that has work to do stays in the queue. -/
theorem Work.sweep_of_single (hwait : w.sess.waiting = [r]) (hwork : w.atOnce r = none) : w.sweep = w := by
  rw [Work.sweep, hwait]
  show sessSweep 1 w = w
  unfold sessSweep
  rcases Work.nextReq_of_single hwait with h | h <;> simp only [h, hwork]

theorem Work.atOnce_open (hbad : r.bad = false) (hop : r.op = 1) : w.atOnce r = none := by simp [Work.atOnce, hbad, hop]

theorem Work.atOnce_session {q : Session} (hbad : r.bad = false) (hfind : Sp.find w.sess.open_ r.session = some q)
    (h : q.poisoned = false ∨ r.op = 5) : w.atOnce r = none := by
  rcases h with h | h <;> simp [Work.atOnce, hbad, hfind, h]

theorem Work.sessBusy_of_find {n : Nat} {q : Session} (hfind : Sp.find w.sess.open_ n = some q) (hrun : q.run = none) :
    w.sessBusy n = false := by simp [Work.sessBusy, hfind, hrun]

theorem Work.sessBusy_of_not_open {n : Nat} (hfind : Sp.find w.sess.open_ n = none) : w.sessBusy n = false := by
  simp [Work.sessBusy, hfind]

theorem Work.dropReq_single (hwait : w.sess.waiting = [r]) : w.dropReq 0 = { w with sess := { w.sess with waiting := [] } } := by
  rw [Work.dropReq, hwait]
  rfl

/-- Where the request at SREQ_HEAD lies (R280). -/
def Work.reqAt (w : Work) : Nat := w.base SREQ_BASE_LO SREQ_BASE_HI + 64 * w.fld SREQ_HEAD 0 16

/-- SREQ_HEAD past the request at it. -/
def Work.reqPassed (w : Work) : Work := (w.hbmGet w.reqAt 64).2.2.setFld SREQ_HEAD 0 16 ((w.fld SREQ_HEAD 0 16 + 1) % w.reqSize)

/-- The request at SREQ_HEAD in the queue, SREQ_HEAD past it. -/
def Work.reqTaken (w : Work) : Work :=
  { w.reqPassed with sess := { w.reqPassed.sess with waiting := w.reqPassed.sess.waiting ++ [reqOf (w.hbmGet w.reqAt 64).1] } }

theorem Work.reqPassed_sess (w : Work) : w.reqPassed.sess = w.sess := (w.hbmGet_hbmKept w.reqAt 64).sess

theorem Work.rd_reqPassed (w : Work) {a : Nat} (ha : EngineReg a) (hne : a ≠ SREQ_HEAD) : w.reqPassed.rd a = w.rd a := by
  rw [Work.reqPassed, Work.rd_setFld_ne _ _ _ _ _ hne, (w.hbmGet_hbmKept w.reqAt 64).rd ha]

theorem Work.reqPassed_head (w : Work) : w.reqPassed.fld SREQ_HEAD 0 16 = (w.fld SREQ_HEAD 0 16 + 1) % w.reqSize % 2 ^ 16 := by
  rw [Work.reqPassed, Work.fld_setFld_same _ _ _ _ _ (by decide)]

theorem Work.fld_reqTaken (w : Work) (a lo len : Nat) : w.reqTaken.fld a lo len = w.reqPassed.fld a lo len :=
  Work.fld_congr (Work.rd_congr rfl a) lo len

theorem takeReqs_next (n : Nat) (hen : w.flag SESS_CTL 0 = true) (hne : w.fld SREQ_HEAD 0 16 ≠ w.fld SREQ_TAIL 0 16 % w.reqSize) :
    takeReqs (n + 1) w = takeReqs n w.reqTaken := by
  have hgo : ¬ (!w.flag SESS_CTL 0 || decide (w.fld SREQ_HEAD 0 16 = w.fld SREQ_TAIL 0 16 % w.reqSize)) = true := by simp [hen, hne]
  exact (if_neg hgo).trans rfl

theorem takeReqs_empty (n : Nat) (he : w.fld SREQ_HEAD 0 16 = w.fld SREQ_TAIL 0 16 % w.reqSize) : takeReqs n w = w := by
  cases n with
  | zero => rfl
  | succ n => exact if_pos (by simp [he])

/-- What a request taken leaves. -/
theorem Work.reqTaken_leaves (w : Work) :
    w.reqTaken.sess = { w.sess with waiting := w.sess.waiting ++ [reqOf (w.hbmGet w.reqAt 64).1] } ∧ w.reqTaken.mem = w.mem ∧
      w.reqTaken.fld SREQ_HEAD 0 16 = (w.fld SREQ_HEAD 0 16 + 1) % w.reqSize % 2 ^ 16 ∧
      w.reqTaken.fld SREQ_TAIL 0 16 % w.reqTaken.reqSize = w.fld SREQ_TAIL 0 16 % w.reqSize := by
  refine ⟨?_, w.hbmGet_mem _ _, (w.fld_reqTaken ..).trans w.reqPassed_head, ?_⟩
  · rw [Work.reqTaken, w.reqPassed_sess]
  · rw [Work.reqSize, Work.reqSize, w.fld_reqTaken, w.fld_reqTaken, Work.fld_congr (w.rd_reqPassed (by decide) (by decide)),
      Work.fld_congr (w.rd_reqPassed (by decide) (by decide))]

/-- One request in the ring: it enters the queue, and SREQ_HEAD meets SREQ_TAIL (R280). -/
theorem takeReqs_one (n : Nat) (hen : w.flag SESS_CTL 0 = true) (hne : w.fld SREQ_HEAD 0 16 ≠ w.fld SREQ_TAIL 0 16 % w.reqSize)
    (hlast : (w.fld SREQ_HEAD 0 16 + 1) % w.reqSize = w.fld SREQ_TAIL 0 16 % w.reqSize) :
    takeReqs (n + 1) w = w.reqTaken ∧ w.reqTaken.fld SREQ_HEAD 0 16 = w.fld SREQ_TAIL 0 16 % w.reqSize := by
  obtain ⟨-, -, hhead, htail⟩ := w.reqTaken_leaves
  have hlt : w.fld SREQ_TAIL 0 16 % w.reqSize < 2 ^ 16 :=
    lt_of_le_of_lt (Nat.mod_le _ _) (Nat.mod_lt _ (by decide))
  have hmeets : w.reqTaken.fld SREQ_HEAD 0 16 = w.fld SREQ_TAIL 0 16 % w.reqSize := by rw [hhead, hlast, Nat.mod_eq_of_lt hlt]
  exact ⟨(takeReqs_next n hen hne).trans (takeReqs_empty n (hmeets.trans htail.symm)), hmeets⟩

end Sys2Proof.Machine
end

section
/-! ### SREQ_TAIL and SCPL_HEAD (R280, R282, R292) -/

namespace Sys2Proof.Machine

section
variable {s : State} {p : Path} {v : Word} (halive : s.board.alive = true)
include halive

theorem gives_sreqTailWrite {w : Work} (hw : s.work.Writable p SREQ_TAIL v.toNat)
    (h : (takeReqs 65536 (s.work.wrPlain p SREQ_TAIL v.toNat)).sweep = w) : Gives (.sreqTailWrite p v) s w :=
  gives_of_run (execSreqTailWrite.eq_1 p v s) halive ((Work.onBus_done hw _).trans h)

theorem gives_scplHeadWrite {w : Work} (hw : s.work.Writable p SCPL_HEAD v.toNat) (h : s.work.writeCplHead p v.toNat = w) :
    Gives (.scplHeadWrite p v) s w := gives_of_run (execScplHeadWrite.eq_1 p v s) halive ((Work.onBus_done hw _).trans h)

end

theorem Work.wrPlain_sess (w : Work) (p : Path) (a v : Nat) : (w.wrPlain p a v).sess = w.sess := by rw [w.wrPlain_frame]
theorem Work.wrPlain_mem (w : Work) (p : Path) (a v : Nat) : (w.wrPlain p a v).mem = w.mem := by rw [w.wrPlain_frame]

theorem leads_sreqTailWrite {s : State} {p : Path} {v : Word} {u : Work} (halive : s.board.alive = true)
    (hw : s.work.Writable p SREQ_TAIL v.toNat) (hu : s.work.wrPlain p SREQ_TAIL v.toNat = u) (hwait : s.work.sess.waiting = [])
    (hen : u.flag SESS_CTL 0 = true) (hne : u.fld SREQ_HEAD 0 16 ≠ u.fld SREQ_TAIL 0 16 % u.reqSize)
    (hlast : (u.fld SREQ_HEAD 0 16 + 1) % u.reqSize = u.fld SREQ_TAIL 0 16 % u.reqSize) {r : SessReq}
    (hr : reqOf (u.hbmGet u.reqAt 64).1 = r) (hbad : r.bad = false)
    (hwork : r.op = 1 ∨ ∃ q, Sp.find s.work.sess.open_ r.session = some q ∧ (q.poisoned = false ∨ r.op = 5)) :
    Leads (.sreqTailWrite p v) s (fun w => w.sess = { s.work.sess with waiting := [r] } ∧
      w.fld SREQ_HEAD 0 16 = u.fld SREQ_TAIL 0 16 % u.reqSize ∧ w.mem = s.work.mem) := by
  have husess : u.sess = s.work.sess := hu ▸ s.work.wrPlain_sess p SREQ_TAIL v.toNat
  have humem : u.mem = s.work.mem := hu ▸ s.work.wrPlain_mem p SREQ_TAIL v.toNat
  obtain ⟨htake, hhead⟩ := takeReqs_one 65535 hen hne hlast
  obtain ⟨hsess, hmem, -, -⟩ := u.reqTaken_leaves
  rw [husess, hwait, hr, List.nil_append] at hsess
  have hnone : u.reqTaken.atOnce r = none := by
    rcases hwork with hop | ⟨q, hfind, hq⟩
    · exact Work.atOnce_open hbad hop
    · exact Work.atOnce_session hbad (by rw [hsess]; exact hfind) hq
  refine ⟨u.reqTaken, gives_sreqTailWrite halive hw ?_, hsess, hhead, hmem.trans humem⟩
  rw [hu, htake]
  exact Work.sweep_of_single (by rw [hsess]) hnone

theorem Work.writeCplHead_full {w : Work} {p : Path} {v : Nat} {b : List Byte} (hheld : w.sess.held = [b])
    (hfull : (w.wrPlain p SCPL_HEAD v).cplFull = true) : w.writeCplHead p v = w.wrPlain p SCPL_HEAD v := by
  have hu : (w.wrPlain p SCPL_HEAD v).sess.held = [b] := by rw [Work.wrPlain_sess, hheld]
  simp only [Work.writeCplHead, hu, List.length_singleton, putHeld, hfull, if_true, List.isEmpty_cons, Bool.false_eq_true, if_false]

/-- The one completion that waits, written. -/
def Work.heldWritten (w : Work) (b : List Byte) : Work := ({ w with sess := { w.sess with held := [] } } : Work).putCpl b

theorem Work.writeCplHead_room {w : Work} {p : Path} {v : Nat} {b : List Byte} (hheld : w.sess.held = [b])
    (hwait : w.sess.waiting = []) (hfull : (w.wrPlain p SCPL_HEAD v).cplFull = false) :
    w.writeCplHead p v = ((w.wrPlain p SCPL_HEAD v).heldWritten b).clrBit SESS_STATUS 11 := by
  have hu : (w.wrPlain p SCPL_HEAD v).sess.held = [b] := by rw [Work.wrPlain_sess, hheld]
  have hsess : ((w.wrPlain p SCPL_HEAD v).heldWritten b).sess = { w.sess with held := [] } := by
    rw [Work.heldWritten, Work.putCpl_sess, Work.wrPlain_sess]
  have hput : putHeld 1 (w.wrPlain p SCPL_HEAD v) = (w.wrPlain p SCPL_HEAD v).heldWritten b := by
    simp only [putHeld, hu, hfull, Bool.false_eq_true, if_false]
    rfl
  simp only [Work.writeCplHead, hu, List.length_singleton, hput, hsess, List.isEmpty_nil, if_true]
  exact Work.sweep_of_none (by rw [Work.clrBit_sess, hsess, hwait])

theorem Work.writeCplHead_none {w : Work} {p : Path} {v : Nat} (hheld : w.sess.held = []) (hwait : w.sess.waiting = []) :
    w.writeCplHead p v = (w.wrPlain p SCPL_HEAD v).clrBit SESS_STATUS 11 := by
  have hsess := w.wrPlain_sess p SCPL_HEAD v
  simp only [Work.writeCplHead, hsess, hheld, List.length_nil, putHeld, List.isEmpty_nil, if_true]
  exact Work.sweep_of_none (by rw [Work.clrBit_sess, hsess, hwait])

theorem leads_scplHeadWrite {s : State} {p : Path} {v : Word} {b : List Byte} {u : Work} (halive : s.board.alive = true)
    (hw : s.work.Writable p SCPL_HEAD v.toNat) (hu : s.work.wrPlain p SCPL_HEAD v.toNat = u) (hheld : s.work.sess.held = [b])
    (hlen : b.length = 32) (hwait : s.work.sess.waiting = []) (hin : inStacks u.cplAt 32 = true) (hfull : u.cplFull = false) :
    Leads (.scplHeadWrite p v) s (fun w => w.sess.held = [] ∧ w.flag SESS_STATUS 11 = false ∧ w.bytes u.cplAt 32 = b ∧
      w.fld SCPL_TAIL 0 16 = (u.fld SCPL_TAIL 0 16 + 1) % u.cplSize % 2 ^ 16) := by
  refine ⟨(u.heldWritten b).clrBit SESS_STATUS 11,
    gives_scplHeadWrite halive hw (hu ▸ Work.writeCplHead_room hheld hwait (hu ▸ hfull)), ?_, ?_, ?_, ?_⟩
  · rw [Work.clrBit_sess, Work.heldWritten, Work.putCpl_sess]
  · exact Work.flag_clrBit_same _ _ _ (by decide)
  · rw [Work.bytes_congr (Work.clrBit_mem ..)]
    exact Work.putCpl_bytes ({ u with sess := { u.sess with held := [] } } : Work) hlen hin
  · rw [Work.fld_congr (Work.rd_clrBit_ne _ _ _ (by decide))]
    exact Work.putCpl_tail ({ u with sess := { u.sess with held := [] } } : Work) b

end Sys2Proof.Machine
end

section
/-! ### OPEN (R281, R290) -/

namespace Sys2Proof.Machine

/-- Cache pages that no session has, lowest first. -/
def Work.cacheFree (w : Work) : List Nat := (List.range (w.fld SCACHE_PAGES 0 23)).filter (fun p => !w.sess.used.contains p)

/-- The session that an OPEN binds (R281). -/
def Work.newSession (w : Work) (r : SessReq) (k : Nat) : Session := { prog := r.prog, cap := r.count, pages := w.cacheFree.take k }

/-- The session engine with that session open and its pages in use. -/
def Work.sessOpened (w : Work) (r : SessReq) (k : Nat) : Work :=
  { w with sess := { w.sess with
      open_ := Sp.put w.sess.open_ r.session (w.newSession r k), used := w.sess.used ++ (w.newSession r k).pages } }

theorem Work.showSess_kept (w : Work) : RegsKept w w.showSess [SESS_STATUS, SCACHE_FREE] :=
  ((RegsKept.refl w _).wr (by simp) _).wr (by simp) _

theorem Work.showSess_sess (w : Work) : w.showSess.sess = w.sess := rfl

section
variable {w : Work} {r : SessReq} {k : Nat}

theorem Work.openSess_opens (hnum : r.session ≠ 0xFFFF) (hprog : w.sessProgOk r.prog = true)
    (hnone : Sp.find w.sess.open_ r.session = none) (hk : ceilDiv (r.count * w.cacheBpt r.prog) 65536 = k)
    (hroom : k ≤ w.cacheFree.length) :
    w.openSess r =
      (w.sessOpened r k).showSess.complete r r.session 0 0 (w.rd STEP_COMMITTED) (w.rd STEP_COMMITTED) false := by
  simp only [Work.openSess, hnum, hprog, hnone, hk, if_false, Bool.not_true, Bool.false_eq_true, Option.isSome_none]
  exact if_neg (Nat.not_lt.mpr hroom)

theorem mem_take_cacheFree {g : Nat} (h : g ∈ (w.newSession r k).pages) : g ∉ w.sess.used ∧ g < w.fld SCACHE_PAGES 0 23 := by
  have hfree := List.mem_filter.mp (List.mem_of_mem_take h)
  exact ⟨by simpa using hfree.2, List.mem_range.mp hfree.1⟩

end

theorem gives_sessionOpen {s : State} {i : Nat} {r : SessReq} {w : Work} (halive : s.board.alive = true)
    (hsweep : s.work.sweep = s.work) (hnext : s.work.nextReq = some (i, r)) (hop : r.op = 1)
    (h : ((s.work.dropReq i).openSess r).sweep = w) : Gives .sessionOpen s w := by
  refine gives_of_run (execSessionOpen.eq_1 s) halive ?_
  simp only [hsweep, hnext, hop, if_true]
  exact h

/-- The session engine's other parts do not change what HBM reads as. -/
theorem Work.sess_readsAs (w : Work) (x : SessSt) : w.ReadsAs { w with sess := x } := ⟨rfl, rfl, rfl, fun _ _ => rfl⟩

theorem Work.sessProg_sess (w : Work) (x : SessSt) (p : Nat) : ({ w with sess := x } : Work).sessProg p = w.sessProg p :=
  (w.sess_readsAs x).sessProg p rfl

theorem Work.sessProgOk_sess (w : Work) (x : SessSt) (p : Nat) : ({ w with sess := x } : Work).sessProgOk p = w.sessProgOk p := by
  rw [Work.sessProgOk, Work.sessProgOk, w.sessProg_sess]

theorem Work.cacheBpt_sess (w : Work) (x : SessSt) (p : Nat) : ({ w with sess := x } : Work).cacheBpt p = w.cacheBpt p := by
  rw [Work.cacheBpt, Work.cacheBpt, w.sessProg_sess]

theorem leads_sessionOpen {s : State} {r : SessReq} {k : Nat} (halive : s.board.alive = true) (hwait : s.work.sess.waiting = [r])
    (hheld : s.work.sess.held = []) (hop : r.op = 1) (hbad : r.bad = false) (hlt : r.session < 1024)
    (hprog : s.work.sessProgOk r.prog = true) (hnone : Sp.find s.work.sess.open_ r.session = none) (hfull : s.work.cplFull = false)
    (hk : ceilDiv (r.count * s.work.cacheBpt r.prog) 65536 = k) (hroom : k ≤ s.work.cacheFree.length) :
    Leads .sessionOpen s (fun w =>
      w.sess = { s.work.sess with waiting := [], open_ := Sp.put s.work.sess.open_ r.session (s.work.newSession r k),
                                  used := s.work.sess.used ++ (s.work.newSession r k).pages } ∧
      w.rd SREQ_CNT = min (s.work.rd SREQ_CNT + 1) 0xFFFFFFFF ∧
      w.fld SCPL_TAIL 0 16 = (s.work.fld SCPL_TAIL 0 16 + 1) % s.work.cplSize % 2 ^ 16) := by
  have hnum : r.session ≠ 0xFFFF := by omega
  have hdrop := Work.dropReq_single hwait
  have hnext := Work.nextReq_single hwait hheld (.inr (Work.sessBusy_of_not_open hnone))
  have hopen := Work.openSess_opens (w := s.work.dropReq 0) hnum (by rw [hdrop, Work.sessProgOk_sess, hprog]) (by rw [hdrop, hnone])
    (by rw [hdrop, Work.cacheBpt_sess, hk]) (by rw [hdrop]; exact hroom)
  have hregs : RegsKept s.work ((s.work.dropReq 0).sessOpened r k).showSess [SESS_STATUS, SCACHE_FREE] :=
    ((s.work.dropReq 0).sessOpened r k).showSess_kept
  have hsess : ((s.work.dropReq 0).sessOpened r k).showSess.sess =
      { s.work.sess with waiting := [], open_ := Sp.put s.work.sess.open_ r.session (s.work.newSession r k),
                         used := s.work.sess.used ++ (s.work.newSession r k).pages } := by
    rw [Work.showSess_sess, hdrop]
    rfl
  have hcpl : ∀ a ∈ cplRegs, ((s.work.dropReq 0).sessOpened r k).showSess.rd a = s.work.rd a := fun a ha =>
    hregs.rd (by revert a; decide)
  generalize ((s.work.dropReq 0).sessOpened r k).showSess = v at hopen hregs hsess hcpl
  obtain ⟨hdone, hcount, htail, -⟩ := Work.complete_leaves (w := v) r r.session 0 0 ((s.work.dropReq 0).rd STEP_COMMITTED)
    ((s.work.dropReq 0).rd STEP_COMMITTED) false (by rw [Work.cplFull_congr hcpl, hfull]) (by rw [hsess, hheld])
  rw [← hopen, hsess] at hdone
  rw [← hopen, hregs.rd (by decide)] at hcount
  rw [← hopen, Work.cplTail_congr hcpl, Work.cplSize_congr hcpl] at htail
  refine ⟨(s.work.dropReq 0).openSess r,
    gives_sessionOpen halive (Work.sweep_of_single hwait (Work.atOnce_open hbad hop)) hnext hop ?_, hdone, hcount, htail⟩
  exact Work.sweep_of_none (by rw [hdone])

end Sys2Proof.Machine
end

section
/-! ### CLOSE (R281, R291) -/

namespace Sys2Proof.Machine

theorem Work.byte_zeroRange (w : Work) (a n b : Nat) :
    (w.zeroRange a n).byte b = if a ≤ b ∧ b < a + n then 0 else w.byte b := by
  have hmem : (w.zeroRange a n).mem = w.mem.filter (fun p => decide (p.1 < a) || decide (a + n ≤ p.1)) := by
    simp only [Work.zeroRange]
  rw [Work.byte, hmem]
  split
  · have hnone : (w.mem.filter (fun p => decide (p.1 < a) || decide (a + n ≤ p.1))).find? (fun p => p.1 == b) = none := by
      refine List.find?_eq_none.mpr fun p hp he => ?_
      have hout := (List.mem_filter.mp hp).2
      have hb : p.1 = b := by simpa using he
      rw [Bool.or_eq_true, decide_eq_true_eq, decide_eq_true_eq] at hout
      omega
    rw [cellAt, hnone]
    rfl
  · exact cellAt_filter w.mem (fun x => decide (x < a) || decide (a + n ≤ x)) b (by simp; omega)

/-- Cache pages zeroed one after the other (R291). -/
def Work.zeroPages (w : Work) (ps : List Nat) : Work := ps.foldl (fun (v : Work) p => v.zeroRange (v.cachePage p) 65536) w

theorem Work.zeroPages_kept (w : Work) (ps : List Nat) : (w.zeroPages ps).regs = w.regs ∧ (w.zeroPages ps).sess = w.sess :=
  List.foldlRecOn (motive := fun v : Work => v.regs = w.regs ∧ v.sess = w.sess) ps _ ⟨rfl, rfl⟩ fun _ hv _ _ => hv

theorem Work.zeroPages_regs (w : Work) (ps : List Nat) : (w.zeroPages ps).regs = w.regs := (w.zeroPages_kept ps).1
theorem Work.zeroPages_sess (w : Work) (ps : List Nat) : (w.zeroPages ps).sess = w.sess := (w.zeroPages_kept ps).2

/-- A byte that is zero stays so. -/
theorem Work.byte_zeroPages_of_zero {w : Work} {b : Nat} (h : w.byte b = 0) (ps : List Nat) : (w.zeroPages ps).byte b = 0 :=
  List.foldlRecOn (motive := fun v : Work => v.byte b = 0) ps _ h fun v hv p _ => by
    rw [v.byte_zeroRange]
    split
    · rfl
    · exact hv

theorem Work.byte_zeroPages (w : Work) {ps : List Nat} {pg : Nat} (h : pg ∈ ps) {i : Nat} (hi : i < 65536) :
    (w.zeroPages ps).byte (w.cachePage pg + i) = 0 := by
  induction ps generalizing w with
  | nil => cases h
  | cons p ps ih =>
    rcases List.mem_cons.mp h with rfl | h
    · refine Work.byte_zeroPages_of_zero (w := w.zeroRange (w.cachePage pg) 65536) ?_ ps
      rw [w.byte_zeroRange, if_pos ⟨by omega, by omega⟩]
    · exact ih (w.zeroRange (w.cachePage p) 65536) h

/-- The session engine with a session closed: its pages zeroed and back in the pool. -/
def Work.sessClosed (w : Work) (n : Nat) (q : Session) : Work :=
  { w.zeroPages q.pages with sess := { w.sess with
      open_ := Sp.erase w.sess.open_ n, used := w.sess.used.filter (fun p => !q.pages.contains p) } }

theorem Work.closeSess_closes {w : Work} {r : SessReq} {q : Session} (h : Sp.find w.sess.open_ r.session = some q) :
    w.closeSess r = ((w.sessClosed r.session q).incBy SZERO_CNT q.pages.length).showSess.complete r r.session 0 0
      ((w.sessClosed r.session q).rd STEP_COMMITTED) ((w.sessClosed r.session q).rd STEP_COMMITTED) false := by
  rw [Work.sessClosed, ← w.zeroPages_sess q.pages]
  simp only [Work.closeSess, h]
  rfl

theorem gives_sessionClose {s : State} {i : Nat} {r : SessReq} {w : Work} (halive : s.board.alive = true)
    (hsweep : s.work.sweep = s.work) (hnext : s.work.nextReq = some (i, r)) (hop : r.op = 5)
    (h : ((s.work.dropReq i).closeSess r).sweep = w) : Gives .sessionClose s w := by
  refine gives_of_run (execSessionClose.eq_1 s) halive ?_
  simp only [hsweep, hnext, hop, if_true]
  exact h

theorem leads_sessionClose {s : State} {r : SessReq} {q : Session} (halive : s.board.alive = true)
    (hwait : s.work.sess.waiting = [r]) (hheld : s.work.sess.held = []) (hop : r.op = 5) (hbad : r.bad = false)
    (hfind : Sp.find s.work.sess.open_ r.session = some q) (hrun : q.run = none) (hfull : s.work.cplFull = false)
    (hin : inStacks s.work.cplAt 32 = true) :
    Leads .sessionClose s (fun w =>
      w.sess = { s.work.sess with waiting := [], open_ := Sp.erase s.work.sess.open_ r.session,
                                  used := s.work.sess.used.filter (fun p => !q.pages.contains p) } ∧
      w.rd SZERO_CNT = min (s.work.rd SZERO_CNT + q.pages.length) 0xFFFFFFFF ∧
      ∀ pg ∈ q.pages, ∀ i < 65536, (s.work.cachePage pg + i < s.work.cplAt ∨ s.work.cplAt + 32 ≤ s.work.cachePage pg + i) →
        w.byte (s.work.cachePage pg + i) = 0) := by
  have hdrop := Work.dropReq_single hwait
  have hnext := Work.nextReq_single hwait hheld (.inr (Work.sessBusy_of_find hfind hrun))
  have hclose := Work.closeSess_closes (w := s.work.dropReq 0) (r := r) (by rw [hdrop]; exact hfind)
  have hclosed : ((s.work.dropReq 0).sessClosed r.session q).regs = s.work.regs := (s.work.dropReq 0).zeroPages_regs q.pages
  have hregs : RegsKept s.work (((s.work.dropReq 0).sessClosed r.session q).incBy SZERO_CNT q.pages.length).showSess
      [SZERO_CNT, SESS_STATUS, SCACHE_FREE] :=
    ((((RegsKept.refl s.work _).of_regs hclosed).wr (by simp) _).wr (by simp) _).wr (by simp) _
  have hsess : (((s.work.dropReq 0).sessClosed r.session q).incBy SZERO_CNT q.pages.length).showSess.sess =
      { s.work.sess with waiting := [], open_ := Sp.erase s.work.sess.open_ r.session,
                         used := s.work.sess.used.filter (fun p => !q.pages.contains p) } := by
    rw [hdrop]
    rfl
  have hzero : (((s.work.dropReq 0).sessClosed r.session q).incBy SZERO_CNT q.pages.length).showSess.rd SZERO_CNT =
      min (s.work.rd SZERO_CNT + q.pages.length) 0xFFFFFFFF := by
    rw [(Work.showSess_kept _).rd (by decide), Work.rd_incBy_same, Work.rd_congr hclosed]
  have hbytes : ∀ pg ∈ q.pages, ∀ i < 65536,
      (((s.work.dropReq 0).sessClosed r.session q).incBy SZERO_CNT q.pages.length).showSess.byte (s.work.cachePage pg + i) = 0 :=
    fun pg hpg i hi => (s.work.dropReq 0).byte_zeroPages hpg hi
  have hcpl : ∀ a ∈ cplRegs, (((s.work.dropReq 0).sessClosed r.session q).incBy SZERO_CNT q.pages.length).showSess.rd a =
      s.work.rd a := fun a ha => hregs.rd (by revert a; decide)
  generalize (((s.work.dropReq 0).sessClosed r.session q).incBy SZERO_CNT q.pages.length).showSess = v
    at hclose hsess hzero hbytes hcpl
  have hvfull : v.cplFull = false := by rw [Work.cplFull_congr hcpl, hfull]
  have hvheld : v.sess.held = [] := by rw [hsess, hheld]
  generalize ((s.work.dropReq 0).sessClosed r.session q).rd STEP_COMMITTED = c at hclose
  obtain ⟨hdone, -, -, hrd⟩ := Work.complete_leaves (w := v) r r.session 0 0 c c false hvfull hvheld
  have hapart := (Work.complete_bytes (w := v) r r.session 0 0 c c false hvfull hvheld
    (by rw [Work.cplAt_congr hcpl]; exact hin)).2
  rw [← hclose, hsess] at hdone
  rw [Work.cplAt_congr hcpl] at hapart
  refine ⟨(s.work.dropReq 0).closeSess r,
    gives_sessionClose halive (Work.sweep_of_single hwait (Work.atOnce_session hbad hfind (.inr hop))) hnext hop
      (Work.sweep_of_none (by rw [hdone])), hdone, ?_, fun pg hpg i hi hout => ?_⟩
  · rw [hclose, hrd _ (by decide) (by decide), hzero]
  · rw [hclose, hapart _ hout, hbytes pg hpg i hi]

end Sys2Proof.Machine
end

section
/-! ### A request completes (R287, R290, R292) -/

namespace Sys2Proof.Machine

section
variable {s : State} {n : Fin 1024} {q : Session} {u : SessRun} {st : Nat}

/-- The completion of a request whose work is done: a request that started no product carries the step committed now (R287). -/
def Work.cplOfRun (w : Work) (n st : Nat) (u : SessRun) : List Byte :=
  w.cplOf u.req n st u.done (u.first.getD (w.rd STEP_COMMITTED)) (if u.first.isSome then u.lastStep else w.rd STEP_COMMITTED) u.recovery

/-- A request that completes leaves its session. -/
def Work.completeRun (w : Work) (n st : Nat) (q : Session) (u : SessRun) : Work :=
  (w.setSess n { q with run := none }).complete u.req n st u.done (u.first.getD (w.rd STEP_COMMITTED))
    (if u.first.isSome then u.lastStep else w.rd STEP_COMMITTED) u.recovery

theorem gives_sessionComplete (halive : s.board.alive = true) (hfind : Sp.find s.work.sess.open_ n.val = some q)
    (hrun : q.run = some u) (hst : u.status = some st) {w : Work} (h : (s.work.completeRun n.val st q u).sweep = w) :
    Gives (.sessionComplete n) s w := by
  refine gives_of_run (execSessionComplete.eq_1 n s) halive ?_
  simp only [Work.sessEnds, hfind, hrun, hst]
  exact h

theorem leads_sessionComplete_written (halive : s.board.alive = true) (hwait : s.work.sess.waiting = [])
    (hfind : Sp.find s.work.sess.open_ n.val = some q) (hrun : q.run = some u) (hst : u.status = some st)
    (hfull : s.work.cplFull = false) (hheld : s.work.sess.held = []) (hin : inStacks s.work.cplAt 32 = true) :
    Leads (.sessionComplete n) s (fun w => w.bytes s.work.cplAt 32 = s.work.cplOfRun n.val st u ∧
      Sp.find w.sess.open_ n.val = some { q with run := none } ∧
      w.fld SCPL_TAIL 0 16 = (s.work.fld SCPL_TAIL 0 16 + 1) % s.work.cplSize % 2 ^ 16 ∧
      w.rd SREQ_CNT = min (s.work.rd SREQ_CNT + 1) 0xFFFFFFFF ∧
      (∀ a, a < s.work.cplAt ∨ s.work.cplAt + 32 ≤ a → w.byte a = s.work.byte a)) := by
  have hleaves := Work.complete_leaves (w := s.work.setSess n.val { q with run := none }) u.req n.val st u.done
    (u.first.getD (s.work.rd STEP_COMMITTED)) (if u.first.isSome then u.lastStep else s.work.rd STEP_COMMITTED) u.recovery hfull hheld
  have hwritten := Work.complete_bytes (w := s.work.setSess n.val { q with run := none }) u.req n.val st u.done
    (u.first.getD (s.work.rd STEP_COMMITTED)) (if u.first.isSome then u.lastStep else s.work.rd STEP_COMMITTED) u.recovery hfull hheld
    hin
  obtain ⟨hsess, hcount, htail, -⟩ := hleaves
  obtain ⟨hbytes, hapart⟩ := hwritten
  refine ⟨s.work.completeRun n.val st q u, gives_sessionComplete halive hfind hrun hst (Work.sweep_of_none ?_), hbytes, ?_, htail, hcount,
    hapart⟩
  · rw [Work.completeRun, hsess]
    exact hwait
  · rw [Work.completeRun, hsess]
    exact Sp.find_put_same ..

theorem leads_sessionComplete_waits (halive : s.board.alive = true) (hwait : s.work.sess.waiting = [])
    (hfind : Sp.find s.work.sess.open_ n.val = some q) (hrun : q.run = some u) (hst : u.status = some st)
    (h : s.work.cplFull = true ∨ s.work.sess.held ≠ []) :
    Leads (.sessionComplete n) s (fun w => w.sess.held = s.work.sess.held ++ [s.work.cplOfRun n.val st u] ∧
      w.flag SESS_STATUS 11 = true ∧ w.rd SCPL_WAIT_CNT = min (s.work.rd SCPL_WAIT_CNT + 1) 0xFFFFFFFF ∧ w.mem = s.work.mem) := by
  have hwaits := Work.complete_waits (w := s.work.setSess n.val { q with run := none }) u.req n.val st u.done
    (u.first.getD (s.work.rd STEP_COMMITTED)) (if u.first.isSome then u.lastStep else s.work.rd STEP_COMMITTED) u.recovery h
  have hcount := (s.work.setSess n.val { q with run := none }).rd_reqCounted st (a := SCPL_WAIT_CNT) (by decide)
  refine ⟨s.work.completeRun n.val st q u, gives_sessionComplete halive hfind hrun hst (Work.sweep_of_none ?_), ?_, ?_, ?_, ?_⟩
  · rw [Work.completeRun, hwaits]
    exact hwait
  · rw [Work.completeRun, hwaits]
    rfl
  · rw [Work.completeRun, hwaits]
    exact Work.flag_setBit_same _ _ _ (by decide)
  · rw [Work.completeRun, hwaits, Work.rd_setBit_ne _ _ _ (by decide), Work.rd_inc_same]
    exact congrArg (fun x => min (x + 1) 0xFFFFFFFF) hcount
  · rw [Work.completeRun, hwaits]
    exact Work.reqCounted_mem st

end

end Sys2Proof.Machine
end

section
/-! ### One step of a session's request (R281, R283) -/

namespace Sys2Proof.Machine

/-- A request of the operation that the command names. -/
def runsOp (n : Fin 1024) (k : SessWork) (op : Nat) (cmd : Instr) : Prop :=
  (op = 2 ∧ cmd = .sessionAppend n k) ∨ (op = 3 ∧ cmd = .sessionGenerate n k) ∨ (op = 4 ∧ cmd = .sessionScore n k)

theorem gives_sessRun {s : State} {n : Fin 1024} {k : SessWork} {op : Nat} {cmd : Instr} {w : Work} (halive : s.board.alive = true)
    (hcmd : runsOp n k op cmd) (h : s.work.sessRun n.val op k = w) : Gives cmd s w := by
  rcases hcmd with ⟨rfl, rfl⟩ | ⟨rfl, rfl⟩ | ⟨rfl, rfl⟩
  · exact gives_of_run (execSessionAppend.eq_1 n k s) halive h
  · exact gives_of_run (execSessionGenerate.eq_1 n k s) halive h
  · exact gives_of_run (execSessionScore.eq_1 n k s) halive h

section
variable {w : Work} {n : Nat} {q : Session} {u : SessRun}

/-- A session whose request of the operation runs, with no request waiting. -/
structure Work.Runs (w : Work) (n op : Nat) (q : Session) (u : SessRun) : Prop where
  wait : w.sess.waiting = []
  find : Sp.find w.sess.open_ n = some q
  run : q.run = some u
  op : u.req.op = op
  status : u.status = none

theorem Work.Runs.sessRun {op : Nat} (h : w.Runs n op q u) (k : SessWork) : w.sessRun n op k = w.sessAdvance n k := by
  simp only [Work.sessRun, Work.sweep_of_none h.wait, h.find, h.run, h.op, if_true]

theorem Work.Runs.starts {op : Nat} (h : w.Runs n op q u) (k : SessWork) (hgroup : u.group = none) :
    w.sessRun n op k = w.startGroup n q u k.group := by
  rw [h.sessRun]
  simp only [Work.sessAdvance, h.find, h.run, h.status, hgroup, Option.isSome_none, Bool.false_eq_true, if_false]

section
variable {op : Nat} {ts : List Word} (h : w.Runs n op q u) (k : SessWork) (hgroup : u.group = some ts)
include h hgroup

theorem Work.Runs.waits (hunit : w.sessUnitRuns n = true) : w.sessRun n op k = w := by
  rw [h.sessRun]
  simp only [Work.sessAdvance, h.find, h.run, h.status, hgroup, hunit, Option.isSome_none, Bool.false_eq_true, if_false, if_true]

theorem Work.Runs.enters (hunit : w.sessUnitRuns n = false) (hpos : u.pos < leAt (w.sessProg q.prog) 8 2) :
    w.sessRun n op k = w.sessEntry n q u k.unit := by
  rw [h.sessRun]
  simp only [Work.sessAdvance, h.find, h.run, h.status, hgroup, hunit, hpos, Option.isSome_none, Bool.false_eq_true, if_false, if_true]

theorem Work.Runs.ends (hunit : w.sessUnitRuns n = false) (hpos : leAt (w.sessProg q.prog) 8 2 ≤ u.pos) :
    w.sessRun n op k = w.endGroup n q u ts := by
  rw [h.sessRun]
  simp only [Work.sessAdvance, h.find, h.run, h.status, hgroup, hunit, Nat.not_lt.mpr hpos, Option.isSome_none, Bool.false_eq_true,
    if_false]

end

end

end Sys2Proof.Machine
end

section
/-! ### The end of a group (R281, R287, R289, R290) -/

namespace Sys2Proof.Machine

section
variable {w : Work} (n : Nat) (q : Session) (r : SessReq)

theorem Work.sessSeed_hbmKept (w : Work) (digital : Bool) (hist : List (Word × Nat)) : w.HbmKept (w.sessSeed q digital hist).2 := by
  unfold Work.sessSeed
  split
  · exact .refl w
  · exact ⟨⟨rfl, fun _ _ => rfl⟩, fun _ _ => rfl⟩

/-- One token of an APPEND or a SCORE: the history, the outputs, and the free values drawn. -/
def tokenTaken (a : List (Word × Nat) × List Word × Work) (t : Word) : List (Word × Nat) × List Word × Work :=
  let d := a.2.2.sessSeed q r.digital a.1
  (a.1 ++ [(t, d.1)], a.2.1 ++ (if r.op = 4 then [Config.sessScore d.1 t] else []), d.2)

theorem tokensTaken_leaves (ts : List Word) (a : List (Word × Nat) × List Word × Work) :
    (ts.foldl (tokenTaken q r) a).1.length = a.1.length + ts.length ∧ a.2.2.HbmKept (ts.foldl (tokenTaken q r) a).2.2 := by
  induction ts generalizing a with
  | nil => exact ⟨rfl, .refl _⟩
  | cons t ts ih =>
    obtain ⟨hlen, hkept⟩ := ih (tokenTaken q r a t)
    refine ⟨hlen.trans ?_, (a.2.2.sessSeed_hbmKept q r.digital a.1).trans hkept⟩
    simp only [tokenTaken, List.length_append, List.length_cons, List.length_nil]
    omega

/-- Each token of a group enters the session's history, and only free values are drawn for it. -/
theorem Work.sessTokens_leaves (w : Work) (ts : List Word) :
    (w.sessTokens n q r ts).1.length = q.hist.length + (if r.op = 3 then 1 else ts.length) ∧
      w.HbmKept (w.sessTokens n q r ts).2.2 := by
  unfold Work.sessTokens
  by_cases hop : r.op = 3
  · rw [if_pos hop, if_pos hop]
    exact ⟨List.length_append, w.sessSeed_hbmKept q r.digital q.hist⟩
  · rw [if_neg hop, if_neg hop]
    exact tokensTaken_leaves q r ts (q.hist, [], w)

theorem Work.growCache_hbmKept (w : Work) (seeds : List Nat) (poison : Bool) : w.HbmKept (w.growCache q seeds poison) := by
  unfold Work.growCache
  refine Work.HbmKept.foldl (fun v i => ?_) _ _
  dsimp only
  split
  · exact v.hbmPut_hbmKept _ _ _
  · exact .refl v

end

section
variable (w : Work) (n : Nat) (q : Session) (u : SessRun) (ts : List Word)

/-- The cache with a group's tokens in it. -/
def Work.groupCached : Work :=
  (w.sessTokens n q u.req ts).2.2.growCache q (((w.sessTokens n q u.req ts).1.drop q.hist.length).map (·.2)) (u.bad || q.poisoned)

/-- The cache and the outputs of a group written. -/
def Work.groupWritten : Work :=
  (w.groupCached n q u ts).when (u.req.op ≠ 2) (fun v =>
    v.hbmPut (u.req.outAddr + 4 * u.done) (wordsLE (w.sessTokens n q u.req ts).2.1) (u.bad || q.poisoned))

theorem Work.groupWritten_hbmKept : w.HbmKept (w.groupWritten n q u ts) :=
  .when ((Work.sessTokens_leaves n q u.req w ts).2.trans (Work.growCache_hbmKept q _ _ _)) (Work.hbmPut_hbmKept _ _ _ _) _

/-- The outputs stand at OUT_ADDR, behind those of the groups before (R281). -/
theorem Work.groupWritten_outputs (hop : u.req.op ≠ 2)
    (hin : inStacks (u.req.outAddr + 4 * u.done) (4 * (w.sessTokens n q u.req ts).2.1.length) = true) :
    (w.groupWritten n q u ts).bytes (u.req.outAddr + 4 * u.done) (4 * (w.sessTokens n q u.req ts).2.1.length) =
      wordsLE (w.sessTokens n q u.req ts).2.1 := by
  have hlen := wordsLE_length (w.sessTokens n q u.req ts).2.1
  rw [← hlen] at hin ⊢
  rw [Work.groupWritten, decide_eq_true hop, Work.when_true]
  exact Work.bytes_of_stored (Work.hbmPut_mem _ _ hin)

/-- The status that a request has after a group of `m` tokens; none while it goes on (R281, R290). -/
def Work.groupStatus (m : Nat) : Option Nat :=
  if (u.bad || q.poisoned) = true then some 1
  else if u.done + m = u.req.count ∨ (u.req.op = 3 ∧ u.req.stop ≠ 0xFFFFFFFF ∧
    (w.sessTokens n q u.req ts).2.1.any (fun x => x.toNat == u.req.stop) = true) then some 0 else none

/-- The session after a group of `m` tokens. -/
def Work.groupSession (m : Nat) : Session :=
  { q with
    len := q.len + m, hist := (w.sessTokens n q u.req ts).1, poisoned := u.bad || q.poisoned
    run := some { u with done := u.done + m, group := none, status := w.groupStatus n q u ts m } }

theorem Work.endGroup_eq : w.endGroup n q u ts =
    (w.groupWritten n q u ts).setSess n (w.groupSession n q u ts (if u.req.op = 3 then 1 else ts.length)) := by
  have hlen : (w.sessTokens n q u.req ts).1.length - q.hist.length = if u.req.op = 3 then 1 else ts.length := by
    rw [(Work.sessTokens_leaves n q u.req w ts).1, Nat.add_sub_cancel_left]
  have hstatus : ∀ m : Nat, (if u.bad || q.poisoned then some 1
      else if u.done + m = u.req.count || (u.req.op = 3 && u.req.stop ≠ 0xFFFFFFFF &&
        (w.sessTokens n q u.req ts).2.1.any (fun x => x.toNat == u.req.stop)) then some 0 else none) =
      (w.groupStatus n q u ts m : Option Nat) := fun m => by
    simp only [Work.groupStatus, Bool.or_eq_true, Bool.and_eq_true, decide_eq_true_eq, and_assoc]
  rw [Work.groupSession, ← hstatus, ← hlen]
  rfl

end

end Sys2Proof.Machine
end

section
/-! ### The entries of a session program (R283, R284, R288) -/

namespace Sys2Proof.Machine

section
variable {w : Work} {n : Nat} {q : Session} {u : SessRun}

/-- KIND of the entry that the session's request has come to (R283). -/
def Work.entryKind (w : Work) (q : Session) (u : SessRun) : Nat := leAt (w.sessList q.prog) (8 * u.pos) 1 % 4

/-- An entry of the other mode is passed over (R288). -/
theorem Work.sessEntry_passes (k : SessUnit)
    (h : (w.entryKind q u = 0 ∧ u.req.digital = true) ∨ (w.entryKind q u = 1 ∧ u.req.digital = false)) :
    w.sessEntry n q u k = w.setRun n q { u with pos := u.pos + 1 } := by
  unfold Work.entryKind at h
  rcases h with ⟨hkind, hmode⟩ | ⟨hkind, hmode⟩ <;> simp [Work.sessEntry, hkind, hmode]

/-- An entry of the request's mode starts its unit. -/
theorem Work.sessEntry_starts (k : SessUnit) (h : w.entryKind q u = 2 ∨ (w.entryKind q u = 0 ∧ u.req.digital = false) ∨
      (w.entryKind q u = 1 ∧ u.req.digital = true)) :
    w.sessEntry n q u k =
      match k with
      | .forward c a => w.sessForward n q u c.val a
      | .job c a => w.sessJob n q u c.val a := by
  unfold Work.entryKind at h
  rcases h with hkind | ⟨hkind, hmode⟩ | ⟨hkind, hmode⟩
  · simp only [Work.sessEntry, hkind]
    rfl
  · simp only [Work.sessEntry, hkind, hmode]
    rfl
  · simp only [Work.sessEntry, hkind, hmode]
    rfl

/-- The products of a forward layer group, vector by vector (R284). -/
def groupOffers (n c : Nat) (r : FwdRun) : List SessProduct :=
  (List.range r.vecCount).flatMap (fun v => (r.entries.zipIdx).map (fun e =>
    { session := n, core := c, tile := e.1.tile, entry := e.2, vec := v }))

/-- The engine with a session's forward layer group begun. -/
def Work.groupOffered (w : Work) (n c : Nat) (q : Session) (u : SessRun) (r : FwdRun) : Work :=
  { w with sess := { w.sess with
      open_ := Sp.put w.sess.open_ n { q with run := some { u with pos := u.pos + 1 } }
      offers := w.sess.offers ++ groupOffers n c r, fwd := Sp.put w.sess.fwd n (c, r) } }

theorem Work.sessForward_starts {c a : Nat} {r : FwdRun} (hgroup : w.fwdGroup c 0 a 0xFFFF = .ok r) (hmode : u.req.digital = false) :
    w.sessForward n q u c a = w.groupOffered n c q u r := by
  simp only [Work.sessForward, hgroup, hmode]
  rfl

theorem Work.sessJob_starts {c a : Nat} {h : List Byte} (hdesc : w.descriptor c a 80 64 = some h)
    (hvec : (leAt h 3 1).testBit 0 = false ∨ w.ctxState c 16 = 0) (hcheck : w.headerCheck c 255 h = 0)
    (hcopy : u.req.digital = false ∨ w.copyOpen = false) (hfree : w.halvesFree c h = true) (hmacs : w.macsOn c = true)
    (hfit : w.streamsFit c h = true) (hsome : headerCtxs h ≠ []) :
    w.sessJob n q u c a = (w.startJob c none (some n) h).setRun n q { u with pos := u.pos + 1 } := by
  have hwait : ((leAt h 3 1).testBit 0 && decide (w.ctxState c 16 ≠ 0)) = false := by rcases hvec with hv | hv <;> simp [hv]
  have hgo : (u.req.digital && w.copyOpen || !w.halvesFree c h || !w.macsOn c || !w.streamsFit c h) = false := by
    rcases hcopy with hc | hc <;> simp [hc, hfree, hmacs, hfit]
  have hempty : (headerCtxs h).isEmpty = false := by simpa using hsome
  simp only [Work.sessJob, hdesc, hwait, hcheck, hgo, hempty, ne_eq, not_true_eq_false, if_false, Bool.false_eq_true, Work.when_false]

end

end Sys2Proof.Machine
end

section
/-! ### The contexts of a job (R202, Table 5-14) -/

namespace Sys2Proof.Machine

theorem headerCtxs_lt {h : List Byte} {p : Nat × Nat} (hp : p ∈ headerCtxs h) : p.1 < 17 := by
  rcases List.mem_append.mp hp with hp | hp
  · obtain ⟨x, hx, rfl⟩ := List.mem_map.mp (List.mem_of_mem_filter hp)
    exact Nat.lt_succ_of_lt (List.mem_range.mp hx)
  · split at hp
    · rw [List.mem_singleton.mp hp]
      exact Nat.lt_succ_self 16
    · cases hp

/-- No context is claimed twice. -/
theorem headerCtxs_pairwise (h : List Byte) : (headerCtxs h).Pairwise (fun p r => p.1 ≠ r.1) := by
  refine List.pairwise_append.mpr ⟨List.Pairwise.filter _ ?_, ?_, ?_⟩
  · exact List.pairwise_map.mpr (List.Pairwise.imp (fun hlt => Nat.ne_of_lt hlt) List.pairwise_lt_range)
  · split
    · exact List.pairwise_singleton ..
    · exact List.Pairwise.nil
  · intro p hp r hr
    obtain ⟨x, hx, rfl⟩ := List.mem_map.mp (List.mem_of_mem_filter hp)
    split at hr
    · rw [List.mem_singleton.mp hr]
      exact Nat.ne_of_lt (List.mem_range.mp hx)
    · cases hr

/-- A bit of MAC_STATUS beside the two states leaves them. -/
theorem Work.ctxState_setFld_MAC_STATUS (w : Work) (c : Nat) {a b : Nat} (v : Nat) (ha : a < 8) (hb : b = 0 ∨ 7 ≤ b ∧ b < 32)
    (y : Nat) :
    (w.setFld (MAC_STATUS c a) b 1 v).ctxState c y = w.ctxState c y := by
  rw [Work.ctxState_eq, Work.ctxState_eq]
  by_cases he : statusReg c y = MAC_STATUS c a
  · have hlo : y ≠ 16 := fun hy => by
      rw [hy, statusReg, if_pos rfl] at he
      unfold VEC_STATUS MAC_STATUS coreBase at he
      omega
    rw [he]
    refine w.fld_setFld_apart _ _ (by omega) ?_
    rw [statusLo, if_neg hlo]
    omega
  · exact w.fld_setFld_ne _ _ _ _ he _ _

section
variable (c : Nat) (slot session : Option Nat) (h : List Byte)

/-- What a job's claim gives one of its contexts. -/
def startedCtx (p : Nat × Nat) : Ctx :=
  { slot := slot, session := session, tag := leAt h 0 2, split := p.1 < 16 && (leAt h 2 1).testBit (p.1 / 2), opdBase := leAt h 72 4,
    pc := p.2 }

/-- MAC_STATUS shows a claimed half: whether its array is split, and whether a session has it (Table 5-14). -/
def Work.halfShown (w : Work) (p : Nat × Nat) : Work :=
  let v := if p.1 < 16 then w.bitTo (MAC_STATUS c (p.1 / 2)) 0 (p.1 < 16 && (leAt h 2 1).testBit (p.1 / 2)) else w
  if p.1 < 16 && session.isSome then v.setBit (MAC_STATUS c (p.1 / 2)) (7 + p.1 % 2) else v

/-- One context of a job claimed and in RUN. -/
def Work.ctxStarted (w : Work) (p : Nat × Nat) : Work :=
  ((((w.setCtx c p.1 (startedCtx slot session h p)).halfShown c session h p).setCtxState c p.1 1).progress (2000 + 17 * c + p.1))

theorem Work.startJob_eq (w : Work) : w.startJob c slot session h =
    ((headerCtxs h).foldl (Work.ctxStarted c slot session h) w).setDig c
      { ((headerCtxs h).foldl (Work.ctxStarted c slot session h) w).dig c with
        jobs := Sp.put (((headerCtxs h).foldl (Work.ctxStarted c slot session h) w).dig c).jobs
          (match session with | some n => 4096 + n | none => slot.getD 0) { ctxs := (headerCtxs h).map (·.1) } } := rfl

theorem Work.halfShown_frame (w : Work) (p : Nat × Nat) :
    w.halfShown c session h p = { w with regs := (w.halfShown c session h p).regs } := by
  unfold Work.halfShown
  split <;> split <;> rfl

theorem Work.ctxState_halfShown (w : Work) {p : Nat × Nat} (hp : p.1 < 17) (y : Nat) :
    (w.halfShown c session h p).ctxState c y = w.ctxState c y := by
  unfold Work.halfShown
  by_cases h16 : p.1 < 16
  · have ha : p.1 / 2 < 8 := by omega
    have hsplit := w.ctxState_setFld_MAC_STATUS c (if decide (p.1 < 16) && (leAt h 2 1).testBit (p.1 / 2) then 1 else 0) ha (.inl rfl) y
    rw [if_pos h16]
    dsimp only
    split
    · exact (Work.ctxState_setFld_MAC_STATUS _ c 1 ha (.inr ⟨by omega, by omega⟩) y).trans hsplit
    · exact hsplit
  · simp only [h16, if_false, decide_false, Bool.false_and, Bool.false_eq_true]

theorem Work.ctxStarted_same (w : Work) {p : Nat × Nat} (hp : p.1 < 17) :
    (w.ctxStarted c slot session h p).ctxState c p.1 = 1 ∧
      (w.ctxStarted c slot session h p).ctx c p.1 = startedCtx slot session h p := by
  refine ⟨Work.ctxState_setCtxState_same _ c hp (by decide), ?_⟩
  have hctxs : (w.ctxStarted c slot session h p).ctxs = (w.setCtx c p.1 (startedCtx slot session h p)).ctxs := by
    rw [Work.ctxStarted, Work.progress_ctxs, Work.setCtxState_frame, Work.halfShown_frame]
  rw [Work.ctx_congr hctxs, Work.ctx_setCtx_same]

theorem Work.ctxStarted_ne (w : Work) {p : Nat × Nat} (hp : p.1 < 17) {y : Nat} (hy : y < 17) (hne : y ≠ p.1) :
    (w.ctxStarted c slot session h p).ctxState c y = w.ctxState c y ∧
      (w.ctxStarted c slot session h p).ctx c y = w.ctx c y := by
  refine ⟨(Work.ctxState_setCtxState_ne _ 1 hp hy (.inr hne)).trans (Work.ctxState_halfShown c session h _ hp y), ?_⟩
  have hctxs : (w.ctxStarted c slot session h p).ctxs = (w.setCtx c p.1 (startedCtx slot session h p)).ctxs := by
    rw [Work.ctxStarted, Work.progress_ctxs, Work.setCtxState_frame, Work.halfShown_frame]
  rw [Work.ctx_congr hctxs, Work.ctx_setCtx_ne _ _ hp hy (.inr hne)]

theorem Work.ctxStarted_frame (w : Work) (p : Nat × Nat) :
    (w.ctxStarted c slot session h p).mem = w.mem ∧ (w.ctxStarted c slot session h p).sess = w.sess := by
  rw [Work.ctxStarted, Work.progress_mem, Work.progress_sess, Work.setCtxState_frame, Work.halfShown_frame]
  exact ⟨rfl, rfl⟩

/-- Contexts claimed one after another leave a context that none of them is. -/
theorem Work.ctxsStarted_ne (ps : List (Nat × Nat)) (hps : ∀ p ∈ ps, p.1 < 17) (w : Work) {y : Nat} (hy : y < 17)
    (hne : ∀ p ∈ ps, y ≠ p.1) :
    (ps.foldl (Work.ctxStarted c slot session h) w).ctxState c y = w.ctxState c y ∧
      (ps.foldl (Work.ctxStarted c slot session h) w).ctx c y = w.ctx c y :=
  List.foldlRecOn (motive := fun v : Work => v.ctxState c y = w.ctxState c y ∧ v.ctx c y = w.ctx c y) ps _ ⟨rfl, rfl⟩
    fun v hv p hp =>
      have hstep := v.ctxStarted_ne c slot session h (hps p hp) hy (hne p hp)
      ⟨hstep.1.trans hv.1, hstep.2.trans hv.2⟩

theorem Work.ctxsStarted (ps : List (Nat × Nat)) (hps : ∀ p ∈ ps, p.1 < 17) (hdistinct : ps.Pairwise (fun p r => p.1 ≠ r.1))
    (w : Work) {p : Nat × Nat} (hp : p ∈ ps) :
    (ps.foldl (Work.ctxStarted c slot session h) w).ctxState c p.1 = 1 ∧
      (ps.foldl (Work.ctxStarted c slot session h) w).ctx c p.1 = startedCtx slot session h p := by
  induction ps generalizing w with
  | nil => cases hp
  | cons r ps ih =>
    obtain ⟨hr, hrest⟩ := List.pairwise_cons.mp hdistinct
    have hlt : ∀ p ∈ ps, p.1 < 17 := fun p hp => hps p (List.mem_cons_of_mem r hp)
    rcases List.mem_cons.mp hp with rfl | hp
    · have hsame := w.ctxStarted_same c slot session h (hps p List.mem_cons_self)
      have hkeeps := (w.ctxStarted c slot session h p).ctxsStarted_ne c slot session h ps hlt (hps p List.mem_cons_self) hr
      exact ⟨hkeeps.1.trans hsame.1, hkeeps.2.trans hsame.2⟩
    · exact ih hlt hrest (w.ctxStarted c slot session h r) hp

theorem Work.ctxsStarted_frame (ps : List (Nat × Nat)) (w : Work) :
    (ps.foldl (Work.ctxStarted c slot session h) w).mem = w.mem ∧ (ps.foldl (Work.ctxStarted c slot session h) w).sess = w.sess :=
  List.foldlRecOn (motive := fun v : Work => v.mem = w.mem ∧ v.sess = w.sess) ps _ ⟨rfl, rfl⟩ fun v hv p _ =>
    have hstep := v.ctxStarted_frame c slot session h p
    ⟨hstep.1.trans hv.1, hstep.2.trans hv.2⟩

/-- A job's contexts run from the addresses its header gives; memory stands. -/
theorem Work.startJob_leaves (w : Work) :
    (∀ p ∈ headerCtxs h, (w.startJob c slot session h).ctxState c p.1 = 1 ∧
      (w.startJob c slot session h).ctx c p.1 = startedCtx slot session h p) ∧
      Sp.find ((w.startJob c slot session h).dig c).jobs (match session with | some n => 4096 + n | none => slot.getD 0) =
        some { ctxs := (headerCtxs h).map (·.1) } ∧
      (w.startJob c slot session h).mem = w.mem ∧ (w.startJob c slot session h).sess = w.sess := by
  have hstarted := fun p (hp : p ∈ headerCtxs h) =>
    Work.ctxsStarted c slot session h (headerCtxs h) (fun _ hp => headerCtxs_lt hp) (headerCtxs_pairwise h) w hp
  have hframe := Work.ctxsStarted_frame c slot session h (headerCtxs h) w
  rw [Work.startJob_eq]
  generalize (headerCtxs h).foldl (Work.ctxStarted c slot session h) w = v at hstarted hframe ⊢
  refine ⟨hstarted, ?_, hframe⟩
  rw [Work.dig_setDig_same]
  exact Sp.find_put_same ..

end

end Sys2Proof.Machine
end

section
/-! ### Sessions (R280 to R292) -/

namespace Sys2Proof.Machine

section
variable {s : State} {n : Fin 1024} {k : SessWork} {q : Session} {u : SessRun} {op : Nat} {cmd : Instr} {ts : List Word}
  (halive : s.board.alive = true) (hcmd : runsOp n k op cmd) (hruns : s.work.Runs n.val op q u) (hgroup : u.group = some ts)
  (hunit : s.work.sessUnitRuns n.val = false)
include halive hcmd hruns hgroup hunit

theorem leads_groupEnd (hpos : leAt (s.work.sessProg q.prog) 8 2 ≤ u.pos) :
    Leads cmd s (fun w =>
      Sp.find w.sess.open_ n.val = some (s.work.groupSession n.val q u ts (if u.req.op = 3 then 1 else ts.length)) ∧
      (u.req.op ≠ 2 → inStacks (u.req.outAddr + 4 * u.done) (4 * (s.work.sessTokens n.val q u.req ts).2.1.length) = true →
        w.bytes (u.req.outAddr + 4 * u.done) (4 * (s.work.sessTokens n.val q u.req ts).2.1.length) =
          wordsLE (s.work.sessTokens n.val q u.req ts).2.1) ∧
      w.rd STEP_COMMITTED = s.work.rd STEP_COMMITTED) := by
  have hkept := s.work.groupWritten_hbmKept n.val q u ts
  exact ⟨_, gives_sessRun halive hcmd ((hruns.ends k hgroup hunit hpos).trans (s.work.endGroup_eq n.val q u ts)), Sp.find_put_same ..,
    fun hop hin => s.work.groupWritten_outputs n.val q u ts hop hin, hkept.rd (a := STEP_COMMITTED) (by decide)⟩

variable (hpos : u.pos < leAt (s.work.sessProg q.prog) 8 2)
include hpos

theorem gives_forwardEntry {c : Fin 1024} {a : Nat} {r : FwdRun} (hkind : s.work.entryKind q u = 0 ∨ s.work.entryKind q u = 2)
    (hmode : u.req.digital = false) (hk : k.unit = .forward c a) (hfwd : s.work.fwdGroup c.val 0 a 0xFFFF = .ok r) :
    Gives cmd s (s.work.groupOffered n.val c.val q u r) := by
  refine gives_sessRun halive hcmd ((hruns.enters k hgroup hunit hpos).trans ?_)
  rw [Work.sessEntry_starts k.unit (hkind.symm.imp id fun h => .inl ⟨h, hmode⟩), hk]
  exact Work.sessForward_starts hfwd hmode

theorem leads_jobEntry {c : Fin 1024} {a : Nat} {h : List Byte}
    (hkind : s.work.entryKind q u = 2 ∨ (s.work.entryKind q u = 0 ∧ u.req.digital = false) ∨
      (s.work.entryKind q u = 1 ∧ u.req.digital = true))
    (hk : k.unit = .job c a) (hdesc : s.work.descriptor c.val a 80 64 = some h)
    (hvec : (leAt h 3 1).testBit 0 = false ∨ s.work.ctxState c.val 16 = 0) (hcheck : s.work.headerCheck c.val 255 h = 0)
    (hcopy : u.req.digital = false ∨ s.work.copyOpen = false) (hfree : s.work.halvesFree c.val h = true)
    (hmacs : s.work.macsOn c.val = true) (hfit : s.work.streamsFit c.val h = true) (hsome : headerCtxs h ≠ []) :
    Leads cmd s (fun w => Sp.find w.sess.open_ n.val = some { q with run := some { u with pos := u.pos + 1 } } ∧
      (∀ p ∈ headerCtxs h, w.ctxState c.val p.1 = 1 ∧ (w.ctx c.val p.1).session = some n.val ∧ (w.ctx c.val p.1).pc = p.2) ∧
      Sp.find (w.dig c.val).jobs (4096 + n.val) = some { ctxs := (headerCtxs h).map (·.1) } ∧ w.mem = s.work.mem) := by
  have hjob : s.work.sessRun n.val op k = (s.work.startJob c.val none (some n.val) h).setRun n.val q { u with pos := u.pos + 1 } := by
    rw [hruns.enters k hgroup hunit hpos, Work.sessEntry_starts k.unit hkind, hk]
    exact Work.sessJob_starts hdesc hvec hcheck hcopy hfree hmacs hfit hsome
  obtain ⟨hctxs, hjobs, hmem, -⟩ := s.work.startJob_leaves c.val none (some n.val) h
  generalize s.work.startJob c.val none (some n.val) h = v at hjob hctxs hjobs hmem
  refine ⟨_, gives_sessRun halive hcmd hjob, Sp.find_put_same .., fun p hp => ?_, hjobs, hmem⟩
  obtain ⟨hstate, hctx⟩ := hctxs p hp
  exact ⟨hstate, congrArg Ctx.session hctx, congrArg Ctx.pc hctx⟩

end

/-- Settles O21: the queue and the ring, the end of a group and of a request, the start of a group and of an entry's unit. -/
theorem sessionsOpenRunAndClose : Obligations.SessionsOpenRunAndClose := by
  refine ⟨⟨?tail, ?opened, ?close, ?room, ?head⟩, ⟨?group, ?complete⟩, ?entry⟩
  case tail =>
    intro s p v halive hw hwait u req hen hne hlast hbad hwork
    obtain ⟨w, hgives, hsess, hhead, hmem⟩ := leads_sreqTailWrite halive hw rfl hwait hen hne hlast rfl hbad hwork
    exact ⟨w, hgives, by rw [hsess]; rfl, by rw [hsess], hhead, hmem⟩
  case opened =>
    intro s r halive hwait hheld hop hbad hlt hprog hnone hfull k hroom
    obtain ⟨w, hgives, hsess, hcount, htail⟩ := leads_sessionOpen halive hwait hheld hop hbad hlt hprog hnone hfull rfl hroom
    refine ⟨w, hgives, by rw [hsess], ⟨s.work.newSession r k, ?_, rfl, rfl, ?_, rfl, rfl, fun g hg => mem_take_cacheFree hg, ?_⟩, hcount,
      htail⟩
    · rw [hsess]
      exact Sp.find_put_same ..
    · exact List.length_take_of_le hroom
    · rw [hsess]
  case close =>
    intro s r q pg halive hwait hheld hop hbad hfind hrun hpg hfull cpl hin
    obtain ⟨w, hgives, hsess, hzero, hbytes⟩ := leads_sessionClose halive hwait hheld hop hbad hfind hrun hfull hin
    refine ⟨w, hgives, by rw [hsess], ?_, fun g hg => ?_, hzero, fun i hi hout => hbytes pg hpg i hi hout⟩
    · rw [hsess, Sp.find_erase, if_pos rfl]
    · rw [hsess]
      simp [hg]
  case room =>
    intro s p v b halive hw hheld hlen hwait u cpl hin
    exact ⟨fun hfull => gives_scplHeadWrite halive hw (Work.writeCplHead_full hheld hfull),
      fun hfull => leads_scplHeadWrite halive hw rfl hheld hlen hwait hin hfull⟩
  case head =>
    intro s p v halive hw hheld hwait
    exact gives_scplHeadWrite halive hw (Work.writeCplHead_none hheld hwait)
  case group =>
    intro s n k q u op cmd ts halive hcmd hwait hfind hrun hop hst hgroup hunit hpos g m bad stopped out
    obtain ⟨w, hgives, hsess, hout, hstep⟩ := leads_groupEnd halive hcmd ⟨hwait, hfind, hrun, hop, hst⟩ hgroup hunit hpos
    subst hop
    refine ⟨w, hgives, hsess, hout, fun hgen hmode => ?_, hstep⟩
    simp only [g, Work.sessTokens, hgen, if_true, Work.sessSeed, hmode]
    rfl
  case complete =>
    intro s n q u st halive hwait hfind hrun hst cpl c b
    exact ⟨fun hfull hheld hin => leads_sessionComplete_written halive hwait hfind hrun hst hfull hheld hin,
      fun hwaits => leads_sessionComplete_waits halive hwait hfind hrun hst hwaits⟩
  case entry =>
    intro s n k q u op cmd halive hcmd hwait hfind hrun hop hst
    have hruns : s.work.Runs n.val op q u := ⟨hwait, hfind, hrun, hop, hst⟩
    refine ⟨?start, ?waits, ?passes, ?forward, ?job⟩
    case start =>
      intro hgroup left room m g ts
      subst hop
      exact gives_sessRun halive hcmd (hruns.starts k hgroup)
    case waits => exact fun ts hgroup hunit => gives_sessRun halive hcmd (hruns.waits k hgroup hunit)
    case passes =>
      intro ts hgroup hunit hpos kind hpass
      exact gives_sessRun halive hcmd ((hruns.enters k hgroup hunit hpos).trans (Work.sessEntry_passes k.unit hpass))
    case forward =>
      intro ts c a r hgroup hunit hpos kind hkind hmode hk hfwd
      exact ⟨_, gives_forwardEntry halive hcmd hruns hgroup hunit hpos hkind hmode hk hfwd, Sp.find_put_same .., Sp.find_put_same .., rfl,
        rfl, rfl⟩
    case job =>
      intro ts c a h hgroup hunit hpos kind hkind hk hdesc hvec hcheck hcopy hfree hmacs hfit hsome
      exact leads_jobEntry halive hcmd hruns hgroup hunit hpos hkind hk hdesc hvec hcheck hcopy hfree hmacs hfit hsome

end Sys2Proof.Machine
end

section
/-! ### Poison marks (R311, R312)

Which units of the stacks a range meets and which it covers whole, what marks and clears them, and how a list of writes leaves the
bytes and marks that each of them sets. -/

namespace Sys2Proof.Machine

theorem Work.mem_mark {w : Work} {a n u : Nat} : u ∈ (w.mark a n).poison ↔ u ∈ poisonUnits a n ∨ u ∈ w.poison := by
  have hfold : ∀ us l : List Nat, u ∈ us.foldl (fun l u => insNat u l) l ↔ u ∈ us ∨ u ∈ l := by
    intro us
    induction us with
    | nil => simp
    | cons x xs ih =>
      intro l
      rw [List.foldl_cons, ih, mem_insNat, List.mem_cons]
      tauto
  exact hfold _ _

theorem Work.mem_of_mem_unmark {w : Work} {a n u : Nat} (h : u ∈ (w.unmark a n).poison) : u ∈ w.poison := (List.mem_filter.mp h).1

/-- A line of the stacks is among a range's units where the two meet. -/
theorem mem_poisonUnits {a n u : Nat} (h : a + n ≤ 2 ^ 40) : u ∈ poisonUnits a n ↔ n ≠ 0 ∧ 256 * u < a + n ∧ a < 256 * u + 256 := by
  by_cases hn : n = 0
  · simp [poisonUnits, hn]
  · have hlo : poisonUnit a = a / 256 := if_pos (by omega)
    have hhi : poisonUnit (a + n - 1) = (a + n - 1) / 256 := if_pos (by omega)
    simp only [poisonUnits, if_neg hn, hlo, hhi, List.mem_map, List.mem_range]
    constructor
    · rintro ⟨i, hi, rfl⟩
      omega
    · rintro ⟨-, h1, h2⟩
      exact ⟨u - a / 256, by omega, by omega⟩

/-- The unit of a byte is among those of every range that holds the byte. -/
theorem poisonUnit_mem {a n x : Nat} (ha : a ≤ x) (hx : x < a + n) :
    poisonUnit x ∈ poisonUnits a n := by
  have hmono : poisonUnit a ≤ poisonUnit x ∧ poisonUnit x ≤ poisonUnit (a + n - 1) := by
    unfold poisonUnit
    split <;> split <;> split <;> omega
  rw [poisonUnits, if_neg (by omega), List.mem_map]
  exact ⟨poisonUnit x - poisonUnit a, by rw [List.mem_range]; omega, by omega⟩

/-- A range of the stacks cleared: the lines that it covers whole lose their mark. -/
theorem Work.mem_unmark {w : Work} {a n u : Nat} (ha : a < 2 ^ 40) (h : a + n ≤ 2 ^ 40) :
    u ∈ (w.unmark a n).poison ↔ u ∈ w.poison ∧ ¬ (a ≤ 256 * u ∧ 256 * u + 256 ≤ a + n) := by
  simp only [Work.unmark, if_pos ha, List.mem_filter, decide_eq_true ha, beq_true, ← Bool.decide_and, Bool.not_eq_true',
    decide_eq_false_iff_not]
  refine and_congr_right fun _ => ?_
  constructor <;> intro hn hc <;> exact hn (by omega)

/-- A range shorter than any unit covers none. -/
theorem Work.unmark_word (w : Work) (a : Nat) : (w.unmark a 4).poison = w.poison := by
  refine List.filter_eq_self.mpr fun u _ => ?_
  dsimp only
  split
  · rw [decide_eq_false (by omega), Bool.false_and, Bool.not_false]
  · rw [decide_eq_false (by omega), Bool.false_and, Bool.not_false]

theorem Work.poisoned_iff {w : Work} {a n : Nat} : w.poisoned a n = true ↔ ∃ u ∈ poisonUnits a n, u ∈ w.poison := by
  simp [Work.poisoned]

/-- A byte is poisoned where its unit is marked. -/
theorem Work.poisoned_byte {w : Work} {x : Nat} : w.poisoned x 1 = true ↔ poisonUnit x ∈ w.poison := by
  simp [Work.poisoned, poisonUnits]

/-- A line of the stacks is poisoned where it is marked. -/
theorem Work.poisoned_line {w : Work} {l : Nat} (h : 256 * l + 256 ≤ 2 ^ 40) : w.poisoned (256 * l) 256 = w.poison.contains l := by
  rw [Bool.eq_iff_iff, Work.poisoned_iff, List.contains_iff_mem]
  constructor
  · rintro ⟨u, hu, hm⟩
    rw [mem_poisonUnits h] at hu
    rwa [show l = u by omega]
  · exact fun hm => ⟨l, (mem_poisonUnits h).mpr (by omega), hm⟩

theorem Work.poisoned_congr {v w : Work} (h : v.poison = w.poison) (a n : Nat) : v.poisoned a n = w.poisoned a n := by
  rw [Work.poisoned, Work.poisoned, h]

/-! A list of steps, each of which sets what no other of them undoes. -/

theorem foldl_attains {α β : Type} {f : β → α → β} {P : α → β → Prop} {l : List α} (hmade : ∀ v, ∀ q ∈ l, P q (f v q))
    (hkept : ∀ v, ∀ q ∈ l, ∀ r ∈ l, P r v → P r (f v q)) (w : β) : ∀ q ∈ l, P q (l.foldl f w) := by
  have hstays : ∀ k : List α, (∀ q ∈ k, q ∈ l) → ∀ v, ∀ r ∈ l, P r v → P r (k.foldl f v) := by
    intro k
    induction k with
    | nil => exact fun _ _ _ _ h => h
    | cons q k ih => exact fun hk v r hr h => ih (fun x hx => hk x (by simp [hx])) _ r hr (hkept v q (hk q (by simp)) r hr h)
  suffices ∀ k : List α, (∀ q ∈ k, q ∈ l) → ∀ v, ∀ q ∈ k, P q (k.foldl f v) from this l (fun _ h => h) w
  intro k
  induction k with
  | nil => simp
  | cons x k ih =>
    intro hk v q hq
    rcases List.mem_cons.mp hq with rfl | hq
    · exact hstays k (fun y hy => hk y (by simp [hy])) _ q (hk q (by simp)) (hmade v q (hk q (by simp)))
    · exact ih (fun y hy => hk y (by simp [hy])) _ q hq

/-! Writes of parts of one image. -/

section
variable {α : Type} {f : Work → α → Work} {l : List α} {pos : α → Nat} {part : α → List Byte} {image : Nat → Byte}

theorem Work.byte_foldl_part (hf : ∀ v, ∀ q ∈ l, (f v q).mem = storeCells v.mem (pos q) (part q))
    (himage : ∀ q ∈ l, ∀ i < (part q).length, (part q).getD i 0 = image (pos q + i)) (w : Work) :
    ∀ q ∈ l, ∀ x, pos q ≤ x → x < pos q + (part q).length → (l.foldl f w).byte x = image x := by
  have hstep : ∀ v, ∀ q ∈ l, ∀ x, (f v q).byte x =
      if pos q ≤ x ∧ x < pos q + (part q).length then image x else v.byte x := by
    intro v q hq x
    rw [Work.byte, hf v q hq, cellAt_storeCells]
    split
    · rename_i h
      rw [himage q hq _ (by omega), Nat.add_sub_of_le h.1]
    · rfl
  refine foldl_attains (P := fun q v => ∀ x, pos q ≤ x → x < pos q + (part q).length → v.byte x = image x) ?_ ?_ w
  · intro v q hq x h1 h2
    rw [hstep v q hq, if_pos ⟨h1, h2⟩]
  · intro v q hq r hr h x h1 h2
    rw [hstep v q hq, h x h1 h2, ite_self]

theorem Work.byte_foldl_apart (hf : ∀ v, ∀ q ∈ l, (f v q).mem = storeCells v.mem (pos q) (part q)) (w : Work) {x : Nat}
    (hx : ∀ q ∈ l, x < pos q ∨ pos q + (part q).length ≤ x) : (l.foldl f w).byte x = w.byte x := by
  refine List.foldlRecOn (motive := fun v : Work => v.byte x = w.byte x) l f rfl fun v hv q hq => ?_
  rw [Work.byte, hf v q hq, cellAt_storeCells, if_neg (by have := hx q hq; omega)]
  exact hv

end

/-- Bytes read as a list of their number, byte by byte. -/
theorem Work.bytes_eq_iff {w : Work} {a : Nat} {d : List Byte} :
    w.bytes a d.length = d ↔ ∀ i < d.length, w.byte (a + i) = d.getD i 0 := by
  constructor
  · intro h i hi
    rw [← Work.getD_bytes w a hi, h]
  · intro h
    refine List.ext_getElem (w.bytes_length a _) fun i hi hd => ?_
    rw [← List.getD_eq_getElem _ 0 hi, w.getD_bytes a hd, h i hd, List.getD_eq_getElem _ 0 hd]

end Sys2Proof.Machine
end

section
/-! ### What a packet sent leaves at the ports and flows

A packet on its route changes counters, a port's queue and what leaves the device. A reliable packet takes its flow on, unless that
is abandoned: an abandoned flow stays as it is, and no packet of it comes to wait at a port again (R343). -/

namespace Sys2Proof.Machine

theorem Work.link_setLink (w : Work) (k : Nat) (l : Link) (j : Nat) : (w.setLink k l).link j = if j = k then l else w.link j :=
  Sp.get_put w.links k l {} j

@[simp] theorem Work.link_setLink_same (w : Work) (k : Nat) (l : Link) : (w.setLink k l).link k = l := Sp.get_put_same ..

theorem Sp.mem_put {α : Type} {l : Sp α} {k : Nat} {v : α} {q : Nat × α} (h : q ∈ Sp.put l k v) : q = (k, v) ∨ q ∈ l := by
  have hins : ∀ m : Sp α, q ∈ Sp.ins k v m → q = (k, v) ∨ q ∈ m := by
    intro m
    induction m with
    | nil => simp [Sp.ins]
    | cons p ps ih =>
      unfold Sp.ins
      split
      · simp
      · simp only [List.mem_cons]
        rintro (h | h)
        · exact .inr (.inl h)
        · exact (ih h).imp_right .inr
  exact (hins _ h).imp_right fun hm => (List.mem_filter.mp hm).1

/-- A packet that waits at a port waits in a listed one. -/
theorem Work.waits_listed {w : Work} {k : Nat} {q : Packet} (h : q ∈ (w.link k).queue) : ∃ m ∈ w.links, q ∈ m.2.queue := by
  simp only [Work.link, Sp.get, Sp.find] at h
  cases hf : w.links.find? (fun p => p.1 == k) with
  | none => simp [hf] at h
  | some m => exact ⟨m, List.mem_of_find?_eq_some hf, by simpa [hf] using h⟩

/-- Packets went on their routes: but for registers and marks of progress only ports differ, and of those neither hold buffers nor
adder contexts; what waits there newly satisfies the predicate. -/
structure Work.Routed (Q : Packet → Prop) (w v : Work) : Prop where
  rest : v = { w with regs := v.regs, out := v.out, fault := v.fault, links := v.links }
  fault : v.fault = { w.fault with progress := v.fault.progress }
  held : ∀ k, (v.link k).held = (w.link k).held
  ctxs : ∀ k, (v.link k).ctxs = (w.link k).ctxs
  queue : ∀ l ∈ v.links, ∀ q ∈ l.2.queue, Q q ∨ ∃ m ∈ w.links, q ∈ m.2.queue
  out : ∃ l, v.out = w.out ++ l

namespace Work.Routed

variable {Q : Packet → Prop} {u v w : Work}

theorem of_links (rest : v = { w with regs := v.regs, out := v.out, fault := v.fault, links := w.links })
    (fault : v.fault = { w.fault with progress := v.fault.progress }) (out : ∃ l, v.out = w.out ++ l) : w.Routed Q v := by
  have hlinks : v.links = w.links := by rw [rest]
  refine ⟨by rw [hlinks]; exact rest, fault, fun k => ?_, fun k => ?_, fun l hl q hq => .inr ⟨l, hlinks ▸ hl, hq⟩, out⟩ <;>
    rw [Work.link, hlinks, Work.link]

theorem refl (w : Work) : w.Routed Q w := .of_links rfl rfl ⟨[], (List.append_nil _).symm⟩

theorem trans (h : u.Routed Q v) (k : v.Routed Q w) : u.Routed Q w where
  rest := by rw [k.rest, h.rest]
  fault := by rw [k.fault, h.fault]
  held j := (k.held j).trans (h.held j)
  ctxs j := (k.ctxs j).trans (h.ctxs j)
  queue l hl q hq := (k.queue l hl q hq).elim .inl fun ⟨m, hm, hqm⟩ => h.queue m hm q hqm
  out := by
    obtain ⟨l, hl⟩ := h.out
    obtain ⟨m, hm⟩ := k.out
    exact ⟨l ++ m, by rw [hm, hl, List.append_assoc]⟩

theorem foldl {α : Type} {f : Work → α → Work} {l : List α} (hf : ∀ (v : Work), ∀ x ∈ l, v.Routed Q (f v x)) (w : Work) :
    w.Routed Q (l.foldl f w) :=
  List.foldlRecOn l f (refl w) fun v hv x hx => hv.trans (hf v x hx)

theorem when {f : Work → Work} (hf : w.Routed Q (f w)) (c : Bool) : w.Routed Q (w.when c f) := by
  cases c with
  | true => exact hf
  | false => exact refl w

theorem incBy (w : Work) (a n : Nat) : w.Routed Q (w.incBy a n) := .of_links rfl rfl ⟨[], (List.append_nil _).symm⟩
theorem emit (w : Work) (o : Out) : w.Routed Q (w.emit o) := .of_links rfl rfl ⟨[o], rfl⟩
theorem progress (w : Work) (key : Nat) : w.Routed Q (w.progress key) := .of_links rfl rfl ⟨[], (List.append_nil _).symm⟩

theorem setLink (w : Work) (k : Nat) {l : Link} (hheld : l.held = (w.link k).held) (hctxs : l.ctxs = (w.link k).ctxs)
    (hqueue : ∀ q ∈ l.queue, Q q ∨ q ∈ (w.link k).queue) : w.Routed Q (w.setLink k l) where
  rest := rfl
  fault := rfl
  held j := by
    rw [Work.link_setLink]
    split
    · rename_i h
      rw [h, hheld]
    · rfl
  ctxs j := by
    rw [Work.link_setLink]
    split
    · rename_i h
      rw [h, hctxs]
    · rfl
  queue m hm q hq := by
    rcases Sp.mem_put hm with rfl | hm
    · exact (hqueue q hq).imp_right Work.waits_listed
    · exact .inr ⟨m, hm, hq⟩
  out := ⟨[], (List.append_nil _).symm⟩

theorem rx (h : w.Routed Q v) : v.rxFlows = w.rxFlows := (congrArg Work.rxFlows h.rest :)
theorem tx (h : w.Routed Q v) : v.txFlows = w.txFlows := (congrArg Work.txFlows h.rest :)
theorem mem (h : w.Routed Q v) : v.mem = w.mem := (congrArg Work.mem h.rest :)
theorem poison (h : w.Routed Q v) : v.poison = w.poison := (congrArg Work.poison h.rest :)
theorem memcs (h : w.Routed Q v) : v.memcs = w.memcs := (congrArg Work.memcs h.rest :)
theorem red (h : w.Routed Q v) : v.red = w.red := (congrArg Work.red h.rest :)
theorem now (h : w.Routed Q v) : v.now = w.now := (congrArg Work.now h.rest :)
theorem gens (h : w.Routed Q v) : v.fault.gens = w.fault.gens := (congrArg FaultSt.gens h.fault :)

end Work.Routed

/-! From the frame on a port to the packet on its route. -/

section
variable {Q : Packet → Prop}

theorem Work.putFrame_routed (w : Work) (k : Nat) (p : Packet) : w.Routed Q (w.putFrame k p) := by
  refine .trans (.trans (.setLink w k ?_ ?_ ?_) (.incBy _ (TX_FRAME_CNT k) 1)) (.emit _ _)
  · rfl
  · rfl
  · exact fun _ => .inr

theorem Work.sendNow_routed (w : Work) (k : Nat) (p : Packet) : w.Routed Q (w.sendNow k p) := by
  unfold Work.sendNow
  extract_lets l p' l'
  have hl : l'.held = (w.link k).held ∧ l'.ctxs = (w.link k).ctxs ∧ l'.queue = (w.link k).queue := by
    unfold l' l
    split <;> exact ⟨rfl, rfl, rfl⟩
  obtain ⟨hheld, hctxs, hqueue⟩ := hl
  exact ((Work.Routed.setLink w k hheld hctxs fun _ h => .inr (hqueue ▸ h)).trans (Work.putFrame_routed _ k _)).trans (.progress _ _)

theorem pumpN_routed (n k : Nat) (w : Work) : w.Routed Q (pumpN n k w) := by
  induction n generalizing w with
  | zero => exact .refl w
  | succ n ih =>
    unfold pumpN
    split
    · exact .refl w
    · refine .trans (.trans (.setLink w k ?_ ?_ fun _ h => .inr (List.mem_of_mem_erase h)) (Work.sendNow_routed _ k _)) (ih _) <;> rfl

theorem Work.pumpHost_routed (w : Work) (k : Nat) : w.Routed Q (w.pumpHost k) := by
  unfold Work.pumpHost
  extract_lets l held
  split
  · exact .refl w
  · refine .trans (.setLink w k ?_ ?_ ?_) (.foldl (fun v a _ => (Work.Routed.incBy v (TX_FRAME_CNT k) a.2).trans (.emit _ a.1)) _)
    · rfl
    · rfl
    · exact fun _ => .inr

theorem Work.xmit_routed (w : Work) (k : Nat) {p : Packet} (hp : Q p) : w.Routed Q (w.xmit k p) := by
  unfold Work.xmit Work.pump
  extract_lets wait v l u
  have hv : w.Routed Q v := .when (.incBy w (REPLAY_WAIT_CNT k) 1) _
  have hlink : u.link k = l := by
    unfold u Work.when
    split <;> rfl
  refine ((hv.trans (.when (.progress v (1040 + k)) _)).trans (.setLink u k ?_ ?_ fun q hq => ?_)).trans
    ((pumpN_routed _ k _).trans (Work.pumpHost_routed _ k))
  · rw [hlink]
  · rw [hlink]
  · rw [hlink]
    exact (List.mem_append.mp hq).elim .inr fun h => .inl (List.mem_singleton.mp h ▸ hp)

theorem Work.sendRouted_routed (w : Work) {p : Packet} (hp : Q p) : w.Routed Q (w.sendRouted p) := by
  unfold Work.sendRouted
  split
  · exact w.xmit_routed _ hp
  · exact .emit w _

/-- An acknowledgement or NAK belongs to no flow of this device's own. -/
theorem Work.answer_routed (w : Work) (p : Packet) {type psn code : Nat} (hq : ∀ q : Packet, q.type = type → Q q) :
    w.Routed Q (w.answer p type psn code) := w.sendRouted_routed (hq _ rfl)

end

/-! ### Reliable packets, records and reports -/

/-- Packets were sent, in their flows and outside them. -/
structure Work.Sent (w v : Work) : Prop where
  held : ∀ k, (v.link k).held = (w.link k).held
  ctxs : ∀ k, (v.link k).ctxs = (w.link k).ctxs
  out : ∃ l, v.out = w.out ++ l
  gens : v.fault.gens = w.fault.gens
  abandoned : ∀ key f, Sp.find w.txFlows key = some f → f.abandoned = true → Sp.find v.txFlows key = some f
  quiet : ∀ key f, Sp.find w.txFlows key = some f → f.abandoned = true → (∀ l ∈ w.links, ∀ q ∈ l.2.queue, ofFlow key q = false) →
    ∀ l ∈ v.links, ∀ q ∈ l.2.queue, ofFlow key q = false

namespace Work.Sent

variable {u v w : Work}

/-- Packets on their routes that are of no abandoned flow. -/
theorem of_routed {Q : Packet → Prop} (h : w.Routed Q v)
    (hq : ∀ key f q, Sp.find w.txFlows key = some f → f.abandoned = true → Q q → ofFlow key q = false) : w.Sent v where
  held := h.held
  ctxs := h.ctxs
  out := h.out
  gens := h.gens
  abandoned key f hf _ := by rw [h.tx, hf]
  quiet key f hf ha hw l hl q hm := (h.queue l hl q hm).elim (hq key f q hf ha) fun ⟨m, hm, hqm⟩ => hw m hm q hqm

theorem of_ports (hlinks : v.links = w.links) (htx : v.txFlows = w.txFlows) (hout : v.out = w.out)
    (hgens : v.fault.gens = w.fault.gens) : w.Sent v where
  held k := by rw [Work.link, hlinks, Work.link]
  ctxs k := by rw [Work.link, hlinks, Work.link]
  out := ⟨[], by rw [hout, List.append_nil]⟩
  gens := hgens
  abandoned key f hf _ := by rw [htx, hf]
  quiet key f _ _ hw := by rw [hlinks]; exact hw

theorem refl (w : Work) : w.Sent w := .of_ports rfl rfl rfl rfl

theorem trans (h : u.Sent v) (k : v.Sent w) : u.Sent w where
  held j := (k.held j).trans (h.held j)
  ctxs j := (k.ctxs j).trans (h.ctxs j)
  out := by
    obtain ⟨l, hl⟩ := h.out
    obtain ⟨m, hm⟩ := k.out
    exact ⟨l ++ m, by rw [hm, hl, List.append_assoc]⟩
  gens := k.gens.trans h.gens
  abandoned key f hf ha := k.abandoned key f (h.abandoned key f hf ha) ha
  quiet key f hf ha hw := k.quiet key f (h.abandoned key f hf ha) ha (h.quiet key f hf ha hw)

theorem foldl {α : Type} {f : Work → α → Work} (hf : ∀ (v : Work) x, v.Sent (f v x)) (l : List α) (w : Work) : w.Sent (l.foldl f w) :=
  List.foldlRecOn l f (refl w) fun v hv x _ => hv.trans (hf v x)

end Work.Sent

theorem ofFlow_of_outside {q : Packet} (h : reliableType q.type = false ∨ untracked q = true) (key : Nat) : ofFlow key q = false := by
  rcases h with h | h <;> simp [ofFlow, h]

/-- A packet outside the flows. -/
theorem Work.sendRouted_sent (w : Work) {p : Packet} (h : reliableType p.type = false ∨ untracked p = true) : w.Sent (w.sendRouted p) :=
  .of_routed (w.sendRouted_routed (Q := (· = p)) rfl) fun key _ _ _ _ hq => hq ▸ ofFlow_of_outside h key

/-- A flow that is not abandoned changes, and no abandoned one with it. -/
theorem Work.txPut_sent {w : Work} {key : Nat} (g : TxFlow) (h : ∀ f, Sp.find w.txFlows key = some f → f.abandoned = false) :
    w.Sent { w with txFlows := Sp.put w.txFlows key g } where
  held _ := rfl
  ctxs _ := rfl
  out := ⟨[], (List.append_nil _).symm⟩
  gens := rfl
  abandoned k f hf ha := by
    have hne : k ≠ key := fun e => by simp [h f (e ▸ hf)] at ha
    rw [Sp.find_put_ne _ _ _ hne, hf]
  quiet _ _ _ _ hw := hw

theorem Work.sendFlow_sent (w : Work) (p : Packet) : w.Sent (w.sendFlow p) := by
  unfold Work.sendFlow
  extract_lets key f
  have hlive : f.abandoned = false → ∀ g, Sp.find w.txFlows key = some g → g.abandoned = false := by
    intro hf g hg
    rwa [show f = g by simp only [f, Sp.get, hg, Option.getD_some]] at hf
  cases ha : f.abandoned with
  | true => exact .refl w
  | false =>
    simp only [Bool.false_eq_true, if_false]
    split
    · refine (Work.txPut_sent _ (hlive ha)).trans (.of_routed (Work.sendRouted_routed _ (Q := fun q => flowKey q.dst q.wq = key) rfl) ?_)
      intro k g q hg hab hq
      have hne : k ≠ key := fun e => by
        rw [e, Sp.find_put_same] at hg
        cases hg
        simp [ha] at hab
      simp [ofFlow, hq, Ne.symm hne]
    · exact Work.txPut_sent _ (hlive ha)

theorem Work.send_sent (w : Work) (p : Packet) : w.Sent (w.send p) := by
  unfold Work.send
  split
  · exact w.sendFlow_sent p
  · rename_i h
    refine w.sendRouted_sent ?_
    cases hr : reliableType p.type <;> cases hu : untracked p <;> simp_all

theorem Work.control_sent (w : Work) (dst op crew : Nat) (body : List Byte) : w.Sent (w.control dst op crew body) := by
  unfold Work.control
  split
  · exact .refl w
  · refine .trans (.of_ports ?_ ?_ ?_ ?_) (Work.send_sent _ _) <;> rfl

theorem Work.report_sent (w : Work) (kind crew : Nat) (body : List Byte) : w.Sent (w.report kind crew body) :=
  .foldl (fun v d => v.control_sent d 13 crew _) w.mgrNodes.dedup w

theorem Work.logRec_sent (w : Work) (r : FaultRec) : w.Sent (w.logRec r) := by
  refine (Work.Sent.of_ports (v := w.logOnly { r with beat := w.beatFull }) ?_ ?_ ?_ ?_).trans ?_
  · rw [Work.logOnly_frame]
  · rw [Work.logOnly_frame]
  · rw [Work.logOnly_frame]
  · rw [Work.logOnly_frame]
  · change Work.Sent _ (Work.reportRec _ _)
    unfold Work.reportRec
    split
    · exact .refl _
    · split
      · exact .of_ports rfl rfl rfl rfl
      · exact Work.report_sent _ _ _ _

theorem Work.decideAbort_sent (w : Work) (crew cause : Nat) : w.Sent (w.decideAbort crew cause) := by
  unfold Work.decideAbort
  split
  · exact .refl w
  · refine (Work.Sent.of_ports ?_ ?_ ?_ ?_).trans (.foldl (fun v n => v.sendRouted_sent (.inl rfl)) _ _) <;> rfl

theorem Work.lasting_sent (w : Work) (r : FaultRec) (cause : Nat) (crews : List Nat) : w.Sent (w.lasting r (some cause) crews) := by
  obtain ⟨r', h⟩ := w.lasting_eq r cause crews
  rw [h]
  refine .trans (.trans (.foldl (fun v n => v.decideAbort_sent n cause) crews w) (.of_ports ?_ ?_ ?_ ?_)) (Work.logRec_sent _ r') <;> rfl

theorem Work.report_sendsOnly (w : Work) (kind crew : Nat) (body : List Byte) : w.SendsOnly (w.report kind crew body) :=
  .foldl (fun v d => v.control_sendsOnly d 13 crew _) w.mgrNodes.dedup w

end Sys2Proof.Machine
end

section
/-! ### Counters of reads

What counting a read, a correction or a wait changes: registers alone, and of those its own counter. -/

namespace Sys2Proof.Machine

theorem Work.rd_whenInc_same (w : Work) (a : Nat) (x : Bool) :
    (w.when x (·.inc a)).rd a = min (w.rd a + if x then 1 else 0) 0xFFFFFFFF := by
  cases x with
  | true => exact w.rd_inc_same a
  | false =>
    have := w.rd_lt a
    simp only [Work.when, Bool.false_eq_true, if_false]
    omega

theorem Work.rd_whenInc_ne (w : Work) (a : Nat) (x : Bool) {b : Nat} (h : b ≠ a) : (w.when x (·.inc a)).rd b = w.rd b := by
  cases x with
  | true => exact w.rd_inc_ne a h
  | false => rfl

theorem Work.whenInc_frame (w : Work) (a : Nat) (x : Bool) : w.when x (·.inc a) = { w with regs := (w.when x (·.inc a)).regs } := by
  cases x <;> rfl

theorem Work.memc_setMemc (w : Work) (m : Nat) (k : Memc) (n : Nat) : (w.setMemc m k).memc n = if n = m then k else w.memc n :=
  Sp.get_put w.memcs m k {} n

@[simp] theorem Work.memc_setMemc_same (w : Work) (m : Nat) (k : Memc) : (w.setMemc m k).memc m = k := Sp.get_put_same ..

theorem Work.memc_congr {v w : Work} (h : v.memcs = w.memcs) (m : Nat) : v.memc m = w.memc m := by rw [Work.memc, Work.memc, h]

theorem Work.foldWait_frame (w : Work) (a n : Nat) : w.foldWait a n = { w with regs := (w.foldWait a n).regs } := by
  unfold Work.foldWait
  refine List.foldlRecOn (motive := fun v : Work => v = { w with regs := v.regs }) _ _ rfl fun v hv c _ => ?_
  rw [hv]
  rfl

/-- Waits for a fold count at the cores. -/
theorem Work.rd_foldWait (w : Work) (a n : Nat) {b : Nat} (hb : b < coreBase 0) : (w.foldWait a n).rd b = w.rd b := by
  refine List.foldlRecOn (motive := fun v : Work => v.rd b = w.rd b) _ _ rfl fun v hv c _ => ?_
  rw [Work.rd_inc_ne _ _ (by unfold FOLD_WAIT_CNT; unfold coreBase at *; omega), hv]

theorem Work.poisonReads_frame (w : Work) (a n : Nat) : w.poisonReads a n = { w with regs := (w.poisonReads a n).regs } := by
  unfold Work.poisonReads
  refine List.foldlRecOn (motive := fun v : Work => v = { w with regs := v.regs }) _ _ rfl fun v hv c _ => ?_
  rw [hv]
  rfl

theorem Work.rd_poisonReads (w : Work) (a n : Nat) {b : Nat} (hb : ∀ m < 12, b ≠ POISON_RD_CNT m) : (w.poisonReads a n).rd b = w.rd b := by
  refine List.foldlRecOn (motive := fun v : Work => v.rd b = w.rd b) _ _ rfl fun v hv l _ => ?_
  rw [Work.rd_inc_ne _ _ (hb _ (stackOf_lt _)), hv]

theorem Work.readsStack_frame (w : Work) (a n : Nat) : w.readsStack a n = { w with regs := (w.readsStack a n).regs } := by
  rw [Work.readsStack, Work.poisonReads_frame, Work.foldWait_frame]

theorem Work.rd_readsStack (w : Work) (a n : Nat) {b : Nat} (hc : b < coreBase 0) (hb : ∀ m < 12, b ≠ POISON_RD_CNT m) :
    (w.readsStack a n).rd b = w.rd b := by
  rw [Work.readsStack, Work.rd_poisonReads _ _ _ hb, Work.rd_foldWait _ _ _ hc]

/-- The registers of a memory controller lie below the ports' and the cores'. -/
theorem memcBase_lt {m o : Nat} (hm : m < 12) (ho : o < 0x10000) : memcBase m + o < linkBase 0 ∧ memcBase m + o < coreBase 0 := by
  unfold memcBase linkBase coreBase
  omega

end Sys2Proof.Machine
end

section
/-! ### Reads of lines (R299 to R305, R309, R310)

A read that decodes, its retry, and what either leaves beside the line that it delivers. -/

namespace Sys2Proof.Machine

theorem Work.current_congr {v w : Work} (h : v.fault.gens = w.fault.gens) (i : Issuer) : v.current i = w.current i := by
  rw [Work.current, Work.unitGen, h, Work.current, Work.unitGen]

theorem Work.onLine_stacks (w : Work) (i : Issuer) {a : Nat} (h : a < apertureBase) (f : Work → Nat → Work) :
    w.onLine i a f = f w (a / 256) := if_pos h

section
variable {w : Work} {i : Issuer} {line : Nat}

/-- A line left for the domain that asked: of registers only the count of poisoned reads has changed. -/
structure Work.Delivered (w v : Work) (i : Issuer) (line : Nat) (p : Bool) : Prop where
  mem : v.mem = w.mem
  poison : v.poison = w.poison
  memcs : v.memcs = w.memcs
  out : v.out = w.out ++ [.line i (256 * line) (w.bytes (256 * line) 256) p]
  rd : ∀ a, a ≠ POISON_RD_CNT (lineRegion line).1 → v.rd a = w.rd a

/-- What is counted as a line is delivered. -/
def Work.delivering (w : Work) (line : Nat) : Work :=
  (w.when (w.poison.contains line) (·.inc (POISON_RD_CNT (lineRegion line).1))).progress (1080 + (lineRegion line).1)

theorem Work.delivering_frame (w : Work) (line : Nat) :
    w.delivering line = { w with regs := (w.delivering line).regs, fault := (w.delivering line).fault } := by
  rw [Work.delivering, Work.whenInc_frame]
  rfl

theorem Work.rd_delivering_ne (w : Work) (line : Nat) {a : Nat} (h : a ≠ POISON_RD_CNT (lineRegion line).1) :
    (w.delivering line).rd a = w.rd a := w.rd_whenInc_ne _ _ h

theorem Work.current_delivering : (w.delivering line).current i = w.current i := by
  refine Work.current_congr ?_ i
  unfold Work.delivering
  rw [Work.whenInc_frame]
  rfl

theorem Work.deliver_current (h : w.current i = true) : w.deliver i line =
    (w.delivering line).emit (.line i (256 * line) (w.bytes (256 * line) 256) (w.poison.contains line)) :=
  if_pos (w.current_delivering.trans h)

/-- An answer of an older generation is dropped at the edge of the domain that asked (R461). -/
theorem Work.deliver_stale (h : w.current i = false) : w.deliver i line = (w.delivering line).inc RGEN_DROP_CNT :=
  if_neg (Bool.eq_false_iff.mp (w.current_delivering.trans h))

theorem Work.deliver_delivered (h : w.current i = true) : w.Delivered (w.deliver i line) i line (w.poison.contains line) := by
  rw [w.deliver_current h]
  refine ⟨?_, ?_, ?_, ?_, fun a ha => w.rd_delivering_ne line ha⟩
  · rw [Work.emit_mem, Work.delivering_frame]
  · rw [Work.emit_poison, Work.delivering_frame]
  · rw [Work.emit_memcs, Work.delivering_frame]
  · rw [Work.emit_out, Work.delivering_frame]

theorem Work.rd_deliver_POISON_RD_CNT (h : w.current i = true) : (w.deliver i line).rd (POISON_RD_CNT (lineRegion line).1) =
    min (w.rd (POISON_RD_CNT (lineRegion line).1) + if w.poison.contains line then 1 else 0) 0xFFFFFFFF := by
  rw [w.deliver_current h]
  exact w.rd_whenInc_same _ _

theorem Work.deliverBad_delivered (h : w.current i = true) : w.Delivered (w.deliverBad i line) i line true := by
  rw [show w.deliverBad i line = (w.progress (1080 + (lineRegion line).1)).emit
    (.line i (256 * line) (w.bytes (256 * line) 256) true) from if_pos h]
  exact ⟨rfl, rfl, rfl, rfl, fun _ _ => rfl⟩

/-! A correction counted (R305). -/

theorem Work.retries_countCe (w : Work) (line m : Nat) : ((w.countCe line).memc m).retries = (w.memc m).retries := by
  change ((w.setMemc _ _).memc m).retries = _
  rw [Work.memc_setMemc]
  split
  · rename_i h
    rw [h]
  · rfl

theorem Work.rd_countCe_ne (w : Work) (line : Nat) {a : Nat} (h : a ≠ CE_CNT (lineRegion line).1) :
    (w.countCe line).rd a = w.rd a := (Work.rd_inc_ne _ _ h).trans (Work.rd_congr rfl a)

variable {bad : List Nat}

theorem Work.decoded_frame (w : Work) (line : Nat) (bad : List Nat) :
    w.decoded line bad = { w with regs := (w.decoded line bad).regs, memcs := (w.decoded line bad).memcs } := by
  unfold Work.decoded Work.when
  split <;> rfl

theorem Work.rd_decoded_ne (w : Work) (line : Nat) (bad : List Nat) {a : Nat} (h : a ≠ CE_CNT (lineRegion line).1) :
    (w.decoded line bad).rd a = w.rd a := by
  unfold Work.decoded Work.when
  split
  · exact w.rd_countCe_ne line h
  · rfl

theorem Work.rd_decoded_same (w : Work) (line : Nat) (bad : List Nat) :
    (w.decoded line bad).rd (CE_CNT (lineRegion line).1) =
      min (w.rd (CE_CNT (lineRegion line).1) + if w.corrects (lineRegion line).1 bad then 1 else 0) 0xFFFFFFFF := by
  have := w.rd_lt (CE_CNT (lineRegion line).1)
  unfold Work.decoded Work.when
  split
  · exact Work.rd_inc_same _ _
  · simp only [Nat.add_zero]
    omega

/-! The mode of a stack and what decodes in it go by MC_STATUS. -/

theorem Work.decodes_congr {v w : Work} {m : Nat} (h : v.rd (MC_STATUS m) = w.rd (MC_STATUS m)) (bad : List Nat) :
    v.decodes m bad = w.decodes m bad ∧ v.corrects m bad = w.corrects m bad := by
  simp only [Work.decodes, Work.corrects, Work.erasure, Work.failedDie, Work.flag, Work.fld, h]
  exact ⟨rfl, rfl⟩

theorem Work.decodes_iff (w : Work) (m : Nat) (bad : List Nat) :
    w.decodes m bad = true ↔ if w.erasure m then further bad (w.failedDie m) ≤ 4 else bad.length ≤ 8 := by
  unfold Work.decodes
  split <;> exact decide_eq_true_iff

theorem Work.decodes_nil (w : Work) (m : Nat) : w.decodes m [] = true ∧ w.corrects m [] = false := by
  unfold Work.decodes Work.corrects
  split <;> exact ⟨rfl, rfl⟩

theorem Work.decoded_nil (w : Work) (line : Nat) : w.decoded line [] = w := by
  rw [Work.decoded, (w.decodes_nil _).2]
  rfl

end

/-! A first read. -/

section
variable {s : State} {i : Issuer} {a : Nat} {bad pbad : List Nat}

/-- A request of the current generation reads its line. -/
theorem gives_hbmRead (halive : s.board.alive = true) (ha : a < apertureBase) (hcur : s.work.current i = true) :
    Gives (.hbmRead ⟨i, a⟩ bad pbad) s (s.work.readLine i (a / 256) bad pbad) := by
  refine gives_of_run (execHbmRead.eq_1 ⟨i, a⟩ bad pbad s) halive ?_
  rw [if_pos hcur]
  exact Work.onLine_stacks _ _ ha _

theorem Work.readLine_parks {w : Work} {line : Nat} (h : w.serves (lineRegion line).1 = false) :
    w.readLine i line bad pbad = w.park i (.read (256 * line) bad pbad) := by
  simp [Work.readLine, h]

theorem Work.readLine_serves {w : Work} {line : Nat} (h : w.serves (lineRegion line).1 = true) :
    w.readLine i line bad pbad =
      let v := w.foldWait (256 * line) 256
      if w.decodes (lineRegion line).1 (w.badOf line bad pbad) then (v.decoded line (w.badOf line bad pbad)).deliver i line
      else (v.progress (1080 + (lineRegion line).1)).setMemc (lineRegion line).1 { w.memc (lineRegion line).1 with
        retries := (w.memc (lineRegion line).1).retries ++ [{ issuer := i, line := line, bad := bad, pbad := pbad }] } := by
  have hmode : (w.foldWait (256 * line) 256).rd (MC_STATUS (lineRegion line).1) = w.rd (MC_STATUS (lineRegion line).1) :=
    w.rd_foldWait _ _ (memcBase_lt (stackOf_lt _) (o := 0x4) (by decide)).2
  have hmemc : (w.foldWait (256 * line) 256).memcs = w.memcs := by rw [Work.foldWait_frame]
  simp only [Work.readLine, h, Bool.not_true, Bool.false_eq_true, if_false, (Work.decodes_congr hmode _).1, Work.memc_congr hmemc]

theorem leads_hbmRead_decodes (halive : s.board.alive = true) (ha : a < apertureBase) (hcur : s.work.current i = true)
    (hserve : s.work.serves (lineRegion (a / 256)).1 = true)
    (hdec : s.work.decodes (lineRegion (a / 256)).1 (s.work.badOf (a / 256) bad pbad) = true) :
    Leads (.hbmRead ⟨i, a⟩ bad pbad) s (fun w => w.mem = s.work.mem ∧ w.poison = s.work.poison ∧
      w.out = s.work.out ++ [.line i (256 * (a / 256)) (s.work.bytes (256 * (a / 256)) 256) (s.work.poison.contains (a / 256))] ∧
      w.rd (CE_CNT (lineRegion (a / 256)).1) = min (s.work.rd (CE_CNT (lineRegion (a / 256)).1) +
        (if s.work.corrects (lineRegion (a / 256)).1 (s.work.badOf (a / 256) bad pbad) then 1 else 0)) 0xFFFFFFFF ∧
      w.rd (POISON_RD_CNT (lineRegion (a / 256)).1) = min (s.work.rd (POISON_RD_CNT (lineRegion (a / 256)).1) +
        (if s.work.poison.contains (a / 256) then 1 else 0)) 0xFFFFFFFF) := by
  refine ⟨_, gives_hbmRead halive ha hcur, ?_⟩
  rw [Work.readLine_serves hserve]
  generalize a / 256 = line at *
  generalize s.work.badOf line bad pbad = b at *
  simp only [hdec, if_true]
  set u := s.work.foldWait (256 * line) 256 with hu
  have hrd : ∀ o < 0x10000, u.rd (memcBase (lineRegion line).1 + o) = s.work.rd (memcBase (lineRegion line).1 + o) :=
    fun o ho => s.work.rd_foldWait _ _ (memcBase_lt (stackOf_lt _) ho).2
  have hframe : u.decoded line b = { s.work with regs := (u.decoded line b).regs, memcs := (u.decoded line b).memcs } := by
    rw [Work.decoded_frame, hu, Work.foldWait_frame]
  have hmem : (u.decoded line b).mem = s.work.mem := (congrArg Work.mem hframe :)
  have hpoison : (u.decoded line b).poison = s.work.poison := (congrArg Work.poison hframe :)
  have hc : (u.decoded line b).current i = true :=
    (Work.current_congr (congrArg (fun v : Work => v.fault.gens) hframe :) i).trans hcur
  obtain ⟨dmem, dpoison, -, dout, drd⟩ := Work.deliver_delivered (line := line) hc
  refine ⟨dmem.trans hmem, dpoison.trans hpoison, ?_, ?_, ?_⟩
  · rw [dout, hpoison, Work.bytes_congr hmem, (congrArg Work.out hframe :)]
  · rw [drd _ (by simp [POISON_RD_CNT, CE_CNT]), Work.rd_decoded_same, (Work.decodes_congr (hrd 0x4 (by decide)) b).2]
    exact congrArg (fun n => min (n + _) _) (hrd 0x40 (by decide))
  · rw [Work.rd_deliver_POISON_RD_CNT hc, hpoison, Work.rd_decoded_ne _ _ _ (by simp [POISON_RD_CNT, CE_CNT])]
    exact congrArg (fun n => min (n + _) _) (hrd 0x4c (by decide))

theorem leads_hbmRead_retried (halive : s.board.alive = true) (ha : a < apertureBase) (hcur : s.work.current i = true)
    (hserve : s.work.serves (lineRegion (a / 256)).1 = true)
    (hdec : s.work.decodes (lineRegion (a / 256)).1 (s.work.badOf (a / 256) bad pbad) = false) :
    Leads (.hbmRead ⟨i, a⟩ bad pbad) s (fun w => w.mem = s.work.mem ∧ w.out = s.work.out ∧
      (w.memc (lineRegion (a / 256)).1).retries =
        (s.work.memc (lineRegion (a / 256)).1).retries ++ [{ issuer := i, line := a / 256, bad := bad, pbad := pbad }]) := by
  refine ⟨_, gives_hbmRead halive ha hcur, ?_⟩
  rw [Work.readLine_serves hserve]
  simp only [hdec, Bool.false_eq_true, if_false]
  refine ⟨?_, ?_, ?_⟩
  · rw [Work.foldWait_frame]
    rfl
  · rw [Work.foldWait_frame]
    rfl
  · rw [Work.memc_setMemc_same]

end

end Sys2Proof.Machine
end

section
/-! ### Lines read again (R302 to R305)

The retry of a read and the read of a partial write's line leave memory and its marks; a die that they mark is noted in the mode of
its stack, logged and reported. -/

namespace Sys2Proof.Machine

/-- A line was read again: memory and its marks stand, the reads that wait for their retry too. -/
structure Work.Reread (w v : Work) : Prop where
  mem : v.mem = w.mem
  poison : v.poison = w.poison
  gens : v.fault.gens = w.fault.gens
  retries : ∀ m, (v.memc m).retries = (w.memc m).retries
  out : ∃ l, v.out = w.out ++ l

namespace Work.Reread

variable {u v w : Work}

theorem of_regs (h : v = { w with regs := v.regs }) : w.Reread v where
  mem := (congrArg Work.mem h :)
  poison := (congrArg Work.poison h :)
  gens := (congrArg (fun u : Work => u.fault.gens) h :)
  retries m := congrArg Memc.retries (Work.memc_congr (congrArg Work.memcs h :) m)
  out := ⟨[], by rw [List.append_nil]; exact (congrArg Work.out h :)⟩

theorem refl (w : Work) : w.Reread w := .of_regs rfl

theorem trans (h : u.Reread v) (k : v.Reread w) : u.Reread w where
  mem := k.mem.trans h.mem
  poison := k.poison.trans h.poison
  gens := k.gens.trans h.gens
  retries m := (k.retries m).trans (h.retries m)
  out := by
    obtain ⟨l, hl⟩ := h.out
    obtain ⟨m, hm⟩ := k.out
    exact ⟨l ++ m, by rw [hm, hl, List.append_assoc]⟩

theorem of_sent (h : w.SendsOnly v) (k : w.Sent v) : w.Reread v where
  mem := (congrArg Work.mem h :)
  poison := (congrArg Work.poison h :)
  gens := k.gens
  retries m := congrArg Memc.retries (Work.memc_congr (congrArg Work.memcs h :) m)
  out := k.out

end Work.Reread

theorem Work.countCe_reread (w : Work) (line : Nat) : w.Reread (w.countCe line) where
  mem := rfl
  poison := rfl
  gens := rfl
  retries := w.retries_countCe line
  out := ⟨[], (List.append_nil _).symm⟩

theorem Work.decoded_reread (w : Work) (line : Nat) (bad : List Nat) : w.Reread (w.decoded line bad) := by
  unfold Work.decoded Work.when
  split
  · exact w.countCe_reread line
  · exact .refl w

/-! A die marked (R303). -/

/-- The stack's registers as a die is marked in them. -/
def Work.dieNoted (w : Work) (m z : Nat) : Work := ((w.setBit (MC_STATUS m) 1).setFld (MC_STATUS m) 2 5 z).setBit (MC_ERR m) 0

theorem Work.markDie_eq (w : Work) (m z : Nat) : ∃ body, w.markDie m z = ((w.dieNoted m z).replace 1 (1080 + m)).report 3 0 body :=
  ⟨_, rfl⟩

theorem Work.replace_reread (w : Work) (n unit : Nat) : w.Reread (w.replace n unit) := by
  unfold Work.replace
  split
  · exact .refl w
  · refine Work.Reread.trans (v := (w.setBit REPL_STATUS n).inc LASTING_CNT) (.of_regs rfl) ?_
    exact .of_sent (Work.logRec_sendsOnly _ _) (Work.logRec_sent _ _)

theorem Work.rd_replace (w : Work) (n unit : Nat) {a : Nat} (ha : a < linkBase 0)
    (hne : a ∉ [REPL_STATUS, LASTING_CNT, FAULT_STATUS, FLOG_OVF_CNT]) : (w.replace n unit).rd a = w.rd a := by
  simp only [List.mem_cons, List.not_mem_nil, or_false, not_or] at hne
  obtain ⟨hrepl, hlasting, hlog⟩ := hne
  unfold Work.replace
  split
  · rfl
  · refine (Work.rd_logRec _ _ ha (by simpa using hlog)).trans ?_
    rw [Work.rd_inc_ne _ _ hlasting, Work.rd_setBit_ne _ _ _ hrepl]

theorem Work.markDie_reread (w : Work) (m z : Nat) : w.Reread (w.markDie m z) := by
  obtain ⟨body, h⟩ := w.markDie_eq m z
  rw [h]
  exact (Work.Reread.trans (u := w) (v := w.dieNoted m z) (.of_regs rfl) (Work.replace_reread _ 1 _)).trans
    (.of_sent (Work.report_sendsOnly _ 3 0 body) (Work.report_sent _ 3 0 body))

/-- Of a stack's registers a marked die leaves what it noted there. -/
theorem Work.rd_markDie (w : Work) {m : Nat} (z : Nat) (hm : m < 12) {o : Nat} (ho : o < 0x10000) :
    (w.markDie m z).rd (memcBase m + o) = (w.dieNoted m z).rd (memcBase m + o) := by
  obtain ⟨body, h⟩ := w.markDie_eq m z
  rw [h, (Work.report_sendKept _ 3 0 body).rd (memcBase_lt hm ho).1]
  refine Work.rd_replace _ 1 _ (memcBase_lt hm ho).1 ?_
  simp only [List.mem_cons, List.not_mem_nil, or_false, memcBase, REPL_STATUS, LASTING_CNT, FAULT_STATUS, FLOG_OVF_CNT]
  omega

theorem Work.dieNoted_mode (w : Work) (m : Nat) {z : Nat} (hz : z < 18) :
    (w.dieNoted m z).erasure m = true ∧ (w.dieNoted m z).failedDie m = z ∧ (w.dieNoted m z).flag (MC_ERR m) 0 = true := by
  have hne : MC_STATUS m ≠ MC_ERR m := by simp [MC_STATUS, MC_ERR]
  refine ⟨?_, ?_, Work.flag_setBit_same _ _ _ (by decide)⟩
  · rw [Work.erasure, Work.dieNoted, Work.flag_setBit_ne _ _ _ hne, Work.flag_setFld _ _ _ _ _ _ (by decide)]
    exact Work.flag_setBit_same _ _ _ (by decide)
  · rw [Work.failedDie, Work.dieNoted, Work.fld_setBit_ne _ _ _ hne, Work.fld_setFld_same _ _ _ _ _ (by decide)]
    exact Nat.mod_eq_of_lt (by omega)

/-! The outcomes of a second read. -/

section
variable {w : Work} {line : Nat} {bad retry : List Nat}

theorem Work.retried_decodes (h : w.decodes (lineRegion line).1 retry = true) :
    w.retried line bad retry = (true, (w.transient (UE_TRANS_CNT (lineRegion line).1)).decoded line retry) := if_pos h

theorem Work.retried_die {z : Nat} (h : w.decodes (lineRegion line).1 retry = false) (he : w.erasure (lineRegion line).1 = false)
    (h1 : trialDies bad = [z]) (h2 : trialDies retry = [z]) :
    w.retried line bad retry = (true, (w.markDie (lineRegion line).1 z).countCe line) := by
  simp [Work.retried, h, he, h1, h2]

theorem Work.retried_lost (h : w.decodes (lineRegion line).1 retry = false) (he : w.erasure (lineRegion line).1 = true) :
    w.retried line bad retry = (false, (w.inc (UE_CNT (lineRegion line).1)).setBit (MC_ERR (lineRegion line).1) 1) := by
  simp [Work.retried, h, he]

theorem Work.retried_reread (w : Work) (line : Nat) (bad retry : List Nat) : w.Reread (w.retried line bad retry).2 := by
  have hlost : w.Reread ((w.inc (UE_CNT (lineRegion line).1)).setBit (MC_ERR (lineRegion line).1) 1) := .of_regs rfl
  unfold Work.retried
  extract_lets m lost
  split
  · exact Work.Reread.trans (v := w.transient (UE_TRANS_CNT m)) (.of_regs rfl) (Work.decoded_reread _ line retry)
  · split
    · exact hlost
    · split
      · split
        · exact (w.markDie_reread m _).trans (Work.countCe_reread _ line)
        · exact hlost
      · exact hlost

end

/-! The retry that a controller has finished. -/

/-- The first of a controller's retries taken from its list. -/
def Work.retryTaken (w : Work) (m : Nat) (rest : List Retry) : Work := w.setMemc m { w.memc m with retries := rest }

section
variable {w : Work} {line : Nat} {bad pbad : List Nat} {r : Retry} {rest : List Retry}

variable (hr : (w.memc (lineRegion line).1).retries = r :: rest) (hl : r.line = line) (hserve : w.serves (lineRegion line).1 = true)
include hr hl hserve

theorem Work.retryLine_serves : w.retryLine line bad pbad =
    let t := (w.retryTaken (lineRegion line).1 rest).retried line (w.badOf line r.bad r.pbad) (w.badOf line bad pbad)
    if t.1 then t.2.deliver r.issuer line else t.2.deliverBad r.issuer line := by
  simp [Work.retryLine, hr, hl, hserve]
  rfl

/-- A retry that decodes was a transient. -/
theorem Work.retryLine_decodes (hdec : w.decodes (lineRegion line).1 (w.badOf line bad pbad) = true) :
    w.retryLine line bad pbad = (((w.retryTaken (lineRegion line).1 rest).transient (UE_TRANS_CNT (lineRegion line).1)).decoded line
      (w.badOf line bad pbad)).deliver r.issuer line := by
  rw [Work.retryLine_serves hr hl hserve, Work.retried_decodes (w := w.retryTaken _ rest) hdec]
  rfl

theorem Work.retryLine_die (hdec : w.decodes (lineRegion line).1 (w.badOf line bad pbad) = false)
    (he : w.erasure (lineRegion line).1 = false) {z : Nat} (h1 : trialDies (w.badOf line r.bad r.pbad) = [z])
    (h2 : trialDies (w.badOf line bad pbad) = [z]) : w.retryLine line bad pbad =
      (((w.retryTaken (lineRegion line).1 rest).markDie (lineRegion line).1 z).countCe line).deliver r.issuer line := by
  rw [Work.retryLine_serves hr hl hserve, Work.retried_die (w := w.retryTaken _ rest) hdec he h1 h2]
  rfl

theorem Work.retryLine_lost (hdec : w.decodes (lineRegion line).1 (w.badOf line bad pbad) = false)
    (he : w.erasure (lineRegion line).1 = true) : w.retryLine line bad pbad =
      (((w.retryTaken (lineRegion line).1 rest).inc (UE_CNT (lineRegion line).1)).setBit (MC_ERR (lineRegion line).1) 1).deliverBad
        r.issuer line := by
  rw [Work.retryLine_serves hr hl hserve, Work.retried_lost (w := w.retryTaken _ rest) hdec he]
  rfl

end

/-- A line read again and delivered: the retry is gone from its list, memory stands, and the line leaves last. -/
theorem Work.Reread.delivered {u v w : Work} {line : Nat} {i : Issuer} {rest : List Retry} {p : Bool}
    (h : (w.retryTaken (lineRegion line).1 rest).Reread u) (hd : u.Delivered v i line p) :
    (v.memc (lineRegion line).1).retries = rest ∧ v.mem = w.mem ∧
      v.out = u.out ++ [.line i (256 * line) (w.bytes (256 * line) 256) p] := by
  refine ⟨?_, hd.mem.trans h.mem, ?_⟩
  · rw [Work.memc_congr hd.memcs, h.retries, Work.retryTaken, Work.memc_setMemc_same]
  · rw [hd.out, Work.bytes_congr (v := u) (w := w) h.mem]

section
variable {s : State} {a : Nat} {bad pbad : List Nat} {r : Retry} {rest : List Retry}

theorem gives_hbmRetryDone (halive : s.board.alive = true) (ha : a < apertureBase) :
    Gives (.hbmRetryDone a bad pbad) s (s.work.retryLine (a / 256) bad pbad) :=
  gives_of_run (execHbmRetryDone.eq_1 a bad pbad s) halive (Work.onLine_stacks _ _ ha _)

variable (halive : s.board.alive = true) (ha : a < apertureBase)
  (hr : (s.work.memc (lineRegion (a / 256)).1).retries = r :: rest) (hl : r.line = a / 256)
  (hserve : s.work.serves (lineRegion (a / 256)).1 = true)
include halive ha hr hl hserve

theorem leads_hbmRetryDone_stale (hdec : s.work.decodes (lineRegion (a / 256)).1 (s.work.badOf (a / 256) bad pbad) = true)
    (hcur : s.work.current r.issuer = false) :
    Leads (.hbmRetryDone a bad pbad) s (fun w => (w.memc (lineRegion (a / 256)).1).retries = rest ∧ w.mem = s.work.mem ∧
      w.out = s.work.out ∧ w.rd RGEN_DROP_CNT = min (s.work.rd RGEN_DROP_CNT + 1) 0xFFFFFFFF) := by
  refine ⟨_, gives_hbmRetryDone halive ha, ?_⟩
  rw [Work.retryLine_decodes hr hl hserve hdec]
  generalize a / 256 = line at *
  set m := (lineRegion line).1 with hm
  set b := s.work.badOf line bad pbad
  set u := ((s.work.retryTaken m rest).transient (UE_TRANS_CNT m)).decoded line b with hu
  have hre : (s.work.retryTaken m rest).Reread u := .trans (v := (s.work.retryTaken m rest).transient (UE_TRANS_CNT m))
    (.of_regs rfl) (Work.decoded_reread _ line b)
  rw [Work.deliver_stale ((Work.current_congr hre.gens _).trans hcur)]
  refine ⟨?_, ?_, ?_, ?_⟩
  · rw [Work.delivering_frame]
    exact (hre.retries m).trans (by rw [Work.retryTaken, Work.memc_setMemc_same])
  · rw [Work.delivering_frame]
    exact hre.mem
  · rw [Work.delivering_frame]
    change u.out = _
    rw [hu, Work.decoded_frame]
    rfl
  · have hne : ∀ o, RGEN_DROP_CNT ≠ memcBase m + o := fun o => by unfold RGEN_DROP_CNT memcBase; omega
    rw [Work.rd_inc_same, Work.rd_delivering_ne _ _ (hne 0x4c), Work.rd_decoded_ne _ _ _ (hne 0x40), Work.transient,
      Work.rd_inc_ne _ _ (by decide), Work.rd_inc_ne _ (UE_TRANS_CNT m) (hne 0x44)]
    rfl

theorem leads_hbmRetryDone_transient (hdec : s.work.decodes (lineRegion (a / 256)).1 (s.work.badOf (a / 256) bad pbad) = true)
    (hcur : s.work.current r.issuer = true) :
    Leads (.hbmRetryDone a bad pbad) s (fun w => (w.memc (lineRegion (a / 256)).1).retries = rest ∧ w.mem = s.work.mem ∧
      w.out = s.work.out ++
        [.line r.issuer (256 * (a / 256)) (s.work.bytes (256 * (a / 256)) 256) (s.work.poison.contains (a / 256))] ∧
      w.rd (UE_TRANS_CNT (lineRegion (a / 256)).1) = min (s.work.rd (UE_TRANS_CNT (lineRegion (a / 256)).1) + 1) 0xFFFFFFFF ∧
      w.rd TRANSIENT_CNT = min (s.work.rd TRANSIENT_CNT + 1) 0xFFFFFFFF ∧
      w.rd (UE_CNT (lineRegion (a / 256)).1) = s.work.rd (UE_CNT (lineRegion (a / 256)).1)) := by
  refine ⟨_, gives_hbmRetryDone halive ha, ?_⟩
  rw [Work.retryLine_decodes hr hl hserve hdec]
  generalize a / 256 = line at *
  set m := (lineRegion line).1 with hm
  set b := s.work.badOf line bad pbad
  set u := ((s.work.retryTaken m rest).transient (UE_TRANS_CNT m)).decoded line b with hu
  have hre : (s.work.retryTaken m rest).Reread u := .trans (v := (s.work.retryTaken m rest).transient (UE_TRANS_CNT m))
    (.of_regs rfl) (Work.decoded_reread _ line b)
  have hd := Work.deliver_delivered (line := line) ((Work.current_congr hre.gens r.issuer).trans hcur)
  obtain ⟨hret, hmem, hout⟩ := hre.delivered hd
  have hrd : ∀ c, c ≠ POISON_RD_CNT m → c ≠ CE_CNT m → (u.deliver r.issuer line).rd c =
      ((s.work.retryTaken m rest).transient (UE_TRANS_CNT m)).rd c :=
    fun c h1 h2 => (hd.rd c h1).trans (Work.rd_decoded_ne _ _ _ h2)
  refine ⟨hret, hmem, ?_, ?_, ?_, ?_⟩
  · rw [hout, hre.poison, hu, Work.decoded_frame]
    rfl
  · rw [hrd _ (by simp [UE_TRANS_CNT, POISON_RD_CNT]) (by simp [UE_TRANS_CNT, CE_CNT]), Work.transient,
      Work.rd_inc_ne _ _ (by unfold UE_TRANS_CNT TRANSIENT_CNT memcBase; omega), Work.rd_inc_same]
    rfl
  · rw [hrd _ (by unfold POISON_RD_CNT TRANSIENT_CNT memcBase; omega) (by unfold CE_CNT TRANSIENT_CNT memcBase; omega),
      Work.transient, Work.rd_inc_same, Work.rd_inc_ne _ _ (by unfold UE_TRANS_CNT TRANSIENT_CNT memcBase; omega)]
    rfl
  · rw [hrd _ (by simp [UE_CNT, POISON_RD_CNT]) (by simp [UE_CNT, CE_CNT]), Work.transient,
      Work.rd_inc_ne _ _ (by unfold UE_CNT TRANSIENT_CNT memcBase; omega), Work.rd_inc_ne _ _ (by simp [UE_CNT, UE_TRANS_CNT])]
    rfl

theorem leads_hbmRetryDone_die (hdec : s.work.decodes (lineRegion (a / 256)).1 (s.work.badOf (a / 256) bad pbad) = false)
    (he : s.work.erasure (lineRegion (a / 256)).1 = false) (hcur : s.work.current r.issuer = true) (z : Fin 18)
    (h1 : trialDies (s.work.badOf (a / 256) r.bad r.pbad) = [z.val]) (h2 : trialDies (s.work.badOf (a / 256) bad pbad) = [z.val]) :
    Leads (.hbmRetryDone a bad pbad) s (fun w => (w.memc (lineRegion (a / 256)).1).retries = rest ∧ w.mem = s.work.mem ∧
      w.erasure (lineRegion (a / 256)).1 = true ∧ w.failedDie (lineRegion (a / 256)).1 = z ∧
      w.flag (MC_ERR (lineRegion (a / 256)).1) 0 = true ∧
      w.rd (UE_CNT (lineRegion (a / 256)).1) = s.work.rd (UE_CNT (lineRegion (a / 256)).1) ∧
      ∃ l : List Out, w.out = s.work.out ++ l ++
        [Out.line r.issuer (256 * (a / 256)) (s.work.bytes (256 * (a / 256)) 256) (s.work.poison.contains (a / 256))]) := by
  refine ⟨_, gives_hbmRetryDone halive ha, ?_⟩
  rw [Work.retryLine_die hr hl hserve hdec he h1 h2]
  generalize a / 256 = line at *
  set m := (lineRegion line).1 with hm
  set u := ((s.work.retryTaken m rest).markDie m z).countCe line with hu
  have hre : (s.work.retryTaken m rest).Reread u := (Work.markDie_reread _ m z).trans (Work.countCe_reread _ line)
  have hd := Work.deliver_delivered (line := line) ((Work.current_congr hre.gens r.issuer).trans hcur)
  obtain ⟨hret, hmem, hout⟩ := hre.delivered hd
  obtain ⟨l, hl⟩ := hre.out
  have hrd : ∀ o < 0x10000, o ≠ 0x4c → o ≠ 0x40 →
      (u.deliver r.issuer line).rd (memcBase m + o) = ((s.work.retryTaken m rest).dieNoted m z).rd (memcBase m + o) := by
    intro o ho h1 h2
    rw [hd.rd _ (fun e => h1 (Nat.add_left_cancel e)), Work.rd_countCe_ne _ _ (fun e => h2 (Nat.add_left_cancel e)),
      Work.rd_markDie _ _ (show m < 12 from stackOf_lt _) ho]
  obtain ⟨hera, hdie, herr⟩ := (s.work.retryTaken m rest).dieNoted_mode m z.isLt
  refine ⟨hret, hmem, ?_, ?_, ?_, ?_, l, ?_⟩
  · exact (Work.flag_congr (hrd 0x4 (by decide) (by decide) (by decide)) 1).trans hera
  · exact (Work.fld_congr (hrd 0x4 (by decide) (by decide) (by decide)) 2 5).trans hdie
  · exact (Work.flag_congr (hrd 0x8 (by decide) (by decide) (by decide)) 0).trans herr
  · refine (hrd 0x48 (by decide) (by decide) (by decide)).trans ?_
    rw [Work.dieNoted, Work.rd_setBit_ne _ _ _ (by simp [MC_ERR]), Work.rd_setFld_ne _ _ _ _ _ (by simp [MC_STATUS]),
      Work.rd_setBit_ne _ _ _ (by simp [MC_STATUS])]
    rfl
  · rw [hout, hl, hre.poison]
    rfl

theorem leads_hbmRetryDone_lost (hdec : s.work.decodes (lineRegion (a / 256)).1 (s.work.badOf (a / 256) bad pbad) = false)
    (he : s.work.erasure (lineRegion (a / 256)).1 = true) (hcur : s.work.current r.issuer = true) :
    Leads (.hbmRetryDone a bad pbad) s (fun w => (w.memc (lineRegion (a / 256)).1).retries = rest ∧ w.mem = s.work.mem ∧
      w.out = s.work.out ++ [.line r.issuer (256 * (a / 256)) (s.work.bytes (256 * (a / 256)) 256) true] ∧
      w.rd (UE_CNT (lineRegion (a / 256)).1) = min (s.work.rd (UE_CNT (lineRegion (a / 256)).1) + 1) 0xFFFFFFFF ∧
      w.flag (MC_ERR (lineRegion (a / 256)).1) 1 = true) := by
  refine ⟨_, gives_hbmRetryDone halive ha, ?_⟩
  rw [Work.retryLine_lost hr hl hserve hdec he]
  generalize a / 256 = line at *
  set m := (lineRegion line).1 with hm
  set u := ((s.work.retryTaken m rest).inc (UE_CNT m)).setBit (MC_ERR m) 1 with hu
  have hre : (s.work.retryTaken m rest).Reread u := .of_regs rfl
  have hd := Work.deliverBad_delivered (line := line) ((Work.current_congr hre.gens r.issuer).trans hcur)
  obtain ⟨hret, hmem, hout⟩ := hre.delivered hd
  refine ⟨hret, hmem, hout, ?_, ?_⟩
  · rw [hd.rd _ (by simp [UE_CNT, POISON_RD_CNT, ← hm]), hu, Work.rd_setBit_ne _ _ _ (by simp [UE_CNT, MC_ERR]), Work.rd_inc_same]
    rfl
  · rw [Work.flag_congr (hd.rd _ (by simp [MC_ERR, POISON_RD_CNT, ← hm])) 1]
    exact Work.flag_setBit_same _ _ _ (by decide)

end

end Sys2Proof.Machine
end

section
/-! ### Writes of the stacks (R311, R312, R314)

A write goes in its lines, each stored and marked or cleared; what it leaves of memory, marks and registers. -/

namespace Sys2Proof.Machine

/-! The lines of a range. -/

section
variable {a n : Nat}

theorem mem_linesOf {p : Nat × Nat} (h : p ∈ linesOf a n) :
    0 < p.2 ∧ a ≤ p.1 ∧ p.1 + p.2 ≤ a + n ∧ p.1 + p.2 ≤ 256 * (p.1 / 256) + 256 := by
  unfold linesOf at h
  split at h
  · cases h
  · obtain ⟨i, hi, rfl⟩ := List.mem_map.mp h
    have hlt := List.mem_range.mp hi
    dsimp only
    omega

/-- Every byte of a range lies in one of its lines. -/
theorem exists_linesOf {x : Nat} (h1 : a ≤ x) (h2 : x < a + n) : ∃ p ∈ linesOf a n, p.1 ≤ x ∧ x < p.1 + p.2 := by
  rw [linesOf, if_neg (by omega)]
  refine ⟨_, List.mem_map.mpr ⟨x / 256 - a / 256, List.mem_range.mpr (by omega), rfl⟩, ?_, ?_⟩ <;> dsimp only <;> omega

/-- A line that a range covers whole is one of its lines. -/
theorem whole_mem_linesOf {l : Nat} (h1 : a ≤ 256 * l) (h2 : 256 * l + 256 ≤ a + n) : (256 * l, 256) ∈ linesOf a n := by
  rw [linesOf, if_neg (by omega)]
  refine List.mem_map.mpr ⟨l - a / 256, List.mem_range.mpr (by omega), Prod.ext ?_ ?_⟩ <;> dsimp only <;> omega

end

theorem getD_sub (l : List Byte) (off : Nat) {n i : Nat} (h : i < n) : (sub l off n).getD i 0 = l.getD (off + i) 0 := getD_map_range _ h 0

/-! What a write changes beside its bytes. -/

/-- Bytes were stored: only memory, its marks and the counts of merges with poisoned lines differ. -/
structure Work.Stored (w v : Work) : Prop where
  rest : v = { w with regs := v.regs, mem := v.mem, poison := v.poison }
  rd : ∀ a, (∀ m < 12, a ≠ POISON_RD_CNT m ∧ a ≠ RMW_POISON_CNT m) → v.rd a = w.rd a

namespace Work.Stored

variable {u v w : Work}

theorem refl (w : Work) : w.Stored w := ⟨rfl, fun _ _ => rfl⟩

theorem trans (h : u.Stored v) (k : v.Stored w) : u.Stored w :=
  ⟨by rw [k.rest, h.rest], fun a ha => (k.rd a ha).trans (h.rd a ha)⟩

theorem foldl {α : Type} {f : Work → α → Work} {l : List α} (hf : ∀ (v : Work), ∀ x ∈ l, v.Stored (f v x)) (w : Work) :
    w.Stored (l.foldl f w) :=
  List.foldlRecOn l f (refl w) fun v hv x hx => hv.trans (hf v x hx)

theorem inc (w : Work) {a m : Nat} (hm : m < 12) (ha : a = POISON_RD_CNT m ∨ a = RMW_POISON_CNT m) : w.Stored (w.inc a) := by
  refine ⟨rfl, fun b hb => Work.rd_inc_ne _ _ fun e => ?_⟩
  rcases ha with rfl | rfl
  · exact (hb m hm).1 e
  · exact (hb m hm).2 e

theorem memcs (h : w.Stored v) : v.memcs = w.memcs := (congrArg Work.memcs h.rest :)
theorem out (h : w.Stored v) : v.out = w.out := (congrArg Work.out h.rest :)
theorem asked (h : w.Stored v) : v.asked = w.asked := (congrArg Work.asked h.rest :)

end Work.Stored

theorem Work.put_stored (w : Work) (a : Nat) (bs : List Byte) (p : Bool) : w.Stored (w.put a bs p) := by
  cases p <;> exact ⟨rfl, fun _ _ => rfl⟩

theorem Work.putStack_stored (w : Work) (a : Nat) (bs : List Byte) (p : Bool) : w.Stored (w.putStack a bs p) := by
  refine .trans (.foldl (fun v q _ => ?_) w) (Work.put_stored _ a bs p)
  exact (Work.Stored.inc v (stackOf_lt q.1) (.inl rfl)).trans (.inc _ (stackOf_lt q.1) (.inr rfl))

theorem Work.put_poison_congr {v w : Work} (h : v.poison = w.poison) (a : Nat) (bs : List Byte) (p : Bool) :
    (v.put a bs p).poison = (w.put a bs p).poison := by
  cases p
  · exact congrArg (List.filter _) h
  · exact congrArg (List.foldl _ · _) h

theorem Work.putStack_poison (w : Work) (a : Nat) (bs : List Byte) (p : Bool) : (w.putStack a bs p).poison = (w.put a bs p).poison := by
  refine Work.put_poison_congr ?_ a bs p
  exact List.foldlRecOn (motive := fun v : Work => v.poison = w.poison) _ _ rfl fun _ h _ _ => h

theorem Work.put_true_poison (w : Work) (a : Nat) (bs : List Byte) : (w.put a bs true).poison = (w.mark a bs.length).poison := rfl
theorem Work.put_false_poison (w : Work) (a : Nat) (bs : List Byte) : (w.put a bs false).poison = (w.unmark a bs.length).poison := rfl

theorem Work.mark_poison_congr {v w : Work} (h : v.poison = w.poison) (a n : Nat) : (v.mark a n).poison = (w.mark a n).poison :=
  congrArg (List.foldl _ · _) h

/-! One line of a write. -/

section
variable (w : Work) (a : Nat) (bs : List Byte) (p : Bool) (bad retry : List Nat)

/-- A line written: whole, after the read of its rest, or poisoned where that read is lost. -/
theorem Work.writeLine_cases : w.writeLine a bs p bad retry = w.put a bs p ∨
    ∃ v, w.Reread v ∧ (bad = [] → v = w) ∧ (w.writeLine a bs p bad retry = v.putStack a bs p ∨
      bad ≠ [] ∧ w.writeLine a bs p bad retry = (v.store a bs).mark a bs.length) := by
  unfold Work.writeLine
  extract_lets line m t v
  split
  · exact .inl rfl
  · have ht : w.Reread t.2 ∧ (bad = [] → t = (true, w)) := by
      unfold t
      split
      · exact ⟨w.decoded_reread line bad, fun h => by rw [h, Work.decoded_nil]⟩
      · rename_i h
        exact ⟨w.retried_reread line bad retry, fun hb => absurd (hb ▸ (w.decodes_nil m).1) h⟩
    cases h1 : t.1 with
    | true => exact .inr ⟨t.2, ht.1, fun hb => by rw [ht.2 hb], .inl (if_pos rfl)⟩
    | false =>
      have hbad : bad ≠ [] := fun hb => by simp [ht.2 hb] at h1
      exact .inr ⟨v, ht.1.trans (.of_regs rfl), fun hb => absurd hb hbad, .inr ⟨hbad, if_neg (by simp)⟩⟩

theorem Work.writeLine_mem : (w.writeLine a bs p bad retry).mem = storeCells w.mem a bs := by
  rcases w.writeLine_cases a bs p bad retry with h | ⟨v, hv, -, h | ⟨-, h⟩⟩
  · rw [h, Work.put_mem]
  · rw [h, Work.putStack_mem, hv.mem]
  · rw [h, ← hv.mem]
    rfl

theorem Work.writeLine_marks : (w.writeLine a bs true bad retry).poison = (w.mark a bs.length).poison := by
  rcases w.writeLine_cases a bs true bad retry with h | ⟨v, hv, -, h | ⟨-, h⟩⟩
  · rw [h, Work.put_true_poison]
  · rw [h, Work.putStack_poison, Work.put_true_poison, Work.mark_poison_congr hv.poison]
  · rw [h]
    exact Work.mark_poison_congr hv.poison a bs.length

theorem Work.writeLine_nil : w.writeLine a bs p [] retry = w.put a bs p ∨ w.writeLine a bs p [] retry = w.putStack a bs p := by
  rcases w.writeLine_cases a bs p [] retry with h | ⟨v, -, hv, h | ⟨hne, -⟩⟩
  · exact .inl h
  · exact .inr (hv rfl ▸ h)
  · exact absurd rfl hne

theorem Work.writeLine_nil_stored : w.Stored (w.writeLine a bs p [] retry) := by
  rcases w.writeLine_nil a bs p retry with h | h <;> rw [h]
  · exact w.put_stored a bs p
  · exact w.putStack_stored a bs p

theorem Work.writeLine_clears : (w.writeLine a bs false [] retry).poison = (w.unmark a bs.length).poison := by
  rcases w.writeLine_nil a bs false retry with h | h <;> rw [h]
  · rfl
  · exact w.putStack_poison a bs false

end

/-! The lines of a write of the stacks. -/

/-- The step that writes line number `q.2` of a write of the stacks. -/
def Work.writePart (a : Nat) (bs : List Byte) (p : Bool) (bad retry : List Nat) (w : Work) (q : (Nat × Nat) × Nat) : Work :=
  w.writeLine q.1.1 (sub bs (q.1.1 - a) q.1.2) p ((bad.filter (fun p => p / 144 == q.2)).map (· % 144))
    ((retry.filter (fun p => p / 144 == q.2)).map (· % 144))

section
variable {w : Work} {a : Nat} {bs : List Byte} {p : Bool} {bad retry : List Nat}

theorem mem_of_mem_zipIdx {α : Type} {l : List α} {q : α × Nat} (h : q ∈ l.zipIdx) : q.1 ∈ l := by
  rw [← List.zipIdx_map_fst 0 l]
  exact List.mem_map_of_mem h

theorem exists_mem_zipIdx {α : Type} {l : List α} {x : α} (h : x ∈ l) : ∃ k, (x, k) ∈ l.zipIdx := by
  rw [← List.zipIdx_map_fst 0 l] at h
  obtain ⟨⟨y, k⟩, hq, rfl⟩ := List.mem_map.mp h
  exact ⟨k, hq⟩

variable (h : inStacks a bs.length = true)
include h

theorem Work.writeHbm_stacks :
    w.writeHbm a bs p bad retry = (linesOf a bs.length).zipIdx.foldl (Work.writePart a bs p bad retry) w := by
  have hend : a + bs.length ≤ apertureBase := of_decide_eq_true h
  refine List.foldl_ext _ _ _ fun v q hq => if_pos ?_
  have := mem_linesOf (mem_of_mem_zipIdx hq)
  omega

theorem Work.writeHbm_bytes : (w.writeHbm a bs p bad retry).bytes a bs.length = bs := by
  rw [Work.writeHbm_stacks h, Work.bytes_eq_iff]
  intro i hi
  obtain ⟨q, hq, h1, h2⟩ := exists_linesOf (Nat.le_add_right a i) (Nat.add_lt_add_left hi a)
  obtain ⟨k, hk⟩ := exists_mem_zipIdx hq
  have hbyte := Work.byte_foldl_part (f := Work.writePart a bs p bad retry) (pos := fun q => q.1.1)
    (part := fun q => sub bs (q.1.1 - a) q.1.2) (image := fun x => bs.getD (x - a) 0)
    (fun v q _ => v.writeLine_mem _ _ _ _ _) (fun q hq i hi => ?_) w (q, k) hk (a + i) h1 (by rwa [sub_length])
  · rw [hbyte, Nat.add_sub_cancel_left]
  · rw [sub_length] at hi
    have := mem_linesOf (mem_of_mem_zipIdx hq)
    rw [getD_sub _ _ hi, show q.1.1 - a + i = q.1.1 + i - a by omega]

theorem Work.writeHbm_byte_apart {x : Nat} (hx : x < a ∨ a + bs.length ≤ x) : (w.writeHbm a bs p bad retry).byte x = w.byte x := by
  rw [Work.writeHbm_stacks h]
  refine Work.byte_foldl_apart (pos := fun q : (Nat × Nat) × Nat => q.1.1) (part := fun q => sub bs (q.1.1 - a) q.1.2)
    (fun v q _ => v.writeLine_mem _ _ _ _ _) w fun q hq => ?_
  have := mem_linesOf (mem_of_mem_zipIdx hq)
  rw [sub_length]
  omega

/-- A poisoned write marks every unit that it meets (R311). -/
theorem Work.writeHbm_poisoned {i : Nat} (hi : i < bs.length) : (w.writeHbm a bs true bad retry).poisoned (a + i) 1 = true := by
  rw [Work.poisoned_byte, Work.writeHbm_stacks h]
  obtain ⟨q, hq, h1, h2⟩ := exists_linesOf (Nat.le_add_right a i) (Nat.add_lt_add_left hi a)
  obtain ⟨k, hk⟩ := exists_mem_zipIdx hq
  have hmarks : ∀ (v : Work) (q : (Nat × Nat) × Nat), (v.writePart a bs true bad retry q).poison = (v.mark q.1.1 q.1.2).poison :=
    fun v q => (v.writeLine_marks _ _ _ _).trans (by rw [sub_length])
  refine foldl_attains (P := fun q (v : Work) => ∀ u ∈ poisonUnits q.1.1 q.1.2, u ∈ v.poison) (fun v q _ u hu => ?_)
    (fun v q _ r _ hr u hu => ?_) w (q, k) hk _ (poisonUnit_mem h1 h2)
  · rw [hmarks, Work.mem_mark]
    exact .inl hu
  · rw [hmarks, Work.mem_mark]
    exact .inr (hr u hu)

/-- A clean write clears the lines that it covers whole (R312). -/
theorem Work.writeHbm_clean {l : Nat} (h1 : a ≤ 256 * l) (h2 : 256 * l + 256 ≤ a + bs.length) :
    (w.writeHbm a bs false [] retry).poisoned (256 * l) 256 = false := by
  have hend : a + bs.length ≤ apertureBase := of_decide_eq_true h
  have htop : apertureBase ≤ 2 ^ 40 := by decide
  rw [Work.poisoned_line (by omega), Work.writeHbm_stacks h, List.contains_eq_mem, decide_eq_false_iff_not]
  obtain ⟨k, hk⟩ := exists_mem_zipIdx (whole_mem_linesOf h1 h2)
  have hclears : ∀ (v : Work) (q : (Nat × Nat) × Nat),
      (v.writePart a bs false [] retry q).poison = (v.unmark q.1.1 q.1.2).poison :=
    fun v q => (v.writeLine_clears _ _ _).trans (by rw [sub_length])
  refine foldl_attains (f := Work.writePart a bs false [] retry) (P := fun q v => ∀ l, q.1 = (256 * l, 256) → l ∉ v.poison) (fun v q hq l hl => ?_)
    (fun v q _ r _ hr l hl hm => hr l hl ?_) w _ hk l rfl
  · have := mem_linesOf (mem_of_mem_zipIdx hq)
    rw [hl] at this
    rw [hclears, hl, Work.mem_unmark (by dsimp only at this; omega) (by dsimp only at this ⊢; omega)]
    exact fun hm => hm.2 ⟨le_rfl, le_rfl⟩
  · rw [hclears] at hm
    exact Work.mem_of_mem_unmark hm

theorem Work.writeHbm_stored : w.Stored (w.writeHbm a bs p [] []) := by
  rw [Work.writeHbm_stacks h]
  exact .foldl (fun v q _ => v.writeLine_nil_stored _ _ _ _) w

end

/-! The command. -/

section
variable {s : State} {i : Issuer} {a : Nat} {d : List Byte} {p : Bool} {e : MergeErrs}

theorem gives_hbmWrite_stale (halive : s.board.alive = true) (hcur : s.work.current i = false) :
    Gives (.hbmWrite ⟨i, a⟩ d p e) s s.work :=
  gives_of_run (execHbmWrite.eq_1 ⟨i, a⟩ d p e s) halive (if_neg (by simp [hcur]))

theorem gives_hbmWrite_parked (halive : s.board.alive = true) (hcur : s.work.current i = true)
    (hserve : s.work.rangeServes a d.length = false) :
    Gives (.hbmWrite ⟨i, a⟩ d p e) s (s.work.park i (.write a d p e.first e.second)) :=
  gives_of_run (execHbmWrite.eq_1 ⟨i, a⟩ d p e s) halive ((if_pos hcur).trans (if_neg (by simp [hserve])))

theorem gives_hbmWrite (halive : s.board.alive = true) (hcur : s.work.current i = true)
    (hserve : s.work.rangeServes a d.length = true) :
    Gives (.hbmWrite ⟨i, a⟩ d p e) s (s.work.writeHbm a d p e.first e.second) :=
  gives_of_run (execHbmWrite.eq_1 ⟨i, a⟩ d p e s) halive ((if_pos hcur).trans (if_pos hserve))

end

end Sys2Proof.Machine
end

section
/-! ### Blocks stored (R314 to R316)

A block goes in its lines, each with its own mark; one whose check fails is asked for again, and poisoned where it fails twice. -/

namespace Sys2Proof.Machine

/-- Line `i` of a block's data. -/
def blockPart (b : Block) (i : Nat) : List Byte := (b.data.drop (256 * i)).take 256

/-- The step that stores line `i` of a block. -/
def Work.putPart (b : Block) (all : Bool) (w : Work) (i : Nat) : Work :=
  match b.eight with
  | none => w.hbmPut (b.dest + 256 * i) (blockPart b i) (all || b.poisonMap.testBit i)
  | some _ => w.put (b.dest + 256 * i) (blockPart b i) (all || b.poisonMap.testBit i)

theorem Work.putBlock_eq (w : Work) (b : Block) (all : Bool) :
    w.putBlock b all = (List.range (ceilDiv b.data.length 256)).foldl (Work.putPart b all) w := rfl

theorem blockPart_length (b : Block) (i : Nat) : (blockPart b i).length = min 256 (b.data.length - 256 * i) := by
  rw [blockPart, List.length_take, List.length_drop]

theorem getD_blockPart (b : Block) {i j : Nat} (h : j < (blockPart b i).length) : (blockPart b i).getD j 0 = b.data.getD (256 * i + j) 0 := by
  rw [blockPart_length] at h
  rw [blockPart, List.getD_eq_getElem?_getD, List.getElem?_take_of_lt (by omega), List.getElem?_drop, List.getD_eq_getElem?_getD]

/-- A block's lines: as many as its bytes fill or begin. -/
theorem lt_ceilDiv_256 (n i : Nat) : i < ceilDiv n 256 ↔ 256 * i < n := by
  rw [ceilDiv, if_neg (by decide)]
  omega

/-- Where a block lies: in the stacks, or in an Eight's local memory. -/
def BlockPlaced (b : Block) : Prop := (b.eight = none → inStacks b.dest b.data.length = true) ∧ (b.eight ≠ none → 2 ^ 40 ≤ b.dest)

section
variable {w : Work} {b : Block} {all : Bool} {i : Nat} (h : BlockPlaced b)
include h

theorem Work.putPart_cases (v : Work) (hi : 256 * i < b.data.length) :
    v.putPart b all i = v.putStack (b.dest + 256 * i) (blockPart b i) (all || b.poisonMap.testBit i) ∨
      v.putPart b all i = v.put (b.dest + 256 * i) (blockPart b i) (all || b.poisonMap.testBit i) := by
  unfold Work.putPart
  cases he : b.eight with
  | some _ => exact .inr rfl
  | none =>
    have hend : b.dest + b.data.length ≤ apertureBase := of_decide_eq_true (h.1 he)
    exact .inl (if_pos (decide_eq_true (by rw [blockPart_length]; omega)))

theorem Work.putPart_mem (v : Work) (hi : 256 * i < b.data.length) :
    (v.putPart b all i).mem = storeCells v.mem (b.dest + 256 * i) (blockPart b i) := by
  rcases Work.putPart_cases (all := all) h v hi with e | e <;> rw [e]
  · exact v.putStack_mem ..
  · exact v.put_mem ..

theorem Work.putPart_poison (v : Work) (hi : 256 * i < b.data.length) :
    (v.putPart b all i).poison = (v.put (b.dest + 256 * i) (blockPart b i) (all || b.poisonMap.testBit i)).poison := by
  rcases Work.putPart_cases (all := all) h v hi with e | e <;> rw [e]
  exact v.putStack_poison ..

theorem Work.putBlock_stored : w.Stored (w.putBlock b all) := by
  rw [Work.putBlock_eq]
  refine .foldl (fun v i hi => ?_) w
  rw [List.mem_range, lt_ceilDiv_256] at hi
  rcases Work.putPart_cases (all := all) h v hi with e | e <;> rw [e]
  · exact v.putStack_stored ..
  · exact v.put_stored ..

theorem Work.putBlock_bytes : (w.putBlock b all).bytes b.dest b.data.length = b.data := by
  rw [Work.bytes_eq_iff, Work.putBlock_eq]
  intro x hx
  have hbyte := Work.byte_foldl_part (f := Work.putPart b all) (l := List.range (ceilDiv b.data.length 256))
    (pos := fun i => b.dest + 256 * i) (part := blockPart b) (image := fun y => b.data.getD (y - b.dest) 0)
    (fun v i hi => Work.putPart_mem h v ((lt_ceilDiv_256 _ _).mp (List.mem_range.mp hi)))
    (fun i _ j hj => by rw [getD_blockPart b hj]; congr 1; omega) w (x / 256)
    (List.mem_range.mpr ((lt_ceilDiv_256 _ _).mpr (by omega))) (b.dest + x) (by omega) (by rw [blockPart_length]; omega)
  rw [hbyte, Nat.add_sub_cancel_left]

theorem Work.putBlock_byte_apart {x : Nat} (hx : ¬ (b.dest ≤ x ∧ x < b.dest + b.data.length)) :
    (w.putBlock b all).byte x = w.byte x := by
  rw [Work.putBlock_eq]
  refine Work.byte_foldl_apart (f := Work.putPart b all) (pos := fun i => b.dest + 256 * i) (part := blockPart b)
    (fun v i hi => Work.putPart_mem h v ((lt_ceilDiv_256 _ _).mp (List.mem_range.mp hi))) w fun i hi => ?_
  rw [List.mem_range, lt_ceilDiv_256] at hi
  rw [blockPart_length]
  omega

/-- A block poisoned whole has every unit that it meets marked (R316). -/
theorem Work.putBlock_poisoned {x : Nat} (hx : x < b.data.length) : (w.putBlock b true).poisoned (b.dest + x) 1 = true := by
  rw [Work.poisoned_byte, Work.putBlock_eq]
  have hmarks : ∀ (v : Work), ∀ i ∈ List.range (ceilDiv b.data.length 256),
      (v.putPart b true i).poison = (v.mark (b.dest + 256 * i) (blockPart b i).length).poison := by
    intro v i hi
    rw [List.mem_range, lt_ceilDiv_256] at hi
    rw [Work.putPart_poison h v hi, Bool.true_or, Work.put_true_poison]
  refine foldl_attains (f := Work.putPart b true)
    (P := fun i v => ∀ u ∈ poisonUnits (b.dest + 256 * i) (blockPart b i).length, u ∈ v.poison) (fun v i hi u hu => ?_)
    (fun v i hi j _ hj u hu => ?_) w (x / 256) (List.mem_range.mpr ((lt_ceilDiv_256 _ _).mpr (by omega))) _
    (poisonUnit_mem (by omega) (by rw [blockPart_length]; omega))
  · rw [hmarks v i hi, Work.mem_mark]
    exact .inl hu
  · rw [hmarks v i hi, Work.mem_mark]
    exact .inr (hj u hu)

end

/-! The arrivals of a block. -/

section
variable {w : Work} {b : Block}

theorem blockChecks_iff : blockChecks b = true ↔ crc32c (b.data ++ toBE 2 b.poisonMap) = b.check := beq_iff_eq

theorem Work.blockArrives_stale (h : w.current b.issuer = false) : w.blockArrives b = w := if_pos (by simp [h])

theorem Work.blockArrives_parked (hcur : w.current b.issuer = true) (hserve : w.blockServed b = false) :
    w.blockArrives b = w.park b.issuer (.block b false) := by
  simp [Work.blockArrives, hcur, hserve]

theorem Work.blockArrives_stored (hcur : w.current b.issuer = true) (hserve : w.blockServed b = true) (hok : blockChecks b = true) :
    w.blockArrives b = w.putBlock b false := by
  simp [Work.blockArrives, hcur, hserve, hok]

theorem Work.blockArrives_asked (hcur : w.current b.issuer = true) (hserve : w.blockServed b = true) (hok : blockChecks b = false) :
    w.blockArrives b = ({ w with asked := w.asked ++ [(b.dest, b.source)] }).emit (.askBlock b.source) := by
  simp [Work.blockArrives, hcur, hserve, hok]

theorem Work.blockAgain_unasked (h : (b.dest, b.source) ∉ w.asked) : w.blockAgain b = w := if_pos (by simp [h])

theorem Work.blockAgain_stale (h : w.current b.issuer = false) : w.blockAgain b = w := if_pos (by simp [h])

variable (hcur : w.current b.issuer = true) (hserve : w.blockServed b = true) (hasked : (b.dest, b.source) ∈ w.asked)
include hcur hserve hasked

/-- A second arrival that matches its check was a transient. -/
theorem Work.blockAgain_stored (hok : blockChecks b = true) : w.blockAgain b =
    (({ w with asked := w.asked.erase (b.dest, b.source) }).putBlock b false).transient (blockRetryCnt b) := by
  simp [Work.blockAgain, hcur, hserve, hasked, hok]

/-- One that fails it again is stored poisoned, and is a lasting fault. -/
theorem Work.blockAgain_failed (hok : blockChecks b = false) :
    ∃ (v : Work) (r : FaultRec) (crews : List Nat),
    v = { ({ w with asked := w.asked.erase (b.dest, b.source) }).putBlock b true with regs := v.regs } ∧
    v.rd LASTING_CNT = (({ w with asked := w.asked.erase (b.dest, b.source) }).putBlock b true).rd LASTING_CNT ∧
    w.blockAgain b = v.lasting r (some 10) crews := by
  have hm := stackOf_lt b.dest
  have hfail : LASTING_CNT ≠ blockFailCnt b := by
    unfold blockFailCnt
    split <;> (simp only [TBLK_FAIL_CNT, EIGHT_TBLK_FAIL_CNT, LASTING_CNT, memcBase, eightRegBase]; omega)
  set x := ({ w with asked := w.asked.erase (b.dest, b.source) }).putBlock b true
  cases he : b.eight with
  | some e =>
    exact ⟨x.inc (blockFailCnt b), _, _, rfl, Work.rd_inc_ne _ _ hfail,
      by simp [Work.blockAgain, hcur, hserve, hasked, hok, he, x]; rfl⟩
  | none =>
    have herr : LASTING_CNT ≠ MC_ERR (stackOf b.dest).1 := by
      simp only [MC_ERR, LASTING_CNT, memcBase]
      omega
    exact ⟨(x.inc (blockFailCnt b)).setBit (MC_ERR (stackOf b.dest).1) 2, _, _, rfl,
      (Work.rd_setBit_ne _ _ _ herr).trans (Work.rd_inc_ne _ _ hfail),
      by simp [Work.blockAgain, hcur, hserve, hasked, hok, he, x]; rfl⟩

end

section
variable {s : State} {b : Block} (halive : s.board.alive = true)
include halive

theorem gives_tblkArrival {w : Work} (h : s.work.blockArrives b = w) : Gives (.tblkArrival b) s w :=
  gives_of_run (execTblkArrival.eq_1 b s) halive h

theorem gives_tblkRearrival {w : Work} (h : s.work.blockAgain b = w) : Gives (.tblkRearrival b) s w :=
  gives_of_run (execTblkRearrival.eq_1 b s) halive h

variable (hplace : BlockPlaced b) (hcur : s.work.current b.issuer = true) (hserve : s.work.blockServed b = true)
include hplace hcur hserve

theorem leads_tblkArrival_stored (hok : blockChecks b = true) :
    Leads (.tblkArrival b) s (fun w => w.bytes b.dest b.data.length = b.data ∧
      (∀ x, ¬ (b.dest ≤ x ∧ x < b.dest + b.data.length) → w.byte x = s.work.byte x) ∧ w.asked = s.work.asked ∧
      w.out = s.work.out) := by
  refine ⟨_, gives_tblkArrival halive (Work.blockArrives_stored hcur hserve hok), ?_⟩
  have hst := Work.putBlock_stored (w := s.work) (all := false) hplace
  exact ⟨Work.putBlock_bytes hplace, fun x hx => Work.putBlock_byte_apart hplace hx, hst.asked, hst.out⟩

variable (hasked : (b.dest, b.source) ∈ s.work.asked)
include hasked

theorem leads_tblkRearrival :
    Leads (.tblkRearrival b) s (fun w => w.bytes b.dest b.data.length = b.data ∧
      (∀ x, ¬ (b.dest ≤ x ∧ x < b.dest + b.data.length) → w.byte x = s.work.byte x) ∧
      w.asked = s.work.asked.erase (b.dest, b.source) ∧
      (blockChecks b = true → w.rd TRANSIENT_CNT = min (s.work.rd TRANSIENT_CNT + 1) 0xFFFFFFFF) ∧
      (blockChecks b = false → w.rd LASTING_CNT = min (s.work.rd LASTING_CNT + 1) 0xFFFFFFFF ∧
        ∀ i < b.data.length, w.poisoned (b.dest + i) 1 = true)) := by
  refine ⟨_, gives_tblkRearrival halive rfl, ?_⟩
  set u : Work := { s.work with asked := s.work.asked.erase (b.dest, b.source) }
  have hkept : ∀ all c, (∀ m < 12, c ≠ POISON_RD_CNT m ∧ c ≠ RMW_POISON_CNT m) → (u.putBlock b all).rd c = s.work.rd c :=
    fun all c hc => (Work.putBlock_stored (w := u) (all := all) hplace).rd c hc
  have hbelow : ∀ c, c < 0x1000000 → ∀ m < 12, c ≠ POISON_RD_CNT m ∧ c ≠ RMW_POISON_CNT m := by
    intro c hc m _
    unfold POISON_RD_CNT RMW_POISON_CNT memcBase
    omega
  have hbytes : ∀ all, (u.putBlock b all).bytes b.dest b.data.length = b.data := fun _ => Work.putBlock_bytes hplace
  have hapart : ∀ all x, ¬ (b.dest ≤ x ∧ x < b.dest + b.data.length) → (u.putBlock b all).byte x = s.work.byte x :=
    fun _ x hx => Work.putBlock_byte_apart hplace hx
  have hasked' : ∀ all, (u.putBlock b all).asked = s.work.asked.erase (b.dest, b.source) :=
    fun all => (Work.putBlock_stored (w := u) (all := all) hplace).asked
  cases hok : blockChecks b with
  | true =>
    rw [Work.blockAgain_stored hcur hserve hasked hok]
    have hne : TRANSIENT_CNT ≠ blockRetryCnt b := by
      have := stackOf_lt b.dest
      unfold blockRetryCnt
      split <;> (simp only [TBLK_RETRY_CNT, EIGHT_TBLK_RETRY_CNT, TRANSIENT_CNT, memcBase, eightRegBase]; omega)
    refine ⟨hbytes false, hapart false, hasked' false, fun _ => ?_, fun h => absurd h (by simp)⟩
    rw [Work.transient, Work.rd_inc_same, Work.rd_inc_ne _ _ hne, hkept _ _ (hbelow _ (by decide))]
  | false =>
    obtain ⟨v, r, crews, hframe, hcount, heq⟩ := Work.blockAgain_failed hcur hserve hasked hok
    rw [heq]
    have hsends := Work.lasting_sendsOnly v r 10 crews
    have hmem : (v.lasting r (some 10) crews).mem = (u.putBlock b true).mem :=
      (congrArg Work.mem hsends :).trans (congrArg Work.mem hframe :)
    have hpoison : (v.lasting r (some 10) crews).poison = (u.putBlock b true).poison :=
      (congrArg Work.poison hsends :).trans (congrArg Work.poison hframe :)
    refine ⟨?_, fun x hx => ?_, ?_, fun h => absurd h (by simp), fun _ => ⟨?_, fun i hi => ?_⟩⟩
    · rw [Work.bytes_congr hmem, hbytes]
    · rw [Work.byte_congr hmem, hapart true x hx]
    · exact ((congrArg Work.asked hsends :).trans (congrArg Work.asked hframe :)).trans (hasked' true)
    · rw [Work.rd_lasting _ _ _ _ (by decide) (by decide), Work.rd_inc_same, hcount, hkept _ _ (hbelow _ (by decide))]
    · rw [Work.poisoned_congr hpoison, Work.putBlock_poisoned hplace hi]

end

/-! ### Lines and blocks -/

/-- Settles O22: a read, its retry, a write and a block by the cases of their outcome. A retry's answer to an older generation is
dropped at the edge of the domain that asked (log 131). -/
theorem linesAndBlocksAreReadAndStored : Obligations.LinesAndBlocksAreReadAndStored := by
  unfold Obligations.LinesAndBlocksAreReadAndStored
  refine ⟨⟨?read, ?retry⟩, ?write, ?block⟩
  case read =>
    intro s i a bad pbad halive ha line m b
    refine ⟨fun hcur => ?_, fun hcur hserve => ?_, fun hcur hserve hdec => ?_, fun hcur hserve hdec => ?_⟩
    · exact gives_of_run (execHbmRead.eq_1 ⟨i, a⟩ bad pbad s) halive (if_neg (by simp [hcur]))
    · have h := gives_hbmRead (bad := bad) (pbad := pbad) halive ha hcur
      rwa [Work.readLine_parks hserve] at h
    · exact leads_hbmRead_decodes halive ha hcur hserve ((Work.decodes_iff ..).mpr hdec)
    · exact leads_hbmRead_retried halive ha hcur hserve (Bool.eq_false_iff.mpr fun h => hdec ((Work.decodes_iff ..).mp h))
  case retry =>
    intro s a bad pbad r rest halive ha line m b1 b2 hr hl hserve
    exact ⟨leads_hbmRetryDone_stale halive ha hr hl hserve, leads_hbmRetryDone_transient halive ha hr hl hserve,
      leads_hbmRetryDone_die halive ha hr hl hserve, leads_hbmRetryDone_lost halive ha hr hl hserve⟩
  case write =>
    intro s i a d p bad retry halive hin
    refine ⟨gives_hbmWrite_stale halive, gives_hbmWrite_parked halive,
      fun hcur hserve => ⟨_, gives_hbmWrite halive hcur hserve, Work.writeHbm_bytes hin,
        fun x hx => Work.writeHbm_byte_apart hin hx, ?_, ?_⟩⟩
    · rintro rfl i hi
      exact Work.writeHbm_poisoned hin hi
    · rintro rfl rfl l h1 h2
      exact Work.writeHbm_clean hin h1 h2
  case block =>
    intro s b halive hstack height _ near
    have hplace : BlockPlaced b := ⟨hstack, height⟩
    have hfail : blockChecks b = false ↔ crc32c (b.data ++ toBE 2 b.poisonMap) ≠ b.check := by
      rw [Bool.eq_false_iff, Ne, blockChecks_iff]
    refine ⟨fun hcur => ?_, fun hcur hserve => ?_, fun hcur hserve hok => ?_, fun hcur hserve hbad => ?_,
      fun hcur hserve hasked => ?_, fun hasked => ?_⟩
    · exact ⟨gives_tblkArrival halive (Work.blockArrives_stale hcur), gives_tblkRearrival halive (Work.blockAgain_stale hcur)⟩
    · exact gives_tblkArrival halive (Work.blockArrives_parked hcur hserve)
    · exact leads_tblkArrival_stored halive hplace hcur hserve (blockChecks_iff.mpr hok)
    · exact gives_tblkArrival halive (Work.blockArrives_asked hcur hserve (hfail.mpr hbad))
    · have h := leads_tblkRearrival halive hplace hcur hserve hasked
      rwa [blockChecks_iff, hfail] at h
    · exact gives_tblkRearrival halive (Work.blockAgain_unasked hasked)

end Sys2Proof.Machine
end

section
/-! ### Regions retired and zeroised (R305 to R307, R325, R326) -/

namespace Sys2Proof.Machine

/-- The bytes of regions `first` to `first + n - 1` of stack `m`. -/
def inRegions (m first n a : Nat) : Bool :=
  decide (a < apertureBase) && (stackOf a).1 == m &&
    decide (first ≤ (stackOf a).2 / 2 ^ 21 ∧ (stackOf a).2 / 2 ^ 21 < first + n)

theorem inRegions_iff {m first n a : Nat} : inRegions m first n a = true ↔
    a < apertureBase ∧ (stackOf a).1 = m ∧ first ≤ (stackOf a).2 / 2 ^ 21 ∧ (stackOf a).2 / 2 ^ 21 < first + n := by
  simp [inRegions, and_assoc]

/-- A line lies in one region. -/
theorem inRegions_line (m first n a : Nat) : inRegions m first n (256 * (a / 256)) = inRegions m first n a := by
  have hap : 256 * (a / 256) < apertureBase ↔ a < apertureBase := by unfold apertureBase; omega
  have hstack : (stackOf (256 * (a / 256))).1 = (stackOf a).1 := by
    simp only [stackOf]
    omega
  have hregion : (stackOf (256 * (a / 256))).2 / 2 ^ 21 = (stackOf a).2 / 2 ^ 21 := by
    simp only [stackOf]
    omega
  rw [Bool.eq_iff_iff, inRegions_iff, inRegions_iff, hap, hstack, hregion]

/-- A byte whose cell a filter drops reads 0. -/
theorem cellAt_filter_dropped (l : List Host.Cell) {f : Nat → Bool} {a : Nat} (h : f a = false) :
    cellAt (l.filter (fun p => f p.1)) a = 0 := by
  have hnone : (l.filter (fun p => f p.1)).find? (fun p => p.1 == a) = none := by
    simp only [List.find?_eq_none, List.mem_filter, beq_iff_eq]
    rintro p ⟨-, hp⟩ rfl
    simp [h] at hp
  rw [cellAt, hnone]
  rfl

section
variable (w : Work) (m first n : Nat)

theorem Work.zeroRegions_mem : (w.zeroRegions m first n).mem = w.mem.filter (fun p => !inRegions m first n p.1) := rfl

theorem Work.zeroRegions_poison :
    (w.zeroRegions m first n).poison = w.poison.filter (fun u => !(u < 2 ^ 32 && inRegions m first n (256 * u))) := rfl

theorem Work.byte_zeroRegions (a : Nat) : (w.zeroRegions m first n).byte a = if inRegions m first n a then 0 else w.byte a := by
  rw [Work.byte, Work.zeroRegions_mem]
  cases h : inRegions m first n a with
  | true => exact cellAt_filter_dropped w.mem (f := fun x => !inRegions m first n x) (by rw [h, Bool.not_true])
  | false => exact cellAt_filter w.mem (fun x => !inRegions m first n x) a (by rw [h, Bool.not_false])

variable {m first n} {a : Nat} in
theorem Work.poisoned_zeroRegions (h : inRegions m first n a = true) : (w.zeroRegions m first n).poisoned a 1 = false := by
  have ha : a < apertureBase := (inRegions_iff.mp h).1
  unfold apertureBase at ha
  have hunit : poisonUnit a = a / 256 := if_pos (by omega)
  rw [Bool.eq_false_iff, Ne, Work.poisoned_byte, Work.zeroRegions_poison, List.mem_filter, hunit, inRegions_line, h,
    decide_eq_true (by omega)]
  simp

end

/-! A zeroisation's end, where nothing waits for it. -/

/-- The state that the end of a zeroisation leaves before what waited for it goes on. -/
def Work.zeroised (w : Work) (m first n : Nat) (whole : Bool) : Work :=
  (((w.zeroRegions m first n).setMemc m { w.memc m with zero := none, ready := (w.memc m).ready || whole }).incBy (ZERO_CNT m)
    (n + if whole then 32 else 0)).clrBit (MC_STATUS m) 0

theorem Work.zeroDone_eq {w : Work} {m first n : Nat} {whole : Bool} (h : (w.memc m).zero = some (first, n, whole)) :
    w.zeroDone m = w.zeroised m first n whole := by
  simp only [Work.zeroDone, h]
  rfl

theorem Work.unpark_of_empty {w : Work} (hp : w.parked = []) (hr : w.red = {}) (hl : w.links = []) : w.unpark = w := by
  have h : ({ w with parked := [] } : Work) = w := by rw [← hp]
  rw [Work.unpark, hp, List.foldl_nil, h, Work.redGo_of_empty hr hl]

theorem Work.runAccess_of_none {w : Work} (b : Board) (h : w.access.waits = []) : w.runAccess b = w := by
  rw [Work.runAccess, Work.accessCount, h]
  rfl

section
variable {s : State} {m : Fin 12}

theorem gives_zeroiseDone (halive : s.board.alive = true) {first n : Nat} {whole : Bool}
    (hz : (s.work.memc m.val).zero = some (first, n, whole)) (hwaits : s.work.access.waits = []) (hparked : s.work.parked = [])
    (hred : s.work.red = {}) (hlinks : s.work.links = []) :
    Gives (.zeroiseDone m) s (s.work.zeroised m.val first n whole) := by
  refine gives_of_run (execZeroiseDone.eq_1 m s) halive ?_
  rw [Work.zeroDone_eq hz, Work.unpark_of_empty (w := s.work.zeroised m.val first n whole) hparked hred hlinks,
    Work.runAccess_of_none (w := s.work.zeroised m.val first n whole) _ hwaits]

theorem leads_zeroiseDone (halive : s.board.alive = true) {first n : Nat} {whole : Bool}
    (hz : (s.work.memc m.val).zero = some (first, n, whole)) (hwaits : s.work.access.waits = []) (hparked : s.work.parked = [])
    (hred : s.work.red = {}) (hlinks : s.work.links = []) :
    Leads (.zeroiseDone m) s (fun w => (w.memc m.val).zero = none ∧ w.serves m.val = true ∧
      (whole = true → (w.memc m.val).ready = true) ∧
      w.rd (ZERO_CNT m.val) = min (s.work.rd (ZERO_CNT m.val) + n + (if whole then 32 else 0)) 0xFFFFFFFF ∧
      (∀ a, inRegions m.val first n a = true → w.byte a = 0 ∧ w.poisoned a 1 = false) ∧
      (∀ a, inRegions m.val first n a = false → w.byte a = s.work.byte a)) := by
  refine ⟨_, gives_zeroiseDone halive hz hwaits hparked hred hlinks, ?_⟩
  have hmemc : (s.work.zeroised m.val first n whole).memc m.val =
      { s.work.memc m.val with zero := none, ready := (s.work.memc m.val).ready || whole } := Work.memc_setMemc_same ..
  have hbyte : ∀ a, (s.work.zeroised m.val first n whole).byte a = if inRegions m.val first n a then 0 else s.work.byte a :=
    s.work.byte_zeroRegions m.val first n
  refine ⟨by rw [hmemc], ?_, ?_, ?_, fun a ha => ⟨?_, s.work.poisoned_zeroRegions ha⟩, fun a ha => ?_⟩
  · rw [Work.serves, Work.zeroised, Work.flag_clrBit_same _ _ _ (by decide), Bool.not_false]
  · rintro rfl
    rw [hmemc, Bool.or_true]
  · rw [Work.zeroised, Work.rd_clrBit_ne _ _ _ (by simp [ZERO_CNT, MC_STATUS]), Work.rd_incBy_same, ← Nat.add_assoc]
    rfl
  · rw [hbyte, ha, if_pos rfl]
  · rw [hbyte, ha, if_neg (by simp)]

end

/-! A region at its limit (R306). -/

section
variable {s : State} {m : Fin 12} {r : Nat}

/-- A region put at the end of the retirement list. -/
def Work.regionListed (w : Work) (m r : Nat) : Work := w.setMemc m { w.memc m with retired := (w.memc m).retired ++ [r] }

/-- What a region's entry into the retirement list comes to. -/
theorem gives_regionRetire (halive : s.board.alive = true) (hr : r < 32768) {lim : Nat}
    (hlim : orDefault (s.work.fld (CE_LIM m.val) 0 16) 1 = lim) :
    Gives (.regionRetire m r) s
      (if Sp.get (s.work.memc m.val).counts 0 r < lim ∨ r ∈ (s.work.memc m.val).retired then s.work
      else if 64 ≤ (s.work.memc m.val).retired.length then s.work.setBit (MC_STATUS m.val) 7
      else (s.work.regionListed m.val r).report 2 0 ((s.work.regionListed m.val r).stackRecord m.val)) := by
  refine gives_of_run (execRegionRetire.eq_1 m r s) halive ?_
  have hcut : ¬ 32768 ≤ r := by omega
  simp only [hcut, decide_false, Bool.or_false, Bool.or_eq_true, decide_eq_true_eq, List.contains_iff_mem, hlim]
  rfl

end

/-- Settles O23: the three outcomes of a region's report, a start by the register's fields, and the end, which filters the range out of
memory and its marks. -/
theorem regionsRetireAndZeroise : Obligations.RegionsRetireAndZeroise := by
  unfold Obligations.RegionsRetireAndZeroise
  refine ⟨?retire, ?start, ?done⟩
  case retire =>
    intro s m r halive hr k lim
    have hgives := gives_regionRetire (m := m) (lim := lim) halive hr rfl
    simp only [show s.work.memc m.val = k from rfl] at hgives
    refine ⟨fun hlow => ?_, fun hlim hnew hroom => ?_, fun hlim hnew hfull => ?_⟩
    · rwa [if_pos hlow] at hgives
    · rw [if_neg (not_or.mpr ⟨Nat.not_lt.mpr hlim, hnew⟩), if_neg (Nat.not_le.mpr hroom)] at hgives
      refine ⟨_, hgives, ?_⟩
      have hsends := Work.report_sendsOnly (s.work.regionListed m.val r) 2 0 ((s.work.regionListed m.val r).stackRecord m.val)
      have hmemc := (Work.memc_congr (congrArg Work.memcs hsends :) m.val).trans (Work.memc_setMemc_same ..)
      exact ⟨(congrArg Memc.retired hmemc :), (congrArg Memc.counts hmemc :), (congrArg Work.mem hsends :), (congrArg Work.poison hsends :)⟩
    · rwa [if_neg (not_or.mpr ⟨Nat.not_lt.mpr hlim, hnew⟩), if_pos hfull] at hgives
  case start =>
    intro s p m halive hw lo
    refine ⟨fun hserve => ?_, fun hserve => ?_⟩ <;>
      refine gives_of_run (execZeroGo.eq_1 p m s) halive ((Work.onBus_done hw _).trans ?_) <;>
      rw [Work.writeMcCtl, hserve]
    · rfl
    · rfl
  case done =>
    intro s m lo n whole halive hz hwaits hparked hred hlinks
    obtain ⟨w, hgives, hzero, hserve, hready, hcount, hin, hout⟩ := leads_zeroiseDone halive hz hwaits hparked hred hlinks
    refine ⟨w, hgives, hzero, hserve, hready, hcount, fun a ha hm h1 h2 => ?_, fun a ha => ?_⟩
    · exact hin a (inRegions_iff.mpr ⟨ha, hm, h1, h2⟩)
    · exact hout a (Bool.eq_false_iff.mpr fun h => ha (inRegions_iff.mp h))

end Sys2Proof.Machine
end

section
/-! ### Packets taken in their flows (R342)

What an acknowledgement due leaves beside its flow, and what becomes of a packet in its turn by its effect's answer. -/

namespace Sys2Proof.Machine

/-- A packet was taken in its flow: beside the receive flows only what an acknowledgement or NAK changes differs. -/
structure Work.Acked (w v : Work) : Prop where
  routed : ({ w with rxFlows := v.rxFlows }).Routed (fun q => reliableType q.type = false) v
  sends : w.SendKept v

theorem Work.Routed.withRx {Q : Packet → Prop} {w v : Work} (h : w.Routed Q v) (x : Sp RxFlow) :
    ({ w with rxFlows := x }).Routed Q { v with rxFlows := x } where
  rest := by
    rw [h.rest]
  fault := h.fault
  held := h.held
  ctxs := h.ctxs
  queue := h.queue
  out := h.out

namespace Work.Acked

variable {u v w : Work}

theorem trans (h : u.Acked v) (k : v.Acked w) : u.Acked w :=
  ⟨(h.routed.withRx w.rxFlows).trans k.routed, h.sends.trans k.sends⟩

theorem rest (h : w.Acked v) :
    v = { w with regs := v.regs, out := v.out, fault := v.fault, links := v.links, rxFlows := v.rxFlows } := h.routed.rest

theorem mem (h : w.Acked v) : v.mem = w.mem := h.routed.mem
theorem poison (h : w.Acked v) : v.poison = w.poison := h.routed.poison
theorem memcs (h : w.Acked v) : v.memcs = w.memcs := h.routed.memcs
theorem tx (h : w.Acked v) : v.txFlows = w.txFlows := h.routed.tx
theorem red (h : w.Acked v) : v.red = w.red := h.routed.red
theorem rd (h : w.Acked v) {a : Nat} (ha : a < linkBase 0) : v.rd a = w.rd a := h.sends.rd ha
theorem poisoned (h : w.Acked v) (a n : Nat) : v.poisoned a n = w.poisoned a n := Work.poisoned_congr h.poison a n

end Work.Acked

@[simp] theorem Work.rxFlow_setRx_same (w : Work) (p : Packet) (f : RxFlow) : (w.setRx p f).rxFlow p = f := Sp.get_put_same ..

theorem Work.rxFlow_congr {v w : Work} (h : v.rxFlows = w.rxFlows) (p : Packet) : v.rxFlow p = w.rxFlow p := by
  rw [Work.rxFlow, h, Work.rxFlow]

theorem Work.setRx_sendKept (w : Work) (p : Packet) (f : RxFlow) : w.SendKept (w.setRx p f) := ⟨fun _ _ => rfl, rfl, rfl, rfl, rfl, rfl, rfl⟩

theorem Work.setRx_acked (w : Work) (p : Packet) (f : RxFlow) : w.Acked (w.setRx p f) := ⟨.refl _, w.setRx_sendKept p f⟩

/-- An answer after a change of the flow. -/
theorem Work.setRx_answer_acked (w : Work) (p : Packet) (f : RxFlow) {type : Nat} (ht : reliableType type = false) (psn code : Nat) :
    w.Acked ((w.setRx p f).answer p type psn code) := by
  have hrouted := (w.setRx p f).answer_routed (Q := fun q => reliableType q.type = false) p (type := type) (psn := psn)
    (code := code) fun q hq => hq ▸ ht
  refine ⟨?_, (w.setRx_sendKept p f).trans (Work.sendRouted_sendKept _ _)⟩
  rw [hrouted.rx]
  exact hrouted

theorem Work.rxFlow_answer (w : Work) (p : Packet) (type psn code : Nat) : (w.answer p type psn code).rxFlow p = w.rxFlow p :=
  Work.rxFlow_congr (w.answer_routed (Q := fun _ => True) p (type := type) fun _ _ => trivial).rx p

theorem Work.ackDue_next (w : Work) (p : Packet) : ((w.ackDue p).rxFlow p).next = (w.rxFlow p).next := by
  unfold Work.ackDue
  dsimp only
  split
  · rw [Work.rxFlow_answer, Work.rxFlow_setRx_same]
  · rw [Work.rxFlow_setRx_same]

theorem Work.ackDue_acked (w : Work) (p : Packet) : w.Acked (w.ackDue p) := by
  unfold Work.ackDue
  dsimp only
  split
  · exact w.setRx_answer_acked p _ rfl _ _
  · exact w.setRx_acked p _

theorem Work.settled_acked (w v : Work) (p : Packet) : v.Acked (w.settled v p) := by
  unfold Work.settled
  split
  · exact ⟨.refl v, .refl v⟩
  · exact (v.setRx_acked p _).trans (Work.ackDue_acked _ p)

theorem Work.settled_next (w v : Work) {p : Packet} (ht : reliableType p.type = true) (hu : untracked p = false) :
    ((w.settled v p).rxFlow p).next = ((w.rxFlow p).next + 1) % 2 ^ 32 := by
  rw [Work.settled, if_neg (by simp [ht, hu]), Work.ackDue_next, Work.rxFlow_setRx_same]

/-! What the effect's answer does with a packet in its turn. -/

section
variable {w : Work} {k : Nat} {p : Packet} {f : Work → Work × Nat}

theorem untracked_of_type {p : Packet} (h : p.type ≠ 6) : untracked p = false := by simp [untracked, h]

theorem Work.receiveMem_served (h : w.packetServed p = true) : w.receiveMem k p f = w.receive p f := by
  unfold Work.receiveMem Work.receive
  cases w.accepts p <;> simp [h]

theorem Work.receiveMem_waits (ha : w.accepts p = true) (h : w.packetServed p = false) :
    w.receiveMem k p f = w.park (w.issuer (1040 + k)) (.packet p) := by
  simp [Work.receiveMem, ha, h]

/-- A packet that its effect answers with NAK CHECK or REFUSED stays the next of its flow. -/
theorem Work.receive_again (ha : w.accepts p = true) (ht : reliableType p.type = true) (hu : untracked p = false)
    (hn : p.psn = (w.rxFlow p).next) (h0 : (f w).2 ≠ 0) (h4 : (f w).2 ≠ 4) : w.receive p f = (f w).1.answer p 3 p.psn (f w).2 := by
  simp [Work.receive, ha, Work.inOrder, ht, hu, hn, h0, h4]

end

end Sys2Proof.Machine
end

section
/-! ### Blocks and reads in flows (R315, R316, R337, R338)

A DATA or READ_RESP packet stores its block of 4,096 bytes with a mark for each line of its poison map; a READ_REQ sends its blocks
on the requester's queue. -/

namespace Sys2Proof.Machine

/-! The marks of a block of whole lines in the stacks. -/

section
variable {w : Work} {b : Block} {all : Bool} (hin : inStacks b.dest b.data.length = true) (he : b.eight = none)
  (ha : b.dest % 256 = 0) (hn : b.data.length % 256 = 0)
include hin he ha hn

theorem Work.mem_putPart_poison (v : Work) {i : Nat} (hi : 256 * i < b.data.length) (l : Nat) :
    l ∈ (v.putPart b all i).poison ↔
      if l = b.dest / 256 + i then (all || b.poisonMap.testBit i) = true else l ∈ v.poison := by
  have hend : b.dest + b.data.length ≤ apertureBase := of_decide_eq_true hin
  have htop : apertureBase ≤ 2 ^ 40 := by decide
  have hlen : (blockPart b i).length = 256 := by rw [blockPart_length]; omega
  rw [Work.putPart_poison ⟨fun _ => hin, fun h => absurd he h⟩ v hi]
  cases hp : all || b.poisonMap.testBit i with
  | true =>
    rw [Work.put_true_poison, Work.mem_mark, hlen, mem_poisonUnits (by omega)]
    split <;> simp <;> omega
  | false =>
    rw [Work.put_false_poison, hlen, Work.mem_unmark (by omega) (by omega)]
    split <;> simp <;> omega

theorem Work.putBlock_marks {i : Nat} (hi : 256 * i < b.data.length) :
    (w.putBlock b all).poisoned (b.dest + 256 * i) 256 = (all || b.poisonMap.testBit i) := by
  have hend : b.dest + b.data.length ≤ apertureBase := of_decide_eq_true hin
  have htop : apertureBase ≤ 2 ^ 40 := by decide
  have hmarks := foldl_attains (f := Work.putPart b all) (l := List.range (ceilDiv b.data.length 256))
    (P := fun i v => b.dest / 256 + i ∈ v.poison ↔ (all || b.poisonMap.testBit i) = true) (fun v j hj => ?_) (fun v j hj r _ hr => ?_) w
    i (List.mem_range.mpr ((lt_ceilDiv_256 _ _).mpr hi))
  · rw [show b.dest + 256 * i = 256 * (b.dest / 256 + i) by omega, Work.poisoned_line (by omega), Bool.eq_iff_iff,
      List.contains_iff_mem]
    exact hmarks
  · rw [List.mem_range, lt_ceilDiv_256] at hj
    rw [Work.mem_putPart_poison hin he ha hn v hj, if_pos rfl]
  · rw [List.mem_range, lt_ceilDiv_256] at hj
    rw [Work.mem_putPart_poison hin he ha hn v hj]
    split
    · rename_i h
      rw [Nat.add_left_cancel h]
    · exact hr

end

/-! A block that a packet carries. -/

section
variable {w : Work} {p : Packet}

theorem dataOk_dest (h : dataOk p = true) : beAt p.payload 0 8 % 4096 = 0 ∧ beAt p.payload 0 8 + 4096 ≤ apertureBase := by
  simp only [dataOk, Bool.and_eq_true, beq_iff_eq, decide_eq_true_eq] at h
  unfold apertureBase at *
  omega

theorem blockOf_data (p : Packet) : (blockOf p).data = sub p.payload 16 4096 := by simp only [blockOf]

theorem blockOf_length (p : Packet) : (blockOf p).data.length = 4096 := by rw [blockOf_data, sub_length]

theorem blockOf_inStacks (h : dataOk p = true) : inStacks (blockOf p).dest (blockOf p).data.length = true := by
  rw [blockOf_length]
  exact decide_eq_true (dataOk_dest h).2

theorem blockOf_placed (h : dataOk p = true) : BlockPlaced (blockOf p) := ⟨fun _ => blockOf_inStacks h, fun hne => absurd rfl hne⟩

theorem Work.putBlockOf_marks (h : dataOk p = true) (all : Bool) {i : Nat} (hi : i < 16) :
    (w.putBlock (blockOf p) all).poisoned (beAt p.payload 0 8 + 256 * i) 256 = (all || (blockOf p).poisonMap.testBit i) := by
  have hdest : (blockOf p).dest % 4096 = 0 := (dataOk_dest h).1
  exact Work.putBlock_marks (blockOf_inStacks h) rfl (by omega) (by rw [blockOf_length]) (by rw [blockOf_length]; omega)

/-- The counters of blocks are not those of merged lines. -/
theorem Work.rd_putBlock {b : Block} (h : BlockPlaced b) (all : Bool) {a : Nat}
    (ha : ∀ m < 12, a ≠ POISON_RD_CNT m ∧ a ≠ RMW_POISON_CNT m) : (w.putBlock b all).rd a = w.rd a :=
  (Work.putBlock_stored h).rd a ha

/-! The effect of the packet by its check. -/

theorem Work.takeData_stored (h : dataOk p = true) (hok : blockChecks (blockOf p) = true) :
    w.takeData p = ((w.putBlock (blockOf p) false).when (w.rxFlow p).retry
      (·.transient (TBLK_RETRY_CNT (stackOf (beAt p.payload 0 8)).1)), 0) := (if_pos h).trans (if_pos hok)

theorem Work.takeData_refused (h : dataOk p = true) (hok : blockChecks (blockOf p) = false) (hr : (w.rxFlow p).retry = false) :
    w.takeData p = (w.setRx p { w.rxFlow p with retry := true }, 2) := by
  simp [Work.takeData, h, Work.takeBlock, hok, hr]

/-- The state in which a block that failed twice is logged. -/
def Work.blockLost (w : Work) (p : Packet) : Work :=
  ((w.putBlock (blockOf p) true).inc (TBLK_FAIL_CNT (stackOf (blockOf p).dest).1)).setBit (MC_ERR (stackOf (blockOf p).dest).1) 2

theorem Work.takeData_lost (h : dataOk p = true) (hok : blockChecks (blockOf p) = false) (hr : (w.rxFlow p).retry = true) :
    ∃ r crews, w.takeData p = ((w.blockLost p).lasting r (some 10) crews, 0) := by
  simp only [Work.takeData, h, Work.takeBlock, hok, hr, if_true, Bool.false_eq_true, if_false, Bool.not_true]
  exact ⟨_, _, rfl⟩

end

/-! The command. -/

section
variable {s : State} {k : Fin 40} {p : Packet} {cmd : Instr}

/-- A packet of a block in its turn reaches the controllers. -/
theorem gives_block {t : Nat} (hcmd : cmd = .data k p ∧ t = 0 ∨ cmd = .readResp k p ∧ t = 11) (hr : s.Receives k p t) {w : Work}
    (hw : s.work.receiveMem k.val p (·.takeData p) = w) : Gives cmd s w := by
  obtain ⟨halive, harr, -, -⟩ := hr
  rcases hcmd with ⟨rfl, rfl⟩ | ⟨rfl, rfl⟩
  · exact gives_of_run (execData.eq_1 k p s) halive ((if_pos harr).trans hw)
  · exact gives_of_run (execReadResp.eq_1 k p s) halive ((if_pos harr).trans hw)

theorem arrives_type {w : Work} {k t : Nat} (h : w.arrives k p t = true) : p.type = t := by
  simp only [Work.arrives, Bool.and_eq_true, beq_iff_eq] at h
  exact h.1.2

variable {t : Nat} (hcmd : cmd = .data k p ∧ t = 0 ∨ cmd = .readResp k p ∧ t = 11) (hr : s.Receives k p t) (hok : dataOk p = true)
include hcmd hr

/-- Such a packet is of a reliable type, tracked, and so the next of its flow. -/
theorem block_next : reliableType p.type = true ∧ untracked p = false ∧ p.psn = (s.work.rxFlow p).next := by
  obtain ⟨-, harr, -, hn⟩ := hr
  have ht : p.type = 0 ∨ p.type = 11 := by
    rw [arrives_type harr]
    exact hcmd.imp And.right And.right
  have hrel : reliableType p.type = true := by rcases ht with h | h <;> rw [h] <;> rfl
  have hu : untracked p = false := untracked_of_type (by omega)
  exact ⟨hrel, hu, by simpa [hrel, hu] using hn⟩

variable (hserved : s.work.packetServed p = true)
include hserved hok

theorem leads_block_stored (hsum : blockChecks (blockOf p) = true) :
    Leads cmd s (fun w => w.bytes (beAt p.payload 0 8) 4096 = sub p.payload 16 4096 ∧
      (∀ a, a < beAt p.payload 0 8 ∨ beAt p.payload 0 8 + 4096 ≤ a → w.byte a = s.work.byte a) ∧
      (w.rxFlow p).next = ((s.work.rxFlow p).next + 1) % 2 ^ 32 ∧
      w.rd (TBLK_RETRY_CNT (stackOf (beAt p.payload 0 8)).1) =
        min (s.work.rd (TBLK_RETRY_CNT (stackOf (beAt p.payload 0 8)).1) + if (s.work.rxFlow p).retry then 1 else 0) 0xFFFFFFFF ∧
      (∀ i < 16, w.poisoned (beAt p.payload 0 8 + 256 * i) 256 = (blockOf p).poisonMap.testBit i)) := by
  obtain ⟨hrel, hu, -⟩ := block_next hcmd hr
  have hplace := blockOf_placed hok
  have htake := Work.takeData_stored (w := s.work) hok hsum
  set m := (stackOf (beAt p.payload 0 8)).1 with hm
  have hm12 : m < 12 := stackOf_lt _
  set u := s.work.putBlock (blockOf p) false with hu'
  set v := u.when (s.work.rxFlow p).retry (·.transient (TBLK_RETRY_CNT m)) with hv
  refine ⟨s.work.settled v p, gives_block hcmd hr ?_, ?_⟩
  · rw [Work.receiveMem_served hserved, Work.receive_taken hr.2.2.1 hr.2.2.2 _ (by rw [htake]), htake]
  have hack := s.work.settled_acked v p
  have hframe : v = { u with regs := v.regs } := by
    rw [hv]
    cases (s.work.rxFlow p).retry <;> rfl
  have hmem : (s.work.settled v p).mem = u.mem := hack.mem.trans (congrArg Work.mem hframe :)
  have hpoison : v.poison = u.poison := (congrArg Work.poison hframe :)
  refine ⟨?_, fun a ha => ?_, s.work.settled_next v hrel hu, ?_, fun i hi => ?_⟩
  · have h := Work.putBlock_bytes (w := s.work) (all := false) hplace
    rw [blockOf_length, blockOf_data] at h
    rw [Work.bytes_congr hmem]
    exact h
  · rw [Work.byte_congr hmem]
    refine Work.putBlock_byte_apart hplace ?_
    rw [blockOf_length, show (blockOf p).dest = beAt p.payload 0 8 from rfl]
    omega
  · have hbelow : TBLK_RETRY_CNT m < linkBase 0 := (memcBase_lt hm12 (o := 0x58) (by decide)).1
    have hcount : u.rd (TBLK_RETRY_CNT m) = s.work.rd (TBLK_RETRY_CNT m) := Work.rd_putBlock hplace false fun n hn => by
      unfold TBLK_RETRY_CNT POISON_RD_CNT RMW_POISON_CNT memcBase
      omega
    have hlt := s.work.rd_lt (TBLK_RETRY_CNT m)
    rw [hack.rd hbelow, hv]
    cases (s.work.rxFlow p).retry with
    | true =>
      rw [Work.when_true, Work.transient, Work.rd_inc_ne _ _ (by unfold TBLK_RETRY_CNT TRANSIENT_CNT memcBase; omega),
        Work.rd_inc_same, hcount]
      rfl
    | false =>
      rw [Work.when_false, hcount]
      simp only [Bool.false_eq_true, if_false]
      omega
  · rw [hack.poisoned, Work.poisoned_congr hpoison, hu', Work.putBlockOf_marks hok false hi, Bool.false_or]

theorem gives_block_refused (hsum : blockChecks (blockOf p) = false) (hfirst : (s.work.rxFlow p).retry = false) :
    Gives cmd s ((s.work.setRx p { s.work.rxFlow p with retry := true }).answer p 3 p.psn 2) := by
  obtain ⟨hrel, hu, hn⟩ := block_next hcmd hr
  have htake := Work.takeData_refused hok hsum hfirst
  refine gives_block hcmd hr ?_
  rw [Work.receiveMem_served hserved, Work.receive_again hr.2.2.1 hrel hu hn (by rw [htake]; simp) (by rw [htake]; simp), htake]

theorem leads_block_lost (hsum : blockChecks (blockOf p) = false) (hsecond : (s.work.rxFlow p).retry = true) :
    Leads cmd s (fun w => (∀ i < 16, w.poisoned (beAt p.payload 0 8 + 256 * i) 256 = true) ∧
      w.rd LASTING_CNT = min (s.work.rd LASTING_CNT + 1) 0xFFFFFFFF ∧
      (w.rxFlow p).next = ((s.work.rxFlow p).next + 1) % 2 ^ 32) := by
  obtain ⟨hrel, hu, -⟩ := block_next hcmd hr
  obtain ⟨r, crews, htake⟩ := Work.takeData_lost hok hsum hsecond
  have hm := stackOf_lt (blockOf p).dest
  set v := (s.work.blockLost p).lasting r (some 10) crews with hv
  refine ⟨s.work.settled v p, gives_block hcmd hr ?_, fun i hi => ?_, ?_, s.work.settled_next v hrel hu⟩
  · rw [Work.receiveMem_served hserved, Work.receive_taken hr.2.2.1 hr.2.2.2 _ (by rw [htake]), htake]
  · rw [(s.work.settled_acked v p).poisoned,
      Work.poisoned_congr (v := v) (w := s.work.blockLost p) (congrArg Work.poison (Work.lasting_sendsOnly _ r 10 crews) :)]
    exact (Work.putBlockOf_marks hok true hi).trans (Bool.true_or _)
  · have herr : LASTING_CNT ≠ MC_ERR (stackOf (blockOf p).dest).1 := by
      unfold LASTING_CNT MC_ERR memcBase
      omega
    have hfail : LASTING_CNT ≠ TBLK_FAIL_CNT (stackOf (blockOf p).dest).1 := by
      unfold LASTING_CNT TBLK_FAIL_CNT memcBase
      omega
    have hmerge : ∀ n < 12, LASTING_CNT ≠ POISON_RD_CNT n ∧ LASTING_CNT ≠ RMW_POISON_CNT n := by
      intro n _
      unfold LASTING_CNT POISON_RD_CNT RMW_POISON_CNT memcBase
      omega
    rw [(s.work.settled_acked v p).rd (by decide), Work.rd_lasting _ _ _ _ (by decide) (by decide), Work.rd_inc_same, Work.blockLost,
      Work.rd_setBit_ne _ _ _ herr, Work.rd_inc_ne _ _ hfail, Work.rd_putBlock (blockOf_placed hok) true hmerge]

end

end Sys2Proof.Machine
end

section
/-! ### Blocks read for another device (R338) -/

namespace Sys2Proof.Machine

/-- What a block sent is seen by: its type, destination, whether it is the last of its message, and its payload. -/
def blockSeen (u : Nat × Packet) : Nat × Nat × Bool × List Byte := (u.2.type, u.2.dst, u.2.flags.testBit 4, u.2.payload)

/-- A flow that takes packets at once: it is live, none waits, and those unacknowledged are seen as a list. -/
def Work.FlowSends (w : Work) (key : Nat) (l : List (Nat × Nat × Bool × List Byte)) : Prop :=
  ∀ j g, (Sp.get w.txFlows { job := j, gen := g } key).abandoned = false ∧ (Sp.get w.txFlows { job := j, gen := g } key).waiting = [] ∧
    (Sp.get w.txFlows { job := j, gen := g } key).unacked.map blockSeen = l

theorem Work.flowSends_of_none {w : Work} {key : Nat} (h : Sp.find w.txFlows key = none) : w.FlowSends key [] := by
  intro j g
  rw [Sp.get, h]
  exact ⟨rfl, rfl, rfl⟩

/-- Such a flow with a packet unacknowledged is listed. -/
theorem Work.FlowSends.find {w : Work} {key : Nat} {l : List (Nat × Nat × Bool × List Byte)} (h : w.FlowSends key l) (hne : l ≠ []) :
    ∃ f, Sp.find w.txFlows key = some f ∧ f.unacked.map blockSeen = l := by
  obtain ⟨-, -, hl⟩ := h 0 0
  cases hf : Sp.find w.txFlows key with
  | some f =>
    rw [Sp.get, hf] at hl
    exact ⟨f, rfl, hl⟩
  | none =>
    rw [Sp.get, hf] at hl
    exact absurd hl.symm hne

/-- A reliable packet on such a flow goes at once, the last of those unacknowledged. -/
theorem Work.FlowSends.send {w : Work} {p : Packet} {l : List (Nat × Nat × Bool × List Byte)} (h : w.FlowSends (flowKey p.dst p.wq) l)
    (hlen : l.length < 256) (hrel : reliableType p.type = true) (hu : untracked p = false) :
    (w.send p).FlowSends (flowKey p.dst p.wq) (l ++ [(p.type, p.dst, p.flags.testBit 4, p.payload)]) := by
  obtain ⟨hlive, hwait, hl⟩ := h p.job p.gen
  have hroom : (Sp.get w.txFlows { job := p.job, gen := p.gen } (flowKey p.dst p.wq)).unacked.length < 256 := by
    rwa [← List.length_map (f := blockSeen), hl]
  have hsend : w.send p = w.first (flowKey p.dst p.wq) (Sp.get w.txFlows { job := p.job, gen := p.gen } (flowKey p.dst p.wq)) p := by
    simp [Work.send, hrel, hu, Work.sendFlow, hlive, hwait, hroom]
  intro j g
  rw [hsend, Work.first, (Work.sendRouted_routed (Q := fun _ => True) _ trivial).tx, Sp.get_put_same]
  refine ⟨hlive, hwait, ?_⟩
  rw [List.map_append, hl]
  rfl

/-! One block, and the blocks of a request in order. -/

/-- Memory, its marks and the receive flows, which the blocks sent leave. -/
def Work.SameBlocks (w v : Work) : Prop := v.mem = w.mem ∧ v.poison = w.poison ∧ v.rxFlows = w.rxFlows

theorem Work.blockPayload_congr {w v : Work} (h : w.SameBlocks v) (src dest : Nat) : v.blockPayload src dest = w.blockPayload src dest := by
  obtain ⟨hmem, hpoison, -⟩ := h
  simp only [Work.blockPayload, Work.bytes_congr hmem, Work.mapOf, Work.poisoned_congr hpoison]

/-- The packet that carries a block of a READ_RESP. -/
def Work.respPkt (w : Work) (node job crew wq : Nat) (last : Bool) (src dest : Nat) : Packet :=
  if last then w.mkPkt 11 node job crew wq 0 (w.blockPayload src dest)
  else { w.mkPkt 11 node job crew wq 0 (w.blockPayload src dest) with flags := 0 }

theorem Work.respPkt_seen (w : Work) (node job crew wq : Nat) (last : Bool) (src dest : Nat) :
    let p := w.respPkt node job crew wq last src dest
    p.type = 11 ∧ p.dst = node ∧ p.wq = wq ∧ p.flags.testBit 4 = last ∧ p.payload = w.blockPayload src dest := by
  cases last with
  | true =>
    refine ⟨rfl, rfl, rfl, ?_, rfl⟩
    change (putBits 0 4 1 (if [2, 3, 8].contains 11 then 0 else 1)).testBit 4 = true
    decide
  | false => exact ⟨rfl, rfl, rfl, Nat.zero_testBit 4, rfl⟩

theorem Work.sendMem_eq (w : Work) (node job crew wq : Nat) (last : Bool) (src dest : Nat) :
    w.sendMem 11 node job crew wq last src dest = (w.readsStack src 4096).send (w.respPkt node job crew wq last src dest) := rfl

theorem Work.sendMem_same (w : Work) (node job crew wq : Nat) (last : Bool) (src dest : Nat) :
    w.SameBlocks (w.sendMem 11 node job crew wq last src dest) := by
  have hsent := Work.send_sendsOnly (w.readsStack src 4096) (w.respPkt node job crew wq last src dest)
  rw [Work.sendMem_eq, hsent, Work.readsStack_frame]
  exact ⟨rfl, rfl, rfl⟩

theorem Work.FlowSends.sendMem {w : Work} {node wq : Nat} {l : List (Nat × Nat × Bool × List Byte)}
    (h : w.FlowSends (flowKey node wq) l) (hlen : l.length < 256) (job crew : Nat) (last : Bool) (src dest : Nat) :
    (w.sendMem 11 node job crew wq last src dest).FlowSends (flowKey node wq) (l ++ [(11, node, last, w.blockPayload src dest)]) := by
  obtain ⟨htype, hdst, hwq, hflag, hpay⟩ := w.respPkt_seen node job crew wq last src dest
  have hread : (w.readsStack src 4096).FlowSends (flowKey node wq) l := by
    rw [Work.readsStack_frame]
    exact h
  have hsent := Work.FlowSends.send (w := w.readsStack src 4096) (p := w.respPkt node job crew wq last src dest) (l := l)
    (by rwa [hdst, hwq]) hlen (by rw [htype]; rfl) (untracked_of_type (by rw [htype]; decide))
  rwa [hdst, hwq, htype, hflag, hpay] at hsent

/-- The first blocks of a request of `total`, sent. -/
def Work.readSent (w : Work) (p : Packet) (total n : Nat) : Work :=
  (List.range n).foldl (fun (v : Work) i => v.sendMem 11 p.src p.job p.crew (beAt p.payload 12 2) (i + 1 == total)
    (beAt p.payload 0 8 + 4096 * i) (beAt p.payload 16 8 + 4096 * i)) w

theorem Work.readSent_spec {w : Work} {p : Packet} (h : Sp.find w.txFlows (flowKey p.src (beAt p.payload 12 2)) = none)
    (total : Nat) {n : Nat} (hn : n ≤ 256) : w.SameBlocks (w.readSent p total n) ∧
      (w.readSent p total n).FlowSends (flowKey p.src (beAt p.payload 12 2)) ((List.range n).map (fun i =>
        (11, p.src, i + 1 == total, w.blockPayload (beAt p.payload 0 8 + 4096 * i) (beAt p.payload 16 8 + 4096 * i)))) := by
  induction n with
  | zero => exact ⟨⟨rfl, rfl, rfl⟩, Work.flowSends_of_none h⟩
  | succ n ih =>
    obtain ⟨hsame, hflow⟩ := ih (by omega)
    have hlast := Work.FlowSends.sendMem hflow (by rw [List.length_map, List.length_range]; omega) p.job p.crew (n + 1 == total)
      (beAt p.payload 0 8 + 4096 * n) (beAt p.payload 16 8 + 4096 * n)
    have hkept := (w.readSent p total n).sendMem_same p.src p.job p.crew (beAt p.payload 12 2) (n + 1 == total)
      (beAt p.payload 0 8 + 4096 * n) (beAt p.payload 16 8 + 4096 * n)
    obtain ⟨hmem, hpoison, hrx⟩ := hkept
    rw [Work.blockPayload_congr hsame] at hlast
    rw [Work.readSent, List.range_succ, List.foldl_append, List.map_append]
    exact ⟨⟨hmem.trans hsame.1, hpoison.trans hsame.2.1, hrx.trans hsame.2.2⟩, hlast⟩

theorem readOk_count {p : Packet} (h : readOk p = true) : 1 ≤ beAt p.payload 8 4 ∧ beAt p.payload 8 4 ≤ 256 := by
  simp only [readOk, Bool.and_eq_true, decide_eq_true_eq] at h
  obtain ⟨⟨⟨⟨⟨-, h1⟩, h2⟩, -⟩, -⟩, -⟩ := h
  exact ⟨h1, h2⟩

theorem leads_readReq {s : State} {k : Fin 40} {p : Packet} (hr : s.Receives k p 10) (hok : readOk p = true)
    (hserved : s.work.packetServed p = true) (hnone : Sp.find s.work.txFlows (flowKey p.src (beAt p.payload 12 2)) = none) :
    Leads (.readReq k p) s (fun w => w.mem = s.work.mem ∧ (w.rxFlow p).next = ((s.work.rxFlow p).next + 1) % 2 ^ 32 ∧
      ∃ f, Sp.find w.txFlows (flowKey p.src (beAt p.payload 12 2)) = some f ∧ f.unacked.map blockSeen =
        (List.range (beAt p.payload 8 4)).map (fun i => (11, p.src, i + 1 == beAt p.payload 8 4,
          s.work.blockPayload (beAt p.payload 0 8 + 4096 * i) (beAt p.payload 16 8 + 4096 * i)))) := by
  obtain ⟨halive, harr, hacc, hn⟩ := hr
  have htype : p.type = 10 := arrives_type harr
  obtain ⟨hpos, hmax⟩ := readOk_count hok
  set total := beAt p.payload 8 4 with htotal
  obtain ⟨hsame, hflow⟩ := Work.readSent_spec hnone total hmax
  have htake : s.work.takeReadReq p = (s.work.readSent p total total, 0) := if_neg (by simp [hok])
  refine ⟨s.work.settled (s.work.readSent p total total) p, gives_of_run (execReadReq.eq_1 k p s) halive ((if_pos harr).trans ?_),
    ?_, ?_, ?_⟩
  · rw [Work.receiveMem_served hserved, Work.receive_taken hacc hn _ (by rw [htake]), htake]
  · exact (s.work.settled_acked _ p).mem.trans hsame.1
  · exact s.work.settled_next _ (by rw [htype]; rfl) (untracked_of_type (by rw [htype]; decide))
  · rw [(s.work.settled_acked _ p).tx]
    refine hflow.find ?_
    rw [Ne, List.map_eq_nil_iff, List.range_eq_nil]
    omega

end Sys2Proof.Machine
end

section
/-! ### Acknowledgements, resends and timers (R342, R343) -/

namespace Sys2Proof.Machine

/-! A flow's packets up to a PSN delivered. -/

theorem drainFlow_sends (n key : Nat) (w : Work) : w.SendsOnly (drainFlow n key w) ∧ w.SendKept (drainFlow n key w) := by
  induction n generalizing w with
  | zero => exact ⟨.refl w, .refl w⟩
  | succ n ih =>
    unfold drainFlow
    split
    · exact ⟨.refl w, .refl w⟩
    · rename_i f _
      split
      · exact ⟨.refl w, .refl w⟩
      · rename_i p ps _
        split
        · obtain ⟨h1, h2⟩ := ih (w.first key { f with waiting := ps } p)
          exact ⟨(w.first_sendsOnly key _ p).trans h1, (w.first_sendKept key _ p).trans h2⟩
        · exact ⟨.refl w, .refl w⟩

theorem Work.delivered_sends (w : Work) (key psn : Nat) : w.SendsOnly (w.delivered key psn) ∧ w.SendKept (w.delivered key psn) := by
  unfold Work.delivered
  split
  · exact ⟨.refl w, .refl w⟩
  · dsimp only
    split
    · exact ⟨.refl w, .refl w⟩
    · exact ⟨(Work.SendsOnly.txFlows w _).trans (drainFlow_sends _ key _).1, (w.txFlows_sendKept _).trans (drainFlow_sends _ key _).2⟩

theorem Work.delivered_freed {w : Work} {key psn : Nat} {f : TxFlow} (hf : Sp.find w.txFlows key = some f) (hwait : f.waiting = [])
    (hsome : ∃ u ∈ f.unacked, psnUpTo u.2.psn psn = true) : w.delivered key psn = { w with
      txFlows := Sp.put w.txFlows key { f with unacked := f.unacked.filter (fun u => !psnUpTo u.2.psn psn), timeouts := 0, since := w.now } } := by
  obtain ⟨u, hu, hcov⟩ := hsome
  have hfewer : (f.unacked.filter (fun u => !psnUpTo u.2.psn psn)).length ≠ f.unacked.length := fun h => by
    have hall := List.filter_eq_self.mp (List.filter_sublist.eq_of_length h) u hu
    simp [hcov] at hall
  simp only [Work.delivered, hf, if_neg hfewer, hwait, List.length_nil, drainFlow]

/-! A flow's packets sent again. -/

/-- A packet sent again bears RETX. -/
def Work.resent (w : Work) (ps : List (Nat × Packet)) : Work :=
  ps.foldl (fun (v : Work) u => v.sendRouted { u.2 with flags := putBits u.2.flags 1 1 1 }) w

theorem Work.resent_routed (w : Work) (ps : List (Nat × Packet)) : w.Routed (fun _ => True) (w.resent ps) :=
  .foldl (fun v _ _ => v.sendRouted_routed trivial) w

theorem Work.resent_sendKept (w : Work) (ps : List (Nat × Packet)) : w.SendKept (w.resent ps) :=
  .foldl (fun v _ => v.sendRouted_sendKept _) ps w

section
variable {w : Work} {key psn : Nat} {f : TxFlow}

theorem Work.resendable_young (h : ∀ u ∈ f.unacked, beatsAhead u.1 w.beatFull ≤ w.msgLife) (psn : Nat) : (w.resendable psn f).2 = false := by
  simp only [Work.resendable, List.any_eq_false, decide_eq_true_eq, Nat.not_lt]
  exact fun u hu => h u (List.mem_filter.mp hu).1

theorem Work.resend_young (h : (w.resendable psn f).2 = false) : w.resend key psn f =
    Work.resent { w with txFlows := Sp.put w.txFlows key { f with since := w.now, rnr := none } }
      (f.unacked.filter (fun u => psnUpTo psn u.2.psn)) := if_neg (by simp [h])

theorem Work.resend_old (h : (w.resendable psn f).2 = true) : w.resend key psn f = w.abandon key f := if_pos h

/-- The flow as a resend leaves it. -/
theorem Work.resend_find (h : (w.resendable psn f).2 = false) :
    Sp.find (w.resend key psn f).txFlows key = some { f with since := w.now, rnr := none } := by
  rw [Work.resend_young h, (Work.resent_routed _ _).tx, Sp.find_put_same]

theorem Work.resend_now (h : (w.resendable psn f).2 = false) : (w.resend key psn f).now = w.now := by
  rw [Work.resend_young h, (Work.resent_routed _ _).now]

theorem Work.resend_sendKept (h : (w.resendable psn f).2 = false) : w.SendKept (w.resend key psn f) := by
  rw [Work.resend_young h]
  exact (w.txFlows_sendKept _).trans (Work.resent_sendKept _ _)

end

/-! A flow abandoned. -/

/-- The state in which an abandoned flow is logged. -/
def Work.flowLost (w : Work) (key : Nat) (f : TxFlow) : Work :=
  (({ w with
    txFlows := Sp.put w.txFlows key { f with abandoned := true, unacked := [], waiting := [], rnr := none }
    links := w.links.map (fun (l : Nat × Link) => (l.1, { l.2 with queue := l.2.queue.filter (fun p => !ofFlow key p) })) }).inc
    RTX_FAIL_CNT).setBit TRANSPORT_ERR 2

theorem Work.abandon_eq (w : Work) (key : Nat) (f : TxFlow) : ∃ r crews, w.abandon key f = (w.flowLost key f).lasting r (some 10) crews := by
  unfold Work.abandon
  exact ⟨_, _, rfl⟩

/-- An abandoned flow has nothing left to send, in its list or at a port. -/
theorem Work.abandon_quiet (w : Work) (key : Nat) (f : TxFlow) :
    (∃ g, Sp.find (w.abandon key f).txFlows key = some g ∧ g.abandoned = true ∧ g.unacked = [] ∧ g.waiting = []) ∧
      ∀ l ∈ (w.abandon key f).links, ∀ q ∈ l.2.queue, ofFlow key q = false := by
  obtain ⟨r, crews, h⟩ := w.abandon_eq key f
  have hsent := Work.lasting_sent (w.flowLost key f) r 10 crews
  have hfind : Sp.find (w.flowLost key f).txFlows key = some { f with abandoned := true, unacked := [], waiting := [], rnr := none } :=
    Sp.find_put_same ..
  rw [h]
  refine ⟨⟨_, hsent.abandoned key _ hfind rfl, rfl, rfl, rfl⟩, hsent.quiet key _ hfind rfl fun l hl q hq => ?_⟩
  obtain ⟨m, -, rfl⟩ := List.mem_map.mp hl
  simpa using (List.mem_filter.mp hq).2

theorem Work.abandon_regs (w : Work) (key : Nat) (f : TxFlow) : (w.abandon key f).rd RTX_CNT = w.rd RTX_CNT ∧
    (w.abandon key f).flag TRANSPORT_ERR 2 = true ∧ (w.abandon key f).rd RTX_FAIL_CNT = min (w.rd RTX_FAIL_CNT + 1) 0xFFFFFFFF := by
  obtain ⟨r, crews, h⟩ := w.abandon_eq key f
  have hrd : ∀ a < linkBase 0, a ∉ [ABORT_TX_CNT, FAULT_STATUS, FLOG_OVF_CNT] → a ≠ LASTING_CNT →
      (w.abandon key f).rd a = (w.flowLost key f).rd a := by
    intro a ha hne hl
    rw [h, Work.rd_lasting _ _ _ _ ha hne, Work.rd_inc_ne _ _ hl]
  refine ⟨?_, ?_, ?_⟩
  · rw [hrd _ (by decide) (by decide) (by decide), Work.flowLost, Work.rd_setBit_ne _ _ _ (by decide), Work.rd_inc_ne _ _ (by decide)]
    rfl
  · rw [Work.flag_congr (hrd TRANSPORT_ERR (by decide) (by decide) (by decide)) 2]
    exact Work.flag_setBit_same _ _ _ (by decide)
  · rw [hrd _ (by decide) (by decide) (by decide), Work.flowLost, Work.rd_setBit_ne _ _ _ (by decide), Work.rd_inc_same]
    rfl

/-! The commands. -/

section
variable {s : State} {k : Fin 40} {p : Packet} {f : TxFlow}

theorem gives_ack (hr : s.Receives k p 2) : Gives (.ack k p) s (s.work.delivered (flowKey p.src p.wq) p.psn) := by
  obtain ⟨halive, harr, hacc, -⟩ := hr
  exact gives_of_run (execAck.eq_1 k p s) halive (if_pos (by rw [harr, hacc]; rfl))

theorem gives_nak (hr : s.Receives k p 3) {w : Work} (hw : s.work.nakked p = w) : Gives (.nak k p) s w := by
  obtain ⟨halive, harr, hacc, -⟩ := hr
  exact gives_of_run (execNak.eq_1 k p s) halive ((if_pos (by rw [harr, hacc]; rfl)).trans hw)

variable {w : Work} (hf : Sp.find w.txFlows (flowKey p.src p.wq) = some f) (hlive : f.abandoned = false)
include hf hlive

theorem Work.nakked_resend (hcode : p.nakCode = 1 ∨ p.nakCode = 2) : w.nakked p = w.resend (flowKey p.src p.wq) p.psn f := by
  rcases hcode with h | h <;> simp [Work.nakked, hf, hlive, h]

theorem Work.nakked_notReady (hcode : p.nakCode = 3) : w.nakked p = { w with
    txFlows := Sp.put w.txFlows (flowKey p.src p.wq) { f with rnr := some (w.now + w.rnrNs, p.psn) } } := by
  simp [Work.nakked, hf, hlive, hcode]

theorem Work.nakked_invalid (hcode : p.nakCode = 4) :
    w.nakked p = ((w.delivered (flowKey p.src p.wq) p.psn).inc NAK_RX_CNT).setBit TRANSPORT_ERR 3 := by
  simp [Work.nakked, hf, hlive, hcode]

end

section
variable {s : State} {node queue : Nat} (halive : s.board.alive = true)
include halive

theorem gives_ackTimer {f : RxFlow} (hf : Sp.find s.work.rxFlows (flowKey node queue) = some f) (hdue : f.unacked ≠ 0) :
    let v := { s.work with
      now := max s.work.now (f.since + 1000)
      rxFlows := Sp.put s.work.rxFlows (flowKey node queue) { f with unacked := 0 } }
    Gives (.ackTimer node queue) s (v.sendRouted { v.mkPkt 2 node f.job 0 queue 0 [] with psn := (f.next + 2 ^ 32 - 1) % 2 ^ 32 }) := by
  refine gives_of_run (execAckTimer.eq_1 node queue s) halive ?_
  simp only [Work.ackTimer, hf, if_neg hdue]
  rfl

variable {f : TxFlow} (hf : Sp.find s.work.txFlows (flowKey node queue) = some f)
include hf

theorem leads_rnrDelayExpire {t psn : Nat} (hrnr : f.rnr = some (t, psn))
    (hyoung : ∀ u ∈ f.unacked, beatsAhead u.1 s.work.beatFull ≤ s.work.msgLife) :
    Leads (.rnrDelayExpire node queue) s (fun w => w.now = max s.work.now t ∧
      (∃ g, Sp.find w.txFlows (flowKey node queue) = some g ∧ g.rnr = none ∧ g.unacked = f.unacked) ∧ w.mem = s.work.mem) := by
  have hyoung' : ((s.work.till t).resendable psn f).2 = false := Work.resendable_young (w := s.work.till t) hyoung psn
  refine ⟨(s.work.till t).resend (flowKey node queue) psn f, gives_of_run (execRnrDelayExpire.eq_1 node queue s) halive ?_,
    Work.resend_now hyoung', ⟨_, Work.resend_find hyoung', rfl, rfl⟩, (Work.resend_sendKept hyoung').mem⟩
  simp only [Work.rnrOver, hf, hrnr]

variable {u : Nat × Packet} {rest : List (Nat × Packet)} (hu : f.unacked = u :: rest) (hlive : f.abandoned = false)
include hu hlive

/-- The device at the end of RTO. -/
theorem gives_rtxTimeout {w : Work} (hw : (let v := s.work.till (f.since + s.work.rtoNs)
    if f.timeouts < s.work.rtxMax then
      (v.when (!(s.work.resendable u.2.psn f).2) (·.inc RTX_CNT)).resend (flowKey node queue) u.2.psn { f with timeouts := f.timeouts + 1 }
    else v.abandon (flowKey node queue) f) = w) : Gives (.rtxTimeout node queue) s w := by
  refine gives_of_run (execRtxTimeout.eq_1 node queue s) halive (Eq.trans ?_ hw)
  simp only [Work.rtxTimeout, hf, hu, hlive, Bool.false_eq_true, if_false]
  rfl

theorem leads_rtxTimeout_resend (hmore : f.timeouts < s.work.rtxMax)
    (hyoung : ∀ x ∈ f.unacked, beatsAhead x.1 s.work.beatFull ≤ s.work.msgLife) :
    Leads (.rtxTimeout node queue) s (fun w => w.now = max s.work.now (f.since + s.work.rtoNs) ∧
      (∃ g, Sp.find w.txFlows (flowKey node queue) = some g ∧ g.timeouts = f.timeouts + 1 ∧ g.unacked = f.unacked ∧ g.since = w.now) ∧
      w.rd RTX_CNT = min (s.work.rd RTX_CNT + 1) 0xFFFFFFFF) := by
  set v := (s.work.till (f.since + s.work.rtoNs)).inc RTX_CNT with hv
  have hbeat : v.beatFull = s.work.beatFull := by
    simp only [Work.beatFull, Work.epoch, Work.beatCnt, Work.fld, hv, Work.rd_inc_ne _ _ (show BEAT_COUNT_HI ≠ RTX_CNT by decide),
      Work.rd_inc_ne _ _ (show BEAT_COUNT_LO ≠ RTX_CNT by decide)]
    rfl
  have hlife : v.msgLife = s.work.msgLife := by
    rw [Work.msgLife, Work.fld_congr (Work.rd_inc_ne _ _ (by decide))]
    rfl
  have hold : (v.resendable u.2.psn { f with timeouts := f.timeouts + 1 }).2 = false :=
    Work.resendable_young (by rw [hbeat, hlife]; exact hyoung) _
  refine ⟨v.resend (flowKey node queue) u.2.psn { f with timeouts := f.timeouts + 1 }, gives_rtxTimeout halive hf hu hlive ?_,
    Work.resend_now hold, ⟨_, Work.resend_find hold, rfl, rfl, (Work.resend_now hold).symm⟩, ?_⟩
  · simp only [if_pos hmore, Work.resendable_young hyoung]
    rfl
  · rw [(Work.resend_sendKept hold).rd (by decide), hv, Work.rd_inc_same]
    rfl

theorem gives_rtxTimeout_abandon (hend : s.work.rtxMax ≤ f.timeouts ∨ (s.work.resendable u.2.psn f).2 = true) :
    ∃ t, Gives (.rtxTimeout node queue) s ((s.work.till (f.since + s.work.rtoNs)).abandon (flowKey node queue) { f with timeouts := t }) := by
  by_cases hmore : f.timeouts < s.work.rtxMax
  · have hold : (s.work.resendable u.2.psn f).2 = true := hend.resolve_left (Nat.not_le.mpr hmore)
    refine ⟨f.timeouts + 1, gives_rtxTimeout halive hf hu hlive ?_⟩
    simp only [if_pos hmore, hold, Bool.not_true, Work.when_false]
    exact Work.resend_old (w := s.work.till _) hold
  · exact ⟨f.timeouts, gives_rtxTimeout halive hf hu hlive (if_neg hmore)⟩

end

/-- Settles O26: a block's packet by its check and its turn, a READ_REQ by induction on its blocks, and a flow's acknowledgements, NAKs
and timers; what an abandoned flow sent no other packet brings back. -/
theorem blocksTravelAndFlowsAreAcknowledged : Obligations.BlocksTravelAndFlowsAreAcknowledged := by
  unfold Obligations.BlocksTravelAndFlowsAreAcknowledged
  refine ⟨⟨?block, ?read⟩, ?ack, ?nak, ?ackTimer, ?rnr, ?rtx⟩
  case block =>
    intro s k p cmd hcmd hok b
    obtain ⟨t, hcmd, hr⟩ : ∃ t, (cmd = .data k p ∧ t = 0 ∨ cmd = .readResp k p ∧ t = 11) ∧ s.Receives k p t :=
      hcmd.elim (fun h => ⟨0, .inl ⟨h.1, rfl⟩, h.2⟩) (fun h => ⟨11, .inr ⟨h.1, rfl⟩, h.2⟩)
    have hfail : blockChecks b = false ↔ crc32c (b.data ++ toBE 2 b.poisonMap) ≠ b.check := by
      rw [Bool.eq_false_iff, Ne, blockChecks_iff]
    refine ⟨fun hserved => ?_, fun hserved hsum => ?_, fun hserved hsum hfirst => ?_, fun hserved hsum hsecond => ?_⟩
    · exact gives_block hcmd hr (Work.receiveMem_waits hr.2.2.1 hserved)
    · exact leads_block_stored hcmd hr hok hserved (blockChecks_iff.mpr hsum)
    · have hrouted := (s.work.setRx p { s.work.rxFlow p with retry := true }).answer_routed (Q := fun _ => True) p (type := 3)
        (psn := p.psn) (code := 2) fun _ _ => trivial
      refine ⟨_, gives_block_refused hcmd hr hok hserved (hfail.mpr hsum) hfirst, hrouted.mem, hrouted.poison, ?_, ?_, rfl⟩ <;>
        rw [Work.rxFlow_answer, Work.rxFlow_setRx_same]
    · exact leads_block_lost hcmd hr hok hserved (hfail.mpr hsum) hsecond
  case read =>
    intro s k p hr hok hserved l key hnone
    exact leads_readReq hr hok hserved hnone
  case ack =>
    intro s k p f hr hf hwait hsome
    refine ⟨_, gives_ack hr, ?_⟩
    rw [Work.delivered_freed hf hwait hsome]
    exact ⟨Sp.find_put_same .., fun key hne => Sp.find_put_ne _ _ _ hne, rfl, rfl, rfl⟩
  case nak =>
    intro s k p f hr hf hlive
    refine ⟨fun hcode hyoung => ?_, fun hcode => ?_, fun hcode => ?_⟩
    · exact gives_nak hr ((Work.nakked_resend hf hlive hcode).trans (Work.resend_young (Work.resendable_young hyoung _)))
    · exact gives_nak hr (Work.nakked_notReady hf hlive hcode)
    · obtain ⟨-, hkept⟩ := s.work.delivered_sends (flowKey p.src p.wq) p.psn
      refine ⟨_, gives_nak hr (Work.nakked_invalid hf hlive hcode), Work.flag_setBit_same _ _ _ (by decide), ?_, hkept.mem⟩
      rw [Work.rd_setBit_ne _ _ _ (by decide), Work.rd_inc_same, hkept.rd (by decide)]
  case ackTimer =>
    intro s node queue f halive _ hf hdue
    exact gives_ackTimer halive hf hdue
  case rnr =>
    intro s node queue t psn f halive hf hrnr hyoung
    exact leads_rnrDelayExpire halive hf hrnr hyoung
  case rtx =>
    intro s node queue f u rest halive hf hu hlive
    refine ⟨leads_rtxTimeout_resend halive hf hu hlive, fun hend => ?_⟩
    obtain ⟨t, hgives⟩ := gives_rtxTimeout_abandon halive hf hu hlive hend
    obtain ⟨hflow, hports⟩ := (s.work.till (f.since + s.work.rtoNs)).abandon_quiet (flowKey node queue) { f with timeouts := t }
    exact ⟨_, hgives, hflow, hports, (s.work.till (f.since + s.work.rtoNs)).abandon_regs _ _⟩

end Sys2Proof.Machine
end

section
/-! ### Host accesses (R341, R352 to R354)

An answer leaves a host port that is up and not paused at once, after the congestion notification where there is one; a window admits
an access and memory or a register gives the answer. -/

namespace Sys2Proof.Machine

/-! Answers of a host port. -/

/-- A host port sends an answer at once: it is up, none waits and class 4 is not paused. -/
structure Work.HostReady (w : Work) (k : Nat) : Prop where
  up : w.portUp k = true
  answers : (w.link k).answers = []
  paused : Sp.find (w.link k).paused 1 = none

/-- Answers left a host port, in order: nothing waits there, and no register but its count of frames has changed. -/
structure Work.Answers (k : Nat) (os : List (Out × Nat)) (w v : Work) : Prop where
  rest : v = { w with regs := v.regs, out := v.out, links := v.links }
  out : v.out = w.out ++ os.map (·.1)
  answers : (v.link k).answers = []
  paused : (v.link k).paused = (w.link k).paused
  frames : v.rd (TX_FRAME_CNT k) = min (w.rd (TX_FRAME_CNT k) + (os.map (·.2)).sum) 0xFFFFFFFF
  kept : RegsKept w v [TX_FRAME_CNT k]

/-- What a host's access changes between two answers: neither ports nor their registers, nor queue pairs. -/
structure Work.PortsStand (w v : Work) : Prop where
  out : v.out = w.out
  links : v.links = w.links
  sec : v.sec = w.sec
  rd : ∀ a, linkBase 0 ≤ a → a < coreBase 0 → v.rd a = w.rd a

/-- A register of a host port lies above the memory controllers' and below the cores'. -/
theorem hostReg_range (h : Fin 4) {o : Nat} (ho : o < 0x4000) : linkBase 0 ≤ linkBase (36 + h.val) + o ∧ linkBase (36 + h.val) + o < coreBase 0 := by
  have := h.isLt
  unfold linkBase coreBase
  omega

theorem Work.portUp_congr {w v : Work} {k : Nat} (hsec : v.sec = w.sec) (hstatus : v.rd (LINK_STATUS k) = w.rd (LINK_STATUS k))
    (hcfg : v.rd (LINK_CFG k) = w.rd (LINK_CFG k)) : v.portUp k = w.portUp k := by
  simp only [Work.portUp, hsec, Work.flag_congr hstatus, Work.flag_congr hcfg]

section
variable {u v w : Work} {k : Nat}

theorem Work.Answers.refl (h : w.HostReady k) : w.Answers k [] w where
  rest := rfl
  out := (List.append_nil _).symm
  answers := h.answers
  paused := rfl
  frames := by
    have := w.rd_lt (TX_FRAME_CNT k)
    simp only [List.map_nil, List.sum_nil]
    omega
  kept := .refl w _

theorem Work.Answers.trans {os ps : List (Out × Nat)} (h : u.Answers k os v) (g : v.Answers k ps w) : u.Answers k (os ++ ps) w where
  rest := by rw [g.rest, h.rest]
  out := by rw [g.out, h.out, List.map_append, List.append_assoc]
  answers := g.answers
  paused := g.paused.trans h.paused
  frames := by
    rw [g.frames, h.frames, List.map_append, List.sum_append]
    omega
  kept := h.kept.trans g.kept

theorem Work.Answers.ready {os : List (Out × Nat)} (h : w.Answers k os v) (hr : w.HostReady k) : v.HostReady k where
  up := by
    rw [Work.portUp_congr (v := v) (w := w) (congrArg Work.sec h.rest :) (h.kept.rd (a := LINK_STATUS k) (by simp [LINK_STATUS, TX_FRAME_CNT]))
      (h.kept.rd (a := LINK_CFG k) (by simp [LINK_CFG, TX_FRAME_CNT])), hr.up]
  answers := h.answers
  paused := by rw [h.paused, hr.paused]

theorem Work.PortsStand.ready {h : Fin 4} (hs : w.PortsStand v) (hr : w.HostReady (36 + h.val)) : v.HostReady (36 + h.val) := by
  have hreg : ∀ o < 0x4000, v.rd (linkBase (36 + h.val) + o) = w.rd (linkBase (36 + h.val) + o) :=
    fun o ho => hs.rd _ (hostReg_range h ho).1 (hostReg_range h ho).2
  have hlink : v.link (36 + h.val) = w.link (36 + h.val) := by rw [Work.link, hs.links, Work.link]
  refine ⟨?_, hlink ▸ hr.answers, hlink ▸ hr.paused⟩
  rw [Work.portUp_congr hs.sec (hreg 0x8 (by decide)) (hreg 0x4 (by decide)), hr.up]

/-- A port that is ready sends an answer at once. -/
theorem Work.answerHost_ready {h : Nat} (hr : w.HostReady (36 + h)) (o : Out) (n : Nat) :
    w.Answers (36 + h) [(o, n)] (w.answerHost h o n) := by
  set u := (w.setLink (36 + h) { w.link (36 + h) with answers := [(o, n)] }).setLink (36 + h) { w.link (36 + h) with answers := [] } with hu
  have hlink : u.link (36 + h) = { w.link (36 + h) with answers := [] } := Work.link_setLink_same ..
  have heq : w.answerHost h o n = (u.incBy (TX_FRAME_CNT (36 + h)) n).emit o := by
    have hup : (w.setLink (36 + h) { w.link (36 + h) with answers := [(o, n)] }).portUp (36 + h) = true :=
      (Work.portUp_congr rfl rfl rfl).trans hr.up
    have hpause : Sp.find (w.link (36 + h)).paused (pcpOf 4) = none := hr.paused
    simp only [Work.answerHost, hr.answers, List.nil_append, Work.pumpHost, Work.link_setLink_same, hup, hpause, Bool.not_true,
      Bool.or_false, Bool.false_eq_true, if_false, List.foldl_cons, List.foldl_nil]
    rfl
  rw [heq]
  refine ⟨rfl, rfl, ?_, ?_, ?_, fun a ha => ?_⟩
  · exact (congrArg Link.answers hlink :)
  · exact (congrArg Link.paused hlink :)
  · exact Work.rd_incBy_same _ _ _
  · exact (Work.reg_wr _ _ _ a).trans (if_neg (by simpa using ha))

theorem Work.answerHost_sends (w : Work) (h : Nat) (o : Out) (n : Nat) : w.SendsOnly (w.answerHost h o n) ∧ w.SendKept (w.answerHost h o n) :=
  ⟨(Work.SendsOnly.setLink w _ _).trans (Work.pumpHost_sendsOnly _ _), (w.setLink_sendKept _ _).trans (Work.pumpHost_sendKept _ _)⟩

theorem Work.answerHost_mem (w : Work) (h : Nat) (o : Out) (n : Nat) : (w.answerHost h o n).mem = w.mem :=
  (congrArg Work.mem (w.answerHost_sends h o n).1 :)

theorem Work.answerHost_poison (w : Work) (h : Nat) (o : Out) (n : Nat) : (w.answerHost h o n).poison = w.poison :=
  (congrArg Work.poison (w.answerHost_sends h o n).1 :)

/-- While class 4 is paused an answer waits. -/
theorem Work.answerHost_paused {h t : Nat} (hp : Sp.find (w.link (36 + h)).paused 1 = some t) (ht : w.now < t) (o : Out) (n : Nat) :
    w.answerHost h o n = w.setLink (36 + h) { w.link (36 + h) with answers := (w.link (36 + h)).answers ++ [(o, n)] } := by
  have hp' : Sp.find (w.link (36 + h)).paused (pcpOf 4) = some t := hp
  rw [Work.answerHost, Work.pumpHost]
  simp only [Work.link_setLink_same, hp']
  exact if_pos (by simp [ht])

end

/-! A packet on a bound queue. -/

/-- The congestion notification that a marked packet is answered by first (R354). -/
def cnpOf (h : Roce) : List (Out × Nat) := if h.marked then [(.roceCnp h.host.val, 1)] else []

/-- The state after it. -/
def Work.notified (w : Work) (h : Roce) : Work := w.when h.marked (fun v => v.answerHost h.host.val (.roceCnp h.host.val) 1)

theorem Work.notified_answers {w : Work} {h : Roce} (hr : w.HostReady (36 + h.host.val)) :
    w.Answers (36 + h.host.val) (cnpOf h) (w.notified h) := by
  unfold Work.notified cnpOf
  cases h.marked with
  | true => exact Work.answerHost_ready hr _ _
  | false => exact .refl hr

theorem Work.notified_unmarked {w : Work} {h : Roce} (hm : h.marked = false) : w.notified h = w := by
  rw [Work.notified, hm, Work.when_false]

/-- The answer of an access, and the notification before it where there is one. -/
def Work.Answered (w : Work) (h : Roce) (o : Out) (frames : Nat) (v : Work) : Prop :=
  let os := (if h.marked then [(.roceCnp h.host.val, 1)] else []) ++ [(o, frames)]
  v.out = w.out ++ os.map (·.1) ∧ (v.link (36 + h.host.val)).answers = [] ∧
    v.rd (TX_FRAME_CNT (36 + h.host.val)) = min (w.rd (TX_FRAME_CNT (36 + h.host.val)) + (os.map (·.2)).sum) 0xFFFFFFFF

/-- An answer at once. -/
theorem Work.notified_answerHost {w : Work} {h : Roce} (hr : w.HostReady (36 + h.host.val)) (o : Out) (n : Nat) :
    w.Answers (36 + h.host.val) (cnpOf h ++ [(o, n)]) ((w.notified h).answerHost h.host.val o n) :=
  (Work.notified_answers hr).trans (Work.answerHost_ready ((Work.notified_answers hr).ready hr) o n)

theorem Work.Answers.answered {w v : Work} {h : Roce} {o : Out} {n : Nat} (ha : w.Answers (36 + h.host.val) (cnpOf h ++ [(o, n)]) v) :
    w.Answered h o n v := ⟨ha.out, ha.answers, ha.frames⟩

/-- An answer after an access that leaves the ports. -/
theorem Work.answered_after {w v : Work} {h : Roce} (hr : w.HostReady (36 + h.host.val)) (hs : (w.notified h).PortsStand v) (o : Out) (n : Nat) :
    w.Answered h o n (v.answerHost h.host.val o n) := by
  have h1 := Work.notified_answers hr
  have h2 := Work.answerHost_ready (hs.ready (h1.ready hr)) o n
  obtain ⟨hlo, hhi⟩ := hostReg_range h.host (o := 0x40) (by decide)
  have hframes := hs.rd (TX_FRAME_CNT (36 + h.host.val)) hlo hhi
  refine ⟨?_, h2.answers, ?_⟩
  · rw [h2.out, hs.out, h1.out, List.append_assoc]
    exact congrArg _ List.map_append.symm
  · rw [h2.frames, hframes, h1.frames]
    change _ = min (_ + ((cnpOf h ++ [(o, n)]).map (·.2)).sum) 0xFFFFFFFF
    rw [List.map_append, List.sum_append]
    omega

/-! What the notification leaves of an access's conditions. -/

section
variable {w : Work} {h : Roce} (hr : w.HostReady (36 + h.host.val))
include hr

theorem Work.hostWindow_notified (host op rkey a n : Nat) : (w.notified h).hostWindow host op rkey a n = w.hostWindow host op rkey a n := by
  rw [Work.hostWindow, (congrArg Work.windows (Work.notified_answers hr).rest :), Work.hostWindow]

theorem Work.readsOpen_notified : (w.notified h).readsOpen h = w.readsOpen h := by
  rw [Work.readsOpen, (congrArg Work.parked (Work.notified_answers hr).rest :), Work.readsOpen]

theorem Work.notified_mem : (w.notified h).mem = w.mem := (congrArg Work.mem (Work.notified_answers hr).rest :)
theorem Work.notified_qps : (w.notified h).qps = w.qps := (congrArg Work.qps (Work.notified_answers hr).rest :)
theorem Work.notified_poison : (w.notified h).poison = w.poison := (congrArg Work.poison (Work.notified_answers hr).rest :)

/-- A register outside the host ports. -/
theorem Work.rd_notified {a : Nat} (ha : a < linkBase 0) : (w.notified h).rd a = w.rd a := by
  refine (Work.notified_answers hr).kept.rd ?_
  rw [List.mem_singleton]
  exact fun e => absurd ha (Nat.not_lt.mpr (e ▸ (hostReg_range h.host (o := 0x40) (by decide)).1))

theorem Work.rangeServes_notified {a n : Nat} (hin : inStacks a n = true) : (w.notified h).rangeServes a n = w.rangeServes a n := by
  have hserves : ∀ m < 12, (w.notified h).serves m = w.serves m := fun m hm => by
    have hmode : (w.notified h).rd (MC_STATUS m) = w.rd (MC_STATUS m) := Work.rd_notified hr (memcBase_lt hm (o := 0x4) (by decide)).1
    rw [Work.serves, Work.flag_congr hmode, Work.serves]
  have hall : (List.range 12).all (w.notified h).serves = (List.range 12).all w.serves := by
    rw [Bool.eq_iff_iff, List.all_eq_true, List.all_eq_true]
    exact forall₂_congr fun m hm => by rw [hserves m (List.mem_range.mp hm)]
  simp only [Work.rangeServes, hin, if_true, hall, hserves _ (Nat.mod_lt _ (show 12 > 0 by decide))]

end

/-! The command. -/

section
variable {s : State} {h : Roce}

theorem gives_host {f : Board → Work → Work} {c : Instr} (hc : exec c s = s.run (fun b w => w.fromRoce h (f b))) (halive : s.board.alive = true)
    (hup : s.work.portUp (36 + h.host.val) = true) (hbound : s.work.roceBound h = true) (hnew : h.bound = none) :
    Gives c s (f s.board (s.work.notified h)) := by
  have hbind : s.work.bindRoce h = s.work := by simp only [Work.bindRoce, hnew]
  refine gives_of_run hc halive ?_
  simp only [Work.fromRoce, hup, hbind, hbound, Bool.not_true, Bool.false_eq_true, if_false]
  rfl

end

end Sys2Proof.Machine
end

section
/-! ### What a host's request comes to (R352, R353) -/

namespace Sys2Proof.Machine

/-- A host's packet comes in on a port that is up and ready, on a queue bound to its endpoint. -/
structure State.HostReaches (s : State) (h : Roce) : Prop where
  alive : s.board.alive = true
  bound : s.work.roceBound h = true
  new : h.bound = none
  ready : s.work.HostReady (36 + h.host.val)

/-! The outcome of a request by its window. -/

section
variable {w : Work} {b : Board} {h : Roce} {rkey a n : Nat} {d : List Byte} {x : Nat × Nat × Nat × Nat × Nat}

theorem Work.roceTooMuch_write (hlen : d.length ≤ 2 ^ 31) : w.roceTooMuch h false d.length = false := by
  rw [Work.roceTooMuch, Bool.false_and, Bool.or_false, decide_eq_false (Nat.not_lt.mpr hlen)]

theorem Work.roceTooMuch_read (hlen : n ≤ 2 ^ 31) (hopen : w.readsOpen h < 16) : w.roceTooMuch h true n = false := by
  rw [Work.roceTooMuch, Bool.true_and, decide_eq_false (Nat.not_lt.mpr hlen), decide_eq_false (Nat.not_le.mpr hopen), Bool.or_false]

theorem Work.roceRead_tooMuch (hmuch : 2 ^ 31 < n ∨ 16 ≤ w.readsOpen h) : w.roceRead b h rkey a n = w.roceNak h "invalid request" := by
  refine if_pos ?_
  rw [Work.roceTooMuch, Bool.true_and, Bool.or_eq_true, decide_eq_true_eq, decide_eq_true_eq]
  exact hmuch

theorem Work.roceWrite_outside (hlen : d.length ≤ 2 ^ 31) (hwin : w.hostWindow h.host.val 1 rkey a d.length = none) :
    w.roceWrite b h rkey a d = w.roceNak h accessNak := by
  simp only [Work.roceWrite, Work.roceTooMuch_write hlen, hwin, Bool.false_eq_true, if_false]

theorem Work.roceRead_outside (hlen : n ≤ 2 ^ 31) (hopen : w.readsOpen h < 16) (hwin : w.hostWindow h.host.val 0 rkey a n = none) :
    w.roceRead b h rkey a n = w.roceNak h accessNak := by
  simp only [Work.roceRead, Work.roceTooMuch_read hlen hopen, hwin, Bool.false_eq_true, if_false]

theorem Work.roceWrite_memory (hlen : d.length ≤ 2 ^ 31) (hwin : w.hostWindow h.host.val 1 rkey a d.length = some x)
    (hmem : x.2.2.2.1.testBit 2 = false) (hin : inStacks a d.length = true) : w.roceWrite b h rkey a d = w.hostWrite h a d := by
  simp only [Work.roceWrite, Work.roceTooMuch_write hlen, hwin, hmem, hin, Bool.false_eq_true, if_false, Bool.not_true]

theorem Work.roceRead_memory (hlen : n ≤ 2 ^ 31) (hopen : w.readsOpen h < 16) (hwin : w.hostWindow h.host.val 0 rkey a n = some x)
    (hmem : x.2.2.2.1.testBit 2 = false) (hin : inStacks a n = true) : w.roceRead b h rkey a n = w.hostRead h a n := by
  simp only [Work.roceRead, Work.roceTooMuch_read hlen hopen, hwin, hmem, hin, Bool.false_eq_true, if_false, Bool.not_true]

section
variable (hopen : w.readsOpen h < 16) (hwin : w.hostWindow h.host.val 0 rkey a 4 = some x) (hreg : x.2.2.2.1.testBit 2 = true)
include hopen hwin hreg

theorem Work.roceRead_misaligned (ha : a % 4 ≠ 0) : w.roceRead b h rkey a 4 = w.roceNak h accessNak := by
  simp [Work.roceRead, Work.roceTooMuch_read (show 4 ≤ 2 ^ 31 by decide) hopen, hwin, hreg, ha]

theorem Work.roceRead_register (ha : a % 4 = 0) (hfree : w.holdsUp (.host h.host) a = false)
    (hwait : w.readWaits (.host h.host) a = false) : w.roceRead b h rkey a 4 = w.hostRegRead b h a := by
  simp [Work.roceRead, Work.roceTooMuch_read (show 4 ≤ 2 ^ 31 by decide) hopen, hwin, hreg, ha, hfree, hwait]

end

/-- The only window there is admits an access inside it. -/
theorem Work.hostWindow_only {host op : Nat} (hw : w.windows = [x]) (hlo : x.1 ≤ a) (hhi : a + n ≤ x.1 + x.2.1) (hkey : x.2.2.1 = rkey)
    (hhost : x.2.2.2.2.testBit host = true) (hop : x.2.2.2.1.testBit op = true) : w.hostWindow host op rkey a n = some x := by
  simp [Work.hostWindow, hw, hlo, hhi, hkey, hhost, hop]

/-! Memory read and written for a host. -/

theorem Work.hostWrite_serves (hserve : w.rangeServes a d.length = true) : w.hostWrite h a d = (w.writeHbm a d false [] []).roceAck h :=
  if_neg (by simp [hserve])

theorem Work.hostWrite_parks (hserve : w.rangeServes a d.length = false) :
    w.hostWrite h a d = w.park (w.issuer (1076 + h.host.val)) (.hostWrite h a d) := if_pos (by simp [hserve])

theorem Work.hostRead_parks (hserve : w.rangeServes a n = false) :
    w.hostRead h a n = w.park (w.issuer (1076 + h.host.val)) (.hostRead h a n) := if_pos (by simp [hserve])

theorem Work.hostRead_clean (hserve : w.rangeServes a n = true) (hclean : ∀ l ∈ linesOf a n, w.poisoned l.1 l.2 = false) :
    w.hostRead h a n = (w.readsStack a n).roceData h (w.bytes a n) := by
  have hnone : (linesOf a n).find? (fun l => w.poisoned l.1 l.2) = none :=
    List.find?_eq_none.mpr fun l hl => by rw [hclean l hl]; exact Bool.false_ne_true
  simp only [Work.hostRead, hserve, hnone, Bool.not_true, Bool.false_eq_true, if_false]

theorem Work.hostRead_poisoned (hserve : w.rangeServes a n = true) (hbad : ∃ l ∈ linesOf a n, w.poisoned l.1 l.2 = true) :
    ∃ m < 12, w.hostRead h a n = ((w.readsStack a n).inc (POISON_HOST_CNT m)).roceNak h "remote operational error" := by
  obtain ⟨l, hl⟩ : ∃ l, (linesOf a n).find? (fun l => w.poisoned l.1 l.2) = some l :=
    Option.isSome_iff_exists.mp (List.find?_isSome.mpr hbad)
  refine ⟨(stackOf l.1).1, stackOf_lt _, ?_⟩
  simp only [Work.hostRead, hserve, hl, Bool.not_true, Bool.false_eq_true, if_false]

/-! What reads and writes of the stacks leave of the ports. -/

theorem memcReg_ne_port {m o b : Nat} (hm : m < 12) (ho : o < 0x10000) (hb : linkBase 0 ≤ b) : b ≠ memcBase m + o :=
  fun e => absurd (memcBase_lt hm ho).1 (Nat.not_lt.mpr (e ▸ hb))

theorem Work.readsStack_ports (w : Work) (a n : Nat) : w.PortsStand (w.readsStack a n) where
  out := by rw [Work.readsStack_frame]
  links := by rw [Work.readsStack_frame]
  sec := by rw [Work.readsStack_frame]
  rd b hlo hhi := w.rd_readsStack a n hhi fun _ hm => memcReg_ne_port hm (o := 0x4c) (by decide) hlo

theorem Work.Stored.ports {v : Work} (hs : w.Stored v) : w.PortsStand v where
  out := hs.out
  links := (congrArg Work.links hs.rest :)
  sec := (congrArg Work.sec hs.rest :)
  rd b hlo _ := hs.rd b fun _ hm => ⟨memcReg_ne_port hm (o := 0x4c) (by decide) hlo, memcReg_ne_port hm (o := 0x50) (by decide) hlo⟩

theorem Work.PortsStand.inc_memc {v : Work} (hs : w.PortsStand v) {m o : Nat} (hm : m < 12) (ho : o < 0x10000) :
    w.PortsStand (v.inc (memcBase m + o)) where
  out := hs.out
  links := hs.links
  sec := hs.sec
  rd b hlo hhi := (Work.rd_inc_ne _ _ (memcReg_ne_port hm ho hlo)).trans (hs.rd b hlo hhi)

theorem Work.readsStack_poison (w : Work) (a n : Nat) : (w.readsStack a n).poison = w.poison := by rw [Work.readsStack_frame]
theorem Work.readsStack_qps (w : Work) (a n : Nat) : (w.readsStack a n).qps = w.qps := by rw [Work.readsStack_frame]

/-! A register read for a host. -/

theorem Work.readReg_NODE (w : Work) (b : Board) (p : Path) : w.readReg b p NODE = (w.rd NODE, w) := by
  have hrow : (regRow NODE).isNone = false := by decide
  have hloc : locate NODE = some (.glob, 0, NODE) := by decide
  have hmgr : mgrRegs.contains NODE = false := by decide
  have hbox : isMbox NODE = false := by decide
  simp only [Work.readReg, hrow, hloc, Bool.false_eq_true, if_false, Work.readGlob, hmgr, Bool.false_and, hbox]
  rfl

theorem Work.hostRegRead_NODE (hr : w.Readable (.host h.host) NODE) : w.hostRegRead b h NODE = w.roceData h (toLE 4 (w.rd NODE)) := by
  obtain ⟨haligned, hmay, hlit, -⟩ := hr
  have hmay' : w.mayRead (.host h.host) NODE = true := hmay
  have hpath : w.pathRead b (.host h.host) NODE = (w.rd NODE, w, 0) := by
    rw [Work.pathRead, Work.busRead, Work.readReg_NODE]
    simp only [Work.busPath, haligned, hmay', hlit, ne_eq, not_true_eq_false, if_false, Bool.not_true, Bool.false_eq_true]
  simp only [Work.hostRegRead, hpath]
  rfl

/-- A congestion notification leaves a host's access to a register as it was. -/
theorem Work.Readable.notified (hw : w.HostReady (36 + h.host.val)) (hr : w.Readable (.host h.host) NODE) :
    (w.notified h).Readable (.host h.host) NODE := by
  obtain ⟨haligned, -, hlit, hfree⟩ := hr
  have hrest := (Work.notified_answers hw).rest
  have hdom : holdingDomain NODE = some 65 := by decide
  have hdark : (w.notified h).rd (PD_STATUS 65) = w.rd (PD_STATUS 65) := Work.rd_notified hw (by decide)
  have hperm : (w.notified h).perm = w.perm := Work.fld_congr (Work.rd_notified hw (by decide)) 12 3
  have hwait : ∀ q, (w.notified h).waitCode q = w.waitCode q := by
    intro q
    simp only [Work.waitCode, Work.busPath, hperm]
  refine ⟨haligned, rfl, ?_, ?_⟩
  · simp only [Work.darkAt, hdom] at hlit ⊢
    rwa [Work.fld_congr hdark]
  · simp only [Work.holdsUp, Work.underReset, (congrArg Work.access hrest :), (congrArg Work.fault hrest :), hwait] at hfree ⊢
    exact hfree

end

/-! The commands. -/

section
variable {s : State} {h : Roce} (hr : s.HostReaches h)
include hr

theorem gives_roceWrite (rkey a : Nat) (d : List Byte) :
    Gives (.roceWrite h.toRocePeer h.marked rkey a d) s ((s.work.notified h).roceWrite s.board h rkey a d) :=
  gives_host (f := fun b v => v.roceWrite b h rkey a d) (execRoceWrite.eq_1 ..) hr.alive hr.ready.up hr.bound hr.new

theorem gives_roceRead (rkey a n : Nat) :
    Gives (.roceRead h.toRocePeer h.marked rkey a n) s ((s.work.notified h).roceRead s.board h rkey a n) :=
  gives_host (f := fun b v => v.roceRead b h rkey a n) (execRoceRead.eq_1 ..) hr.alive hr.ready.up hr.bound hr.new

theorem gives_roceInvalidRequest :
    Gives (.roceInvalidRequest h.toRocePeer h.marked) s ((s.work.notified h).roceNak h "invalid request") :=
  gives_host (f := fun _ v => v.roceNak h "invalid request") (execRoceInvalidRequest.eq_1 ..) hr.alive hr.ready.up hr.bound hr.new

/-- A request refused: its NAK, and nothing but the count of frames changed. -/
theorem leads_host_nak {c : Instr} {reason : String} (hg : Gives c s ((s.work.notified h).roceNak h reason)) :
    Leads c s (fun w => s.work.Answered h (.roceNak h.host.val reason) 1 w ∧ w.mem = s.work.mem ∧ w.poison = s.work.poison ∧
      RegsKept s.work w [TX_FRAME_CNT (36 + h.host.val)]) := by
  have hans := Work.notified_answerHost hr.ready (.roceNak h.host.val reason) 1
  exact ⟨_, hg, hans.answered, (congrArg Work.mem hans.rest :), (congrArg Work.poison hans.rest :), hans.kept⟩

section
variable {rkey a : Nat} {d : List Byte} {x : Nat × Nat × Nat × Nat × Nat} (hw : s.work.windows = [x]) (hlo : x.1 ≤ a)
  (hhi : a + d.length ≤ x.1 + x.2.1) (hkey : x.2.2.1 = rkey) (hlen : d.length ≤ 2 ^ 31) (hopen : s.work.readsOpen h < 16)
  (hhost : x.2.2.2.2.testBit h.host.val = true) (hmem : x.2.2.2.1.testBit 2 = false) (hin : inStacks a d.length = true)
include hw hlo hhi hkey hlen hhost hmem hin

/-- A write inside the only window goes to memory. -/
theorem gives_roceWrite_memory (hop : x.2.2.2.1.testBit 1 = true) :
    Gives (.roceWrite h.toRocePeer h.marked rkey a d) s ((s.work.notified h).hostWrite h a d) := by
  have hwin : (s.work.notified h).hostWindow h.host.val 1 rkey a d.length = some x := by
    rw [Work.hostWindow_notified hr.ready, Work.hostWindow_only hw hlo hhi hkey hhost hop]
  exact Work.roceWrite_memory hlen hwin hmem hin ▸ gives_roceWrite hr rkey a d

include hopen in
theorem gives_roceRead_memory (hop : x.2.2.2.1.testBit 0 = true) :
    Gives (.roceRead h.toRocePeer h.marked rkey a d.length) s ((s.work.notified h).hostRead h a d.length) := by
  have hwin : (s.work.notified h).hostWindow h.host.val 0 rkey a d.length = some x := by
    rw [Work.hostWindow_notified hr.ready, Work.hostWindow_only hw hlo hhi hkey hhost hop]
  have hroom : (s.work.notified h).readsOpen h < 16 := by rwa [Work.readsOpen_notified hr.ready]
  exact Work.roceRead_memory hlen hroom hwin hmem hin ▸ gives_roceRead hr rkey a d.length

end

/-! A host's bytes written and read, where the stacks serve. -/

section
variable {c : Instr} {a : Nat} {d : List Byte} (hin : inStacks a d.length = true) (hserve : s.work.rangeServes a d.length = true)
include hin hserve

theorem leads_hostWrite (hg : Gives c s ((s.work.notified h).hostWrite h a d)) :
    Leads c s (fun w => w.bytes a d.length = d ∧ (∀ y, y < a ∨ a + d.length ≤ y → w.byte y = s.work.byte y) ∧
      s.work.Answered h (.roceAck h.host.val) 1 w) := by
  have hserve' : (s.work.notified h).rangeServes a d.length = true := by rwa [Work.rangeServes_notified hr.ready hin]
  rw [Work.hostWrite_serves hserve'] at hg
  set v := (s.work.notified h).writeHbm a d false [] []
  have hmem : (v.roceAck h).mem = v.mem := (congrArg Work.mem (v.answerHost_sends _ _ _).1 :)
  refine ⟨_, hg, ?_, fun y hy => ?_, Work.answered_after hr.ready (Work.writeHbm_stored hin).ports _ _⟩
  · rw [Work.bytes_congr hmem, Work.writeHbm_bytes hin]
  · rw [Work.byte_congr hmem, Work.writeHbm_byte_apart hin hy, Work.byte_congr (Work.notified_mem hr.ready)]

theorem leads_hostRead_clean (hg : Gives c s ((s.work.notified h).hostRead h a d.length))
    (hclean : ∀ l ∈ linesOf a d.length, s.work.poisoned l.1 l.2 = false) :
    Leads c s (fun w => s.work.Answered h (.roceData h.host.val (s.work.bytes a d.length)) (max 1 (ceilDiv d.length (s.work.roceMtu h))) w ∧
      w.mem = s.work.mem ∧ w.poison = s.work.poison) := by
  have hserve' : (s.work.notified h).rangeServes a d.length = true := by rwa [Work.rangeServes_notified hr.ready hin]
  have hclean' : ∀ l ∈ linesOf a d.length, (s.work.notified h).poisoned l.1 l.2 = false := fun l hl => by
    rw [Work.poisoned_congr (Work.notified_poison hr.ready), hclean l hl]
  have hmtu : ((s.work.notified h).readsStack a d.length).roceMtu h = s.work.roceMtu h := by
    rw [Work.roceMtu, Work.readsStack_qps, Work.notified_qps hr.ready, Work.roceMtu]
  rw [Work.hostRead_clean hserve' hclean', Work.bytes_congr (Work.notified_mem hr.ready), Work.roceData, Work.bytes_length, hmtu] at hg
  refine ⟨_, hg, Work.answered_after hr.ready (Work.readsStack_ports _ a d.length) _ _, ?_, ?_⟩
  · rw [Work.answerHost_mem, Work.readsStack_mem, Work.notified_mem hr.ready]
  · rw [Work.answerHost_poison, Work.readsStack_poison, Work.notified_poison hr.ready]

theorem leads_hostRead_poisoned (hg : Gives c s ((s.work.notified h).hostRead h a d.length))
    (hbad : ∃ l ∈ linesOf a d.length, s.work.poisoned l.1 l.2 = true) :
    Leads c s (fun w => s.work.Answered h (.roceNak h.host.val "remote operational error") 1 w ∧ w.mem = s.work.mem) := by
  have hserve' : (s.work.notified h).rangeServes a d.length = true := by rwa [Work.rangeServes_notified hr.ready hin]
  obtain ⟨l, hl, hm⟩ := hbad
  have hm' : (s.work.notified h).poisoned l.1 l.2 = true := by rwa [Work.poisoned_congr (Work.notified_poison hr.ready)]
  obtain ⟨m, hm12, heq⟩ := Work.hostRead_poisoned (h := h) hserve' ⟨l, hl, hm'⟩
  rw [heq] at hg
  have hports := (Work.readsStack_ports (s.work.notified h) a d.length).inc_memc hm12 (o := 0x54) (by decide)
  refine ⟨_, hg, Work.answered_after hr.ready hports _ _, ?_⟩
  rw [Work.roceNak, Work.answerHost_mem, Work.inc_mem, Work.readsStack_mem, Work.notified_mem hr.ready]

end

end

/-! The binding of a queue. -/

section
variable {s : State} {h : Roce} (halive : s.board.alive = true) (hup : s.work.portUp (36 + h.host.val) = true)
include halive hup

theorem gives_roce_unbound (hnew : h.bound = none) (hbound : s.work.roceBound h = false) :
    Gives (.roceInvalidRequest h.toRocePeer h.marked) s (s.work.inc WQ_DROP_CNT) := by
  have hbind : s.work.bindRoce h = s.work := by simp only [Work.bindRoce, hnew]
  refine gives_of_run (execRoceInvalidRequest.eq_1 ..) halive ?_
  simp only [Work.fromRoce, hup, hbind, hbound, Bool.not_true, Bool.not_false, Bool.false_eq_true, if_false, if_true]

/-- A queue that firmware binds to the packet's endpoint is bound before the packet takes effect. -/
theorem leads_roce_binds {m : Fin 3} (hnew : h.bound = some m) (hlo : s.work.hostBase ≤ h.wq) (hhi : h.wq < 65536) :
    Leads (.roceInvalidRequest h.toRocePeer h.marked) s (fun w => Sp.find w.qps h.wq = some (h.host.val, h.qp, 1024 * 2 ^ m.val) ∧
      w.rd WQ_DROP_CNT = s.work.rd WQ_DROP_CNT) := by
  set u : Work := { s.work with qps := Sp.put s.work.qps h.wq (h.host.val, h.qp, 1024 * 2 ^ m.val) } with hu
  have hfind : Sp.find u.qps h.wq = some (h.host.val, h.qp, 1024 * 2 ^ m.val) := Sp.find_put_same ..
  have hbind : s.work.bindRoce h = u := by simp [Work.bindRoce, hnew, hlo, hhi, hu]
  have hbound : u.roceBound h = true := by
    have hlo' : u.hostBase ≤ h.wq := hlo
    simp [Work.roceBound, hfind, hlo', hhi]
  have hnote : u.SendsOnly (u.notified h) ∧ u.SendKept (u.notified h) :=
    ⟨.when (u.answerHost_sends _ _ _).1 _, .when (u.answerHost_sends _ _ _).2 _⟩
  have hnak := (u.notified h).answerHost_sends h.host.val (.roceNak h.host.val "invalid request") 1
  refine ⟨(u.notified h).roceNak h "invalid request", gives_of_run (execRoceInvalidRequest.eq_1 ..) halive ?_, ?_, ?_⟩
  · simp only [Work.fromRoce, hup, hbind, hbound, Bool.not_true, Bool.false_eq_true, if_false]
    rfl
  · rw [← hfind]
    exact congrArg (Sp.find · h.wq) ((congrArg Work.qps hnak.1 :).trans (congrArg Work.qps hnote.1 :))
  · exact (hnak.2.rd (by decide)).trans (hnote.2.rd (by decide))

/-- While class 4 is paused the answers wait in their order. -/
theorem leads_roce_paused {t : Nat} (hnew : h.bound = none) (hbound : s.work.roceBound h = true)
    (hpause : Sp.find (s.work.link (36 + h.host.val)).paused 1 = some t) (ht : s.work.now < t) :
    Leads (.roceInvalidRequest h.toRocePeer h.marked) s (fun w => w.out = s.work.out ∧ (w.link (36 + h.host.val)).answers =
      (s.work.link (36 + h.host.val)).answers ++ (if h.marked then [(.roceCnp h.host.val, 1)] else []) ++
        [(.roceNak h.host.val "invalid request", 1)]) := by
  refine ⟨(s.work.notified h).roceNak h "invalid request",
    gives_host (f := fun _ v => v.roceNak h "invalid request") (execRoceInvalidRequest.eq_1 ..) halive hup hbound hnew, ?_⟩
  cases hm : h.marked with
  | false =>
    rw [Work.notified_unmarked hm, Work.roceNak, Work.answerHost_paused hpause ht]
    refine ⟨rfl, ?_⟩
    rw [Work.link_setLink_same]
    simp
  | true =>
    have hfirst := Work.answerHost_paused hpause ht (.roceCnp h.host.val) 1
    have hnote : s.work.notified h = s.work.answerHost h.host.val (.roceCnp h.host.val) 1 := by rw [Work.notified, hm, Work.when_true]
    set v := s.work.notified h
    have hlink : v.link (36 + h.host.val) = { s.work.link (36 + h.host.val) with
        answers := (s.work.link (36 + h.host.val)).answers ++ [(.roceCnp h.host.val, 1)] } := by
      rw [hnote, hfirst, Work.link_setLink_same]
    have hpause' : Sp.find (v.link (36 + h.host.val)).paused 1 = some t := by
      rw [hlink]
      exact hpause
    have hnow : v.now = s.work.now := by
      rw [hnote, hfirst]
      rfl
    have hout : v.out = s.work.out := by
      rw [hnote, hfirst]
      rfl
    rw [Work.roceNak, Work.answerHost_paused hpause' (hnow ▸ ht)]
    refine ⟨hout, ?_⟩
    rw [Work.link_setLink_same, hlink]
    rfl

end

/-- Settles O28: a request is refused, or reaches memory or a register, by its window; its answer and the notification before it
(log 105) leave the port in order. The binding operand and the limits of 2 GiB and 16 reads are log 127, the answers' form logs 99
and 100. -/
theorem hostAccessesKeepToTheirWindows : Obligations.HostAccessesKeepToTheirWindows := by
  unfold Obligations.HostAccessesKeepToTheirWindows
  intro answered reaches
  have hreach : ∀ s h, reaches s h → s.HostReaches h :=
    fun s h ⟨halive, hup, hbound, hnew, hans, hpause⟩ => ⟨halive, hbound, hnew, hup, hans, hpause⟩
  refine ⟨?refused, ?memory, ?register, ?binding⟩
  case refused =>
    intro s h rkey a n d hr
    replace hr := hreach s h hr
    refine ⟨fun ⟨hwin, hlen⟩ => ?_, fun ⟨hwin, hlen, hopen⟩ => ?_, fun hmuch => ?_, ?_⟩
    · refine leads_host_nak hr ?_
      rw [← Work.hostWindow_notified hr.ready] at hwin
      exact Work.roceWrite_outside hlen hwin ▸ gives_roceWrite hr rkey a d
    · refine leads_host_nak hr ?_
      rw [← Work.hostWindow_notified hr.ready] at hwin
      rw [← Work.readsOpen_notified hr.ready] at hopen
      exact Work.roceRead_outside hlen hopen hwin ▸ gives_roceRead hr rkey a n
    · rw [← Work.readsOpen_notified hr.ready] at hmuch
      obtain ⟨w, hg, hans, -⟩ := leads_host_nak hr (Work.roceRead_tooMuch hmuch ▸ gives_roceRead hr rkey a n)
      exact ⟨w, hg, hans⟩
    · exact leads_host_nak hr (gives_roceInvalidRequest hr)
  case memory =>
    intro s h rkey a d x hr hw hlo hhi hkey hlen hopen hhost hmem hin
    replace hr := hreach s h hr
    have hwrite := fun hop => gives_roceWrite_memory hr hw hlo hhi hkey hlen hhost hmem hin hop
    have hread := fun hop => gives_roceRead_memory hr hw hlo hhi hkey hlen hopen hhost hmem hin hop
    refine ⟨fun hserve => ⟨fun hop => leads_hostWrite hr hin hserve (hwrite hop),
      fun hop hclean => leads_hostRead_clean hr hin hserve (hread hop) hclean,
      fun hop hbad => leads_hostRead_poisoned hr hin hserve (hread hop) hbad⟩, fun hserve hm => ⟨fun hop => ?_, fun hop => ?_⟩⟩
    · have h1 := hwrite hop
      rwa [Work.notified_unmarked hm, Work.hostWrite_parks hserve] at h1
    · have h1 := hread hop
      rwa [Work.notified_unmarked hm, Work.hostRead_parks hserve] at h1
  case register =>
    intro s h rkey a x hr hopen hwin hreg
    replace hr := hreach s h hr
    rw [← Work.readsOpen_notified hr.ready] at hopen
    rw [← Work.hostWindow_notified hr.ready] at hwin
    refine ⟨fun ha => ?_, fun ha hreadable => ?_⟩
    · obtain ⟨w, hg, hans, -⟩ := leads_host_nak hr (Work.roceRead_misaligned hopen hwin hreg ha ▸ gives_roceRead hr rkey a 4)
      exact ⟨w, hg, hans⟩
    · subst ha
      have hreadable' := Work.Readable.notified hr.ready hreadable
      have hg := gives_roceRead hr rkey NODE 4
      have hmtu : (s.work.notified h).roceMtu h = s.work.roceMtu h := by rw [Work.roceMtu, Work.notified_qps hr.ready, Work.roceMtu]
      rw [Work.roceRead_register hopen hwin hreg (by decide) hreadable'.2.2.2 rfl, Work.hostRegRead_NODE hreadable',
        Work.rd_notified hr.ready (by decide), Work.roceData, toLE_length, hmtu] at hg
      have hans := Work.notified_answerHost hr.ready (.roceData h.host.val (toLE 4 (s.work.rd NODE))) (max 1 (ceilDiv 4 (s.work.roceMtu h)))
      exact ⟨_, hg, hans.answered, (congrArg Work.mem hans.rest :)⟩
  case binding =>
    intro s h halive hup
    exact ⟨gives_roce_unbound halive hup, fun m => leads_roce_binds halive hup, fun t => leads_roce_paused halive hup⟩

end Sys2Proof.Machine
end

section
/-! ### Reduction work that waits

With no contribution of this device's own left and no held packet whose stage is open, taking up what waits changes nothing. -/

namespace Sys2Proof.Machine

theorem RedSt.idle {x : RedSt} (hmine : x.mine = []) (hrefused : x.refused = []) :
    { x with mine := x.mine ++ x.refused, refused := [] } = x := by
  cases x
  subst hmine hrefused
  rfl

theorem Work.settleRed_of_none {w : Work} (hmine : w.red.mine = []) (hrefused : w.red.refused = []) : w.settleRed = w := by
  have hsame : ({ w with red := { w.red with mine := w.red.mine ++ w.red.refused, refused := [] } } : Work) = w := by
    rw [RedSt.idle hmine hrefused]
  have hdrain : ∀ n, drainMine n w = w := by
    intro n
    cases n with
    | zero => rfl
    | succ n => simp only [drainMine, hmine]
  rw [Work.settleRed, hsame, hdrain]

theorem drainRing_of_none {w : Work} {k : Nat} (h : w.heldReady k = none) (n : Nat) : drainRing n k w = w := by
  cases n with
  | zero => rfl
  | succ n => simp only [drainRing, h]

theorem Work.redGo_of_none {w : Work} (hmine : w.red.mine = []) (hrefused : w.red.refused = [])
    (hready : ∀ k < 36, w.heldReady k = none) : w.redGo = w := by
  have hdrain : (List.range 36).foldl (fun (v : Work) k => drainRing (v.link k).held.length k v) w = w :=
    List.foldlRecOn (motive := fun v => v = w) _ _ rfl fun v hv k hk => by
      rw [hv, drainRing_of_none (hready k (List.mem_range.mp hk))]
  rw [Work.redGo, Work.settleRed_of_none hmine hrefused, hdrain, Work.settleRed_of_none hmine hrefused]

theorem Work.heldReady_of_empty {w : Work} {k : Nat} (h : (w.link k).held = []) : w.heldReady k = none := by
  rw [Work.heldReady, h, List.find?_nil]

/-- With nothing held at any adder. -/
theorem Work.redGo_of_unheld {w : Work} (hmine : w.red.mine = []) (hrefused : w.red.refused = [])
    (hheld : ∀ k < 36, (w.link k).held = []) : w.redGo = w :=
  Work.redGo_of_none hmine hrefused fun k hk => Work.heldReady_of_empty (hheld k hk)

end Sys2Proof.Machine
end

section
/-! ### Contributions (R315, R317 to R323)

A contribution applied in its turn, its tracker advanced, and one that comes before its turn held. -/

namespace Sys2Proof.Machine

/-! Words stored and read. -/

theorem leAt_wordsLE (ws : List Word) {i : Nat} (h : i < ws.length) : leAt (wordsLE ws) (4 * i) 4 = ws[i].toNat := by
  induction ws generalizing i with
  | nil => simp at h
  | cons x ws ih =>
    have hsplit : wordsLE (x :: ws) = toLE 4 x.toNat ++ wordsLE ws := rfl
    rw [hsplit]
    cases i with
    | zero =>
      rw [Nat.mul_zero, leAt_toLE_append]
      exact Nat.mod_eq_of_lt x.isLt
    | succ i =>
      have hi : i < ws.length := Nat.succ_lt_succ_iff.mp h
      rw [leAt, sub_right _ _ (by rw [toLE_length]; omega), toLE_length, show 4 * (i + 1) - 4 = 4 * i by omega]
      exact ih hi

theorem Work.wordsAt_of_bytes {v : Work} {a : Nat} {ws : List Word} (h : v.bytes a (wordsLE ws).length = wordsLE ws) :
    v.wordsAt a ws.length = ws := by
  refine List.ext_getElem (by simp [Work.wordsAt]) fun i h1 h2 => ?_
  simp only [Work.wordsAt, List.getElem_map, List.getElem_range, Work.word]
  rw [Work.num_of_bytes h (by rw [wordsLE_length]; omega), leAt_wordsLE ws h2]
  exact BitVec.ofNat_toNat ..|>.trans (BitVec.setWidth_eq _)

/-! The sum of a contribution, its marks, and its notification. -/

/-- What the block holds after a contribution. -/
def Work.sumOf (w : Work) (k : Contribution) : List Word :=
  let vs := if contribBad k then List.replicate 1024 0 else contribValues k
  if k.seq = 0 then vs else (w.wordsAt k.dest 1024).zipWith fadd vs

theorem Work.sumOf_length (w : Work) (k : Contribution) : (w.sumOf k).length = 1024 := by
  unfold Work.sumOf
  extract_lets vs
  have hvs : vs.length = 1024 := by
    unfold vs
    split
    · exact List.length_replicate
    · rw [contribValues, List.length_map, List.length_range]
  split
  · exact hvs
  · rw [List.length_zipWith, hvs, Work.wordsAt, List.length_map, List.length_range, Nat.min_self]

/-- The contribution added, its poison marked, and counted. -/
def Work.added (w : Work) (k : Contribution) : Work :=
  let v := (w.when (k.seq ≠ 0) (·.poisonReads k.dest 4096)).store k.dest (wordsLE (w.sumOf k))
  let v := v.when (k.seq = 0) (fun v => v.unmark k.dest 4096)
  let v := if contribBad k then (contribLines k).foldl (fun (v : Work) i => v.mark (k.dest + 256 * i) 256) v else v
  v.inc (RACC_CNT (stackOf k.dest).1)

/-- The last contribution of a block advances NOTIFY. -/
def Work.notifies (w : Work) (k : Contribution) : Work :=
  (w.when (k.notify ≠ 0) (fun v => v.putNum k.notify 4 ((v.num k.notify 4 + 1) % 2 ^ 32))).inc (RACC_DONE_CNT (stackOf k.dest).1)

theorem Work.applyContrib_eq (w : Work) (k : Contribution) :
    w.applyContrib k = if k.seq + 1 = k.count then (w.added k).notifies k else w.added k := rfl

/-- A contribution's effect on the rest of the state: registers of the accumulation, memory and its marks. -/
structure Work.Accumulated (m : Nat) (w v : Work) : Prop where
  rest : v = { w with regs := v.regs, mem := v.mem, poison := v.poison }
  rd : ∀ a, (∀ n < 12, a ≠ POISON_RD_CNT n ∧ a ≠ RMW_POISON_CNT n) → a ≠ RACC_CNT m → a ≠ RACC_DONE_CNT m → v.rd a = w.rd a

theorem Work.Accumulated.trans {m : Nat} {u v w : Work} (h : u.Accumulated m v) (k : v.Accumulated m w) : u.Accumulated m w :=
  ⟨by rw [k.rest, h.rest], fun a h1 h2 h3 => (k.rd a h1 h2 h3).trans (h.rd a h1 h2 h3)⟩

theorem Work.Stored.accumulated {w v : Work} (h : w.Stored v) (m : Nat) : w.Accumulated m v := ⟨h.rest, fun a ha _ _ => h.rd a ha⟩

theorem Work.when_mem {f : Work → Work} (hf : ∀ v : Work, (f v).mem = v.mem) (w : Work) (c : Bool) : (w.when c f).mem = w.mem := by
  cases c with
  | true => exact hf w
  | false => rfl

theorem Work.mark_foldl_stored (l : List Nat) (a : Nat) (w : Work) :
    w.Stored (l.foldl (fun (v : Work) i => v.mark (a + 256 * i) 256) w) :=
  .foldl (f := fun v i => v.mark (a + 256 * i) 256) (fun _ _ _ => ⟨rfl, fun _ _ => rfl⟩) w

theorem Work.mark_foldl_mem (l : List Nat) (a : Nat) (w : Work) :
    (l.foldl (fun (v : Work) i => v.mark (a + 256 * i) 256) w).mem = w.mem :=
  List.foldlRecOn (motive := fun v : Work => v.mem = w.mem) _ _ rfl fun _ h _ _ => h

section
variable (w : Work) (k : Contribution)

/-- The state with the sum stored, before its marks. -/
def Work.sumStored : Work :=
  ((w.when (k.seq ≠ 0) (·.poisonReads k.dest 4096)).store k.dest (wordsLE (w.sumOf k))).when (k.seq = 0) (fun v => v.unmark k.dest 4096)

theorem Work.added_eq : w.added k = (if contribBad k then
    (contribLines k).foldl (fun (v : Work) i => v.mark (k.dest + 256 * i) 256) (w.sumStored k) else w.sumStored k).inc
      (RACC_CNT (stackOf k.dest).1) := rfl

theorem Work.sumStored_mem : (w.sumStored k).mem = storeCells w.mem k.dest (wordsLE (w.sumOf k)) := by
  rw [Work.sumStored, Work.when_mem (f := fun v => v.unmark k.dest 4096) (fun _ => rfl)]
  refine congrArg (storeCells · k.dest _) (Work.when_mem (f := fun v => v.poisonReads k.dest 4096) (fun v => ?_) w _)
  rw [Work.poisonReads_frame]

theorem Work.sumStored_stored : w.Stored (w.sumStored k) := by
  have hreads : w.Stored (w.when (k.seq ≠ 0) (·.poisonReads k.dest 4096)) := by
    cases decide (k.seq ≠ 0) with
    | true =>
      refine ⟨?_, fun a ha => w.rd_poisonReads _ _ fun m hm => (ha m hm).1⟩
      rw [Work.when_true, Work.poisonReads_frame]
    | false => exact .refl w
  refine hreads.trans ?_
  unfold Work.sumStored
  cases decide (k.seq = 0) <;> exact ⟨rfl, fun _ _ => rfl⟩

theorem Work.added_mem : (w.added k).mem = storeCells w.mem k.dest (wordsLE (w.sumOf k)) := by
  rw [Work.added_eq, Work.inc_mem]
  split
  · rw [Work.mark_foldl_mem, Work.sumStored_mem]
  · rw [Work.sumStored_mem]

/-- The sum stored and marked, before its count. -/
theorem Work.added_from : ∃ v, w.Stored v ∧ w.added k = v.inc (RACC_CNT (stackOf k.dest).1) := by
  refine ⟨_, ?_, w.added_eq k⟩
  split
  · exact (w.sumStored_stored k).trans (Work.mark_foldl_stored _ _ _)
  · exact w.sumStored_stored k

theorem accReg_ne {m o : Nat} (h1 : o ≠ 0x4c) (h2 : o ≠ 0x50) (ho : o < 0x10000) :
    ∀ n < 12, memcBase m + o ≠ POISON_RD_CNT n ∧ memcBase m + o ≠ RMW_POISON_CNT n := by
  intro n _
  unfold POISON_RD_CNT RMW_POISON_CNT memcBase
  omega

theorem RACC_CNT_ne (m : Nat) : ∀ n < 12, RACC_CNT m ≠ POISON_RD_CNT n ∧ RACC_CNT m ≠ RMW_POISON_CNT n :=
  accReg_ne (o := 0x60) (by decide) (by decide) (by decide)

theorem Work.rd_added : (w.added k).rd (RACC_CNT (stackOf k.dest).1) = min (w.rd (RACC_CNT (stackOf k.dest).1) + 1) 0xFFFFFFFF := by
  obtain ⟨v, hv, h⟩ := w.added_from k
  rw [h, Work.rd_inc_same, hv.rd _ (RACC_CNT_ne _)]

theorem Work.added_accumulated : w.Accumulated (stackOf k.dest).1 (w.added k) := by
  obtain ⟨v, hv, h⟩ := w.added_from k
  rw [h]
  exact (hv.accumulated _).trans ⟨rfl, fun a _ hne _ => Work.rd_inc_ne _ _ hne⟩

/-- Every line that a bad contribution names is marked. -/
theorem Work.added_poisoned (hd : k.dest % 256 = 0) (htop : k.dest + 4096 ≤ 2 ^ 40) (hbad : contribBad k = true) {i : Nat}
    (hi : i ∈ contribLines k) : (w.added k).poisoned (k.dest + 256 * i) 256 = true := by
  have hmax : ∀ j ∈ contribLines k, j < 16 := fun j hj => List.mem_range.mp (List.mem_filter.mp hj).1
  have hmarks := foldl_attains (f := fun (v : Work) i => v.mark (k.dest + 256 * i) 256) (l := contribLines k)
    (P := fun i v => k.dest / 256 + i ∈ v.poison) (fun v j hj => ?_) (fun v j _ r _ hr => Work.mem_mark.mpr (.inr hr)) (w.sumStored k) i hi
  · have := hmax i hi
    rw [Work.added_eq, if_pos hbad, show k.dest + 256 * i = 256 * (k.dest / 256 + i) by omega, Work.poisoned_line (by omega),
      List.contains_iff_mem]
    exact hmarks
  · have := hmax j hj
    rw [Work.mem_mark, mem_poisonUnits (by omega)]
    exact .inl (by omega)

/-! The notification. -/

theorem Work.notifies_from : ∃ v, w.Stored v ∧ w.notifies k = v.inc (RACC_DONE_CNT (stackOf k.dest).1) := by
  refine ⟨_, ?_, rfl⟩
  cases decide (k.notify ≠ 0) with
  | true =>
    rw [Work.when_true, Work.putNum]
    exact w.putStack_stored ..
  | false => exact .refl w

theorem Work.notifies_accumulated : w.Accumulated (stackOf k.dest).1 (w.notifies k) := by
  obtain ⟨v, hv, h⟩ := w.notifies_from k
  rw [h]
  exact (hv.accumulated _).trans ⟨rfl, fun a _ _ hne => Work.rd_inc_ne _ _ hne⟩

theorem Work.rd_notifies : (w.notifies k).rd (RACC_CNT (stackOf k.dest).1) = w.rd (RACC_CNT (stackOf k.dest).1) := by
  obtain ⟨v, hv, h⟩ := w.notifies_from k
  rw [h, Work.rd_inc_ne _ _ (by simp [RACC_CNT, RACC_DONE_CNT]), hv.rd _ (RACC_CNT_ne _)]

/-- A word is shorter than any line: its write clears no mark. -/
theorem Work.notifies_poison : (w.notifies k).poison = w.poison := by
  rw [Work.notifies, Work.inc_poison]
  cases decide (k.notify ≠ 0) with
  | true =>
    rw [Work.when_true, Work.putNum, Work.putStack_poison, Work.put_false_poison, toLE_length, Work.unmark_word]
  | false => rfl

theorem Work.notifies_mem : (w.notifies k).mem =
    if k.notify = 0 then w.mem else storeCells w.mem k.notify (toLE 4 ((w.num k.notify 4 + 1) % 2 ^ 32)) := by
  rw [Work.notifies, Work.inc_mem]
  by_cases h : k.notify = 0
  · simp only [h, ne_eq, not_true_eq_false, decide_false, Work.when_false, if_true]
  · simp only [h, ne_eq, not_false_eq_true, decide_true, Work.when_true, if_false]
    exact w.putStack_mem ..

end

end Sys2Proof.Machine
end

section
/-! ### A contribution in its turn (R317 to R322) -/

namespace Sys2Proof.Machine

theorem Work.Accumulated.memc {w v : Work} {m : Nat} (h : w.Accumulated m v) (n : Nat) : v.memc n = w.memc n :=
  Work.memc_congr (congrArg Work.memcs h.rest :) n

/-! What a contribution leaves in memory. -/

section
variable (w : Work) (k : Contribution)

theorem Work.applyContrib_accumulated : w.Accumulated (stackOf k.dest).1 (w.applyContrib k) := by
  rw [Work.applyContrib_eq]
  split
  · exact (w.added_accumulated k).trans (Work.notifies_accumulated _ k)
  · exact w.added_accumulated k

theorem Work.rd_applyContrib :
    (w.applyContrib k).rd (RACC_CNT (stackOf k.dest).1) = min (w.rd (RACC_CNT (stackOf k.dest).1) + 1) 0xFFFFFFFF := by
  rw [Work.applyContrib_eq]
  split
  · rw [Work.rd_notifies, Work.rd_added]
  · rw [Work.rd_added]

theorem Work.applyContrib_poison : (w.applyContrib k).poison = (w.added k).poison := by
  rw [Work.applyContrib_eq]
  split
  · exact Work.notifies_poison _ k
  · rfl

theorem Work.byte_added (x : Nat) : (w.added k).byte x =
    if k.dest ≤ x ∧ x < k.dest + 4096 then (wordsLE (w.sumOf k)).getD (x - k.dest) 0 else w.byte x := by
  rw [Work.byte_of_stored (w.added_mem k), wordsLE_length, Work.sumOf_length]
  rfl

/-- The number that NOTIFY takes. -/
def Work.nextNotice : List Byte := toLE 4 (((w.added k).num k.notify 4 + 1) % 2 ^ 32)

theorem Work.byte_applyContrib (x : Nat) : (w.applyContrib k).byte x =
    if (k.seq + 1 = k.count ∧ k.notify ≠ 0) ∧ k.notify ≤ x ∧ x < k.notify + 4 then (w.nextNotice k).getD (x - k.notify) 0
    else (w.added k).byte x := by
  rw [Work.applyContrib_eq]
  by_cases hlast : k.seq + 1 = k.count
  · by_cases hn : k.notify = 0
    · rw [if_pos hlast, if_neg (fun h => h.1.2 hn)]
      exact Work.byte_congr (by rw [Work.notifies_mem, if_pos hn]) x
    · have hmem : ((w.added k).notifies k).mem = storeCells (w.added k).mem k.notify (w.nextNotice k) := by
        rw [Work.notifies_mem, if_neg hn]
        rfl
      rw [if_pos hlast, Work.byte_of_stored hmem, Work.nextNotice, toLE_length]
      simp only [hlast, ne_eq, hn, not_false_eq_true, and_self, true_and]
      rfl
  · rw [if_neg hlast, if_neg (fun h => hlast h.1.1)]

variable {w k} (hapart : k.notify = 0 ∨ k.notify + 4 ≤ k.dest ∨ k.dest + 4096 ≤ k.notify)
include hapart

theorem Work.applyContrib_words : (w.applyContrib k).wordsAt k.dest 1024 = w.sumOf k := by
  have hlen : (wordsLE (w.sumOf k)).length = 4096 := by rw [wordsLE_length, Work.sumOf_length]
  have hbytes : (w.applyContrib k).bytes k.dest (wordsLE (w.sumOf k)).length = wordsLE (w.sumOf k) := by
    rw [Work.bytes_eq_iff, hlen]
    intro i hi
    rw [Work.byte_applyContrib, if_neg (by omega), Work.byte_added, if_pos (by omega), Nat.add_sub_cancel_left]
  have h := Work.wordsAt_of_bytes hbytes
  rwa [Work.sumOf_length] at h

theorem Work.applyContrib_notice (hlast : k.seq + 1 = k.count) (hn : k.notify ≠ 0) :
    (w.applyContrib k).num k.notify 4 = (w.num k.notify 4 + 1) % 2 ^ 32 := by
  have hlen : (w.nextNotice k).length = 4 := toLE_length ..
  have hbytes : (w.applyContrib k).bytes k.notify (w.nextNotice k).length = w.nextNotice k := by
    rw [Work.bytes_eq_iff, hlen]
    intro i hi
    rw [Work.byte_applyContrib, if_pos ⟨⟨hlast, hn⟩, by omega⟩, Nat.add_sub_cancel_left]
  have hsame : (w.added k).num k.notify 4 = w.num k.notify 4 := by
    refine congrArg leNat (List.map_congr_left fun i hi => ?_)
    have hlt := List.mem_range.mp hi
    rw [Work.byte_added, if_neg (by omega)]
  rw [hlen] at hbytes
  rw [Work.num, hbytes, Work.nextNotice, leNat_toLE, hsame]
  exact Nat.mod_mod _ _

omit hapart in
theorem Work.applyContrib_apart {x : Nat} (hx : x < k.dest ∨ k.dest + 4096 ≤ x)
    (hnotice : k.seq + 1 = k.count → k.notify ≠ 0 → x < k.notify ∨ k.notify + 4 ≤ x) : (w.applyContrib k).byte x = w.byte x := by
  rw [Work.byte_applyContrib, if_neg, Work.byte_added, if_neg (by omega)]
  rintro ⟨⟨hlast, hn⟩, h1, h2⟩
  have := hnotice hlast hn
  omega

end

/-! Trackers. -/

/-- The memory controller of a contribution's destination as the contribution finds it: with a tracker of its block. -/
def Work.tracked (w : Work) (k : Contribution) : Memc :=
  let c := w.memc (stackOf k.dest).1
  if (c.trackers.find? (fun t => t.covers k)).isNone then
    { c with trackers := c.trackers ++ [{ dest := k.dest, count := k.count, next := 0, job := k.job, gen := k.gen }] } else c

/-- A contribution applied in its turn, its tracker advanced. -/
def Work.turnTaken (w : Work) (k : Contribution) : Work :=
  ((w.setMemc (stackOf k.dest).1 (w.tracked k)).applyContrib k).advance (stackOf k.dest).1 k

/-- A contribution held before its turn. -/
def Work.turnHeld (w : Work) (k : Contribution) : Work :=
  ((w.setMemc (stackOf k.dest).1 { w.tracked k with held := (w.tracked k).held ++ [k] }).showTrackers (stackOf k.dest).1).inc
    (RACC_HOLD_CNT (stackOf k.dest).1)

theorem Work.tracked_held (w : Work) (k : Contribution) : (w.tracked k).held = (w.memc (stackOf k.dest).1).held := by
  unfold Work.tracked
  dsimp only
  split <;> rfl

theorem Work.tracked_covers (w : Work) (k : Contribution) : ∃ x ∈ (w.tracked k).trackers, x.covers k = true := by
  unfold Work.tracked
  dsimp only
  cases h : (w.memc (stackOf k.dest).1).trackers.find? (fun t => t.covers k) with
  | none =>
    refine ⟨{ dest := k.dest, count := k.count, next := 0, job := k.job, gen := k.gen }, ?_, by simp [Tracker.covers]⟩
    simp
  | some x => exact ⟨x, List.mem_of_find?_eq_some h, List.find?_some (p := fun t : Tracker => t.covers k) h⟩

theorem Work.rd_advance (w : Work) (m : Nat) (k : Contribution) {a : Nat} (h : a ≠ MC_STATUS m) : (w.advance m k).rd a = w.rd a :=
  Work.rd_setFld_ne _ _ _ _ _ h

theorem Work.advance_memc (w : Work) (m : Nat) (k : Contribution) : (w.advance m k).memc m = { w.memc m with
    trackers := if k.seq + 1 = k.count then (w.memc m).trackers.filter (fun t => !t.covers k)
      else (w.memc m).trackers.map (fun t => if t.covers k then { t with next := k.seq + 1 } else t) } := Work.memc_setMemc_same ..

section
variable (w : Work) (k : Contribution)

theorem Work.turnTaken_memc : (w.turnTaken k).memc (stackOf k.dest).1 = { w.tracked k with
    trackers := if k.seq + 1 = k.count then (w.tracked k).trackers.filter (fun t => !t.covers k)
      else (w.tracked k).trackers.map (fun t => if t.covers k then { t with next := k.seq + 1 } else t) } := by
  have happlied : ((w.setMemc (stackOf k.dest).1 (w.tracked k)).applyContrib k).memc (stackOf k.dest).1 = w.tracked k := by
    rw [(Work.applyContrib_accumulated _ k).memc, Work.memc_setMemc_same]
  rw [Work.turnTaken, Work.advance_memc, happlied]

theorem Work.turnTaken_freed (hlast : k.seq + 1 = k.count) :
    ∀ x ∈ ((w.turnTaken k).memc (stackOf k.dest).1).trackers, x.covers k = false := by
  intro x hx
  rw [Work.turnTaken_memc, if_pos hlast] at hx
  simpa using (List.mem_filter.mp hx).2

theorem Work.turnTaken_next (hmore : k.seq + 1 < k.count) :
    ∃ x ∈ ((w.turnTaken k).memc (stackOf k.dest).1).trackers, x.covers k = true ∧ x.next = k.seq + 1 := by
  obtain ⟨x, hx, hcov⟩ := w.tracked_covers k
  rw [Work.turnTaken_memc, if_neg (by omega)]
  exact ⟨{ x with next := k.seq + 1 }, List.mem_map.mpr ⟨x, hx, if_pos hcov⟩, hcov, rfl⟩

/-- A contribution in its turn leaves ports, flows and reductions as they were. -/
theorem Work.turnTaken_rest : (w.turnTaken k).red = w.red ∧ (w.turnTaken k).links = w.links ∧ (w.turnTaken k).rxFlows = w.rxFlows := by
  obtain ⟨hrest, -⟩ := Work.applyContrib_accumulated (w.setMemc (stackOf k.dest).1 (w.tracked k)) k
  exact ⟨(congrArg Work.red hrest :), (congrArg Work.links hrest :), (congrArg Work.rxFlows hrest :)⟩

theorem Work.rd_turnTaken :
    (w.turnTaken k).rd (RACC_CNT (stackOf k.dest).1) = min (w.rd (RACC_CNT (stackOf k.dest).1) + 1) 0xFFFFFFFF := by
  rw [Work.turnTaken, Work.rd_advance _ _ _ (by simp [RACC_CNT, MC_STATUS]), Work.rd_applyContrib]
  rfl

end

/-! The answer of the controller. -/

/-- The SEQ that a block's tracker expects. -/
def Work.turnOf (w : Work) (k : Contribution) : Nat :=
  match (w.memc (stackOf k.dest).1).trackers.find? (fun t => t.covers k) with | some t => t.next | none => 0

theorem malformedContrib_iff {k : Contribution} (h : malformedContrib k = false) :
    k.seq < k.count ∧ accBytes k.fmt = some k.data.length ∧ k.dest % 4096 = 0 ∧ k.dest + 4096 ≤ apertureBase := by
  simp only [malformedContrib, Bool.or_eq_false_iff, decide_eq_false_iff_not, bne_eq_false_iff_eq, not_le, not_lt] at h
  obtain ⟨⟨⟨⟨⟨hseq, hlen⟩, -⟩, -⟩, hdest⟩, hend⟩ := h
  exact ⟨hseq, hlen, hdest, hend⟩

theorem accBytes_le {f n : Nat} (h : accBytes f = some n) : n ≤ 4096 := by
  unfold accBytes at h
  split at h <;> simp only [Option.some.injEq, reduceCtorEq] at h <;> omega

section
variable {w : Work} {k : Contribution} (hwf : malformedContrib k = false) (hheld : (w.memc (stackOf k.dest).1).held = [])
  (hcount : ∀ x, (w.memc (stackOf k.dest).1).trackers.find? (fun t => t.covers k) = some x → x.count = k.count)
  (hroom : (w.memc (stackOf k.dest).1).trackers.find? (fun t => t.covers k) = none →
    (w.memc (stackOf k.dest).1).trackers.length < 4096)
include hwf hheld hcount hroom

/-- A contribution in its turn, or before it, meets no reason to be dropped or refused. -/
theorem Work.contribute_taken (hturn : w.turnOf k ≤ k.seq) :
    (k.seq = w.turnOf k → (w.contribute k).2 = w.turnTaken k ∧ ((w.contribute k).1 = .held ∨ (w.contribute k).1 = .complete)) ∧
      (k.seq ≠ w.turnOf k → w.contribute k = (.held, w.turnHeld k)) := by
  obtain ⟨-, hlen, -, -⟩ := malformedContrib_iff hwf
  have hsmall := accBytes_le hlen
  unfold Work.contribute
  extract_lets m c t next odd fresh c' v
  have hnext : next = w.turnOf k := rfl
  have hodd : odd = false := by
    cases hf : (w.memc (stackOf k.dest).1).trackers.find? (fun t => t.covers k) with
    | none =>
      simp only [odd, t, c, m, hf]
    | some x =>
      simp only [odd, t, c, m, hf, hcount x hf, bne_self_eq_false]
  have hgood : ¬ (malformedContrib k || odd || decide (k.seq < next) || c.held.any (fun h => sameContrib h k && h.seq == k.seq)) = true := by
    rw [hwf, hodd, hheld, hnext, decide_eq_false (by omega)]
    exact Bool.false_ne_true
  have hfits : ¬ (t.isNone && decide (4096 ≤ c.trackers.length)) = true := by
    rw [Bool.and_eq_true, decide_eq_true_eq, Option.isNone_iff_eq_none, not_and, Nat.not_le]
    exact hroom
  have hshort : ¬ (decide (k.seq ≠ next) &&
      decide (8388608 < (c.held.map (fun h => h.data.length + 40)).sum + k.data.length + 40)) = true := by
    rw [hheld, List.map_nil, List.sum_nil, Bool.and_eq_true, decide_eq_true_eq, decide_eq_true_eq]
    omega
  rw [if_neg hgood, if_neg hfits, if_neg hshort, hnext]
  refine ⟨fun h => ?_, fun h => if_neg h⟩
  rw [if_pos h]
  have hdrained : v = w.turnTaken k := by
    have hnone : c'.held = [] := (w.tracked_held k).trans hheld
    unfold v
    rw [hnone]
    rfl
  refine ⟨hdrained, ?_⟩
  dsimp only
  split
  · exact .inl rfl
  · exact .inr rfl

end

end Sys2Proof.Machine
end

section
/-! ### Contributions that arrive (R315, R319 to R321, R326) -/

namespace Sys2Proof.Machine

theorem Work.Acked.held {w v : Work} (h : w.Acked v) (k : Nat) : (v.link k).held = (w.link k).held := h.routed.held k

/-! With no bucket nothing follows from a contribution. -/

theorem Work.noteOvf_of_none {w : Work} (h : w.red.buckets = []) (k : Contribution) : w.noteOvf k = w := by
  unfold Work.noteOvf
  rw [h]
  split <;> rfl

theorem Work.blockDone_of_none {w : Work} (h : w.red.buckets = []) (k : Contribution) : w.blockDone k = w := by
  unfold Work.blockDone
  rw [h]
  rfl

theorem Work.takeContrib_of_none {w : Work} {k : Contribution} (h : (w.contribute k).2.red.buckets = []) :
    w.takeContrib k = w.contribute k := by
  unfold Work.takeContrib
  extract_lets r v
  have hv : v = r.2 := by
    unfold v
    split
    · rfl
    · rfl
    · exact Work.noteOvf_of_none h k
  rw [hv, Work.blockDone_of_none h, ite_self]

/-! An ACC packet. -/

theorem contribOf_some {p : Packet} {c : Contribution} (h : contribOf p false = some c) : 40 ≤ p.payload.length ∧ c.lost = false := by
  unfold contribOf at h
  extract_lets l n at h
  split at h
  · cases h
  · rename_i hlen
    cases h
    exact ⟨Nat.not_lt.mp hlen, rfl⟩

/-- The contribution matches the check that its packet carries. -/
def contribChecks (p : Packet) (c : Contribution) : Bool :=
  crc32c (c.data ++ toBE 2 c.poisonMap) == beAt p.payload (32 + (p.payload.length - 40)) 4

theorem contribChecks_iff {p : Packet} {c : Contribution} (h : contribOf p false = some c) :
    contribChecks p c = true ↔ crc32c (c.data ++ toBE 2 c.poisonMap) = beAt p.payload (p.payload.length - 8) 4 := by
  have hlen := (contribOf_some h).1
  rw [contribChecks, beq_iff_eq, show 32 + (p.payload.length - 40) = p.payload.length - 8 by omega]

section
variable {w : Work} {p : Packet} {c : Contribution} (hc : contribOf p false = some c) (hwf : malformedContrib c = false)
include hc hwf

theorem Work.takeAcc_again (hsum : contribChecks p c = false) (hfirst : (w.rxFlow p).retry = false) :
    w.takeAcc p = (w.setRx p { w.rxFlow p with retry := true }, 2) := by
  have hsum' : (crc32c (c.data ++ toBE 2 c.poisonMap) == beAt p.payload (32 + (p.payload.length - 40)) 4) = false := hsum
  simp [Work.takeAcc, hc, hwf, hsum', hfirst]

theorem Work.takeAcc_taken (hsum : contribChecks p c = true)
    (htaken : (w.takeContrib c).1 = .held ∨ (w.takeContrib c).1 = .complete) :
    w.takeAcc p = ((w.takeContrib c).2.when ((w.rxFlow p).retry || (w.rxFlow p).rematch)
      (·.transient (TBLK_RETRY_CNT (stackOf c.dest).1)), 0) := by
  have hsum' : (crc32c (c.data ++ toBE 2 c.poisonMap) == beAt p.payload (32 + (p.payload.length - 40)) 4) = true := hsum
  rcases htaken with h | h <;> simp [Work.takeAcc, hc, hwf, hsum', h]

end

/-! The command. -/

section
variable {s : State} {k : Fin 40} {p : Packet} (hr : s.Receives k p 1)
include hr

theorem gives_accContribution {w : Work} (hw : s.work.receiveMem k.val p (·.takeAcc p) = w) (hred : w.red = {})
    (hheld : ∀ j < 36, (w.link j).held = []) : Gives (.accContribution k p) s w := by
  obtain ⟨halive, harr, -, -⟩ := hr
  refine gives_of_run (execAccContribution.eq_1 k p s) halive ((if_pos harr).trans ?_)
  rw [hw, Work.redGo_of_unheld (by rw [hred]) (by rw [hred]) hheld]

theorem acc_next : reliableType p.type = true ∧ untracked p = false ∧ p.psn = (s.work.rxFlow p).next := by
  obtain ⟨-, harr, -, hn⟩ := hr
  have ht : p.type = 1 := arrives_type harr
  have hrel : reliableType p.type = true := by
    rw [ht]
    rfl
  have hu : untracked p = false := untracked_of_type (by rw [ht]; decide)
  exact ⟨hrel, hu, by simpa [hrel, hu] using hn⟩

variable {c : Contribution} (hc : contribOf p false = some c) (hwf : malformedContrib c = false) (hred : s.work.red = {})
  (hheld : ∀ j < 36, (s.work.link j).held = [])
include hred hheld

theorem leads_acc_parked (hserved : s.work.packetServed p = false) : Leads (.accContribution k p) s (fun w =>
    w.parked = s.work.parked ++ [(s.work.issuer (1040 + k.val), .packet p)] ∧ w.mem = s.work.mem ∧ w.memcs = s.work.memcs ∧
      w.rxFlows = s.work.rxFlows) :=
  ⟨_, gives_accContribution hr (Work.receiveMem_waits hr.2.2.1 hserved) hred hheld, rfl, rfl, rfl, rfl⟩

variable (hserved : s.work.packetServed p = true)
include hc hwf hserved

theorem leads_acc_again (hsum : contribChecks p c = false) (hfirst : (s.work.rxFlow p).retry = false) :
    Leads (.accContribution k p) s (fun w => w.mem = s.work.mem ∧ w.memcs = s.work.memcs ∧ (w.rxFlow p).retry = true ∧
      (w.rxFlow p).next = (s.work.rxFlow p).next) := by
  obtain ⟨hrel, hu, hn⟩ := acc_next hr
  have htake := Work.takeAcc_again hc hwf hsum hfirst
  have hack := s.work.setRx_answer_acked p { s.work.rxFlow p with retry := true } (type := 3) rfl p.psn 2
  refine ⟨_, gives_accContribution hr (w := (s.work.setRx p { s.work.rxFlow p with retry := true }).answer p 3 p.psn 2) ?_
    (hack.red.trans hred) fun j hj => (hack.held j).trans (hheld j hj), hack.mem, hack.memcs, ?_, ?_⟩
  · rw [Work.receiveMem_served hserved, Work.receive_again hr.2.2.1 hrel hu hn (by rw [htake]; simp) (by rw [htake]; simp), htake]
  · rw [Work.rxFlow_answer, Work.rxFlow_setRx_same]
  · rw [Work.rxFlow_answer, Work.rxFlow_setRx_same]

variable (hsum : contribChecks p c = true) (hnone : (s.work.memc (stackOf c.dest).1).held = [])
  (hcount : ∀ x, (s.work.memc (stackOf c.dest).1).trackers.find? (fun t => t.covers c) = some x → x.count = c.count)
  (hroom : (s.work.memc (stackOf c.dest).1).trackers.find? (fun t => t.covers c) = none →
    (s.work.memc (stackOf c.dest).1).trackers.length < 4096)
include hsum hnone hcount hroom

/-- The state in which a contribution taken by its controller leaves its flow: counted where it came again. -/
theorem gives_acc_taken {u : Work} (hturn : s.work.turnOf c ≤ c.seq)
    (hu : u = if c.seq = s.work.turnOf c then s.work.turnTaken c else s.work.turnHeld c) :
    ∃ x, Gives (.accContribution k p) s (s.work.settled (u.when x (·.transient (TBLK_RETRY_CNT (stackOf c.dest).1))) p) := by
  obtain ⟨hnow, hlater⟩ := Work.contribute_taken hwf hnone hcount hroom hturn
  have htaken : (s.work.contribute c).2 = u ∧ ((s.work.contribute c).1 = .held ∨ (s.work.contribute c).1 = .complete) := by
    by_cases h : c.seq = s.work.turnOf c
    · rw [hu, if_pos h]
      exact hnow h
    · rw [hu, if_neg h, hlater h]
      exact ⟨rfl, .inl rfl⟩
  have hrest : u.red = s.work.red ∧ u.links = s.work.links := by
    obtain ⟨h1, h2, -⟩ := s.work.turnTaken_rest c
    rw [hu]
    split
    · exact ⟨h1, h2⟩
    · exact ⟨rfl, rfl⟩
  have hcontrib : s.work.takeContrib c = s.work.contribute c := by
    refine Work.takeContrib_of_none ?_
    rw [htaken.1, hrest.1, hred]
  have htake := Work.takeAcc_taken (w := s.work) hc hwf hsum (by rw [hcontrib]; exact htaken.2)
  rw [hcontrib, htaken.1] at htake
  set x := (s.work.rxFlow p).retry || (s.work.rxFlow p).rematch
  set v := u.when x (·.transient (TBLK_RETRY_CNT (stackOf c.dest).1)) with hv
  have hvrest : v.red = u.red ∧ v.links = u.links := by
    rw [hv]
    cases x <;> exact ⟨rfl, rfl⟩
  have hack := s.work.settled_acked v p
  refine ⟨x, gives_accContribution hr ?_ ?_ fun j hj => ?_⟩
  · rw [Work.receiveMem_served hserved, Work.receive_taken hr.2.2.1 hr.2.2.2 _ (by rw [htake]), htake]
  · rw [hack.red, hvrest.1, hrest.1, hred]
  · rw [hack.held, Work.link, hvrest.2, hrest.2]
    exact hheld j hj

end

/-- A contribution that came again is counted beside its controller's registers. -/
theorem Work.accAgain_frame (w : Work) (x : Bool) (m : Nat) :
    w.when x (·.transient (TBLK_RETRY_CNT m)) = { w with regs := (w.when x (·.transient (TBLK_RETRY_CNT m))).regs } := by
  cases x <;> rfl

theorem Work.rd_accAgain (w : Work) (x : Bool) {m o : Nat} (ho : o < 0x10000) (hne : o ≠ 0x58) :
    (w.when x (·.transient (TBLK_RETRY_CNT m))).rd (memcBase m + o) = w.rd (memcBase m + o) := by
  cases x with
  | true =>
    rw [Work.when_true, Work.transient, Work.rd_inc_ne _ _ (by unfold TRANSIENT_CNT memcBase; omega),
      Work.rd_inc_ne _ _ (by unfold TBLK_RETRY_CNT memcBase; omega)]
  | false => rfl

section
variable {s : State} {k : Fin 40} {p : Packet} {c : Contribution} (hr : s.Receives k p 1) (hc : contribOf p false = some c)
  (hwf : malformedContrib c = false) (hred : s.work.red = {}) (hheld : ∀ j < 36, (s.work.link j).held = [])
  (hserved : s.work.packetServed p = true) (hsum : contribChecks p c = true) (hnone : (s.work.memc (stackOf c.dest).1).held = [])
  (hcount : ∀ x, (s.work.memc (stackOf c.dest).1).trackers.find? (fun t => t.covers c) = some x → x.count = c.count)
  (hroom : (s.work.memc (stackOf c.dest).1).trackers.find? (fun t => t.covers c) = none →
    (s.work.memc (stackOf c.dest).1).trackers.length < 4096)
include hr hc hwf hred hheld hserved hsum hnone hcount hroom

theorem leads_acc_turn (hturn : c.seq = s.work.turnOf c)
    (hapart : c.notify = 0 ∨ c.notify + 4 ≤ c.dest ∨ c.dest + 4096 ≤ c.notify) :
    Leads (.accContribution k p) s (fun w => w.wordsAt c.dest 1024 = s.work.sumOf c ∧
      (∀ a, (a < c.dest ∨ c.dest + 4096 ≤ a) → (c.seq + 1 = c.count → c.notify ≠ 0 → a < c.notify ∨ c.notify + 4 ≤ a) →
        w.byte a = s.work.byte a) ∧
      (c.seq + 1 = c.count → c.notify ≠ 0 → w.num c.notify 4 = (s.work.num c.notify 4 + 1) % 2 ^ 32) ∧
      (∀ i ∈ contribLines c, w.poisoned (c.dest + 256 * i) 256 = true) ∧
      w.rd (RACC_CNT (stackOf c.dest).1) = min (s.work.rd (RACC_CNT (stackOf c.dest).1) + 1) 0xFFFFFFFF ∧
      (c.seq + 1 = c.count → ∀ x ∈ (w.memc (stackOf c.dest).1).trackers, x.covers c = false) ∧
      (c.seq + 1 < c.count → ∃ x ∈ (w.memc (stackOf c.dest).1).trackers, x.covers c = true ∧ x.next = c.seq + 1) ∧
      (w.rxFlow p).next = ((s.work.rxFlow p).next + 1) % 2 ^ 32) := by
  obtain ⟨hrel, hu, -⟩ := acc_next hr
  obtain ⟨-, -, hdest, hend⟩ := malformedContrib_iff hwf
  have htop : apertureBase ≤ 2 ^ 40 := by decide
  obtain ⟨x, hg⟩ := gives_acc_taken hr hc hwf hred hheld hserved hsum hnone hcount hroom (u := s.work.turnTaken c) hturn.ge
    (if_pos hturn).symm
  set m := (stackOf c.dest).1 with hm
  set v := (s.work.turnTaken c).when x (·.transient (TBLK_RETRY_CNT m)) with hv
  have hframe : v = { s.work.turnTaken c with regs := v.regs } := Work.accAgain_frame _ x m
  have hack := s.work.settled_acked v p
  set u := s.work.setMemc m (s.work.tracked c)
  have hmem : (s.work.settled v p).mem = (u.applyContrib c).mem := hack.mem.trans (congrArg Work.mem hframe :)
  have hpoison : (s.work.settled v p).poison = (u.applyContrib c).poison := hack.poison.trans (congrArg Work.poison hframe :)
  have hmemc : (s.work.settled v p).memc m = (s.work.turnTaken c).memc m :=
    Work.memc_congr (hack.memcs.trans (congrArg Work.memcs hframe :)) m
  have hwords : (u.applyContrib c).wordsAt c.dest 1024 = s.work.sumOf c := Work.applyContrib_words (w := u) hapart
  refine ⟨_, hg, ?_, fun a ha hn => ?_, fun hlast hn => ?_, fun i hi => ?_, ?_, fun hlast => ?_, fun hmore => ?_,
    s.work.settled_next v hrel hu⟩
  · rw [← hwords]
    exact List.map_congr_left fun i _ => congrArg (BitVec.ofNat 32) (Work.num_congr hmem _ _)
  · rw [Work.byte_congr hmem]
    exact Work.applyContrib_apart (w := u) ha hn
  · rw [Work.num_congr hmem]
    exact Work.applyContrib_notice (w := u) hapart hlast hn
  · have hbad : contribBad c = true := by
      by_contra hgood
      simp only [contribBad, (contribOf_some hc).2, Bool.false_or, ne_eq, decide_not, Bool.not_eq_true', decide_eq_false_iff_not,
        not_not] at hgood
      rw [contribLines, (contribOf_some hc).2, hgood] at hi
      simp at hi
    rw [Work.poisoned_congr (hpoison.trans (u.applyContrib_poison c))]
    exact u.added_poisoned c (by omega) (by omega) hbad hi
  · rw [hack.rd (a := RACC_CNT m) (memcBase_lt (stackOf_lt _) (o := 0x60) (by decide)).1]
    exact (Work.rd_accAgain _ x (o := 0x60) (by decide) (by decide)).trans (s.work.rd_turnTaken c)
  · rw [hmemc]
    exact s.work.turnTaken_freed c hlast
  · rw [hmemc]
    exact s.work.turnTaken_next c hmore

theorem leads_acc_held (hearly : s.work.turnOf c < c.seq) :
    Leads (.accContribution k p) s (fun w => w.mem = s.work.mem ∧ (w.memc (stackOf c.dest).1).held = [c] ∧
      w.rd (RACC_HOLD_CNT (stackOf c.dest).1) = min (s.work.rd (RACC_HOLD_CNT (stackOf c.dest).1) + 1) 0xFFFFFFFF ∧
      (w.rxFlow p).next = ((s.work.rxFlow p).next + 1) % 2 ^ 32) := by
  obtain ⟨hrel, hu, -⟩ := acc_next hr
  obtain ⟨x, hg⟩ := gives_acc_taken hr hc hwf hred hheld hserved hsum hnone hcount hroom (u := s.work.turnHeld c) hearly.le
    (if_neg hearly.ne').symm
  set m := (stackOf c.dest).1 with hm
  set v := (s.work.turnHeld c).when x (·.transient (TBLK_RETRY_CNT m)) with hv
  have hframe : v = { s.work.turnHeld c with regs := v.regs } := Work.accAgain_frame _ x m
  have hack := s.work.settled_acked v p
  refine ⟨_, hg, hack.mem.trans (congrArg Work.mem hframe :), ?_, ?_, s.work.settled_next v hrel hu⟩
  · have hmemc : (s.work.settled v p).memc m = (s.work.turnHeld c).memc m :=
      Work.memc_congr (hack.memcs.trans (congrArg Work.memcs hframe :)) m
    have hheld' : (s.work.turnHeld c).memc m = { s.work.tracked c with held := (s.work.tracked c).held ++ [c] } :=
      Work.memc_setMemc_same ..
    rw [hmemc, hheld']
    dsimp only
    rw [Work.tracked_held, hnone, List.nil_append]
  · rw [hack.rd (a := RACC_HOLD_CNT m) (memcBase_lt (stackOf_lt _) (o := 0x64) (by decide)).1]
    refine (Work.rd_accAgain _ x (o := 0x64) (by decide) (by decide)).trans ?_
    change (s.work.turnHeld c).rd (RACC_HOLD_CNT m) = _
    rw [Work.turnHeld, Work.rd_inc_same, Work.showTrackers, Work.rd_setFld_ne _ _ _ _ _ (by simp [RACC_HOLD_CNT, MC_STATUS])]
    rfl

end

end Sys2Proof.Machine
end

section
/-! ### Scale exchange and redo notices (R383, R384, R388) -/

namespace Sys2Proof.Machine

/-! A bucket whose next steps wait. -/

section
variable {w : Work} {key : Nat} {b : Bucket} (hb : w.bucket key = some b)
include hb

theorem Work.tryRedo_unnoticed (h : b.redo = []) : w.tryRedo key = w := by
  simp [Work.tryRedo, hb, h]

theorem Work.tryGather_of_one (h : b.two = false) : w.tryGather key = w := by
  simp [Work.tryGather, hb, h]

theorem Work.advanceBucket_of_closed (h : (b.two && !(b.stage 1).isOpen) = false) : w.advanceBucket key = (w.tryRedo key).tryGather key := by
  simp only [Work.advanceBucket, hb, h, Bool.false_and, Bool.false_eq_true, if_false]

/-- A bucket of one stage with no redo noticed has nothing to go on with. -/
theorem Work.advanceBucket_of_one (h : b.two = false) (hredo : b.redo = []) : w.advanceBucket key = w := by
  rw [Work.advanceBucket_of_closed hb (by rw [h, Bool.false_and]), Work.tryRedo_unnoticed hb hredo, Work.tryGather_of_one hb h]

variable {q : Nat} (hq : q ∈ segsOf (b.own 0)) (hunwritten : q ∉ b.written)
include hq hunwritten

/-- The redo pass waits for a segment that is neither written nor noticed (R388). -/
theorem Work.tryRedo_waits (hunnoticed : Sp.find b.redo q = none) : w.tryRedo key = w := by
  have hall : (segsOf (b.own 0)).all (fun s => b.written.contains s || (Sp.find b.redo s).isSome) = false :=
    List.all_eq_false.mpr ⟨q, hq, by simp [hunwritten, hunnoticed]⟩
  simp only [Work.tryRedo, hb, hall, Bool.not_false, Bool.or_true, if_true]

/-- The gather waits for a segment that is not written (R372). -/
theorem Work.tryGather_waits : w.tryGather key = w := by
  have hall : (segsOf (b.own 0)).all (fun s => b.written.contains s) = false :=
    List.all_eq_false.mpr ⟨q, hq, by simp [hunwritten]⟩
  simp only [Work.tryGather, hb, hall, Bool.not_false, Bool.or_true, if_true]

end

theorem Work.bucket_congr {v w : Work} (h : v.red = w.red) (key : Nat) : v.bucket key = w.bucket key := by
  rw [Work.bucket, h, Work.bucket]

theorem Work.bucket_setBucket_same (w : Work) (key : Nat) (b : Bucket) : (w.setBucket key b).bucket key = some b := Sp.find_put_same ..

theorem Work.bucket_of_only {w : Work} {key : Nat} {b : Bucket} (h : w.red = { buckets := [(key, b)] }) : w.bucket key = some b := by
  rw [Work.bucket, h, Sp.find_singleton]

/-! The entries of a report, an update or a notice. -/

section
variable {w : Work} {body : List Byte} {es : List (Nat × Int)} (hes : scaleEntries body = some es)
include hes

theorem Work.mergeScales_eq : w.mergeScales body = w.setMcrew (beAt body 0 2) { w.mcrew (beAt body 0 2) with
    scales := (w.mcrew (beAt body 0 2)).scales.filter (fun e => !es.any (fun f => f.1 == e.1)) ++ es
    scaleDue := beatAdd (beAt body 4 8) (max 64 (w.fld SCALE_CFG 16 16)) } := by
  simp only [Work.mergeScales, hes]

theorem Work.takeScales_ahead (h : beatBefore w.beatFull (beAt body 4 8) = true) : w.takeScales body =
    ({ w with red := { w.red with updates := w.red.updates ++ [(beAt body 4 8, es)] } }).showRed := by
  simp only [Work.takeScales, hes, h, Bool.not_true, Bool.false_eq_true, if_false]

theorem Work.takeScales_late (h : beatBefore w.beatFull (beAt body 4 8) = false) : w.takeScales body =
    { w.setBit RED_ERR 1 with red := { w.red with scaleLate := true } } := by
  simp only [Work.takeScales, hes, h, Bool.not_false, if_true]

end

/-- A notice of a segment's redo noted in its bucket, which waits for another segment. -/
theorem Work.takeRedo_noted {w : Work} {p : Packet} {body : List Byte} {key : Nat} {b : Bucket} {st0 st1 : Stage}
    (hred : w.red = { buckets := [(key, b)] }) (hheld : ∀ j < 36, (w.link j).held = []) (hst : b.stages = [st0, st1])
    (hnum : b.num = beAt body 0 2) (hopen : st1.isOpen = true) (hring : st1.ring = false) (hnode : p.src ∈ st1.nodes)
    (hlen : body.length = 16) (hone : beAt body 2 1 = 1) (hzero : allZero (sub body 8 8) = true)
    (hseg : beAt body 4 4 ∈ segsOf (b.own 0))
    (hwait : ∃ q ∈ segsOf (b.own 0), q ≠ beAt body 4 4 ∧ q ∉ b.written ∧ Sp.find b.redo q = none) :
    w.takeRedo p body = w.setBucket key { b with redo := Sp.put b.redo (beAt body 4 4) (sext 8 (beAt body 3 1)) } := by
  obtain ⟨q, hq, hne, hunwritten, hunnoticed⟩ := hwait
  have hstage : b.stage 1 = st1 := by rw [Bucket.stage, hst]; rfl
  have htwo : b.two = true := by rw [Bucket.two, hst]; rfl
  have hfind : w.red.buckets.find? (fun q => q.2.num == beAt body 0 2 && q.2.two && (q.2.stage 1).isOpen && !(q.2.stage 1).ring &&
      (q.2.stage 1).nodes.contains p.src) = some (key, b) := by
    rw [hred]
    simp [hnum, htwo, hstage, hopen, hring, hnode]
  set b' : Bucket := { b with redo := Sp.put b.redo (beAt body 4 4) (sext 8 (beAt body 3 1)) } with hb'
  set v := w.setBucket key b' with hv
  have hbucket : v.bucket key = some b' := w.bucket_setBucket_same key b'
  have hq' : q ∈ segsOf (b'.own 0) := hq
  have hunwritten' : q ∉ b'.written := hunwritten
  have hredo : v.tryRedo key = v := Work.tryRedo_waits hbucket hq' hunwritten' ((Sp.find_put_ne _ _ _ hne).trans hunnoticed)
  have hopen' : (b'.two && !(b'.stage 1).isOpen) = false := by
    rw [show b'.stage 1 = st1 from hstage, hopen, Bool.not_true, Bool.and_false]
  have hadvance : v.advanceBucket key = v := by
    rw [Work.advanceBucket_of_closed hbucket hopen', hredo, Work.tryGather_waits hbucket hq' hunwritten']
  have hgo : v.redGo = v := Work.redGo_of_unheld (show v.red.mine = [] by rw [hv, Work.setBucket, hred])
    (show v.red.refused = [] by rw [hv, Work.setBucket, hred]) hheld
  simp only [Work.takeRedo, hfind]
  rw [if_neg (by simp [hlen, hone, hzero, hseg]), ← hb', ← hv, hredo, hadvance, hgo]

/-! The commands. -/

section
variable {s : State} {k : Fin 40} {p : Packet} {c : Ctrl}

theorem gives_scaleReport {es : List (Nat × Int)} (hh : s.Hears k p 14 c) (hact : s.work.acting = true)
    (hes : scaleEntries c.body = some es) : Gives (.scaleReport k p) s (s.work.settled (s.work.setMcrew (beAt c.body 0 2)
      { s.work.mcrew (beAt c.body 0 2) with
        scales := (s.work.mcrew (beAt c.body 0 2)).scales.filter (fun e => !es.any (fun f => f.1 == e.1)) ++ es
        scaleDue := beatAdd (beAt c.body 4 8) (max 64 (s.work.fld SCALE_CFG 16 16)) }) p) := by
  refine gives_of_run (execScaleReport.eq_1 k p s) hh.1.1 ((Work.hears_settled hh _).trans ?_)
  rw [if_pos hact, Work.mergeScales_eq hes]

theorem gives_scaleUpdate (hh : s.Hears k p 15 c) (hmgr : s.work.mgr.mgrNode = some p.src) :
    Gives (.scaleUpdate k p) s (s.work.settled (s.work.takeScales c.body) p) := by
  have hfrom : s.work.fromManager p = true := by rw [Work.fromManager, hmgr, beq_self_eq_true]
  refine gives_of_run (execScaleUpdate.eq_1 k p s) hh.1.1 ((Work.hears_settled hh _).trans ?_)
  rw [if_pos hfrom]

theorem Work.Acked.flag {w v : Work} (h : w.Acked v) {a : Nat} (ha : a < linkBase 0) (i : Nat) : v.flag a i = w.flag a i :=
  Work.flag_congr (h.rd ha) i

theorem leads_scaleUpdate_ahead {es : List (Nat × Int)} (hh : s.Hears k p 15 c) (hmgr : s.work.mgr.mgrNode = some p.src)
    (hes : scaleEntries c.body = some es) (h : beatBefore s.work.beatFull (beAt c.body 4 8) = true) :
    Leads (.scaleUpdate k p) s (fun w => w.red.updates = s.work.red.updates ++ [(beAt c.body 4 8, es)] ∧
      w.flag RED_STATUS 8 = true ∧ w.mem = s.work.mem ∧ w.red.scaleLate = s.work.red.scaleLate) := by
  have hack := s.work.settled_acked (s.work.takeScales c.body) p
  have htake := Work.takeScales_ahead hes h
  refine ⟨_, gives_scaleUpdate hh hmgr, ?_, ?_, ?_, ?_⟩
  · rw [hack.red, htake]
    rfl
  · rw [hack.flag (by decide), htake, Work.showRed, Work.flag_bitTo_same _ _ _ _ (by decide)]
    simp
  · rw [hack.mem, htake]
    rfl
  · rw [hack.red, htake]
    rfl

theorem leads_scaleUpdate_late {es : List (Nat × Int)} (hh : s.Hears k p 15 c) (hmgr : s.work.mgr.mgrNode = some p.src)
    (hes : scaleEntries c.body = some es) (h : beatBefore s.work.beatFull (beAt c.body 4 8) = false) :
    Leads (.scaleUpdate k p) s (fun w => w.red.updates = s.work.red.updates ∧ w.red.scaleLate = true ∧
      w.flag RED_ERR 1 = true ∧ w.mem = s.work.mem) := by
  have hack := s.work.settled_acked (s.work.takeScales c.body) p
  have htake := Work.takeScales_late hes h
  refine ⟨_, gives_scaleUpdate hh hmgr, ?_, ?_, ?_, ?_⟩
  · rw [hack.red, htake]
  · rw [hack.red, htake]
  · rw [hack.flag (by decide), htake]
    exact Work.flag_setBit_same s.work RED_ERR 1 (by decide)
  · rw [hack.mem, htake]
    rfl

theorem leads_redo {key : Nat} {b : Bucket} {st0 st1 : Stage} (hh : s.Hears k p 16 c) (hred : s.work.red = { buckets := [(key, b)] })
    (hheld : ∀ j < 36, (s.work.link j).held = []) (hst : b.stages = [st0, st1]) (hnum : b.num = beAt c.body 0 2)
    (hopen : st1.isOpen = true) (hring : st1.ring = false) (hnode : p.src ∈ st1.nodes) (hlen : c.body.length = 16)
    (hone : beAt c.body 2 1 = 1) (hzero : allZero (sub c.body 8 8) = true) (hseg : beAt c.body 4 4 ∈ segsOf (b.own 0))
    (hwait : ∃ q ∈ segsOf (b.own 0), q ≠ beAt c.body 4 4 ∧ q ∉ b.written ∧ Sp.find b.redo q = none) :
    Leads (.redo k p) s (fun w => w.bucket key = some { b with
      redo := Sp.put b.redo (beAt c.body 4 4) (sext 8 (beAt c.body 3 1)) } ∧ w.mem = s.work.mem) := by
  refine ⟨_, gives_of_run (execRedo.eq_1 k p s) hh.1.1 (Work.hears_settled hh _), ?_⟩
  rw [Work.takeRedo_noted hred hheld hst hnum hopen hring hnode hlen hone hzero hseg hwait]
  set v := s.work.setBucket key { b with redo := Sp.put b.redo (beAt c.body 4 4) (sext 8 (beAt c.body 3 1)) }
  have hack := s.work.settled_acked v p
  exact ⟨(Work.bucket_congr hack.red key).trans (s.work.bucket_setBucket_same key _), hack.mem⟩

end

end Sys2Proof.Machine
end

section
/-! ### Adder stages and buckets (R374, R375, R377, R378)

A RING packet whose stage is not open is held; a stage that waited opens; a bucket's slot completes with its last segment. -/

namespace Sys2Proof.Machine

/-! What the adders' work leaves beside registers, ports and packets that go. -/

section
variable {Q : Packet → Prop}

theorem Work.Routed.of_regs {w v : Work} (h : v = { w with regs := v.regs }) : w.Routed Q v :=
  .of_links (by rw [h]) (by rw [h]) ⟨[], by rw [h, List.append_nil]⟩

/-- The state of an adder shown, before its pause is. -/
def Work.adderShown (w : Work) (k : Nat) : Work :=
  (w.setFld (ADD_STATUS k) 0 7 (w.link k).ctxs.length).setFld (ADD_STATUS k) 8 12
    (ceilDiv ((w.link k).held.map (fun p => w.frameBytes k p)).sum 1024)

theorem Work.showAdder_cases (w : Work) (k : Nat) : w.showAdder k = ((w.adderShown k).setBit (ADD_STATUS k) 20).emit (.pause k) ∨
    w.showAdder k = (w.adderShown k).clrBit (ADD_STATUS k) 20 ∨ w.showAdder k = w.adderShown k := by
  unfold Work.showAdder
  extract_lets l held pausing v
  split
  · exact .inl rfl
  · split
    · exact .inr (.inl rfl)
    · exact .inr (.inr rfl)

theorem Work.showAdder_routed (w : Work) (k : Nat) : w.Routed Q (w.showAdder k) := by
  rcases w.showAdder_cases k with h | h | h <;> rw [h]
  · exact .trans (v := (w.adderShown k).setBit (ADD_STATUS k) 20) (.of_regs rfl) (.emit _ _)
  · exact .of_regs rfl
  · exact .of_regs rfl

theorem Work.rd_showAdder (w : Work) (k : Nat) {a : Nat} (h : a ≠ ADD_STATUS k) : (w.showAdder k).rd a = w.rd a := by
  have hshown : (w.adderShown k).rd a = w.rd a := (Work.rd_setFld_ne _ _ _ _ _ h).trans (Work.rd_setFld_ne _ _ _ _ _ h)
  rcases w.showAdder_cases k with h' | h' | h' <;> rw [h']
  · exact (Work.rd_setBit_ne _ _ _ h).trans hshown
  · rw [Work.rd_clrBit_ne _ _ _ h, hshown]
  · exact hshown

theorem Work.showRed_routed (w : Work) : w.Routed Q w.showRed := .of_regs rfl

theorem Work.poisonReads_routed (w : Work) (a n : Nat) : w.Routed Q (w.poisonReads a n) :=
  .of_regs (w.poisonReads_frame a n)

theorem Work.sendRing_routed (w : Work) (b : Bucket) (r : Ring) : w.Routed (fun _ => True) (w.sendRing b r) := w.xmit_routed _ trivial

theorem Work.ringPacket_routed (w : Work) (key : Nat) (b : Bucket) (lvl shard : Nat) (gather redo : Bool) (fmt : Nat) (ss : List Nat)
    (vals : List (Int × List Word × Nat)) (hops xmax : Nat) :
    w.Routed (fun _ => True) (w.ringPacket key b lvl shard gather redo fmt ss vals hops xmax) := by
  unfold Work.ringPacket
  extract_lets q u v xm
  exact ((Work.Routed.incBy w _ _).trans (.when (.incBy u _ 1) _)).trans (v.sendRing_routed b _)

/-- The first packets of a ring stage. -/
theorem Work.startPass_routed (w : Work) (key : Nat) {b : Bucket} {lvl : Nat} (h : (b.stage lvl).ring = true) (pick : Nat → Bool) :
    w.Routed (fun _ => True) (w.startPass key b lvl pick) := by
  unfold Work.startPass
  extract_lets st fmt x i
  rw [if_pos h]
  exact .foldl (fun v g _ => .trans (.foldl (fun u q _ => u.poisonReads_routed _ _) v) (Work.ringPacket_routed ..)) w

end

/-! A packet whose stage is not open. -/

/-- A RING packet held for its stage. -/
def Work.ringHeld (w : Work) (k : Nat) (p : Packet) : Work :=
  ((w.setLink k { w.link k with held := (w.link k).held ++ [p] }).inc (ADD_HOLD_CNT k)).showAdder k

theorem Work.ringStage_of_none {w : Work} (h : w.red.buckets = []) (k : Nat) (r : Ring) : w.ringStage k r = none := by
  rw [Work.ringStage, h, List.find?_nil]

theorem Work.ringIn_held {w : Work} {k : Nat} {p : Packet} {r : Ring} (hr : ringOf p = some r) (h : w.ringStage k r = none) :
    w.ringIn k p = w.ringHeld k p := by
  simp only [Work.ringIn, hr, h, Work.ringHeld]

section
variable (w : Work) (k : Nat) (p : Packet)

theorem Work.ringHeld_routed : (w.setLink k { w.link k with held := (w.link k).held ++ [p] }).Routed (fun _ => True) (w.ringHeld k p) :=
  (Work.Routed.incBy _ _ 1).trans (Work.showAdder_routed _ k)

theorem Work.ringHeld_held (j : Nat) : ((w.ringHeld k p).link j).held = if j = k then (w.link k).held ++ [p] else (w.link j).held := by
  rw [(w.ringHeld_routed k p).held, Work.link_setLink]
  split <;> rfl

theorem Work.rd_ringHeld : (w.ringHeld k p).rd (ADD_HOLD_CNT k) = min (w.rd (ADD_HOLD_CNT k) + 1) 0xFFFFFFFF := by
  rw [Work.ringHeld, Work.rd_showAdder _ _ (by simp [ADD_HOLD_CNT, ADD_STATUS]), Work.rd_inc_same]
  rfl

end

theorem leads_ringPacket_held {s : State} {k : Fin 40} {p : Packet} {r : Ring} (hr : s.Receives k p 9) (hof : ringOf p = some r)
    (hred : s.work.red = {}) (hheld : ∀ j < 36, (s.work.link j).held = []) :
    Leads (.ringPacket k p) s (fun w => (w.link k.val).held = [p] ∧ w.mem = s.work.mem ∧
      w.rd (ADD_HOLD_CNT k.val) = min (s.work.rd (ADD_HOLD_CNT k.val) + 1) 0xFFFFFFFF) := by
  obtain ⟨halive, harr, hacc, -⟩ := hr
  have hk : k.val < 36 := by
    simp only [Work.arrives, Bool.and_eq_true, decide_eq_true_eq] at harr
    exact harr.1.1.2
  set v := s.work.ringHeld k.val p with hv
  have hroute := s.work.ringHeld_routed k.val p
  have hvred : v.red = {} := hroute.red.trans hred
  have hin : s.work.ringIn k.val p = v := Work.ringIn_held hof (Work.ringStage_of_none (by rw [hred]) _ r)
  have hkept : (v.link k.val).held = [p] := by
    rw [hv, Work.ringHeld_held, if_pos rfl, hheld _ hk, List.nil_append]
  have hgo : v.redGo = v := by
    refine Work.redGo_of_none (by rw [hvred]) (by rw [hvred]) fun j hj => ?_
    by_cases h : j = k.val
    · rw [h, Work.heldReady, hkept]
      simp [hof, Work.ringStage_of_none (show v.red.buckets = [] by rw [hvred])]
    · refine Work.heldReady_of_empty ?_
      rw [hv, Work.ringHeld_held, if_neg h, hheld j hj]
  refine ⟨v, gives_of_run (execRingPacket.eq_1 k p s) halive ?_, hkept, hroute.mem, s.work.rd_ringHeld k.val p⟩
  rw [if_pos (by rw [harr, hacc]; rfl), hin, hgo]

/-! A stage that waited. -/

/-- A ring stage opened: its adder context is held. -/
def Work.ringOpened (w : Work) (key : Nat) (b : Bucket) (lvl : Nat) : Work :=
  let v := w.setBucket key (b.setStage lvl { b.stage lvl with isOpen := true, waited := false })
  (((v.setLink (b.stage lvl).rx { v.link (b.stage lvl).rx with
    ctxs := (v.link (b.stage lvl).rx).ctxs ++ [(key, lvl)] }).showAdder (b.stage lvl).rx).showRed).progress 1999

section
variable {w : Work} {key lvl : Nat} {b : Bucket}

theorem Work.tryOpen_ring (hb : w.bucket key = some b) (hclosed : (b.stage lvl).isOpen = false) (hring : (b.stage lvl).ring = true)
    (hroom : (w.link (b.stage lvl).rx).ctxs.length < 64) : w.tryOpen key lvl = (true, w.ringOpened key b lvl) := by
  simp only [Work.tryOpen, hb, hclosed, hring, decide_eq_false (Nat.not_le.mpr hroom), Bool.and_false, Bool.false_eq_true, if_false,
    if_true, Work.ringOpened]

theorem Work.ringOpened_routed (w : Work) (key : Nat) (b : Bucket) (lvl : Nat) :
    ((w.setBucket key (b.setStage lvl { b.stage lvl with isOpen := true, waited := false })).setLink (b.stage lvl).rx
      { w.link (b.stage lvl).rx with ctxs := (w.link (b.stage lvl).rx).ctxs ++ [(key, lvl)] }).Routed (fun _ => True)
      (w.ringOpened key b lvl) := ((Work.showAdder_routed _ _).trans (Work.showRed_routed _)).trans (.progress _ _)

theorem Work.ringOpened_bucket (w : Work) (key : Nat) (b : Bucket) (lvl : Nat) : (w.ringOpened key b lvl).bucket key =
    some (b.setStage lvl { b.stage lvl with isOpen := true, waited := false }) :=
  (Work.bucket_congr (w.ringOpened_routed key b lvl).red key).trans (Sp.find_put_same ..)

theorem Work.ringOpened_held (w : Work) (key : Nat) (b : Bucket) (lvl j : Nat) :
    ((w.ringOpened key b lvl).link j).held = (w.link j).held := by
  rw [(w.ringOpened_routed key b lvl).held, Work.link_setLink]
  split
  · rename_i h
    rw [h]
  · rfl

theorem Work.ringOpened_ctxs (w : Work) (key : Nat) (b : Bucket) (lvl : Nat) :
    ((w.ringOpened key b lvl).link (b.stage lvl).rx).ctxs = (w.link (b.stage lvl).rx).ctxs ++ [(key, lvl)] := by
  rw [(w.ringOpened_routed key b lvl).ctxs, Work.link_setLink_same]

theorem Work.startLevel_opens {v : Work} {b' : Bucket} (ho : w.tryOpen key lvl = (true, v)) (hb : v.bucket key = some b')
    (hn : (b'.stage lvl).n ≠ 1) : w.startLevel key lvl = v.startPass key b' lvl (fun _ => true) := by
  simp only [Work.startLevel, ho, hb, hn, Bool.not_true, Bool.false_eq_true, if_false]

end

theorem Bucket.stage_only {b : Bucket} {st : Stage} (h : b.stages = [st]) : b.stage 0 = st := by
  rw [Bucket.stage, h]
  rfl

theorem Bucket.two_of_one {b : Bucket} (h : b.stages.length = 1) : b.two = false := by
  rw [Bucket.two, h]
  rfl

theorem leads_adderStageOpen {s : State} {c : Fin 1024} {slot : Nat} {b : Bucket} {st : Stage} (halive : s.board.alive = true)
    (hred : s.work.red = { buckets := [(4096 * c.val + slot, b)] }) (hst : b.stages = [st]) (hring : st.ring = true)
    (hwaited : st.waited = true) (hclosed : st.isOpen = false) (hn : 2 ≤ st.n) (hredo : b.redo = [])
    (hroom : (s.work.link st.rx).ctxs.length < 64) (hheld : ∀ j < 36, (s.work.link j).held = []) :
    Leads (.adderStageOpen c slot 0) s (fun w => (∃ b', w.bucket (4096 * c.val + slot) = some b' ∧
      (b'.stage 0).isOpen = true ∧ (b'.stage 0).waited = false ∧ b'.written = b.written) ∧
      (w.link st.rx).ctxs = (s.work.link st.rx).ctxs ++ [(4096 * c.val + slot, 0)] ∧ w.mem = s.work.mem) := by
  set key := 4096 * c.val + slot with hkey
  have hstage : b.stage 0 = st := Bucket.stage_only hst
  set b' := b.setStage 0 { b.stage 0 with isOpen := true, waited := false } with hb'
  have hst' : b'.stages = [{ st with isOpen := true, waited := false }] := by
    rw [hb', Bucket.setStage, hst, hstage]
    rfl
  have hstage' := Bucket.stage_only hst'
  set u := s.work.ringOpened key b 0 with hu
  have hopen : s.work.tryOpen key 0 = (true, u) :=
    Work.tryOpen_ring (Work.bucket_of_only hred) (by rw [hstage, hclosed]) (by rw [hstage, hring]) (by rwa [hstage])
  have hubucket : u.bucket key = some b' := s.work.ringOpened_bucket key b 0
  set v := u.startPass key b' 0 (fun _ => true) with hv
  have hpass : u.Routed (fun _ => True) v := u.startPass_routed key (by rw [hstage']; exact hring) _
  have hlevel : s.work.startLevel key 0 = v := Work.startLevel_opens hopen hubucket (by rw [hstage']; change st.n ≠ 1; omega)
  have hbucket : v.bucket key = some b' := (Work.bucket_congr hpass.red key).trans hubucket
  have hadvance : v.advanceBucket key = v :=
    Work.advanceBucket_of_one hbucket (Bucket.two_of_one (by rw [hst']; rfl)) (show b.redo = [] from hredo)
  have hroute := s.work.ringOpened_routed key b 0
  have hvred : v.red = { s.work.red with buckets := Sp.put s.work.red.buckets key b' } := hpass.red.trans hroute.red
  have hgo : v.redGo = v := Work.redGo_of_unheld (by rw [hvred, hred]) (by rw [hvred, hred]) fun j hj => by
    rw [hpass.held, hu, Work.ringOpened_held, hheld j hj]
  refine ⟨v, gives_of_run (execAdderStageOpen.eq_1 c slot 0 s) halive ?_,
    ⟨b', hbucket, by rw [hstage'], by rw [hstage'], rfl⟩, ?_, hpass.mem.trans hroute.mem⟩
  · have hbucket0 : s.work.bucket key = some b := Work.bucket_of_only hred
    simp only [← hkey, hbucket0]
    rw [if_pos (by change (b.stage 0).waited = true; rw [hstage, hwaited])]
    change ((s.work.startLevel key 0).advanceBucket key).redGo = v
    rw [hlevel, hadvance, hgo]
  · rw [hpass.ctxs, ← hstage]
    exact s.work.ringOpened_ctxs key b 0

/-! The end of a bucket. -/

theorem Work.setEntry_rest (w : Work) (i : Nat) : (w.setEntry i 0 0).red = w.red ∧ (w.setEntry i 0 0).coxes = w.coxes := by
  have hput : ∀ (v : Work) (a n : Nat), (v.putNum a n 0).red = v.red ∧ (v.putNum a n 0).coxes = v.coxes := fun v a n => by
    have hrest := (v.putStack_stored a (toLE n 0) false).rest
    exact ⟨(congrArg Work.red hrest :), (congrArg Work.coxes hrest :)⟩
  obtain ⟨h1, h2⟩ := hput (w.putNum (Work.entryAt w i + 20) 1 0) (Work.entryAt w i + 24) 4
  obtain ⟨h3, h4⟩ := hput w (Work.entryAt w i + 20) 1
  exact ⟨h1.trans h3, h2.trans h4⟩

theorem Work.freeEntry_rest (w : Work) (i : Nat) : (w.freeEntry i).red = w.red ∧ (w.freeEntry i).coxes = w.coxes :=
  Work.setEntry_rest (w.setFld POOL_FREE 0 23 (min (w.fld POOL_FREE 0 23 + w.entryPages i) (w.fld POOL_PAGES 0 23))) i

theorem Work.releaseEntries_rest (w : Work) (c n : Nat) : (w.releaseEntries c n).red = w.red ∧ (w.releaseEntries c n).coxes = w.coxes := by
  unfold Work.releaseEntries
  split
  · exact ⟨rfl, rfl⟩
  · refine List.foldlRecOn (motive := fun v : Work => v.red = w.red ∧ v.coxes = w.coxes) _ _ ⟨rfl, rfl⟩ fun v hv e _ => ?_
    obtain ⟨hred, hcoxes⟩ := v.freeEntry_rest e.entry
    exact ⟨hred.trans hv.1, hcoxes.trans hv.2⟩

theorem Work.coxReady_rest (w : Work) (c : Nat) : (w.coxReady c).red = w.red ∧ (w.coxReady c).coxes = w.coxes := by
  unfold Work.coxReady
  split <;> exact ⟨rfl, rfl⟩

/-- A slot that was not complete completes, and no reduction is changed by it. -/
theorem Work.completeSlot_completes {w : Work} {c n : Nat} (h : (w.cox c).state n ≠ 3) :
    ((w.completeSlot c n).cox c).state n = 3 ∧ (w.completeSlot c n).red = w.red := by
  rw [Work.completeSlot, if_neg h]
  set u := w.setCox c { w.cox c with runs := Sp.put (w.cox c).runs n { state := 3 } }
  obtain ⟨hred, hcoxes⟩ := u.releaseEntries_rest c n
  obtain ⟨hred', hcoxes'⟩ := Work.coxReady_rest ((u.releaseEntries c n).progress c) c
  refine ⟨?_, hred'.trans hred⟩
  have hcox : (((u.releaseEntries c n).progress c).coxReady c).cox c = u.cox c := by
    rw [Work.cox, hcoxes'.trans hcoxes, Work.cox]
  dsimp only
  rw [hcox, Work.cox_setCox_same, Cox.state]
  dsimp only
  rw [Sp.find_put_same]

theorem Bucket.stage_closed {b : Bucket} (h : ∀ st ∈ b.stages, st.isOpen = false) (lvl : Nat) : (b.stage lvl).isOpen = false := by
  unfold Bucket.stage
  cases hst : b.stages[lvl]? with
  | none => rfl
  | some st => exact h st (List.mem_of_getElem? hst)

theorem Work.closeStage_closed {w : Work} {key lvl : Nat} {b : Bucket} (hb : w.bucket key = some b) (h : (b.stage lvl).isOpen = false) :
    w.closeStage key lvl = w := by
  simp only [Work.closeStage, hb, h, Bool.not_false, if_true]

section
variable {w : Work} {key : Nat} {b : Bucket} (hb : w.bucket key = some b) (hdone : b.done = false)
include hb

theorem Work.bucketOver_unwritten (h : ∃ i < b.segs, i ∉ b.written) : w.bucketOver key = w := by
  obtain ⟨i, hi, hwritten⟩ := h
  have hall : (List.range b.segs).all (fun s => b.written.contains s) = false :=
    List.all_eq_false.mpr ⟨i, List.mem_range.mpr hi, by simp [hwritten]⟩
  simp only [Work.bucketOver, hb, hall, Bool.not_false, Bool.or_true, if_true]

include hdone in
theorem Work.bucketOver_written (hclosed : ∀ st ∈ b.stages, st.isOpen = false) (h : ∀ i < b.segs, i ∈ b.written) :
    w.bucketOver key = (w.setBucket key { b with done := true }).completeSlot (key / 4096) (key % 4096) := by
  have hall : (List.range b.segs).all (fun s => b.written.contains s) = true :=
    List.all_eq_true.mpr fun i hi => by simpa using h i (List.mem_range.mp hi)
  have hclose : ∀ lvl, w.closeStage key lvl = w := fun lvl => Work.closeStage_closed hb (Bucket.stage_closed hclosed lvl)
  simp only [Work.bucketOver, hb, hdone, hall, hclose, Work.onBucket, Bool.not_true, Bool.or_false, Bool.false_eq_true, if_false]

end

section
variable {s : State} {c : Fin 1024} {slot : Nat} {b : Bucket} (halive : s.board.alive = true) (hslot : slot < 4096)
  (hb : s.work.bucket (4096 * c.val + slot) = some b) (hdone : b.done = false)
include halive hslot hb hdone

omit hdone in
theorem gives_bucketDone_unwritten (h : ∃ i < b.segs, i ∉ b.written) : Gives (.bucketDone c slot) s s.work := by
  refine gives_of_run (execBucketDone.eq_1 c slot s) halive ?_
  rw [if_pos hslot, Work.bucketOver_unwritten hb h]

theorem leads_bucketDone_written (hclosed : ∀ st ∈ b.stages, st.isOpen = false) (h : ∀ i < b.segs, i ∈ b.written)
    (hrun : (s.work.cox c.val).state slot ≠ 3) :
    Leads (.bucketDone c slot) s (fun w => w.bucket (4096 * c.val + slot) = some { b with done := true } ∧
      (w.cox c.val).state slot = 3) := by
  set key := 4096 * c.val + slot with hkey
  set v := s.work.setBucket key { b with done := true }
  obtain ⟨hstate, hred⟩ := Work.completeSlot_completes (w := v) hrun
  refine ⟨v.completeSlot c.val slot, gives_of_run (execBucketDone.eq_1 c slot s) halive ?_,
    (Work.bucket_congr hred key).trans (s.work.bucket_setBucket_same key _), hstate⟩
  rw [if_pos hslot, ← hkey, Work.bucketOver_written hb hdone hclosed h, show key / 4096 = c.val by omega,
    show key % 4096 = slot by omega]

end

end Sys2Proof.Machine
end

section
/-! ### A packet that leaves at once (R340)

At a port that is up, sends no packet before it and waits for nothing, a packet of class 2 goes out in the step that makes it. -/

namespace Sys2Proof.Machine

/-- A port with nothing to send and nothing that keeps it from sending, and no direct link's replay. -/
structure Work.PortIdle (w : Work) (k : Nat) : Prop where
  up : w.portUp k = true
  queue : (w.link k).queue = []
  paused : (w.link k).paused = []
  answers : (w.link k).answers = []
  direct : w.direct k = false

/-- Of the registers a port reads as it sends a frame, none differs. -/
structure Work.SamePort (w v : Work) (k : Nat) : Prop where
  sec : v.sec = w.sec
  status : v.rd (LINK_STATUS k) = w.rd (LINK_STATUS k)
  cfg : v.rd (LINK_CFG k) = w.rd (LINK_CFG k)
  udp : v.rd ROSDER_CFG = w.rd ROSDER_CFG

section
variable {w v : Work} {k : Nat} {p : Packet}

theorem Work.encapOf_congr (h : w.SamePort v k) (hpn : (v.link k).pn = (w.link k).pn) : v.encapOf k p = w.encapOf k p := by
  simp only [Work.encapOf, Work.flag_congr h.cfg, Work.fld_congr h.cfg, Work.fld_congr h.udp, hpn]

theorem Work.PortIdle.congr (hi : w.PortIdle k) (h : w.SamePort v k) (hlinks : v.links = w.links) : v.PortIdle k := by
  have hlink : v.link k = w.link k := by rw [Work.link, hlinks, Work.link]
  refine ⟨?_, ?_, ?_, ?_, ?_⟩
  · rw [Work.portUp_congr h.sec h.status h.cfg, hi.up]
  · rw [hlink, hi.queue]
  · rw [hlink, hi.paused]
  · rw [hlink, hi.answers]
  · rw [Work.direct, Work.flag_congr h.status, ← Work.direct, hi.direct]

/-- The one packet that waits is the next to go. -/
theorem Work.nextOut_only (hq : (w.link k).queue = [p]) (htype : p.type ≠ 8) (hclass : p.tc = 2) (hs : w.sendable k p = true) :
    w.nextOut k = some p := by
  have hfirst : ∀ c, c ≠ 8 → w.firstOf k c = if c = 2 then some p else none := by
    intro c hc
    by_cases h : c = 2
    · simp [Work.firstOf, hq, htype, hclass, h, hs]
    · simp [Work.firstOf, hq, hclass, hc, h, Ne.symm h]
  have hcontrol : w.firstOf k 8 = none := by simp [Work.firstOf, hq, htype]
  have hturn : turnClass (w.link k).turn ≠ 8 := by
    unfold turnClass
    split <;> [skip; split] <;> decide
  by_cases h2 : turnClass (w.link k).turn = 2 <;>
    simp [Work.nextOut, hcontrol, hfirst _ hturn, hfirst 0 (by decide), hfirst 1 (by decide), hfirst 2 (by decide), h2]

theorem Work.pumpHost_unanswered (h : (w.link k).answers = []) : (w.pumpHost k).out = w.out ∧ ∀ a, (w.pumpHost k).rd a = w.rd a := by
  unfold Work.pumpHost
  extract_lets l held
  split
  · exact ⟨rfl, fun _ => rfl⟩
  · rw [show l.answers = [] from h]
    exact ⟨rfl, fun _ => rfl⟩

/-- A frame that goes: what it carries, and what sending it changes of registers and answers. -/
structure Work.Emits (w : Work) (k : Nat) (p : Packet) (v : Work) : Prop where
  out : ∃ q, v.out = w.out ++ [.packet k q (w.encapOf k q)] ∧ q.type = p.type ∧ q.payload = p.payload
  rd : ∀ a, a ≠ TX_FRAME_CNT k → v.rd a = w.rd a

theorem Work.putFrame_emits (w : Work) (k : Nat) (p : Packet) : w.Emits k p (w.putFrame k p) ∧
    ((w.putFrame k p).link k).answers = (w.link k).answers := by
  refine ⟨⟨⟨w.stamp p, rfl, rfl, rfl⟩, fun a ha => ?_⟩, ?_⟩
  · exact (Work.rd_inc_ne _ _ ha).trans (Work.rd_congr rfl a)
  · unfold Work.putFrame
    extract_lets q l e
    exact (congrArg Link.answers (Work.link_setLink_same w k _) :)

theorem Work.sendNow_emits (hd : w.direct k = false) : w.Emits k p (w.sendNow k p) ∧
    ((w.sendNow k p).link k).answers = (w.link k).answers := by
  obtain ⟨⟨⟨q, hout, htype, hpayload⟩, hrd⟩, hanswers⟩ :=
    Work.putFrame_emits (w.setLink k (w.link k)) k { p with lseq := 0, lack := 0 }
  have hencap : (w.setLink k (w.link k)).encapOf k q = w.encapOf k q :=
    Work.encapOf_congr ⟨rfl, rfl, rfl, rfl⟩ (congrArg Link.pn (Work.link_setLink_same ..))
  have heq : w.sendNow k p = ((w.setLink k (w.link k)).putFrame k { p with lseq := 0, lack := 0 }).progress (1040 + k) := by
    simp only [Work.sendNow, hd, Bool.false_eq_true, if_false]
  rw [heq]
  refine ⟨⟨⟨q, hout.trans ?_, htype, hpayload⟩, hrd⟩, hanswers.trans ?_⟩
  · rw [hencap]
    rfl
  · rw [Work.link_setLink_same]

theorem Work.xmit_emits (hi : w.PortIdle k) (htype : p.type ≠ 8) (hclass : p.tc = 2) : w.Emits k p (w.xmit k p) := by
  set u := (w.progress (1040 + k)).setLink k { w.link k with queue := [p] } with hu
  have hlink : u.link k = { w.link k with queue := [p] } := Work.link_setLink_same ..
  have hxmit : w.xmit k p = u.pump k := by
    simp only [Work.xmit, hi.direct, hi.queue, Bool.and_false, Bool.false_and, Work.when_false, List.isEmpty_nil, Work.when_true,
      List.nil_append]
    rfl
  have hpaused : u.pausedFor k p = false := by
    simp only [Work.pausedFor, hlink, hi.paused]
    exact Bool.and_false _
  have hsend : u.sendable k p = true := by
    have hup : u.portUp k = true := (Work.portUp_congr rfl rfl rfl).trans hi.up
    have hdirect : u.direct k = false := hi.direct
    simp only [Work.sendable, hup, hpaused, hdirect, Bool.not_false, Bool.true_or, Bool.and_self]
  have hnext : u.nextOut k = some p := Work.nextOut_only (by rw [hlink]) htype hclass hsend
  set turn := if p.type != 8 && decide (2 ≤ p.tc) then (u.link k).turn + 1 else (u.link k).turn
  set v := u.setLink k { u.link k with queue := (u.link k).queue.erase p, turn := turn } with hv
  have hvlink : v.link k = { u.link k with queue := (u.link k).queue.erase p, turn := turn } := Work.link_setLink_same ..
  have hpump : u.pump k = (v.sendNow k p).pumpHost k := by
    have hone : (u.link k).queue.length = 1 := by rw [hlink]; rfl
    rw [Work.pump, hone]
    simp only [pumpN, hnext]
    rfl
  obtain ⟨⟨⟨q, hout, hqtype, hqpayload⟩, hrd⟩, hanswers⟩ := Work.sendNow_emits (w := v) (k := k) (p := p) hi.direct
  have hnone : ((v.sendNow k p).link k).answers = [] := by
    rw [hanswers, hvlink, hlink]
    exact hi.answers
  obtain ⟨hout', hrd'⟩ := Work.pumpHost_unanswered hnone
  have hencap : v.encapOf k q = w.encapOf k q := Work.encapOf_congr ⟨rfl, rfl, rfl, rfl⟩ (by rw [hvlink, hlink])
  rw [hxmit, hpump]
  refine ⟨⟨q, ?_, hqtype, hqpayload⟩, fun a ha => (hrd' a).trans (hrd a ha)⟩
  rw [hout', hout, hencap]
  rfl

end

end Sys2Proof.Machine
end

section
/-! ### A RING packet at a member that does not own its shard (R374, R378)

It goes on with this device's segment added and one more hop. -/

namespace Sys2Proof.Machine

/-- The places, among a unit's registers, of the counters that ring work counts beside its packets. -/
def ringCounters : List Nat := [0x4c, 0xa10, 0x1008, 0x1014]

theorem mem_ringCounters {o : Nat} : o ∈ ringCounters ↔ o = 0x4c ∨ o = 0xa10 ∨ o = 0x1008 ∨ o = 0x1014 := by simp [ringCounters]

/-- Ring work was counted: of registers only such counters differ, and nothing else. -/
structure Work.RingCounted (w v : Work) : Prop where
  rest : v = { w with regs := v.regs }
  rd : ∀ a, a % 0x4000 ∉ ringCounters → v.rd a = w.rd a

namespace Work.RingCounted

variable {u v w : Work}

theorem refl (w : Work) : w.RingCounted w := ⟨rfl, fun _ _ => rfl⟩

theorem trans (h : u.RingCounted v) (k : v.RingCounted w) : u.RingCounted w :=
  ⟨by rw [k.rest, h.rest], fun a ha => (k.rd a ha).trans (h.rd a ha)⟩

theorem incBy (w : Work) {c : Nat} (hc : c % 0x4000 ∈ ringCounters) (n : Nat) : w.RingCounted (w.incBy c n) :=
  ⟨rfl, fun a ha => Work.rd_incBy_ne _ _ _ fun e : a = c => ha (e ▸ hc)⟩

theorem whenInc (w : Work) {c : Nat} (hc : c % 0x4000 ∈ ringCounters) (x : Bool) : w.RingCounted (w.when x (·.inc c)) := by
  cases x with
  | true => exact .incBy w hc 1
  | false => exact .refl w

theorem samePort (h : w.RingCounted v) (k : Nat) : w.SamePort v k where
  sec := (congrArg Work.sec h.rest :)
  status := h.rd _ (by simp only [LINK_STATUS, linkBase, mem_ringCounters]; omega)
  cfg := h.rd _ (by simp only [LINK_CFG, linkBase, mem_ringCounters]; omega)
  udp := h.rd _ (by decide)

end Work.RingCounted

theorem Work.poisonReads_ringCounted (w : Work) (a n : Nat) : w.RingCounted (w.poisonReads a n) :=
  ⟨w.poisonReads_frame a n, fun b hb => w.rd_poisonReads a n fun m _ e => hb (by
    rw [e]
    simp only [POISON_RD_CNT, memcBase, mem_ringCounters]
    omega)⟩

theorem Bucket.readsSegs_ringCounted (b : Bucket) (lvl : Nat) (ss : List Nat) (w : Work) : w.RingCounted (b.readsSegs lvl ss w) :=
  List.foldlRecOn (motive := w.RingCounted) _ _ (.refl w) fun v hv _ _ => hv.trans (v.poisonReads_ringCounted _ _)

theorem Work.contribSeg_congr {v w : Work} (hmem : v.mem = w.mem) (hpoison : v.poison = w.poison) (a : Nat) :
    v.contribSeg a = w.contribSeg a := by
  have hmap : v.mapOf a 4096 = w.mapOf a 4096 := by simp only [Work.mapOf, Work.poisoned_congr hpoison]
  have hwords : v.wordsAt a 1024 = w.wordsAt a 1024 :=
    List.map_congr_left fun i _ => congrArg (BitVec.ofNat 32) (Work.num_congr hmem _ _)
  rw [Work.contribSeg, Work.contribSeg, hmap, hwords]

/-! The packet that goes on. -/

/-- The RING packet made of segments and their sums. -/
def Bucket.ringOut (b : Bucket) (lvl shard : Nat) (gather redo : Bool) (fmt : Nat) (ss : List Nat) (vals : List (Int × List Word × Nat))
    (hops xmax : Nat) : Ring :=
  let q := narrowPacket fmt vals
  let xm := if gather then 0 else max xmax (min 127 q.2.1)
  { bucket := b.num, level := lvl, gather := gather, notice := false, redo := redo, seg := ss.headD 0, nseg := ss.length, shard := shard,
    hops := hops, xexp := if fmt = 2 then vals.map (·.1) else [], data := q.1, map := q.2.2.2, job := b.job, gen := b.gen,
    ovf := xm ≠ 0, xmax := xm, intact := true }

section
variable {w : Work} {key : Nat} {b : Bucket}

theorem Work.sendRing_emits {r : Ring} (hi : w.PortIdle (b.stage r.level).tx) :
    ∃ p : Packet, p.type = 9 ∧ p.payload = r.payload ∧ w.Emits (b.stage r.level).tx p (w.sendRing b r) :=
  ⟨_, rfl, rfl, Work.xmit_emits hi (by simp [Work.mkPkt]) rfl⟩

theorem Work.ringPacket_emits (w : Work) (key : Nat) (b : Bucket) (lvl shard : Nat) (gather redo : Bool) (fmt : Nat) (ss : List Nat)
    (vals : List (Int × List Word × Nat)) (hops xmax : Nat) : ∃ v, w.RingCounted v ∧
      w.ringPacket key b lvl shard gather redo fmt ss vals hops xmax =
        v.sendRing b (b.ringOut lvl shard gather redo fmt ss vals hops xmax) := by
  refine ⟨(w.countSat key (narrowPacket fmt vals).2.2.1).when ((narrowPacket fmt vals).2.1 ≠ 0 && !gather)
    (·.inc (ADD_SAT_CNT (b.stage lvl).rx)), .trans (.incBy w ?_ _) (.whenInc _ ?_ _), rfl⟩
  · simp only [SAT_BLK_CNT, coreBase, mem_ringCounters]
    omega
  · simp only [ADD_SAT_CNT, linkBase, mem_ringCounters]
    omega

/-- This device's segments read for a RING packet. -/
def Work.ringRead (w : Work) (k : Nat) (b : Bucket) (r : Ring) : Work :=
  (b.readsSegs r.level (segsOf (r.seg, r.nseg)) w).when (r.map ≠ 0) (·.inc (ADD_POISON_CNT k))

/-- The sums of a RING packet's segments and this device's. -/
def Work.ringSums (w : Work) (b : Bucket) (r : Ring) : List (Int × List Word × Nat) :=
  ((segsOf (r.seg, r.nseg)).zipIdx).map (fun q =>
    let a := r.values (levelFmt r.level) q.2
    let o := w.contribSeg (b.inputAt r.level q.1)
    (r.xexp.getD q.2 0, a.1.zipWith fadd o.1, a.2 ||| o.2))

variable {k : Nat} {r : Ring}

theorem Work.ringRead_ringCounted (w : Work) (k : Nat) (b : Bucket) (r : Ring) : w.RingCounted (w.ringRead k b r) := by
  refine (b.readsSegs_ringCounted _ _ w).trans (.whenInc _ ?_ _)
  simp only [ADD_POISON_CNT, linkBase, mem_ringCounters]
  omega

theorem Work.ringSums_congr {v : Work} (hmem : v.mem = w.mem) (hpoison : v.poison = w.poison) : v.ringSums b r = w.ringSums b r :=
  List.map_congr_left fun q _ => by
    dsimp only
    rw [Work.contribSeg_congr hmem hpoison]

theorem Work.ringReduce_forwards (h : (b.stage r.level).pos ≠ r.shard) : w.ringReduce k key b r =
    ((w.inc (ADD_PKT_CNT k)).ringRead k b r).ringPacket key b r.level r.shard false r.redo (levelFmt r.level) (segsOf (r.seg, r.nseg))
      (((w.inc (ADD_PKT_CNT k)).ringRead k b r).ringSums b r) (r.hops + 1) (if r.ovf then r.xmax else 0) := if_neg h

theorem Work.ringIn_reduces {p : Packet} (hr : ringOf p = some r) (hst : w.ringStage k r = some (key, b)) (hfits : r.fits b = true)
    (hok : r.intact = true) (hgather : r.gather = false) : w.ringIn k p = w.ringReduce k key b r := by
  simp only [Work.ringIn, hr, hst, hfits, hok, hgather, Bool.not_true, Bool.false_eq_true, if_false, if_true]

/-- What a port has to send it sends, counts of registers beside. -/
theorem Work.ringReduce_emits (h : (b.stage r.level).pos ≠ r.shard) (hi : w.PortIdle (b.stage r.level).tx) :
    let r' := b.ringOut r.level r.shard false r.redo (levelFmt r.level) (segsOf (r.seg, r.nseg)) (w.ringSums b r) (r.hops + 1)
      (if r.ovf then r.xmax else 0)
    (∃ q, (w.ringReduce k key b r).out = w.out ++ [.packet (b.stage r.level).tx q (w.encapOf (b.stage r.level).tx q)] ∧ q.type = 9 ∧
      q.payload = r'.payload) ∧
    (w.ringReduce k key b r).rd (ADD_PKT_CNT k) = min (w.rd (ADD_PKT_CNT k) + 1) 0xFFFFFFFF := by
  intro r'
  set tx := (b.stage r.level).tx
  set u := w.inc (ADD_PKT_CNT k) with hu
  have hread := u.ringRead_ringCounted k b r
  have hsums : (u.ringRead k b r).ringSums b r = w.ringSums b r :=
    Work.ringSums_congr (congrArg Work.mem hread.rest :) (congrArg Work.poison hread.rest :)
  obtain ⟨v, hv, hmade⟩ := Work.ringPacket_emits (u.ringRead k b r) key b r.level r.shard false r.redo (levelFmt r.level)
    (segsOf (r.seg, r.nseg)) (w.ringSums b r) (r.hops + 1) (if r.ovf then r.xmax else 0)
  have hcounted := hread.trans hv
  have hstep : w.SamePort u tx := by
    refine ⟨rfl, Work.rd_inc_ne _ _ ?_, Work.rd_inc_ne _ _ ?_, Work.rd_inc_ne _ _ ?_⟩ <;>
      simp only [LINK_STATUS, LINK_CFG, ROSDER_CFG, ADD_PKT_CNT, linkBase] <;> omega
  have hport := hcounted.samePort tx
  have hsame : w.SamePort v tx :=
    ⟨hport.sec.trans hstep.sec, hport.status.trans hstep.status, hport.cfg.trans hstep.cfg, hport.udp.trans hstep.udp⟩
  have hlinks : v.links = w.links := (congrArg Work.links hcounted.rest :)
  obtain ⟨p, htype, hpayload, ⟨q, hout, hqtype, hqpayload⟩, hrd⟩ :=
    Work.sendRing_emits (w := v) (b := b) (r := r') (hi.congr hsame hlinks)
  have hencap : v.encapOf tx q = w.encapOf tx q :=
    Work.encapOf_congr hsame (by rw [Work.link, hlinks, Work.link])
  rw [Work.ringReduce_forwards h, ← hu, hsums, hmade]
  refine ⟨⟨q, ?_, hqtype.trans htype, hqpayload.trans hpayload⟩, ?_⟩
  · rw [hout, (congrArg Work.out hcounted.rest :)]
    exact congrArg (fun e => w.out ++ [Out.packet tx q e]) hencap
  · rw [hrd _ (by simp only [ADD_PKT_CNT, TX_FRAME_CNT, linkBase]; omega),
      hcounted.rd _ (by simp only [ADD_PKT_CNT, linkBase, mem_ringCounters]; omega), hu, Work.rd_inc_same]

theorem Work.ringReduce_routed (h : (b.stage r.level).pos ≠ r.shard) : w.Routed (fun _ => True) (w.ringReduce k key b r) := by
  rw [Work.ringReduce_forwards h]
  exact ((Work.Routed.incBy w _ 1).trans (.of_regs (Work.ringRead_ringCounted _ k b r).rest)).trans (Work.ringPacket_routed ..)

end

/-! The command. -/

theorem ringOf_nseg {p : Packet} {r : Ring} (h : ringOf p = some r) : r.nseg ≠ 0 := by
  unfold ringOf at h
  extract_lets l phase n data at h
  split at h
  · cases h
  · rename_i hgood
    simp only [Bool.or_eq_true, decide_eq_true_eq, not_or] at hgood
    cases h
    exact hgood.1.1.1.2

theorem Ring.fits_level {r : Ring} {b : Bucket} (h : r.fits b = true) (hone : b.stages.length = 1) : r.level = 0 := by
  simp only [Ring.fits, Bool.and_eq_true, decide_eq_true_eq] at h
  omega

theorem segsOf_head {a n : Nat} (h : n ≠ 0) : (segsOf (a, n)).headD 0 = a ∧ (segsOf (a, n)).length = n := by
  obtain ⟨m, rfl⟩ := Nat.exists_eq_succ_of_ne_zero h
  simp [segsOf, List.range_succ_eq_map]

theorem leads_ringPacket_forwarded {s : State} {k : Fin 40} {p : Packet} {r : Ring} {key : Nat} {b : Bucket} (hr : s.Receives k p 9)
    (hof : ringOf p = some r) (hred : s.work.red = { buckets := [(key, b)] }) (hone : b.stages.length = 1)
    (hheld : ∀ j < 36, (s.work.link j).held = []) (hst : s.work.ringStage k.val r = some (key, b)) (hfits : r.fits b = true)
    (hok : r.intact = true) (hgather : r.gather = false) (hpos : (b.stage 0).pos ≠ r.shard) (hi : s.work.PortIdle (b.stage 0).tx) :
    Leads (.ringPacket k p) s (fun w => w.mem = s.work.mem ∧
      w.rd (ADD_PKT_CNT k.val) = min (s.work.rd (ADD_PKT_CNT k.val) + 1) 0xFFFFFFFF ∧
      ∃ (q : Packet) (r' : Ring), w.out = s.work.out ++ [Out.packet (b.stage 0).tx q (s.work.encapOf (b.stage 0).tx q)] ∧ q.type = 9 ∧
        q.payload = Ring.payload r' ∧ r'.hops = r.hops + 1 ∧ r'.shard = r.shard ∧ r'.seg = r.seg ∧ r'.nseg = r.nseg ∧
        r'.gather = false ∧ r'.data = (narrowPacket 1 (s.work.ringSums b r)).1) := by
  obtain ⟨halive, harr, hacc, -⟩ := hr
  have hlevel := Ring.fits_level hfits hone
  rw [← hlevel] at hpos hi ⊢
  have hroute := Work.ringReduce_routed (w := s.work) (k := k.val) (key := key) hpos
  obtain ⟨⟨q, hout, htype, hpayload⟩, hcount⟩ := Work.ringReduce_emits (k := k.val) (key := key) hpos hi
  obtain ⟨hseg, hnseg⟩ := segsOf_head (a := r.seg) (ringOf_nseg hof)
  have hfmt : levelFmt r.level = 1 := by rw [hlevel]; rfl
  have hgo : (s.work.ringReduce k.val key b r).redGo = s.work.ringReduce k.val key b r :=
    Work.redGo_of_unheld (by rw [hroute.red, hred]) (by rw [hroute.red, hred]) fun j hj => by rw [hroute.held, hheld j hj]
  refine ⟨s.work.ringReduce k.val key b r, gives_of_run (execRingPacket.eq_1 k p s) halive ?_, hroute.mem, hcount,
    q, _, hout, htype, hpayload, rfl, rfl, hseg, hnseg, rfl, ?_⟩
  · rw [if_pos (by rw [harr, hacc]; rfl), Work.ringIn_reduces hof hst hfits hok hgather, hgo]
  · rw [hfmt]
    rfl

end Sys2Proof.Machine
end

section
/-! ### Reductions (R315 to R322, R326, R374 to R388) -/

namespace Sys2Proof.Machine

/-- A contribution that arrived is bad by its poison map alone. -/
theorem contribBad_iff {p : Packet} {c : Contribution} (h : contribOf p false = some c) : contribBad c = true ↔ c.poisonMap ≠ 0 := by
  rw [contribBad, (contribOf_some h).2, Bool.false_or, decide_eq_true_eq]

theorem Work.sumOf_arrived (w : Work) {p : Packet} {c : Contribution} (h : contribOf p false = some c) : w.sumOf c =
    (let vs := if c.poisonMap = 0 then contribValues c else List.replicate 1024 0
     if c.seq = 0 then vs else (w.wordsAt c.dest 1024).zipWith fadd vs) := by
  by_cases hmap : c.poisonMap = 0
  · have hgood : contribBad c ≠ true := fun hbad => (contribBad_iff h).mp hbad hmap
    simp only [Work.sumOf, hgood, hmap, if_true, Bool.false_eq_true, if_false]
  · simp only [Work.sumOf, (contribBad_iff h).mpr hmap, hmap, if_true, if_false]

/-- Settles O29: contributions by their turn, RING packets and stages, buckets, and the exchange of exponents. That a poisoned
contribution counts as +0 over its whole segment, with its lines marked, is the model's choice (log 78). -/
theorem reductionsAddTravelAndComplete : Obligations.ReductionsAddTravelAndComplete := by
  refine ⟨?contribution, ⟨?held, ?forwarded, ?opened, ?done⟩, ?report, ?update, ?redo⟩
  case contribution =>
    intro s k p c hr hc hwf hred hheld
    refine ⟨leads_acc_parked hr hred hheld, fun hserved hsum hfirst => ?_, fun hserved hsum => ?_⟩
    · exact leads_acc_again hr hc hwf hred hheld hserved (Bool.eq_false_iff.mpr (hsum ∘ (contribChecks_iff hc).mp)) hfirst
    · intro m t next hnone hcount hroom
      have hok := (contribChecks_iff hc).mpr hsum
      refine ⟨fun hturn hapart => ?_, leads_acc_held hr hc hwf hred hheld hserved hok hnone hcount hroom⟩
      obtain ⟨w, hg, hwords, hrest⟩ := leads_acc_turn hr hc hwf hred hheld hserved hok hnone hcount hroom hturn hapart
      exact ⟨w, hg, hwords.trans (s.work.sumOf_arrived hc), hrest⟩
  case held => exact fun s k p r => leads_ringPacket_held
  case forwarded =>
    intro s k p r key b hr hof hred hone hheld hst hfits hok hgather hpos _ tx hup hqueue hpaused hanswers hdirect
    have hlevel := Ring.fits_level hfits hone
    have hsums : s.work.ringSums b r = ((segsOf (r.seg, r.nseg)).zipIdx).map (fun q =>
        let a := r.values 1 q.2
        let o := s.work.contribSeg (b.inputAt 0 q.1)
        (r.xexp.getD q.2 0, a.1.zipWith fadd o.1, a.2 ||| o.2)) := by
      rw [Work.ringSums, hlevel]
      rfl
    dsimp only
    rw [← hsums]
    exact leads_ringPacket_forwarded hr hof hred hone hheld hst hfits hok hgather hpos ⟨hup, hqueue, hpaused, hanswers, hdirect⟩
  case opened => exact fun s c slot b st halive _ => leads_adderStageOpen halive
  case done =>
    intro s c slot b halive hslot hb hdone hclosed
    exact ⟨gives_bucketDone_unwritten halive hslot hb, leads_bucketDone_written halive hslot hb hdone hclosed⟩
  case report => exact fun s k p c es => gives_scaleReport
  case update =>
    exact fun s k p c es hh hmgr hes => ⟨leads_scaleUpdate_ahead hh hmgr hes, leads_scaleUpdate_late hh hmgr hes⟩
  case redo => exact fun s k p c key b st0 st1 => leads_redo

end Sys2Proof.Machine
end
